-- ==== Sys2Proof/Word.lean ====
section
/-!
DEFINITION. The word types of the NX9440 and the plainest readings of them: a general register
and an address are 64 bits, a vector register is 1,024 bits (R173), a byte is 8 bits.
-/

namespace Sys2Proof

/-- A general register, a program counter or a generic address (R173, R139). -/
abbrev Word := BitVec 64

/-- One byte of any memory. -/
abbrev Byte := BitVec 8

/-- A vector register, or one 128-byte line (R173, R121). -/
abbrev Vec := BitVec 1024

/-- All ones, the value p7 reads as (R173, R188). -/
def ones : Word := BitVec.allOnes 64

/-- A natural number read modulo 2^64. -/
def word (n : Nat) : Word := BitVec.ofNat 64 n

/-- The 64-bit pattern read as a signed integer (R188). -/
def sgn (x : Word) : Int := x.toInt

/-- An integer wrapped to 64 bits (R187). -/
def wrap64 (x : Int) : Word := BitVec.ofInt 64 x

/-- A truth value as a bit. -/
def bit (b : Bool) : Nat := if b then 1 else 0

end Sys2Proof
end

