-- ==== Sys2Proof/Syntax.lean ====
section
/-!
DEFINITION. The instructions of the NX9440, one constructor for each row of spec/opcode_table.json:
the instructions a core decodes (R38 to R62), the chunk instructions the front-end sequencer runs
(R63, R64), and the whole, indivisible steps the other units of the part take
(spec/95_what_each_step_holds.md). Register fields carry exactly the bits that name a register of
their file (R42), so no constructor can name one outside it.
-/

namespace Sys2Proof

/-- A general register field: any of g0 to g63 (R42). -/
abbrev Reg := BitVec 6
/-- A predicate register field: p0 to p7 (R42). -/
abbrev PReg := BitVec 3
/-- A vector register field: v0 to v31 (R42). -/
abbrev VReg := BitVec 5
/-- A tile register field: T0 to T15 (R42). -/
abbrev TReg := BitVec 4

/-- The retention hints of R43: DF, SL, LL and BY. -/
inductive Hint where
  | df | sl | ll | byp
  deriving DecidableEq, Repr, Inhabited

/-- The guard of an extended or J-format instruction: predicate index and sense (R46). -/
structure Guard where
  /-- GP, the predicate index. -/
  gp : PReg
  /-- GS: true tests for ones, false for the complement. -/
  gs : Bool
  deriving DecidableEq, Repr, Inhabited

/-- The immediate of an I-format scalar half: the 12-bit field or the 64-bit literal (R40). -/
inductive Imm where
  | short (imm : BitVec 12)
  | lit (lit : BitVec 64)
  deriving DecidableEq, Repr, Inhabited

/-- The two-register integer operations of R189. -/
inductive RROp where
  | add | sub | mul | mulh | mulhw | and | or | xor | andn | orn
  | shl | shr | sra | rot | min | max | minw | maxw
  deriving DecidableEq, Repr, Inhabited

/-- The bit counting and reordering operations of R191. -/
inductive ROp where
  | clz | ctz | popc | brev | bswp
  deriving DecidableEq, Repr, Inhabited

/-- The register compares of R196. -/
inductive CmpOp where
  | eq | ne | lt | le | ltw | lew
  deriving DecidableEq, Repr, Inhabited

/-- The predicate logic of R197. -/
inductive PLogOp where
  | and | or | xor
  deriving DecidableEq, Repr, Inhabited

/-- The immediate operations ADDI, ANDI, ORI and XORI of R190. -/
inductive IOp where
  | add | and | or | xor
  deriving DecidableEq, Repr, Inhabited

/-- The immediate shifts SHLI, SHRI, SRAI and ROTI of R190. -/
inductive ShOp where
  | shl | shr | sra | rot
  deriving DecidableEq, Repr, Inhabited

/-- The divides of R194. -/
inductive DivOp where
  | div | divw | rem | remw
  deriving DecidableEq, Repr, Inhabited

/-- The scalar operations that only read and write registers: those of major opcodes 0x00, 0x01,
0x03 to 0x05, 0x08 to 0x0F and 0x10 to 0x17, the operations a pair's scalar half may be (R54). -/
inductive SHalf where
  | rr (op : RROp) (d a b : Reg)
  | r1 (op : ROp) (d a : Reg)
  | cmp (op : CmpOp) (d : PReg) (a b : Reg)
  | plog (op : PLogOp) (d a b : PReg)
  | pnot (d a : PReg)
  | sel (d a b : Reg) (p : PReg)
  | nrand (d a b : Reg)
  | imm (op : IOp) (d a : Reg) (c : Imm)
  | sh (op : ShOp) (d a : Reg) (n : BitVec 6)
  | peqi (d : PReg) (a : Reg) (c : Imm)
  | plti (d : PReg) (a : Reg) (c : Imm)
  | bfx (d a : Reg) (pos wm1 : BitVec 6)
  | bfi (d a : Reg) (pos wm1 : BitVec 6)
  | exts (d a : Reg) (wm1 : BitVec 6)
  | extz (d a : Reg) (wm1 : BitVec 6)
  | movl (d : Reg) (c : Imm)
  | addpc (d : Reg) (c : Imm)
  deriving DecidableEq, Repr, Inhabited

/-- The one-source vector operations (R211, R213, R221). -/
inductive V1Op where
  | vsqrt | vrsq | vabs | vneg | vmov
  deriving DecidableEq, Repr, Inhabited

/-- The two-source vector operations (R211, R212, R219 to R221). -/
inductive V2Op where
  | vadd | vsub | vmul | vdiv | vmin | vmax | viadd | visub | vimul
  | vand | vor | vxor | vshl | vshr | vsra | vperm
  deriving DecidableEq, Repr, Inhabited

/-- The three-source vector operations (R211, R212, R219). -/
inductive V3Op where
  | vfma | vfms | vfnma | vclamp | vimad
  deriving DecidableEq, Repr, Inhabited

/-- The lane reductions (R218). -/
inductive VRedOp where
  | vrsum | vrmin | vrmax
  deriving DecidableEq, Repr, Inhabited

/-- The vector half of a pair (R54, R55): a V-class operation of D, A, B, C and TY, with RM when it
rounds. `rm` is zero for the operations that take no rounding mode (R209). -/
inductive VHalf where
  | v1 (op : V1Op) (ty : BitVec 4) (d a : VReg)
  | v2 (op : V2Op) (ty : BitVec 4) (rm : BitVec 2) (d a b : VReg)
  | v3 (op : V3Op) (ty : BitVec 4) (rm : BitVec 2) (d a b c : VReg)
  | vcmp (ty : BitVec 4) (rel : BitVec 3) (d : PReg) (a b : VReg)
  | vsel (ty : BitVec 4) (d a b : VReg) (p : PReg)
  deriving DecidableEq, Repr, Inhabited

/-- The fields of a data chunk instruction (R64). -/
structure ChunkData where
  ba : BitVec 2
  bb : BitVec 2
  peer : BitVec 16
  prel : Bool
  cidx : BitVec 12
  clen : BitVec 8
  tag : BitVec 7
  cstep : BitVec 8
  deriving DecidableEq, Repr, Inhabited

/-- Who asks for a register access: a core's privileged code, the host through PCIe function 0 or 1,
or a management core (R422). `secure` is the requester's world. -/
inductive Requester where
  | core (secure : Bool)
  | host (function1 : Bool)
  | mgmt
  deriving DecidableEq, Repr, Inhabited

/-- The world of a requester: true is S (R422). -/
def Requester.secure : Requester → Bool
  | .core b => b
  | .host f => f
  | .mgmt => true

/-- A host request (R428): through BAR2 an access of `n` bytes at device address `pa`, through BAR0 one of a register's 8
bytes at the system-space offset `pa`. -/
structure HostReq where
  bar0 : Bool := false
  function1 : Bool
  write : Bool
  pa : Nat
  n : Nat
  data : Nat
  deriving DecidableEq, Repr, Inhabited

/-- One write to the Harpin route table (R435): destination package, header word, OUT and V. -/
structure RouteWrite where
  pkg : BitVec 16
  hdr : BitVec 64
  v : Bool
  out : BitVec 4
  deriving DecidableEq, Repr, Inhabited

/-- Why an instruction fetch failed (R402). -/
inductive FetchWhy where
  | aperture | poison | refused
  | walk (reason : BitVec 2)
  deriving DecidableEq, Repr, Inhabited

/-- An instruction or a whole step of the part: one constructor per row of the opcode table. -/
inductive Instr where
  /-- ADD (R189): Writes the 64-bit wrapped sum of two general registers. -/
  | add (d a b : Reg)
  /-- SUB (R189): Writes the 64-bit wrapped difference of two general registers. -/
  | sub (d a b : Reg)
  /-- MUL (R189): Writes the low 64 bits of the product of two registers. -/
  | mul (d a b : Reg)
  /-- MULH (R189): Writes the high 64 bits of the signed 128-bit product. -/
  | mulh (d a b : Reg)
  /-- MULHW (R189): Writes the high 64 bits of the unsigned 128-bit product. -/
  | mulhw (d a b : Reg)
  /-- AND (R189): Writes the bitwise AND of two registers. -/
  | and (d a b : Reg)
  /-- OR (R189): Writes the bitwise OR of two registers. -/
  | or (d a b : Reg)
  /-- XOR (R189): Writes the bitwise XOR of two registers. -/
  | xor (d a b : Reg)
  /-- ANDN (R189): Writes a AND NOT b. -/
  | andn (d a b : Reg)
  /-- ORN (R189): Writes a OR NOT b. -/
  | orn (d a b : Reg)
  /-- SHL (R189): Shifts a left by b[5:0] with zeros entering. -/
  | shl (d a b : Reg)
  /-- SHR (R189): Shifts a right logically by b[5:0]. -/
  | shr (d a b : Reg)
  /-- SRA (R189): Shifts a right arithmetically by b[5:0]. -/
  | sra (d a b : Reg)
  /-- ROT (R189): Rotates a left by b[5:0]. -/
  | rot (d a b : Reg)
  /-- MIN (R189): Writes the signed minimum of two registers. -/
  | min (d a b : Reg)
  /-- MAX (R189): Writes the signed maximum of two registers. -/
  | max (d a b : Reg)
  /-- MINW (R189): Writes the unsigned minimum of two registers. -/
  | minw (d a b : Reg)
  /-- MAXW (R189): Writes the unsigned maximum of two registers. -/
  | maxw (d a b : Reg)
  /-- CLZ (R191): Counts leading zero bits. -/
  | clz (d a : Reg)
  /-- CTZ (R191): Counts trailing zero bits. -/
  | ctz (d a : Reg)
  /-- POPC (R191): Counts one bits. -/
  | popc (d a : Reg)
  /-- BREV (R191): Reverses the bit order of a register. -/
  | brev (d a : Reg)
  /-- BSWP (R191): Reverses the byte order of a register. -/
  | bswp (d a : Reg)
  /-- DIV (R194): Starts a long-latency signed division with lookahead window. -/
  | div (d a b : Reg) (la : BitVec 4)
  /-- DIVW (R194): Starts a long-latency unsigned division. -/
  | divw (d a b : Reg) (la : BitVec 4)
  /-- REM (R194): Starts a long-latency signed remainder. -/
  | rem (d a b : Reg) (la : BitVec 4)
  /-- REMW (R194): Starts a long-latency unsigned remainder. -/
  | remw (d a b : Reg) (la : BitVec 4)
  /-- PEQ (R196): Writes all ones or zeros to a predicate for equality of two registers. -/
  | peq (d : PReg) (a b : Reg)
  /-- PNE (R196): Writes a predicate for inequality of two registers. -/
  | pne (d : PReg) (a b : Reg)
  /-- PLT (R196): Writes a predicate for signed less-than. -/
  | plt (d : PReg) (a b : Reg)
  /-- PLE (R196): Writes a predicate for signed less-or-equal. -/
  | ple (d : PReg) (a b : Reg)
  /-- PLTW (R196): Writes a predicate for unsigned less-than. -/
  | pltw (d : PReg) (a b : Reg)
  /-- PLEW (R196): Writes a predicate for unsigned less-or-equal. -/
  | plew (d : PReg) (a b : Reg)
  /-- PAND (R197): Writes the AND of two predicates. -/
  | pand (d a b : PReg)
  /-- POR (R197): Writes the OR of two predicates. -/
  | por (d a b : PReg)
  /-- PXOR (R197): Writes the XOR of two predicates. -/
  | pxor (d a b : PReg)
  /-- PNOT (R197): Writes the complement of a predicate. -/
  | pnot (d a : PReg)
  /-- SEL (R195): Selects one of two registers by bit 0 of a predicate. -/
  | sel (d a b : Reg) (p : PReg)
  /-- NRAND (R204): Writes newel of a key and a counter. -/
  | nrand (d a b : Reg)
  /-- ADDI (R190): Adds a sign-extended 12-bit immediate to a register. -/
  | addi (d a : Reg) (imm : BitVec 12)
  /-- ADDI_LITERAL (R190): Adds a 64-bit literal to a register. -/
  | addiLiteral (d a : Reg) (lit : BitVec 64)
  /-- ANDI (R190): ANDs a register with a 12-bit immediate. -/
  | andi (d a : Reg) (imm : BitVec 12)
  /-- ANDI_LITERAL (R190): ANDs a register with a 64-bit literal. -/
  | andiLiteral (d a : Reg) (lit : BitVec 64)
  /-- ORI (R190): ORs a register with a 12-bit immediate. -/
  | ori (d a : Reg) (imm : BitVec 12)
  /-- ORI_LITERAL (R190): ORs a register with a 64-bit literal. -/
  | oriLiteral (d a : Reg) (lit : BitVec 64)
  /-- XORI (R190): XORs a register with a 12-bit immediate. -/
  | xori (d a : Reg) (imm : BitVec 12)
  /-- XORI_LITERAL (R190): XORs a register with a 64-bit literal. -/
  | xoriLiteral (d a : Reg) (lit : BitVec 64)
  /-- SHLI (R190): Shifts left by an immediate count. -/
  | shli (d a : Reg) (n : BitVec 6)
  /-- SHRI (R190): Shifts right logically by an immediate count. -/
  | shri (d a : Reg) (n : BitVec 6)
  /-- SRAI (R190): Shifts right arithmetically by an immediate count. -/
  | srai (d a : Reg) (n : BitVec 6)
  /-- ROTI (R190): Rotates left by an immediate count. -/
  | roti (d a : Reg) (n : BitVec 6)
  /-- PEQI (R196): Writes a predicate for equality with a 12-bit immediate. -/
  | peqi (d : PReg) (a : Reg) (imm : BitVec 12)
  /-- PEQI_LITERAL (R196): Writes a predicate for equality with a 64-bit literal. -/
  | peqiLiteral (d : PReg) (a : Reg) (lit : BitVec 64)
  /-- PLTI (R196): Writes a predicate for signed less-than a 12-bit immediate. -/
  | plti (d : PReg) (a : Reg) (imm : BitVec 12)
  /-- PLTI_LITERAL (R196): Writes a predicate for signed less-than a 64-bit literal. -/
  | pltiLiteral (d : PReg) (a : Reg) (lit : BitVec 64)
  /-- BFX (R192): Extracts a zero-extended bit field. -/
  | bfx (d a : Reg) (pos wm1 : BitVec 6)
  /-- BFI (R192): Inserts a bit field into the destination register. -/
  | bfi (d a : Reg) (pos wm1 : BitVec 6)
  /-- EXTS (R192): Sign-extends the low bits of a register. -/
  | exts (d a : Reg) (wm1 : BitVec 6)
  /-- EXTZ (R192): Zero-extends the low bits of a register. -/
  | extz (d a : Reg) (wm1 : BitVec 6)
  /-- MOVL (R193): Writes a sign-extended 12-bit immediate. -/
  | movl (d : Reg) (imm : BitVec 12)
  /-- MOVL_LITERAL (R193): Writes a 64-bit literal. -/
  | movlLiteral (d : Reg) (lit : BitVec 64)
  /-- ADDPC (R193): Writes PC plus a 12-bit byte offset. -/
  | addpc (d : Reg) (imm : BitVec 12)
  /-- ADDPC_LITERAL (R193): Writes PC plus a 64-bit literal offset. -/
  | addpcLiteral (d : Reg) (lit : BitVec 64)
  /-- JALR (R199): Jumps to register plus offset and writes the return address. -/
  | jalr (d a : Reg) (imm : BitVec 12)
  /-- JALR_LITERAL (R199): Jumps to register plus a 64-bit literal offset and links. -/
  | jalrLiteral (d a : Reg) (lit : BitVec 64)
  /-- LOOP (R200): Decrements a counter and branches while it is non-zero. -/
  | loop (d : Reg) (imm : BitVec 12)
  /-- LOOP_LITERAL (R200): Counted loop branch with a 64-bit literal displacement. -/
  | loopLiteral (d : Reg) (lit : BitVec 64)
  /-- BR (R198): Guarded PC-relative branch. -/
  | br (gu : Guard) (disp : BitVec 20)
  /-- JAL (R198): Guarded PC-relative call linking in g1. -/
  | jal (gu : Guard) (disp : BitVec 20)
  /-- LDB (R134): Loads a zero-extended byte, long-latency. -/
  | ldb (d a : Reg) (la : BitVec 4) (rh : Hint) (off : BitVec 6)
  /-- LDB_LITERAL (R134): Loads a zero-extended byte at a 64-bit literal offset. -/
  | ldbLiteral (d a : Reg) (la : BitVec 4) (rh : Hint) (lit : BitVec 64)
  /-- LDBS (R134): Loads a sign-extended byte. -/
  | ldbs (d a : Reg) (la : BitVec 4) (rh : Hint) (off : BitVec 6)
  /-- LDBS_LITERAL (R134): Loads a sign-extended byte at a literal offset. -/
  | ldbsLiteral (d a : Reg) (la : BitVec 4) (rh : Hint) (lit : BitVec 64)
  /-- LDH (R134): Loads a zero-extended halfword. -/
  | ldh (d a : Reg) (la : BitVec 4) (rh : Hint) (off : BitVec 6)
  /-- LDH_LITERAL (R134): Loads a zero-extended halfword at a literal offset. -/
  | ldhLiteral (d a : Reg) (la : BitVec 4) (rh : Hint) (lit : BitVec 64)
  /-- LDHS (R134): Loads a sign-extended halfword. -/
  | ldhs (d a : Reg) (la : BitVec 4) (rh : Hint) (off : BitVec 6)
  /-- LDHS_LITERAL (R134): Loads a sign-extended halfword at a literal offset. -/
  | ldhsLiteral (d a : Reg) (la : BitVec 4) (rh : Hint) (lit : BitVec 64)
  /-- LDW (R134): Loads a zero-extended word. -/
  | ldw (d a : Reg) (la : BitVec 4) (rh : Hint) (off : BitVec 6)
  /-- LDW_LITERAL (R134): Loads a zero-extended word at a literal offset. -/
  | ldwLiteral (d a : Reg) (la : BitVec 4) (rh : Hint) (lit : BitVec 64)
  /-- LDWS (R134): Loads a sign-extended word. -/
  | ldws (d a : Reg) (la : BitVec 4) (rh : Hint) (off : BitVec 6)
  /-- LDWS_LITERAL (R134): Loads a sign-extended word at a literal offset. -/
  | ldwsLiteral (d a : Reg) (la : BitVec 4) (rh : Hint) (lit : BitVec 64)
  /-- LDD (R134): Loads a doubleword. -/
  | ldd (d a : Reg) (la : BitVec 4) (rh : Hint) (off : BitVec 6)
  /-- LDD_LITERAL (R134): Loads a doubleword at a literal offset. -/
  | lddLiteral (d a : Reg) (la : BitVec 4) (rh : Hint) (lit : BitVec 64)
  /-- STB (R134): Stores a byte into the store queue. -/
  | stb (d a : Reg) (rh : Hint) (off : BitVec 6)
  /-- STB_LITERAL (R134): Stores a byte at a literal offset. -/
  | stbLiteral (d a : Reg) (rh : Hint) (lit : BitVec 64)
  /-- STH (R134): Stores a halfword. -/
  | sth (d a : Reg) (rh : Hint) (off : BitVec 6)
  /-- STH_LITERAL (R134): Stores a halfword at a literal offset. -/
  | sthLiteral (d a : Reg) (rh : Hint) (lit : BitVec 64)
  /-- STW (R134): Stores a word. -/
  | stw (d a : Reg) (rh : Hint) (off : BitVec 6)
  /-- STW_LITERAL (R134): Stores a word at a literal offset. -/
  | stwLiteral (d a : Reg) (rh : Hint) (lit : BitVec 64)
  /-- STD (R134): Stores a doubleword. -/
  | std (d a : Reg) (rh : Hint) (off : BitVec 6)
  /-- STD_LITERAL (R134): Stores a doubleword at a literal offset. -/
  | stdLiteral (d a : Reg) (rh : Hint) (lit : BitVec 64)
  /-- PREF (R135): Prefetches the line holding an address into slice and L1; never traps. -/
  | pref (a : Reg) (rh : Hint) (off : BitVec 6)
  /-- PREF_LITERAL (R135): Prefetch with a literal offset. -/
  | prefLiteral (a : Reg) (rh : Hint) (lit : BitVec 64)
  /-- EVICT (R136): Drops a line from the bay L1 and acts at the slice by hint. -/
  | evict (a : Reg) (rh : Hint) (off : BitVec 6)
  /-- EVICT_LITERAL (R136): Evict with a literal offset. -/
  | evictLiteral (a : Reg) (rh : Hint) (lit : BitVec 64)
  /-- TRAP (R407): Traps with code TRAP. -/
  | trap (imm : BitVec 12)
  /-- GETS (R409): Reads a system register into a general register. -/
  | gets (a : Reg) (num : BitVec 12)
  /-- SETS (R409): Writes a system register from a general register. -/
  | sets (a : Reg) (num : BitVec 12)
  /-- TLBINV_PAGE (R417): Drops translations of one page in the bays within scope. -/
  | tlbinvPage (a : Reg) (scope : BitVec 3)
  /-- TLBINV_ASID (R417): Drops non-global translations of one ASID within scope. -/
  | tlbinvAsid (a : Reg) (scope : BitVec 3)
  /-- TLBINV_ALL (R417): Drops every translation in the bays within scope. -/
  | tlbinvAll (a : Reg) (scope : BitVec 3)
  /-- TLBINV_PIN (R417): Translates an address as a fetch and pins it in the own IFT. -/
  | tlbinvPin (a : Reg) (scope : BitVec 3)
  /-- BKPT (R407): Traps with code BKPT. -/
  | bkpt (imm : BitVec 12)
  /-- PAIR (R53): Issues one scalar and one vector operation together under one guard. -/
  | pair (gu : Guard) (sh : SHalf) (vh : VHalf)
  /-- VADD (R211): Adds vector lanes with one rounding. -/
  | vadd (gu : Guard) (ty : BitVec 4) (rm : BitVec 3) (sat : Bool) (d a b : VReg)
  /-- VSUB (R211): Subtracts vector lanes with one rounding. -/
  | vsub (gu : Guard) (ty : BitVec 4) (rm : BitVec 3) (sat : Bool) (d a b : VReg)
  /-- VMUL (R211): Multiplies vector lanes with one rounding. -/
  | vmul (gu : Guard) (ty : BitVec 4) (rm : BitVec 3) (sat : Bool) (d a b : VReg)
  /-- VFMA (R211): Fused multiply-add per lane. -/
  | vfma (gu : Guard) (ty : BitVec 4) (rm : BitVec 3) (sat : Bool) (d a b c : VReg)
  /-- VFMS (R211): Fused multiply-subtract per lane. -/
  | vfms (gu : Guard) (ty : BitVec 4) (rm : BitVec 3) (sat : Bool) (d a b c : VReg)
  /-- VFNMA (R211): Fused negated multiply-add per lane. -/
  | vfnma (gu : Guard) (ty : BitVec 4) (rm : BitVec 3) (sat : Bool) (d a b c : VReg)
  /-- VDIV (R211): Long-latency lane division. -/
  | vdiv (gu : Guard) (la ty : BitVec 4) (rm : BitVec 3) (sat : Bool) (d a b : VReg)
  /-- VSQRT (R211): Long-latency lane square root. -/
  | vsqrt (gu : Guard) (la ty : BitVec 4) (rm : BitVec 3) (d a : VReg)
  /-- VRSQ (R211): Long-latency lane reciprocal square root. -/
  | vrsq (gu : Guard) (la ty : BitVec 4) (rm : BitVec 3) (d a : VReg)
  /-- VMIN (R212): Lane minimum. -/
  | vmin (gu : Guard) (ty : BitVec 4) (d a b : VReg)
  /-- VMAX (R212): Lane maximum. -/
  | vmax (gu : Guard) (ty : BitVec 4) (d a b : VReg)
  /-- VABS (R213): Lane absolute value. -/
  | vabs (gu : Guard) (ty : BitVec 4) (sat : Bool) (d a : VReg)
  /-- VNEG (R213): Lane negation. -/
  | vneg (gu : Guard) (ty : BitVec 4) (sat : Bool) (d a : VReg)
  /-- VCLAMP (R212): Clamps lanes between two vectors. -/
  | vclamp (gu : Guard) (ty : BitVec 4) (d a b c : VReg)
  /-- VCMP (R214): Compares lanes and writes a predicate. -/
  | vcmp (gu : Guard) (ty : BitVec 4) (rel : BitVec 3) (d : PReg) (a b : VReg)
  /-- VSEL (R215): Selects lanes of two vectors by a predicate. -/
  | vsel (gu : Guard) (ty : BitVec 4) (d a b : VReg) (p : PReg)
  /-- VCVT (R216): Converts lanes between element types. -/
  | vcvt (gu : Guard) (ty src : BitVec 4) (rm : BitVec 3) (sat : Bool) (d a c : VReg) (part : BitVec 4)
  /-- VCVT_LITERAL (R216): Converts lanes with PART taken from a literal. -/
  | vcvtLiteral (gu : Guard) (ty src : BitVec 4) (rm : BitVec 3) (sat : Bool) (d a c : VReg) (lit : BitVec 64)
  /-- VSCALE (R217): Chooses E8M0 block scales for an MX type. -/
  | vscale (gu : Guard) (ty src : BitVec 4) (d a : VReg) (part : BitVec 4)
  /-- VSCALE_LITERAL (R217): Chooses block scales with PART taken from a literal. -/
  | vscaleLiteral (gu : Guard) (ty src : BitVec 4) (d a : VReg) (lit : BitVec 64)
  /-- VRSUM (R218): Sums active lanes over a fixed binary tree. -/
  | vrsum (gu : Guard) (ty : BitVec 4) (sat : Bool) (d a : VReg)
  /-- VRMIN (R218): Minimum over active lanes by tree. -/
  | vrmin (gu : Guard) (ty : BitVec 4) (d a : VReg)
  /-- VRMAX (R218): Maximum over active lanes by tree. -/
  | vrmax (gu : Guard) (ty : BitVec 4) (d a : VReg)
  /-- VDOT (R218): Dot product of active lanes by tree. -/
  | vdot (gu : Guard) (ty : BitVec 4) (d a b : VReg)
  /-- VIADD (R219): Integer lane add, wrapping or saturating. -/
  | viadd (gu : Guard) (ty : BitVec 4) (sat : Bool) (d a b : VReg)
  /-- VISUB (R219): Integer lane subtract. -/
  | visub (gu : Guard) (ty : BitVec 4) (sat : Bool) (d a b : VReg)
  /-- VIMUL (R219): Integer lane multiply. -/
  | vimul (gu : Guard) (ty : BitVec 4) (sat : Bool) (d a b : VReg)
  /-- VIMAD (R219): Integer lane multiply-add. -/
  | vimad (gu : Guard) (ty : BitVec 4) (sat : Bool) (d a b c : VReg)
  /-- VAND (R220): Bitwise AND of vectors. -/
  | vand (gu : Guard) (ty : BitVec 4) (d a b : VReg)
  /-- VOR (R220): Bitwise OR of vectors. -/
  | vor (gu : Guard) (ty : BitVec 4) (d a b : VReg)
  /-- VXOR (R220): Bitwise XOR of vectors. -/
  | vxor (gu : Guard) (ty : BitVec 4) (d a b : VReg)
  /-- VSHL (R220): Lane shift left. -/
  | vshl (gu : Guard) (ty : BitVec 4) (d a b : VReg)
  /-- VSHR (R220): Lane logical shift right. -/
  | vshr (gu : Guard) (ty : BitVec 4) (d a b : VReg)
  /-- VSRA (R220): Lane arithmetic shift right. -/
  | vsra (gu : Guard) (ty : BitVec 4) (d a b : VReg)
  /-- VSPLAT (R221): Writes a general register's low bits into every active lane. -/
  | vsplat (gu : Guard) (ty : BitVec 4) (d : VReg) (a : Reg)
  /-- VSPLAT_LITERAL (R221): Writes a literal value into every active lane. -/
  | vsplatLiteral (gu : Guard) (ty : BitVec 4) (d : VReg) (lit : BitVec 64)
  /-- VPERM (R221): Permutes lanes by index vector. -/
  | vperm (gu : Guard) (ty : BitVec 4) (d a b : VReg)
  /-- VEXT (R222): Extracts one lane into a general register. -/
  | vext (gu : Guard) (ty : BitVec 4) (d : Reg) (a : VReg) (b : Reg)
  /-- VINS (R222): Inserts a general register into one lane. -/
  | vins (gu : Guard) (ty : BitVec 4) (d : VReg) (a b : Reg)
  /-- VMOV (R221): Copies active lanes. -/
  | vmov (gu : Guard) (ty : BitVec 4) (d a : VReg)
  /-- VLD (R138): Contiguous vector load. -/
  | vld (gu : Guard) (la ty : BitVec 4) (rh : Hint) (d : VReg) (a : Reg) (imm : BitVec 24)
  /-- VLD_LITERAL (R138): Contiguous vector load with a literal offset. -/
  | vldLiteral (gu : Guard) (la ty : BitVec 4) (rh : Hint) (d : VReg) (a : Reg) (lit : BitVec 64)
  /-- VST (R138): Contiguous vector store. -/
  | vst (gu : Guard) (ty : BitVec 4) (rh : Hint) (d : VReg) (a : Reg) (imm : BitVec 24)
  /-- VST_LITERAL (R138): Contiguous vector store with a literal offset. -/
  | vstLiteral (gu : Guard) (ty : BitVec 4) (rh : Hint) (d : VReg) (a : Reg) (lit : BitVec 64)
  /-- VLDS (R138): Strided vector load. -/
  | vlds (gu : Guard) (la ty : BitVec 4) (rh : Hint) (d : VReg) (a b : Reg) (imm : BitVec 24)
  /-- VLDS_LITERAL (R138): Strided vector load with a literal offset. -/
  | vldsLiteral (gu : Guard) (la ty : BitVec 4) (rh : Hint) (d : VReg) (a b : Reg) (lit : BitVec 64)
  /-- VSTS (R138): Strided vector store. -/
  | vsts (gu : Guard) (ty : BitVec 4) (rh : Hint) (d : VReg) (a b : Reg) (imm : BitVec 24)
  /-- VSTS_LITERAL (R138): Strided vector store with a literal offset. -/
  | vstsLiteral (gu : Guard) (ty : BitVec 4) (rh : Hint) (d : VReg) (a b : Reg) (lit : BitVec 64)
  /-- VGATH (R138): Indexed vector gather. -/
  | vgath (gu : Guard) (la ty : BitVec 4) (rh : Hint) (d : VReg) (a : Reg) (b : VReg) (imm : BitVec 24)
  /-- VGATH_LITERAL (R138): Indexed gather with a literal offset. -/
  | vgathLiteral (gu : Guard) (la ty : BitVec 4) (rh : Hint) (d : VReg) (a : Reg) (b : VReg) (lit : BitVec 64)
  /-- VSCAT (R138): Indexed vector scatter. -/
  | vscat (gu : Guard) (ty : BitVec 4) (rh : Hint) (d : VReg) (a : Reg) (b : VReg) (imm : BitVec 24)
  /-- VSCAT_LITERAL (R138): Indexed scatter with a literal offset. -/
  | vscatLiteral (gu : Guard) (ty : BitVec 4) (rh : Hint) (d : VReg) (a : Reg) (b : VReg) (lit : BitVec 64)
  /-- TCFG (R229): Configures a tile register and zeroes it in acceptance order. -/
  | tcfg (gu : Guard) (ty : BitVec 4) (t : TReg) (rows rb : BitVec 8)
  /-- TLD (R230): Queues a job loading tile rows from memory. -/
  | tld (gu : Guard) (la : BitVec 4) (rh : Hint) (d gs a b : Reg) (scale : Bool) (t : TReg) (bm : BitVec 8)
  /-- TST (R230): Queues a job storing tile rows to memory. -/
  | tst (gu : Guard) (la : BitVec 4) (rh : Hint) (d gs a b : Reg) (scale : Bool) (t : TReg)
  /-- TZERO (R229): Zeroes a configured tile register. -/
  | tzero (gu : Guard) (t : TReg)
  /-- MMA (R233): Queues a matrix multiply-accumulate job into the alcove. -/
  | mma (gu : Guard) (la ty : BitVec 4) (sat z : Bool) (d gs : Reg) (ta tb : TReg) (abase : BitVec 15)
  /-- MMAC (R236): Queues four MMA quarters across a bay group. -/
  | mmac (gu : Guard) (la ty : BitVec 4) (sat z : Bool) (d gs : Reg) (ta tb : TReg) (abase : BitVec 15)
  /-- MPOLL (R238): Reports a job's status at once. -/
  | mpoll (gu : Guard) (d a : Reg)
  /-- MWAIT (R238): Waits until a job is not running and reports its status. -/
  | mwait (gu : Guard) (d a : Reg)
  /-- AMOV (R242): Copies bits between alcove and a tile after earlier jobs complete. -/
  | amov (gu : Guard) (t : TReg) (toa : Bool) (abase : BitVec 15)
  /-- AMOVT (R242): Copies an alcove region transposed into a tile. -/
  | amovt (gu : Guard) (t : TReg) (abase : BitVec 15)
  /-- AZERO (R242): Zeroes alcove words. -/
  | azero (gu : Guard) (a : Reg) (abase : BitVec 15)
  /-- AFIN (R243): Rounds an accumulator region into a tile. -/
  | afin (gu : Guard) (ty acc : BitVec 4) (rm : BitVec 3) (sat : Bool) (t : TReg) (abase : BitVec 15)
  /-- MSAVE (R245): Writes a frozen bay's save image. -/
  | msave (gu : Guard) (la : BitVec 4) (d a : Reg)
  /-- MREST (R245): Checks and loads a bay save image. -/
  | mrest (gu : Guard) (la : BitVec 4) (d a : Reg)
  /-- CPSET (R168): Writes a copy shadow register. -/
  | cpset (gu : Guard) (idx : BitVec 4) (a : Reg)
  /-- CPGET (R168): Reads a copy shadow register. -/
  | cpget (gu : Guard) (d : Reg) (idx : BitVec 4)
  /-- CPGO (R170): Checks bases and enqueues a copy from a shadow snapshot. -/
  | cpgo (gu : Guard) (la : BitVec 4) (d gs : Reg)
  /-- CPCAN (R171): Requests cancellation of a copy of the bay. -/
  | cpcan (gu : Guard) (d a : Reg)
  /-- SEALR (R172): Computes and stores the CRC-32C seal of a shape record. -/
  | sealr (gu : Guard) (la : BitVec 4) (d a : Reg)
  /-- MFILL (R150): Starts a multicast fill of lines into several scratchpads. -/
  | mfill (gu : Guard) (la : BitVec 4) (rh : Hint) (d a b c : Reg) (count : BitVec 24)
  /-- NMCMD (R114): Reads, translates and checks a near-memory command and sends lock requests. -/
  | nmcmd (gu : Guard) (la : BitVec 4) (d a : Reg)
  /-- NMASK (R205): Forms a 64-bit keep mask from newel values. -/
  | nmask (gu : Guard) (d a b : Reg) (thr : BitVec 24)
  /-- AMOADD (R249): Atomic add returning the old value. -/
  | amoadd (gu : Guard) (la ty : BitVec 4) (sat : Bool) (rh : Hint) (d a b : Reg) (imm : BitVec 24)
  /-- AMOADD_LITERAL (R249): Atomic add with a literal offset. -/
  | amoaddLiteral (gu : Guard) (la ty : BitVec 4) (sat : Bool) (rh : Hint) (d a b : Reg) (lit : BitVec 64)
  /-- AMOMIN (R249): Atomic minimum returning the old value. -/
  | amomin (gu : Guard) (la ty : BitVec 4) (rh : Hint) (d a b : Reg) (imm : BitVec 24)
  /-- AMOMIN_LITERAL (R249): Atomic minimum with a literal offset. -/
  | amominLiteral (gu : Guard) (la ty : BitVec 4) (rh : Hint) (d a b : Reg) (lit : BitVec 64)
  /-- AMOMAX (R249): Atomic maximum returning the old value. -/
  | amomax (gu : Guard) (la ty : BitVec 4) (rh : Hint) (d a b : Reg) (imm : BitVec 24)
  /-- AMOMAX_LITERAL (R249): Atomic maximum with a literal offset. -/
  | amomaxLiteral (gu : Guard) (la ty : BitVec 4) (rh : Hint) (d a b : Reg) (lit : BitVec 64)
  /-- AMOAND (R249): Atomic AND returning the old value. -/
  | amoand (gu : Guard) (la ty : BitVec 4) (rh : Hint) (d a b : Reg) (imm : BitVec 24)
  /-- AMOAND_LITERAL (R249): Atomic AND with a literal offset. -/
  | amoandLiteral (gu : Guard) (la ty : BitVec 4) (rh : Hint) (d a b : Reg) (lit : BitVec 64)
  /-- AMOOR (R249): Atomic OR returning the old value. -/
  | amoor (gu : Guard) (la ty : BitVec 4) (rh : Hint) (d a b : Reg) (imm : BitVec 24)
  /-- AMOOR_LITERAL (R249): Atomic OR with a literal offset. -/
  | amoorLiteral (gu : Guard) (la ty : BitVec 4) (rh : Hint) (d a b : Reg) (lit : BitVec 64)
  /-- AMOXOR (R249): Atomic XOR returning the old value. -/
  | amoxor (gu : Guard) (la ty : BitVec 4) (rh : Hint) (d a b : Reg) (imm : BitVec 24)
  /-- AMOXOR_LITERAL (R249): Atomic XOR with a literal offset. -/
  | amoxorLiteral (gu : Guard) (la ty : BitVec 4) (rh : Hint) (d a b : Reg) (lit : BitVec 64)
  /-- AMOSWP (R249): Atomic swap returning the old value. -/
  | amoswp (gu : Guard) (la ty : BitVec 4) (rh : Hint) (d a b : Reg) (imm : BitVec 24)
  /-- AMOSWP_LITERAL (R249): Atomic swap with a literal offset. -/
  | amoswpLiteral (gu : Guard) (la ty : BitVec 4) (rh : Hint) (d a b : Reg) (lit : BitVec 64)
  /-- AMOCAS (R249): Atomic compare-and-swap returning the old value. -/
  | amocas (gu : Guard) (la ty : BitVec 4) (rh : Hint) (d a b c : Reg) (imm : BitVec 24)
  /-- AMOCAS_LITERAL (R249): Compare-and-swap with a literal offset. -/
  | amocasLiteral (gu : Guard) (la ty : BitVec 4) (rh : Hint) (d a b c : Reg) (lit : BitVec 64)
  /-- RDADD (R250): Reduction add at memory without return, possibly in the L1 U state. -/
  | rdadd (gu : Guard) (ty : BitVec 4) (rh : Hint) (a b : Reg) (imm : BitVec 24)
  /-- RDADD_LITERAL (R250): Reduction add with a literal offset. -/
  | rdaddLiteral (gu : Guard) (ty : BitVec 4) (rh : Hint) (a b : Reg) (lit : BitVec 64)
  /-- RDMIN (R250): Reduction minimum at memory. -/
  | rdmin (gu : Guard) (ty : BitVec 4) (rh : Hint) (a b : Reg) (imm : BitVec 24)
  /-- RDMIN_LITERAL (R250): Reduction minimum with a literal offset. -/
  | rdminLiteral (gu : Guard) (ty : BitVec 4) (rh : Hint) (a b : Reg) (lit : BitVec 64)
  /-- RDMAX (R250): Reduction maximum at memory. -/
  | rdmax (gu : Guard) (ty : BitVec 4) (rh : Hint) (a b : Reg) (imm : BitVec 24)
  /-- RDMAX_LITERAL (R250): Reduction maximum with a literal offset. -/
  | rdmaxLiteral (gu : Guard) (ty : BitVec 4) (rh : Hint) (a b : Reg) (lit : BitVec 64)
  /-- XADD (R252): Adds a float term exactly into an XACC32 slot. -/
  | xadd (gu : Guard) (ty : BitVec 4) (rh : Hint) (a b : Reg) (imm : BitVec 24)
  /-- XADD_LITERAL (R252): Exact accumulate with a literal offset. -/
  | xaddLiteral (gu : Guard) (ty : BitVec 4) (rh : Hint) (a b : Reg) (lit : BitVec 64)
  /-- XRND (R253): Rounds an XACC slot out to a register, optionally clearing it. -/
  | xrnd (gu : Guard) (la ty : BitVec 4) (rm : BitVec 3) (sat : Bool) (rh : Hint) (d a : Reg) (x64 clr : Bool) (imm : BitVec 24)
  /-- XRND_LITERAL (R253): Rounds out an XACC slot at a literal offset. -/
  | xrndLiteral (gu : Guard) (la ty : BitVec 4) (rm : BitVec 3) (sat : Bool) (rh : Hint) (d a : Reg) (x64 clr : Bool) (lit : BitVec 64)
  /-- PBINIT (R256): Arms or disarms a phase barrier word. -/
  | pbinit (gu : Guard) (la : BitVec 4) (d a b c : Reg)
  /-- PBARR (R257): Contributes one arrival to a phase barrier. -/
  | pbarr (gu : Guard) (la : BitVec 4) (d a : Reg)
  /-- PBEXP (R257): Adds expected bytes to a phase barrier. -/
  | pbexp (gu : Guard) (a b : Reg)
  /-- PBWAIT (R258): Waits while a barrier stays in the given phase. -/
  | pbwait (gu : Guard) (d a b : Reg)
  /-- WAITA (R262): Compares a word and sleeps on a watch if it is unchanged. -/
  | waita (gu : Guard) (la : BitVec 4) (d a b : Reg) (imm : BitVec 24)
  /-- WAITA_LITERAL (R262): Wait on an address with a literal offset. -/
  | waitaLiteral (gu : Guard) (la : BitVec 4) (d a b : Reg) (lit : BitVec 64)
  /-- CTARM (R261): Arms a one-shot action on a counter threshold. -/
  | ctarm (gu : Guard) (la : BitVec 4) (kind : BitVec 3) (d a b c : Reg)
  /-- CTINC (R260): Increments a counter saturating and fires crossed thresholds. -/
  | ctinc (gu : Guard) (la : BitVec 4) (d a b : Reg)
  /-- FENCE (R263): Waits for covered earlier accesses, drops L1 lines and reports failures. -/
  | fence (gu : Guard) (d : Reg) (scope kind : BitVec 3)
  /-- FENCE_INST (R436): A full fence that also empties the bay instruction cache and refetches. -/
  | fenceInst (gu : Guard) (d : Reg) (scope : BitVec 3)
  /-- SPAWN (R296): Offers a child record to a task queue, running it inline if refused. -/
  | spawn (gu : Guard) (d a b : Reg)
  /-- SEND (R299): Delivers a record to a core's pinned or handler queue or the vestibule. -/
  | send (gu : Guard) (la : BitVec 4) (h : Bool) (d a b : Reg)
  /-- TEND (R301): Ends the running record, decrementing its join block or returning from inline. -/
  | tend (gu : Guard)
  /-- CONT (R298): Adds a count to a join block and arms it. -/
  | cont (gu : Guard) (la : BitVec 4) (d a b : Reg)
  /-- JDEC (R298): Decrements a join block count. -/
  | jdec (gu : Guard) (la : BitVec 4) (d a : Reg)
  /-- JOIN (R305): Sets the core's bit in a group word. -/
  | join (gu : Guard) (la : BitVec 4) (d a : Reg)
  /-- LEAVE (R305): Clears the core's bit in a group word. -/
  | leave (gu : Guard) (la : BitVec 4) (d a : Reg)
  /-- MASKH (R304): Opens a masked window. -/
  | maskh (gu : Guard)
  /-- UNMASKH (R304): Closes a masked window. -/
  | unmaskh (gu : Guard)
  /-- STEP (R321): Completes the core's share of the step and waits for the tile to advance. -/
  | step (gu : Guard) (d : Reg)
  /-- STEPQ (R322): Reports the issuing tile's step state. -/
  | stepq (gu : Guard) (d : Reg)
  /-- RGET (R323): Reads an element of a gallery landing within the cone. -/
  | rget (gu : Guard) (la ty : BitVec 4) (d a : Reg) (dx dy : BitVec 4) (off : BitVec 14)
  /-- RGETV (R323): Reads 128 bytes of a gallery landing within the cone. -/
  | rgetv (gu : Guard) (la : BitVec 4) (d : VReg) (a : Reg) (dx dy : BitVec 4) (off : BitVec 14)
  /-- HALLQ (R322): Samples another hall tile's step state. -/
  | hallq (gu : Guard) (la : BitVec 4) (d a : Reg)
  /-- SRING (R342): Declares a stream ring in the own scratchpad. -/
  | sring (gu : Guard) (d a b : Reg) (q : BitVec 3)
  /-- SBIND_CONS (R343): Binds a q-register as consumer and captures gains. -/
  | sbindCons (gu : Guard) (d b : Reg) (q : BitVec 3)
  /-- SBIND_PROD (R343): Binds a q-register as producer through the stream registry. -/
  | sbindProd (gu : Guard) (d b : Reg) (q k : BitVec 3)
  /-- SGAIN (R344): Proposes new gains for a bound stream. -/
  | sgain (gu : Guard) (d b : Reg) (q : BitVec 3)
  /-- SSTAT (R345): Reads loop state, stall counts or occupancy of a stream. -/
  | sstat (gu : Guard) (d : Reg) (q : BitVec 3) (wsel : BitVec 2)
  /-- SUNBIND (R346): Unbinds a stream end. -/
  | sunbind (gu : Guard) (d : Reg) (q : BitVec 3)
  /-- DLAUNCH (R366): Enqueues a 64-byte entry into a device-owned FES channel. -/
  | dlaunch (gu : Guard) (la : BitVec 4) (d a b : Reg)
  /-- COLL (R373): Starts a collective member from a block. -/
  | coll (gu : Guard) (la : BitVec 4) (d a : Reg)
  /-- RLINV (R392): Drops cached rank lists of the launch's ASID. -/
  | rlinv (gu : Guard) (d a : Reg)
  /-- KSEND (R378): Sends chunks of a buffer to a peer. -/
  | ksend (m : Nat) (c : ChunkData)
  /-- KRECV (R378): Writes incoming chunks into a buffer. -/
  | krecv (m : Nat) (c : ChunkData)
  /-- KRED (R378): Combines own and incoming chunks into a buffer. -/
  | kred (m : Nat) (c : ChunkData)
  /-- KCOPY (R378): Copies chunks between own buffers. -/
  | kcopy (m : Nat) (c : ChunkData)
  /-- KWAIT (R380): Waits for earlier data instructions of a tag. -/
  | kwait (m : Nat) (tag : BitVec 7) (all : Bool)
  /-- KSIG (R380): Sends a value to a peer's signal word after tagged work completes. -/
  | ksig (m : Nat) (peer : BitVec 16) (prel : Bool) (tag : BitVec 7) (val : BitVec 32)
  /-- KLOOP (R380): Repeats a schedule body. -/
  | kloop (m : Nat) (count disp : BitVec 16)
  /-- KEND (R380): Waits for all earlier work and enters the closing gate. -/
  | kend (m : Nat)
  /-- NOP (R201): Advances PC by 4 and does nothing else. -/
  | nop
  /-- ERET (R408): Returns from a trap handler to TPC, restoring PV. -/
  | eret
  /-- WFE (R410): Waits for an event unless the event latch is set. -/
  | wfe
  /-- MATRIX_JOB_START (R227): The bay chooses the next non-conflicting job round-robin and starts it. -/
  | matrixJobStart (bay : Nat)
  /-- TILE_ROW_MOVE (R231): A TLD or TST job moves one row, stopping on a row fault. -/
  | tileRowMove (bay job : Nat)
  /-- MATRIX_JOB_COMPLETE (R237): A job finishes and its status word is retained and written to gs. -/
  | matrixJobComplete (bay job : Nat)
  /-- COPY_START (R152): The copy unit starts the next accepted copy in acceptance order. -/
  | copyStart (bay : Nat)
  /-- SHAPE_RECORD_FETCH (R161): The fetched shape record is checked for version, seal and shape. -/
  | shapeRecordFetch (bay copy : Nat)
  /-- COPY_SCOUT (R162): The scout translates the next page ahead of the data pass. -/
  | copyScout (bay copy : Nat)
  /-- MOVE_ELEMENT (R163): The copy reads and writes one element, skipping or stopping as needed. -/
  | moveElement (bay copy ahead : Nat)
  /-- COPY_COMPLETE (R164): The copy ends, sends its barrier update and writes its status. -/
  | copyComplete (bay copy : Nat)
  /-- MFILL_LINE (R150): One source line arrives and is written into each target scratchpad. -/
  | mfillLine (fill : Nat)
  /-- NMU_LOCK (R109): A slice writes back and drops range lines and takes range locks. -/
  | nmuLock (cmd slice : Nat)
  /-- NMU_ACCEPT (R109): The command enters the NMU queue once every slice answered and an entry is free. -/
  | nmuAccept (cmd : Nat)
  /-- NMU_EXECUTE (R109): The NMU takes the next command from its queue. -/
  | nmuExecute (stack : Nat)
  /-- NMU_LINE (R111): The NMU finishes one destination line and releases its locks, or stops on error. -/
  | nmuLine (stack : Nat)
  /-- BARRIER_UPDATE (R257): The barrier unit applies same-cycle contributions to a word as one update. -/
  | barrierUpdate (core off n : Nat)
  /-- WAITA_WAKE (R262): A watch ends on a write, wake or other cause and WAITA returns WOKEN. -/
  | waitaWake (core pend : Nat)
  /-- RECORD_PUSH (R293): A record arrives at a tile task queue and is accepted or refused. -/
  | recordPush (msg : Nat)
  /-- RECORD_PARK (R303): A sent record arrives at the receiver queue or vestibule and is acknowledged. -/
  | recordPark (msg : Nat)
  /-- VESTIBULE_RELEASE (R303): Waiting vestibule records move into freed core queue places in key order. -/
  | vestibuleRelease (tile : Nat)
  /-- TASK_POP (R363): An idle core takes a record from its pinned queue or the task queues and starts it. -/
  | taskPop (core : Nat)
  /-- HANDLER_START (R300): A pending handler record starts at level 1 when no window is open. -/
  | handlerStart (core : Nat)
  /-- STEP_SIGNAL (R311): A neighbour's step-entry signal arrives at a tile. -/
  | stepSignal (tile dir : Nat)
  /-- STEP_ENTRY (R312): A tile takes a landing, advances S, signals neighbours, releases the vestibule and STEP waiters. -/
  | stepEntry (tile : Nat)
  /-- STALL (R318): The step watchdog count of a self-held tile expires and posts a STALL message. -/
  | stall (tile : Nat)
  /-- STREAM_APPEND (R328): A pushed element arrives and is written to the ring and TAIL. -/
  | streamAppend (core q : Nat)
  /-- STREAM_CREDIT (R329): A credit returned by a pop arrives at the producer. -/
  | streamCredit (core q : Nat)
  /-- STREAM_SAMPLE (R334): The loop's period expires and it recomputes integral and weights. -/
  | streamSample (core q : Nat)
  /-- WEIGHT_MESSAGE (R334): A producer weight message arrives and takes effect. -/
  | weightMessage (core q : Nat)
  /-- SCHEDULE_DECODE (R65): The FES decodes a started member's schedule and sends OPEN when ready. -/
  | scheduleDecode (m : Nat)
  /-- CHUNK_COMPLETE (R377): A running data instruction completes its writes or packet acceptance. -/
  | chunkComplete (m k : Nat)
  /-- DLV (R379): A data packet arrives in a member's inbox and is matched. -/
  | dlv (pkt : Nat)
  /-- OPEN (R375): A child's OPEN arrives and its signature is compared. -/
  | open_ (pkt : Nat)
  /-- GO (R375): GO arrives, is forwarded and lets the member run its schedule. -/
  | go (pkt : Nat)
  /-- CUP (R386): A child's closing CUP arrives. -/
  | cup (pkt : Nat)
  /-- CDN (R386): CDN arrives; staging is copied to DST and the completion word written. -/
  | cdn (pkt : Nat)
  /-- ABT (R388): An abort packet arrives and the member aborts. -/
  | abt (pkt : Nat)
  /-- SIG (R380): A signal packet arrives and is added to the member's SIGW. -/
  | sig (pkt : Nat)
  /-- COLLECTIVE_TIMEOUT (R388): A member's TMO expires and it aborts with TIMEOUT. -/
  | collectiveTimeout (m : Nat)
  /-- PACKET_TRANSIT (R385): A package pops flight 0 of a passing packet and forwards it. -/
  | packetTransit (pkt : Nat)
  /-- SLICE_READ (R126): A read request reaches its home slice and is served or merged. -/
  | sliceRead (req : Nat) (into : Option Nat)
  /-- SLICE_WRITE (R126): A store reaches its home slice, takes an SSN and is acknowledged. -/
  | sliceWrite (req : Nat)
  /-- SLICE_ATOMIC (R247): An atomic executes indivisibly at its home slice. -/
  | sliceAtomic (req : Nat)
  /-- SLICE_EVICT (R136): An EVICT reaches the slice and drops or rehints the line. -/
  | sliceEvict (req : Nat)
  /-- SLICE_FILL (R124): HBM data for a slice miss returns and the line is allocated or served. -/
  | sliceFill (req : Nat)
  /-- READ_RESPONSE (R128): A read response reaches the core, updating witness, L1 and register. -/
  | readResponse (req : Nat)
  /-- STORE_ACK (R270): A write acknowledgement reaches the core, updating witness and L1 copy. -/
  | storeAck (req : Nat)
  /-- WITNESS_EXPIRE (R128): A witness entry idle for 2^24 ring cycles becomes invalid. -/
  | witnessExpire (core slice : Nat)
  /-- RESULT_WRITEBACK (R184): A pending long-latency result arrives and is written to its register. -/
  | resultWriteback (core pend : Nat)
  /-- SERVICE_OVERFLOW_DRAIN (R415): A waiting service record moves from the overflow into a freed handler queue place. -/
  | serviceOverflowDrain (tile core : Nat)
  /-- RCMD_RETRY (R416): A RETRY reply makes the matching requester retry its walk or resume. -/
  | rcmdRetry (tidx : BitVec 32) (rva : BitVec 64)
  /-- RCMD_ABORT (R416): An ABORT reply makes the requester fail with REFUSED or PAGE, or cancels the hall. -/
  | rcmdAbort (tidx : BitVec 32) (rva : BitVec 64)
  /-- WFE_WAKE (R410): A wake event or queued record ends a sleeping WFE. -/
  | wfeWake (core : Nat)
  /-- CHANNEL_ENABLE (R352): Setting CTL.EN lets the FES start entries of a channel and clears FAULT. -/
  | channelEnable (who : Requester) (ch : Nat) (val : BitVec 64)
  /-- CHANNEL_DISABLE (R352): Clearing CTL.EN stops the FES starting further entries. -/
  | channelDisable (who : Requester) (ch : Nat) (val : BitVec 64)
  /-- TAIL_WRITE (R353): A TAIL write enqueues entries, reading each and capturing SEED. -/
  | tailWrite (who : Requester) (ch : Nat) (val : BitVec 64)
  /-- HALL_ALLOCATE (R358): The FES allocates halls to waiting launches by class and channel order. -/
  | hallAllocate
  /-- LAUNCH_START (R359): The FES resets hall state and places first records in every tile. -/
  | launchStart (ch : Nat)
  /-- LAUNCH_END (R361): A drained idle launch ends, frees its hall and writes its completion word. -/
  | launchEnd (hall : Nat)
  /-- COLL_ENTRY_START (R374): A COLL entry starts its member through start(). -/
  | collEntryStart (ch : Nat)
  /-- WAITW_START (R355): A WAITW entry reads its word at the home slice. -/
  | waitwStart (ch : Nat)
  /-- WAITW_RECHECK (R355): A write to the watched word makes the FES read it again and maybe complete. -/
  | waitwRecheck (ch idx : Nat)
  /-- SIGNAL_START (R355): A SIGNAL entry stores VALUE at ADDR. -/
  | signalStart (ch : Nat)
  /-- SIGNAL_COMPLETE (R355): The SIGNAL store is acknowledged and the entry completes. -/
  | signalComplete (ch idx : Nat)
  /-- CANCEL (R362): A CANCEL write stops and discards the hall at the given origin. -/
  | cancel (val : BitVec 64)
  /-- OCCUPANCY_SAMPLE (R364): Every 1,024 cycles the hall tiles sample task-queue occupancy. -/
  | occupancySample (hall : Nat)
  /-- ENERGY_TICK (R365): Every microsecond consumption is added and the class drops when the budget is reached. -/
  | energyTick (hall reading : Nat)
  /-- PRECMD_SAVE (R420): A SAVE command stops and drains the hall and writes its save area. -/
  | precmdSave (val : BitVec 64)
  /-- SAVE_DONE (R420): The hall header is written, tiles freed and PRESTAT reads DONE. -/
  | saveDone
  /-- PRECMD_RESTORE (R421): A RESTORE command checks the save area and target rectangle. -/
  | precmdRestore (val : BitVec 64)
  /-- RESTORE_DONE (R421): Regions are written back, bays reloaded and the hall released. -/
  | restoreDone
  /-- FWIN_ENABLE (R101): Writing EN to 1 enables a format window or sets ERR. -/
  | fwinEnable (who : Requester) (win : Nat) (val : BitVec 64)
  /-- FWIN_DISABLE (R102): Clearing EN makes slices write back and drop the view lines. -/
  | fwinDisable (who : Requester) (win : Nat) (val : BitVec 64)
  /-- FWIN_DISABLE_DONE (R102): The view is drained and EN reads 0. -/
  | fwinDisableDone (win : Nat)
  /-- HBMERR_CLEAR (R99): Writing ones clears bits of the HBMERR counters. -/
  | hbmerrClear (stack : Nat) (val : BitVec 64)
  /-- PATROL_SCRUB (R98): The patrol scrubber reads a line, correcting or poisoning it. -/
  | patrolScrub (line : Nat)
  /-- LOG_CLEAR (R425): Writing CLR clears TOTAL, NEXT and every valid bit of a violation log. -/
  | logClear (who : Requester) (die : Nat) (val : BitVec 64)
  /-- ERRCNT_CLEAR (R430): Writing ones clears bits of a link or port ERRCNT. -/
  | errcntClear (link : Nat) (val : BitVec 64)
  /-- REGISTER_WRITE (R9): A write to a register with no behaviour of its own updates its RW fields. -/
  | registerWrite (who : Requester) (off val : BitVec 64)
  /-- HOST_ACCESS (R428): A host PCIe request through BAR2 is ordered at the home slice. -/
  | hostAccess (h : HostReq)
  /-- ATTCMD (R427): Writing 1 to ATTCMD starts an attestation quote. -/
  | attcmd (val : BitVec 64)
  /-- ATTEST_DONE (R427): The signed quote is placed and ATTSTAT reads DONE. -/
  | attestDone
  /-- FLIT_RECEIVE (R430): An Ilupol flit arrives, is checked and acknowledged or replayed. -/
  | flitReceive (link dir : Nat) (crcOk : Bool)
  /-- RETRAIN_DONE (R430): A retraining link trains and streams return to BOUND. -/
  | retrainDone (link : Nat)
  /-- RETRAIN_TIMEOUT (R430): A retrain passes 100 µs and fails, declaring the link dead on the third failure. -/
  | retrainTimeout (link : Nat)
  /-- HARPIN_FRAME (R430): A Harpin frame arrives, is CRC-checked and retried or delivered. -/
  | harpinFrame (port : Nat) (crcOk : Bool) (hdr : List (BitVec 64)) (payload : List (BitVec 8))
  /-- PORT_UP (R430): A down Harpin port completes its retrain. -/
  | portUp (port : Nat)
  /-- RESET (R426): Reset starts the management core from ROM. -/
  | reset
  /-- FIRMWARE_VERIFY (R426): Bring-up state 1 verifies firmware or enters recovery. -/
  | firmwareVerify (code : Nat) (svn : BitVec 32)
  /-- HBM_TRAINING (R431): Bring-up state 2 trains and scrubs every stack. -/
  | hbmTraining
  /-- SELF_TEST (R432): Bring-up state 3 self-tests and sets the withheld mask. -/
  | selfTest (withheld : BitVec 128) (unitOk : Bool)
  /-- ILUPOL_TRAINING (R431): Bring-up state 4 trains the Ilupol links. -/
  | ilupolTraining (up0 up1 : Bool)
  /-- PCIE_LINK_UP (R431): Bring-up state 5 brings up the PCIe link. -/
  | pcieLinkUp (recovery : Bool)
  /-- HARPIN_TRAINING (R431): Bring-up state 6 trains Harpin ports and writes routes. -/
  | harpinTraining (up : BitVec 16) (pkg : BitVec 16) (routes : List RouteWrite)
  /-- READY (R431): Bring-up state 7 lets the host enable FES channels. -/
  | ready
  /-- WEAR_UPDATE (R433): Every hour the management core updates the wear monitors. -/
  | wearUpdate (mon : Nat) (hours : BitVec 32) (conf : BitVec 8)
  /-- ILLEGAL_ENCODING (R61): A core issues a word whose MAJ, EC, XOP, FN or reserved fields match no assigned encoding and traps ILLEGAL. -/
  | illegalEncoding (word0 : BitVec 32)
  /-- FETCH_FAULT (R402): An instruction fetch meets an aperture error, poison, refusal or translation fault and the fault is taken at the fetched instruction with FETCH set. -/
  | fetchFault (addr : BitVec 64) (why : FetchWhy)
  /-- CORE_APERTURE_ACCESS (R141): A load, store or atomic from a core reaches its target scratchpad, vault or gallery and is performed there in arbitration order. -/
  | coreApertureAccess (req : Nat)
  /-- GALLERY_READ (R314): An RGET, RGETV or HALLQ request arrives at the target tile, is served from its landing or samples its step state, and releases a pending step entry. -/
  | galleryRead (msg : Nat)
  /-- PCIE_COMPLETION (R122): A PCIe read or AtomicOp completion for a host-memory access returns to the home slice and is forwarded to the requester. -/
  | pcieCompletion (req : Nat)
  /-- LANE_LOCK_LOSS (R430): An Ilupol link loses lane lock and starts a retrain, moving streams on its path to RETRAIN. -/
  | laneLockLoss (link : Nat)
  deriving DecidableEq, Repr, Inhabited

/-- Which unit takes a step: a core issues it, the front-end sequencer runs it from a schedule, or it
is one of the part's own whole steps. -/
inductive Unit3 where
  | core | chunk | event
  deriving DecidableEq, Repr, Inhabited

/-- The unit that takes the step named by each constructor. -/
def Instr.unit : Instr → Unit3
  | .add _ _ _ => .core
  | .sub _ _ _ => .core
  | .mul _ _ _ => .core
  | .mulh _ _ _ => .core
  | .mulhw _ _ _ => .core
  | .and _ _ _ => .core
  | .or _ _ _ => .core
  | .xor _ _ _ => .core
  | .andn _ _ _ => .core
  | .orn _ _ _ => .core
  | .shl _ _ _ => .core
  | .shr _ _ _ => .core
  | .sra _ _ _ => .core
  | .rot _ _ _ => .core
  | .min _ _ _ => .core
  | .max _ _ _ => .core
  | .minw _ _ _ => .core
  | .maxw _ _ _ => .core
  | .clz _ _ => .core
  | .ctz _ _ => .core
  | .popc _ _ => .core
  | .brev _ _ => .core
  | .bswp _ _ => .core
  | .div _ _ _ _ => .core
  | .divw _ _ _ _ => .core
  | .rem _ _ _ _ => .core
  | .remw _ _ _ _ => .core
  | .peq _ _ _ => .core
  | .pne _ _ _ => .core
  | .plt _ _ _ => .core
  | .ple _ _ _ => .core
  | .pltw _ _ _ => .core
  | .plew _ _ _ => .core
  | .pand _ _ _ => .core
  | .por _ _ _ => .core
  | .pxor _ _ _ => .core
  | .pnot _ _ => .core
  | .sel _ _ _ _ => .core
  | .nrand _ _ _ => .core
  | .addi _ _ _ => .core
  | .addiLiteral _ _ _ => .core
  | .andi _ _ _ => .core
  | .andiLiteral _ _ _ => .core
  | .ori _ _ _ => .core
  | .oriLiteral _ _ _ => .core
  | .xori _ _ _ => .core
  | .xoriLiteral _ _ _ => .core
  | .shli _ _ _ => .core
  | .shri _ _ _ => .core
  | .srai _ _ _ => .core
  | .roti _ _ _ => .core
  | .peqi _ _ _ => .core
  | .peqiLiteral _ _ _ => .core
  | .plti _ _ _ => .core
  | .pltiLiteral _ _ _ => .core
  | .bfx _ _ _ _ => .core
  | .bfi _ _ _ _ => .core
  | .exts _ _ _ => .core
  | .extz _ _ _ => .core
  | .movl _ _ => .core
  | .movlLiteral _ _ => .core
  | .addpc _ _ => .core
  | .addpcLiteral _ _ => .core
  | .jalr _ _ _ => .core
  | .jalrLiteral _ _ _ => .core
  | .loop _ _ => .core
  | .loopLiteral _ _ => .core
  | .br _ _ => .core
  | .jal _ _ => .core
  | .nop => .core
  | .ldb _ _ _ _ _ => .core
  | .ldbLiteral _ _ _ _ _ => .core
  | .ldbs _ _ _ _ _ => .core
  | .ldbsLiteral _ _ _ _ _ => .core
  | .ldh _ _ _ _ _ => .core
  | .ldhLiteral _ _ _ _ _ => .core
  | .ldhs _ _ _ _ _ => .core
  | .ldhsLiteral _ _ _ _ _ => .core
  | .ldw _ _ _ _ _ => .core
  | .ldwLiteral _ _ _ _ _ => .core
  | .ldws _ _ _ _ _ => .core
  | .ldwsLiteral _ _ _ _ _ => .core
  | .ldd _ _ _ _ _ => .core
  | .lddLiteral _ _ _ _ _ => .core
  | .stb _ _ _ _ => .core
  | .stbLiteral _ _ _ _ => .core
  | .sth _ _ _ _ => .core
  | .sthLiteral _ _ _ _ => .core
  | .stw _ _ _ _ => .core
  | .stwLiteral _ _ _ _ => .core
  | .std _ _ _ _ => .core
  | .stdLiteral _ _ _ _ => .core
  | .pref _ _ _ => .core
  | .prefLiteral _ _ _ => .core
  | .evict _ _ _ => .core
  | .evictLiteral _ _ _ => .core
  | .trap _ => .core
  | .eret => .core
  | .gets _ _ => .core
  | .sets _ _ => .core
  | .tlbinvPage _ _ => .core
  | .tlbinvAsid _ _ => .core
  | .tlbinvAll _ _ => .core
  | .tlbinvPin _ _ => .core
  | .bkpt _ => .core
  | .wfe => .core
  | .pair _ _ _ => .core
  | .vadd _ _ _ _ _ _ _ => .core
  | .vsub _ _ _ _ _ _ _ => .core
  | .vmul _ _ _ _ _ _ _ => .core
  | .vfma _ _ _ _ _ _ _ _ => .core
  | .vfms _ _ _ _ _ _ _ _ => .core
  | .vfnma _ _ _ _ _ _ _ _ => .core
  | .vdiv _ _ _ _ _ _ _ _ => .core
  | .vsqrt _ _ _ _ _ _ => .core
  | .vrsq _ _ _ _ _ _ => .core
  | .vmin _ _ _ _ _ => .core
  | .vmax _ _ _ _ _ => .core
  | .vabs _ _ _ _ _ => .core
  | .vneg _ _ _ _ _ => .core
  | .vclamp _ _ _ _ _ _ => .core
  | .vcmp _ _ _ _ _ _ => .core
  | .vsel _ _ _ _ _ _ => .core
  | .vcvt _ _ _ _ _ _ _ _ _ => .core
  | .vcvtLiteral _ _ _ _ _ _ _ _ _ => .core
  | .vscale _ _ _ _ _ _ => .core
  | .vscaleLiteral _ _ _ _ _ _ => .core
  | .vrsum _ _ _ _ _ => .core
  | .vrmin _ _ _ _ => .core
  | .vrmax _ _ _ _ => .core
  | .vdot _ _ _ _ _ => .core
  | .viadd _ _ _ _ _ _ => .core
  | .visub _ _ _ _ _ _ => .core
  | .vimul _ _ _ _ _ _ => .core
  | .vimad _ _ _ _ _ _ _ => .core
  | .vand _ _ _ _ _ => .core
  | .vor _ _ _ _ _ => .core
  | .vxor _ _ _ _ _ => .core
  | .vshl _ _ _ _ _ => .core
  | .vshr _ _ _ _ _ => .core
  | .vsra _ _ _ _ _ => .core
  | .vsplat _ _ _ _ => .core
  | .vsplatLiteral _ _ _ _ => .core
  | .vperm _ _ _ _ _ => .core
  | .vext _ _ _ _ _ => .core
  | .vins _ _ _ _ _ => .core
  | .vmov _ _ _ _ => .core
  | .vld _ _ _ _ _ _ _ => .core
  | .vldLiteral _ _ _ _ _ _ _ => .core
  | .vst _ _ _ _ _ _ => .core
  | .vstLiteral _ _ _ _ _ _ => .core
  | .vlds _ _ _ _ _ _ _ _ => .core
  | .vldsLiteral _ _ _ _ _ _ _ _ => .core
  | .vsts _ _ _ _ _ _ _ => .core
  | .vstsLiteral _ _ _ _ _ _ _ => .core
  | .vgath _ _ _ _ _ _ _ _ => .core
  | .vgathLiteral _ _ _ _ _ _ _ _ => .core
  | .vscat _ _ _ _ _ _ _ => .core
  | .vscatLiteral _ _ _ _ _ _ _ => .core
  | .tcfg _ _ _ _ _ => .core
  | .tld _ _ _ _ _ _ _ _ _ _ => .core
  | .tst _ _ _ _ _ _ _ _ _ => .core
  | .tzero _ _ => .core
  | .mma _ _ _ _ _ _ _ _ _ _ => .core
  | .mmac _ _ _ _ _ _ _ _ _ _ => .core
  | .mpoll _ _ _ => .core
  | .mwait _ _ _ => .core
  | .amov _ _ _ _ => .core
  | .amovt _ _ _ => .core
  | .azero _ _ _ => .core
  | .afin _ _ _ _ _ _ _ => .core
  | .msave _ _ _ _ => .core
  | .mrest _ _ _ _ => .core
  | .matrixJobStart _ => .event
  | .tileRowMove _ _ => .event
  | .matrixJobComplete _ _ => .event
  | .cpset _ _ _ => .core
  | .cpget _ _ _ => .core
  | .cpgo _ _ _ _ => .core
  | .cpcan _ _ _ => .core
  | .sealr _ _ _ _ => .core
  | .copyStart _ => .event
  | .shapeRecordFetch _ _ => .event
  | .copyScout _ _ => .event
  | .moveElement _ _ _ => .event
  | .copyComplete _ _ => .event
  | .mfill _ _ _ _ _ _ _ _ => .core
  | .mfillLine _ => .event
  | .nmcmd _ _ _ _ => .core
  | .nmuLock _ _ => .event
  | .nmuAccept _ => .event
  | .nmuExecute _ => .event
  | .nmuLine _ => .event
  | .nmask _ _ _ _ _ => .core
  | .amoadd _ _ _ _ _ _ _ _ _ => .core
  | .amoaddLiteral _ _ _ _ _ _ _ _ _ => .core
  | .amomin _ _ _ _ _ _ _ _ => .core
  | .amominLiteral _ _ _ _ _ _ _ _ => .core
  | .amomax _ _ _ _ _ _ _ _ => .core
  | .amomaxLiteral _ _ _ _ _ _ _ _ => .core
  | .amoand _ _ _ _ _ _ _ _ => .core
  | .amoandLiteral _ _ _ _ _ _ _ _ => .core
  | .amoor _ _ _ _ _ _ _ _ => .core
  | .amoorLiteral _ _ _ _ _ _ _ _ => .core
  | .amoxor _ _ _ _ _ _ _ _ => .core
  | .amoxorLiteral _ _ _ _ _ _ _ _ => .core
  | .amoswp _ _ _ _ _ _ _ _ => .core
  | .amoswpLiteral _ _ _ _ _ _ _ _ => .core
  | .amocas _ _ _ _ _ _ _ _ _ => .core
  | .amocasLiteral _ _ _ _ _ _ _ _ _ => .core
  | .rdadd _ _ _ _ _ _ => .core
  | .rdaddLiteral _ _ _ _ _ _ => .core
  | .rdmin _ _ _ _ _ _ => .core
  | .rdminLiteral _ _ _ _ _ _ => .core
  | .rdmax _ _ _ _ _ _ => .core
  | .rdmaxLiteral _ _ _ _ _ _ => .core
  | .xadd _ _ _ _ _ _ => .core
  | .xaddLiteral _ _ _ _ _ _ => .core
  | .xrnd _ _ _ _ _ _ _ _ _ _ _ => .core
  | .xrndLiteral _ _ _ _ _ _ _ _ _ _ _ => .core
  | .pbinit _ _ _ _ _ _ => .core
  | .pbarr _ _ _ _ => .core
  | .pbexp _ _ _ => .core
  | .pbwait _ _ _ _ => .core
  | .barrierUpdate _ _ _ => .event
  | .waita _ _ _ _ _ _ => .core
  | .waitaLiteral _ _ _ _ _ _ => .core
  | .waitaWake _ _ => .event
  | .ctarm _ _ _ _ _ _ _ => .core
  | .ctinc _ _ _ _ _ => .core
  | .fence _ _ _ _ => .core
  | .fenceInst _ _ _ => .core
  | .spawn _ _ _ _ => .core
  | .send _ _ _ _ _ _ => .core
  | .tend _ => .core
  | .cont _ _ _ _ _ => .core
  | .jdec _ _ _ _ => .core
  | .join _ _ _ _ => .core
  | .leave _ _ _ _ => .core
  | .maskh _ => .core
  | .unmaskh _ => .core
  | .recordPush _ => .event
  | .recordPark _ => .event
  | .vestibuleRelease _ => .event
  | .taskPop _ => .event
  | .handlerStart _ => .event
  | .step _ _ => .core
  | .stepq _ _ => .core
  | .rget _ _ _ _ _ _ _ _ => .core
  | .rgetv _ _ _ _ _ _ _ => .core
  | .hallq _ _ _ _ => .core
  | .stepSignal _ _ => .event
  | .stepEntry _ => .event
  | .stall _ => .event
  | .sring _ _ _ _ _ => .core
  | .sbindCons _ _ _ _ => .core
  | .sbindProd _ _ _ _ _ => .core
  | .sgain _ _ _ _ => .core
  | .sstat _ _ _ _ => .core
  | .sunbind _ _ _ => .core
  | .streamAppend _ _ => .event
  | .streamCredit _ _ => .event
  | .streamSample _ _ => .event
  | .weightMessage _ _ => .event
  | .dlaunch _ _ _ _ _ => .core
  | .coll _ _ _ _ => .core
  | .rlinv _ _ _ => .core
  | .ksend _ _ => .chunk
  | .krecv _ _ => .chunk
  | .kred _ _ => .chunk
  | .kcopy _ _ => .chunk
  | .kwait _ _ _ => .chunk
  | .ksig _ _ _ _ _ => .chunk
  | .kloop _ _ _ => .chunk
  | .kend _ => .chunk
  | .scheduleDecode _ => .event
  | .chunkComplete _ _ => .event
  | .dlv _ => .event
  | .open_ _ => .event
  | .go _ => .event
  | .cup _ => .event
  | .cdn _ => .event
  | .abt _ => .event
  | .sig _ => .event
  | .collectiveTimeout _ => .event
  | .packetTransit _ => .event
  | .sliceRead _ _ => .event
  | .sliceWrite _ => .event
  | .sliceAtomic _ => .event
  | .sliceEvict _ => .event
  | .sliceFill _ => .event
  | .readResponse _ => .event
  | .storeAck _ => .event
  | .witnessExpire _ _ => .event
  | .resultWriteback _ _ => .event
  | .serviceOverflowDrain _ _ => .event
  | .rcmdRetry _ _ => .event
  | .rcmdAbort _ _ => .event
  | .wfeWake _ => .event
  | .channelEnable _ _ _ => .event
  | .channelDisable _ _ _ => .event
  | .tailWrite _ _ _ => .event
  | .hallAllocate => .event
  | .launchStart _ => .event
  | .launchEnd _ => .event
  | .collEntryStart _ => .event
  | .waitwStart _ => .event
  | .waitwRecheck _ _ => .event
  | .signalStart _ => .event
  | .signalComplete _ _ => .event
  | .cancel _ => .event
  | .occupancySample _ => .event
  | .energyTick _ _ => .event
  | .precmdSave _ => .event
  | .saveDone => .event
  | .precmdRestore _ => .event
  | .restoreDone => .event
  | .fwinEnable _ _ _ => .event
  | .fwinDisable _ _ _ => .event
  | .fwinDisableDone _ => .event
  | .hbmerrClear _ _ => .event
  | .patrolScrub _ => .event
  | .logClear _ _ _ => .event
  | .errcntClear _ _ => .event
  | .registerWrite _ _ _ => .event
  | .hostAccess _ => .event
  | .attcmd _ => .event
  | .attestDone => .event
  | .flitReceive _ _ _ => .event
  | .retrainDone _ => .event
  | .retrainTimeout _ => .event
  | .harpinFrame _ _ _ _ => .event
  | .portUp _ => .event
  | .reset => .event
  | .firmwareVerify _ _ => .event
  | .hbmTraining => .event
  | .selfTest _ _ => .event
  | .ilupolTraining _ _ => .event
  | .pcieLinkUp _ => .event
  | .harpinTraining _ _ _ => .event
  | .ready => .event
  | .wearUpdate _ _ _ => .event
  | .illegalEncoding _ => .core
  | .fetchFault _ _ => .core
  | .coreApertureAccess _ => .event
  | .galleryRead _ => .event
  | .pcieCompletion _ => .event
  | .laneLockLoss _ => .event

end Sys2Proof
end

