-- ==== Sys2Proof/WellFormed.lean ====
section
/-!
DEFINITION. Which instructions are well formed: the conditions of R40, R42, R49, R53 to R57, R61 and of
each entry that an encoding can break although its fields have the right widths. An ill-formed instruction
traps ILLEGAL, so the decoder accepts none.
-/

namespace Sys2Proof

/-- Types 0 to 3: FP64, FP32, BF16, FP16 (R66). -/
def tyFp (ty : BitVec 4) : Bool := ty.toNat ≤ 3
/-- Types 9 to 15: the integer types (R66). -/
def tyInt (ty : BitVec 4) : Bool := 9 ≤ ty.toNat
/-- Types 6 to 8: the MX types (R66). -/
def tyMx (ty : BitVec 4) : Bool := 6 ≤ ty.toNat && ty.toNat ≤ 8
/-- Types 0 to 3 and 9 to 15 (R209). -/
def tyNum (ty : BitVec 4) : Bool := tyFp ty || tyInt ty
/-- Types 0 to 5 and 9 to 15: those of vector loads and stores (R137). -/
def tyMem (ty : BitVec 4) : Bool := ty.toNat ≤ 5 || tyInt ty
/-- Types S32, S64 and W32: those of an AMO (R249). -/
def tyAmo (ty : BitVec 4) : Bool := ty == 11#4 || ty == 12#4 || ty == 15#4
/-- RM codes 0 to 4 (R44, R82). -/
def rmOk (rm : BitVec 3) : Bool := rm.toNat ≤ 4
/-- A bit field that lies in the register (R192). -/
def fieldOk (pos wm1 : BitVec 6) : Bool := pos.toNat + wm1.toNat + 1 ≤ 64
/-- gd and gs name different registers, or both are g0 (R169, R228). -/
def gdGsOk (d gs : Reg) : Bool := d != gs || d == 0#6

/-- The listed system registers (R181). -/
def sysReg (num : BitVec 12) : Bool :=
  let n := num.toNat
  n ≤ 7 || (0x010 ≤ n && n ≤ 0x012) || n == 0x018 || n == 0x020 || (0x030 ≤ n && n ≤ 0x034) ||
    n == 0x038 || (0x100 ≤ n && n ≤ 0x103)

/-- The scopes TLBINV accepts: BAY to PKG (R417). -/
def tlbScope (scope : BitVec 3) : Bool := 1 ≤ scope.toNat && scope.toNat ≤ 5

/-- The bits of an element of each type (R66). -/
def tyBits (ty : BitVec 4) : Nat :=
  match ty.toNat with
  | 0 => 64 | 1 => 32 | 2 => 16 | 3 => 16
  | 4 => 8 | 5 => 8 | 6 => 8 | 7 => 8 | 8 => 4
  | 9 => 8 | 10 => 16 | 11 => 32 | 12 => 64
  | 13 => 8 | 14 => 16 | _ => 32

/-- The relations of VCMP: 0 to 5, and .UN for floating point (R214). -/
def relOk (ty : BitVec 4) (rel : BitVec 3) : Bool := rel.toNat ≤ 5 || (rel == 6#3 && tyFp ty)

/-- The pairs of types VCVT converts between, with SAT and C as R209 and R216 allow. -/
def cvtOk (ty src : BitVec 4) (sat : Bool) (c : VReg) : Bool :=
  if tyMx ty then tyFp src && !sat
  else if tyMx src then tyFp ty
  else c == 0#5

/-- How many values PART takes for a pair of types (R216, R217). -/
def cvtParts (ty src : BitVec 4) : Nat :=
  Nat.max (tyBits src / tyBits ty) (Nat.max (tyBits ty / tyBits src) 1)

/-- TCFG's limits (R229). -/
def rowsOk (rows rb : BitVec 8) : Bool :=
  1 ≤ rows.toNat && rows.toNat ≤ 192 && 1 ≤ rb.toNat && rb.toNat ≤ 128

/-- The accumulator and result types AFIN accepts together (R243). -/
def afinOk (acc ty : BitVec 4) : Bool :=
  match acc.toNat with
  | 0 => ty.toNat ≤ 5
  | 1 => 1 ≤ ty.toNat && ty.toNat ≤ 5
  | 11 => (1 ≤ ty.toNat && ty.toNat ≤ 3) || tyInt ty
  | _ => false

/-- The types XRND accepts; .CLR goes with XACC32 only (R253). -/
def xrndOk (ty : BitVec 4) (x64 clr : Bool) : Bool :=
  if x64 then ty.toNat ≤ 1 && !clr else 1 ≤ ty.toNat && ty.toNat ≤ 3

/-- A scalar half is well formed: only the bit fields can be ill formed (R192). -/
def SHalf.wf : SHalf → Bool
  | .bfx _ _ pos wm1 => fieldOk pos wm1
  | .bfi _ _ pos wm1 => fieldOk pos wm1
  | .rr _ _ _ _ => true | .r1 _ _ _ => true | .cmp _ _ _ _ => true | .plog _ _ _ _ => true
  | .pnot _ _ => true | .sel _ _ _ _ => true | .nrand _ _ _ => true | .imm _ _ _ _ => true
  | .sh _ _ _ _ => true | .peqi _ _ _ => true | .plti _ _ _ => true | .exts _ _ _ => true
  | .extz _ _ _ => true | .movl _ _ => true | .addpc _ _ => true

/-- A vector half is well formed: an operation with a pair form, with a type it accepts, and RM only
where the operation rounds (R54, R209). DEDUCED (log entry 16). -/
def VHalf.wf : VHalf → Bool
  | .v1 op _ _ _ =>
    match op with
    | .vabs => true | .vneg => true | .vmov => true | .vsqrt => false | .vrsq => false
  | .v2 op ty rm _ _ _ =>
    match op with
    | .vadd => tyFp ty | .vsub => tyFp ty | .vmul => tyFp ty | .vdiv => false
    | .vmin => tyNum ty && rm == 0#2 | .vmax => tyNum ty && rm == 0#2
    | .viadd => tyInt ty && rm == 0#2 | .visub => tyInt ty && rm == 0#2 | .vimul => tyInt ty && rm == 0#2
    | .vand => rm == 0#2 | .vor => rm == 0#2 | .vxor => rm == 0#2
    | .vshl => tyInt ty && rm == 0#2 | .vshr => tyInt ty && rm == 0#2 | .vsra => tyInt ty && rm == 0#2
    | .vperm => ty != 8#4 && rm == 0#2
  | .v3 op ty rm _ _ _ _ =>
    match op with
    | .vfma => tyFp ty | .vfms => tyFp ty | .vfnma => tyFp ty
    | .vclamp => tyNum ty && rm == 0#2 | .vimad => tyInt ty && rm == 0#2
  | .vcmp ty rel _ _ _ => tyNum ty && relOk ty rel
  | .vsel _ _ _ _ _ => true

/-- The predicate a scalar half writes, if it writes one. -/
def SHalf.pdst : SHalf → Option PReg
  | .cmp _ d _ _ => some d | .plog _ d _ _ => some d | .pnot d _ => some d
  | .peqi d _ _ => some d | .plti d _ _ => some d
  | .rr _ _ _ _ => none | .r1 _ _ _ => none | .sel _ _ _ _ => none | .nrand _ _ _ => none
  | .imm _ _ _ _ => none | .sh _ _ _ _ => none | .bfx _ _ _ _ => none | .bfi _ _ _ _ => none
  | .exts _ _ _ => none | .extz _ _ _ => none | .movl _ _ => none | .addpc _ _ => none

/-- The two halves of a pair write no common register (R53). Vector halves write no general register,
so only a predicate can be common. -/
def pairOk (sh : SHalf) (vh : VHalf) : Bool :=
  match vh with
  | .vcmp _ _ d _ _ => sh.pdst != some d
  | .v1 _ _ _ _ => true | .v2 _ _ _ _ _ _ => true | .v3 _ _ _ _ _ _ _ => true | .vsel _ _ _ _ _ => true

/-- An instruction is well formed (R61). Chunk instructions are judged by R65 when a schedule is decoded,
and the part's own steps have no encoding to be ill formed. -/
def Instr.wf : Instr → Bool
  | .add _ _ _ => true
  | .sub _ _ _ => true
  | .mul _ _ _ => true
  | .mulh _ _ _ => true
  | .mulhw _ _ _ => true
  | .and _ _ _ => true
  | .or _ _ _ => true
  | .xor _ _ _ => true
  | .andn _ _ _ => true
  | .orn _ _ _ => true
  | .shl _ _ _ => true
  | .shr _ _ _ => true
  | .sra _ _ _ => true
  | .rot _ _ _ => true
  | .min _ _ _ => true
  | .max _ _ _ => true
  | .minw _ _ _ => true
  | .maxw _ _ _ => true
  | .clz _ _ => true
  | .ctz _ _ => true
  | .popc _ _ => true
  | .brev _ _ => true
  | .bswp _ _ => true
  | .div _ _ _ _ => true
  | .divw _ _ _ _ => true
  | .rem _ _ _ _ => true
  | .remw _ _ _ _ => true
  | .peq _ _ _ => true
  | .pne _ _ _ => true
  | .plt _ _ _ => true
  | .ple _ _ _ => true
  | .pltw _ _ _ => true
  | .plew _ _ _ => true
  | .pand _ _ _ => true
  | .por _ _ _ => true
  | .pxor _ _ _ => true
  | .pnot _ _ => true
  | .sel _ _ _ _ => true
  | .nrand _ _ _ => true
  | .addi _ _ _ => true
  | .addiLiteral _ _ _ => true
  | .andi _ _ _ => true
  | .andiLiteral _ _ _ => true
  | .ori _ _ _ => true
  | .oriLiteral _ _ _ => true
  | .xori _ _ _ => true
  | .xoriLiteral _ _ _ => true
  | .shli _ _ _ => true
  | .shri _ _ _ => true
  | .srai _ _ _ => true
  | .roti _ _ _ => true
  | .peqi _ _ _ => true
  | .peqiLiteral _ _ _ => true
  | .plti _ _ _ => true
  | .pltiLiteral _ _ _ => true
  | .bfx _ _ pos wm1 => fieldOk pos wm1
  | .bfi _ _ pos wm1 => fieldOk pos wm1
  | .exts _ _ _ => true
  | .extz _ _ _ => true
  | .movl _ _ => true
  | .movlLiteral _ _ => true
  | .addpc _ _ => true
  | .addpcLiteral _ _ => true
  | .jalr _ _ _ => true
  | .jalrLiteral _ _ _ => true
  | .loop d _ => d != 0#6
  | .loopLiteral d _ => d != 0#6
  | .br _ _ => true
  | .jal _ _ => true
  | .nop => true
  | .ldb _ _ _ _ _ => true
  | .ldbLiteral _ _ _ _ _ => true
  | .ldbs _ _ _ _ _ => true
  | .ldbsLiteral _ _ _ _ _ => true
  | .ldh _ _ _ _ _ => true
  | .ldhLiteral _ _ _ _ _ => true
  | .ldhs _ _ _ _ _ => true
  | .ldhsLiteral _ _ _ _ _ => true
  | .ldw _ _ _ _ _ => true
  | .ldwLiteral _ _ _ _ _ => true
  | .ldws _ _ _ _ _ => true
  | .ldwsLiteral _ _ _ _ _ => true
  | .ldd _ _ _ _ _ => true
  | .lddLiteral _ _ _ _ _ => true
  | .stb _ _ _ _ => true
  | .stbLiteral _ _ _ _ => true
  | .sth _ _ _ _ => true
  | .sthLiteral _ _ _ _ => true
  | .stw _ _ _ _ => true
  | .stwLiteral _ _ _ _ => true
  | .std _ _ _ _ => true
  | .stdLiteral _ _ _ _ => true
  | .pref _ _ _ => true
  | .prefLiteral _ _ _ => true
  | .evict _ rh _ => rh != .ll
  | .evictLiteral _ rh _ => rh != .ll
  | .trap _ => true
  | .eret => true
  | .gets _ num => sysReg num
  | .sets _ num => sysReg num
  | .tlbinvPage _ scope => tlbScope scope
  | .tlbinvAsid _ scope => tlbScope scope
  | .tlbinvAll _ scope => tlbScope scope
  | .tlbinvPin _ scope => scope == 1#3
  | .bkpt _ => true
  | .wfe => true
  | .pair _ sh vh => sh.wf && vh.wf && pairOk sh vh
  | .vadd _ ty rm _ _ _ _ => tyFp ty && rmOk rm
  | .vsub _ ty rm _ _ _ _ => tyFp ty && rmOk rm
  | .vmul _ ty rm _ _ _ _ => tyFp ty && rmOk rm
  | .vfma _ ty rm _ _ _ _ _ => tyFp ty && rmOk rm
  | .vfms _ ty rm _ _ _ _ _ => tyFp ty && rmOk rm
  | .vfnma _ ty rm _ _ _ _ _ => tyFp ty && rmOk rm
  | .vdiv _ _ ty rm _ _ _ _ => tyFp ty && rmOk rm
  | .vsqrt _ _ ty rm _ _ => tyFp ty && rmOk rm
  | .vrsq _ _ ty rm _ _ => tyFp ty && rmOk rm
  | .vmin _ ty _ _ _ => tyNum ty
  | .vmax _ ty _ _ _ => tyNum ty
  | .vabs _ ty sat _ _ => tyInt ty || !sat
  | .vneg _ ty sat _ _ => tyInt ty || !sat
  | .vclamp _ ty _ _ _ _ => tyNum ty
  | .vcmp _ ty rel _ _ _ => tyNum ty && relOk ty rel
  | .vsel _ _ _ _ _ _ => true
  | .vcvt _ ty src rm sat _ _ c part => cvtOk ty src sat c && rmOk rm && part.toNat < cvtParts ty src
  | .vcvtLiteral _ ty src rm sat _ _ c lit => cvtOk ty src sat c && rmOk rm && lit.toNat < cvtParts ty src
  | .vscale _ ty src _ _ part => tyMx ty && tyFp src && part.toNat < cvtParts ty src
  | .vscaleLiteral _ ty src _ _ lit => tyMx ty && tyFp src && lit.toNat < cvtParts ty src
  | .vrsum _ ty sat _ _ => tyNum ty && (tyInt ty || !sat)
  | .vrmin _ ty _ _ => tyNum ty
  | .vrmax _ ty _ _ => tyNum ty
  | .vdot _ ty _ _ _ => tyFp ty
  | .viadd _ ty _ _ _ _ => tyInt ty
  | .visub _ ty _ _ _ _ => tyInt ty
  | .vimul _ ty _ _ _ _ => tyInt ty
  | .vimad _ ty _ _ _ _ _ => tyInt ty
  | .vand _ _ _ _ _ => true
  | .vor _ _ _ _ _ => true
  | .vxor _ _ _ _ _ => true
  | .vshl _ ty _ _ _ => tyInt ty
  | .vshr _ ty _ _ _ => tyInt ty
  | .vsra _ ty _ _ _ => tyInt ty
  | .vsplat _ _ _ _ => true
  | .vsplatLiteral _ _ _ _ => true
  | .vperm _ ty _ _ _ => ty != 8#4
  | .vext _ _ _ _ _ => true
  | .vins _ _ _ _ _ => true
  | .vmov _ _ _ _ => true
  | .vld _ _ ty _ _ _ _ => tyMem ty
  | .vldLiteral _ _ ty _ _ _ _ => tyMem ty
  | .vst _ ty _ _ _ _ => tyMem ty
  | .vstLiteral _ ty _ _ _ _ => tyMem ty
  | .vlds _ _ ty _ _ _ _ _ => tyMem ty
  | .vldsLiteral _ _ ty _ _ _ _ _ => tyMem ty
  | .vsts _ ty _ _ _ _ _ => tyMem ty
  | .vstsLiteral _ ty _ _ _ _ _ => tyMem ty
  | .vgath _ _ ty _ _ _ _ _ => tyMem ty
  | .vgathLiteral _ _ ty _ _ _ _ _ => tyMem ty
  | .vscat _ ty _ _ _ _ _ => tyMem ty
  | .vscatLiteral _ ty _ _ _ _ _ => tyMem ty
  | .tcfg _ _ _ rows rb => rowsOk rows rb
  | .tld _ _ _ d gs _ _ _ _ _ => gdGsOk d gs
  | .tst _ _ _ d gs _ _ _ _ => gdGsOk d gs
  | .tzero _ _ => true
  | .mma _ _ ty sat _ d gs _ _ _ => ty.toNat ≤ 9 && (ty == 9#4 || !sat) && gdGsOk d gs
  | .mmac _ _ ty sat _ d gs _ _ _ => ty.toNat ≤ 9 && (ty == 9#4 || !sat) && gdGsOk d gs
  | .mpoll _ _ _ => true
  | .mwait _ _ _ => true
  | .amov _ _ _ _ => true
  | .amovt _ _ _ => true
  | .azero _ _ _ => true
  | .afin _ ty acc rm _ _ _ => afinOk acc ty && rmOk rm
  | .msave _ _ _ _ => true
  | .mrest _ _ _ _ => true
  | .matrixJobStart _ => true
  | .tileRowMove _ _ => true
  | .matrixJobComplete _ _ => true
  | .cpset _ idx _ => idx.toNat ≤ 9
  | .cpget _ _ idx => idx.toNat ≤ 9
  | .cpgo _ _ d gs => gdGsOk d gs
  | .cpcan _ _ _ => true
  | .sealr _ _ _ _ => true
  | .copyStart _ => true
  | .shapeRecordFetch _ _ => true
  | .copyScout _ _ => true
  | .moveElement _ _ _ => true
  | .copyComplete _ _ => true
  | .mfill _ _ _ _ _ _ _ count => 1 ≤ count.toNat && count.toNat ≤ 768
  | .mfillLine _ => true
  | .nmcmd _ _ _ _ => true
  | .nmuLock _ _ => true
  | .nmuAccept _ => true
  | .nmuExecute _ => true
  | .nmuLine _ => true
  | .nmask _ _ _ _ thr => thr.toNat ≤ 65536
  | .amoadd _ _ ty _ _ _ _ _ _ => tyAmo ty
  | .amoaddLiteral _ _ ty _ _ _ _ _ _ => tyAmo ty
  | .amomin _ _ ty _ _ _ _ _ => tyAmo ty
  | .amominLiteral _ _ ty _ _ _ _ _ => tyAmo ty
  | .amomax _ _ ty _ _ _ _ _ => tyAmo ty
  | .amomaxLiteral _ _ ty _ _ _ _ _ => tyAmo ty
  | .amoand _ _ ty _ _ _ _ _ => tyAmo ty
  | .amoandLiteral _ _ ty _ _ _ _ _ => tyAmo ty
  | .amoor _ _ ty _ _ _ _ _ => tyAmo ty
  | .amoorLiteral _ _ ty _ _ _ _ _ => tyAmo ty
  | .amoxor _ _ ty _ _ _ _ _ => tyAmo ty
  | .amoxorLiteral _ _ ty _ _ _ _ _ => tyAmo ty
  | .amoswp _ _ ty _ _ _ _ _ => tyAmo ty
  | .amoswpLiteral _ _ ty _ _ _ _ _ => tyAmo ty
  | .amocas _ _ ty _ _ _ _ _ _ => tyAmo ty
  | .amocasLiteral _ _ ty _ _ _ _ _ _ => tyAmo ty
  | .rdadd _ ty _ _ _ _ => tyInt ty
  | .rdaddLiteral _ ty _ _ _ _ => tyInt ty
  | .rdmin _ ty _ _ _ _ => tyInt ty
  | .rdminLiteral _ ty _ _ _ _ => tyInt ty
  | .rdmax _ ty _ _ _ _ => tyInt ty
  | .rdmaxLiteral _ ty _ _ _ _ => tyInt ty
  | .xadd _ ty _ _ _ _ => 1 ≤ ty.toNat && ty.toNat ≤ 3
  | .xaddLiteral _ ty _ _ _ _ => 1 ≤ ty.toNat && ty.toNat ≤ 3
  | .xrnd _ _ ty rm _ _ _ _ x64 clr _ => rmOk rm && xrndOk ty x64 clr
  | .xrndLiteral _ _ ty rm _ _ _ _ x64 clr _ => rmOk rm && xrndOk ty x64 clr
  | .pbinit _ _ _ _ _ _ => true
  | .pbarr _ _ _ _ => true
  | .pbexp _ _ _ => true
  | .pbwait _ _ _ _ => true
  | .barrierUpdate _ _ _ => true
  | .waita _ _ _ _ _ _ => true
  | .waitaLiteral _ _ _ _ _ _ => true
  | .waitaWake _ _ => true
  | .ctarm _ _ kind _ _ _ _ => kind.toNat ≤ 2
  | .ctinc _ _ _ _ _ => true
  | .fence _ _ _ kind => kind.toNat ≤ 3
  | .fenceInst _ _ _ => true
  | .spawn _ _ _ _ => true
  | .send _ _ _ _ _ _ => true
  | .tend _ => true
  | .cont _ _ _ _ _ => true
  | .jdec _ _ _ _ => true
  | .join _ _ _ _ => true
  | .leave _ _ _ _ => true
  | .maskh _ => true
  | .unmaskh _ => true
  | .recordPush _ => true
  | .recordPark _ => true
  | .vestibuleRelease _ => true
  | .taskPop _ => true
  | .handlerStart _ => true
  | .step _ _ => true
  | .stepq _ _ => true
  | .rget _ _ ty _ _ _ _ _ => tyInt ty
  | .rgetv _ _ _ _ _ _ _ => true
  | .hallq _ _ _ _ => true
  | .stepSignal _ _ => true
  | .stepEntry _ => true
  | .stall _ => true
  | .sring _ _ _ _ _ => true
  | .sbindCons _ _ _ _ => true
  | .sbindProd _ _ _ _ _ => true
  | .sgain _ _ _ _ => true
  | .sstat _ _ _ wsel => wsel.toNat ≤ 2
  | .sunbind _ _ _ => true
  | .streamAppend _ _ => true
  | .streamCredit _ _ => true
  | .streamSample _ _ => true
  | .weightMessage _ _ => true
  | .dlaunch _ _ _ _ _ => true
  | .coll _ _ _ _ => true
  | .rlinv _ _ _ => true
  | .ksend _ _ => true
  | .krecv _ _ => true
  | .kred _ _ => true
  | .kcopy _ _ => true
  | .kwait _ _ _ => true
  | .ksig _ _ _ _ _ => true
  | .kloop _ _ _ => true
  | .kend _ => true
  | .scheduleDecode _ => true
  | .chunkComplete _ _ => true
  | .dlv _ => true
  | .open_ _ => true
  | .go _ => true
  | .cup _ => true
  | .cdn _ => true
  | .abt _ => true
  | .sig _ => true
  | .collectiveTimeout _ => true
  | .packetTransit _ => true
  | .sliceRead _ _ => true
  | .sliceWrite _ => true
  | .sliceAtomic _ => true
  | .sliceEvict _ => true
  | .sliceFill _ => true
  | .readResponse _ => true
  | .storeAck _ => true
  | .witnessExpire _ _ => true
  | .resultWriteback _ _ => true
  | .serviceOverflowDrain _ _ => true
  | .rcmdRetry _ _ => true
  | .rcmdAbort _ _ => true
  | .wfeWake _ => true
  | .channelEnable _ _ _ => true
  | .channelDisable _ _ _ => true
  | .tailWrite _ _ _ => true
  | .hallAllocate => true
  | .launchStart _ => true
  | .launchEnd _ => true
  | .collEntryStart _ => true
  | .waitwStart _ => true
  | .waitwRecheck _ _ => true
  | .signalStart _ => true
  | .signalComplete _ _ => true
  | .cancel _ => true
  | .occupancySample _ => true
  | .energyTick _ _ => true
  | .precmdSave _ => true
  | .saveDone => true
  | .precmdRestore _ => true
  | .restoreDone => true
  | .fwinEnable _ _ _ => true
  | .fwinDisable _ _ _ => true
  | .fwinDisableDone _ => true
  | .hbmerrClear _ _ => true
  | .patrolScrub _ => true
  | .logClear _ _ _ => true
  | .errcntClear _ _ => true
  | .registerWrite _ _ _ => true
  | .hostAccess _ => true
  | .attcmd _ => true
  | .attestDone => true
  | .flitReceive _ _ _ => true
  | .retrainDone _ => true
  | .retrainTimeout _ => true
  | .harpinFrame _ _ _ _ => true
  | .portUp _ => true
  | .reset => true
  | .firmwareVerify _ _ => true
  | .hbmTraining => true
  | .selfTest _ _ => true
  | .ilupolTraining _ _ => true
  | .pcieLinkUp _ => true
  | .harpinTraining _ _ _ => true
  | .ready => true
  | .wearUpdate _ _ _ => true
  | .illegalEncoding _ => true
  | .fetchFault _ _ => true
  | .coreApertureAccess _ => true
  | .galleryRead _ => true
  | .pcieCompletion _ => true
  | .laneLockLoss _ => true

end Sys2Proof
end

