-- ==== Sys2Proof/Decode.lean ====
section
/-!
DEFINITION. Encoding and decoding (R38 to R65). Words are 32 bits, the first at the lowest address. A
candidate is read from the fields of the words, and accepted only when it is well formed and encodes to
exactly the words read: so every reserved field is zero (R61), every literal form obeys R40, and no two
instructions share an encoding.
-/

namespace Sys2Proof

/-! ## Fields and formats -/

/-- A Boolean as a field of `n` bits. -/
def bitv (n : Nat) (b : Bool) : BitVec n := if b then BitVec.ofNat n 1 else BitVec.ofNat n 0

/-- The code of a retention hint (R43). -/
def Hint.bits : Hint → BitVec 2
  | .df => 0#2 | .sl => 1#2 | .ll => 2#2 | .byp => 3#2

/-- The hint of a code (R43). -/
def Hint.ofBits (b : BitVec 2) : Hint :=
  if b = 0#2 then .df else if b = 1#2 then .sl else if b = 2#2 then .ll else .byp

/-- The two words of a literal, its low half first (R38). -/
def litWords (l : Word) : List (BitVec 32) := [l.setWidth 32, l.extractLsb' 32 32]

/-- R format (R41). -/
def encR (maj d a b fn : BitVec 6) : BitVec 32 := 0#2 ++ maj ++ d ++ a ++ b ++ fn
/-- I format (R41). -/
def encI (maj d a : BitVec 6) (imm : BitVec 12) : BitVec 32 := 0#2 ++ maj ++ d ++ a ++ imm
/-- I format with a literal (R40). -/
def litI (maj d a : BitVec 6) (l : Word) : List (BitVec 32) := (1#2 ++ maj ++ d ++ a ++ 0#12 : BitVec 32) :: litWords l
/-- M format (R41, R43). -/
def encM (maj d a : BitVec 6) (la : BitVec 4) (rh : Hint) (off : BitVec 6) : BitVec 32 :=
  0#2 ++ maj ++ d ++ a ++ la ++ rh.bits ++ off
/-- M format with a literal (R40). -/
def litM (maj d a : BitVec 6) (la : BitVec 4) (rh : Hint) (l : Word) : List (BitVec 32) :=
  (1#2 ++ maj ++ d ++ a ++ la ++ rh.bits ++ 0#6 : BitVec 32) :: litWords l
/-- J format (R41). -/
def encJ (maj : BitVec 6) (gu : Guard) (disp : BitVec 20) : BitVec 32 := 0#2 ++ maj ++ gu.gp ++ bitv 1 gu.gs ++ disp
/-- Y format (R41). -/
def encY (fn a : BitVec 6) (imm : BitVec 12) : BitVec 32 := 0#2 ++ 0x3C#6 ++ fn ++ a ++ imm

/-- The fields of an extended instruction (R44). -/
structure XF where
  xop : BitVec 6 := 0
  gu : Guard := default
  ec : BitVec 4 := 0
  la : BitVec 4 := 0
  ty : BitVec 4 := 0
  rm : BitVec 3 := 0
  sat : Bool := false
  rh : BitVec 2 := 0
  d : BitVec 6 := 0
  a : BitVec 6 := 0
  b : BitVec 6 := 0
  c : BitVec 6 := 0
  fx : BitVec 8 := 0
  scope : BitVec 3 := 0
  kind : BitVec 3 := 0
  imm : BitVec 24 := 0
  deriving DecidableEq, Repr

/-- Word 0 of an extended instruction with LEN `len` (R44). -/
def XF.word0 (f : XF) (len : BitVec 2) : BitVec 32 :=
  len ++ f.xop ++ f.gu.gp ++ bitv 1 f.gu.gs ++ f.ec ++ f.la ++ f.ty ++ f.rm ++ bitv 1 f.sat ++ f.rh ++ 0#2
/-- Word 1 (R44). -/
def XF.word1 (f : XF) : BitVec 32 := f.d ++ f.a ++ f.b ++ f.c ++ f.fx
/-- Word 2 (R44). -/
def XF.word2 (f : XF) : BitVec 32 := f.scope ++ f.kind ++ 0#2 ++ f.imm

/-- The words of an extended instruction without a literal. -/
def XF.words (f : XF) : List (BitVec 32) := [f.word0 2#2, f.word1, f.word2]
/-- The words of an extended instruction with a literal. -/
def XF.wordsLit (f : XF) (l : Word) : List (BitVec 32) := f.word0 3#2 :: f.word1 :: f.word2 :: litWords l

/-- The fields read from three words (R44). -/
def XF.read (w0 w1 w2 : BitVec 32) : XF :=
  { xop := w0.extractLsb' 24 6, gu := { gp := w0.extractLsb' 21 3, gs := w0.getLsbD 20 },
    ec := w0.extractLsb' 16 4, la := w0.extractLsb' 12 4, ty := w0.extractLsb' 8 4,
    rm := w0.extractLsb' 5 3, sat := w0.getLsbD 4, rh := w0.extractLsb' 2 2,
    d := w1.extractLsb' 26 6, a := w1.extractLsb' 20 6, b := w1.extractLsb' 14 6,
    c := w1.extractLsb' 8 6, fx := w1.extractLsb' 0 8,
    scope := w2.extractLsb' 29 3, kind := w2.extractLsb' 26 3, imm := w2.extractLsb' 0 24 }

/-! ## Scalar halves -/

/-- The function code of a two-register integer operation (R57). -/
def RROp.fn : RROp → BitVec 6
  | .add => 0x1#6
  | .sub => 0x2#6
  | .mul => 0x3#6
  | .mulh => 0x4#6
  | .mulhw => 0x5#6
  | .and => 0x8#6
  | .or => 0x9#6
  | .xor => 0xa#6
  | .andn => 0xb#6
  | .orn => 0xc#6
  | .shl => 0x10#6
  | .shr => 0x11#6
  | .sra => 0x12#6
  | .rot => 0x13#6
  | .min => 0x18#6
  | .max => 0x19#6
  | .minw => 0x1a#6
  | .maxw => 0x1b#6

/-- The operation of a function code (R57). -/
def RROp.ofFn (fn : BitVec 6) : Option RROp :=
  match fn.toNat with
  | 1 => some .add
  | 2 => some .sub
  | 3 => some .mul
  | 4 => some .mulh
  | 5 => some .mulhw
  | 8 => some .and
  | 9 => some .or
  | 10 => some .xor
  | 11 => some .andn
  | 12 => some .orn
  | 16 => some .shl
  | 17 => some .shr
  | 18 => some .sra
  | 19 => some .rot
  | 24 => some .min
  | 25 => some .max
  | 26 => some .minw
  | 27 => some .maxw
  | _ => none

/-- R191. -/
def ROp.fn : ROp → BitVec 6
  | .clz => 0x00#6 | .ctz => 0x01#6 | .popc => 0x02#6 | .brev => 0x03#6 | .bswp => 0x04#6

/-- R191. -/
def ROp.ofFn (fn : BitVec 6) : Option ROp :=
  match fn.toNat with
  | 0 => some .clz | 1 => some .ctz | 2 => some .popc | 3 => some .brev | 4 => some .bswp | _ => none

/-- R196. -/
def CmpOp.fn : CmpOp → BitVec 6
  | .eq => 0x00#6 | .ne => 0x01#6 | .lt => 0x02#6 | .le => 0x03#6 | .ltw => 0x04#6 | .lew => 0x05#6

/-- R197. -/
def PLogOp.fn : PLogOp → BitVec 6
  | .and => 0x10#6 | .or => 0x11#6 | .xor => 0x12#6

/-- A predicate register in a 6-bit field (R42). -/
def pfield (p : PReg) : BitVec 6 := 0#3 ++ p

/-- The 12 bits and the literal of an immediate (R40). -/
def Imm.field : Imm → BitVec 12
  | .short i => i | .lit _ => 0#12
/-- The literal of an immediate, if it has one. -/
def Imm.lit? : Imm → Option Word
  | .short _ => none | .lit l => some l

/-- The major opcode of a scalar half (R56). -/
def SHalf.maj : SHalf → BitVec 6
  | .rr _ _ _ _ => 0x00#6 | .r1 _ _ _ => 0x01#6 | .cmp _ _ _ _ => 0x03#6 | .plog _ _ _ _ => 0x03#6
  | .pnot _ _ => 0x03#6 | .sel _ _ _ _ => 0x04#6 | .nrand _ _ _ => 0x05#6
  | .imm op _ _ _ => (match op with | .add => 0x08#6 | .and => 0x09#6 | .or => 0x0A#6 | .xor => 0x0B#6)
  | .sh op _ _ _ => (match op with | .shl => 0x0C#6 | .shr => 0x0D#6 | .sra => 0x0E#6 | .rot => 0x0F#6)
  | .peqi _ _ _ => 0x10#6 | .plti _ _ _ => 0x11#6 | .bfx _ _ _ _ => 0x12#6 | .bfi _ _ _ _ => 0x13#6
  | .exts _ _ _ => 0x14#6 | .extz _ _ _ => 0x15#6 | .movl _ _ => 0x16#6 | .addpc _ _ => 0x17#6

/-- Bits [23:0] of a scalar half's base word (R41, R55). -/
def SHalf.body : SHalf → BitVec 24
  | .rr op d a b => d ++ a ++ b ++ op.fn
  | .r1 op d a => d ++ a ++ 0#6 ++ op.fn
  | .cmp op d a b => pfield d ++ a ++ b ++ op.fn
  | .plog op d a b => pfield d ++ pfield a ++ pfield b ++ op.fn
  | .pnot d a => pfield d ++ pfield a ++ 0#6 ++ 0x13#6
  | .sel d a b p => d ++ a ++ b ++ pfield p
  | .nrand d a b => d ++ a ++ b ++ 0#6
  | .imm _ d a c => d ++ a ++ c.field
  | .sh _ d a n => d ++ a ++ 0#6 ++ n
  | .peqi d a c => pfield d ++ a ++ c.field
  | .plti d a c => pfield d ++ a ++ c.field
  | .bfx d a pos wm1 => d ++ a ++ pos ++ wm1
  | .bfi d a pos wm1 => d ++ a ++ pos ++ wm1
  | .exts d a wm1 => d ++ a ++ 0#6 ++ wm1
  | .extz d a wm1 => d ++ a ++ 0#6 ++ wm1
  | .movl d c => d ++ 0#6 ++ c.field
  | .addpc d c => d ++ 0#6 ++ c.field

/-- The literal of a scalar half, if it has one. -/
def SHalf.lit? : SHalf → Option Word
  | .imm _ _ _ c => c.lit? | .peqi _ _ c => c.lit? | .plti _ _ c => c.lit?
  | .movl _ c => c.lit? | .addpc _ c => c.lit?
  | .rr _ _ _ _ => none | .r1 _ _ _ => none | .cmp _ _ _ _ => none | .plog _ _ _ _ => none
  | .pnot _ _ => none | .sel _ _ _ _ => none | .nrand _ _ _ => none | .sh _ _ _ _ => none
  | .bfx _ _ _ _ => none | .bfi _ _ _ _ => none | .exts _ _ _ => none | .extz _ _ _ => none

/-- The words of a scalar half standing alone. -/
def SHalf.words (h : SHalf) : List (BitVec 32) :=
  match h.lit? with
  | none => [0#2 ++ h.maj ++ h.body]
  | some l => (1#2 ++ h.maj ++ h.body : BitVec 32) :: litWords l

/-- A candidate scalar half from its major opcode, its 24 bits and its literal. With a literal, an immediate shift (SHLI, SHRI,
SRAI, ROTI) is none here either, so that a pair of LEN 11 with such a half is ILLEGAL: R190 refuses it its LEN 01, R40 a
literal of R-format halves, and neither names this case. DESIGN CHOICE (log entry 43). -/
def candHalf (maj : BitVec 6) (body : BitVec 24) (lit : Option Word) : Option SHalf :=
  let d := body.extractLsb' 18 6
  let a := body.extractLsb' 12 6
  let b := body.extractLsb' 6 6
  let fn := body.extractLsb' 0 6
  let imm := body.extractLsb' 0 12
  let c : Imm := match lit with | none => .short imm | some l => .lit l
  match maj.toNat with
  | 0x00 => (RROp.ofFn fn).map (fun op => .rr op d a b)
  | 0x01 => (ROp.ofFn fn).map (fun op => .r1 op d a)
  | 0x03 =>
    let pd := d.setWidth 3
    let pa := a.setWidth 3
    let pb := b.setWidth 3
    match fn.toNat with
    | 0x00 => some (.cmp .eq pd a b) | 0x01 => some (.cmp .ne pd a b)
    | 0x02 => some (.cmp .lt pd a b) | 0x03 => some (.cmp .le pd a b)
    | 0x04 => some (.cmp .ltw pd a b) | 0x05 => some (.cmp .lew pd a b)
    | 0x10 => some (.plog .and pd pa pb) | 0x11 => some (.plog .or pd pa pb)
    | 0x12 => some (.plog .xor pd pa pb) | 0x13 => some (.pnot pd pa)
    | _ => none
  | 0x04 => some (.sel d a b (fn.setWidth 3))
  | 0x05 => some (.nrand d a b)
  | 0x08 => some (.imm .add d a c) | 0x09 => some (.imm .and d a c)
  | 0x0A => some (.imm .or d a c) | 0x0B => some (.imm .xor d a c)
  | 0x0C => some (.sh .shl d a fn) | 0x0D => some (.sh .shr d a fn)
  | 0x0E => some (.sh .sra d a fn) | 0x0F => some (.sh .rot d a fn)
  | 0x10 => some (.peqi (d.setWidth 3) a c) | 0x11 => some (.plti (d.setWidth 3) a c)
  | 0x12 => some (.bfx d a b fn) | 0x13 => some (.bfi d a b fn)
  | 0x14 => some (.exts d a fn) | 0x15 => some (.extz d a fn)
  | 0x16 => some (.movl d c) | 0x17 => some (.addpc d c)
  | _ => none

/-- The instruction of a scalar half standing alone. -/
def SHalf.toInstr : SHalf → Instr
  | .rr op d a b =>
    match op with
    | .add => .add d a b
    | .sub => .sub d a b
    | .mul => .mul d a b
    | .mulh => .mulh d a b
    | .mulhw => .mulhw d a b
    | .and => .and d a b
    | .or => .or d a b
    | .xor => .xor d a b
    | .andn => .andn d a b
    | .orn => .orn d a b
    | .shl => .shl d a b
    | .shr => .shr d a b
    | .sra => .sra d a b
    | .rot => .rot d a b
    | .min => .min d a b
    | .max => .max d a b
    | .minw => .minw d a b
    | .maxw => .maxw d a b
  | .r1 op d a =>
    match op with
    | .clz => .clz d a
    | .ctz => .ctz d a
    | .popc => .popc d a
    | .brev => .brev d a
    | .bswp => .bswp d a
  | .cmp op d a b =>
    match op with
    | .eq => .peq d a b
    | .ne => .pne d a b
    | .lt => .plt d a b
    | .le => .ple d a b
    | .ltw => .pltw d a b
    | .lew => .plew d a b
  | .plog op d a b =>
    match op with
    | .and => .pand d a b
    | .or => .por d a b
    | .xor => .pxor d a b
  | .pnot d a => .pnot d a
  | .sel d a b p => .sel d a b p
  | .nrand d a b => .nrand d a b
  | .imm op d a c =>
    match op, c with
    | .add, .short im => .addi d a im
    | .add, .lit lit => .addiLiteral d a lit
    | .and, .short im => .andi d a im
    | .and, .lit lit => .andiLiteral d a lit
    | .or, .short im => .ori d a im
    | .or, .lit lit => .oriLiteral d a lit
    | .xor, .short im => .xori d a im
    | .xor, .lit lit => .xoriLiteral d a lit
  | .sh op d a n =>
    match op with
    | .shl => .shli d a n
    | .shr => .shri d a n
    | .sra => .srai d a n
    | .rot => .roti d a n
  | .peqi d a c =>
    match c with
    | .short im => .peqi d a im
    | .lit lit => .peqiLiteral d a lit
  | .plti d a c =>
    match c with
    | .short im => .plti d a im
    | .lit lit => .pltiLiteral d a lit
  | .bfx d a pos wm1 => .bfx d a pos wm1
  | .bfi d a pos wm1 => .bfi d a pos wm1
  | .exts d a wm1 => .exts d a wm1
  | .extz d a wm1 => .extz d a wm1
  | .movl d c =>
    match c with
    | .short im => .movl d im
    | .lit lit => .movlLiteral d lit
  | .addpc d c =>
    match c with
    | .short im => .addpc d im
    | .lit lit => .addpcLiteral d lit

/-- The XOP of each operation (R58). -/
def V1Op.xop : V1Op → BitVec 6
  | .vsqrt => 0x7#6
  | .vrsq => 0x8#6
  | .vabs => 0xb#6
  | .vneg => 0xc#6
  | .vmov => 0x24#6

/-- The XOP of each operation (R58). -/
def V2Op.xop : V2Op → BitVec 6
  | .vadd => 0x0#6
  | .vsub => 0x1#6
  | .vmul => 0x2#6
  | .vdiv => 0x6#6
  | .vmin => 0x9#6
  | .vmax => 0xa#6
  | .viadd => 0x16#6
  | .visub => 0x17#6
  | .vimul => 0x18#6
  | .vand => 0x1a#6
  | .vor => 0x1b#6
  | .vxor => 0x1c#6
  | .vshl => 0x1d#6
  | .vshr => 0x1e#6
  | .vsra => 0x1f#6
  | .vperm => 0x21#6

/-- The XOP of each operation (R58). -/
def V3Op.xop : V3Op → BitVec 6
  | .vfma => 0x3#6
  | .vfms => 0x4#6
  | .vfnma => 0x5#6
  | .vclamp => 0xd#6
  | .vimad => 0x19#6

/-! ## Pairs -/

/-- Word 2 of a pair (R55). -/
def VHalf.word : VHalf → BitVec 32
  | .v1 op ty d a => op.xop ++ d ++ a ++ 0#5 ++ 0#5 ++ ty ++ 0#2
  | .v2 op ty rm d a b => op.xop ++ d ++ a ++ b ++ 0#5 ++ ty ++ rm
  | .v3 op ty rm d a b c => op.xop ++ d ++ a ++ b ++ c ++ ty ++ rm
  | .vcmp ty rel d a b => 0x0E#6 ++ (0#2 ++ d) ++ a ++ b ++ (0#2 ++ rel) ++ ty ++ 0#2
  | .vsel ty d a b p => 0x0F#6 ++ d ++ a ++ b ++ (0#2 ++ p) ++ ty ++ 0#2

/-- A candidate vector half from word 2 of a pair (R55). -/
def candVHalf (w : BitVec 32) : Option VHalf :=
  let d := w.extractLsb' 21 5
  let a := w.extractLsb' 16 5
  let b := w.extractLsb' 11 5
  let c := w.extractLsb' 6 5
  let ty := w.extractLsb' 2 4
  let rm := w.extractLsb' 0 2
  match (w.extractLsb' 26 6 : BitVec 6).toNat with
  | 0 => some (.v2 .vadd ty rm d a b)
  | 1 => some (.v2 .vsub ty rm d a b)
  | 2 => some (.v2 .vmul ty rm d a b)
  | 3 => some (.v3 .vfma ty rm d a b c)
  | 4 => some (.v3 .vfms ty rm d a b c)
  | 5 => some (.v3 .vfnma ty rm d a b c)
  | 6 => some (.v2 .vdiv ty rm d a b)
  | 7 => some (.v1 .vsqrt ty d a)
  | 8 => some (.v1 .vrsq ty d a)
  | 9 => some (.v2 .vmin ty rm d a b)
  | 10 => some (.v2 .vmax ty rm d a b)
  | 11 => some (.v1 .vabs ty d a)
  | 12 => some (.v1 .vneg ty d a)
  | 13 => some (.v3 .vclamp ty rm d a b c)
  | 14 => some (.vcmp ty (c.setWidth 3) (d.setWidth 3) a b)
  | 15 => some (.vsel ty d a b (c.setWidth 3))
  | 22 => some (.v2 .viadd ty rm d a b)
  | 23 => some (.v2 .visub ty rm d a b)
  | 24 => some (.v2 .vimul ty rm d a b)
  | 25 => some (.v3 .vimad ty rm d a b c)
  | 26 => some (.v2 .vand ty rm d a b)
  | 27 => some (.v2 .vor ty rm d a b)
  | 28 => some (.v2 .vxor ty rm d a b)
  | 29 => some (.v2 .vshl ty rm d a b)
  | 30 => some (.v2 .vshr ty rm d a b)
  | 31 => some (.v2 .vsra ty rm d a b)
  | 33 => some (.v2 .vperm ty rm d a b)
  | 36 => some (.v1 .vmov ty d a)
  | _ => none

/-- The words of a pair (R44, R53, R55). -/
def pairWords (gu : Guard) (sh : SHalf) (vh : VHalf) : List (BitVec 32) :=
  let w1 : BitVec 32 := 0#8 ++ sh.body
  match sh.lit? with
  | none => [2#2 ++ sh.maj ++ gu.gp ++ bitv 1 gu.gs ++ 3#4 ++ 0#16, w1, vh.word]
  | some l => (3#2 ++ sh.maj ++ gu.gp ++ bitv 1 gu.gs ++ 3#4 ++ 0#16 : BitVec 32) :: w1 :: vh.word :: litWords l

/-! ## The encoder -/

/-- The words of an instruction; none for the steps that no core decodes. -/
def encode : Instr → List (BitVec 32)
  | .add d a b => SHalf.words (.rr .add d a b)
  | .sub d a b => SHalf.words (.rr .sub d a b)
  | .mul d a b => SHalf.words (.rr .mul d a b)
  | .mulh d a b => SHalf.words (.rr .mulh d a b)
  | .mulhw d a b => SHalf.words (.rr .mulhw d a b)
  | .and d a b => SHalf.words (.rr .and d a b)
  | .or d a b => SHalf.words (.rr .or d a b)
  | .xor d a b => SHalf.words (.rr .xor d a b)
  | .andn d a b => SHalf.words (.rr .andn d a b)
  | .orn d a b => SHalf.words (.rr .orn d a b)
  | .shl d a b => SHalf.words (.rr .shl d a b)
  | .shr d a b => SHalf.words (.rr .shr d a b)
  | .sra d a b => SHalf.words (.rr .sra d a b)
  | .rot d a b => SHalf.words (.rr .rot d a b)
  | .min d a b => SHalf.words (.rr .min d a b)
  | .max d a b => SHalf.words (.rr .max d a b)
  | .minw d a b => SHalf.words (.rr .minw d a b)
  | .maxw d a b => SHalf.words (.rr .maxw d a b)
  | .clz d a => SHalf.words (.r1 .clz d a)
  | .ctz d a => SHalf.words (.r1 .ctz d a)
  | .popc d a => SHalf.words (.r1 .popc d a)
  | .brev d a => SHalf.words (.r1 .brev d a)
  | .bswp d a => SHalf.words (.r1 .bswp d a)
  | .div d a b la => [encR 0x02#6 d a b (la ++ 0#2)]
  | .divw d a b la => [encR 0x02#6 d a b (la ++ 1#2)]
  | .rem d a b la => [encR 0x02#6 d a b (la ++ 2#2)]
  | .remw d a b la => [encR 0x02#6 d a b (la ++ 3#2)]
  | .peq d a b => SHalf.words (.cmp .eq d a b)
  | .pne d a b => SHalf.words (.cmp .ne d a b)
  | .plt d a b => SHalf.words (.cmp .lt d a b)
  | .ple d a b => SHalf.words (.cmp .le d a b)
  | .pltw d a b => SHalf.words (.cmp .ltw d a b)
  | .plew d a b => SHalf.words (.cmp .lew d a b)
  | .pand d a b => SHalf.words (.plog .and d a b)
  | .por d a b => SHalf.words (.plog .or d a b)
  | .pxor d a b => SHalf.words (.plog .xor d a b)
  | .pnot d a => SHalf.words (.pnot d a)
  | .sel d a b p => SHalf.words (.sel d a b p)
  | .nrand d a b => SHalf.words (.nrand d a b)
  | .addi d a imm => SHalf.words (.imm .add d a (.short imm))
  | .addiLiteral d a lit => SHalf.words (.imm .add d a (.lit lit))
  | .andi d a imm => SHalf.words (.imm .and d a (.short imm))
  | .andiLiteral d a lit => SHalf.words (.imm .and d a (.lit lit))
  | .ori d a imm => SHalf.words (.imm .or d a (.short imm))
  | .oriLiteral d a lit => SHalf.words (.imm .or d a (.lit lit))
  | .xori d a imm => SHalf.words (.imm .xor d a (.short imm))
  | .xoriLiteral d a lit => SHalf.words (.imm .xor d a (.lit lit))
  | .shli d a n => SHalf.words (.sh .shl d a n)
  | .shri d a n => SHalf.words (.sh .shr d a n)
  | .srai d a n => SHalf.words (.sh .sra d a n)
  | .roti d a n => SHalf.words (.sh .rot d a n)
  | .peqi d a imm => SHalf.words (.peqi d a (.short imm))
  | .peqiLiteral d a lit => SHalf.words (.peqi d a (.lit lit))
  | .plti d a imm => SHalf.words (.plti d a (.short imm))
  | .pltiLiteral d a lit => SHalf.words (.plti d a (.lit lit))
  | .bfx d a pos wm1 => SHalf.words (.bfx d a pos wm1)
  | .bfi d a pos wm1 => SHalf.words (.bfi d a pos wm1)
  | .exts d a wm1 => SHalf.words (.exts d a wm1)
  | .extz d a wm1 => SHalf.words (.extz d a wm1)
  | .movl d imm => SHalf.words (.movl d (.short imm))
  | .movlLiteral d lit => SHalf.words (.movl d (.lit lit))
  | .addpc d imm => SHalf.words (.addpc d (.short imm))
  | .addpcLiteral d lit => SHalf.words (.addpc d (.lit lit))
  | .jalr d a imm => [encI 0x18#6 d a imm]
  | .jalrLiteral d a lit => litI 0x18#6 d a lit
  | .loop d imm => [encI 0x19#6 d 0#6 imm]
  | .loopLiteral d lit => litI 0x19#6 d 0#6 lit
  | .br gu disp => [encJ 0x20#6 gu disp]
  | .jal gu disp => [encJ 0x21#6 gu disp]
  | .nop => [0x23000000#32]
  | .ldb d a la rh off => [encM 0x28#6 d a la rh off]
  | .ldbLiteral d a la rh lit => litM 0x28#6 d a la rh lit
  | .ldbs d a la rh off => [encM 0x29#6 d a la rh off]
  | .ldbsLiteral d a la rh lit => litM 0x29#6 d a la rh lit
  | .ldh d a la rh off => [encM 0x2a#6 d a la rh off]
  | .ldhLiteral d a la rh lit => litM 0x2a#6 d a la rh lit
  | .ldhs d a la rh off => [encM 0x2b#6 d a la rh off]
  | .ldhsLiteral d a la rh lit => litM 0x2b#6 d a la rh lit
  | .ldw d a la rh off => [encM 0x2c#6 d a la rh off]
  | .ldwLiteral d a la rh lit => litM 0x2c#6 d a la rh lit
  | .ldws d a la rh off => [encM 0x2d#6 d a la rh off]
  | .ldwsLiteral d a la rh lit => litM 0x2d#6 d a la rh lit
  | .ldd d a la rh off => [encM 0x2e#6 d a la rh off]
  | .lddLiteral d a la rh lit => litM 0x2e#6 d a la rh lit
  | .stb d a rh off => [encM 0x30#6 d a 0#4 rh off]
  | .stbLiteral d a rh lit => litM 0x30#6 d a 0#4 rh lit
  | .sth d a rh off => [encM 0x31#6 d a 0#4 rh off]
  | .sthLiteral d a rh lit => litM 0x31#6 d a 0#4 rh lit
  | .stw d a rh off => [encM 0x32#6 d a 0#4 rh off]
  | .stwLiteral d a rh lit => litM 0x32#6 d a 0#4 rh lit
  | .std d a rh off => [encM 0x33#6 d a 0#4 rh off]
  | .stdLiteral d a rh lit => litM 0x33#6 d a 0#4 rh lit
  | .pref a rh off => [encM 0x34#6 0#6 a 0#4 rh off]
  | .prefLiteral a rh lit => litM 0x34#6 0#6 a 0#4 rh lit
  | .evict a rh off => [encM 0x35#6 0#6 a 0#4 rh off]
  | .evictLiteral a rh lit => litM 0x35#6 0#6 a 0#4 rh lit
  | .trap imm => [encY 0x00#6 0#6 imm]
  | .eret => [encY 0x01#6 0#6 0#12]
  | .gets a num => [encY 0x02#6 a num]
  | .sets a num => [encY 0x03#6 a num]
  | .tlbinvPage a scope => [encY 0x04#6 a (0#7 ++ 0#2 ++ scope)]
  | .tlbinvAsid a scope => [encY 0x04#6 a (0#7 ++ 1#2 ++ scope)]
  | .tlbinvAll a scope => [encY 0x04#6 a (0#7 ++ 2#2 ++ scope)]
  | .tlbinvPin a scope => [encY 0x04#6 a (0#7 ++ 3#2 ++ scope)]
  | .bkpt imm => [encY 0x05#6 0#6 imm]
  | .wfe => [encY 0x06#6 0#6 0#12]
  | .pair gu sh vh => pairWords gu sh vh
  | .vadd gu ty rm sat d a b => XF.words { ec := 0#4, xop := 0x0#6, gu := gu, ty := ty, rm := rm, sat := sat, d := d.setWidth 6, a := a.setWidth 6, b := b.setWidth 6 }
  | .vsub gu ty rm sat d a b => XF.words { ec := 0#4, xop := 0x1#6, gu := gu, ty := ty, rm := rm, sat := sat, d := d.setWidth 6, a := a.setWidth 6, b := b.setWidth 6 }
  | .vmul gu ty rm sat d a b => XF.words { ec := 0#4, xop := 0x2#6, gu := gu, ty := ty, rm := rm, sat := sat, d := d.setWidth 6, a := a.setWidth 6, b := b.setWidth 6 }
  | .vfma gu ty rm sat d a b c => XF.words { ec := 0#4, xop := 0x3#6, gu := gu, ty := ty, rm := rm, sat := sat, d := d.setWidth 6, a := a.setWidth 6, b := b.setWidth 6, c := c.setWidth 6 }
  | .vfms gu ty rm sat d a b c => XF.words { ec := 0#4, xop := 0x4#6, gu := gu, ty := ty, rm := rm, sat := sat, d := d.setWidth 6, a := a.setWidth 6, b := b.setWidth 6, c := c.setWidth 6 }
  | .vfnma gu ty rm sat d a b c => XF.words { ec := 0#4, xop := 0x5#6, gu := gu, ty := ty, rm := rm, sat := sat, d := d.setWidth 6, a := a.setWidth 6, b := b.setWidth 6, c := c.setWidth 6 }
  | .vdiv gu la ty rm sat d a b => XF.words { ec := 0#4, xop := 0x6#6, gu := gu, la := la, ty := ty, rm := rm, sat := sat, d := d.setWidth 6, a := a.setWidth 6, b := b.setWidth 6 }
  | .vsqrt gu la ty rm d a => XF.words { ec := 0#4, xop := 0x7#6, gu := gu, la := la, ty := ty, rm := rm, d := d.setWidth 6, a := a.setWidth 6 }
  | .vrsq gu la ty rm d a => XF.words { ec := 0#4, xop := 0x8#6, gu := gu, la := la, ty := ty, rm := rm, d := d.setWidth 6, a := a.setWidth 6 }
  | .vmin gu ty d a b => XF.words { ec := 0#4, xop := 0x9#6, gu := gu, ty := ty, d := d.setWidth 6, a := a.setWidth 6, b := b.setWidth 6 }
  | .vmax gu ty d a b => XF.words { ec := 0#4, xop := 0xa#6, gu := gu, ty := ty, d := d.setWidth 6, a := a.setWidth 6, b := b.setWidth 6 }
  | .vabs gu ty sat d a => XF.words { ec := 0#4, xop := 0xb#6, gu := gu, ty := ty, sat := sat, d := d.setWidth 6, a := a.setWidth 6 }
  | .vneg gu ty sat d a => XF.words { ec := 0#4, xop := 0xc#6, gu := gu, ty := ty, sat := sat, d := d.setWidth 6, a := a.setWidth 6 }
  | .vclamp gu ty d a b c => XF.words { ec := 0#4, xop := 0xd#6, gu := gu, ty := ty, d := d.setWidth 6, a := a.setWidth 6, b := b.setWidth 6, c := c.setWidth 6 }
  | .vcmp gu ty rel d a b => XF.words { ec := 0#4, xop := 0xe#6, gu := gu, ty := ty, d := d.setWidth 6, a := a.setWidth 6, b := b.setWidth 6, c := rel.setWidth 6 }
  | .vsel gu ty d a b p => XF.words { ec := 0#4, xop := 0xf#6, gu := gu, ty := ty, d := d.setWidth 6, a := a.setWidth 6, b := b.setWidth 6, c := p.setWidth 6 }
  | .vcvt gu ty src rm sat d a c part => XF.words { ec := 0#4, xop := 0x10#6, gu := gu, ty := ty, fx := src.setWidth 8, rm := rm, sat := sat, d := d.setWidth 6, a := a.setWidth 6, c := c.setWidth 6, imm := part.setWidth 24 }
  | .vcvtLiteral gu ty src rm sat d a c lit => XF.wordsLit { ec := 0#4, xop := 0x10#6, gu := gu, ty := ty, fx := src.setWidth 8, rm := rm, sat := sat, d := d.setWidth 6, a := a.setWidth 6, c := c.setWidth 6 } lit
  | .vscale gu ty src d a part => XF.words { ec := 0#4, xop := 0x11#6, gu := gu, ty := ty, fx := src.setWidth 8, d := d.setWidth 6, a := a.setWidth 6, imm := part.setWidth 24 }
  | .vscaleLiteral gu ty src d a lit => XF.wordsLit { ec := 0#4, xop := 0x11#6, gu := gu, ty := ty, fx := src.setWidth 8, d := d.setWidth 6, a := a.setWidth 6 } lit
  | .vrsum gu ty sat d a => XF.words { ec := 0#4, xop := 0x12#6, gu := gu, ty := ty, sat := sat, d := d.setWidth 6, a := a.setWidth 6 }
  | .vrmin gu ty d a => XF.words { ec := 0#4, xop := 0x13#6, gu := gu, ty := ty, d := d.setWidth 6, a := a.setWidth 6 }
  | .vrmax gu ty d a => XF.words { ec := 0#4, xop := 0x14#6, gu := gu, ty := ty, d := d.setWidth 6, a := a.setWidth 6 }
  | .vdot gu ty d a b => XF.words { ec := 0#4, xop := 0x15#6, gu := gu, ty := ty, d := d.setWidth 6, a := a.setWidth 6, b := b.setWidth 6 }
  | .viadd gu ty sat d a b => XF.words { ec := 0#4, xop := 0x16#6, gu := gu, ty := ty, sat := sat, d := d.setWidth 6, a := a.setWidth 6, b := b.setWidth 6 }
  | .visub gu ty sat d a b => XF.words { ec := 0#4, xop := 0x17#6, gu := gu, ty := ty, sat := sat, d := d.setWidth 6, a := a.setWidth 6, b := b.setWidth 6 }
  | .vimul gu ty sat d a b => XF.words { ec := 0#4, xop := 0x18#6, gu := gu, ty := ty, sat := sat, d := d.setWidth 6, a := a.setWidth 6, b := b.setWidth 6 }
  | .vimad gu ty sat d a b c => XF.words { ec := 0#4, xop := 0x19#6, gu := gu, ty := ty, sat := sat, d := d.setWidth 6, a := a.setWidth 6, b := b.setWidth 6, c := c.setWidth 6 }
  | .vand gu ty d a b => XF.words { ec := 0#4, xop := 0x1a#6, gu := gu, ty := ty, d := d.setWidth 6, a := a.setWidth 6, b := b.setWidth 6 }
  | .vor gu ty d a b => XF.words { ec := 0#4, xop := 0x1b#6, gu := gu, ty := ty, d := d.setWidth 6, a := a.setWidth 6, b := b.setWidth 6 }
  | .vxor gu ty d a b => XF.words { ec := 0#4, xop := 0x1c#6, gu := gu, ty := ty, d := d.setWidth 6, a := a.setWidth 6, b := b.setWidth 6 }
  | .vshl gu ty d a b => XF.words { ec := 0#4, xop := 0x1d#6, gu := gu, ty := ty, d := d.setWidth 6, a := a.setWidth 6, b := b.setWidth 6 }
  | .vshr gu ty d a b => XF.words { ec := 0#4, xop := 0x1e#6, gu := gu, ty := ty, d := d.setWidth 6, a := a.setWidth 6, b := b.setWidth 6 }
  | .vsra gu ty d a b => XF.words { ec := 0#4, xop := 0x1f#6, gu := gu, ty := ty, d := d.setWidth 6, a := a.setWidth 6, b := b.setWidth 6 }
  | .vsplat gu ty d a => XF.words { ec := 0#4, xop := 0x20#6, gu := gu, ty := ty, d := d.setWidth 6, a := a }
  | .vsplatLiteral gu ty d lit => XF.wordsLit { ec := 0#4, xop := 0x20#6, gu := gu, ty := ty, d := d.setWidth 6 } lit
  | .vperm gu ty d a b => XF.words { ec := 0#4, xop := 0x21#6, gu := gu, ty := ty, d := d.setWidth 6, a := a.setWidth 6, b := b.setWidth 6 }
  | .vext gu ty d a b => XF.words { ec := 0#4, xop := 0x22#6, gu := gu, ty := ty, d := d, a := a.setWidth 6, b := b }
  | .vins gu ty d a b => XF.words { ec := 0#4, xop := 0x23#6, gu := gu, ty := ty, d := d.setWidth 6, a := a, b := b }
  | .vmov gu ty d a => XF.words { ec := 0#4, xop := 0x24#6, gu := gu, ty := ty, d := d.setWidth 6, a := a.setWidth 6 }
  | .vld gu la ty rh d a imm => XF.words { ec := 0#4, xop := 0x28#6, gu := gu, la := la, ty := ty, rh := rh.bits, d := d.setWidth 6, a := a, imm := imm }
  | .vldLiteral gu la ty rh d a lit => XF.wordsLit { ec := 0#4, xop := 0x28#6, gu := gu, la := la, ty := ty, rh := rh.bits, d := d.setWidth 6, a := a } lit
  | .vst gu ty rh d a imm => XF.words { ec := 0#4, xop := 0x29#6, gu := gu, ty := ty, rh := rh.bits, d := d.setWidth 6, a := a, imm := imm }
  | .vstLiteral gu ty rh d a lit => XF.wordsLit { ec := 0#4, xop := 0x29#6, gu := gu, ty := ty, rh := rh.bits, d := d.setWidth 6, a := a } lit
  | .vlds gu la ty rh d a b imm => XF.words { ec := 0#4, xop := 0x2a#6, gu := gu, la := la, ty := ty, rh := rh.bits, d := d.setWidth 6, a := a, b := b, imm := imm }
  | .vldsLiteral gu la ty rh d a b lit => XF.wordsLit { ec := 0#4, xop := 0x2a#6, gu := gu, la := la, ty := ty, rh := rh.bits, d := d.setWidth 6, a := a, b := b } lit
  | .vsts gu ty rh d a b imm => XF.words { ec := 0#4, xop := 0x2b#6, gu := gu, ty := ty, rh := rh.bits, d := d.setWidth 6, a := a, b := b, imm := imm }
  | .vstsLiteral gu ty rh d a b lit => XF.wordsLit { ec := 0#4, xop := 0x2b#6, gu := gu, ty := ty, rh := rh.bits, d := d.setWidth 6, a := a, b := b } lit
  | .vgath gu la ty rh d a b imm => XF.words { ec := 0#4, xop := 0x2c#6, gu := gu, la := la, ty := ty, rh := rh.bits, d := d.setWidth 6, a := a, b := b.setWidth 6, imm := imm }
  | .vgathLiteral gu la ty rh d a b lit => XF.wordsLit { ec := 0#4, xop := 0x2c#6, gu := gu, la := la, ty := ty, rh := rh.bits, d := d.setWidth 6, a := a, b := b.setWidth 6 } lit
  | .vscat gu ty rh d a b imm => XF.words { ec := 0#4, xop := 0x2d#6, gu := gu, ty := ty, rh := rh.bits, d := d.setWidth 6, a := a, b := b.setWidth 6, imm := imm }
  | .vscatLiteral gu ty rh d a b lit => XF.wordsLit { ec := 0#4, xop := 0x2d#6, gu := gu, ty := ty, rh := rh.bits, d := d.setWidth 6, a := a, b := b.setWidth 6 } lit
  | .tcfg gu ty t rows rb => XF.words { ec := 1#4, xop := 0x0#6, gu := gu, ty := ty, d := t.setWidth 6, imm := 0#8 ++ rb ++ rows }
  | .tld gu la rh d gs a b scale t bm => XF.words { ec := 1#4, xop := 0x1#6, gu := gu, la := la, rh := rh.bits, d := d, a := a, b := b, c := gs, fx := bitv 8 scale, imm := 0#8 ++ bm ++ 0#4 ++ t }
  | .tst gu la rh d gs a b scale t => XF.words { ec := 1#4, xop := 0x2#6, gu := gu, la := la, rh := rh.bits, d := d, a := a, b := b, c := gs, fx := bitv 8 scale, imm := t.setWidth 24 }
  | .tzero gu t => XF.words { ec := 1#4, xop := 0x3#6, gu := gu, d := t.setWidth 6 }
  | .mma gu la ty sat z d gs ta tb abase => XF.words { ec := 1#4, xop := 0x8#6, gu := gu, la := la, ty := ty, sat := sat, kind := bitv 3 z, d := d, a := ta.setWidth 6, b := tb.setWidth 6, c := gs, imm := abase.setWidth 24 }
  | .mmac gu la ty sat z d gs ta tb abase => XF.words { ec := 1#4, xop := 0x9#6, gu := gu, la := la, ty := ty, sat := sat, kind := bitv 3 z, d := d, a := ta.setWidth 6, b := tb.setWidth 6, c := gs, imm := abase.setWidth 24 }
  | .mpoll gu d a => XF.words { ec := 1#4, xop := 0xa#6, gu := gu, d := d, a := a }
  | .mwait gu d a => XF.words { ec := 1#4, xop := 0xb#6, gu := gu, d := d, a := a }
  | .amov gu t toa abase => XF.words { ec := 1#4, xop := 0x10#6, gu := gu, d := t.setWidth 6, kind := bitv 3 toa, imm := abase.setWidth 24 }
  | .amovt gu t abase => XF.words { ec := 1#4, xop := 0x11#6, gu := gu, d := t.setWidth 6, imm := abase.setWidth 24 }
  | .azero gu a abase => XF.words { ec := 1#4, xop := 0x12#6, gu := gu, a := a, imm := abase.setWidth 24 }
  | .afin gu ty acc rm sat t abase => XF.words { ec := 1#4, xop := 0x13#6, gu := gu, ty := ty, fx := acc.setWidth 8, rm := rm, sat := sat, d := t.setWidth 6, imm := abase.setWidth 24 }
  | .msave gu la d a => XF.words { ec := 1#4, xop := 0x18#6, gu := gu, la := la, d := d, a := a }
  | .mrest gu la d a => XF.words { ec := 1#4, xop := 0x19#6, gu := gu, la := la, d := d, a := a }
  | .matrixJobStart _ => []
  | .tileRowMove _ _ => []
  | .matrixJobComplete _ _ => []
  | .cpset gu idx a => XF.words { ec := 2#4, xop := 0x0#6, gu := gu, a := a, imm := idx.setWidth 24 }
  | .cpget gu d idx => XF.words { ec := 2#4, xop := 0x1#6, gu := gu, d := d, imm := idx.setWidth 24 }
  | .cpgo gu la d gs => XF.words { ec := 2#4, xop := 0x2#6, gu := gu, la := la, d := d, c := gs }
  | .cpcan gu d a => XF.words { ec := 2#4, xop := 0x3#6, gu := gu, d := d, a := a }
  | .sealr gu la d a => XF.words { ec := 2#4, xop := 0x4#6, gu := gu, la := la, d := d, a := a }
  | .copyStart _ => []
  | .shapeRecordFetch _ _ => []
  | .copyScout _ _ => []
  | .moveElement _ _ _ => []
  | .copyComplete _ _ => []
  | .mfill gu la rh d a b c count => XF.words { ec := 2#4, xop := 0x5#6, gu := gu, la := la, rh := rh.bits, d := d, a := a, b := b, c := c, imm := count }
  | .mfillLine _ => []
  | .nmcmd gu la d a => XF.words { ec := 2#4, xop := 0x6#6, gu := gu, la := la, d := d, a := a }
  | .nmuLock _ _ => []
  | .nmuAccept _ => []
  | .nmuExecute _ => []
  | .nmuLine _ => []
  | .nmask gu d a b thr => XF.words { ec := 2#4, xop := 0x7#6, gu := gu, d := d, a := a, b := b, imm := thr }
  | .amoadd gu la ty sat rh d a b imm => XF.words { ec := 2#4, xop := 0x8#6, gu := gu, la := la, ty := ty, sat := sat, rh := rh.bits, d := d, a := a, b := b, imm := imm }
  | .amoaddLiteral gu la ty sat rh d a b lit => XF.wordsLit { ec := 2#4, xop := 0x8#6, gu := gu, la := la, ty := ty, sat := sat, rh := rh.bits, d := d, a := a, b := b } lit
  | .amomin gu la ty rh d a b imm => XF.words { ec := 2#4, xop := 0x9#6, gu := gu, la := la, ty := ty, rh := rh.bits, d := d, a := a, b := b, imm := imm }
  | .amominLiteral gu la ty rh d a b lit => XF.wordsLit { ec := 2#4, xop := 0x9#6, gu := gu, la := la, ty := ty, rh := rh.bits, d := d, a := a, b := b } lit
  | .amomax gu la ty rh d a b imm => XF.words { ec := 2#4, xop := 0xa#6, gu := gu, la := la, ty := ty, rh := rh.bits, d := d, a := a, b := b, imm := imm }
  | .amomaxLiteral gu la ty rh d a b lit => XF.wordsLit { ec := 2#4, xop := 0xa#6, gu := gu, la := la, ty := ty, rh := rh.bits, d := d, a := a, b := b } lit
  | .amoand gu la ty rh d a b imm => XF.words { ec := 2#4, xop := 0xb#6, gu := gu, la := la, ty := ty, rh := rh.bits, d := d, a := a, b := b, imm := imm }
  | .amoandLiteral gu la ty rh d a b lit => XF.wordsLit { ec := 2#4, xop := 0xb#6, gu := gu, la := la, ty := ty, rh := rh.bits, d := d, a := a, b := b } lit
  | .amoor gu la ty rh d a b imm => XF.words { ec := 2#4, xop := 0xc#6, gu := gu, la := la, ty := ty, rh := rh.bits, d := d, a := a, b := b, imm := imm }
  | .amoorLiteral gu la ty rh d a b lit => XF.wordsLit { ec := 2#4, xop := 0xc#6, gu := gu, la := la, ty := ty, rh := rh.bits, d := d, a := a, b := b } lit
  | .amoxor gu la ty rh d a b imm => XF.words { ec := 2#4, xop := 0xd#6, gu := gu, la := la, ty := ty, rh := rh.bits, d := d, a := a, b := b, imm := imm }
  | .amoxorLiteral gu la ty rh d a b lit => XF.wordsLit { ec := 2#4, xop := 0xd#6, gu := gu, la := la, ty := ty, rh := rh.bits, d := d, a := a, b := b } lit
  | .amoswp gu la ty rh d a b imm => XF.words { ec := 2#4, xop := 0xe#6, gu := gu, la := la, ty := ty, rh := rh.bits, d := d, a := a, b := b, imm := imm }
  | .amoswpLiteral gu la ty rh d a b lit => XF.wordsLit { ec := 2#4, xop := 0xe#6, gu := gu, la := la, ty := ty, rh := rh.bits, d := d, a := a, b := b } lit
  | .amocas gu la ty rh d a b c imm => XF.words { ec := 2#4, xop := 0xf#6, gu := gu, la := la, ty := ty, rh := rh.bits, d := d, a := a, b := b, c := c, imm := imm }
  | .amocasLiteral gu la ty rh d a b c lit => XF.wordsLit { ec := 2#4, xop := 0xf#6, gu := gu, la := la, ty := ty, rh := rh.bits, d := d, a := a, b := b, c := c } lit
  | .rdadd gu ty rh a b imm => XF.words { ec := 2#4, xop := 0x10#6, gu := gu, ty := ty, rh := rh.bits, a := a, b := b, imm := imm }
  | .rdaddLiteral gu ty rh a b lit => XF.wordsLit { ec := 2#4, xop := 0x10#6, gu := gu, ty := ty, rh := rh.bits, a := a, b := b } lit
  | .rdmin gu ty rh a b imm => XF.words { ec := 2#4, xop := 0x11#6, gu := gu, ty := ty, rh := rh.bits, a := a, b := b, imm := imm }
  | .rdminLiteral gu ty rh a b lit => XF.wordsLit { ec := 2#4, xop := 0x11#6, gu := gu, ty := ty, rh := rh.bits, a := a, b := b } lit
  | .rdmax gu ty rh a b imm => XF.words { ec := 2#4, xop := 0x12#6, gu := gu, ty := ty, rh := rh.bits, a := a, b := b, imm := imm }
  | .rdmaxLiteral gu ty rh a b lit => XF.wordsLit { ec := 2#4, xop := 0x12#6, gu := gu, ty := ty, rh := rh.bits, a := a, b := b } lit
  | .xadd gu ty rh a b imm => XF.words { ec := 2#4, xop := 0x13#6, gu := gu, ty := ty, rh := rh.bits, a := a, b := b, imm := imm }
  | .xaddLiteral gu ty rh a b lit => XF.wordsLit { ec := 2#4, xop := 0x13#6, gu := gu, ty := ty, rh := rh.bits, a := a, b := b } lit
  | .xrnd gu la ty rm sat rh d a x64 clr imm => XF.words { ec := 2#4, xop := 0x14#6, gu := gu, la := la, ty := ty, rm := rm, sat := sat, rh := rh.bits, d := d, a := a, fx := 0#6 ++ bitv 1 clr ++ bitv 1 x64, imm := imm }
  | .xrndLiteral gu la ty rm sat rh d a x64 clr lit => XF.wordsLit { ec := 2#4, xop := 0x14#6, gu := gu, la := la, ty := ty, rm := rm, sat := sat, rh := rh.bits, d := d, a := a, fx := 0#6 ++ bitv 1 clr ++ bitv 1 x64 } lit
  | .pbinit gu la d a b c => XF.words { ec := 2#4, xop := 0x18#6, gu := gu, la := la, d := d, a := a, b := b, c := c }
  | .pbarr gu la d a => XF.words { ec := 2#4, xop := 0x19#6, gu := gu, la := la, d := d, a := a }
  | .pbexp gu a b => XF.words { ec := 2#4, xop := 0x1a#6, gu := gu, a := a, b := b }
  | .pbwait gu d a b => XF.words { ec := 2#4, xop := 0x1b#6, gu := gu, d := d, a := a, b := b }
  | .barrierUpdate _ _ _ => []
  | .waita gu la d a b imm => XF.words { ec := 2#4, xop := 0x1c#6, gu := gu, la := la, d := d, a := a, b := b, imm := imm }
  | .waitaLiteral gu la d a b lit => XF.wordsLit { ec := 2#4, xop := 0x1c#6, gu := gu, la := la, d := d, a := a, b := b } lit
  | .waitaWake _ _ => []
  | .ctarm gu la kind d a b c => XF.words { ec := 2#4, xop := 0x1d#6, gu := gu, la := la, kind := kind, d := d, a := a, b := b, c := c }
  | .ctinc gu la d a b => XF.words { ec := 2#4, xop := 0x1e#6, gu := gu, la := la, d := d, a := a, b := b }
  | .fence gu d scope kind => XF.words { ec := 2#4, xop := 0x1f#6, gu := gu, d := d, scope := scope, kind := kind }
  | .fenceInst gu d scope => XF.words { ec := 2#4, xop := 0x1f#6, gu := gu, d := d, scope := scope, kind := 4#3 }
  | .spawn gu d a b => XF.words { ec := 2#4, xop := 0x20#6, gu := gu, d := d, a := a, b := b }
  | .send gu la h d a b => XF.words { ec := 2#4, xop := 0x21#6, gu := gu, la := la, fx := bitv 8 h, d := d, a := a, b := b }
  | .tend gu => XF.words { ec := 2#4, xop := 0x22#6, gu := gu }
  | .cont gu la d a b => XF.words { ec := 2#4, xop := 0x23#6, gu := gu, la := la, d := d, a := a, b := b }
  | .jdec gu la d a => XF.words { ec := 2#4, xop := 0x24#6, gu := gu, la := la, d := d, a := a }
  | .join gu la d a => XF.words { ec := 2#4, xop := 0x25#6, gu := gu, la := la, d := d, a := a }
  | .leave gu la d a => XF.words { ec := 2#4, xop := 0x26#6, gu := gu, la := la, d := d, a := a }
  | .maskh gu => XF.words { ec := 2#4, xop := 0x27#6, gu := gu }
  | .unmaskh gu => XF.words { ec := 2#4, xop := 0x28#6, gu := gu }
  | .recordPush _ => []
  | .recordPark _ => []
  | .vestibuleRelease _ => []
  | .taskPop _ => []
  | .handlerStart _ => []
  | .step gu d => XF.words { ec := 2#4, xop := 0x30#6, gu := gu, d := d }
  | .stepq gu d => XF.words { ec := 2#4, xop := 0x31#6, gu := gu, d := d }
  | .rget gu la ty d a dx dy off => XF.words { ec := 2#4, xop := 0x32#6, gu := gu, la := la, ty := ty, d := d, a := a, imm := dx ++ dy ++ 0#2 ++ off }
  | .rgetv gu la d a dx dy off => XF.words { ec := 2#4, xop := 0x33#6, gu := gu, la := la, d := d.setWidth 6, a := a, imm := dx ++ dy ++ 0#2 ++ off }
  | .hallq gu la d a => XF.words { ec := 2#4, xop := 0x34#6, gu := gu, la := la, d := d, a := a }
  | .stepSignal _ _ => []
  | .stepEntry _ => []
  | .stall _ => []
  | .sring gu d a b q => XF.words { ec := 2#4, xop := 0x39#6, gu := gu, d := d, a := a, b := b, c := 3#3 ++ q }
  | .sbindCons gu d b q => XF.words { ec := 2#4, xop := 0x38#6, gu := gu, d := d, b := b, c := 3#3 ++ q }
  | .sbindProd gu d b q k => XF.words { ec := 2#4, xop := 0x38#6, gu := gu, d := d, b := b, c := 3#3 ++ q, fx := 1#8, imm := k.setWidth 24 }
  | .sgain gu d b q => XF.words { ec := 2#4, xop := 0x3a#6, gu := gu, d := d, b := b, c := 3#3 ++ q }
  | .sstat gu d q wsel => XF.words { ec := 2#4, xop := 0x3b#6, gu := gu, d := d, c := 3#3 ++ q, imm := wsel.setWidth 24 }
  | .sunbind gu d q => XF.words { ec := 2#4, xop := 0x3c#6, gu := gu, d := d, c := 3#3 ++ q }
  | .streamAppend _ _ => []
  | .streamCredit _ _ => []
  | .streamSample _ _ => []
  | .weightMessage _ _ => []
  | .dlaunch gu la d a b => XF.words { ec := 2#4, xop := 0x3d#6, gu := gu, la := la, d := d, a := a, b := b }
  | .coll gu la d a => XF.words { ec := 2#4, xop := 0x3e#6, gu := gu, la := la, d := d, a := a }
  | .rlinv gu d a => XF.words { ec := 2#4, xop := 0x3f#6, gu := gu, d := d, a := a }
  | .ksend _ _ => []
  | .krecv _ _ => []
  | .kred _ _ => []
  | .kcopy _ _ => []
  | .kwait _ _ _ => []
  | .ksig _ _ _ _ _ => []
  | .kloop _ _ _ => []
  | .kend _ => []
  | .scheduleDecode _ => []
  | .chunkComplete _ _ => []
  | .dlv _ => []
  | .open_ _ => []
  | .go _ => []
  | .cup _ => []
  | .cdn _ => []
  | .abt _ => []
  | .sig _ => []
  | .collectiveTimeout _ => []
  | .packetTransit _ => []
  | .sliceRead _ _ => []
  | .sliceWrite _ => []
  | .sliceAtomic _ => []
  | .sliceEvict _ => []
  | .sliceFill _ => []
  | .readResponse _ => []
  | .storeAck _ => []
  | .witnessExpire _ _ => []
  | .resultWriteback _ _ => []
  | .serviceOverflowDrain _ _ => []
  | .rcmdRetry _ _ => []
  | .rcmdAbort _ _ => []
  | .wfeWake _ => []
  | .channelEnable _ _ _ => []
  | .channelDisable _ _ _ => []
  | .tailWrite _ _ _ => []
  | .hallAllocate => []
  | .launchStart _ => []
  | .launchEnd _ => []
  | .collEntryStart _ => []
  | .waitwStart _ => []
  | .waitwRecheck _ _ => []
  | .signalStart _ => []
  | .signalComplete _ _ => []
  | .cancel _ => []
  | .occupancySample _ => []
  | .energyTick _ _ => []
  | .precmdSave _ => []
  | .saveDone => []
  | .precmdRestore _ => []
  | .restoreDone => []
  | .fwinEnable _ _ _ => []
  | .fwinDisable _ _ _ => []
  | .fwinDisableDone _ => []
  | .hbmerrClear _ _ => []
  | .patrolScrub _ => []
  | .logClear _ _ _ => []
  | .errcntClear _ _ => []
  | .registerWrite _ _ _ => []
  | .hostAccess _ => []
  | .attcmd _ => []
  | .attestDone => []
  | .flitReceive _ _ _ => []
  | .retrainDone _ => []
  | .retrainTimeout _ => []
  | .harpinFrame _ _ _ _ => []
  | .portUp _ => []
  | .reset => []
  | .firmwareVerify _ _ => []
  | .hbmTraining => []
  | .selfTest _ _ => []
  | .ilupolTraining _ _ => []
  | .pcieLinkUp _ => []
  | .harpinTraining _ _ _ => []
  | .ready => []
  | .wearUpdate _ _ _ => []
  | .illegalEncoding _ => []
  | .fetchFault _ _ => []
  | .coreApertureAccess _ => []
  | .galleryRead _ => []
  | .pcieCompletion _ => []
  | .laneLockLoss _ => []

/-! ## The decoder -/

/-- The number of words that word 0 announces (R38). -/
def lenWords (w0 : BitVec 32) : Nat :=
  match (w0.extractLsb' 30 2 : BitVec 2).toNat with
  | 0 => 1 | 1 => 3 | 2 => 3 | _ => 5

/-- A candidate base instruction (R56, R57). -/
def candBase (w : BitVec 32) (lit : Option Word) : Option Instr :=
  let maj : BitVec 6 := w.extractLsb' 24 6
  let d : BitVec 6 := w.extractLsb' 18 6
  let a : BitVec 6 := w.extractLsb' 12 6
  let b : BitVec 6 := w.extractLsb' 6 6
  let la : BitVec 4 := w.extractLsb' 8 4
  let rh := Hint.ofBits (w.extractLsb' 6 2)
  let off : BitVec 6 := w.extractLsb' 0 6
  let imm : BitVec 12 := w.extractLsb' 0 12
  let gu : Guard := { gp := w.extractLsb' 21 3, gs := w.getLsbD 20 }
  let disp : BitVec 20 := w.extractLsb' 0 20
  match maj.toNat with
  | 0x02 =>
    let dla : BitVec 4 := w.extractLsb' 2 4
    match (w.extractLsb' 0 2 : BitVec 2).toNat with
    | 0 => some (.div d a b dla) | 1 => some (.divw d a b dla)
    | 2 => some (.rem d a b dla) | _ => some (.remw d a b dla)
  | 0x18 => some (match lit with | none => .jalr d a imm | some l => .jalrLiteral d a l)
  | 0x19 => some (match lit with | none => .loop d imm | some l => .loopLiteral d l)
  | 0x20 => some (.br gu disp)
  | 0x21 => some (.jal gu disp)
  | 0x23 => some .nop
  | 0x28 => some (match lit with | none => .ldb d a la rh off | some l => .ldbLiteral d a la rh l)
  | 0x29 => some (match lit with | none => .ldbs d a la rh off | some l => .ldbsLiteral d a la rh l)
  | 0x2a => some (match lit with | none => .ldh d a la rh off | some l => .ldhLiteral d a la rh l)
  | 0x2b => some (match lit with | none => .ldhs d a la rh off | some l => .ldhsLiteral d a la rh l)
  | 0x2c => some (match lit with | none => .ldw d a la rh off | some l => .ldwLiteral d a la rh l)
  | 0x2d => some (match lit with | none => .ldws d a la rh off | some l => .ldwsLiteral d a la rh l)
  | 0x2e => some (match lit with | none => .ldd d a la rh off | some l => .lddLiteral d a la rh l)
  | 0x30 => some (match lit with | none => .stb d a rh off | some l => .stbLiteral d a rh l)
  | 0x31 => some (match lit with | none => .sth d a rh off | some l => .sthLiteral d a rh l)
  | 0x32 => some (match lit with | none => .stw d a rh off | some l => .stwLiteral d a rh l)
  | 0x33 => some (match lit with | none => .std d a rh off | some l => .stdLiteral d a rh l)
  | 0x34 => some (match lit with | none => .pref a rh off | some l => .prefLiteral a rh l)
  | 0x35 => some (match lit with | none => .evict a rh off | some l => .evictLiteral a rh l)
  | 0x3C =>
    match d.toNat with
    | 0x00 => some (.trap imm)
    | 0x01 => some .eret
    | 0x02 => some (.gets a imm)
    | 0x03 => some (.sets a imm)
    | 0x04 =>
      let scope : BitVec 3 := w.extractLsb' 0 3
      match (w.extractLsb' 3 2 : BitVec 2).toNat with
      | 0 => some (.tlbinvPage a scope) | 1 => some (.tlbinvAsid a scope)
      | 2 => some (.tlbinvAll a scope) | _ => some (.tlbinvPin a scope)
    | 0x05 => some (.bkpt imm)
    | 0x06 => some .wfe
    | _ => none
  | _ => (candHalf maj (w.extractLsb' 0 24) lit).map SHalf.toInstr

/-- A candidate of class V (R58). -/
def candV (f : XF) (lit : Option Word) : Option Instr :=
  match f.xop.toNat with
  | 0 => some (.vadd f.gu f.ty f.rm f.sat (f.d.setWidth 5) (f.a.setWidth 5) (f.b.setWidth 5))
  | 1 => some (.vsub f.gu f.ty f.rm f.sat (f.d.setWidth 5) (f.a.setWidth 5) (f.b.setWidth 5))
  | 2 => some (.vmul f.gu f.ty f.rm f.sat (f.d.setWidth 5) (f.a.setWidth 5) (f.b.setWidth 5))
  | 3 => some (.vfma f.gu f.ty f.rm f.sat (f.d.setWidth 5) (f.a.setWidth 5) (f.b.setWidth 5) (f.c.setWidth 5))
  | 4 => some (.vfms f.gu f.ty f.rm f.sat (f.d.setWidth 5) (f.a.setWidth 5) (f.b.setWidth 5) (f.c.setWidth 5))
  | 5 => some (.vfnma f.gu f.ty f.rm f.sat (f.d.setWidth 5) (f.a.setWidth 5) (f.b.setWidth 5) (f.c.setWidth 5))
  | 6 => some (.vdiv f.gu f.la f.ty f.rm f.sat (f.d.setWidth 5) (f.a.setWidth 5) (f.b.setWidth 5))
  | 7 => some (.vsqrt f.gu f.la f.ty f.rm (f.d.setWidth 5) (f.a.setWidth 5))
  | 8 => some (.vrsq f.gu f.la f.ty f.rm (f.d.setWidth 5) (f.a.setWidth 5))
  | 9 => some (.vmin f.gu f.ty (f.d.setWidth 5) (f.a.setWidth 5) (f.b.setWidth 5))
  | 10 => some (.vmax f.gu f.ty (f.d.setWidth 5) (f.a.setWidth 5) (f.b.setWidth 5))
  | 11 => some (.vabs f.gu f.ty f.sat (f.d.setWidth 5) (f.a.setWidth 5))
  | 12 => some (.vneg f.gu f.ty f.sat (f.d.setWidth 5) (f.a.setWidth 5))
  | 13 => some (.vclamp f.gu f.ty (f.d.setWidth 5) (f.a.setWidth 5) (f.b.setWidth 5) (f.c.setWidth 5))
  | 14 => some (.vcmp f.gu f.ty (f.c.setWidth 3) (f.d.setWidth 3) (f.a.setWidth 5) (f.b.setWidth 5))
  | 15 => some (.vsel f.gu f.ty (f.d.setWidth 5) (f.a.setWidth 5) (f.b.setWidth 5) (f.c.setWidth 3))
  | 16 => some (match lit with | none => .vcvt f.gu f.ty (f.fx.setWidth 4) f.rm f.sat (f.d.setWidth 5) (f.a.setWidth 5) (f.c.setWidth 5) (f.imm.setWidth 4) | some l => .vcvtLiteral f.gu f.ty (f.fx.setWidth 4) f.rm f.sat (f.d.setWidth 5) (f.a.setWidth 5) (f.c.setWidth 5) l)
  | 17 => some (match lit with | none => .vscale f.gu f.ty (f.fx.setWidth 4) (f.d.setWidth 5) (f.a.setWidth 5) (f.imm.setWidth 4) | some l => .vscaleLiteral f.gu f.ty (f.fx.setWidth 4) (f.d.setWidth 5) (f.a.setWidth 5) l)
  | 18 => some (.vrsum f.gu f.ty f.sat (f.d.setWidth 5) (f.a.setWidth 5))
  | 19 => some (.vrmin f.gu f.ty (f.d.setWidth 5) (f.a.setWidth 5))
  | 20 => some (.vrmax f.gu f.ty (f.d.setWidth 5) (f.a.setWidth 5))
  | 21 => some (.vdot f.gu f.ty (f.d.setWidth 5) (f.a.setWidth 5) (f.b.setWidth 5))
  | 22 => some (.viadd f.gu f.ty f.sat (f.d.setWidth 5) (f.a.setWidth 5) (f.b.setWidth 5))
  | 23 => some (.visub f.gu f.ty f.sat (f.d.setWidth 5) (f.a.setWidth 5) (f.b.setWidth 5))
  | 24 => some (.vimul f.gu f.ty f.sat (f.d.setWidth 5) (f.a.setWidth 5) (f.b.setWidth 5))
  | 25 => some (.vimad f.gu f.ty f.sat (f.d.setWidth 5) (f.a.setWidth 5) (f.b.setWidth 5) (f.c.setWidth 5))
  | 26 => some (.vand f.gu f.ty (f.d.setWidth 5) (f.a.setWidth 5) (f.b.setWidth 5))
  | 27 => some (.vor f.gu f.ty (f.d.setWidth 5) (f.a.setWidth 5) (f.b.setWidth 5))
  | 28 => some (.vxor f.gu f.ty (f.d.setWidth 5) (f.a.setWidth 5) (f.b.setWidth 5))
  | 29 => some (.vshl f.gu f.ty (f.d.setWidth 5) (f.a.setWidth 5) (f.b.setWidth 5))
  | 30 => some (.vshr f.gu f.ty (f.d.setWidth 5) (f.a.setWidth 5) (f.b.setWidth 5))
  | 31 => some (.vsra f.gu f.ty (f.d.setWidth 5) (f.a.setWidth 5) (f.b.setWidth 5))
  | 32 => some (match lit with | none => .vsplat f.gu f.ty (f.d.setWidth 5) f.a | some l => .vsplatLiteral f.gu f.ty (f.d.setWidth 5) l)
  | 33 => some (.vperm f.gu f.ty (f.d.setWidth 5) (f.a.setWidth 5) (f.b.setWidth 5))
  | 34 => some (.vext f.gu f.ty f.d (f.a.setWidth 5) f.b)
  | 35 => some (.vins f.gu f.ty (f.d.setWidth 5) f.a f.b)
  | 36 => some (.vmov f.gu f.ty (f.d.setWidth 5) (f.a.setWidth 5))
  | 40 => some (match lit with | none => .vld f.gu f.la f.ty (Hint.ofBits f.rh) (f.d.setWidth 5) f.a f.imm | some l => .vldLiteral f.gu f.la f.ty (Hint.ofBits f.rh) (f.d.setWidth 5) f.a l)
  | 41 => some (match lit with | none => .vst f.gu f.ty (Hint.ofBits f.rh) (f.d.setWidth 5) f.a f.imm | some l => .vstLiteral f.gu f.ty (Hint.ofBits f.rh) (f.d.setWidth 5) f.a l)
  | 42 => some (match lit with | none => .vlds f.gu f.la f.ty (Hint.ofBits f.rh) (f.d.setWidth 5) f.a f.b f.imm | some l => .vldsLiteral f.gu f.la f.ty (Hint.ofBits f.rh) (f.d.setWidth 5) f.a f.b l)
  | 43 => some (match lit with | none => .vsts f.gu f.ty (Hint.ofBits f.rh) (f.d.setWidth 5) f.a f.b f.imm | some l => .vstsLiteral f.gu f.ty (Hint.ofBits f.rh) (f.d.setWidth 5) f.a f.b l)
  | 44 => some (match lit with | none => .vgath f.gu f.la f.ty (Hint.ofBits f.rh) (f.d.setWidth 5) f.a (f.b.setWidth 5) f.imm | some l => .vgathLiteral f.gu f.la f.ty (Hint.ofBits f.rh) (f.d.setWidth 5) f.a (f.b.setWidth 5) l)
  | 45 => some (match lit with | none => .vscat f.gu f.ty (Hint.ofBits f.rh) (f.d.setWidth 5) f.a (f.b.setWidth 5) f.imm | some l => .vscatLiteral f.gu f.ty (Hint.ofBits f.rh) (f.d.setWidth 5) f.a (f.b.setWidth 5) l)
  | _ => none

/-- A candidate of class X (R59). -/
def candX (f : XF) (_lit : Option Word) : Option Instr :=
  match f.xop.toNat with
  | 0 => some (.tcfg f.gu f.ty (f.d.setWidth 4) (f.imm.setWidth 8) (f.imm.extractLsb' 8 8))
  | 1 => some (.tld f.gu f.la (Hint.ofBits f.rh) f.d f.c f.a f.b (f.fx == 1#8) (f.imm.setWidth 4) (f.imm.extractLsb' 8 8))
  | 2 => some (.tst f.gu f.la (Hint.ofBits f.rh) f.d f.c f.a f.b (f.fx == 1#8) (f.imm.setWidth 4))
  | 3 => some (.tzero f.gu (f.d.setWidth 4))
  | 8 => some (.mma f.gu f.la f.ty f.sat (f.kind == 1#3) f.d f.c (f.a.setWidth 4) (f.b.setWidth 4) (f.imm.setWidth 15))
  | 9 => some (.mmac f.gu f.la f.ty f.sat (f.kind == 1#3) f.d f.c (f.a.setWidth 4) (f.b.setWidth 4) (f.imm.setWidth 15))
  | 10 => some (.mpoll f.gu f.d f.a)
  | 11 => some (.mwait f.gu f.d f.a)
  | 16 => some (.amov f.gu (f.d.setWidth 4) (f.kind == 1#3) (f.imm.setWidth 15))
  | 17 => some (.amovt f.gu (f.d.setWidth 4) (f.imm.setWidth 15))
  | 18 => some (.azero f.gu f.a (f.imm.setWidth 15))
  | 19 => some (.afin f.gu f.ty (f.fx.setWidth 4) f.rm f.sat (f.d.setWidth 4) (f.imm.setWidth 15))
  | 24 => some (.msave f.gu f.la f.d f.a)
  | 25 => some (.mrest f.gu f.la f.d f.a)
  | _ => none

/-- A candidate of class C (R60). -/
def candC (f : XF) (lit : Option Word) : Option Instr :=
  match f.xop.toNat with
  | 0 => some (.cpset f.gu (f.imm.setWidth 4) f.a)
  | 1 => some (.cpget f.gu f.d (f.imm.setWidth 4))
  | 2 => some (.cpgo f.gu f.la f.d f.c)
  | 3 => some (.cpcan f.gu f.d f.a)
  | 4 => some (.sealr f.gu f.la f.d f.a)
  | 5 => some (.mfill f.gu f.la (Hint.ofBits f.rh) f.d f.a f.b f.c f.imm)
  | 6 => some (.nmcmd f.gu f.la f.d f.a)
  | 7 => some (.nmask f.gu f.d f.a f.b f.imm)
  | 8 => some (match lit with | none => .amoadd f.gu f.la f.ty f.sat (Hint.ofBits f.rh) f.d f.a f.b f.imm | some l => .amoaddLiteral f.gu f.la f.ty f.sat (Hint.ofBits f.rh) f.d f.a f.b l)
  | 9 => some (match lit with | none => .amomin f.gu f.la f.ty (Hint.ofBits f.rh) f.d f.a f.b f.imm | some l => .amominLiteral f.gu f.la f.ty (Hint.ofBits f.rh) f.d f.a f.b l)
  | 10 => some (match lit with | none => .amomax f.gu f.la f.ty (Hint.ofBits f.rh) f.d f.a f.b f.imm | some l => .amomaxLiteral f.gu f.la f.ty (Hint.ofBits f.rh) f.d f.a f.b l)
  | 11 => some (match lit with | none => .amoand f.gu f.la f.ty (Hint.ofBits f.rh) f.d f.a f.b f.imm | some l => .amoandLiteral f.gu f.la f.ty (Hint.ofBits f.rh) f.d f.a f.b l)
  | 12 => some (match lit with | none => .amoor f.gu f.la f.ty (Hint.ofBits f.rh) f.d f.a f.b f.imm | some l => .amoorLiteral f.gu f.la f.ty (Hint.ofBits f.rh) f.d f.a f.b l)
  | 13 => some (match lit with | none => .amoxor f.gu f.la f.ty (Hint.ofBits f.rh) f.d f.a f.b f.imm | some l => .amoxorLiteral f.gu f.la f.ty (Hint.ofBits f.rh) f.d f.a f.b l)
  | 14 => some (match lit with | none => .amoswp f.gu f.la f.ty (Hint.ofBits f.rh) f.d f.a f.b f.imm | some l => .amoswpLiteral f.gu f.la f.ty (Hint.ofBits f.rh) f.d f.a f.b l)
  | 15 => some (match lit with | none => .amocas f.gu f.la f.ty (Hint.ofBits f.rh) f.d f.a f.b f.c f.imm | some l => .amocasLiteral f.gu f.la f.ty (Hint.ofBits f.rh) f.d f.a f.b f.c l)
  | 16 => some (match lit with | none => .rdadd f.gu f.ty (Hint.ofBits f.rh) f.a f.b f.imm | some l => .rdaddLiteral f.gu f.ty (Hint.ofBits f.rh) f.a f.b l)
  | 17 => some (match lit with | none => .rdmin f.gu f.ty (Hint.ofBits f.rh) f.a f.b f.imm | some l => .rdminLiteral f.gu f.ty (Hint.ofBits f.rh) f.a f.b l)
  | 18 => some (match lit with | none => .rdmax f.gu f.ty (Hint.ofBits f.rh) f.a f.b f.imm | some l => .rdmaxLiteral f.gu f.ty (Hint.ofBits f.rh) f.a f.b l)
  | 19 => some (match lit with | none => .xadd f.gu f.ty (Hint.ofBits f.rh) f.a f.b f.imm | some l => .xaddLiteral f.gu f.ty (Hint.ofBits f.rh) f.a f.b l)
  | 20 => some (match lit with | none => .xrnd f.gu f.la f.ty f.rm f.sat (Hint.ofBits f.rh) f.d f.a (f.fx.getLsbD 0) (f.fx.getLsbD 1) f.imm | some l => .xrndLiteral f.gu f.la f.ty f.rm f.sat (Hint.ofBits f.rh) f.d f.a (f.fx.getLsbD 0) (f.fx.getLsbD 1) l)
  | 24 => some (.pbinit f.gu f.la f.d f.a f.b f.c)
  | 25 => some (.pbarr f.gu f.la f.d f.a)
  | 26 => some (.pbexp f.gu f.a f.b)
  | 27 => some (.pbwait f.gu f.d f.a f.b)
  | 28 => some (match lit with | none => .waita f.gu f.la f.d f.a f.b f.imm | some l => .waitaLiteral f.gu f.la f.d f.a f.b l)
  | 29 => some (.ctarm f.gu f.la f.kind f.d f.a f.b f.c)
  | 30 => some (.ctinc f.gu f.la f.d f.a f.b)
  | 31 => if f.kind = 4#3 then some (.fenceInst f.gu f.d f.scope) else some (.fence f.gu f.d f.scope f.kind)
  | 32 => some (.spawn f.gu f.d f.a f.b)
  | 33 => some (.send f.gu f.la (f.fx == 1#8) f.d f.a f.b)
  | 34 => some (.tend f.gu)
  | 35 => some (.cont f.gu f.la f.d f.a f.b)
  | 36 => some (.jdec f.gu f.la f.d f.a)
  | 37 => some (.join f.gu f.la f.d f.a)
  | 38 => some (.leave f.gu f.la f.d f.a)
  | 39 => some (.maskh f.gu)
  | 40 => some (.unmaskh f.gu)
  | 48 => some (.step f.gu f.d)
  | 49 => some (.stepq f.gu f.d)
  | 50 => some (.rget f.gu f.la f.ty f.d f.a (f.imm.extractLsb' 20 4) (f.imm.extractLsb' 16 4) (f.imm.setWidth 14))
  | 51 => some (.rgetv f.gu f.la (f.d.setWidth 5) f.a (f.imm.extractLsb' 20 4) (f.imm.extractLsb' 16 4) (f.imm.setWidth 14))
  | 52 => some (.hallq f.gu f.la f.d f.a)
  | 56 => if f.fx = 1#8 then some (.sbindProd f.gu f.d f.b (f.c.setWidth 3) (f.imm.setWidth 3)) else some (.sbindCons f.gu f.d f.b (f.c.setWidth 3))
  | 57 => some (.sring f.gu f.d f.a f.b (f.c.setWidth 3))
  | 58 => some (.sgain f.gu f.d f.b (f.c.setWidth 3))
  | 59 => some (.sstat f.gu f.d (f.c.setWidth 3) (f.imm.setWidth 2))
  | 60 => some (.sunbind f.gu f.d (f.c.setWidth 3))
  | 61 => some (.dlaunch f.gu f.la f.d f.a f.b)
  | 62 => some (.coll f.gu f.la f.d f.a)
  | 63 => some (.rlinv f.gu f.d f.a)
  | _ => none

/-- A candidate pair (R53 to R55). -/
def candPair (w0 w1 w2 : BitVec 32) (lit : Option Word) : Option Instr :=
  match candHalf (w0.extractLsb' 24 6) (w1.extractLsb' 0 24) lit, candVHalf w2 with
  | some sh, some vh => some (.pair { gp := w0.extractLsb' 21 3, gs := w0.getLsbD 20 } sh vh)
  | _, _ => none

/-- A candidate extended instruction, by its class (R45). -/
def candExt (w0 w1 w2 : BitVec 32) (lit : Option Word) : Option Instr :=
  let f := XF.read w0 w1 w2
  match f.ec.toNat with
  | 0 => candV f lit
  | 1 => candX f lit
  | 2 => candC f lit
  | 3 => candPair w0 w1 w2 lit
  | _ => none

/-- The candidate that five words name; words beyond the announced length are not looked at. -/
def candidate (w0 w1 w2 w3 w4 : BitVec 32) : Option Instr :=
  match (w0.extractLsb' 30 2 : BitVec 2).toNat with
  | 0 => candBase w0 none
  | 1 => candBase w0 (some (w2 ++ w1))
  | 2 => candExt w0 w1 w2 none
  | _ => candExt w0 w1 w2 (some (w4 ++ w3))

/-- Decode an instruction from five words, of which those beyond its length do not matter. None is an
ILLEGAL encoding (R61). -/
def decode (w0 w1 w2 w3 w4 : BitVec 32) : Option Instr :=
  match candidate w0 w1 w2 w3 w4 with
  | none => none
  | some i => if i.wf && encode i == [w0, w1, w2, w3, w4].take (lenWords w0) then some i else none

/-- Length in bytes of an instruction: 4, 12 or 20 (R38, R188). -/
def Instr.len (i : Instr) : Nat := 4 * (encode i).length

/-- Word `k` of an instruction whose bits are numbered as the opcode table numbers them. -/
def tableWord (w k : Nat) : BitVec 32 := BitVec.ofNat 32 (w >>> (32 * k))

/-- The instruction the decoder reads from an instruction of `nbits` bits `w`, zero above them. -/
def decodeTableWord (nbits w : Nat) : Option Instr :=
  let v := w % 2 ^ nbits
  decode (tableWord v 0) (tableWord v 1) (tableWord v 2) (tableWord v 3) (tableWord v 4)

/-! ## Chunk instructions -/

/-- A chunk instruction as a schedule holds it, without the member that runs it (R63, R64). `kop` is 0
KSEND, 1 KRECV, 2 KRED, 3 KCOPY. -/
inductive ChunkI where
  | data (kop : BitVec 2) (c : ChunkData)
  | kwait (tag : BitVec 7) (all : Bool)
  | ksig (peer : BitVec 16) (prel : Bool) (tag : BitVec 7) (val : BitVec 32)
  | kloop (count disp : BitVec 16)
  | kend
  deriving DecidableEq, Repr, Inhabited

/-- The data layout (R64). -/
def dataChunk (kop : BitVec 4) (c : ChunkData) : Word :=
  kop ++ c.ba ++ c.bb ++ c.peer ++ bitv 1 c.prel ++ c.cidx ++ c.clen ++ c.tag ++ 0#4 ++ c.cstep
/-- The control layout (R64). -/
def ctlChunk (kop : BitVec 4) (peer : BitVec 16) (prel : Bool) (tag : BitVec 7) (arg : BitVec 32) : Word :=
  kop ++ 0#4 ++ peer ++ bitv 1 prel ++ tag ++ arg

/-- The doubleword of a chunk instruction (R63, R64). -/
def ChunkI.word : ChunkI → Word
  | .data kop c => dataChunk (0#2 ++ kop) c
  | .kwait tag all => ctlChunk 4#4 0#16 false tag (bitv 32 all)
  | .ksig peer prel tag val => ctlChunk 5#4 peer prel tag val
  | .kloop count disp => ctlChunk 6#4 0#16 false 0#7 (count ++ disp)
  | .kend => ctlChunk 7#4 0#16 false 0#7 0#32

/-- A candidate chunk instruction (R64). -/
def candChunk (w : Word) : Option ChunkI :=
  let c : ChunkData :=
    { ba := w.extractLsb' 58 2, bb := w.extractLsb' 56 2, peer := w.extractLsb' 40 16, prel := w.getLsbD 39,
      cidx := w.extractLsb' 27 12, clen := w.extractLsb' 19 8, tag := w.extractLsb' 12 7,
      cstep := w.extractLsb' 0 8 }
  let tag := w.extractLsb' 32 7
  match (w.extractLsb' 60 4 : BitVec 4).toNat with
  | 0 => some (.data 0#2 c) | 1 => some (.data 1#2 c) | 2 => some (.data 2#2 c) | 3 => some (.data 3#2 c)
  | 4 => some (.kwait tag (w.getLsbD 0))
  | 5 => some (.ksig (w.extractLsb' 40 16) (w.getLsbD 39) tag (w.extractLsb' 0 32))
  | 6 => some (.kloop (w.extractLsb' 16 16) (w.extractLsb' 0 16))
  | 7 => some .kend
  | _ => none

/-- The conditions of R65 on one chunk instruction at index `idx` of a schedule. The fields an operation
does not use are reserved: BA of KRECV, PEER and PREL of KCOPY (R64, R378). -/
def ChunkI.ok (idx : Nat) : ChunkI → Bool
  | .data kop c =>
    c.ba != 3#2 && c.bb != 3#2 && c.clen != 0#8 &&
      (kop != 1#2 || c.ba == 0#2) && (kop != 3#2 || (c.peer == 0#16 && !c.prel))
  | .kloop count disp => count != 0#16 && disp.toInt < 0 && -4095 ≤ disp.toInt && 0 ≤ (idx : Int) + disp.toInt
  | .kwait _ _ => true
  | .ksig _ _ _ _ => true
  | .kend => true

/-- Decode the chunk instruction at index `idx` of a schedule; none where R65 rejects it. -/
def decodeChunk (idx : Nat) (w : Word) : Option ChunkI :=
  match candChunk w with
  | none => none
  | some i => if i.word == w && i.ok idx then some i else none

end Sys2Proof
end

