-- ==== Sys2Proof/Config.lean ====
section
/-!
DEFINITION. What the specification leaves open and the model does not choose: opaque constants without
a body, so that no proof can know their values. Each is named in an entry of the assumption log.
-/

namespace Sys2Proof

/-- What the world outside the module, or an accident inside it, does between two steps: inputs the
specification names but does not decide (R97, R314, R428, R436). -/
inductive Env where
  /-- A soft error flips bits of one 32-byte HBM sector; the pattern is what is exclusive-ored into it (R97). -/
  | softError (sector : Nat) (pattern : BitVec 256)
  /-- A bit error in 8 bytes of a landing; an uncorrectable one poisons reads of them (R314). -/
  | landingError (addr8 : Nat) (correctable : Bool)
  /-- The host writes a byte of its own memory. -/
  | hostWrite (bus : Nat) (b : BitVec 8)
  /-- A line leaves a bay's instruction cache to make room (R436). -/
  | icacheEvict (bay line : Nat)
  /-- A pending STALL or BADJOIN message, or a fault that found no room, is posted again (R415). -/
  | repost (core : Nat)
  /-- A core ordered to stop by pre-emption or cancellation reaches its instruction boundary (R420, R362). -/
  | stopCore (core : Nat)
  /-- A trap latched by a core is taken once its pending results are written (R51). -/
  | trapEntry (core : Nat)
  /-- A management core answers the oldest TRAP or DOUBLE message posted to it (R405). -/
  | mgmtAnswer
  /-- The management core enables or disables physical function 1 of the PCIe interface (R428). -/
  | function1 (on : Bool)
  deriving DecidableEq, Repr, Inhabited

/-- What one step of the machine does: a core tries to issue, the FES tries the next chunk instruction of
a member, one of the part's own whole steps happens, one arithmetic cycle ends, or an input arrives. -/
inductive Act where
  | issue (core : Nat)
  | chunk (m : Nat)
  | event (i : Instr)
  | tick
  | env (e : Env)
  deriving DecidableEq, Repr, Inhabited

/-- The order in which the units of the part act: the specification fixes no timing between them, so the
next act is free. The argument is the number of steps taken so far. DESIGN CHOICE (log entry 1). -/
opaque Config.nextAct : Nat → Act

/-- What a scratchpad byte holds when a hall starts: undefined (R142). Arguments: the launch's number and
the flat scratchpad address. -/
opaque Config.spadByte : Nat → Nat → Byte

/-- The bytes of the opaque parts of a save image (R245, R419). Arguments: the number of the save and
the byte's offset. -/
opaque Config.imageByte : Nat → Nat → Byte

/-- The device serial number reported in a quote (R427). -/
opaque Config.serial : BitVec 64

/-- The SHA-384 digest of the firmware verified in state 1, given its security version (R426, R427). -/
opaque Config.firmwareDigest : BitVec 32 → BitVec 384

/-- The ECDSA P-384 signature (r, then s) over the SHA-384 digest of a quote's bytes 0 to 159 (R427). -/
opaque Config.quoteSignature : List Byte → BitVec 768

/-- Whether the quadrant of a Harpin port is the lower one of its die, where packets between the port and a tile of the other
die cross the bridge (R118, R385). -/
opaque Config.portRow : Nat → Bool

/-- Whether the packets that a data instruction or KSIG has sent to another package have been accepted there by now, in an
inbox or by an add: nothing that comes back over the fabric says so (R377, R380). The argument is the number of steps
taken so far. -/
opaque Config.peerTook : Nat → Bool

/-- The latency of the mesh for an occupancy sample (R364): the cycles from the sample to its arrival. Arguments: the cycle of
the sample, the tile sampled, and the tile that places. -/
opaque Config.sampleDelay : Nat → Nat → Nat → Nat

/-- The result of an access the specification gives no value for: the data read in a transaction whose
answer is an error. Arguments: a counter read and advanced by the step. -/
opaque Config.freeValue : Nat → Word

end Sys2Proof
end

