-- ==== Sys2Proof/Machine/Map.lean ====
section
/-!
DEFINITION. Finite maps as plain data: a list of (key, value) pairs with keys strictly rising. Memories
and register files keep, besides, no entry equal to what an unlisted key reads as, so that equal contents
are equal lists.
-/

namespace Sys2Proof

/-- A finite map from natural numbers. -/
abbrev SMap (α : Type) := List (Nat × α)

/-- The value at key `q`, `d` where the key is not listed. -/
def SMap.get {α : Type} (d : α) : SMap α → Nat → α
  | [], _ => d
  | (k, v) :: m, q => if k = q then v else SMap.get d m q

/-- The map with key `k` holding `v`. -/
def SMap.put {α : Type} (k : Nat) (v : α) : SMap α → SMap α
  | [] => [(k, v)]
  | (j, w) :: m =>
    if k < j then (k, v) :: (j, w) :: m
    else if k = j then (k, v) :: m
    else (j, w) :: SMap.put k v m

/-- The map without key `k`. -/
def SMap.erase {α : Type} (k : Nat) : SMap α → SMap α
  | [] => []
  | (j, w) :: m => if j = k then SMap.erase k m else (j, w) :: SMap.erase k m

/-- The map with key `k` holding `v`, not listed when `v` is what unlisted keys read as. -/
def SMap.set {α : Type} [DecidableEq α] (d : α) (k : Nat) (v : α) (m : SMap α) : SMap α :=
  if v = d then SMap.erase k m else SMap.put k v m

/-- Keys strictly rising, all above `lo`. -/
def SMap.sortedFrom {α : Type} : Option Nat → SMap α → Bool
  | _, [] => true
  | lo, (k, _) :: m => (match lo with | none => true | some l => decide (l < k)) && SMap.sortedFrom (some k) m

/-- The canonical form: keys strictly rising, no entry holding what an unlisted key reads as. -/
def SMap.wf {α : Type} [DecidableEq α] (d : α) (m : SMap α) : Bool :=
  SMap.sortedFrom none m && m.all (fun e => decide (e.2 ≠ d))

/-- Change the value at key `k`. -/
def SMap.upd {α : Type} (d : α) (k : Nat) (f : α → α) (m : SMap α) : SMap α :=
  SMap.put k (f (SMap.get d m k)) m

/-- The entries whose key lies in `[base, base + len)` dropped. -/
def SMap.clear {α : Type} (base len : Nat) (m : SMap α) : SMap α :=
  m.filter (fun e => decide (e.1 < base) || decide (base + len ≤ e.1))

/-- Update the first element that satisfies `p`. -/
def updFirst {α : Type} (p : α → Bool) (f : α → α) : List α → List α
  | [] => []
  | x :: xs => if p x then f x :: xs else x :: updFirst p f xs

/-- Drop the first element that satisfies `p`. -/
def dropFirst {α : Type} (p : α → Bool) : List α → List α
  | [] => []
  | x :: xs => if p x then xs else x :: dropFirst p xs

end Sys2Proof
end

