-- ==== Sys2Proof/Machine/State.lean ====
section
/-!
DEFINITION. The state of the NX9440 package as plain data: every register, memory, queue, table and
engine the specification gives it, and its value after reset. Units are keyed by package indices: tile
t = TILEY * 16 + TILEX (R3), core t * 64 + CORE (R4), bay t * 8 + BAY, slice die * 16 + s (R121), and vault
die * 64 + TILEY * 8 + (TILEX mod 8) (R143).
-/

namespace Sys2Proof.Machine

open Sys2Proof

/-- The sticky floating-point flags, as FPFLAGS holds them (R87). -/
structure FFlags where
  nv : Bool := false
  dz : Bool := false
  ovf : Bool := false
  uf : Bool := false
  nx : Bool := false
  deriving DecidableEq, Repr, Inhabited

/-- A continuation record (R290). -/
structure Rec where
  code : Word := 0
  frame : Word := 0
  jctr : Word := 0
  tidx : Word := 0
  deriving DecidableEq, Repr, Inhabited

/-- A record waiting in a handler queue; `svc` marks a message the hardware delivered (R400, R414). -/
structure HRec where
  crec : Rec := {}
  svc : Bool := false
  deriving DecidableEq, Repr, Inhabited

/-- A register that an instruction can name as source or destination. `gb` is a banked general register
(level, 1 to 31), `gs` a shared one (32 to 63), `pb` a banked predicate, `v` a vector register. -/
inductive PReg0 where
  | gb (lv : Bool) (r : Nat)
  | gs (r : Nat)
  | pb (lv : Bool) (r : Nat)
  | v (r : Nat)
  deriving DecidableEq, Repr, Inhabited

/-- What a pending result waits for (R47, R280). -/
inductive PCls where
  | divide | vdivide | xrnd | mem | copy | mfill | nmu | job | waita | send | other
  deriving DecidableEq, Repr, Inhabited

/-- A long-latency result not yet written to its register (R47, R184). -/
structure Pend where
  id : Nat := 0
  lv : Bool := false
  /-- The destination; none when it is g0. -/
  dst : Option PReg0 := none
  /-- Instructions of the thread still to issue before the window closes; 0 is closed (R47). -/
  win : Nat := 0
  pc : Word := 0
  cls : PCls := .other
  /-- Parts of the result still to arrive. -/
  need : Nat := 0
  /-- The bits that have arrived, and which bits of the destination the result writes. -/
  val : Vec := 0
  mask : Vec := 0
  flags : FFlags := {}
  /-- Accesses to home slices not yet served, and the first lane whose access was refused or met poison:
  lane, trap code, address (R138, R401). -/
  acc : Nat := 0
  bad : Option (Nat × Nat × Word) := none
  deriving DecidableEq, Repr, Inhabited

/-- A place that an access reaches after steering and translation (R139, R266). -/
inductive Loc where
  | glob (pa : Nat)
  | spad (core : Nat) (off : Nat)
  | vault (v : Nat) (off : Nat)
  | gal (tile : Nat) (off : Nat)
  deriving DecidableEq, Repr, Inhabited

/-- The read-modify-write operations (R249, R250, R260). -/
inductive RmwOp where
  | add | min | max | and | or | xor | swp | cas | addSat | ctinc
  deriving DecidableEq, Repr, Inhabited

/-- What an access in flight does at its target. -/
inductive ReqOp where
  | load | store
  | amo (op : RmwOp) (ty : Nat)
  | rd (op : RmwOp) (ty : Nat)
  | xadd (ty : Nat)
  | xrnd (ty rm : Nat) (sat clr : Bool)
  | evict
  | pref
  deriving DecidableEq, Repr, Inhabited

/-- How far an access in flight has come. -/
inductive ReqSt where
  | sent
  | missed
  | pcie
  /-- Merged into an older read (R129). -/
  | joined
  /-- Performed at its target: the data it carries back and the SSN of the answer (R127). -/
  | done (data : Vec) (ssn : Option (BitVec 48)) (poison : Bool)
  deriving DecidableEq, Repr, Inhabited

/-- An access on its way from a core to its target or back (R120, R141). The list of them is kept in
issue order, so the accesses of one core stand in its program order. -/
structure Req where
  id : Nat := 0
  core : Nat := 0
  lv : Bool := false
  pc : Word := 0
  op : ReqOp := .load
  va : Word := 0
  loc : Loc := .glob 0
  n : Nat := 0
  /-- Store data or operand, and the compare operand of AMOCAS. -/
  data : Vec := 0
  cmp : Word := 0
  /-- The bytes of a whole-line vector access that are read or written (R138). -/
  bytes : BitVec 128 := 0
  hint : Hint := .df
  st : ReqSt := .sent
  /-- When it was performed, for the order of answers (R120). -/
  seq : Nat := 0
  pend : Option Nat := none
  /-- Where the bytes go in the pending value, the lane they belong to, and how they are extended. -/
  lane : Nat := 0
  elem : Nat := 0
  sext : Bool := false
  /-- The witness the read carries, none when its entry is invalid (R128). -/
  wit : Option (BitVec 48) := none
  /-- Readers merged into this one (R129). -/
  merged : List Nat := []
  /-- The bay has dropped the line since the read was performed: its answer brings no new copy (R269 to R271). -/
  nofill : Bool := false
  /-- The line, and its poison, as the slice held it after an atomic or reduction that it performed (R98, R270). -/
  after : Option (Vec × Bool) := none
  deriving DecidableEq, Repr, Inhabited

/-- What keeps a thread from issuing its next instruction. -/
inductive Hold where
  /-- The next instruction may be tried. -/
  | ready
  /-- No record runs at this level. -/
  | idle
  /-- The instruction at PC has issued and waits: it is tried again until it can finish (R50). -/
  | issued
  /-- A global load, AMO or XRND waits for its home slices to accept or refuse it (R401). -/
  | access (pend : Nat)
  /-- Blocked on a translation fault of the page of `va` (R413). -/
  | page (va : Word) (acc : BitVec 2) (reason : BitVec 2) (pin : Bool)
  /-- So blocked, and its message waits to be posted (R415). -/
  | unposted (va : Word) (acc : BitVec 2) (reason : BitVec 2) (pin : Bool)
  /-- The instruction at PC stalls at issue, its windows closed: on a stream port, or, where it is blocking, before it can
  begin (R50, R331). -/
  | stalled
  /-- A trap latched at PC waits for the pending results of the thread (R51). -/
  | trap (code : Nat) (tval : Word) (fetch : Bool)
  /-- Blocked on a TRAP or DOUBLE message (R405). -/
  | service (double : Bool) (cause : Nat) (frame : Word)
  /-- So blocked, and its message waits to be posted (R415). -/
  | unserviced (double : Bool) (cause : Nat) (frame : Word)
  /-- In WFE (R410). -/
  | wfe
  /-- In STEP, which found the step given; its share waits for the core's earlier accesses to its gallery (R321). -/
  | share (s : Nat)
  /-- In STEP since the step given; the share has been counted (R321). -/
  | step (s : Nat)
  /-- In SPAWN, waiting for the target queue's answer (R296). -/
  | spawn (msg : Nat)
  /-- In SPAWN, TEND and the like: the answer has come (R296). -/
  | answered (ok : Bool)
  deriving DecidableEq, Repr, Inhabited

/-- One execution level of a core (R174). -/
structure Thread where
  g : SMap Word := []
  p : SMap Word := []
  pc : Word := 0
  fp : FFlags := {}
  ltask : Word := 0
  jctr : Word := 0
  /-- The copy shadow registers CPSRC to CPFLAGS (R153). -/
  cp : SMap Word := []
  /-- Failures not yet reported by a fence: where, and poison (true) or refused (R264). -/
  fails : List (Loc × Bool) := []
  hold : Hold := .idle
  /-- The words of the instruction that has been fetched and waits to complete (R436). -/
  ir : List (BitVec 32) := []
  /-- The source registers it read when it issued, if it has issued and waits (R50). -/
  held : List (Nat × Word) := []
  /-- The vector sources it keeps while it stalls, where a window on them has closed (R48, R50). -/
  heldV : List (Nat × Vec) := []
  /-- The instruction whose open window a general register would violate that it writes only if it turns out so (R49, R296). -/
  late : Option Word := none
  /-- The record a SPAWN has offered and waits for the answer of (R296). -/
  offer : Rec := {}
  /-- What the thread goes back to when its page fault is answered with RETRY: the instruction it was in goes on (R296, R413). -/
  back : Hold := .ready
  /-- Elements of a vector store that has issued and that have not yet found a place in the store queue (R132). -/
  rest : List Req := []
  deriving DecidableEq, Repr, Inhabited

/-- The state of a stream end (R338). -/
inductive QSt where
  | unbound | waiting | bound | retrain | closed | dead
  deriving DecidableEq, Repr, Inhabited

/-- A q-register: its declared ring, its state, and what the end it is bound to holds (R328 to R347). -/
structure QReg where
  ring : Option (Nat × Nat) := none
  st : QSt := .unbound
  prod : Bool := false
  /-- The other end: core and q index. -/
  peer : Nat × Nat := (0, 0)
  /-- Producer: credits and the weight in force. -/
  credits : Nat := 0
  weight : Nat := 256
  /-- Consumer: ring base and slots captured at the bind, HEAD and TAIL as the interface holds them. -/
  base : Nat := 0
  slots : Nat := 0
  head : Nat := 0
  tail : Nat := 0
  wp0 : Nat := 0
  wc0 : Nat := 0
  kp : Nat := 0
  ki : Nat := 0
  setp : Nat := 0
  per : Nat := 0
  integ : Int := 0
  laste : Int := 0
  wp : Nat := 256
  wc : Nat := 256
  stall : Bool := false
  count : Nat := 0
  empty : Nat := 0
  full : Nat := 0
  samples : Nat := 0
  deriving DecidableEq, Repr, Inhabited

/-- An entry of a range scoreboard: the bytes [lo, hi) and the transfer writing them (R147). -/
structure ScoreEnt where
  lo : Nat := 0
  hi : Nat := 0
  owner : Nat := 0
  /-- The last element of the transfer that lies in this scratchpad: once it is written the entry retires (R147). -/
  last : Nat := 0
  deriving DecidableEq, Repr, Inhabited

/-- One core (R173, R181, R400, R403). -/
structure Core where
  lv0 : Thread := {}
  lv1 : Thread := {}
  /-- The running level: true while a level-1 handler is active. -/
  level : Bool := false
  gHi : SMap Word := []
  v : SMap Vec := []
  pend : List Pend := []
  /-- The results that have arrived and are not yet written, in the order of their arrival (R184). -/
  arrived : List Nat := []
  tBit : Bool := false
  pv : Bool := false
  pvSave : Bool := false
  tvec : Word := 0
  tcause : Word := 0
  tpc : Word := 0
  tval : Word := 0
  sgkp : Word := 0
  sgki : Word := 0
  sset : Word := 0
  sper : Word := 256
  cpscout : Word := 4
  rva : Word := 0
  latch : Bool := false
  maskOpen : Bool := false
  maskCnt : Nat := 0
  b : Nat := 0
  w : Nat := 256
  /-- An instruction has issued in the present cycle (R183). -/
  issuedNow : Bool := false
  /-- The q-register on which the core stands stalled, and whether for want of a credit (R331). -/
  qStall : Option (Nat × Bool) := none
  /-- The accesses that have reached its scratchpad in a cycle: the cycle, and of each its place in the order of R141, its
  offset and its length. -/
  reach : Nat × List (Nat × Nat × Nat) := (0, [])
  sendSeq : Nat := 0
  inl : Nat := 0
  jobs : Nat := 0
  /-- Witnesses, keyed by slice, with the cycle of their last message; absent is invalid (R128). -/
  wit : SMap (BitVec 48 × Nat) := []
  score : List ScoreEnt := []
  q : SMap QReg := []
  pinned : List Rec := []
  handlers : List HRec := []
  /-- Stopped for pre-emption or cancellation (R362, R420). -/
  stopped : Bool := false
  deriving DecidableEq, Repr, Inhabited

/-- A tile register's configuration (R180). -/
structure TCfg where
  cfg : Bool := false
  rows : Nat := 0
  rb : Nat := 0
  ty : Nat := 0
  deriving DecidableEq, Repr, Inhabited

/-- What stands in a bay's acceptance order: the jobs, a pending clearing of a tile, and a waiting move (R225,
R226, R241). -/
inductive JKind where
  | tld | tst | mma | mmac | clear | move
  deriving DecidableEq, Repr, Inhabited

/-- A job, clearing or move in a bay's acceptance order (R225 to R243). A TLD stands in the list of every bay it
fills, and of its issuing bay; an MMAC in the four of its group. -/
structure Job where
  id : Nat := 0
  core : Nat := 0
  lv : Bool := false
  seq : Nat := 0
  kind : JKind := .tld
  pend : Nat := 0
  ta : Nat := 0
  tb : Nat := 0
  scale : Bool := false
  rows : Nat := 0
  nb : Nat := 0
  ga : Word := 0
  gb : Word := 0
  bays : List Nat := []
  hint : Hint := .df
  abase : Nat := 0
  n : Nat := 0
  ty : Nat := 0
  sat : Bool := false
  z : Bool := false
  started : Bool := false
  row : Nat := 0
  stop : Option Nat := none
  clb : Bool := false
  /-- Waiting for the service core: the faulting address and the TIDX of the message (R232, R414). -/
  wait : Option (Word × Nat) := none
  flags : FFlags := {}
  /-- Alcove words from `abase` that it names. -/
  words : Nat := 0
  /-- PV of the issuing thread. -/
  pv : Bool := false
  /-- The bytes a TST has written of each global line (R163). -/
  lines : SMap (BitVec 128) := []
  deriving DecidableEq, Repr, Inhabited

/-- The stages of a copy (R170). -/
inductive CopySt where
  | queued | fetch
  /-- The record has been read and checked; the copy waits for its scoreboard entries (R161, R166). -/
  | shaped
  | run | ending
  /-- The barrier update is on its way, or there is none; the status follows. -/
  | updating
  deriving DecidableEq, Repr, Inhabited

/-- A copy accepted by a bay's copy unit (R152 to R171). -/
structure Copy where
  id : Nat := 0
  seq : Nat := 0
  core : Nat := 0
  lv : Bool := false
  pend : Nat := 0
  /-- The captured shadow set, keyed as R153, and CPSCOUT. -/
  regs : SMap Word := []
  scout : Nat := 0
  st : CopySt := .queued
  /-- The shape in force: element size, counts and strides (source, destination). -/
  esz : Nat := 0
  cnt : List Nat := []
  sstr : List Int := []
  dstr : List Int := []
  i : Nat := 0
  /-- Elements read ahead of the element being written, oldest first (R157). -/
  buf : List Vec := []
  /-- The element after those of `buf` has been read, and cannot be moved: the code it stops the copy with (R157, R163). -/
  bad : Option Nat := none
  written : Nat := 0
  clb : Option Nat := none
  cancel : Bool := false
  stop : Option Nat := none
  nb : Bool := false
  scored : Bool := false
  wait : Option (Word × Nat) := none
  abort : Bool := false
  /-- The element at which the scout stands, or at which a fault was met (R162). -/
  scoutAt : Nat := 0
  /-- The fault met at `scoutAt` is the destination's (R162). -/
  atDst : Bool := false
  /-- PV of the issuing thread. -/
  pv : Bool := false
  /-- The bytes written of each global line (R163). -/
  lines : SMap (BitVec 128) := []
  deriving DecidableEq, Repr, Inhabited

/-- A line held by a bay's L1 (R130): data, poison bit, the SSN that brought it, and its use. -/
structure L1Line where
  line : Nat := 0
  data : Vec := 0
  poison : Bool := false
  ssn : BitVec 48 := 0
  stamp : Nat := 0
  deriving DecidableEq, Repr, Inhabited

/-- A line held update-only: its kind, element type and partial values (R250). -/
structure ULine where
  line : Nat := 0
  op : RmwOp := .add
  xacc : Bool := false
  ty : Nat := 0
  data : Vec := 0
  /-- The cores and levels whose reductions it holds, to whom a poisoned combine is reported (R248). -/
  owners : List (Nat × Bool) := []
  /-- Its use, for the replacement of the L1 (R130). -/
  stamp : Nat := 0
  deriving DecidableEq, Repr, Inhabited

/-- A TLB entry (R412). -/
structure TlbEnt where
  asid : Nat := 0
  g : Bool := false
  vpage : Nat := 0
  /-- log2 of the page size: 16, 21 or 30. -/
  size : Nat := 16
  pa : Nat := 0
  w : Bool := false
  x : Bool := false
  p : Bool := false
  stamp : Nat := 0
  pinned : Bool := false
  /-- CET: the copy that placed it, and the element of its walk at which it was last used (R162, R412). -/
  owner : Nat := 0
  pos : Nat := 0
  deriving DecidableEq, Repr, Inhabited

/-- One bay: matrix engine, copy unit, L1, TLBs and instruction cache (R1, R130, R225, R412, R436). -/
structure Bay where
  jobs : List Job := []
  /-- Retained job status: core, job number and status word (R238). -/
  retained : List (Nat × Nat × Word) := []
  rr : Nat := 63
  copies : List Copy := []
  copySeq : Nat := 0
  l1 : List L1Line := []
  u : List ULine := []
  vlt : List TlbEnt := []
  mft : List TlbEnt := []
  cet : List TlbEnt := []
  ift : List TlbEnt := []
  icache : List (Nat × Vec) := []
  tcfg : SMap TCfg := []
  frozen : Bool := false
  /-- The cycle and the core of the last CPGO accepted, and of the last job: those of one cycle are accepted in ascending core
  index (R152, R224). -/
  copyBy : Nat × Nat := (0, 0)
  jobBy : Nat × Nat := (0, 0)
  deriving DecidableEq, Repr, Inhabited

/-- An armed barrier word: scratchpad core, offset, and the counts reloaded at an advance (R255). -/
structure BarEnt where
  core : Nat := 0
  off : Nat := 0
  arr : Nat := 0
  bytes : BitVec 32 := 0
  deriving DecidableEq, Repr, Inhabited

/-- A contribution on its way to a barrier unit (R257): an arrival of a core, expected bytes, or the
bytes a copy wrote. -/
structure Contrib where
  id : Nat := 0
  core : Nat := 0
  off : Nat := 0
  arrival : Bool := false
  delta : BitVec 32 := 0
  /-- The arriving core and its pending result, or the bay and copy to finish. -/
  src : Nat := 0
  pend : Option Nat := none
  copy : Option (Nat × Nat) := none
  deriving DecidableEq, Repr, Inhabited

/-- The action of an arm-table entry (R261). -/
inductive ArmAct where
  | wake (core : Nat)
  | msg (core : Nat) (crec : Rec)
  | task (crec : Rec)
  deriving DecidableEq, Repr, Inhabited

/-- An armed one-shot action on a counter (R261). -/
structure Arm where
  core : Nat := 0
  off : Nat := 0
  thr : Word := 0
  act : ArmAct := .wake 0
  deriving DecidableEq, Repr, Inhabited

/-- A watch of a WAITA: the sleeping core, its pending result, and what it watches (R262). -/
structure Mon where
  core : Nat := 0
  pend : Nat := 0
  loc : Loc := .glob 0
  deriving DecidableEq, Repr, Inhabited

/-- A record parked in a vestibule (R303). -/
structure VRec where
  crec : Rec := {}
  /-- In the vestibule: its place there; its record is the bytes of the vault (R292). -/
  slot : Nat := 0
  core : Nat := 0
  h : Bool := false
  due : Nat := 0
  sender : Nat := 0
  seq : Nat := 0
  deriving DecidableEq, Repr, Inhabited

/-- A record in a service overflow: its target core, whether the hardware delivered it, and its place; its bytes are in the
vault (R415). -/
structure OverEnt where
  core : Nat := 0
  svc : Bool := false
  slot : Nat := 0
  deriving DecidableEq, Repr, Inhabited

/-- One tile: its step state, tables and queues (R255, R261, R262, R292, R309). -/
structure Tile where
  hall : Option Nat := none
  /-- The number of the hall start that left the scratchpads undefined (R142). -/
  epoch : Nat := 0
  s : Nat := 0
  group : Word := 0
  shares : Word := 0
  /-- SENDs of the present step not yet acknowledged as parked (R311). -/
  unparked : Nat := 0
  /-- The step each in-hall neighbour is known to have entered: west, east, north, south (R311). -/
  nbrS : SMap Nat := []
  /-- Step signals on their way to this tile: direction they come from and the step entered. -/
  signals : List (Nat × Nat) := []
  wd : Nat := 0
  stallPosted : Bool := false
  bars : List BarEnt := []
  contribs : List Contrib := []
  arms : List Arm := []
  mons : List Mon := []
  /-- The task queues of classes 0 to 3: the times of push of the records in them, oldest first, and the place of the oldest;
  the records are bytes of the vault (R292). -/
  taskq : SMap (List Nat) := []
  taskHead : SMap Nat := []
  popC : Nat := 0
  /-- The cycle and the core of the last record taken: those of one cycle are taken in ascending core index (R363). -/
  popBy : Nat × Nat := (0, 0)
  vest : List VRec := []
  vestReady : Nat := 0
  /-- What waits in the service overflow, oldest first (R415). -/
  overflow : List OverEnt := []
  /-- The cycle and the sender index of the last record posted to a handler queue of the tile (R415). -/
  lastPost : Nat × Nat := (0, 0)
  /-- STALL and BADJOIN messages that wait in the tile to be posted (R415). -/
  unposted : List HRec := []
  /-- Records in the task queue of each class at the last sample, and at the one before it (R364). -/
  occ : SMap Nat := []
  occOld : SMap Nat := []
  deriving DecidableEq, Repr, Inhabited

/-- A line held by a slice (R121, R123). -/
structure CLine where
  line : Nat := 0
  data : Vec := 0
  dirty : Bool := false
  poison : Bool := false
  hint : Hint := .df
  stamp : Nat := 0
  deriving DecidableEq, Repr, Inhabited

/-- One home slice (R121, R126, R250). -/
structure Slice where
  ssn : BitVec 48 := 1
  lines : List CLine := []
  /-- Registered update-only holders: line and bay. -/
  holders : List (Nat × Nat) := []
  deriving DecidableEq, Repr, Inhabited

/-- The stages of a near-memory command (R109). -/
inductive NmSt where
  | locking | queued | running
  deriving DecidableEq, Repr, Inhabited

/-- A near-memory command whose checks have passed (R106 to R112). -/
structure NmCmd where
  id : Nat := 0
  core : Nat := 0
  lv : Bool := false
  pend : Nat := 0
  op : Nat := 0
  ty : Nat := 0
  rm : Nat := 0
  sat : Bool := false
  n : Nat := 0
  dst : Nat := 0
  src : Nat := 0
  res : Nat := 0
  a0 : Word := 0
  a1 : Word := 0
  st : NmSt := .locking
  /-- Slices that have answered the lock request. -/
  answered : List Nat := []
  order : Nat := 0
  /-- The next element, the flags so far, and the slot a SUMSQ adds into. -/
  i : Nat := 0
  flags : FFlags := {}
  slot : Nat := 0
  deriving DecidableEq, Repr, Inhabited

/-- A multicast fill in progress (R150). -/
structure MFill where
  id : Nat := 0
  core : Nat := 0
  lv : Bool := false
  pend : Nat := 0
  src : Word := 0
  /-- The physical base of each 64 KiB page the source touches, in order. -/
  pages : List (Nat × Nat) := []
  mask : Word := 0
  off : Nat := 0
  count : Nat := 0
  hint : Hint := .df
  i : Nat := 0
  skip : Option (Nat × Nat) := none
  deriving DecidableEq, Repr, Inhabited

/-- A format window's registers (R100). `closing` is a cleared EN whose view is still being drained. -/
structure FWin where
  ctl : Word := 0
  view : Word := 0
  stor : Word := 0
  scl : Word := 0
  closing : Bool := false
  deriving DecidableEq, Repr, Inhabited

/-- A record on its way to a task queue (R293). -/
structure Push where
  id : Nat := 0
  tile : Nat := 0
  crec : Rec := {}
  /-- A push that cannot be refused. -/
  forced : Bool := false
  /-- A CTARM action that waits at its tile for a place, behind the earlier ones (R261). -/
  armed : Bool := false
  /-- The core and level that wait for the answer. -/
  from? : Option (Nat × Bool) := none
  deriving DecidableEq, Repr, Inhabited

/-- A record on its way to a core's queue or a vestibule (R299, R303). -/
structure Park where
  id : Nat := 0
  tile : Nat := 0
  v : VRec := {}
  core : Nat := 0
  lv : Bool := false
  pend : Nat := 0
  step : Nat := 0
  deriving DecidableEq, Repr, Inhabited

/-- A gallery read or hall query on its way (R314, R322). -/
structure GMsg where
  id : Nat := 0
  core : Nat := 0
  lv : Bool := false
  pend : Nat := 0
  pc : Word := 0
  tile : Nat := 0
  /-- The landing read, or none for a HALLQ. -/
  landing : Option Nat := none
  off : Nat := 0
  n : Nat := 0
  sext : Bool := false
  tval : Word := 0
  deriving DecidableEq, Repr, Inhabited

/-- What travels between the two ends of a stream (R329, R334). -/
inductive QMsg where
  | push (val : Word)
  | credit
  | weight (w : Nat)
  deriving DecidableEq, Repr, Inhabited

/-- A stream message: the end it travels to; for a push its number and the producer's core (R333). -/
structure QFlight where
  core : Nat := 0
  q : Nat := 0
  msg : QMsg := .credit
  id : Nat := 0
  src : Nat := 0
  deriving DecidableEq, Repr, Inhabited

/-- An FES channel (R352). -/
structure Chan where
  ctl : Word := 0
  base : Word := 0
  head : Nat := 0
  tail : Nat := 0
  seed : Word := 0
  /-- A SEED written in this cycle, which takes effect after the enqueues of the cycle (R353). -/
  seedIn : Option Word := none
  deriving DecidableEq, Repr, Inhabited

/-- How far a channel entry has come (R355). -/
inductive EntSt where
  | queued | waiting | allocated (origin : Nat) | running | done
  deriving DecidableEq, Repr, Inhabited

/-- An enqueued entry: its channel, index, the 64 bytes read, and its seed (R353, R354). -/
structure Entry where
  ch : Nat := 0
  idx : Nat := 0
  words : List Word := []
  seed : Word := 0
  st : EntSt := .queued
  /-- Times a LAUNCH has been passed over (R358). -/
  passed : Nat := 0
  /-- WAITW: the watched word has been written since it was read. -/
  watch : Bool := false
  /-- WAITW: the physical address of the watched word. -/
  watchPa : Nat := 0
  hall : Nat := 0
  /-- COLL: the block, once it has been read (R370). -/
  block : List Word := []
  deriving DecidableEq, Repr, Inhabited

/-- What stops a hall (R362, R420). -/
inductive HallStop where
  | none | cancel | save (move : Bool)
  deriving DecidableEq, Repr, Inhabited

/-- A running hall (R308, R354, R359, R365). -/
structure Hall where
  id : Nat := 0
  ox : Nat := 0
  oy : Nat := 0
  w : Nat := 0
  h : Nat := 0
  ch : Nat := 0
  idx : Nat := 0
  det : Bool := false
  cls : Nat := 0
  entry : Word := 0
  arg : Word := 0
  stallh : Word := 0
  hallwd : Nat := 0
  asid : Nat := 0
  energy : Nat := 0
  refill : Nat := 0
  used : Nat := 0
  budget : Bool := false
  lastTick : Nat := 0
  done : Word := 0
  lseed : Word := 0
  secure : Bool := false
  start : Nat := 0
  sampled : Nat := 0
  stop : HallStop := .none
  /-- Cancelled while it is being restored: the order takes effect at the release (R362, R421). -/
  doomed : Bool := false
  deriving DecidableEq, Repr, Inhabited

/-- A collective packet within the package (R384): its eight header doublewords and its payload. -/
structure Pkt where
  id : Nat := 0
  hdr : List Word := []
  payload : List Byte := []
  /-- The Harpin port by which it came in; none for one formed in this package. -/
  port : Option Nat := none
  /-- The Harpin port to which it is on its way in this package; none for one that is for a member here, or in transit. -/
  outPort : Option Nat := none
  /-- The tile of the member that sent it. -/
  src : Nat := 0
  /-- Operations performed. -/
  ops : Nat := 0
  /-- The member and data instruction of this package that wait for its acceptance (R377). -/
  sender : Option (Nat × Nat) := none
  deriving DecidableEq, Repr, Inhabited

/-- A chunk table entry of a chunk that has been written: its span, or its count (R369, R382). -/
structure ChunkEnt where
  lo : Nat := 0
  hi : Nat := 0
  deriving DecidableEq, Repr, Inhabited

/-- What a member has still to write of a chunk: the address, the bytes and their number, and the chunk's span (R378, R413). -/
structure ColOut where
  va : Nat := 0
  n : Nat := 0
  x : Nat := 0
  span : ChunkEnt := {}
  deriving DecidableEq, Repr, Inhabited

/-- What an access of a member is for (R389): its schedule, a data instruction, an add to SIGW, DST, or the completion word. -/
inductive MemAcc where
  | sched
  | run (k : Nat)
  | sig (pkt : Nat)
  | dst
  | done
  deriving DecidableEq, Repr, Inhabited

/-- A page fault of a member that waits for a reply: the address, the TIDX of the message, and the accesses that wait for it
(R413, R414). -/
structure PageWait where
  va : Word := 0
  tidx : Nat := 0
  accs : List MemAcc := []
  deriving DecidableEq, Repr, Inhabited

/-- A data instruction or KSIG that has issued and not completed (R377, R380). `kop` is 0 KSEND, 1 KRECV,
2 KRED, 3 KCOPY, 5 KSIG. -/
structure RunData where
  id : Nat := 0
  kop : Nat := 0
  c : ChunkData := default
  peer : Nat := 0
  /-- CIDX′ of R376, and the chunks done. -/
  first : Nat := 0
  done : Nat := 0
  sigVal : BitVec 32 := 0
  /-- Packets sent and not yet accepted by the peer's inbox. -/
  unacked : Nat := 0
  /-- Packets have left for another package, and are not known to have been accepted there (R377). -/
  far : Bool := false
  /-- Packets of the next chunk taken from the inbox. -/
  parts : List Pkt := []
  /-- The rest of the next chunk's write, which has met a page fault (R413, R416). -/
  out : Option ColOut := none
  deriving DecidableEq, Repr, Inhabited

/-- How far a member has come: its start, the opening gate, its schedule, the closing gate, after CDN, and
after an abort (R373, R375, R386, R388). -/
inductive MemSt where
  | starting | opening | running | closing | closed | aborting
  deriving DecidableEq, Repr, Inhabited

/-- A collective member in the FES of this package (R368 to R390). -/
structure Member where
  id : Nat := 0
  asid : Nat := 0
  secure : Bool := false
  hall : Nat := 0
  tile : Nat := 0
  /-- The block's address; the core, level and pending result of the COLL that starts it. -/
  addr : Word := 0
  core : Nat := 0
  lv : Bool := false
  pend : Nat := 0
  /-- A member started by an entry: its channel and index. -/
  entry : Option (Nat × Nat) := none
  block : List Word := []
  /-- The rank addresses, each with its package and hall resolved (R371). -/
  rlist : List Word := []
  inst : Nat := 0
  sched : List Word := []
  decoded : Bool := false
  st : MemSt := .starting
  opens : List Nat := []
  cups : List Nat := []
  sentOpen : Bool := false
  sentCup : Bool := false
  pc : Nat := 0
  iters : SMap Nat := []
  run : List RunData := []
  /-- The chunk table, keyed by buffer * 4096 + chunk; the entries of buffer 0 follow from RANK. -/
  chunks : SMap ChunkEnt := []
  flags : FFlags := {}
  start : Nat := 0
  /-- The abort taken: its code and the rank that raised it. -/
  abort : Option (Nat × Nat) := none
  inbox : List Pkt := []
  /-- The page faults that wait for a reply. -/
  waits : List PageWait := []
  /-- The accesses whose page fault has been answered with ABORT (R388, R389). -/
  pageAborts : List MemAcc := []
  /-- The rest of a chunk's write to DST, which has met a page fault (R413, R416). -/
  out : Option ColOut := none
  deriving DecidableEq, Repr, Inhabited

/-- An Ilupol link or a Harpin port (R430). -/
structure Link where
  errcnt : BitVec 32 := 0
  retrains : BitVec 16 := 0
  state : Nat := 3
  /-- Failures of the flit or frame now being tried (of a link, one count per direction), consecutive failed
  retrains, cycle the retrain began. -/
  fails : Nat := 0
  failsB : Nat := 0
  failed : Nat := 0
  since : Nat := 0
  /-- Sequence numbers of the last flits accepted, one per direction. -/
  seqA : BitVec 12 := 0
  seqB : BitVec 12 := 0
  deriving DecidableEq, Repr, Inhabited

/-- A region register pair (R423). -/
structure Region where
  base : Word := 0
  lim : Word := 0
  deriving DecidableEq, Repr, Inhabited

/-- A violation log (R425). -/
structure VLog where
  total : BitVec 32 := 0
  next : Nat := 0
  ents : SMap (Word × Word) := []
  /-- The cycle of the newest entry, and the entries made in it, each with its place in the order of one cycle. -/
  last : Nat := 0
  now : List (Nat × Word × Word) := []
  deriving DecidableEq, Repr, Inhabited

/-- A Harpin route table entry (R435). -/
structure Route where
  hdr : Word := 0
  v : Bool := false
  out : BitVec 4 := 0
  deriving DecidableEq, Repr, Inhabited

/-- What a saved hall holds besides the memory regions of its save area (R419): the opaque parts. -/
structure Saved where
  serial : Nat := 0
  base : Nat := 0
  move : Bool := false
  hall : Hall := {}
  tiles : SMap Tile := []
  cores : SMap Core := []
  bays : SMap Bay := []
  alcoves : SMap (SMap Word) := []
  landErr : List Nat := []
  /-- Its messages to the management cores that have not been answered (R405, R420). -/
  mgmt : List (Nat × Bool) := []
  deriving DecidableEq, Repr, Inhabited

/-- A bay image written by MSAVE (R245). -/
structure BayImage where
  serial : Nat := 0
  no : Nat := 0
  bay : Bay := {}
  alcove : SMap Word := []
  deriving DecidableEq, Repr, Inhabited

/-- The memories of the package, each a list of bytes in canonical form. Flat addresses: scratchpad
core * 2^17 + offset, vault v * 2^24 + offset, live gallery tile * 2^14 + offset, landing
(tile * 8 + slot) * 2^14 + offset, tile register data (bay * 16 + t) * 24576 + offset, scale plane
(bay * 16 + t) * 3072 + offset; alcove words bay * 32768 + word. -/
structure Mems where
  hbm : SMap Byte := []
  /-- Lines whose poison bit is set in the stacks' metadata (R98). -/
  poison : List Nat := []
  /-- 16-byte chunks of poisoned lines, by address divided by 16, that a format-window write-back has written whole since
  the line was poisoned (R104). -/
  rewritten : List Nat := []
  /-- Errors in the stored bytes that the ECC has not yet met: byte address and pattern (R97). -/
  errs : SMap Byte := []
  host : SMap Byte := []
  /-- Scratchpad bytes written since the hall started; the other bytes are undefined (R142). -/
  spad : SMap Byte := []
  /-- How many halls have started: numbers the undefined contents of their scratchpads (R142). -/
  epoch : Nat := 0
  vault : SMap Byte := []
  gal : SMap Byte := []
  land : SMap Byte := []
  landErr : List Nat := []
  tdata : SMap Byte := []
  tscale : SMap Byte := []
  alcove : SMap Word := []
  deriving DecidableEq, Repr, Inhabited

/-- The system-space registers that belong to no core, and the bring-up state (R99, R145, R352, R411,
R418, R423 to R435). -/
structure Sys where
  hbmerr : SMap Word := []
  fwin : SMap FWin := []
  regions : SMap Region := []
  vlog : SMap VLog := []
  asidroot : SMap Word := []
  prebase : Word := 0
  prestat : Nat := 0
  precmd : Word := 0
  links : SMap Link := []
  ports : SMap Link := []
  routes : SMap Route := []
  pkgid : Word := 0
  wear : SMap Word := []
  withheld : BitVec 128 := 0
  bustat : Nat := 1
  recovery : Bool := false
  /-- Self-test has stopped bring-up (R432). -/
  halted : Bool := false
  fwstat : Word := 0
  svn : BitVec 32 := 0
  /-- The SVN fuse: images of a lower version are refused (R426). -/
  svnFuse : BitVec 32 := 0
  /-- The management core has enabled physical function 1 (R428). -/
  function1 : Bool := false
  nonce : SMap Byte := []
  attstat : Nat := 0
  quote : List Byte := []
  /-- MSI-X vectors fired, and management messages the host has been sent (R405, R428). -/
  msix : List Nat := []
  /-- What the host's last read was answered: the value and false, or true for a poisoned one, which carries no data; none
  when it was refused, as an unsupported request is (R426, R428). -/
  hostAns : Option (Nat × Bool) := none
  /-- TRAP and DOUBLE messages posted by service cores to the management cores (R405). -/
  mgmt : List (Nat × Bool) := []
  deriving DecidableEq, Repr, Inhabited

/-- The front-end sequencer: channels, entries, halls, collectives (R352 to R392). -/
structure Fes where
  chans : SMap Chan := []
  entries : List Entry := []
  halls : List Hall := []
  nextHall : Nat := 0
  /-- A hall has been freed since the waiting launches were last considered (R358). -/
  freed : Bool := false
  members : List Member := []
  /-- Cached rank lists: ASID, RLIST, NRANK, the list, and its last use (R372). -/
  rlists : List (Nat × Word × Nat × List Word × Nat) := []
  /-- Successful starts of each (SID, rank address) (R373). -/
  insts : List (Word × Word × Nat) := []
  pkts : List Pkt := []
  /-- Packets sent out of each Harpin port, oldest first. -/
  out : List (Nat × List Word × List Byte) := []
  saves : List Saved := []
  /-- Halls that have been saved and not restored since: their collective members run on (R390). -/
  away : List Nat := []
  images : List BayImage := []
  serial : Nat := 0
  deriving DecidableEq, Repr, Inhabited

/-- The state of the package. -/
structure State where
  /-- The acts to come; when there is none, the next act is free (Config.nextAct). -/
  agenda : List Act := []
  stepNo : Nat := 0
  /-- Numbers given to accesses, pending results, messages and jobs. -/
  ctr : Nat := 0
  cycle : Nat := 0
  /-- The present cycle is ending: only what happens at the end of a cycle may still happen in it (R310, R318, R334,
  R364, R365). -/
  closing : Bool := false
  /-- The core whose instruction is being executed. -/
  cur : Nat := 0
  cores : SMap Core := []
  bays : SMap Bay := []
  tiles : SMap Tile := []
  slices : SMap Slice := []
  mem : Mems := {}
  flight : List Req := []
  cmds : List NmCmd := []
  fills : List MFill := []
  pushes : List Push := []
  parks : List Park := []
  gmsgs : List GMsg := []
  qflight : List QFlight := []
  sys : Sys := {}
  fes : Fes := {}
  deriving DecidableEq, Repr, Inhabited

/-- The machine right after reset (R426, R431): bring-up state 1, every register at the reset value its
table gives, no hall, nothing queued, every memory empty. Values the specification does not give are
named in the assumption log. DESIGN CHOICE (log entry 2). -/
def State.reset : State := {}

/-- The ways a step of this machine can stop. The specification gives every access and every instruction
an effect or a trap, so no meaning raises one. -/
inductive Fault where
  /-- Raised by no meaning and no step: the type needs a member for claims to speak of. Safe. -/
  | neverRaised
  deriving DecidableEq, Repr

/-- Instructions without a meaning. -/
inductive Refusal where
  /-- Raised by the arm of an instruction that has no meaning yet. Safe: the machine stops. -/
  | notModelled (mnemonic : String)
  deriving DecidableEq, Repr

end Sys2Proof.Machine
end

