-- ==== Sys2Proof/Machine/Bits.lean ====
section
/-!
DEFINITION. Bytes, fields, lanes and sign extension: least significant byte first everywhere (R38, R67).
-/

namespace Sys2Proof.Machine

open Sys2Proof

/-- Bits [lo + n - 1 : lo] of a 64-bit word as a number. -/
def fld (x : Word) (lo n : Nat) : Nat := x.toNat / 2 ^ lo % 2 ^ n

/-- Bit `i` of a word. -/
def bitAt (x : Word) (i : Nat) : Bool := x.getLsbD i

/-- The word with bits [lo + n - 1 : lo] taken from `v`. -/
def setFld (x : Word) (lo n : Nat) (v : Nat) : Word :=
  let m := word (2 ^ n - 1) <<< lo
  (x &&& ~~~m) ||| ((word v <<< lo) &&& m)

/-- `x[w-1:0]` sign-extended to 64 bits (R188). -/
def sextN (x w : Nat) : Word :=
  let y := x % 2 ^ w
  if w = 0 then 0 else if 2 ^ (w - 1) ≤ y then BitVec.ofInt 64 ((y : Int) - (2 ^ w : Nat)) else word y

/-- `x[w-1:0]` zero-extended to 64 bits (R188). -/
def zextN (x w : Nat) : Word := word (x % 2 ^ w)

/-- A field read as a signed number of `w` bits. -/
def sintN (x w : Nat) : Int :=
  let y := x % 2 ^ w
  if 2 * y < 2 ^ w then (y : Int) else (y : Int) - (2 ^ w : Nat)

/-- Byte `i` of a number. -/
def byteN (x i : Nat) : Byte := BitVec.ofNat 8 (x / 2 ^ (8 * i))

/-- The bytes of a number, least significant first. -/
def bytesOf : Nat → Nat → List Byte
  | 0, _ => []
  | n + 1, x => BitVec.ofNat 8 x :: bytesOf n (x / 256)

/-- The number a list of bytes holds, least significant first. -/
def ofBytes : List Byte → Nat
  | [] => 0
  | b :: bs => b.toNat + 256 * ofBytes bs

/-- Lane `i` of width `w` bits (R67). -/
def lane (v : Vec) (w i : Nat) : Nat := v.toNat / 2 ^ (i * w) % 2 ^ w

/-- A vector from its lanes of width `w`, lane 0 first. -/
def ofLanes (w : Nat) (ls : List Nat) : Vec :=
  BitVec.ofNat 1024 (ls.foldr (fun x acc => x % 2 ^ w + 2 ^ w * acc) 0)

/-- The lanes of a vector, lane 0 first. -/
def lanesOf (v : Vec) (w : Nat) : List Nat := (List.range (1024 / w)).map (lane v w)

/-- The mask of the bits of the lanes that `p` selects. -/
def laneMask (w : Nat) (p : Nat → Bool) : Vec :=
  ofLanes w ((List.range (1024 / w)).map (fun i => if p i then 2 ^ w - 1 else 0))

/-- `new` where the mask has ones, `old` elsewhere. -/
def blend (old new mask : Vec) : Vec := (new &&& mask) ||| (old &&& ~~~mask)

/-- A range of `n` bytes from byte `i` of a vector, as a number. -/
def vecBytes (v : Vec) (i n : Nat) : Nat := v.toNat / 2 ^ (8 * i) % 2 ^ (8 * n)

/-- A number placed at byte `i` of a vector. -/
def atByte (x i : Nat) : Vec := BitVec.ofNat 1024 (x * 2 ^ (8 * i))

/-- The mask of `n` bytes from byte `i`. -/
def byteMask (i n : Nat) : Vec := BitVec.ofNat 1024 ((2 ^ (8 * n) - 1) * 2 ^ (8 * i))

/-- The bit mask of a byte mask. -/
def expandBytes (bs : BitVec 128) : Vec := laneMask 8 (fun i => bs.getLsbD i)

/-- Do [a, a + n) and [b, b + m) overlap? -/
def overlaps (a n b m : Nat) : Bool := decide (a < b + m) && decide (b < a + n)

/-- Serial arithmetic on 48-bit witnesses: a at least b (R128). -/
def ssnGe (a b : BitVec 48) : Bool := (a - b).toNat < 2 ^ 47

/-- OR of two flag sets (R86). -/
def FFlags.or (a b : FFlags) : FFlags :=
  { nv := a.nv || b.nv, dz := a.dz || b.dz, ovf := a.ovf || b.ovf, uf := a.uf || b.uf, nx := a.nx || b.nx }

/-- FPFLAGS as a word (R87). -/
def FFlags.toNat (f : FFlags) : Nat := bit f.nx + 2 * bit f.uf + 4 * bit f.ovf + 8 * bit f.dz + 16 * bit f.nv

/-- FPFLAGS from the bits of a word (R87). -/
def FFlags.ofWord (x : Word) : FFlags :=
  { nx := bitAt x 0, uf := bitAt x 1, ovf := bitAt x 2, dz := bitAt x 3, nv := bitAt x 4 }

/-- The OR of a list of flag sets. -/
def FFlags.orAll (l : List FFlags) : FFlags := l.foldl FFlags.or {}

end Sys2Proof.Machine
end

