-- ==== Sys2Proof/Machine/Numfmt.lean ====
section
/-!
DEFINITION. Number formats (R66 to R86): the exact value of every element, and rounding of an exact value
into a format, with the flags that record what was lost.
-/

namespace Sys2Proof.Machine

open Sys2Proof

/-- A value before rounding. `fin neg m e sticky` is (-1)^neg * (m + f) * 2^e, where f is 0 when `sticky`
is false and otherwise some number strictly between 0 and 1. -/
inductive FVal where
  | fin (neg : Bool) (m : Nat) (e : Int) (sticky : Bool)
  | inf (neg : Bool)
  | nan (sig : Bool)
  deriving DecidableEq, Repr, Inhabited

/-- A floating-point format (R68): exponent and mantissa bits, bias, and the largest finite value
maxM * 2^maxQ. `kind` is 0 for formats with infinity and NaN, 1 for E4M3, 2 for E2M1. -/
structure Fmt where
  eb : Nat
  mb : Nat
  bias : Int
  kind : Nat
  maxM : Nat
  maxQ : Int
  deriving DecidableEq, Repr

/-- The format of a floating-point type code, or of the element of an MX type (R66, R68). -/
def fmtOf (ty : Nat) : Fmt :=
  match ty with
  | 0 => { eb := 11, mb := 52, bias := 1023, kind := 0, maxM := 2 ^ 53 - 1, maxQ := 971 }
  | 1 => { eb := 8, mb := 23, bias := 127, kind := 0, maxM := 2 ^ 24 - 1, maxQ := 104 }
  | 2 => { eb := 8, mb := 7, bias := 127, kind := 0, maxM := 255, maxQ := 120 }
  | 3 => { eb := 5, mb := 10, bias := 15, kind := 0, maxM := 2047, maxQ := 5 }
  | 4 => { eb := 4, mb := 3, bias := 7, kind := 1, maxM := 14, maxQ := 5 }
  | 6 => { eb := 4, mb := 3, bias := 7, kind := 1, maxM := 14, maxQ := 5 }
  | 8 => { eb := 2, mb := 1, bias := 1, kind := 2, maxM := 3, maxQ := 1 }
  | _ => { eb := 5, mb := 2, bias := 15, kind := 0, maxM := 7, maxQ := 13 }

/-- Bits of an element of type `ty` (R66). -/
def bitsOf (ty : Nat) : Nat := tyBits (BitVec.ofNat 4 ty)
/-- A signed integer type: S8 to S64. -/
def isSigned (ty : Nat) : Bool := 9 ≤ ty && ty ≤ 12
/-- An integer type: 9 to 15. -/
def isInt (ty : Nat) : Bool := 9 ≤ ty

/-- The value an encoding stands for (R69, R70). -/
def decF (f : Fmt) (x : Nat) : FVal :=
  let neg := x / 2 ^ (f.eb + f.mb) % 2 == 1
  let e := x / 2 ^ f.mb % 2 ^ f.eb
  let m := x % 2 ^ f.mb
  if f.kind = 0 ∧ e = 2 ^ f.eb - 1 then
    if m = 0 then .inf neg else .nan (m < 2 ^ (f.mb - 1))
  else if f.kind = 1 ∧ e = 15 ∧ m = 7 then .nan false
  else if e = 0 then .fin neg m (1 - f.bias - f.mb) false
  else .fin neg (2 ^ f.mb + m) (e - f.bias - f.mb) false

/-- The sign bit of a format. -/
def signBit (f : Fmt) (neg : Bool) : Nat := if neg then 2 ^ (f.eb + f.mb) else 0

/-- The canonical quiet NaN (R70); E2M1 has none. -/
def qnan (f : Fmt) : Nat :=
  if f.kind = 1 then 0x7F else if f.kind = 2 then 0 else (2 ^ f.eb - 1) * 2 ^ f.mb + 2 ^ (f.mb - 1)

/-- Infinity; where the format has none, what R83 puts in its place: the NaN of E4M3, 6 of E2M1. -/
def infOf (f : Fmt) (neg : Bool) : Nat :=
  if f.kind = 1 then 0x7F
  else if f.kind = 2 then signBit f neg + 7
  else signBit f neg + (2 ^ f.eb - 1) * 2 ^ f.mb

/-- The encoding of the magnitude mant * 2^q, with mant at most 2^(mb + 1) and q no lower than the
subnormal spacing (R69). -/
def encMag (f : Fmt) (mant : Nat) (q : Int) : Nat :=
  if mant < 2 ^ f.mb then mant
  else if mant < 2 ^ (f.mb + 1) then (q + f.mb + f.bias).toNat * 2 ^ f.mb + (mant - 2 ^ f.mb)
  else (q + 1 + f.mb + f.bias).toNat * 2 ^ f.mb

/-- The largest finite value with a sign. -/
def maxOf (f : Fmt) (neg : Bool) : Nat := signBit f neg + encMag f f.maxM f.maxQ

/-- a * 2^x compared with b * 2^y: less, equal or greater. -/
def cmpScaled (a : Nat) (x : Int) (b : Nat) (y : Int) : Ordering :=
  if x ≤ y then compare a (b * 2 ^ (y - x).toNat) else compare (a * 2 ^ (x - y).toNat) b

/-- Does a magnitude with kept part `kept`, remainder `r` out of `d`, and a sticky part round up in mode RM
(R82)? -/
def roundsUp (rm : Nat) (neg : Bool) (kept r d : Nat) (sticky : Bool) : Bool :=
  let twice := 2 * r
  match rm with
  | 0 => decide (d < twice) || (decide (twice = d) && (sticky || kept % 2 == 1))
  | 1 => false
  | 2 => (decide (r ≠ 0) || sticky) && !neg
  | 3 => (decide (r ≠ 0) || sticky) && neg
  | _ => decide (d ≤ twice)

/-- A magnitude m * 2^e (and a sticky part) rounded to a multiple of 2^q: the multiple, and whether it
differs from the exact value. -/
def quantize (rm : Nat) (neg : Bool) (m : Nat) (e : Int) (sticky : Bool) (q : Int) : Nat × Bool :=
  if q ≤ e then (m * 2 ^ (e - q).toNat, sticky)
  else
    let d := 2 ^ (q - e).toNat
    let kept := m / d
    let r := m % d
    (kept + bit (roundsUp rm neg kept r d sticky), decide (r ≠ 0) || sticky)

/-- round of R83 for a finite non-zero magnitude, with the flags of R86. DEDUCED (log entry 18). -/
def roundFin (f : Fmt) (rm : Nat) (neg : Bool) (m : Nat) (e : Int) (sticky : Bool) : Nat × FFlags :=
  let top : Int := (Nat.log2 m : Int) + e
  let emin : Int := 1 - f.bias
  let q := max (top - f.mb) (emin - f.mb)
  let (mant, inexact) := quantize rm neg m e sticky q
  if cmpScaled mant q f.maxM f.maxQ == .gt then
    let toInf := match rm with | 1 => false | 2 => !neg | 3 => neg | _ => true
    (if toInf then infOf f neg else maxOf f neg, { ovf := true, nx := true })
  else
    let (full, _) := quantize rm neg m e sticky (top - f.mb)
    let tiny := decide (top < emin) && !(decide (full = 2 ^ (f.mb + 1)) && decide (top + 1 = emin))
    (signBit f neg + encMag f mant q, { uf := tiny && inexact, nx := inexact })

/-- round of R83, with SAT as R84: any value into a floating-point format. The flag of a signalling NaN
belongs to the operation that read it, except in a conversion. -/
def roundF (f : Fmt) (rm : Nat) (sat : Bool) (x : FVal) : Nat × FFlags :=
  match x with
  | .nan _ => (qnan f, {})
  | .inf neg =>
    if sat then (maxOf f neg, { ovf := true, nx := true })
    else (infOf f neg, { nv := f.kind == 1 })
  | .fin neg m e sticky =>
    if m = 0 ∧ sticky = false then (signBit f neg, {})
    else
      let c := cmpScaled m e f.maxM f.maxQ
      if sat && (c == .gt || (c == .eq && sticky)) then (maxOf f neg, { ovf := true, nx := true })
      else roundFin f rm neg m e sticky

/-- A value rounded to an integer in mode RM, and whether it changed (R85). -/
def roundInt (rm : Nat) (neg : Bool) (m : Nat) (e : Int) (sticky : Bool) : Int × Bool :=
  let (k, inexact) := quantize rm neg m e sticky 0
  (if neg then -(k : Int) else k, inexact)

/-- The least and greatest values of an integer type (R78). -/
def intLo (ty : Nat) : Int := if isSigned ty then -((2 ^ (bitsOf ty - 1) : Nat) : Int) else 0
/-- See intLo. -/
def intHi (ty : Nat) : Int :=
  if isSigned ty then ((2 ^ (bitsOf ty - 1) : Nat) : Int) - 1 else ((2 ^ bitsOf ty : Nat) : Int) - 1

/-- sat(x, TY) (R78). -/
def satI (ty : Nat) (x : Int) : Int := if x < intLo ty then intLo ty else if intHi ty < x then intHi ty else x

/-- The element bits of an integer: its low bits, which is wrap of R78. -/
def intBits (ty : Nat) (x : Int) : Nat := (x % (2 ^ bitsOf ty : Nat)).toNat

/-- The integer an element holds (R78). -/
def intVal (ty x : Nat) : Int := if isSigned ty then sintN x (bitsOf ty) else ((x % 2 ^ bitsOf ty : Nat) : Int)

/-- Integer results: saturated when SAT is 1, wrapped when it is 0 (R78). -/
def putI (ty : Nat) (sat : Bool) (x : Int) : Nat := intBits ty (if sat then satI ty x else x)

/-- round of R85: any value into an integer type. A value that clamps raises NV alone: R85 names NX for a result in range.
DEDUCED (log entry 43). -/
def roundToInt (ty rm : Nat) (x : FVal) : Nat × FFlags :=
  match x with
  | .nan _ => (0, { nv := true })
  | .inf neg => (intBits ty (if neg then intLo ty else intHi ty), { nv := true })
  | .fin neg m e sticky =>
    let (i, inexact) := roundInt rm neg m e sticky
    let c := satI ty i
    if c = i then (intBits ty c, { nx := inexact }) else (intBits ty c, { nv := true })

/-- The value of an integer. -/
def ofInt (x : Int) : FVal := .fin (decide (x < 0)) x.natAbs 0 false

/-- The value of an element of any type that is not MX. -/
def elemVal (ty x : Nat) : FVal := if isInt ty then ofInt (intVal ty x) else decF (fmtOf ty) x

/-- A value times 2^k. -/
def FVal.scale (k : Int) : FVal → FVal
  | .fin neg m e st => .fin neg m (e + k) st
  | .inf neg => .inf neg
  | .nan s => .nan s

/-- The value of an MX element under its scale byte (R73, R74). -/
def mxVal (ty s x : Nat) : FVal := if s = 0xFF then .nan false else (decF (fmtOf ty) x).scale (s - 127)

/-- Is it a signalling NaN? -/
def FVal.isSig : FVal → Bool
  | .nan s => s
  | .fin _ _ _ _ => false
  | .inf _ => false
/-- Is it a NaN? -/
def FVal.isNan : FVal → Bool
  | .nan _ => true
  | .fin _ _ _ _ => false
  | .inf _ => false
/-- Is it an infinity? -/
def FVal.isInf : FVal → Bool
  | .inf _ => true
  | .fin _ _ _ _ => false
  | .nan _ => false
/-- Is it a zero? -/
def FVal.isZero : FVal → Bool
  | .fin _ m _ st => decide (m = 0) && !st
  | .inf _ => false
  | .nan _ => false
/-- Its sign. -/
def FVal.neg? : FVal → Bool
  | .fin n _ _ _ => n
  | .inf n => n
  | .nan _ => false
/-- Its opposite. -/
def FVal.flip : FVal → FVal
  | .fin n m e st => .fin (!n) m e st
  | .inf n => .inf (!n)
  | .nan s => .nan s

/-- The exact sum of two values: zeros take their sign by R83, opposite infinities give NaN with NV. -/
def addV (rm : Nat) (x y : FVal) : FVal × FFlags :=
  let nv : FFlags := { nv := x.isSig || y.isSig }
  match x, y with
  | .nan _, _ => (.nan false, nv)
  | _, .nan _ => (.nan false, nv)
  | .inf a, .inf b => if a = b then (.inf a, nv) else (.nan false, { nv := true })
  | .inf a, .fin _ _ _ _ => (.inf a, nv)
  | .fin _ _ _ _, .inf b => (.inf b, nv)
  | .fin a m e _, .fin b n g _ =>
    let q := min e g
    let p : Int := (m * 2 ^ (e - q).toNat : Nat)
    let r : Int := (n * 2 ^ (g - q).toNat : Nat)
    let s := (if a then -p else p) + (if b then -r else r)
    if s = 0 then
      (.fin (if m = 0 ∧ n = 0 ∧ a = b then a else decide (rm = 3)) 0 q false, nv)
    else (.fin (decide (s < 0)) s.natAbs q false, nv)

/-- The exact product; 0 times infinity gives NaN with NV (R211). -/
def mulV (x y : FVal) : FVal × FFlags :=
  let nv : FFlags := { nv := x.isSig || y.isSig }
  match x, y with
  | .nan _, _ => (.nan false, nv)
  | _, .nan _ => (.nan false, nv)
  | .inf a, .inf b => (.inf (a != b), nv)
  | .inf a, .fin b n _ _ => if n = 0 then (.nan false, { nv := true }) else (.inf (a != b), nv)
  | .fin a m _ _, .inf b => if m = 0 then (.nan false, { nv := true }) else (.inf (a != b), nv)
  | .fin a m e _, .fin b n g _ => (.fin (a != b) (m * n) (e + g) false, nv)

/-- x * y + z with one exact value (R211). -/
def fmaV (rm : Nat) (x y z : FVal) : FVal × FFlags :=
  let (p, f1) := mulV x y
  let (s, f2) := addV rm p z
  (s, f1.or f2)

/-- The quotient, to more bits than any format holds, with a sticky part (R211). -/
def divV (x y : FVal) : FVal × FFlags :=
  let nv : FFlags := { nv := x.isSig || y.isSig }
  match x, y with
  | .nan _, _ => (.nan false, nv)
  | _, .nan _ => (.nan false, nv)
  | .inf _, .inf _ => (.nan false, { nv := true })
  | .inf a, .fin b _ _ _ => (.inf (a != b), nv)
  | .fin a _ e _, .inf b => (.fin (a != b) 0 e false, nv)
  | .fin a m e _, .fin b n g _ =>
    if n = 0 then
      if m = 0 then (.nan false, { nv := true }) else (.inf (a != b), { dz := true })
    else
      let k := 80 + Nat.log2 n
      let t := m * 2 ^ k
      (.fin (a != b) (t / n) (e - g - k) (decide (t % n ≠ 0)), nv)

/-- The integer square root, bit by bit from bit `k`. -/
def isqrtFrom : Nat → Nat → Nat → Nat
  | 0, n, r => if (r + 1) * (r + 1) ≤ n then r + 1 else r
  | k + 1, n, r =>
    let t := r + 2 ^ (k + 1)
    isqrtFrom k n (if t * t ≤ n then t else r)

/-- The integer square root of a number below 2^400. -/
def isqrt (n : Nat) : Nat := isqrtFrom 200 n 0

/-- The square root (R211). -/
def sqrtV (x : FVal) : FVal × FFlags :=
  match x with
  | .nan s => (.nan false, { nv := s })
  | .inf neg => if neg then (.nan false, { nv := true }) else (.inf false, {})
  | .fin neg m e _ =>
    if m = 0 then (.fin neg 0 e false, {})
    else if neg then (.nan false, { nv := true })
    else
      let par := (e % 2).toNat
      let t := m * 2 ^ (160 + par)
      let r := isqrt t
      (.fin false r ((e - par) / 2 - 80) (decide (r * r ≠ t)), {})

/-- The reciprocal square root (R211). -/
def rsqV (x : FVal) : FVal × FFlags :=
  match x with
  | .nan s => (.nan false, { nv := s })
  | .inf neg => if neg then (.nan false, { nv := true }) else (.fin false 0 0 false, {})
  | .fin neg m e _ =>
    if m = 0 then (.inf neg, { dz := true })
    else if neg then (.nan false, { nv := true })
    else
      let par := (e % 2).toNat
      let b := m * 2 ^ par
      let r := isqrt (2 ^ 320 / b)
      (.fin false r (-((e - par) / 2) - 160) (decide (r * r * b ≠ 2 ^ 320)), {})

/-- Numeric comparison of two values that are not NaN. -/
def cmpV (x y : FVal) : Ordering :=
  match x, y with
  | .inf a, .inf b => if a = b then .eq else if a then .lt else .gt
  | .inf a, _ => if a then .lt else .gt
  | _, .inf b => if b then .gt else .lt
  | .fin a m e _, .fin b n g _ =>
    let q := min e g
    let p : Int := (m * 2 ^ (e - q).toNat : Nat)
    let r : Int := (n * 2 ^ (g - q).toNat : Nat)
    compare (if a then -p else p) (if b then -r else r)
  | _, _ => .eq

end Sys2Proof.Machine
end

