-- ==== Sys2Proof/Machine/Exact.lean ====
section
/-!
DEFINITION. The exact accumulators (R90 to R92), the seal (R160), the newel generator (R203) and the plane
formats (R79 to R81).
-/

namespace Sys2Proof.Machine

open Sys2Proof

/-- Bytes of a slot: XACC32 or XACC64 (R90). -/
def slotBytes (x64 : Bool) : Nat := if x64 then 288 else 64
/-- W, the width of V (R90). -/
def slotW (x64 : Bool) : Nat := if x64 then 2176 else 384
/-- L: the weight of V bit 0 is 2^-L (R91). -/
def slotL (x64 : Bool) : Nat := if x64 then 1074 else 149

/-- V of a slot held as a number, least significant byte first. -/
def slotV (x64 : Bool) (s : Nat) : Nat := s % 2 ^ slotW x64
/-- The status of a slot. -/
def slotStatus (x64 : Bool) (s : Nat) : Nat := s / 2 ^ slotW x64
/-- A slot from its V and status. -/
def mkSlot (x64 : Bool) (v st : Nat) : Nat := v % 2 ^ slotW x64 + 2 ^ slotW x64 * st

/-- The status with one of its bits set. -/
def orStatus (st b : Nat) : Nat := if st / 2 ^ b % 2 = 1 then st else st + 2 ^ b

/-- xacc_add of R91. -/
def xaccAdd (x64 : Bool) (s : Nat) (x : FVal) : Nat :=
  let v := slotV x64 s
  let st := slotStatus x64 s
  match x with
  | .nan _ => mkSlot x64 v (orStatus st 0)
  | .inf neg => mkSlot x64 v (orStatus st (if neg then 2 else 1))
  | .fin neg m e _ =>
    let k := m * 2 ^ (e + slotL x64).toNat
    let w := 2 ^ slotW x64
    mkSlot x64 (if neg then (v + (w - k % w)) % w else (v + k) % w) st

/-- Two slots added: V modulo 2^W, status ORed (R382). -/
def xaccMerge (x64 : Bool) (s t : Nat) : Nat :=
  mkSlot x64 ((slotV x64 s + slotV x64 t) % 2 ^ slotW x64) (slotStatus x64 s ||| slotStatus x64 t)

/-- The value xacc_round rounds out, with the flag it raises by itself (R92). -/
def xaccVal (x64 : Bool) (s : Nat) : FVal × FFlags :=
  let st := slotStatus x64 s
  let nan := st % 2 = 1
  let pinf := st / 2 % 2 = 1
  let ninf := st / 4 % 2 = 1
  if pinf ∧ ninf then (.nan false, { nv := true })
  else if nan then (.nan false, {})
  else if pinf then (.inf false, {})
  else if ninf then (.inf true, {})
  else
    let v := sintN (slotV x64 s) (slotW x64)
    (.fin (decide (v < 0)) v.natAbs (-(slotL x64 : Int)) false, {})

/-- xacc_round of R92, with SAT as R253. -/
def xaccRound (x64 : Bool) (s ty rm : Nat) (sat : Bool) : Nat × FFlags :=
  let (x, f) := xaccVal x64 s
  let (r, g) := roundF (fmtOf ty) rm sat x
  (r, f.or g)

/-- One bit of the reflected CRC-32C (R160). -/
def crcBit (c : BitVec 32) : BitVec 32 := if c.getLsbD 0 then (c >>> 1) ^^^ 0x82F63B78#32 else c >>> 1
/-- One byte of the CRC-32C. -/
def crcByte (c : BitVec 32) (b : Byte) : BitVec 32 :=
  crcBit (crcBit (crcBit (crcBit (crcBit (crcBit (crcBit (crcBit (c ^^^ b.setWidth 32))))))))
/-- CRC-32C of a list of bytes (R160). -/
def crc32c (bs : List Byte) : BitVec 32 := bs.foldl crcByte 0xFFFFFFFF#32 ^^^ 0xFFFFFFFF#32

/-- newel (R203). -/
def newel (key ctr : Word) : Word :=
  let z := key + ctr * 0xA3B195C5D7E41F27#64
  let z := z ^^^ (z >>> 32)
  let z := z * 0xD1B54A32D192ED03#64
  let z := z ^^^ (z >>> 29)
  let z := z * 0xAEF17502108EF2D9#64
  z ^^^ (z >>> 32)

/-- The keep mask of NMASK (R205). -/
def nmask (key ctr : Word) (thr : Nat) : Word :=
  word ((List.range 64).foldl
    (fun acc j => acc + 2 ^ j * bit (decide (fld (newel key (ctr + word j)) 48 16 < thr))) 0)

/-- pl_read of R80, for element `i` of a group whose plane `j` is the number `plane j`. -/
def planeRead (k i : Nat) (plane : Nat → Nat) : Nat :=
  (List.range k).foldl (fun v j => v + 2 ^ (7 - j) * (plane j / 2 ^ i % 2)) 0

/-- The n-bit integer an S8 is stored as, placed in bits [7 : 8 - n] (R81). -/
def planeWrite (n x : Nat) : Nat :=
  let d := 2 ^ (8 - n)
  let v := sintN x 8
  let f := v.fdiv d
  let r := v.fmod d
  let q := if 2 * r < d ∨ (2 * r = d ∧ f % 2 = 0) then f else f + 1
  let hi : Int := (2 ^ (n - 1) : Nat) - 1
  let c := if hi < q then hi else q
  (c * d % 256).toNat

end Sys2Proof.Machine
end

