-- ==== Sys2Proof/Machine/Flags.lean ====
section
/-!
DEFINITION. The sticky flags of a core: FPFLAGS of each level and how results raise them (R87, R88), and
the flag fields of the status words of the engines (R89, R112, R237, R387).
-/

namespace Sys2Proof.Machine

open Sys2Proof

/-- The thread of a level: false is level 0 (R174). -/
def Core.thr (c : Core) (lv : Bool) : Thread := if lv then c.lv1 else c.lv0

/-- The core with the thread of a level replaced. -/
def Core.setThr (c : Core) (lv : Bool) (t : Thread) : Core := if lv then { c with lv1 := t } else { c with lv0 := t }

/-- Raise flags in the FPFLAGS of a level; hardware only sets them (R87). -/
def Core.raise (c : Core) (lv : Bool) (f : FFlags) : Core :=
  let t := c.thr lv
  c.setThr lv { t with fp := t.fp.or f }

/-- NV, DZ, OF, UF, NX in bits [12:8] of a status word (R112, R237, R387). -/
def FFlags.status (f : FFlags) : Nat := 256 * f.toNat

end Sys2Proof.Machine
end

