-- ==== Sys2Proof/Machine/Ops.lean ====
section
/-!
DEFINITION. The named operations over cores, threads and registers; delivering messages to service
cores; taking a trap and returning from one (R51, R401 to R408, R414, R415).
-/

namespace Sys2Proof.Machine

open Sys2Proof

/-! ## Units -/

/-- The core with a package index. -/
def State.core (s : State) (ck : Nat) : Core := s.cores.get {} ck
/-- Replace a core. -/
def State.setCore (s : State) (ck : Nat) (c : Core) : State := { s with cores := s.cores.put ck c }
/-- Change a core. -/
def State.updCore (s : State) (ck : Nat) (f : Core → Core) : State := s.setCore ck (f (s.core ck))
/-- The bay with a package index. -/
def State.bay (s : State) (bk : Nat) : Bay := s.bays.get {} bk
/-- Replace a bay. -/
def State.setBay (s : State) (bk : Nat) (b : Bay) : State := { s with bays := s.bays.put bk b }
/-- Change a bay. -/
def State.updBay (s : State) (bk : Nat) (f : Bay → Bay) : State := s.setBay bk (f (s.bay bk))
/-- The tile with a package index. -/
def State.tile (s : State) (t : Nat) : Tile := s.tiles.get {} t
/-- Replace a tile. -/
def State.setTile (s : State) (t : Nat) (x : Tile) : State := { s with tiles := s.tiles.put t x }
/-- Change a tile. -/
def State.updTile (s : State) (t : Nat) (f : Tile → Tile) : State := s.setTile t (f (s.tile t))
/-- The slice with a package index. -/
def State.slice (s : State) (k : Nat) : Slice := s.slices.get {} k
/-- Replace a slice. -/
def State.setSlice (s : State) (k : Nat) (x : Slice) : State := { s with slices := s.slices.put k x }

/-- A fresh number for an access, a result or a message. -/
def State.fresh (s : State) : Nat × State := (s.ctr, { s with ctr := s.ctr + 1 })

/-- The tile of a core, and its place in it (R4). -/
def tileOf (ck : Nat) : Nat := ck / 64
/-- CORE (R4). -/
def coreIdx (ck : Nat) : Nat := ck % 64
/-- The bay of a core (R4). -/
def bayOf (ck : Nat) : Nat := ck / 8
/-- TILEX (R3). -/
def tileX (t : Nat) : Nat := t % 16
/-- TILEY (R3). -/
def tileY (t : Nat) : Nat := t / 16
/-- The die of a tile (R3). -/
def dieOf (t : Nat) : Nat := tileX t / 8
/-- The quadrant of a tile within its die (R3). -/
def quadOf (t : Nat) : Nat := tileY t / 4 * 2 + tileX t % 8 / 4
/-- The vault above a tile (R143). -/
def vaultOf (t : Nat) : Nat := dieOf t * 64 + tileY t * 8 + tileX t % 8
/-- The tile beneath a vault (R143). -/
def tileOfVault (v : Nat) : Nat := v % 64 / 8 * 16 + v / 64 * 8 + v % 8

/-! ## Halls -/

/-- The hall with a number. -/
def State.hall? (s : State) (h : Nat) : Option Hall := s.fes.halls.find? (fun x => x.id == h)
/-- The hall a tile belongs to. -/
def State.hallOf (s : State) (t : Nat) : Option Hall :=
  match (s.tile t).hall with
  | none => none
  | some h => s.hall? h
/-- The hall of a core; a record of zeros when it has none. -/
def State.hallOfCore (s : State) (ck : Nat) : Hall := (s.hallOf (tileOf ck)).getD {}
/-- Change a hall. -/
def State.updHall (s : State) (h : Nat) (f : Hall → Hall) : State :=
  { s with fes := { s.fes with halls := updFirst (fun x => x.id == h) f s.fes.halls } }
/-- The tiles of a hall in the order of their hall index (R308). -/
def Hall.tiles (h : Hall) : List Nat :=
  (List.range (h.w * h.h)).map (fun k => (h.oy + k / h.w) * 16 + h.ox + k % h.w)
/-- HALLX of a tile (R181). -/
def Hall.x (h : Hall) (t : Nat) : Nat := tileX t - h.ox
/-- HALLY of a tile (R181). -/
def Hall.y (h : Hall) (t : Nat) : Nat := tileY t - h.oy
/-- The hall index of a tile (R294, R308). -/
def Hall.index (h : Hall) (t : Nat) : Nat := h.y t * h.w + h.x t
/-- The tile at a hall position. -/
def Hall.tileAt (h : Hall) (x y : Nat) : Nat := (h.oy + y) * 16 + h.ox + x
/-- The service core: core 63 of hall tile (0, 0) (R359). -/
def Hall.service (h : Hall) : Nat := h.tileAt 0 0 * 64 + 63
/-- The sender index of a core (R303). -/
def Hall.sender (h : Hall) (ck : Nat) : Nat := h.index (tileOf ck) * 64 + coreIdx ck

/-! ## Registers -/

/-- The place a general register field names at a level (R42, R174); none for g0. -/
def greg (lv : Bool) (r : Nat) : Option PReg0 :=
  if r = 0 then none else if r < 32 then some (.gb lv r) else some (.gs r)

/-- Read a general register; g0 reads zero (R42). -/
def Core.g (c : Core) (lv : Bool) (r : Nat) : Word :=
  if r = 0 then 0 else if r < 32 then (c.thr lv).g.get 0 r else c.gHi.get 0 r

/-- Write a general register; a write to g0 is discarded (R42). -/
def Core.setG (c : Core) (lv : Bool) (r : Nat) (x : Word) : Core :=
  if r = 0 then c
  else if r < 32 then
    let t := c.thr lv
    c.setThr lv { t with g := t.g.set 0 r x }
  else { c with gHi := c.gHi.set 0 r x }

/-- Read a predicate register; p7 reads all ones (R173). -/
def Core.p (c : Core) (lv : Bool) (r : Nat) : Word := if r = 7 then ones else (c.thr lv).p.get 0 r

/-- Write a predicate register; a write to p7 is discarded (R173). -/
def Core.setP (c : Core) (lv : Bool) (r : Nat) (x : Word) : Core :=
  if r = 7 then c
  else
    let t := c.thr lv
    c.setThr lv { t with p := t.p.set 0 r x }

/-- Read a vector register. -/
def Core.vreg (c : Core) (r : Nat) : Vec := c.v.get 0 r
/-- Write a vector register. -/
def Core.setV (c : Core) (r : Nat) (x : Vec) : Core := { c with v := c.v.set 0 r x }
/-- The PC of a level. -/
def Core.pcOf (c : Core) (lv : Bool) : Word := (c.thr lv).pc
/-- Set the PC of a level. -/
def Core.setPc (c : Core) (lv : Bool) (x : Word) : Core :=
  let t := c.thr lv
  c.setThr lv { t with pc := x }
/-- Set what a thread waits for. -/
def Core.setHold (c : Core) (lv : Bool) (h : Hold) : Core :=
  let t := c.thr lv
  c.setThr lv { t with hold := h }

/-- The core whose instruction is executed. -/
def State.me (s : State) : Core := s.core s.cur
/-- Its running level. -/
def State.lv (s : State) : Bool := s.me.level
/-- Change it. -/
def State.updMe (s : State) (f : Core → Core) : State := s.updCore s.cur f
/-- Read a general register of the running level. -/
def State.rg (s : State) (r : Reg) : Word := s.me.g s.lv r.toNat
/-- Write a general register of the running level. -/
def State.wg (s : State) (r : Reg) (x : Word) : State := s.updMe (fun c => c.setG c.level r.toNat x)
/-- Read a predicate register. -/
def State.rp (s : State) (r : PReg) : Word := s.me.p s.lv r.toNat
/-- Write a predicate register. -/
def State.wp (s : State) (r : PReg) (x : Word) : State := s.updMe (fun c => c.setP c.level r.toNat x)
/-- Read a vector register. -/
def State.rv (s : State) (r : VReg) : Vec := s.me.vreg r.toNat
/-- Write a vector register. -/
def State.wv (s : State) (r : VReg) (x : Vec) : State := s.updMe (fun c => c.setV r.toNat x)
/-- The PC of the running level: the address of the executing instruction. -/
def State.pc (s : State) : Word := s.me.pcOf s.lv
/-- Set the PC of the running level. -/
def State.setPc (s : State) (x : Word) : State := s.updMe (fun c => c.setPc c.level x)
/-- Raise flags at the running level. -/
def State.raise (s : State) (f : FFlags) : State := s.updMe (fun c => c.raise c.level f)
/-- The hall of the executing core. -/
def State.myHall (s : State) : Hall := s.hallOfCore s.cur

/-! ## Pending results -/

/-- Write a result to its register and raise its flags (R48, R88). -/
def Core.writePend (c : Core) (p : Pend) : Core :=
  let c := c.raise p.lv p.flags
  match p.dst with
  | none => c
  | some (.gb lv r) => c.setG lv r (p.val.setWidth 64)
  | some (.gs r) => c.setG false r (p.val.setWidth 64)
  | some (.pb lv r) => c.setP lv r (p.val.setWidth 64)
  | some (.v r) => c.setV r (blend (c.vreg r) p.val p.mask)

/-- The results that have arrived, those that have just arrived last (R184). -/
def Core.noteArrivals (c : Core) : Core :=
  let here := (c.pend.filter (fun p => p.need == 0)).map (fun p => p.id)
  { c with arrived := c.arrived.filter (fun i => here.contains i) ++ here.filter (fun i => !c.arrived.contains i) }

/-- Change a pending result of a core. -/
def Core.updPend (c : Core) (id : Nat) (f : Pend → Pend) : Core :=
  ({ c with pend := updFirst (fun p => p.id == id) f c.pend }).noteArrivals

/-- Hand a finished value to a pending result. -/
def Core.arrive (c : Core) (id : Nat) (x : Word) (f : FFlags) : Core :=
  c.updPend id (fun p => { p with need := 0, val := x.setWidth 1024, flags := p.flags.or f })

/-- Will the result still write a register, raise flags, or be refused? The status of an engine that goes to g0 is not
waited for (R42, R301). -/
def Pend.owed (p : Pend) : Bool := p.dst.isSome || p.acc != 0 || p.cls == .vdivide || p.cls == .xrnd

/-- Is a result of a level still to be written? -/
def Core.owes (c : Core) (lv : Bool) : Bool := c.pend.any (fun p => p.lv == lv && p.owed)

/-- Close the open windows of a level (R50, R51). -/
def Core.closeWindows (c : Core) (lv : Bool) : Core :=
  { c with pend := c.pend.map (fun p => if p.lv = lv then { p with win := 0 } else p) }

/-- Count one issued instruction in every open window of a level (R47). -/
def Core.countWindows (c : Core) (lv : Bool) : Core :=
  { c with pend := c.pend.map (fun p => if p.lv = lv then { p with win := p.win - 1 } else p) }

/-- Is some window of a level open? -/
def Core.windowOpen (c : Core) (lv : Bool) : Bool := c.pend.any (fun p => p.lv == lv && decide (0 < p.win))

/-- `n` bytes from a memory in canonical form, least significant first. DESIGN CHOICE (log entry 3). -/
def readBytes (m : SMap Byte) : Nat → Nat → Nat
  | _, 0 => 0
  | a, n + 1 => (m.get 0 a).toNat + 256 * readBytes m (a + 1) n

/-- Store the `n` low bytes of a number. -/
def writeBytes (m : SMap Byte) : Nat → Nat → Nat → SMap Byte
  | _, 0, _ => m
  | a, n + 1, x => writeBytes (m.set 0 a (BitVec.ofNat 8 x)) (a + 1) n (x / 256)

/-- Change the memories. -/
def State.updMem (s : State) (f : Mems → Mems) : State := { s with mem := f s.mem }

/-- The line of an address. -/
def lineOf (pa : Nat) : Nat := pa / 128
/-! ## Watches -/

/-- Does a write of `n` bytes at a place touch what a watch at `w` watches: an 8-byte word of a core memory,
or a line of global memory (R262)? -/
def Loc.hit (w l : Loc) (n : Nat) : Bool :=
  match w, l with
  | .glob a, .glob b => lineOf a == lineOf b
  | .spad c o, .spad d p => c == d && overlaps o 8 p n
  | .vault c o, .vault d p => c == d && overlaps o 8 p n
  | .gal c o, .gal d p => c == d && overlaps o 8 p n
  | _, _ => false

/-- A write ends the sleep of every WAITA that watches the place: gd receives WOKEN and the monitor entry is
freed (R262); entries of the FES that watch the line look again (R355). -/
def State.notify (s : State) (l : Loc) (n : Nat) : State :=
  let hits := s.tiles.flatMap (fun e => e.2.mons.filter (fun m => m.loc.hit l n))
  let s :=
    if hits.isEmpty then s
    else
      let s := { s with tiles := s.tiles.map (fun e => (e.1, { e.2 with mons := e.2.mons.filter (fun m => !m.loc.hit l n) })) }
      hits.foldl (fun s m => s.updCore m.core (fun c => c.arrive m.pend 0 {})) s
  match l with
  | .glob pa =>
    if s.fes.entries.isEmpty then s
    else { s with fes := { s.fes with entries := s.fes.entries.map (fun e =>
        if e.st == .waiting && lineOf e.watchPa == lineOf pa then { e with watch := true } else e) } }
  | _ => s

/-! ## The queue region of a vault -/

/-- Where the task queue of class 0 lies in a vault; each class has 8,192 places of 32 bytes (R292). -/
def taskBase : Nat := 0x200000
/-- Where the vestibule lies in a vault (R292). -/
def vestBase : Nat := 0x300000
/-- Where the service overflow lies in a vault (R415). -/
def overBase : Nat := 0x310000

/-- A continuation record from its 32 bytes (R290). -/
def recOf (x : Nat) : Rec := { code := word x, frame := word (x / 2 ^ 64), jctr := word (x / 2 ^ 128), tidx := word (x / 2 ^ 192) }

/-- The 32 bytes of a record (R290). -/
def Rec.bytes (r : Rec) : Nat := r.code.toNat + r.frame.toNat * 2 ^ 64 + r.jctr.toNat * 2 ^ 128 + r.tidx.toNat * 2 ^ 192

/-- Write a record into the queue region of a tile's vault. -/
def State.putRec (s : State) (tile off : Nat) (r : Rec) : State :=
  (s.updMem (fun m => { m with vault := writeBytes m.vault (vaultOf tile * 2 ^ 24 + off) 32 r.bytes })).notify (.vault (vaultOf tile) off) 32

/-- Read one from there. -/
def State.getRec (s : State) (tile off : Nat) : Rec := recOf (readBytes s.mem.vault (vaultOf tile * 2 ^ 24 + off) 32)

/-- The lowest place, from `k` on, that is not taken; `fuel` bounds the search. The place a record takes in the vestibule or
the service overflow is not stated. DESIGN CHOICE (log entry 23). -/
def freeSlot (used : List Nat) : Nat → Nat → Nat
  | 0, k => k
  | fuel + 1, k => if used.contains k then freeSlot used fuel (k + 1) else k

/-- The place of the vault for one more record of the overflow. -/
def Tile.overSlot (t : Tile) : Nat := freeSlot (t.overflow.map (fun e => e.slot)) t.overflow.length 0

/-- The record that an entry of the overflow stands for. -/
def State.overRec (s : State) (tile : Nat) (e : OverEnt) : HRec := { crec := s.getRec tile (overBase + 32 * e.slot), svc := e.svc }

/-! ## Messages -/

/-- Places of a handler queue (R292). -/
def handlerCap : Nat := 64
/-- Places of a service overflow (R415). -/
def overflowCap : Nat := 2048

/-- Put a record that is never refused into a core's handler queue, or into the service overflow of its
tile when the queue is full or others wait there for it; none when the overflow is full too, or when a record of a higher
sender index has been posted in this cycle, so that the records of one cycle stand in ascending order (R415). -/
def State.postHandler (s : State) (ck sender : Nat) (r : HRec) : Option State :=
  let t := s.tile (tileOf ck)
  let c := s.core ck
  if t.lastPost.1 = s.cycle ∧ sender < t.lastPost.2 then none
  else
    let t := { t with lastPost := (s.cycle, sender) }
    if c.handlers.length < handlerCap ∧ t.overflow.all (fun e => e.core != ck) then
      some ((s.setTile (tileOf ck) t).setCore ck { c with handlers := c.handlers ++ [r] })
    else if t.overflow.length < overflowCap then
      some ((s.setTile (tileOf ck) { t with overflow := t.overflow ++ [{ core := ck, svc := r.svc, slot := t.overSlot }] }).putRec
        (tileOf ck) (overBase + 32 * t.overSlot) r.crec)
    else none

/-- KIND of a service message (R414). -/
def msgPage : Nat := 1
/-- KIND TRAP. -/
def msgTrap : Nat := 2
/-- KIND BADJOIN. -/
def msgBadjoin : Nat := 3
/-- KIND DOUBLE. -/
def msgDouble : Nat := 4

/-- TIDX of a fault, TRAP, BADJOIN or DOUBLE message (R414). -/
def msgTidx (h : Hall) (kind acc unit tile core reason cause : Nat) : Nat :=
  kind * 2 ^ 28 + acc * 2 ^ 26 + unit * 2 ^ 23 + h.y tile * 2 ^ 20 + h.x tile * 2 ^ 16 + core * 2 ^ 10 +
    reason * 2 ^ 8 + cause

/-- What posting a message to a hall's service core comes to. -/
inductive Posted where
  | posted (s : State)
  /-- No room anywhere: the requester waits to post it (R415). -/
  | full
  /-- STALLH is 0: the FES answers instead (R414). -/
  | fes

/-- The sender index of the core that a message's TIDX names (R303, R414). -/
def Hall.senderOf (h : Hall) (tidx : Nat) : Nat := (tidx / 2 ^ 20 % 8 * h.w + tidx / 2 ^ 16 % 16) * 64 + tidx / 2 ^ 10 % 64

/-- Post a service message with FRAME and TIDX to the service core of a hall (R414). -/
def State.postService (s : State) (h : Hall) (frame : Word) (tidx : Nat) : Posted :=
  if h.stallh = 0 then .fes
  else
    match s.postHandler h.service (h.senderOf tidx) { crec := { code := h.stallh, frame := frame, jctr := 0, tidx := word tidx }, svc := true } with
    | some s' => .posted s'
    | none => .full

/-- The order to cancel a hall: its cores stop at their next instruction boundary (R362). One that is being saved ends
CANCELLED all the same, and the SAVE finds no hall; one that is being restored is cancelled at its release: what CANCEL does
to them is not stated (R418). DESIGN CHOICE (log entry 28). -/
def State.cancelHall (s : State) (h : Nat) : State :=
  match s.hall? h with
  | none => s
  | some x =>
    match x.stop with
    | .save _ =>
      if fld s.sys.precmd 0 2 = 2 then s.updHall h (fun x => { x with doomed := true })
      else { s.updHall h (fun x => { x with stop := .cancel }) with sys := { s.sys with prestat := 3 } }
    | _ => s.updHall h (fun x => { x with stop := .cancel })

/-! ## Traps -/

/-- The codes of R401. -/
def tILLEGAL : Nat := 0x01
/-- PRIV. -/
def tPRIV : Nat := 0x02
/-- WINDOW. -/
def tWINDOW : Nat := 0x03
/-- ALIGN. -/
def tALIGN : Nat := 0x04
/-- APERTURE. -/
def tAPERTURE : Nat := 0x05
/-- CONE. -/
def tCONE : Nat := 0x06
/-- CLOBBER. -/
def tCLOBBER : Nat := 0x07
/-- POISON. -/
def tPOISON : Nat := 0x08
/-- REFUSED. -/
def tREFUSED : Nat := 0x09
/-- STREAM. -/
def tSTREAM : Nat := 0x0A
/-- TILESHAPE. -/
def tTILESHAPE : Nat := 0x0B
/-- ALCOVE. -/
def tALCOVE : Nat := 0x0C
/-- BKPT. -/
def tBKPT : Nat := 0x0D
/-- TRAP. -/
def tTRAP : Nat := 0x0E

/-- A thread blocks on a TRAP or DOUBLE message, which goes to the hall's service core, or from a service core to its
management core (R405, R414). With no room for the message the thread is blocked all the same, and the message waits to be
posted (R415). With STALLH 0 the FES cancels the hall. -/
def State.postTrap (s : State) (ck : Nat) (lv dbl : Bool) (code : Nat) (frame : Word) : State :=
  let h := s.hallOfCore ck
  let s := s.updCore ck (fun c => c.setHold lv (.service dbl code frame))
  if ck = h.service then { s with sys := { s.sys with mgmt := s.sys.mgmt ++ [(ck, dbl)] } }
  else
    match s.postService h frame
        (msgTidx h (if dbl then msgDouble else msgTrap) 0 (bit lv) (tileOf ck) (coreIdx ck) 0 code) with
    | .posted s' => s'
    | .full => s.updCore ck (fun c => c.setHold lv (.unserviced dbl code frame))
    | .fes => s.cancelHall h.id


/-- TCAUSE of a trap (R403). -/
def causeWord (lv fetch : Bool) (code : Nat) : Word := word (code + 256 * bit fetch + 512 * bit lv)

/-- Trap entry (R404), once the windows of the thread are closed and its pending results written: the
first trap saves PC, cause and value, sets T and PV and goes to the trap vector, or blocks on a TRAP message
when the vector is 0; a trap taken while T is 1 blocks on a DOUBLE message (R405). -/
def State.trapEntry (s : State) (ck : Nat) (lv : Bool) (code : Nat) (tval : Word) (fetch : Bool) : State :=
  let c := s.core ck
  let pc := c.pcOf lv
  if c.tBit then s.postTrap ck lv true code pc
  else
    let c := { c with tpc := pc &&& ~~~3, tcause := causeWord lv fetch code, tval := tval }
    if c.tvec &&& ~~~3 = 0 then (s.setCore ck c).postTrap ck lv false code pc
    else
      let c := { c with tBit := true, pvSave := c.pv, pv := true, maskOpen := false, maskCnt := 0 }
      s.setCore ck ((c.setPc lv (c.tvec &&& ~~~3)).setHold lv .ready)

/-- A trap is raised: the windows of the thread close, and the trap is latched until its pending results
are written (R51). -/
def Core.latchTrap (c : Core) (lv : Bool) (code : Nat) (tval : Word) (fetch : Bool) : Core :=
  let c := { c.closeWindows lv with qStall := if lv then c.qStall else none }
  let t := c.thr lv
  c.setThr lv { t with hold := .trap code tval fetch, held := [], heldV := [], late := none }

/-- The latched trap of a core's level is taken when that level runs, and no result of it is pending: one of the task that
comes while a handler runs waits for the handler's end (R51, R183, R400, R404). -/
def State.takeTrap (s : State) (ck : Nat) (lv : Bool) : State :=
  let c := s.core ck
  match (c.thr lv).hold with
  | .trap code tval fetch => if c.owes lv || c.level != lv then s else s.trapEntry ck lv code tval fetch
  | _ => s

/-- Raise a trap at the executing instruction; it is taken at once when nothing is pending. -/
def State.trap (s : State) (code : Nat) (tval : Word) (fetch : Bool := false) : State :=
  (s.updMe (fun c => c.latchTrap c.level code tval fetch)).takeTrap s.cur s.lv

/-- Return from a trap (R408): T clears, PV is restored, and the level in TCAUSE.LEVEL goes on at TPC.
DEDUCED (log entry 17). -/
def Core.eret (c : Core) : Core :=
  let lv := bitAt c.tcause 9
  let c := { c with tBit := false, pv := c.pvSave, level := lv }
  (c.setPc lv c.tpc).setHold lv .ready

end Sys2Proof.Machine
end

