-- ==== Sys2Proof/Machine/Hbm.lean ====
section
/-!
DEFINITION. The stacks and what stands before them: physical addresses and home slices (R94, R95, R122),
ECC, poison and HBMERR (R97 to R99, R286), format windows (R100 to R105), the world check and its log
(R422 to R425).
-/

namespace Sys2Proof.Machine

open Sys2Proof

/-! ## Physical addresses -/

/-- Bytes of HBM: both dies (R94). -/
def hbmTop : Nat := 2 ^ 39
/-- The first host address (R94). -/
def hostBase : Nat := 2 ^ 47
/-- Is the address host memory? -/
def isHost (pa : Nat) : Bool := decide (hostBase ≤ pa)
/-- Is the address backed by HBM? -/
def isHbm (pa : Nat) : Bool := decide (pa < hbmTop)

/-- The die that homes an address (R94, R122). -/
def homeDie (pa : Nat) : Nat := if isHost pa then 0 else pa / 2 ^ 38 % 2

/-- The slice number within the die (R122). -/
def sliceHash (pa : Nat) : Nat :=
  let f := fun k => pa / 2 ^ k % 16
  f 7 ^^^ f 11 ^^^ f 15 ^^^ f 19 ^^^ f 23 ^^^ f 27 ^^^ f 31 ^^^ f 35 ^^^ f 39 ^^^ (pa / 2 ^ 43 % 8)

/-- The package index of the home slice of an address. -/
def homeSlice (pa : Nat) : Nat := homeDie pa * 16 + sliceHash pa

/-- The stack that holds an HBM address (R95). -/
def stackOf (pa : Nat) : Nat :=
  4 * homeDie pa + (pa / 2 ^ 8 % 4 ^^^ pa / 2 ^ 16 % 4 ^^^ pa / 2 ^ 24 % 4)

/-! ## Bytes, ECC and poison -/

/-- The line is poisoned in the stacks' metadata (R98). -/
def State.poisoned (s : State) (line : Nat) : Bool := s.mem.poison.contains line
/-- Set or clear the poison bit of a line. -/
def State.setPoison (s : State) (line : Nat) (b : Bool) : State :=
  s.updMem (fun m => { m with poison := if b then (if m.poison.contains line then m.poison else line :: m.poison)
                                        else m.poison.filter (fun l => l != line),
                              rewritten := if b && m.poison.contains line then m.rewritten
                                           else m.rewritten.filter (fun c => c / 8 != line) })

/-- HBMERR of a stack. -/
def State.hbmerr (s : State) (st : Nat) : Word := s.sys.hbmerr.get 0 st
/-- Count a corrected error (R97, R99). -/
def State.countCe (s : State) (st : Nat) : State :=
  let w := s.hbmerr st
  let n := fld w 48 16
  { s with sys := { s.sys with hbmerr := s.sys.hbmerr.set 0 st (setFld w 48 16 (min (n + 1) 0xFFFF)) } }
/-- Count an uncorrectable error and record its line (R98, R99, R286). -/
def State.countUe (s : State) (st line : Nat) : State :=
  let w := s.hbmerr st
  let n := fld w 40 8
  { s with sys := { s.sys with
      hbmerr := s.sys.hbmerr.set 0 st (setFld (setFld w 40 8 (min (n + 1) 0xFF)) 0 40 line) } }

/-- What the ECC engine does with one 32-byte sector of a line when it is read (R97, R98, R286): no
error; one wrong symbol, which is corrected and written back; more, which poison the line. -/
def State.eccSector (s : State) (a : Nat) : State :=
  let bad := (List.range 32).filter (fun i => decide (s.mem.errs.get 0 (a + i) ≠ 0))
  let st := stackOf a
  match bad with
  | [] => s
  | [i] => (s.updMem (fun m => { m with errs := m.errs.set 0 (a + i) 0 })).countCe st
  | _ =>
    let s := s.updMem (fun m => bad.foldl (fun m i =>
      { m with hbm := m.hbm.set 0 (a + i) (m.hbm.get 0 (a + i) ^^^ m.errs.get 0 (a + i)),
               errs := m.errs.set 0 (a + i) 0,
               rewritten := m.rewritten.filter (fun c => c != (a + i) / 16) }) m)
    if s.poisoned (lineOf a) then s else (s.countUe st (lineOf a)).setPoison (lineOf a) true

/-- A read of a line of HBM through the ECC engine: data, poison, and what the engine changed. -/
def State.hbmRead (s : State) (line : Nat) : Vec × Bool × State :=
  let a := line * 128
  let s := if s.mem.errs.isEmpty then s
    else (((s.eccSector a).eccSector (a + 32)).eccSector (a + 64)).eccSector (a + 96)
  (BitVec.ofNat 1024 (readBytes s.mem.hbm a 128), s.poisoned line, s)

/-- A write of a whole line of HBM, with its poison bit (R98). -/
def State.hbmWrite (s : State) (line : Nat) (d : Vec) (poison : Bool) : State :=
  (s.updMem (fun m => { m with hbm := writeBytes m.hbm (line * 128) 128 d.toNat,
                               errs := m.errs.clear (line * 128) 128 })).setPoison line poison

/-! ## Format windows -/

/-- G of a window (R100). -/
def FWin.g (f : FWin) : Nat := fld f.ctl 40 24
/-- WLD. -/
def FWin.wld (f : FWin) : Bool := bitAt f.ctl 14
/-- RDK. -/
def FWin.rdk (f : FWin) : Nat := fld f.ctl 8 4
/-- PLN. -/
def FWin.pln (f : FWin) : Nat := fld f.ctl 4 4
/-- EN as it reads: 1 until a clear has been carried out (R102). -/
def FWin.en (f : FWin) : Bool := bitAt f.ctl 0
/-- View base in bytes. -/
def FWin.vbase (f : FWin) : Nat := fld f.view 7 41 * 128
/-- Storage base in bytes. -/
def FWin.sbase (f : FWin) : Nat := fld f.stor 7 41 * 128
/-- Scale region base in bytes. -/
def FWin.scbase (f : FWin) : Nat := fld f.scl 0 48
/-- The three ranges: base and length. -/
def FWin.ranges (f : FWin) : List (Nat × Nat) :=
  [(f.vbase, 128 * f.g), (f.sbase, 16 * f.pln * f.g), (f.scbase, f.g)]

/-- Window `n` of die `d`, keyed d * 16 + n. -/
def State.fwin (s : State) (k : Nat) : FWin := s.sys.fwin.get {} k
/-- The enabled windows of a die. -/
def State.fwins (s : State) (die : Nat) : List FWin :=
  (((List.range 16).map (fun n => s.fwin (die * 16 + n)))).filter FWin.en

/-- The enabled window in whose view a line lies (R102). -/
def State.viewOf (s : State) (line : Nat) : Option FWin :=
  if isHbm (line * 128) then
    (s.fwins (homeDie (line * 128))).find?
      (fun f => decide (f.vbase ≤ line * 128) && decide (line * 128 < f.vbase + 128 * f.g))
  else none

/-- Is the line in a view that is read only (R104)? -/
def State.viewReadOnly (s : State) (line : Nat) : Bool :=
  match s.viewOf line with
  | none => false
  | some f => decide (f.rdk < f.pln)

/-- The address of the 16-byte chunk of plane `j` of a group (R79). -/
def FWin.chunk (f : FWin) (g j : Nat) : Nat := f.sbase + 16 * (j * f.g + g)

/-- Is a 16-byte chunk of storage bad: in a poisoned line, and not written whole by a write-back since (R103, R104)? -/
def State.chunkBad (s : State) (a : Nat) (poison : Bool) : Bool := poison && !s.mem.rewritten.contains (a / 16)

/-- Read the plane chunks 0 to k - 1 of a group: each with its poison (R103). -/
def State.readChunks (s : State) (f : FWin) (g : Nat) : Nat → List Nat × Bool × State
  | 0 => ([], false, s)
  | k + 1 =>
    let (l, p, s) := s.readChunks f g k
    let a := f.chunk g k
    let (d, q, s) := s.hbmRead (lineOf a)
    (l ++ [vecBytes d (a % 128) 16], p || s.chunkBad a q, s)

/-- The data of a line as the memory controller delivers it: view lines are decoded from their planes
(R103), others are the bytes of HBM. DEDUCED (log entry 22). -/
def State.fetchLine (s : State) (line : Nat) : Vec × Bool × State :=
  match s.viewOf line with
  | none => s.hbmRead line
  | some f =>
    let g := (line * 128 - f.vbase) / 128
    let (cs, p, s) := s.readChunks f g f.rdk
    let d := ofLanes 8 ((List.range 128).map (fun i => planeRead f.rdk i (fun j => cs.getD j 0)))
    (d, p || s.poisoned line, s)

/-- Write one plane chunk into the storage line that holds it (R104). A poisoned storage line stays so, but the chunk no
longer poisons its view line. DEDUCED (log entry 22). -/
def State.writeChunk (s : State) (f : FWin) (g j : Nat) (x : Nat) : State :=
  let a := f.chunk g j
  let (d, p, s) := s.hbmRead (lineOf a)
  let s := s.hbmWrite (lineOf a) (blend d (atByte x (a % 128)) (byteMask (a % 128) 16)) p
  if p then s.updMem (fun m => { m with rewritten := a / 16 :: m.rewritten.filter (fun c => c != a / 16) }) else s

/-- Write a whole line back to memory: a view line is encoded into all its planes, which also clears its
poison (R104); others go to HBM with their poison bit. -/
def State.storeLine (s : State) (line : Nat) (d : Vec) (poison : Bool) : State :=
  match s.viewOf line with
  | none => s.hbmWrite line d poison
  | some f =>
    if f.rdk < f.pln then s
    else
      let g := (line * 128 - f.vbase) / 128
      let enc := (List.range 128).map (fun i => planeWrite f.pln (lane d 8 i))
      let plane := fun j => enc.foldr (fun x acc => x / 2 ^ (7 - j) % 2 + 2 * acc) 0
      ((List.range f.pln).foldl (fun s j => s.writeChunk f g j (plane j)) s).setPoison line false

/-! ## The world check -/

/-- Who makes an access, as the violation log records it (R425): `host`, or a tile, a core and a unit. -/
structure Rqst where
  host : Bool := false
  tile : Nat := 0
  core : Nat := 0
  unit : Nat := 0
  secure : Bool := false
  /-- The front-end sequencer itself, which stands at no tile. -/
  fes : Bool := false
  deriving DecidableEq, Repr, Inhabited

/-- Does an enabled secure region cover a byte of a range of `n` bytes (R423)? -/
def State.inSecure (s : State) (pa n : Nat) : Bool :=
  s.sys.regions.any (fun e =>
    e.1 / 64 == homeDie pa && bitAt e.2.base 0 && bitAt e.2.base 1 &&
      decide (fld e.2.base 16 32 ≤ (pa + n - 1) / 65536) && decide (pa / 65536 ≤ fld e.2.lim 16 32))

/-- Does an access of `n` bytes touch a range of a window whose WLD is 1, enabled or not (R105)? -/
def State.inSecureWin (s : State) (pa n : Nat) : Bool :=
  ((List.range 16).map (fun k => s.fwin (homeDie pa * 16 + k))).any
    (fun f => f.wld && f.ranges.any (fun r => overlaps pa n r.1 r.2))

/-- Is an access of `n` bytes answered with the error response (R94, R105, R424)? -/
def State.refuses (s : State) (secure : Bool) (pa n : Nat) : Bool :=
  (!isHbm pa && !isHost pa) || decide (2 ^ 48 ≤ pa) ||
    (!secure && (s.inSecure pa n || (isHbm pa && s.inSecureWin pa n)))

/-- KIND codes of the violation log. -/
def kLoad : Nat := 0
/-- Store. -/
def kStore : Nat := 1
/-- Atomic. -/
def kAtomic : Nat := 2
/-- Engine read. -/
def kERead : Nat := 3
/-- Engine write. -/
def kEWrite : Nat := 4
/-- Fetch. -/
def kFetch : Nat := 5
/-- NMU. -/
def kNmu : Nat := 6

/-- Put an entry among those of one cycle: ascending in its place, after the earlier ones of the same place. -/
def insLog (e : Nat × Word × Word) : List (Nat × Word × Word) → List (Nat × Word × Word)
  | [] => [e]
  | x :: xs => if e.1 < x.1 then e :: x :: xs else x :: insLog e xs

/-- Write entries from a place on. -/
def putLog (m : SMap (Word × Word)) (i : Nat) : List (Nat × Word × Word) → SMap (Word × Word)
  | [] => m
  | e :: es => putLog (m.put (i % 32) e.2) (i + 1) es

/-- Enter a refusal: those of one cycle stand in ascending order of their slice, those of the NMUs last (R425). -/
def VLog.enter (l : VLog) (cycle : Nat) (e : Nat × Word × Word) : VLog :=
  let old := if l.last = cycle then l.now else []
  let now := insLog e old
  { total := if l.total = BitVec.allOnes 32 then l.total else l.total + 1,
    ents := putLog l.ents (l.next + 32 * old.length - old.length) now, next := (l.next + 1) % 32, last := cycle, now := now }

/-- Log a refusal in the die that refused it (R425). -/
def State.logRefusal (s : State) (pa kind : Nat) (r : Rqst) : State :=
  let d := homeDie pa
  let l := s.sys.vlog.get {} d
  let w0 := word (pa % 2 ^ 48 + kind % 16 * 2 ^ 48 + 2 ^ 63)
  let w1 := if r.host then word (2 ^ 41 + bit r.secure)
    else word (dieOf r.tile * 2 ^ 40 + r.tile % 128 * 2 ^ 32 + r.core % 64 * 2 ^ 24 + r.unit % 8 * 2 ^ 16 + bit r.secure)
  let place := if kind = kNmu then 16 else sliceHash pa
  { s with sys := { s.sys with vlog := s.sys.vlog.put d (l.enter s.cycle (place, w0, w1)) } }

/-- The world check of an access: refused accesses are logged. -/
def State.check (s : State) (r : Rqst) (kind pa n : Nat) : Bool × State :=
  if s.refuses r.secure pa n then (true, s.logRefusal pa kind r) else (false, s)

/-- The requester a core's thread is. -/
def State.rqstOf (s : State) (ck unit : Nat) : Rqst :=
  { tile := tileOf ck, core := coreIdx ck, unit := unit, secure := (s.hallOfCore ck).secure }

end Sys2Proof.Machine
end

