-- ==== Sys2Proof/Machine/Slices.lean ====
section
/-!
DEFINITION. The home slices as ordering points (R121 to R127), update-only lines and their recall (R250,
R251), NMU range locks (R109, R110), the bay L1 (R130, R131, R270), host memory, and the paths across the
Ilupol bridge (R118, R316, R430).
-/

namespace Sys2Proof.Machine

open Sys2Proof

/-! ## Read-modify-write of one element -/

/-- The new value of an element under a read-modify-write, none when nothing is written (R249, R250, R260). -/
def rmwNew (op : RmwOp) (ty old b c : Nat) : Option Nat :=
  match op with
  | .add => some (putI ty false (intVal ty old + intVal ty b))
  | .addSat => some (putI ty true (intVal ty old + intVal ty b))
  | .min => some (if intVal ty b < intVal ty old then b else old)
  | .max => some (if intVal ty old < intVal ty b then b else old)
  | .and => some (old &&& b)
  | .or => some (old ||| b)
  | .xor => some (old ^^^ b)
  | .swp => some b
  | .cas => if old = c then some b else none
  | .ctinc => some (min (old + b) (2 ^ 64 - 1))

/-- The identity of a reduction: what an untouched element of an update-only line holds (R250). -/
def rmwIdentity (op : RmwOp) (ty : Nat) : Nat :=
  match op with
  | .min => intBits ty (intHi ty)
  | .max => intBits ty (intLo ty)
  | _ => 0

/-- The floating-point value of an XADD term (R252). -/
def xaddTerm (ty : Nat) (b : Word) : FVal := decF (fmtOf ty) (b.toNat % 2 ^ bitsOf ty)

/-- Combine a partial line into the line's data (R251). -/
def ULine.combine (u : ULine) (d : Vec) : Vec :=
  if u.xacc then ofLanes 512 [xaccMerge false (lane d 512 0) (lane u.data 512 0), xaccMerge false (lane d 512 1) (lane u.data 512 1)]
  else
    let w := bitsOf u.ty
    ofLanes w ((List.range (1024 / w)).map (fun i => (rmwNew u.op u.ty (lane d w i) (lane u.data w i) 0).getD 0))

/-! ## Slice lines -/

/-- The line a slice holds. -/
def State.cline? (s : State) (line : Nat) : Option CLine :=
  (s.slice (homeSlice (line * 128))).lines.find? (fun c => c.line == line)

/-- Drop a line from its slice without writing it back. -/
def State.uncache (s : State) (line : Nat) : State :=
  let k := homeSlice (line * 128)
  let sl := s.slice k
  s.setSlice k { sl with lines := sl.lines.filter (fun c => c.line != line) }

/-- Put a line in its slice in the place of the copy it holds. It becomes the most recently used: so it is after a combine of
update-only copies and after EVICT.SL too, of which R123 and R136 do not say it. DESIGN CHOICE (log entry 43). -/
def State.putLine (s : State) (c : CLine) : State :=
  let s := s.uncache c.line
  let k := homeSlice (c.line * 128)
  let sl := s.slice k
  { s.setSlice k { sl with lines := { c with stamp := s.ctr } :: sl.lines } with ctr := s.ctr + 1 }

/-- Count one write: the slice's next SSN (R126). -/
def State.bumpSsn (s : State) (k : Nat) : State :=
  let sl := s.slice k
  s.setSlice k { sl with ssn := sl.ssn + 1 }

/-- Rank of a retention hint as a victim: lower goes first (R123). -/
def victimRank : Hint → Nat
  | .byp => 0
  | .sl => 1
  | .df => 2
  | .ll => 3

/-- The line of a list that the slice gives up first (R123). Of several BY lines the least recently used goes first, where
the specification gives no order among them. DESIGN CHOICE (log entry 43). -/
def victimOf : List CLine → Option CLine
  | [] => none
  | c :: cs =>
    match victimOf cs with
    | none => some c
    | some d =>
      if victimRank c.hint < victimRank d.hint ∨ (victimRank c.hint = victimRank d.hint ∧ c.stamp < d.stamp)
      then some c else some d

/-! ## The Ilupol bridge -/

/-- STATE of link `l` (R430): 0 UP, 1 RETRAIN, 2 DEAD, 3 DOWN. -/
def State.linkState (s : State) (l : Nat) : Nat := (s.sys.links.get {} l).state

/-- What a message meets on its way. -/
inductive Way where
  | clear | wait | dead
  deriving DecidableEq, Repr

/-- The way a link lets messages through. -/
def State.linkWay (s : State) (l : Nat) : Way :=
  match s.linkState l with
  | 0 => .clear
  | 2 => .dead
  | _ => .wait

/-- The worse of two. -/
def Way.and : Way → Way → Way
  | .dead, _ => .dead
  | _, .dead => .dead
  | .wait, _ => .wait
  | _, .wait => .wait
  | .clear, .clear => .clear

/-- A message from quadrant row `r` of one die to the other crosses link `r` (R118). -/
def State.way (s : State) (die row die' : Nat) : Way := if die = die' then .clear else s.linkWay row

/-- The quadrant row of a tile, and that of a slice. -/
def rowOfTile (t : Nat) : Nat := tileY t / 4
/-- See rowOfTile. -/
def rowOfSlice (k : Nat) : Nat := k % 16 / 8

/-- A request from a tile to a slice and its response (R118). -/
def State.wayToSlice (s : State) (t k : Nat) : Way :=
  (s.way (dieOf t) (rowOfTile t) (k / 16)).and (s.way (k / 16) (rowOfSlice k) (dieOf t))

/-- A message from a tile to a tile. -/
def State.wayToTile (s : State) (t t' : Nat) : Way := s.way (dieOf t) (rowOfTile t) (dieOf t')

/-- A request between tiles and its answer. -/
def State.wayBetween (s : State) (t t' : Nat) : Way := (s.wayToTile t t').and (s.wayToTile t' t)

/-! ## Update-only copies -/

/-- The order in which holders are combined: die, tile, bay (R251). -/
def holderKey (bk : Nat) : Nat := dieOf (bk / 8) * 1024 + bk

/-- Insert a bay into a list kept in combining order. -/
def insHolder (bk : Nat) : List Nat → List Nat
  | [] => [bk]
  | b :: bs => if holderKey bk ≤ holderKey b then bk :: b :: bs else b :: insHolder bk bs

/-- The bays registered as holders of a line, in combining order. -/
def State.holdersOf (s : State) (line : Nat) : List Nat :=
  ((s.slice (homeSlice (line * 128))).holders.filter (fun h => h.1 == line)).foldl (fun l h => insHolder h.2 l) []

/-- The partial line a bay holds update-only. -/
def Bay.uline? (b : Bay) (line : Nat) : Option ULine := b.u.find? (fun u => u.line == line)

/-- Report a failed store or reduction to a thread (R264). -/
def State.addFail (s : State) (ck : Nat) (lv : Bool) (l : Loc) (poison : Bool) : State :=
  s.updCore ck (fun c =>
    let t := c.thr lv
    if t.fails.contains (l, poison) then c else c.setThr lv { t with fails := t.fails ++ [(l, poison)] })

/-- Report a failure at a place to each thread of a list. -/
def State.addFails (s : State) (l : Loc) (poison : Bool) (os : List (Nat × Bool)) : State :=
  os.foldl (fun s o => s.addFail o.1 o.2 l poison) s

/-- Answers that slices have given to a bay's cores, and that are still on their way, bring no new copy of these lines, so
that nothing older than what the bay has seen or dropped comes back (R269 to R271). -/
def State.keepOut (s : State) (bk : Nat) (f : Nat → Bool) : State :=
  { s with flight := s.flight.map (fun r => match r.st, r.loc with
      | .done _ _ _, .glob pa => if bayOf r.core == bk && f (lineOf pa) then { r with nofill := true } else r
      | _, _ => r) }

/-- A bay drops its clean copies of these lines. -/
def State.l1Clean (s : State) (bk : Nat) (f : Nat → Bool) : State :=
  (s.updBay bk (fun b => { b with l1 := b.l1.filter (fun l => !f l.line) })).keepOut bk f

/-- Forget the update-only copy of a line in one bay, in the bay and at the slice. -/
def State.dropU (s : State) (line bk : Nat) : State :=
  let b := s.bay bk
  let s := s.setBay bk { b with u := b.u.filter (fun u => u.line != line) }
  let k := homeSlice (line * 128)
  let sl := s.slice k
  s.setSlice k { sl with holders := sl.holders.filter (fun h => h != (line, bk)) }

/-- The line as the slice sees it, update-only copies apart: data and poison. -/
def State.rawLine (s : State) (line : Nat) : Vec × Bool × State :=
  match s.cline? line with
  | some c => (c.data, c.poison, s)
  | none => s.fetchLine line

/-- Put data back where rawLine took it from. -/
def State.putRaw (s : State) (line : Nat) (d : Vec) (poison : Bool) : State :=
  match s.cline? line with
  | some c => s.putLine { c with data := d, poison := poison, dirty := true }
  | none => s.storeLine line d poison

/-- Combine the copies of a line held by the given bays into the line; the recall takes one SSN (R251). -/
def State.combine (s : State) (line : Nat) (bays : List Nat) : State :=
  let us := bays.filterMap (fun bk => (s.bay bk).uline? line)
  if us.isEmpty then s
  else
    let (d, p, s) := s.rawLine line
    let s := s.putRaw line (us.foldl (fun d u => u.combine d) d) p
    let s := bays.foldl (fun s bk => s.dropU line bk) s
    let s := if p then us.foldl (fun s u => s.addFails (.glob (line * 128)) true u.owners) s else s
    (s.bumpSsn (homeSlice (line * 128))).notify (.glob (line * 128)) 128

/-- The way of a recall from the home slice of a line to a bay and back (R118). -/
def State.wayToHolder (s : State) (line bk : Nat) : Way := s.wayToSlice (bk / 8) (homeSlice (line * 128))

/-- The update-only copy of a line that lies across a dead link is lost, and reported (R251, R430). DEDUCED (log entry 27). -/
def State.loseU (s : State) (line bk : Nat) : State :=
  ((s.bay bk).u.filter (fun u => u.line == line)).foldl (fun s u => s.addFails (.glob (line * 128)) false u.owners) (s.dropU line bk)

/-- Recall every update-only copy of a line (R251): those across a dead link are lost. -/
def State.recall (s : State) (line : Nat) : State :=
  let bs := s.holdersOf line
  let t := (bs.filter (fun bk => s.wayToHolder line bk == .dead)).foldl (fun t bk => t.loseU line bk) s
  t.combine line (bs.filter (fun bk => s.wayToHolder line bk != .dead))

/-- A recall of the line waits for a link that is retraining (R118, R430). -/
def State.recallWaits (s : State) (line : Nat) : Bool := (s.holdersOf line).any (fun bk => s.wayToHolder line bk == .wait)

/-- Write back a line if it is dirty, and drop it from its slice; its update-only copies are combined
first (R124, R251). -/
def State.evictLine (s : State) (line : Nat) : State :=
  let s := s.recall line
  match s.cline? line with
  | none => s
  | some c => (if c.dirty then s.storeLine line c.data c.poison else s).uncache line

/-- The line that leaves the set of a line when another comes: with all 16 ways holding lines, the victim of R123. -/
def State.victim? (s : State) (line : Nat) : Option CLine :=
  let set := (s.slice (homeSlice (line * 128))).lines.filter (fun c => c.line % 4096 == line % 4096)
  if set.length < 16 then none else victimOf set

/-- Make room in the set of a line (R123). -/
def State.makeRoom (s : State) (line : Nat) : State :=
  match s.victim? line with
  | none => s
  | some c => s.evictLine c.line

/-- Bring a line into its slice (R123). -/
def State.install (s : State) (line : Nat) (d : Vec) (poison dirty : Bool) (h : Hint) : State :=
  (s.makeRoom line).putLine { line := line, data := d, poison := poison, dirty := dirty, hint := h }

/-! ## Range locks -/

/-- Does a range of a command cover a line that the command has not finished? `i` is the next element. -/
def rangeLocks (base n sz i line : Nat) : Bool :=
  overlaps (line * 128) 128 base (n * sz) && decide (base + i * sz < line * 128 + 128)

/-- Does a near-memory command lock a line against a read or a write, once its locks are taken (R109)? -/
def NmCmd.wants (c : NmCmd) (line : Nat) (write : Bool) : Bool :=
  let sz := bitsOf c.ty / 8
  let usesDst := c.op != 0 && c.op != 7
  let usesSrc := c.op == 1 || c.op == 2 || c.op == 5 || c.op == 7
  (usesDst && rangeLocks c.dst c.n sz c.i line) ||
    (c.op == 7 && overlaps (line * 128) 128 c.res 288) ||
    (write && usesSrc && rangeLocks c.src c.n sz c.i line)

/-- Does a near-memory command hold a lock on a line against a read or a write (R109)? -/
def NmCmd.locks (c : NmCmd) (line : Nat) (write : Bool) : Bool :=
  (c.st != .locking || c.answered.contains (homeSlice (line * 128))) && c.wants line write

/-- Is a line locked against a read or a write? -/
def State.locked (s : State) (line : Nat) (write : Bool) : Bool := s.cmds.any (fun c => c.locks line write)

/-- Has a read of the line missed, so that its fill is awaited? -/
def State.missPending (s : State) (line : Nat) : Bool :=
  s.flight.any (fun r => match r.st, r.loc with
    | .missed, .glob pa => lineOf pa == line
    | _, _ => false)

/-- Update-only copies of a line, or of the line whose place it may take, cannot be recalled yet (R118, R251). -/
def State.linksWait (s : State) (line : Nat) : Bool :=
  s.recallWaits line || ((s.victim? line).any (fun c => s.recallWaits c.line))

/-- May an access to a line be served now (R109, R121)? -/
def State.free (s : State) (line : Nat) (write : Bool) : Bool :=
  !s.locked line write && !s.missPending line && !s.linksWait line

/-! ## Accesses at the slice -/

/-- A read of a whole line at its home slice: recall, then the slice's copy or HBM (R124, R126). -/
def State.sliceRead (s : State) (line : Nat) (h : Hint) : Vec × Bool × State :=
  let s := s.recall line
  match s.cline? line with
  | some c => (c.data, c.poison, s.putLine { c with hint := h })
  | none =>
    let (d, p, s) := s.fetchLine line
    if h = .byp then (d, p, s) else (d, p, s.install line d p false h)

/-- A write of the masked bytes of a line at its home slice. The answer says whether they were merged into
a poisoned line; a write of all 128 bytes clears the poison (R98, R124, R126). -/
def State.sliceWrite (s : State) (line : Nat) (d mask : Vec) (h : Hint) : Bool × State :=
  let s := s.recall line
  let full := mask == BitVec.allOnes 1024
  let k := homeSlice (line * 128)
  let l := Loc.glob (line * 128)
  match s.cline? line with
  | some c =>
    let p := c.poison && !full
    (p, ((s.putLine { c with data := blend c.data d mask, poison := p, dirty := true, hint := h }).bumpSsn k).notify l 128)
  | none =>
    if full then
      (false, ((if h = .byp then s.storeLine line d false else s.install line d false true h).bumpSsn k).notify l 128)
    else
      let (old, p, s) := s.fetchLine line
      let new := blend old d mask
      (p, ((if h = .byp then s.storeLine line new p else s.install line new p true h).bumpSsn k).notify l 128)

/-- Bytes of host memory, by physical address. -/
def State.hostRead (s : State) (pa n : Nat) : Nat := readBytes s.mem.host (pa - hostBase) n
/-- Store bytes of host memory. -/
def State.hostWrite (s : State) (pa n x : Nat) : State :=
  s.updMem (fun m => { m with host := writeBytes m.host (pa - hostBase) n x })

/-- A read of `n` bytes within one line, wherever it is homed: data and poison. -/
def State.lineRead (s : State) (pa n : Nat) (h : Hint) : Nat × Bool × State :=
  if isHost pa then (s.hostRead pa n, false, s)
  else
    let (d, p, s) := s.sliceRead (lineOf pa) h
    (vecBytes d (pa % 128) n, p, s)

/-- A write of `n` bytes within one line, wherever it is homed; the answer says whether it was merged into
a poisoned line. -/
def State.lineWrite (s : State) (pa n x : Nat) (h : Hint) : Bool × State :=
  if isHost pa then (false, ((s.hostWrite pa n x).bumpSsn (homeSlice pa)).notify (.glob pa) n)
  else s.sliceWrite (lineOf pa) (atByte x (pa % 128)) (byteMask (pa % 128) n) h

/-! ## The bay L1 -/

/-- The clean copy of a line in a bay's L1. -/
def Bay.l1? (b : Bay) (line : Nat) : Option L1Line := b.l1.find? (fun l => l.line == line)

/-- Drop a line from an L1. -/
def Bay.l1Drop (b : Bay) (line : Nat) : Bay := { b with l1 := b.l1.filter (fun l => l.line != line) }

/-- The lines of one L1 set, each with its use and whether it is held update-only (R130, R250). -/
def Bay.l1Set (b : Bay) (line : Nat) : List (Nat × Nat × Bool) :=
  ((b.l1.map (fun l => (l.line, l.stamp, false))) ++ b.u.map (fun u => (u.line, u.stamp, true))).filter
    (fun e => e.1 % 128 == line % 128)

/-- The least recently used line of a set. -/
def lruOf : List (Nat × Nat × Bool) → Option (Nat × Nat × Bool)
  | [] => none
  | l :: ls =>
    match lruOf ls with
    | none => some l
    | some m => if l.2.1 ≤ m.2.1 then some l else some m

/-- Bring a line into an L1 set that has room, unless the copy there carries a higher SSN (R130, R270).
`low` inserts it as least recently used (R125). -/
def Bay.l1Fill (b : Bay) (line : Nat) (d : Vec) (poison : Bool) (ssn : BitVec 48) (stamp : Nat) (low : Bool) : Bay :=
  match b.l1? line with
  | some old =>
    if ssnGe ssn old.ssn then
      { (b.l1Drop line) with l1 := { line := line, data := d, poison := poison, ssn := ssn, stamp := stamp } :: (b.l1Drop line).l1 }
    else b
  | none => { b with l1 := { line := line, data := d, poison := poison, ssn := ssn, stamp := if low then 0 else stamp } :: b.l1 }

/-- A store's acknowledgement updates the bay's own copy of the line; a store of all its bytes clears the poison there too
(R98, R130, R270). It is no use of the line for the LRU, where R130 does not say. DESIGN CHOICE (log entry 43). -/
def Bay.l1Store (b : Bay) (line : Nat) (d mask : Vec) (ssn : BitVec 48) : Bay :=
  { b with l1 := updFirst (fun l => l.line == line) (fun l =>
      if ssnGe ssn l.ssn then
        { l with data := blend l.data d mask, poison := l.poison && mask != BitVec.allOnes 1024, ssn := ssn }
      else l) b.l1 }

/-- A hit marks the line as used. -/
def Bay.l1Touch (b : Bay) (line stamp : Nat) : Bay :=
  { b with l1 := updFirst (fun l => l.line == line) (fun l => { l with stamp := stamp }) b.l1 }

/-! ## Room in an L1 -/

/-- A bay's own eviction of a line held update-only sends its copy to the home slice, which combines it (R251); across a
dead link it is lost and reported. None while the slice cannot take it. -/
def State.leaveU (s : State) (bk line : Nat) : Option State :=
  let k := homeSlice (line * 128)
  match s.wayToSlice (bk / 8) k with
  | .wait => none
  | .dead => some (s.loseU line bk)
  | .clear => if s.free line true then some (s.combine line [bk]) else none

/-- Make room for a line in its L1 set of 16 ways, clean and update-only lines together: the least recently used leaves
(R130, R250, R251). None while that line cannot leave. -/
def State.l1Room (s : State) (bk line : Nat) : Option State :=
  let set := (s.bay bk).l1Set line
  if set.length < 16 then some s
  else
    match lruOf set with
    | none => some s
    | some v => if v.2.2 then s.leaveU bk v.1 else some (s.updBay bk (fun b => b.l1Drop v.1))

/-- A line reaches a bay's L1: it replaces the copy that stands there, or, with `fresh`, is brought in (R130, R270). None
while there is no room. -/
def State.l1Bring (s : State) (bk line : Nat) (fresh : Bool) (d : Vec) (poison : Bool) (ssn : BitVec 48) (low : Bool) : Option State :=
  if ((s.bay bk).uline? line).isSome then some s
  else if ((s.bay bk).l1? line).isSome then some (s.updBay bk (fun b => b.l1Fill line d poison ssn s.stepNo low))
  else if !fresh then some s
  else (s.l1Room bk line).map (fun t => t.updBay bk (fun b => b.l1Fill line d poison ssn t.stepNo low))

/-- A core of a bay has just read or written a line at its home slice: the copy that stands in the bay's L1 becomes the
line as the slice now holds it, and older answers bring no new one (R269, R270). DEDUCED (log entry 19). -/
def State.l1Sync (s : State) (bk line : Nat) : State :=
  (match s.cline? line with
   | none => s
   | some c => (s.l1Bring bk line false c.data c.poison (s.slice (homeSlice (line * 128))).ssn false).getD s).keepOut bk (fun l => l == line)

end Sys2Proof.Machine
end

