-- ==== Sys2Proof/Machine/Locs.lean ====
section
/-!
DEFINITION. The core memories (R142 to R146), armed barrier words as places (R255, R259), the map of system
space (R145), the aperture comparators (R139, R140, R143, R144, R292), and translation with its four TLBs
(R411, R412).
-/

namespace Sys2Proof.Machine

open Sys2Proof

/-! ## Core memories -/

/-- Bytes of a scratchpad (R142). -/
def spadSize : Nat := 98304
/-- Bytes of a vault (R143). -/
def vaultSize : Nat := 12582912
/-- Bytes of a live gallery (R146). -/
def galSize : Nat := 16384

/-- A byte of a scratchpad; one that nothing has written since the hall started is undefined (R142).
DESIGN CHOICE (log entry 4). -/
def State.spadByte (s : State) (core off : Nat) : Byte :=
  let a := core * 2 ^ 17 + off
  s.mem.spad.get (Config.spadByte (s.tile (tileOf core)).epoch a) a

/-- `n` bytes of a scratchpad. -/
def State.spadRead (s : State) (core off : Nat) : Nat → Nat
  | 0 => 0
  | n + 1 => s.spadRead core off n + 256 ^ n * (s.spadByte core (off + n)).toNat

/-- Store bytes in a scratchpad. -/
def putBytes (m : SMap Byte) : Nat → Nat → Nat → SMap Byte
  | _, 0, _ => m
  | a, n + 1, x => putBytes (m.put a (BitVec.ofNat 8 x)) (a + 1) n (x / 256)

/-- Bytes at a place in a core memory. DESIGN CHOICE (log entry 3). -/
def State.locRead (s : State) (l : Loc) (n : Nat) : Nat :=
  match l with
  | .spad c o => s.spadRead c o n
  | .vault v o => readBytes s.mem.vault (v * 2 ^ 24 + o) n
  | .gal t o => readBytes s.mem.gal (t * 2 ^ 14 + o) n
  | .glob _ => 0

/-- Store bytes at a place in a core memory, and end the waits on them. -/
def State.locWrite (s : State) (l : Loc) (n x : Nat) : State :=
  (s.updMem (fun m => match l with
    | .spad c o => { m with spad := putBytes m.spad (c * 2 ^ 17 + o) n x }
    | .vault v o => { m with vault := writeBytes m.vault (v * 2 ^ 24 + o) n x }
    | .gal t o => { m with gal := writeBytes m.gal (t * 2 ^ 14 + o) n x }
    | .glob _ => m)).notify l n

/-- Store the masked bytes of up to 128 at a place. -/
def State.locWriteMasked (s : State) (l : Loc) (d : Vec) (bytes : BitVec 128) : State :=
  s.locWrite l 128 (blend (BitVec.ofNat 1024 (s.locRead l 128)) d (expandBytes bytes)).toNat

/-- A place `k` bytes further. -/
def Loc.add (l : Loc) (k : Nat) : Loc :=
  match l with
  | .glob a => .glob (a + k)
  | .spad c o => .spad c (o + k)
  | .vault v o => .vault v (o + k)
  | .gal t o => .gal t (o + k)

/-- Does a range of bytes hold an armed barrier word (R259)? -/
def State.overBarrier (s : State) (l : Loc) (n : Nat) : Bool :=
  match l with
  | .spad c o => (s.tile (tileOf c)).bars.any (fun b => b.core == c && overlaps b.off 8 o n)
  | _ => false

/-- Does a range overlap an entry of the range scoreboard of its scratchpad (R148)? -/
def State.overScore (s : State) (l : Loc) (n : Nat) : Bool :=
  match l with
  | .spad c o => (s.core c).score.any (fun e => overlaps e.lo (e.hi - e.lo) o n)
  | _ => false

/-! ## System space -/

/-- A register of system space (R145). -/
inductive SysReg where
  /-- FWIN of a die: window and register, 0 CTL, 1 VIEW, 2 STOR, 3 SCL (R100). -/
  | fwin (die win reg : Nat)
  | hbmerr (stack : Nat)
  /-- A channel: 0 CTL, 1 BASE, 2 HEAD, 3 TAIL, 4 SEED (R352). -/
  | chan (c reg : Nat)
  | cancel | prebase | precmd | prestat
  | asidroot (asid : Nat)
  /-- A core's block: 0 TVEC, 1 TPC, 2 TCAUSE, 3 TVAL, 4 RVA, 5 RCMD (R416). -/
  | coreReg (core reg : Nat)
  | rbase (die n : Nat)
  | rlim (die n : Nat)
  | vlogCtl (die : Nat)
  | vlogEnt (die i w : Nat)
  | link (l : Nat)
  | port (p : Nat)
  | wear (i : Nat)
  | withheld (i : Nat)
  | bustat | fwstat
  | nonce (i : Nat)
  | attcmd | attstat
  | quote (i : Nat)
  | route (pkg w : Nat)
  | pkgid
  deriving DecidableEq, Repr

/-- The register at an offset of system space, none where there is none (R145). -/
def sysReg? (off : Nat) : Option SysReg :=
  if off % 8 ≠ 0 then none
  else if 0x1000000 ≤ off ∧ off < 0x3000000 then
    let d := off / 0x1000000 - 1
    let r := off % 0x1000000
    if 0x1000 ≤ r ∧ r < 0x1200 then some (.fwin d ((r - 0x1000) / 32) (r % 32 / 8)) else none
  else if 0x4000000 ≤ off ∧ off < 0x4008000 then
    if off % 0x1000 = 0 then some (.hbmerr (off % 0x1000000 / 0x1000)) else none
  else if 0x5000000 ≤ off ∧ off < 0x5800000 then
    let r := off - 0x5000000
    let t := r / 0x10000
    let c := r % 0x10000 / 0x100
    if c < 64 ∧ r % 0x100 < 0x30 then some (.coreReg (t * 64 + c) (r % 0x100 / 8)) else none
  else if 0x6000000 ≤ off ∧ off < 0x6000400 then
    if off % 0x40 < 0x28 then some (.chan (off % 0x400 / 0x40) (off % 0x40 / 8)) else none
  else if off = 0x6000400 then some .cancel
  else if off = 0x6000408 then some .prebase
  else if off = 0x6000410 then some .precmd
  else if off = 0x6000418 then some .prestat
  else if 0x7000000 ≤ off ∧ off < 0x7008000 then some (.asidroot ((off - 0x7000000) / 8))
  else if 0x8000000 ≤ off ∧ off < 0x8020000 then
    let d := (off - 0x8000000) / 0x10000
    let r := off % 0x10000
    if r < 0x400 then (if r % 16 = 0 then some (.rbase d (r / 16)) else some (.rlim d (r / 16)))
    else if r = 0x1000 then some (.vlogCtl d)
    else if 0x1100 ≤ r ∧ r < 0x1300 then some (.vlogEnt d ((r - 0x1100) / 16) (r % 16 / 8))
    else none
  else if 0x8020000 ≤ off ∧ off < 0x8020010 then some (.link ((off - 0x8020000) / 8))
  else if 0x8020100 ≤ off ∧ off < 0x8020180 then some (.port ((off - 0x8020100) / 8))
  else if 0x8030000 ≤ off ∧ off < 0x8030380 then some (.wear ((off - 0x8030000) / 8))
  else if off = 0x8040000 then some (.withheld 0)
  else if off = 0x8040008 then some (.withheld 1)
  else if off = 0x8040010 then some .bustat
  else if off = 0x8040018 then some .fwstat
  else if 0x8050000 ≤ off ∧ off < 0x8050030 then some (.nonce ((off - 0x8050000) / 8))
  else if off = 0x8050040 then some .attcmd
  else if off = 0x8050048 then some .attstat
  else if 0x8050100 ≤ off ∧ off < 0x8050200 then some (.quote ((off - 0x8050100) / 8))
  else if 0x8100000 ≤ off ∧ off < 0x8100000 + 16 * 65535 then
    some (.route ((off - 0x8100000) / 16) (off % 16 / 8))
  else if off = 0x8200000 then some .pkgid
  else none

/-! ## Steering -/

/-- Where an address goes (R139). -/
inductive Spot where
  | glob (va : Nat)
  | loc (l : Loc)
  | sys (r : SysReg)
  deriving DecidableEq, Repr

/-- Is an address in the global window? -/
def inGlobal (a : Word) : Bool := decide (a.toNat < 2 ^ 52)

/-- The aperture an address of a core opens, none where it traps APERTURE (R139, R143, R144, R292). System
space is steered whatever the access size; the size is checked where it is used. -/
def State.steer (s : State) (ck : Nat) (pv : Bool) (a : Word) : Option Spot :=
  let x := a.toNat
  let off := x % 2 ^ 48
  let t := tileOf ck
  if x < 2 ^ 52 then some (.glob x)
  else
    match x / 2 ^ 48 with
    | 0xFF00 => if off < spadSize then some (.loc (.spad ck off)) else none
    | 0xFF01 => if off < 32768 then some (.loc (.vault (vaultOf t) (coreIdx ck * 32768 + off))) else none
    | 0xFF02 =>
      if off < 2 ^ 23 ∧ off % 2 ^ 17 < spadSize then some (.loc (.spad (t * 64 + off / 2 ^ 17) (off % 2 ^ 17))) else none
    | 0xFF03 => if off < galSize then some (.loc (.gal t off)) else none
    | 0xFF04 =>
      let v := off / 2 ^ 24
      let o := off % 2 ^ 24
      if off < 2 ^ 31 ∧ o < vaultSize then
        if pv then some (.loc (.vault v o))
        else if o < 0x400000 then none
        else if (s.tile (tileOfVault v)).hall = (s.tile t).hall then some (.loc (.vault v o)) else none
      else none
    | 0xFF06 =>
      match sysReg? off with
      | none => none
      | some r => some (.sys r)
    | _ => none

/-! ## Translation -/

/-- The kinds of access a walk is made for: 0 read, 1 write, 2 fetch, 3 read-modify-write (R414). -/
abbrev Acc := BitVec 2

/-- The reasons a walk fails (R413). -/
def rNOTVALID : BitVec 2 := 0
/-- PERM. -/
def rPERM : BitVec 2 := 1
/-- BADPTE. -/
def rBADPTE : BitVec 2 := 2
/-- WALKERR. -/
def rWALKERR : BitVec 2 := 3

/-- A translation entry is allowed for an access (R400, R411). -/
def TlbEnt.permits (e : TlbEnt) (acc : Acc) (pv : Bool) : Bool :=
  (acc != 1 && acc != 3 || e.w) && (acc != 2 || e.x) && (!e.p || pv)

/-- Does an entry translate an address of an address space (R412)? -/
def TlbEnt.maps (e : TlbEnt) (asid va : Nat) : Bool :=
  (e.g || e.asid == asid) && va / 2 ^ e.size == e.vpage

/-- The physical address an entry gives. -/
def TlbEnt.phys (e : TlbEnt) (va : Nat) : Nat := e.pa + va % 2 ^ e.size

/-- What reading an entry of a table comes to. -/
inductive Pte where
  | ok (x : Word)
  | bad
  | wait
  deriving DecidableEq, Repr

/-- The way of a requester's walker to a slice; the FES and the host stand at no tile (R118). -/
def State.walkWay (s : State) (r : Rqst) (pa : Nat) : Way :=
  if r.fes || r.host then .clear else s.wayToSlice r.tile (homeSlice pa)

/-- An entry of a table, read at its home slice once no range lock holds it: bad when it is poisoned or refused, or lies
across a dead link (R110, R118, R413, R430). -/
def State.readPte (s : State) (r : Rqst) (pa : Nat) : Pte × State :=
  match s.walkWay r pa with
  | .wait => (.wait, s)
  | .dead => (.bad, s)
  | .clear =>
    let (bad, t) := s.check { r with unit := 7 } kLoad pa 8
    if bad then (.bad, t)
    else if !isHost pa && !s.free (lineOf pa) false then (.wait, s)
    else
      let (x, p, t) := t.lineRead pa 8 .df
      (if p then .bad else .ok (word x), t)

/-- What a walk comes to (R411, R413): a leaf, a fault, or that an entry cannot be read yet. -/
inductive WalkRes where
  | leaf (e : TlbEnt)
  | fail (why : BitVec 2)
  | wait
  deriving DecidableEq, Repr

/-- A leaf entry: its page must be aligned, and the access permitted (R411, R400). -/
def leafOf (asid va : Nat) (acc : Acc) (pv : Bool) (size : Nat) (e : Word) : WalkRes :=
  let addr := fld e 8 40 * 256
  if addr % 2 ^ size ≠ 0 then .fail rBADPTE
  else
    let t : TlbEnt := { asid := asid, g := bitAt e 7, vpage := va / 2 ^ size, size := size, pa := addr,
                        w := bitAt e 2, x := bitAt e 3, p := bitAt e 4 }
    if t.permits acc pv then .leaf t else .fail rPERM

/-- The walk from level `lv` (3 to 0) with the table at `base` (R411). DESIGN CHOICE (log entry 9). -/
def State.walkFrom (s : State) (r : Rqst) (asid va : Nat) (acc : Acc) (pv : Bool) : Nat → Nat → WalkRes × State
  | 0, base =>
    let (e, s) := s.readPte r (base + 8 * (va / 2 ^ 16 % 32))
    match e with
    | .wait => (.wait, s)
    | .bad => (.fail rWALKERR, s)
    | .ok e =>
      if !bitAt e 0 then (.fail rNOTVALID, s)
      else if fld e 48 16 ≠ 0 ∨ fld e 5 2 ≠ 0 ∨ !bitAt e 1 then (.fail rBADPTE, s)
      else (leafOf asid va acc pv 16 e, s)
  | lv + 1, base =>
    let shift := 16 + if lv = 0 then 5 else if lv = 1 then 14 else 23
    let n := if lv = 2 then 8192 else 512
    let (e, s) := s.readPte r (base + 8 * (va / 2 ^ shift % n))
    match e with
    | .wait => (.wait, s)
    | .bad => (.fail rWALKERR, s)
    | .ok e =>
      if !bitAt e 0 then (.fail rNOTVALID, s)
      else if fld e 48 16 ≠ 0 ∨ fld e 5 2 ≠ 0 then (.fail rBADPTE, s)
      else if bitAt e 1 then
        if lv = 2 then (.fail rBADPTE, s) else (leafOf asid va acc pv (if lv = 1 then 30 else 21) e, s)
      else
        let next := fld e 8 40 * 256
        if lv ≠ 0 ∧ next % 4096 ≠ 0 then (.fail rBADPTE, s)
        else s.walkFrom r asid va acc pv lv next

/-- The walk of an address (R411). -/
def State.walk (s : State) (r : Rqst) (asid va : Nat) (acc : Acc) (pv : Bool) : WalkRes × State :=
  let root := s.sys.asidroot.get 0 asid
  if bitAt root 0 then s.walkFrom r asid va acc pv 3 (fld root 16 32 * 65536) else (.fail rNOTVALID, s)

/-- The four TLBs of a bay (R412). -/
inductive TlbId where
  | vlt | mft | cet | ift
  deriving DecidableEq, Repr

/-- The entries of a TLB. -/
def Bay.tlb (b : Bay) : TlbId → List TlbEnt
  | .vlt => b.vlt
  | .mft => b.mft
  | .cet => b.cet
  | .ift => b.ift

/-- Replace the entries of a TLB. -/
def Bay.setTlb (b : Bay) (i : TlbId) (l : List TlbEnt) : Bay :=
  match i with
  | .vlt => { b with vlt := l }
  | .mft => { b with mft := l }
  | .cet => { b with cet := l }
  | .ift => { b with ift := l }

/-- Entries of a TLB. -/
def tlbCap : TlbId → Nat
  | .vlt => 64
  | .mft => 32
  | .cet => 128
  | .ift => 32

/-- Drop the entry with the lowest stamp that is not pinned. -/
def dropOldest (l : List TlbEnt) : List TlbEnt :=
  let free := l.filter (fun e => !e.pinned)
  match free with
  | [] => l
  | e :: es =>
    let m := es.foldl (fun m e => if e.stamp < m.stamp then e else m) e
    dropFirst (fun e => e == m) l

/-- How many elements an entry of the CET lies behind the scout of the copy that placed it; none when that copy has ended,
which is furthest of all (R162). DEDUCED (log entry 21). -/
def Bay.behind (b : Bay) (e : TlbEnt) : Option Nat :=
  match b.copies.find? (fun c => c.id == e.owner) with
  | none => none
  | some c => some (max c.scoutAt c.i - e.pos)

/-- Is the second distance behind a scout larger than the first? -/
def further (a b : Option Nat) : Bool :=
  match a, b with
  | some x, some y => decide (x < y)
  | some _, none => true
  | none, _ => false

/-- Drop the CET entry furthest behind its copy's scout (R162, R412). -/
def Bay.dropBehind (b : Bay) (l : List TlbEnt) : List TlbEnt :=
  match l with
  | [] => l
  | e :: es =>
    let m := es.foldl (fun m e => if further (b.behind m) (b.behind e) then e else m) e
    dropFirst (fun e => e == m) l

/-- Put an entry into a TLB, making room by its replacement (R412); the stamp is the time of use for the
LRU TLBs and the time of entry for the MFT. -/
def Bay.tlbPut (b : Bay) (i : TlbId) (e : TlbEnt) : Bay :=
  let l := b.tlb i
  b.setTlb i (e :: (if l.length < tlbCap i then l else match i with | .cet => b.dropBehind l | _ => dropOldest l))

/-- A copy uses the page of an address at element `j` of its walk (R162). -/
def Bay.cetUse (b : Bay) (copy j asid va : Nat) : Bay :=
  { b with cet := updFirst (fun e => e.maps asid va) (fun e =>
      { e with owner := copy, pos := if e.owner = copy then max e.pos j else j }) b.cet }

/-- A use of an entry renews its stamp in the LRU TLBs. -/
def Bay.tlbTouch (b : Bay) (i : TlbId) (asid va stamp : Nat) : Bay :=
  match i with
  | .vlt => b.setTlb i (updFirst (fun e => e.maps asid va) (fun e => { e with stamp := stamp }) (b.tlb i))
  | .ift => b.setTlb i (updFirst (fun e => e.maps asid va) (fun e => { e with stamp := stamp }) (b.tlb i))
  | _ => b

/-- What translating an address comes to. -/
inductive Trans where
  | phys (pa : Nat)
  | fault (why : BitVec 2)
  /-- The walk waits for an entry of the tables. -/
  | wait
  deriving DecidableEq, Repr

/-- Translate a global-window address through a TLB of a bay, walking the tables on a miss. A TLB never keeps
a failed walk (R411, R412). An entry that does not permit the access ends in PERM (R400, R413). -/
def State.translate (s : State) (bk : Nat) (i : TlbId) (r : Rqst) (asid va : Nat) (acc : Acc) (pv : Bool) :
    Trans × State :=
  match ((s.bay bk).tlb i).find? (fun e => e.maps asid va) with
  | some e =>
    if e.permits acc pv then (.phys (e.phys va), s.setBay bk ((s.bay bk).tlbTouch i asid va s.stepNo))
    else (.fault rPERM, s)
  | none =>
    let (w, s) := s.walk r asid va acc pv
    match w with
    | .fail why => (.fault why, s)
    | .wait => (.wait, s)
    | .leaf e => (.phys (e.phys va), s.setBay bk ((s.bay bk).tlbPut i { e with stamp := s.stepNo }))

end Sys2Proof.Machine
end

