-- ==== Sys2Proof/Machine/Issue.lean ====
section
/-!
DEFINITION. How a core issues one instruction: the checks before its own effect (R62), lookahead windows (R47
to R51), masked windows (R304), stream ports (R178, R328 to R332), the scoreboard (R184), what issuing spends
and counts (R185), waiting, page faults (R413, R414), and instruction fetch (R402, R436).
-/

namespace Sys2Proof.Machine

open Sys2Proof

/-! ## Stream ports -/

/-- The q-register of a core. -/
def Core.qreg (c : Core) (q : Nat) : QReg := c.q.get {} q
/-- Replace a q-register. -/
def Core.setQ (c : Core) (q : Nat) (x : QReg) : Core := { c with q := c.q.put q x }

/-- The q-register that a general register names, when it is bound (R178, R338). -/
def Core.port (c : Core) (r : Nat) : Option Nat :=
  if !c.level && 24 ≤ r && r ≤ 31 then
    let q := c.qreg (r - 24)
    if q.st = .unbound then none else some (r - 24)
  else none

/-- The oldest element of a consumer's ring (R328). -/
def State.qHead (s : State) (ck q : Nat) : Word :=
  let x := (s.core ck).qreg q
  word (s.spadRead ck (x.base + 16 + 8 * (x.head % (max x.slots 1))) 8)

/-- A general register as an issuing instruction reads it: a bound consumer port gives its oldest element
(R330). -/
def State.srcNow (s : State) (r : Nat) : Word :=
  match s.me.port r with
  | some q => s.qHead s.cur q
  | none => s.me.g s.lv r

/-- A general register as a source of the executing instruction, by its number: an instruction that waits keeps the values it
read when it issued, or when its windows closed (R50). -/
def State.srcOf (s : State) (r : Nat) : Word :=
  match (s.me.thr s.lv).held.find? (fun e => e.1 == r) with
  | some e => e.2
  | none => s.srcNow r

/-- Read a general register as a source of the executing instruction. -/
def State.src (s : State) (r : Reg) : Word := s.srcOf r.toNat

/-- Read a vector register as a source of the executing instruction: one that stalls keeps the values from before its windows
closed (R48, R50). -/
def State.srcV (s : State) (r : VReg) : Vec :=
  match (s.me.thr s.lv).heldV.find? (fun e => e.1 == r.toNat) with
  | some e => e.2
  | none => s.rv r

/-- Push a value at a producer port: one credit is spent, and the element travels to the consumer (R329). -/
def State.qPush (s : State) (q : Nat) (x : Word) : State :=
  let c := s.me
  let y := c.qreg q
  let s := s.setCore s.cur (c.setQ q { y with credits := y.credits - 1 })
  { s with qflight := s.qflight ++ [{ core := y.peer.1, q := y.peer.2, msg := .push x, id := s.ctr, src := s.cur }], ctr := s.ctr + 1 }

/-- Is a message a push by a core: a store by the producer to the slot (R333)? -/
def QFlight.pushBy (m : QFlight) (ck : Nat) : Bool := (match m.msg with | .push _ => true | _ => false) && m.src == ck

/-- Write a general register as the destination of the executing instruction: a bound producer port pushes
the value (R330). -/
def State.dst (s : State) (r : Reg) (x : Word) : State :=
  match s.me.port r.toNat with
  | some q => s.qPush q x
  | none => s.wg r x

/-- Pop the oldest element: HEAD advances, its mirror is written, and a credit goes back (R328, R329). -/
def State.qPop (s : State) (q : Nat) : State :=
  let c := s.me
  let y := c.qreg q
  let s := s.setCore s.cur (c.setQ q { y with head := y.head + 1 })
  let s := s.locWrite (.spad s.cur y.base) 8 (y.head + 1)
  if y.st = .bound ∨ y.st = .retrain then
    { s with qflight := s.qflight ++ [{ core := y.peer.1, q := y.peer.2, msg := .credit }] }
  else s

/-! ## What an instruction declares -/

/-- What the issue logic needs to know of an instruction. -/
structure Uses where
  /-- Bytes of the instruction. -/
  len : Nat := 4
  /-- The guard lets it execute (R46). -/
  on : Bool := true
  /-- General registers read and written. -/
  rs : List Nat := []
  ws : List Nat := []
  /-- General registers it reads and writes only if it turns out so: g2 and g3 of a SPAWN that is refused (R296). -/
  mw : List Nat := []
  /-- Vector registers read and written. -/
  vs : List Nat := []
  vw : List Nat := []
  /-- It is long-latency, with this LA (R47). -/
  long : Bool := false
  /-- It is blocking (R50). -/
  blocking : Bool := false
  /-- A masked window forbids it (R304). -/
  nomask : Bool := false
  /-- The masked-window count passes it over: UNMASKH (R304). -/
  uncounted : Bool := false
  /-- Privileged as a whole, with its TVAL; none is word 0 (R400, R401). -/
  priv : Option (Option Word) := none
  /-- ILLEGAL at the running level (R304, R340). -/
  illegal : Bool := false
  /-- It waits until the flags of earlier instructions are delivered (R88). -/
  fpwait : Bool := false
  deriving DecidableEq, Repr, Inhabited

/-- What the effect of an instruction comes to. -/
inductive Res where
  /-- Done: execution goes on after it. -/
  | done (s : State)
  /-- Done: execution goes on at an address. -/
  | jump (s : State) (target : Word)
  /-- A precise trap; the state differs only by what a refusing slice has logged. -/
  | trap (s : State) (code : Nat) (tval : Word)
  /-- A translation fault (R413); `pin` is TLBINV.PIN, which an ABORT completes (R417). -/
  | page (s : State) (va : Word) (acc why : BitVec 2) (pin : Bool)
  /-- Not issued: tried again later with nothing changed. -/
  | stall
  /-- Issued, and not finished: tried again until it is. -/
  | wait (s : State) (h : Hold)
  deriving Repr

/-- Word `k` of the instruction being executed. -/
def State.irWord (s : State) (k : Nat) : Word := ((s.me.thr s.lv).ir.getD k 0).setWidth 64

/-! ## Checks before issue -/

/-- The pending result of the running level whose window an instruction with these destinations violates (R49); of
several the oldest, where the specification does not say which TVAL names. DESIGN CHOICE (log entry 43). -/
def Core.violated (c : Core) (u : Uses) : Option Pend :=
  c.pend.find? (fun p => p.lv == c.level && decide (0 < p.win) &&
    match p.dst with
    | some (.gb lv r) => lv == c.level && u.ws.contains r
    | some (.gs r) => u.ws.contains r
    | some (.v r) => u.vw.contains r
    | _ => false)

/-- A pending result, outside its window, keeps an instruction that reads or writes its register waiting
(R184). -/
def Core.busy (c : Core) (u : Uses) : Bool :=
  c.pend.any (fun p => (p.win == 0 || p.lv != c.level) &&
    match p.dst with
    | some (.gb lv r) => lv == c.level && (u.ws.contains r || u.rs.contains r || u.mw.contains r)
    | some (.gs r) => u.ws.contains r || u.rs.contains r || u.mw.contains r
    | some (.v r) => u.vw.contains r || u.vs.contains r
    | _ => false)

/-- TVAL of a STREAM trap (R332): 1 NOTBOUND, 2 DIRECTION, 3 LATENCY, 4 CLOSED, 5 DEAD. -/
def streamVal (why q : Nat) : Word := word (256 * why + q)

/-- What the ports that an instruction names come to: a STREAM trap, a stall, or nothing in the way. -/
inductive PortRes where
  | ok | stall (q : Nat) (full : Bool) | trap (tval : Word)
  deriving DecidableEq, Repr

/-- The rules of R330 for a register an instruction writes. -/
def Core.portWrite (c : Core) (long : Bool) (r : Nat) : PortRes :=
  match c.port r with
  | none => .ok
  | some q => if long then .trap (streamVal 3 q) else if (c.qreg q).prod then .ok else .trap (streamVal 2 q)

/-- The rules of R330 for a register an instruction reads. -/
def Core.portRead (c : Core) (r : Nat) : PortRes :=
  match c.port r with
  | none => .ok
  | some q => if (c.qreg q).prod then .trap (streamVal 2 q) else .ok

/-- R331 for a pop. -/
def Core.popReady (c : Core) (r : Nat) : PortRes :=
  match c.port r with
  | none => .ok
  | some q =>
    let x := c.qreg q
    if x.head < x.tail then .ok
    else if x.st = .closed then .trap (streamVal 4 q)
    else if x.st = .dead then .trap (streamVal 5 q)
    else .stall q false

/-- R331 for a push. -/
def Core.pushReady (c : Core) (r : Nat) : PortRes :=
  match c.port r with
  | none => .ok
  | some q =>
    let x := c.qreg q
    if x.st = .closed then .trap (streamVal 4 q)
    else if x.st = .dead then .trap (streamVal 5 q)
    else if 0 < x.credits then .ok
    else .stall q true

/-- The first of a list that is in the way. -/
def firstPort : List PortRes → PortRes
  | [] => .ok
  | .ok :: l => firstPort l
  | p :: _ => p

/-- The stream rules for all the registers of an instruction: traps of direction and latency, then pops,
then pushes (R330 to R332). DEDUCED (log entry 13). -/
def Core.ports (c : Core) (u : Uses) : PortRes :=
  firstPort (u.ws.map (c.portWrite u.long) ++ u.rs.map c.portRead ++ u.rs.map c.popReady ++ u.ws.map c.pushReady)

/-- The bound q-registers an instruction reads, each once. -/
def Core.popped (c : Core) (u : Uses) : List Nat := (u.rs.filterMap c.port).eraseDups

/-- Does an instruction name a bound q-register? -/
def Core.namesPort (c : Core) (u : Uses) : Bool := (u.rs ++ u.ws).any (fun r => (c.port r).isSome)

/-- Raise the flags of results that have arrived (R88). -/
def Core.flushFlags (c : Core) (lv : Bool) : Core :=
  let c' := c.raise lv (FFlags.orAll ((c.pend.filter (fun p => p.lv == lv && p.need == 0)).map Pend.flags))
  { c' with pend := c.pend.map (fun p => if p.lv == lv && p.need == 0 then { p with flags := {} } else p) }

/-- A result that will still raise flags (R88, R210, R253). -/
def Pend.flagsDue (p : Pend) : Bool := (p.cls == .vdivide || p.cls == .xrnd) && p.need != 0

/-! ## Issuing -/

/-- An instruction issues: it is counted in the windows that were open before it, the masked window counts
it, level 0 spends 256 of its bucket, and a blocking instruction closes the windows (R47, R50, R185, R304).
`lim` is the number from which results are new: a divide that pops a stream is blocking and long-latency, and closes the
older windows but not its own, which R50 does not say. DESIGN CHOICE (log entry 43). -/
def Core.issued (c : Core) (lv : Bool) (u : Uses) (lim : Nat) (ports : Bool) : Core :=
  { c with
    pend := c.pend.map (fun p =>
      if p.lv == lv && decide (p.id < lim) then
        { p with win := if u.on && (u.blocking || ports) then 0 else p.win - 1 }
      else p)
    maskCnt := if !lv && c.maskOpen && !u.uncounted then c.maskCnt + 1 else c.maskCnt
    b := if lv then c.b else c.b - 256
    qStall := if lv then c.qStall else none
    issuedNow := true }

/-- A thread goes on at an address. -/
def Core.resume (c : Core) (lv : Bool) (pc : Word) : Core :=
  let t := c.thr lv
  c.setThr lv { t with pc := pc, hold := .ready, held := [], heldV := [], late := none }

/-- A thread waits in an instruction that has issued. -/
def Core.park (c : Core) (lv : Bool) (h : Hold) : Core := c.setHold lv h

/-- Does a general register, which is no port, stand in an open window of the running level? -/
def Core.windowG (c : Core) (r : Nat) : Bool :=
  (c.port r).isNone && c.pend.any (fun p => p.lv == c.level && decide (0 < p.win) &&
    match p.dst with
    | some (.gb lv q) => lv == c.level && q == r
    | some (.gs q) => q == r
    | _ => false)

/-- Does a vector register stand in an open window of the running level? -/
def Core.windowV (c : Core) (r : Nat) : Bool :=
  c.pend.any (fun p => p.lv == c.level && decide (0 < p.win) && p.dst == some (.v r))

/-- An instruction that comes to wait keeps what its windows, which close, have let it read: the old values of its sources, and
whether a register that it writes only if it turns out so stands in a window (R48 to R50). -/
def Core.keepOld (c : Core) (u : Uses) : Core :=
  let t := c.thr c.level
  c.setThr c.level { t with
    held := t.held ++ (u.rs.filter c.windowG).map (fun r => (r, c.g c.level r))
    heldV := t.heldV ++ (u.vs.filter c.windowV).map (fun r => (r, c.vreg r))
    late := t.late <|> (c.violated { u with ws := u.mw, vw := [] }).map (fun p => p.pc) }

/-- An instruction that has issued in `s` and comes to wait in `t` keeps its sources, the elements it popped among them (R50,
R330). -/
def State.keepSrcs (s : State) (u : Uses) (t : State) : State :=
  let k := (s.me.keepOld u).thr s.lv
  let held := u.rs.map (fun r => (r, s.srcOf r))
  t.updMe (fun c => c.setThr s.lv { c.thr s.lv with held := held, heldV := k.heldV, late := k.late })

/-- A blocking instruction, or one that names a port, stalls at issue: no window stays open across its wait, so that handlers
start, and it keeps the old values that it reads (R50, R331). `st` is the port it waits for. DEDUCED (log entry 13). -/
def Core.standStill (c : Core) (u : Uses) (st : Option (Nat × Bool)) : Core :=
  let d := ((c.keepOld u).closeWindows c.level).setHold c.level .stalled
  { d with qStall := if c.level then d.qStall else st }

/-- An instruction finishes: the elements it read are popped, and execution goes on at `target`. -/
def State.finish (s : State) (c0 : Core) (u : Uses) (target : Word) : State :=
  let s := if u.on then (c0.popped u).foldl State.qPop s else s
  s.updMe (fun c => c.resume c0.level target)

/-- The address after the executing instruction. -/
def State.nextPc (s : State) (u : Uses) : Word := s.pc + word u.len

/-- A thread notes what it was doing when it met a page fault. -/
def Core.keepBack (c : Core) (lv : Bool) : Core :=
  let t := c.thr lv
  c.setThr lv { t with back := t.hold }

/-- A blocked thread takes up again what it was doing when it met the page fault (R413). -/
def Core.goBack (c : Core) (lv : Bool) : Core := c.setHold lv (c.thr lv).back

/-- The page fault of a TLBINV.PIN is answered with ABORT: the instruction completes, and has issued (R185, R417). -/
def Core.pinAborted (c : Core) (lv : Bool) (lim : Nat) : Core :=
  (if (c.thr lv).back == .issued then c else c.issued lv { blocking := true } lim false).resume lv (c.pcOf lv + 4)

/-- Post the message of a page fault and block (R413, R414). With no room for the message the thread is blocked all the same,
and the message waits to be posted (R415). With STALLH 0 the FES answers ABORT at once. -/
def State.pageFault (s : State) (va : Word) (acc why : BitVec 2) (pin : Bool) : State :=
  let h := s.myHall
  let lv := s.lv
  let s := s.updMe (fun c => c.keepBack lv)
  match s.postService h va (msgTidx h msgPage acc.toNat (bit lv) (tileOf s.cur) (coreIdx s.cur) why.toNat 0) with
  | .posted s' => s'.updMe (fun c => c.setHold lv (.page va acc why pin))
  | .full => s.updMe (fun c => c.setHold lv (.unposted va acc why pin))
  | .fes => if pin then s.updMe (fun c => c.pinAborted lv s.ctr) else s.trap tREFUSED va (acc == 2)

/-- A blocked thread posts its message, when there is room (R415). -/
def State.repostThread (s : State) (ck : Nat) (lv : Bool) : State :=
  match ((s.core ck).thr lv).hold with
  | .unposted va acc why pin =>
    let h := s.hallOfCore ck
    match s.postService h va (msgTidx h msgPage acc.toNat (bit lv) (tileOf ck) (coreIdx ck) why.toNat 0) with
    | .posted s' => s'.updCore ck (fun c => c.setHold lv (.page va acc why pin))
    | _ => s
  | .unserviced dbl cause frame => s.postTrap ck lv dbl cause frame
  | _ => s

/-- What becomes of the effect of an instruction. `again` says that it has issued before and waits. -/
def State.settle (s : State) (u : Uses) (again : Bool) (r : Res) : State :=
  let c := s.me
  let lv := c.level
  let lim := s.ctr
  let count : State → State := fun t => if again then t else t.updMe (fun d => d.issued lv u lim (c.namesPort u))
  match r with
  | .done t => (count t).finish c u (s.nextPc u)
  | .jump t a => (count t).finish c u a
  | .trap t code tval => t.trap code tval
  | .page t va acc why pin =>
    (if (u.blocking || c.namesPort u) && !again then t.updMe (fun d => d.standStill u none) else t).pageFault va acc why pin
  | .stall => if (u.blocking || c.namesPort u) && !again then s.updMe (fun d => d.standStill u none) else s
  | .wait t h => (count (if again then t else s.keepSrcs u t)).updMe (fun d => d.park lv h)

/-- An instruction that has issued and waits is tried again. The stream it pushes to when it completes may have ended
meanwhile: then it does not complete but traps STREAM (R331, R332). DEDUCED (log entry 13). -/
def State.tryAgain (s : State) (u : Uses) (r : Res) : State :=
  match r, (if u.long then .ok else firstPort (u.ws.map s.me.pushReady)) with
  | .done _, .trap tval => s.trap tSTREAM tval
  | .jump _ _, .trap tval => s.trap tSTREAM tval
  | _, _ => s.settle u true r

/-- Count one cycle of a stall at the consumer's end of a stream, and set its stall flag, which a retraining stream keeps
as it was (R331, R334, R339). -/
def QReg.stalled (z : QReg) (full : Bool) : QReg :=
  { z with stall := z.stall || z.st != .retrain, full := if full then min (z.full + 1) 0xFFFFFFFF else z.full,
           empty := if full then z.empty else min (z.empty + 1) 0xFFFFFFFF }

/-- The stall of a core that still stands at the end of a cycle, in a handler too: its task has not issued, and the element or
the credit it waits for has not come (R331). -/
def Core.stallStands (c : Core) : Option (Nat × Bool) :=
  match c.qStall with
  | none => none
  | some (q, full) =>
    let y := c.qreg q
    let ended := y.st == .closed || y.st == .dead || y.st == .unbound
    if c.stopped || c.lv0.hold != .stalled || ended then none
    else if full then (if y.credits = 0 then some (q, full) else none)
    else if y.tail ≤ y.head then some (q, full) else none

/-- A cycle ends with a core stalled on a port: it counts at the consumer's end. DEDUCED (log entry 32). -/
def State.countStall (s : State) (ck : Nat) : State :=
  let c := s.core ck
  match c.stallStands with
  | none => s
  | some (q, full) =>
    let y := c.qreg q
    let e := if y.prod then y.peer else (ck, q)
    s.updCore e.1 (fun d => d.setQ e.2 ((d.qreg e.2).stalled full))

/-- A pop is a load of the slot by the core from its own scratchpad, and a store to HEAD: it waits for the core's earlier
accesses there, and for a range-scoreboard entry over either (R141, R148, R328, R333). -/
def State.popWaits (s : State) (q : Nat) : Bool :=
  let x := s.me.qreg q
  s.flight.any (fun r => r.core == s.cur && (match r.loc with | .spad c _ => c == s.cur | _ => false)) ||
    s.overScore (.spad s.cur (x.base + 16 + 8 * (x.head % (max x.slots 1)))) 8 || s.overScore (.spad s.cur x.base) 8

/-- The last stage of issue: the rules of the ports an instruction names, and then its effect (R330 to R333). -/
def State.issuePorts (s : State) (u : Uses) (body : State → Res) : State :=
  let c := s.me
  match c.ports u with
  | .trap tval => s.trap tSTREAM tval
  | .stall q full => s.updMe (fun c => c.standStill u (some (q, full)))
  | .ok => if (c.popped u).any s.popWaits then s.updMe (fun c => c.standStill u none) else s.settle u false (body s)

/-- Issue an instruction: the checks of R62 in their order, then its effect. An ILLEGAL by level or by state, as of MASKH
at level 1 or of ERET with T = 0, is step 2 of R62, before the guard and the masked count, unless the instruction's entry
tests its guard first, as that of STEP does. DEDUCED (log entry 13). -/
def State.issueWith (s : State) (u : Uses) (body : State → Res) : State :=
  let c := s.me
  let lv := c.level
  if (c.thr lv).hold == .stalled then s.issuePorts u body
  else if (c.thr lv).hold != .ready then s.tryAgain u (body s)
  else if u.illegal then s.trap tILLEGAL (s.irWord 0)
  else if u.priv.isSome && !c.pv then s.trap tPRIV ((u.priv.join).getD (s.irWord 0))
  else if !lv && c.maskOpen && !u.uncounted && decide (64 ≤ c.maskCnt) then
    (s.updMe (fun c => { c with maskOpen := false, maskCnt := 0 })).trap tWINDOW 65
  else if !u.on then s.settle u false (.done s)
  else if !lv && c.maskOpen && (u.nomask || c.namesPort u) then s.trap tWINDOW 0
  else
    match c.violated u with
    | some p => s.trap tWINDOW p.pc
    | none =>
      if c.busy u || (u.fpwait && c.pend.any (fun p => p.lv == lv && p.flagsDue)) then s else s.issuePorts u body

/-- A meaning of a core's instruction: what it declares in a state, and its effect. -/
def State.runs (s : State) (u : Uses) (body : State → Res) : Host.Outcome State Fault Refusal :=
  .next (s.issueWith u body)

/-- The pending result of an instruction of the executing thread, with the next number (R47, R184). -/
def State.newPend (s : State) (dst : Option PReg0) (la need : Nat) (cls : PCls) (mask : Vec) : Pend :=
  { id := s.ctr, lv := s.lv, dst := dst, win := la, pc := s.pc, cls := cls, need := need, mask := mask }

/-- Add a pending result to those of the executing core. -/
def State.putPend (s : State) (p : Pend) : State := s.updMe (fun c => ({ c with pend := c.pend ++ [p] }).noteArrivals)

/-- A pending result is entered, and its number is used up. -/
def State.enterPend (s : State) (p : Pend) : State := { s.putPend p with ctr := s.ctr + 1 }

/-- A pending result is entered that waits for its value (R47, R184). -/
def State.addPend (s : State) (dst : Option PReg0) (la need : Nat) (cls : PCls) (mask : Vec) : Nat × State :=
  (s.ctr, s.enterPend (s.newPend dst la need cls mask))

/-- A pending result for a general register; a destination of g0 is discarded (R42). -/
def State.pendG (s : State) (d : Reg) (la : BitVec 4) (need : Nat) (cls : PCls) : Nat × State :=
  s.addPend (greg s.lv d.toNat) la.toNat need cls 0

/-- Hand a finished value to a pending result of a core. -/
def State.deliver (s : State) (ck id : Nat) (x : Word) : State := s.updCore ck (fun c => c.arrive id x {})

/-! ## Guards -/

/-- The guard of a scalar, X-class or C-class operation: bit 0 of the predicate (R46). -/
def State.guard (s : State) (gu : Guard) : Bool := bitAt (s.rp gu.gp) 0 == gu.gs

/-- Lanes of a vector of element type `ty` (R67). -/
def lanesOfTy (ty : Nat) : Nat := 1024 / bitsOf ty

/-- Is a lane of a V-class operation active (R46, R179)? -/
def State.active (s : State) (gu : Guard) (ty i : Nat) : Bool :=
  bitAt (s.rp gu.gp) (i / max 1 (16 / bitsOf ty)) == gu.gs

/-- Does the guard of a V-class operation let some lane execute? -/
def State.vguard (s : State) (gu : Guard) (ty : Nat) : Bool := (List.range (lanesOfTy ty)).any (s.active gu ty)

/-! ## Fetch -/

/-- What fetching comes to. -/
inductive Fetched where
  | words (ws : List (BitVec 32)) (s : State)
  | fail (va : Word) (why : FetchWhy) (s : State)
  | stall
  deriving Repr

/-- Lines of a bay's 64 KiB instruction cache (R1, R436). Which line leaves a full cache is not stated; any line may leave it
at any time (Env.icacheEvict). -/
def icacheLines : Nat := 512

/-- Fetch one word at an address: translation through the IFT, the world check, then the bay's instruction
cache, filled from the home slice (R402, R411, R436). -/
def State.fetchWord (s : State) (ck : Nat) (va : Word) : Fetched :=
  let c := s.core ck
  let h := s.hallOfCore ck
  let r := s.rqstOf ck (bit c.level)
  if !inGlobal va then .fail va .aperture s
  else
    match s.translate (bayOf ck) .ift r h.asid va.toNat 2 c.pv with
    | (.fault why, s) => .fail va (.walk why) s
    | (.wait, _) => .stall
    | (.phys pa, s) =>
      let line := lineOf pa
      match ((s.bay (bayOf ck)).icache).find? (fun e => e.1 == line) with
      | some e => .words [BitVec.ofNat 32 (vecBytes e.2 (pa % 128) 4)] s
      | none =>
        match s.wayToSlice (tileOf ck) (homeSlice pa) with
        | .dead => .fail va .refused s
        | .wait => .stall
        | .clear =>
          let (bad, s) := s.check r kFetch pa 4
          if bad then .fail va .refused s
          else if isHost pa then .words [BitVec.ofNat 32 (s.hostRead pa 4)] s
          else if !s.free line false then .stall
          else
            let (d, p, s) := s.sliceRead line .df
            if p then .fail va .poison s
            else
              let b := s.bay (bayOf ck)
              .words [BitVec.ofNat 32 (vecBytes d (pa % 128) 4)]
                (s.setBay (bayOf ck) { b with icache := ((line, d) :: b.icache).take icacheLines })

/-- Fetch `n` further words. -/
def State.fetchMore (ck : Nat) (va : Word) : Nat → Fetched → Fetched
  | 0, f => f
  | n + 1, f =>
    match State.fetchMore ck va n f with
    | .words ws s =>
      match s.fetchWord ck (va + word (4 * ws.length)) with
      | .words w s => .words (ws ++ w) s
      | e => e
    | e => e

/-- Fetch the words of the instruction at an address: word 0 says how many there are (R38). -/
def State.fetchInstr (s : State) (ck : Nat) (va : Word) : Fetched :=
  match s.fetchWord ck va with
  | .words [w] s => State.fetchMore ck va (lenWords w - 1) (.words [w] s)
  | e => e

/-- Does a handler of the core start before its task issues again (R183, R300, R304)? -/
def Core.handlerFirst (c : Core) : Bool := !c.level && !c.handlers.isEmpty && !c.tBit && !c.maskOpen && !c.windowOpen false

/-- May the running level of a core issue now? Not while its hall is stopped, twice in a cycle, at level 0 before a pending
handler, or with less than 256 in its bucket (R183, R185). -/
def Core.mayIssue (c : Core) : Bool := !c.stopped && !c.issuedNow && !c.handlerFirst && (c.level || decide (256 ≤ c.b))

end Sys2Proof.Machine
end

