-- ==== Sys2Proof/Machine/Operands.lean ====
section
/-!
DEFINITION. The operand forms of the scalar unit: immediates and literals (R40, R188), and what each
operation of a pair's scalar half reads, computes and writes (R189 to R197, R204), used alone and in pairs.
-/

namespace Sys2Proof.Machine

open Sys2Proof

/-- The value of an immediate: sext(IMM12, 12), or the literal (R190). -/
def immVal : Imm → Word
  | .short i => i.signExtend 64
  | .lit l => l

/-- All ones for a true relation, zeros for a false one (R196). -/
def predWord (b : Bool) : Word := if b then ones else 0

/-- The two-register operations (R189). -/
def rrVal (op : RROp) (a b : Word) : Word :=
  let n := b.toNat % 64
  match op with
  | .add => a + b
  | .sub => a - b
  | .mul => a * b
  | .mulh => wrap64 (sgn a * sgn b / 2 ^ 64)
  | .mulhw => word (a.toNat * b.toNat / 2 ^ 64)
  | .and => a &&& b
  | .or => a ||| b
  | .xor => a ^^^ b
  | .andn => a &&& ~~~b
  | .orn => a ||| ~~~b
  | .shl => a <<< n
  | .shr => a >>> n
  | .sra => a.sshiftRight n
  | .rot => a.rotateLeft n
  | .min => if sgn b < sgn a then b else a
  | .max => if sgn a < sgn b then b else a
  | .minw => if b.toNat < a.toNat then b else a
  | .maxw => if a.toNat < b.toNat then b else a

/-- The number of zero bits of `a` from bit `i` downwards. -/
def clzFrom (a : Word) : Nat → Nat
  | 0 => 0
  | i + 1 => if a.getLsbD i then 0 else clzFrom a i + 1

/-- The number of zero bits from bit 64 - `i` upwards. -/
def ctzFrom (a : Word) : Nat → Nat
  | 0 => 0
  | i + 1 => if a.getLsbD (63 - i) then 0 else ctzFrom a i + 1

/-- Counting and reordering (R191). -/
def r1Val (op : ROp) (a : Word) : Word :=
  match op with
  | .clz => word (clzFrom a 64)
  | .ctz => word (ctzFrom a 64)
  | .popc => word ((List.range 64).foldl (fun n i => n + bit (a.getLsbD i)) 0)
  | .brev => word ((List.range 64).foldl (fun n i => n + bit (a.getLsbD i) * 2 ^ (63 - i)) 0)
  | .bswp => word ((List.range 8).foldl (fun n i => n + fld a (8 * i) 8 * 256 ^ (7 - i)) 0)

/-- The relations of R196. -/
def cmpVal (op : CmpOp) (a b : Word) : Bool :=
  match op with
  | .eq => a == b
  | .ne => a != b
  | .lt => decide (sgn a < sgn b)
  | .le => decide (sgn a ≤ sgn b)
  | .ltw => decide (a.toNat < b.toNat)
  | .lew => decide (a.toNat ≤ b.toNat)

/-- Predicate logic (R197). -/
def plogVal (op : PLogOp) (a b : Word) : Word :=
  match op with
  | .and => a &&& b
  | .or => a ||| b
  | .xor => a ^^^ b

/-- The immediate operations (R190). -/
def iVal (op : IOp) (a c : Word) : Word :=
  match op with
  | .add => a + c
  | .and => a &&& c
  | .or => a ||| c
  | .xor => a ^^^ c

/-- The immediate shifts (R190). -/
def shVal (op : ShOp) (a : Word) (n : Nat) : Word :=
  match op with
  | .shl => a <<< n
  | .shr => a >>> n
  | .sra => a.sshiftRight n
  | .rot => a.rotateLeft n

/-- The divides (R194). -/
def divVal (op : DivOp) (a b : Word) : Word :=
  if b = 0 then
    match op with
    | .div => ones
    | .divw => ones
    | .rem => a
    | .remw => a
  else
    match op with
    | .div => wrap64 ((sgn a).tdiv (sgn b))
    | .divw => word (a.toNat / b.toNat)
    | .rem => wrap64 ((sgn a).tmod (sgn b))
    | .remw => word (a.toNat % b.toNat)

/-- BFI: a field of `t` replaced by the low bits of `a` (R192). -/
def bfiVal (t a : Word) (pos w : Nat) : Word := setFld t pos w (a.toNat % 2 ^ w)

/-- Where a scalar operation writes: a general register or a predicate. -/
inductive SDst where
  | g (d : Reg)
  | p (d : PReg)
  deriving DecidableEq, Repr

/-- The destination of a scalar operation. -/
def halfDst : SHalf → SDst
  | .rr _ d _ _ => .g d
  | .r1 _ d _ => .g d
  | .cmp _ d _ _ => .p d
  | .plog _ d _ _ => .p d
  | .pnot d _ => .p d
  | .sel d _ _ _ => .g d
  | .nrand d _ _ => .g d
  | .imm _ d _ _ => .g d
  | .sh _ d _ _ => .g d
  | .peqi d _ _ => .p d
  | .plti d _ _ => .p d
  | .bfx d _ _ _ => .g d
  | .bfi d _ _ _ => .g d
  | .exts d _ _ => .g d
  | .extz d _ _ => .g d
  | .movl d _ => .g d
  | .addpc d _ => .g d

/-- The general registers a scalar operation reads. -/
def halfSrcs : SHalf → List Reg
  | .rr _ _ a b => [a, b]
  | .r1 _ _ a => [a]
  | .cmp _ _ a b => [a, b]
  | .plog _ _ _ _ => []
  | .pnot _ _ => []
  | .sel _ a b _ => [a, b]
  | .nrand _ a b => [a, b]
  | .imm _ _ a _ => [a]
  | .sh _ _ a _ => [a]
  | .peqi _ a _ => [a]
  | .plti _ a _ => [a]
  | .bfx _ a _ _ => [a]
  | .bfi d a _ _ => [d, a]
  | .exts _ a _ => [a]
  | .extz _ a _ => [a]
  | .movl _ _ => []
  | .addpc _ _ => []

/-- The result of a scalar operation from the registers `g`, the predicates `p` and the PC. -/
def halfVal (g : Reg → Word) (p : PReg → Word) (pc : Word) : SHalf → Word
  | .rr op _ a b => rrVal op (g a) (g b)
  | .r1 op _ a => r1Val op (g a)
  | .cmp op _ a b => predWord (cmpVal op (g a) (g b))
  | .plog op _ a b => plogVal op (p a) (p b)
  | .pnot _ a => ~~~(p a)
  | .sel _ a b q => if bitAt (p q) 0 then g a else g b
  | .nrand _ a b => newel (g a) (g b)
  | .imm op _ a c => iVal op (g a) (immVal c)
  | .sh op _ a n => shVal op (g a) n.toNat
  | .peqi _ a c => predWord (g a == immVal c)
  | .plti _ a c => predWord (decide (sgn (g a) < sgn (immVal c)))
  | .bfx _ a pos wm1 => zextN (g a >>> pos.toNat).toNat (wm1.toNat + 1)
  | .bfi d a pos wm1 => bfiVal (g d) (g a) pos.toNat (wm1.toNat + 1)
  | .exts _ a wm1 => sextN (g a).toNat (wm1.toNat + 1)
  | .extz _ a wm1 => zextN (g a).toNat (wm1.toNat + 1)
  | .movl _ c => immVal c
  | .addpc _ c => pc + immVal c

/-- The result of a scalar operation in a state. -/
def State.halfValue (s : State) (h : SHalf) : Word := halfVal s.src s.rp s.pc h

/-- Write the result of a scalar operation. -/
def State.writeHalf (s : State) (d : SDst) (x : Word) : State :=
  match d with
  | .g r => s.dst r x
  | .p r => s.wp r x

/-- The general registers a destination names. -/
def SDst.gs : SDst → List Nat
  | .g r => [r.toNat]
  | .p _ => []

/-- What a scalar operation declares, alone in its instruction. -/
def halfUses (h : SHalf) : Uses :=
  { len := if h.lit?.isSome then 12 else 4, rs := (halfSrcs h).map (fun r => r.toNat), ws := (halfDst h).gs }

/-- A scalar operation alone in its instruction (R187). -/
def execHalf (h : SHalf) (s : State) : Host.Outcome State Fault Refusal :=
  s.runs (halfUses h) (fun s => .done (s.writeHalf (halfDst h) (s.halfValue h)))

/-! ## Addresses -/

/-- The length of an extended instruction, without and with a literal (R38). -/
def xlen : Nat := 12
/-- See xlen. -/
def xlenLit : Nat := 20

/-- The offset of an M-format access: OFF6 times the size, or the literal (R134). -/
def offVal (off : BitVec 6) (size : Nat) : Word := off.signExtend 64 * word size

/-- sext(IMM24, 24) (R137, R246). -/
def imm24 (imm : BitVec 24) : Word := imm.signExtend 64

end Sys2Proof.Machine
end

