-- ==== Sys2Proof/Machine/Branch.lean ====
section
/-!
DEFINITION. Branches, jumps, the counted loop and NOP (R198 to R202).
-/

namespace Sys2Proof.Machine

open Sys2Proof

/-- The target of a J-format displacement (R198). -/
def State.branchTarget (s : State) (disp : BitVec 20) : Word := s.pc + disp.signExtend 64 * 4

/-- BR (R198). -/
def execBr (gu : Guard) (disp : BitVec 20) (s : State) : Host.Outcome State Fault Refusal :=
  s.runs { on := s.guard gu } (fun s => .jump s (s.branchTarget disp))

/-- JAL (R198): the return address goes to g1. -/
def execJal (gu : Guard) (disp : BitVec 20) (s : State) : Host.Outcome State Fault Refusal :=
  s.runs { on := s.guard gu, ws := [1] } (fun s => .jump (s.dst 1 (s.pc + 4)) (s.branchTarget disp))

/-- The indirect jump (R199): a target that is not a multiple of 4 traps ALIGN. -/
def jalrBody (d a : Reg) (off : Word) (len : Nat) (s : State) : Res :=
  let t := s.src a + off
  if t &&& 3 ≠ 0 then .trap s tALIGN t else .jump (s.dst d (s.pc + word len)) t

/-- JALR (R199). -/
def execJalr (d a : Reg) (imm : BitVec 12) (s : State) : Host.Outcome State Fault Refusal :=
  s.runs { rs := [a.toNat], ws := [d.toNat] } (jalrBody d a (imm.signExtend 64) 4)

/-- JALR with a literal offset (R199). -/
def execJalrLiteral (d a : Reg) (lit : BitVec 64) (s : State) : Host.Outcome State Fault Refusal :=
  s.runs { len := 12, rs := [a.toNat], ws := [d.toNat] } (jalrBody d a lit 12)

/-- The counted loop (R200). -/
def loopBody (d : Reg) (disp : Word) (len : Nat) (s : State) : Res :=
  let c := s.src d - 1
  .jump (s.dst d c) (if c ≠ 0 then s.pc + disp * 4 else s.pc + word len)

/-- LOOP (R200). -/
def execLoop (d : Reg) (imm : BitVec 12) (s : State) : Host.Outcome State Fault Refusal :=
  s.runs { rs := [d.toNat], ws := [d.toNat] } (loopBody d (imm.signExtend 64) 4)

/-- LOOP with a literal displacement (R200). -/
def execLoopLiteral (d : Reg) (lit : BitVec 64) (s : State) : Host.Outcome State Fault Refusal :=
  s.runs { len := 12, rs := [d.toNat], ws := [d.toNat] } (loopBody d lit 12)

/-- NOP (R201). -/
def execNop (s : State) : Host.Outcome State Fault Refusal := s.runs {} .done

end Sys2Proof.Machine
end

