-- ==== Sys2Proof/Machine/Lanes.lean ====
section
/-!
DEFINITION. What each vector operation computes from its operands, lane by lane, with its flags (R207 to
R222), used alone and as the vector half of a pair.
-/

namespace Sys2Proof.Machine

open Sys2Proof

/-! ## One lane -/

/-- The result of one lane: its bits and the flags it raises. -/
abbrev LaneRes := Nat × FFlags

/-- A floating-point result: the exact value with the flags of forming it, rounded once (R211). -/
def roundLane (ty rm : Nat) (sat : Bool) (x : FVal × FFlags) : LaneRes :=
  let (r, f) := roundF (fmtOf ty) rm sat x.1
  (r, x.2.or f)

/-- Smaller or larger of two elements (R212): -0 is below +0, and a NaN gives the canonical NaN. -/
def minMaxLane (ty : Nat) (wantMax : Bool) (a b : Nat) : LaneRes :=
  if isInt ty then
    let lt := decide (intVal ty a < intVal ty b)
    (if lt == wantMax then b else a, {})
  else
    let x := elemVal ty a
    let y := elemVal ty b
    if x.isNan || y.isNan then (qnan (fmtOf ty), { nv := x.isSig || y.isSig })
    else
      let lt := match cmpV x y with
        | .lt => true
        | .gt => false
        | .eq => x.neg? && !y.neg?
      (if lt == wantMax then b else a, {})

/-- The one-source operations on a lane (R211, R213, R221). -/
def v1Lane (op : V1Op) (ty rm : Nat) (sat : Bool) (a : Nat) : LaneRes :=
  let w := bitsOf ty
  match op with
  | .vsqrt => roundLane ty rm false (sqrtV (elemVal ty a))
  | .vrsq => roundLane ty rm false (rsqV (elemVal ty a))
  | .vabs => if isInt ty then (putI ty sat (intVal ty a).natAbs, {}) else (a % 2 ^ (w - 1), {})
  | .vneg =>
    if isInt ty then (putI ty sat (-(intVal ty a)), {}) else ((a + 2 ^ (w - 1)) % 2 ^ w, {})
  | .vmov => (a, {})

/-- The two-source operations on a lane; VPERM is not lane by lane (R211, R212, R219, R220). -/
def v2Lane (op : V2Op) (ty rm : Nat) (sat : Bool) (a b : Nat) : LaneRes :=
  let w := bitsOf ty
  let x := elemVal ty a
  let y := elemVal ty b
  match op with
  | .vadd => roundLane ty rm sat (addV rm x y)
  | .vsub => roundLane ty rm sat (addV rm x y.flip)
  | .vmul => roundLane ty rm sat (mulV x y)
  | .vdiv => roundLane ty rm sat (divV x y)
  | .vmin => minMaxLane ty false a b
  | .vmax => minMaxLane ty true a b
  | .viadd => (putI ty sat (intVal ty a + intVal ty b), {})
  | .visub => (putI ty sat (intVal ty a - intVal ty b), {})
  | .vimul => (putI ty sat (intVal ty a * intVal ty b), {})
  | .vand => (a &&& b, {})
  | .vor => (a ||| b, {})
  | .vxor => (a ^^^ b, {})
  | .vshl => (a * 2 ^ (b % w) % 2 ^ w, {})
  | .vshr => (a / 2 ^ (b % w), {})
  | .vsra => ((sintN a w / 2 ^ (b % w) % (2 ^ w : Nat)).toNat, {})
  | .vperm => (a, {})

/-- The three-source operations on a lane (R211, R212, R219). The sign of an exactly zero VFNMA is that of the sum of -(a × b)
and c, of which R211's words on the sign do not say it. DESIGN CHOICE (log entry 43). -/
def v3Lane (op : V3Op) (ty rm : Nat) (sat : Bool) (a b c : Nat) : LaneRes :=
  let x := elemVal ty a
  let y := elemVal ty b
  let z := elemVal ty c
  match op with
  | .vfma => roundLane ty rm sat (fmaV rm x y z)
  | .vfms => roundLane ty rm sat (fmaV rm x y z.flip)
  | .vfnma =>
    let (p, f) := mulV x y
    let (r, g) := addV rm p.flip z
    roundLane ty rm sat (r, f.or g)
  | .vclamp =>
    let (m, f) := minMaxLane ty true a b
    let (r, g) := minMaxLane ty false m c
    (r, f.or g)
  | .vimad => (putI ty sat (intVal ty a * intVal ty b + intVal ty c), {})

/-- A relation of VCMP on a lane, with the NV it raises (R214). -/
def cmpLane (ty rel a b : Nat) : Bool × FFlags :=
  let x := elemVal ty a
  let y := elemVal ty b
  let nan := x.isNan || y.isNan
  let sig := x.isSig || y.isSig
  let o := cmpV x y
  let lt := o == .lt
  let eq := o == .eq
  match rel with
  | 0 => (!nan && eq, { nv := sig })
  | 1 => (nan || !eq, { nv := sig })
  | 2 => (!nan && lt, { nv := nan })
  | 3 => (!nan && (lt || eq), { nv := nan })
  | 4 => (!nan && !lt && !eq, { nv := nan })
  | 5 => (!nan && !lt, { nv := nan })
  | _ => (nan, { nv := sig })

/-! ## Whole vectors -/

/-- Lanes governed by one predicate bit: m (R179, R207). -/
def groupOf (ty : Nat) : Nat := max 1 (16 / bitsOf ty)

/-- The result of a vector operation: the new bits, the bits of the destination they replace, and the
flags of the active lanes (R208). -/
structure VecRes where
  val : Vec
  mask : Vec
  flags : FFlags
  deriving DecidableEq, Repr

/-- An operation lane by lane: `act` says which lanes are active (R208). -/
def lanewise (ty : Nat) (act : Nat → Bool) (f : Nat → LaneRes) : VecRes :=
  let w := bitsOf ty
  let rs := (List.range (lanesOfTy ty)).map (fun i => if act i then f i else (0, {}))
  { val := ofLanes w (rs.map (fun r => r.1)), mask := laneMask w act, flags := FFlags.orAll (rs.map (fun r => r.2)) }

/-- A one-source operation. -/
def vec1 (op : V1Op) (ty rm : Nat) (sat : Bool) (act : Nat → Bool) (a : Vec) : VecRes :=
  lanewise ty act (fun i => v1Lane op ty rm sat (lane a (bitsOf ty) i))

/-- A two-source operation. VPERM takes lane i of va from the index in lane i of vb (R221). -/
def vec2 (op : V2Op) (ty rm : Nat) (sat : Bool) (act : Nat → Bool) (a b : Vec) : VecRes :=
  let w := bitsOf ty
  lanewise ty act (fun i =>
    if op = .vperm then (lane a w (lane b w i % lanesOfTy ty), {}) else v2Lane op ty rm sat (lane a w i) (lane b w i))

/-- A three-source operation. -/
def vec3 (op : V3Op) (ty rm : Nat) (sat : Bool) (act : Nat → Bool) (a b c : Vec) : VecRes :=
  let w := bitsOf ty
  lanewise ty act (fun i => v3Lane op ty rm sat (lane a w i) (lane b w i) (lane c w i))

/-- VSEL: the lane of va where the predicate's bit is 1, the lane of vb where it is 0 (R215). -/
def vecSel (ty : Nat) (act : Nat → Bool) (a b : Vec) (p : Word) : VecRes :=
  let w := bitsOf ty
  lanewise ty act (fun i => (if bitAt p (i / groupOf ty) then lane a w i else lane b w i, {}))

/-- VCMP: the predicate it writes, from the old one, and its flags (R214). -/
def vecCmp (ty rel : Nat) (act : Nat → Bool) (a b : Vec) (old : Word) : Word × FFlags :=
  let w := bitsOf ty
  let m := groupOf ty
  let rs := (List.range (lanesOfTy ty)).map (fun i =>
    if act i then cmpLane ty rel (lane a w i) (lane b w i) else (true, {}))
  let bits := (List.range (lanesOfTy ty / m)).map (fun j =>
    let g := (List.range m).map (fun k => j * m + k)
    if g.any act then g.all (fun i => (rs.getD i (true, {})).1) else bitAt old j)
  (word (bits.foldr (fun b acc => bit b + 2 * acc) 0), FFlags.orAll (rs.map (fun r => r.2)))

/-! ## Conversion (R216) and block scales (R217) -/

/-- The lanes a conversion reads and writes: the first destination lane, the number of them, and the
source lane that stands at destination lane 0. -/
def cvtSpan (src ty part : Nat) : Nat × Nat × Int :=
  let ns := lanesOfTy src
  let nd := lanesOfTy ty
  if ns < nd then (part * ns, ns, -((part * ns : Nat) : Int))
  else if nd < ns then (0, nd, ((part * nd : Nat) : Int))
  else (0, nd, 0)

/-- An MX type (R66). -/
def isMX (ty : Nat) : Bool := 6 ≤ ty && ty ≤ 8

/-- The conversion of one element that is not into an MX type (R216). -/
def cvtLane (src ty rm : Nat) (sat : Bool) (s x : Nat) : LaneRes :=
  if isInt src && isInt ty then (putI ty sat (intVal src x), {})
  else
    let v := if isMX src then mxVal src s x else elemVal src x
    if isInt ty then
      let (r, f) := roundToInt ty rm v
      (r, f)
    else
      let (r, f) := roundF (fmtOf ty) rm sat v
      (r, f.or { nv := v.isSig })

/-- The conversion of one element into an MX type under scale byte `s`, not 0xFF (R216). -/
def mxLane (ty rm s : Nat) (v : FVal) : LaneRes :=
  let (r, f) := roundF (fmtOf ty) rm true (v.scale (127 - s))
  (r, f.or { nv := v.isSig })

/-- Do the values of a block make it a block of NaN in MXF4 (R77)? -/
def blockNan (vs : List FVal) : Bool :=
  vs.any FVal.isNan || (vs.any (fun v => v.isInf && v.neg?) && vs.any (fun v => v.isInf && !v.neg?))

/-- The NV of such a block (R77, R86). -/
def blockNanFlags (vs : List FVal) : FFlags := { nv := vs.any FVal.isSig || !vs.any FVal.isNan }

/-- VCVT: what it writes to vd, and the blocks whose scale byte becomes 0xFF (R216). A block that R77 encodes at block level
raises its NV also where its scale byte is 0xFF already: R216 says of such a byte that it raises no flag.
DEDUCED (log entry 43). -/
def vecCvt (src ty rm : Nat) (sat : Bool) (part : Nat) (act : Nat → Bool) (a c : Vec) : VecRes × List Nat :=
  let ws := bitsOf src
  let wd := bitsOf ty
  let (lo, cnt, off) := cvtSpan src ty part
  let srcAt := fun (i : Nat) => lane a ws ((i : Int) + off).toNat
  if isMX ty then
    let blocks := (List.range (cnt / 16)).map (fun k =>
      let b := lo / 16 + k
      let ls := (List.range 16).map (fun j => 16 * b + j)
      let s := lane c 8 b
      let vs := (ls.filter act).map (fun i => elemVal src (srcAt i))
      if ty == 8 && blockNan vs then
        (ls.map (fun _ => (0, true, blockNanFlags vs)), true)
      else if s = 255 then (ls.map (fun i => (0, act i, ({} : FFlags))), false)
      else
        (ls.map (fun i => if act i then let (r, f) := mxLane ty rm s (elemVal src (srcAt i)); (r, true, f) else (0, false, {})), false))
    let rs := blocks.flatMap (fun b => b.1)
    let nans := ((List.range (cnt / 16)).filter (fun k => (blocks.getD k ([], false)).2)).map (fun k => lo / 16 + k)
    ({ val := ofLanes wd (List.replicate lo 0 ++ rs.map (fun r => r.1)),
       mask := laneMask wd (fun i => decide (lo ≤ i) && (rs.getD (i - lo) (0, false, {})).2.1),
       flags := FFlags.orAll (rs.map (fun r => r.2.2)) }, nans)
  else
    let live := fun (i : Nat) => act i && decide (lo ≤ i) && decide (i < lo + cnt)
    (lanewise ty live (fun i => cvtLane src ty rm sat (lane c 8 (((i : Int) + off).toNat / 16)) (srcAt i)), [])

/-- floor(log2) of a finite non-zero magnitude. -/
def FVal.log2 : FVal → Int
  | .fin _ m e _ => (Nat.log2 m : Int) + e
  | .inf _ => 0
  | .nan _ => 0

/-- The scale VSCALE chooses for the active values of a block (R217). -/
def blockScale (ty : Nat) (vs : List FVal) : Nat :=
  if ty == 8 && blockNan vs then 255
  else
    let fs := vs.filter (fun v => !v.isNan && !v.isInf && !v.isZero)
    match fs with
    | [] => 127
    | v :: rest =>
      let top := rest.foldl (fun m x => max m x.log2) v.log2
      let emax : Int := if ty = 6 then 8 else if ty = 7 then 15 else 2
      (max 0 (min 254 (top - emax + 127))).toNat

/-- VSCALE (R217): activity is that of the source lanes. -/
def vecScale (ty src part : Nat) (act : Nat → Bool) (a : Vec) : VecRes :=
  let ns := lanesOfTy src
  let w := bitsOf src
  let ss := (List.range (ns / 16)).map (fun k =>
    let ls := ((List.range 16).map (fun j => 16 * k + j)).filter act
    if ls.isEmpty then (0, false) else (blockScale ty (ls.map (fun i => elemVal src (lane a w i))), true))
  let lo := part * ns / 16
  { val := ofLanes 8 (List.replicate lo 0 ++ ss.map (fun p => p.1)),
    mask := laneMask 8 (fun b => decide (lo ≤ b) && (ss.getD (b - lo) (0, false)).2), flags := {} }

/-! ## Reductions (R218) -/

/-- A node of the tree: absent, or a value still exact or already rounded, with the flags so far. -/
abbrev Node := Option (FVal × FFlags)

/-- One level of the tree: neighbours are combined, a lone one passes up unchanged. -/
def treeLevel (op : FVal → FVal → FVal × FFlags) : List Node → List Node
  | l :: r :: rest =>
    (match l, r with
      | none, x => x
      | x, none => x
      | some (x, f), some (y, g) => let (z, h) := op x y; some (z, (f.or g).or h)) :: treeLevel op rest
  | l => l

/-- The tree of `k` levels. -/
def treeUp (op : FVal → FVal → FVal × FFlags) : Nat → List Node → Node
  | 0, l => (l.head?).getD none
  | k + 1, l => treeUp op k (treeLevel op l)

/-- The node addition of VRSUM and VDOT: one rounding to FP64 for FP64, to FP32 otherwise. -/
def sumNode (ty : Nat) (x y : FVal) : FVal × FFlags :=
  let t := if ty = 0 then 0 else 1
  let (s, f) := addV 0 x y
  let (r, g) := roundF (fmtOf t) 0 false s
  (decF (fmtOf t) r, f.or g)

/-- The floating-point tree sum of terms, exact products when `dot`, rounded at the root as R218 says. -/
def treeSum (ty : Nat) (dot : Bool) (terms : List Node) : Option LaneRes :=
  match treeUp (sumNode ty) (Nat.log2 terms.length) terms with
  | none => none
  | some (x, f) =>
    let (x, f) :=
      if dot && ty ≠ 0 then
        let (r, g) := roundF (fmtOf 1) 0 false x
        (decF (fmtOf 1) r, f.or g)
      else (x, f)
    let (r, g) := roundF (fmtOf ty) 0 false x
    some (r, f.or { g with nv := g.nv || x.isSig })

/-- An integer node operation, or that of VRMIN and VRMAX, over encodings. -/
def treeBits (op : Nat → Nat → LaneRes) : Nat → List (Option LaneRes) → Option LaneRes
  | 0, l => (l.head?).getD none
  | k + 1, l => treeBits op k (pairUp l)
where
  /-- One level of the tree. -/
  pairUp : List (Option LaneRes) → List (Option LaneRes)
    | l :: r :: rest =>
      (match l, r with
        | none, x => x
        | x, none => x
        | some (x, f), some (y, g) => let (z, h) := op x y; some (z, (f.or g).or h)) :: pairUp rest
    | l => l

/-- VRSUM, VRMIN and VRMAX (R218): none when no lane is active. A NaN that is the only active lane meets no operation on its
way up: the last rounding of VRSUM makes it canonical (R71), VRMIN and VRMAX, which have none, pass its bits unchanged.
DEDUCED (log entry 43). -/
def vecReduce (op : VRedOp) (ty : Nat) (sat : Bool) (act : Nat → Bool) (a : Vec) : Option LaneRes :=
  let w := bitsOf ty
  let n := lanesOfTy ty
  let bits := (List.range n).map (fun i => if act i then some ((lane a w i, {}) : LaneRes) else none)
  match op with
  | .vrsum =>
    if isInt ty then
      treeBits (fun x y => (putI ty sat (intVal ty x + intVal ty y), {})) (Nat.log2 n) bits
    else treeSum ty false ((List.range n).map (fun i => if act i then some (elemVal ty (lane a w i), {}) else none))
  | .vrmin => treeBits (minMaxLane ty false) (Nat.log2 n) bits
  | .vrmax => treeBits (minMaxLane ty true) (Nat.log2 n) bits

/-- VDOT (R218): the leaves are exact products. -/
def vecDot (ty : Nat) (act : Nat → Bool) (a b : Vec) : Option LaneRes :=
  let w := bitsOf ty
  treeSum ty true ((List.range (lanesOfTy ty)).map (fun i =>
    if act i then some (mulV (elemVal ty (lane a w i)) (elemVal ty (lane b w i))) else none))

/-! ## Writing the results -/

/-- Write a vector result and raise its flags (R208). -/
def State.writeVec (s : State) (d : VReg) (r : VecRes) : State :=
  (s.wv d (blend (s.rv d) r.val r.mask)).raise r.flags

/-- The registers a vector half reads, and what it writes. -/
def vhalfSrcs : VHalf → List VReg
  | .v1 _ _ _ a => [a]
  | .v2 _ _ _ _ a b => [a, b]
  | .v3 _ _ _ _ a b c => [a, b, c]
  | .vcmp _ _ _ a b => [a, b]
  | .vsel _ _ a b _ => [a, b]

/-- The vector register a vector half writes, if it writes one. -/
def vhalfDst : VHalf → Option VReg
  | .v1 _ _ d _ => some d
  | .v2 _ _ _ d _ _ => some d
  | .v3 _ _ _ d _ _ _ => some d
  | .vcmp _ _ _ _ _ => none
  | .vsel _ d _ _ _ => some d

/-- The element type of a vector half. -/
def vhalfTy : VHalf → Nat
  | .v1 _ ty _ _ => ty.toNat
  | .v2 _ ty _ _ _ _ => ty.toNat
  | .v3 _ ty _ _ _ _ _ => ty.toNat
  | .vcmp ty _ _ _ _ => ty.toNat
  | .vsel ty _ _ _ _ => ty.toNat

/-- What a vector half writes: computed from one state, to be applied after the scalar half has read its
operands (R53). -/
inductive VWrite where
  | v (d : VReg) (r : VecRes)
  | p (d : PReg) (x : Word) (f : FFlags)
  deriving DecidableEq, Repr

/-- The result of a vector half in a state; a pair rounds by RMP and never saturates (R55, R209, R219). -/
def State.vhalf (s : State) (act : Nat → Bool) : VHalf → VWrite
  | .v1 op ty d a => .v d (vec1 op ty.toNat 0 false act (s.srcV a))
  | .v2 op ty rm d a b => .v d (vec2 op ty.toNat rm.toNat false act (s.srcV a) (s.srcV b))
  | .v3 op ty rm d a b c => .v d (vec3 op ty.toNat rm.toNat false act (s.srcV a) (s.srcV b) (s.srcV c))
  | .vcmp ty rel d a b =>
    let (x, f) := vecCmp ty.toNat rel.toNat act (s.srcV a) (s.srcV b) (s.rp d)
    .p d x f
  | .vsel ty d a b p => .v d (vecSel ty.toNat act (s.srcV a) (s.srcV b) (s.rp p))

/-- Apply what a vector half writes. -/
def State.writeV (s : State) : VWrite → State
  | .v d r => s.writeVec d r
  | .p d x f => (s.wp d x).raise f

end Sys2Proof.Machine
end

