-- ==== Sys2Proof/Machine/Access.lean ====
section
/-!
DEFINITION. Loads, stores and their kin from issue to the last answer: placing an access (R134, R138 to
R140), the store queue and forwarding (R132, R272), requests to slices and core memories in program order
(R120, R141), what a slice does with one (R124 to R129, R247 to R251), and the answers (R127, R128, R270).
-/

namespace Sys2Proof.Machine

open Sys2Proof

/-! ## Placing an access -/

/-- Where an access goes once its address has been checked, steered and translated. -/
inductive Go where
  | loc (l : Loc)
  | sys (r : SysReg)
  | trap (code : Nat) (tval : Word)
  | page (va : Word) (why : BitVec 2)
  /-- The walk waits for an entry of the tables. -/
  | wait
  deriving DecidableEq, Repr

/-- The requester of the executing thread. -/
def State.rqst (s : State) : Rqst := s.rqstOf s.cur (bit s.lv)

/-- Steer and, in the global window, translate an address of the executing thread (R140). `sysOk` admits
system space, which only LDD and STD reach (R145). -/
def State.place (s : State) (acc : Acc) (sysOk : Bool) (a : Word) : Go × State :=
  let pv := s.me.pv
  match s.steer s.cur pv a with
  | none => (.trap tAPERTURE a, s)
  | some (.sys r) => (if !sysOk then .trap tAPERTURE a else if pv then .sys r else .trap tPRIV a, s)
  | some (.loc l) => (.loc l, s)
  | some (.glob va) =>
    match s.translate (bayOf s.cur) .vlt s.rqst s.myHall.asid va acc pv with
    | (.phys pa, s) => (.loc (.glob pa), s)
    | (.fault why, s) => (.page a why, s)
    | (.wait, s) => (.wait, s)

/-- An access of the core stalls at issue while it overlaps an entry of its own range scoreboard (R148). -/
def State.ownScore (s : State) (l : Loc) (n : Nat) : Bool :=
  match l with
  | .spad c _ => c == s.cur && s.overScore l n
  | _ => false

/-- Do two places overlap? -/
def Loc.meets (l : Loc) (n : Nat) (l' : Loc) (m : Nat) : Bool :=
  match l, l' with
  | .glob a, .glob b => overlaps a n b m
  | .spad c a, .spad d b => c == d && overlaps a n b m
  | .vault c a, .vault d b => c == d && overlaps a n b m
  | .gal c a, .gal d b => c == d && overlaps a n b m
  | _, _ => false

/-- Do two places have one target: a slice, a scratchpad, a vault or a gallery (R120, R141)? -/
def Loc.sameTarget : Loc → Loc → Bool
  | .glob a, .glob b => homeSlice a == homeSlice b
  | .spad c _, .spad d _ => c == d
  | .vault c _, .vault d _ => c == d
  | .gal c _, .gal d _ => c == d
  | _, _ => false

/-- The place of a core among those that reach a scratchpad in one cycle: its owner first, then ascending core index (R141). -/
def reachKey (owner ck : Nat) : Nat := if ck = owner then 0 else ck + 1

/-- A core that comes later in the order of a cycle has reached these bytes of a scratchpad in this one: this core does so in
the next (R141). DEDUCED (log entry 32). -/
def State.outOfTurn (s : State) (ck : Nat) (l : Loc) (n : Nat) : Bool :=
  match l with
  | .spad c o =>
    let r := (s.core c).reach
    r.1 == s.cycle && r.2.any (fun e => decide (reachKey c ck < e.1) && overlaps e.2.1 e.2.2 o n)
  | _ => false

/-- A core reaches bytes of a scratchpad in this cycle (R141). -/
def Core.reached (d : Core) (cycle key o n : Nat) : Core :=
  { d with reach := (cycle, (key, o, n) :: (if d.reach.1 = cycle then d.reach.2 else [])) }

/-- A core reaches bytes of a core memory; those of a scratchpad are noted (R141). -/
def State.noteReach (s : State) (ck : Nat) (l : Loc) (n : Nat) : State :=
  match l with
  | .spad c o => s.updCore c (fun d => d.reached s.cycle (reachKey c ck) o n)
  | _ => s

/-- Is it global? -/
def Loc.isGlob : Loc → Bool
  | .glob _ => true
  | _ => false

/-- The tile where a core-memory place lies. -/
def Loc.tile : Loc → Nat
  | .spad c _ => tileOf c
  | .vault v _ => tileOfVault v
  | .gal t _ => t
  | .glob _ => 0

/-- The access has been performed at its target. -/
def Req.performed (r : Req) : Bool :=
  match r.st with
  | .done _ _ _ => true
  | _ => false

/-- The offset of a place in its memory: physical memory, a scratchpad, a vault or a gallery. -/
def Loc.off : Loc → Nat
  | .glob a => a
  | .spad _ o => o
  | .vault _ o => o
  | .gal _ o => o

/-- Does a request read or write the byte at offset `x` of its memory? -/
def Req.hasByte (r : Req) (x : Nat) : Bool :=
  decide (r.loc.off ≤ x) && decide (x < r.loc.off + r.n) && (r.n != 128 || r.bytes.getLsbD (x - r.loc.off))

/-- Does a request cover the bytes of a range that a mask names? -/
def Req.covers (r : Req) (l : Loc) (n : Nat) (need : BitVec 128) : Bool :=
  r.loc.meets r.n l n && (List.range n).all (fun i => !need.getLsbD i || r.hasByte (l.off + i))

/-- Does a request touch a byte of a range that a mask names? -/
def Req.touches (r : Req) (l : Loc) (n : Nat) (need : BitVec 128) : Bool :=
  r.loc.meets r.n l n && (List.range n).any (fun i => need.getLsbD i && r.hasByte (l.off + i))

/-- The data of a store as the bytes of a range that begins at a place. -/
def Req.dataAt (r : Req) (l : Loc) (n : Nat) : Nat :=
  if r.loc.off ≤ l.off then vecBytes r.data (l.off - r.loc.off) n
  else vecBytes (atByte (vecBytes r.data 0 r.n) (r.loc.off - l.off)) 0 n

/-- What the store queue holds of a load's bytes (R132): nothing, all of them in the newest store that
touches them, or only part. -/
inductive Fwd where
  | none | data (x : Nat) | partly
  deriving DecidableEq, Repr

/-- A near-memory command that the core has issued, and that is not yet accepted, will lock the line of a place, so that
its later loads are served by the slice after the command (R110, R281). -/
def State.nmAwaited (s : State) (l : Loc) : Bool :=
  match l with
  | .glob pa => s.cmds.any (fun c => c.core == s.cur && c.st == .locking && c.wants (lineOf pa) false)
  | _ => false

/-- Look for the newest pending store of the core that touches the bytes of a range that a mask names (R132, R272). Once that
store has been performed, the load reads at the target, so that it returns nothing older than a write that another thread
has put over it since (R269, R280). DEDUCED (log entry 19). -/
def State.forward (s : State) (l : Loc) (n : Nat) (need : BitVec 128) : Fwd :=
  if s.nmAwaited l then .none
  else
    match (s.flight.filter (fun r => r.core == s.cur && r.op == .store && r.touches l n need)).getLast? with
    | none => .none
    | some r => if !r.covers l n need then .partly else if r.performed then .none else .data (r.dataAt l n)

/-- A read-modify-write of the core whose answer is awaited touches the bytes, so that a load of them waits
(R269, R274). -/
def State.rmwAwaited (s : State) (l : Loc) (n : Nat) : Bool :=
  s.flight.any (fun r => r.core == s.cur && r.loc.meets r.n l n &&
    match r.op with
    | .amo _ _ => true
    | .rd _ _ => true
    | .xadd _ => true
    | .xrnd _ _ _ _ => true
    | _ => false)

/-- Contributions of a core to barrier words of a scratchpad that their unit has not received (R141, R257). -/
def State.contribsAt (s : State) (ck : Nat) (l : Loc) : List Contrib :=
  match l with
  | .spad c _ => (s.tile (tileOf c)).contribs.filter (fun q => q.core == c && q.src == ck)
  | _ => []

/-- The physical address of line `i` of a fill. -/
def MFill.pa (f : MFill) (i : Nat) : Nat :=
  let va := f.src.toNat + 128 * i
  ((f.pages.find? (fun p => p.1 == va / 65536)).getD (0, 0)).2 + va % 65536

/-- A fill that a core issued before the request `id` has still to read a line at a slice: the request keeps behind it
(R120, R150). -/
def State.fillAhead (s : State) (core id : Nat) (l : Loc) : Bool :=
  match l with
  | .glob pa => s.fills.any (fun f => f.core == core && decide (f.id < id) &&
      (List.range (f.count - f.i)).any (fun j => homeSlice (f.pa (f.i + j)) == homeSlice pa))
  | _ => false

/-- A push that a core issued before the request `id` is still on its way to the scratchpad of a place (R141, R333). -/
def State.pushAhead (s : State) (core id : Nat) (l : Loc) : Bool :=
  match l with
  | .spad c _ => s.qflight.any (fun m => m.pushBy core && m.core == c && decide (m.id < id))
  | _ => false

/-- Is there an access of the core to the target of a place that has not been performed? -/
def State.pendingAt (s : State) (l : Loc) : Bool :=
  s.flight.any (fun r => r.core == s.cur && r.loc.sameTarget l && !r.performed) || !(s.contribsAt s.cur l).isEmpty ||
    s.fillAhead s.cur s.ctr l || s.pushAhead s.cur s.ctr l

/-- A store or other write of the core to these bytes has not been acknowledged (R132, R269). -/
def State.unacked (s : State) (l : Loc) (n : Nat) : Bool :=
  s.flight.any (fun r => r.core == s.cur && r.loc.meets r.n l n &&
    match r.op with
    | .load => false
    | .pref => false
    | _ => true)

/-- Entries of a store queue (R132). -/
def storeCap : Nat := 16

/-- Stores in the store queue of the core. -/
def State.storesQueued (s : State) : Nat := (s.flight.filter (fun r => r.core == s.cur && r.op == .store)).length

/-- The store queue of the core is full (R132). -/
def State.storesFull (s : State) : Bool := decide (storeCap ≤ s.storesQueued)

/-- Send a request: it takes the next number and the witness of its slice (R128). -/
def State.send (s : State) (r : Req) : State :=
  let w := match r.loc with
    | .glob pa =>
      match s.me.wit.find? (fun e => e.1 == homeSlice pa) with
      | some e => some e.2.1
      | none => none
    | _ => none
  { s with flight := s.flight ++ [{ r with id := s.ctr, core := s.cur, lv := s.lv, pc := s.pc, wit := w }], ctr := s.ctr + 1 }

/-! ## Pending results of accesses -/

/-- The value of an element as its destination register receives it. -/
def extendTo (sext : Bool) (n x : Nat) : Nat := if sext then (sextN x (8 * n)).toNat else x

/-- Bytes arrive for a pending result; `whole` is a general register, extended to 64 bits (R134). -/
def Pend.take (p : Pend) (lane n : Nat) (sext : Bool) (x : Nat) : Pend :=
  let y := match p.dst with
    | some (.v _) => atByte x lane
    | _ => BitVec.ofNat 1024 (extendTo sext n x)
  { p with need := p.need - 1, val := p.val ||| y }

/-- Give bytes to the pending result of a core. -/
def State.give (s : State) (ck id lane n : Nat) (sext : Bool) (x : Nat) : State :=
  s.updCore ck (fun c => c.updPend id (fun p => p.take lane n sext x))

/-- The lower-numbered of two failing lanes (R138). -/
def worseLane (a : Option (Nat × Nat × Word)) (b : Nat × Nat × Word) : Option (Nat × Nat × Word) :=
  match a with
  | none => some b
  | some x => if b.1 < x.1 then some b else some x

/-- A home slice has served one access of a pending result, or refused it. When it was the last, the thread
goes on, or takes the precise trap of its lowest failing lane (R138, R401). DEDUCED (log entry 8). -/
def State.served (s : State) (ck id : Nat) (bad : Option (Nat × Nat × Word)) : State :=
  let s := s.updCore ck (fun c => c.updPend id (fun p =>
    { p with acc := p.acc - 1, bad := match bad with | none => p.bad | some b => worseLane p.bad b }))
  let c := s.core ck
  match c.pend.find? (fun p => p.id == id) with
  | none => s
  | some p =>
    if p.acc ≠ 0 then s
    else if (c.thr p.lv).hold ≠ .access id then s
    else
      match p.bad with
      | none => s.setCore ck (c.setHold p.lv (.answered true))
      | some b =>
        let c := { c with pend := c.pend.filter (fun q => q.id != id),
                          maskCnt := if !p.lv && c.maskOpen then c.maskCnt - 1 else c.maskCnt }
        (s.setCore ck (c.latchTrap p.lv b.2.1 b.2.2 false)).takeTrap ck p.lv

/-! ## Loads -/

/-- One element of a load: its lane, its byte place in the destination, its size and its address. -/
structure Elem where
  idx : Nat := 0
  byte : Nat := 0
  n : Nat := 8
  addr : Word := 0
  deriving DecidableEq, Repr

/-- The first element with a misaligned address (R138, R140). -/
def misaligned (es : List Elem) : Option Elem := es.find? (fun e => e.addr.toNat % e.n != 0)

/-- Does the walk of an element wait? -/
def anyWait (l : List (Elem × Go)) : Bool := l.any (fun e => match e.2 with | .wait => true | _ => false)

/-- Place every element: the first trap or page fault in lane order, or all the places. -/
def State.placeAll (s : State) (acc : Acc) (sysOk : Bool) : List Elem → List (Elem × Go) × State
  | [] => ([], s)
  | e :: es =>
    let (g, s) := s.place acc sysOk e.addr
    let (l, s) := s.placeAll acc sysOk es
    ((e, g) :: l, s)

/-- The first element that traps. -/
def firstTrap : List (Elem × Go) → Option (Nat × Word)
  | [] => none
  | (_, .trap c v) :: _ => some (c, v)
  | _ :: l => firstTrap l

/-- The first element that meets a page fault. -/
def firstPage : List (Elem × Go) → Option (Word × BitVec 2)
  | [] => none
  | (_, .page v w) :: _ => some (v, w)
  | _ :: l => firstPage l

/-- The places of elements that go to memory. -/
def goLocs : List (Elem × Go) → List (Elem × Loc)
  | [] => []
  | (e, .loc l) :: r => (e, l) :: goLocs r
  | _ :: r => goLocs r

/-- Has the core a read of the line whose answer has not come? -/
def State.readAwaited (s : State) (line : Nat) : Bool :=
  s.flight.any (fun r => r.core == s.cur && r.op == .load && match r.loc with | .glob pa => lineOf pa == line | _ => false)

/-- A store of the core to the line has been performed, and its acknowledgement has not come. -/
def State.ackAwaited (s : State) (line : Nat) : Bool :=
  s.flight.any (fun r => r.core == s.cur && r.op == .store && r.performed && match r.loc with | .glob pa => lineOf pa == line | _ => false)

/-- An EVICT of the line that the core has issued has not reached the slice, where it drops the bay's copy (R136). -/
def State.evictAwaited (s : State) (line : Nat) : Bool :=
  s.flight.any (fun r => r.core == s.cur && r.op == .evict && match r.loc with | .glob pa => lineOf pa == line | _ => false)

/-- Does the line stand in the bay's L1 for a load with this hint? BY loads read the slice (R125, R271), and so do
loads after one whose answer has not come, or after a store whose acknowledgement has not come, so that reads of one core
never go backwards (R269), after an EVICT (R136), and after an NMCMD that will lock the line (R281). DEDUCED (log entry 19). -/
def State.l1Hit (s : State) (l : Loc) (h : Hint) : Option L1Line :=
  match l with
  | .glob pa =>
    if h = .byp ∨ s.readAwaited (lineOf pa) ∨ s.ackAwaited (lineOf pa) ∨ s.evictAwaited (lineOf pa) ∨ s.nmAwaited l then none
    else (s.bay (bayOf s.cur)).l1? (lineOf pa)
  | _ => none

/-- Start one element of a load for the pending result `p`: from the store queue, from the L1, or by a request. -/
def State.startLoad (s : State) (p : Pend) (h : Hint) (sext : Bool) (e : Elem) (l : Loc) (bytes : BitVec 128) : Pend × State :=
  let r : Req := { op := .load, va := e.addr, loc := l, n := e.n, bytes := bytes, hint := h, pend := some p.id,
                   lane := e.byte, elem := e.idx, sext := sext }
  match s.forward l e.n bytes with
  | .data x => (p.take e.byte e.n sext x, s)
  | _ =>
    match l with
    | .glob pa =>
      match s.l1Hit l h with
      | some c =>
        (if c.poison then { p with bad := worseLane p.bad (e.idx, tPOISON, e.addr) }
         else p.take e.byte e.n sext (vecBytes c.data (pa % 128) e.n),
         s.setBay (bayOf s.cur) ((s.bay (bayOf s.cur)).l1Touch (lineOf pa) s.stepNo))
      | none => ({ p with acc := p.acc + 1 }, s.send r)
    | _ => (if dieOf l.tile != dieOf (tileOf s.cur) then { p with acc := p.acc + 1 } else p, s.send r)

/-- Start the elements of a load one after the other. -/
def State.startLoads (s : State) (p : Pend) (h : Hint) (sext : Bool) : List (Elem × Loc) → Pend × State
  | [] => (p, s)
  | (e, l) :: es =>
    let (p, s) := s.startLoad p h sext e l (BitVec.allOnes 128)
    s.startLoads p h sext es

/-- What a load comes to once its elements have been started in `t`: the thread goes on, waits for what the home slices
answer, or meets the poison of a line in the L1. DEDUCED (log entry 8). -/
def State.loadEnd (s : State) (p : Pend) (t : State) : Res :=
  if p.acc ≠ 0 then .wait (t.putPend p) (.access p.id)
  else
    match p.bad with
    | none => .done (t.putPend p)
    | some b => .trap s b.2.1 b.2.2

/-- The load of a list of elements into a destination, all checks made before any access (R134, R138).
`mask` is the part of a vector destination that is written. -/
def State.loadElems (s : State) (dst : Option PReg0) (la : BitVec 4) (h : Hint) (sext : Bool) (mask : Vec)
    (sysOk : Bool) (sysRead : SysReg → State → Word × State) (es : List Elem) : Res :=
  match (s.me.thr s.lv).hold with
  | .answered _ => .done s
  | _ =>
    match misaligned es with
    | some e => .trap s tALIGN e.addr
    | none =>
      let (gs, s') := s.placeAll 0 sysOk es
      match firstTrap gs with
      | some (c, v) => .trap s c v
      | none =>
        if anyWait gs then .stall
        else
        match firstPage gs with
        | some (v, w) => .page s' v 0 w false
        | none =>
          let ls := goLocs gs
          if ls.any (fun e => s.ownScore e.2 e.1.n || s.rmwAwaited e.2 e.1.n || s.forward e.2 e.1.n (BitVec.allOnes 128) == .partly) then .stall
          else
            match gs with
            | [(_, .sys r)] =>
              let (x, t) := sysRead r s'
              .done (t.enterPend { t.newPend dst la.toNat 0 .mem mask with val := x.setWidth 1024 })
            | _ =>
              let (p, t) := State.startLoads { s' with ctr := s'.ctr + 1 } (s'.newPend dst la.toNat ls.length .mem mask) h sext ls
              s.loadEnd p t

/-! ## Stores -/

/-- The stores of its instruction that a thread has still to put into the store queue. -/
def Core.setRest (c : Core) (rs : List Req) : Core :=
  let t := c.thr c.level
  c.setThr c.level { t with rest := rs }

/-- The stores of an instruction, placed in `t`, enter the store queue in order while it has places in `s`; those that find
none wait, and the instruction with them (R132). A later one never passes a range-scoreboard entry of the own scratchpad
(R148). -/
def State.queueStores (s t : State) (rs : List Req) : Res :=
  let now := (rs.take (storeCap - s.storesQueued)).takeWhile (fun r => !s.ownScore r.loc r.n)
  let rest := rs.drop now.length
  let t := now.foldl State.send t
  if rest = (s.me.thr s.lv).rest then (if rest.isEmpty then .done t else .wait t .issued)
  else
    let t := t.updMe (fun c => c.setRest rest)
    if rest.isEmpty then .done t else .wait t .issued

/-- The store of a list of elements with their data, all checks made before any is written (R134, R138,
R259). -/
def State.storeElems (s : State) (h : Hint) (sysOk : Bool) (sysWrite : SysReg → Word → State → Option State)
    (es : List (Elem × Nat)) : Res :=
  if !((s.me.thr s.lv).rest).isEmpty then s.queueStores s (s.me.thr s.lv).rest
  else
  match misaligned (es.map (fun e => e.1)) with
  | some e => .trap s tALIGN e.addr
  | none =>
    let (gs, s') := s.placeAll 1 sysOk (es.map (fun e => e.1))
    match firstTrap gs with
    | some (c, v) => .trap s c v
    | none =>
      let ls := goLocs gs
      match ls.find? (fun e => s.overBarrier e.2 e.1.n) with
      | some e => .trap s tCLOBBER e.1.addr
      | none =>
        if anyWait gs then .stall
        else
        match firstPage gs with
        | some (v, w) => .page s' v 1 w false
        | none =>
          if ls.any (fun e => s.ownScore e.2 e.1.n) || s.storesFull then .stall
          else
            match gs, es with
            | [(_, .sys r)], [(_, x)] =>
              match sysWrite r (word x) s' with
              | some t => .done t
              | none => .stall
            | _, _ =>
              match (ls.zip es).map (fun e =>
                  ({ op := .store, va := e.1.1.addr, loc := e.1.2, n := e.1.1.n, data := BitVec.ofNat 1024 e.2.2,
                     bytes := BitVec.allOnes 128, hint := h } : Req)) with
              | [r] => .done (s'.send r)
              | rs => s.queueStores s' rs

/-! ## Whole-line vector accesses (R138) -/

/-- The start of the line, from a place within it. -/
def Loc.lineStart (l : Loc) : Loc :=
  match l with
  | .glob a => .glob (a / 128 * 128)
  | .spad c o => .spad c (o / 128 * 128)
  | .vault v o => .vault v (o / 128 * 128)
  | .gal t o => .gal t (o / 128 * 128)

/-- A VLD whose address is a multiple of 128: its active lanes, of which `e` is the lowest, are read as one
access. -/
def State.loadLine (s : State) (d : VReg) (la : BitVec 4) (h : Hint) (bytes : BitVec 128) (mask : Vec) (e : Elem)
    (es : List Elem) : Res :=
  match (s.me.thr s.lv).hold with
  | .answered _ => .done s
  | _ =>
    match s.place 0 false e.addr with
    | (.trap c v, _) => .trap s c v
    | (.page v w, t) => .page t v 0 w false
    | (.wait, _) => .stall
    | (.sys _, _) => .trap s tAPERTURE e.addr
    | (.loc l, t) =>
      let l := l.lineStart
      if es.any (fun e => s.ownScore (l.add e.byte) e.n || s.rmwAwaited (l.add e.byte) e.n) || s.forward l 128 bytes == .partly then .stall
      else
        let (p, t) := State.startLoad { t with ctr := t.ctr + 1 } (t.newPend (some (.v d.toNat)) la.toNat 1 .mem mask) h false
          { idx := 0, byte := 0, n := 128, addr := e.addr } l bytes
        s.loadEnd p t

/-- A VST whose address is a multiple of 128: its active lanes, of which `e` is the lowest, are written as
one access. -/
def State.storeLineV (s : State) (h : Hint) (x : Vec) (bytes : BitVec 128) (e : Elem) (es : List Elem) : Res :=
  match s.place 1 false e.addr with
  | (.trap c v, _) => .trap s c v
  | (.page v w, t) =>
    .page t v 1 w false
  | (.wait, _) => .stall
  | (.sys _, _) => .trap s tAPERTURE e.addr
  | (.loc l, t) =>
    let l := l.lineStart
    match es.find? (fun e => s.overBarrier (l.add e.byte) e.n) with
    | some e => .trap s tCLOBBER e.addr
    | none =>
      if es.any (fun e => s.ownScore (l.add e.byte) e.n) || s.storesFull then .stall
      else .done (t.send { op := .store, va := e.addr, loc := l, n := 128, data := x, bytes := bytes, hint := h })

/-! ## Targets -/

/-- The access with a number. -/
def State.req? (s : State) (id : Nat) : Option Req := s.flight.find? (fun r => r.id == id)
/-- Change it. -/
def State.updReq (s : State) (id : Nat) (f : Req → Req) : State :=
  { s with flight := updFirst (fun r => r.id == id) f s.flight }
/-- Forget it. -/
def State.dropReq (s : State) (id : Nat) : State := { s with flight := dropFirst (fun r => r.id == id) s.flight }

/-- A near-memory command of the core that has not been accepted holds back its later global accesses (R110). -/
def State.nmHolds (s : State) (core id : Nat) : Bool :=
  s.cmds.any (fun c => c.core == core && c.st == .locking && decide (c.id < id))

/-- May a request be performed: every earlier access of its core to the same target has been (R120, R141),
and no near-memory command issued before it still awaits acceptance (R110). -/
def State.inTurn (s : State) (r : Req) : Bool :=
  s.flight.all (fun q => !(decide (q.id < r.id) && q.core == r.core && q.loc.sameTarget r.loc && !q.performed)) &&
    (s.contribsAt r.core r.loc).all (fun q => decide (r.id < q.id)) &&
    (!r.loc.isGlob || !s.nmHolds r.core r.id) && !s.fillAhead r.core r.id r.loc && !s.pushAhead r.core r.id r.loc

/-- The request has been performed: what its answer will carry. -/
def State.markDone (s : State) (id : Nat) (data : Vec) (ssn : Option (BitVec 48)) (poison : Bool) : State :=
  let q := s.ctr
  { s.updReq id (fun r => { r with st := .done data ssn poison, seq := q }) with ctr := s.ctr + 1 }

/-- The current SSN of a slice (R127). -/
def State.ssnOf (s : State) (pa : Nat) : BitVec 48 := (s.slice (homeSlice pa)).ssn

/-- A read is answered: with the line's data, or refused. Poison and refusal are precise for loads; a
prefetch does nothing then (R98, R134, R135). -/
def State.readDone (s : State) (r : Req) (pa : Nat) (refused : Bool) (data : Vec) (poison : Bool) : State :=
  let s := s.markDone r.id data (if refused then none else some (s.ssnOf pa)) (poison || refused)
  match r.pend with
  | none => s
  | some p => s.served r.core p
      (if refused then some (r.elem, tREFUSED, r.va) else if poison then some (r.elem, tPOISON, r.va) else none)

/-- Answer a read and every read merged into it (R129). -/
def State.readAll (s : State) (r : Req) (pa : Nat) (refused : Bool) (data : Vec) (poison : Bool) : State :=
  let s := s.readDone r pa refused data poison
  r.merged.foldl (fun s id =>
    match s.req? id with
    | some q => s.readDone q pa refused data poison
    | none => s) s

/-- The violation log's KIND of a request (R425). -/
def ReqOp.kind : ReqOp → Nat
  | .load => kLoad
  | .store => kStore
  | .pref => kLoad
  | .evict => kStore
  | _ => kAtomic

/-- The world check of a request. -/
def State.checkReq (s : State) (r : Req) (pa : Nat) : Bool × State :=
  s.check (s.rqstOf r.core (bit r.lv)) r.op.kind pa r.n

/-- Does a completion over PCIe stand out at a slice? Writes and atomics to host memory wait for it (R277). -/
def State.pcieAt (s : State) (pa : Nat) : Bool :=
  s.flight.any (fun r => r.st == .pcie && match r.loc with | .glob b => homeSlice b == homeSlice pa | _ => false)

/-! ## Read-modify-write at a place -/

/-- Read `n` bytes at a place, through the home slice for global ones: the bytes and the poison. -/
def State.readAt (s : State) (l : Loc) (n : Nat) (h : Hint) : Nat × Bool × State :=
  match l with
  | .glob pa => s.lineRead pa n h
  | _ => (s.locRead l n, false, s)

/-- Write `n` bytes at a place; the answer says whether they were merged into a poisoned line. -/
def State.writeAt (s : State) (l : Loc) (n x : Nat) (h : Hint) : Bool × State :=
  match l with
  | .glob pa => s.lineWrite pa n x h
  | _ => (false, s.locWrite l n x)

/-- A read-modify-write as one indivisible step: the old bytes and the poison. With `strict` a poisoned line
is left alone (R248, R249). -/
def State.rmwAt (s : State) (l : Loc) (n : Nat) (h : Hint) (strict : Bool) (f : Nat → Option Nat) : Nat × Bool × State :=
  let (old, p, s) := s.readAt l n h
  if p && strict then (old, p, s)
  else
    match f old with
    | none => (old, p, s)
    | some x =>
      let (_, s) := s.writeAt l n x h
      (old, p, s)

/-- What an atomic request does to the bytes at its place, and the value it returns with its flags
(R249, R250, R252, R253). -/
def Req.effect (r : Req) : (Nat → Option Nat) × (Nat → Nat × FFlags) :=
  match r.op with
  | .amo op ty => (fun old => rmwNew op ty old (r.data.toNat) r.cmp.toNat, fun old => (old, {}))
  | .rd op ty => (fun old => rmwNew op ty old (r.data.toNat) 0, fun _ => (0, {}))
  | .xadd ty => (fun old => some (xaccAdd false old (xaddTerm ty (r.data.setWidth 64))), fun _ => (0, {}))
  | .xrnd ty rm sat clr =>
    (fun _ => if clr then some 0 else none,
     fun old => xaccRound false old ty rm sat)
  | _ => (fun _ => none, fun old => (old, {}))

/-- Does a request return a value and trap on refusal and poison? RD and XADD do not (R248). -/
def ReqOp.returns : ReqOp → Bool
  | .amo _ _ => true
  | .xrnd _ _ _ _ => true
  | _ => false

end Sys2Proof.Machine
end

