-- ==== Sys2Proof/Machine/SliceEvents.lean ====
section
/-!
DEFINITION. The steps that carry an access from the core to its target and its answer back: at home slices
(R121 to R129, R136, R247), over PCIe (R122, R277), at core memories (R141, R148), and at the core (R128, R130,
R270); the witness table's age, and the arrival of results (R48, R184).
-/

namespace Sys2Proof.Machine

open Sys2Proof

/-- The answer of an event that leaves the state as it is when its condition does not hold. -/
abbrev Out := Host.Outcome State Fault Refusal

/-- Do something with the access of a number, if there is one. -/
def State.withReq (s : State) (id : Nat) (f : Req → State) : State :=
  match s.req? id with
  | none => s
  | some r => f r

/-- The home-slice address of a request that has been sent and may be performed now. -/
def State.atSlice (s : State) (r : Req) : Option Nat :=
  match r.loc with
  | .glob pa => if r.st == .sent && s.inTurn r then some pa else none
  | _ => none

/-- Is the operation a plain read or a prefetch? -/
def ReqOp.isRead : ReqOp → Bool
  | .load => true
  | .pref => true
  | _ => false

/-- Is it a read-modify-write? -/
def ReqOp.isAtomic : ReqOp → Bool
  | .amo _ _ => true
  | .rd _ _ => true
  | .xadd _ => true
  | .xrnd _ _ _ _ => true
  | _ => false

/-- The world check of a request over the bytes it touches (R94, R424). -/
def State.reqRefused (s : State) (r : Req) (pa : Nat) : Bool × State :=
  let q := s.rqstOf r.core (bit r.lv)
  let bad :=
    if r.n = 128 then (List.range 128).any (fun i => r.bytes.getLsbD i && s.refuses q.secure (pa + i) 1)
    else s.refuses q.secure pa r.n
  if bad then (true, s.logRefusal pa r.op.kind q) else (false, s)

/-- May read `r` be merged into the older pending read `q` (R129)? A read that itself carries merged readers is not.
DEDUCED (log entry 30). -/
def State.mayMerge (s : State) (q r : Req) : Bool :=
  let w := fun (x : Req) => (s.hallOfCore x.core).secure
  decide (q.id < r.id) && r.merged.isEmpty && q.op.isRead && r.op.isRead && q.hint != .byp && r.hint != .byp && w q == w r &&
    (q.st == .sent || q.st == .missed) && decide (q.merged.length < 3) &&
    (match q.loc, r.loc with
     | .glob a, .glob b => lineOf a == lineOf b && !isHost b && !s.refuses (w q) a q.n && !s.refuses (w r) b r.n &&
         s.wayToSlice (tileOf q.core) (homeSlice a) == .clear
     | _, _ => false) &&
    (match q.wit, r.wit with
     | some a, some b => ssnGe a b
     | _, _ => false)

/-- SLICE_READ (R121, R124, R126, R129): a read reaches its home slice. It is merged into an older read, is
refused, goes on over PCIe, is served from the slice, or misses. -/
def execSliceRead (req : Nat) (into : Option Nat) (s : State) : Out :=
  .next (s.withReq req (fun r =>
    match s.atSlice r with
    | none => s
    | some pa =>
      if !r.op.isRead then s
      else
        match s.wayToSlice (tileOf r.core) (homeSlice pa) with
        | .wait => s
        | .dead => s.readAll r pa true 0 false
        | .clear =>
          match into with
          | some j => s.withReq j (fun q =>
              if s.mayMerge q r then
                (s.updReq j (fun q => { q with merged := q.merged ++ [req] })).updReq req (fun r => { r with st := .joined, hint := q.hint })
              else s)
          | none =>
            let (bad, t) := s.reqRefused r pa
            if bad then t.readAll r pa true 0 false
            else if isHost pa then
              if r.op == .pref then t.readAll r pa true 0 false else t.updReq req (fun r => { r with st := .pcie })
            else if !s.free (lineOf pa) false then s
            else
              let t := t.recall (lineOf pa)
              match t.cline? (lineOf pa) with
              | some _ =>
                let (d, p, t) := t.sliceRead (lineOf pa) r.hint
                t.readAll r pa false d p
              | none => t.updReq req (fun r => { r with st := .missed })))

/-- SLICE_FILL (R97, R103, R124): the line of a read that missed comes from memory; it is allocated unless the
access is BY, and the read and those merged into it are answered. -/
def execSliceFill (req : Nat) (s : State) : Out :=
  .next (s.withReq req (fun r =>
    match r.st, r.loc with
    | .missed, .glob pa =>
      if s.locked (lineOf pa) false || s.linksWait (lineOf pa) then s
      else
        let (d, p, s) := s.sliceRead (lineOf pa) r.hint
        s.readAll r pa false d p
    | _, _ => s))

/-- The data and the byte mask of a store within its line. -/
def Req.lineData (r : Req) (pa : Nat) : Vec × Vec :=
  if r.n = 128 then (r.data, expandBytes r.bytes)
  else (atByte (r.data.toNat % 2 ^ (8 * r.n)) (pa % 128), byteMask (pa % 128) r.n)

/-- A store fails: it is reported and counts as acknowledged (R264, R285). DEDUCED (log entry 20). -/
def State.storeFailed (s : State) (r : Req) : State :=
  (s.addFail r.core r.lv r.loc false).markDone r.id 0 none false

/-- Write the masked bytes of a line of host memory. -/
def State.hostStore (s : State) (line : Nat) (d mask : Vec) : State :=
  s.hostWrite (line * 128) 128 (blend (BitVec.ofNat 1024 (s.hostRead (line * 128) 128)) d mask).toNat

/-- SLICE_WRITE (R98, R104, R126, R264): a store reaches its home slice. -/
def execSliceWrite (req : Nat) (s : State) : Out :=
  .next (s.withReq req (fun r =>
    match s.atSlice r with
    | none => s
    | some pa =>
      if r.op != .store then s
      else
        match s.wayToSlice (tileOf r.core) (homeSlice pa) with
        | .wait => s
        | .dead => s.storeFailed r
        | .clear =>
          let line := lineOf pa
          let (d, m) := r.lineData pa
          let (bad, t) := s.reqRefused r pa
          if bad || s.viewReadOnly line then t.storeFailed r
          else if isHost pa then
            if s.pcieAt pa then s
            else
              let t := ((t.hostStore line d m).bumpSsn (homeSlice pa)).notify (.glob pa) 128
              t.markDone req 0 (some (t.ssnOf pa)) false
          else if !s.free line true then s
          else
            let (p, t) := t.sliceWrite line d m r.hint
            let t := if p then t.addFail r.core r.lv r.loc true else t
            t.markDone req 0 (some (t.ssnOf pa)) false))

/-- An atomic is refused: the core traps, or a reduction is dropped and reported (R248). DEDUCED (log entry 25). -/
def State.atomicFailed (s : State) (r : Req) : State :=
  if r.op.returns then
    let s := s.markDone r.id 0 none true
    match r.pend with
    | none => s
    | some p => s.served r.core p (some (r.elem, tREFUSED, r.va))
  else s.storeFailed r

/-- Can an atomic act on host memory (R247)? -/
def ReqOp.pcieOk : ReqOp → Bool
  | .amo .add _ => true
  | .amo .swp _ => true
  | .amo .cas _ => true
  | _ => false

/-- Does an operation write its place whatever it finds? -/
def ReqOp.writes : ReqOp → Bool
  | .xrnd _ _ _ clr => clr
  | .load => false
  | .pref => false
  | _ => true

/-- The answer of an atomic that has been performed: the value goes with the response, the flags with it. -/
def State.atomicDone (s : State) (r : Req) (old : Nat) (poison : Bool) (ssn : Option (BitVec 48)) : State :=
  let (x, f) := r.effect.2 old
  let s := s.markDone r.id (BitVec.ofNat 1024 x) ssn (poison && r.op.returns)
  match r.pend with
  | none => if poison then s.addFail r.core r.lv r.loc true else s
  | some p =>
    if poison && r.op.returns then s.served r.core p (some (r.elem, tPOISON, r.va))
    else (s.updCore r.core (fun c => c.updPend p (fun q => { q with flags := q.flags.or f }))).served r.core p none

/-- SLICE_ATOMIC (R247 to R253): an atomic is performed at its home slice as one step, or goes on over PCIe. -/
def execSliceAtomic (req : Nat) (s : State) : Out :=
  .next (s.withReq req (fun r =>
    match s.atSlice r with
    | none => s
    | some pa =>
      if !r.op.isAtomic then s
      else
        match s.wayToSlice (tileOf r.core) (homeSlice pa) with
        | .wait => s
        | .dead => s.atomicFailed r
        | .clear =>
          let line := lineOf pa
          let (bad, t) := s.reqRefused r pa
          if bad then t.atomicFailed r
          else if isHost pa then
            if !r.op.pcieOk then t.atomicFailed r
            else if s.pcieAt pa then s
            else t.updReq req (fun r => { r with st := .pcie })
          else if s.viewReadOnly line && r.op.writes then t.atomicFailed r
          else if !s.free line r.op.writes then s
          else
            let (old, p, t) := t.rmwAt r.loc r.n r.hint r.op.returns r.effect.1
            let t := t.updReq req (fun r => { r with after := some ((t.rawLine line).1, (t.rawLine line).2.1) })
            t.atomicDone r old p (some (t.ssnOf pa))))

/-- What an EVICT does at the home slice (R136): copies held update-only are combined first, the issuing bay's clean copy is
dropped, and with SL the hint is set, with DF the line written back and dropped. -/
def State.evictAt (s : State) (bk line : Nat) (h : Hint) : State :=
  let s := (s.recall line).l1Clean bk (fun l => l == line)
  match s.cline? line with
  | none => s
  | some c => if h = .byp then s else if h = .sl then s.putLine { c with hint := .sl } else s.evictLine line

/-- SLICE_EVICT (R136): an EVICT reaches the home slice. One that the world check refuses or that has a dead link in its way is
dropped, and the bay keeps its copy, where the rule names no outcome. DESIGN CHOICE (log entry 43). -/
def execSliceEvict (req : Nat) (s : State) : Out :=
  .next (s.withReq req (fun r =>
    match s.atSlice r with
    | none => s
    | some pa =>
      if r.op != .evict then s
      else
        match s.wayToSlice (tileOf r.core) (homeSlice pa) with
        | .wait => s
        | .dead => s.dropReq req
        | .clear =>
          let (bad, t) := s.reqRefused r pa
          if bad || isHost pa then t.dropReq req
          else if !s.free (lineOf pa) true then s
          else (t.evictAt (bayOf r.core) (lineOf pa) r.hint).dropReq req))

/-- PCIE_COMPLETION (R122, R247, R277): a read or an AtomicOp of host memory completes at its home slice. -/
def execPcieCompletion (req : Nat) (s : State) : Out :=
  .next (s.withReq req (fun r =>
    match r.st, r.loc with
    | .pcie, .glob pa =>
      if r.op.isRead then
        s.readAll r pa false (BitVec.ofNat 1024 (s.hostRead (lineOf pa * 128) 128)) false
      else
        let old := s.hostRead pa r.n
        let s := match r.effect.1 old with
          | none => s
          | some x => ((s.hostWrite pa r.n x).bumpSsn (homeSlice pa)).notify (.glob pa) r.n
        s.atomicDone r old false (some (s.ssnOf pa))
    | _, _ => s))

/-- Can the link between a core and a place of a core memory be missed: does it lie on the other die? -/
def Loc.acrossFrom (l : Loc) (ck : Nat) : Bool := !l.isGlob && dieOf l.tile != dieOf (tileOf ck)

/-- The result of a load or atomic at a core memory reaches its register's pending place. -/
def State.aperturePut (s : State) (r : Req) (data : Vec) (f : FFlags) : State :=
  match r.pend with
  | none => s
  | some p =>
    let s := (s.updCore r.core (fun c => c.updPend p (fun q => { q with flags := q.flags.or f })))
    let s := s.give r.core p r.lane r.n r.sext data.toNat
    if r.loc.acrossFrom r.core then s.served r.core p none else s

/-- CORE_APERTURE_ACCESS (R141, R144, R148): an access reaches the scratchpad, vault or gallery and is performed
there. An access to another core's scratchpad waits for the range-scoreboard entries it overlaps. -/
def execCoreApertureAccess (req : Nat) (s : State) : Out :=
  .next (s.withReq req (fun r =>
    if r.loc.isGlob || r.st != .sent || !s.inTurn r then s
    else
      let foreign := match r.loc with
        | .spad c _ => c != r.core
        | _ => false
      let waits := if r.n = 128 then (List.range 128).any (fun i => r.bytes.getLsbD i && s.overScore (r.loc.add i) 1)
        else s.overScore r.loc r.n
      if foreign && waits || s.outOfTurn r.core r.loc r.n then s
      else
        match s.wayBetween (tileOf r.core) r.loc.tile with
        | .wait => s
        | .dead =>
          if r.op == .store then (s.addFail r.core r.lv r.loc false).dropReq req
          else
            match r.pend with
            | none => (s.addFail r.core r.lv r.loc false).dropReq req
            | some p => (s.dropReq req).served r.core p (some (r.elem, tREFUSED, r.va))
        | .clear =>
          let s := s.noteReach r.core r.loc r.n
          match r.op with
          | .load => (s.aperturePut r (BitVec.ofNat 1024 (s.locRead r.loc r.n)) {}).dropReq req
          | .store =>
            (if r.n = 128 then s.locWriteMasked r.loc r.data r.bytes
             else s.locWrite r.loc r.n (r.data.toNat % 2 ^ (8 * r.n))).dropReq req
          | .pref => s.dropReq req
          | .evict => s.dropReq req
          | _ =>
            let (old, _, s) := s.rmwAt r.loc r.n .df false r.effect.1
            let (x, f) := r.effect.2 old
            (if r.op.returns then s.aperturePut r (BitVec.ofNat 1024 x) f else s).dropReq req))

/-- May the answer of a request be delivered: no answer that the slice gave earlier to the same tile is still
on its way (R120)? -/
def State.answerInTurn (s : State) (r : Req) : Bool :=
  s.flight.all (fun q => !(q.performed && decide (q.seq < r.seq) && q.loc.isGlob && q.loc.sameTarget r.loc &&
    tileOf q.core == tileOf r.core))

/-- An acknowledgement or read response brings an SSN: the witness of its slice becomes the higher of its old
value and the SSN (R128). -/
def State.witness (s : State) (ck pa : Nat) (ssn : Option (BitVec 48)) : State :=
  match ssn with
  | none => s
  | some n => s.updCore ck (fun c =>
      let w := match c.wit.find? (fun e => e.1 == homeSlice pa) with
        | some e => if ssnGe n e.2.1 then n else e.2.1
        | none => n
      { c with wit := c.wit.put (homeSlice pa) (w, s.cycle) })

/-- The line that an answer brings to the bay's L1 (R125, R130, R270): a read that is not BY brings a copy, and so does
PREF.BY, unless the bay has dropped the line meanwhile; any other answer only brings a copy that stands there up to date
(R269). None while the L1 has no room for it. DEDUCED (log entry 19). -/
def State.answerL1 (s : State) (r : Req) (pa : Nat) (data : Vec) (ssn : Option (BitVec 48)) (poison : Bool) : Option State :=
  match ssn with
  | none => some s
  | some n =>
    let bk := bayOf r.core
    if isHost pa then some s
    else if r.op.isRead then
      s.l1Bring bk (lineOf pa) (!r.nofill && !(r.hint == .byp && r.op != .pref)) data poison n (r.hint == .sl || r.hint == .byp)
    else
      match r.after with
      | none => some s
      | some (d, p) => s.l1Bring bk (lineOf pa) false d p n false

/-- READ_RESPONSE (R120, R125, R128, R130, R270): the answer of a read or of an atomic that returns a value
reaches the core. -/
def execReadResponse (req : Nat) (s : State) : Out :=
  .next (s.withReq req (fun r =>
    match r.st, r.loc with
    | .done data ssn poison, .glob pa =>
      if !(r.op.isRead || r.op.returns) || !s.answerInTurn r then s
      else
        match ((s.witness r.core pa ssn).dropReq req).answerL1 r pa data ssn poison with
        | none => s
        | some s =>
          match r.pend with
          | none => s
          | some p =>
            if poison then s
            else if r.op.isRead then s.give r.core p r.lane r.n r.sext (vecBytes data (pa % 128) r.n)
            else s.give r.core p 0 r.n r.sext data.toNat
    | _, _ => s))

/-- STORE_ACK (R128, R130, R270): the acknowledgement of a store or of a reduction at the slice reaches the core,
and the bay's own copy of the line is updated. -/
def execStoreAck (req : Nat) (s : State) : Out :=
  .next (s.withReq req (fun r =>
    match r.st, r.loc with
    | .done _ ssn _, .glob pa =>
      if r.op.isRead || r.op.returns || !s.answerInTurn r then s
      else
        let (d, m) := r.lineData pa
        let s := (s.witness r.core pa ssn).dropReq req
        match ssn with
        | none => s
        | some n =>
          if r.op == .store then s.updBay (bayOf r.core) (fun b => b.l1Store (lineOf pa) d m n)
          else (s.answerL1 r pa 0 ssn false).getD s
    | _, _ => s))

/-- WITNESS_EXPIRE (R128): an entry that has received nothing for 2^24 ring cycles, 2^23 arithmetic cycles,
becomes invalid. DEDUCED (log entry 40). -/
def execWitnessExpire (core slice : Nat) (s : State) : Out :=
  .next (match (s.core core).wit.find? (fun e => e.1 == slice) with
    | none => s
    | some e => if e.2.2 + 2 ^ 23 ≤ s.cycle then s.updCore core (fun c => { c with wit := c.wit.erase slice }) else s)

/-- The result has arrived, and its window is closed: it can be written. -/
def Pend.writable (p : Pend) : Bool := p.need == 0 && p.acc == 0 && p.win == 0

/-- A result that arrived before the result `id` can be written, and goes first (R184). -/
def Core.laterThan (c : Core) (id : Nat) : Bool :=
  (c.arrived.takeWhile (fun i => i != id)).any (fun i => c.pend.any (fun p => p.id == i && p.writable))

/-- A result arrives; with its window closed it is written to its register, in the order of arrival, and its flags are
raised (R48, R88, R184). -/
def Core.writeback (c : Core) (id : Nat) : Core :=
  let c := c.updPend id (fun p => if p.cls == .divide || p.cls == .vdivide then { p with need := 0 } else p)
  match c.pend.find? (fun p => p.id == id) with
  | none => c
  | some p =>
    if !p.writable || c.laterThan id then c
    else ({ c with pend := c.pend.filter (fun q => q.id != id), arrived := c.arrived.filter (fun i => i != id) }).writePend p

/-- RESULT_WRITEBACK (R48, R184): a result is written; a latched trap that waited for it is taken (R51). -/
def execResultWriteback (core pend : Nat) (s : State) : Out :=
  .next (((s.updCore core (fun c => c.writeback pend)).takeTrap core false).takeTrap core true)

/-- ILLEGAL_ENCODING (R61): no instruction matches the word; the core traps with the word as value. -/
def execIllegalEncoding (word0 : BitVec 32) (s : State) : Out := .next (s.trap tILLEGAL (word0.setWidth 64))

/-- The trap code of a failed fetch. -/
def fetchCode : FetchWhy → Nat
  | .aperture => tAPERTURE
  | .poison => tPOISON
  | .refused => tREFUSED
  | .walk _ => tREFUSED

/-- FETCH_FAULT (R402, R413): a fetch fails; a failed walk blocks the thread like any page fault, the other causes
trap with FETCH set. -/
def execFetchFault (addr : Word) (why : FetchWhy) (s : State) : Out :=
  .next (match why with
    | .walk r => s.pageFault addr 2 r false
    | w => s.trap (fetchCode w) addr true)

end Sys2Proof.Machine
end

