-- ==== Sys2Proof/Machine/Preempt.lean ====
section
/-!
DEFINITION. The engines' own accesses at home slices; stopping a hall, saving it and restoring it, and the end of a launch
(R51, R167, R244, R307, R324, R347, R361, R362, R418 to R421), and the seal of R160. The save area's regions of R419 that the specification lays out are copied byte by byte; its
opaque parts are bytes of `Config.imageByte`, and what they stand for is kept in the FES.
-/

namespace Sys2Proof.Machine

open Sys2Proof

/-! ## Seals -/

/-- The bytes of an image of `n` bytes with VER 1 in bytes 0 and 1, zero in 2 and 3, and SUM in 4 to 7 (R245,
R419). -/
def sealedByte (f : Nat → Byte) (n i : Nat) : Byte :=
  if i = 0 then 1
  else if i < 4 then 0
  else if i < 8 then byteN (crc32c ((List.range (n - 8)).map (fun k => f (k + 8)))).toNat (i - 4)
  else f i

/-- Is the seal of `n` bytes sound: VER, then SUM (R245, R421)? -/
def sealVer (bs : List Byte) : Bool := bs.getD 0 0 == 1 && bs.getD 1 0 == 0
/-- See sealVer. -/
def sealSum (bs : List Byte) : Bool := ofBytes ((bs.drop 4).take 4) == (crc32c (bs.drop 8)).toNat

/-! ## Engine accesses -/

/-- What an engine's access at a home slice comes to. -/
inductive EngRes where
  | ok (x : Nat) (poison : Bool)
  | refused
  /-- Its route needs a dead link (R430). -/
  | dead
  | wait
  deriving DecidableEq, Repr

/-- The way of an engine's access: from the requester's tile; the FES and the host have no tile, and their routes
are not given. DEDUCED (log entry 27). -/
def State.engWay (s : State) (placed : Bool) (r : Rqst) (pa : Nat) : Way :=
  if placed then s.wayToSlice r.tile (homeSlice pa) else .clear

/-- An engine reads `n` bytes within a line at its home slice. -/
def State.engRead (s : State) (placed : Bool) (r : Rqst) (kind pa n : Nat) (h : Hint) : EngRes × State :=
  match s.engWay placed r pa with
  | .wait => (.wait, s)
  | .dead => (.dead, s)
  | .clear =>
    if s.refuses r.secure pa n then (.refused, s.logRefusal pa kind r)
    else if !isHost pa && !s.free (lineOf pa) false then (.wait, s)
    else
      let (x, p, s) := s.lineRead pa n h
      (.ok x p, s)

/-- An engine writes `n` bytes within a line at its home slice: refused in a read-only view (R104). -/
def State.engWrite (s : State) (placed : Bool) (r : Rqst) (kind pa n x : Nat) (h : Hint) : EngRes × State :=
  match s.engWay placed r pa with
  | .wait => (.wait, s)
  | .dead => (.dead, s)
  | .clear =>
    if s.refuses r.secure pa n then (.refused, s.logRefusal pa kind r)
    else if s.viewReadOnly (lineOf pa) then (.refused, s)
    else if isHost pa && s.pcieAt pa then (.wait, s)
    else if !isHost pa && !s.free (lineOf pa) true then (.wait, s)
    else
      let (p, s) := s.lineWrite pa n x h
      (.ok 0 p, s)

/-! ## Regions in memory -/

/-- The FES as it saves and restores: which world its accesses carry R422 does not say. It is S here, so that only lines that
nothing backs are refused (R94). DESIGN CHOICE (log entry 28). -/
def saveRqst : Rqst := { fes := true, secure := true }

/-- Write `n` lines at a physical address through their home slices, byte `i` being `f i`. A line that nothing backs, or that
lies in a read-only view, is refused, and the bytes are dropped (R94): what such a SAVE does R104 does not say. DESIGN CHOICE
(log entry 28). -/
def State.putLines (s : State) (pa : Nat) (f : Nat → Byte) : Nat → State
  | 0 => s
  | n + 1 =>
    let s := s.putLines pa f n
    (s.engWrite false saveRqst kEWrite (pa + 128 * n) 128 (ofBytes ((List.range 128).map (fun i => f (128 * n + i)))) .df).2

/-- Read `n` lines at a physical address, storing each by `w` (its offset, its 128 bytes). The bytes of a poisoned line are
taken as they are, where PRESTAT has no code for it. DESIGN CHOICE (log entry 28). -/
def State.takeLines (s : State) (pa : Nat) (w : Nat → Nat → Mems → Mems) : Nat → State
  | 0 => s
  | n + 1 =>
    let s := s.takeLines pa w n
    match s.engRead false saveRqst kERead (pa + 128 * n) 128 .df with
    | (.ok x _, s) => s.updMem (w (128 * n) x)
    | (_, s) => s

/-- Read the bytes of `n` lines; none when one is refused. -/
def State.lineBytes (s : State) (pa : Nat) : Nat → Option (List Byte) × State
  | 0 => (some [], s)
  | n + 1 =>
    let (l, s) := s.lineBytes pa n
    match s.engRead false saveRqst kERead (pa + 128 * n) 128 .df with
    | (.ok x _, s) => (l.map (fun l => l ++ bytesOf 128 x), s)
    | (_, s) => (none, s)

/-- Bytes of the save area of a hall (R419). -/
def Hall.areaBytes (h : Hall) : Nat := 0x10000 + 0x1800000 * (h.w * h.h)

/-- Does a near-memory command read or write bytes of a range (R109)? -/
def NmCmd.meets (c : NmCmd) (base n : Nat) : Bool :=
  let sz := bitsOf c.ty / 8
  overlaps base n c.dst (c.n * sz) || overlaps base n c.src (c.n * sz) || (c.op == 7 && overlaps base n c.res 288)

/-- The save sequencer may read or write the lines of a range: no near-memory command works on them, no read of them has missed,
nothing is out over PCIe where they are host memory, and no recall waits for a link (R110, R118, R121, R277). -/
def State.areaFree (s : State) (base n : Nat) : Bool :=
  s.cmds.all (fun c => !c.meets base n) &&
    s.flight.all (fun r => match r.st, r.loc with
      | .missed, .glob pa => !overlaps base n (lineOf pa * 128) 128
      | .pcie, _ => !(isHost base || isHost (base + n - 1))
      | _, _ => true) &&
    s.slices.all (fun e => e.2.holders.all (fun h => s.wayToHolder h.1 h.2 != .wait))

/-- The end of a save area lies where nothing backs it (R94). -/
def State.areaUnbacked (s : State) (base n : Nat) : Bool := s.refuses true (base + n - 128) 128

/-- Landings of a tile: flat address of slot `k`, offset `o`. -/
def landAddr (t k o : Nat) : Nat := (t * 8 + k) * 2 ^ 14 + o
/-- Tile register `r` of bay `bk`: flat address of its data bytes. -/
def tdataAddr (bk r o : Nat) : Nat := (bk * 16 + r) * 24576 + o
/-- Its scale bytes. -/
def tscaleAddr (bk r o : Nat) : Nat := (bk * 16 + r) * 3072 + o

/-- Bytes 0 to 3 of an image are no part of its contents. -/
def imageBytes : Nat := 135168

/-- Base of hall tile `k` in a save area (R419). -/
def tileBase (base k : Nat) : Nat := base + 0x10000 + 0x1800000 * k

/-- Save one tile (R419): `k` its hall index, `t` its place. DESIGN CHOICE (log entry 10). -/
def State.saveTile (s : State) (serial base k t : Nat) : State :=
  let b := tileBase base k
  let op := fun i => Config.imageByte serial (b - base + i)
  let m := s.mem
  let s := s.putLines b (sealedByte op 0x10000) 512
  let s := s.putLines (b + 0x10000) (fun i => Config.imageByte serial (b - base + 0x10000 + i)) 4096
  let s := s.putLines (b + 0x90000) (fun i => m.gal.get 0 (t * 2 ^ 14 + i)) 128
  let s := (List.range 8).foldl (fun s j =>
    s.putLines (b + 0x94000 + 0x4000 * j) (fun i => m.land.get 0 (landAddr t j i)) 128) s
  let s := (List.range 8).foldl (fun s j =>
    s.putLines (b + 0xC0000 + 0x21000 * j)
      (sealedByte (fun i => Config.imageByte serial (b - base + 0xC0000 + 0x21000 * j + i)) imageBytes) 1056) s
  let s := (List.range 128).foldl (fun s q =>
    let j := q / 16
    let r := q % 16
    let s := s.putLines (b + 0x200000 + 0x6C000 * j + 0x6C00 * r) (fun i => m.tdata.get 0 (tdataAddr (t * 8 + j) r i)) 192
    s.putLines (b + 0x200000 + 0x6C000 * j + 0x6C00 * r + 24576) (fun i => m.tscale.get 0 (tscaleAddr (t * 8 + j) r i)) 24) s
  let old := s
  let s := (List.range 64).foldl (fun s c =>
    s.putLines (b + 0x600000 + 0x18000 * c) (fun i => old.spadByte (t * 64 + c) i) 768) s
  s.putLines (b + 0xC00000) (fun i => m.vault.get 0 (vaultOf t * 2 ^ 24 + i)) 98304

/-- Write one tile back, in the reverse order (R421). -/
def State.restoreTile (s : State) (base k t : Nat) : State :=
  let b := tileBase base k
  let s := s.takeLines (b + 0xC00000) (fun o x m => { m with vault := writeBytes m.vault (vaultOf t * 2 ^ 24 + o) 128 x }) 98304
  let s := (List.range 64).foldr (fun c s =>
    s.takeLines (b + 0x600000 + 0x18000 * c) (fun o x m => { m with spad := putBytes m.spad ((t * 64 + c) * 2 ^ 17 + o) 128 x }) 768) s
  let s := (List.range 128).foldr (fun q s =>
    let j := q / 16
    let r := q % 16
    let s := s.takeLines (b + 0x200000 + 0x6C000 * j + 0x6C00 * r + 24576)
      (fun o x m => { m with tscale := writeBytes m.tscale (tscaleAddr (t * 8 + j) r o) 128 x }) 24
    s.takeLines (b + 0x200000 + 0x6C000 * j + 0x6C00 * r)
      (fun o x m => { m with tdata := writeBytes m.tdata (tdataAddr (t * 8 + j) r o) 128 x }) 192) s
  let s := (List.range 8).foldr (fun j s =>
    s.takeLines (b + 0x94000 + 0x4000 * j) (fun o x m => { m with land := writeBytes m.land (landAddr t j o) 128 x }) 128) s
  s.takeLines (b + 0x90000) (fun o x m => { m with gal := writeBytes m.gal (t * 2 ^ 14 + o) 128 x }) 128

/-! ## Stopping -/

/-- The hall whose origin is a mesh tile. -/
def State.hallAt (s : State) (col row : Nat) : Option Hall := s.fes.halls.find? (fun h => h.ox == col && h.oy == row)

/-- Is a core in a hall? -/
def Hall.hasCore (h : Hall) (ck : Nat) : Bool := h.tiles.contains (tileOf ck)

/-- TIDX of the message a waiting thread has posted, and the page it waits for (R414). -/
def State.waitTidx (s : State) (ck : Nat) (lv : Bool) : Option (Nat × Option Nat) :=
  let h := s.hallOfCore ck
  match ((s.core ck).thr lv).hold with
  | .page va acc why _ =>
    some (msgTidx h msgPage acc.toNat (bit lv) (tileOf ck) (coreIdx ck) why.toNat 0, some (va.toNat % 2 ^ 52 / 2 ^ 16))
  | .service dbl cause _ =>
    some (msgTidx h (if dbl then msgDouble else msgTrap) 0 (bit lv) (tileOf ck) (coreIdx ck) 0 cause, none)
  | _ => none

/-- Withdraw a page-fault message that has not been handled (R420). -/
def State.withdraw (s : State) (sc tidx page : Nat) : State :=
  let mine := fun (r : HRec) => r.svc && r.crec.tidx == word tidx && r.crec.frame.toNat % 2 ^ 52 / 2 ^ 16 == page
  let c := s.core sc
  if c.handlers.any mine then s.setCore sc { c with handlers := dropFirst mine c.handlers }
  else s.updTile (tileOf sc) (fun t => { t with overflow := dropFirst (fun e => e.core == sc && mine (s.overRec (tileOf sc) e)) t.overflow })

/-- A thread blocked on a page fault is stopped with its access not performed (R420). -/
def State.unblockPage (s : State) (ck : Nat) (lv : Bool) : State :=
  match ((s.core ck).thr lv).hold, s.waitTidx ck lv with
  | .page _ _ _ _, some (tidx, some page) =>
    (s.withdraw (s.hallOfCore ck).service tidx page).updCore ck (fun c => c.goBack lv)
  | .unposted _ _ _ _, _ => s.updCore ck (fun c => c.goBack lv)
  | _, _ => s

/-- May a thread be stopped as it stands: not amid a vector store, or while the answer of what it has issued is on its way
(R51, R420)? -/
def Thread.stoppable (t : Thread) : Bool :=
  t.rest.isEmpty &&
    match t.hold with
    | .access _ => false
    | .spawn _ => false
    | .answered _ => false
    | _ => true

/-- A thread waits at an access that has met a page fault. -/
def Thread.atFault (t : Thread) : Bool :=
  match t.hold with
  | .page _ _ _ _ => true
  | .unposted _ _ _ _ => true
  | _ => false

/-- A core that has been ordered to stop reaches an instruction boundary with no window open: it stops; a WAITA
returns WOKEN, and page faults are withdrawn (R51, R362, R420). A thread at a page fault issues nothing more, and stops with
its windows as they stand. DEDUCED (log entry 28). -/
def State.stopCore (s : State) (ck : Nat) : State :=
  let c := s.core ck
  let h := s.hallOfCore ck
  if h.stop = .none ∨ c.stopped ∨ (c.windowOpen c.level && !(c.thr c.level).atFault) ∨ !(c.thr c.level).stoppable then s
  else
    let t := s.tile (tileOf ck)
    let mine := t.mons.filter (fun m => m.core == ck)
    let s := s.setTile (tileOf ck) { t with mons := t.mons.filter (fun m => m.core != ck) }
    let s := mine.foldl (fun s m => s.updCore ck (fun c => c.arrive m.pend 0 {})) s
    ((s.unblockPage ck false).unblockPage ck true).updCore ck (fun c => { c with stopped := true })

/-- No thread of a core has elements of a vector store left to queue (R132). -/
def Core.restDone (c : Core) : Bool := c.lv0.rest.isEmpty && c.lv1.rest.isEmpty

/-- Every core of the hall is stopped, or idle at both levels. -/
def State.allStopped (s : State) (h : Hall) : Bool :=
  s.cores.all (fun e => !h.hasCore e.1 || e.2.stopped || (e.2.lv0.hold == .idle && e.2.lv1.hold == .idle))

/-- Nothing of the hall is on its way or at work, matrix jobs apart (R420). -/
def State.drained (s : State) (h : Hall) : Bool :=
  s.flight.all (fun r => !h.hasCore r.core) && s.cores.all (fun e => !h.hasCore e.1 || e.2.restDone) &&
    s.fills.all (fun f => !h.hasCore f.core) && s.cmds.all (fun c => !h.hasCore c.core) &&
    s.pushes.all (fun p => !h.tiles.contains p.tile) && s.parks.all (fun p => !h.tiles.contains p.tile) &&
    s.gmsgs.all (fun m => !h.hasCore m.core) && s.qflight.all (fun q => !h.hasCore q.core) &&
    s.bays.all (fun e => !h.tiles.contains (e.1 / 8) || e.2.copies.isEmpty) &&
    s.tiles.all (fun e => !h.tiles.contains e.1 || e.2.contribs.isEmpty)

/-- Every result has been written but those of jobs that a save carries over (R244), and those that have arrived in a window
of a thread at a page fault, which keeps its windows (R47, R420). -/
def State.resultsIn (s : State) (h : Hall) : Bool :=
  s.cores.all (fun e => !h.hasCore e.1 || e.2.pend.all (fun p => p.cls == .job || (p.need == 0 && decide (0 < p.win))))

/-- No TLD or TST job of the hall has started and not ended (R244). -/
def State.movesDone (s : State) (h : Hall) : Bool :=
  s.bays.all (fun e => !h.tiles.contains (e.1 / 8) ||
    e.2.jobs.all (fun j => !(j.started && (j.kind == .tld || j.kind == .tst))))

/-- Combine every line the bays of a hall hold update-only into its line (R251). -/
def State.flushU (s : State) (h : Hall) : State :=
  (s.bays.filter (fun e => h.tiles.contains (e.1 / 8))).foldl (fun s e => e.2.u.foldl (fun s u => s.recall u.line) s) s

/-- A line that the bays of a hall hold update-only cannot be recalled yet (R118). -/
def State.flushWaits (s : State) (h : Hall) : Bool :=
  s.bays.any (fun e => h.tiles.contains (e.1 / 8) && e.2.u.any (fun u => s.recallWaits u.line))

/-! ## The end of a launch -/

/-- The engine work that cores of a hall started has completed, and every access has been performed (R361). A cancelled
hall ends after the members of channel entries have met its cancellation (R388); records on their way to its queues do not
hold it, since its queues are discarded (R362). DEDUCED (log entry 28). -/
def State.workDone (s : State) (h : Hall) : Bool :=
  s.flight.all (fun r => !h.hasCore r.core) &&
    s.fills.all (fun f => !h.hasCore f.core) && s.cmds.all (fun c => !h.hasCore c.core) &&
    (h.stop == .cancel || (s.pushes.all (fun p => !h.tiles.contains p.tile) && s.parks.all (fun p => !h.tiles.contains p.tile))) &&
    s.bays.all (fun e => !h.tiles.contains (e.1 / 8) || (e.2.copies.isEmpty && e.2.jobs.isEmpty)) &&
    s.tiles.all (fun e => !h.tiles.contains e.1 || e.2.contribs.isEmpty) &&
    s.fes.members.all (fun m => (m.entry.isSome && h.stop != .cancel) || m.hall != h.id)

/-- Every queue and vestibule of a hall is empty, and every core idle at both levels (R361). -/
def State.hallIdle (s : State) (h : Hall) : Bool :=
  s.tiles.all (fun e => !h.tiles.contains e.1 || (e.2.taskq.all (fun q => q.2.isEmpty) && e.2.vest.isEmpty && e.2.overflow.isEmpty)) &&
    s.cores.all (fun e => !h.hasCore e.1 ||
      (e.2.pinned.isEmpty && e.2.handlers.isEmpty && e.2.lv0.hold == .idle && e.2.lv1.hold == .idle))

/-- A launch is over: it has nothing left to do, or it is cancelled, its cores have stopped and its engine threads have ended
(R361, R362). -/
def State.launchOver (s : State) (h : Hall) : Bool :=
  (match h.stop with
    | .none => s.hallIdle h
    | .cancel => s.allStopped h
    | .save _ => false) && s.workDone h

/-! ## SAVE -/

/-- The save area: the address in PREBASE (R418). -/
def State.saveBase (s : State) : Nat := fld s.sys.prebase 16 32 * 65536

/-- PRECMD is written with a command (R418). -/
def precmdOk (val : Word) : Bool := fld val 19 45 == 0 && fld val 12 4 == 0 && fld val 3 5 == 0

/-- PRESTAT. -/
def State.setPrestat (s : State) (n : Nat) : State := { s with sys := { s.sys with prestat := n } }

/-- A SAVE command (R420): the hall at the given origin is ordered to stop. DEDUCED (log entry 28). -/
def State.precmdSave (s : State) (val : Word) : State :=
  if s.sys.prestat = 1 ∨ !precmdOk val ∨ fld val 0 2 ≠ 1 then s
  else
    let s := { s with sys := { s.sys with precmd := val } }
    match s.hallAt (fld val 8 4) (fld val 16 3) with
    | none => s.setPrestat 3
    | some h =>
      if h.stop ≠ .none then s.setPrestat 3
      else (s.updHall h.id (fun h => { h with stop := .save (bitAt val 2) })).setPrestat 1

/-- PRECMD_SAVE (R418, R420). -/
def execPrecmdSave (val : Word) (s : State) : Out := .next (s.precmdSave val)

/-- The hall being saved. -/
def State.saving (s : State) : Option Hall :=
  s.fes.halls.find? (fun h => match h.stop with | .save _ => true | _ => false)

/-- The entries of a map whose key lies in a hall, `n` keys a tile. -/
def Hall.part {α : Type} (h : Hall) (n : Nat) (m : SMap α) : SMap α := m.filter (fun e => h.tiles.contains (e.1 / n))

/-- What is kept of a hall for the opaque parts of its image (R419). -/
def State.snapshot (s : State) (h : Hall) (serial base : Nat) : Saved :=
  { serial := serial,
    base := base,
    move := match h.stop with | .save b => b | _ => false,
    hall := h,
    tiles := h.part 1 s.tiles,
    cores := h.part 64 s.cores,
    bays := h.part 8 s.bays,
    alcoves := (h.tiles.flatMap (fun t => (List.range 8).map (fun j => t * 8 + j))).map
      (fun bk => (bk, s.mem.alcove.filter (fun e => e.1 / 32768 == bk))),
    landErr := s.mem.landErr.filter (fun a => h.tiles.contains (a * 8 / 2 ^ 17)),
    mgmt := s.sys.mgmt.filter (fun e => h.hasCore e.1) }

/-- A thread whose hall is gone: idle, with nothing left of an instruction. -/
def Thread.freed (t : Thread) : Thread := { t with hold := .idle, held := [], heldV := [], late := none, rest := [] }

/-- Free the tiles of a hall: they belong to none, and their cores are idle, hold no stream, and have no message at a
management core (R405). -/
def State.freeTiles (s : State) (h : Hall) : State :=
  { s with
    tiles := s.tiles.map (fun e => if h.tiles.contains e.1 then (e.1, { e.2 with hall := none }) else e)
    cores := s.cores.map (fun e => if h.hasCore e.1 then
      (e.1, { e.2 with stopped := true, level := false, lv0 := e.2.lv0.freed, lv1 := e.2.lv1.freed, q := [] }) else e)
    bays := s.bays.map (fun e => if h.tiles.contains (e.1 / 8) then
      (e.1, { e.2 with frozen := false, jobs := [], l1 := [], icache := [], vlt := [], mft := [], cet := [], ift := [] }) else e)
    sys := { s.sys with mgmt := s.sys.mgmt.filter (fun e => !h.hasCore e.1) }
    fes := { s.fes with halls := s.fes.halls.filter (fun x => x.id != h.id), freed := true } }

/-- SAVE_DONE (R419, R420): once the cores have stopped and everything has drained, the regions are written in
table order, the header last; the tiles are freed and PRESTAT reads DONE. -/
def execSaveDone (s : State) : Out :=
  .next (match s.saving with
    | none => s
    | some h =>
      let base := s.saveBase
      if s.sys.prestat ≠ 1 ∨ fld s.sys.precmd 0 2 ≠ 1 ∨ !s.allStopped h ∨ !s.drained h ∨ !s.resultsIn h ∨ !s.movesDone h ∨
        !s.areaFree base h.areaBytes then s
      else
        let serial := s.fes.serial
        let s := s.flushU h
        let sv := s.snapshot h serial base
        let s := (List.range (h.w * h.h)).foldl (fun s k => s.saveTile serial base k (h.tiles.getD k 0)) s
        let s := s.putLines base (sealedByte (Config.imageByte serial) 0x10000) 512
        let s := s.freeTiles h
        ({ s with fes := { s.fes with saves := s.fes.saves ++ [sv], serial := serial + 1, away := h.id :: s.fes.away } }).setPrestat 2)

/-! ## RESTORE -/

/-- Is a hall's rectangle within the mesh at an origin, its tiles free and not withheld (R357)? -/
def State.fits (s : State) (x y w h : Nat) : Bool :=
  decide (x + w ≤ 16) && decide (y + h ≤ 8) &&
    (List.range (w * h)).all (fun k =>
      let t := (y + k / w) * 16 + x + k % w
      (s.tile t).hall == none && !s.sys.withheld.getLsbD t)

/-- Does memory hold a header, and for each tile a tile state, with sound VER and SUM (R421)? -/
def State.imageOk (s : State) (base : Nat) (sv : Saved) : Bool × State :=
  (List.range (sv.hall.w * sv.hall.h)).foldl (fun (r : Bool × State) k =>
    let (bs, s) := r.2.lineBytes (tileBase base k) 512
    (r.1 && bs.any (fun bs => sealVer bs && sealSum bs), s)) (true, s)

/-- The save whose header stands in memory: its opaque bytes tell which. DESIGN CHOICE (log entry 10). -/
def State.savedAt (s : State) (bs : List Byte) : Option Saved :=
  s.fes.saves.find? (fun sv => bs.drop 8 == (List.range 65528).map (fun i => Config.imageByte sv.serial (i + 8)))

/-- A core index moved with its hall; those of other halls stay. -/
def moveCore (h : Hall) (x y : Nat) (ck : Nat) : Nat :=
  if h.hasCore ck then ((tileY (tileOf ck) - h.oy + y) * 16 + (tileX (tileOf ck) - h.ox + x)) * 64 + coreIdx ck else ck

/-- A PRECMD write waits: it is a RESTORE, and lines of its save area cannot be read yet (R110). -/
def State.precmdWaits (s : State) (val : Word) : Bool :=
  s.sys.prestat != 1 && precmdOk val && fld val 0 2 == 2 &&
    (!s.areaFree s.saveBase 0x10000 ||
      match (s.lineBytes s.saveBase 512).1.bind s.savedAt with
      | none => false
      | some sv => !s.areaFree s.saveBase sv.hall.areaBytes)

/-- A RESTORE command (R421): the checks; when they pass, the target tiles are taken. An image of which a line is refused is a
bad one. DEDUCED (log entry 28). -/
def State.precmdRestore (s : State) (val : Word) : State :=
  if s.sys.prestat = 1 ∨ !precmdOk val ∨ fld val 0 2 ≠ 2 then s
  else
    let s := { s with sys := { s.sys with precmd := val } }
    let base := s.saveBase
    let x := fld val 8 4
    let y := fld val 16 3
    match s.lineBytes base 512 with
    | (none, s) => s.setPrestat 4
    | (some bs, s) =>
      if !sealVer bs || !sealSum bs then s.setPrestat 4
      else
      match s.savedAt bs with
      | none => s.setPrestat 4
      | some sv =>
        let (ok, s) := s.imageOk base sv
        if !ok || s.areaUnbacked base sv.hall.areaBytes then s.setPrestat 4
        else if !s.fits x y sv.hall.w sv.hall.h then s.setPrestat 5
        else if !sv.move && (sv.hall.ox, sv.hall.oy) != (x, y) then s.setPrestat 6
        else
          let h := { sv.hall with ox := x, oy := y, stop := .none, id := if (s.hall? sv.hall.id).isSome then s.fes.nextHall else sv.hall.id }
          let s := { s with
            fes := { s.fes with halls := s.fes.halls ++ [{ h with stop := .save sv.move }], nextHall := s.fes.nextHall + 1 }
            tiles := h.tiles.foldl (fun m t => m.put t { SMap.get ({} : Tile) m t with hall := some h.id }) s.tiles
            bays := (h.tiles.flatMap (fun t => (List.range 8).map (fun j => t * 8 + j))).foldl (fun m k =>
              m.put k { SMap.get ({} : Bay) m k with frozen := true }) s.bays }
          s.setPrestat 1

/-- PRECMD_RESTORE (R418, R421). -/
def execPrecmdRestore (val : Word) (s : State) : Out := .next (if s.precmdWaits val then s else s.precmdRestore val)

/-- A place of a core memory, moved with its hall. -/
def Loc.moved (f : Nat → Nat) : Loc → Loc
  | .glob a => .glob a
  | .spad c o => .spad (f c) o
  | .vault v o => .vault (vaultOf (tileOf (f (tileOfVault v * 64)))) o
  | .gal t o => .gal (tileOf (f (t * 64))) o

/-- What a thread holds of places, moved. -/
def Thread.moved (t : Thread) (f : Nat → Nat) : Thread :=
  { t with fails := t.fails.map (fun e => (e.1.moved f, e.2)), rest := t.rest.map (fun r => { r with loc := r.loc.moved f }) }

/-- What a core holds of other cores of its hall, moved. -/
def Core.moved (c : Core) (f : Nat → Nat) : Core :=
  { c with q := c.q.map (fun e => (e.1, { e.2 with peer := (f e.2.peer.1, e.2.peer.2) })), lv0 := c.lv0.moved f, lv1 := c.lv1.moved f,
           wit := [], stopped := false, issuedNow := false }

/-- What a tile holds of cores, moved. The last sample of its queues has long arrived (R364). -/
def Tile.moved (t : Tile) (f : Nat → Nat) : Tile :=
  { t with
    occOld := t.occ
    bars := t.bars.map (fun b => { b with core := f b.core })
    arms := t.arms.map (fun a => { a with core := f a.core, act := match a.act with
      | .wake c => .wake (f c)
      | .msg c r => .msg (f c) r
      | .task r => .task r })
    vest := t.vest.map (fun v => { v with core := f v.core })
    overflow := t.overflow.map (fun e => { e with core := f e.core }) }

/-- What a bay holds of cores and bays, moved; its TLBs, L1 and instruction cache start empty (R421, R436). -/
def Bay.moved (b : Bay) (f : Nat → Nat) : Bay :=
  { b with
    jobs := b.jobs.map (fun j => { j with core := f j.core, bays := j.bays.map (fun k => f (k * 8) / 8) })
    retained := b.retained.map (fun e => (f e.1, e.2))
    l1 := []
    u := []
    icache := []
    vlt := []
    mft := []
    cet := []
    ift := []
    frozen := false }

/-- A hall's collective members go with it: their fault messages go to its service core, and name its new tiles (R390,
R414). -/
def Member.moved (m : Member) (was : Nat) (h : Hall) (f : Nat → Nat) : Member :=
  if m.hall = was then { m with hall := h.id, tile := f (m.tile * 64) / 64, core := f m.core } else m

/-- Put back what the opaque parts of an image stand for, at the hall's new place. -/
def State.reload (s : State) (sv : Saved) (h : Hall) : State :=
  let f := moveCore sv.hall h.ox h.oy
  let old := sv.hall.tiles
  { s with
    sys := { s.sys with mgmt := s.sys.mgmt ++ sv.mgmt.map (fun e => (f e.1, e.2)) }
    fes := { s.fes with
      away := s.fes.away.filter (fun k => k != sv.hall.id)
      members := if s.fes.away.contains sv.hall.id then s.fes.members.map (fun m => m.moved sv.hall.id h f) else s.fes.members }
    cores := old.foldl (fun m t => (List.range 64).foldl (fun m c =>
      m.put (f (t * 64 + c)) ((SMap.get ({} : Core) sv.cores (t * 64 + c)).moved f)) m) s.cores
    tiles := old.foldl (fun m t => m.put (f (t * 64) / 64) { (SMap.get ({} : Tile) sv.tiles t).moved f with hall := some h.id }) s.tiles
    bays := old.foldl (fun m t => (List.range 8).foldl (fun m j =>
      m.put (f (t * 64) / 8 + j) ((SMap.get ({} : Bay) sv.bays (t * 8 + j)).moved f)) m) s.bays
    mem := { s.mem with
      alcove := old.foldl (fun m t => (List.range 8).foldl (fun m j =>
        let bk := t * 8 + j
        let nb := f (t * 64) / 8 + j
        (sv.alcoves.get [] bk).foldl (fun m e => m.set 0 (nb * 32768 + e.1 % 32768) e.2) (m.clear (nb * 32768) 32768)) m) s.mem.alcove
      landErr := s.mem.landErr.filter (fun a => !h.tiles.contains (a * 8 / 2 ^ 17)) ++
        sv.landErr.map (fun a => (f (a * 8 / 2 ^ 17 * 64) / 64) * 2 ^ 14 + a % 2 ^ 14) } }

/-- RESTORE_DONE (R421): the regions are written back in reverse order, the bays reloaded, the hall released. -/
def execRestoreDone (s : State) : Out :=
  .next (
    if s.sys.prestat ≠ 1 ∨ fld s.sys.precmd 0 2 ≠ 2 then s
    else
      match s.saving with
      | none => s
      | some h =>
        let base := s.saveBase
        if !s.areaFree base h.areaBytes then s
        else
        let (bs, s) := s.lineBytes base 512
        match bs.bind s.savedAt with
        | none => (s.freeTiles h).setPrestat 4
        | some sv =>
          let s := (List.range (h.w * h.h)).foldr (fun k s => s.restoreTile base k (h.tiles.getD k 0)) s
          let s := s.reload sv h
          (s.updHall h.id (fun x => { x with stop := if x.doomed then .cancel else .none, doomed := false, sampled := s.cycle,
                                             lastTick := s.cycle })).setPrestat 2)

end Sys2Proof.Machine
end

