-- ==== Sys2Proof/Machine/Regs.lean ====
section
/-!
DEFINITION. The registers of system space (R9, R99 to R102, R145, R352, R353, R362, R403, R411, R416, R418, R422 to
R435): what reading and writing each does, for cores, the host and the management cores, and the steps that such a
write is.
-/

namespace Sys2Proof.Machine

open Sys2Proof

/-! ## Replies of the service core -/

/-- A thread that waits for a reply gets one: RETRY walks or runs again, ABORT ends in REFUSED or cancels the hall
(R405, R416, R417). -/
def State.replyThread (s : State) (ck : Nat) (lv retry : Bool) : State :=
  match ((s.core ck).thr lv).hold with
  | .page va acc _ pin =>
    if retry then s.updCore ck (fun c => c.goBack lv)
    else if pin then s.updCore ck (fun c => c.pinAborted lv s.ctr)
    else (s.updCore ck (fun c => c.latchTrap lv tREFUSED va (acc == 2))).takeTrap ck lv
  | .service dbl _ _ =>
    if retry && !dbl then s.updCore ck (fun c => (c.setPc lv c.tpc).setHold lv .ready)
    else s.cancelHall (s.hallOfCore ck).id
  | _ => s

/-- Does a wait for `(tidx, page)` match a reply? -/
def matchesReply (tidx page : Nat) (w : Option (Nat × Option Nat)) : Bool :=
  match w with
  | none => false
  | some (t, none) => t == tidx
  | some (t, some p) => t == tidx && p == page

/-- The 64 KiB page of an address. -/
def pageOf (va : Word) : Nat := va.toNat % 2 ^ 52 / 2 ^ 16

/-- Does an engine's wait match a reply? -/
def engineMatches (tidx page : Nat) (w : Option (Word × Nat)) : Bool :=
  matchesReply tidx page (w.map (fun x => (x.2, some (pageOf x.1))))

/-- Does a reply answer a member's page fault? -/
def PageWait.answeredBy (w : PageWait) (tidx page : Nat) : Bool := engineMatches tidx page (some (w.va, w.tidx))

/-- One of a member's page faults matches a reply: it waits for it no more. The accesses that met it walk again on RETRY, and
end on ABORT (R388, R389, R413). -/
def Member.replied (m : Member) (tidx page : Nat) (retry : Bool) : Member :=
  let hit := m.waits.filter (fun w => w.answeredBy tidx page)
  { m with waits := m.waits.filter (fun w => !w.answeredBy tidx page),
           pageAborts := if retry then m.pageAborts else m.pageAborts ++ hit.flatMap (fun w => w.accs) }

/-- The status code PAGE of a row job (R237). -/
def jPAGE : Nat := 7

/-- A reply to the message `tidx`, for the page of `rva` where it answers a page fault (R416). -/
def State.reply (s : State) (tidx : Nat) (rva : Word) (retry : Bool) : State :=
  let page := pageOf rva
  let s := s.cores.foldl (fun s e =>
    let s := if matchesReply tidx page (s.waitTidx e.1 false) then s.replyThread e.1 false retry else s
    if matchesReply tidx page (s.waitTidx e.1 true) then s.replyThread e.1 true retry else s) s
  let s := { s with bays := s.bays.map (fun (e : Nat × Bay) => (e.1, { e.2 with
    copies := e.2.copies.map (fun (c : Copy) =>
      if engineMatches tidx page c.wait then { c with wait := none, abort := !retry } else c)
    jobs := e.2.jobs.map (fun (j : Job) =>
      if engineMatches tidx page j.wait then { j with wait := none, stop := if retry then j.stop else some jPAGE } else j) })) }
  { s with fes := { s.fes with members := s.fes.members.map (fun (m : Member) => m.replied tidx page retry) } }

/-- RCMD_RETRY (R416). -/
def execRcmdRetry (tidx : BitVec 32) (rva : BitVec 64) (s : State) : Out := .next (s.reply tidx.toNat rva true)
/-- RCMD_ABORT (R416). -/
def execRcmdAbort (tidx : BitVec 32) (rva : BitVec 64) (s : State) : Out := .next (s.reply tidx.toNat rva false)

/-- A write to RCMD: ignored with another reply code or a non-zero bit in [63:34] (R416). -/
def State.writeRcmd (s : State) (rva x : Word) : State :=
  if fld x 34 30 ≠ 0 then s
  else if fld x 32 2 = 1 then s.reply (fld x 0 32) rva true
  else if fld x 32 2 = 2 then s.reply (fld x 0 32) rva false
  else s

/-! ## Channels -/

/-- A channel. -/
def State.chan (s : State) (c : Nat) : Chan := s.fes.chans.get {} c
/-- Change it. -/
def State.updChan (s : State) (c : Nat) (f : Chan → Chan) : State :=
  { s with fes := { s.fes with chans := s.fes.chans.put c (f (s.chan c)) } }

/-- EN. -/
def Chan.en (c : Chan) : Bool := bitAt c.ctl 0
/-- DEV. -/
def Chan.dev (c : Chan) : Bool := bitAt c.ctl 1
/-- WLD. -/
def Chan.wld (c : Chan) : Bool := bitAt c.ctl 2
/-- LOG2N. -/
def Chan.log2n (c : Chan) : Nat := fld c.ctl 16 4
/-- Entries enqueued and not started. -/
def Chan.fill (c : Chan) : Nat := (c.tail + 2 ^ 32 - c.head) % 2 ^ 32

/-- A write of CTL (R352). EN may be set only once bring-up has reached state 7 (R431). DEDUCED (log entry 27). -/
def Chan.writeCtl (c : Chan) (sec ready : Bool) (x : Word) : Chan :=
  if c.wld && !sec then c
  else
    let ctl := if c.en then c.ctl
      else
        let l := fld x 16 4
        let ctl := setFld c.ctl 1 1 (bit (bitAt x 1))
        let ctl := if sec then setFld ctl 2 1 (bit (bitAt x 2)) else ctl
        if 1 ≤ l ∧ l ≤ 12 then setFld ctl 16 4 l else ctl
    let on := bitAt x 0 && fld ctl 16 4 != 0 && (ready || c.en)
    let ctl := if on && !c.en then setFld ctl 8 8 0 else ctl
    { c with ctl := setFld ctl 0 1 (bit on) }

/-- A write of a channel's CTL. A launch that waits for allocation waits no more once EN is 0, and begins to wait again with
its turn (R358). -/
def State.writeCtl (s : State) (sec : Bool) (ch : Nat) (x : Word) : State :=
  let s := s.updChan ch (fun h => h.writeCtl sec (s.sys.bustat == 7) x)
  if (s.chan ch).en then s
  else { s with fes := { s.fes with entries := s.fes.entries.map (fun (e : Entry) =>
      if e.ch == ch && fld (e.words.getD 0 0) 60 4 == 0 && e.st == .waiting then { e with st := .queued } else e) } }

/-- The FES reads a 64-byte entry of a ring; what it gets when the read is refused is not given. Where its line is poisoned it
takes the bytes as they are, which R353 and R434 do not say. DESIGN CHOICE (log entry 26). -/
def State.readEntry (s : State) (sec : Bool) (pa : Nat) : Option (List Word × State) :=
  match s.engRead false { secure := sec } kERead pa 64 .df with
  | (.wait, _) => none
  | (.ok x _, s) => some ((List.range 8).map (fun i => word (x / 2 ^ (64 * i))), s)
  | (_, s) =>
    some ((List.range 8).map (fun i => Config.freeValue (s.ctr + i)), { s with ctr := s.ctr + 8 })

/-- Enqueue `n` entries of a channel, reading each (R353). -/
def State.enqueue (s : State) (c : Nat) : Nat → Option State
  | 0 => some s
  | n + 1 =>
    let h := s.chan c
    let pa := fld h.base 6 42 * 64 + 64 * (h.tail % 2 ^ h.log2n)
    match s.readEntry h.wld pa with
    | none => none
    | some (ws, s) =>
      let e : Entry := { ch := c, idx := h.tail, words := ws, seed := h.seed }
      let s := s.updChan c (fun h => { h with tail := (h.tail + 1) % 2 ^ 32 })
      ({ s with fes := { s.fes with entries := s.fes.entries ++ [e] } }).enqueue c n

/-- A write of TAIL (R353). -/
def State.writeTail (s : State) (sec : Bool) (c : Nat) (x : Word) : Option State :=
  let h := s.chan c
  let n := (fld x 0 32 + 2 ^ 32 - h.tail) % 2 ^ 32
  if h.wld && !sec then some s
  else if h.dev ∨ n = 0 ∨ 2 ^ h.log2n < n + h.fill then some s
  else s.enqueue c n

/-- A write of a channel register: 0 CTL, 1 BASE, 2 HEAD, 3 TAIL, 4 SEED (R352, R353). -/
def State.writeChan (s : State) (sec : Bool) (c reg : Nat) (x : Word) : Option State :=
  let h := s.chan c
  if h.wld && !sec then some s
  else
    match reg with
    | 0 => some (s.writeCtl sec c x)
    | 1 => some (if h.en then s else s.updChan c (fun h => { h with base := x &&& 0xFFFFFFFFFFC0 }))
    | 3 => s.writeTail sec c x
    | 4 => some (s.updChan c (fun h => { h with seedIn := some x }))
    | _ => some s

/-- A SEED written in a cycle is the channel's seed from the end of the cycle on (R353). -/
def Chan.tick (c : Chan) : Chan := { c with seed := c.seedIn.getD c.seed, seedIn := none }

/-- Does BAR0 map the block of a register (R428)? -/
def SysReg.inBar0 : SysReg → Bool
  | .fwin _ _ _ => false
  | .hbmerr _ => false
  | .asidroot _ => false
  | .coreReg _ _ => false
  | _ => true

/-- A register that the host reaches in recovery (R426). -/
def SysReg.inRecovery : SysReg → Bool
  | .bustat => true
  | .fwstat => true
  | _ => false

/-- Does the link serve a function of the PCIe interface: once it is up, function 1 when the management core has enabled it;
in recovery function 0 alone (R426, R428, R431)? -/
def State.serves (s : State) (function1 : Bool) : Bool :=
  if s.sys.recovery then !function1 else decide (5 ≤ s.sys.bustat) && (!function1 || s.sys.function1)

/-- May a requester reach a register now? The host only through the BAR0 of a function that is served, which in recovery is
narrower (R426, R428). -/
def State.reaches (s : State) (who : Requester) (r : SysReg) : Bool :=
  match who with
  | .host f => s.serves f && (if s.sys.recovery then r.inRecovery else r.inBar0)
  | _ => true

/-- A request that the host may not make completes as an unsupported request, and changes nothing else (R426). -/
def State.unsupported (s : State) : State := { s with sys := { s.sys with hostAns := none } }

/-- What a requester does to a register, which the host may not reach (R426, R428). -/
def State.atReg (s : State) (who : Requester) (r : SysReg) (go : State) : State := if s.reaches who r then go else s.unsupported

/-- CHANNEL_ENABLE (R352): a CTL write with EN 1 to a channel that is not enabled. -/
def execChannelEnable (who : Requester) (ch : Nat) (val : BitVec 64) (s : State) : Out :=
  .next (s.atReg who (.chan ch 0) (if 16 ≤ ch || !bitAt val 0 || (s.chan ch).en then s else s.writeCtl who.secure ch val))

/-- CHANNEL_DISABLE (R352): a CTL write with EN 0 to an enabled channel. -/
def execChannelDisable (who : Requester) (ch : Nat) (val : BitVec 64) (s : State) : Out :=
  .next (s.atReg who (.chan ch 0) (if bitAt val 0 || !(s.chan ch).en then s else s.writeCtl who.secure ch val))

/-- TAIL_WRITE (R353). -/
def execTailWrite (who : Requester) (ch : Nat) (val : BitVec 64) (s : State) : Out :=
  .next (s.atReg who (.chan ch 3) ((s.writeTail who.secure ch val).getD s))

/-- A CANCEL write (R362). -/
def State.writeCancel (s : State) (x : Word) : State :=
  if fld x 19 45 ≠ 0 ∨ fld x 12 4 ≠ 0 ∨ fld x 0 8 ≠ 0 then s
  else
    match s.hallAt (fld x 8 4) (fld x 16 3) with
    | none => s
    | some h => if h.stop = .cancel then s else s.cancelHall h.id

/-- CANCEL (R362). -/
def execCancel (val : BitVec 64) (s : State) : Out := .next (s.writeCancel val)

/-! ## Format windows -/

/-- Do two ranges meet? -/
def rangesMeet (a b : Nat × Nat) : Bool := overlaps a.1 a.2 b.1 b.2

/-- Does a range lie in the HBM of a die? -/
def inDie (d : Nat) (r : Nat × Nat) : Bool := decide (d * 2 ^ 38 ≤ r.1) && decide (r.1 + r.2 ≤ (d + 1) * 2 ^ 38)

/-- The conditions of R101 for enabling a window. -/
def State.fwinOk (s : State) (k : Nat) (f : FWin) : Bool :=
  let d := k / 16
  decide (2 ≤ f.pln) && decide (f.pln ≤ 8) && decide (1 ≤ f.rdk) && decide (f.rdk ≤ f.pln) && decide (1 ≤ f.g) &&
    f.ranges.all (inDie d) &&
    !rangesMeet (f.ranges.getD 0 (0, 0)) (f.ranges.getD 1 (0, 0)) &&
    !rangesMeet (f.ranges.getD 0 (0, 0)) (f.ranges.getD 2 (0, 0)) &&
    !rangesMeet (f.ranges.getD 1 (0, 0)) (f.ranges.getD 2 (0, 0)) &&
    (s.fwins d).all (fun g => f.ranges.all (fun a => g.ranges.all (fun b => !rangesMeet a b)))

/-- The writable fields of CTL. -/
def fwinMask : Word := 0xFFFFFF0000004FF0

/-- Replace a window. -/
def State.setFwin (s : State) (k : Nat) (f : FWin) : State := { s with sys := { s.sys with fwin := s.sys.fwin.put k f } }

/-- A write of a window register: 0 CTL, 1 VIEW, 2 STOR, 3 SCL (R100 to R102). A CTL write that clears EN changes no other
field: "while EN is 1, writes to the window's registers are ignored, except a write that clears EN" does not say whether its
other fields are written. DEDUCED (log entry 43). -/
def State.writeFwin (s : State) (sec : Bool) (k reg : Nat) (x : Word) : State :=
  let f := s.fwin k
  if f.wld && !sec then s
  else if f.en then (if reg = 0 ∧ !bitAt x 0 then s.setFwin k { f with closing := true } else s)
  else
    match reg with
    | 0 =>
      let m := if sec then fwinMask else setFld fwinMask 14 1 0
      let g := { f with ctl := (x &&& m) ||| (f.ctl &&& ~~~m) }
      if !bitAt x 0 then s.setFwin k g
      else if s.fwinOk k g then s.setFwin k { g with ctl := setFld (setFld g.ctl 15 1 0) 0 1 1 }
      else s.setFwin k { g with ctl := setFld g.ctl 15 1 1 }
    | 1 => s.setFwin k { f with view := x &&& 0xFFFFFFFFFF80 }
    | 2 => s.setFwin k { f with stor := x &&& 0xFFFFFFFFFF80 }
    | _ => s.setFwin k { f with scl := x &&& 0xFFFFFFFFFFFF }

/-- FWIN_ENABLE (R101): a CTL write with EN 1 to a window that is not enabled; the package has 32 windows (R100). -/
def execFwinEnable (who : Requester) (win : Nat) (val : BitVec 64) (s : State) : Out :=
  .next (s.atReg who (.fwin (win / 16) (win % 16) 0)
    (if 32 ≤ win || !bitAt val 0 || (s.fwin win).en then s else s.writeFwin who.secure win 0 val))

/-- FWIN_DISABLE (R102): a CTL write that clears EN; the slices begin to write back and drop the view's lines. -/
def execFwinDisable (who : Requester) (win : Nat) (val : BitVec 64) (s : State) : Out :=
  .next (s.atReg who (.fwin (win / 16) (win % 16) 0)
    (if 32 ≤ win || bitAt val 0 || !(s.fwin win).en then s else s.writeFwin who.secure win 0 val))

/-- Is a line in the view of a window? -/
def FWin.views (f : FWin) (line : Nat) : Bool := decide (f.vbase ≤ line * 128) && decide (line * 128 < f.vbase + 128 * f.g)

/-- The lines of a view that slices hold or that bays hold update-only. -/
def State.viewLines (s : State) (f : FWin) : List Nat :=
  s.slices.flatMap (fun e => (e.2.lines.map (fun c => c.line) ++ e.2.holders.map (fun h => h.1)).filter f.views)

/-- FWIN_DISABLE_DONE (R102): every line of the view has been written back and dropped; EN reads 0. -/
def execFwinDisableDone (win : Nat) (s : State) : Out :=
  .next (
    let f := s.fwin win
    if !f.en || !f.closing || (s.viewLines f).any s.recallWaits then s
    else
      let s := (s.viewLines f).foldl (fun s l => s.evictLine l) s
      s.setFwin win { f with ctl := setFld f.ctl 0 1 0, closing := false })

/-! ## Counters, logs and the mailbox -/

/-- A write to HBMERR clears the counter bits written as ones (R99). -/
def State.writeHbmerr (s : State) (st : Nat) (x : Word) : State :=
  { s with sys := { s.sys with hbmerr := s.sys.hbmerr.set 0 st (s.hbmerr st &&& ~~~(x &&& 0xFFFFFF0000000000)) } }

/-- HBMERR_CLEAR (R99). -/
def execHbmerrClear (stack : Nat) (val : BitVec 64) (s : State) : Out := .next (s.writeHbmerr stack val)

/-- A write to the log control register: CLR clears TOTAL, NEXT and every V; N requesters cannot (R425). -/
def State.writeVlog (s : State) (sec : Bool) (d : Nat) (x : Word) : State :=
  if sec && bitAt x 31 then
    let l := s.sys.vlog.get {} d
    let l' : VLog := { total := 0, next := 0, ents := l.ents.map (fun e => (e.1, (setFld e.2.1 63 1 0, e.2.2))), last := l.last }
    { s with sys := { s.sys with vlog := s.sys.vlog.put d l' } }
  else s

/-- LOG_CLEAR (R425). -/
def execLogClear (who : Requester) (die : Nat) (val : BitVec 64) (s : State) : Out :=
  .next (s.atReg who (.vlogCtl die) (s.writeVlog who.secure die val))

/-- The status word of a link or port (R430). -/
def Link.status (l : Link) : Word := word (l.errcnt.toNat * 2 ^ 32 + l.retrains.toNat * 2 ^ 16 + l.state)

/-- A write clears the ERRCNT bits written as ones (R430). -/
def Link.clearErr (l : Link) (x : Word) : Link := { l with errcnt := l.errcnt &&& ~~~(BitVec.ofNat 32 (fld x 32 32)) }

/-- ERRCNT_CLEAR (R430): links 0 and 1 of the Ilupol bridge, then Harpin port p as 2 + p. -/
def State.writeErrcnt (s : State) (l : Nat) (x : Word) : State :=
  if l < 2 then { s with sys := { s.sys with links := s.sys.links.put l ((s.sys.links.get {} l).clearErr x) } }
  else { s with sys := { s.sys with ports := s.sys.ports.put (l - 2) ((s.sys.ports.get {} (l - 2)).clearErr x) } }

/-- ERRCNT_CLEAR (R430). -/
def execErrcntClear (link : Nat) (val : BitVec 64) (s : State) : Out := .next (s.writeErrcnt link val)

/-- A write to ATTCMD: 1 starts a quote unless one is being made (R427). -/
def State.writeAttcmd (s : State) (x : Word) : State :=
  if x = 1 ∧ s.sys.attstat ≠ 1 then { s with sys := { s.sys with attstat := 1 } } else s

/-- ATTCMD (R427). -/
def execAttcmd (val : BitVec 64) (s : State) : Out := .next (s.writeAttcmd val)

/-! ## Reading and writing any register -/

/-- Trap registers as software writes them (R403): 0 TVEC, 1 TPC, 2 TCAUSE, 3 TVAL. -/
def Core.writeTrapReg (c : Core) (n : Nat) (x : Word) : Core :=
  match n with
  | 0 => { c with tvec := x &&& ~~~3 }
  | 1 => { c with tpc := x &&& ~~~3 }
  | 2 => { c with tcause := (c.tcause &&& 0x200) ||| (x &&& 0x1FF) }
  | _ => { c with tval := x }

/-- Trap registers as software reads them. -/
def Core.readTrapReg (c : Core) (n : Nat) : Word :=
  match n with
  | 0 => c.tvec
  | 1 => c.tpc
  | 2 => c.tcause
  | _ => c.tval

/-- A region register pair. -/
def State.region (s : State) (d n : Nat) : Region := s.sys.regions.get {} (d * 64 + n)
/-- Replace it. -/
def State.setRegion (s : State) (d n : Nat) (r : Region) : State :=
  { s with sys := { s.sys with regions := s.sys.regions.put (d * 64 + n) r } }

/-- What a register reads as; a write-only register reads zero (R9). DEDUCED (log entry 7). -/
def State.regValue (s : State) (r : SysReg) : Word :=
  match r with
  | .fwin d n k =>
    let f := s.fwin (d * 16 + n)
    if k = 0 then f.ctl else if k = 1 then f.view else if k = 2 then f.stor else f.scl
  | .hbmerr st => s.hbmerr st
  | .chan c k =>
    let h := s.chan c
    if k = 0 then h.ctl else if k = 1 then h.base else if k = 2 then word h.head else if k = 3 then word h.tail else h.seedIn.getD h.seed
  | .cancel => 0
  | .prebase => s.sys.prebase
  | .precmd => 0
  | .prestat => word s.sys.prestat
  | .asidroot a => s.sys.asidroot.get 0 a
  | .coreReg ck k => if k < 4 then (s.core ck).readTrapReg k else 0
  | .rbase d n => (s.region d n).base
  | .rlim d n => (s.region d n).lim
  | .vlogCtl d =>
    let l := s.sys.vlog.get {} d
    word (l.total.toNat * 2 ^ 32 + l.next)
  | .vlogEnt d i w =>
    let e := (s.sys.vlog.get {} d).ents.get (0, 0) i
    if w = 0 then e.1 else e.2
  | .link l => (s.sys.links.get {} l).status
  | .port p => (s.sys.ports.get {} p).status
  | .wear i => s.sys.wear.get 0 i
  | .withheld i => (s.sys.withheld >>> (64 * i)).setWidth 64
  | .bustat => word s.sys.bustat
  | .fwstat => s.sys.fwstat
  | .nonce i => word (readBytes s.sys.nonce (8 * i) 8)
  | .attcmd => 0
  | .attstat => word s.sys.attstat
  | .quote i => word (ofBytes ((s.sys.quote.drop (8 * i)).take 8))
  | .route p w =>
    let t := s.sys.routes.get {} p
    if w = 0 then t.hdr else word (16 * bit t.v + t.out.toNat)
  | .pkgid => s.sys.pkgid

/-- A privileged read of a register of system space (R145). -/
def sysRead (r : SysReg) (s : State) : Word × State := (s.regValue r, s)

/-- A write of a register by a requester of a world; none while it has to wait. Fields that are read only keep
their values (R9). -/
def State.regWrite (s : State) (sec : Bool) (r : SysReg) (x : Word) : Option State :=
  match r with
  | .fwin d n k => some (s.writeFwin sec (d * 16 + n) k x)
  | .hbmerr st => some (s.writeHbmerr st x)
  | .chan c k => s.writeChan sec c k x
  | .cancel => some (s.writeCancel x)
  | .prebase => some { s with sys := { s.sys with prebase := x &&& 0xFFFFFFFF0000 } }
  | .precmd => if s.precmdWaits x then none else some ((s.precmdSave x).precmdRestore x)
  | .asidroot a => some { s with sys := { s.sys with asidroot := s.sys.asidroot.set 0 a (x &&& 0xFFFFFFFF0001) } }
  | .coreReg ck k =>
    some (if k < 4 then s.updCore ck (fun c => c.writeTrapReg k x)
      else if k = 4 then s.updCore ck (fun c => { c with rva := x })
      else s.writeRcmd (s.core ck).rva x)
  | .rbase d n => some (if sec then s.setRegion d n { s.region d n with base := x &&& 0xFFFFFFFF0003 } else s)
  | .rlim d n => some (if sec then s.setRegion d n { s.region d n with lim := x &&& 0xFFFFFFFF0000 } else s)
  | .vlogCtl d => some (s.writeVlog sec d x)
  | .link l => some (s.writeErrcnt l x)
  | .port p => some (s.writeErrcnt (2 + p) x)
  | .nonce i => some { s with sys := { s.sys with nonce := writeBytes s.sys.nonce (8 * i) 8 x.toNat } }
  | .attcmd => some (s.writeAttcmd x)
  | .route p w =>
    some (if !sec then s
      else
        let t := s.sys.routes.get {} p
        let t := if w = 0 then { t with hdr := x } else { t with v := bitAt x 4, out := BitVec.ofNat 4 (fld x 0 4) }
        { s with sys := { s.sys with routes := s.sys.routes.put p t } })
  | .pkgid =>
    some (if sec && fld x 0 16 != 0xFFFF then { s with sys := { s.sys with pkgid := x &&& 0xFFFF } } else s)
  | _ => some s

/-- A privileged core's write of a register of system space (R145). -/
def sysWrite (r : SysReg) (x : Word) (s : State) : Option State := s.regWrite s.myHall.secure r x

/-- REGISTER_WRITE (R9): a write to a register of system space; the host's to an offset that its BAR0 does not map is refused
(R428). -/
def execRegisterWrite (who : Requester) (off val : BitVec 64) (s : State) : Out :=
  .next (match sysReg? off.toNat with
    | none => (match who with | .host _ => s.unsupported | _ => s)
    | some r => s.atReg who r ((s.regWrite who.secure r val).getD s))

end Sys2Proof.Machine
end

