-- ==== Sys2Proof/Machine/Memory.lean ====
section
/-!
DEFINITION. Scalar loads and stores (R133, R134), PREF and EVICT (R135, R136), vector loads and stores (R137,
R138).
-/

namespace Sys2Proof.Machine

open Sys2Proof

/-- A scalar load (R134). -/
def execLoad (d a : Reg) (la : BitVec 4) (h : Hint) (off : Word) (len size : Nat) (sext sysOk : Bool) (s : State) : Out :=
  s.runs { len := len, rs := [a.toNat], ws := [d.toNat], long := true } (fun s =>
    s.loadElems (greg s.lv d.toNat) la h sext 0 sysOk sysRead [{ n := size, addr := s.src a + off }])

/-- A scalar store (R134). -/
def execStore (d a : Reg) (h : Hint) (off : Word) (len size : Nat) (sysOk : Bool) (s : State) : Out :=
  s.runs { len := len, rs := [d.toNat, a.toNat] } (fun s =>
    s.storeElems h sysOk sysWrite [({ n := size, addr := s.src a + off }, (s.src d).toNat % 2 ^ (8 * size))])

/-- The request that carries a PREF or EVICT of the line that holds a physical address. -/
def lineReq (op : ReqOp) (h : Hint) (va : Word) (pa : Nat) : Req :=
  { op := op, va := va, loc := .glob (lineOf pa * 128), n := 128, bytes := BitVec.ofNat 128 (2 ^ (pa % 128)), hint := h }

/-- A PREF or EVICT of the line at an address: a request to the home slice that holds the line; where the address is not in
the global window, its page faults, or the line is host memory, nothing (R135, R136). EVICT too is translated as a load, where
R136 does not say as what. DESIGN CHOICE (log entry 43). -/
def quietBody (op : ReqOp) (h : Hint) (a : Word) (s : State) : Res :=
  match s.steer s.cur s.me.pv a with
  | some (.glob va) =>
    match s.translate (bayOf s.cur) .vlt s.rqst s.myHall.asid va 0 s.me.pv with
    | (.phys pa, s) => .done (if isHost pa then s else s.send (lineReq op h a pa))
    | (.fault _, s) => .done s
    | (.wait, _) => .stall
  | _ => .done s

/-- PREF (R135). -/
def prefBody (h : Hint) (a : Word) (s : State) : Res := quietBody .pref h a s

/-- EVICT (R136): it goes to the home slice in the core's request order, and has its effect there (State.evictAt). -/
def evictBody (h : Hint) (a : Word) (s : State) : Res := quietBody .evict h a s

/-! ## Vectors -/

/-- The active lanes of a vector access, with their addresses. -/
def State.vElems (s : State) (gu : Guard) (ty : Nat) (addr : Nat → Word) : List Elem :=
  let w := bitsOf ty / 8
  ((List.range (128 / w)).filter (s.active gu ty)).map (fun i => { idx := i, byte := i * w, n := w, addr := addr i })

/-- The bytes of the lanes of a list. -/
def elemBytes (es : List Elem) : BitVec 128 :=
  es.foldl (fun m e => m ||| BitVec.ofNat 128 ((2 ^ e.n - 1) * 2 ^ e.byte)) 0

/-- A vector load; `unit` marks a VLD, whose aligned line is one access (R138). -/
def execVload (gu : Guard) (la ty : BitVec 4) (h : Hint) (d : VReg) (rs : List Reg) (vs : List VReg) (len : Nat)
    (unit : Bool) (addr : State → Nat → Word) (s : State) : Out :=
  s.runs { len := len, on := s.vguard gu ty.toNat, rs := rs.map (fun r => r.toNat), vs := vs.map (fun v => v.toNat), vw := [d.toNat], long := true }
    (fun s =>
      let es := s.vElems gu ty.toNat (addr s)
      let mask := laneMask (bitsOf ty.toNat) (s.active gu ty.toNat)
      match es with
      | [] => .done s
      | e :: _ =>
        if unit && (addr s 0).toNat % 128 == 0 then s.loadLine d la h (elemBytes es) mask e es
        else s.loadElems (some (.v d.toNat)) la h false mask false sysRead es)

/-- A vector store. -/
def execVstore (gu : Guard) (ty : BitVec 4) (h : Hint) (d : VReg) (rs : List Reg) (vs : List VReg) (len : Nat)
    (unit : Bool) (addr : State → Nat → Word) (s : State) : Out :=
  s.runs { len := len, on := s.vguard gu ty.toNat, rs := rs.map (fun r => r.toNat), vs := d.toNat :: vs.map (fun v => v.toNat) }
    (fun s =>
      let es := s.vElems gu ty.toNat (addr s)
      match es with
      | [] => .done s
      | e :: _ =>
        if unit && (addr s 0).toNat % 128 == 0 then s.storeLineV h (s.srcV d) (elemBytes es) e es
        else s.storeElems h false sysWrite (es.map (fun e => (e, lane (s.srcV d) (bitsOf ty.toNat) e.idx))))

/-- The scaled index of a gather or scatter lane (R137). -/
def indexed (ty : Nat) (v : Vec) (i : Nat) : Word :=
  BitVec.ofInt 64 (sintN (lane v (bitsOf ty) i) (bitsOf ty) * (bitsOf ty / 8 : Nat))

/-- LDB (R134). -/
def execLdb (d a : Reg) (la : BitVec 4) (rh : Hint) (off : BitVec 6) (s : State) : Out :=
  execLoad d a la rh (offVal off 1) 4 1 false false s

/-- LDB_LITERAL (R134). -/
def execLdbLiteral (d a : Reg) (la : BitVec 4) (rh : Hint) (lit : BitVec 64) (s : State) : Out :=
  execLoad d a la rh lit 12 1 false false s

/-- LDBS (R134). -/
def execLdbs (d a : Reg) (la : BitVec 4) (rh : Hint) (off : BitVec 6) (s : State) : Out :=
  execLoad d a la rh (offVal off 1) 4 1 true false s

/-- LDBS_LITERAL (R134). -/
def execLdbsLiteral (d a : Reg) (la : BitVec 4) (rh : Hint) (lit : BitVec 64) (s : State) : Out :=
  execLoad d a la rh lit 12 1 true false s

/-- LDH (R134). -/
def execLdh (d a : Reg) (la : BitVec 4) (rh : Hint) (off : BitVec 6) (s : State) : Out :=
  execLoad d a la rh (offVal off 2) 4 2 false false s

/-- LDH_LITERAL (R134). -/
def execLdhLiteral (d a : Reg) (la : BitVec 4) (rh : Hint) (lit : BitVec 64) (s : State) : Out :=
  execLoad d a la rh lit 12 2 false false s

/-- LDHS (R134). -/
def execLdhs (d a : Reg) (la : BitVec 4) (rh : Hint) (off : BitVec 6) (s : State) : Out :=
  execLoad d a la rh (offVal off 2) 4 2 true false s

/-- LDHS_LITERAL (R134). -/
def execLdhsLiteral (d a : Reg) (la : BitVec 4) (rh : Hint) (lit : BitVec 64) (s : State) : Out :=
  execLoad d a la rh lit 12 2 true false s

/-- LDW (R134). -/
def execLdw (d a : Reg) (la : BitVec 4) (rh : Hint) (off : BitVec 6) (s : State) : Out :=
  execLoad d a la rh (offVal off 4) 4 4 false false s

/-- LDW_LITERAL (R134). -/
def execLdwLiteral (d a : Reg) (la : BitVec 4) (rh : Hint) (lit : BitVec 64) (s : State) : Out :=
  execLoad d a la rh lit 12 4 false false s

/-- LDWS (R134). -/
def execLdws (d a : Reg) (la : BitVec 4) (rh : Hint) (off : BitVec 6) (s : State) : Out :=
  execLoad d a la rh (offVal off 4) 4 4 true false s

/-- LDWS_LITERAL (R134). -/
def execLdwsLiteral (d a : Reg) (la : BitVec 4) (rh : Hint) (lit : BitVec 64) (s : State) : Out :=
  execLoad d a la rh lit 12 4 true false s

/-- LDD (R134). -/
def execLdd (d a : Reg) (la : BitVec 4) (rh : Hint) (off : BitVec 6) (s : State) : Out :=
  execLoad d a la rh (offVal off 8) 4 8 false true s

/-- LDD_LITERAL (R134). -/
def execLddLiteral (d a : Reg) (la : BitVec 4) (rh : Hint) (lit : BitVec 64) (s : State) : Out :=
  execLoad d a la rh lit 12 8 false true s

/-- STB (R134). -/
def execStb (d a : Reg) (rh : Hint) (off : BitVec 6) (s : State) : Out :=
  execStore d a rh (offVal off 1) 4 1 false s

/-- STB_LITERAL (R134). -/
def execStbLiteral (d a : Reg) (rh : Hint) (lit : BitVec 64) (s : State) : Out :=
  execStore d a rh lit 12 1 false s

/-- STH (R134). -/
def execSth (d a : Reg) (rh : Hint) (off : BitVec 6) (s : State) : Out :=
  execStore d a rh (offVal off 2) 4 2 false s

/-- STH_LITERAL (R134). -/
def execSthLiteral (d a : Reg) (rh : Hint) (lit : BitVec 64) (s : State) : Out :=
  execStore d a rh lit 12 2 false s

/-- STW (R134). -/
def execStw (d a : Reg) (rh : Hint) (off : BitVec 6) (s : State) : Out :=
  execStore d a rh (offVal off 4) 4 4 false s

/-- STW_LITERAL (R134). -/
def execStwLiteral (d a : Reg) (rh : Hint) (lit : BitVec 64) (s : State) : Out :=
  execStore d a rh lit 12 4 false s

/-- STD (R134). -/
def execStd (d a : Reg) (rh : Hint) (off : BitVec 6) (s : State) : Out :=
  execStore d a rh (offVal off 8) 4 8 true s

/-- STD_LITERAL (R134). -/
def execStdLiteral (d a : Reg) (rh : Hint) (lit : BitVec 64) (s : State) : Out :=
  execStore d a rh lit 12 8 true s

/-- PREF (R135). -/
def execPref (a : Reg) (rh : Hint) (off : BitVec 6) (s : State) : Out :=
  s.runs { rs := [a.toNat] } (fun s => prefBody rh (s.src a + offVal off 8) s)

/-- PREF_LITERAL (R135). -/
def execPrefLiteral (a : Reg) (rh : Hint) (lit : BitVec 64) (s : State) : Out :=
  s.runs { len := 12, rs := [a.toNat] } (fun s => prefBody rh (s.src a + lit) s)

/-- EVICT (R136). -/
def execEvict (a : Reg) (rh : Hint) (off : BitVec 6) (s : State) : Out :=
  s.runs { rs := [a.toNat] } (fun s => evictBody rh (s.src a + offVal off 8) s)

/-- EVICT_LITERAL (R136). -/
def execEvictLiteral (a : Reg) (rh : Hint) (lit : BitVec 64) (s : State) : Out :=
  s.runs { len := 12, rs := [a.toNat] } (fun s => evictBody rh (s.src a + lit) s)

/-- VLD (R138). -/
def execVld (gu : Guard) (la ty : BitVec 4) (rh : Hint) (d : VReg) (a : Reg) (imm : BitVec 24) (s : State) : Out :=
  execVload gu la ty rh d [a] [] xlen true (fun s i => s.src a + (imm24 imm) + word (i * (bitsOf ty.toNat / 8))) s

/-- VST (R138). -/
def execVst (gu : Guard) (ty : BitVec 4) (rh : Hint) (d : VReg) (a : Reg) (imm : BitVec 24) (s : State) : Out :=
  execVstore gu ty rh d [a] [] xlen true (fun s i => s.src a + (imm24 imm) + word (i * (bitsOf ty.toNat / 8))) s

/-- VLDS (R138). -/
def execVlds (gu : Guard) (la ty : BitVec 4) (rh : Hint) (d : VReg) (a b : Reg) (imm : BitVec 24) (s : State) : Out :=
  execVload gu la ty rh d [a, b] [] xlen false (fun s i => s.src a + (imm24 imm) + word i * s.src b) s

/-- VSTS (R138). -/
def execVsts (gu : Guard) (ty : BitVec 4) (rh : Hint) (d : VReg) (a b : Reg) (imm : BitVec 24) (s : State) : Out :=
  execVstore gu ty rh d [a, b] [] xlen false (fun s i => s.src a + (imm24 imm) + word i * s.src b) s

/-- VGATH (R138). -/
def execVgath (gu : Guard) (la ty : BitVec 4) (rh : Hint) (d : VReg) (a : Reg) (b : VReg) (imm : BitVec 24) (s : State) : Out :=
  execVload gu la ty rh d [a] [b] xlen false (fun s i => s.src a + (imm24 imm) + indexed ty.toNat (s.srcV b) i) s

/-- VSCAT (R138). -/
def execVscat (gu : Guard) (ty : BitVec 4) (rh : Hint) (d : VReg) (a : Reg) (b : VReg) (imm : BitVec 24) (s : State) : Out :=
  execVstore gu ty rh d [a] [b] xlen false (fun s i => s.src a + (imm24 imm) + indexed ty.toNat (s.srcV b) i) s

/-- VLD_LITERAL (R138). -/
def execVldLiteral (gu : Guard) (la ty : BitVec 4) (rh : Hint) (d : VReg) (a : Reg) (lit : BitVec 64) (s : State) : Out :=
  execVload gu la ty rh d [a] [] xlenLit true (fun s i => s.src a + lit + word (i * (bitsOf ty.toNat / 8))) s

/-- VST_LITERAL (R138). -/
def execVstLiteral (gu : Guard) (ty : BitVec 4) (rh : Hint) (d : VReg) (a : Reg) (lit : BitVec 64) (s : State) : Out :=
  execVstore gu ty rh d [a] [] xlenLit true (fun s i => s.src a + lit + word (i * (bitsOf ty.toNat / 8))) s

/-- VLDS_LITERAL (R138). -/
def execVldsLiteral (gu : Guard) (la ty : BitVec 4) (rh : Hint) (d : VReg) (a b : Reg) (lit : BitVec 64) (s : State) : Out :=
  execVload gu la ty rh d [a, b] [] xlenLit false (fun s i => s.src a + lit + word i * s.src b) s

/-- VSTS_LITERAL (R138). -/
def execVstsLiteral (gu : Guard) (ty : BitVec 4) (rh : Hint) (d : VReg) (a b : Reg) (lit : BitVec 64) (s : State) : Out :=
  execVstore gu ty rh d [a, b] [] xlenLit false (fun s i => s.src a + lit + word i * s.src b) s

/-- VGATH_LITERAL (R138). -/
def execVgathLiteral (gu : Guard) (la ty : BitVec 4) (rh : Hint) (d : VReg) (a : Reg) (b : VReg) (lit : BitVec 64) (s : State) : Out :=
  execVload gu la ty rh d [a] [b] xlenLit false (fun s i => s.src a + lit + indexed ty.toNat (s.srcV b) i) s

/-- VSCAT_LITERAL (R138). -/
def execVscatLiteral (gu : Guard) (ty : BitVec 4) (rh : Hint) (d : VReg) (a : Reg) (b : VReg) (lit : BitVec 64) (s : State) : Out :=
  execVstore gu ty rh d [a] [b] xlenLit false (fun s i => s.src a + lit + indexed ty.toNat (s.srcV b) i) s

end Sys2Proof.Machine
end

