-- ==== Sys2Proof/Machine/Sync.lean ====
section
/-!
DEFINITION. Atomics with return, reductions and exact accumulation (R246 to R253).
-/

namespace Sys2Proof.Machine

open Sys2Proof

/-! ## Accesses performed at issue -/

/-- What an access performed at issue comes to: the bytes and the place, a trap, a page fault, or not yet. -/
inductive Now where
  | ok (x : Nat) (l : Loc) (s : State)
  | trap (s : State) (code : Nat) (tval : Word)
  | page (s : State) (va : Word) (why : BitVec 2)
  | stall

/-- A trap, page fault or stall as the result of an instruction; `f` goes on with the bytes. -/
def Now.res (n : Now) (acc : Acc) (f : Nat → Loc → State → Res) : Res :=
  match n with
  | .ok x l s => f x l s
  | .trap s c v => .trap s c v
  | .page s v w => .page s v acc w false
  | .stall => .stall

/-- Does an access of the core to a place of another core's scratchpad, or its own, wait for range-scoreboard entries, or for
its turn in the next cycle (R141, R148)? -/
def State.scoreWaits (s : State) (l : Loc) (n : Nat) : Bool := s.overScore l n || s.outOfTurn s.cur l n

/-- A core's access at issue has been made at the home slice: its answer brings the core the SSN, and the bay's copy of
the line is brought up to date (R127, R128, R269, R270). -/
def State.nowDone (s : State) (pa : Nat) : State :=
  if isHost pa then s.witness s.cur pa (some (s.ssnOf pa))
  else (s.witness s.cur pa (some (s.ssnOf pa))).l1Sync (bayOf s.cur) (lineOf pa)

/-- Read `n` bytes at a place as one access, so that a later load reads nothing older (R269). It is made once the core's
earlier accesses to the same target have been performed, and its stores to these bytes acknowledged; `write` when a write
of the same bytes is to follow in the same step (R247, R248). DEDUCED (log entry 12). -/
def State.nowAt (s : State) (l : Loc) (n : Nat) (a : Word) (kind : Nat) (write : Bool) (h : Hint := .df) : Now :=
  if s.pendingAt l || s.unacked l n || s.scoreWaits l n || (l.isGlob && s.nmHolds s.cur s.ctr) then .stall
  else
    match l with
    | .glob pa =>
      match s.wayToSlice (tileOf s.cur) (homeSlice pa) with
      | .wait => .stall
      | .dead => .trap s tREFUSED a
      | .clear =>
        let (bad, t) := s.check s.rqst kind pa n
        if bad || (write && (isHost pa || s.viewReadOnly (lineOf pa))) then .trap t tREFUSED a
        else if isHost pa then .ok (t.hostRead pa n) l (t.nowDone pa)
        else if !s.free (lineOf pa) write then .stall
        else
          let (x, p, t) := t.lineRead pa n h
          let t := t.nowDone pa
          if p then .trap t tPOISON a else .ok x l t
    | _ =>
      match s.wayBetween (tileOf s.cur) l.tile with
      | .wait => .stall
      | .dead => .trap s tREFUSED a
      | .clear => .ok (s.locRead l n) l (s.noteReach s.cur l n)

/-- Write `n` bytes at the place of an access at issue, in the step in which it has read them (R127, R128). -/
def State.nowWrite (s : State) (l : Loc) (n x : Nat) : State :=
  let (_, s) := s.writeAt l n x .df
  match l with
  | .glob pa => s.nowDone pa
  | _ => s

/-- Place an address of the executing thread, outside system space, and read `n` bytes there at once. The address
has been checked for alignment. -/
def State.nowRead (s : State) (a : Word) (n : Nat) (acc : Acc) (kind : Nat) (write : Bool) (h : Hint := .df) : Now :=
  match s.place acc false a with
  | (.trap c v, _) => .trap s c v
  | (.sys _, _) => .trap s tAPERTURE a
  | (.page v w, t) => .page t v w
  | (.wait, _) => .stall
  | (.loc l, t) => if write && t.overBarrier l n then .trap s tCLOBBER a else t.nowAt l n a kind write h

/-- The answer of a long-latency instruction that is known at once (R47). -/
def State.answer (s : State) (d : Reg) (la : BitVec 4) (x : Word) : State :=
  s.enterPend { s.newPend (greg s.lv d.toNat) la.toNat 0 .other 0 with val := x.setWidth 1024 }

/-! ## Atomics with return -/

/-- The operands of an atomic are an element of `n` bytes at an address. -/
def State.atomicReq (s : State) (d : Reg) (la : BitVec 4) (r : Req) (acc : Acc) (write : Bool) : Res :=
  match (s.me.thr s.lv).hold with
  | .answered _ => .done s
  | _ =>
    if r.va.toNat % r.n ≠ 0 then .trap s tALIGN r.va
    else
      match s.place acc false r.va with
      | (.trap c v, _) => .trap s c v
      | (.sys _, _) => .trap s tAPERTURE r.va
      | (.page v w, t) => .page t v acc w false
      | (.wait, _) => .stall
      | (.loc l, t) =>
        if write && s.overBarrier l r.n then .trap s tCLOBBER r.va
        else if s.ownScore l r.n || s.rmwAwaited l r.n then .stall
        else
          let held := l.isGlob || l.acrossFrom s.cur
          let cls := match r.op with | .xrnd _ _ _ _ => PCls.xrnd | _ => .mem
          let p := { t.newPend (greg t.lv d.toNat) la.toNat 1 cls 0 with acc := bit held }
          let t := (t.enterPend p).send { r with loc := l, pend := some p.id }
          if held then .wait t (.access p.id) else .done t

/-- AMOADD to AMOCAS (R249). -/
def execAmo (gu : Guard) (la ty : BitVec 4) (op : RmwOp) (h : Hint) (d a b c : Reg) (len : Nat) (off : Word) (s : State) : Out :=
  let n := if ty = 12 then 8 else 4
  s.runs { len := len, on := s.guard gu, rs := [a.toNat, b.toNat, c.toNat], ws := [d.toNat], long := true } (fun s =>
    s.atomicReq d la
      { op := .amo op ty.toNat, va := s.src a + off, n := n, data := BitVec.ofNat 1024 ((s.src b).toNat % 2 ^ (8 * n)),
        cmp := word ((s.src c).toNat % 2 ^ (8 * n)), hint := h, sext := ty != 15 } 3 true)

/-! ## Reductions -/

/-- Has the core an access to the line that is not performed, or a write to it that is not acknowledged (R274, R275)? -/
def State.linePending (s : State) (line : Nat) : Bool :=
  s.flight.any (fun r => r.core == s.cur && !(r.performed && r.op.isRead) &&
    match r.loc with | .glob pa => lineOf pa == line | _ => false)

/-- Does a line held update-only take this reduction as it stands (R250)? -/
def ULine.takes (u : ULine) (op : ReqOp) : Bool :=
  match op with
  | .rd o ty => !u.xacc && u.op == o && u.ty == ty
  | .xadd _ => u.xacc
  | _ => false

/-- A fresh update-only line: every element at the identity (R250). -/
def freshU (line : Nat) (op : ReqOp) : ULine :=
  match op with
  | .rd o ty =>
    let w := bitsOf ty
    { line := line, op := o, ty := ty, data := ofLanes w ((List.range (1024 / w)).map (fun _ => rmwIdentity o ty)) }
  | _ => { line := line, xacc := true }

/-- Apply a reduction of `n` bytes at byte `i` of the line; `who` is the thread to hear of a poisoned combine. -/
def ULine.apply (u : ULine) (op : ReqOp) (i n : Nat) (x : Nat) (who : List (Nat × Bool)) : ULine :=
  let old := vecBytes u.data i n
  let new := match op with
    | .rd o ty => (rmwNew o ty old x 0).getD old
    | .xadd ty => xaccAdd false old (xaddTerm ty (word x))
    | _ => old
  { u with data := blend u.data (atByte new i) (byteMask i n), owners := who.filter (fun w => !u.owners.contains w) ++ u.owners }

/-- A bay opens a line update-only: its clean copy is dropped, no older answer brings it back, and it registers with the
home slice. -/
def State.openU (s : State) (bk : Nat) (u : ULine) : State :=
  let s := s.l1Clean bk (fun l => l == u.line)
  let s := s.updBay bk (fun b => { b with u := { u with stamp := s.stepNo } :: b.u })
  let k := homeSlice (u.line * 128)
  let sl := s.slice k
  s.setSlice k { sl with holders := sl.holders ++ [(u.line, bk)] }

/-- Is a line known to be poisoned at its home slice? -/
def State.knownBad (s : State) (line : Nat) : Bool :=
  match s.cline? line with
  | some c => c.poison
  | none => s.poisoned line

/-- A reduction to a global HBM line that may be changed now: in the bay's update-only line, or, when eight bays
hold the line, at the home slice (R250). On a line known to be poisoned the failure is reported at once, on one that
proves poisoned when the copies are combined, then (R248). DEDUCED (log entry 25). -/
def State.reduceGlob (s : State) (r : Req) (pa : Nat) : State :=
  let bk := bayOf s.cur
  let line := lineOf pa
  let bad := s.knownBad line
  let who := if bad then [] else [(s.cur, s.lv)]
  let x := r.data.toNat
  let s := if bad then s.addFail s.cur s.lv (.glob pa) true else s
  let s := match (s.bay bk).uline? line with
    | some u => if u.takes r.op then s else s.combine line [bk]
    | none => s
  match (s.bay bk).uline? line with
  | some _ =>
    let use : ULine → ULine := fun u => { u.apply r.op (pa % 128) r.n x who with stamp := s.stepNo }
    s.updBay bk (fun b => { b with u := updFirst (fun u => u.line == line) use b.u })
  | none =>
    if (s.holdersOf line).length < 8 then s.openU bk ((freshU line r.op).apply r.op (pa % 128) r.n x who)
    else s.send r

/-- Room in the L1 for a line that a reduction is to open there; none while there is none (R130, R250). -/
def State.reduceRoom (s : State) (pa : Nat) : Option State :=
  let bk := bayOf s.cur
  if ((s.bay bk).uline? (lineOf pa)).isSome ∨ ((s.bay bk).l1? (lineOf pa)).isSome then some s else s.l1Room bk (lineOf pa)

/-- An RD or XADD of `n` bytes (R248, R250, R252). -/
def reduceBody (r : Req) (s : State) : Res :=
  if r.va.toNat % r.n ≠ 0 then .trap s tALIGN r.va
  else
    match s.place 3 false r.va with
    | (.trap c v, _) => .trap s c v
    | (.sys _, _) => .trap s tAPERTURE r.va
    | (.page v w, t) => .page t v 3 w false
    | (.wait, _) => .stall
    | (.loc l, t) =>
      if s.overBarrier l r.n then .trap s tCLOBBER r.va
      else if s.ownScore l r.n then .stall
      else
        match l with
        | .glob pa =>
          match s.wayToSlice (tileOf s.cur) (homeSlice pa) with
          | .wait => .stall
          | .dead => .done (t.addFail s.cur s.lv l false)
          | .clear =>
            let (bad, t) := t.check s.rqst kAtomic pa r.n
            if bad || isHost pa || s.viewReadOnly (lineOf pa) then .done (t.addFail s.cur s.lv l false)
            else if !s.free (lineOf pa) true || s.linePending (lineOf pa) ||
              s.cmds.any (fun c => c.core == s.cur && c.st == .locking) then .stall
            else
              match t.reduceRoom pa with
              | none => .stall
              | some t => .done (t.reduceGlob { r with loc := l } pa)
        | _ => .done (t.send { r with loc := l })

/-- RDADD, RDMIN, RDMAX and XADD. -/
def execRd (gu : Guard) (ty n : Nat) (op : ReqOp) (h : Hint) (a b : Reg) (len : Nat) (off : Word) (s : State) : Out :=
  s.runs { len := len, on := s.guard gu, rs := [a.toNat, b.toNat] } (fun s =>
    reduceBody { op := op, va := s.src a + off, n := n, data := BitVec.ofNat 1024 ((s.src b).toNat % 2 ^ bitsOf ty), hint := h } s)

/-! ## XRND -/

/-- Read an XACC64 slot line by line, in nine chunks of 32 bytes, with a hint (R246, R253). -/
def State.readSlot64 (s : State) (h : Hint) (a : Word) : Nat → Now
  | 0 => .ok 0 (.glob 0) s
  | n + 1 =>
    match s.readSlot64 h a n with
    | .ok x _ t =>
      match t.nowRead (a + word (32 * n)) 32 0 kAtomic false h with
      | .ok y l t =>
        if (match l with | .glob pa => isHost pa | _ => false) then .trap s tREFUSED a
        else .ok (x + y * 2 ^ (256 * n)) l t
      | .trap t c _ => .trap t c a
      | e => e
    | e => e

/-- XRND (R253). DEDUCED (log entry 31). -/
def execRound (gu : Guard) (la ty : BitVec 4) (rm : BitVec 3) (sat : Bool) (h : Hint) (d a : Reg) (x64 clr : Bool)
    (len : Nat) (off : Word) (s : State) : Out :=
  s.runs { len := len, on := s.guard gu, rs := [a.toNat], ws := [d.toNat], long := true } (fun s =>
    let va := s.src a + off
    if x64 then
      if va.toNat % 288 ≠ 0 then .trap s tALIGN va
      else
        (s.readSlot64 h va 9).res 0 (fun x _ t =>
          let (v, f) := xaccRound true x ty.toNat rm.toNat sat
          .done (t.enterPend { t.newPend (greg t.lv d.toNat) la.toNat 0 .xrnd 0 with val := BitVec.ofNat 1024 (v % 2 ^ 64), flags := f }))
    else
      s.atomicReq d la { op := .xrnd ty.toNat rm.toNat sat clr, va := va, n := 64, hint := h } (if clr then 3 else 0) clr)

/-- AMOADD (R249). -/
def execAmoadd (gu : Guard) (la ty : BitVec 4) (sat : Bool) (rh : Hint) (d a b : Reg) (imm : BitVec 24) (s : State) : Out :=
  execAmo gu la ty (if sat then .addSat else .add) rh d a b 0 xlen (imm24 imm) s

/-- AMOMIN (R249). -/
def execAmomin (gu : Guard) (la ty : BitVec 4) (rh : Hint) (d a b : Reg) (imm : BitVec 24) (s : State) : Out :=
  execAmo gu la ty .min rh d a b 0 xlen (imm24 imm) s

/-- AMOMAX (R249). -/
def execAmomax (gu : Guard) (la ty : BitVec 4) (rh : Hint) (d a b : Reg) (imm : BitVec 24) (s : State) : Out :=
  execAmo gu la ty .max rh d a b 0 xlen (imm24 imm) s

/-- AMOAND (R249). -/
def execAmoand (gu : Guard) (la ty : BitVec 4) (rh : Hint) (d a b : Reg) (imm : BitVec 24) (s : State) : Out :=
  execAmo gu la ty .and rh d a b 0 xlen (imm24 imm) s

/-- AMOOR (R249). -/
def execAmoor (gu : Guard) (la ty : BitVec 4) (rh : Hint) (d a b : Reg) (imm : BitVec 24) (s : State) : Out :=
  execAmo gu la ty .or rh d a b 0 xlen (imm24 imm) s

/-- AMOXOR (R249). -/
def execAmoxor (gu : Guard) (la ty : BitVec 4) (rh : Hint) (d a b : Reg) (imm : BitVec 24) (s : State) : Out :=
  execAmo gu la ty .xor rh d a b 0 xlen (imm24 imm) s

/-- AMOSWP (R249). -/
def execAmoswp (gu : Guard) (la ty : BitVec 4) (rh : Hint) (d a b : Reg) (imm : BitVec 24) (s : State) : Out :=
  execAmo gu la ty .swp rh d a b 0 xlen (imm24 imm) s

/-- AMOCAS (R249). -/
def execAmocas (gu : Guard) (la ty : BitVec 4) (rh : Hint) (d a b c : Reg) (imm : BitVec 24) (s : State) : Out :=
  execAmo gu la ty .cas rh d a b c xlen (imm24 imm) s

/-- RDADD (R250). -/
def execRdadd (gu : Guard) (ty : BitVec 4) (rh : Hint) (a b : Reg) (imm : BitVec 24) (s : State) : Out :=
  execRd gu ty.toNat (bitsOf ty.toNat / 8) (.rd .add ty.toNat) rh a b xlen (imm24 imm) s

/-- RDMIN (R250). -/
def execRdmin (gu : Guard) (ty : BitVec 4) (rh : Hint) (a b : Reg) (imm : BitVec 24) (s : State) : Out :=
  execRd gu ty.toNat (bitsOf ty.toNat / 8) (.rd .min ty.toNat) rh a b xlen (imm24 imm) s

/-- RDMAX (R250). -/
def execRdmax (gu : Guard) (ty : BitVec 4) (rh : Hint) (a b : Reg) (imm : BitVec 24) (s : State) : Out :=
  execRd gu ty.toNat (bitsOf ty.toNat / 8) (.rd .max ty.toNat) rh a b xlen (imm24 imm) s

/-- XADD (R252). -/
def execXadd (gu : Guard) (ty : BitVec 4) (rh : Hint) (a b : Reg) (imm : BitVec 24) (s : State) : Out :=
  execRd gu ty.toNat 64 (.xadd ty.toNat) rh a b xlen (imm24 imm) s

/-- XRND (R253). -/
def execXrnd (gu : Guard) (la ty : BitVec 4) (rm : BitVec 3) (sat : Bool) (rh : Hint) (d a : Reg) (x64 clr : Bool) (imm : BitVec 24) (s : State) : Out :=
  execRound gu la ty rm sat rh d a x64 clr xlen (imm24 imm) s

/-- AMOADD_LITERAL (R249). -/
def execAmoaddLiteral (gu : Guard) (la ty : BitVec 4) (sat : Bool) (rh : Hint) (d a b : Reg) (lit : BitVec 64) (s : State) : Out :=
  execAmo gu la ty (if sat then .addSat else .add) rh d a b 0 xlenLit lit s

/-- AMOMIN_LITERAL (R249). -/
def execAmominLiteral (gu : Guard) (la ty : BitVec 4) (rh : Hint) (d a b : Reg) (lit : BitVec 64) (s : State) : Out :=
  execAmo gu la ty .min rh d a b 0 xlenLit lit s

/-- AMOMAX_LITERAL (R249). -/
def execAmomaxLiteral (gu : Guard) (la ty : BitVec 4) (rh : Hint) (d a b : Reg) (lit : BitVec 64) (s : State) : Out :=
  execAmo gu la ty .max rh d a b 0 xlenLit lit s

/-- AMOAND_LITERAL (R249). -/
def execAmoandLiteral (gu : Guard) (la ty : BitVec 4) (rh : Hint) (d a b : Reg) (lit : BitVec 64) (s : State) : Out :=
  execAmo gu la ty .and rh d a b 0 xlenLit lit s

/-- AMOOR_LITERAL (R249). -/
def execAmoorLiteral (gu : Guard) (la ty : BitVec 4) (rh : Hint) (d a b : Reg) (lit : BitVec 64) (s : State) : Out :=
  execAmo gu la ty .or rh d a b 0 xlenLit lit s

/-- AMOXOR_LITERAL (R249). -/
def execAmoxorLiteral (gu : Guard) (la ty : BitVec 4) (rh : Hint) (d a b : Reg) (lit : BitVec 64) (s : State) : Out :=
  execAmo gu la ty .xor rh d a b 0 xlenLit lit s

/-- AMOSWP_LITERAL (R249). -/
def execAmoswpLiteral (gu : Guard) (la ty : BitVec 4) (rh : Hint) (d a b : Reg) (lit : BitVec 64) (s : State) : Out :=
  execAmo gu la ty .swp rh d a b 0 xlenLit lit s

/-- AMOCAS_LITERAL (R249). -/
def execAmocasLiteral (gu : Guard) (la ty : BitVec 4) (rh : Hint) (d a b c : Reg) (lit : BitVec 64) (s : State) : Out :=
  execAmo gu la ty .cas rh d a b c xlenLit lit s

/-- RDADD_LITERAL (R250). -/
def execRdaddLiteral (gu : Guard) (ty : BitVec 4) (rh : Hint) (a b : Reg) (lit : BitVec 64) (s : State) : Out :=
  execRd gu ty.toNat (bitsOf ty.toNat / 8) (.rd .add ty.toNat) rh a b xlenLit lit s

/-- RDMIN_LITERAL (R250). -/
def execRdminLiteral (gu : Guard) (ty : BitVec 4) (rh : Hint) (a b : Reg) (lit : BitVec 64) (s : State) : Out :=
  execRd gu ty.toNat (bitsOf ty.toNat / 8) (.rd .min ty.toNat) rh a b xlenLit lit s

/-- RDMAX_LITERAL (R250). -/
def execRdmaxLiteral (gu : Guard) (ty : BitVec 4) (rh : Hint) (a b : Reg) (lit : BitVec 64) (s : State) : Out :=
  execRd gu ty.toNat (bitsOf ty.toNat / 8) (.rd .max ty.toNat) rh a b xlenLit lit s

/-- XADD_LITERAL (R252). -/
def execXaddLiteral (gu : Guard) (ty : BitVec 4) (rh : Hint) (a b : Reg) (lit : BitVec 64) (s : State) : Out :=
  execRd gu ty.toNat 64 (.xadd ty.toNat) rh a b xlenLit lit s

/-- XRND_LITERAL (R253). -/
def execXrndLiteral (gu : Guard) (la ty : BitVec 4) (rm : BitVec 3) (sat : Bool) (rh : Hint) (d a : Reg) (x64 clr : Bool) (lit : BitVec 64) (s : State) : Out :=
  execRound gu la ty rm sat rh d a x64 clr xlenLit lit s


end Sys2Proof.Machine
end

