-- ==== Sys2Proof/Machine/Waits.lean ====
section
/-!
DEFINITION. Phase barriers (R255 to R259), counters with armed actions (R260, R261), WAITA (R262) and fences
(R263, R264, R279, R436).
-/

namespace Sys2Proof.Machine

open Sys2Proof

/-! ## Words of a scratchpad -/

/-- The scratchpad place of a barrier, counter or group word: a multiple of 8 in the own or the tile scratchpads
(R256, R260, R305). -/
def State.wordPlace (s : State) (a : Word) : Sum (Nat × Nat) (Nat × Word) :=
  if a &&& 7 ≠ 0 then .inr (tALIGN, a)
  else
    let p := a.toNat / 2 ^ 48
    if p ≠ 0xFF00 ∧ p ≠ 0xFF02 then .inr (tAPERTURE, a)
    else
      match s.steer s.cur s.me.pv a with
      | some (.loc (.spad c o)) => .inl (c, o)
      | _ => .inr (tAPERTURE, a)

/-- The entry of an armed barrier word. -/
def Tile.bar? (t : Tile) (c o : Nat) : Option BarEnt := t.bars.find? (fun b => b.core == c && b.off == o)

/-- The barrier word as its unit keeps it: PHASE, ARR, BYTES (R255). -/
def barWord (phase arr bytes : Nat) : Nat := phase * 2 ^ 48 + arr * 2 ^ 32 + bytes

/-- Entries of a barrier table. -/
def barCap : Nat := 32

/-- PBINIT (R256). -/
def pbinitBody (d : Reg) (la : BitVec 4) (a b c : Reg) (s : State) : Res :=
  let arr := (s.src b).toNat % 2 ^ 16
  let bytes := (s.src c).toNat % 2 ^ 32
  if arr ≠ 0 ∧ 2 ^ 31 ≤ bytes then .trap s tILLEGAL (s.irWord 0)
  else
    match s.wordPlace (s.src a) with
    | .inr (k, v) => .trap s k v
    | .inl (k, o) =>
      let l := Loc.spad k o
      if s.pendingAt l || s.outOfTurn s.cur l 8 || s.flight.any (fun r => r.op == .store && !r.performed && r.loc.meets r.n l 8) ||
          s.cores.any (fun e => [e.2.lv0, e.2.lv1].any (fun t => t.rest.any (fun r => r.loc.meets r.n l 8))) then .stall
      else
        let t := s.tile (tileOf k)
        match t.bar? k o with
        | some _ =>
          if arr ≠ 0 then .done (s.answer d la 2)
          else
            .done ((s.setTile (tileOf k) { t with bars := t.bars.filter (fun e => !(e.core == k && e.off == o)) }).answer d la 3)
        | none =>
          if arr = 0 then .done (s.answer d la 4)
          else if barCap ≤ t.bars.length then .done (s.answer d la 1)
          else
            let s := s.setTile (tileOf k) { t with bars := t.bars ++ [{ core := k, off := o, arr := arr, bytes := BitVec.ofNat 32 bytes }] }
            .done (((s.noteReach s.cur l 8).locWrite l 8 (barWord 0 arr bytes)).answer d la 0)

/-- Is gc a source of PBINIT? Disarming neither reads nor checks it (R256); while gb, a stream port, has no element, it is
not known. -/
def State.pbinitReads (s : State) (b : Reg) : Bool :=
  s.me.popReady b.toNat == .ok && (s.src b).toNat % 2 ^ 16 != 0

/-- PBINIT (R256). -/
def execPbinit (gu : Guard) (la : BitVec 4) (d a b c : Reg) (s : State) : Out :=
  s.runs { len := xlen, on := s.guard gu, rs := [a.toNat, b.toNat] ++ (if s.pbinitReads b then [c.toNat] else []), ws := [d.toNat],
           long := true } (pbinitBody d la a b c)

/-- Send a contribution to the unit of a barrier word. -/
def State.contribute (s : State) (q : Contrib) : State :=
  { s.updTile (tileOf q.core) (fun t => { t with contribs := t.contribs ++ [{ q with id := s.ctr }] }) with ctr := s.ctr + 1 }

/-- Is an earlier memory access of the core to the scratchpad, a push among them, not performed (R141, R333)? -/
def State.spadBusy (s : State) (l : Loc) : Bool :=
  s.flight.any (fun r => r.core == s.cur && r.loc.sameTarget l && !r.performed) || s.pushAhead s.cur s.ctr l

/-- PBARR (R257). -/
def execPbarr (gu : Guard) (la : BitVec 4) (d a : Reg) (s : State) : Out :=
  s.runs { len := xlen, on := s.guard gu, rs := [a.toNat], ws := [d.toNat], long := true } (fun s =>
    match s.wordPlace (s.src a) with
    | .inr (k, v) => .trap s k v
    | .inl (k, o) =>
      if s.spadBusy (.spad k o) then .stall
      else
        let (id, s) := s.pendG d la 1 .other
        .done (s.contribute { core := k, off := o, arrival := true, src := s.cur, pend := some id }))

/-- PBEXP (R257). -/
def execPbexp (gu : Guard) (a b : Reg) (s : State) : Out :=
  s.runs { len := xlen, on := s.guard gu, rs := [a.toNat, b.toNat] } (fun s =>
    match s.wordPlace (s.src a) with
    | .inr (k, v) => .trap s k v
    | .inl (k, o) =>
      if s.spadBusy (.spad k o) then .stall
      else .done (s.contribute { core := k, off := o, delta := BitVec.ofNat 32 (s.src b).toNat, src := s.cur }))

/-- PBWAIT (R258): at level 0 it waits while the word is armed and in the given phase. -/
def execPbwait (gu : Guard) (d a b : Reg) (s : State) : Out :=
  s.runs { len := xlen, on := s.guard gu, rs := [a.toNat, b.toNat], ws := [d.toNat], blocking := true, nomask := true } (fun s =>
    match s.wordPlace (s.src a) with
    | .inr (k, v) => .trap s k v
    | .inl (k, o) =>
      let x := s.locRead (.spad k o) 8
      let holds := ((s.tile (tileOf k)).bar? k o).isSome && x / 2 ^ 48 == (s.src b).toNat % 2 ^ 16
      if s.pendingAt (.spad k o) || s.outOfTurn s.cur (.spad k o) 8 || (holds && !s.lv) then .wait s .issued
      else .done ((s.noteReach s.cur (.spad k o) 8).dst d (word x)))

/-- Put a contribution into a list kept in ascending core order, arrivals of one core in their order (R257). -/
def insArrival (q : Contrib) : List Contrib → List Contrib
  | [] => [q]
  | p :: ps => if q.src < p.src then q :: p :: ps else p :: insArrival q ps

/-- Count arrivals: each gets the phase it counted in, with OVER when ARR is already zero (R257).
DEDUCED (log entry 42). -/
def countArrivals (s : State) (phase : Nat) : List Contrib → Nat → Nat × State
  | [], arr => (arr, s)
  | q :: qs, arr =>
    let x := if arr = 0 then word (2 ^ 63 + phase) else word phase
    let s := match q.pend with
      | none => s
      | some p => s.deliver q.src p x
    countArrivals s phase qs (arr - 1)

/-- NB for arrivals and copies whose word is not armed (R164, R257). -/
def State.notArmed (s : State) (q : Contrib) : State :=
  match q.pend, q.copy with
  | some p, _ => s.deliver q.src p (word (2 ^ 62))
  | none, some (bk, c) => s.updBay bk (fun b => { b with copies := updFirst (fun x => x.id == c) (fun x => { x with nb := true }) b.copies })
  | none, none => s

/-- The bytes a list of contributions adds: PBEXPs add, copies subtract (R257). -/
def deltaSum (qs : List Contrib) : BitVec 32 := qs.foldl (fun a q => if q.arrival then a else a + q.delta) 0

/-- BARRIER_UPDATE (R257): the first `n` contributions that wait for one word reach its unit in one cycle. -/
def execBarrierUpdate (core off n : Nat) (s : State) : Out :=
  .next (
    let t := s.tile (tileOf core)
    let qs := (t.contribs.filter (fun q => q.core == core && q.off == off)).take n
    let s := s.setTile (tileOf core) { t with contribs := t.contribs.filter (fun q => !qs.contains q) }
    if qs.isEmpty then s
    else
      match t.bar? core off with
      | none => qs.foldl State.notArmed s
      | some e =>
        let w := s.locRead (.spad core off) 8
        let phase := w / 2 ^ 48
        let bytes := (BitVec.ofNat 32 w + deltaSum qs).toNat
        let (arr, s) := countArrivals s phase ((qs.filter (fun q => q.arrival)).foldl (fun l q => insArrival q l) []) (w / 2 ^ 32 % 2 ^ 16)
        s.locWrite (.spad core off) 8
          (if arr = 0 ∧ bytes = 0 then barWord ((phase + 1) % 2 ^ 16) e.arr e.bytes.toNat else barWord phase arr bytes))

/-! ## Wakes and actions -/

/-- WAITA of a core returns WOKEN: its monitor entries are freed (R262). -/
def State.wakeWaita (s : State) (ck : Nat) : State :=
  let t := s.tile (tileOf ck)
  let mine := t.mons.filter (fun m => m.core == ck)
  if mine.isEmpty then s
  else mine.foldl (fun s m => s.deliver ck m.pend 0) (s.setTile (tileOf ck) { t with mons := t.mons.filter (fun m => m.core != ck) })

/-- A wake event reaches a core (R261, R410): it ends its WFE and WAITA, or sets the latch. -/
def State.wakeCore (s : State) (ck : Nat) : State :=
  let s := s.wakeWaita ck
  s.updCore ck (fun c => if c.lv0.hold == .wfe then { c.resume false (c.pcOf false + 4) with latch := false } else { c with latch := true })

/-- Places of a task queue, and the places a SPAWN may fill (R292, R293). -/
def taskCap : Nat := 8192
/-- See taskCap. -/
def spawnCap : Nat := 7680

/-- The times of push of the records in a task queue of a tile, oldest first. -/
def Tile.queue (t : Tile) (c : Nat) : List Nat := t.taskq.get [] c

/-- Place `i` of a task queue, counted from its head: the queue is a ring of its class's part of the vault (R292). Which
places a queue uses is not stated. DESIGN CHOICE (log entry 23). -/
def Tile.taskSlot (t : Tile) (cls i : Nat) : Nat := taskBase + 32 * (taskCap * cls + (t.taskHead.get 0 cls + i) % taskCap)

/-- Append a record to a task queue of a tile (R292). -/
def State.pushTask (s : State) (tile cls : Nat) (r : Rec) : State :=
  let t := s.tile tile
  (s.setTile tile { t with taskq := t.taskq.put cls (t.queue cls ++ [s.cycle]) }).putRec tile (t.taskSlot cls (t.queue cls).length) r

/-- A CTARM action waits at a tile for a place of its task queue. -/
def State.armWaits (s : State) (tile : Nat) : Bool := s.pushes.any (fun p => p.armed && p.tile == tile)

/-- Perform an armed action (R261); none while a handler record finds no room, or the record of an earlier action still waits
for a place of the task queue. -/
def State.fire (s : State) (tile : Nat) (a : ArmAct) : Option State :=
  let cls := ((s.hallOf tile).getD {}).cls
  match a with
  | .task r =>
    if s.armWaits tile || taskCap ≤ ((s.tile tile).queue cls).length then
      some { s with pushes := s.pushes ++ [{ id := s.ctr, tile := tile, crec := r, forced := true, armed := true }], ctr := s.ctr + 1 }
    else some (s.pushTask tile cls r)
  | .wake ck => if s.armWaits tile then none else some (s.wakeCore ck)
  | .msg ck r => if s.armWaits tile then none else s.postHandler ck (s.myHall.sender s.cur) { crec := r }

/-- Perform actions in order. -/
def State.fireAll (tile : Nat) : List Arm → State → Option State
  | [], s => some s
  | a :: as, s =>
    match s.fire tile a.act with
    | none => none
    | some s => State.fireAll tile as s

/-- Put an armed entry into a list kept in ascending threshold order, equal thresholds in arming order. -/
def insArm (a : Arm) : List Arm → List Arm
  | [] => [a]
  | b :: bs => if a.thr.toNat < b.thr.toNat then a :: b :: bs else b :: insArm a bs

/-- Does a CTINC from `old` to `new` cross an entry? -/
def Arm.crossed (a : Arm) (c o old new : Nat) : Bool :=
  a.core == c && a.off == o && decide (old < a.thr.toNat) && decide (a.thr.toNat ≤ new)

/-- CTINC (R260, R261): the counter saturates; the entries it crosses fire, and are freed. -/
def execCtinc (gu : Guard) (la : BitVec 4) (d a b : Reg) (s : State) : Out :=
  s.runs { len := xlen, on := s.guard gu, rs := [a.toNat, b.toNat], ws := [d.toNat], long := true } (fun s =>
    match s.wordPlace (s.src a) with
    | .inr (k, v) => .trap s k v
    | .inl (k, o) =>
      let l := Loc.spad k o
      if s.overBarrier l 8 then .trap s tCLOBBER (s.src a)
      else if s.pendingAt l || s.scoreWaits l 8 then .stall
      else
        let old := s.locRead l 8
        let new := min (old + (s.src b).toNat) (2 ^ 64 - 1)
        let tl := tileOf k
        let t := s.tile tl
        let hits := (t.arms.filter (fun a => a.crossed k o old new)).foldl (fun l a => insArm a l) []
        let s := ((s.setTile tl { t with arms := t.arms.filter (fun a => !a.crossed k o old new) }).noteReach s.cur l 8).locWrite l 8 new
        match State.fireAll tl hits s with
        | none => .stall
        | some s => .done (s.answer d la (word new)))

/-! ## Records -/

/-- The check of a record (R291, R296): the misaligned field, none when it is sound. -/
def Rec.bad (r : Rec) : Option Word :=
  if r.code.toNat % 4 ≠ 0 then some r.code
  else if r.jctr.toNat % 64 ≠ 0 then some r.jctr
  else none

/-- Read and check the record at an address (R296). -/
def State.readRec (s : State) (a : Word) (f : Rec → State → Res) : Res :=
  if a.toNat % 32 ≠ 0 then .trap s tALIGN a
  else
    (s.nowRead a 32 0 kLoad false).res 0 (fun x _ t =>
      let r := recOf x
      match r.bad with
      | some v => .trap t tALIGN v
      | none => f r t)

/-- Entries of an arm table. -/
def armCap : Nat := 64

/-- Arm an action, or perform it at once when the counter has reached the threshold (R261). -/
def armBody (d : Reg) (la : BitVec 4) (thr : Word) (k o : Nat) (act : ArmAct) (s : State) : Res :=
  let l := Loc.spad k o
  if s.pendingAt l || s.scoreWaits l 8 then .stall
  else
    let s := s.noteReach s.cur l 8
    let tl := tileOf k
    let t := s.tile tl
    if thr.toNat ≤ s.locRead l 8 then
      match s.fire tl act with
      | none => .stall
      | some s => .done (s.answer d la 1)
    else if armCap ≤ t.arms.length then .done (s.answer d la 2)
    else .done ((s.setTile tl { t with arms := t.arms ++ [{ core := k, off := o, thr := thr, act := act }] }).answer d la 0)

/-- CTARM (R261). -/
def execCtarm (gu : Guard) (la : BitVec 4) (kind : BitVec 3) (d a b c : Reg) (s : State) : Out :=
  s.runs { len := xlen, on := s.guard gu, rs := [a.toNat, b.toNat, c.toNat], ws := [d.toNat], long := true } (fun s =>
    match s.wordPlace (s.src a) with
    | .inr (k, v) => .trap s k v
    | .inl (k, o) =>
      if s.overBarrier (.spad k o) 8 then .trap s tCLOBBER (s.src a)
      else if kind = 0 then armBody d la (s.src b) k o (.wake (tileOf k * 64 + (s.src c).toNat % 64)) s
      else
        s.readRec (s.src c) (fun r t =>
          if kind = 1 then
            if fld r.tidx 38 26 ≠ 0 then .trap t tILLEGAL (t.irWord 0)
            else armBody d la (s.src b) k o (.msg (tileOf k * 64 + fld r.tidx 32 6) r) t
          else armBody d la (s.src b) k o (.task r) t))

/-! ## WAITA -/

/-- Entries of a monitor table. -/
def monCap : Nat := 32

/-- WAITA (R262): the comparison and the watch are one step. -/
def execWait (gu : Guard) (la : BitVec 4) (d a b : Reg) (len : Nat) (off : Word) (s : State) : Out :=
  s.runs { len := len, on := s.guard gu, rs := [a.toNat, b.toNat], ws := [d.toNat], long := true, nomask := true } (fun s =>
    let va := s.src a + off
    if va.toNat % 8 ≠ 0 then .trap s tALIGN va
    else
      (s.nowRead va 8 0 kAtomic false).res 0 (fun x l t =>
        let host := match l with | .glob pa => isHost pa | _ => false
        if host then .trap s tREFUSED va
        else if word x ≠ s.src b then .done (t.answer d la 1)
        else if t.lv then .done (t.answer d la 0)
        else
          let tl := t.tile (tileOf t.cur)
          if monCap ≤ tl.mons.length then .done (t.answer d la 2)
          else
            let (id, t) := t.pendG d la 1 .waita
            .done (t.updTile (tileOf t.cur) (fun tl => { tl with mons := tl.mons ++ [{ core := t.cur, pend := id, loc := l }] }))))

/-- WAITA (R262). -/
def execWaita (gu : Guard) (la : BitVec 4) (d a b : Reg) (imm : BitVec 24) (s : State) : Out :=
  execWait gu la d a b xlen (imm24 imm) s

/-- WAITA with a literal offset (R262). -/
def execWaitaLiteral (gu : Guard) (la : BitVec 4) (d a b : Reg) (lit : BitVec 64) (s : State) : Out :=
  execWait gu la d a b xlenLit lit s

/-- WAITA_WAKE (R262): a WAITA returns without a write, which is always permitted. -/
def execWaitaWake (core pend : Nat) (s : State) : Out :=
  .next (
    let t := s.tile (tileOf core)
    if t.mons.any (fun m => m.core == core && m.pend == pend) then
      (s.setTile (tileOf core) { t with mons := t.mons.filter (fun m => !(m.core == core && m.pend == pend)) }).deliver core pend 0
    else s)

/-! ## FENCE -/

/-- The scope between two tiles: QUAD within a quadrant, DIE within a die, PKG across the die boundary (R263, R333). -/
def tileScope (t u : Nat) : Nat := if dieOf u ≠ dieOf t then 5 else if quadOf u = quadOf t then 3 else 4

/-- The narrowest scope that covers a place, seen from a core (R263): 0 CORE, 1 BAY, 2 TILE, 3 QUAD, 4 DIE, 5 PKG,
6 HOST. -/
def coverScope (ck : Nat) (l : Loc) : Nat :=
  let t := tileOf ck
  match l with
  | .spad c _ => if c = ck then 0 else if bayOf c = bayOf ck then 1 else if tileOf c = t then 2 else tileScope t (tileOf c)
  | .gal _ _ => 2
  | .vault v o =>
    if tileOfVault v = t then (if coreIdx ck * 32768 ≤ o ∧ o < coreIdx ck * 32768 + 32768 then 0 else 2)
    else tileScope t (tileOfVault v)
  | .glob pa => if isHost pa then 6 else if homeDie pa = dieOf t then 0 else 5

/-- Is an operation of the earlier class of a fence kind: loads, stores (R263, R273)? -/
def ReqOp.inClass (op : ReqOp) (loads stores : Bool) : Bool :=
  match op with
  | .load => loads
  | .store => stores
  | .amo _ _ => loads || stores
  | .xrnd _ _ _ _ => loads || stores
  | .rd _ _ => stores
  | .xadd _ => stores
  | .evict => false
  | .pref => false

/-- Does some earlier covered access of the thread keep a fence waiting (R263)? -/
def State.fenceBusy (s : State) (scope : Nat) (loads stores : Bool) : Bool :=
  s.flight.any (fun r => r.core == s.cur && r.lv == s.lv && r.op.inClass loads stores && decide (coverScope s.cur r.loc ≤ scope)) ||
    (stores && (s.tile (tileOf s.cur)).contribs.any (fun q =>
      q.src == s.cur && q.copy == none && !q.arrival && decide (coverScope s.cur (.spad q.core q.off) ≤ scope))) ||
    (stores && !s.lv && s.qflight.any (fun m => m.pushBy s.cur && decide (coverScope s.cur (.spad m.core 0) ≤ scope)))

/-- Is a link of the bridge declared dead? -/
def State.anyDead (s : State) : Bool := s.linkState 0 == 2 || s.linkState 1 == 2

/-- The status word of a fence (R264). -/
def State.fenceStatus (s : State) (scope : Nat) : Word :=
  let fs := (s.me.thr s.lv).fails.filter (fun f => decide (coverScope s.cur f.1 ≤ scope))
  word (bit (fs.any (fun f => f.2)) + 2 * bit (fs.any (fun f => !f.2)) + 4 * bit (decide (5 ≤ scope) && s.anyDead))

/-- The clean lines a fence drops from the bay's L1; answers that slices have already given bring none of them back
(R263, R271, R279). -/
def State.fenceDrop (s : State) (scope : Nat) : State :=
  if scope < 2 then s
  else s.l1Clean (bayOf s.cur) (fun l => decide (5 ≤ scope) || homeDie (l * 128) == dieOf (tileOf s.cur))

/-- A fence (R263, R264, R436): it waits for the earlier covered accesses of its kind, drops clean lines, and reports
the failures it covers. -/
def fenceBody (d : Reg) (scope kind : Nat) (s : State) : Res :=
  if s.fenceBusy scope (kind != 3) (kind != 2) then .wait s .issued
  else
    let x := s.fenceStatus scope
    let s := if kind = 0 ∨ kind = 2 ∨ kind = 4 then s.fenceDrop scope else s
    let s := s.updMe (fun c =>
      let t := c.thr c.level
      c.setThr c.level { t with fails := t.fails.filter (fun f => !decide (coverScope s.cur f.1 ≤ scope)) })
    let s := if kind = 4 then s.updBay (bayOf s.cur) (fun b => { b with icache := [] }) else s
    .done (s.dst d x)

/-- FENCE (R263). -/
def execFence (gu : Guard) (d : Reg) (scope kind : BitVec 3) (s : State) : Out :=
  s.runs { len := xlen, on := s.guard gu, ws := [d.toNat], blocking := true } (fenceBody d scope.toNat kind.toNat)

/-- FENCE of kind INST (R436). -/
def execFenceInst (gu : Guard) (d : Reg) (scope : BitVec 3) (s : State) : Out :=
  s.runs { len := xlen, on := s.guard gu, ws := [d.toNat], blocking := true } (fenceBody d scope.toNat 4)

end Sys2Proof.Machine
end

