-- ==== Sys2Proof/Machine/Tasks.lean ====
section
/-!
DEFINITION. Continuation records, spawning, join blocks, sending, the vestibule, groups and masked windows (R290
to R306), taking records and starting handlers (R175, R183, R291, R292, R300, R363), and the service overflow
(R415).
-/

namespace Sys2Proof.Machine

open Sys2Proof

/-! ## Release (R306) -/

/-- An earlier store, AMO, RD, XADD or PBEXP of the thread has not been performed; a push is a store, of the task alone
(R306, R330, R333). -/
def State.unreleased (s : State) : Bool :=
  s.flight.any (fun r => r.core == s.cur && r.lv == s.lv && r.op.inClass false true && !r.performed) ||
    (s.tile (tileOf s.cur)).contribs.any (fun q => q.src == s.cur && q.copy == none && !q.arrival) ||
    (!s.lv && s.qflight.any (fun m => m.pushBy s.cur))

/-- A trap, page fault or wait as the result of a blocking instruction. -/
def Now.resWait (n : Now) (s : State) (acc : Acc) (f : Nat → Loc → State → Res) : Res :=
  match n with
  | .ok x l s => f x l s
  | .trap s c v => .trap s c v
  | .page s v w => .page s v acc w false
  | .stall => .wait s .issued

/-! ## Targets (R294) -/

/-- Are the fixed zeros of a target word zero and its tile in the hall? `any` and `core` say whether ANY and CORE may
be set. -/
def targetOk (h : Hall) (w : Word) (any core : Bool) : Bool :=
  fld w 19 44 == 0 && fld w 12 4 == 0 && fld w 6 2 == 0 && (core || fld w 0 6 == 0) &&
    (if bitAt w 63 then any && fld w 16 3 == 0 && fld w 8 4 == 0
     else decide (fld w 16 3 < h.h) && decide (fld w 8 4 < h.w))

/-- Manhattan distance of two tiles (R3). -/
def manhattan (t u : Nat) : Nat :=
  (max (tileX t) (tileX u) - min (tileX t) (tileX u)) + (max (tileY t) (tileY u) - min (tileY t) (tileY u))

/-- The occupancy of a tile's queue of the launch's class as the placing tile knows it: each sample arrives after the latency
of the mesh, which is not given, and before the next (R364). DESIGN CHOICE (log entry 44). -/
def State.occSeen (s : State) (h : Hall) (src t : Nat) : Nat :=
  let x := s.tile t
  if s.cycle < h.sampled + Config.sampleDelay h.sampled t src then x.occOld.get 0 h.cls else x.occ.get 0 h.cls

/-- The better of two tiles for an ANY placement without DET: fewer records, then nearer, then lower (R364). -/
def State.betterTile (s : State) (h : Hall) (src a b : Nat) : Nat :=
  let n := s.occSeen h src
  if n b < n a ∨ (n b = n a ∧ manhattan src b < manhattan src a) then b else a

/-- The tile of an ANY placement (R294, R364). -/
def State.anyTile (s : State) (h : Hall) (src : Nat) (r : Rec) : Nat :=
  let ts := h.tiles
  if h.det then ts.getD ((newel h.lseed (word (fld r.tidx 0 32))).toNat % max 1 ts.length) 0
  else ts.foldl (s.betterTile h src) (ts.getD 0 0)

/-- The tile a target word names for a record. -/
def State.targetTile (s : State) (h : Hall) (src : Nat) (w : Word) (r : Rec) : Nat :=
  if bitAt w 63 then s.anyTile h src r else h.tileAt (fld w 8 4) (fld w 16 3)

/-! ## Task queues -/

/-- The oldest record of a task queue of a tile (R292). -/
def State.taskRec (s : State) (tile cls : Nat) : Rec := s.getRec tile ((s.tile tile).taskSlot cls 0)

/-- The oldest record leaves a task queue. -/
def Tile.popTask (t : Tile) (cls : Nat) : Tile :=
  { t with taskq := t.taskq.put cls ((t.queue cls).drop 1), taskHead := t.taskHead.put cls ((t.taskHead.get 0 cls + 1) % taskCap) }

/-- Forget a message. -/
def State.dropPush (s : State) (id : Nat) : State := { s with pushes := dropFirst (fun p => p.id == id) s.pushes }

/-- The answer to a core that waits in SPAWN. -/
def State.answerSpawn (s : State) (id : Nat) (who : Option (Nat × Bool)) (ok : Bool) : State :=
  match who with
  | none => s
  | some (ck, lv) =>
    s.updCore ck (fun c => if (c.thr lv).hold == .spawn id then c.setHold lv (.answered ok) else c)

/-- RECORD_PUSH (R293, R296): a record arrives at a task queue, of the class the launch then holds. A SPAWN is
accepted or refused; other pushes wait for a place. DEDUCED (log entry 29). -/
def execRecordPush (msg : Nat) (s : State) : Out :=
  .next (match s.pushes.find? (fun p => p.id == msg) with
    | none => s
    | some p =>
      let cls := ((s.hallOf p.tile).getD {}).cls
      let n := ((s.tile p.tile).queue cls).length
      let way := match p.from? with
        | some (ck, _) => s.wayBetween (tileOf ck) p.tile
        | none => .clear
      let behind := s.pushes.any (fun q => p.armed && q.armed && q.tile == p.tile && decide (q.id < p.id))
      if way ≠ .clear || behind then s
      else if p.forced then
        if taskCap ≤ n then s else (s.dropPush msg).pushTask p.tile cls p.crec
      else if spawnCap ≤ n then (s.dropPush msg).answerSpawn msg p.from? false
      else ((s.dropPush msg).pushTask p.tile cls p.crec).answerSpawn msg p.from? true)

/-! ## SPAWN -/

/-- The four words of an inline frame and where they go (R296). -/
def State.frameElems (s : State) (u : Uses) : List (Elem × Nat) :=
  let g2 := s.me.g s.lv 2
  let t := s.me.thr s.lv
  [({ idx := 0, addr := g2 }, (s.nextPc u).toNat), ({ idx := 1, addr := g2 + 8 }, (s.me.g s.lv 3).toNat),
   ({ idx := 2, addr := g2 + 16 }, t.jctr.toNat), ({ idx := 3, addr := g2 + 24 }, t.ltask.toNat)]

/-- Become the refused child (R296). -/
def State.inlineChild (s : State) (d : Reg) (r : Rec) : State :=
  let s := s.updMe (fun c => { c.setG c.level 2 (c.g c.level 2 + 32) with inl := c.inl + 1 })
  let s := s.dst d 1
  s.updMe (fun c =>
    let c := c.setG c.level 3 r.frame
    let t := c.thr c.level
    c.setThr c.level { t with ltask := word (fld r.tidx 0 32), jctr := r.jctr })

/-- What SPAWN declares: at level 0 it reads and writes g2 and g3 if it is refused. -/
def spawnUses (gu : Guard) (d a b : Reg) (s : State) : Uses :=
  { len := xlen, on := s.guard gu, rs := [a.toNat, b.toNat], ws := [d.toNat], mw := if s.lv then [] else [2, 3],
    blocking := true, nomask := true }

/-- SPAWN (R296). A refused SPAWN writes g2 and g3: where it issued inside an open window on one of them it traps WINDOW, and
nothing has been stored or queued (R49). DEDUCED (log entry 43). -/
def spawnBody (u : Uses) (d a b : Reg) (s : State) : Res :=
  match (s.me.thr s.lv).hold with
  | .answered true => .done (s.dst d 0)
  | .answered false =>
    if s.lv then .done (s.dst d 2)
    else
      match (s.me.thr s.lv).late with
      | some pc => .trap s tWINDOW pc
      | none =>
      let r := (s.me.thr s.lv).offer
      match s.storeElems .df false sysWrite (s.frameElems u) with
      | .done t => .jump (t.inlineChild d r) r.code
      | .stall => .wait s (.answered false)
      | .wait t _ => .wait t (.answered false)
      | e => e
  | _ =>
    if (s.src a).toNat % 32 ≠ 0 then .trap s tALIGN (s.src a)
    else
      (s.nowRead (s.src a) 32 0 kLoad false).resWait s 0 (fun x _ t =>
        let r := recOf x
        match r.bad with
        | some v => .trap t tALIGN v
        | none =>
          let w := s.src b
          let h := s.myHall
          if !targetOk h w true false then .trap t tCONE w
          else if t.unreleased then .wait t .issued
          else
            let p : Push := { id := t.ctr, tile := t.targetTile h (tileOf s.cur) w r, crec := r, from? := some (s.cur, s.lv) }
            let t := { t with pushes := t.pushes ++ [p], ctr := t.ctr + 1 }
            .wait (t.updMe (fun c => let y := c.thr c.level; c.setThr c.level { y with offer := r })) (.spawn p.id))

/-- SPAWN (R296). -/
def execSpawn (gu : Guard) (d a b : Reg) (s : State) : Out :=
  let u := spawnUses gu d a b s
  s.runs u (spawnBody u d a b)

/-! ## Join blocks -/

/-- A BADJOIN message: FRAME is the block's address (R298, R414). -/
def State.badJoin (s : State) (a : Word) : State :=
  let h := s.myHall
  let tidx := msgTidx h msgBadjoin 0 (bit s.lv) (tileOf s.cur) (coreIdx s.cur) 0 0
  match s.postService h a tidx with
  | .posted s' => s'
  | .fes => s.cancelHall h.id
  | .full => s.updTile (tileOf s.cur) (fun t =>
      { t with unposted := t.unposted ++ [{ crec := { code := h.stallh, frame := a, jctr := 0, tidx := word tidx }, svc := true }] })

/-- A join block fires: its record is pushed, or a BADJOIN message posted (R298). -/
def State.joinFire (s : State) (a target : Word) (r : Rec) : State :=
  let h := s.myHall
  if r.bad.isSome || !targetOk h target true false then s.badJoin a
  else
    { s with pushes := s.pushes ++ [{ id := s.ctr, tile := s.targetTile h (tileOf s.cur) target r, crec := r, forced := true }],
             ctr := s.ctr + 1 }

/-- A join block's address is checked: ALIGN, then its aperture (R297). -/
def blockTrap (a : Word) : Option Nat :=
  let p := a.toNat / 2 ^ 48
  if a.toNat % 64 ≠ 0 then some tALIGN
  else if p ≤ 0xF ∨ p = 0xFF00 ∨ p = 0xFF02 then none
  else some tAPERTURE

/-- The step of CONT (with its count) or JDEC on a block's 64 bytes `x` at place `l`: the status and the state
(R298). -/
def State.joinStep (s : State) (a : Word) (l : Loc) (x : Nat) (add : Option Nat) : Word × State :=
  let w := x % 2 ^ 64
  let armed := w / 2 ^ 32 % 2 = 1
  if add.isSome ∧ armed then (2, s)
  else
    let count := match add with
      | some n => (w + n) % 2 ^ 32
      | none => (w + 2 ^ 32 - 1) % 2 ^ 32
    let fires := (add.isSome ∨ armed) ∧ count = 0
    let arm := if fires then 0 else if add.isSome ∨ armed then 1 else 0
    let s := s.nowWrite l 8 (w / 2 ^ 33 * 2 ^ 33 + arm * 2 ^ 32 + count)
    let s := if fires then s.joinFire a (word (x / 2 ^ 64)) (recOf (x / 2 ^ 256)) else s
    (word (count * 2 ^ 32 + bit (decide fires)), s)

/-- CONT and JDEC. -/
def joinBody (d a : Reg) (la : BitVec 4) (add : Option Nat) (s : State) : Res :=
  let v := s.src a
  match blockTrap v with
  | some c => .trap s c v
  | none =>
    if s.unreleased then .stall
    else (s.nowRead v 64 3 kAtomic true).res 3 (fun x l t =>
      let (st, t) := t.joinStep v l x add
      .done (t.answer d la st))

/-- CONT (R298). -/
def execCont (gu : Guard) (la : BitVec 4) (d a b : Reg) (s : State) : Out :=
  s.runs { len := xlen, on := s.guard gu, rs := [a.toNat, b.toNat], ws := [d.toNat], long := true } (fun s =>
    if fld (s.src b) 31 33 ≠ 0 then .trap s tILLEGAL (s.irWord 0) else joinBody d a la (some (s.src b).toNat) s)

/-- JDEC (R298). -/
def execJdec (gu : Guard) (la : BitVec 4) (d a : Reg) (s : State) : Out :=
  s.runs { len := xlen, on := s.guard gu, rs := [a.toNat], ws := [d.toNat], long := true } (joinBody d a la none)

/-! ## TEND -/

/-- Read the four words of an inline frame below `g2` (R301). -/
def State.readFrame (s : State) (base : Word) : Nat → Now
  | 0 => .ok 0 (.glob 0) s
  | n + 1 =>
    match s.readFrame base n with
    | .ok x _ t =>
      let a := base + word (8 * n)
      if a.toNat % 8 ≠ 0 then .trap t tALIGN a
      else
        match t.nowRead a 8 0 kLoad false with
        | .ok y l t => .ok (x + y * 2 ^ (64 * n)) l t
        | e => e
    | e => e

/-- The record is finished: level 0 becomes idle, level 1 returns to the task, and a WFE the handler interrupted
ends (R301, R410). PV is 0 again (R400). -/
def Core.endRecord (c : Core) : Core :=
  if c.level then
    let c := { c with level := false, pv := false }
    if c.lv0.hold == .wfe then { c.resume false (c.pcOf false + 4) with latch := false } else c
  else { c with pv := false }

/-- The record ends; an inline child returns to its parent by the frame read at `base`. -/
def State.endTask (s : State) (inline : Bool) (base : Word) (x : Nat) : Res :=
  if inline then
    let s := s.updMe (fun c =>
      let c := { (c.setG false 2 base).setG false 3 (word (x / 2 ^ 64)) with inl := c.inl - 1 }
      c.setThr false { c.lv0 with jctr := word (x / 2 ^ 128), ltask := word (x / 2 ^ 192 % 2 ^ 32) })
    .jump s (word x)
  else .wait (s.updMe Core.endRecord) .idle

/-- Does TEND end an inline child (R301)? -/
def State.endsInline (s : State) : Bool := !s.lv && decide (0 < s.me.inl)

/-- Read the frame that an inline child returns by; its PC is an indirect target, which traps ALIGN unless its bits [1:0] are
zero (R56, R301). -/
def State.returnFrame (s : State) (base : Word) : Now :=
  match s.readFrame base 4 with
  | .ok x l t => if x % 4 ≠ 0 then .trap t tALIGN (word x) else .ok x l t
  | e => e

/-- TEND (R301): every check is made before the decrement. DEDUCED (log entry 31). -/
def tendBody (s : State) : Res :=
  if s.me.owes s.lv || s.unreleased then .wait s .issued
  else
    let inline := s.endsInline
    let base := s.me.g false 2 - 32
    let frame := fun (t : State) => if inline then t.returnFrame base else .ok 0 (.glob 0) t
    let j := (s.me.thr s.lv).jctr
    if j = 0 then (frame s).resWait s 0 (fun x _ t => t.endTask inline base x)
    else
      match blockTrap j with
      | some c => .trap s c j
      | none =>
        (s.nowRead j 64 3 kAtomic true).resWait s 3 (fun y l t =>
          (frame t).resWait s 0 (fun x _ t => ((t.joinStep j l y none).2).endTask inline base x))

/-- TEND (R301): ending an inline child it writes g2 and g3 (R49). -/
def execTend (gu : Guard) (s : State) : Out :=
  s.runs { len := xlen, on := s.guard gu, ws := if s.endsInline then [2, 3] else [], blocking := true, nomask := true } tendBody

/-! ## SEND -/

/-- SEND (R299). -/
def execSend (gu : Guard) (la : BitVec 4) (h : Bool) (d a b : Reg) (s : State) : Out :=
  s.runs { len := xlen, on := s.guard gu, rs := [a.toNat, b.toNat], ws := [d.toNat], long := true } (fun s =>
    s.readRec (s.src a) (fun r t =>
      let w := s.src b
      let hl := s.myHall
      if !targetOk hl w false true then .trap t tCONE w
      else if t.unreleased then .stall
      else
        let src := tileOf s.cur
        let tile := hl.tileAt (fld w 8 4) (fld w 16 3)
        let (id, t) := t.pendG d la 1 .send
        let v : VRec := { crec := r, core := tile * 64 + fld w 0 6, h := h, due := (t.tile src).s + manhattan src tile + 1, sender := hl.sender s.cur }
        let k : Park := { id := t.ctr, tile := tile, v := v, core := s.cur, lv := s.lv, pend := id, step := (t.tile src).s }
        let t := { t with parks := t.parks ++ [k], ctr := t.ctr + 1 }
        .done (t.updTile src (fun x => { x with unparked := x.unparked + 1 }))))

/-- Places of a pinned queue. -/
def pinnedCap : Nat := 64
/-- Places of a vestibule. -/
def vestCap : Nat := 512

/-- The place of the vestibule for one more record. -/
def Tile.vestSlot (t : Tile) : Nat := freeSlot (t.vest.map (fun v => v.slot)) t.vest.length 0

/-- A record of the vestibule, with its bytes in the vault (R292). -/
def State.vestRec (s : State) (tile : Nat) (v : VRec) : VRec := { v with crec := s.getRec tile (vestBase + 32 * v.slot) }

/-- Is there room in a core's queue for a sent record? -/
def State.queueRoom (s : State) (ck : Nat) (h : Bool) : Bool :=
  if h then decide ((s.core ck).handlers.length < handlerCap) && (s.tile (tileOf ck)).overflow.all (fun e => e.core != ck)
  else decide ((s.core ck).pinned.length < pinnedCap)

/-- Put a record into a core's queue. -/
def State.enqueueCore (s : State) (v : VRec) : State :=
  s.updCore v.core (fun c =>
    if v.h then { c with handlers := c.handlers ++ [{ crec := v.crec }] } else { c with pinned := c.pinned ++ [v.crec] })

/-- RECORD_PARK (R299, R303): a sent record arrives, in the order its core sent to that tile, and is accepted or
answered FULL. -/
def execRecordPark (msg : Nat) (s : State) : Out :=
  .next (match s.parks.find? (fun p => p.id == msg) with
    | none => s
    | some p =>
      if s.parks.any (fun q => decide (q.id < p.id) && q.core == p.core && q.tile == p.tile) then s
      else if s.wayBetween (tileOf p.core) p.tile ≠ .clear then s
      else
        let det := ((s.hallOf p.tile).getD {}).det
        let room := if det then decide ((s.tile p.tile).vest.length < vestCap) else s.queueRoom p.v.core p.v.h
        let v := { p.v with seq := (s.core p.core).sendSeq }
        let k := (s.tile p.tile).vestSlot
        let s := { s with parks := dropFirst (fun q => q.id == msg) s.parks }
        let s := s.updTile (tileOf p.core) (fun t => { t with unparked := if t.s = p.step then t.unparked - 1 else t.unparked })
        if room then
          let s := s.updCore p.core (fun c => { c with sendSeq := (c.sendSeq + 1) % 2 ^ 32 })
          let s := if det then (s.updTile p.tile (fun t => { t with vest := t.vest ++ [{ v with crec := {}, slot := k }] })).putRec p.tile (vestBase + 32 * k) v.crec
            else s.enqueueCore v
          s.deliver p.core p.pend 0
        else s.deliver p.core p.pend 1)

/-! ## The vestibule -/

/-- Does one key precede another: sender, then sequence number in serial arithmetic (R303)? -/
def VRec.before (a b : VRec) : Bool :=
  decide (a.sender < b.sender) || (a.sender == b.sender && decide ((b.seq + 2 ^ 32 - a.seq) % 2 ^ 32 < 2 ^ 31) && a.seq != b.seq)

/-- Insert into a list kept in key order. -/
def insVest (v : VRec) : List VRec → List VRec
  | [] => [v]
  | u :: us => if v.before u then v :: u :: us else u :: insVest v us

/-- Release due records in key order, until one finds its core's queue full. -/
def State.releaseFrom (s : State) (tile : Nat) : List VRec → State
  | [] => s
  | v :: vs =>
    if s.queueRoom v.core v.h then
      ((s.enqueueCore (s.vestRec tile v)).updTile tile (fun t => { t with vest := dropFirst (fun u => u == v) t.vest })).releaseFrom tile vs
    else s

/-- Release what is due at the step for which the tile last released (R303, R312). -/
def State.releaseVest (s : State) (tile : Nat) : State :=
  let t := s.tile tile
  s.releaseFrom tile ((t.vest.filter (fun v => decide (v.due ≤ t.vestReady))).foldl (fun l v => insVest v l) [])

/-- VESTIBULE_RELEASE (R303): records that waited for space move as places free. -/
def execVestibuleRelease (tile : Nat) (s : State) : Out :=
  .next (if ((s.hallOf tile).getD {}).stop = .none then s.releaseVest tile else s)

/-! ## Taking records -/

/-- Is q a stream port that is bound (R338)? -/
def Core.bound (c : Core) (q : Nat) : Bool := (c.qreg q).st != .unbound

/-- The task bank at the start of a record: g2 and g3 are set, the registers beneath bound stream ports stay, and the others
are zero (R175, R330). -/
def Core.startBank (c : Core) (r : Rec) : SMap Word :=
  SMap.set 0 3 r.frame ((2, 0xFF01000000000000) :: c.lv0.g.filter (fun e => decide (24 ≤ e.1) && decide (e.1 < 32) && c.bound (e.1 - 24)))

/-- A core starts a record at level 0, with PV 0 (R175, R291, R400). -/
def Core.startTask (c : Core) (r : Rec) : Core :=
  { c with
    lv0 := { c.lv0 with g := c.startBank r, p := [], pc := r.code, ltask := word (fld r.tidx 0 32),
                        jctr := r.jctr, hold := .ready, ir := [], held := [], heldV := [], late := none, rest := [] }
    gHi := []
    v := []
    pv := false
    qStall := none }

/-- A core starts a handler at level 1 (R175, R291, R400). -/
def Core.startHandler (c : Core) (r : HRec) : Core :=
  { c with
    lv1 := { c.lv1 with g := SMap.set 0 3 r.crec.frame [(2, 0xFF01000000007000)], p := [], pc := r.crec.code,
                        ltask := word (fld r.crec.tidx 0 32), jctr := r.crec.jctr, hold := .ready, ir := [], held := [],
                        heldV := [], late := none, rest := [] }
    level := true
    pv := r.svc }

/-- The class from which an idle core takes a record, and the new count C (R363). -/
def Tile.popClass (t : Tile) : Option (Nat × Nat) :=
  let full := (List.range 4).filter (fun c => !(t.queue c).isEmpty)
  match full with
  | [] => none
  | h :: [] => some (h, 0)
  | h :: l :: ls =>
    if t.popC < 1024 then some (h, t.popC + 1)
    else
      let age : Nat → Nat := fun c => (t.queue c).headD 0
      some (ls.foldl (fun m c => if age c < age m then c else m) l, 0)

/-- TASK_POP (R292, R363): an idle core takes the head of its pinned queue, or else of a task queue; the cores of a tile that do
so in one cycle, in ascending core index. -/
def execTaskPop (core : Nat) (s : State) : Out :=
  .next (
    let c := s.core core
    let h := (s.hallOf (tileOf core)).getD { stop := .cancel }
    let t := s.tile (tileOf core)
    if h.stop ≠ .none ∨ c.stopped ∨ c.level ∨ c.lv0.hold ≠ .idle then s
    else
      match c.pinned with
      | r :: rs => s.setCore core ({ c with pinned := rs }.startTask r)
      | [] =>
        if t.popBy.1 = s.cycle ∧ core < t.popBy.2 then s
        else
          match t.popClass with
          | none => s
          | some (k, n) =>
            (s.setTile (tileOf core) { t.popTask k with popC := n, popBy := (s.cycle, core) }).setCore core
              (c.startTask (s.taskRec (tileOf core) k)))

/-- May a handler start over what the task waits for? Not over a latched trap (R51), and not amid a vector store, whose elements
are all of one instruction (R132, R267). -/
def Thread.interruptible (t : Thread) : Bool :=
  t.rest.isEmpty &&
    match t.hold with
    | .trap _ _ _ => false
    | _ => true

/-- HANDLER_START (R183, R300, R404). -/
def execHandlerStart (core : Nat) (s : State) : Out :=
  .next (
    let c := s.core core
    let h := (s.hallOf (tileOf core)).getD { stop := .cancel }
    if h.stop ≠ .none ∨ c.stopped ∨ c.level ∨ c.tBit ∨ c.maskOpen ∨ c.windowOpen false ∨ !c.lv0.interruptible then s
    else
      match c.handlers with
      | [] => s
      | r :: rs => s.setCore core ({ c with handlers := rs }.startHandler r))

/-- SERVICE_OVERFLOW_DRAIN (R415): the oldest record that waits for a core moves into its handler queue. -/
def execServiceOverflowDrain (tile core : Nat) (s : State) : Out :=
  .next (
    let t := s.tile tile
    match t.overflow.find? (fun e => e.core == core) with
    | none => s
    | some e =>
      if (s.core core).handlers.length < handlerCap then
        (s.setTile tile { t with overflow := dropFirst (fun x => x.core == core) t.overflow }).updCore core
          (fun c => { c with handlers := c.handlers ++ [s.overRec tile e] })
      else s)

/-! ## Groups and masked windows -/

/-- JOIN and LEAVE (R305, R310): bit CORE of a group word, or of the step group when A names g0. -/
def groupBody (d a : Reg) (la : BitVec 4) (set : Bool) (s : State) : Res :=
  let i := coreIdx s.cur
  let f := fun (w : Word) => setFld w i 1 (bit set)
  if a = 0 then
    let t := s.tile (tileOf s.cur)
    let sh := if set && !bitAt t.group i then setFld t.shares i 1 0 else t.shares
    .done ((s.setTile (tileOf s.cur) { t with group := f t.group, shares := sh }).answer d la t.group)
  else
    match s.wordPlace (s.src a) with
    | .inr (k, v) => .trap s k v
    | .inl (k, o) =>
      let l := Loc.spad k o
      if s.overBarrier l 8 then .trap s tCLOBBER (s.src a)
      else if s.pendingAt l || s.scoreWaits l 8 then .stall
      else
        let w := word (s.locRead l 8)
        .done (((s.noteReach s.cur l 8).locWrite l 8 (f w).toNat).answer d la w)

/-- JOIN (R305). -/
def execJoin (gu : Guard) (la : BitVec 4) (d a : Reg) (s : State) : Out :=
  s.runs { len := xlen, on := s.guard gu, rs := [a.toNat], ws := [d.toNat], long := true } (groupBody d a la true)

/-- LEAVE (R305). -/
def execLeave (gu : Guard) (la : BitVec 4) (d a : Reg) (s : State) : Out :=
  s.runs { len := xlen, on := s.guard gu, rs := [a.toNat], ws := [d.toNat], long := true } (groupBody d a la false)

/-- MASKH (R304): it opens a masked window of the task; within one it only counts. -/
def execMaskh (gu : Guard) (s : State) : Out :=
  s.runs { len := xlen, on := s.guard gu, uncounted := !s.me.maskOpen, illegal := s.lv } (fun s =>
    .done (s.updMe (fun c => if c.maskOpen then c else { c with maskOpen := true, maskCnt := 0 })))

/-- UNMASKH (R304): it closes the window; at level 1 it does nothing. -/
def execUnmaskh (gu : Guard) (s : State) : Out :=
  s.runs { len := xlen, on := s.guard gu, uncounted := true } (fun s =>
    .done (if s.lv then s else s.updMe (fun c => { c with maskOpen := false, maskCnt := 0 })))

end Sys2Proof.Machine
end

