-- ==== Sys2Proof/Machine/Steps.lean ====
section
/-!
DEFINITION. Steps, landings, the cone of visibility and the step watchdog (R308 to R324).
-/

namespace Sys2Proof.Machine

open Sys2Proof

/-! ## Neighbours -/

/-- The in-hall neighbours of a tile, each with its direction: 0 west, 1 east, 2 north, 3 south (R308). -/
def Hall.neighbours (h : Hall) (t : Nat) : List (Nat × Nat) :=
  let x := h.x t
  let y := h.y t
  (if 0 < x then [(0, t - 1)] else []) ++ (if x + 1 < h.w then [(1, t + 1)] else []) ++
    (if 0 < y then [(2, t - 16)] else []) ++ (if y + 1 < h.h then [(3, t + 16)] else [])

/-- The direction back. -/
def backDir (d : Nat) : Nat := d / 2 * 2 + (1 - d % 2)

/-! ## The conditions of R311 -/

/-- Members whose share of the current step is not complete (R310, R322). -/
def Tile.left (t : Tile) : Nat := ((List.range 64).filter (fun i => bitAt (t.group &&& ~~~t.shares) i)).length

/-- Condition 3: every in-hall neighbour is known to have entered this step or a later one. -/
def Tile.nbrsIn (t : Tile) (ns : List (Nat × Nat)) : Bool := ns.all (fun n => decide (t.s ≤ t.nbrS.get 0 n.1))

/-- The conditions of a tile: neighbours, the share and message conditions, and whether a neighbour lies across a
dead link. -/
structure StepCond where
  nbr : Bool
  mem : Bool
  msg : Bool
  dead : Bool
  deriving DecidableEq, Repr

/-- The conditions as they stand (R311, R316). -/
def State.stepCond (s : State) (tile : Nat) : StepCond :=
  let t := s.tile tile
  let ns := match s.hallOf tile with
    | none => []
    | some h => h.neighbours tile
  { nbr := t.nbrsIn ns, mem := t.left == 0, msg := t.unparked == 0,
    dead := ns.any (fun n => s.wayToTile n.2 tile == .dead) }

/-- Self-held (R318). -/
def StepCond.selfHeld (c : StepCond) : Bool := c.dead || (c.nbr && !(c.mem && c.msg))

/-- The status word of STEPQ and HALLQ (R322). -/
def State.stepStatus (s : State) (tile : Nat) : Word :=
  let c := s.stepCond tile
  let t := s.tile tile
  word (t.s + t.left * 2 ^ 32 + bit (!c.msg) * 2 ^ 40 + bit (!c.nbr) * 2 ^ 41 + bit c.selfHeld * 2 ^ 42)

/-! ## STEP -/

/-- Stores, AMOs and gallery reads of the core that STEP waits for (R283, R321). -/
def State.stepBusy (s : State) : Bool :=
  s.flight.any (fun r => r.core == s.cur && r.loc.sameTarget (.gal (tileOf s.cur) 0)) ||
    s.gmsgs.any (fun m => m.core == s.cur && m.landing.isSome)

/-- The core's share of step `k` is complete, if it is a member (R310, R321). -/
def State.shareDone (s : State) (k : Nat) : State :=
  let tl := tileOf s.cur
  let t := s.tile tl
  let i := coreIdx s.cur
  if bitAt t.group i ∧ t.s = k then s.setTile tl { t with shares := setFld t.shares i 1 1 } else s

/-- The second half of STEP (R321): it waits until its tile has left step `k`. -/
def stepWait (d : Reg) (k : Nat) (s : State) : Res :=
  let t := s.tile (tileOf s.cur)
  if k < t.s then .done (s.dst d (word t.s)) else .wait s (.step k)

/-- STEP (R321): it takes note of the step `k`, waits for the core's earlier accesses to its gallery, completes the share of
step `k` once, and waits until its tile has left that step. -/
def stepBody (d : Reg) (s : State) : Res :=
  let t := s.tile (tileOf s.cur)
  match (s.me.thr s.lv).hold with
  | .step k => stepWait d k s
  | .share k => if s.stepBusy then .wait s (.share k) else stepWait d k (s.shareDone k)
  | _ =>
    if t.s = 0xFFFFFFFF then .trap s tCONE (word t.s)
    else if s.stepBusy then .wait s (.share t.s)
    else stepWait d t.s (s.shareDone t.s)

/-- STEP (R321): its guard is tested before its level, as its entry says. -/
def execStep (gu : Guard) (d : Reg) (s : State) : Out :=
  s.runs { len := xlen, on := s.guard gu, ws := [d.toNat], blocking := true, nomask := true, illegal := s.lv && s.guard gu } (stepBody d)

/-- STEPQ (R322). -/
def execStepq (gu : Guard) (d : Reg) (s : State) : Out :=
  s.runs { len := xlen, on := s.guard gu, ws := [d.toNat] } (fun s => .done (s.dst d (s.stepStatus (tileOf s.cur))))

/-! ## Reads of other tiles -/

/-- Send a gallery read or a query; the thread is held until the target has answered. DEDUCED (log entry 8). -/
def State.askTile (s : State) (dst : Option PReg0) (la : BitVec 4) (mask : Vec) (m : GMsg) : Res :=
  let p := { s.newPend dst la.toNat 1 .mem mask with acc := 1 }
  let s := s.enterPend p
  .wait { s with gmsgs := s.gmsgs ++ [{ m with id := s.ctr, core := s.cur, lv := s.lv, pend := p.id, pc := s.pc }], ctr := s.ctr + 1 }
    (.access p.id)

/-- HALLQ (R322). -/
def execHallq (gu : Guard) (la : BitVec 4) (d a : Reg) (s : State) : Out :=
  s.runs { len := xlen, on := s.guard gu, rs := [a.toNat], ws := [d.toNat], long := true } (fun s =>
    match (s.me.thr s.lv).hold with
    | .answered _ => .done s
    | _ =>
      let w := s.src a
      let h := s.myHall
      if !targetOk h w false false then .trap s tCONE w
      else
        let u := h.tileAt (fld w 8 4) (fld w 16 3)
        if s.wayBetween (tileOf s.cur) u = .dead then .trap s tREFUSED w
        else s.askTile (greg s.lv d.toNat) la 0 { tile := u, n := 8, tval := w })

/-- The address of a byte of the own gallery (R139). -/
def galVA (o : Nat) : Word := 0xFF03000000000000 + word o

/-- RGET and RGETV (R323): `n` bytes of the gallery at a hall offset. -/
def rgetBody (dst : Option PReg0) (la : BitVec 4) (n : Nat) (sext : Bool) (a : Reg) (dx dy : BitVec 4) (off : BitVec 14)
    (s : State) : Res :=
  match (s.me.thr s.lv).hold with
  | .answered _ => .done s
  | _ =>
    let imm := word (dx.toNat * 2 ^ 20 + dy.toNat * 2 ^ 16 + off.toNat)
    let x := dx.toInt
    let y := dy.toInt
    let d := x.natAbs + y.natAbs
    let h := s.myHall
    let tx := (h.x (tileOf s.cur) : Int) + x
    let ty := (h.y (tileOf s.cur) : Int) + y
    if 3 < d ∨ tx < 0 ∨ (h.w : Int) ≤ tx ∨ ty < 0 ∨ (h.h : Int) ≤ ty then .trap s tCONE imm
    else
      let o := s.src a + word off.toNat
      if o.toNat % n ≠ 0 then .trap s tALIGN o
      else if galSize < o.toNat + n then .trap s tAPERTURE o
      else
        let mask := BitVec.allOnes 1024
        if d = 0 then
          let l := Loc.gal (tileOf s.cur) o.toNat
          if s.rmwAwaited l n then .stall
          else
            let (p, t) := State.startLoad { s with ctr := s.ctr + 1 } (s.newPend dst la.toNat 1 .mem mask) .df sext
              { n := n, addr := galVA o.toNat } l (BitVec.allOnes 128)
            s.loadEnd p t
        else
          let u := h.tileAt tx.toNat ty.toNat
          if s.wayBetween (tileOf s.cur) u = .dead then .trap s tREFUSED imm
          else
            s.askTile dst la mask
              { tile := u, landing := some ((s.tile (tileOf s.cur)).s - d), off := o.toNat, n := n, sext := sext, tval := imm }

/-- RGET (R323). -/
def execRget (gu : Guard) (la ty : BitVec 4) (d a : Reg) (dx dy : BitVec 4) (off : BitVec 14) (s : State) : Out :=
  s.runs { len := xlen, on := s.guard gu, rs := [a.toNat], ws := [d.toNat], long := true }
    (rgetBody (greg s.lv d.toNat) la (bitsOf ty.toNat / 8) (isSigned ty.toNat) a dx dy off)

/-- RGETV (R323). -/
def execRgetv (gu : Guard) (la : BitVec 4) (d : VReg) (a : Reg) (dx dy : BitVec 4) (off : BitVec 14) (s : State) : Out :=
  s.runs { len := xlen, on := s.guard gu, rs := [a.toNat], vw := [d.toNat], long := true }
    (rgetBody (some (.v d.toNat)) la 128 false a dx dy off)

/-- Does an uncorrectable error stand in `n` bytes of a landing (R314)? -/
def State.landPoison (s : State) (a n : Nat) : Bool := s.mem.landErr.any (fun e => overlaps (e * 8) 8 a n)

/-- GALLERY_READ (R314, R316, R322): a request arrives at its target tile and is answered there.
DEDUCED (log entry 31). -/
def execGalleryRead (msg : Nat) (s : State) : Out :=
  .next (match s.gmsgs.find? (fun m => m.id == msg) with
    | none => s
    | some m =>
      let drop := fun (s : State) => { s with gmsgs := dropFirst (fun q => q.id == msg) s.gmsgs }
      match s.wayBetween (tileOf m.core) m.tile with
      | .wait => s
      | .dead => (drop s).served m.core m.pend (some (0, tREFUSED, m.tval))
      | .clear =>
        match m.landing with
        | none => ((drop s).give m.core m.pend 0 8 false (s.stepStatus m.tile).toNat).served m.core m.pend none
        | some k =>
          let a := landAddr m.tile (k % 8) m.off
          if s.landPoison a m.n then (drop s).served m.core m.pend (some (0, tPOISON, word m.off))
          else ((drop s).give m.core m.pend 0 m.n m.sext (readBytes s.mem.land a m.n)).served m.core m.pend none)

/-! ## Entering a step -/

/-- STEP_SIGNAL (R311, R316): the oldest step signal from a neighbour arrives at a tile. -/
def execStepSignal (tile dir : Nat) (s : State) : Out :=
  .next (
    let t := s.tile tile
    match t.signals.find? (fun e => e.1 == dir), s.hallOf tile with
    | some e, some h =>
      match (h.neighbours tile).find? (fun n => n.1 == dir) with
      | none => s
      | some n =>
        if s.wayToTile n.2 tile ≠ .clear then s
        else s.setTile tile { t with signals := dropFirst (fun q => q.1 == dir) t.signals, nbrS := t.nbrS.put dir e.2 }
    | _, _ => s)

/-- The live gallery is copied into the landing of a step (R312, R314). -/
def State.takeLanding (s : State) (tile step : Nat) : State :=
  let base := landAddr tile (step % 8) 0
  let gal := s.mem.gal.filter (fun e => e.1 / 2 ^ 14 == tile)
  s.updMem (fun m => { m with
    land := gal.foldl (fun l e => l.put (base + e.1 % 2 ^ 14) e.2) (m.land.clear base galSize)
    landErr := m.landErr.filter (fun a => !(decide (base ≤ a * 8) && decide (a * 8 < base + galSize))) })

/-- May a tile enter its next step (R310, R311, R314)? -/
def State.mayEnter (s : State) (tile : Nat) : Bool :=
  let t := s.tile tile
  let c := s.stepCond tile
  t.group != 0 && c.mem && c.msg && c.nbr &&
    !(decide (7 ≤ t.s) && s.gmsgs.any (fun m => m.tile == tile && m.landing == some (t.s - 7)))

/-! ## The watchdog -/

/-- FRAME of a STALL message (R318). -/
def State.stallFrame (s : State) (h : Hall) (tile : Nat) : Word :=
  let c := s.stepCond tile
  word ((s.tile tile).s * 2 ^ 32 + bit c.dead * 2 ^ 26 + bit (!c.msg) * 2 ^ 25 + bit (!c.mem) * 2 ^ 24 + h.y tile * 2 ^ 16 + h.x tile * 2 ^ 8)

/-- STALL is due: the tile is self-held, the count has reached HALLWD, no message of this step has been posted, and the launch
does not end in this cycle (R318, R359, R361). -/
def State.stallDue (s : State) (h : Hall) (tile : Nat) : Bool :=
  !s.launchOver h && h.hallwd != 0 && h.stallh != 0 && (s.stepCond tile).selfHeld && decide (h.hallwd ≤ (s.tile tile).wd) && !(s.tile tile).stallPosted

/-- A message that a tile itself posts comes after those of the cores in the order of one cycle (R415): the place of the tile
among the senders. DESIGN CHOICE (log entry 23). -/
def Hall.tileSender (h : Hall) (tile : Nat) : Nat := 64 * (h.w * h.h) + h.index tile

/-- STALL (R318, R415): the message goes to the service core, or waits in the tile for room. -/
def execStall (tile : Nat) (s : State) : Out :=
  .next (match s.hallOf tile with
    | none => s
    | some h =>
      if !s.stallDue h tile then s
      else
        let r : HRec := { crec := { code := h.stallh, frame := s.stallFrame h tile }, svc := true }
        let s := s.updTile tile (fun t => { t with stallPosted := true })
        match s.postHandler h.service (h.tileSender tile) r with
        | some s' => s'
        | none => s.updTile tile (fun t => { t with unposted := t.unposted ++ [r] }))

/-! ## The entry -/

/-- STEP_ENTRY (R312): it comes after a STALL that is due for the step that ends (R318). DEDUCED (log entry 32). -/
def execStepEntry (tile : Nat) (s : State) : Out :=
  .next (match s.hallOf tile with
    | none => s
    | some h =>
      if h.stop ≠ .none ∨ !s.mayEnter tile ∨ s.stallDue h tile then s
      else
        let k := (s.tile tile).s + 1
        let s := s.takeLanding tile k
        let s := s.updTile tile (fun t => { t with s := k })
        let s := (h.neighbours tile).foldl (fun s n => s.updTile n.2 (fun t => { t with signals := t.signals ++ [(backDir n.1, k)] })) s
        let s := (s.updTile tile (fun t => { t with vestReady := k })).releaseVest tile
        s.updTile tile (fun t => { t with shares := 0, wd := 0, stallPosted := false }))

end Sys2Proof.Machine
end

