-- ==== Sys2Proof/Machine/System.lean ====
section
/-!
DEFINITION. The Y-format system instructions (R406 to R410), the system registers of GETS and SETS (R181, R182,
R409), and TLBINV (R417).
-/

namespace Sys2Proof.Machine

open Sys2Proof

/-- TRAP (R407). -/
def execTrap (imm : BitVec 12) (s : State) : Out := s.runs {} (fun s => .trap s tTRAP (imm.setWidth 64))

/-- BKPT (R407). -/
def execBkpt (imm : BitVec 12) (s : State) : Out := s.runs {} (fun s => .trap s tBKPT (imm.setWidth 64))

/-- ERET (R408): ILLEGAL with T = 0, before the count of a masked window (R62). -/
def execEret (s : State) : Out :=
  s.runs { blocking := true, illegal := !s.me.tBit } (fun s => .wait (s.updMe Core.eret) .ready)

/-- WFE (R410). -/
def execWfe (s : State) : Out :=
  s.runs { blocking := true, nomask := true } (fun s =>
    if s.lv || s.me.latch then .done (s.updMe (fun c => { c with latch := false })) else .wait s .wfe)

/-- WFE_WAKE (R410): a WFE returns. -/
def execWfeWake (core : Nat) (s : State) : Out :=
  .next (s.updCore core (fun c =>
    if c.lv0.hold == .wfe then { c.resume false (c.pcOf false + 4) with latch := false } else c))

/-! ## System registers -/

/-- Is the register privileged? -/
def sysPriv (n : Nat) : Bool := decide (0x100 ≤ n)

/-- The value of a system register of the executing thread, none when the number is not listed (R181). -/
def State.sysReg (s : State) (n : Nat) : Option Word :=
  let c := s.me
  let h := s.myHall
  let t := tileOf s.cur
  match n with
  | 0x000 => some (word (coreIdx s.cur))
  | 0x001 => some (word (tileX t))
  | 0x002 => some (word (tileY t))
  | 0x003 => some (word (h.x t))
  | 0x004 => some (word (h.y t))
  | 0x005 => some (word h.w)
  | 0x006 => some (word h.h)
  | 0x007 => some (word (bit c.level))
  | 0x010 => some h.lseed
  | 0x011 => some (c.thr c.level).ltask
  | 0x012 => some (word (s.tile t).s)
  | 0x018 => some (word s.cycle)
  | 0x020 => some (word (c.thr c.level).fp.toNat)
  | 0x030 => some c.sgkp
  | 0x031 => some c.sgki
  | 0x032 => some c.sset
  | 0x033 => some c.sper
  | 0x034 => some (word c.w)
  | 0x038 => some c.cpscout
  | 0x100 => some c.tvec
  | 0x101 => some c.tcause
  | 0x102 => some c.tpc
  | 0x103 => some c.tval
  | _ => none

/-- What SETS does to a core; registers that are read only stay as they are (R182). -/
def Core.setSysReg (c : Core) (n : Nat) (x : Word) : Core :=
  match n with
  | 0x020 => let t := c.thr c.level; c.setThr c.level { t with fp := FFlags.ofWord x }
  | 0x030 => { c with sgkp := x &&& 0xFF }
  | 0x031 => { c with sgki := x &&& 0xFF }
  | 0x032 => { c with sset := x &&& 0xFFFF }
  | 0x033 => { c with sper := if fld x 0 16 < 16 then 16 else x &&& 0xFFFF }
  | 0x038 => { c with cpscout := x &&& 0xF }
  | 0x100 => c.writeTrapReg 0 x
  | 0x101 => c.writeTrapReg 2 x
  | 0x102 => c.writeTrapReg 1 x
  | 0x103 => c.writeTrapReg 3 x
  | _ => c

/-- What GETS and SETS declare. -/
def sysUses (rs ws : List Nat) (num : BitVec 12) (s : State) : Uses :=
  { rs := rs, ws := ws, illegal := (s.sysReg num.toNat).isNone, fpwait := num == 0x020,
    priv := if sysPriv num.toNat then some (some (num.setWidth 64)) else none }

/-- Flags that have arrived are delivered before FPFLAGS is read or written (R88). -/
def State.deliverFlags (s : State) (num : BitVec 12) : State :=
  if num = 0x020 then s.updMe (fun c => c.flushFlags c.level) else s

/-- GETS (R409). -/
def execGets (a : Reg) (num : BitVec 12) (s : State) : Out :=
  s.runs (sysUses [] [a.toNat] num s) (fun s =>
    let s := s.deliverFlags num
    .done (s.dst a ((s.sysReg num.toNat).getD 0)))

/-- SETS (R409). -/
def execSets (a : Reg) (num : BitVec 12) (s : State) : Out :=
  s.runs (sysUses [a.toNat] [] num s) (fun s =>
    .done ((s.deliverFlags num).updMe (fun c => c.setSysReg num.toNat (s.src a))))

/-! ## TLBINV -/

/-- Is a bay within a scope of a core (R45)? -/
def inScope (ck scope bk : Nat) : Bool :=
  let t := tileOf ck
  let u := bk / 8
  match scope with
  | 0 => false
  | 1 => bk == bayOf ck
  | 2 => u == t
  | 3 => dieOf u == dieOf t && quadOf u == quadOf t
  | 4 => dieOf u == dieOf t
  | _ => true

/-- Does some access of a bay that has not been performed use one of the entries? Requests in flight, elements of a vector store
that wait for the store queue, fills and near-memory commands (R417). -/
def State.usesEntry (s : State) (bk : Nat) (es : List TlbEnt) : Bool :=
  let hit := fun (pa n : Nat) => es.any (fun e => overlaps e.pa (2 ^ e.size) pa n)
  !es.isEmpty &&
    (s.flight.any (fun r => bayOf r.core == bk && !r.performed && match r.loc with | .glob pa => hit pa r.n | _ => false) ||
     s.cores.any (fun e => bayOf e.1 == bk && (e.2.lv0.rest ++ e.2.lv1.rest).any (fun r => match r.loc with | .glob pa => hit pa r.n | _ => false)) ||
     s.fills.any (fun f => bayOf f.core == bk && f.pages.any (fun p => hit p.2 65536)) ||
     s.cmds.any (fun c => bayOf c.core == bk && (hit c.dst 1 || hit c.src 1 || hit c.res 1)))

/-- The entries of a bay that a drop takes. -/
def Bay.dropping (b : Bay) (p : TlbEnt → Bool) : List TlbEnt := (b.vlt ++ b.mft ++ b.cet ++ b.ift).filter p

/-- Drop entries from every TLB of the bays in scope (R417). -/
def State.tlbDrop (s : State) (scope : Nat) (p : TlbEnt → Bool) : State :=
  let keep := fun (l : List TlbEnt) => l.filter (fun e => !p e)
  { s with bays := s.bays.map (fun (e : Nat × Bay) =>
      (e.1, if inScope s.cur scope e.1 then
        { e.2 with vlt := keep e.2.vlt, mft := keep e.2.mft, cet := keep e.2.cet, ift := keep e.2.ift } else e.2)) }

/-- TLBINV of pages, an address space or everything: it completes once every access that used a dropped entry has
been performed (R417). DEDUCED (log entry 30). -/
def tlbinvBody (scope : Nat) (p : TlbEnt → Bool) (s : State) : Res :=
  if s.unreleased then .wait s .issued
  else if s.bays.any (fun e => inScope s.cur scope e.1 && s.usesEntry e.1 (e.2.dropping p)) then .wait s .issued
  else .done (s.tlbDrop scope p)

/-- What TLBINV declares. -/
def tlbinvUses (a : Reg) : Uses := { rs := [a.toNat], blocking := true, priv := some none }

/-- TLBINV.PAGE (R417). -/
def execTlbinvPage (a : Reg) (scope : BitVec 3) (s : State) : Out :=
  s.runs (tlbinvUses a) (fun s => tlbinvBody scope.toNat (fun e => e.maps s.myHall.asid (s.src a).toNat) s)

/-- TLBINV.ASID (R417). -/
def execTlbinvAsid (a : Reg) (scope : BitVec 3) (s : State) : Out :=
  s.runs (tlbinvUses a) (fun s => tlbinvBody scope.toNat (fun e => !e.g && e.asid == fld (s.src a) 0 12) s)

/-- TLBINV.ALL (R417). -/
def execTlbinvAll (a : Reg) (scope : BitVec 3) (s : State) : Out :=
  s.runs (tlbinvUses a) (fun s => tlbinvBody scope.toNat (fun _ => true) s)

/-- Pins a TLB can hold (R412). -/
def pinCap : Nat := 8

/-- Unpin the pin that was made first; entries that are pinned stand in the order of their pinning, the newest
first. -/
def unpinOldest : List TlbEnt → List TlbEnt
  | [] => []
  | e :: es => if es.any (fun x => x.pinned) then e :: unpinOldest es else { e with pinned := false } :: es

/-- Pin the entry that maps an address (R412, R417). -/
def pinEntry (asid va : Nat) (l : List TlbEnt) : List TlbEnt :=
  match l.find? (fun e => e.maps asid va) with
  | none => l
  | some e =>
    let rest := l.filter (fun x => x != e)
    let rest := if pinCap ≤ (rest.filter (fun x => x.pinned)).length then unpinOldest rest else rest
    { e with pinned := true } :: rest

/-- TLBINV.PIN (R417): the page of g[A] is translated as a fetch through the own IFT. DEDUCED (log entry 30). -/
def pinBody (a : Reg) (s : State) : Res :=
  if s.unreleased then .wait s .issued
  else
    let va := s.src a
    if !inGlobal va then .trap s tAPERTURE va
    else
      let asid := s.myHall.asid
      match s.translate (bayOf s.cur) .ift s.rqst asid va.toNat 2 s.me.pv with
      | (.fault why, t) => .page t va 2 why true
      | (.wait, _) => .stall
      | (.phys _, t) => .done (t.updBay (bayOf s.cur) (fun b => { b with ift := pinEntry asid va.toNat b.ift }))

/-- TLBINV.PIN (R417); its scope is BAY. -/
def execTlbinvPin (a : Reg) (_scope : BitVec 3) (s : State) : Out := s.runs (tlbinvUses a) (pinBody a)

end Sys2Proof.Machine
end

