-- ==== Sys2Proof/Machine/Streams.lean ====
section
/-!
DEFINITION. Rate-coupled streams (R328 to R347): declaring a ring, binding, the messages between the two ends, the
control loop, and what a failing link does to a stream.
-/

namespace Sys2Proof.Machine

open Sys2Proof

/-! ## Status (R341) -/

/-- The status word: CODE and VALUE. -/
def streamStatus (code value : Nat) : Word := word (code + value % 2 ^ 32 * 2 ^ 32)

/-- GAIN. -/
def qGAIN : Nat := 1
/-- CYCLE. -/
def qCYCLE : Nat := 2
/-- NOPEER. -/
def qNOPEER : Nat := 3
/-- BUSY. -/
def qBUSY : Nat := 4
/-- NORING. -/
def qNORING : Nat := 5
/-- SELF. -/
def qSELF : Nat := 6
/-- BADRING. -/
def qBADRING : Nat := 7
/-- DEADLINK. -/
def qDEADLINK : Nat := 8

/-- What the five stream instructions declare (R340): one that names a bound q-register is barred from a masked window (R304). -/
def streamUses (gu : Guard) (rs : List Nat) (d : Reg) (q : BitVec 3) (s : State) : Uses :=
  { len := xlen, on := s.guard gu, rs := rs, ws := [d.toNat], blocking := true, illegal := s.lv,
    nomask := (s.me.qreg q.toNat).st != .unbound }

/-- The q-register of the executing core. -/
def State.myQ (s : State) (q : BitVec 3) : QReg := s.me.qreg q.toNat
/-- Replace it. -/
def State.setMyQ (s : State) (q : BitVec 3) (y : QReg) : State := s.updMe (fun c => c.setQ q.toNat y)
/-- Change a q-register of any core. -/
def State.updQ (s : State) (ck q : Nat) (f : QReg → QReg) : State := s.updCore ck (fun c => c.setQ q (f (c.qreg q)))

/-- Is a stream state one in which the loop runs or is frozen? -/
def QSt.live : QSt → Bool
  | .bound => true
  | .retrain => true
  | _ => false

/-! ## SRING -/

/-- The offset in the own scratchpad that an address names: 0xFF00, or 0xFF02 with the own core index (R342). -/
def ownSpad (ck : Nat) (a : Word) : Option Nat :=
  let off := a.toNat % 2 ^ 48
  if a.toNat / 2 ^ 48 = 0xFF00 then some off
  else if a.toNat / 2 ^ 48 = 0xFF02 ∧ off / 2 ^ 17 = coreIdx ck then some (off % 2 ^ 17)
  else none

/-- The ring that an address and a slot count declare, none when they break R342. -/
def State.ringOf (s : State) (a n : Word) : Option (Nat × Nat) :=
  match ownSpad s.cur a with
  | none => none
  | some o =>
    if o % 16 ≠ 0 ∨ n.toNat < 2 ∨ 4096 < n.toNat ∨ spadSize < o + 16 + 8 * n.toNat then none
    else if s.overBarrier (.spad s.cur o) (16 + 8 * n.toNat) then none
    else some (o, n.toNat)

/-- SRING (R342). -/
def execSring (gu : Guard) (d a b : Reg) (q : BitVec 3) (s : State) : Out :=
  s.runs (streamUses gu [a.toNat, b.toNat] d q s) (fun s =>
    let y := s.myQ q
    if y.st ≠ .unbound then .done (s.dst d (streamStatus qBUSY 0))
    else
      match s.ringOf (s.src a) (s.src b) with
      | none => .done (s.dst d (streamStatus qBADRING 0))
      | some r => .done ((s.dst d 0).setMyQ q { y with ring := some r }))

/-! ## Checks of the gains -/

/-- R336 for gains and a set point. -/
def gainsOk (kp ki setp slots : Nat) : Bool := decide (kp ≤ 64) && decide (ki ≤ kp / 4) && decide (setp ≤ slots)

/-- The edges of the coupling graph: producer, consumer, SGKP (R337), but for the stream whose consumer end is given. -/
def State.edges (s : State) (skip : Nat × Nat) : List (Nat × Nat × Nat) :=
  s.cores.flatMap (fun e =>
    (e.2.q.filter (fun x => !x.2.prod && x.2.st.live && (e.1, x.1) != skip)).map (fun x => (x.2.peer.1, e.1, x.2.kp)))

/-- The greater of two path weights. -/
def maxPath (a b : Option Nat) : Option Nat :=
  match a, b with
  | none, b => b
  | a, none => a
  | some x, some y => some (max x y)

/-- The greatest weight of a simple path to `goal`. -/
def heaviest (es : List (Nat × Nat × Nat)) (goal : Nat) : Nat → List Nat → Nat → Option Nat
  | 0, _, _ => none
  | n + 1, seen, v =>
    if v = goal then some 0
    else
      es.foldl (fun acc e =>
        if e.1 = v && !seen.contains e.2.1 then
          maxPath acc ((heaviest es goal n (e.2.1 :: seen) e.2.1).map (fun w => w + e.2.2))
        else acc) none

/-- Does an edge from `p` to `c` with gain `kp` close a cycle over the limit (R337)? -/
def State.overGain (s : State) (skip : Nat × Nat) (p c kp : Nat) : Bool :=
  let es := s.edges skip
  match heaviest es p (es.length + 1) [c] c with
  | none => false
  | some w => decide (96 < w + kp)

/-! ## SBIND -/

/-- SBIND.CONS (R343): it stores to HEAD and TAIL in the core's order, and not under a range-scoreboard entry (R141, R148). -/
def execSbindCons (gu : Guard) (d b : Reg) (q : BitVec 3) (s : State) : Out :=
  s.runs (streamUses gu [b.toNat] d q s) (fun s =>
    let y := s.myQ q
    let c := s.me
    let x := s.src b
    if y.st ≠ .unbound then .done (s.dst d (streamStatus qBUSY 0))
    else
      match y.ring with
      | none => .done (s.dst d (streamStatus qNORING 0))
      | some (o, n) =>
        let wp := fld x 0 9
        let wc := fld x 16 9
        let ok := gainsOk c.sgkp.toNat c.sgki.toNat c.sset.toNat n && decide (16 ≤ c.sper.toNat) &&
          fld x 9 7 == 0 && fld x 25 39 == 0 && decide (1 ≤ wp) && decide (wp ≤ 256) && decide (1 ≤ wc) && decide (wc ≤ 256)
        if !ok then .done (s.dst d (streamStatus qGAIN 0))
        else if s.pendingAt (.spad s.cur o) || s.scoreWaits (.spad s.cur o) 16 then .stall
        else
          let s := (s.locWrite (.spad s.cur o) 8 0).locWrite (.spad s.cur (o + 8)) 8 0
          .done ((s.dst d 0).setMyQ q
            { ring := y.ring, st := .waiting, base := o, slots := n, wp0 := wp, wc0 := wc, kp := c.sgkp.toNat, ki := c.sgki.toNat,
              setp := c.sset.toNat, per := c.sper.toNat }))

/-- Both ends enter BOUND or RETRAIN, the producer receives N credits, and the loop starts; the stall counts of the waiting
consumer stay (R334, R343, R348). -/
def State.bindEnds (s : State) (p q c k : Nat) (st : QSt) : State :=
  let z := (s.core c).qreg k
  let s := s.updQ c k (fun z => { z with st := st, peer := (p, q), wp := z.wp0, wc := z.wc0, integ := 0, laste := 0,
                                         stall := false, count := 0 })
  s.updQ p q (fun y => { ring := y.ring, st := st, prod := true, peer := (c, k), credits := z.slots, weight := z.wp0 })

/-- SBIND.PROD (R343). -/
def execSbindProd (gu : Guard) (d b : Reg) (q k : BitVec 3) (s : State) : Out :=
  s.runs (streamUses gu [b.toNat] d q s) (fun s =>
    let w := s.src b
    let h := s.myHall
    if !targetOk h w false true then .trap s tCONE w
    else
      let c := h.tileAt (fld w 8 4) (fld w 16 3) * 64 + fld w 0 6
      let z := (s.core c).qreg k.toNat
      let way := s.wayBetween (tileOf s.cur) (tileOf c)
      if (s.myQ q).st ≠ .unbound then .done (s.dst d (streamStatus qBUSY 0))
      else if c = s.cur then .done (s.dst d (streamStatus qSELF 0))
      else if z.st ≠ .waiting then .done (s.dst d (streamStatus qNOPEER 0))
      else if way = .dead then .done (s.dst d (streamStatus qDEADLINK 0))
      else if s.overGain (c, k.toNat) s.cur c z.kp then .done (s.dst d (streamStatus qCYCLE 0))
      else .done ((s.dst d 0).bindEnds s.cur q.toNat c k.toNat (if way = .clear then .bound else .retrain)))

/-! ## SGAIN, SSTAT, SUNBIND -/

/-- The consumer's end of a bound q-register: its core and index. -/
def State.consEnd (s : State) (q : BitVec 3) : Nat × Nat :=
  let y := s.myQ q
  if y.prod then y.peer else (s.cur, q.toNat)

/-- SGAIN (R344). -/
def execSgain (gu : Guard) (d b : Reg) (q : BitVec 3) (s : State) : Out :=
  s.runs (streamUses gu [b.toNat] d q s) (fun s =>
    let y := s.myQ q
    let x := s.src b
    let e := s.consEnd q
    let z := (s.core e.1).qreg e.2
    let kp := fld x 0 8
    let ki := fld x 8 8
    let sp := fld x 16 16
    if y.st = .unbound then .trap s tSTREAM (streamVal 1 q.toNat)
    else if !y.st.live then .done (s.dst d (streamStatus qBUSY 0))
    else if fld x 32 32 ≠ 0 ∨ !gainsOk kp ki sp z.slots then .done (s.dst d (streamStatus qGAIN 0))
    else if s.overGain e z.peer.1 e.1 kp then .done (s.dst d (streamStatus qCYCLE 0))
    else .done ((s.dst d 0).updQ e.1 e.2 (fun z => { z with kp := kp, ki := ki, setp := sp })))

/-- The number of a stream state (R345). -/
def QSt.code : QSt → Nat
  | .unbound => 0
  | .waiting => 1
  | .bound => 2
  | .retrain => 3
  | .closed => 4
  | .dead => 5

/-- A word of SSTAT (R345). Before the loop has started its registers have no stated value: `free` stands for them.
DESIGN CHOICE (log entry 26). -/
def QReg.statWord (z : QReg) (sel : Nat) (free : Word) : Word :=
  match sel with
  | 0 =>
    if z.st = .waiting then word (free.toNat / 2 ^ 14 * 2 ^ 14 + z.st.code)
    else
      word ((BitVec.ofInt 16 z.integ).toNat * 2 ^ 48 + (BitVec.ofInt 16 z.laste).toNat * 2 ^ 32 + z.wp * 2 ^ 23 + z.wc * 2 ^ 14 + z.st.code)
  | 1 => word (z.empty * 2 ^ 32 + z.full)
  | _ => word (z.samples % 2 ^ 32 * 2 ^ 32 + (z.tail - z.head))

/-- SSTAT (R345). -/
def execSstat (gu : Guard) (d : Reg) (q : BitVec 3) (wsel : BitVec 2) (s : State) : Out :=
  s.runs { streamUses gu [] d q s with illegal := s.lv || wsel == 3 } (fun s =>
    if (s.myQ q).st = .unbound then .trap s tSTREAM (streamVal 1 q.toNat)
    else
      let e := s.consEnd q
      let z := (s.core e.1).qreg e.2
      let s' := { s with ctr := s.ctr + 1 }
      .done (s'.dst d (z.statWord wsel.toNat (Config.freeValue s.ctr))))

/-- A message for an end of a stream. -/
def QFlight.isFor (m : QFlight) (e : Nat × Nat) : Bool := m.core == e.1 && m.q == e.2

/-- A push on its way. -/
def QMsg.isPush : QMsg → Bool
  | .push _ => true
  | _ => false

/-- Free a q-register; the ring stays declared. -/
def State.freeQ (s : State) (q : BitVec 3) : State :=
  { s.setMyQ q { ring := (s.myQ q).ring } with qflight := s.qflight.filter (fun m => !m.isFor (s.cur, q.toNat)) }

/-- SUNBIND (R346). DEDUCED (log entry 32). -/
def execSunbind (gu : Guard) (d : Reg) (q : BitVec 3) (s : State) : Out :=
  s.runs (streamUses gu [] d q s) (fun s =>
    let y := s.myQ q
    if y.st = .unbound then .trap s tSTREAM (streamVal 1 q.toNat)
    else if y.prod then
      if y.st = .dead then .done ((s.freeQ q).dst d 0)
      else if y.st = .retrain ∨ s.qflight.any (fun m => m.isFor y.peer && m.msg.isPush) then .wait s .issued
      else .done (((s.freeQ q).updQ y.peer.1 y.peer.2 (fun z => { z with st := .closed })).dst d 0)
    else if y.st.live then .done (s.dst d (streamStatus qBUSY 0))
    else .done ((s.freeQ q).dst d (streamStatus 0 (y.tail - y.head))))

/-! ## Messages between the ends -/

/-- Take the oldest message of a kind for an end of a stream, when its way is clear. -/
def State.takeMsg (s : State) (core q : Nat) (p : QMsg → Bool) : Option (QMsg × State) :=
  let pick := fun (m : QFlight) => m.isFor (core, q) && p m.msg
  match s.qflight.find? pick with
  | none => none
  | some m =>
    let from_ := ((s.core core).qreg q).peer.1
    if s.wayToTile (tileOf from_) (tileOf core) ≠ .clear then none
    else some (m.msg, { s with qflight := dropFirst pick s.qflight })

/-- A push is a store of the producer to the slot: it keeps behind the producer's earlier accesses to that scratchpad, and
waits for a range-scoreboard entry over the words it writes (R141, R148, R333). -/
def State.appendWaits (s : State) (core q : Nat) : Bool :=
  let y := (s.core core).qreg q
  let l := Loc.spad core (y.base + 16 + 8 * (y.tail % max y.slots 1))
  match s.qflight.find? (fun m => m.isFor (core, q) && m.msg.isPush) with
  | none => false
  | some m =>
    s.flight.any (fun r => r.core == m.src && r.loc.sameTarget l && !r.performed && decide (r.id < m.id)) ||
      (s.contribsAt m.src l).any (fun q => decide (q.id < m.id)) || s.overScore l 8 || s.overScore (.spad core (y.base + 8)) 8

/-- STREAM_APPEND (R328, R329, R333): an element reaches the consumer; the slot is written, then TAIL. -/
def execStreamAppend (core q : Nat) (s : State) : Out :=
  .next (match (if s.appendWaits core q then none else s.takeMsg core q QMsg.isPush) with
    | some (.push x, s) =>
      let y := (s.core core).qreg q
      let s := s.locWrite (.spad core (y.base + 16 + 8 * (y.tail % max y.slots 1))) 8 x.toNat
      let s := s.updQ core q (fun y => { y with tail := y.tail + 1 })
      s.locWrite (.spad core (y.base + 8)) 8 (y.tail + 1)
    | _ => s)

/-- STREAM_CREDIT (R329): a credit reaches the producer. -/
def execStreamCredit (core q : Nat) (s : State) : Out :=
  .next (match s.takeMsg core q (fun m => m == .credit) with
    | some (.credit, s) => s.updQ core q (fun y => { y with credits := y.credits + 1 })
    | _ => s)

/-- WEIGHT_MESSAGE (R334): a producer weight reaches the producer. -/
def execWeightMessage (core q : Nat) (s : State) : Out :=
  .next (match s.takeMsg core q (fun m => match m with | .weight _ => true | _ => false) with
    | some (.weight w, s) => s.updQ core q (fun y => { y with weight := w })
    | _ => s)

/-! ## The control loop -/

/-- An integer within bounds. -/
def clampI (x lo hi : Int) : Int := if x < lo then lo else if hi < x then hi else x

/-- One sample (R334). -/
def QReg.sample (y : QReg) : QReg :=
  let e : Int := (y.tail : Int) - y.head - y.setp
  let i := if y.stall then y.integ else clampI (y.integ + e) (-32768) 32767
  let adj := ((y.kp : Int) * e + (y.ki : Int) * i) / 256
  { y with integ := i, laste := e, stall := false, count := 0, samples := y.samples + 1,
           wp := (clampI (y.wp0 - adj) 1 256).toNat, wc := (clampI (y.wc0 + adj) 1 256).toNat }

/-- A sample is due (R334). -/
def QReg.due (y : QReg) : Bool := !y.prod && y.st == .bound && decide (y.per ≤ y.count)

/-- Does the hall of a core run: it is ordered neither to stop nor to end (R347, R362, R420)? -/
def State.hallRuns (s : State) (ck : Nat) : Bool := (s.hallOfCore ck).stop == .none

/-- STREAM_SAMPLE (R334, R347): at the end of a cycle the loop of a consumer takes a sample and sends the producer its
weight. -/
def execStreamSample (core q : Nat) (s : State) : Out :=
  .next (
    let y := (s.core core).qreg q
    if !y.due || !s.hallRuns core then s
    else
      let z := y.sample
      let s := s.updCore core (fun c => c.setQ q z)
      { s with qflight := s.qflight ++ [{ core := y.peer.1, q := y.peer.2, msg := .weight z.wp }] })

/-- The issue weight of a core (R335). -/
def Core.weightNow (c : Core) : Nat :=
  c.q.foldl (fun w e => if e.2.st.live then min w (if e.2.prod then e.2.weight else e.2.wc) else w) 256

/-! ## Links -/

/-- Follow the state of the links (R338, R339): streams whose path crosses them retrain, go on, or die; what is in
flight on a dead link is discarded. -/
def State.relinkStreams (s : State) : State :=
  let fix := fun (ck : Nat) (y : QReg) =>
    if !y.st.live then y
    else
      match s.wayBetween (tileOf ck) (tileOf y.peer.1) with
      | .clear => { y with st := .bound }
      | .wait => { y with st := .retrain }
      | .dead => { y with st := .dead }
  let lost := fun (m : QFlight) =>
    s.wayToTile (tileOf ((s.core m.core).qreg m.q).peer.1) (tileOf m.core) == .dead
  { s with
    cores := s.cores.map (fun (e : Nat × Core) => (e.1, { e.2 with q := e.2.q.map (fun x => (x.1, fix e.1 x.2)) }))
    qflight := s.qflight.filter (fun m => !lost m) }

end Sys2Proof.Machine
end

