-- ==== Sys2Proof/Machine/Copy.lean ====
section
/-!
DEFINITION. The copy unit (R152 to R172) and MFILL (R149 to R151).
-/

namespace Sys2Proof.Machine

open Sys2Proof

/-! ## Shadow registers -/

/-- CPSET (R168). -/
def execCpset (gu : Guard) (idx : BitVec 4) (a : Reg) (s : State) : Out :=
  s.runs { len := xlen, on := s.guard gu, rs := [a.toNat], illegal := decide (9 < idx.toNat) } (fun s =>
    .done (s.updMe (fun c =>
      let t := c.thr c.level
      c.setThr c.level { t with cp := t.cp.set 0 idx.toNat (s.src a) })))

/-- CPGET (R168). -/
def execCpget (gu : Guard) (d : Reg) (idx : BitVec 4) (s : State) : Out :=
  s.runs { len := xlen, on := s.guard gu, ws := [d.toNat], illegal := decide (9 < idx.toNat) } (fun s =>
    .done (s.dst d ((s.me.thr s.lv).cp.get 0 idx.toNat)))

/-! ## The captured registers -/

/-- A captured shadow register. -/
def Copy.reg (c : Copy) (i : Nat) : Word := c.regs.get 0 i
/-- CPFLAGS. -/
def Copy.flags (c : Copy) : Word := c.reg 9
/-- RT. -/
def Copy.rt (c : Copy) : Bool := bitAt c.flags 17
/-- REC. -/
def Copy.recd (c : Copy) : Bool := bitAt c.flags 16
/-- BEN. -/
def Copy.ben (c : Copy) : Bool := bitAt c.flags 27
/-- The hint of a 2-bit field (R43). -/
def hintOf (n : Nat) : Hint := Hint.ofBits (BitVec.ofNat 2 n)
/-- A signed 32-bit field of a stride register. -/
def strOf (x : Word) (lo : Nat) : Int := sintN (fld x lo 32) 32

/-- The tile at (DX, DY) from the issuing tile, none outside the hall (R155, R156). -/
def State.copyTile (s : State) (c : Copy) : Option Nat :=
  let t := tileOf c.core
  if !c.rt then some t
  else
    let h := s.hallOfCore c.core
    let x := (h.x t : Int) + sintN (fld c.flags 22 5) 5
    let y := (h.y t : Int) + sintN (fld c.flags 18 4) 4
    if x < 0 ∨ (h.w : Int) ≤ x ∨ y < 0 ∨ (h.h : Int) ≤ y then none else some (h.tileAt x.toNat y.toNat)

/-- The core from whose place destination addresses are steered. -/
def State.copyDstCore (s : State) (c : Copy) : Nat := if c.rt then ((s.copyTile c).getD 0) * 64 else c.core

/-! ## Bases and shapes -/

/-- A base names an aperture a copy may reach and keeps the field rules of R139 (R156). -/
def State.baseOk (s : State) (ck : Nat) (a : Word) : Bool :=
  let p := a.toNat / 2 ^ 48
  let off := a.toNat % 2 ^ 48
  if p ≤ 0xF then true
  else if p = 0xFF04 then decide (off < 2 ^ 31) && decide (off % 2 ^ 24 < vaultSize)
  else (p == 0xFF00 || p == 0xFF02 || p == 0xFF03) && (s.steer ck false a).isSome

/-- The base that traps APERTURE, none when both are sound (R156). -/
def State.badBase (s : State) (c : Copy) : Option Word :=
  let p := (c.reg 1).toNat / 2 ^ 48
  if !s.baseOk c.core (c.reg 0) then some (c.reg 0)
  else if c.rt && !((p == 0xFF02 || p == 0xFF03) && (s.copyTile c).isSome) then some (c.reg 1)
  else if !s.baseOk c.core (c.reg 1) then some (c.reg 1)
  else none

/-- Element `i` of a side: its address (R157). -/
def elemAddr (base : Word) (cnt : List Nat) (str : List Int) (i : Nat) : Word :=
  let n0 := cnt.getD 0 1
  let n1 := cnt.getD 1 1
  let k0 := i % n0
  let k1 := i / n0 % n1
  let k2 := i / n0 / n1
  base + wrap64 ((k0 : Int) * str.getD 0 0 + (k1 : Int) * str.getD 1 0 + (k2 : Int) * str.getD 2 0)

/-- The shape of a copy: element bytes, counts, strides of source and destination. -/
structure Shape where
  e : Nat := 1
  cnt : List Nat := []
  sstr : List Int := []
  dstr : List Int := []
  deriving DecidableEq, Repr

/-- Elements of a shape. -/
def Shape.n (h : Shape) : Nat := h.cnt.foldl (fun a b => a * b) 1

/-- An element lies in the aperture of its base, within the fields and limits of R139 and R143.
DEDUCED (log entry 36). -/
def State.elemIn (s : State) (ck : Nat) (pv : Bool) (base a : Word) : Bool :=
  if inGlobal base then inGlobal a else a.toNat / 2 ^ 48 == base.toNat / 2 ^ 48 && (s.steer ck pv a).isSome

/-- Validate a shape (R158): the element size, counts and strides given, by the registers or by a record. The reserved fields
of CPCNT0 to CPCNT2 are tested with a record too. -/
def State.shapeOf (s : State) (c : Copy) (esz : Nat) (cnts strs : List Word) : Option Shape :=
  let f := c.flags
  let h : Shape := { e := 2 ^ esz, cnt := cnts.map (fun x => fld x 0 32), sstr := strs.map (fun x => strOf x 32),
                     dstr := strs.map (fun x => strOf x 0) }
  let dc := s.copyDstCore c
  if 7 < esz ∨ fld f 12 4 ≠ 0 ∨ fld f 0 4 ≠ 0 ∨ ([c.reg 5, c.reg 6, c.reg 7] ++ cnts).any (fun x => fld x 32 32 != 0) then none
  else if h.cnt.any (fun k => k == 0 || decide (2 ^ 24 < k)) ∨ 2 ^ 32 - 1 < h.n then none
  else if (c.reg 0).toNat % h.e ≠ 0 ∨ (c.reg 1).toNat % h.e ≠ 0 ∨ (h.sstr ++ h.dstr).any (fun x => x % (h.e : Int) != 0) then none
  else if c.ben && decide (spadSize ≤ 8 * fld f 28 14) then none
  else if (List.range h.n).all (fun i =>
      s.elemIn c.core c.pv (c.reg 0) (elemAddr (c.reg 0) h.cnt h.sstr i) &&
        s.elemIn dc c.pv (c.reg 1) (elemAddr (c.reg 1) h.cnt h.dstr i)) then some h
  else none

/-- The shape that the registers give. DEDUCED (log entry 36). -/
def State.regShape (s : State) (c : Copy) : Option Shape :=
  s.shapeOf c (fld c.flags 8 4) [c.reg 5, c.reg 6, c.reg 7] [c.reg 2, c.reg 3, c.reg 4]

/-- The part of a transfer that lies in one scratchpad: its core, the lowest byte, the byte after the highest, and the last
element or line that lies there (R147, R166). -/
structure Span where
  core : Nat := 0
  lo : Nat := 0
  hi : Nat := 0
  last : Nat := 0
  deriving DecidableEq, Repr

/-- Widen the span of a scratchpad by an element. -/
def widen (l : List Span) (core lo hi i : Nat) : List Span :=
  if l.any (fun e => e.core == core) then
    updFirst (fun e => e.core == core) (fun e => { e with lo := min e.lo lo, hi := max e.hi hi, last := i }) l
  else l ++ [{ core := core, lo := lo, hi := hi, last := i }]

/-- The scratchpads in which elements of the walk lie, each with its span (R166). -/
def State.copySpans (s : State) (c : Copy) (h : Shape) : List Span :=
  if inGlobal (c.reg 1) then []
  else
    (List.range h.n).foldl (fun l i =>
      match s.steer (s.copyDstCore c) c.pv (elemAddr (c.reg 1) h.cnt h.dstr i) with
      | some (.loc (.spad k o)) => widen l k o (o + h.e) i
      | _ => l) []

/-- Entries of a range scoreboard (R147). -/
def scoreCap : Nat := 16

/-- An access under way keeps an entry of the transfer `id` of a core from being taken: one that the scratchpad's own core
has issued, or that the transfer's core issued before it, touches its bytes and has not been performed, or is a push to that
scratchpad. Else it would meet the transfer half done, or wait for it for ever (R148, R166, R280, R333). -/
def State.spanBusy (s : State) (issuer id : Nat) (e : Span) : Bool :=
  s.flight.any (fun r => (r.core == e.core || (r.core == issuer && decide (r.id < id))) && !r.performed &&
    r.loc.meets r.n (.spad e.core e.lo) (e.hi - e.lo)) || s.pushAhead issuer id (.spad e.core e.lo)

/-- Take the scoreboard entries of a transfer, all or none (R147). -/
def State.takeScores (s : State) (issuer owner : Nat) (l : List Span) : Option State :=
  if l.all (fun e => decide ((s.core e.core).score.length < scoreCap) && !s.spanBusy issuer owner e) then
    some (l.foldl (fun s e => s.updCore e.core (fun c =>
      { c with score := c.score ++ [{ lo := e.lo, hi := e.hi, owner := owner, last := e.last }] })) s)
  else none

/-- Retire the entries of a transfer for which a test holds (R147). -/
def State.retireScores (s : State) (owner : Nat) (p : ScoreEnt → Bool) : State :=
  { s with cores := s.cores.map (fun (e : Nat × Core) =>
      if e.2.score.any (fun x => x.owner == owner && p x) then
        (e.1, { e.2 with score := e.2.score.filter (fun x => !(x.owner == owner && p x)) }) else e) }

/-- A transfer has ended: all its entries retire. -/
def State.dropScores (s : State) (owner : Nat) : State := s.retireScores owner (fun _ => true)

/-- A transfer has written its element or line `i`: the entries of the scratchpads in which nothing later lies retire. -/
def State.passScores (s : State) (owner i : Nat) : State := s.retireScores owner (fun x => decide (x.last ≤ i))

/-! ## CPGO, CPCAN, SEALR -/

/-- Copies a bay's unit holds, and runs at once (R152). -/
def copyCap : Nat := 32
/-- See copyCap. -/
def copyRun : Nat := 4

/-- The transfer identifier (R170). -/
def copyIdent (bk seq : Nat) : Word := word (bk / 8 * 2 ^ 17 + bk % 8 * 2 ^ 14 + seq % 2 ^ 14)

/-- The effect of CPGO (R170); the CPGOs of one cycle are accepted in ascending core index (R152). -/
def cpgoBody (d gs : Reg) (la : BitVec 4) (s : State) : Res :=
  let bk := bayOf s.cur
  let b := s.bay bk
  let t := s.me.thr s.lv
  let c : Copy := { core := s.cur, lv := s.lv, regs := t.cp, scout := s.me.cpscout.toNat, pv := s.me.pv, seq := b.copySeq }
  match s.badBase c with
  | some a => .trap s tAPERTURE a
  | none =>
    if copyCap ≤ b.copies.length ∨ (b.copyBy.1 = s.cycle ∧ s.cur < b.copyBy.2) then .stall
    else
      let (pend, s) := s.pendG gs la 1 .copy
      let (id, s) := s.fresh
      let spans := if c.rt || c.recd then [] else
        match s.regShape c with
        | none => []
        | some h => s.copySpans c h
      match s.takeScores s.cur id spans with
      | none => .stall
      | some s =>
        let s := s.updBay bk (fun b =>
          { b with copies := b.copies ++ [{ c with id := id, pend := pend, scored := !(c.rt || c.recd) }], copySeq := (b.copySeq + 1) % 2 ^ 14,
                   copyBy := (s.cycle, s.cur) })
        .done (s.dst d (copyIdent bk c.seq))

/-- CPGO (R169, R170). -/
def execCpgo (gu : Guard) (la : BitVec 4) (d gs : Reg) (s : State) : Out :=
  s.runs { len := xlen, on := s.guard gu, ws := [d.toNat, gs.toNat], long := true, illegal := d == gs && d != 0 } (cpgoBody d gs la)

/-- CPCAN (R171). -/
def execCpcan (gu : Guard) (d a : Reg) (s : State) : Out :=
  s.runs { len := xlen, on := s.guard gu, rs := [a.toNat], ws := [d.toNat] } (fun s =>
    let bk := bayOf s.cur
    let mine := fun (c : Copy) => copyIdent bk c.seq == s.src a
    if (s.bay bk).copies.any mine then
      .done ((s.updBay bk (fun b => { b with copies := updFirst mine (fun c => { c with cancel := true }) b.copies })).dst d 0)
    else .done (s.dst d 1))

/-- SEALR (R172). -/
def execSealr (gu : Guard) (la : BitVec 4) (d a : Reg) (s : State) : Out :=
  s.runs { len := xlen, on := s.guard gu, rs := [a.toNat], ws := [d.toNat], long := true } (fun s =>
    let v := s.src a
    if v.toNat % 64 ≠ 0 then .trap s tALIGN v
    else
      (s.nowRead v 64 0 kLoad false).res 0 (fun x _ t =>
        let sum := crc32c (bytesOf 60 x)
        match t.storeElems .df false sysWrite [({ n := 4, addr := v + 60 }, sum.toNat)] with
        | .done t => .done (t.answer d la (sum.setWidth 64))
        | r => r))

/-! ## Running a copy -/

/-- Codes of R165. -/
def cPOISON : Nat := 1
/-- REFUSED. -/
def cREFUSED : Nat := 2
/-- CLOBBER. -/
def cCLOBBER : Nat := 3
/-- SEALVER. -/
def cSEALVER : Nat := 4
/-- SEALSUM. -/
def cSEALSUM : Nat := 5
/-- CANCEL. -/
def cCANCEL : Nat := 6
/-- PAGE. -/
def cPAGE : Nat := 7
/-- BADSHAPE. -/
def cBADSHAPE : Nat := 8
/-- DEADLINK. -/
def cDEADLINK : Nat := 9

/-- Change a copy. -/
def State.updCopy (s : State) (bk id : Nat) (f : Copy → Copy) : State :=
  s.updBay bk (fun b => { b with copies := updFirst (fun c => c.id == id) f b.copies })

/-- A copy of a bay. -/
def State.copy? (s : State) (bk id : Nat) : Option Copy := (s.bay bk).copies.find? (fun c => c.id == id)

/-- Accesses of a core that precede an engine operation and have not been performed: stores, pushes to streams among them, RDs
and AMOs, which the engine must see, and loads, which must not see what it writes (R166, R280, R333). -/
def State.forkBusy (s : State) (core id : Nat) : Bool :=
  s.flight.any (fun r => r.core == core && decide (r.id < id) && r.op.inClass true true && !r.performed) ||
    s.qflight.any (fun m => m.pushBy core && decide (m.id < id))

/-- A copy's walk, fetch or check ends: its entries retire; the barrier update follows when the walk had begun. -/
def State.endCopy (s : State) (bk id : Nat) (stop : Option Nat) (walked : Bool) : State :=
  (s.dropScores id).updCopy bk id (fun c => { c with st := if walked && c.ben then .ending else .updating, stop := stop, buf := [] })

/-- The shape in force. -/
def Copy.shape (c : Copy) : Shape := { e := c.esz, cnt := c.cnt, sstr := c.sstr, dstr := c.dstr }

/-- A copy whose shape is in force begins its walk, once it has its scoreboard entries (R166). -/
def State.beginWalk (s : State) (bk : Nat) (c : Copy) : State :=
  match (if c.scored then some s else s.takeScores c.core c.id (s.copySpans c c.shape)) with
  | none => s
  | some s => s.updCopy bk c.id (fun c => { c with st := .run, scored := true })

/-- A copy is to walk a shape: the shape is in force from now on (R161). -/
def State.startWalk (s : State) (bk : Nat) (c : Copy) (h : Shape) : State :=
  let f : Copy → Copy := fun c => { c with st := .shaped, esz := h.e, cnt := h.cnt, sstr := h.sstr, dstr := h.dstr }
  (s.updCopy bk c.id f).beginWalk bk (f c)

/-- COPY_START (R152, R158): the oldest accepted copy starts when fewer than four run. One whose registers or record has been
checked, and that waits for scoreboard entries, goes on (SHAPE_RECORD_FETCH). -/
def execCopyStart (bay : Nat) (s : State) : Out :=
  .next (
    let b := s.bay bay
    if copyRun ≤ (b.copies.filter (fun c => c.st != .queued)).length then s
    else
      match b.copies.find? (fun c => c.st == .queued) with
      | none => s
      | some c =>
        if c.recd then
          if (c.reg 8).toNat % 64 ≠ 0 ∨ !s.baseOk c.core (c.reg 8) ∨ (!inGlobal (c.reg 8) && (s.steer c.core c.pv (c.reg 8)).isNone) then
            s.endCopy bay c.id (some cBADSHAPE) false
          else s.updCopy bay c.id (fun c => { c with st := .fetch })
        else
          match s.regShape c with
          | none => s.endCopy bay c.id (some cBADSHAPE) false
          | some h => s.startWalk bay c h)

/-- What one access of a copy comes to. -/
inductive MoveRes where
  | ok (x : Nat)
  | stop (code : Nat)
  | skip
  | page (va : Word) (acc why : BitVec 2)
  | wait
  deriving DecidableEq, Repr

/-- The requester a copy is (R425). -/
def State.copyRqst (s : State) (c : Copy) : Rqst :=
  { tile := tileOf c.core, core := coreIdx c.core, unit := 2, secure := (s.hallOfCore c.core).secure }

/-- A copy translates an address for element `j` of its walk, through the CET (R162, R412). -/
def State.copyTrans (s : State) (bk : Nat) (c : Copy) (j va : Nat) (acc : Acc) : Trans × State :=
  let asid := (s.hallOfCore c.core).asid
  let (t, s) := s.translate bk .cet (s.copyRqst c) asid va acc c.pv
  (t, match t with
    | .phys _ => s.updBay bk (fun b => b.cetUse c.id j asid va)
    | _ => s)

/-- A copy's read of `n` bytes for element `j` (R163, R166). -/
def State.copyRead (s : State) (bk : Nat) (c : Copy) (j : Nat) (a : Word) (n : Nat) (hint : Hint) : MoveRes × State :=
  match s.steer c.core c.pv a with
  | some (.glob va) =>
    if s.nmHolds c.core c.id then (.wait, s) else
    match s.copyTrans bk c j va 0 with
    | (.fault why, s) => (.page a 0 why, s)
    | (.wait, s) => (.wait, s)
    | (.phys pa, s) =>
      match s.engRead true (s.copyRqst c) kERead pa n hint with
      | (.ok x p, s) => (if p then .stop cPOISON else .ok x, s)
      | (.refused, s) => (.stop cREFUSED, s)
      | (.dead, s) => (.stop cDEADLINK, s)
      | (.wait, s) => (.wait, s)
  | some (.loc l) =>
    match s.wayBetween (tileOf c.core) l.tile with
    | .dead => (.stop cDEADLINK, s)
    | .wait => (.wait, s)
    | .clear => (.ok (s.locRead l n), s)
  | _ => (.stop cBADSHAPE, s)

/-- A line whose every byte has been written by one copy is no longer poisoned (R98, R163). -/
def State.clearPoison (s : State) (line : Nat) : State :=
  match s.cline? line with
  | some c => if c.poison then s.putLine { c with poison := false, dirty := true } else s
  | none => s.setPoison line false

/-- A copy has written bytes of a global line. -/
def State.noteBytes (s : State) (bk : Nat) (c : Copy) (pa n : Nat) : State :=
  let line := lineOf pa
  let m := c.lines.get 0 line ||| BitVec.ofNat 128 ((2 ^ n - 1) * 2 ^ (pa % 128))
  let s := s.updCopy bk c.id (fun c => { c with lines := c.lines.put line m })
  if m = BitVec.allOnes 128 then s.clearPoison line else s

/-- A copy's write of its element `c.i` (R163, R166). -/
def State.copyWrite (s : State) (bk : Nat) (c : Copy) (a : Word) (n x : Nat) (hint : Hint) : MoveRes × State :=
  match s.steer (s.copyDstCore c) c.pv a with
  | some (.glob va) =>
    if s.nmHolds c.core c.id then (.wait, s) else
    match s.copyTrans bk c c.i va 1 with
    | (.fault why, s) => (.page a 1 why, s)
    | (.wait, s) => (.wait, s)
    | (.phys pa, s) =>
      match s.engWrite true (s.copyRqst c) kEWrite pa n x hint with
      | (.ok _ p, s) =>
        let s := s.l1Clean bk (fun l => l == lineOf pa)
        (.ok 0, if p then s.noteBytes bk c pa n else s)
      | (.refused, s) => (.stop cREFUSED, s)
      | (.dead, s) => (.stop cDEADLINK, s)
      | (.wait, s) => (.wait, s)
  | some (.loc l) =>
    match s.wayBetween (tileOf c.core) l.tile with
    | .dead => (.stop cDEADLINK, s)
    | .wait => (.wait, s)
    | .clear => if s.overBarrier l n then (.skip, s) else (.ok 0, s.locWrite l n x)
  | _ => (.stop cBADSHAPE, s)

/-- A copy meets a page fault at element `j`: it posts the message and waits (R162, R413, R414). -/
def State.copyPage (s : State) (bk : Nat) (c : Copy) (j : Nat) (va : Word) (acc why : BitVec 2) : State :=
  let h := s.hallOfCore c.core
  let tidx := msgTidx h msgPage acc.toNat 2 (tileOf c.core) (coreIdx c.core) why.toNat 0
  match s.postService h va tidx with
  | .posted s => s.updCopy bk c.id (fun c => { c with wait := some (va, tidx), scoutAt := j, atDst := acc == 1 })
  | .full => s
  | .fes => s.updCopy bk c.id (fun c => { c with abort := true, scoutAt := j, atDst := acc == 1 })

/-- The fields of a shape record (R159). -/
def recordWords (x off n : Nat) : List Word := (List.range n).map (fun i => word (x / 2 ^ (8 * (off + 8 * i))))

/-- SHAPE_RECORD_FETCH (R161): the record is read once, and checked; a copy whose shape is in force then takes its scoreboard
entries when they are free. DEDUCED (log entry 29). -/
def execShapeRecordFetch (bay copy : Nat) (s : State) : Out :=
  .next (match s.copy? bay copy with
    | none => s
    | some c =>
      if c.st = .shaped then s.beginWalk bay c
      else if c.st ≠ .fetch ∨ s.forkBusy c.core c.id then s
      else if c.abort then s.endCopy bay copy (some cPAGE) false
      else if c.wait.isSome then s
      else
        match s.copyRead bay c 0 (c.reg 8) 64 .df with
        | (.wait, _) => s
        | (.skip, _) => s
        | (.page va acc why, t) => t.copyPage bay c 0 va acc why
        | (.stop code, t) => t.endCopy bay copy (some (if code = cDEADLINK then cREFUSED else code)) false
        | (.ok x, t) =>
          if x % 2 ^ 16 ≠ fld c.flags 48 16 then t.endCopy bay copy (some cSEALVER) false
          else if x / 2 ^ 480 ≠ (crc32c (bytesOf 60 x)).toNat then t.endCopy bay copy (some cSEALSUM) false
          else if x / 2 ^ 20 % 2 ^ 44 ≠ 0 ∨ x / 2 ^ 448 % 2 ^ 32 ≠ 0 then t.endCopy bay copy (some cBADSHAPE) false
          else
            match t.shapeOf c (x / 2 ^ 16 % 16) (recordWords x 8 3) (recordWords x 32 3) with
            | none => t.endCopy bay copy (some cBADSHAPE) false
            | some h => t.startWalk bay c h)

/-- Elements of a running copy. -/
def Copy.n (c : Copy) : Nat := c.cnt.foldl (fun a b => a * b) 1
/-- Address of source element `i`. -/
def Copy.srcAt (c : Copy) (i : Nat) : Word := elemAddr (c.reg 0) c.cnt c.sstr i
/-- Address of destination element `i`. -/
def Copy.dstAt (c : Copy) (i : Nat) : Word := elemAddr (c.reg 1) c.cnt c.dstr i

/-- Does the read of element `j` wait for a reply of the service core, or stop at it? One whose destination has met the fault
is read first, as it is when no scout runs ahead (R162). -/
def Copy.heldAt (c : Copy) (j : Nat) : Bool :=
  (c.wait.isSome || c.abort) && (if c.atDst then decide (c.scoutAt < j) else decide (c.scoutAt ≤ j))

/-- Does the write of the element at hand wait for a reply, or stop at it? -/
def Copy.writeHeld (c : Copy) : Bool := (c.wait.isSome || c.abort) && c.atDst && decide (c.scoutAt ≤ c.i)

/-- Read source elements until `lim` of them are held, or one cannot be read (R157): what the last one came to. An element
that has been found unreadable is not read again. -/
def State.readAhead (s : State) (bk : Nat) (c : Copy) (lim : Nat) : Nat → MoveRes × List Vec × State
  | 0 => (match c.bad with | some code => .stop code | none => .ok 0, c.buf, s)
  | k + 1 =>
    match s.readAhead bk c lim k with
    | (.ok _, buf, s) =>
      let j := c.i + buf.length
      if lim ≤ buf.length ∨ c.n ≤ j ∨ c.heldAt j then (.ok 0, buf, s)
      else
        match s.copyRead bk c j (c.srcAt j) c.esz (hintOf (fld c.flags 6 2)) with
        | (.ok x, s) => (.ok 0, buf ++ [BitVec.ofNat 1024 x], s)
        | (r, s) => (r, buf, s)
    | r => r

/-- A copy goes on to its next element, or ends; the entries of scratchpads in which no later element lies retire (R147). -/
def State.copyNext (s : State) (bk : Nat) (c : Copy) (skipped : Bool) : State :=
  let s := (s.passScores c.id c.i).updCopy bk c.id (fun c =>
    { c with i := c.i + 1, buf := c.buf.drop 1, written := if skipped then c.written else c.written + c.esz,
             clb := if skipped && c.clb.isNone then some c.i else c.clb })
  if c.n ≤ c.i + 1 then s.endCopy bk c.id none true else s

/-- MOVE_ELEMENT (R157, R163): the unit reads up to 64 elements ahead of the element it writes, and writes that one. -/
def execMoveElement (bay copy ahead : Nat) (s : State) : Out :=
  .next (match s.copy? bay copy with
    | none => s
    | some c =>
      if c.st ≠ .run ∨ s.forkBusy c.core c.id then s
      else if c.cancel then s.endCopy bay copy (some cCANCEL) true
      else if c.heldAt c.i then (if c.abort then s.endCopy bay copy (some cPAGE) true else s)
      else
        let lim := min ahead 64 + 1
        let (r, buf, s) := s.readAhead bay c lim lim
        let bad := match r with | .stop code => some code | _ => none
        let c := { c with buf := buf, bad := bad }
        let s := s.updCopy bay copy (fun c => { c with buf := buf, bad := bad })
        match buf with
        | [] =>
          match r with
          | .stop code => s.endCopy bay copy (some code) true
          | .page va acc why => s.copyPage bay c c.i va acc why
          | _ => s
        | x :: _ =>
          if c.writeHeld then (if c.abort then s.endCopy bay copy (some cPAGE) true else s)
          else
          match s.copyWrite bay c (c.dstAt c.i) c.esz (vecBytes x 0 c.esz) (hintOf (fld c.flags 4 2)) with
          | (.ok _, s) => s.copyNext bay c false
          | (.skip, s) => s.copyNext bay c true
          | (.stop code, s) => s.endCopy bay copy (some code) true
          | (.page va acc why, s) => s.copyPage bay c c.i va acc why
          | (.wait, s) => s)

/-- The global pages that element `j` touches. -/
def Copy.pagesAt (c : Copy) (j : Nat) : List Nat :=
  ([c.srcAt j, c.dstAt j].filter inGlobal).map pageOf

/-- COPY_SCOUT (R162): the scout translates the pages of the next element, at most w pages ahead of the data pass. -/
def execCopyScout (bay copy : Nat) (s : State) : Out :=
  .next (match s.copy? bay copy with
    | none => s
    | some c =>
      let j := max c.scoutAt c.i
      let ahead := (((List.range (j - c.i)).flatMap (fun k => c.pagesAt (c.i + 1 + k))).filter (fun p => !(c.pagesAt c.i).contains p)).eraseDups
      if c.st ≠ .run ∨ c.scout = 0 ∨ c.wait.isSome ∨ c.abort ∨ c.n ≤ j ∨ c.scout < ahead.length then s
      else
        let go := fun (a : Word) (acc : BitVec 2) (s : State) =>
          if inGlobal a then s.copyTrans bay c j a.toNat acc else (.phys 0, s)
        match go (c.srcAt j) 0 s with
        | (.fault why, s) => s.copyPage bay c j (c.srcAt j) 0 why
        | (.wait, s) => s
        | (.phys _, s) =>
          match go (c.dstAt j) 1 s with
          | (.fault why, s) => s.copyPage bay c j (c.dstAt j) 1 why
          | (.wait, s) => s
          | (.phys _, s) => s.updCopy bay copy (fun c => { c with scoutAt := j + 1 }))

/-- The status word (R165). -/
def Copy.status (c : Copy) : Word :=
  let code := c.stop.getD (if c.clb.isSome then cCLOBBER else 0)
  let idx := match c.stop with
    | some k => if k = cSEALVER ∨ k = cSEALSUM ∨ k = cBADSHAPE then 0 else c.i
    | none => c.clb.getD c.n
  word (idx % 2 ^ 32 * 2 ^ 32 + bit c.nb * 2 ^ 9 + bit c.clb.isSome * 2 ^ 8 + code)

/-- COPY_COMPLETE (R164, R165): the barrier update is sent, and once it has been made the status is delivered.
DEDUCED (log entry 29). -/
def execCopyComplete (bay copy : Nat) (s : State) : Out :=
  .next (match s.copy? bay copy with
    | none => s
    | some c =>
      let tl := (s.copyTile c).getD 0
      match c.st with
      | .ending =>
        let s' := s.updCopy bay copy (fun c => { c with st := .updating })
        match s.wayToTile (tileOf c.core) tl with
        | .wait => s
        | .dead => s'
        | .clear =>
          s'.contribute { core := tl * 64 + fld c.flags 42 6, off := 8 * fld c.flags 28 14, delta := -(BitVec.ofNat 32 c.written),
                          src := c.core, copy := some (bay, copy) }
      | .updating =>
        if (s.tile tl).contribs.any (fun q => q.copy == some (bay, copy)) then s
        else (s.updBay bay (fun b => { b with copies := dropFirst (fun c => c.id == copy) b.copies })).deliver c.core c.pend c.status
      | _ => s)

/-! ## MFILL -/

/-- What stops the translation of a fill's pages: a fault, or a walk that waits. -/
inductive FillStop where
  | page (va : Word) (why : BitVec 2)
  | wait
  deriving DecidableEq, Repr

/-- Translate the pages of a source range for a load: what stops it, or the physical base of each page. -/
def State.fillPages (s : State) (va : Word) (n : Nat) : Nat → List (Nat × Nat) × Option FillStop × State
  | 0 => ([], none, s)
  | k + 1 =>
    match s.fillPages va n k with
    | (l, none, s) =>
      let p := va.toNat / 65536 + k
      let a := max va.toNat (p * 65536)
      if va.toNat + n ≤ a then (l, none, s)
      else
        match s.translate (bayOf s.cur) .vlt { s.rqst with unit := 5 } s.myHall.asid a 0 s.me.pv with
        | (.fault why, s) => (l, some (.page (word a) why), s)
        | (.wait, s) => (l, some .wait, s)
        | (.phys pa, s) => (l ++ [(p, pa - a % 65536)], none, s)
    | r => r

/-- The cores that a target mask names. -/
def maskCores (tile : Nat) (m : Word) : List Nat := ((List.range 64).filter (fun i => bitAt m i)).map (fun i => tile * 64 + i)

/-- The status word of a fill (R151). -/
def MFill.status (f : MFill) : Word :=
  match f.skip with
  | none => word (f.count * 2 ^ 32)
  | some (i, code) => word (i * 2 ^ 32 + code)

/-- The effect of MFILL (R150). DEDUCED (log entry 34). -/
def mfillBody (h : Hint) (d a b c : Reg) (la : BitVec 4) (count : Nat) (s : State) : Res :=
  let ga := s.src a
  let m := s.src b
  let gc := s.src c
  if ga.toNat % 128 ≠ 0 then .trap s tALIGN ga
  else if gc.toNat % 128 ≠ 0 then .trap s tALIGN gc
  else if 2 ^ 52 < ga.toNat + 128 * count then .trap s tAPERTURE ga
  else if spadSize < gc.toNat + 128 * count then .trap s tAPERTURE gc
  else
    match s.fillPages ga (128 * count) 3 with
    | (_, some (.page va why), t) => .page t va 0 why false
    | (_, some .wait, _) => .stall
    | (ps, none, t) =>
      let f : MFill := { core := s.cur, lv := s.lv, src := ga, pages := ps, mask := m, off := gc.toNat, count := count, hint := h }
      if m = 0 then .done (t.answer d la f.status)
      else
        let (pend, t) := t.pendG d la 1 .mfill
        let (id, t) := t.fresh
        match t.takeScores s.cur id ((maskCores (tileOf s.cur) m).map (fun k =>
            { core := k, lo := gc.toNat, hi := gc.toNat + 128 * count, last := count - 1 })) with
        | none => .stall
        | some t => .done { t with fills := t.fills ++ [{ f with id := id, pend := pend }] }

/-- MFILL (R149, R150). -/
def execMfill (gu : Guard) (la : BitVec 4) (rh : Hint) (d a b c : Reg) (count : BitVec 24) (s : State) : Out :=
  s.runs { len := xlen, on := s.guard gu, rs := [a.toNat, b.toNat, c.toNat], ws := [d.toNat], long := true,
           illegal := decide (count.toNat = 0) || decide (768 < count.toNat) } (mfillBody rh d a b c la count.toNat)


/-- Note a skipped line, unless a lower one was skipped. -/
def MFill.note (f : MFill) (code : Nat) : MFill := if f.skip.isSome then f else { f with skip := some (f.i, code) }

/-- Write a line into the targets but for those whose bytes hold an armed barrier word; whether any was skipped. -/
def State.fillTargets (f : MFill) (x : Nat) : List Nat → State → Bool × State
  | [], s => (false, s)
  | k :: ks, s =>
    let l := Loc.spad k (f.off + 128 * f.i)
    let hit := s.overBarrier l 128
    let (r, s) := State.fillTargets f x ks (if hit then s else s.locWrite l 128 x)
    (hit || r, s)

/-- A fill goes on, or ends: its entries retire and its status is delivered. -/
def State.fillNext (s : State) (f : MFill) : State :=
  if f.i + 1 < f.count then
    { s with fills := updFirst (fun x => x.id == f.id) (fun _ => { f with i := f.i + 1 }) s.fills }
  else (({ s with fills := dropFirst (fun x => x.id == f.id) s.fills }).dropScores f.id).deliver f.core f.pend f.status

/-- The next line of a fill keeps behind the requests to its slice that its core made before (R120, R150). -/
def State.lineBehind (s : State) (f : MFill) : Bool :=
  s.flight.any (fun r => r.core == f.core && decide (r.id < f.id) && r.loc.sameTarget (.glob (f.pa f.i)) && !r.performed) ||
    s.fillAhead f.core f.id (.glob (f.pa f.i))

/-- MFILL_LINE (R128, R150): a fill reads its next line once, and writes it into every target; the response raises its core's
witness. -/
def execMfillLine (fill : Nat) (s : State) : Out :=
  .next (match s.fills.find? (fun f => f.id == fill) with
    | none => s
    | some f =>
      if s.forkBusy f.core f.id || s.nmHolds f.core f.id || s.lineBehind f then s
      else
        let rq : Rqst := { tile := tileOf f.core, core := coreIdx f.core, unit := 5, secure := (s.hallOfCore f.core).secure }
        match s.engRead true rq kERead (f.pa f.i) 128 f.hint with
        | (.wait, _) => s
        | (.ok x false, s) =>
          let s := s.witness f.core (f.pa f.i) (some (s.ssnOf (f.pa f.i)))
          let (hit, s) := State.fillTargets f x (maskCores (tileOf f.core) f.mask) s
          s.fillNext (if hit then f.note 3 else f)
        | (.ok _ true, s) => (s.witness f.core (f.pa f.i) (some (s.ssnOf (f.pa f.i)))).fillNext (f.note 1)
        | (_, s) => s.fillNext (f.note 2))

end Sys2Proof.Machine
end

