-- ==== Sys2Proof/Machine/Nmu.lean ====
section
/-!
DEFINITION. Near-memory commands (R106 to R114): the checks, the locks, acceptance, and what the NMU of a stack does
line by line.
-/

namespace Sys2Proof.Machine

open Sys2Proof

/-! ## Commands -/

/-- Codes of R112. -/
def nUE : Nat := 1
/-- BADCMD. -/
def nBADCMD : Nat := 2
/-- PAGE. -/
def nPAGE : Nat := 3
/-- HOME. -/
def nHOME : Nat := 4
/-- REFUSED. -/
def nREFUSED : Nat := 5

/-- The fields of a command block (R106). -/
structure NmBlk where
  opw : Word := 0
  dst : Word := 0
  src : Word := 0
  res : Word := 0
  a0 : Word := 0
  a1 : Word := 0
  z : Word := 0
  deriving DecidableEq, Repr

/-- A command block from its 64 bytes. -/
def nmBlk (x : Nat) : NmBlk :=
  let w := fun i => word (x / 2 ^ (64 * i))
  { opw := w 0, dst := w 1, src := w 2, res := w 3, a0 := w 4, a1 := w 5, z := w 6 ||| w 7 }

/-- OP. -/
def NmBlk.op (b : NmBlk) : Nat := fld b.opw 0 4
/-- TY. -/
def NmBlk.ty (b : NmBlk) : Nat := fld b.opw 4 4
/-- RM. -/
def NmBlk.rm (b : NmBlk) : Nat := fld b.opw 8 3
/-- SAT. -/
def NmBlk.sat (b : NmBlk) : Bool := bitAt b.opw 11
/-- N. -/
def NmBlk.n (b : NmBlk) : Nat := fld b.opw 32 32
/-- Bytes of an element. -/
def NmBlk.sz (b : NmBlk) : Nat := max 1 (bitsOf b.ty / 8)

/-- Does the operation round (R107)? -/
def nmRounds (op : Nat) : Bool := op == 1 || op == 2 || op == 3
/-- Does it name DST? -/
def nmDst (op : Nat) : Bool := decide (1 ≤ op) && decide (op ≤ 6)
/-- Does it name SRC? -/
def nmSrc (op : Nat) : Bool := op == 1 || op == 2 || op == 5 || op == 7
/-- Does it name A0? -/
def nmA0 (op : Nat) : Bool := op == 1 || op == 2 || op == 3 || op == 4 || op == 6
/-- Does it name A1? -/
def nmA1 (op : Nat) : Bool := op == 2 || op == 6
/-- Does it read its destination? -/
def nmReadsDst (op : Nat) : Bool := op == 1 || op == 2 || op == 3 || op == 6

/-- Does the operation accept the type (R107)? -/
def nmTyOk (op ty : Nat) : Bool :=
  match op with
  | 0 => ty == 0
  | 1 => decide (ty ≤ 3)
  | 2 => ty == 1
  | 3 => decide (ty ≤ 3)
  | 4 => decide (ty ≤ 5) || decide (9 ≤ ty)
  | 5 => decide (ty ≤ 5) || decide (9 ≤ ty)
  | 6 => decide (ty ≤ 5) || decide (9 ≤ ty)
  | 7 => decide (1 ≤ ty) && decide (ty ≤ 3)
  | _ => false

/-- CLIP's bounds are refused: a NaN, or lo above hi (R108). -/
def nmClipBad (ty : Nat) (lo hi : Word) : Bool :=
  let x := elemVal ty (lo.toNat % 2 ^ bitsOf ty)
  let y := elemVal ty (hi.toNat % 2 ^ bitsOf ty)
  x.isNan || y.isNan || cmpV x y == .gt

/-- BADCMD (R108). -/
def NmBlk.bad (b : NmBlk) : Bool :=
  let op := b.op
  let len := b.n * b.sz
  !nmTyOk op b.ty || decide (4 < b.rm) || fld b.opw 12 20 != 0 || b.z != 0 || (!nmRounds op && (b.sat || b.rm != 0)) ||
    (!nmDst op && b.dst != 0) || (!nmSrc op && b.src != 0) || (op != 7 && b.res != 0) ||
    (!nmA0 op && b.a0 != 0) || (!nmA1 op && b.a1 != 0) || (op == 0) != (b.n == 0) ||
    (nmDst op && !inGlobal b.dst) || (nmSrc op && !inGlobal b.src) || (op == 7 && !inGlobal b.res) ||
    (nmDst op && b.dst.toNat % b.sz != 0) || (nmSrc op && b.src.toNat % b.sz != 0) || (op == 7 && b.res.toNat % 288 != 0) ||
    (op == 6 && nmClipBad b.ty b.a0 b.a1) ||
    (op == 5 && overlaps b.dst.toNat len b.src.toNat len) ||
    ((op == 1 || op == 2) && b.src != b.dst && overlaps b.dst.toNat len b.src.toNat len)

/-- The ranges an operation names: virtual address, bytes, and the kind of access; the destination, or RES, first.
DEDUCED (log entry 33). -/
def NmBlk.ranges (b : NmBlk) : List (Word × Nat × BitVec 2) :=
  let len := b.n * b.sz
  (if nmDst b.op then [(b.dst, len, 1)] else []) ++ (if b.op = 7 then [(b.res, 288, 1)] else []) ++
    (if nmSrc b.op then [(b.src, len, 0)] else [])

/-- A range once translated: physical base, bytes, and whether it crosses a page of its translation. -/
structure NmRange where
  pa : Nat := 0
  n : Nat := 0
  cross : Bool := false
  deriving DecidableEq, Repr

/-- What stops the translation of a command's ranges: a fault, or a walk that waits. -/
inductive NmStop where
  | page (va : Word) (acc why : BitVec 2)
  | wait
  deriving DecidableEq, Repr

/-- Translate the ranges in order: all of them, or what stops at the first that cannot be (R109). -/
def State.nmPlaces (s : State) : List (Word × Nat × BitVec 2) → List NmRange × Option NmStop × State
  | [] => ([], none, s)
  | (va, n, acc) :: rs =>
    let bk := bayOf s.cur
    let asid := s.myHall.asid
    match s.translate bk .vlt s.rqst asid va.toNat acc s.me.pv with
    | (.fault why, s) => ([], some (.page va acc why), s)
    | (.wait, s) => ([], some .wait, s)
    | (.phys pa, s) =>
      let size := match (s.bay bk).vlt.find? (fun e => e.maps asid va.toNat) with
        | some e => e.size
        | none => 16
      let (l, f, s) := s.nmPlaces rs
      ({ pa := pa, n := n, cross := decide (2 ^ size < va.toNat % 2 ^ size + n) } :: l, f, s)

/-- HOME for a range (R108): host memory, not on the die of the first destination line, or in a format-window view. -/
def State.nmHome (s : State) (die : Nat) (r : NmRange) : Bool :=
  isHost r.pa || (isHbm r.pa && (homeDie r.pa != die || homeDie (r.pa + r.n - 1) != die)) ||
    (isHbm r.pa && (s.fwins (homeDie r.pa)).any (fun f => overlaps r.pa r.n f.vbase (128 * f.g)))

/-- Does the world check refuse a range (R108)? Refusals are logged. -/
def State.nmRefused (s : State) : List NmRange → Bool × State
  | [] => (false, s)
  | r :: rs =>
    let (bad, s) := s.check { s.rqst with unit := 6 } kNmu r.pa r.n
    if bad then (true, s) else s.nmRefused rs

/-- The effect of NMCMD on its block (R108, R109, R114). A first destination line outside the backed space counts as homed
on the die that bit 38 of its address names, so that HOME may be answered before REFUSED; and after a page fault on a range
the whole instruction is executed again, its block read anew. DESIGN CHOICE (log entry 43). -/
def nmcmdOn (d : Reg) (la : BitVec 4) (b : NmBlk) (s : State) : Res :=
  if b.bad then .done (s.answer d la (word nBADCMD))
  else
    match s.nmPlaces b.ranges with
    | (_, some (.page va acc why), t) => .page t va acc why false
    | (_, some .wait, _) => .stall
    | (rs, none, t) =>
      let die := homeDie ((rs.getD 0 {}).pa)
      let at_ := fun (i : Nat) => (rs.getD i {}).pa
      if rs.any (fun r => r.cross) then .done (t.answer d la (word nPAGE))
      else if rs.any (t.nmHome die) then .done (t.answer d la (word nHOME))
      else
        let (bad, t) := t.nmRefused rs
        if bad || t.way (dieOf (tileOf s.cur)) (rowOfTile (tileOf s.cur)) die == .dead then .done (t.answer d la (word nREFUSED))
        else
          let (pend, t) := t.pendG d la 1 .nmu
          let (id, t) := t.fresh
          let c : NmCmd := { id := id, core := s.cur, lv := s.lv, pend := pend, op := b.op, ty := b.ty, rm := b.rm, sat := b.sat, n := b.n,
                             dst := if nmDst b.op then at_ 0 else 0, src := if nmSrc b.op then at_ 1 else 0,
                             res := if b.op = 7 then at_ 0 else 0, a0 := b.a0, a1 := b.a1 }
          .done { t with cmds := t.cmds ++ [c] }

/-- NMCMD (R113, R114). -/
def execNmcmd (gu : Guard) (la : BitVec 4) (d a : Reg) (s : State) : Out :=
  s.runs { len := xlen, on := s.guard gu, rs := [a.toNat], ws := [d.toNat], long := true } (fun s =>
    let v := s.src a
    if v.toNat % 64 ≠ 0 then .trap s tALIGN v
    else if s.nmHolds s.cur s.ctr then .stall
    else (s.nowRead v 64 0 kLoad false).res 0 (fun x _ t => nmcmdOn d la (nmBlk x) t))

/-! ## Locks -/

/-- The first line of the destination, or of RES for SUMSQ: it chooses the die and the NMU (R108, R109).
DEDUCED (log entry 33). -/
def NmCmd.home (c : NmCmd) : Nat := if c.op = 7 then c.res else c.dst

/-- Bytes of an element. -/
def NmCmd.sz (c : NmCmd) : Nat := max 1 (bitsOf c.ty / 8)

/-- The lines of a range. -/
def linesOf (pa n : Nat) : List Nat := if n = 0 then [] else (List.range (lineOf (pa + n - 1) + 1 - lineOf pa)).map (fun i => lineOf pa + i)

/-- The lines a command locks against loads and stores: the destination and RES. -/
def NmCmd.dstLines (c : NmCmd) : List Nat := (if nmDst c.op then linesOf c.dst (c.n * c.sz) else []) ++ (if c.op = 7 then linesOf c.res 288 else [])

/-- The source lines of a command. -/
def NmCmd.srcLines (c : NmCmd) : List Nat := if nmSrc c.op then linesOf c.src (c.n * c.sz) else []

/-- The locks of a slice that a command holds or needs: one for each range that has a line there. -/
def NmCmd.slots (c : NmCmd) (k : Nat) : Nat :=
  let has := fun (ls : List Nat) => bit (ls.any (fun l => homeSlice (l * 128) == k))
  has (if nmDst c.op then linesOf c.dst (c.n * c.sz) else []) + has (if c.op = 7 then linesOf c.res 288 else []) + has c.srcLines

/-- Locks of a slice in use. -/
def State.slotsUsed (s : State) (k : Nat) : Nat :=
  s.cmds.foldl (fun n c => if c.st != .locking || c.answered.contains k then n + c.slots k else n) 0

/-- Locks of a slice (R109). -/
def lockCap : Nat := 4

/-- Write back a line of a locked source range if it is dirty, its update-only copies combined first. -/
def State.cleanLine (s : State) (line : Nat) : State :=
  let s := s.recall line
  match s.cline? line with
  | none => s
  | some c => if c.dirty then (s.storeLine line c.data c.poison).putLine { c with dirty := false } else s

/-- Change a command. -/
def State.updCmd (s : State) (id : Nat) (f : NmCmd → NmCmd) : State :=
  { s with cmds := updFirst (fun c => c.id == id) f s.cmds }

/-- A command ends: its locks are released, and the core receives the status word (R112). -/
def State.endCmd (s : State) (c : NmCmd) (idx code : Nat) (f : FFlags) : State :=
  ({ s with cmds := dropFirst (fun x => x.id == c.id) s.cmds }).deliver c.core c.pend (word (idx * 2 ^ 32 + f.toNat * 2 ^ 8 + code))

/-- Are all earlier accesses of the core to a slice performed (R109 stage 2, R120)? -/
def State.sliceBusy (s : State) (core id k : Nat) : Bool :=
  s.flight.any (fun r => r.core == core && decide (r.id < id) && !r.performed && match r.loc with | .glob pa => homeSlice pa == k | _ => false)

/-- NMU_LOCK (R109): the lock request of a command reaches a slice of the target die and is answered. -/
def execNmuLock (cmd slice : Nat) (s : State) : Out :=
  .next (match s.cmds.find? (fun c => c.id == cmd) with
    | none => s
    | some c =>
      if c.st ≠ .locking ∨ slice / 16 ≠ homeDie c.home ∨ c.answered.contains slice ∨ s.sliceBusy c.core c.id slice then s
      else
        match s.wayToSlice (tileOf c.core) slice with
        | .wait => s
        | .dead => s.endCmd c 0 nREFUSED {}
        | .clear =>
          let here := fun (ls : List Nat) => ls.filter (fun l => homeSlice (l * 128) == slice)
          let ds := here c.dstLines
          let ss := here c.srcLines
          if lockCap < s.slotsUsed slice + c.slots slice ∨ (ds ++ ss).any (fun l => s.missPending l || s.recallWaits l) then s
          else
            let s := ss.foldl (fun s l => s.cleanLine l) s
            let s := ds.foldl (fun s l => s.evictLine l) s
            let s := s.l1Clean (bayOf c.core) (fun l => ds.contains l)
            s.updCmd cmd (fun c => { c with answered := slice :: c.answered }))

/-- Commands an NMU's queue holds (R109). -/
def nmuCap : Nat := 16

/-- The commands in the queue of a stack's NMU, the running one apart. -/
def State.nmuQueue (s : State) (st : Nat) : List NmCmd := s.cmds.filter (fun c => c.st == .queued && stackOf c.home == st)

/-- NMU_ACCEPT (R109): every slice has answered, and the NMU's queue has a free entry. -/
def execNmuAccept (cmd : Nat) (s : State) : Out :=
  .next (match s.cmds.find? (fun c => c.id == cmd) with
    | none => s
    | some c =>
      if c.st = .locking ∧ (List.range 16).all (fun k => c.answered.contains (homeDie c.home * 16 + k)) ∧
          (s.nmuQueue (stackOf c.home)).length < nmuCap then
        { s.updCmd cmd (fun c => { c with st := .queued, order := s.ctr }) with ctr := s.ctr + 1 }
      else s)

/-! ## Execution -/

/-- The factor of a FADE: round(1 - eta * lambda), FP32 (R107). DEDUCED (log entry 42). -/
def fadeFactor (c : NmCmd) : Nat × FFlags :=
  let f := fmtOf 1
  let (p, f1) := mulV (decF f (c.a0.toNat % 2 ^ 32)) (decF f (c.a1.toNat % 2 ^ 32))
  let (x, f2) := addV c.rm (.fin false 1 0 false) p.flip
  let (r, f3) := roundF f c.rm false x
  (r, (f1.or f2).or f3)

/-- Read `n` bytes of HBM through the ECC engine, within one stack line or across lines: the bytes and whether a line
was poisoned. -/
def State.hbmBytes (s : State) (pa n : Nat) : Nat × Bool × State :=
  (linesOf pa n).foldl (fun (r : Nat × Bool × State) l =>
    let (d, p, s) := r.2.2.hbmRead l
    let lo := max pa (l * 128)
    let hi := min (pa + n) (l * 128 + 128)
    (r.1 + vecBytes d (lo % 128) (hi - lo) * 2 ^ (8 * (lo - pa)), r.2.1 || p, s)) (0, false, s)

/-- A command accepted earlier still holds a line that this one is to write (R110). -/
def State.nmBefore (s : State) (c : NmCmd) (line : Nat) : Bool :=
  s.cmds.any (fun d => d.st != .locking && decide (d.order < c.order) && d.locks line true)

/-- A command accepted earlier is still to write a line of a range that this one is to read (R110). DEDUCED (log entry 33). -/
def State.nmReadBefore (s : State) (c : NmCmd) (pa n : Nat) : Bool :=
  (linesOf pa n).any (fun line => s.cmds.any (fun d => d.st != .locking && decide (d.order < c.order) && d.locks line false))

/-- NMU_EXECUTE (R109): an idle NMU takes the oldest command of its queue. SUMSQ reads its slot, FADE computes its
factor. -/
def execNmuExecute (stack : Nat) (s : State) : Out :=
  .next (
    let q := s.nmuQueue stack
    if s.cmds.any (fun c => c.st == .running && stackOf c.home == stack) then s
    else
      match q.find? (fun c => q.all (fun d => decide (c.order ≤ d.order))) with
      | none => s
      | some c =>
        if s.forkBusy c.core c.id then s
        else if c.op = 7 then
          if (linesOf c.res 288).any (s.nmBefore c) then s
          else
          let (x, p, s) := s.hbmBytes c.res 288
          if p then s.endCmd c 0 nUE {} else s.updCmd c.id (fun c => { c with st := .running, slot := x })
        else if c.op = 2 then
          let (x, f) := fadeFactor c
          s.updCmd c.id (fun c => { c with st := .running, slot := x, flags := f })
        else s.updCmd c.id (fun c => { c with st := .running }))

/-- An element of the destination from its old value and the source's (R107). Bits of A0 and A1 above the element width,
which should be zero, are ignored; and a CLIP whose element and bound are zeros of different sign keeps the element.
DESIGN CHOICE (log entry 43). -/
def nmElem (c : NmCmd) (d sv : Nat) : Nat × FFlags :=
  let w := bitsOf c.ty
  let f := fmtOf c.ty
  let a := c.a0.toNat % 2 ^ w
  let put := fun (x : FVal × FFlags) =>
    let (r, g) := roundF f c.rm c.sat x.1
    (r, x.2.or g)
  match c.op with
  | 1 => put (fmaV c.rm (decF f a) (decF f sv) (decF f d))
  | 2 =>
    let (p, f1) := mulV (decF f d) (decF f c.slot)
    let (q, f2) := mulV (decF f a) (decF f sv)
    let (x, f3) := addV c.rm p q.flip
    put (x, (f1.or f2).or f3)
  | 3 => put (mulV (decF f a) (decF f d))
  | 4 => (a, {})
  | 5 => (sv, {})
  | _ =>
    let x := elemVal c.ty d
    let hi := c.a1.toNat % 2 ^ w
    if x.isNan then (qnan f, { nv := x.isSig })
    else if cmpV x (elemVal c.ty a) == .lt then (a, {})
    else if cmpV (elemVal c.ty hi) x == .lt then (hi, {})
    else (d, {})

/-- New values of `k` elements, lowest first. -/
def nmElems (c : NmCmd) (w d sv : Nat) : Nat → Nat × FFlags
  | 0 => (0, {})
  | k + 1 =>
    let (x, f) := nmElems c w d sv k
    let (y, g) := nmElem c (d / 2 ^ (w * k) % 2 ^ w) (sv / 2 ^ (w * k) % 2 ^ w)
    (x + y % 2 ^ w * 2 ^ (w * k), f.or g)

/-- Add the squares of `k` elements to a slot (R107). -/
def nmSquares (ty w x slot : Nat) : Nat → Nat × FFlags
  | 0 => (slot, {})
  | k + 1 =>
    let (t, f) := nmSquares ty w x slot k
    let v := decF (fmtOf ty) (x / 2 ^ (w * k) % 2 ^ w)
    let (p, g) := mulV v v
    (xaccAdd true t p, f.or g)

/-- Write bytes of one HBM line, which reads nothing of it: a write of the whole line clears its poison (R98, R111). The write
takes an SSN and ends the waits on the line (R126, R262). DEDUCED (log entry 33). -/
def State.nmWrite (s : State) (pa n x : Nat) : State :=
  let s := s.updMem (fun m => { m with hbm := writeBytes m.hbm pa n x, errs := m.errs.clear pa n })
  let s := if n = 128 then s.setPoison (lineOf pa) false else s
  (s.bumpSsn (homeSlice pa)).notify (.glob pa) n

/-- Write bytes across lines. -/
def State.nmWriteAll (s : State) (pa n x : Nat) : State :=
  (linesOf pa n).foldl (fun s l =>
    let lo := max pa (l * 128)
    let hi := min (pa + n) (l * 128 + 128)
    s.nmWrite lo (hi - lo) (x / 2 ^ (8 * (lo - pa)) % 2 ^ (8 * (hi - lo)))) s


/-- The next line of a command that writes a destination (R109, R111). -/
def State.nmDstLine (s : State) (c : NmCmd) : State :=
  let sz := c.sz
  let a := c.dst + c.i * sz
  let line := lineOf a
  let k := min (c.n - c.i) ((line * 128 + 128 - a) / sz)
  if s.nmBefore c line || (nmSrc c.op && s.nmReadBefore c (c.src + c.i * sz) (k * sz)) then s
  else
    let (d, p, s) := if nmReadsDst c.op then s.hbmBytes a (k * sz) else (0, false, s)
    let (sv, q, s) := if nmSrc c.op then s.hbmBytes (c.src + c.i * sz) (k * sz) else (0, false, s)
    if p || q then (s.setPoison line true).endCmd c c.i nUE c.flags
    else
      let (x, f) := nmElems c (8 * sz) d sv k
      let s := s.nmWrite a (k * sz) x
      let c' := { c with i := c.i + k, flags := c.flags.or f }
      if c.n ≤ c.i + k then s.endCmd c' c.n 0 c'.flags else s.updCmd c.id (fun _ => c')

/-- The next source line of a SUMSQ; after the last the slot is written (R107, R111). -/
def State.nmSumLine (s : State) (c : NmCmd) : State :=
  let sz := c.sz
  let a := c.src + c.i * sz
  let line := lineOf a
  let k := min (c.n - c.i) ((line * 128 + 128 - a) / sz)
  if s.nmReadBefore c a (k * sz) then s
  else
  let (x, p, s) := s.hbmBytes a (k * sz)
  if p then s.endCmd c c.i nUE c.flags
  else
    let (t, f) := nmSquares c.ty (8 * sz) x c.slot k
    let c' := { c with i := c.i + k, flags := c.flags.or f, slot := t }
    if c.n ≤ c.i + k then (s.nmWriteAll c.res 288 t).endCmd c' c.n 0 c'.flags else s.updCmd c.id (fun _ => c')

/-- NMU_LINE (R109 to R111): the running command of a stack's NMU finishes its next line, or stops. -/
def execNmuLine (stack : Nat) (s : State) : Out :=
  .next (match s.cmds.find? (fun c => c.st == .running && stackOf c.home == stack) with
    | none => s
    | some c =>
      if c.op = 0 then s.endCmd c 0 0 {}
      else if c.op = 7 then s.nmSumLine c
      else s.nmDstLine c)

end Sys2Proof.Machine
end

