-- ==== Sys2Proof/Machine/Matrix.lean ====
section
/-!
DEFINITION. The matrix engine of a bay, its jobs, its tile registers and the alcove (R223 to R245).
-/

namespace Sys2Proof.Machine

open Sys2Proof

/-! ## Tiles and the alcove -/

/-- Row `r` of a tile register's data, 128 bytes. -/
def State.tileRow (s : State) (bk t r : Nat) : Nat := readBytes s.mem.tdata (tdataAddr bk t (128 * r)) 128
/-- Write bytes of a row of a tile register from byte `o`. -/
def State.putTileRow (s : State) (bk t r o n x : Nat) : State :=
  s.updMem (fun m => { m with tdata := writeBytes m.tdata (tdataAddr bk t (128 * r + o)) n x })
/-- Row `r` of the scale plane, 16 bytes. -/
def State.scaleRow (s : State) (bk t r : Nat) : Nat := readBytes s.mem.tscale (tscaleAddr bk t (16 * r)) 16
/-- Write a row of the scale plane. -/
def State.putScaleRow (s : State) (bk t r x : Nat) : State :=
  s.updMem (fun m => { m with tscale := writeBytes m.tscale (tscaleAddr bk t (16 * r)) 16 x })
/-- Zero the data and the scale plane of a tile (R229). -/
def State.clearTile (s : State) (bk t : Nat) : State :=
  s.updMem (fun m => { m with tdata := m.tdata.clear (tdataAddr bk t 0) 24576, tscale := m.tscale.clear (tscaleAddr bk t 0) 3072 })
/-- A tile's configuration. -/
def State.tcfg (s : State) (bk t : Nat) : TCfg := (s.bay bk).tcfg.get {} t

/-- Words of an alcove (R240). -/
def alcoveWords : Nat := 32768
/-- `e` alcove words from word `w`, low word first. -/
def State.alcove (s : State) (bk w : Nat) : Nat → Nat
  | 0 => 0
  | e + 1 => s.alcove bk w e + (s.mem.alcove.get 0 (bk * alcoveWords + (w + e))).toNat * 2 ^ (32 * e)
/-- Write `e` alcove words. -/
def State.putAlcove (s : State) (bk w : Nat) : Nat → Nat → State
  | 0, _ => s
  | e + 1, x =>
    (s.updMem (fun m => { m with alcove := m.alcove.set 0 (bk * alcoveWords + w) (word (x % 2 ^ 32)) })).putAlcove bk (w + 1) e (x / 2 ^ 32)

/-- The accumulator type of an input type (R223): FP64, FP32 or S32. -/
def accOf (ty : Nat) : Nat := if ty = 0 then 0 else if ty = 9 then 11 else 1
/-- Alcove words of an element of an accumulator type. -/
def accWords (acc : Nat) : Nat := if acc = 0 then 2 else 1

/-! ## The acceptance order (R226) -/

/-- A job, as against a clearing or a move. -/
def Job.isJob (j : Job) : Bool := j.kind != .clear && j.kind != .move

/-- The tile registers of a bay that an entry names, and whether it writes them. -/
def Job.tiles (bk : Nat) (j : Job) : List (Nat × Bool) :=
  match j.kind with
  | .tld => if j.bays.contains bk then [(j.ta, true)] else []
  | .tst => [(j.ta, false)]
  | .mma => [(j.ta, false), (j.tb, false)]
  | .mmac => [(j.ta, false), (j.tb, false)]
  | .clear => [(j.ta, true)]
  | .move => if j.scale then [(j.ta, j.z)] else []

/-- Two entries conflict in a bay: a common tile register that one of them writes, or a common alcove word. -/
def Job.conflicts (bk : Nat) (j k : Job) : Bool :=
  (j.tiles bk).any (fun a => (k.tiles bk).any (fun b => a.1 == b.1 && (a.2 || b.2))) ||
    (j.words != 0 && k.words != 0 && overlaps j.abase j.words k.abase k.words)

/-- The entries accepted before one, in a bay. -/
def Bay.before (b : Bay) (id : Nat) : List Job := b.jobs.takeWhile (fun k => k.id != id)

/-- An entry conflicts with one accepted earlier. -/
def State.jobHeld (s : State) (bk : Nat) (j : Job) : Bool := ((s.bay bk).before j.id).any (fun k => j.conflicts bk k)

/-- Go through a bay's entries in order: the clearings that nothing earlier holds, and the entries that stay. -/
def sweep (bk : Nat) : List Job → List Job → List Job × List Nat
  | kept, [] => (kept, [])
  | kept, j :: js =>
    if j.kind == .clear && !kept.any (fun k => j.conflicts bk k) then
      let (l, ts) := sweep bk kept js
      (l, j.ta :: ts)
    else sweep bk (kept ++ [j]) js

/-- An alcove move waits for what conflicts with it, and for every earlier job that names a tile register or an alcove word
it touches, written or not (R241). -/
def State.moveHeld (s : State) (bk : Nat) (j : Job) : Bool :=
  ((s.bay bk).before j.id).any (fun k =>
    j.conflicts bk k || (k.isJob && (j.tiles bk).any (fun a => (k.tiles bk).any (fun b => a.1 == b.1))))

/-- Perform the clearings of a bay that nothing earlier holds any more. -/
def State.settleClears (s : State) (bk : Nat) : State :=
  let (l, ts) := sweep bk [] (s.bay bk).jobs
  if ts.isEmpty then s else ts.foldl (fun s t => s.clearTile bk t) (s.updBay bk (fun b => { b with jobs := l }))

/-- Change an entry of a bay. -/
def State.updJob (s : State) (bk id : Nat) (f : Job → Job) : State :=
  s.updBay bk (fun b => { b with jobs := updFirst (fun j => j.id == id) f b.jobs })

/-- An entry leaves the orders of some bays. -/
def State.dropJob (s : State) (bks : List Nat) (id : Nat) : State :=
  bks.foldl (fun s bk => (s.updBay bk (fun b => { b with jobs := b.jobs.filter (fun j => j.id != id) })).settleClears bk) s

/-- The bays of a tile. -/
def baysOf (tile : Nat) : List Nat := (List.range 8).map (fun k => tile * 8 + k)

/-! ## Issuing X-class instructions -/

/-- An X-class instruction: a frozen bay accepts none (R224, R244). -/
def State.runsX (s : State) (u : Uses) (body : State → Res) : Out :=
  s.runs u (fun s => if (s.bay (bayOf s.cur)).frozen then .stall else body s)

/-- The bays have accepted no instruction of a higher core in this cycle: those of one cycle are accepted in ascending core
index (R224). -/
def State.inCoreOrder (s : State) (bks : List Nat) : Bool :=
  bks.all (fun bk => (s.bay bk).jobBy.1 != s.cycle || decide ((s.bay bk).jobBy.2 ≤ s.cur))

/-- The bays accept an instruction of the core. -/
def State.accepted (s : State) (bks : List Nat) : State :=
  bks.foldl (fun s bk => s.updBay bk (fun b => { b with jobBy := (s.cycle, s.cur) })) s

/-- TVAL of TILESHAPE is word 1 (R401). -/
def State.shape (s : State) : Res := .trap s tTILESHAPE (s.irWord 1)

/-- The bays' checks follow every instruction accepted earlier (R224): a core whose turn in the cycle has passed waits. One
that traps at its checks has had its turn. -/
def State.inTurnAt (s : State) (bks : List Nat) (r : Res) : Res :=
  if !s.inCoreOrder bks then .stall
  else
    match r with
    | .trap t code tval => .trap (t.accepted bks) code tval
    | r => r

/-- A clearing of a tile is accepted: it is done at once, or once what conflicts with it has finished. -/
def State.acceptClear (s : State) (t : Nat) : State :=
  let (id, s) := s.fresh
  let j : Job := { id := id, core := s.cur, lv := s.lv, kind := .clear, ta := t }
  ((s.accepted [bayOf s.cur]).updBay (bayOf s.cur) (fun b => { b with jobs := b.jobs ++ [j] })).settleClears (bayOf s.cur)

/-- TCFG (R229). -/
def execTcfg (gu : Guard) (ty : BitVec 4) (t : TReg) (rows rb : BitVec 8) (s : State) : Out :=
  s.runsX { len := xlen, on := s.guard gu,
            illegal := decide (rows.toNat = 0) || decide (192 < rows.toNat) || decide (rb.toNat = 0) || decide (128 < rb.toNat) } (fun s =>
    let c : TCfg := { cfg := true, rows := rows.toNat, rb := rb.toNat, ty := ty.toNat }
    s.inTurnAt [bayOf s.cur]
      (.done ((s.updBay (bayOf s.cur) (fun b => { b with tcfg := b.tcfg.put t.toNat c })).acceptClear t.toNat)))

/-- TZERO (R229). -/
def execTzero (gu : Guard) (t : TReg) (s : State) : Out :=
  s.runsX { len := xlen, on := s.guard gu } (fun s =>
    s.inTurnAt [bayOf s.cur] (if (s.tcfg (bayOf s.cur) t.toNat).cfg then .done (s.acceptClear t.toNat) else s.shape))

/-- Jobs a bay's queue holds (R225). -/
def bayJobs : Nat := 32
/-- Jobs of a core in flight. -/
def coreJobs : Nat := 16

/-- Jobs in a bay's queue: a TLD counts in its issuing bay alone. -/
def Bay.queued (b : Bay) (bk : Nat) : Nat :=
  (b.jobs.filter (fun j => j.isJob && (bayOf j.core == bk || j.kind == .mmac))).length

/-- Jobs of a core accepted and not completed. -/
def State.inFlight (s : State) (ck : Nat) : Nat :=
  (((baysOf (tileOf ck)).flatMap (fun bk => (s.bay bk).jobs)).filter (fun j => j.isJob && j.core == ck)).map Job.id |>.eraseDups.length

/-- The limits of R225 let a job into the queues of the given bays. -/
def State.jobRoom (s : State) (bks : List Nat) : Bool :=
  bks.all (fun bk => decide ((s.bay bk).queued bk < bayJobs)) && decide (s.inFlight s.cur < coreJobs)



/-- A job identifier (R237). -/
def jobIdent (ck seq : Nat) : Word := word (bayOf ck % 8 * 2 ^ 19 + ck % 8 * 2 ^ 16 + seq % 2 ^ 16)

/-- A job is accepted by bays: gd receives its identifier, gs will receive its status. -/
def State.acceptJob (s : State) (d gs : Reg) (la : BitVec 4) (bks : List Nat) (j : Job) : State :=
  let (pend, s) := s.pendG gs la 1 .job
  let (id, s) := s.fresh
  let n := s.me.jobs
  let j := { j with id := id, core := s.cur, lv := s.lv, pv := s.me.pv, pend := pend, seq := n }
  let s := bks.foldl (fun s bk => s.updBay bk (fun b => { b with jobs := b.jobs ++ [j] })) (s.accepted bks)
  (s.updMe (fun c => { c with jobs := n + 1 })).dst d (jobIdent s.cur n)

/-- Bytes a row moves (R230). -/
def rowBytes (c : TCfg) (scale : Bool) : Nat :=
  if !scale then c.rb else if c.ty = 8 then (c.rb + 7) / 8 else (c.rb + 15) / 16

/-- Address of a row. -/
def Job.rowAt (j : Job) (r : Nat) : Word := j.ga + word r * j.gb

/-- A row lies in an aperture a row job may reach, within the fields and limits of R139 and R143 (R230, R231). -/
def State.rowOk (s : State) (ck : Nat) (pv : Bool) (a : Word) (n : Nat) : Bool :=
  let z := a + word (n - 1)
  s.baseOk ck a && s.elemIn ck pv a a && s.elemIn ck pv a z

/-- The scratchpads a TST writes, each with its lowest and highest byte and its last row (R232). -/
def State.rowSpans (s : State) (j : Job) : List Span :=
  (List.range j.rows).foldl (fun l r =>
    let a := j.rowAt r
    if !s.rowOk s.cur s.me.pv a j.nb then l
    else
      match s.steer s.cur s.me.pv a with
      | some (.loc (.spad k o)) => widen l k o (o + j.nb) r
      | _ => l) []

/-- The effect of TLD and TST at issue (R230, R232). DEDUCED (log entry 37). -/
def rowJobBody (kind : JKind) (d gs : Reg) (la : BitVec 4) (rh : Hint) (a b : Reg) (scale : Bool) (t : Nat) (bays : List Nat) (s : State) : Res :=
  let bk := bayOf s.cur
  let c := s.tcfg (bays.headD bk) t
  let j : Job := { kind := kind, ta := t, scale := scale, rows := c.rows, nb := rowBytes c scale, ga := s.src a, gb := s.src b,
                   bays := bays, hint := rh, ty := c.ty }
  let last := j.rowAt (j.rows - 1)
  let takers := if bays.contains bk then bays else bk :: bays
  s.inTurnAt takers <|
  if !scale && j.ga.toNat % 16 != 0 then .trap s tALIGN j.ga
  else if !scale && j.gb.toNat % 16 != 0 then .trap s tALIGN j.gb
  else if !s.rowOk s.cur s.me.pv j.ga (max j.nb 1) then .trap s tAPERTURE j.ga
  else if !s.rowOk s.cur s.me.pv last (max j.nb 1) then .trap s tAPERTURE last
  else if bays.any (fun k => let x := s.tcfg k t; !x.cfg || (scale && !isMX x.ty) || x != c) then s.shape
  else if !s.jobRoom [bk] then .stall
  else
    match s.takeScores s.cur s.ctr (if kind == .tst then s.rowSpans j else []) with
    | none => .stall
    | some s' =>
      let owner := s.ctr
      .done (({ s' with ctr := owner + 1 }).acceptJob d gs la takers { j with tb := owner })

/-- TLD (R230 to R232). -/
def execTld (gu : Guard) (la : BitVec 4) (rh : Hint) (d gs a b : Reg) (scale : Bool) (t : TReg) (bm : BitVec 8) (s : State) : Out :=
  s.runsX { len := xlen, on := s.guard gu, rs := [a.toNat, b.toNat], ws := [d.toNat, gs.toNat], long := true, illegal := d == gs && d != 0 } (fun s =>
    let named := (List.range 8).filter (fun k => bm.getLsbD k)
    let bays := if named.isEmpty then [bayOf s.cur] else named.map (fun k => tileOf s.cur * 8 + k)
    rowJobBody .tld d gs la rh a b scale t.toNat bays s)

/-- TST (R230 to R232). -/
def execTst (gu : Guard) (la : BitVec 4) (rh : Hint) (d gs a b : Reg) (scale : Bool) (t : TReg) (s : State) : Out :=
  s.runsX { len := xlen, on := s.guard gu, rs := [a.toNat, b.toNat], ws := [d.toNat, gs.toNat], long := true, illegal := d == gs && d != 0 } (fun s =>
    rowJobBody .tst d gs la rh a b scale t.toNat [bayOf s.cur] s)

/-- The effect of MMA and MMAC at issue (R233, R236). -/
def mmaBody (kind : JKind) (d gs : Reg) (la : BitVec 4) (ty : Nat) (sat z : Bool) (ta tb abase : Nat) (bays : List Nat) (s : State) : Res :=
  let k0 := bays.headD 0
  let a0 := s.tcfg k0 ta
  let b0 := s.tcfg k0 tb
  let bad := fun (k : Nat) =>
    let a := s.tcfg k ta
    let b := s.tcfg k tb
    !a.cfg || !b.cfg || a.ty != ty || b.ty != ty || decide (96 < a.rows) || decide (192 < b.rows) || a.rows != a0.rows || b.rows != b0.rows
  let words := a0.rows * b0.rows * accWords (accOf ty)
  s.inTurnAt bays <|
  if bays.any bad then s.shape
  else if abase % 32 ≠ 0 ∨ alcoveWords < abase + words then .trap s tALCOVE (word abase)
  else if !s.jobRoom bays then .stall
  else
    .done (s.acceptJob d gs la bays { kind := kind, ta := ta, tb := tb, rows := a0.rows, n := b0.rows, ty := ty, sat := sat, z := z,
                                      abase := abase, words := words, bays := bays })

/-- What MMA and MMAC declare. -/
def mmaUses (gu : Guard) (ty : BitVec 4) (sat : Bool) (d gs : Reg) (s : State) : Uses :=
  { len := xlen, on := s.guard gu, ws := [d.toNat, gs.toNat], long := true,
    illegal := (d == gs && d != 0) || decide (9 < ty.toNat) || (sat && ty != 9#4) }

/-- MMA (R233 to R235). -/
def execMma (gu : Guard) (la ty : BitVec 4) (sat z : Bool) (d gs : Reg) (ta tb : TReg) (abase : BitVec 15) (s : State) : Out :=
  s.runsX (mmaUses gu ty sat d gs s) (fun s => mmaBody .mma d gs la ty.toNat sat z ta.toNat tb.toNat abase.toNat [bayOf s.cur] s)

/-- MMAC (R236). -/
def execMmac (gu : Guard) (la ty : BitVec 4) (sat z : Bool) (d gs : Reg) (ta tb : TReg) (abase : BitVec 15) (s : State) : Out :=
  s.runsX (mmaUses gu ty sat d gs s) (fun s =>
    let g := bayOf s.cur / 4 * 4
    mmaBody .mmac d gs la ty.toNat sat z ta.toNat tb.toNat abase.toNat [g, g + 1, g + 2, g + 3] s)

/-! ## Status -/

/-- Code of R237: POISON. -/
def jPOISON : Nat := 1
/-- REFUSED. -/
def jREFUSED : Nat := 2
/-- CLOBBER. -/
def jCLOBBER : Nat := 3
/-- DEADLINK. -/
def jDEADLINK : Nat := 9
/-- NOTFROZEN. -/
def jNOTFROZEN : Nat := 0x10
/-- BADVER. -/
def jBADVER : Nat := 0x11
/-- BADSUM. -/
def jBADSUM : Nat := 0x12
/-- RUNNING. -/
def jRUNNING : Nat := 0x80
/-- BADID. -/
def jBADID : Nat := 0x81
/-- RETIRED. -/
def jRETIRED : Nat := 0x82

/-- The status word of a job that has ended (R237). -/
def Job.status (j : Job) : Word :=
  match j.kind with
  | .mma => word (256 * j.flags.toNat)
  | .mmac => word (256 * j.flags.toNat)
  | _ => word (j.row * 2 ^ 32 + j.stop.getD (if j.clb then jCLOBBER else 0))

/-- What MPOLL and MWAIT report on an identifier (R238). -/
def State.jobReport (s : State) (x : Word) : Word :=
  if fld x 22 42 ≠ 0 then word jBADID
  else
    let ck := tileOf s.cur * 64 + fld x 16 6
    let n := (s.core ck).jobs
    let d := (n + 65535 - fld x 0 16) % 65536
    if d < 16 ∧ d < n then
      match (s.bay (bayOf ck)).retained.find? (fun e => e.1 == ck && e.2.1 == n - 1 - d) with
      | some e => e.2.2
      | none => word jRUNNING
    else if 16 ≤ d ∧ d < n ∧ d < 2 ^ 15 then word jRETIRED
    else word jBADID

/-- MPOLL (R238): the bay accepts it in its order (R224). -/
def execMpoll (gu : Guard) (d a : Reg) (s : State) : Out :=
  s.runsX { len := xlen, on := s.guard gu, rs := [a.toNat], ws := [d.toNat] } (fun s =>
    s.inTurnAt [bayOf s.cur] (.done ((s.accepted [bayOf s.cur]).dst d (s.jobReport (s.src a)))))

/-- What an accepted MWAIT comes to: the report, once the job runs no more (R238). -/
def mwaitEnd (d : Reg) (x : Word) (s : State) : Res := if x = word jRUNNING then .wait s .issued else .done (s.dst d x)

/-- MWAIT (R238): the bay accepts it once, in its order (R224). -/
def execMwait (gu : Guard) (d a : Reg) (s : State) : Out :=
  s.runsX { len := xlen, on := s.guard gu, rs := [a.toNat], ws := [d.toNat], blocking := true, nomask := true } (fun s =>
    let x := s.jobReport (s.src a)
    if (s.me.thr s.lv).hold = .issued then mwaitEnd d x s
    else s.inTurnAt [bayOf s.cur] (mwaitEnd d x (s.accepted [bayOf s.cur])))

/-- A job ends: the bay keeps its status, and gs receives it (R237, R238). -/
def State.endJob (s : State) (j : Job) : State :=
  let n := (s.core j.core).jobs
  (s.updBay (bayOf j.core) (fun b =>
    { b with retained := b.retained.filter (fun e => e.1 != j.core || decide (n < e.2.1 + 17)) ++ [(j.core, j.seq, j.status)] })).deliver
      j.core j.pend j.status

/-! ## Starting jobs -/

/-- A hall's bays are frozen: it is being saved, and its cores have stopped (R244, R420). DEDUCED (log entry 37). -/
def State.freezing (s : State) (bk : Nat) : Bool :=
  (s.bay bk).frozen ||
    match s.hallOf (bk / 8) with
    | none => false
    | some h => (match h.stop with | .save _ => true | _ => false) && s.allStopped h

/-- A job moves rows through the tile port; the others use the array. -/
def Job.port (j : Job) : Bool := j.kind == .tld || j.kind == .tst

/-- May a job start in a bay: nothing earlier conflicts with it where it acts, and what it runs on is free (R226, R227)? -/
def State.mayStart (s : State) (bk : Nat) (j : Job) : Bool :=
  (if j.kind == .tld then j.bays.all (fun k => !s.jobHeld k j) else !s.jobHeld bk j) &&
    (s.bay bk).jobs.all (fun k => !(k.isJob && k.started && k.port == j.port && (bayOf k.core == bk || !k.port)))

/-- The oldest unstarted job of each core in a bay. -/
def Bay.heads (bk : Nat) : List Job → List Job
  | [] => []
  | j :: js =>
    let l := Bay.heads bk js
    if j.isJob && !j.started && (bayOf j.core == bk || !j.port) then j :: l.filter (fun k => k.core != j.core) else l

/-- The job whose core comes first after the core served last. -/
def nextServed (rr : Nat) : List Job → Option Job
  | [] => none
  | j :: js =>
    let far := fun (k : Job) => (coreIdx k.core + 127 - rr) % 64
    match nextServed rr js with
    | none => some j
    | some k => if far k < far j then some k else some j

/-- MATRIX_JOB_START (R226, R227): the bay chooses the next job, round-robin by core. -/
def execMatrixJobStart (bay : Nat) (s : State) : Out :=
  .next (
    if s.freezing bay then s
    else
      let b := s.bay bay
      match nextServed b.rr ((Bay.heads bay b.jobs).filter (s.mayStart bay)) with
      | none => s
      | some j => (s.updJob bay j.id (fun j => { j with started := true })).updBay bay (fun b => { b with rr := coreIdx j.core }))

/-! ## Rows -/

/-- The requester a row job is (R425). -/
def State.jobRqst (s : State) (j : Job) : Rqst :=
  { tile := tileOf j.core, core := coreIdx j.core, unit := 3, secure := (s.hallOfCore j.core).secure }

/-- Split `n` bytes at an address into pieces within lines: offset and length. -/
def linePieces (a n : Nat) : List (Nat × Nat) :=
  let k := min n (128 - a % 128)
  if n ≤ k then [(0, n)] else [(0, k), (k, n - k)]

/-- A row job reads one piece (R231, R232). -/
def State.rowRead (s : State) (bk : Nat) (j : Job) (a : Word) (n : Nat) : MoveRes × State :=
  match s.steer j.core j.pv a with
  | some (.glob va) =>
    if s.nmHolds j.core j.id then (.wait, s) else
    match s.translate bk .mft (s.jobRqst j) (s.hallOfCore j.core).asid va 0 j.pv with
    | (.fault why, s) => (.page a 0 why, s)
    | (.wait, s) => (.wait, s)
    | (.phys pa, s) =>
      match s.engRead true (s.jobRqst j) kERead pa n j.hint with
      | (.ok x p, s) => (if p then .stop jPOISON else .ok x, s)
      | (.refused, s) => (.stop jREFUSED, s)
      | (.dead, s) => (.stop jDEADLINK, s)
      | (.wait, s) => (.wait, s)
  | some (.loc l) =>
    if s.overScore l n then (.wait, s)
    else
      match s.wayBetween (tileOf j.core) l.tile with
      | .dead => (.stop jDEADLINK, s)
      | .wait => (.wait, s)
      | .clear => (.ok (s.locRead l n), s)
  | _ => (.stop jREFUSED, s)

/-- Write bytes at a place but for those of armed barrier words; whether any was skipped. -/
def State.writeAround (s : State) (l : Loc) (x : Nat) : Nat → Bool × State
  | 0 => (false, s)
  | n + 1 =>
    let (hit, s) := s.writeAround l x n
    if s.overBarrier (l.add n) 1 then (true, s) else (hit, s.locWrite (l.add n) 1 (x / 256 ^ n % 256))

/-- A TST has written bytes of a global line, poisoned before: a line written whole is poisoned no more (R98, R163). -/
def State.noteRow (s : State) (bk : Nat) (j : Job) (pa n : Nat) (merged : Bool) : State :=
  let line := lineOf pa
  let s := s.l1Clean bk (fun l => l == line)
  let old := match (s.bay bk).jobs.find? (fun k => k.id == j.id) with
    | some k => k.lines.get 0 line
    | none => 0
  let m := old ||| BitVec.ofNat 128 ((2 ^ n - 1) * 2 ^ (pa % 128))
  if !merged then s
  else
    let s := s.updJob bk j.id (fun k => { k with lines := k.lines.put line m })
    if m = BitVec.allOnes 128 then s.clearPoison line else s

/-- A row job writes one piece (R231, R232): `skip` when it passed over an armed barrier word. -/
def State.rowWrite (s : State) (bk : Nat) (j : Job) (a : Word) (n x : Nat) : MoveRes × State :=
  match s.steer j.core j.pv a with
  | some (.glob va) =>
    if s.nmHolds j.core j.id then (.wait, s) else
    match s.translate bk .mft (s.jobRqst j) (s.hallOfCore j.core).asid va 1 j.pv with
    | (.fault why, s) => (.page a 1 why, s)
    | (.wait, s) => (.wait, s)
    | (.phys pa, s) =>
      match s.engWrite true (s.jobRqst j) kEWrite pa n x j.hint with
      | (.ok _ p, s) => (.ok 0, s.noteRow bk j pa n p)
      | (.refused, s) => (.stop jREFUSED, s)
      | (.dead, s) => (.stop jDEADLINK, s)
      | (.wait, s) => (.wait, s)
  | some (.loc l) =>
    match s.wayBetween (tileOf j.core) l.tile with
    | .dead => (.stop jDEADLINK, s)
    | .wait => (.wait, s)
    | .clear =>
      let (hit, s) := s.writeAround l x n
      (if hit then .skip else .ok 0, s)
  | _ => (.stop jREFUSED, s)

/-- Read the pieces of a row: what it came to, and the bytes so far. -/
def State.readRow (s : State) (bk : Nat) (j : Job) (a : Word) : List (Nat × Nat) → Nat → MoveRes × State
  | [], x => (.ok x, s)
  | (o, n) :: ps, x =>
    match s.rowRead bk j (a + word o) n with
    | (.ok y, s) => s.readRow bk j a ps (x + y * 2 ^ (8 * o))
    | r => r

/-- The first piece of a row that cannot be written now. -/
def State.rowBad (s : State) (bk : Nat) (j : Job) (a : Word) : List (Nat × Nat) → Option (MoveRes × State)
  | [] => none
  | (o, n) :: ps =>
    match s.rowWrite bk j (a + word o) n 0 with
    | (.ok _, _) => s.rowBad bk j a ps
    | (.skip, _) => s.rowBad bk j a ps
    | r => some r

/-- Write the pieces of a row; whether an armed barrier word was passed over. -/
def State.writeRow (s : State) (bk : Nat) (j : Job) (a : Word) (x : Nat) : List (Nat × Nat) → Bool × State
  | [] => (false, s)
  | (o, n) :: ps =>
    let (r, s) := s.rowWrite bk j (a + word o) n (x / 2 ^ (8 * o) % 2 ^ (8 * n))
    let (hit, s) := s.writeRow bk j a x ps
    (hit || r == .skip, s)

/-- A row that could not be moved: the job stops, waits for the service core, or tries again (R231, R232). -/
def State.rowFailed (s0 : State) (bk : Nat) (j : Job) (r : MoveRes) (s : State) : State :=
  match r with
  | .stop code => s.updJob bk j.id (fun j => { j with stop := some code })
  | .page va acc why =>
    let h := s.hallOfCore j.core
    let tidx := msgTidx h msgPage acc.toNat 3 (tileOf j.core) (coreIdx j.core) why.toNat 0
    match s.postService h va tidx with
    | .posted s => s.updJob bk j.id (fun j => { j with wait := some (va, tidx) })
    | .full => s0
    | .fes => s.updJob bk j.id (fun j => { j with stop := some jPAGE })
  | _ => s0

/-- A row that a TLD has read fills the row of every bay it names, the rest of the row with zeros (R231). -/
def State.fillRow (s : State) (j : Job) (x : Nat) : State :=
  j.bays.foldl (fun s k => if j.scale then s.putScaleRow k j.ta j.row x else s.putTileRow k j.ta j.row 0 128 x) s

/-- TILE_ROW_MOVE (R231, R232): a running TLD or TST moves its next row. DEDUCED (log entry 37). -/
def execTileRowMove (bay job : Nat) (s : State) : Out :=
  .next (match (s.bay bay).jobs.find? (fun j => j.id == job) with
    | none => s
    | some j =>
      if !j.port || bayOf j.core != bay || !j.started || decide (j.rows ≤ j.row) || j.stop.isSome || j.wait.isSome || s.forkBusy j.core j.id then s
      else
        let a := j.rowAt j.row
        if !s.rowOk j.core j.pv a j.nb then s.updJob bay job (fun j => { j with stop := some jREFUSED })
        else
          let ps := if inGlobal a then linePieces a.toNat j.nb else [(0, j.nb)]
          if j.kind == .tld then
            match s.readRow bay j a ps 0 with
            | (.ok x, t) => (t.fillRow j x).updJob bay job (fun j => { j with row := j.row + 1 })
            | (r, t) => s.rowFailed bay j r t
          else
            match s.rowBad bay j a ps with
            | some (r, t) => s.rowFailed bay j r t
            | none =>
              let x := if j.scale then s.scaleRow bay j.ta j.row else s.tileRow bay j.ta j.row
              let (hit, t) := s.writeRow bay j a x ps
              (t.passScores j.tb j.row).updJob bay job (fun j => { j with row := j.row + 1, clb := j.clb || hit }))

/-! ## MMA -/

/-- The exact value of element `k` of a row of an input tile, with its scale byte (R234). -/
def inVal (ty row scales k : Nat) : FVal :=
  let x := row / 2 ^ (bitsOf ty * k) % 2 ^ bitsOf ty
  if isMX ty then mxVal ty (scales / 256 ^ (k / 16) % 256) x else elemVal ty x

/-- A node or link of the integer tree (R234). -/
def intNode (sat : Bool) (x y : Int) : Int := intVal 11 (putI 11 sat (x + y))

/-- One level of the integer tree. -/
def intLevel (sat : Bool) : List Int → List Int
  | x :: y :: l => intNode sat x y :: intLevel sat l
  | l => l

/-- The reduced value of group `g` of a cell (R234). -/
def groupSum (ty ra sa rb sb g : Nat) : FVal × FFlags :=
  (treeUp (sumNode (accOf ty)) 4 ((List.range 16).map (fun j =>
    some (mulV (inVal ty ra sa (16 * g + j)) (inVal ty rb sb (16 * g + j)))))).getD (.fin false 0 0 false, {})

/-- The reduced value of group `g` of an S8 cell. -/
def groupSumI (sat : Bool) (ra rb g : Nat) : Int :=
  let p := (List.range 16).map (fun j =>
    intVal 9 (ra / 2 ^ (8 * (16 * g + j))) * intVal 9 (rb / 2 ^ (8 * (16 * g + j))))
  (intLevel sat (intLevel sat (intLevel sat (intLevel sat p)))).headD 0

/-- Chain group sums into a cell in ascending k (R234). -/
def chain (acc : Nat) : List (FVal × FFlags) → Option FVal → FFlags → Option FVal × FFlags
  | [], c, f => (c, f)
  | (v, h) :: l, none, f => chain acc l (some v) (f.or h)
  | (v, h) :: l, some c, f =>
    let (x, k) := sumNode acc c v
    chain acc l (some x) ((f.or h).or k)

/-- Chain integer group sums. -/
def chainI (sat : Bool) : List Int → Option Int → Option Int
  | [], c => c
  | v :: l, none => chainI sat l (some v)
  | v :: l, some c => chainI sat l (some (intNode sat c v))

/-- A cell of an MMA from the rows that feed it and its old bits: its new bits and the flags (R234, R235). -/
def mmaCell (ty : Nat) (sat z : Bool) (ra sa rb sb old : Nat) : Nat × FFlags :=
  let gs := List.range (1024 / bitsOf ty / 16)
  if ty = 9 then
    (intBits 11 ((chainI sat (gs.map (groupSumI sat ra rb)) (if z then none else some (intVal 11 old))).getD 0), {})
  else
    let acc := accOf ty
    let (c, f) := chain acc (gs.map (groupSum ty ra sa rb sb)) (if z then none else some (elemVal acc old)) {}
    ((roundF (fmtOf acc) 0 false (c.getD (.fin false 0 0 false))).1, f)

/-- Perform an MMA, or a quarter of an MMAC, in a bay (R234, R236). -/
def State.runMma (s : State) (bk : Nat) (j : Job) : State × FFlags :=
  let e := accWords (accOf j.ty)
  (List.range (j.rows * j.n)).foldl (fun (r : State × FFlags) i =>
    let w := j.abase + i * e
    let (x, f) := mmaCell j.ty j.sat j.z (s.tileRow bk j.ta (i / j.n)) (s.scaleRow bk j.ta (i / j.n))
      (s.tileRow bk j.tb (i % j.n)) (s.scaleRow bk j.tb (i % j.n)) (s.alcove bk w e)
    (r.1.putAlcove bk w e x, r.2.or f)) (s, {})

/-- MATRIX_JOB_COMPLETE (R225 to R237): a job ends; an MMAC with its last quarter. DEDUCED (log entry 15). -/
def execMatrixJobComplete (bay job : Nat) (s : State) : Out :=
  .next (match (s.bay bay).jobs.find? (fun j => j.id == job) with
    | none => s
    | some j =>
      if !j.isJob || !j.started then s
      else if j.port then
        if bayOf j.core != bay || (decide (j.row < j.rows) && j.stop.isNone) then s
        else (((if j.kind == .tst then s.dropScores j.tb else s).dropJob (baysOf (tileOf j.core)) job).endJob j)
      else if s.freezing bay then s
      else
        let (t, f) := s.runMma bay j
        let j := { j with flags := j.flags.or f }
        let t := t.dropJob [bay] job
        let others := (baysOf (tileOf j.core)).filter (fun k => (t.bay k).jobs.any (fun x => x.id == job))
        if others.isEmpty then t.endJob j
        else others.foldl (fun t k => t.updJob k job (fun x => { x with flags := x.flags.or j.flags })) t)

/-! ## Alcove moves -/

/-- A move waits in the acceptance order until every earlier job it names and all that conflicts with it has ended, and is
then performed (R241); only then do the clearings accepted after it go on (R226, R229). `chk` is its traps, or the entry it
makes. -/
def moveBody (chk : State → Res ⊕ Job) (perf : Job → State → State) (s : State) : Res :=
  let bk := bayOf s.cur
  match (s.bay bk).jobs.find? (fun j => j.kind == .move && j.core == s.cur && j.lv == s.lv) with
  | some j => if s.moveHeld bk j then .wait s .issued else .done ((perf j s).dropJob [bk] j.id)
  | none =>
    s.inTurnAt [bk] <|
    match chk s with
    | .inl r => r
    | .inr j =>
      let (id, t) := s.fresh
      let j := { j with id := id, core := s.cur, lv := s.lv, kind := .move }
      let t := t.accepted [bk]
      let t' := t.updBay bk (fun b => { b with jobs := b.jobs ++ [j] })
      if t'.moveHeld bk j then .wait t' .issued else .done (perf j t)

/-- A blocking move of the core. -/
def State.runsMove (s : State) (gu : Guard) (rs : List Nat) (illegal : Bool) (chk : State → Res ⊕ Job) (perf : Job → State → State) : Out :=
  s.runsX { len := xlen, on := s.guard gu, rs := rs, blocking := true, illegal := illegal } (moveBody chk perf)

/-- ALCOVE for a region of words. -/
def State.alcoveTrap (s : State) (abase : Nat) : Res := .trap s tALCOVE (word abase)

/-- AZERO (R242). -/
def execAzero (gu : Guard) (a : Reg) (abase : BitVec 15) (s : State) : Out :=
  s.runsMove gu [a.toNat] false
    (fun s =>
      let n := (s.src a).toNat
      if n = 0 ∨ alcoveWords < abase.toNat + n then .inl (s.alcoveTrap abase.toNat) else .inr { abase := abase.toNat, words := n })
    (fun j s => s.updMem (fun m => { m with alcove := m.alcove.clear (bayOf s.cur * alcoveWords + j.abase) j.words }))

/-- Rows of a tile that a move fills or reads, in ascending order. -/
def Job.eachRow (j : Job) (s : State) (f : Nat → State → State) : State := (List.range j.rows).foldl (fun s r => f r s) s

/-- AMOV (R242). -/
def execAmov (gu : Guard) (t : TReg) (toa : Bool) (abase : BitVec 15) (s : State) : Out :=
  s.runsMove gu [] false
    (fun s =>
      let c := s.tcfg (bayOf s.cur) t.toNat
      let words := c.rows * (c.rb / 4)
      if !c.cfg || c.rb % 4 != 0 then .inl s.shape
      else if alcoveWords < abase.toNat + words then .inl (s.alcoveTrap abase.toNat)
      else .inr { ta := t.toNat, scale := true, z := !toa, abase := abase.toNat, words := words, rows := c.rows, nb := c.rb })
    (fun j s => j.eachRow s (fun r s =>
      let bk := bayOf s.cur
      let q := j.nb / 4
      if j.z then s.putTileRow bk j.ta r 0 128 (s.alcove bk (j.abase + r * q) q)
      else s.putAlcove bk (j.abase + r * q) q (s.tileRow bk j.ta r % 2 ^ (8 * j.nb))))

/-- Alcove words of an element that AMOVT moves (R242): 1, 2, or 0 for a type it refuses. -/
def amovtWords (ty : Nat) : Nat := if ty = 1 ∨ ty = 11 ∨ ty = 15 then 1 else if ty = 0 ∨ ty = 12 then 2 else 0

/-- AMOVT (R242). DEDUCED (log entry 37). -/
def execAmovt (gu : Guard) (t : TReg) (abase : BitVec 15) (s : State) : Out :=
  s.runsMove gu [] false
    (fun s =>
      let c := s.tcfg (bayOf s.cur) t.toNat
      let e := amovtWords c.ty
      let words := c.rb / (4 * e) * c.rows * e
      if !c.cfg || e == 0 then .inl s.shape
      else if abase.toNat % e ≠ 0 ∨ alcoveWords < abase.toNat + words then .inl (s.alcoveTrap abase.toNat)
      else .inr { ta := t.toNat, scale := true, z := true, abase := abase.toNat, words := words, rows := c.rows, nb := c.rb, n := e })
    (fun j s => j.eachRow s (fun r s =>
      let bk := bayOf s.cur
      let s := (List.range (j.nb / (4 * j.n))).foldl (fun s c =>
        s.putTileRow bk j.ta r (4 * j.n * c) (4 * j.n) (s.alcove bk (j.abase + (c * j.rows + r) * j.n) j.n)) s
      s.putTileRow bk j.ta r j.nb (128 - j.nb) 0))

/-- AFIN (R243). -/
def execAfin (gu : Guard) (ty acc : BitVec 4) (rm : BitVec 3) (sat : Bool) (t : TReg) (abase : BitVec 15) (s : State) : Out :=
  let w := bitsOf ty.toNat / 8
  s.runsMove gu [] (!afinOk acc ty || decide (4 < rm.toNat))
    (fun s =>
      let c := s.tcfg (bayOf s.cur) t.toNat
      let words := c.rows * (c.rb / w) * accWords acc.toNat
      if !c.cfg || c.ty != ty.toNat || c.rb % w != 0 then .inl s.shape
      else if alcoveWords < abase.toNat + words then .inl (s.alcoveTrap abase.toNat)
      else .inr { ta := t.toNat, scale := true, z := true, abase := abase.toNat, words := words, rows := c.rows, nb := c.rb, n := c.rb / w })
    (fun j s => j.eachRow s (fun r s =>
      let bk := bayOf s.cur
      let e := accWords acc.toNat
      (List.range j.n).foldl (fun s c =>
        let (x, f) := cvtLane acc.toNat ty.toNat rm.toNat sat 0 (s.alcove bk (j.abase + (r * j.n + c) * e) e)
        (s.putTileRow bk j.ta r (w * c) w x).raise f) s))

/-! ## MSAVE and MREST (R245) -/

/-- The lines of an image at an address. -/
def imageElems (a : Word) : List Elem := (List.range (imageBytes / 128)).map (fun i => { idx := i, byte := 0, n := 128, addr := a + word (128 * i) })

/-- The address of the first line of an image that no aperture holds (R139, R245): its lines are one range, which lies in an
aperture as its ends do. -/
def State.imageOutside (s : State) (a : Word) : Option Word :=
  let out := fun (x : Word) => (s.steer s.cur s.me.pv x).isNone
  if out a || out (a + word (imageBytes - 128)) then ((imageElems a).find? (fun e => out e.addr)).map (fun e => e.addr) else none

/-- The checks of MSAVE and MREST; then what `go` makes of the places of the image's lines. -/
def imageBody (acc : Acc) (d a : Reg) (la : BitVec 4) (ready : Bay → Bool) (go : List (Elem × Loc) → State → Option (Nat × State)) (s : State) : Res :=
  let ga := s.src a
  if ga.toNat % 4096 ≠ 0 then .trap s tALIGN ga
  else if !(inGlobal ga || ga.toNat / 2 ^ 48 == 0xFF04) then .trap s tAPERTURE ga
  else
    match s.imageOutside ga with
    | some v => .trap s tAPERTURE v
    | none =>
    if !ready (s.bay (bayOf s.cur)) then .done (s.answer d la (word jNOTFROZEN))
    else
      let (gs, t) := s.placeAll acc false (imageElems ga)
      match firstTrap gs with
      | some (c, v) => .trap s c v
      | none =>
        match firstPage gs with
        | some (v, w) => .page t v acc w false
        | none =>
          if anyWait gs then .stall
          else
            match go (goLocs gs) t with
            | none => .stall
            | some (code, t) => .done (t.answer d la (word code))

/-- Write the lines of an image: the code it ends with, none when a line cannot be written yet. -/
def State.putImage (f : Nat → Byte) : List (Elem × Loc) → State → Option (Nat × State)
  | [], s => some (0, s)
  | (e, l) :: r, s =>
    let x := ofBytes ((List.range 128).map (fun i => f (128 * e.idx + i)))
    match l with
    | .glob pa =>
      match s.engWrite true s.rqst kEWrite pa 128 x .df with
      | (.ok _ _, s) => State.putImage f r s
      | (.wait, _) => none
      | (_, s) => some (jREFUSED, s)
    | l =>
      match s.wayBetween (tileOf s.cur) l.tile with
      | .clear => State.putImage f r (s.locWrite l 128 x)
      | .wait => none
      | .dead => some (jREFUSED, s)

/-- Read the lines of an image. -/
def State.getImage : List (Elem × Loc) → List Byte → State → Option ((Nat × List Byte) × State)
  | [], bs, s => some ((0, bs), s)
  | (_, l) :: r, bs, s =>
    match l with
    | .glob pa =>
      match s.engRead true s.rqst kERead pa 128 .df with
      | (.ok x false, s) => State.getImage r (bs ++ bytesOf 128 x) s
      | (.ok _ true, s) => some ((jPOISON, bs), s)
      | (.wait, _) => none
      | (_, s) => some ((jREFUSED, bs), s)
    | l =>
      match s.wayBetween (tileOf s.cur) l.tile with
      | .clear => State.getImage r (bs ++ bytesOf 128 (s.locRead l 128)) s
      | .wait => none
      | .dead => some ((jREFUSED, bs), s)

/-- What MSAVE and MREST declare: privileged as a whole, TVAL word 0 (R400, R401). -/
def imageUses (gu : Guard) (d a : Reg) (s : State) : Uses :=
  { len := xlen, on := s.guard gu, rs := [a.toNat], ws := [d.toNat], long := true, priv := some none }

/-- MSAVE (R245). The image's opaque bytes stand for what the FES keeps under its number.
DESIGN CHOICE (log entry 10). -/
def execMsave (gu : Guard) (la : BitVec 4) (d a : Reg) (s : State) : Out :=
  s.runs (imageUses gu d a s) (imageBody 1 d a la Bay.frozen (fun ls s =>
    let bk := bayOf s.cur
    let n := s.fes.serial
    let img : BayImage := { serial := n, no := bk, bay := s.bay bk, alcove := s.mem.alcove.filter (fun e => e.1 / alcoveWords == bk) }
    match State.putImage (sealedByte (Config.imageByte n) imageBytes) ls s with
    | none => none
    | some (code, s) => some (code, { s with fes := { s.fes with images := s.fes.images ++ [img], serial := n + 1 } })))

/-- A job saved in the tile `a` runs in the tile `t`: its core and its bays are those of the same number there (R245). -/
def Job.moveTile (a t : Nat) (j : Job) : Job :=
  { j with core := j.core + 64 * t - 64 * a, bays := j.bays.map (fun k => k + 8 * t - 8 * a) }

/-- Bay `bk` with what an image loads (R245). DESIGN CHOICE (log entry 10). -/
def BayImage.into (img : BayImage) (bk : Nat) (b : Bay) : Bay :=
  let a := img.no / 8
  let t := bk / 8
  { b with jobs := img.bay.jobs.map (Job.moveTile a t), retained := img.bay.retained.map (fun e => (e.1 + 64 * t - 64 * a, e.2)),
           rr := img.bay.rr }

/-- The alcove that an image loads. -/
def BayImage.load (img : BayImage) (bk : Nat) (m : Mems) : Mems :=
  let put := fun (m : SMap Word) (e : Nat × Word) => m.set 0 (bk * alcoveWords + e.1 % alcoveWords) e.2
  { m with alcove := img.alcove.foldl put (m.alcove.clear (bk * alcoveWords) alcoveWords) }

/-- The bay whose image a sound list of bytes is (R245). DESIGN CHOICE (log entry 10). -/
def State.imageOf (s : State) (bs : List Byte) : Option BayImage :=
  s.fes.images.find? (fun img => bs.drop 8 == (List.range (imageBytes - 8)).map (fun i => Config.imageByte img.serial (i + 8)))

/-- An image is loaded into a bay and its alcove (R245). -/
def State.loadImage (s : State) (bk : Nat) (img : BayImage) : State := (s.updBay bk (img.into bk)).updMem (img.load bk)

/-- MREST (R245). DEDUCED (log entry 37). -/
def execMrest (gu : Guard) (la : BitVec 4) (d a : Reg) (s : State) : Out :=
  s.runs (imageUses gu d a s) (imageBody 0 d a la (fun b => b.frozen && b.jobs.isEmpty) (fun ls s =>
    match State.getImage ls [] s with
    | none => none
    | some ((code, bs), s) =>
      if code ≠ 0 then some (code, s)
      else if !sealVer bs then some (jBADVER, s)
      else if !sealSum bs then some (jBADSUM, s)
      else
        match s.imageOf bs with
        | none => some (jBADSUM, s)
        | some img => some (0, s.loadImage (bayOf s.cur) img)))

end Sys2Proof.Machine
end

