-- ==== Sys2Proof/Machine/Scheduler.lean ====
section
/-!
DEFINITION. The front-end sequencer: entries and their turns (R354 to R356, R434), halls (R357, R358), starting
and ending a launch (R309, R359 to R362), occupancy and energy (R364, R365), and DLAUNCH (R366).
-/

namespace Sys2Proof.Machine

open Sys2Proof

/-! ## Entries -/

/-- Doubleword `i` of an entry. -/
def Entry.w (e : Entry) (i : Nat) : Word := e.words.getD i 0
/-- KIND (R354): 0 LAUNCH, 1 COLL, 2 WAITW, 3 SIGNAL. -/
def Entry.kind (e : Entry) : Nat := fld (e.w 0) 60 4
/-- AFTER. -/
def Entry.after (e : Entry) : Bool := bitAt (e.w 0) 59
/-- CLASS. -/
def Entry.cls (e : Entry) : Nat := fld (e.w 0) 56 2
/-- Width of the hall. -/
def Entry.hw (e : Entry) : Nat := fld (e.w 0) 52 4 + 1
/-- Height of the hall. -/
def Entry.hh (e : Entry) : Nat := fld (e.w 0) 49 3 + 1
/-- ASID. -/
def Entry.asid (e : Entry) : Nat := fld (e.w 4) 0 12
/-- DONE of a launch. -/
def Entry.doneAt (e : Entry) : Word := e.w 7

/-- The bits that each doubleword of a kind of entry may set (R354). -/
def entryMask (kind : Nat) : List Word :=
  let id : Word := 0xFFF
  match kind with
  | 0 => [0xFFFE000000000000, ones, ones, ones, 0xFFFFFFFF00000FFF, 0xFFFFFFFFFF, 0xFFFFFFFFFF, ones]
  | 1 => [0xF800000000000000, ones, 0, 0, id, 0, 0, 0]
  | 2 => [0xF800000000000000, ones, ones, 1, id, 0, 0, 0]
  | _ => [0xF800000000000000, ones, ones, 0, id, 0, 0, 0]

/-- Could some origin hold a hall shape among the tiles that are not withheld (R356)? -/
def State.shapeFits (s : State) (w h : Nat) : Bool :=
  (List.range (9 - h)).any (fun y => (List.range (17 - w)).any (fun x =>
    (List.range (w * h)).all (fun k => !s.sys.withheld.getLsbD ((y + k / w) * 16 + x + k % w))))

/-- An entry is completed with BADENTRY (R356). -/
def State.badEntry (s : State) (e : Entry) : Bool :=
  decide (3 < e.kind) ||
    (List.range 8).any (fun i => e.w i &&& ~~~((entryMask e.kind).getD i 0) != 0) ||
    (match e.kind with
     | 0 => (e.w 1).toNat % 4 != 0 || (e.w 3).toNat % 4 != 0 || e.doneAt.toNat % 8 != 0 || !s.shapeFits e.hw e.hh
     | 1 => (e.w 1).toNat % 128 != 0
     | _ => (e.w 1).toNat % 8 != 0)

/-- The entry of a channel whose turn has come: the next to start, of an enabled channel, with the entry before it
completed where AFTER asks for that (R352, R355). -/
def State.turn? (s : State) (ch : Nat) : Option Entry :=
  let c := s.chan ch
  match s.fes.entries.find? (fun e => e.ch == ch && e.idx == c.head) with
  | none => none
  | some e =>
    if !c.en then none
    else if e.after && s.fes.entries.any (fun p => p.ch == ch && (p.idx + 1) % 2 ^ 32 == e.idx) then none
    else some e

/-- Is an entry the one with a channel and index? -/
def Entry.isAt (ch idx : Nat) (e : Entry) : Bool := e.ch == ch && e.idx == idx
/-- Change an entry. -/
def State.updEntry (s : State) (ch idx : Nat) (f : Entry → Entry) : State :=
  { s with fes := { s.fes with entries := updFirst (Entry.isAt ch idx) f s.fes.entries } }
/-- An entry is complete. -/
def State.endEntry (s : State) (ch idx : Nat) : State :=
  { s with fes := { s.fes with entries := dropFirst (Entry.isAt ch idx) s.fes.entries } }
/-- HEAD advances past an entry that starts (R352, R356). -/
def State.advanceHead (s : State) (ch : Nat) : State := s.updChan ch (fun c => { c with head := (c.head + 1) % 2 ^ 32 })

/-! ## Accesses of the FES (R434) -/

/-- FAULT of a channel (R352): 1 PAGE, 2 POISON, 3 REFUSED. -/
def State.setFault (s : State) (ch code : Nat) : State := s.updChan ch (fun c => { c with ctl := setFld c.ctl 8 8 code })

/-- Translate an address for the FES, in an entry's ASID and its channel's world. DEDUCED (log entry 27). -/
def State.fesPa (s : State) (sec : Bool) (asid : Nat) (va : Word) (acc : Acc) : Trans × State :=
  if !inGlobal va then (.fault rNOTVALID, s)
  else
    match s.walk { secure := sec, fes := true } asid va.toNat acc false with
    | (.leaf e, s) => (.phys (e.phys va.toNat), s)
    | (.fail why, s) => (.fault why, s)
    | (.wait, s) => (.wait, s)

/-- What an access of the FES comes to: bytes, a failure code, or a wait. -/
inductive FesRes where
  | ok (x : Nat)
  | fail (code : Nat)
  | wait
  deriving DecidableEq, Repr

/-- The FES reads `n` bytes at a physical address. -/
def State.fesReadPa (s : State) (sec : Bool) (pa n : Nat) : FesRes × State :=
  match s.engRead false { secure := sec } kERead pa n .df with
  | (.ok x false, s) => (.ok x, s)
  | (.ok _ true, s) => (.fail 2, s)
  | (.wait, s) => (.wait, s)
  | (_, s) => (.fail 3, s)

/-- The FES stores 8 bytes; a store merged into a poisoned line reports POISON. -/
def State.fesStore (s : State) (sec : Bool) (asid : Nat) (va x : Word) : FesRes × State :=
  match s.fesPa sec asid va 1 with
  | (.fault _, s) => (.fail 1, s)
  | (.wait, s) => (.wait, s)
  | (.phys pa, s) =>
    match s.engWrite false { secure := sec } kEWrite pa 8 x.toNat .df with
    | (.ok _ false, s) => (.ok 0, s)
    | (.ok _ true, s) => (.fail 2, s)
    | (.wait, s) => (.wait, s)
    | (_, s) => (.fail 3, s)

/-- A store of the FES for a channel: none while it waits; a failure goes into FAULT. -/
def State.chanStore (s : State) (ch asid : Nat) (va x : Word) : Option State :=
  match s.fesStore (s.chan ch).wld asid va x with
  | (.wait, _) => none
  | (.ok _, s) => some s
  | (.fail code, s) => some (s.setFault ch code)

/-- MSI-X vector `v` fires (R428). DESIGN CHOICE (log entry 41). -/
def State.msix (s : State) (v : Nat) : State := { s with sys := { s.sys with msix := s.sys.msix ++ [v] } }

/-- The completion word of a launch is stored, if it has one, and the vector of the channel fires (R361, R428, R434). -/
def State.launchWord (s : State) (ch idx asid : Nat) (done : Word) (code : Nat) : Option State :=
  if done = 0 then some s else (s.chanStore ch asid done (word (idx * 2 ^ 32 + code))).map (fun s => s.msix ch)

/-- An entry whose turn has come is completed with BADENTRY (R356). -/
def State.rejectEntry (s : State) (e : Entry) : State :=
  match (if e.kind = 0 then s.launchWord e.ch e.idx e.asid e.doneAt 3 else some s) with
  | none => s
  | some s => (s.endEntry e.ch e.idx).advanceHead e.ch

/-- The entry of a channel whose turn has come, if it is of a kind, starts by `go`; a bad one is rejected, one of an
unknown kind by any of the starting steps. -/
def State.startEntry (s : State) (ch kind : Nat) (go : Entry → State) : State :=
  match s.turn? ch with
  | none => s
  | some e =>
    if e.kind ≠ kind ∧ e.kind ≤ 3 then s
    else if s.badEntry e then s.rejectEntry e
    else go e

/-! ## WAITW and SIGNAL (R355) -/

/-- Does the word of a WAITW satisfy it? -/
def Entry.holds (e : Entry) (x : Nat) : Bool := x == (e.w 2).toNat || (bitAt (e.w 3) 0 && decide ((e.w 2).toNat ≤ x))

/-- A WAITW entry reads its word: it completes, or waits for a write to the word's line (R355, R434). -/
def State.waitwRead (s : State) (e : Entry) (pa : Nat) : Option State :=
  match s.fesReadPa (s.chan e.ch).wld pa 8 with
  | (.wait, _) => none
  | (.fail code, s) => some ((s.setFault e.ch code).endEntry e.ch e.idx)
  | (.ok x, s) =>
    if e.holds x then some (s.endEntry e.ch e.idx)
    else some (s.updEntry e.ch e.idx (fun e => { e with st := .waiting, watch := false, watchPa := pa }))

/-- WAITW_START (R355). -/
def execWaitwStart (ch : Nat) (s : State) : Out :=
  .next (s.startEntry ch 2 (fun e =>
    match s.fesPa (s.chan ch).wld e.asid (e.w 1) 0 with
    | (.fault _, t) => ((t.setFault ch 1).endEntry ch e.idx).advanceHead ch
    | (.wait, _) => s
    | (.phys pa, t) => match t.waitwRead e pa with
      | none => s
      | some t => t.advanceHead ch))

/-- WAITW_RECHECK (R355): the watched word's line has been written, and the FES reads the word again. -/
def execWaitwRecheck (ch idx : Nat) (s : State) : Out :=
  .next (match s.fes.entries.find? (Entry.isAt ch idx) with
    | none => s
    | some e => if e.kind = 2 ∧ e.st = .waiting ∧ e.watch then (s.waitwRead e e.watchPa).getD s else s)

/-- SIGNAL_START (R355, R434). -/
def execSignalStart (ch : Nat) (s : State) : Out :=
  .next (s.startEntry ch 3 (fun e =>
    match s.chanStore ch e.asid (e.w 1) (e.w 2) with
    | none => s
    | some t => (t.updEntry ch e.idx (fun e => { e with st := .running })).advanceHead ch))

/-- SIGNAL_COMPLETE (R355): the store has been acknowledged. -/
def execSignalComplete (ch idx : Nat) (s : State) : Out :=
  .next (match s.fes.entries.find? (Entry.isAt ch idx) with
    | none => s
    | some e => if e.kind = 3 ∧ e.st = .running then s.endEntry ch idx else s)

/-! ## Halls -/

/-- The first origin that fits a shape, in row-major order (R357). -/
def State.originFor (s : State) (w h : Nat) : Option (Nat × Nat) :=
  ((List.range 8).flatMap (fun y => (List.range 16).map (fun x => (x, y)))).find? (fun o => s.fits o.1 o.2 w h)

/-- The launch of a channel that waits for allocation, or begins to (R358). -/
def State.waitingLaunch (s : State) (ch : Nat) : Option Entry :=
  match s.turn? ch with
  | none => none
  | some e => if e.kind = 0 ∧ !s.badEntry e ∧ (e.st = .queued ∨ e.st = .waiting) then some e else none

/-- Times a launch is passed over before it holds others back (R358). -/
def starveLimit : Nat := 64

/-- Another waiting launch starves, and holds this one back (R358). A launch that starves itself is still tried, and held back
only by one of a lower class number. DEDUCED (log entry 42). -/
def State.heldBack (s : State) (e : Entry) : Bool :=
  (List.range 16).any (fun c => c != e.ch &&
    match s.waitingLaunch c with
    | none => false
    | some x => decide (starveLimit ≤ x.passed) && (decide (x.cls < e.cls) || (x.cls == e.cls && decide (e.passed < starveLimit))))

/-- Take a hall's tiles for a launch. -/
def State.takeHall (s : State) (e : Entry) (o : Nat × Nat) : State :=
  let id := s.fes.nextHall
  let ts := (List.range (e.hw * e.hh)).map (fun k => (o.2 + k / e.hw) * 16 + o.1 + k % e.hw)
  let s := ts.foldl (fun s t => s.updTile t (fun x => { x with hall := some id })) s
  let s := { s with fes := { s.fes with nextHall := id + 1 } }
  s.updEntry e.ch e.idx (fun e => { e with st := .allocated (o.2 * 16 + o.1), hall := id })

/-- The FES considers the waiting launch of one channel (R358). DEDUCED (log entry 42). -/
def State.consider (cls : Nat) (s : State) (ch : Nat) : State :=
  match s.waitingLaunch ch with
  | none => s
  | some e =>
    if e.cls ≠ cls ∨ s.heldBack e then s
    else
      match s.originFor e.hw e.hh with
      | some o => s.takeHall e o
      | none => s.updEntry e.ch e.idx (fun e => { e with passed := e.passed + 1 })

/-- The waiting launches are to be considered: a hall has been freed or a launch begins to wait (R358). -/
def State.allocDue (s : State) : Bool :=
  s.fes.freed || ((List.range 16).filterMap s.waitingLaunch).any (fun e => e.st == .queued)

/-- HALL_ALLOCATE (R357, R358): when a hall has been freed or a launch begins to wait, the FES considers the waiting
launches in ascending class, and within a class in ascending channel number; it does so once, at the end of the cycle. -/
def execHallAllocate (s : State) : Out :=
  .next (
    let ws := (List.range 16).filterMap s.waitingLaunch
    if !s.allocDue then s
    else
      let s := ws.foldl (fun s e => s.updEntry e.ch e.idx (fun e => { e with st := .waiting })) s
      let s := { s with fes := { s.fes with freed := false } }
      (List.range 4).foldl (fun s c => (List.range 16).foldl (State.consider c) s) s)

/-! ## Starting a launch -/

/-- A level of a core at hall start (R360). -/
def Thread.atStart (t : Thread) : Thread :=
  { t with fp := {}, cp := [], fails := [], hold := .idle, ir := [], held := [], heldV := [], late := none, offer := {}, rest := [] }

/-- A core at hall start (R360). DEDUCED (log entry 42). -/
def Core.atStart (c : Core) : Core :=
  { c with
    lv0 := c.lv0.atStart
    lv1 := c.lv1.atStart
    level := false
    pend := []
    tBit := false
    pv := false
    tvec := 0
    tcause := 0
    tpc := 0
    tval := 0
    latch := false
    maskOpen := false
    maskCnt := 0
    b := 256
    w := 256
    issuedNow := false
    qStall := none
    sendSeq := 0
    inl := 0
    jobs := 0
    wit := []
    score := []
    q := []
    pinned := []
    handlers := []
    stopped := false }

/-- A bay at hall start (R360). -/
def Bay.atStart (b : Bay) : Bay := { rr := b.rr }

/-- Occupancy of the task queues of a tile (R364). -/
def Tile.sampleOcc (t : Tile) : Tile := { t with occ := (List.range 4).map (fun c => (c, (t.queue c).length)), occOld := t.occ }

/-- The first record of a launch in a tile (R359). -/
def Hall.firstRec (h : Hall) (k : Nat) : Rec := { code := h.entry, frame := h.arg, jctr := 0, tidx := word k }

/-- A tile at hall start, with the first record of the launch in its task queue (R309, R359, R360). -/
def tileAtStart (h : Hall) (epoch cycle : Nat) : Tile :=
  Tile.sampleOcc { hall := some h.id, epoch := epoch, taskq := [(h.cls, [cycle])] }

/-- The memories of a tile at hall start: scratchpads undefined, the live gallery and landing 0 zero, tile registers
and alcoves zero (R142, R180, R240, R309). -/
def Mems.atStart (m : Mems) (t : Nat) : Mems :=
  { m with
    spad := m.spad.clear (t * 64 * 2 ^ 17) (64 * 2 ^ 17)
    gal := m.gal.clear (t * 2 ^ 14) (2 ^ 14)
    land := m.land.clear (landAddr t 0 0) (2 ^ 14)
    landErr := m.landErr.filter (fun a => decide (a * 8 / 2 ^ 14 ≠ t * 8))
    tdata := m.tdata.clear (tdataAddr (t * 8) 0 0) (8 * 16 * 24576)
    tscale := m.tscale.clear (tscaleAddr (t * 8) 0 0) (8 * 16 * 3072)
    alcove := m.alcove.clear (t * 8 * alcoveWords) (8 * alcoveWords) }

/-- The hall of a launch (R354, R359). -/
def State.hallOfEntry (s : State) (e : Entry) (o : Nat) : Hall :=
  { id := e.hall, ox := o % 16, oy := o / 16, w := e.hw, h := e.hh, ch := e.ch, idx := e.idx, det := bitAt (e.w 0) 58, cls := e.cls,
    entry := e.w 1, arg := e.w 2, stallh := e.w 3, hallwd := fld (e.w 4) 32 32, asid := e.asid, energy := fld (e.w 5) 0 40,
    refill := fld (e.w 6) 0 40, budget := fld (e.w 5) 0 40 != 0, lastTick := s.cycle, done := e.doneAt, lseed := e.seed,
    secure := (s.chan e.ch).wld, start := s.cycle, sampled := s.cycle }

/-- The state of a hall's units is set for a new launch (R309, R359, R360). -/
def State.startHall (s : State) (h : Hall) : State :=
  let s := s.flushU h
  let n := s.mem.epoch + 1
  let s := s.updMem (fun m => { m with epoch := n })
  let s := { s with fes := { s.fes with halls := s.fes.halls ++ [h] } }
  h.tiles.foldl (fun s t =>
    let x := tileAtStart h n s.cycle
    let s := (s.setTile t x).putRec t (x.taskSlot h.cls 0) (h.firstRec (h.index t))
    let s := s.updMem (fun m => m.atStart t)
    let s := (List.range 64).foldl (fun s c => s.updCore (t * 64 + c) Core.atStart) s
    (baysOf t).foldl (fun s k => s.updBay k Bay.atStart) s) s

/-- LAUNCH_START (R309, R359, R360): an allocated launch starts, unless EN of its channel has been cleared (R352); a LAUNCH
that breaks R356 is rejected. -/
def execLaunchStart (ch : Nat) (s : State) : Out :=
  .next (match s.fes.entries.find? (Entry.isAt ch (s.chan ch).head) with
    | none => s
    | some e =>
      match e.st with
      | .allocated o => if !(s.chan ch).en then s else ((s.startHall (s.hallOfEntry e o)).updEntry ch e.idx (fun e => { e with st := .running })).advanceHead ch
      | _ => s.startEntry ch 0 (fun _ => s))

/-! ## Ending a launch -/

/-- What a hall has on its way that ends with it is forgotten. -/
def State.forgetHall (s : State) (h : Hall) : State :=
  { s with
    gmsgs := s.gmsgs.filter (fun m => !h.hasCore m.core)
    pushes := s.pushes.filter (fun p => !h.tiles.contains p.tile)
    parks := s.parks.filter (fun p => !h.tiles.contains p.tile)
    qflight := s.qflight.filter (fun q => !h.hasCore q.core)
    tiles := s.tiles.map (fun e => if h.tiles.contains e.1 then (e.1, { e.2 with mons := [], taskq := [], vest := [], overflow := [], unposted := [] }) else e) }

/-- The state in which a launch has ended (R361, R362); none while it has not, or its completion word cannot be written. -/
def State.launchEnd? (s : State) (h : Hall) : Option State :=
  if !s.launchOver h || s.flushWaits h then none
  else
    ((s.flushU h).launchWord h.ch h.idx h.asid h.done (if h.stop = .cancel then 2 else 1)).map
      (fun s => ((s.forgetHall h).freeTiles h).endEntry h.ch h.idx)

/-- LAUNCH_END (R361, R362): a hall with nothing left to do, or a cancelled one whose cores have stopped and whose
engine threads have ended, is freed; its completion word is written and its entry completes. It ends at the end of the first
cycle in which all that holds. -/
def execLaunchEnd (hall : Nat) (s : State) : Out :=
  .next (match s.hall? hall with
    | none => s
    | some h => (s.launchEnd? h).getD s)

/-! ## Occupancy and energy -/

/-- A hall runs: it is neither being saved nor being restored. -/
def Hall.runs (h : Hall) : Bool := match h.stop with | .save _ => false | _ => true

/-- A sample of the task queues of a hall is due (R364). -/
def State.occupancyDue (s : State) (h : Hall) : Bool := h.runs && decide (h.sampled + 1024 ≤ s.cycle)

/-- OCCUPANCY_SAMPLE (R364): every 1,024 arithmetic cycles the tiles of a hall sample their task queues. -/
def execOccupancySample (hall : Nat) (s : State) : Out :=
  .next (match s.hall? hall with
    | none => s
    | some h =>
      if !s.occupancyDue h then s
      else (h.tiles.foldl (fun s t => s.updTile t Tile.sampleOcc) s).updHall hall (fun h => { h with sampled := h.sampled + 1024 }))

/-- Arithmetic cycles of a microsecond (R3). -/
def cyclesPerUs : Nat := 940

/-- A microsecond's meter reading is added to a hall's consumption (R365). -/
def Hall.tick (h : Hall) (reading : Nat) : Hall :=
  let h := { h with lastTick := h.lastTick + cyclesPerUs }
  if !h.budget then h
  else if h.used + reading < h.energy then { h with used := h.used + reading }
  else { h with cls := min (h.cls + 1) 3, used := 0, energy := h.refill, budget := h.refill != 0 }

/-- A microsecond of a hall is over (R365). -/
def State.energyDue (s : State) (h : Hall) : Bool := h.runs && decide (h.lastTick + cyclesPerUs ≤ s.cycle)

/-- ENERGY_TICK (R365). -/
def execEnergyTick (hall reading : Nat) (s : State) : Out :=
  .next (match s.hall? hall with
    | none => s
    | some h => if s.energyDue h then s.updHall hall (fun h => h.tick reading) else s)

/-! ## DLAUNCH -/

/-- The codes of R366. -/
def dFULL : Nat := 1
/-- BADCH. -/
def dBADCH : Nat := 2

/-- The 64 bytes of an entry with the ASID of the issuing launch (R366). -/
def withAsid (x asid : Nat) : Nat := x - x / 2 ^ 256 % 2 ^ 12 * 2 ^ 256 + asid * 2 ^ 256

/-- DLAUNCH reaches the FES: its status word, none while the ring's slot cannot be written (R366).
DEDUCED (log entry 27). -/
def State.dlaunch (s : State) (c : Word) (x : Nat) : Option (Word × State) :=
  let h := s.chan c.toNat
  if 15 < c.toNat ∨ !h.en ∨ !h.dev ∨ (h.wld ∧ !s.myHall.secure) then some (word dBADCH, s)
  else if h.fill = 2 ^ h.log2n then some (word dFULL, s)
  else
    let y := withAsid x s.myHall.asid
    let pa := fld h.base 6 42 * 64 + 64 * (h.tail % 2 ^ h.log2n)
    match s.engWrite false { secure := h.wld } kEWrite pa 64 y .df with
    | (.wait, _) => none
    | (_, s) =>
      let e : Entry := { ch := c.toNat, idx := h.tail, words := (List.range 8).map (fun i => word (y / 2 ^ (64 * i))), seed := h.seed }
      let s := s.updChan c.toNat (fun h => { h with tail := (h.tail + 1) % 2 ^ 32 })
      some (word (h.tail * 2 ^ 32), { s with fes := { s.fes with entries := s.fes.entries ++ [e] } })

/-- DLAUNCH (R366). -/
def execDlaunch (gu : Guard) (la : BitVec 4) (d a b : Reg) (s : State) : Out :=
  s.runs { len := xlen, on := s.guard gu, rs := [a.toNat, b.toNat], ws := [d.toNat], long := true } (fun s =>
    let ga := s.src a
    if ga.toNat % 64 ≠ 0 then .trap s tALIGN ga
    else
      (s.nowRead ga 64 0 kLoad false).res 0 (fun x _ t =>
        if t.unreleased then .stall
        else
          match t.dlaunch (s.src b) x with
          | none => .stall
          | some (r, t) => .done (t.answer d la r)))

end Sys2Proof.Machine
end

