-- ==== Sys2Proof/Machine/Collective.lean ====
section
/-!
DEFINITION. Collectives: blocks, ranks and starts (R368 to R374), packets (R384, R385), accesses of a member
(R389), values (R381 to R383), closing, completion and abort (R386 to R388).
-/

namespace Sys2Proof.Machine

open Sys2Proof

/-! ## The block -/

/-- Doubleword `i` of a member's block (R368). -/
def Member.b (m : Member) (i : Nat) : Word := m.block.getD i 0
/-- NRANK. -/
def Member.nrank (m : Member) : Nat := fld (m.b 2) 0 16
/-- RANK. -/
def Member.rank (m : Member) : Nat := fld (m.b 2) 16 16
/-- SID. -/
def Member.sid (m : Member) : Nat := fld (m.b 2) 32 32
/-- MODE: true for EXACT. -/
def Member.exact (m : Member) : Bool := bitAt (m.b 3) 59
/-- RM. -/
def Member.rm (m : Member) : Nat := fld (m.b 3) 60 3
/-- OP: 0 NONE, 1 SUM, 2 MIN, 3 MAX. -/
def Member.op (m : Member) : Nat := fld (m.b 3) 56 3
/-- TY. -/
def Member.ty (m : Member) : Nat := fld (m.b 3) 52 4
/-- NCHUNK. -/
def Member.nch (m : Member) : Nat := fld (m.b 3) 40 12 + 1
/-- COUNT. -/
def Member.count (m : Member) : Nat := fld (m.b 3) 0 40
/-- TMO. -/
def Member.tmo (m : Member) : Nat := fld (m.b 9) 0 32
/-- The signature: block words +16 and +24, with RANK zeroed (R375). -/
def Member.sig (m : Member) : Word × Word := (setFld (m.b 2) 16 16 0, m.b 3)

/-- The format of a buffer (R369): a type code, 16 for XACC32 slots, 17 for XACC64 slots. -/
def Member.fmt (m : Member) (buf : Nat) : Nat :=
  if buf ≠ 1 then m.ty
  else if m.exact then (if m.ty = 0 then 17 else 16)
  else if m.ty = 2 ∨ m.ty = 3 then 1 else m.ty

/-- Bytes of an element in a format. -/
def fmtBytes (f : Nat) : Nat := if f = 16 then 64 else if f = 17 then 288 else max 1 (bitsOf f / 8)

/-- E: elements of a chunk (R369). -/
def Member.e (m : Member) : Nat := (m.count + m.nch - 1) / m.nch
/-- Elements of chunk `c`. -/
def Member.elems (m : Member) (c : Nat) : Nat := min m.e (m.count - c * m.e)
/-- S: the scratch size, rounded up to a multiple of 128. -/
def Member.scratch (m : Member) : Nat := (m.count * fmtBytes (m.fmt 1) + 127) / 128 * 128
/-- The address of chunk `c` of a buffer: 0 source, 1 scratch, 2 staging. -/
def Member.chunkAt (m : Member) (buf c : Nat) : Nat :=
  let base := if buf = 0 then (m.b 4).toNat else if buf = 1 then (m.b 5).toNat else (m.b 5).toNat + m.scratch
  (base + c * m.e * fmtBytes (m.fmt buf)) % 2 ^ 64
/-- The address of chunk `c` of DST. -/
def Member.dstAt (m : Member) (c : Nat) : Nat := ((m.b 6).toNat + c * m.e * fmtBytes m.ty) % 2 ^ 64

/-- The checks of R370 on the block itself. -/
def Member.badBlock (m : Member) : Bool :=
  bitAt (m.b 3) 63 || (List.range 6).any (fun i => m.b (10 + i) != 0) || fld (m.b 9) 32 32 != 0 ||
    decide (4 < m.rm) || (!m.exact && m.rm != 0) || (decide (4 ≤ m.ty) && decide (m.ty ≤ 8)) || decide (3 < m.op) ||
    (m.exact && (m.op != 1 || decide (1 < m.ty))) ||
    (m.b 0).toNat % 64 != 0 || (m.b 1).toNat % 8 != 0 || (m.b 7).toNat % 8 != 0 || (m.b 8).toNat % 8 != 0 ||
    m.nrank == 0 || decide (m.nrank ≤ m.rank) || m.count == 0 || decide (m.count ≤ (m.nch - 1) * m.e) ||
    (m.b 4).toNat % fmtBytes m.ty != 0 || (m.b 5).toNat % fmtBytes (m.fmt 1) != 0 || (m.b 6).toNat % fmtBytes m.ty != 0 ||
    decide (2 ^ 20 < m.e * max (fmtBytes m.ty) (fmtBytes (m.fmt 1)))

/-- A rank address that breaks its layout (R370, R371). -/
def badRank (a : Word) : Bool :=
  fld a 48 16 != 0 || fld a 19 5 != 0 || fld a 12 4 != 0 || fld a 0 8 != 0 ||
    (decide (128 ≤ fld a 24 8) && decide (fld a 24 8 ≤ 254))

/-- This package's number (R435). -/
def State.pkg (s : State) : Nat := fld s.sys.pkgid 0 16

/-- A rank address with its package and its hall named outright (R371). -/
def State.resolveRank (s : State) (own : Nat) (a : Word) : Word :=
  let a := if fld a 32 16 = 0xFFFF then setFld a 32 16 s.pkg else a
  if fld a 24 8 = 0xFF then setFld a 24 8 own else a

/-- The tile that a resolved rank address names in its package, none outside the mesh. -/
def rankTile (a : Word) : Option Nat :=
  let x := fld a 24 8 % 16 + fld a 8 4
  let y := fld a 24 8 / 16 + fld a 16 3
  if x < 16 ∧ y < 8 then some (y * 16 + x) else none

/-- A member's own rank address. -/
def Member.self (m : Member) : Word := m.rlist.getD m.rank 0

/-! ## Members -/

/-- A member of the FES. -/
def State.member? (s : State) (id : Nat) : Option Member := s.fes.members.find? (fun m => m.id == id)
/-- Change it. -/
def State.updMember (s : State) (id : Nat) (f : Member → Member) : State :=
  { s with fes := { s.fes with members := updFirst (fun m => m.id == id) f s.fes.members } }
/-- The hall of a member; a record of zeros when it has ended. -/
def State.memberHall (s : State) (m : Member) : Hall := (s.hall? m.hall).getD {}
/-- The requester a member is (R425). -/
def Member.rqst (m : Member) : Rqst := { tile := m.tile, core := 0, unit := 4, secure := m.secure }

/-! ## Accesses at home slices (R389) -/

/-- The codes of R387. -/
def kMISMATCH : Nat := 2
/-- BADSCHED. -/
def kBADSCHED : Nat := 3
/-- BADTREE. -/
def kBADTREE : Nat := 4
/-- TIMEOUT. -/
def kTIMEOUT : Nat := 5
/-- PAGE. -/
def kPAGE : Nat := 6
/-- DEADLINK. -/
def kDEADLINK : Nat := 7
/-- POISON. -/
def kPOISON : Nat := 8
/-- REFUSED. -/
def kREFUSED : Nat := 9
/-- BADBLOCK. -/
def kBADBLOCK : Nat := 10
/-- BUSY. -/
def kBUSY : Nat := 11
/-- NOTMEMBER. -/
def kNOTMEMBER : Nat := 12
/-- CANCEL. -/
def kCANCEL : Nat := 13

/-- What accesses of a member come to. -/
inductive ColRes where
  | ok (x : Nat)
  | stop (code : Nat)
  | page (va : Word) (acc why : BitVec 2)
  | wait
  deriving DecidableEq, Repr

/-- A member waits for a reply about the page of an address (R413). -/
def Member.waitsFor (m : Member) (va : Word) : Bool := m.waits.any (fun w => pageOf w.va == pageOf va)

/-- Translate an address of a member; while the member waits for a reply about its page, the access meets that fault. -/
def State.colPa (s : State) (m : Member) (va : Nat) (acc : Acc) : ColRes × State :=
  if 2 ^ 52 ≤ va then (.stop kREFUSED, s)
  else if m.waitsFor (word va) then (.page (word va) acc 0, s)
  else
    match s.walk { m.rqst with fes := true } m.asid va acc false with
    | (.leaf e, s) => (.ok (e.phys va), s)
    | (.fail why, s) => (.page (word va) acc why, s)
    | (.wait, s) => (.wait, s)

/-- What an engine's access means to a member. -/
def EngRes.col : EngRes → ColRes
  | .ok x false => .ok x
  | .ok _ true => .stop kPOISON
  | .refused => .stop kREFUSED
  | .dead => .stop kDEADLINK
  | .wait => .wait

/-- Read `n` bytes for a member, line by line. -/
def State.colRead (s : State) (m : Member) (va n : Nat) : Nat → ColRes × State
  | 0 => (.ok 0, s)
  | f + 1 =>
    if n = 0 then (.ok 0, s)
    else
      let k := min n (128 - va % 128)
      match s.colPa m va 0 with
      | (.ok pa, s) =>
        let (r, s) := s.engRead false m.rqst kERead pa k .df
        match r.col with
        | .ok x =>
          match s.colRead m ((va + k) % 2 ^ 64) (n - k) f with
          | (.ok y, s) => (.ok (x + y * 2 ^ (8 * k)), s)
          | e => e
        | e => (e, s)
      | e => e

/-- Write for a member, line by line: what it comes to, and what is left to write. What is merged into a poisoned line stays
poisoned. -/
def State.colWrite (s : State) (m : Member) (o : ColOut) : Nat → ColRes × ColOut × State
  | 0 => (.ok 0, o, s)
  | f + 1 =>
    if o.n = 0 then (.ok 0, o, s)
    else
      let k := min o.n (128 - o.va % 128)
      match s.colPa m o.va 1 with
      | (.ok pa, s) =>
        match s.engWrite false m.rqst kEWrite pa k (o.x % 2 ^ (8 * k)) .df with
        | (.ok _ _, s) => s.colWrite m { o with va := (o.va + k) % 2 ^ 64, n := o.n - k, x := o.x / 2 ^ (8 * k) } f
        | (r, s) => (r.col, o, s)
      | (e, s) => (e, o, s)

/-- Lines that `n` bytes may touch. -/
def lineFuel (n : Nat) : Nat := n / 128 + 2

/-- Read bytes for a member. -/
def State.memRead (s : State) (m : Member) (va n : Nat) : ColRes × State := s.colRead m va n (lineFuel n)
/-- Write bytes for a member: what it comes to, and what is left to write. -/
def State.memWrite (s : State) (m : Member) (o : ColOut) : ColRes × ColOut × State := s.colWrite m o (lineFuel o.n)

/-- A member adds to its SIGW (R380, R389). -/
def State.memAdd (s : State) (m : Member) (x : Nat) : ColRes × State :=
  let va := (m.b 8).toNat
  match s.colPa m va 3 with
  | (.ok pa, s) =>
    match s.engRead false m.rqst kAtomic pa 8 .df with
    | (.ok old false, t) =>
      let (r, t) := t.engWrite false m.rqst kAtomic pa 8 ((old + x) % 2 ^ 64) .df
      (r.col, t)
    | (r, t) => (r.col, t)
  | e => e

/-- Another access of a member meets a page fault that has been posted: it waits for the same reply (R413). -/
def PageWait.joined (w : PageWait) (who : MemAcc) (va : Word) : PageWait :=
  if pageOf w.va = pageOf va ∧ !w.accs.contains who then { w with accs := w.accs ++ [who] } else w

/-- An access of a member meets a page fault: the member posts one message for the page, which waits for the restore of a hall
that has been saved (R389, R390, R413, R414). None when the FES answers ABORT itself. -/
def State.memPage (s : State) (m : Member) (who : MemAcc) (va : Word) (acc why : BitVec 2) : Option State :=
  if s.fes.away.contains m.hall then some s
  else if m.waitsFor va then some (s.updMember m.id (fun m => { m with waits := m.waits.map (fun w => w.joined who va) }))
  else
    let h := s.memberHall m
    let tidx := msgTidx h msgPage acc.toNat 4 m.tile 0 why.toNat 0
    match s.postService h va tidx with
    | .posted s => some (s.updMember m.id (fun m => { m with waits := m.waits ++ [{ va := va, tidx := tidx, accs := [who] }] }))
    | .full => some s
    | .fes => none

/-- An add to SIGW that a packet brings waits for a reply, or has been answered with ABORT (R389). -/
def Member.sigHeld (m : Member) (pkt : Nat) : Bool :=
  m.waits.any (fun w => w.accs.contains (.sig pkt)) || m.pageAborts.contains (.sig pkt)

/-! ## Packets -/

/-- Between the dies a packet in transit, and a host request, takes either link that is up (R385). -/
def State.bridge (s : State) (d d' : Nat) : Way :=
  if d = d' then .clear
  else if s.linkState 0 = 0 ∨ s.linkState 1 = 0 then .clear
  else if s.linkState 0 = 2 ∧ s.linkState 1 = 2 then .dead
  else .wait

/-- The die of a Harpin port (R430). -/
def portDie (p : Nat) : Nat := p / 8

/-- The header of a packet with one operation (R384). -/
def Member.header (m : Member) (route dest : Word) (op : Nat) (w40 : Word) (len off : Nat) : List Word :=
  [route, dest, word (m.inst * 2 ^ 48 + m.rank * 2 ^ 32 + 2 ^ 28 + op * 2 ^ 12), m.sig.1, m.sig.2, w40, word (len * 2 ^ 32 + off), 0]

/-- What sending comes to: the way is dead, or the packet stays in the package or has left it. -/
inductive SendRes where
  | dead
  | here (s : State)
  | gone (s : State)

/-- The way of a packet from a die and a quadrant row to a Harpin port: the bridge may lie on it, and the port may be down
(R118, R385, R388, R430). -/
def State.wayToPort (s : State) (die row q : Nat) : Way :=
  if (s.sys.ports.get {} q).state ≠ 0 then .dead else s.way die row (portDie q)

/-- Send a packet from a member to a rank (R384, R385, R435). One that has to wait for a link that is retraining, or stands
behind such a one, stays in the package until PACKET_TRANSIT. DESIGN CHOICE (log entry 38). -/
def State.sendPkt (s : State) (m : Member) (r op : Nat) (w40 : Word) (off : Nat) (payload : List Byte) (who : Option (Nat × Nat)) : SendRes :=
  let dest := m.rlist.getD r 0
  let p := fld dest 32 16
  if p = s.pkg then
    let way := match rankTile dest with
      | some t => s.wayToTile m.tile t
      | none => .clear
    if way = .dead then .dead
    else
      let k : Pkt := { id := s.ctr, hdr := m.header 0 dest op w40 payload.length off, payload := payload, src := m.tile, sender := who }
      .here { s with ctr := s.ctr + 1, fes := { s.fes with pkts := s.fes.pkts ++ [k] } }
  else
    let t := s.sys.routes.get {} p
    let q := t.out.toNat
    let hdr := m.header t.hdr dest op w40 payload.length off
    let way := s.wayToPort (dieOf m.tile) (rowOfTile m.tile) q
    if !t.v || way == .dead then .dead
    else if way == .wait || s.fes.pkts.any (fun k => k.outPort == some q && dieOf k.src == dieOf m.tile) then
      let k : Pkt := { id := s.ctr, hdr := hdr, payload := payload, outPort := some q, src := m.tile, sender := who }
      .here { s with ctr := s.ctr + 1, fes := { s.fes with pkts := s.fes.pkts ++ [k] } }
    else .gone { s with fes := { s.fes with out := s.fes.out ++ [(q, hdr, payload)] } }

/-- The state after a packet has been sent, unchanged where its way is dead. -/
def State.trySend (s : State) (m : Member) (r op : Nat) (payload : List Byte) : State :=
  match s.sendPkt m r op 0 0 payload none with
  | .dead => s
  | .here s => s
  | .gone s => s

/-! ## Completion (R386 to R389) -/

/-- The completion word (R387). -/
def Member.word (m : Member) : Word :=
  let (code, origin) := m.abort.getD (1, m.rank)
  Sys2Proof.word (m.inst * 2 ^ 48 + origin * 2 ^ 32 + 256 * m.flags.toNat + code)

/-- A member ends; the entry that started it completes, and the vector of its channel fires if its word was written
(R374, R428). -/
def State.endMember (s : State) (m : Member) (wrote : Bool) : State :=
  let s := { s with fes := { s.fes with members := s.fes.members.filter (fun x => x.id != m.id) } }
  match m.entry with
  | none => s
  | some (ch, idx) => (if wrote then s.msix ch else s).endEntry ch idx

/-- The lowest chunk of staging that has been written and not yet copied to DST. -/
def Member.staged (m : Member) : Option Nat := (m.chunks.find? (fun e => decide (2 * 4096 ≤ e.1))).map (fun e => e.1 - 2 * 4096)

/-- The completion word is written after the member's SIGW adds; on a refused line, or after an ABORT of its own, it is dropped
(R389). -/
def State.finishWord (s : State) (m : Member) : State :=
  if m.pageAborts.contains .done then s.endMember m false
  else if s.fes.pkts.any (fun p => m.sigHeld p.id) then s
  else
    match s.memWrite m { va := (m.b 7).toNat, n := 8, x := m.word.toNat } with
    | (.ok _, _, t) => t.endMember m true
    | (.stop _, _, t) => t.endMember m false
    | (.page va acc why, _, t) => (t.memPage m .done va acc why).getD (t.endMember m false)
    | (.wait, _, _) => s

/-- A copy of staging to DST failed after CDN: the member's own word alone reports it.
DESIGN CHOICE (log entry 38). -/
def State.lateFail (s : State) (m : Member) (code : Nat) : State :=
  s.updMember m.id (fun m => { m with abort := some (code, m.rank), out := none })

/-- The copy of chunk `c` from staging to DST goes on with what it has still to write (R386). -/
def State.dstWrite (s : State) (m : Member) (c : Nat) (o : ColOut) : State :=
  match s.memWrite m o with
  | (.ok _, _, t) => t.updMember m.id (fun m => { m with chunks := m.chunks.erase (2 * 4096 + c), out := none })
  | (.stop code, _, t) => t.lateFail m code
  | (.page va acc why, o, t) =>
    let t := t.updMember m.id (fun m => { m with out := some o })
    (t.memPage m .dst va acc why).getD (t.lateFail m kPAGE)
  | (.wait, o, t) => t.updMember m.id (fun m => { m with out := some o })

/-- One step of the end of a member: after CDN a staged chunk goes to DST; then the word is written (R386). An aborting
member waits for its running data instructions (R388). -/
def State.finishStep (s : State) (id : Nat) : State :=
  match s.member? id with
  | none => s
  | some m =>
    if (m.st ≠ .closed ∧ m.st ≠ .aborting) ∨ !m.run.isEmpty then s
    else
      match (if m.abort.isSome then none else m.staged) with
      | none => s.finishWord m
      | some c =>
        if m.pageAborts.contains .dst then s.lateFail m kPAGE
        else
          match m.out with
          | some o => s.dstWrite m c o
          | none =>
            let n := m.elems c * fmtBytes m.ty
            match s.memRead m (m.chunkAt 2 c) n with
            | (.ok x, t) => t.dstWrite m c { va := m.dstAt c, n := n, x := x }
            | (.stop code, t) => t.lateFail m code
            | (.page va acc why, t) => (t.memPage m .dst va acc why).getD (t.lateFail m kPAGE)
            | (.wait, _) => s

/-- Steps of the end of a member. -/
def State.finishSteps (s : State) (id : Nat) : Nat → State
  | 0 => s
  | n + 1 => (s.finishStep id).finishSteps id n

/-- The end of a member, as far as it gets now: at most a chunk a step, and the word. -/
def State.finishAll (s : State) (id : Nat) : State :=
  match s.member? id with
  | none => s
  | some m => s.finishSteps id (m.chunks.length + 2)

/-- A member takes an abort: it issues nothing more, and drops its staging; its running data instructions go on as far as
they get with what its inbox holds, also those that wait for a reply to a page fault, and its inbox goes with it (R388).
DESIGN CHOICE (log entry 38). -/
def Member.aborted (m : Member) (code origin : Nat) : Member :=
  { m with st := .aborting, abort := some (code, origin), pageAborts := m.pageAborts.filter (fun a => a != .sched),
           waits := m.waits.map (fun w => { w with accs := w.accs.filter (fun a => a != .sched) }),
           chunks := m.chunks.filter (fun e => decide (e.1 < 2 * 4096)) }

/-- May a member still take an abort: it has started, has taken none, and is not past CDN. -/
def Member.canAbort (m : Member) : Bool := m.abort.isNone && m.st != .starting && m.st != .closed

/-- A member detects a cause of R388: ABT goes to every other rank, and it aborts. DESIGN CHOICE (log entry 38). -/
def State.memAbort (s : State) (id code : Nat) : State :=
  match s.member? id with
  | none => s
  | some m =>
    if !m.canAbort then s
    else
      let s := ((List.range m.nrank).filter (fun r => r != m.rank)).foldl (fun s r => s.trySend m r 2 [BitVec.ofNat 8 code]) s
      (s.updMember id (fun m => m.aborted code m.rank)).finishAll id

/-- A member learns of another's abort (R388). -/
def State.memAborted (s : State) (id code origin : Nat) : State :=
  match s.member? id with
  | none => s
  | some m => if m.canAbort then (s.updMember id (fun m => m.aborted code origin)).finishAll id else s

/-- An access of a member to its schedule that did not succeed: `s0` is the state before it. -/
def State.memFail (s0 : State) (m : Member) (r : ColRes) (s : State) : State :=
  match r with
  | .ok _ => s0
  | .wait => s0
  | .stop code => s.memAbort m.id code
  | .page va acc why => (s.memPage m .sched va acc why).getD (s.memAbort m.id kPAGE)

/-- Does an ABORT reply to this access stop the schedule? One to an add to SIGW does when the add ends (`execSig`). -/
def MemAcc.stops : MemAcc → Bool
  | .sched => true
  | .run _ => true
  | _ => false

/-- A running member is stopped by an ABORT reply or a cancelled hall: what happens instead of its step, none when it may go
on. -/
def State.memHeld (s : State) (m : Member) : Option State :=
  if (s.memberHall m).stop = .cancel then some (s.memAbort m.id kCANCEL)
  else if m.pageAborts.any MemAcc.stops then some (s.memAbort m.id kPAGE)
  else none

/-! ## Starting (R370 to R374) -/

/-- Members a package runs, and rank lists it caches (R372, R373). -/
def memberCap : Nat := 64

/-- The rank list of a member: cached, or read and then cached (R372). `io` reads memory. -/
def State.rankList (s : State) (m : Member) : ColRes × List Word × State :=
  let va := m.b 1
  let hit := fun (e : Nat × Word × Nat × List Word × Nat) => e.1 == m.asid && e.2.1 == va && e.2.2.1 == m.nrank
  match s.fes.rlists.find? hit with
  | some e =>
    (.ok 0, e.2.2.2.1, { s with fes := { s.fes with rlists := (s.fes.rlists.filter (fun x => !hit x)) ++ [(e.1, e.2.1, e.2.2.1, e.2.2.2.1, s.stepNo)] } })
  | none =>
    match s.memRead m va.toNat (8 * m.nrank) with
    | (.ok x, s) =>
      let l := (List.range m.nrank).map (fun i => word (x / 2 ^ (64 * i)))
      let old := if memberCap ≤ s.fes.rlists.length then s.fes.rlists.drop 1 else s.fes.rlists
      (.ok 0, l, { s with fes := { s.fes with rlists := old ++ [(m.asid, va, m.nrank, l, s.stepNo)] } })
    | (e, s) => (e, [], s)

/-- The hall whose origin has a mesh index. -/
def State.hallOfOrigin (s : State) (o : Nat) : Option Hall := s.fes.halls.find? (fun h => h.oy * 16 + h.ox == o)

/-- Starts of a (SID, rank address) so far (R373). -/
def State.starts (s : State) (sid addr : Word) : Nat :=
  match s.fes.insts.find? (fun e => e.1 == sid && e.2.1 == addr) with
  | some e => e.2.2
  | none => 0

/-- Count a successful start. -/
def State.countStart (s : State) (sid addr : Word) : State :=
  let n := s.starts sid addr
  { s with fes := { s.fes with insts := (s.fes.insts.filter (fun e => !(e.1 == sid && e.2.1 == addr))) ++ [(sid, addr, n + 1)] } }

/-- Does a running member hold a (SID, rank address)? -/
def State.memberAt (s : State) (sid addr : Word) : Option Member :=
  s.fes.members.find? (fun m => m.st != .starting && word m.sid == sid && m.self == addr)

/-- What a start comes to: a status, a page fault or a wait, and the member if the block was read. -/
inductive StartRes where
  | started (s : State) (inst : Nat)
  | failed (s : State) (code : Nat) (m : Option Member)
  | page (s : State) (va : Word) (acc why : BitVec 2) (m : Option Member)
  | wait (m : Option Member)

/-- The checks of start() once block and rank list are at hand (R371, R373, R374). `here` is the issuing tile, none for
an entry. -/
def State.startChecks (s : State) (m : Member) (l : List Word) (here : Option Nat) : StartRes :=
  if l.any badRank then .failed s kBADBLOCK (some m)
  else
    let own := match here with
      | some t => (s.hallOf t).map (fun (h : Hall) => h.oy * 16 + h.ox)
      | none =>
        match s.fes.halls.filter (fun (h : Hall) => h.asid == m.asid) with
        | [h] => some (h.oy * 16 + h.ox)
        | _ => none
    if own.isNone && l.any (fun a => fld a 24 8 == 0xFF) then .failed s kNOTMEMBER (some m)
    else
      let rs := l.map (s.resolveRank (own.getD 0))
      let a := rs.getD m.rank 0
      match rankTile a, s.hallOfOrigin (fld a 24 8) with
      | some t, some h =>
        let other := match here with
          | some u => u != t
          | none => h.asid != m.asid
        if fld a 32 16 != s.pkg || !h.tiles.contains t || other then
          .failed s kNOTMEMBER (some m)
        else if memberCap ≤ (s.fes.members.filter (fun x => x.st != .starting)).length ∨ (s.memberAt (word m.sid) a).isSome then
          .failed s kBUSY (some m)
        else
          let n := s.starts (word m.sid) a % 2 ^ 16
          let k := { m with rlist := rs, inst := n, st := .opening, hall := h.id, tile := t, start := s.cycle }
          let s := s.countStart (word m.sid) a
          .started { s with fes := { s.fes with members := (s.fes.members.filter (fun x => x.id != m.id)) ++ [k] } } n
      | _, _ => .failed s kNOTMEMBER (some m)

/-- start() with the block read (R370 to R374): the rank list is read or taken from the cache, and the checks are made. -/
def State.collBlock (s : State) (m : Member) (here : Option Nat) : StartRes :=
  if m.badBlock then .failed s kBADBLOCK (some m)
  else
    match s.rankList m with
    | (.ok _, l, s) => s.startChecks m l here
    | (.stop code, _, s) => .failed s code (some m)
    | (.page va acc why, _, s) => .page s va acc why (some m)
    | (.wait, _, _) => .wait (some m)

/-- start() (R370 to R374): the block is read once, also by a start that meets a page fault on its rank list. -/
def State.collStart (s : State) (m : Member) (here : Option Nat) : StartRes :=
  if !m.block.isEmpty then s.collBlock m here
  else
    match s.memRead m m.addr.toNat 128 with
    | (.wait, _) => .wait none
    | (.page va acc why, s) => .page s va acc why none
    | (.stop code, s) => .failed s code none
    | (.ok x, s) => s.collBlock { m with block := (List.range 16).map (fun i => word (x / 2 ^ (64 * i))) } here

/-- A start that has to wait keeps the block it has read (R370). -/
def State.keepBlock (s : State) (id : Nat) (m : Option Member) : State :=
  match m with
  | none => s
  | some m => s.updMember id (fun x => { x with block := m.block })

/-- COLL (R373): the member's start is handed to the FES. -/
def execColl (gu : Guard) (la : BitVec 4) (d a : Reg) (s : State) : Out :=
  s.runs { len := xlen, on := s.guard gu, rs := [a.toNat], ws := [d.toNat], long := true } (fun s =>
    let ga := s.src a
    if ga.toNat % 128 ≠ 0 then .trap s tALIGN ga
    else if !inGlobal ga then .trap s tAPERTURE ga
    else if s.unreleased then .stall
    else
      let h := s.myHall
      let (pend, s) := s.pendG d la 1 .other
      let (id, s) := s.fresh
      let m : Member := { id := id, asid := h.asid, secure := h.secure, hall := h.id, tile := tileOf s.cur, addr := ga, core := s.cur,
                          lv := s.lv, pend := pend }
      .done { s with fes := { s.fes with members := s.fes.members ++ [m] } })

/-- A start of a COLL ends: gd receives its status, and a failed member is forgotten. -/
def State.collAnswer (s : State) (m : Member) (inst code : Nat) : State :=
  let s := if code = 0 then s else { s with fes := { s.fes with members := s.fes.members.filter (fun x => x.id != m.id) } }
  s.deliver m.core m.pend (word (inst * 2 ^ 48 + code))

/-- The FES starts the member of a COLL (R373). -/
def State.runStart (s : State) (m : Member) : State :=
  if m.pageAborts.contains .sched then s.collAnswer m 0 kPAGE
  else
    match s.collStart m (some m.tile) with
    | .started t n => t.collAnswer m n 0
    | .failed t code _ => t.collAnswer m 0 code
    | .page t va acc why x => ((t.memPage m .sched va acc why).map (fun t => t.keepBlock m.id x)).getD (t.collAnswer m 0 kPAGE)
    | .wait x => s.keepBlock m.id x

/-- A failed start of an entry: FAULT where the FES could not read block or list, the failure code in DONE where DONE
passed, and the entry completes (R374, R434). -/
def State.entryFailed (s : State) (e : Entry) (code : Nat) (m : Option Member) : Option State :=
  let s := if code = kPAGE then s.setFault e.ch 1 else if code = kPOISON then s.setFault e.ch 2 else if code = kREFUSED then s.setFault e.ch 3 else s
  match m with
  | none => some (s.endEntry e.ch e.idx)
  | some m =>
    if (m.b 7).toNat % 8 ≠ 0 then some (s.endEntry e.ch e.idx)
    else
      match s.fesStore m.secure m.asid (m.b 7) (word (m.rank * 2 ^ 32 + code)) with
      | (.wait, _) => none
      | (.ok _, s) => some ((s.msix e.ch).endEntry e.ch e.idx)
      | (.fail 2, s) => some (((s.setFault e.ch 2).msix e.ch).endEntry e.ch e.idx)
      | (.fail f, s) => some ((s.setFault e.ch f).endEntry e.ch e.idx)

/-- COLL_ENTRY_START (R374, R434). -/
def execCollEntryStart (ch : Nat) (s : State) : Out :=
  .next (s.startEntry ch 1 (fun e =>
    let (id, t) := s.fresh
    let m : Member := { id := id, asid := e.asid, secure := (s.chan ch).wld, addr := e.w 1, entry := some (ch, e.idx), block := e.block }
    match t.collStart m none with
    | .started t _ => (t.updEntry ch e.idx (fun e => { e with st := .running })).advanceHead ch
    | .failed t code x => ((t.entryFailed e code x).map (fun t => t.advanceHead ch)).getD s
    | .page t _ _ _ x => ((t.entryFailed e kPAGE x).map (fun t => t.advanceHead ch)).getD s
    | .wait x =>
      match x with
      | none => s
      | some x => s.updEntry ch e.idx (fun e => { e with block := x.block })))

/-- RLINV (R392). -/
def execRlinv (gu : Guard) (d a : Reg) (s : State) : Out :=
  s.runs { len := xlen, on := s.guard gu, rs := [a.toNat], ws := [d.toNat], blocking := true } (fun s =>
    let v := s.src a
    let mine := fun (e : Nat × Word × Nat × List Word × Nat) => e.1 == s.myHall.asid && (v == 0 || e.2.1 == v)
    let n := (s.fes.rlists.filter mine).length
    .done (({ s with fes := { s.fes with rlists := s.fes.rlists.filter (fun e => !mine e) } } : State).dst d (word n)))

/-! ## The gates (R375, R386) -/

/-- The children of a rank in the rank tree (R375). -/
def Member.kids (m : Member) : List Nat :=
  (List.range 16).filterMap (fun j =>
    if m.rank % 2 ^ (j + 1) = 0 ∧ m.rank + 2 ^ j < m.nrank then some (m.rank + 2 ^ j) else none)

/-- The lowest set bit of a number below 2^16. -/
def lowBit (r : Nat) : Nat := 2 ^ (((List.range 16).find? (fun j => r / 2 ^ j % 2 == 1)).getD 0)

/-- The parent of a rank above 0. -/
def Member.parent (m : Member) : Nat := m.rank - lowBit m.rank

/-- Is the way from a member to a rank dead (R388)? -/
def State.deadTo (s : State) (m : Member) (r : Nat) : Bool :=
  match s.sendPkt m r 0 0 0 [] none with
  | .dead => true
  | _ => false

/-- Send one operation to some ranks; where a way is dead the member aborts with DEADLINK, and sends it to none. -/
def State.sendAll (s : State) (m : Member) (op : Nat) (payload : List Byte) (rs : List Nat) : State :=
  if rs.any (s.deadTo m) then s.memAbort m.id kDEADLINK else rs.foldl (fun s r => s.trySend m r op payload) s

/-- A member is past the closing gate, unless sending CDN on has aborted it: it copies its staging and ends (R386). -/
def State.closeDown (s : State) (id : Nat) : State :=
  match s.member? id with
  | none => s
  | some m => if m.abort.isSome then s else (s.updMember id (fun m => { m with st := .closed })).finishAll id

/-- The opening gate (R375, R394): once its schedule is decoded and every child has opened, a member sends OPEN, and
rank 0 sends GO and runs. -/
def State.openGate (s : State) (id : Nat) : State :=
  match s.member? id with
  | none => s
  | some m =>
    if m.st ≠ .opening ∨ !m.decoded ∨ m.sentOpen ∨ !m.kids.all (fun r => m.opens.contains r) then s
    else if m.rank = 0 then (s.updMember id (fun m => { m with sentOpen := true, st := .running })).sendAll m 4 [] m.kids
    else (s.updMember id (fun m => { m with sentOpen := true })).sendAll m 3 [0#8] [m.parent]

/-- The closing gate (R386): past KEND, with CUP from every child and an empty inbox, a member sends CUP, and rank 0
sends CDN and ends. -/
def State.closeGate (s : State) (id : Nat) : State :=
  match s.member? id with
  | none => s
  | some m =>
    if m.st ≠ .closing ∨ m.sentCup ∨ !m.kids.all (fun r => m.cups.contains r) then s
    else if !m.inbox.isEmpty then s.memAbort id kMISMATCH
    else if m.rank = 0 then
      ((s.updMember id (fun m => { m with sentCup := true })).sendAll m 6 [] m.kids).closeDown id
    else (s.updMember id (fun m => { m with sentCup := true })).sendAll m 5 [] [m.parent]

/-- SCHEDULE_DECODE (R65, R375): the FES reads the next 64 bytes of a started member's schedule; with its first KEND
the schedule is complete, and is decoded. DESIGN CHOICE (log entry 38). -/
def execScheduleDecode (id : Nat) (s : State) : Out :=
  .next (match s.member? id with
    | none => s
    | some m =>
      if m.st ≠ .opening ∨ m.decoded then s
      else
        match s.memHeld m with
        | some t => t
        | none =>
          match s.memRead m (((m.b 0).toNat + 8 * m.sched.length) % 2 ^ 64) 64 with
          | (.ok x, t) =>
            let ws := m.sched ++ (List.range 8).map (fun i => word (x / 2 ^ (64 * i)))
            let isEnd := fun (w : Word) => fld w 60 4 == 7
            if ws.any isEnd then
              let prog := ws.takeWhile (fun w => !isEnd w) ++ (ws.find? isEnd).toList
              if (List.range prog.length).all (fun i => (decodeChunk i (prog.getD i 0)).isSome) then
                (t.updMember id (fun m => { m with sched := prog, decoded := true })).openGate id
              else t.memAbort id kBADSCHED
            else if 4096 ≤ ws.length then t.memAbort id kBADSCHED
            else t.updMember id (fun m => { m with sched := ws })
          | (r, t) => s.memFail m r t)

/-! ## Values (R381 to R383) -/

/-- An element moved from a format to another, with the flags of the conversion (R378, R382, R383). -/
def Member.convert (m : Member) (f g x : Nat) : Nat × FFlags :=
  if f = g then (x, {})
  else if 16 ≤ g then (xaccAdd (g == 17) 0 (decF (fmtOf f) x), {})
  else if 16 ≤ f then xaccRound (f == 17) x g m.rm false
  else cvtLane f g 0 false 0 x

/-- An element written into buffer 2 (R383): a rounding to TY, also of an element that is in TY already; in EXACT by way of a
slot, which is then rounded out. -/
def Member.toStaging (m : Member) (f x : Nat) : Nat × FFlags :=
  if !m.exact then cvtLane f m.ty 0 false 0 x
  else
    let x64 := m.fmt 1 == 17
    xaccRound x64 (if 16 ≤ f then x else xaccAdd x64 0 (decF (fmtOf f) x)) m.ty m.rm false

/-- node(l, r) on elements in formats `f` and `g`, carried in the scratch format (R381). -/
def Member.node (m : Member) (f x g y : Nat) : Nat × FFlags :=
  let c := m.fmt 1
  if isInt m.ty then
    if m.op = 1 then (putI m.ty false (intVal m.ty x + intVal m.ty y), {}) else minMaxLane m.ty (m.op == 3) x y
  else if m.op = 1 then
    let (v, h) := addV 0 (decF (fmtOf f) x) (decF (fmtOf g) y)
    let (r, k) := roundF (fmtOf c) 0 false v
    (r, h.or k)
  else
    let (a, h) := m.convert f c x
    let (b, k) := m.convert g c y
    let (r, l) := minMaxLane c (m.op == 3) a b
    (r, (FFlags.or { nv := h.nv } { nv := k.nv }).or l)

/-- A chunk's values with their format and span. -/
structure ChunkVal where
  fmt : Nat := 0
  vals : List Nat := []
  span : ChunkEnt := {}
  deriving DecidableEq, Repr

/-- Is a span canonical at a level (R381)? -/
def canonical (n lo hi l : Nat) : Bool := lo % 2 ^ l == 0 && hi == min (lo + 2 ^ l) n

/-- Combine element lists. -/
def Member.nodes (m : Member) (f g : Nat) : List Nat → List Nat → List Nat × FFlags
  | x :: xs, y :: ys =>
    let (r, h) := m.node f x g y
    let (l, k) := m.nodes f g xs ys
    (r :: l, h.or k)
  | _, _ => ([], {})

/-- combine(BA, incoming): none where R381 gives BADTREE (R381, R382). -/
def Member.combine (m : Member) (a b : ChunkVal) : Option (ChunkVal × FFlags) :=
  let c := m.fmt 1
  if m.exact then
    let slots := fun (v : ChunkVal) => v.vals.map (fun x => (m.convert v.fmt c x).1)
    some ({ fmt := c, vals := (List.zip (slots a) (slots b)).map (fun e => xaccMerge (c == 17) e.1 e.2),
            span := { lo := a.span.lo + b.span.lo, hi := 0 } }, {})
  else
    let (a, b) := if b.span.hi = a.span.lo then (b, a) else (a, b)
    let ok := a.span.hi == b.span.lo && (List.range 17).any (fun l =>
      canonical m.nrank a.span.lo a.span.hi l && canonical m.nrank b.span.lo b.span.hi l && canonical m.nrank a.span.lo b.span.hi (l + 1))
    if !ok then none
    else
      let (vs, f) := m.nodes a.fmt b.fmt a.vals b.vals
      some ({ fmt := c, vals := vs, span := { lo := a.span.lo, hi := b.span.hi } }, f)

/-- The span of a chunk of a buffer, none while it is unwritten (R369, R382). -/
def Member.span? (m : Member) (buf c : Nat) : Option ChunkEnt :=
  if buf = 0 then some (if m.exact then { lo := 1, hi := 0 } else { lo := m.rank, hi := m.rank + 1 })
  else (m.chunks.find? (fun e => e.1 == buf * 4096 + c)).map (fun e => e.2)

/-- The span a chunk written into buffer 2 must have (R383). -/
def Member.fullSpan (m : Member) : ChunkEnt := if m.exact then { lo := m.nrank, hi := 0 } else { lo := 0, hi := m.nrank }

/-- Elements of `w` bytes from a number. -/
def splitVals (w n x : Nat) : List Nat := (List.range n).map (fun i => x / 2 ^ (8 * w * i) % 2 ^ (8 * w))
/-- The number that elements of `w` bytes form. -/
def joinVals (w : Nat) (l : List Nat) : Nat := l.foldr (fun x acc => x % 2 ^ (8 * w) + 2 ^ (8 * w) * acc) 0

/-- Read a chunk of a buffer: BADTREE while it is unwritten (R378). -/
def State.getChunk (s : State) (m : Member) (buf c : Nat) : ColRes × ChunkVal × State :=
  match m.span? buf c with
  | none => (.stop kBADTREE, {}, s)
  | some sp =>
    let w := fmtBytes (m.fmt buf)
    match s.memRead m (m.chunkAt buf c) (m.elems c * w) with
    | (.ok x, s) => (.ok 0, { fmt := m.fmt buf, vals := splitVals w (m.elems c) x, span := sp }, s)
    | (e, s) => (e, {}, s)

/-- What values come to as a chunk of a buffer, converted to its format, with the flags that the member ORs; none where R383
gives BADTREE (R378, R383). -/
def Member.chunkOut (m : Member) (buf c : Nat) (v : ChunkVal) : Option (ColOut × FFlags) :=
  if buf = 2 ∧ m.op ≠ 0 ∧ v.span ≠ m.fullSpan then none
  else
    let g := m.fmt buf
    let rs := v.vals.map (fun x => if buf = 2 then m.toStaging v.fmt x else m.convert v.fmt g x)
    let f := if buf = 2 then FFlags.orAll (rs.map (fun r => r.2)) else {}
    some ({ va := m.chunkAt buf c, n := m.elems c * fmtBytes g, x := joinVals (fmtBytes g) (rs.map (fun r => r.1)), span := v.span }, f)

/-! ## The inbox (R377, R379) -/

/-- Source rank of a packet. -/
def Pkt.rank (p : Pkt) : Nat := fld (p.hdr.getD 2 0) 32 16
/-- INST of a packet. -/
def Pkt.inst (p : Pkt) : Nat := fld (p.hdr.getD 2 0) 48 16
/-- TAG of a packet. -/
def Pkt.tag (p : Pkt) : Nat := fld (p.hdr.getD 5 0) 45 7
/-- The signature of a packet. -/
def Pkt.sig (p : Pkt) : Word × Word := (p.hdr.getD 3 0, p.hdr.getD 4 0)

/-- Payload bytes of a packet that is not the last of its chunk (R378, R384). -/
def pktBytes : Nat := 4096

/-- Packets of a chunk of `n` bytes. -/
def pktCount (n : Nat) : Nat := (n + pktBytes - 1) / pktBytes

/-- "Part of the chunk" in the header of packet `i` of a chunk of `n` bytes (R384). The header names no format: the parts of a
chunk in the format TY are numbered upwards, those of one in a wider carry format downwards, so that the first packet tells
which it is. DESIGN CHOICE (log entry 38). -/
def partNo (raw : Bool) (n i : Nat) : Nat := if raw then i else pktCount n - 1 - i

/-- The format in which a chunk of `n` elements travels whose first packet this is. -/
def Member.fmtOfPkt (m : Member) (n : Nat) (p : Pkt) : Nat :=
  if m.fmt 1 = m.ty ∨ (fld (p.hdr.getD 5 0) 32 8 = 0 ∧ p.payload.length = min (n * fmtBytes m.ty) pktBytes) then m.ty else m.fmt 1

/-- Take packets from an inbox until they hold `n` bytes: what is taken, and what is left. -/
def takeParts (mine : Pkt → Bool) (n : Nat) : List Pkt → List Pkt × List Pkt
  | [] => ([], [])
  | p :: ps =>
    if n = 0 then ([], p :: ps)
    else if mine p then let (a, b) := takeParts mine (n - p.payload.length) ps; (p :: a, b)
    else let (a, b) := takeParts mine n ps; (a, p :: b)

/-- A data instruction takes the packets of chunk `c` as they arrive in its queue, which makes room in the inbox: those it then
holds, and the inbox left (R377, R379). -/
def Member.gather (m : Member) (r : RunData) (c : Nat) : List Pkt × List Pkt :=
  let mine := fun (p : Pkt) => p.rank == r.peer && p.tag == r.c.tag.toNat
  match (r.parts ++ m.inbox.filter mine).head? with
  | none => ([], m.inbox)
  | some p =>
    let n := m.elems c
    let held := (r.parts.map (fun q => q.payload.length)).foldl (fun a b => a + b) 0
    let (ps, rest) := takeParts mine (n * fmtBytes (m.fmtOfPkt n p) - held) m.inbox
    (r.parts ++ ps, rest)

/-- What the packets held of a chunk come to. -/
inductive Incoming where
  | none | mismatch
  | some (v : ChunkVal)
  deriving Repr

/-- The chunk that the packets held form, for chunk `c` of buffer `buf` (R379). -/
def Member.incoming (m : Member) (ps : List Pkt) (c buf : Nat) : Incoming :=
  match ps.head? with
  | .none => .none
  | .some p =>
    let bad := fun (q : Pkt) => fld (q.hdr.getD 5 0) 52 12 != c || fld (q.hdr.getD 5 0) 43 2 != buf || q.sig != m.sig
    if ps.any bad then .mismatch
    else
      let n := m.elems c
      let f := m.fmtOfPkt n p
      let bs := ps.flatMap (fun q => q.payload)
      if bs.length < n * fmtBytes f then .none
      else
        let w := p.hdr.getD 5 0
        .some { fmt := f, vals := splitVals (fmtBytes f) n (ofBytes bs), span := { lo := fld w 16 16, hi := fld w 0 16 } }

/-- Packets an inbox holds (R377). -/
def inboxCap : Nat := 256

/-! ## Chunk instructions (R376 to R380) -/

/-- The peer a chunk instruction names (R376). -/
def Member.peerOf (m : Member) (peer : BitVec 16) (prel : Bool) : Nat :=
  if prel then (((m.rank : Int) + peer.toInt) % (m.nrank : Int)).toNat else peer.toNat

/-- DISP of a KLOOP word. -/
def loopDisp (w : Word) : Int := sintN (fld w 0 16) 16

/-- The index of the first KLOOP after `pc` whose body reaches back to it (R376). -/
def Member.loopOf (m : Member) (pc : Nat) : Option Nat :=
  (List.range m.sched.length).find? (fun k => decide (pc < k) &&
    (let w := m.sched.getD k 0
     fld w 60 4 == 6 && decide ((k : Int) + loopDisp w ≤ (pc : Int))))

/-- CIDX′ (R376). -/
def Member.cidx (m : Member) (c : ChunkData) : Nat :=
  let i : Nat := match m.loopOf m.pc with
    | some k => m.iters.get 0 k
    | none => 0
  (((c.cidx.toNat : Int) + (i : Int) * c.cstep.toInt) % (m.nch : Int)).toNat

/-- A member runs an instruction of its schedule: unless it is held, what `go` does. -/
def State.chunkStep (s : State) (id : Nat) (go : Member → State) : Out :=
  .next (match s.member? id with
    | none => s
    | some m =>
      if m.st ≠ .running then s
      else
        match s.memHeld m with
        | some t => t
        | none => go m)

/-- A data instruction issues, or aborts the collective with BADSCHED (R376 to R378). DEDUCED (log entry 42). -/
def execData (kop id : Nat) (c : ChunkData) (s : State) : Out :=
  s.chunkStep id (fun m =>
    let peer := m.peerOf c.peer c.prel
    if m.nrank ≤ peer ∨ m.nch < c.clen.toNat ∨ c.bb = 0 ∨ (kop = 1 ∧ c.ba ≠ 0) ∨ (kop = 2 ∧ m.op = 0) ∨ (kop = 3 ∧ (c.peer ≠ 0 ∨ c.prel)) then
      s.memAbort id kBADSCHED
    else
      let r : RunData := { id := s.ctr, kop := kop, c := c, peer := peer, first := m.cidx c }
      ({ s with ctr := s.ctr + 1 } : State).updMember id (fun m => { m with run := m.run ++ [r], pc := m.pc + 1 }))

/-- KSEND (R378). -/
def execKsend (m : Nat) (c : ChunkData) (s : State) : Out := execData 0 m c s
/-- KRECV (R378). -/
def execKrecv (m : Nat) (c : ChunkData) (s : State) : Out := execData 1 m c s
/-- KRED (R378). -/
def execKred (m : Nat) (c : ChunkData) (s : State) : Out := execData 2 m c s
/-- KCOPY (R378). -/
def execKcopy (m : Nat) (c : ChunkData) (s : State) : Out := execData 3 m c s

/-- KWAIT (R380). -/
def execKwait (id : Nat) (tag : BitVec 7) (all : Bool) (s : State) : Out :=
  s.chunkStep id (fun m =>
    if m.run.any (fun r => all || r.c.tag == tag) then s else s.updMember id (fun m => { m with pc := m.pc + 1 }))

/-- KSIG (R380): it issues, and sends once the earlier data instructions of its tag have completed. -/
def execKsig (id : Nat) (peer : BitVec 16) (prel : Bool) (tag : BitVec 7) (val : BitVec 32) (s : State) : Out :=
  s.chunkStep id (fun m =>
    let p := m.peerOf peer prel
    if m.nrank ≤ p then s.memAbort id kBADSCHED
    else
      let c : ChunkData := { (default : ChunkData) with tag := tag, clen := 1 }
      let r : RunData := { id := s.ctr, kop := 5, c := c, peer := p, sigVal := val }
      ({ s with ctr := s.ctr + 1 } : State).updMember id (fun m => { m with run := m.run ++ [r], pc := m.pc + 1 }))

/-- KLOOP (R380). -/
def execKloop (id : Nat) (count disp : BitVec 16) (s : State) : Out :=
  s.chunkStep id (fun m =>
    let i := m.iters.get 0 m.pc
    if i + 1 < count.toNat then
      s.updMember id (fun m => { m with iters := m.iters.put m.pc (i + 1), pc := ((m.pc : Int) + disp.toInt).toNat })
    else s.updMember id (fun m => { m with iters := m.iters.put m.pc 0, pc := m.pc + 1 }))

/-- KEND (R380, R386): once every earlier instruction has completed, the member enters the closing gate. -/
def execKend (id : Nat) (s : State) : Out :=
  s.chunkStep id (fun m => if m.run.isEmpty then (s.updMember id (fun m => { m with st := .closing })).closeGate id else s)

/-- The chunks that an issued instruction names in a buffer, and whether it writes them; queues of packets count too
(R377, R379). -/
def RunData.chunksOf (nch : Nat) (r : RunData) : List Nat := (List.range r.c.clen.toNat).map (fun i => (r.first + i) % nch)
/-- Does it read a buffer? -/
def RunData.reads (r : RunData) (buf : Nat) : Bool := r.kop != 1 && r.kop != 5 && r.c.ba.toNat == buf
/-- Does it write a buffer? -/
def RunData.writes (r : RunData) (buf : Nat) : Bool := (r.kop == 1 || r.kop == 2 || r.kop == 3) && r.c.bb.toNat == buf

/-- An issued instruction must wait for an earlier one: they conflict, or share a queue of packets, or a KSIG waits for
data of its tag (R377, R379, R380). -/
def RunData.after (nch : Nat) (r q : RunData) : Bool :=
  if r.kop = 5 then q.c.tag == r.c.tag
  else
    let shared := (r.chunksOf nch).any (fun c => (q.chunksOf nch).contains c)
    (q.kop != 5 && shared && (List.range 3).any (fun b => (r.writes b && (q.reads b || q.writes b)) || (q.writes b && r.reads b))) ||
      (r.kop == 0 && q.kop == 0 && r.peer == q.peer && r.c.tag == q.c.tag) ||
      ((r.kop == 1 || r.kop == 2) && (q.kop == 1 || q.kop == 2) && r.peer == q.peer && r.c.tag == q.c.tag)

/-- Change an issued instruction of a member. -/
def State.updRun (s : State) (id k : Nat) (f : RunData → RunData) : State :=
  s.updMember id (fun m => { m with run := updFirst (fun r => r.id == k) f m.run })

/-- A chunk of an issued instruction is done. -/
def State.chunkDone (s : State) (id k : Nat) : State :=
  s.updRun id k (fun r => { r with done := r.done + 1, parts := [], out := none })

/-- An issued instruction has ended; the last of an aborting member's lets it end (R388). -/
def State.endRun (s : State) (id k : Nat) : State :=
  (s.updMember id (fun m => { m with run := m.run.filter (fun q => q.id != k) })).finishAll id

/-- An issued instruction cannot go on: its member aborts; one that is aborting forgets it. -/
def State.runStops (s : State) (m : Member) (k code : Nat) : State :=
  if m.st = .aborting then s.endRun m.id k else s.memAbort m.id code

/-- A read of an issued instruction that did not succeed: `s0` is the state before it. -/
def State.runFail (s0 : State) (m : Member) (k : Nat) (r : ColRes) (s : State) : State :=
  match r with
  | .ok _ => s0
  | .wait => s0
  | .stop code => s.runStops m k code
  | .page va acc why => (s.memPage m (.run k) va acc why).getD (s.runStops m k kPAGE)

/-- Send the packets of a chunk of `n` bytes, from packet `i` on; none where a way is dead. -/
def State.sendParts (s : State) (m : Member) (r : RunData) (w40 : Word) (raw : Bool) (n : Nat) : Nat → List Byte → Nat → Option State
  | 0, _, _ => some s
  | k + 1, bs, i =>
    if bs.isEmpty then some s
    else
      let w := w40 ||| word (partNo raw n i % 256 * 2 ^ 32)
      match s.sendPkt m r.peer 1 w (i * pktBytes) (bs.take pktBytes) (some (m.id, r.id)) with
      | .dead => none
      | .here s => (s.updRun m.id r.id (fun r => { r with unacked := r.unacked + 1 })).sendParts m r w40 raw n k (bs.drop pktBytes) (i + 1)
      | .gone s => (s.updRun m.id r.id (fun r => { r with far := true })).sendParts m r w40 raw n k (bs.drop pktBytes) (i + 1)

/-- KSEND sends chunk `c` (R378, R384). -/
def State.runSend (s : State) (m : Member) (r : RunData) (c : Nat) : State :=
  match s.getChunk m r.c.ba.toNat c with
  | (.ok _, v, t) =>
    let w := fmtBytes v.fmt
    let bs := bytesOf (w * v.vals.length) (joinVals w v.vals)
    let w40 := word (c * 2 ^ 52 + r.c.tag.toNat * 2 ^ 45 + r.c.bb.toNat * 2 ^ 43 + v.span.lo * 2 ^ 16 + v.span.hi)
    match t.sendParts m r w40 (v.fmt == m.ty) bs.length (pktCount bs.length) bs 0 with
    | none => s.runStops m r.id kDEADLINK
    | some t => t.chunkDone m.id r.id
  | (e, _, t) => s.runFail m r.id e t

/-- The chunk an issued instruction is at (R376). -/
def RunData.at_ (r : RunData) (nch : Nat) : Nat := (r.first + r.done) % nch

/-- The write that ends a chunk of KRECV, KRED or KCOPY goes on with what it has still to write: an access that met a page
fault retries its walk, and those before it stand (R413, R416). -/
def State.runWrite (s : State) (m : Member) (r : RunData) (o : ColOut) : State :=
  match s.memWrite m o with
  | (.ok _, _, t) =>
    (t.updMember m.id (fun m => { m with chunks := m.chunks.put (r.c.bb.toNat * 4096 + r.at_ m.nch) o.span })).chunkDone m.id r.id
  | (.stop code, _, t) => t.runStops m r.id code
  | (.wait, o, t) => t.updRun m.id r.id (fun r => { r with out := some o })
  | (.page va acc why, o, t) =>
    let t := t.updRun m.id r.id (fun r => { r with out := some o })
    (t.memPage m (.run r.id) va acc why).getD (t.runStops m r.id kPAGE)

/-- KRECV, KRED or KCOPY has the values of its chunk, and begins to write them (R378). -/
def State.runPut (s : State) (m : Member) (r : RunData) (v : ChunkVal) (f : FFlags) (rest : List Pkt) : State :=
  match m.chunkOut r.c.bb.toNat (r.at_ m.nch) v with
  | none => s.runStops m r.id kBADTREE
  | some (o, g) => (s.updMember m.id (fun m => { m with inbox := rest, flags := (m.flags.or f).or g })).runWrite m r o

/-- KSIG sends its value once (R380). -/
def State.runSig (s : State) (m : Member) (r : RunData) : State :=
  match s.sendPkt m r.peer 7 0 0 (bytesOf 4 r.sigVal.toNat) (some (m.id, r.id)) with
  | .dead => s.runStops m r.id kDEADLINK
  | .here s => (s.updRun m.id r.id (fun r => { r with unacked := 1 })).chunkDone m.id r.id
  | .gone s => (s.updRun m.id r.id (fun r => { r with far := true })).chunkDone m.id r.id

/-- A receiving instruction of a member goes on with what has come in: `go` takes a chunk that is whole. -/
def State.runTake (s : State) (m : Member) (r : RunData) (c : Nat) (go : ChunkVal → List Pkt → State) : State :=
  let (ps, rest) := m.gather r c
  match m.incoming ps c r.c.bb.toNat with
  | .none =>
    if m.st = .aborting then s.endRun m.id r.id
    else (s.updMember m.id (fun m => { m with inbox := rest })).updRun m.id r.id (fun r => { r with parts := ps })
  | .mismatch => s.runStops m r.id kMISMATCH
  | .some v => go v rest

/-- What keeps a member's issued instruction `k` from going on, as memHeld; an aborting member has met its abort, and an ABORT
reply to an access of the instruction ends it. -/
def State.runHeld (s : State) (m : Member) (k : Nat) : Option State :=
  if m.st ≠ .aborting then s.memHeld m
  else if m.pageAborts.contains (.run k) then some (s.endRun m.id k)
  else none

/-- CHUNK_COMPLETE (R377, R378): an issued instruction that nothing holds does its next chunk; with every chunk done
and every packet accepted, it completes. DESIGN CHOICE (log entry 38). -/
def execChunkComplete (id k : Nat) (s : State) : Out :=
  .next (match s.member? id with
    | none => s
    | some m =>
      match m.run.find? (fun r => r.id == k) with
      | none => s
      | some r =>
        match s.runHeld m k with
        | some t => t
        | none =>
          if (m.run.takeWhile (fun q => q.id != k)).any (fun q => r.after m.nch q) then s
          else if r.c.clen.toNat ≤ r.done then
            if r.unacked = 0 ∧ (!r.far ∨ Config.peerTook s.stepNo) then s.endRun id k else s
          else if r.kop = 5 then s.runSig m r
          else
            let c := r.at_ m.nch
            match r.out with
            | some o => s.runWrite m r o
            | none =>
              if r.kop = 0 then s.runSend m r c
              else if r.kop = 3 then
                match s.getChunk m r.c.ba.toNat c with
                | (.ok _, v, t) => t.runPut m r v {} m.inbox
                | (e, _, t) => s.runFail m k e t
              else if r.kop = 1 then s.runTake m r c (fun v rest => s.runPut m r v {} rest)
              else
                match s.getChunk m r.c.ba.toNat c with
                | (.ok _, own, t) =>
                  s.runTake m r c (fun v rest =>
                    match m.combine own v with
                    | none => s.runStops m k kBADTREE
                    | some (x, f) => t.runPut m r x f rest)
                | (e, _, t) => s.runFail m k e t)

/-! ## Packets arriving (R379, R384 to R388) -/

/-- NFL of a packet: the flights left. -/
def Pkt.nfl (p : Pkt) : Nat := fld (p.hdr.getD 0 0) 60 4
/-- Operations of a packet. -/
def Pkt.nops (p : Pkt) : Nat := fld (p.hdr.getD 2 0) 28 4
/-- Operation `j`. -/
def Pkt.opAt (p : Pkt) (j : Nat) : Nat := fld (p.hdr.getD 2 0) (12 + 4 * j) 4
/-- Is every operation of a packet known? -/
def Pkt.opsOk (p : Pkt) : Bool :=
  decide (1 ≤ p.nops) && decide (p.nops ≤ 4) && (List.range p.nops).all (fun j => decide (1 ≤ p.opAt j) && decide (p.opAt j ≤ 7))

/-- Is a packet at its package, for a member there (R385)? -/
def Pkt.arrived (p : Pkt) : Bool := p.nfl == 0 && p.outPort.isNone

/-- Packets from one member to another keep their order (R385). -/
def Pkt.sameWay (p q : Pkt) : Bool := q.arrived && p.hdr.getD 1 0 == q.hdr.getD 1 0 && p.sig.1 == q.sig.1 && p.rank == q.rank && p.inst == q.inst

/-- The way from where a packet is to the tile of its member. -/
def State.pktWay (s : State) (p : Pkt) (t : Nat) : Way :=
  match p.port with
  | some q => s.way (portDie q) (bit (Config.portRow q)) (dieOf t)
  | none => s.wayToTile p.src t

/-- A data packet of this package for which the inbox of its member has no room, nor will have with the earlier data packets in
it: its KSEND holds it back for want of credit (R377). -/
def State.uncredited (s : State) (m : Member) (q : Pkt) : Bool :=
  let mine := fun (k : Pkt) => k.arrived && k.opAt k.ops == 1 && k.hdr.getD 1 0 == q.hdr.getD 1 0 && k.sig == q.sig && k.inst == q.inst
  q.port.isNone && q.opAt q.ops == 1 &&
    decide (inboxCap ≤ m.inbox.length + ((s.fes.pkts.takeWhile (fun k => k.id != q.id)).filter mine).length)

/-- A packet for a member is behind an earlier one on its way (R385). ABT is not behind data that a KSEND holds back, which have
not been sent. -/
def State.behind (s : State) (m : Option Member) (p : Pkt) : Bool :=
  (s.fes.pkts.takeWhile (fun q => q.id != p.id)).any (fun q => p.sameWay q && !(p.opAt p.ops == 2 && m.any (fun m => s.uncredited m q)))

/-- Forget a packet. -/
def State.dropPkt (s : State) (id : Nat) : State := { s with fes := { s.fes with pkts := dropFirst (fun p => p.id == id) s.fes.pkts } }

/-- One operation of a packet has been performed. -/
def State.pktDone (s : State) (p : Pkt) : State :=
  if p.nops ≤ p.ops + 1 then s.dropPkt p.id
  else { s with fes := { s.fes with pkts := updFirst (fun q => q.id == p.id) (fun q => { q with ops := q.ops + 1 }) s.fes.pkts } }

/-- A packet of a data instruction has been accepted (R377). -/
def State.ackPkt (s : State) (p : Pkt) : State :=
  match p.sender with
  | none => s
  | some (id, k) => s.updRun id k (fun r => { r with unacked := r.unacked - 1 })

/-- The next operation of a packet, if it is `op`, is performed for its member by `f`; while it has to wait `f` answers none and the state to go on from. A
packet whose instance has not started is held, one of an earlier instance is dropped (R379, R385). -/
def State.withPkt (s : State) (id op : Nat) (f : Pkt → Member → State → Option State × State) : Out :=
  .next (match s.fes.pkts.find? (fun p => p.id == id) with
    | none => s
    | some p =>
      let sid := p.sig.1 >>> 32
      let addr := p.hdr.getD 1 0
      let run := s.memberAt sid addr
      if !p.arrived ∨ p.opAt p.ops ≠ op ∨ s.behind run p then s
      else
        let cur := match run with
          | some m => m.inst
          | none => s.starts sid addr % 2 ^ 16
        let d := (cur + 2 ^ 16 - p.inst) % 2 ^ 16
        match run with
        | none => if 0 < d ∧ d < 2 ^ 15 then (s.dropPkt id).ackPkt p else s
        | some m =>
          if 2 ^ 15 ≤ d then s
          else if d ≠ 0 then (s.dropPkt id).ackPkt p
          else
            match s.pktWay p m.tile with
            | .wait => s
            | .dead => ((s.dropPkt id).ackPkt p).memAbort m.id kDEADLINK
            | .clear =>
              match f p m s with
              | (some t, _) => t.pktDone p
              | (none, t) => t)

/-- DLV (R377, R379): a data packet is accepted into the member's inbox. -/
def execDlv (pkt : Nat) (s : State) : Out :=
  s.withPkt pkt 1 (fun p m s =>
    if m.st = .closed ∨ m.st = .aborting then (some (s.ackPkt p), s)
    else if inboxCap ≤ m.inbox.length then (none, s)
    else (some ((s.updMember m.id (fun m => { m with inbox := m.inbox ++ [p] })).ackPkt p), s))

/-- OPEN (R375, R394): a child's signature is compared with the member's own. -/
def execOpen (pkt : Nat) (s : State) : Out :=
  s.withPkt pkt 3 (fun p m s =>
    if m.st ≠ .opening then (some s, s)
    else if p.sig ≠ m.sig then (some (s.memAbort m.id kMISMATCH), s)
    else if p.payload.getD 0 0 ≠ 0 then (some (s.memAbort m.id kBADSCHED), s)
    else (some ((s.updMember m.id (fun m => { m with opens := p.rank :: m.opens })).openGate m.id), s))

/-- GO (R375): the member forwards it and runs its schedule. -/
def execGo (pkt : Nat) (s : State) : Out :=
  s.withPkt pkt 4 (fun _ m s =>
    if m.st ≠ .opening ∨ !m.sentOpen then (some s, s)
    else (some ((s.updMember m.id (fun m => { m with st := .running })).sendAll m 4 [] m.kids), s))

/-- CUP (R386). -/
def execCup (pkt : Nat) (s : State) : Out :=
  s.withPkt pkt 5 (fun p m s => (some ((s.updMember m.id (fun m => { m with cups := p.rank :: m.cups })).closeGate m.id), s))

/-- CDN (R386): the member forwards it, copies staging to DST and writes its completion word. -/
def execCdn (pkt : Nat) (s : State) : Out :=
  s.withPkt pkt 6 (fun _ m s =>
    if m.st ≠ .closing ∨ !m.sentCup then (some s, s)
    else (some ((s.sendAll m 6 [] m.kids).closeDown m.id), s))

/-- ABT (R388): the code is the payload's first byte, the origin the packet's source rank. -/
def execAbt (pkt : Nat) (s : State) : Out :=
  s.withPkt pkt 2 (fun p m s => (some (s.memAborted m.id (p.payload.getD 0 0).toNat p.rank), s))

/-- SIG (R380, R389): the value in the payload's first four bytes is added to the member's SIGW, or discarded. -/
def execSig (pkt : Nat) (s : State) : Out :=
  s.withPkt pkt 7 (fun p m s =>
    if m.b 8 = 0 then (some (s.ackPkt p), s)
    else if m.pageAborts.contains (.sig p.id) then
      let t := s.updMember m.id (fun m => { m with pageAborts := m.pageAborts.filter (fun a => a != .sig p.id) })
      (some ((t.ackPkt p).memAbort m.id kPAGE), s)
    else
      match s.memAdd m (ofBytes (p.payload.take 4)) with
      | (.ok _, t) => (some (t.ackPkt p), s)
      | (.wait, _) => (none, s)
      | (.stop code, t) => (some ((t.ackPkt p).memAbort m.id code), s)
      | (.page va acc why, t) =>
        match t.memPage m (.sig p.id) va acc why with
        | none => (some ((t.ackPkt p).memAbort m.id kPAGE), s)
        | some u => (none, u))

/-- COLLECTIVE_TIMEOUT (R388): TMO microseconds have passed since the start. -/
def execCollectiveTimeout (id : Nat) (s : State) : Out :=
  .next (match s.member? id with
    | none => s
    | some m => if m.tmo = 0 ∨ s.cycle < m.start + m.tmo * cyclesPerUs then s else s.memAbort id kTIMEOUT)

/-- A packet is dropped at a port, and counted there (R385, R430). -/
def State.countPort (s : State) (p : Nat) : State :=
  let l := s.sys.ports.get {} p
  { s with sys := { s.sys with ports := s.sys.ports.put p { l with errcnt := if l.errcnt = BitVec.allOnes 32 then l.errcnt else l.errcnt + 1 } } }

/-- The member of this package that sent a packet. -/
def State.senderOf (s : State) (p : Pkt) : Option Member :=
  s.fes.members.find? (fun m => m.st != .starting && m.tile == p.src && m.sig == p.sig && m.rank == p.rank && m.inst == p.inst)

/-- A packet of a data instruction has left the package by a port (R377). -/
def State.leftPkt (s : State) (p : Pkt) : State :=
  match p.sender with
  | none => s
  | some (id, k) => s.updRun id k (fun r => { r with unacked := r.unacked - 1, far := true })

/-- A packet leaves the package by a port, with this header. -/
def State.putOut (s : State) (q : Nat) (hdr : List Word) (p : Pkt) : State :=
  { s with fes := { s.fes with out := s.fes.out ++ [(q, hdr, p.payload)] } }

/-- A packet of this package that waited for a link leaves by its port; where the way has died its member aborts (R385, R388). -/
def State.sendOn (s : State) (p : Pkt) (q : Nat) : State :=
  if (s.fes.pkts.takeWhile (fun x => x.id != p.id)).any (fun x => x.outPort == some q && dieOf x.src == dieOf p.src) then s
  else
    match s.wayToPort (dieOf p.src) (rowOfTile p.src) q with
    | .wait => s
    | .clear => ((s.dropPkt p.id).putOut q p.hdr p).leftPkt p
    | .dead =>
      let t := (s.dropPkt p.id).ackPkt p
      ((s.senderOf p).map (fun m => t.memAbort m.id kDEADLINK)).getD t

/-- PACKET_TRANSIT (R385): flight 0 is popped, and the packet leaves by that port; or a packet of this package that waited for
a link leaves it. -/
def execPacketTransit (pkt : Nat) (s : State) : Out :=
  .next (match s.fes.pkts.find? (fun p => p.id == pkt) with
    | none => s
    | some p =>
      match p.outPort with
      | some q => s.sendOn p q
      | none =>
        let w := p.hdr.getD 0 0
        let q := fld w 0 4
        let came := p.port.getD 0
        if p.nfl = 0 ∨ (s.fes.pkts.takeWhile (fun x => x.id != pkt)).any (fun x =>
            x.outPort.isNone && x.nfl != 0 && x.port == p.port && fld (x.hdr.getD 0 0) 0 4 == q) then s
        else
          match s.bridge (portDie came) (portDie q) with
          | .wait => s
          | .dead => (s.dropPkt pkt).countPort came
          | .clear => (s.dropPkt pkt).putOut q (word ((p.nfl - 1) * 2 ^ 60 + fld w 0 60 / 16) :: p.hdr.drop 1) p)

/-! ## The FES serves a member -/

/-- The instruction a running member would issue next. -/
def State.nextChunk (s : State) (m : Member) : Out :=
  match decodeChunk m.pc (m.sched.getD m.pc 0) with
  | none => .next s
  | some (.data kop c) =>
    match kop.toNat with
    | 0 => execKsend m.id c s
    | 1 => execKrecv m.id c s
    | 2 => execKred m.id c s
    | _ => execKcopy m.id c s
  | some (.kwait tag all) => execKwait m.id tag all s
  | some (.ksig peer prel tag val) => execKsig m.id peer prel tag val s
  | some (.kloop count disp) => execKloop m.id count disp s
  | some .kend => execKend m.id s

/-- The FES serves a member: it starts it, issues its next instruction, or goes on with its end (R373, R377, R386). A
member that waits in a gate meets the cancellation of its hall. -/
def State.serveMember (s : State) (id : Nat) : Out :=
  match s.member? id with
  | none => .next s
  | some m =>
    match m.st with
    | .starting => .next (s.runStart m)
    | .running => s.nextChunk m
    | .closed => .next (s.finishAll id)
    | .aborting => .next (s.finishAll id)
    | .opening => .next ((s.memHeld m).getD s)
    | .closing => .next ((s.memHeld m).getD s)

end Sys2Proof.Machine
end

