-- ==== Sys2Proof/Machine/Links.lean ====
section
/-!
DEFINITION. The bridge and the Harpin ports (R430), bring-up and reset (R426, R429, R431, R432), attestation (R427),
host accesses (R428), wear (R433) and the patrol scrubber (R98).
-/

namespace Sys2Proof.Machine

open Sys2Proof

/-! ## Ilupol links -/

/-- Cycles a retrain may take: 100 µs (R430). DEDUCED (log entry 40). -/
def retrainLimit : Nat := 100 * cyclesPerUs

/-- A link of the bridge. -/
def State.link (s : State) (l : Nat) : Link := s.sys.links.get {} l
/-- Replace it; streams follow its state (R338, R339). -/
def State.setLink (s : State) (l : Nat) (k : Link) : State :=
  ({ s with sys := { s.sys with links := s.sys.links.put l k } } : State).relinkStreams

/-- One more CRC failure, saturating. -/
def Link.countErr (k : Link) : Link := { k with errcnt := if k.errcnt = BitVec.allOnes 32 then k.errcnt else k.errcnt + 1 }
/-- One more retrain begun, saturating. -/
def Link.countRetrain (k : Link) : Link :=
  { k with retrains := if k.retrains = BitVec.allOnes 16 then k.retrains else k.retrains + 1 }
/-- A retrain begins. -/
def Link.retrain (k : Link) (now : Nat) : Link :=
  { k with state := 1, since := now, fails := 0, failsB := 0 }.countRetrain

/-- A flit arrives in direction `dir`: accepted, or counted, and at its ninth failure a retrain begins. -/
def Link.flit (k : Link) (dir : Nat) (ok : Bool) (now : Nat) : Link :=
  if ok then
    if dir = 0 then { k with fails := 0, seqA := k.seqA + 1 } else { k with failsB := 0, seqB := k.seqB + 1 }
  else
    let k := k.countErr
    let n := (if dir = 0 then k.fails else k.failsB) + 1
    if 9 ≤ n then k.retrain now else if dir = 0 then { k with fails := n } else { k with failsB := n }

/-- FLIT_RECEIVE (R430). -/
def execFlitReceive (link dir : Nat) (crcOk : Bool) (s : State) : Out :=
  .next (if 2 ≤ link ∨ 2 ≤ dir ∨ (s.link link).state ≠ 0 then s else s.setLink link ((s.link link).flit dir crcOk s.cycle))

/-- LANE_LOCK_LOSS (R430). -/
def execLaneLockLoss (link : Nat) (s : State) : Out :=
  .next (if 2 ≤ link ∨ (s.link link).state ≠ 0 then s else s.setLink link ((s.link link).retrain s.cycle))

/-- RETRAIN_DONE (R430): within 100 µs the link is up again. -/
def execRetrainDone (link : Nat) (s : State) : Out :=
  .next (
    let k := s.link link
    if 2 ≤ link ∨ k.state ≠ 1 ∨ k.since + retrainLimit < s.cycle then s
    else s.setLink link { k with state := 0, failed := 0 })

/-- A retrain has failed: the third in a row leaves the link dead, else the next attempt begins. -/
def Link.retrainFailed (k : Link) (now : Nat) : Link :=
  if 3 ≤ k.failed + 1 then { k with state := 2, failed := k.failed + 1 } else { k with failed := k.failed + 1 }.retrain now

/-- RETRAIN_TIMEOUT (R430). -/
def execRetrainTimeout (link : Nat) (s : State) : Out :=
  .next (
    let k := s.link link
    if 2 ≤ link ∨ k.state ≠ 1 ∨ s.cycle ≤ k.since + retrainLimit then s else s.setLink link (k.retrainFailed s.cycle))

/-! ## Harpin ports -/

/-- A port. -/
def State.port (s : State) (p : Nat) : Link := s.sys.ports.get {} p
/-- Replace it. -/
def State.setPort (s : State) (p : Nat) (k : Link) : State := { s with sys := { s.sys with ports := s.sys.ports.put p k } }

/-- A frame fails its CRC: after 16 retries the port is down, and retrains by itself. -/
def Link.frameFailed (k : Link) : Link :=
  let k := k.countErr
  if 16 < k.fails + 1 then { k with state := 3, fails := 0 }.countRetrain else { k with fails := k.fails + 1 }

/-- HARPIN_FRAME (R385, R430): a frame is retried or delivered. A packet at its package with an operation that is not
known is dropped and counted. -/
def execHarpinFrame (port : Nat) (crcOk : Bool) (hdr : List (BitVec 64)) (payload : List (BitVec 8)) (s : State) : Out :=
  .next (
    let k := s.port port
    if 16 ≤ port ∨ k.state ≠ 0 ∨ hdr.length ≠ 8 ∨ 4096 < payload.length then s
    else if !crcOk then s.setPort port k.frameFailed
    else
      let s := s.setPort port { k with fails := 0 }
      let p : Pkt := { id := s.ctr, hdr := hdr, payload := payload, port := some port }
      if p.nfl = 0 ∧ !p.opsOk then s.countPort port
      else { s with ctr := s.ctr + 1, fes := { s.fes with pkts := s.fes.pkts ++ [p] } })

/-- PORT_UP (R430). -/
def execPortUp (port : Nat) (s : State) : Out :=
  .next (if 16 ≤ port ∨ s.sys.bustat < 6 ∨ (s.port port).state ≠ 3 then s else s.setPort port { s.port port with state := 0, fails := 0 })

/-! ## Reset and bring-up -/

/-- RESET (R426): every register takes its reset value and the management core starts from ROM. What the memories
and the fuses hold is kept. DESIGN CHOICE (log entry 39). -/
def execReset (s : State) : Out :=
  .next { State.reset with
    agenda := s.agenda, stepNo := s.stepNo, ctr := s.ctr, mem := s.mem,
    sys := { svnFuse := s.sys.svnFuse },
    fes := { saves := s.fes.saves, images := s.fes.images, serial := s.fes.serial } }

/-- CODE of FWSTAT. -/
def State.fwCode (s : State) : Nat := fld s.sys.fwstat 0 8

/-- Change the system registers. -/
def State.updSys (s : State) (f : Sys → Sys) : State := { s with sys := f s.sys }

/-- The CODE of FWSTAT for an image whose signature, key and digest came to `code`: one that passes them and is older than the
SVN fuse is OLDSVN, and no other is (R426, R429). -/
def fwVerdict (code : Nat) (svn fuse : BitVec 32) : Nat :=
  if (code = 1 ∨ code = 4) ∧ svn.toNat < fuse.toNat then 4 else if code = 4 then 1 else code

/-- FIRMWARE_VERIFY (R426, R429): an image with security version `svn` is examined, and FWSTAT reports it: CODE 1 OK, 2
BADSIG, 3 BADKEY, 4 OLDSVN, 5 BADDIGEST. After a refusal the device stays in state 1. DESIGN CHOICE (log entry 39). -/
def execFirmwareVerify (code : Nat) (svn : BitVec 32) (s : State) : Out :=
  .next (if s.sys.bustat ≠ 1 ∨ code = 0 ∨ 5 < code then s
    else
      let k := fwVerdict code svn s.sys.svnFuse
      s.updSys (fun y => { y with fwstat := word (svn.toNat * 2 ^ 32 + k), svn := if k = 1 then svn else y.svn }))

/-- Read lines of HBM through the ECC engine. -/
def State.scrubLines (s : State) : List Nat → State
  | [] => s
  | l :: ls => ((s.hbmRead l).2.2).scrubLines ls

/-- HBM_TRAINING (R96, R97, R431): state 2; every stack is trained and scrubbed. -/
def execHbmTraining (s : State) : Out :=
  .next (if s.sys.bustat ≠ 1 ∨ s.fwCode ≠ 1 then s
    else (s.scrubLines (s.mem.errs.map (fun e => lineOf e.1))).updSys (fun y => { y with bustat := 2 }))

/-- SELF_TEST (R432): state 3; tiles that fail are withheld, and a slice or stack that fails stops bring-up. -/
def execSelfTest (withheld : BitVec 128) (unitOk : Bool) (s : State) : Out :=
  .next (if s.sys.bustat ≠ 2 then s
    else s.updSys (fun y => { y with bustat := 3, withheld := withheld, halted := !unitOk }))

/-- ILUPOL_TRAINING (R430, R431): state 4; a link that cannot train is dead. -/
def execIlupolTraining (up0 up1 : Bool) (s : State) : Out :=
  .next (if s.sys.bustat ≠ 3 ∨ s.sys.halted then s
    else
      let l0 : Link := { state := if up0 then 0 else 2 }
      let l1 : Link := { state := if up1 then 0 else 2 }
      s.updSys (fun y => { y with bustat := 4, links := (y.links.put 0 l0).put 1 l1 }))

/-- PCIE_LINK_UP (R426, R431): state 5, or, after a refusal of the firmware, recovery from state 1. -/
def execPcieLinkUp (recovery : Bool) (s : State) : Out :=
  .next (
    if recovery then if s.sys.bustat = 1 ∧ 2 ≤ s.fwCode then s.updSys (fun y => { y with recovery := true }) else s
    else if s.sys.bustat = 4 then s.updSys (fun y => { y with bustat := 5, recovery := false }) else s)

/-- HARPIN_TRAINING (R431, R435): state 6; the ports that trained are up, and the firmware writes PKGID and the routes. -/
def execHarpinTraining (up : BitVec 16) (pkg : BitVec 16) (routes : List RouteWrite) (s : State) : Out :=
  .next (if s.sys.bustat ≠ 5 then s
    else s.updSys (fun y => { y with
      bustat := 6
      ports := (List.range 16).foldl (fun m p => m.put p { state := if up.getLsbD p then 0 else 3 }) y.ports
      pkgid := if pkg = 0xFFFF then y.pkgid else word pkg.toNat
      routes := routes.foldl (fun m r => if r.pkg = 0xFFFF then m else m.put r.pkg.toNat { hdr := r.hdr, v := r.v, out := r.out }) y.routes }))

/-- READY (R431): state 7. -/
def execReady (s : State) : Out := .next (if s.sys.bustat ≠ 6 then s else s.updSys (fun y => { y with bustat := 7 }))

/-- Is a number that of a wear monitor (R433): doubleword index within the block? -/
def wearMon (mon : Nat) : Bool := decide (mon < 112)

/-- WEAR_UPDATE (R433). -/
def execWearUpdate (mon : Nat) (hours : BitVec 32) (conf : BitVec 8) (s : State) : Out :=
  .next (if !wearMon mon ∨ 100 < conf.toNat then s
    else s.updSys (fun y => { y with wear := y.wear.set 0 mon (word (hours.toNat * 2 ^ 32 + conf.toNat * 2 ^ 24)) }))

/-! ## The host -/

/-- A host read through BAR2, line by line: the value, or that some line was poisoned: no load returns the bytes of such a line
(R98), and the value of its answer is 0. `none` is a refusal, and the last component says that the access has to wait. -/
def State.bar2Load (s : State) (r : Rqst) (pa n : Nat) : Nat → Option (Nat × Bool) × State × Bool
  | 0 => (some (0, false), s, false)
  | f + 1 =>
    if n = 0 then (some (0, false), s, false)
    else
      let k := min n (128 - pa % 128)
      match s.bridge 0 (homeDie pa) with
      | .wait => (none, s, true)
      | .dead => (none, s, false)
      | .clear =>
        match s.engRead false r kLoad pa k .df with
        | (.ok x p, s) =>
          let (y, s, w) := s.bar2Load r (pa + k) (n - k) f
          (y.map (fun y => if p || y.2 then (0, true) else (x + y.1 * 2 ^ (8 * k), false)), s, w)
        | (.wait, s) => (none, s, true)
        | (_, s) => (none, s, false)

/-- A host write through BAR2, line by line; a line that refuses it drops its part. The second component says that the
access has to wait. -/
def State.bar2Store (s : State) (r : Rqst) (pa n x : Nat) : Nat → State × Bool
  | 0 => (s, false)
  | f + 1 =>
    if n = 0 then (s, false)
    else
      let k := min n (128 - pa % 128)
      match s.bridge 0 (homeDie pa) with
      | .wait => (s, true)
      | .dead => s.bar2Store r (pa + k) (n - k) (x / 2 ^ (8 * k)) f
      | .clear =>
        match s.engWrite false r kStore pa k (x % 2 ^ (8 * k)) .df with
        | (.wait, s) => (s, true)
        | (_, s) => s.bar2Store r (pa + k) (n - k) (x / 2 ^ (8 * k)) f

/-- A host request through BAR0: a register of 8 bytes is read or written; other requests are unsupported (R426, R428). -/
def State.bar0 (s : State) (h : HostReq) : State :=
  match sysReg? h.pa with
  | none => s.unsupported
  | some r =>
    if h.n ≠ 8 then s.unsupported
    else
      s.atReg (.host h.function1) r
        (if h.write then (s.regWrite h.function1 r (word h.data)).getD s
         else s.updSys (fun y => { y with hostAns := some ((s.regValue r).toNat, false) }))

/-- HOST_ACCESS (R422, R428): a host request through BAR2 is a load or store of a requester on die 0, secure through
function 1; one through BAR0 reads or writes a register. BAR2 serves from state 5 on, and the functions that are exposed alone;
what they do not serve is unsupported. DESIGN CHOICE (log entry 41). -/
def execHostAccess (h : HostReq) (s : State) : Out :=
  .next (
    let r : Rqst := { host := true, secure := h.function1 }
    if h.bar0 then s.bar0 h
    else if !s.serves h.function1 || s.sys.recovery || hbmTop < h.pa + h.n || 4096 < h.n then s.unsupported
    else if h.write then
      match s.bar2Store r h.pa h.n h.data (lineFuel h.n) with
      | (_, true) => s
      | (t, false) => t
    else
      match s.bar2Load r h.pa h.n (lineFuel h.n) with
      | (_, _, true) => s
      | (a, t, false) => t.updSys (fun y => { y with hostAns := a }))

/-! ## Attestation and the scrubber -/

/-- Bytes of a number, most significant first. -/
def bytesBE (n x : Nat) : List Byte := (bytesOf n x).reverse

/-- Bytes 0 to 159 of the quote (R427). -/
def State.quoteBody (s : State) : List Byte :=
  bytesOf 2 1 ++ bytesOf 2 0 ++ bytesOf 4 s.sys.svn.toNat ++ bytesOf 8 Config.serial.toNat ++
    bytesOf 48 (readBytes s.sys.nonce 0 48) ++ bytesBE 48 (Config.firmwareDigest s.sys.svn).toNat ++ bytesOf 16 s.sys.withheld.toNat ++ bytesOf 32 0

/-- ATTEST_DONE (R427): the quote is placed, r and s most significant byte first, and ATTSTAT reads DONE.
DESIGN CHOICE (log entry 11). -/
def execAttestDone (s : State) : Out :=
  .next (if s.sys.attstat ≠ 1 then s
    else
      let body := s.quoteBody
      let sig := (Config.quoteSignature body).toNat
      s.updSys (fun y => { y with attstat := 2, quote := body ++ bytesBE 48 (sig / 2 ^ 384) ++ bytesBE 48 sig }))

/-- PATROL_SCRUB (R97, R98): the scrubber reads a line of HBM. DEDUCED (log entry 40). -/
def execPatrolScrub (line : Nat) (s : State) : Out := .next (if isHbm (line * 128) then (s.hbmRead line).2.2 else s)

end Sys2Proof.Machine
end

