-- ==== Sys2Proof/Machine/Scalar.lean ====
section
/-!
DEFINITION. The scalar integer, predicate and constant instructions (R187 to R197, R203 to R205) and the
divides (R194).
-/

namespace Sys2Proof.Machine

open Sys2Proof

/-- ADD (R189). -/
def execAdd (d a b : Reg) (s : State) : Host.Outcome State Fault Refusal :=
  execHalf (.rr .add d a b) s

/-- SUB (R189). -/
def execSub (d a b : Reg) (s : State) : Host.Outcome State Fault Refusal :=
  execHalf (.rr .sub d a b) s

/-- MUL (R189). -/
def execMul (d a b : Reg) (s : State) : Host.Outcome State Fault Refusal :=
  execHalf (.rr .mul d a b) s

/-- MULH (R189). -/
def execMulh (d a b : Reg) (s : State) : Host.Outcome State Fault Refusal :=
  execHalf (.rr .mulh d a b) s

/-- MULHW (R189). -/
def execMulhw (d a b : Reg) (s : State) : Host.Outcome State Fault Refusal :=
  execHalf (.rr .mulhw d a b) s

/-- AND (R189). -/
def execAnd (d a b : Reg) (s : State) : Host.Outcome State Fault Refusal :=
  execHalf (.rr .and d a b) s

/-- OR (R189). -/
def execOr (d a b : Reg) (s : State) : Host.Outcome State Fault Refusal :=
  execHalf (.rr .or d a b) s

/-- XOR (R189). -/
def execXor (d a b : Reg) (s : State) : Host.Outcome State Fault Refusal :=
  execHalf (.rr .xor d a b) s

/-- ANDN (R189). -/
def execAndn (d a b : Reg) (s : State) : Host.Outcome State Fault Refusal :=
  execHalf (.rr .andn d a b) s

/-- ORN (R189). -/
def execOrn (d a b : Reg) (s : State) : Host.Outcome State Fault Refusal :=
  execHalf (.rr .orn d a b) s

/-- SHL (R189). -/
def execShl (d a b : Reg) (s : State) : Host.Outcome State Fault Refusal :=
  execHalf (.rr .shl d a b) s

/-- SHR (R189). -/
def execShr (d a b : Reg) (s : State) : Host.Outcome State Fault Refusal :=
  execHalf (.rr .shr d a b) s

/-- SRA (R189). -/
def execSra (d a b : Reg) (s : State) : Host.Outcome State Fault Refusal :=
  execHalf (.rr .sra d a b) s

/-- ROT (R189). -/
def execRot (d a b : Reg) (s : State) : Host.Outcome State Fault Refusal :=
  execHalf (.rr .rot d a b) s

/-- MIN (R189). -/
def execMin (d a b : Reg) (s : State) : Host.Outcome State Fault Refusal :=
  execHalf (.rr .min d a b) s

/-- MAX (R189). -/
def execMax (d a b : Reg) (s : State) : Host.Outcome State Fault Refusal :=
  execHalf (.rr .max d a b) s

/-- MINW (R189). -/
def execMinw (d a b : Reg) (s : State) : Host.Outcome State Fault Refusal :=
  execHalf (.rr .minw d a b) s

/-- MAXW (R189). -/
def execMaxw (d a b : Reg) (s : State) : Host.Outcome State Fault Refusal :=
  execHalf (.rr .maxw d a b) s

/-- CLZ (R191). -/
def execClz (d a : Reg) (s : State) : Host.Outcome State Fault Refusal :=
  execHalf (.r1 .clz d a) s

/-- CTZ (R191). -/
def execCtz (d a : Reg) (s : State) : Host.Outcome State Fault Refusal :=
  execHalf (.r1 .ctz d a) s

/-- POPC (R191). -/
def execPopc (d a : Reg) (s : State) : Host.Outcome State Fault Refusal :=
  execHalf (.r1 .popc d a) s

/-- BREV (R191). -/
def execBrev (d a : Reg) (s : State) : Host.Outcome State Fault Refusal :=
  execHalf (.r1 .brev d a) s

/-- BSWP (R191). -/
def execBswp (d a : Reg) (s : State) : Host.Outcome State Fault Refusal :=
  execHalf (.r1 .bswp d a) s

/-- PEQ (R196). -/
def execPeq (d : PReg) (a b : Reg) (s : State) : Host.Outcome State Fault Refusal :=
  execHalf (.cmp .eq d a b) s

/-- PNE (R196). -/
def execPne (d : PReg) (a b : Reg) (s : State) : Host.Outcome State Fault Refusal :=
  execHalf (.cmp .ne d a b) s

/-- PLT (R196). -/
def execPlt (d : PReg) (a b : Reg) (s : State) : Host.Outcome State Fault Refusal :=
  execHalf (.cmp .lt d a b) s

/-- PLE (R196). -/
def execPle (d : PReg) (a b : Reg) (s : State) : Host.Outcome State Fault Refusal :=
  execHalf (.cmp .le d a b) s

/-- PLTW (R196). -/
def execPltw (d : PReg) (a b : Reg) (s : State) : Host.Outcome State Fault Refusal :=
  execHalf (.cmp .ltw d a b) s

/-- PLEW (R196). -/
def execPlew (d : PReg) (a b : Reg) (s : State) : Host.Outcome State Fault Refusal :=
  execHalf (.cmp .lew d a b) s

/-- PAND (R197). -/
def execPand (d a b : PReg) (s : State) : Host.Outcome State Fault Refusal :=
  execHalf (.plog .and d a b) s

/-- POR (R197). -/
def execPor (d a b : PReg) (s : State) : Host.Outcome State Fault Refusal :=
  execHalf (.plog .or d a b) s

/-- PXOR (R197). -/
def execPxor (d a b : PReg) (s : State) : Host.Outcome State Fault Refusal :=
  execHalf (.plog .xor d a b) s

/-- PNOT (R197). -/
def execPnot (d a : PReg) (s : State) : Host.Outcome State Fault Refusal :=
  execHalf (.pnot d a) s

/-- SEL (R195). -/
def execSel (d a b : Reg) (p : PReg) (s : State) : Host.Outcome State Fault Refusal :=
  execHalf (.sel d a b p) s

/-- NRAND (R204). -/
def execNrand (d a b : Reg) (s : State) : Host.Outcome State Fault Refusal :=
  execHalf (.nrand d a b) s

/-- ADDI (R190). -/
def execAddi (d a : Reg) (imm : BitVec 12) (s : State) : Host.Outcome State Fault Refusal :=
  execHalf (.imm .add d a (.short imm)) s

/-- ADDI_LITERAL (R190). -/
def execAddiLiteral (d a : Reg) (lit : BitVec 64) (s : State) : Host.Outcome State Fault Refusal :=
  execHalf (.imm .add d a (.lit lit)) s

/-- ANDI (R190). -/
def execAndi (d a : Reg) (imm : BitVec 12) (s : State) : Host.Outcome State Fault Refusal :=
  execHalf (.imm .and d a (.short imm)) s

/-- ANDI_LITERAL (R190). -/
def execAndiLiteral (d a : Reg) (lit : BitVec 64) (s : State) : Host.Outcome State Fault Refusal :=
  execHalf (.imm .and d a (.lit lit)) s

/-- ORI (R190). -/
def execOri (d a : Reg) (imm : BitVec 12) (s : State) : Host.Outcome State Fault Refusal :=
  execHalf (.imm .or d a (.short imm)) s

/-- ORI_LITERAL (R190). -/
def execOriLiteral (d a : Reg) (lit : BitVec 64) (s : State) : Host.Outcome State Fault Refusal :=
  execHalf (.imm .or d a (.lit lit)) s

/-- XORI (R190). -/
def execXori (d a : Reg) (imm : BitVec 12) (s : State) : Host.Outcome State Fault Refusal :=
  execHalf (.imm .xor d a (.short imm)) s

/-- XORI_LITERAL (R190). -/
def execXoriLiteral (d a : Reg) (lit : BitVec 64) (s : State) : Host.Outcome State Fault Refusal :=
  execHalf (.imm .xor d a (.lit lit)) s

/-- SHLI (R190). -/
def execShli (d a : Reg) (n : BitVec 6) (s : State) : Host.Outcome State Fault Refusal :=
  execHalf (.sh .shl d a n) s

/-- SHRI (R190). -/
def execShri (d a : Reg) (n : BitVec 6) (s : State) : Host.Outcome State Fault Refusal :=
  execHalf (.sh .shr d a n) s

/-- SRAI (R190). -/
def execSrai (d a : Reg) (n : BitVec 6) (s : State) : Host.Outcome State Fault Refusal :=
  execHalf (.sh .sra d a n) s

/-- ROTI (R190). -/
def execRoti (d a : Reg) (n : BitVec 6) (s : State) : Host.Outcome State Fault Refusal :=
  execHalf (.sh .rot d a n) s

/-- PEQI (R196). -/
def execPeqi (d : PReg) (a : Reg) (imm : BitVec 12) (s : State) : Host.Outcome State Fault Refusal :=
  execHalf (.peqi d a (.short imm)) s

/-- PEQI_LITERAL (R196). -/
def execPeqiLiteral (d : PReg) (a : Reg) (lit : BitVec 64) (s : State) : Host.Outcome State Fault Refusal :=
  execHalf (.peqi d a (.lit lit)) s

/-- PLTI (R196). -/
def execPlti (d : PReg) (a : Reg) (imm : BitVec 12) (s : State) : Host.Outcome State Fault Refusal :=
  execHalf (.plti d a (.short imm)) s

/-- PLTI_LITERAL (R196). -/
def execPltiLiteral (d : PReg) (a : Reg) (lit : BitVec 64) (s : State) : Host.Outcome State Fault Refusal :=
  execHalf (.plti d a (.lit lit)) s

/-- BFX (R192). -/
def execBfx (d a : Reg) (pos wm1 : BitVec 6) (s : State) : Host.Outcome State Fault Refusal :=
  execHalf (.bfx d a pos wm1) s

/-- BFI (R192). -/
def execBfi (d a : Reg) (pos wm1 : BitVec 6) (s : State) : Host.Outcome State Fault Refusal :=
  execHalf (.bfi d a pos wm1) s

/-- EXTS (R192). -/
def execExts (d a : Reg) (wm1 : BitVec 6) (s : State) : Host.Outcome State Fault Refusal :=
  execHalf (.exts d a wm1) s

/-- EXTZ (R192). -/
def execExtz (d a : Reg) (wm1 : BitVec 6) (s : State) : Host.Outcome State Fault Refusal :=
  execHalf (.extz d a wm1) s

/-- MOVL (R193). -/
def execMovl (d : Reg) (imm : BitVec 12) (s : State) : Host.Outcome State Fault Refusal :=
  execHalf (.movl d (.short imm)) s

/-- MOVL_LITERAL (R193). -/
def execMovlLiteral (d : Reg) (lit : BitVec 64) (s : State) : Host.Outcome State Fault Refusal :=
  execHalf (.movl d (.lit lit)) s

/-- ADDPC (R193). -/
def execAddpc (d : Reg) (imm : BitVec 12) (s : State) : Host.Outcome State Fault Refusal :=
  execHalf (.addpc d (.short imm)) s

/-- ADDPC_LITERAL (R193). -/
def execAddpcLiteral (d : Reg) (lit : BitVec 64) (s : State) : Host.Outcome State Fault Refusal :=
  execHalf (.addpc d (.lit lit)) s

/-! ## Divides -/

/-- What a divide declares. -/
def divUses (d a b : Reg) : Uses := { rs := [a.toNat, b.toNat], ws := [d.toNat], long := true }

/-- Start a divide: the operands are read at issue, and the result is pending; the core holds one divide in
flight (R194). -/
def divBody (op : DivOp) (d a b : Reg) (la : BitVec 4) (s : State) : Res :=
  if s.me.pend.any (fun p => p.cls == .divide && p.need != 0) then .stall
  else
    let x := divVal op (s.src a) (s.src b)
    .done (s.enterPend { s.newPend (greg s.lv d.toNat) la.toNat 1 .divide 0 with val := x.setWidth 1024 })

/-- DIV (R194). -/
def execDiv (d a b : Reg) (la : BitVec 4) (s : State) : Host.Outcome State Fault Refusal :=
  s.runs (divUses d a b) (divBody .div d a b la)

/-- DIVW (R194). -/
def execDivw (d a b : Reg) (la : BitVec 4) (s : State) : Host.Outcome State Fault Refusal :=
  s.runs (divUses d a b) (divBody .divw d a b la)

/-- REM (R194). -/
def execRem (d a b : Reg) (la : BitVec 4) (s : State) : Host.Outcome State Fault Refusal :=
  s.runs (divUses d a b) (divBody .rem d a b la)

/-- REMW (R194). -/
def execRemw (d a b : Reg) (la : BitVec 4) (s : State) : Host.Outcome State Fault Refusal :=
  s.runs (divUses d a b) (divBody .remw d a b la)

/-- NMASK (R205). -/
def execNmask (gu : Guard) (d a b : Reg) (thr : BitVec 24) (s : State) : Host.Outcome State Fault Refusal :=
  s.runs { len := xlen, on := s.guard gu, rs := [a.toNat, b.toNat], ws := [d.toNat] }
    (fun s => .done (s.dst d (nmask (s.src a) (s.src b) thr.toNat)))

end Sys2Proof.Machine
end

