-- ==== Sys2Proof/Machine/Vector.lean ====
section
/-!
DEFINITION. The vector arithmetic, conversion, reduction and lane-moving instructions (R207 to R222), and the
pair of a scalar and a vector operation (R53 to R55).
-/

namespace Sys2Proof.Machine

open Sys2Proof

/-- What a V-class instruction declares: it executes when some lane is active (R46, R208). An inactive lane
keeps its bits, so the destination is read as well. -/
def vecUses (gu : Guard) (ty : BitVec 4) (srcs dsts : List VReg) (s : State) : Uses :=
  { len := xlen, on := s.vguard gu ty.toNat, vs := srcs.map (fun r => r.toNat) ++ dsts.map (fun r => r.toNat),
    vw := dsts.map (fun r => r.toNat) }

/-- A V-class instruction that writes one vector register. -/
def execVec (gu : Guard) (ty : BitVec 4) (srcs : List VReg) (d : VReg)
    (f : (Nat → Bool) → State → VecRes) (s : State) : Host.Outcome State Fault Refusal :=
  s.runs (vecUses gu ty srcs [d] s) (fun s => .done (s.writeVec d (f (s.active gu ty.toNat) s)))

/-- VDIV, VSQRT and VRSQ: long-latency, one of the three in flight at a time (R210). DEDUCED (log entry 42). -/
def execLongVec (gu : Guard) (la ty : BitVec 4) (srcs : List VReg) (d : VReg)
    (f : (Nat → Bool) → State → VecRes) (s : State) : Host.Outcome State Fault Refusal :=
  s.runs { vecUses gu ty srcs [d] s with long := true } (fun s =>
    if s.me.pend.any (fun p => p.cls == .vdivide && p.need != 0) then .stall
    else
      let r := f (s.active gu ty.toNat) s
      .done (s.enterPend { s.newPend (some (.v d.toNat)) la.toNat 1 .vdivide r.mask with val := r.val, flags := r.flags }))

/-- Set the scale bytes of some blocks to 0xFF (R216). -/
def nanScales (c : Vec) (bs : List Nat) : Vec := ofLanes 8 ((List.range 128).map (fun b => if bs.contains b then 255 else lane c 8 b))

/-- VCVT with its PART (R216). The scale bytes of blocks of NaN are written after the elements, which matters where vc is vd.
DEDUCED (log entry 43). For the windows and the scoreboard a conversion into MXF4 writes vc, whether or not a block is one of
NaN. DESIGN CHOICE (log entry 43). -/
def execCvt (gu : Guard) (ty src : BitVec 4) (rm : BitVec 3) (sat : Bool) (d a c : VReg) (part len : Nat)
    (s : State) : Host.Outcome State Fault Refusal :=
  let mx := isMX ty.toNat || isMX src.toNat
  s.runs { vecUses gu ty (if mx then [a, c] else [a]) (if ty = 8 then [d, c] else [d]) s with len := len } (fun s =>
    let (r, nans) := vecCvt src.toNat ty.toNat rm.toNat sat part (s.active gu ty.toNat) (s.rv a) (s.rv c)
    let s := s.writeVec d r
    .done (if nans.isEmpty then s else s.wv c (nanScales (s.rv c) nans)))

/-- VSCALE with its PART: activity is that of the source lanes (R217). -/
def execScale (gu : Guard) (ty src : BitVec 4) (d a : VReg) (part len : Nat) (s : State) :
    Host.Outcome State Fault Refusal :=
  s.runs { vecUses gu src [a] [d] s with len := len } (fun s =>
    .done (s.writeVec d (vecScale ty.toNat src.toNat part (s.active gu src.toNat) (s.rv a))))

/-- A reduction: the result goes to lane 0, and the other lanes are written 0 (R218). -/
def execReduce (gu : Guard) (ty : BitVec 4) (srcs : List VReg) (d : VReg)
    (f : (Nat → Bool) → State → Option LaneRes) (s : State) : Host.Outcome State Fault Refusal :=
  s.runs { vecUses gu ty srcs [] s with vw := [d.toNat] } (fun s =>
    match f (s.active gu ty.toNat) s with
    | none => .done s
    | some (x, fl) => .done ((s.wv d (ofLanes (bitsOf ty.toNat) [x])).raise fl))

/-- The low bits of a word in every active lane (R221). -/
def splat (ty : Nat) (act : Nat → Bool) (x : Word) : VecRes := lanewise ty act (fun _ => (x.toNat % 2 ^ bitsOf ty, {}))

/-- One lane as a general register value (R222). -/
def extLane (ty : Nat) (v : Vec) (k : Word) : Word :=
  let w := bitsOf ty
  let x := lane v w (k.toNat % lanesOfTy ty)
  if isSigned ty then sextN x w else word x

/-- A vector with one lane replaced (R222). -/
def insLane (ty : Nat) (v : Vec) (k x : Word) : Vec :=
  let w := bitsOf ty
  let i := k.toNat % lanesOfTy ty
  blend v (laneAt w i (x.toNat % 2 ^ w)) (laneAt w i (2 ^ w - 1))
where
  /-- A number placed in lane `i`. -/
  laneAt (w i x : Nat) : Vec := BitVec.ofNat 1024 (x * 2 ^ (i * w))

/-- VADD (R211). -/
def execVadd (gu : Guard) (ty : BitVec 4) (rm : BitVec 3) (sat : Bool) (d a b : VReg) (s : State) : Host.Outcome State Fault Refusal :=
  execVec gu ty [a, b] d (fun act s => vec2 .vadd ty.toNat rm.toNat sat act (s.rv a) (s.rv b)) s

/-- VSUB (R211). -/
def execVsub (gu : Guard) (ty : BitVec 4) (rm : BitVec 3) (sat : Bool) (d a b : VReg) (s : State) : Host.Outcome State Fault Refusal :=
  execVec gu ty [a, b] d (fun act s => vec2 .vsub ty.toNat rm.toNat sat act (s.rv a) (s.rv b)) s

/-- VMUL (R211). -/
def execVmul (gu : Guard) (ty : BitVec 4) (rm : BitVec 3) (sat : Bool) (d a b : VReg) (s : State) : Host.Outcome State Fault Refusal :=
  execVec gu ty [a, b] d (fun act s => vec2 .vmul ty.toNat rm.toNat sat act (s.rv a) (s.rv b)) s

/-- VFMA (R211). -/
def execVfma (gu : Guard) (ty : BitVec 4) (rm : BitVec 3) (sat : Bool) (d a b c : VReg) (s : State) : Host.Outcome State Fault Refusal :=
  execVec gu ty [a, b, c] d (fun act s => vec3 .vfma ty.toNat rm.toNat sat act (s.rv a) (s.rv b) (s.rv c)) s

/-- VFMS (R211). -/
def execVfms (gu : Guard) (ty : BitVec 4) (rm : BitVec 3) (sat : Bool) (d a b c : VReg) (s : State) : Host.Outcome State Fault Refusal :=
  execVec gu ty [a, b, c] d (fun act s => vec3 .vfms ty.toNat rm.toNat sat act (s.rv a) (s.rv b) (s.rv c)) s

/-- VFNMA (R211). -/
def execVfnma (gu : Guard) (ty : BitVec 4) (rm : BitVec 3) (sat : Bool) (d a b c : VReg) (s : State) : Host.Outcome State Fault Refusal :=
  execVec gu ty [a, b, c] d (fun act s => vec3 .vfnma ty.toNat rm.toNat sat act (s.rv a) (s.rv b) (s.rv c)) s

/-- VDIV (R211). -/
def execVdiv (gu : Guard) (la ty : BitVec 4) (rm : BitVec 3) (sat : Bool) (d a b : VReg) (s : State) : Host.Outcome State Fault Refusal :=
  execLongVec gu la ty [a, b] d (fun act s => vec2 .vdiv ty.toNat rm.toNat sat act (s.rv a) (s.rv b)) s

/-- VSQRT (R211). -/
def execVsqrt (gu : Guard) (la ty : BitVec 4) (rm : BitVec 3) (d a : VReg) (s : State) : Host.Outcome State Fault Refusal :=
  execLongVec gu la ty [a] d (fun act s => vec1 .vsqrt ty.toNat rm.toNat false act (s.rv a)) s

/-- VRSQ (R211). -/
def execVrsq (gu : Guard) (la ty : BitVec 4) (rm : BitVec 3) (d a : VReg) (s : State) : Host.Outcome State Fault Refusal :=
  execLongVec gu la ty [a] d (fun act s => vec1 .vrsq ty.toNat rm.toNat false act (s.rv a)) s

/-- VMIN (R212). -/
def execVmin (gu : Guard) (ty : BitVec 4) (d a b : VReg) (s : State) : Host.Outcome State Fault Refusal :=
  execVec gu ty [a, b] d (fun act s => vec2 .vmin ty.toNat 0 false act (s.rv a) (s.rv b)) s

/-- VMAX (R212). -/
def execVmax (gu : Guard) (ty : BitVec 4) (d a b : VReg) (s : State) : Host.Outcome State Fault Refusal :=
  execVec gu ty [a, b] d (fun act s => vec2 .vmax ty.toNat 0 false act (s.rv a) (s.rv b)) s

/-- VABS (R213). -/
def execVabs (gu : Guard) (ty : BitVec 4) (sat : Bool) (d a : VReg) (s : State) : Host.Outcome State Fault Refusal :=
  execVec gu ty [a] d (fun act s => vec1 .vabs ty.toNat 0 sat act (s.rv a)) s

/-- VNEG (R213). -/
def execVneg (gu : Guard) (ty : BitVec 4) (sat : Bool) (d a : VReg) (s : State) : Host.Outcome State Fault Refusal :=
  execVec gu ty [a] d (fun act s => vec1 .vneg ty.toNat 0 sat act (s.rv a)) s

/-- VCLAMP (R212). -/
def execVclamp (gu : Guard) (ty : BitVec 4) (d a b c : VReg) (s : State) : Host.Outcome State Fault Refusal :=
  execVec gu ty [a, b, c] d (fun act s => vec3 .vclamp ty.toNat 0 false act (s.rv a) (s.rv b) (s.rv c)) s

/-- VCMP (R214). -/
def execVcmp (gu : Guard) (ty : BitVec 4) (rel : BitVec 3) (d : PReg) (a b : VReg) (s : State) : Host.Outcome State Fault Refusal :=
  s.runs (vecUses gu ty [a, b] [] s) (fun s =>
    let (x, f) := vecCmp ty.toNat rel.toNat (s.active gu ty.toNat) (s.rv a) (s.rv b) (s.rp d)
    .done (s.writeV (.p d x f)))

/-- VSEL (R215). -/
def execVsel (gu : Guard) (ty : BitVec 4) (d a b : VReg) (p : PReg) (s : State) : Host.Outcome State Fault Refusal :=
  execVec gu ty [a, b] d (fun act s => vecSel ty.toNat act (s.rv a) (s.rv b) (s.rp p)) s

/-- VCVT (R216). -/
def execVcvt (gu : Guard) (ty src : BitVec 4) (rm : BitVec 3) (sat : Bool) (d a c : VReg) (part : BitVec 4) (s : State) : Host.Outcome State Fault Refusal :=
  execCvt gu ty src rm sat d a c part.toNat xlen s

/-- VCVT_LITERAL (R216). -/
def execVcvtLiteral (gu : Guard) (ty src : BitVec 4) (rm : BitVec 3) (sat : Bool) (d a c : VReg) (lit : BitVec 64) (s : State) : Host.Outcome State Fault Refusal :=
  execCvt gu ty src rm sat d a c lit.toNat xlenLit s

/-- VSCALE (R217). -/
def execVscale (gu : Guard) (ty src : BitVec 4) (d a : VReg) (part : BitVec 4) (s : State) : Host.Outcome State Fault Refusal :=
  execScale gu ty src d a part.toNat xlen s

/-- VSCALE_LITERAL (R217). -/
def execVscaleLiteral (gu : Guard) (ty src : BitVec 4) (d a : VReg) (lit : BitVec 64) (s : State) : Host.Outcome State Fault Refusal :=
  execScale gu ty src d a lit.toNat xlenLit s

/-- VRSUM (R218). -/
def execVrsum (gu : Guard) (ty : BitVec 4) (sat : Bool) (d a : VReg) (s : State) : Host.Outcome State Fault Refusal :=
  execReduce gu ty [a] d (fun act s => vecReduce .vrsum ty.toNat sat act (s.rv a)) s

/-- VRMIN (R218). -/
def execVrmin (gu : Guard) (ty : BitVec 4) (d a : VReg) (s : State) : Host.Outcome State Fault Refusal :=
  execReduce gu ty [a] d (fun act s => vecReduce .vrmin ty.toNat false act (s.rv a)) s

/-- VRMAX (R218). -/
def execVrmax (gu : Guard) (ty : BitVec 4) (d a : VReg) (s : State) : Host.Outcome State Fault Refusal :=
  execReduce gu ty [a] d (fun act s => vecReduce .vrmax ty.toNat false act (s.rv a)) s

/-- VDOT (R218). -/
def execVdot (gu : Guard) (ty : BitVec 4) (d a b : VReg) (s : State) : Host.Outcome State Fault Refusal :=
  execReduce gu ty [a, b] d (fun act s => vecDot ty.toNat act (s.rv a) (s.rv b)) s

/-- VIADD (R219). -/
def execViadd (gu : Guard) (ty : BitVec 4) (sat : Bool) (d a b : VReg) (s : State) : Host.Outcome State Fault Refusal :=
  execVec gu ty [a, b] d (fun act s => vec2 .viadd ty.toNat 0 sat act (s.rv a) (s.rv b)) s

/-- VISUB (R219). -/
def execVisub (gu : Guard) (ty : BitVec 4) (sat : Bool) (d a b : VReg) (s : State) : Host.Outcome State Fault Refusal :=
  execVec gu ty [a, b] d (fun act s => vec2 .visub ty.toNat 0 sat act (s.rv a) (s.rv b)) s

/-- VIMUL (R219). -/
def execVimul (gu : Guard) (ty : BitVec 4) (sat : Bool) (d a b : VReg) (s : State) : Host.Outcome State Fault Refusal :=
  execVec gu ty [a, b] d (fun act s => vec2 .vimul ty.toNat 0 sat act (s.rv a) (s.rv b)) s

/-- VIMAD (R219). -/
def execVimad (gu : Guard) (ty : BitVec 4) (sat : Bool) (d a b c : VReg) (s : State) : Host.Outcome State Fault Refusal :=
  execVec gu ty [a, b, c] d (fun act s => vec3 .vimad ty.toNat 0 sat act (s.rv a) (s.rv b) (s.rv c)) s

/-- VAND (R220). -/
def execVand (gu : Guard) (ty : BitVec 4) (d a b : VReg) (s : State) : Host.Outcome State Fault Refusal :=
  execVec gu ty [a, b] d (fun act s => vec2 .vand ty.toNat 0 false act (s.rv a) (s.rv b)) s

/-- VOR (R220). -/
def execVor (gu : Guard) (ty : BitVec 4) (d a b : VReg) (s : State) : Host.Outcome State Fault Refusal :=
  execVec gu ty [a, b] d (fun act s => vec2 .vor ty.toNat 0 false act (s.rv a) (s.rv b)) s

/-- VXOR (R220). -/
def execVxor (gu : Guard) (ty : BitVec 4) (d a b : VReg) (s : State) : Host.Outcome State Fault Refusal :=
  execVec gu ty [a, b] d (fun act s => vec2 .vxor ty.toNat 0 false act (s.rv a) (s.rv b)) s

/-- VSHL (R220). -/
def execVshl (gu : Guard) (ty : BitVec 4) (d a b : VReg) (s : State) : Host.Outcome State Fault Refusal :=
  execVec gu ty [a, b] d (fun act s => vec2 .vshl ty.toNat 0 false act (s.rv a) (s.rv b)) s

/-- VSHR (R220). -/
def execVshr (gu : Guard) (ty : BitVec 4) (d a b : VReg) (s : State) : Host.Outcome State Fault Refusal :=
  execVec gu ty [a, b] d (fun act s => vec2 .vshr ty.toNat 0 false act (s.rv a) (s.rv b)) s

/-- VSRA (R220). -/
def execVsra (gu : Guard) (ty : BitVec 4) (d a b : VReg) (s : State) : Host.Outcome State Fault Refusal :=
  execVec gu ty [a, b] d (fun act s => vec2 .vsra ty.toNat 0 false act (s.rv a) (s.rv b)) s

/-- VPERM (R221). -/
def execVperm (gu : Guard) (ty : BitVec 4) (d a b : VReg) (s : State) : Host.Outcome State Fault Refusal :=
  execVec gu ty [a, b] d (fun act s => vec2 .vperm ty.toNat 0 false act (s.rv a) (s.rv b)) s

/-- VSPLAT (R221). -/
def execVsplat (gu : Guard) (ty : BitVec 4) (d : VReg) (a : Reg) (s : State) : Host.Outcome State Fault Refusal :=
  s.runs { vecUses gu ty [] [d] s with rs := [a.toNat] } (fun s =>
    .done (s.writeVec d (splat ty.toNat (s.active gu ty.toNat) (s.src a))))

/-- VSPLAT_LITERAL (R221). -/
def execVsplatLiteral (gu : Guard) (ty : BitVec 4) (d : VReg) (lit : BitVec 64) (s : State) : Host.Outcome State Fault Refusal :=
  s.runs { vecUses gu ty [] [d] s with len := xlenLit } (fun s =>
    .done (s.writeVec d (splat ty.toNat (s.active gu ty.toNat) lit)))

/-- VEXT (R222). -/
def execVext (gu : Guard) (ty : BitVec 4) (d : Reg) (a : VReg) (b : Reg) (s : State) : Host.Outcome State Fault Refusal :=
  s.runs { len := xlen, on := s.guard gu, rs := [b.toNat], ws := [d.toNat], vs := [a.toNat] } (fun s =>
    .done (s.dst d (extLane ty.toNat (s.srcV a) (s.src b))))

/-- VINS (R222). -/
def execVins (gu : Guard) (ty : BitVec 4) (d : VReg) (a b : Reg) (s : State) : Host.Outcome State Fault Refusal :=
  s.runs { len := xlen, on := s.guard gu, rs := [a.toNat, b.toNat], vs := [d.toNat], vw := [d.toNat] } (fun s =>
    let x := s.rv d
    .done (s.wv d (insLane ty.toNat x (s.src b) (s.src a))))

/-- VMOV (R221). -/
def execVmov (gu : Guard) (ty : BitVec 4) (d a : VReg) (s : State) : Host.Outcome State Fault Refusal :=
  execVec gu ty [a] d (fun act s => vec1 .vmov ty.toNat 0 false act (s.rv a)) s

/-! ## The pair (R53) -/

/-- What a pair declares: the scalar half by bit 0 of its predicate, the vector half by its lanes (R46). -/
def pairUses (gu : Guard) (sh : SHalf) (vh : VHalf) (s : State) : Uses :=
  let son := s.guard gu
  let von := s.vguard gu (vhalfTy vh)
  let dv := (vhalfDst vh).toList.map (fun r => r.toNat)
  { len := if sh.lit?.isSome then xlenLit else xlen, on := son || von,
    rs := if son then (halfSrcs sh).map (fun r => r.toNat) else [],
    ws := if son then (halfDst sh).gs else [],
    vs := if von then (vhalfSrcs vh).map (fun r => r.toNat) ++ dv else [],
    vw := if von then dv else [] }

/-- PAIR (R53): both halves read all their operands before either writes. -/
def execPair (gu : Guard) (sh : SHalf) (vh : VHalf) (s : State) : Host.Outcome State Fault Refusal :=
  s.runs (pairUses gu sh vh s) (fun s =>
    let son := s.guard gu
    let von := s.vguard gu (vhalfTy vh)
    let x := s.halfValue sh
    let y := s.vhalf (s.active gu (vhalfTy vh)) vh
    let s := if son then s.writeHalf (halfDst sh) x else s
    .done (if von then s.writeV y else s))

end Sys2Proof.Machine
end

