-- ==== Sys2Proof/Machine/Dispatch.lean ====
section
/-!
DEFINITION. One arm for each constructor of Instr: a direct call of its meaning.
-/

namespace Sys2Proof.Machine

open Sys2Proof

def exec (i : Instr) (s : State) : Host.Outcome State Fault Refusal :=
  match i with
  | .add d a b => Sys2Proof.Machine.execAdd d a b s
  | .sub d a b => Sys2Proof.Machine.execSub d a b s
  | .mul d a b => Sys2Proof.Machine.execMul d a b s
  | .mulh d a b => Sys2Proof.Machine.execMulh d a b s
  | .mulhw d a b => Sys2Proof.Machine.execMulhw d a b s
  | .and d a b => Sys2Proof.Machine.execAnd d a b s
  | .or d a b => Sys2Proof.Machine.execOr d a b s
  | .xor d a b => Sys2Proof.Machine.execXor d a b s
  | .andn d a b => Sys2Proof.Machine.execAndn d a b s
  | .orn d a b => Sys2Proof.Machine.execOrn d a b s
  | .shl d a b => Sys2Proof.Machine.execShl d a b s
  | .shr d a b => Sys2Proof.Machine.execShr d a b s
  | .sra d a b => Sys2Proof.Machine.execSra d a b s
  | .rot d a b => Sys2Proof.Machine.execRot d a b s
  | .min d a b => Sys2Proof.Machine.execMin d a b s
  | .max d a b => Sys2Proof.Machine.execMax d a b s
  | .minw d a b => Sys2Proof.Machine.execMinw d a b s
  | .maxw d a b => Sys2Proof.Machine.execMaxw d a b s
  | .clz d a => Sys2Proof.Machine.execClz d a s
  | .ctz d a => Sys2Proof.Machine.execCtz d a s
  | .popc d a => Sys2Proof.Machine.execPopc d a s
  | .brev d a => Sys2Proof.Machine.execBrev d a s
  | .bswp d a => Sys2Proof.Machine.execBswp d a s
  | .div d a b la => Sys2Proof.Machine.execDiv d a b la s
  | .divw d a b la => Sys2Proof.Machine.execDivw d a b la s
  | .rem d a b la => Sys2Proof.Machine.execRem d a b la s
  | .remw d a b la => Sys2Proof.Machine.execRemw d a b la s
  | .peq d a b => Sys2Proof.Machine.execPeq d a b s
  | .pne d a b => Sys2Proof.Machine.execPne d a b s
  | .plt d a b => Sys2Proof.Machine.execPlt d a b s
  | .ple d a b => Sys2Proof.Machine.execPle d a b s
  | .pltw d a b => Sys2Proof.Machine.execPltw d a b s
  | .plew d a b => Sys2Proof.Machine.execPlew d a b s
  | .pand d a b => Sys2Proof.Machine.execPand d a b s
  | .por d a b => Sys2Proof.Machine.execPor d a b s
  | .pxor d a b => Sys2Proof.Machine.execPxor d a b s
  | .pnot d a => Sys2Proof.Machine.execPnot d a s
  | .sel d a b p => Sys2Proof.Machine.execSel d a b p s
  | .nrand d a b => Sys2Proof.Machine.execNrand d a b s
  | .addi d a imm => Sys2Proof.Machine.execAddi d a imm s
  | .addiLiteral d a lit => Sys2Proof.Machine.execAddiLiteral d a lit s
  | .andi d a imm => Sys2Proof.Machine.execAndi d a imm s
  | .andiLiteral d a lit => Sys2Proof.Machine.execAndiLiteral d a lit s
  | .ori d a imm => Sys2Proof.Machine.execOri d a imm s
  | .oriLiteral d a lit => Sys2Proof.Machine.execOriLiteral d a lit s
  | .xori d a imm => Sys2Proof.Machine.execXori d a imm s
  | .xoriLiteral d a lit => Sys2Proof.Machine.execXoriLiteral d a lit s
  | .shli d a n => Sys2Proof.Machine.execShli d a n s
  | .shri d a n => Sys2Proof.Machine.execShri d a n s
  | .srai d a n => Sys2Proof.Machine.execSrai d a n s
  | .roti d a n => Sys2Proof.Machine.execRoti d a n s
  | .peqi d a imm => Sys2Proof.Machine.execPeqi d a imm s
  | .peqiLiteral d a lit => Sys2Proof.Machine.execPeqiLiteral d a lit s
  | .plti d a imm => Sys2Proof.Machine.execPlti d a imm s
  | .pltiLiteral d a lit => Sys2Proof.Machine.execPltiLiteral d a lit s
  | .bfx d a pos wm1 => Sys2Proof.Machine.execBfx d a pos wm1 s
  | .bfi d a pos wm1 => Sys2Proof.Machine.execBfi d a pos wm1 s
  | .exts d a wm1 => Sys2Proof.Machine.execExts d a wm1 s
  | .extz d a wm1 => Sys2Proof.Machine.execExtz d a wm1 s
  | .movl d imm => Sys2Proof.Machine.execMovl d imm s
  | .movlLiteral d lit => Sys2Proof.Machine.execMovlLiteral d lit s
  | .addpc d imm => Sys2Proof.Machine.execAddpc d imm s
  | .addpcLiteral d lit => Sys2Proof.Machine.execAddpcLiteral d lit s
  | .jalr d a imm => Sys2Proof.Machine.execJalr d a imm s
  | .jalrLiteral d a lit => Sys2Proof.Machine.execJalrLiteral d a lit s
  | .loop d imm => Sys2Proof.Machine.execLoop d imm s
  | .loopLiteral d lit => Sys2Proof.Machine.execLoopLiteral d lit s
  | .br gu disp => Sys2Proof.Machine.execBr gu disp s
  | .jal gu disp => Sys2Proof.Machine.execJal gu disp s
  | .ldb d a la rh off => Sys2Proof.Machine.execLdb d a la rh off s
  | .ldbLiteral d a la rh lit => Sys2Proof.Machine.execLdbLiteral d a la rh lit s
  | .ldbs d a la rh off => Sys2Proof.Machine.execLdbs d a la rh off s
  | .ldbsLiteral d a la rh lit => Sys2Proof.Machine.execLdbsLiteral d a la rh lit s
  | .ldh d a la rh off => Sys2Proof.Machine.execLdh d a la rh off s
  | .ldhLiteral d a la rh lit => Sys2Proof.Machine.execLdhLiteral d a la rh lit s
  | .ldhs d a la rh off => Sys2Proof.Machine.execLdhs d a la rh off s
  | .ldhsLiteral d a la rh lit => Sys2Proof.Machine.execLdhsLiteral d a la rh lit s
  | .ldw d a la rh off => Sys2Proof.Machine.execLdw d a la rh off s
  | .ldwLiteral d a la rh lit => Sys2Proof.Machine.execLdwLiteral d a la rh lit s
  | .ldws d a la rh off => Sys2Proof.Machine.execLdws d a la rh off s
  | .ldwsLiteral d a la rh lit => Sys2Proof.Machine.execLdwsLiteral d a la rh lit s
  | .ldd d a la rh off => Sys2Proof.Machine.execLdd d a la rh off s
  | .lddLiteral d a la rh lit => Sys2Proof.Machine.execLddLiteral d a la rh lit s
  | .stb d a rh off => Sys2Proof.Machine.execStb d a rh off s
  | .stbLiteral d a rh lit => Sys2Proof.Machine.execStbLiteral d a rh lit s
  | .sth d a rh off => Sys2Proof.Machine.execSth d a rh off s
  | .sthLiteral d a rh lit => Sys2Proof.Machine.execSthLiteral d a rh lit s
  | .stw d a rh off => Sys2Proof.Machine.execStw d a rh off s
  | .stwLiteral d a rh lit => Sys2Proof.Machine.execStwLiteral d a rh lit s
  | .std d a rh off => Sys2Proof.Machine.execStd d a rh off s
  | .stdLiteral d a rh lit => Sys2Proof.Machine.execStdLiteral d a rh lit s
  | .pref a rh off => Sys2Proof.Machine.execPref a rh off s
  | .prefLiteral a rh lit => Sys2Proof.Machine.execPrefLiteral a rh lit s
  | .evict a rh off => Sys2Proof.Machine.execEvict a rh off s
  | .evictLiteral a rh lit => Sys2Proof.Machine.execEvictLiteral a rh lit s
  | .trap imm => Sys2Proof.Machine.execTrap imm s
  | .gets a num => Sys2Proof.Machine.execGets a num s
  | .sets a num => Sys2Proof.Machine.execSets a num s
  | .tlbinvPage a scope => Sys2Proof.Machine.execTlbinvPage a scope s
  | .tlbinvAsid a scope => Sys2Proof.Machine.execTlbinvAsid a scope s
  | .tlbinvAll a scope => Sys2Proof.Machine.execTlbinvAll a scope s
  | .tlbinvPin a scope => Sys2Proof.Machine.execTlbinvPin a scope s
  | .bkpt imm => Sys2Proof.Machine.execBkpt imm s
  | .pair gu sh vh => Sys2Proof.Machine.execPair gu sh vh s
  | .vadd gu ty rm sat d a b => Sys2Proof.Machine.execVadd gu ty rm sat d a b s
  | .vsub gu ty rm sat d a b => Sys2Proof.Machine.execVsub gu ty rm sat d a b s
  | .vmul gu ty rm sat d a b => Sys2Proof.Machine.execVmul gu ty rm sat d a b s
  | .vfma gu ty rm sat d a b c => Sys2Proof.Machine.execVfma gu ty rm sat d a b c s
  | .vfms gu ty rm sat d a b c => Sys2Proof.Machine.execVfms gu ty rm sat d a b c s
  | .vfnma gu ty rm sat d a b c => Sys2Proof.Machine.execVfnma gu ty rm sat d a b c s
  | .vdiv gu la ty rm sat d a b => Sys2Proof.Machine.execVdiv gu la ty rm sat d a b s
  | .vsqrt gu la ty rm d a => Sys2Proof.Machine.execVsqrt gu la ty rm d a s
  | .vrsq gu la ty rm d a => Sys2Proof.Machine.execVrsq gu la ty rm d a s
  | .vmin gu ty d a b => Sys2Proof.Machine.execVmin gu ty d a b s
  | .vmax gu ty d a b => Sys2Proof.Machine.execVmax gu ty d a b s
  | .vabs gu ty sat d a => Sys2Proof.Machine.execVabs gu ty sat d a s
  | .vneg gu ty sat d a => Sys2Proof.Machine.execVneg gu ty sat d a s
  | .vclamp gu ty d a b c => Sys2Proof.Machine.execVclamp gu ty d a b c s
  | .vcmp gu ty rel d a b => Sys2Proof.Machine.execVcmp gu ty rel d a b s
  | .vsel gu ty d a b p => Sys2Proof.Machine.execVsel gu ty d a b p s
  | .vcvt gu ty src rm sat d a c part => Sys2Proof.Machine.execVcvt gu ty src rm sat d a c part s
  | .vcvtLiteral gu ty src rm sat d a c lit => Sys2Proof.Machine.execVcvtLiteral gu ty src rm sat d a c lit s
  | .vscale gu ty src d a part => Sys2Proof.Machine.execVscale gu ty src d a part s
  | .vscaleLiteral gu ty src d a lit => Sys2Proof.Machine.execVscaleLiteral gu ty src d a lit s
  | .vrsum gu ty sat d a => Sys2Proof.Machine.execVrsum gu ty sat d a s
  | .vrmin gu ty d a => Sys2Proof.Machine.execVrmin gu ty d a s
  | .vrmax gu ty d a => Sys2Proof.Machine.execVrmax gu ty d a s
  | .vdot gu ty d a b => Sys2Proof.Machine.execVdot gu ty d a b s
  | .viadd gu ty sat d a b => Sys2Proof.Machine.execViadd gu ty sat d a b s
  | .visub gu ty sat d a b => Sys2Proof.Machine.execVisub gu ty sat d a b s
  | .vimul gu ty sat d a b => Sys2Proof.Machine.execVimul gu ty sat d a b s
  | .vimad gu ty sat d a b c => Sys2Proof.Machine.execVimad gu ty sat d a b c s
  | .vand gu ty d a b => Sys2Proof.Machine.execVand gu ty d a b s
  | .vor gu ty d a b => Sys2Proof.Machine.execVor gu ty d a b s
  | .vxor gu ty d a b => Sys2Proof.Machine.execVxor gu ty d a b s
  | .vshl gu ty d a b => Sys2Proof.Machine.execVshl gu ty d a b s
  | .vshr gu ty d a b => Sys2Proof.Machine.execVshr gu ty d a b s
  | .vsra gu ty d a b => Sys2Proof.Machine.execVsra gu ty d a b s
  | .vsplat gu ty d a => Sys2Proof.Machine.execVsplat gu ty d a s
  | .vsplatLiteral gu ty d lit => Sys2Proof.Machine.execVsplatLiteral gu ty d lit s
  | .vperm gu ty d a b => Sys2Proof.Machine.execVperm gu ty d a b s
  | .vext gu ty d a b => Sys2Proof.Machine.execVext gu ty d a b s
  | .vins gu ty d a b => Sys2Proof.Machine.execVins gu ty d a b s
  | .vmov gu ty d a => Sys2Proof.Machine.execVmov gu ty d a s
  | .vld gu la ty rh d a imm => Sys2Proof.Machine.execVld gu la ty rh d a imm s
  | .vldLiteral gu la ty rh d a lit => Sys2Proof.Machine.execVldLiteral gu la ty rh d a lit s
  | .vst gu ty rh d a imm => Sys2Proof.Machine.execVst gu ty rh d a imm s
  | .vstLiteral gu ty rh d a lit => Sys2Proof.Machine.execVstLiteral gu ty rh d a lit s
  | .vlds gu la ty rh d a b imm => Sys2Proof.Machine.execVlds gu la ty rh d a b imm s
  | .vldsLiteral gu la ty rh d a b lit => Sys2Proof.Machine.execVldsLiteral gu la ty rh d a b lit s
  | .vsts gu ty rh d a b imm => Sys2Proof.Machine.execVsts gu ty rh d a b imm s
  | .vstsLiteral gu ty rh d a b lit => Sys2Proof.Machine.execVstsLiteral gu ty rh d a b lit s
  | .vgath gu la ty rh d a b imm => Sys2Proof.Machine.execVgath gu la ty rh d a b imm s
  | .vgathLiteral gu la ty rh d a b lit => Sys2Proof.Machine.execVgathLiteral gu la ty rh d a b lit s
  | .vscat gu ty rh d a b imm => Sys2Proof.Machine.execVscat gu ty rh d a b imm s
  | .vscatLiteral gu ty rh d a b lit => Sys2Proof.Machine.execVscatLiteral gu ty rh d a b lit s
  | .tcfg gu ty t rows rb => Sys2Proof.Machine.execTcfg gu ty t rows rb s
  | .tld gu la rh d gs a b scale t bm => Sys2Proof.Machine.execTld gu la rh d gs a b scale t bm s
  | .tst gu la rh d gs a b scale t => Sys2Proof.Machine.execTst gu la rh d gs a b scale t s
  | .tzero gu t => Sys2Proof.Machine.execTzero gu t s
  | .mma gu la ty sat z d gs ta tb abase => Sys2Proof.Machine.execMma gu la ty sat z d gs ta tb abase s
  | .mmac gu la ty sat z d gs ta tb abase => Sys2Proof.Machine.execMmac gu la ty sat z d gs ta tb abase s
  | .mpoll gu d a => Sys2Proof.Machine.execMpoll gu d a s
  | .mwait gu d a => Sys2Proof.Machine.execMwait gu d a s
  | .amov gu t toa abase => Sys2Proof.Machine.execAmov gu t toa abase s
  | .amovt gu t abase => Sys2Proof.Machine.execAmovt gu t abase s
  | .azero gu a abase => Sys2Proof.Machine.execAzero gu a abase s
  | .afin gu ty acc rm sat t abase => Sys2Proof.Machine.execAfin gu ty acc rm sat t abase s
  | .msave gu la d a => Sys2Proof.Machine.execMsave gu la d a s
  | .mrest gu la d a => Sys2Proof.Machine.execMrest gu la d a s
  | .cpset gu idx a => Sys2Proof.Machine.execCpset gu idx a s
  | .cpget gu d idx => Sys2Proof.Machine.execCpget gu d idx s
  | .cpgo gu la d gs => Sys2Proof.Machine.execCpgo gu la d gs s
  | .cpcan gu d a => Sys2Proof.Machine.execCpcan gu d a s
  | .sealr gu la d a => Sys2Proof.Machine.execSealr gu la d a s
  | .mfill gu la rh d a b c count => Sys2Proof.Machine.execMfill gu la rh d a b c count s
  | .nmcmd gu la d a => Sys2Proof.Machine.execNmcmd gu la d a s
  | .nmask gu d a b thr => Sys2Proof.Machine.execNmask gu d a b thr s
  | .amoadd gu la ty sat rh d a b imm => Sys2Proof.Machine.execAmoadd gu la ty sat rh d a b imm s
  | .amoaddLiteral gu la ty sat rh d a b lit => Sys2Proof.Machine.execAmoaddLiteral gu la ty sat rh d a b lit s
  | .amomin gu la ty rh d a b imm => Sys2Proof.Machine.execAmomin gu la ty rh d a b imm s
  | .amominLiteral gu la ty rh d a b lit => Sys2Proof.Machine.execAmominLiteral gu la ty rh d a b lit s
  | .amomax gu la ty rh d a b imm => Sys2Proof.Machine.execAmomax gu la ty rh d a b imm s
  | .amomaxLiteral gu la ty rh d a b lit => Sys2Proof.Machine.execAmomaxLiteral gu la ty rh d a b lit s
  | .amoand gu la ty rh d a b imm => Sys2Proof.Machine.execAmoand gu la ty rh d a b imm s
  | .amoandLiteral gu la ty rh d a b lit => Sys2Proof.Machine.execAmoandLiteral gu la ty rh d a b lit s
  | .amoor gu la ty rh d a b imm => Sys2Proof.Machine.execAmoor gu la ty rh d a b imm s
  | .amoorLiteral gu la ty rh d a b lit => Sys2Proof.Machine.execAmoorLiteral gu la ty rh d a b lit s
  | .amoxor gu la ty rh d a b imm => Sys2Proof.Machine.execAmoxor gu la ty rh d a b imm s
  | .amoxorLiteral gu la ty rh d a b lit => Sys2Proof.Machine.execAmoxorLiteral gu la ty rh d a b lit s
  | .amoswp gu la ty rh d a b imm => Sys2Proof.Machine.execAmoswp gu la ty rh d a b imm s
  | .amoswpLiteral gu la ty rh d a b lit => Sys2Proof.Machine.execAmoswpLiteral gu la ty rh d a b lit s
  | .amocas gu la ty rh d a b c imm => Sys2Proof.Machine.execAmocas gu la ty rh d a b c imm s
  | .amocasLiteral gu la ty rh d a b c lit => Sys2Proof.Machine.execAmocasLiteral gu la ty rh d a b c lit s
  | .rdadd gu ty rh a b imm => Sys2Proof.Machine.execRdadd gu ty rh a b imm s
  | .rdaddLiteral gu ty rh a b lit => Sys2Proof.Machine.execRdaddLiteral gu ty rh a b lit s
  | .rdmin gu ty rh a b imm => Sys2Proof.Machine.execRdmin gu ty rh a b imm s
  | .rdminLiteral gu ty rh a b lit => Sys2Proof.Machine.execRdminLiteral gu ty rh a b lit s
  | .rdmax gu ty rh a b imm => Sys2Proof.Machine.execRdmax gu ty rh a b imm s
  | .rdmaxLiteral gu ty rh a b lit => Sys2Proof.Machine.execRdmaxLiteral gu ty rh a b lit s
  | .xadd gu ty rh a b imm => Sys2Proof.Machine.execXadd gu ty rh a b imm s
  | .xaddLiteral gu ty rh a b lit => Sys2Proof.Machine.execXaddLiteral gu ty rh a b lit s
  | .xrnd gu la ty rm sat rh d a x64 clr imm => Sys2Proof.Machine.execXrnd gu la ty rm sat rh d a x64 clr imm s
  | .xrndLiteral gu la ty rm sat rh d a x64 clr lit => Sys2Proof.Machine.execXrndLiteral gu la ty rm sat rh d a x64 clr lit s
  | .pbinit gu la d a b c => Sys2Proof.Machine.execPbinit gu la d a b c s
  | .pbarr gu la d a => Sys2Proof.Machine.execPbarr gu la d a s
  | .pbexp gu a b => Sys2Proof.Machine.execPbexp gu a b s
  | .pbwait gu d a b => Sys2Proof.Machine.execPbwait gu d a b s
  | .waita gu la d a b imm => Sys2Proof.Machine.execWaita gu la d a b imm s
  | .waitaLiteral gu la d a b lit => Sys2Proof.Machine.execWaitaLiteral gu la d a b lit s
  | .ctarm gu la kind d a b c => Sys2Proof.Machine.execCtarm gu la kind d a b c s
  | .ctinc gu la d a b => Sys2Proof.Machine.execCtinc gu la d a b s
  | .fence gu d scope kind => Sys2Proof.Machine.execFence gu d scope kind s
  | .fenceInst gu d scope => Sys2Proof.Machine.execFenceInst gu d scope s
  | .spawn gu d a b => Sys2Proof.Machine.execSpawn gu d a b s
  | .send gu la h d a b => Sys2Proof.Machine.execSend gu la h d a b s
  | .tend gu => Sys2Proof.Machine.execTend gu s
  | .cont gu la d a b => Sys2Proof.Machine.execCont gu la d a b s
  | .jdec gu la d a => Sys2Proof.Machine.execJdec gu la d a s
  | .join gu la d a => Sys2Proof.Machine.execJoin gu la d a s
  | .leave gu la d a => Sys2Proof.Machine.execLeave gu la d a s
  | .maskh gu => Sys2Proof.Machine.execMaskh gu s
  | .unmaskh gu => Sys2Proof.Machine.execUnmaskh gu s
  | .step gu d => Sys2Proof.Machine.execStep gu d s
  | .stepq gu d => Sys2Proof.Machine.execStepq gu d s
  | .rget gu la ty d a dx dy off => Sys2Proof.Machine.execRget gu la ty d a dx dy off s
  | .rgetv gu la d a dx dy off => Sys2Proof.Machine.execRgetv gu la d a dx dy off s
  | .hallq gu la d a => Sys2Proof.Machine.execHallq gu la d a s
  | .sring gu d a b q => Sys2Proof.Machine.execSring gu d a b q s
  | .sbindCons gu d b q => Sys2Proof.Machine.execSbindCons gu d b q s
  | .sbindProd gu d b q k => Sys2Proof.Machine.execSbindProd gu d b q k s
  | .sgain gu d b q => Sys2Proof.Machine.execSgain gu d b q s
  | .sstat gu d q wsel => Sys2Proof.Machine.execSstat gu d q wsel s
  | .sunbind gu d q => Sys2Proof.Machine.execSunbind gu d q s
  | .dlaunch gu la d a b => Sys2Proof.Machine.execDlaunch gu la d a b s
  | .coll gu la d a => Sys2Proof.Machine.execColl gu la d a s
  | .rlinv gu d a => Sys2Proof.Machine.execRlinv gu d a s
  | .ksend m c => Sys2Proof.Machine.execKsend m c s
  | .krecv m c => Sys2Proof.Machine.execKrecv m c s
  | .kred m c => Sys2Proof.Machine.execKred m c s
  | .kcopy m c => Sys2Proof.Machine.execKcopy m c s
  | .kwait m tag all => Sys2Proof.Machine.execKwait m tag all s
  | .ksig m peer prel tag val => Sys2Proof.Machine.execKsig m peer prel tag val s
  | .kloop m count disp => Sys2Proof.Machine.execKloop m count disp s
  | .kend m => Sys2Proof.Machine.execKend m s
  | .nop => Sys2Proof.Machine.execNop s
  | .eret => Sys2Proof.Machine.execEret s
  | .wfe => Sys2Proof.Machine.execWfe s
  | .matrixJobStart bay => Sys2Proof.Machine.execMatrixJobStart bay s
  | .tileRowMove bay job => Sys2Proof.Machine.execTileRowMove bay job s
  | .matrixJobComplete bay job => Sys2Proof.Machine.execMatrixJobComplete bay job s
  | .copyStart bay => Sys2Proof.Machine.execCopyStart bay s
  | .shapeRecordFetch bay copy => Sys2Proof.Machine.execShapeRecordFetch bay copy s
  | .copyScout bay copy => Sys2Proof.Machine.execCopyScout bay copy s
  | .moveElement bay copy ahead => Sys2Proof.Machine.execMoveElement bay copy ahead s
  | .copyComplete bay copy => Sys2Proof.Machine.execCopyComplete bay copy s
  | .mfillLine fill => Sys2Proof.Machine.execMfillLine fill s
  | .nmuLock cmd slice => Sys2Proof.Machine.execNmuLock cmd slice s
  | .nmuAccept cmd => Sys2Proof.Machine.execNmuAccept cmd s
  | .nmuExecute stack => Sys2Proof.Machine.execNmuExecute stack s
  | .nmuLine stack => Sys2Proof.Machine.execNmuLine stack s
  | .barrierUpdate core off n => Sys2Proof.Machine.execBarrierUpdate core off n s
  | .waitaWake core pend => Sys2Proof.Machine.execWaitaWake core pend s
  | .recordPush msg => Sys2Proof.Machine.execRecordPush msg s
  | .recordPark msg => Sys2Proof.Machine.execRecordPark msg s
  | .vestibuleRelease tile => Sys2Proof.Machine.execVestibuleRelease tile s
  | .taskPop core => Sys2Proof.Machine.execTaskPop core s
  | .handlerStart core => Sys2Proof.Machine.execHandlerStart core s
  | .stepSignal tile dir => Sys2Proof.Machine.execStepSignal tile dir s
  | .stepEntry tile => Sys2Proof.Machine.execStepEntry tile s
  | .stall tile => Sys2Proof.Machine.execStall tile s
  | .streamAppend core q => Sys2Proof.Machine.execStreamAppend core q s
  | .streamCredit core q => Sys2Proof.Machine.execStreamCredit core q s
  | .streamSample core q => Sys2Proof.Machine.execStreamSample core q s
  | .weightMessage core q => Sys2Proof.Machine.execWeightMessage core q s
  | .scheduleDecode m => Sys2Proof.Machine.execScheduleDecode m s
  | .chunkComplete m k => Sys2Proof.Machine.execChunkComplete m k s
  | .dlv pkt => Sys2Proof.Machine.execDlv pkt s
  | .open_ pkt => Sys2Proof.Machine.execOpen pkt s
  | .go pkt => Sys2Proof.Machine.execGo pkt s
  | .cup pkt => Sys2Proof.Machine.execCup pkt s
  | .cdn pkt => Sys2Proof.Machine.execCdn pkt s
  | .abt pkt => Sys2Proof.Machine.execAbt pkt s
  | .sig pkt => Sys2Proof.Machine.execSig pkt s
  | .collectiveTimeout m => Sys2Proof.Machine.execCollectiveTimeout m s
  | .packetTransit pkt => Sys2Proof.Machine.execPacketTransit pkt s
  | .sliceRead req into => Sys2Proof.Machine.execSliceRead req into s
  | .sliceWrite req => Sys2Proof.Machine.execSliceWrite req s
  | .sliceAtomic req => Sys2Proof.Machine.execSliceAtomic req s
  | .sliceEvict req => Sys2Proof.Machine.execSliceEvict req s
  | .sliceFill req => Sys2Proof.Machine.execSliceFill req s
  | .readResponse req => Sys2Proof.Machine.execReadResponse req s
  | .storeAck req => Sys2Proof.Machine.execStoreAck req s
  | .witnessExpire core slice => Sys2Proof.Machine.execWitnessExpire core slice s
  | .resultWriteback core pend => Sys2Proof.Machine.execResultWriteback core pend s
  | .serviceOverflowDrain tile core => Sys2Proof.Machine.execServiceOverflowDrain tile core s
  | .rcmdRetry tidx rva => Sys2Proof.Machine.execRcmdRetry tidx rva s
  | .rcmdAbort tidx rva => Sys2Proof.Machine.execRcmdAbort tidx rva s
  | .wfeWake core => Sys2Proof.Machine.execWfeWake core s
  | .channelEnable who ch val => Sys2Proof.Machine.execChannelEnable who ch val s
  | .channelDisable who ch val => Sys2Proof.Machine.execChannelDisable who ch val s
  | .tailWrite who ch val => Sys2Proof.Machine.execTailWrite who ch val s
  | .hallAllocate => Sys2Proof.Machine.execHallAllocate s
  | .launchStart ch => Sys2Proof.Machine.execLaunchStart ch s
  | .launchEnd hall => Sys2Proof.Machine.execLaunchEnd hall s
  | .collEntryStart ch => Sys2Proof.Machine.execCollEntryStart ch s
  | .waitwStart ch => Sys2Proof.Machine.execWaitwStart ch s
  | .waitwRecheck ch idx => Sys2Proof.Machine.execWaitwRecheck ch idx s
  | .signalStart ch => Sys2Proof.Machine.execSignalStart ch s
  | .signalComplete ch idx => Sys2Proof.Machine.execSignalComplete ch idx s
  | .cancel val => Sys2Proof.Machine.execCancel val s
  | .occupancySample hall => Sys2Proof.Machine.execOccupancySample hall s
  | .energyTick hall reading => Sys2Proof.Machine.execEnergyTick hall reading s
  | .precmdSave val => Sys2Proof.Machine.execPrecmdSave val s
  | .saveDone => Sys2Proof.Machine.execSaveDone s
  | .precmdRestore val => Sys2Proof.Machine.execPrecmdRestore val s
  | .restoreDone => Sys2Proof.Machine.execRestoreDone s
  | .fwinEnable who win val => Sys2Proof.Machine.execFwinEnable who win val s
  | .fwinDisable who win val => Sys2Proof.Machine.execFwinDisable who win val s
  | .fwinDisableDone win => Sys2Proof.Machine.execFwinDisableDone win s
  | .hbmerrClear stack val => Sys2Proof.Machine.execHbmerrClear stack val s
  | .patrolScrub line => Sys2Proof.Machine.execPatrolScrub line s
  | .logClear who die val => Sys2Proof.Machine.execLogClear who die val s
  | .errcntClear link val => Sys2Proof.Machine.execErrcntClear link val s
  | .registerWrite who off val => Sys2Proof.Machine.execRegisterWrite who off val s
  | .hostAccess h => Sys2Proof.Machine.execHostAccess h s
  | .attcmd val => Sys2Proof.Machine.execAttcmd val s
  | .attestDone => Sys2Proof.Machine.execAttestDone s
  | .flitReceive link dir crcOk => Sys2Proof.Machine.execFlitReceive link dir crcOk s
  | .retrainDone link => Sys2Proof.Machine.execRetrainDone link s
  | .retrainTimeout link => Sys2Proof.Machine.execRetrainTimeout link s
  | .harpinFrame port crcOk hdr payload => Sys2Proof.Machine.execHarpinFrame port crcOk hdr payload s
  | .portUp port => Sys2Proof.Machine.execPortUp port s
  | .reset => Sys2Proof.Machine.execReset s
  | .firmwareVerify code svn => Sys2Proof.Machine.execFirmwareVerify code svn s
  | .hbmTraining => Sys2Proof.Machine.execHbmTraining s
  | .selfTest withheld unitOk => Sys2Proof.Machine.execSelfTest withheld unitOk s
  | .ilupolTraining up0 up1 => Sys2Proof.Machine.execIlupolTraining up0 up1 s
  | .pcieLinkUp recovery => Sys2Proof.Machine.execPcieLinkUp recovery s
  | .harpinTraining up pkg routes => Sys2Proof.Machine.execHarpinTraining up pkg routes s
  | .ready => Sys2Proof.Machine.execReady s
  | .wearUpdate mon hours conf => Sys2Proof.Machine.execWearUpdate mon hours conf s
  | .illegalEncoding word0 => Sys2Proof.Machine.execIllegalEncoding word0 s
  | .fetchFault addr why => Sys2Proof.Machine.execFetchFault addr why s
  | .coreApertureAccess req => Sys2Proof.Machine.execCoreApertureAccess req s
  | .galleryRead msg => Sys2Proof.Machine.execGalleryRead msg s
  | .pcieCompletion req => Sys2Proof.Machine.execPcieCompletion req s
  | .laneLockLoss link => Sys2Proof.Machine.execLaneLockLoss link s

end Sys2Proof.Machine
end

