-- ==== Sys2Proof/Machine/Act.lean ====
section
/-!
DEFINITION. What one step of the machine does: a core fetches, decodes and issues; the FES serves a member; one of
the part's own whole steps happens; a cycle ends; or the world outside acts.
-/

namespace Sys2Proof.Machine

open Sys2Proof

/-! ## A core issues -/

/-- The state in which a core executes the instruction whose words are given, at its running level. -/
def State.loadIr (s : State) (ck : Nat) (ws : List (BitVec 32)) : State :=
  ({ s with cur := ck } : State).updMe (fun c => let t := c.thr c.level; c.setThr c.level { t with ir := ws })

/-- The instruction that words stand for (R38, R61). -/
def decodeWords (ws : List (BitVec 32)) : Option Instr :=
  decode (ws.getD 0 0) (ws.getD 1 0) (ws.getD 2 0) (ws.getD 3 0) (ws.getD 4 0)

/-- Run the instruction whose words are given, at the running level of a core; words that no encoding matches trap
ILLEGAL (R61). -/
def State.runWords (s : State) (ck : Nat) (ws : List (BitVec 32)) : Out :=
  let s := s.loadIr ck ws
  match decodeWords ws with
  | some i => exec i s
  | none => execIllegalEncoding (ws.getD 0 0) s

/-- A core fetches and runs the instruction at its pc (R402, R436). -/
def State.fetchAndRun (s : State) (ck : Nat) : Out :=
  let c := s.core ck
  match s.fetchInstr ck (c.thr c.level).pc with
  | .words ws t => t.runWords ck ws
  | .fail va why t => execFetchFault va why { t with cur := ck }
  | .stall => .next s

/-- A core tries to issue the next instruction of its running level: it fetches it, or, where one stalls at issue or has issued
and waits, tries that one again (R50, R183, R331). -/
def State.issueCore (s : State) (ck : Nat) : Out :=
  let c := s.core ck
  let t := c.thr c.level
  if c.stopped then .next s
  else
    match t.hold with
    | .ready => if c.mayIssue then s.fetchAndRun ck else .next s
    | .stalled => if c.mayIssue then s.runWords ck t.ir else .next s
    | .issued => s.runWords ck t.ir
    | .step _ => s.runWords ck t.ir
    | .share _ => s.runWords ck t.ir
    | .answered _ => s.runWords ck t.ir
    | _ => .next s

/-! ## A cycle ends -/

/-- A stream's period counter: it stands still at no sample, and runs on while the stream retrains (R334, R339). -/
def QReg.tick (y : QReg) : QReg :=
  if y.prod || !y.st.live then y
  else { y with count := if y.per ≤ y.count then 1 else y.count + 1 }

/-- A core at the start of the next cycle: it may issue again, its weight is what its streams ask for, and the bucket
takes the weight (R185, R186); while its hall runs, the period counters of its streams go on (R347). -/
def Core.tick (runs : Bool) (c : Core) : Core :=
  { c with issuedNow := false, w := c.weightNow, b := min (c.b + c.weightNow) 511,
           q := if runs then c.q.map (fun (e : Nat × QReg) => (e.1, e.2.tick)) else c.q }

/-- Is a sample of some stream due in this cycle (R334, R347)? -/
def State.sampleDue (s : State) : Bool :=
  s.cores.any (fun (e : Nat × Core) => s.hallRuns e.1 && e.2.q.any (fun (x : Nat × QReg) => x.2.due))

/-- A tile counts the cycles for which it has been self-held (R318). -/
def State.tickTile (s : State) (e : Nat × Tile) : Nat × Tile :=
  if e.2.hall.isSome && (s.stepCond e.1).selfHeld then (e.1, { e.2 with wd := e.2.wd + 1 }) else e

/-- What the part does at the end of a cycle, when everything else of the cycle has been done: the samples of streams, of
occupancy and of energy, the entry of steps and the watchdog's messages, the end of launches, and the choice among those that
wait (R310, R318, R334, R358, R361, R364, R365). -/
def atEnd : Instr → Bool
  | .streamSample _ _ => true
  | .occupancySample _ => true
  | .energyTick _ _ => true
  | .stepEntry _ => true
  | .stall _ => true
  | .hallAllocate => true
  | .launchEnd _ => true
  | _ => false

/-- A tile has something to do at the end of the cycle: it enters a step, or posts STALL (R311, R318). -/
def State.tileDue (s : State) (t : Nat) : Bool :=
  match s.hallOf t with
  | none => false
  | some h => (h.stop == .none && s.mayEnter t) || s.stallDue h t

/-- Something that belongs to the end of this cycle has not been done. -/
def State.endDue (s : State) : Bool :=
  s.sampleDue || s.allocDue || s.fes.halls.any (fun h => s.occupancyDue h || s.energyDue h || (s.launchEnd? h).isSome) ||
    s.tiles.any (fun e => s.tileDue e.1)

/-- A cycle comes to its end: stalls that stand and tiles that are held are counted (R318, R331). -/
def State.closeCycle (s : State) : State :=
  let s := s.cores.foldl (fun s e => s.countStall e.1) s
  { s with tiles := s.tiles.map s.tickTile, closing := true }

/-- The next cycle begins. -/
def State.openCycle (s : State) : State :=
  { s with cycle := s.cycle + 1, closing := false,
           cores := s.cores.map (fun (e : Nat × Core) => (e.1, e.2.tick (s.hallRuns e.1))),
           fes := { s.fes with chans := s.fes.chans.map (fun (e : Nat × Chan) => (e.1, e.2.tick)) } }

/-- One arithmetic cycle ends: first it comes to its end, and then, once all that belongs there has been done, the next begins.
DEDUCED (log entry 32). -/
def State.tick (s : State) : State := if !s.closing then s.closeCycle else if s.endDue then s else s.openCycle

/-! ## The world outside -/

/-- A soft error: bits of a sector of HBM differ from what was stored (R97). -/
def State.softError (s : State) (sector : Nat) (pattern : BitVec 256) : State :=
  if hbmTop ≤ sector * 32 then s
  else
    s.updMem (fun m => { m with errs := (List.range 32).foldl (fun (e : SMap Byte) i =>
      let a := sector * 32 + i
      e.set 0 a (e.get 0 a ^^^ BitVec.ofNat 8 (pattern.toNat / 256 ^ i))) m.errs })

/-- An error in 8 bytes of a landing; the code corrects a correctable one (R314). -/
def State.landingError (s : State) (addr8 : Nat) (correctable : Bool) : State :=
  if correctable || s.mem.landErr.contains addr8 then s
  else s.updMem (fun m => { m with landErr := addr8 :: m.landErr })

/-- The oldest message that waits in a tile is posted to the service core of its hall, when there is room (R415). -/
def State.repost (s : State) (tile : Nat) : State :=
  match s.hallOf tile, (s.tile tile).unposted with
  | some h, r :: rs =>
    match s.postHandler h.service (if r.crec.tidx = 0 then h.tileSender tile else h.senderOf r.crec.tidx.toNat) r with
    | some t => t.updTile tile (fun x => { x with unposted := rs })
    | none => s
  | _, _ => s

/-- A management core answers the oldest message of a service core with ABORT, which cancels the hall, and posts a
message to the host (R405, R428). -/
def State.mgmtAnswer (s : State) : State :=
  match s.sys.mgmt with
  | [] => s
  | (ck, _) :: rest =>
    ((s.updSys (fun y => { y with mgmt := rest })).cancelHall (s.hallOfCore ck).id).msix 16

/-- An input (R97, R314, R362, R415, R420, R436). DESIGN CHOICE (log entry 6). -/
def State.env (s : State) (e : Env) : State :=
  match e with
  | .softError sector pattern => s.softError sector pattern
  | .landingError a c => s.landingError a c
  | .hostWrite bus b => if bus < hostBase then s.updMem (fun m => { m with host := m.host.set 0 bus b }) else s
  | .icacheEvict bay line => s.updBay bay (fun b => { b with icache := b.icache.filter (fun e => e.1 != line) })
  | .repost core => ((s.repost (tileOf core)).repostThread core false).repostThread core true
  | .stopCore core => s.stopCore core
  | .trapEntry core => (s.takeTrap core false).takeTrap core true
  | .mgmtAnswer => s.mgmtAnswer
  | .function1 on => s.updSys (fun y => { y with function1 := on })

/-! ## One act -/

/-- One act. An event whose condition does not hold leaves the state as it is; while a cycle comes to its end, only what
belongs there happens. DESIGN CHOICE (log entry 1). DEDUCED (log entry 7). -/
def State.act (s : State) (a : Act) : Out :=
  match a with
  | .issue ck => if s.closing then .next s else s.issueCore ck
  | .chunk m => if s.closing then .next s else s.serveMember m
  | .event i => if i.unit = .event ∧ atEnd i = s.closing then exec i s else .next s
  | .tick => .next s.tick
  | .env e => .next (if s.closing then s else s.env e)

end Sys2Proof.Machine
end

