-- ==== Sys2Proof/Machine/Step.lean ====
section
/-!
DEFINITION. One step: the next act of the agenda, or, when the agenda is empty, an act that nothing
constrains.
-/

namespace Sys2Proof.Machine

open Sys2Proof

/-- One step of the machine. -/
def step (s : State) : Host.Outcome State Fault Refusal :=
  match s.agenda with
  | [] => State.act { s with stepNo := s.stepNo + 1 } (Config.nextAct s.stepNo)
  | a :: rest => State.act { s with agenda := rest, stepNo := s.stepNo + 1 } a

/-- Where withFetchWord puts the instruction: address 0x4_0000_0000 of the global window, mapped to itself. -/
def fetchBase : Nat := 0x400000000

/-- The state with an instruction of `nbits` bits `w` where the next step fetches it: in a hall of one tile,
at core 0, level 0, ready to issue, with the fetch page mapped. DEDUCED (log entry 5). -/
def State.withFetchWord (s : State) (nbits w : Nat) : State :=
  let v := w % 2 ^ nbits
  let h : Hall := { id := 0, w := 1, h := 1 }
  let c := s.core 0
  let c := { c with level := false, stopped := false, issuedNow := false, b := 256, handlers := [],
                    lv0 := { c.lv0 with pc := word fetchBase, hold := .ready, rest := [] } }
  let e : TlbEnt := { vpage := fetchBase / 65536, size := 16, pa := fetchBase, x := true, w := true }
  { s with
    agenda := [.issue 0]
    closing := false
    cores := s.cores.put 0 c
    tiles := s.tiles.put 0 { s.tile 0 with hall := some 0 }
    bays := s.bays.put 0 { s.bay 0 with ift := [e], vlt := [e], icache := [] }
    mem := { s.mem with hbm := writeBytes s.mem.hbm fetchBase 20 v }
    fes := { s.fes with halls := h :: s.fes.halls.filter (fun x => x.id != 0) } }

end Sys2Proof.Machine
end

