-- ==== Sys2Proof/Safety.lean ====
section
/-!
DEFINITION. The words that claims about the machine are made in: what a safe run is, when a core can issue an
instruction, what an instruction leaves as it was, and the canonical form of memory.
-/

namespace Sys2Proof

open Sys2Proof.Machine

/-- A step from the state answers a next state. -/
def StepsSafely (s : State) : Prop := ∃ t, step s = .next t

/-- The first `n` steps from a state answer next states. -/
def SafeRun : Nat → State → Prop
  | 0, _ => True
  | n + 1, s => ∃ t, step s = .next t ∧ SafeRun n t

/-! ## Issuing -/

/-- The executing core can issue an instruction that declares `u`: its thread is ready, with nothing of an earlier instruction left
to do, its guard lets it execute, and
no rule of R62 stands before its effect: the opcode is legal at this level, the mode allows it (R400), no masked window
forbids it (R304), no open window covers what it writes (R49), no pending result is awaited (R88, R184), and its
stream ports can be popped and pushed (R330, R331), and no pop waits for the core's own accesses to its scratchpad (R141,
R333). -/
structure Issues (s : State) (u : Uses) : Prop where
  ready : (s.me.thr s.lv).hold = .ready
  fresh : (s.me.thr s.lv).held = []
  freshV : (s.me.thr s.lv).heldV = []
  onTime : (s.me.thr s.lv).late = none
  queued : (s.me.thr s.lv).rest = []
  enabled : u.on = true
  legal : u.illegal = false
  mode : u.priv.isSome = true → s.me.pv = true
  masked : s.lv = false → s.me.maskOpen = true →
    (u.uncounted = true ∨ s.me.maskCnt < 64) ∧ u.nomask = false ∧ s.me.namesPort u = false
  windows : s.me.violated u = none
  operands : s.me.busy u = false
  flags : u.fpwait = true → ∀ p ∈ s.me.pend, p.lv = s.lv → p.flagsDue = false
  ports : s.me.ports u = .ok
  pops : (s.me.popped u).any s.popWaits = false

/-- The instruction issues as above and names no stream port, so that its register fields are registers. -/
structure IssuesPlain (s : State) (u : Uses) : Prop extends Issues s u where
  noPort : s.me.namesPort u = false

/-! ## What an instruction leaves as it was -/

/-- A pending result after one more instruction of its thread has issued (R47, R50). -/
def counted (s : State) (u : Uses) (p : Pend) : Pend :=
  if p.lv = s.lv ∧ p.id < s.ctr then { p with win := if u.blocking then 0 else p.win - 1 } else p

/-- An instruction of the executing thread has issued and completed, and the thread goes on at `pc`. Nothing outside the
executing core has changed; of the core, only the general registers `gs`, the predicates `ps` and the vector registers
`vs` of the running level, the sticky flags (raised by `f`), the pending results (counted, and `new` ones entered, whose
arrival is noted), and what issuing counts: 256 of the bucket at level 0, the masked window's count, the issue slot of the
cycle, and that the task stands at no stream port (R185, R304, R183, R331). -/
structure Completes (s t : State) (u : Uses) (pc : Word) (gs ps vs : List Nat) (f : FFlags) (new : List Pend) : Prop where
  outside : t = { s with cores := s.cores.put s.cur t.me, ctr := s.ctr + new.length }
  pc : (t.me.thr s.lv).pc = pc
  goesOn : (t.me.thr s.lv).hold = .ready ∧ (t.me.thr s.lv).held = []
  general : ∀ r, r ∉ gs → t.me.g s.lv r = s.me.g s.lv r
  predicates : ∀ r, r ∉ ps → t.me.p s.lv r = s.me.p s.lv r
  vectors : ∀ r, r ∉ vs → t.me.vreg r = s.me.vreg r
  flags : (t.me.thr s.lv).fp = (s.me.thr s.lv).fp.or f
  thread : t.me.thr s.lv =
    { s.me.thr s.lv with g := (t.me.thr s.lv).g, p := (t.me.thr s.lv).p, pc := (t.me.thr s.lv).pc,
                         fp := (t.me.thr s.lv).fp, hold := .ready, held := [], heldV := [], late := none }
  otherLevel : t.me.thr (!s.lv) = s.me.thr (!s.lv)
  pending : t.me.pend = s.me.pend.map (counted s u) ++ new
  arrivals : new = [] → t.me.arrived = s.me.arrived
  core : t.me =
    { s.me with lv0 := t.me.lv0, lv1 := t.me.lv1, gHi := t.me.gHi, v := t.me.v, pend := t.me.pend,
                arrived := t.me.arrived,
                maskCnt := s.me.maskCnt + (if s.lv = false ∧ s.me.maskOpen ∧ u.uncounted = false then 1 else 0),
                b := if s.lv then s.me.b else s.me.b - 256, qStall := if s.lv then s.me.qStall else none, issuedNow := true }

/-- What an unguarded scalar instruction of `len` bytes declares: the general registers it reads and writes. -/
def scalar (len : Nat) (rs ws : List Reg) : Uses :=
  { len := len, rs := rs.map (fun r => r.toNat), ws := ws.map (fun r => r.toNat) }

/-- The instruction answers a next state in which `d` holds `x` (g0 still reads zero, R42) and execution goes on after
the instruction, all else being left as it was. -/
def AnswersG (s : State) (i : Instr) (u : Uses) (d : Reg) (x : Word) : Prop :=
  ∃ t, exec i s = .next t ∧ Completes s t u (s.pc + word u.len) [d.toNat] [] [] {} [] ∧
    t.rg d = if d = 0 then 0 else x

/-- The same of a predicate register (p7 still reads all ones, R173). -/
def AnswersP (s : State) (i : Instr) (u : Uses) (d : PReg) (x : Word) : Prop :=
  ∃ t, exec i s = .next t ∧ Completes s t u (s.pc + word u.len) [] [d.toNat] [] {} [] ∧
    t.rp d = if d = 7 then ones else x

/-- The flags of the active lanes of a vector operation, ORed (R208). -/
def activeFlags (ty : Nat) (act : Nat → Bool) (r : Nat → LaneRes) : FFlags :=
  FFlags.orAll (((List.range (lanesOfTy ty)).filter act).map (fun i => (r i).2))

/-- The lanes of a vector operation on lanes of type `ty` (R208): an active lane has received its result, an inactive
one has kept its bits. -/
def LanesWritten (ty : Nat) (act : Nat → Bool) (r : Nat → LaneRes) (old new : Vec) : Prop :=
  ∀ i, i < lanesOfTy ty → lane new (bitsOf ty) i = if act i then (r i).1 % 2 ^ bitsOf ty else lane old (bitsOf ty) i

/-- The instruction answers a next state in which the active lanes of `d` hold their results `r`, its other lanes keep
their bits, the flags of the active lanes are raised, and all else is as it was. -/
def AnswersV (s : State) (i : Instr) (u : Uses) (d : VReg) (ty : Nat) (act : Nat → Bool) (r : Nat → LaneRes) : Prop :=
  ∃ t, exec i s = .next t ∧
    Completes s t u (s.pc + word u.len) [] [] [d.toNat] (activeFlags ty act r) [] ∧
    LanesWritten ty act r (s.rv d) (t.rv d)

/-- `t` is `s` after an instruction that declares `u` and whose effect is `e`: the effect has happened, the issue has
been counted, and the thread goes on at `pc`. -/
def State.after (s : State) (u : Uses) (e : State) (pc : Word) : State :=
  e.updMe (fun c => (c.issued s.lv u s.ctr false).resume s.lv pc)

/-- The instruction completes with effect `e`: the effect has happened, the issue has been counted, and the thread goes
on after the instruction. -/
def Performs (s : State) (i : Instr) (u : Uses) (e : State) : Prop :=
  exec i s = .next (State.after s u e (s.pc + word u.len))

/-- `t` is `s` after an instruction has issued with effect `e` and waits for `h`. It keeps what it read: the general registers,
and the old values of the vector registers in open windows, which close; and whether it would break a window that covers what
it writes only if it turns out so (R48 to R50). -/
def State.waiting (s : State) (u : Uses) (e : State) (h : Hold) : State :=
  (e.updMe (fun c => c.issued s.lv u s.ctr false)).updMe (fun c =>
    c.setThr s.lv { c.thr s.lv with
      hold := h
      held := u.rs.map (fun r => (r, s.me.g s.lv r))
      heldV := (u.vs.filter s.me.windowV).map (fun r => (r, s.me.vreg r))
      late := (s.me.violated { u with ws := u.mw, vw := [] }).map (fun p => p.pc) })

/-- The instruction issues with effect `e` and waits. -/
def Waits (s : State) (i : Instr) (u : Uses) (e : State) (h : Hold) : Prop :=
  exec i s = .next (State.waiting s u e h)

/-- The instruction stalls at issue: its windows close, and it keeps the old values that it reads (R50). -/
def StandsStill (s : State) (i : Instr) (u : Uses) : Prop := exec i s = .next (s.updMe (fun c => c.standStill u none))

/-- The executing core's registers, its trap registers and flags, every byte of memory, the registers of system space and
the other cores are as they were. -/
structure Untouched (s t : State) : Prop where
  general : ∀ lv r, t.me.g lv r = s.me.g lv r
  predicates : ∀ lv r, t.me.p lv r = s.me.p lv r
  vectors : t.me.v = s.me.v
  flags : ∀ lv, (t.me.thr lv).fp = (s.me.thr lv).fp
  traps : t.me.tvec = s.me.tvec ∧ t.me.tpc = s.me.tpc ∧ t.me.tcause = s.me.tcause ∧ t.me.tval = s.me.tval ∧
    t.me.tBit = s.me.tBit ∧ t.me.pv = s.me.pv
  memory : t.mem = s.mem
  system : t.sys = s.sys
  others : ∀ k, k ≠ s.cur → t.core k = s.core k

/-- Placing an access has walked no table: nothing but the bays' TLBs can differ. -/
def Quiet (s s' : State) : Prop := s' = { s with bays := s'.bays }

/-- The instruction completes with effect `e`; where placing its access in `s'` walked no table, registers and memory are
as they were. -/
def Starts (s s' : State) (i : Instr) (u : Uses) (e : State) : Prop :=
  Performs s i u e ∧ (Quiet s s' → Untouched s (State.after s u e (s.pc + word u.len)))

/-- The same of an instruction that waits. -/
def StartsWaiting (s s' : State) (i : Instr) (u : Uses) (e : State) (h : Hold) : Prop :=
  Waits s i u e h ∧ (Quiet s s' → Untouched s (State.waiting s u e h))

/-! ## Loads and stores of one element -/

/-- A load of `n` bytes at `a` into a general register, by where its bytes are: a misaligned address traps; a store of the
core that stands in its store queue gives its bytes; a core memory is sent a request, and one of the other die is waited
for; the bay's clean copy of a line gives its bytes; any other line is asked of its home slice, and waited for. The value
comes to a pending result, so that no register changes yet. LDD reads a register of system space at once. -/
def LoadsG (s : State) (i : Instr) (u : Uses) (d : Reg) (la : BitVec 4) (h : Hint) (sext : Bool) (n : Nat) (sysOk : Bool)
    (a : Word) : Prop :=
  (a.toNat % n ≠ 0 → exec i s = .next (s.trap tALIGN a)) ∧
  (∀ code v s', a.toNat % n = 0 → s.place 0 sysOk a = (.trap code v, s') → exec i s = .next (s.trap code v)) ∧
  (∀ r s', a.toNat % n = 0 → s.place 0 sysOk a = (.sys r, s') →
    Performs s i u (s'.enterPend { s'.newPend (greg s.lv d.toNat) la.toNat 0 .mem 0 with val := (s'.regValue r).setWidth 1024 })) ∧
  ∀ l s', a.toNat % n = 0 → s.place 0 sysOk a = (.loc l, s') → s.ownScore l n = false → s.rmwAwaited l n = false →
    s.forward l n (BitVec.allOnes 128) ≠ .partly →
    let p := s'.newPend (greg s.lv d.toNat) la.toNat 1 .mem 0
    let t : State := { s' with ctr := s'.ctr + 1 }
    let r : Req := { op := .load, va := a, loc := l, n := n, bytes := BitVec.allOnes 128, hint := h, pend := some p.id,
                     sext := sext }
    (∀ x, t.forward l n (BitVec.allOnes 128) = .data x → Starts s s' i u (t.putPend (p.take 0 n sext x))) ∧
    ((∀ x, t.forward l n (BitVec.allOnes 128) ≠ .data x) →
      (l.isGlob = false → dieOf l.tile = dieOf (tileOf s'.cur) → Starts s s' i u ((t.send r).putPend p)) ∧
      (l.isGlob = false → dieOf l.tile ≠ dieOf (tileOf s'.cur) →
        StartsWaiting s s' i u ((t.send r).putPend { p with acc := 1 }) (.access p.id)) ∧
      ∀ pa, l = .glob pa →
        (t.l1Hit l h = none → StartsWaiting s s' i u ((t.send r).putPend { p with acc := 1 }) (.access p.id)) ∧
        (∀ c, t.l1Hit l h = some c → c.poison = false →
          Starts s s' i u ((t.setBay (bayOf t.cur) ((t.bay (bayOf t.cur)).l1Touch (lineOf pa) t.stepNo)).putPend
            (p.take 0 n sext (vecBytes c.data (pa % 128) n)))) ∧
        (∀ c, t.l1Hit l h = some c → c.poison = true → exec i s = .next (s.trap tPOISON a)))

/-- A store of the `n` low bytes of `x` at `a`: a misaligned address traps, so does an armed barrier word; else a request
with exactly these bytes is sent to the place of `a`. STD writes a register of system space at once. -/
def StoresG (s : State) (i : Instr) (u : Uses) (h : Hint) (n : Nat) (sysOk : Bool) (a x : Word) : Prop :=
  (a.toNat % n ≠ 0 → exec i s = .next (s.trap tALIGN a)) ∧
  (∀ code v s', a.toNat % n = 0 → s.place 1 sysOk a = (.trap code v, s') → exec i s = .next (s.trap code v)) ∧
  (∀ r s' t, a.toNat % n = 0 → s.place 1 sysOk a = (.sys r, s') → s.storesFull = false →
    sysWrite r (word (x.toNat % 2 ^ (8 * n))) s' = some t → Performs s i u t) ∧
  ∀ l s', a.toNat % n = 0 → s.place 1 sysOk a = (.loc l, s') →
    (s.overBarrier l n = true → exec i s = .next (s.trap tCLOBBER a)) ∧
    (s.overBarrier l n = false → s.ownScore l n = false → s.storesFull = false →
      Starts s s' i u (s'.send { op := .store, va := a, loc := l, n := n, data := BitVec.ofNat 1024 (x.toNat % 2 ^ (8 * n)),
                                 bytes := BitVec.allOnes 128, hint := h }))

/-! ## The canonical form of memory -/

/-- Every memory is listed with strictly rising addresses and no entry equal to what an unlisted address reads as. The
bytes of a scratchpad that nothing has written have no value of their own (R142), so any byte may stand there. -/
@[irreducible] def Mems.wf (m : Mems) : Bool :=
  SMap.wf 0 m.hbm && SMap.wf 0 m.errs && SMap.wf 0 m.host && SMap.sortedFrom none m.spad && SMap.wf 0 m.vault &&
  SMap.wf 0 m.gal && SMap.wf 0 m.land && SMap.wf 0 m.tdata && SMap.wf 0 m.tscale && SMap.wf 0 m.alcove

end Sys2Proof
end

