-- ==== Sys2Proof/Certificates/Slice0/Obligations.lean ====
section
/-!
DEFINITION. The statements for the provers. `Issues`, `IssuesPlain`, `AnswersG`, `Performs`, `Waits` and the other words they
are made in stand in Sys2Proof/Safety.lean; the pairs of an instruction and the state it runs in are those of
Sys2Proof/Machine/Dispatch.lean.
-/

section

open Sys2Proof Sys2Proof.Machine

/-! ## The scalar unit -/

/-- R189: each of the eighteen two-register operations writes its result, computed from both sources as they were
before the write, and changes nothing else. -/
def Obligations.TwoRegisterOperations : Prop :=
  ∀ (s : State) (d a b : Reg), IssuesPlain s (scalar 4 [a, b] [d]) →
    let u := scalar 4 [a, b] [d]
    let x := s.rg a
    let y := s.rg b
    let n := y.toNat % 64
    AnswersG s (.add d a b) u d (x + y) ∧
    AnswersG s (.sub d a b) u d (x - y) ∧
    AnswersG s (.mul d a b) u d (x * y) ∧
    AnswersG s (.mulh d a b) u d (BitVec.ofInt 64 (x.toInt * y.toInt / 2 ^ 64)) ∧
    AnswersG s (.mulhw d a b) u d (BitVec.ofNat 64 (x.toNat * y.toNat / 2 ^ 64)) ∧
    AnswersG s (.and d a b) u d (x &&& y) ∧
    AnswersG s (.or d a b) u d (x ||| y) ∧
    AnswersG s (.xor d a b) u d (x ^^^ y) ∧
    AnswersG s (.andn d a b) u d (x &&& ~~~y) ∧
    AnswersG s (.orn d a b) u d (x ||| ~~~y) ∧
    AnswersG s (.shl d a b) u d (x <<< n) ∧
    AnswersG s (.shr d a b) u d (x >>> n) ∧
    AnswersG s (.sra d a b) u d (x.sshiftRight n) ∧
    AnswersG s (.rot d a b) u d (x.rotateLeft n) ∧
    AnswersG s (.min d a b) u d (if x.toInt ≤ y.toInt then x else y) ∧
    AnswersG s (.max d a b) u d (if x.toInt ≤ y.toInt then y else x) ∧
    AnswersG s (.minw d a b) u d (if x.toNat ≤ y.toNat then x else y) ∧
    AnswersG s (.maxw d a b) u d (if x.toNat ≤ y.toNat then y else x)

/-- R190, R193: the immediate operations, in their short and literal forms; MOVL; and ADDPC, which adds to its own
address. -/
def Obligations.ImmediateOperations : Prop :=
  ∀ (s : State) (d a : Reg) (imm : BitVec 12) (n : BitVec 6) (lit : Word),
    (IssuesPlain s (scalar 4 [a] [d]) →
      let u := scalar 4 [a] [d]
      let x := s.rg a
      AnswersG s (.addi d a imm) u d (x + imm.signExtend 64) ∧
      AnswersG s (.andi d a imm) u d (x &&& imm.signExtend 64) ∧
      AnswersG s (.ori d a imm) u d (x ||| imm.signExtend 64) ∧
      AnswersG s (.xori d a imm) u d (x ^^^ imm.signExtend 64) ∧
      AnswersG s (.shli d a n) u d (x <<< n.toNat) ∧
      AnswersG s (.shri d a n) u d (x >>> n.toNat) ∧
      AnswersG s (.srai d a n) u d (x.sshiftRight n.toNat) ∧
      AnswersG s (.roti d a n) u d (x.rotateLeft n.toNat)) ∧
    (IssuesPlain s (scalar 12 [a] [d]) →
      let u := scalar 12 [a] [d]
      let x := s.rg a
      AnswersG s (.addiLiteral d a lit) u d (x + lit) ∧
      AnswersG s (.andiLiteral d a lit) u d (x &&& lit) ∧
      AnswersG s (.oriLiteral d a lit) u d (x ||| lit) ∧
      AnswersG s (.xoriLiteral d a lit) u d (x ^^^ lit)) ∧
    (IssuesPlain s (scalar 4 [] [d]) →
      let u := scalar 4 [] [d]
      AnswersG s (.movl d imm) u d (imm.signExtend 64) ∧
      AnswersG s (.addpc d imm) u d (s.pc + imm.signExtend 64)) ∧
    (IssuesPlain s (scalar 12 [] [d]) →
      let u := scalar 12 [] [d]
      AnswersG s (.movlLiteral d lit) u d lit ∧
      AnswersG s (.addpcLiteral d lit) u d (s.pc + lit))

/-- R191: what the counting and reordering operations write, said bit by bit. R192: the bit-field operations, for the
fields that fit in the register (any other traps ILLEGAL as it is decoded). BFI reads the old destination. -/
def Obligations.BitOperations : Prop :=
  (
  ∀ (s : State) (d a : Reg), IssuesPlain s (scalar 4 [a] [d]) →
    let u := scalar 4 [a] [d]
    let x := s.rg a
    (∃ n, n ≤ 64 ∧ (∀ i, i < n → x.getLsbD (63 - i) = false) ∧ (n < 64 → x.getLsbD (63 - n) = true) ∧
      AnswersG s (.clz d a) u d (word n)) ∧
    (∃ n, n ≤ 64 ∧ (∀ i, i < n → x.getLsbD i = false) ∧ (n < 64 → x.getLsbD n = true) ∧
      AnswersG s (.ctz d a) u d (word n)) ∧
    AnswersG s (.popc d a) u d (word ((List.range 64).countP (fun i => x.getLsbD i))) ∧
    (∃ y : Word, (∀ i, i < 64 → y.getLsbD i = x.getLsbD (63 - i)) ∧ AnswersG s (.brev d a) u d y) ∧
    (∃ y : Word, (∀ i j, i < 8 → j < 8 → y.getLsbD (8 * i + j) = x.getLsbD (8 * (7 - i) + j)) ∧
      AnswersG s (.bswp d a) u d y)
  ) ∧
  (
  ∀ (s : State) (d a : Reg) (pos wm1 : BitVec 6),
    let w := wm1.toNat + 1
    let x := s.rg a
    (IssuesPlain s (scalar 4 [a] [d]) →
      let u := scalar 4 [a] [d]
      (pos.toNat + w ≤ 64 → AnswersG s (.bfx d a pos wm1) u d (((x >>> pos.toNat).setWidth w).setWidth 64)) ∧
      AnswersG s (.exts d a wm1) u d ((x.setWidth w).signExtend 64) ∧
      AnswersG s (.extz d a wm1) u d ((x.setWidth w).setWidth 64)) ∧
    (IssuesPlain s (scalar 4 [d, a] [d]) → pos.toNat + w ≤ 64 →
      ∃ y : Word, (∀ i, i < 64 → y.getLsbD i =
          if pos.toNat ≤ i ∧ i < pos.toNat + w then x.getLsbD (i - pos.toNat) else (s.rg d).getLsbD i) ∧
        AnswersG s (.bfi d a pos wm1) (scalar 4 [d, a] [d]) d y)
  )

/-- R196, R197: a compare writes all ones when its relation holds and zeros when it does not; predicate logic is
bitwise. R195, R203 to R205: SEL tests bit 0 of its predicate; NRAND is the newel generator; bit j of NMASK compares
the generator's top 16 bits at counter b + j with the threshold. -/
def Obligations.PredicatesSelectAndRandom : Prop :=
  (
  ∀ (s : State) (d p q : PReg) (a b : Reg) (imm : BitVec 12) (lit : Word),
    let truth := fun (P : Bool) => if P then ones else (0 : Word)
    let x := s.rg a
    let y := s.rg b
    (IssuesPlain s (scalar 4 [a, b] []) →
      let u := scalar 4 [a, b] []
      AnswersP s (.peq d a b) u d (truth (x == y)) ∧
      AnswersP s (.pne d a b) u d (truth (x != y)) ∧
      AnswersP s (.plt d a b) u d (truth (decide (x.toInt < y.toInt))) ∧
      AnswersP s (.ple d a b) u d (truth (decide (x.toInt ≤ y.toInt))) ∧
      AnswersP s (.pltw d a b) u d (truth (decide (x.toNat < y.toNat))) ∧
      AnswersP s (.plew d a b) u d (truth (decide (x.toNat ≤ y.toNat)))) ∧
    (IssuesPlain s (scalar 4 [a] []) →
      let u := scalar 4 [a] []
      AnswersP s (.peqi d a imm) u d (truth (x == imm.signExtend 64)) ∧
      AnswersP s (.plti d a imm) u d (truth (decide (x.toInt < (imm.signExtend 64).toInt)))) ∧
    (IssuesPlain s (scalar 12 [a] []) →
      let u := scalar 12 [a] []
      AnswersP s (.peqiLiteral d a lit) u d (truth (x == lit)) ∧
      AnswersP s (.pltiLiteral d a lit) u d (truth (decide (x.toInt < lit.toInt)))) ∧
    (IssuesPlain s (scalar 4 [] []) →
      let u := scalar 4 [] []
      AnswersP s (.pand d p q) u d (s.rp p &&& s.rp q) ∧
      AnswersP s (.por d p q) u d (s.rp p ||| s.rp q) ∧
      AnswersP s (.pxor d p q) u d (s.rp p ^^^ s.rp q) ∧
      AnswersP s (.pnot d p) u d (~~~(s.rp p)))
  ) ∧
  (
  ∀ (s : State) (gu : Guard) (d a b : Reg) (p : PReg) (thr : BitVec 24),
    let x := s.rg a
    let y := s.rg b
    let newelOf := fun (k c : Word) =>
      let z := k + c * 0xA3B195C5D7E41F27
      let z := (z ^^^ (z >>> 32)) * 0xD1B54A32D192ED03
      let z := (z ^^^ (z >>> 29)) * 0xAEF17502108EF2D9
      z ^^^ (z >>> 32)
    (IssuesPlain s (scalar 4 [a, b] [d]) →
      AnswersG s (.sel d a b p) (scalar 4 [a, b] [d]) d (if (s.rp p).getLsbD 0 then x else y) ∧
      AnswersG s (.nrand d a b) (scalar 4 [a, b] [d]) d (newelOf x y)) ∧
    (IssuesPlain s { scalar 12 [a, b] [d] with on := s.guard gu } →
      ∃ m : Word, (∀ j, j < 64 → m.getLsbD j = decide ((newelOf x (y + word j)).toNat / 2 ^ 48 < thr.toNat)) ∧
        AnswersG s (.nmask gu d a b thr) { scalar 12 [a, b] [d] with on := s.guard gu } d m)
  )

/-- R194, R47, R48: a divide reads its operands as it issues and enters a pending result that holds the quotient or
remainder; no register changes yet. The core holds one divide in flight: with one in flight it waits. The model's reading (log
entry 42): a divide is in flight until its result has arrived, though its window may not have let it be written. -/
def Obligations.Divides : Prop :=
  ∀ (s : State) (d a b : Reg) (la : BitVec 4),
    let u := { scalar 4 [a, b] [d] with long := true }
    let x := s.rg a
    let y := s.rg b
    IssuesPlain s u →
    ((∀ p ∈ s.me.pend, p.cls = .divide → p.need = 0) →
      let starts := fun (i : Instr) (v : Word) => ∃ t, exec i s = .next t ∧
        Completes s t u (s.pc + 4) [] [] [] {}
          [{ id := s.ctr, lv := s.lv, dst := greg s.lv d.toNat, win := la.toNat, pc := s.pc, cls := .divide, need := 1,
             val := v.setWidth 1024 }]
      starts (.div d a b la) (if y = 0 then ones else BitVec.ofInt 64 (x.toInt.tdiv y.toInt)) ∧
      starts (.divw d a b la) (if y = 0 then ones else BitVec.ofNat 64 (x.toNat / y.toNat)) ∧
      starts (.rem d a b la) (if y = 0 then x else BitVec.ofInt 64 (x.toInt.tmod y.toInt)) ∧
      starts (.remw d a b la) (if y = 0 then x else BitVec.ofNat 64 (x.toNat % y.toNat))) ∧
    ((∃ p ∈ s.me.pend, p.cls = .divide ∧ p.need ≠ 0) →
      exec (.div d a b la) s = .next s ∧ exec (.divw d a b la) s = .next s ∧
      exec (.rem d a b la) s = .next s ∧ exec (.remw d a b la) s = .next s)

/-- R198 to R201: BR, JAL, JALR, LOOP and NOP complete: where each goes on, and the link or counter it writes, nothing
else being changed but what issuing counts. NOP does nothing but advance PC by 4, and its major opcode has no other word. R56,
R199: a jump to a target whose bits [1:0] are not zero traps ALIGN with that target, and its destination is unchanged. -/
def Obligations.BranchesAndJumps : Prop :=
  (
  ∀ (s : State) (gu : Guard) (disp : BitVec 20) (d a : Reg) (imm : BitVec 12) (lit : Word),
    let n := s.rg d - 1
    (IssuesPlain s { scalar 4 [] [] with on := s.guard gu } → ∃ t, exec (.br gu disp) s = .next t ∧
      Completes s t { scalar 4 [] [] with on := s.guard gu } (s.pc + disp.signExtend 64 * 4) [] [] [] {} []) ∧
    (IssuesPlain s { scalar 4 [] [1] with on := s.guard gu } → ∃ t, exec (.jal gu disp) s = .next t ∧ t.rg 1 = s.pc + 4 ∧
      Completes s t { scalar 4 [] [1] with on := s.guard gu } (s.pc + disp.signExtend 64 * 4) [1] [] [] {} []) ∧
    (IssuesPlain s (scalar 4 [a] [d]) → (s.rg a + imm.signExtend 64).toNat % 4 = 0 → ∃ t, exec (.jalr d a imm) s = .next t ∧
      t.rg d = (if d = 0 then 0 else s.pc + 4) ∧
      Completes s t (scalar 4 [a] [d]) (s.rg a + imm.signExtend 64) [d.toNat] [] [] {} []) ∧
    (IssuesPlain s (scalar 12 [a] [d]) → (s.rg a + lit).toNat % 4 = 0 → ∃ t, exec (.jalrLiteral d a lit) s = .next t ∧
      t.rg d = (if d = 0 then 0 else s.pc + 12) ∧ Completes s t (scalar 12 [a] [d]) (s.rg a + lit) [d.toNat] [] [] {} []) ∧
    (IssuesPlain s (scalar 4 [d] [d]) → ∃ t, exec (.loop d imm) s = .next t ∧ t.rg d = (if d = 0 then 0 else n) ∧
      Completes s t (scalar 4 [d] [d]) (if n ≠ 0 then s.pc + imm.signExtend 64 * 4 else s.pc + 4) [d.toNat] [] [] {} []) ∧
    (IssuesPlain s (scalar 12 [d] [d]) → ∃ t, exec (.loopLiteral d lit) s = .next t ∧ t.rg d = (if d = 0 then 0 else n) ∧
      Completes s t (scalar 12 [d] [d]) (if n ≠ 0 then s.pc + lit * 4 else s.pc + 12) [d.toNat] [] [] {} []) ∧
    (IssuesPlain s (scalar 4 [] []) → ∃ t, exec .nop s = .next t ∧ Completes s t (scalar 4 [] []) (s.pc + 4) [] [] [] {} []) ∧
    ∀ w0 w1 w2 w3 w4 : BitVec 32, w0 >>> 24 = 0x23 ∨ w0 >>> 24 = 0x63 →
      decode w0 w1 w2 w3 w4 = if w0 = 0x23000000 then some .nop else none
  ) ∧
  (
  ∀ (s : State) (d a : Reg) (imm : BitVec 12) (lit : Word),
    (IssuesPlain s (scalar 4 [a] [d]) → (s.rg a + imm.signExtend 64).toNat % 4 ≠ 0 →
      exec (.jalr d a imm) s = .next (s.trap tALIGN (s.rg a + imm.signExtend 64)) ∧
      (s.trap tALIGN (s.rg a + imm.signExtend 64)).mem = s.mem) ∧
    (IssuesPlain s (scalar 12 [a] [d]) → (s.rg a + lit).toNat % 4 ≠ 0 →
      exec (.jalrLiteral d a lit) s = .next (s.trap tALIGN (s.rg a + lit)) ∧
      (s.trap tALIGN (s.rg a + lit)).mem = s.mem)
  )

/-! ## The vector unit -/

/-- R208, R211: each active lane of a floating-point operation receives its exact result rounded once, as SAT and RM
say; a product inside a fused operation is not rounded. R210, R47: VDIV, VSQRT and VRSQ enter a pending result that
holds the rounded results and flags of the active lanes, for those lanes alone; no register and no flag changes yet.
One of the three is in flight at a time: with one in flight they wait. The model's reading (log entry 42): it is in flight
until its result has arrived, though its window may not have let it be written. The sign of an exactly zero VFNMA is that of
the sum of -(a × b) and c: the model's choice (log entry 43). -/
def Obligations.VectorFloatingPoint : Prop :=
  (
  ∀ (s : State) (gu : Guard) (ty : BitVec 4) (rm : BitVec 3) (sat : Bool) (d a b c : VReg),
    let act := s.active gu ty.toNat
    let x := fun i => elemVal ty.toNat (lane (s.rv a) (bitsOf ty.toNat) i)
    let y := fun i => elemVal ty.toNat (lane (s.rv b) (bitsOf ty.toNat) i)
    let z := fun i => elemVal ty.toNat (lane (s.rv c) (bitsOf ty.toNat) i)
    let round := fun (v : FVal × FFlags) =>
      ((roundF (fmtOf ty.toNat) rm.toNat sat v.1).1, v.2.or (roundF (fmtOf ty.toNat) rm.toNat sat v.1).2)
    (IssuesPlain s (vecUses gu ty [a, b] [d] s) →
      let u := vecUses gu ty [a, b] [d] s
      AnswersV s (.vadd gu ty rm sat d a b) u d ty.toNat act (fun i => round (addV rm.toNat (x i) (y i))) ∧
      AnswersV s (.vsub gu ty rm sat d a b) u d ty.toNat act (fun i => round (addV rm.toNat (x i) (y i).flip)) ∧
      AnswersV s (.vmul gu ty rm sat d a b) u d ty.toNat act (fun i => round (mulV (x i) (y i)))) ∧
    (IssuesPlain s (vecUses gu ty [a, b, c] [d] s) →
      let u := vecUses gu ty [a, b, c] [d] s
      let sum := fun (p : FVal × FFlags) (v : FVal) => ((addV rm.toNat p.1 v).1, p.2.or (addV rm.toNat p.1 v).2)
      AnswersV s (.vfma gu ty rm sat d a b c) u d ty.toNat act (fun i => round (sum (mulV (x i) (y i)) (z i))) ∧
      AnswersV s (.vfms gu ty rm sat d a b c) u d ty.toNat act (fun i => round (sum (mulV (x i) (y i)) (z i).flip)) ∧
      AnswersV s (.vfnma gu ty rm sat d a b c) u d ty.toNat act
        (fun i => round (sum ((mulV (x i) (y i)).1.flip, (mulV (x i) (y i)).2) (z i))))
  ) ∧
  (
  ∀ (s : State) (gu : Guard) (la ty : BitVec 4) (rm : BitVec 3) (sat : Bool) (d a b : VReg),
    let act := s.active gu ty.toNat
    let x := fun i => elemVal ty.toNat (lane (s.rv a) (bitsOf ty.toNat) i)
    let y := fun i => elemVal ty.toNat (lane (s.rv b) (bitsOf ty.toNat) i)
    let round := fun (sat : Bool) (v : FVal × FFlags) =>
      ((roundF (fmtOf ty.toNat) rm.toNat sat v.1).1, v.2.or (roundF (fmtOf ty.toNat) rm.toNat sat v.1).2)
    let starts := fun (i : Instr) (u : Uses) (r : Nat → LaneRes) => ∃ t p, exec i s = .next t ∧
      Completes s t u (s.pc + 12) [] [] [] {} [p] ∧
      p.id = s.ctr ∧ p.lv = s.lv ∧ p.dst = some (.v d.toNat) ∧ p.win = la.toNat ∧ p.pc = s.pc ∧
      p.cls = .vdivide ∧ p.need = 1 ∧ p.flags = activeFlags ty.toNat act r ∧
      LanesWritten ty.toNat act r (s.rv d) (blend (s.rv d) p.val p.mask)
    let u2 := { vecUses gu ty [a, b] [d] s with long := true }
    let u1 := { vecUses gu ty [a] [d] s with long := true }
    (IssuesPlain s u2 →
      ((∀ p ∈ s.me.pend, p.cls = .vdivide → p.need = 0) →
        starts (.vdiv gu la ty rm sat d a b) u2 (fun i => round sat (divV (x i) (y i)))) ∧
      ((∃ p ∈ s.me.pend, p.cls = .vdivide ∧ p.need ≠ 0) → exec (.vdiv gu la ty rm sat d a b) s = .next s)) ∧
    (IssuesPlain s u1 →
      ((∀ p ∈ s.me.pend, p.cls = .vdivide → p.need = 0) →
        starts (.vsqrt gu la ty rm d a) u1 (fun i => round false (sqrtV (x i))) ∧
        starts (.vrsq gu la ty rm d a) u1 (fun i => round false (rsqV (x i)))) ∧
      ((∃ p ∈ s.me.pend, p.cls = .vdivide ∧ p.need ≠ 0) →
        exec (.vsqrt gu la ty rm d a) s = .next s ∧ exec (.vrsq gu la ty rm d a) s = .next s))
  )

/-- R212, R213: minimum, maximum, clamp, absolute value and negation, on integers and on floating-point elements.
R214, R215: VCMP writes, for each group of lanes, whether the relation holds in all its active lanes, keeps the bit of
a group with none, and clears the bits above; VSEL takes each lane by the bit of its predicate. -/
def Obligations.VectorOrderAndSelect : Prop :=
  (
  ∀ (s : State) (gu : Guard) (ty : BitVec 4) (sat : Bool) (d a b c : VReg),
    let w := bitsOf ty.toNat
    let act := s.active gu ty.toNat
    let x := fun i => lane (s.rv a) w i
    let y := fun i => lane (s.rv b) w i
    let z := fun i => lane (s.rv c) w i
    let below := fun (p q : FVal) =>
      cmpV p q == .lt || (cmpV p q == .eq && (p.neg? && !q.neg?))
    let lower := fun (p q : Nat) =>
      if isInt ty.toNat then decide (intVal ty.toNat p < intVal ty.toNat q)
      else below (elemVal ty.toNat p) (elemVal ty.toNat q)
    let nan := fun (p q : Nat) => (elemVal ty.toNat p).isNan || (elemVal ty.toNat q).isNan
    let sig := fun (p q : Nat) => (elemVal ty.toNat p).isSig || (elemVal ty.toNat q).isSig
    let smaller := fun (p q : Nat) =>
      if !isInt ty.toNat && nan p q then (qnan (fmtOf ty.toNat), ({ nv := sig p q } : FFlags))
      else (if lower p q then p else q, {})
    let larger := fun (p q : Nat) =>
      if !isInt ty.toNat && nan p q then (qnan (fmtOf ty.toNat), ({ nv := sig p q } : FFlags))
      else (if lower p q then q else p, {})
    let fit := fun (v : Int) => intBits ty.toNat (if sat then max (intLo ty.toNat) (min (intHi ty.toNat) v) else v)
    (IssuesPlain s (vecUses gu ty [a, b] [d] s) →
      let u := vecUses gu ty [a, b] [d] s
      AnswersV s (.vmin gu ty d a b) u d ty.toNat act (fun i => smaller (x i) (y i)) ∧
      AnswersV s (.vmax gu ty d a b) u d ty.toNat act (fun i => larger (x i) (y i))) ∧
    (IssuesPlain s (vecUses gu ty [a, b, c] [d] s) →
      AnswersV s (.vclamp gu ty d a b c) (vecUses gu ty [a, b, c] [d] s) d ty.toNat act
        (fun i => ((smaller (larger (x i) (y i)).1 (z i)).1,
          (larger (x i) (y i)).2.or (smaller (larger (x i) (y i)).1 (z i)).2))) ∧
    (IssuesPlain s (vecUses gu ty [a] [d] s) →
      let u := vecUses gu ty [a] [d] s
      AnswersV s (.vabs gu ty sat d a) u d ty.toNat act
        (fun i => (if isInt ty.toNat then fit (intVal ty.toNat (x i)).natAbs else x i % 2 ^ (w - 1), {})) ∧
      AnswersV s (.vneg gu ty sat d a) u d ty.toNat act
        (fun i => (if isInt ty.toNat then fit (-(intVal ty.toNat (x i))) else x i ^^^ 2 ^ (w - 1), {})))
  ) ∧
  (
  ∀ (s : State) (gu : Guard) (ty : BitVec 4) (rel : BitVec 3) (d q : PReg) (e a b : VReg),
    let w := bitsOf ty.toNat
    let m := max 1 (16 / w)
    let act := s.active gu ty.toNat
    let x := fun i => elemVal ty.toNat (lane (s.rv a) w i)
    let y := fun i => elemVal ty.toNat (lane (s.rv b) w i)
    let nan := fun i => (x i).isNan || (y i).isNan
    let sig := fun i => (x i).isSig || (y i).isSig
    let holds := fun i =>
      match rel.toNat with
      | 0 => !nan i && cmpV (x i) (y i) == .eq
      | 1 => nan i || cmpV (x i) (y i) != .eq
      | 2 => !nan i && cmpV (x i) (y i) == .lt
      | 3 => !nan i && cmpV (x i) (y i) != .gt
      | 4 => !nan i && cmpV (x i) (y i) == .gt
      | 5 => !nan i && cmpV (x i) (y i) != .lt
      | _ => nan i
    let nv := fun i => if 2 ≤ rel.toNat ∧ rel.toNat ≤ 5 then nan i else sig i
    (IssuesPlain s (vecUses gu ty [a, b] [] s) →
      ∃ t, exec (.vcmp gu ty rel d a b) s = .next t ∧
        Completes s t (vecUses gu ty [a, b] [] s) (s.pc + 12) [] [d.toNat] []
          { nv := (List.range (1024 / w)).any (fun i => act i && nv i) } [] ∧
        (d ≠ 7 → ∀ j, j < 64 → (t.rp d).getLsbD j =
          if 1024 / w / m ≤ j then false
          else if (List.range m).any (fun k => act (j * m + k)) then
            (List.range m).all (fun k => !act (j * m + k) || holds (j * m + k))
          else (s.rp d).getLsbD j)) ∧
    (IssuesPlain s (vecUses gu ty [a, b] [e] s) →
      AnswersV s (.vsel gu ty e a b q) (vecUses gu ty [a, b] [e] s) e ty.toNat act
        (fun i => (if (s.rp q).getLsbD (i / m) then lane (s.rv a) w i else lane (s.rv b) w i, {})))
  )

/-- R219, R220: integer arithmetic saturates when SAT is 1 and wraps when it is 0; bit operations and shifts act
within each lane, by the low bits of the count; none raises a flag. R216, R217: the lanes that a conversion and a
choice of scales write, the elements they convert, and what they leave alone. Into an MX type, the elements of a block
whose scale byte is 0xFF become 0; in MXF4, a block of NaN gets that scale byte in vc and zeros in all its elements. The
model's choices (log entry 43): the scale bytes are written after the elements where vc is vd, a block of NaN whose
scale byte is 0xFF already raises its NV, and vc counts as a written register whether or not a block is one of NaN. -/
def Obligations.VectorIntegersBitsAndConversions : Prop :=
  (
  ∀ (s : State) (gu : Guard) (ty : BitVec 4) (sat : Bool) (d a b c : VReg),
    let w := bitsOf ty.toNat
    let act := s.active gu ty.toNat
    let x := fun i => lane (s.rv a) w i
    let y := fun i => lane (s.rv b) w i
    let z := fun i => lane (s.rv c) w i
    let int := fun v => intVal ty.toNat v
    let fit := fun (v : Int) =>
      ((intBits ty.toNat (if sat then max (intLo ty.toNat) (min (intHi ty.toNat) v) else v), {}) : LaneRes)
    let bits := fun (v : Nat) => ((v, {}) : LaneRes)
    (IssuesPlain s (vecUses gu ty [a, b] [d] s) →
      let u := vecUses gu ty [a, b] [d] s
      AnswersV s (.viadd gu ty sat d a b) u d ty.toNat act (fun i => fit (int (x i) + int (y i))) ∧
      AnswersV s (.visub gu ty sat d a b) u d ty.toNat act (fun i => fit (int (x i) - int (y i))) ∧
      AnswersV s (.vimul gu ty sat d a b) u d ty.toNat act (fun i => fit (int (x i) * int (y i))) ∧
      AnswersV s (.vand gu ty d a b) u d ty.toNat act (fun i => bits (x i &&& y i)) ∧
      AnswersV s (.vor gu ty d a b) u d ty.toNat act (fun i => bits (x i ||| y i)) ∧
      AnswersV s (.vxor gu ty d a b) u d ty.toNat act (fun i => bits (x i ^^^ y i)) ∧
      AnswersV s (.vshl gu ty d a b) u d ty.toNat act (fun i => bits (x i * 2 ^ (y i % w))) ∧
      AnswersV s (.vshr gu ty d a b) u d ty.toNat act (fun i => bits (x i / 2 ^ (y i % w))) ∧
      AnswersV s (.vsra gu ty d a b) u d ty.toNat act
        (fun i => bits ((BitVec.ofNat w (x i)).sshiftRight (y i % w)).toNat)) ∧
    (IssuesPlain s (vecUses gu ty [a, b, c] [d] s) →
      AnswersV s (.vimad gu ty sat d a b c) (vecUses gu ty [a, b, c] [d] s) d ty.toNat act
        (fun i => fit (int (x i) * int (y i) + int (z i))))
  ) ∧
  (
  ∀ (s : State) (gu : Guard) (ty src : BitVec 4) (rm : BitVec 3) (sat : Bool) (d a c : VReg) (part : BitVec 4)
    (lit : Word),
    let act := s.active gu ty.toNat
    let mx := isMX ty.toNat || isMX src.toNat
    let u := vecUses gu ty (if mx then [a, c] else [a]) (if ty = 8 then [d, c] else [d]) s
    let span := fun p => cvtSpan src.toNat ty.toNat p
    let live := fun p i => act i && decide ((span p).1 ≤ i) && decide (i < (span p).1 + (span p).2.1)
    let from_ := fun p (i : Nat) => ((i : Int) + (span p).2.2).toNat
    let plain := fun (p : Nat) (i : Nat) =>
      cvtLane src.toNat ty.toNat rm.toNat sat (lane (s.rv c) 8 (from_ p i / 16)) (lane (s.rv a) (bitsOf src.toNat) (from_ p i))
    let intoMx := fun (p : Nat) (i : Nat) =>
      if lane (s.rv c) 8 (i / 16) = 255 then ((0, {}) : LaneRes)
      else mxLane ty.toNat rm.toNat (lane (s.rv c) 8 (i / 16)) (elemVal src.toNat (lane (s.rv a) (bitsOf src.toNat) (from_ p i)))
    let scales := fun (i : Instr) (p len : Nat) => ∃ t, exec i s = .next t ∧
      Completes s t { vecUses gu src [a] [d] s with len := len } (s.pc + word len) [] [] [d.toNat] {} [] ∧
      ∀ k, k < 128 →
        let ns := lanesOfTy src.toNat
        let lo := p * ns / 16
        let ls := ((List.range 16).map (fun j => 16 * (k - lo) + j)).filter (s.active gu src.toNat)
        lane (t.rv d) 8 k =
          if lo ≤ k ∧ k < lo + ns / 16 ∧ ls ≠ [] then
            blockScale ty.toNat (ls.map (fun i => elemVal src.toNat (lane (s.rv a) (bitsOf src.toNat) i))) % 256
          else lane (s.rv d) 8 k
    (isMX ty.toNat = false →
      (IssuesPlain s u →
        AnswersV s (.vcvt gu ty src rm sat d a c part) u d ty.toNat (live part.toNat) (plain part.toNat)) ∧
      (IssuesPlain s { u with len := 20 } →
        AnswersV s (.vcvtLiteral gu ty src rm sat d a c lit) { u with len := 20 } d ty.toNat (live lit.toNat) (plain lit.toNat))) ∧
    ((ty = 6 ∨ ty = 7) → src.toNat ≤ 3 →
      (IssuesPlain s u → (part.toNat + 1) * lanesOfTy src.toNat ≤ 128 →
        AnswersV s (.vcvt gu ty src rm sat d a c part) u d ty.toNat (live part.toNat) (intoMx part.toNat)) ∧
      (IssuesPlain s { u with len := 20 } → (lit.toNat + 1) * lanesOfTy src.toNat ≤ 128 →
        AnswersV s (.vcvtLiteral gu ty src rm sat d a c lit) { u with len := 20 } d ty.toNat (live lit.toNat) (intoMx lit.toNat))) ∧
    (ty = 8 → src.toNat ≤ 3 →
      let converts := fun (i : Instr) (p len : Nat) =>
        let lo := p * lanesOfTy src.toNat
        let value := fun (i : Nat) => elemVal src.toNat (lane (s.rv a) (bitsOf src.toNat) (i - lo))
        let within := fun (i : Nat) => decide (lo ≤ i) && decide (i < lo + lanesOfTy src.toNat)
        let vs := fun (b : Nat) => (((List.range 16).map (fun j => 16 * b + j)).filter act).map value
        let nanBlock := fun (b : Nat) => blockNan (vs b)
        let r := fun (i : Nat) =>
          if nanBlock (i / 16) then ((0, blockNanFlags (vs (i / 16))) : LaneRes)
          else if lane (s.rv c) 8 (i / 16) = 255 then (0, {})
          else mxLane 8 rm.toNat (lane (s.rv c) 8 (i / 16)) (value i)
        let writes := fun (i : Nat) => within i && (act i || nanBlock (i / 16))
        ∃ t e, exec i s = .next t ∧
          Completes s t { u with len := len } (s.pc + word len) [] [] [d.toNat, c.toNat] (activeFlags 8 writes r) [] ∧
          LanesWritten 8 writes r (s.rv d) e ∧ (d ≠ c → t.rv d = e) ∧
          ∀ b, b < 128 → lane (t.rv c) 8 b =
            if within (16 * b) && nanBlock b then 255 else lane (if d = c then e else s.rv c) 8 b
      (IssuesPlain s u → (part.toNat + 1) * lanesOfTy src.toNat ≤ 256 →
        converts (.vcvt gu ty src rm sat d a c part) part.toNat 12) ∧
      (IssuesPlain s { u with len := 20 } → (lit.toNat + 1) * lanesOfTy src.toNat ≤ 256 →
        converts (.vcvtLiteral gu ty src rm sat d a c lit) lit.toNat 20)) ∧
    (src.toNat ≤ 3 →
      (IssuesPlain s (vecUses gu src [a] [d] s) → scales (.vscale gu ty src d a part) part.toNat 12) ∧
      (IssuesPlain s { vecUses gu src [a] [d] s with len := 20 } →
        scales (.vscaleLiteral gu ty src d a lit) lit.toNat 20))
  )

/-- R221, R222: what moves lanes copies bits unchanged. R218: a reduction leaves its result in lane 0 and zeros in the
other lanes, or changes nothing when no lane is active. The result is the root of the fixed tree: node(0, i) is the term of
an active lane, for VDOT the exact product, and absent for any other; node(level, k) combines the nodes 2k and 2k + 1 of
the level below, passing up unchanged the one of two that is present. A floating-point sum is rounded once at each node, to
FP64 or to FP32; an integer sum wraps or saturates; VRMIN and VRMAX choose as VMIN and VMAX do. At the root a VDOT that is no
FP64 is rounded to FP32, which changes a product that met no other, and then every floating-point sum is rounded to TY. The
flags are those of every node and of the last step. The model's choice (log entry 43): a NaN that is the only active lane
comes out of VRSUM canonical, with NV where it is signalling. -/
def Obligations.LaneMovesAndReductions : Prop :=
  (
  ∀ (s : State) (gu : Guard) (ty : BitVec 4) (d a b : VReg) (ga gb gd : Reg) (lit : Word),
    let w := bitsOf ty.toNat
    let n := lanesOfTy ty.toNat
    let act := s.active gu ty.toNat
    let x := fun i => lane (s.rv a) w i
    let bits := fun (v : Nat) => ((v, {}) : LaneRes)
    let k := (s.rg gb).toNat % n
    (IssuesPlain s { vecUses gu ty [] [d] s with rs := [ga.toNat] } →
      AnswersV s (.vsplat gu ty d ga) { vecUses gu ty [] [d] s with rs := [ga.toNat] } d ty.toNat act
        (fun _ => bits (s.rg ga).toNat)) ∧
    (IssuesPlain s { vecUses gu ty [] [d] s with len := 20 } →
      AnswersV s (.vsplatLiteral gu ty d lit) { vecUses gu ty [] [d] s with len := 20 } d ty.toNat act
        (fun _ => bits lit.toNat)) ∧
    (IssuesPlain s (vecUses gu ty [a, b] [d] s) →
      AnswersV s (.vperm gu ty d a b) (vecUses gu ty [a, b] [d] s) d ty.toNat act
        (fun i => bits (x (lane (s.rv b) w i % n)))) ∧
    (IssuesPlain s (vecUses gu ty [a] [d] s) →
      AnswersV s (.vmov gu ty d a) (vecUses gu ty [a] [d] s) d ty.toNat act (fun i => bits (x i))) ∧
    (let u : Uses := { len := 12, on := s.guard gu, rs := [gb.toNat], ws := [gd.toNat], vs := [a.toNat] }
     IssuesPlain s u →
      AnswersG s (.vext gu ty gd a gb) u gd
        (if 9 ≤ ty.toNat ∧ ty.toNat ≤ 12 then (BitVec.ofNat w (x k)).signExtend 64 else word (x k))) ∧
    (let u : Uses := { len := 12, on := s.guard gu, rs := [ga.toNat, gb.toNat], vs := [d.toNat], vw := [d.toNat] }
     IssuesPlain s u →
      AnswersV s (.vins gu ty d ga gb) u d ty.toNat (fun i => i == k) (fun _ => bits (s.rg ga).toNat))
  ) ∧
  (
  ∀ (s : State) (gu : Guard) (ty : BitVec 4) (sat : Bool) (d a b : VReg),
    let n := lanesOfTy ty.toNat
    let w := bitsOf ty.toNat
    let act := s.active gu ty.toNat
    let x := fun i => lane (s.rv a) w i
    let y := fun i => lane (s.rv b) w i
    let isTree := fun (α : Type) (op : α → α → α × FFlags) (term : Nat → α × FFlags) (node : Nat → Nat → Option (α × FFlags)) =>
      (∀ i, i < n → node 0 i = if act i then some (term i) else none) ∧
      ∀ l k, k < n / 2 ^ (l + 1) → node (l + 1) k =
        match node l (2 * k), node l (2 * k + 1) with
        | none, r => r
        | l, none => l
        | some (p, f), some (q, g) => some ((op p q).1, (f.or g).or (op p q).2)
    let addInt := fun (p q : Nat) =>
      let v := intVal ty.toNat p + intVal ty.toNat q
      (intBits ty.toNat (if sat then max (intLo ty.toNat) (min (intHi ty.toNat) v) else v), ({} : FFlags))
    let addFp := fun (p q : FVal) =>
      let t := fmtOf (if ty.toNat = 0 then 0 else 1)
      let v := addV 0 p q
      (decF t (roundF t 0 false v.1).1, v.2.or (roundF t 0 false v.1).2)
    let lower := fun (p q : Nat) =>
      if isInt ty.toNat then decide (intVal ty.toNat p < intVal ty.toNat q)
      else
        let v := elemVal ty.toNat p
        let u := elemVal ty.toNat q
        cmpV v u == .lt || (cmpV v u == .eq && (v.neg? && !u.neg?))
    let pick := fun (big : Bool) (p q : Nat) =>
      let v := elemVal ty.toNat p
      let u := elemVal ty.toNat q
      if !isInt ty.toNat && (v.isNan || u.isNan) then (qnan (fmtOf ty.toNat), ({ nv := v.isSig || u.isSig } : FFlags))
      else (if lower p q = big then q else p, {})
    let rne32 := fun (e : FVal × FFlags) => (decF (fmtOf 1) (roundF (fmtOf 1) 0 false e.1).1, e.2.or (roundF (fmtOf 1) 0 false e.1).2)
    let last := fun (e : FVal × FFlags) =>
      let r := roundF (fmtOf ty.toNat) 0 false e.1
      (r.1, e.2.or { r.2 with nv := r.2.nv || e.1.isSig })
    let reduces := fun (i : Instr) (u : Uses) (r : Option LaneRes) => ∃ t, exec i s = .next t ∧
      match r with
      | none => Completes s t u (s.pc + 12) [] [] [] {} []
      | some (x, f) => Completes s t u (s.pc + 12) [] [] [d.toNat] f [] ∧
          ∀ k, k < n → lane (t.rv d) w k = if k = 0 then x % 2 ^ w else 0
    (let u := { vecUses gu ty [a] [] s with vw := [d.toNat] }
     IssuesPlain s u →
      (isInt ty.toNat = true → ∃ node, isTree Nat addInt (fun i => (x i, {})) node ∧
        reduces (.vrsum gu ty sat d a) u (node (Nat.log2 n) 0)) ∧
      (isInt ty.toNat = false → ∃ node, isTree FVal addFp (fun i => (elemVal ty.toNat (x i), {})) node ∧
        reduces (.vrsum gu ty sat d a) u ((node (Nat.log2 n) 0).map last)) ∧
      (∃ node, isTree Nat (pick false) (fun i => (x i, {})) node ∧ reduces (.vrmin gu ty d a) u (node (Nat.log2 n) 0)) ∧
      (∃ node, isTree Nat (pick true) (fun i => (x i, {})) node ∧ reduces (.vrmax gu ty d a) u (node (Nat.log2 n) 0))) ∧
    (let u := { vecUses gu ty [a, b] [] s with vw := [d.toNat] }
     IssuesPlain s u →
      ∃ node, isTree FVal addFp (fun i => mulV (elemVal ty.toNat (x i)) (elemVal ty.toNat (y i))) node ∧
        reduces (.vdot gu ty d a b) u
          ((node (Nat.log2 n) 0).map (fun e => last (if ty.toNat = 0 then e else rne32 e))))
  )

/-- R53, R46: both halves of a pair read all their operands before either writes; each half executes as its own guard
test says, and a half that does not leaves no effect. -/
def Obligations.PairReadsBeforeWrites : Prop :=
  ∀ (s : State) (gu : Guard) (sh : SHalf) (vh : VHalf), IssuesPlain s (pairUses gu sh vh s) →
    let x := halfVal s.rg s.rp s.pc sh
    let y := s.vhalf (s.active gu (vhalfTy vh)) vh
    ∃ t, exec (.pair gu sh vh) s = .next t ∧
      Completes s t (pairUses gu sh vh s) (s.pc + if sh.lit?.isSome then 20 else 12)
        (if s.guard gu then (halfDst sh).gs else [])
        ((if s.guard gu then (match halfDst sh with | .p d => [d.toNat] | .g _ => []) else []) ++
          (match vh with | .vcmp _ _ d _ _ => [d.toNat] | _ => []))
        ((vhalfDst vh).toList.map (fun r => r.toNat))
        (if s.vguard gu (vhalfTy vh) then (match y with | .v _ r => r.flags | .p _ _ f => f) else {}) [] ∧
      (s.guard gu = true → ∀ d, halfDst sh = .g d → t.rg d = if d = 0 then 0 else x) ∧
      (s.guard gu = true → ∀ d, halfDst sh = .p d → (∀ d' w f, y = .p d' w f → d' ≠ d) →
        t.rp d = if d = 7 then ones else x) ∧
      (s.vguard gu (vhalfTy vh) = true → ∀ d r, y = .v d r → t.rv d = blend (s.rv d) r.val r.mask) ∧
      (s.vguard gu (vhalfTy vh) = true → ∀ d w f, y = .p d w f → t.rp d = if d = 7 then ones else w)

/-! ## One step, and what stands before an instruction's effect -/

/-- R38, R183, R402: a core that may issue fetches the words at its PC; the instruction they decode to is executed, at
the running level, with those words at hand; words that no encoding matches trap ILLEGAL; a fetch that fails is a
fault of the instruction there. An instruction that has issued and waits is executed again, and so is one that stalls at issue
(R331; `stalled`, log entry 13). A whole step of another unit acts on the state as it is. The model's choice (log entry 32): when a cycle comes to its end (`closing`), only what
belongs there happens (`atEnd`), and nothing of it happens before. -/
def Obligations.StepRunsTheDecodedInstruction : Prop :=
  (∀ (s : State) (ck : Nat) (rest : List Act), s.agenda = .issue ck :: rest →
    let s' := { s with agenda := rest, stepNo := s.stepNo + 1 }
    let th := (s'.core ck).thr (s'.core ck).level
    s.closing = false → (s'.core ck).stopped = false →
    (th.hold = .ready → (s'.core ck).mayIssue = true →
      (∀ ws t i, s'.fetchInstr ck th.pc = .words ws t → decodeWords ws = some i → step s = exec i (t.loadIr ck ws)) ∧
      (∀ ws t, s'.fetchInstr ck th.pc = .words ws t → decodeWords ws = none →
        step s = exec (.illegalEncoding (ws.getD 0 0)) (t.loadIr ck ws)) ∧
      (∀ va why t, s'.fetchInstr ck th.pc = .fail va why t → step s = exec (.fetchFault va why) { t with cur := ck }) ∧
      (s'.fetchInstr ck th.pc = .stall → step s = .next s')) ∧
    (th.hold = .issued ∨ (th.hold = .stalled ∧ (s'.core ck).mayIssue = true) → ∀ i, decodeWords th.ir = some i →
      step s = exec i (s'.loadIr ck th.ir))) ∧
  (∀ (s : State) (i : Instr) (rest : List Act), s.agenda = .event i :: rest → i.unit = .event → atEnd i = s.closing →
    step s = exec i { s with agenda := rest, stepNo := s.stepNo + 1 })

/-- R38, R402, R411, R436: a word is fetched through the instruction TLB and, where the bay's instruction cache holds
its line, from there: four bytes, least significant first. An address outside the global window fails. -/
def Obligations.WordsAreFetchedFromTheirLine : Prop :=
  ∀ (s : State) (ck : Nat) (va : Word),
    (2 ^ 52 ≤ va.toNat → s.fetchWord ck va = .fail va .aperture s) ∧
    (∀ e line, va.toNat < 2 ^ 52 →
      ((s.bay (bayOf ck)).ift.find? (fun e => e.maps (s.hallOfCore ck).asid va.toNat)) = some e →
      e.permits 2 (s.core ck).pv = true →
      let pa := e.pa + va.toNat % 2 ^ e.size
      (s.bay (bayOf ck)).icache.find? (fun l => l.1 == pa / 128) = some (pa / 128, line) →
      ∃ t, s.fetchWord ck va = .words [BitVec.ofNat 32 (line.toNat / 2 ^ (8 * (pa % 128)))] t ∧
        t = { s with bays := t.bays } ∧ ∀ bk, bk ≠ bayOf ck → t.bay bk = s.bay bk)

/-- No instruction and no step ends the machine: every meaning gives every state a next one. -/
def Obligations.EveryStepHasANextState : Prop :=
  (∀ (i : Instr) (s : State), ∃ t, exec i s = .next t) ∧ (∀ s : State, StepsSafely s) ∧ ∀ n (s : State), SafeRun n s

/-- R46, R47: an instruction whose guard is false counts as one issued instruction and does nothing else. R46: which
guard each class tests. A false guard turns off a jump and every scalar, X-class and C-class operation by bit 0 of its
predicate, and a V-class operation when it holds for no lane. (An instruction that is ILLEGAL or privileged traps before
its guard is tested, R62.) -/
def Obligations.GuardsTurnInstructionsOff : Prop :=
  (
  ∀ (s : State) (u : Uses) (body : State → Res), u.on = false → (s.me.thr s.lv).hold = .ready → u.priv = none →
    u.illegal = false → (s.lv = false → s.me.maskOpen = true → u.uncounted = false → s.me.maskCnt < 64) →
    ∃ t, s.runs u body = .next t ∧ t = State.after s u s (s.pc + word u.len) ∧
      t.mem = s.mem ∧ t.me.v = s.me.v ∧ t.me.gHi = s.me.gHi ∧
      t.me.pend = s.me.pend.map (fun p => if p.lv = s.lv ∧ p.id < s.ctr then { p with win := p.win - 1 } else p)
  ) ∧
  (
  ∀ (s : State) (gu : Guard) (ty la : BitVec 4) (rm : BitVec 3) (sat : Bool) (h : Hint) (d a b : Reg) (v w : VReg)
    (t : TReg) (disp : BitVec 20) (imm : BitVec 24) (rows rb bm : BitVec 8),
    (s.me.thr s.lv).hold = .ready → (s.lv = false → s.me.maskOpen = true → s.me.maskCnt < 64) →
    let off := fun (i : Instr) (len : Nat) => i.wf = true →
      ∃ u : Uses, u.on = false ∧ exec i s = .next (State.after s u s (s.pc + word len))
    (s.guard gu = false →
      off (.br gu disp) 4 ∧ off (.jal gu disp) 4 ∧ off (.nmask gu d a b imm) 12 ∧ off (.tcfg gu ty t rows rb) 12 ∧
      off (.tld gu la h d a b a sat t bm) 12 ∧ off (.cpgo gu la d a) 12 ∧ off (.nmcmd gu la d a) 12 ∧
      off (.amoadd gu la ty sat h d a b imm) 12 ∧ off (.rdadd gu ty h a b imm) 12 ∧ off (.pbarr gu la d a) 12 ∧
      off (.pbwait gu d a b) 12 ∧ off (.spawn gu d a b) 12 ∧ off (.tend gu) 12 ∧ off (.step gu d) 12 ∧
      off (.vext gu ty d v a) 12 ∧ off (.vins gu ty v a b) 12 ∧ off (.coll gu la d a) 12) ∧
    (s.vguard gu ty.toNat = false →
      off (.vadd gu ty rm sat v w w) 12 ∧ off (.vdiv gu la ty rm sat v w w) 12 ∧ off (.vrsum gu ty sat v w) 12 ∧
      off (.vmov gu ty v w) 12 ∧ off (.vld gu la ty h v a imm) 12 ∧ off (.vst gu ty h v a imm) 12)
  )

/-- R61, R62: of several traps that apply, an instruction takes one: ILLEGAL, then PRIV, then WINDOW (a masked window
that is full, a masked window that forbids it, an open lookahead window over a register it writes), and only then
those of its own entry; ILLEGAL, PRIV and the full masked window come before its guard (log entry 13). R404, R405: trap entry.
With TVEC clear of a handler's address the trap's registers are written and the thread blocks, its message posted to the
service core or waiting for room there (R415); with a handler, PV is saved and set, T is set, the masked window closes and
execution goes on at TVEC at the same level; a trap while T is 1 changes none of the trap registers. No register of either
bank is written. R408: ERET clears T, restores PV and resumes the level of TCAUSE.LEVEL at TPC; with T clear it traps
ILLEGAL. The model's choice (log entry 17): it is the level of TCAUSE.LEVEL that runs on, whatever level executes the
ERET. -/
def Obligations.TrapsAndReturn : Prop :=
  (
  ∀ (s : State) (u : Uses) (body : State → Res), (s.me.thr s.lv).hold = .ready →
    let full := s.lv = false ∧ s.me.maskOpen = true ∧ u.uncounted = false ∧ 64 ≤ s.me.maskCnt
    let masked := s.lv = false ∧ s.me.maskOpen = true ∧ (u.nomask = true ∨ s.me.namesPort u = true)
    (u.illegal = true → s.runs u body = .next (s.trap tILLEGAL (s.irWord 0))) ∧
    (u.illegal = false → (∀ v, u.priv = some v → s.me.pv = false →
      s.runs u body = .next (s.trap tPRIV (v.getD (s.irWord 0)))) ∧
      ((u.priv = none ∨ s.me.pv = true) →
        (full → s.runs u body = .next ((s.updMe (fun c => { c with maskOpen := false, maskCnt := 0 })).trap tWINDOW 65)) ∧
        (u.on = true → ¬ full → masked → s.runs u body = .next (s.trap tWINDOW 0)) ∧
        (u.on = true → ¬ full → ¬ masked → ∀ p, s.me.violated u = some p → s.runs u body = .next (s.trap tWINDOW p.pc))))
  ) ∧
  (
  ∀ (s : State) (ck : Nat) (lv fetch : Bool) (code : Nat) (tval : Word),
    let c := s.core ck
    let t := s.trapEntry ck lv code tval fetch
    let d := t.core ck
    let svc := s.tile (tileOf (s.hallOfCore ck).service)
    let room := svc.lastPost.1 ≠ s.cycle ∧ svc.overflow.length < 2048
    (c.tBit = false →
      d.tpc = ((c.thr lv).pc &&& ~~~3) ∧ d.tval = tval ∧
      d.tcause = word (code + (if fetch then 256 else 0) + (if lv then 512 else 0)) ∧
      (c.tvec.toNat / 4 ≠ 0 →
        d.tBit = true ∧ d.pvSave = c.pv ∧ d.pv = true ∧ d.maskOpen = false ∧ d.level = c.level ∧
        (d.thr lv).pc = (c.tvec &&& ~~~3) ∧ (d.thr lv).hold = .ready ∧
        (d.thr lv).g = (c.thr lv).g ∧ (d.thr lv).p = (c.thr lv).p ∧ d.gHi = c.gHi ∧ d.v = c.v ∧
        d.thr (!lv) = c.thr (!lv) ∧ t = { s with cores := t.cores } ∧ ∀ k, k ≠ ck → t.core k = s.core k) ∧
      (c.tvec.toNat / 4 = 0 → ck ≠ (s.hallOfCore ck).service →
        d.tBit = false ∧ d.pv = c.pv ∧ (d.thr lv).pc = (c.thr lv).pc ∧
        ((d.thr lv).hold = .service false code (c.thr lv).pc ∨ (d.thr lv).hold = .unserviced false code (c.thr lv).pc) ∧
        (room → (d.thr lv).hold = .service false code (c.thr lv).pc))) ∧
    (c.tBit = true → ck ≠ (s.hallOfCore ck).service →
      d.tpc = c.tpc ∧ d.tval = c.tval ∧ d.tcause = c.tcause ∧ d.tBit = true ∧
      ((d.thr lv).hold = .service true code (c.thr lv).pc ∨ (d.thr lv).hold = .unserviced true code (c.thr lv).pc) ∧
      (room → (d.thr lv).hold = .service true code (c.thr lv).pc))
  ) ∧
  (
  ∀ s : State, Issues s { blocking := true } →
    (s.me.tBit = true →
      ∃ t, exec .eret s = .next t ∧
        t.me.tBit = false ∧ t.me.pv = s.me.pvSave ∧ t.me.level = s.me.tcause.getLsbD 9 ∧
        t.me.pcOf (s.me.tcause.getLsbD 9) = s.me.tpc ∧ (s.me.tcause.getLsbD 9 = s.lv → (t.me.thr s.lv).hold = .ready) ∧
        (∀ lv r, t.me.g lv r = s.me.g lv r) ∧ (∀ lv r, t.me.p lv r = s.me.p lv r) ∧ t.me.v = s.me.v ∧
        t.me.tvec = s.me.tvec ∧ t.me.tpc = s.me.tpc ∧ t.me.tval = s.me.tval ∧ t.me.tcause = s.me.tcause ∧
        t.mem = s.mem) ∧
    (s.me.tBit = false → exec .eret s = .next (s.trap tILLEGAL (s.irWord 0)))
  )

/-- R400, R409: the instructions that need PV: GETS and SETS of registers 0x100 to 0x103, with the register's number
as TVAL, and TLBINV, MSAVE and MREST, with word 0; the number of no register traps ILLEGAL, whatever PV is. -/
def Obligations.PrivilegedInstructions : Prop :=
  ∀ (s : State) (gu : Guard) (la : BitVec 4) (d a : Reg) (num : BitVec 12) (scope : BitVec 3),
    (s.me.thr s.lv).hold = .ready →
    let ill := fun (i : Instr) => exec i s = .next (s.trap tILLEGAL (s.irWord 0))
    let priv := fun (i : Instr) (v : Word) => exec i s = .next (s.trap tPRIV v)
    (s.sysReg num.toNat = none → ill (.gets a num) ∧ ill (.sets a num)) ∧
    (s.me.pv = false →
      (0x100 ≤ num.toNat → num.toNat ≤ 0x103 →
        priv (.gets a num) (num.setWidth 64) ∧ priv (.sets a num) (num.setWidth 64)) ∧
      priv (.tlbinvPage a scope) (s.irWord 0) ∧ priv (.tlbinvAsid a scope) (s.irWord 0) ∧
      priv (.tlbinvAll a scope) (s.irWord 0) ∧ priv (.tlbinvPin a scope) (s.irWord 0) ∧
      priv (.msave gu la d a) (s.irWord 0) ∧ priv (.mrest gu la d a) (s.irWord 0))

/-- R51, R407: TRAP and BKPT trap with their own codes and their immediate as TVAL; with no result of the thread
pending, no trap being handled and a handler set, the handler's first instruction is next. R401, R402: words that no
encoding matches trap ILLEGAL with word 0 as TVAL; a fetch that fails outside translation traps with FETCH set and the
address of the word as TVAL. The instruction has no effect: with a handler set, no trap being handled and nothing
pending, the handler is next. -/
def Obligations.TrapBreakpointAndIllegalWords : Prop :=
  (
  (∀ (s : State) (imm : BitVec 12), Issues s {} →
    exec (.trap imm) s = .next (s.trap tTRAP (imm.setWidth 64)) ∧ exec (.bkpt imm) s = .next (s.trap tBKPT (imm.setWidth 64))) ∧
  ∀ (s : State) (imm : BitVec 12), Issues s {} → (∀ p ∈ s.me.pend, p.lv ≠ s.lv) → s.me.tBit = false →
    s.me.tvec.toNat / 4 ≠ 0 →
    let enters := fun (i : Instr) (code : Nat) => ∃ t, exec i s = .next t ∧
      t.pc = (s.me.tvec &&& ~~~3) ∧ (t.me.thr s.lv).hold = .ready ∧ t.me.level = s.me.level ∧
      t.me.tpc = (s.pc &&& ~~~3) ∧ t.me.tval = imm.setWidth 64 ∧
      t.me.tcause = word (code + (if s.lv then 512 else 0)) ∧ t.me.tBit = true ∧ t.me.pvSave = s.me.pv ∧
      t.me.pv = true ∧ (∀ r, t.me.g s.lv r = s.me.g s.lv r) ∧ (∀ r, t.me.p s.lv r = s.me.p s.lv r) ∧
      t.me.v = s.me.v ∧ t.mem = s.mem
    enters (.trap imm) 14 ∧ enters (.bkpt imm) 13
  ) ∧
  (
  ∀ (s : State) (w : BitVec 32) (va : Word), (∀ p ∈ s.me.pend, p.lv ≠ s.lv) → s.me.tBit = false →
    s.me.tvec.toNat / 4 ≠ 0 →
    let enters := fun (i : Instr) (cause : Nat) (tval : Word) => ∃ t, exec i s = .next t ∧
      t.pc = (s.me.tvec &&& ~~~3) ∧ (t.me.thr s.lv).hold = .ready ∧ t.me.tBit = true ∧
      t.me.tpc = (s.pc &&& ~~~3) ∧ t.me.tval = tval ∧ t.me.tcause = word (cause + (if s.lv then 512 else 0)) ∧
      (∀ r, t.me.g s.lv r = s.me.g s.lv r) ∧ (∀ r, t.me.p s.lv r = s.me.p s.lv r) ∧ t.me.v = s.me.v ∧ t.mem = s.mem
    enters (.illegalEncoding w) 1 (w.setWidth 64) ∧
    enters (.fetchFault va .aperture) (256 + 5) va ∧
    enters (.fetchFault va .poison) (256 + 8) va ∧
    enters (.fetchFault va .refused) (256 + 9) va
  )

/-- R328 to R330: a bound consumer port read as a source gives the oldest element of its ring, once, however often the
instruction names it, and pops it: HEAD advances, its mirror in the scratchpad is written, and a credit goes back; a
bound producer port written as the destination pushes the result and spends a credit. Stated of ADD; every form reads
and writes its registers by the same two operations. -/
def Obligations.StreamPortsPopAndPush : Prop :=
  ∀ (s : State) (d a b : Reg) (qi qo : Nat), Issues s (scalar 4 [a, b] [d]) →
    s.me.port a.toNat = some qi → (b = a ∨ s.me.port b.toNat = none) → s.me.port d.toNat = some qo → qi ≠ qo →
    (s.me.qreg qi).st = .bound →
    let x := word (s.spadRead s.cur ((s.me.qreg qi).base + 16 + 8 * ((s.me.qreg qi).head % (max (s.me.qreg qi).slots 1))) 8)
    ∃ t, exec (.add d a b) s = .next t ∧ t.pc = s.pc + 4 ∧
      (t.me.qreg qi).head = (s.me.qreg qi).head + 1 ∧
      (t.me.qreg qo).credits = (s.me.qreg qo).credits - 1 ∧
      t.qflight = s.qflight ++
        [{ core := (s.me.qreg qo).peer.1, q := (s.me.qreg qo).peer.2,
           msg := .push (x + if b = a then x else s.rg b), id := s.ctr, src := s.cur },
         { core := (s.me.qreg qi).peer.1, q := (s.me.qreg qi).peer.2, msg := .credit }] ∧
      t.mem.spad = putBytes s.mem.spad (s.cur * 2 ^ 17 + (s.me.qreg qi).base) 8 ((s.me.qreg qi).head + 1) ∧
      (∀ lv r, t.me.g lv r = s.me.g lv r) ∧ t.me.v = s.me.v

/-! ## Memory instructions -/

/-- R132, R134, R138, R140, R269: each scalar load reads its number of bytes at g[a] plus six bits of offset times the
size, or plus the literal, and extends them with zeros or with the sign. The model's choice (log entry 8): a load that a home
slice or the other die answers holds its thread until it has been served. -/
def Obligations.ScalarLoads : Prop :=
  ∀ (s : State) (d a : Reg) (la : BitVec 4) (h : Hint) (off : BitVec 6) (lit : Word),
    let u := { scalar 4 [a] [d] with long := true }
    let v := { scalar 12 [a] [d] with long := true }
    let at_ := fun (k : Nat) => s.rg a + off.signExtend 64 * word k
    (IssuesPlain s u →
      LoadsG s (.ldb d a la h off) u d la h false 1 false (at_ 1) ∧
      LoadsG s (.ldbs d a la h off) u d la h true 1 false (at_ 1) ∧
      LoadsG s (.ldh d a la h off) u d la h false 2 false (at_ 2) ∧
      LoadsG s (.ldhs d a la h off) u d la h true 2 false (at_ 2) ∧
      LoadsG s (.ldw d a la h off) u d la h false 4 false (at_ 4) ∧
      LoadsG s (.ldws d a la h off) u d la h true 4 false (at_ 4) ∧
      LoadsG s (.ldd d a la h off) u d la h false 8 true (at_ 8)) ∧
    (IssuesPlain s v →
      LoadsG s (.ldbLiteral d a la h lit) v d la h false 1 false (s.rg a + lit) ∧
      LoadsG s (.ldbsLiteral d a la h lit) v d la h true 1 false (s.rg a + lit) ∧
      LoadsG s (.ldhLiteral d a la h lit) v d la h false 2 false (s.rg a + lit) ∧
      LoadsG s (.ldhsLiteral d a la h lit) v d la h true 2 false (s.rg a + lit) ∧
      LoadsG s (.ldwLiteral d a la h lit) v d la h false 4 false (s.rg a + lit) ∧
      LoadsG s (.ldwsLiteral d a la h lit) v d la h true 4 false (s.rg a + lit) ∧
      LoadsG s (.lddLiteral d a la h lit) v d la h false 8 true (s.rg a + lit))

/-- R134, R138, R140, R259: each scalar store sends the low bytes of g[d]; the bytes change when the request is
performed at its place, and no byte, register or flag changes at issue. -/
def Obligations.ScalarStores : Prop :=
  ∀ (s : State) (d a : Reg) (h : Hint) (off : BitVec 6) (lit : Word),
    let u := scalar 4 [d, a] []
    let v := scalar 12 [d, a] []
    let x := s.rg d
    (IssuesPlain s u →
      StoresG s (.stb d a h off) u h 1 false (s.rg a + off.signExtend 64 * word 1) x ∧
      StoresG s (.sth d a h off) u h 2 false (s.rg a + off.signExtend 64 * word 2) x ∧
      StoresG s (.stw d a h off) u h 4 false (s.rg a + off.signExtend 64 * word 4) x ∧
      StoresG s (.std d a h off) u h 8 true (s.rg a + off.signExtend 64 * word 8) x) ∧
    (IssuesPlain s v →
      StoresG s (.stbLiteral d a h lit) v h 1 false (s.rg a + lit) x ∧
      StoresG s (.sthLiteral d a h lit) v h 2 false (s.rg a + lit) x ∧
      StoresG s (.stwLiteral d a h lit) v h 4 false (s.rg a + lit) x ∧
      StoresG s (.stdLiteral d a h lit) v h 8 true (s.rg a + lit) x)

/-- R139, R140, R412: what placing an address changes. An address outside the global window, and one whose page stands
in the bay's TLB, is placed without a walk: nothing but that bay's TLB changes. R135, R136: PREF and EVICT never trap:
a page that does not translate, host memory and an address outside the global window make them do nothing; else a request
for the line of the address, or to drop it, goes to its home slice, behind the core's earlier accesses there. That EVICT
translates its address as a load does is the model's choice (log entry 43). -/
def Obligations.PlacingPrefetchAndEvict : Prop :=
  (
  ∀ (s s' : State) (acc : Acc) (ok : Bool) (a : Word) (g : Go), s.place acc ok a = (g, s') →
    (2 ^ 52 ≤ a.toNat → s' = s ∧ ∀ pa, g ≠ .loc (.glob pa)) ∧
    (∀ e, a.toNat < 2 ^ 52 → (s.bay (bayOf s.cur)).vlt.find? (fun e => e.maps s.myHall.asid a.toNat) = some e →
      Quiet s s' ∧
      g = if e.permits acc s.me.pv then .loc (.glob (e.pa + a.toNat % 2 ^ e.size)) else .page a rPERM) ∧
    (∀ off, off < 98304 → a.toNat = 0xFF00 * 2 ^ 48 + off → g = .loc (.spad s.cur off)) ∧
    (∀ off, off < 32768 → a.toNat = 0xFF01 * 2 ^ 48 + off →
      g = .loc (.vault (vaultOf (tileOf s.cur)) (coreIdx s.cur * 32768 + off))) ∧
    (∀ k off, k < 64 → off < 98304 → a.toNat = 0xFF02 * 2 ^ 48 + k * 2 ^ 17 + off →
      g = .loc (.spad (tileOf s.cur * 64 + k) off)) ∧
    (∀ off, off < 16384 → a.toNat = 0xFF03 * 2 ^ 48 + off → g = .loc (.gal (tileOf s.cur) off)) ∧
    (∀ v off, v < 128 → 0x400000 ≤ off → off < 12582912 → a.toNat = 0xFF04 * 2 ^ 48 + v * 2 ^ 24 + off →
      g = if s.me.pv ∨ (s.tile (tileOfVault v)).hall = (s.tile (tileOf s.cur)).hall then .loc (.vault v off)
          else .trap tAPERTURE a) ∧
    (0x10 * 2 ^ 48 ≤ a.toNat → a.toNat < 0xFF00 * 2 ^ 48 → g = .trap tAPERTURE a)
  ) ∧
  (
  ∀ (s : State) (a : Reg) (h : Hint) (off : BitVec 6) (lit : Word),
    let does := fun (i j : Instr) (len : Nat) (va : Word) => IssuesPlain s (scalar len [a] []) →
      let u := scalar len [a] []
      let placed := fun (w : Nat) => s.translate (bayOf s.cur) .vlt s.rqst s.myHall.asid w 0 s.me.pv
      ((∀ w, s.steer s.cur s.me.pv va ≠ some (.glob w)) → Performs s i u s ∧ Performs s j u s) ∧
      ∀ w, s.steer s.cur s.me.pv va = some (.glob w) →
        (∀ why s', placed w = (.fault why, s') → Performs s i u s' ∧ Performs s j u s') ∧
        (∀ s', placed w = (.wait, s') → exec i s = .next s ∧ exec j s = .next s) ∧
        ∀ pa s', placed w = (.phys pa, s') →
          (isHost pa = true → Performs s i u s' ∧ Performs s j u s') ∧
          (isHost pa = false →
            let r : Req := { va := va, loc := .glob (pa / 128 * 128), n := 128, bytes := BitVec.ofNat 128 (2 ^ (pa % 128)),
                             hint := h }
            Performs s i u (s'.send { r with op := .pref }) ∧ Performs s j u (s'.send { r with op := .evict }))
    does (.pref a h off) (.evict a h off) 4 (s.rg a + off.signExtend 64 * 8) ∧
    does (.prefLiteral a h lit) (.evictLiteral a h lit) 12 (s.rg a + lit) ∧
    ∀ va : Word, 2 ^ 52 ≤ va.toNat → ∀ w, s.steer s.cur s.me.pv va ≠ some (.glob w)
  )

/-- R137, R138: where the lanes of the vector loads and stores lie: consecutive elements, a stride in g[b], and
indices scaled by the element size. The active lanes are accessed, no others; all are placed before any is accessed; a
misaligned lane traps; an aligned VLD or VST is one access of its line. The result of a load comes to a pending
result. R132: the stores that find no place in the store queue of 16 wait, and the instruction with them. R138: a VLD or
VST whose address is a multiple of 128 is one access of 128 bytes, of which the active lanes are read or written. The
model's choice (log entry 8): a load whose lines home slices or the other die answer holds its thread until they are served. -/
def Obligations.VectorLoadsAndStores : Prop :=
  (
  ∀ (s : State) (gu : Guard) (la ty : BitVec 4) (h : Hint) (d : VReg) (a b : Reg) (x : VReg) (imm : BitVec 24) (lit : Word),
    let w := bitsOf ty.toNat / 8
    let lanes := fun (addr : Nat → Word) => ((List.range (128 / w)).filter (s.active gu ty.toNat)).map
      (fun i => ({ idx := i, byte := i * w, n := w, addr := addr i } : Elem))
    let mask := laneMask (bitsOf ty.toNat) (s.active gu ty.toNat)
    let loads := fun (i : Instr) (len : Nat) (rs : List Reg) (vs : List VReg) (unit : Bool) (addr : Nat → Word) =>
      let u : Uses := { len := len, on := s.vguard gu ty.toNat, rs := rs.map (fun r => r.toNat),
                        vs := vs.map (fun v => v.toNat), vw := [d.toNat], long := true }
      let es := lanes addr
      IssuesPlain s u → (unit = false ∨ (addr 0).toNat % 128 ≠ 0) →
      (∀ e, es.find? (fun e => e.addr.toNat % e.n != 0) = some e → exec i s = .next (s.trap tALIGN e.addr)) ∧
      ∀ gs s' (ls : List (Elem × Loc)), (∀ e ∈ es, e.addr.toNat % e.n = 0) → s.placeAll 0 false es = (gs, s') →
        gs = ls.map (fun e => (e.1, Go.loc e.2)) →
        (∀ e ∈ ls, s.ownScore e.2 w = false ∧ s.rmwAwaited e.2 w = false ∧ s.forward e.2 w (BitVec.allOnes 128) ≠ .partly) →
        let r := State.startLoads { s' with ctr := s'.ctr + 1 } (s'.newPend (some (.v d.toNat)) la.toNat ls.length .mem mask) h false ls
        (r.1.acc = 0 → r.1.bad = none → Performs s i u (r.2.putPend r.1)) ∧
        (r.1.acc ≠ 0 → Waits s i u (r.2.putPend r.1) (.access r.1.id))
    let stores := fun (i : Instr) (len : Nat) (rs : List Reg) (vs : List VReg) (unit : Bool) (addr : Nat → Word) =>
      let u : Uses := { len := len, on := s.vguard gu ty.toNat, rs := rs.map (fun r => r.toNat),
                        vs := d.toNat :: vs.map (fun v => v.toNat) }
      let es := lanes addr
      IssuesPlain s u → (unit = false ∨ (addr 0).toNat % 128 ≠ 0) →
      (∀ e, es.find? (fun e => e.addr.toNat % e.n != 0) = some e → exec i s = .next (s.trap tALIGN e.addr)) ∧
      ∀ gs s' (ls : List (Elem × Loc)), (∀ e ∈ es, e.addr.toNat % e.n = 0) → s.placeAll 1 false es = (gs, s') →
        gs = ls.map (fun e => (e.1, Go.loc e.2)) → s.storesFull = false →
        (∀ e ∈ ls, s.ownScore e.2 w = false ∧ s.overBarrier e.2 w = false) →
        let rs := ls.map (fun e =>
          ({ op := .store, va := e.1.addr, loc := e.2, n := w, data := BitVec.ofNat 1024 (lane (s.rv d) (8 * w) e.1.idx),
             bytes := BitVec.allOnes 128, hint := h } : Req))
        let room := 16 - s.storesQueued
        (rs.length ≤ room → Performs s i u (rs.foldl State.send s')) ∧
        (room < rs.length →
          Waits s i u (((rs.take room).foldl State.send s').updMe (fun c => c.setRest (rs.drop room))) .issued)
    let near := fun (off : Word) (i : Nat) => s.rg a + off + word (i * w)
    let far := fun (off : Word) (i : Nat) => s.rg a + off + word i * s.rg b
    let wide := fun (off : Word) (i : Nat) => s.rg a + off +
      BitVec.ofInt 64 ((BitVec.ofNat (8 * w) (lane (s.rv x) (8 * w) i)).toInt * (w : Int))
    (8 * w = bitsOf ty.toNat →
      loads (.vld gu la ty h d a imm) 12 [a] [] true (near (imm.signExtend 64)) ∧
      loads (.vldLiteral gu la ty h d a lit) 20 [a] [] true (near lit) ∧
      loads (.vlds gu la ty h d a b imm) 12 [a, b] [] false (far (imm.signExtend 64)) ∧
      loads (.vldsLiteral gu la ty h d a b lit) 20 [a, b] [] false (far lit) ∧
      loads (.vgath gu la ty h d a x imm) 12 [a] [x] false (wide (imm.signExtend 64)) ∧
      loads (.vgathLiteral gu la ty h d a x lit) 20 [a] [x] false (wide lit) ∧
      stores (.vst gu ty h d a imm) 12 [a] [] true (near (imm.signExtend 64)) ∧
      stores (.vstLiteral gu ty h d a lit) 20 [a] [] true (near lit) ∧
      stores (.vsts gu ty h d a b imm) 12 [a, b] [] false (far (imm.signExtend 64)) ∧
      stores (.vstsLiteral gu ty h d a b lit) 20 [a, b] [] false (far lit) ∧
      stores (.vscat gu ty h d a x imm) 12 [a] [x] false (wide (imm.signExtend 64)) ∧
      stores (.vscatLiteral gu ty h d a x lit) 20 [a] [x] false (wide lit))
  ) ∧
  (
  ∀ (s : State) (gu : Guard) (la ty : BitVec 4) (h : Hint) (d : VReg) (a : Reg) (imm : BitVec 24) (lit : Word),
    let line := fun (i j : Instr) (len : Nat) (va : Word) =>
      let es := s.vElems gu ty.toNat (fun i => va + word (i * (bitsOf ty.toNat / 8)))
      let ul : Uses := { len := len, on := s.vguard gu ty.toNat, rs := [a.toNat], vw := [d.toNat], long := true }
      let us : Uses := { len := len, on := s.vguard gu ty.toNat, rs := [a.toNat], vs := [d.toNat] }
      va.toNat % 128 = 0 → ∀ e rest, es = e :: rest →
      (IssuesPlain s ul → ∀ l s', s.place 0 false e.addr = (.loc l, s') →
        (∀ x ∈ es, s.ownScore (l.lineStart.add x.byte) x.n = false ∧ s.rmwAwaited (l.lineStart.add x.byte) x.n = false) →
        s.forward l.lineStart 128 (elemBytes es) ≠ .partly →
        let r := State.startLoad { s' with ctr := s'.ctr + 1 }
          (s'.newPend (some (.v d.toNat)) la.toNat 1 .mem (laneMask (bitsOf ty.toNat) (s.active gu ty.toNat))) h false
          { idx := 0, byte := 0, n := 128, addr := e.addr } l.lineStart (elemBytes es)
        (r.1.acc = 0 → r.1.bad = none → Performs s i ul (r.2.putPend r.1)) ∧
        (r.1.acc ≠ 0 → Waits s i ul (r.2.putPend r.1) (.access r.1.id))) ∧
      (IssuesPlain s us → ∀ l s', s.place 1 false e.addr = (.loc l, s') → s.storesFull = false →
        (∀ x ∈ es, s.ownScore (l.lineStart.add x.byte) x.n = false ∧ s.overBarrier (l.lineStart.add x.byte) x.n = false) →
        Starts s s' j us (s'.send
          { op := .store, va := e.addr, loc := l.lineStart, n := 128, data := s.rv d, bytes := elemBytes es, hint := h }))
    line (.vld gu la ty h d a imm) (.vst gu ty h d a imm) 12 (s.rg a + imm.signExtend 64) ∧
    line (.vldLiteral gu la ty h d a lit) (.vstLiteral gu ty h d a lit) 20 (s.rg a + lit)
  )

/-! ## Atomics, reductions and exact accumulation -/

/-- R246, R247, R249: each atomic sends its place a request with its operands, as one access of 4 or 8 bytes; a
misaligned address traps ALIGN, an armed barrier word CLOBBER. The old value comes to a pending result. The model's choice (log
entry 8): an access outside the own die's core memories is waited for. R249, R250: the value that a read-modify-write leaves,
for the 32-bit signed and unsigned and the 64-bit signed types: sums wrap, or saturate where the instruction says so; the
least and the greatest are chosen as the type orders them; AND, OR, XOR, the swap and the compare-and-swap act on bits. -/
def Obligations.AtomicOperations : Prop :=
  (
  ∀ (s : State) (gu : Guard) (la ty : BitVec 4) (sat : Bool) (h : Hint) (d a b c : Reg) (imm : BitVec 24) (lit : Word),
    let n := if ty = 12 then 8 else 4
    let amo := fun (i : Instr) (op : RmwOp) (c : Reg) (len : Nat) (va : Word) =>
      let u : Uses := { len := len, on := s.guard gu, rs := [a.toNat, b.toNat, c.toNat], ws := [d.toNat], long := true }
      IssuesPlain s u →
      (va.toNat % n ≠ 0 → exec i s = .next (s.trap tALIGN va)) ∧
      ∀ l s', va.toNat % n = 0 → s.place 3 false va = (.loc l, s') →
        (s.overBarrier l n = true → exec i s = .next (s.trap tCLOBBER va)) ∧
        (s.overBarrier l n = false → s.ownScore l n = false → s.rmwAwaited l n = false →
          let p := s'.newPend (greg s'.lv d.toNat) la.toNat 1 .mem 0
          let r : Req := { op := .amo op ty.toNat, va := va, loc := l, n := n, pend := some p.id, hint := h, sext := ty != 15,
                           data := BitVec.ofNat 1024 ((s.rg b).toNat % 2 ^ (8 * n)), cmp := word ((s.rg c).toNat % 2 ^ (8 * n)) }
          (l.isGlob = false → dieOf l.tile = dieOf (tileOf s.cur) → Starts s s' i u ((s'.enterPend p).send r)) ∧
          (l.isGlob = true ∨ dieOf l.tile ≠ dieOf (tileOf s.cur) →
            StartsWaiting s s' i u ((s'.enterPend { p with acc := 1 }).send r) (.access p.id)))
    let x := s.rg a + imm.signExtend 64
    let y := s.rg a + lit
    amo (.amoadd gu la ty sat h d a b imm) (if sat then .addSat else .add) 0 12 x ∧
    amo (.amoaddLiteral gu la ty sat h d a b lit) (if sat then .addSat else .add) 0 20 y ∧
    amo (.amomin gu la ty h d a b imm) .min 0 12 x ∧ amo (.amominLiteral gu la ty h d a b lit) .min 0 20 y ∧
    amo (.amomax gu la ty h d a b imm) .max 0 12 x ∧ amo (.amomaxLiteral gu la ty h d a b lit) .max 0 20 y ∧
    amo (.amoand gu la ty h d a b imm) .and 0 12 x ∧ amo (.amoandLiteral gu la ty h d a b lit) .and 0 20 y ∧
    amo (.amoor gu la ty h d a b imm) .or 0 12 x ∧ amo (.amoorLiteral gu la ty h d a b lit) .or 0 20 y ∧
    amo (.amoxor gu la ty h d a b imm) .xor 0 12 x ∧ amo (.amoxorLiteral gu la ty h d a b lit) .xor 0 20 y ∧
    amo (.amoswp gu la ty h d a b imm) .swp 0 12 x ∧ amo (.amoswpLiteral gu la ty h d a b lit) .swp 0 20 y ∧
    amo (.amocas gu la ty h d a b c imm) .cas c 12 x ∧ amo (.amocasLiteral gu la ty h d a b c lit) .cas c 20 y
  ) ∧
  (
  (∀ (x y : BitVec 32) (c : Nat),
    rmwNew .add 11 x.toNat y.toNat c = some (x + y).toNat ∧
    rmwNew .add 15 x.toNat y.toNat c = some (x + y).toNat ∧
    rmwNew .addSat 11 x.toNat y.toNat c =
      some (BitVec.ofInt 32 (max (-2147483648) (min 2147483647 (x.toInt + y.toInt)))).toNat ∧
    rmwNew .addSat 15 x.toNat y.toNat c = some (min 4294967295 (x.toNat + y.toNat)) ∧
    rmwNew .min 11 x.toNat y.toNat c = some (if y.toInt < x.toInt then y else x).toNat ∧
    rmwNew .max 11 x.toNat y.toNat c = some (if x.toInt < y.toInt then y else x).toNat ∧
    rmwNew .min 15 x.toNat y.toNat c = some (min x.toNat y.toNat) ∧
    rmwNew .max 15 x.toNat y.toNat c = some (max x.toNat y.toNat) ∧
    rmwNew .and 11 x.toNat y.toNat c = some (x &&& y).toNat ∧
    rmwNew .or 11 x.toNat y.toNat c = some (x ||| y).toNat ∧
    rmwNew .xor 11 x.toNat y.toNat c = some (x ^^^ y).toNat ∧
    rmwNew .swp 11 x.toNat y.toNat c = some y.toNat ∧
    rmwNew .cas 11 x.toNat y.toNat c = (if x.toNat = c then some y.toNat else none) ∧
    rmwNew .and 15 x.toNat y.toNat c = some (x &&& y).toNat ∧
    rmwNew .or 15 x.toNat y.toNat c = some (x ||| y).toNat ∧
    rmwNew .xor 15 x.toNat y.toNat c = some (x ^^^ y).toNat ∧
    rmwNew .swp 15 x.toNat y.toNat c = some y.toNat ∧
    rmwNew .cas 15 x.toNat y.toNat c = (if x.toNat = c then some y.toNat else none)) ∧
  ∀ (x y : BitVec 64) (c : Nat),
    rmwNew .add 12 x.toNat y.toNat c = some (x + y).toNat ∧
    rmwNew .addSat 12 x.toNat y.toNat c =
      some (BitVec.ofInt 64 (max (-9223372036854775808) (min 9223372036854775807 (x.toInt + y.toInt)))).toNat ∧
    rmwNew .min 12 x.toNat y.toNat c = some (if y.toInt < x.toInt then y else x).toNat ∧
    rmwNew .max 12 x.toNat y.toNat c = some (if x.toInt < y.toInt then y else x).toNat ∧
    rmwNew .and 12 x.toNat y.toNat c = some (x &&& y).toNat ∧
    rmwNew .or 12 x.toNat y.toNat c = some (x ||| y).toNat ∧
    rmwNew .xor 12 x.toNat y.toNat c = some (x ^^^ y).toNat ∧
    rmwNew .swp 12 x.toNat y.toNat c = some y.toNat ∧
    rmwNew .cas 12 x.toNat y.toNat c = (if x.toNat = c then some y.toNat else none)
  )

/-- R248, R250, R252: a reduction has no answer. One at a core memory is a request; one at a global line it may change
goes into the bay's update-only copy, which it opens, where its L1 has a place for it (R130), if the bay has none and fewer than
eight bays hold one; one
that is refused is reported to the thread's next fence. R253: XRND reads its accumulator slot and rounds it to the
type of the destination; with CLR the slot is cleared in the same step. An XACC32 slot is read as one access; an
XACC64 slot, of 288 bytes, line by line, with the hint (R246). The model's choices: an XRND holds its thread until a home slice
or the other die has served it (log entry 8), and an XACC64 slot is read in the step in which it issues (log entry 12). -/
def Obligations.ReductionsAndAccumulators : Prop :=
  (
  ∀ (s : State) (gu : Guard) (ty : BitVec 4) (h : Hint) (a b : Reg) (imm : BitVec 24) (lit : Word),
    let rd := fun (i : Instr) (op : ReqOp) (n : Nat) (len : Nat) (va : Word) =>
      let u : Uses := { len := len, on := s.guard gu, rs := [a.toNat, b.toNat] }
      let x := (s.rg b).toNat % 2 ^ bitsOf ty.toNat
      let r := fun (l : Loc) => ({ op := op, va := va, loc := l, n := n, data := BitVec.ofNat 1024 x, hint := h } : Req)
      IssuesPlain s u →
      (va.toNat % n ≠ 0 → exec i s = .next (s.trap tALIGN va)) ∧
      ∀ l s', va.toNat % n = 0 → s.place 3 false va = (.loc l, s') →
        (s.overBarrier l n = true → exec i s = .next (s.trap tCLOBBER va)) ∧
        (s.overBarrier l n = false → s.ownScore l n = false → l.isGlob = false → Starts s s' i u (s'.send (r l))) ∧
        (∀ pa bad t, l = .glob pa → s.wayToSlice (tileOf s.cur) (homeSlice pa) = .clear →
          s'.check s.rqst kAtomic pa n = (bad, t) →
          (bad = true ∨ isHost pa = true ∨ s.viewReadOnly (pa / 128) = true → Performs s i u (t.addFail s.cur s.lv l false)) ∧
          (bad = false → isHost pa = false → s.viewReadOnly (pa / 128) = false → s.free (pa / 128) true = true →
            s.linePending (pa / 128) = false → (∀ c ∈ s.cmds, c.core = s.cur → c.st ≠ .locking) →
            (((t.bay (bayOf t.cur)).uline? (pa / 128)).isSome = true ∨ ((t.bay (bayOf t.cur)).l1? (pa / 128)).isSome = true →
              t.reduceRoom pa = some t) ∧
            ∀ t', t.reduceRoom pa = some t' →
              Performs s i u (t'.reduceGlob (r l) pa) ∧
              ((t'.bay (bayOf t'.cur)).uline? (pa / 128) = none → t'.knownBad (pa / 128) = false →
                (t'.holdersOf (pa / 128)).length < 8 →
                t'.reduceGlob (r l) pa =
                  t'.openU (bayOf t'.cur)
                    ((freshU (pa / 128) op).apply op (pa % 128) n (BitVec.ofNat 1024 x).toNat [(t'.cur, t'.lv)]))))
    let x := s.rg a + imm.signExtend 64
    let y := s.rg a + lit
    let w := bitsOf ty.toNat / 8
    rd (.rdadd gu ty h a b imm) (.rd .add ty.toNat) w 12 x ∧ rd (.rdaddLiteral gu ty h a b lit) (.rd .add ty.toNat) w 20 y ∧
    rd (.rdmin gu ty h a b imm) (.rd .min ty.toNat) w 12 x ∧ rd (.rdminLiteral gu ty h a b lit) (.rd .min ty.toNat) w 20 y ∧
    rd (.rdmax gu ty h a b imm) (.rd .max ty.toNat) w 12 x ∧ rd (.rdmaxLiteral gu ty h a b lit) (.rd .max ty.toNat) w 20 y ∧
    rd (.xadd gu ty h a b imm) (.xadd ty.toNat) 64 12 x ∧ rd (.xaddLiteral gu ty h a b lit) (.xadd ty.toNat) 64 20 y
  ) ∧
  (
  ∀ (s : State) (gu : Guard) (la ty : BitVec 4) (rm : BitVec 3) (sat : Bool) (h : Hint) (d a : Reg) (clr : Bool)
    (imm : BitVec 24) (lit : Word),
    let rnd := fun (i j : Instr) (len : Nat) (va : Word) =>
      let u : Uses := { len := len, on := s.guard gu, rs := [a.toNat], ws := [d.toNat], long := true }
      IssuesPlain s u →
      (va.toNat % 64 ≠ 0 → exec i s = .next (s.trap tALIGN va)) ∧
      (∀ l s', va.toNat % 64 = 0 → s.place (if clr then 3 else 0) false va = (.loc l, s') →
        (clr && s.overBarrier l 64) = false → s.ownScore l 64 = false → s.rmwAwaited l 64 = false →
        let p := s'.newPend (greg s'.lv d.toNat) la.toNat 1 .xrnd 0
        let r : Req := { op := .xrnd ty.toNat rm.toNat sat clr, va := va, loc := l, n := 64, pend := some p.id, hint := h }
        (l.isGlob = false → dieOf l.tile = dieOf (tileOf s.cur) → Starts s s' i u ((s'.enterPend p).send r)) ∧
        (l.isGlob = true ∨ dieOf l.tile ≠ dieOf (tileOf s.cur) →
          StartsWaiting s s' i u ((s'.enterPend { p with acc := 1 }).send r) (.access p.id)) ∧
        (∀ old, (r.effect.1 old = if clr then some 0 else none) ∧ r.effect.2 old = xaccRound false old ty.toNat rm.toNat sat)) ∧
      (va.toNat % 288 ≠ 0 → exec j s = .next (s.trap tALIGN va)) ∧
      (∀ x l t, va.toNat % 288 = 0 → s.readSlot64 h va 9 = .ok x l t →
        Performs s j u (t.enterPend { t.newPend (greg t.lv d.toNat) la.toNat 0 .xrnd 0 with
          val := BitVec.ofNat 1024 ((xaccRound true x ty.toNat rm.toNat sat).1 % 2 ^ 64)
          flags := (xaccRound true x ty.toNat rm.toNat sat).2 }))
    rnd (.xrnd gu la ty rm sat h d a false clr imm) (.xrnd gu la ty rm sat h d a true clr imm) 12 (s.rg a + imm.signExtend 64) ∧
    rnd (.xrndLiteral gu la ty rm sat h d a false clr lit) (.xrndLiteral gu la ty rm sat h d a true clr lit) 20 (s.rg a + lit)
  )

/-! ## Accesses performed at their places, and their answers -/

/-- R48, R88, R184: a result that has arrived, with its window closed, is written to the register it is for and raises
its flags; no other register, and nothing outside the core, changes. A result of class DIVIDE arrives with this event.
Results that can be written are written in the order of their arrival: one that arrived later writes nothing yet. -/
def Obligations.ResultsReachTheirRegisters : Prop :=
  ∀ (s : State) (ck id : Nat) (p : Pend),
    let c := s.core ck
    c.pend.find? (fun p => p.id == id) = some p → (p.need = 0 ∨ p.cls = .divide ∨ p.cls = .vdivide) → p.acc = 0 → p.win = 0 →
    (∀ lv code v f, (c.thr lv).hold ≠ .trap code v f) →
    (∀ lv r, p.dst = some (.gb lv r) → 0 < r ∧ r < 32) → (∀ r, p.dst = some (.gs r) → 32 ≤ r) →
    (∀ lv r, p.dst = some (.pb lv r) → r ≠ 7) →
    let c1 := c.updPend id (fun p => if p.cls == .divide || p.cls == .vdivide then { p with need := 0 } else p)
    (c1.laterThan id = true → exec (.resultWriteback ck id) s = .next { s with cores := s.cores.put ck c1 }) ∧
    (c1.laterThan id = false →
    ∃ t, exec (.resultWriteback ck id) s = .next t ∧
      let e := t.core ck
      t = { s with cores := s.cores.put ck e } ∧ e.pend = c.pend.filter (fun q => q.id != id) ∧
      (∀ lv, (e.thr lv).fp = if lv = p.lv then (c.thr lv).fp.or p.flags else (c.thr lv).fp) ∧
      (∀ lv r, e.g lv r = if (greg lv r).isSome ∧ p.dst = greg lv r then p.val.setWidth 64 else c.g lv r) ∧
      (∀ lv r, e.p lv r = if p.dst = some (.pb lv r) then p.val.setWidth 64 else c.p lv r) ∧
      ∀ r, e.vreg r = if p.dst = some (.v r) then blend (c.vreg r) p.val p.mask else c.vreg r)

/-- R120, R141, R148: an access to a core memory whose turn has come and whose way is clear is performed there: a load
gives the bytes to its pending result, extended as its instruction asks; a store writes exactly its bytes; an atomic
does both. One that comes after a core whose place in the cycle is later has reached the same bytes of a scratchpad waits for
the next cycle: the owner comes first, then the cores by ascending index (log entry 32). An access over a dead link does nothing
there: a store is reported as refused, the others trap REFUSED, where R430 says DEADLINK (log entry 20). R97, R120,
R122, R125, R128, R270, R277: the answers. The fill of a missed read, the completion of a read over PCIe, and the
answers that reach the core, in the order in which the slice gave them: a read response gives the pending result its
bytes, and its line comes to the bay's L1, or waits for a place there; an acknowledgement forgets the store. The model's
choice (log entry 19): a line that the bay was told to drop meanwhile is not brought, and the answer of an atomic brings
the line as it left it to a copy that stands; an acknowledgement is no use of the line for the LRU (log entry 43). An entry
of the witness table that has heard nothing for 2^23 cycles is dropped: the 2^24 ring cycles of R128 (log entry 40). -/
def Obligations.CoreMemoryAccessesAndAnswers : Prop :=
  (
  ∀ (s : State) (id : Nat) (r : Req), s.req? id = some r → r.loc.isGlob = false → r.st = .sent → s.inTurn r = true →
    (∀ c o, r.loc = .spad c o → c ≠ r.core → r.n ≠ 128 ∧ s.overScore r.loc r.n = false) →
    let s' := s.dropReq id
    let place := fun (c k : Nat) => if k = c then 0 else k + 1
    let later := ∃ c o k o' n', r.loc = .spad c o ∧ (s.core c).reach.1 = s.cycle ∧ (k, o', n') ∈ (s.core c).reach.2 ∧
      place c r.core < k ∧ overlaps o' n' o r.n = true
    (later → exec (.coreApertureAccess id) s = .next s) ∧
    (¬later → s.wayBetween (tileOf r.core) r.loc.tile = .clear →
      (r.op = .load → ∀ p, r.pend = some p → dieOf r.loc.tile = dieOf (tileOf r.core) →
        ∃ t, exec (.coreApertureAccess id) s = .next t ∧ t.mem = s.mem ∧ t.flight = s'.flight ∧
          { t.core r.core with reach := (s.core r.core).reach } = ((s.core r.core).noteArrivals).updPend p (fun q =>
            { q with need := q.need - 1
                     val := q.val ||| (match q.dst with
                       | some (.v _) => BitVec.ofNat 1024 (s.locRead r.loc r.n * 2 ^ (8 * r.lane))
                       | _ => BitVec.ofNat 1024 (extendTo r.sext r.n (BitVec.ofNat 1024 (s.locRead r.loc r.n)).toNat)) })) ∧
      (∀ c o, r.loc = .spad c o → ∃ t, exec (.coreApertureAccess id) s = .next t ∧
        (t.core c).reach.1 = s.cycle ∧ (place c r.core, o, r.n) ∈ (t.core c).reach.2) ∧
      (r.op = .store → r.n ≠ 128 → ∀ c o, r.loc = .spad c o → o + r.n ≤ 2 ^ 17 →
        ∃ t, exec (.coreApertureAccess id) s = .next t ∧ t.flight = s'.flight ∧
          t.spadRead c o r.n = r.data.toNat % 2 ^ (8 * r.n) ∧
          (∀ c' o', o' < 2 ^ 17 → (c' ≠ c ∨ o' < o ∨ o + r.n ≤ o') → t.spadByte c' o' = s.spadByte c' o') ∧
          { t.mem with spad := s.mem.spad } = s.mem) ∧
      (r.op = .store → r.n ≠ 128 → ∀ k o, r.loc = .gal k o → o + r.n ≤ 2 ^ 14 →
        ∃ t, exec (.coreApertureAccess id) s = .next t ∧
          readBytes t.mem.gal (k * 2 ^ 14 + o) r.n = r.data.toNat % 2 ^ (8 * r.n) ∧
          (∀ a, (a < k * 2 ^ 14 + o ∨ k * 2 ^ 14 + o + r.n ≤ a) → t.mem.gal.get 0 a = s.mem.gal.get 0 a) ∧
          { t.mem with gal := s.mem.gal } = s.mem) ∧
      (∀ op ty, r.op = .amo op ty →
        ∃ t, exec (.coreApertureAccess id) s = .next t ∧
          ∀ new, rmwNew op ty (s.locRead r.loc r.n) r.data.toNat r.cmp.toNat = some new →
            t = (((s.noteReach r.core r.loc r.n).locWrite r.loc r.n new).aperturePut r (BitVec.ofNat 1024 (s.locRead r.loc r.n)) {}).dropReq
              id)) ∧
    (¬later → s.wayBetween (tileOf r.core) r.loc.tile = .dead →
      (r.op = .store → exec (.coreApertureAccess id) s = .next ((s.addFail r.core r.lv r.loc false).dropReq id)) ∧
      (r.op = .load → ∀ p, r.pend = some p →
        exec (.coreApertureAccess id) s = .next (s'.served r.core p (some (r.elem, tREFUSED, r.va)))))
  ) ∧
  (
  (∀ (s : State) (id pa : Nat) (r : Req), s.req? id = some r → r.loc = .glob pa →
    (r.st = .missed → s.locked (pa / 128) false = false → s.linksWait (pa / 128) = false →
      let x := s.sliceRead (pa / 128) r.hint
      exec (.sliceFill id) s = .next (x.2.2.readAll r pa false x.1 x.2.1)) ∧
    (r.st = .pcie → r.op = .load →
      exec (.pcieCompletion id) s =
        .next (s.readAll r pa false (BitVec.ofNat 1024 (s.hostRead (pa / 128 * 128) 128)) false)) ∧
    (r.st = .pcie → ∀ op ty new, r.op = .amo op ty → rmwNew op ty (s.hostRead pa r.n) r.data.toNat r.cmp.toNat = some new →
      let t := ((s.hostWrite pa r.n new).bumpSsn (homeSlice pa)).notify (.glob pa) r.n
      exec (.pcieCompletion id) s = .next (t.atomicDone r (s.hostRead pa r.n) false (some (t.ssnOf pa)))) ∧
    (∀ data ssn, r.st = .done data ssn false → s.answerInTurn r = true →
      let s' := (s.witness r.core pa ssn).dropReq id
      (r.op = .load → ∀ p, r.pend = some p → isHost pa = true →
        exec (.readResponse id) s = .next (s'.give r.core p r.lane r.n r.sext (vecBytes data (pa % 128) r.n))) ∧
      (r.op = .load → ∀ p n, r.pend = some p → isHost pa = false → ssn = some n → r.hint ≠ .byp →
        (s'.bay (bayOf r.core)).uline? (pa / 128) = none →
        let gets := fun (t : State) => t.give r.core p r.lane r.n r.sext (vecBytes data (pa % 128) r.n)
        let fills := fun (t : State) => t.updBay (bayOf r.core) (fun b =>
          b.l1Fill (pa / 128) data false n t.stepNo (r.hint == .sl))
        let stands := ((s'.bay (bayOf r.core)).l1? (pa / 128)).isSome
        (stands = true → exec (.readResponse id) s = .next (gets (fills s'))) ∧
        (stands = false → r.nofill = true → exec (.readResponse id) s = .next (gets s')) ∧
        (stands = false → r.nofill = false →
          (∀ t, s'.l1Room (bayOf r.core) (pa / 128) = some t → exec (.readResponse id) s = .next (gets (fills t))) ∧
          (s'.l1Room (bayOf r.core) (pa / 128) = none → exec (.readResponse id) s = .next s))) ∧
      (∀ op ty p, r.op = .amo op ty → r.pend = some p →
        let gets := fun (t : State) => t.give r.core p 0 r.n r.sext data.toNat
        (r.after = none ∨ ssn = none ∨ isHost pa = true ∨ ((s'.bay (bayOf r.core)).l1? (pa / 128)) = none →
          exec (.readResponse id) s = .next (gets s')) ∧
        (∀ d bad n, r.after = some (d, bad) → ssn = some n → isHost pa = false →
          (s'.bay (bayOf r.core)).uline? (pa / 128) = none → ((s'.bay (bayOf r.core)).l1? (pa / 128)).isSome = true →
          exec (.readResponse id) s = .next (gets (s'.updBay (bayOf r.core) (fun b =>
            b.l1Fill (pa / 128) d bad n s'.stepNo false))))) ∧
      (r.op = .store → ∀ n, ssn = some n → r.n ≠ 128 →
        exec (.storeAck id) s = .next (s'.updBay (bayOf r.core) (fun b => b.l1Store (pa / 128)
          (BitVec.ofNat 1024 (r.data.toNat % 2 ^ (8 * r.n) * 2 ^ (8 * (pa % 128)))) (byteMask (pa % 128) r.n) n))))) ∧
  ∀ (s : State) (ck k : Nat) (e : Nat × BitVec 48 × Nat), (s.core ck).wit.find? (fun e => e.1 == k) = some e →
    (e.2.2 + 2 ^ 23 ≤ s.cycle → ∃ t, exec (.witnessExpire ck k) s = .next t ∧ (t.core ck).wit = (s.core ck).wit.erase k ∧
      t = { s with cores := s.cores.put ck { s.core ck with wit := (s.core ck).wit.erase k } }) ∧
    (s.cycle < e.2.2 + 2 ^ 23 → exec (.witnessExpire ck k) s = .next s)
  )

/-- R120, R124, R126, R129, R277: a request that has reached its home slice in its turn over a clear way. A read of a
line that the slice holds is answered from it, one that misses waits for its fill, one of host memory for PCIe; a
store writes its bytes; an atomic is one step; an EVICT takes the line out. What the world check refuses is answered
so; an EVICT so refused is dropped, of which R136 does not say it, and EVICT.SL counts as a use of the line (log entry 43).
R124, R126, R130: what a slice's write and read of a line it holds do, no bay holding it update-only: the masked bytes and no others change, in that line and no other; the
slice's SSN rises by one; the bytes of memory do not change until the line is written back. -/
def Obligations.SliceAccesses : Prop :=
  (
  ∀ (s : State) (id : Nat) (r : Req) (pa : Nat) (t : State), s.req? id = some r → r.loc = .glob pa → r.st = .sent →
    s.inTurn r = true → s.wayToSlice (tileOf r.core) (homeSlice pa) = .clear →
    (s.reqRefused r pa = (true, t) →
      (r.op = .load → exec (.sliceRead id none) s = .next (t.readAll r pa true 0 false)) ∧
      (r.op = .store → exec (.sliceWrite id) s = .next (t.storeFailed r)) ∧
      (∀ op ty, r.op = .amo op ty → exec (.sliceAtomic id) s = .next (t.atomicFailed r)) ∧
      (r.op = .evict → exec (.sliceEvict id) s = .next (t.dropReq id))) ∧
    (s.reqRefused r pa = (false, t) → isHost pa = true →
      (r.op = .load → exec (.sliceRead id none) s = .next (t.updReq id (fun r => { r with st := .pcie }))) ∧
      (r.op = .evict → exec (.sliceEvict id) s = .next (t.dropReq id))) ∧
    (s.reqRefused r pa = (false, t) → isHost pa = false →
      (r.op = .load → s.free (pa / 128) false = true →
        let t' := t.recall (pa / 128)
        (t'.cline? (pa / 128) = none → exec (.sliceRead id none) s = .next (t'.updReq id (fun r => { r with st := .missed }))) ∧
        (∀ c, t'.cline? (pa / 128) = some c →
          let x := t'.sliceRead (pa / 128) r.hint
          exec (.sliceRead id none) s = .next (x.2.2.readAll r pa false x.1 x.2.1))) ∧
      (r.op = .store → s.viewReadOnly (pa / 128) = false → s.free (pa / 128) true = true → r.n ≠ 128 →
        let x := t.sliceWrite (pa / 128) (BitVec.ofNat 1024 (r.data.toNat % 2 ^ (8 * r.n) * 2 ^ (8 * (pa % 128)))) (byteMask (pa % 128) r.n) r.hint
        let t' := if x.1 then x.2.addFail r.core r.lv r.loc true else x.2
        exec (.sliceWrite id) s = .next (t'.markDone id 0 (some (t'.ssnOf pa)) false)) ∧
      (∀ op ty, r.op = .amo op ty → s.viewReadOnly (pa / 128) = false → s.free (pa / 128) true = true →
        let x := t.rmwAt r.loc r.n r.hint true (fun old => rmwNew op ty old r.data.toNat r.cmp.toNat)
        let y := x.2.2.updReq id (fun q => { q with after := some ((x.2.2.rawLine (pa / 128)).1, (x.2.2.rawLine (pa / 128)).2.1) })
        exec (.sliceAtomic id) s = .next (y.atomicDone r x.1 x.2.1 (some (y.ssnOf pa)))) ∧
      (r.op = .evict → s.free (pa / 128) true = true →
        let t' := (t.recall (pa / 128)).l1Clean (bayOf r.core) (fun l => l == pa / 128)
        (t'.cline? (pa / 128) = none ∨ r.hint = .byp → exec (.sliceEvict id) s = .next (t'.dropReq id)) ∧
        (∀ c, t'.cline? (pa / 128) = some c →
          (r.hint = .sl → exec (.sliceEvict id) s = .next ((t'.putLine { c with hint := .sl }).dropReq id)) ∧
          (r.hint ≠ .sl → r.hint ≠ .byp → exec (.sliceEvict id) s = .next ((t'.evictLine (pa / 128)).dropReq id)))))
  ) ∧
  (
  ∀ (s : State) (l : Nat) (d mask : Vec) (h : Hint) (c : CLine), s.cline? l = some c → s.holdersOf l = [] →
    (let x := s.sliceRead l h
     x.1 = c.data ∧ x.2.1 = c.poison ∧ x.2.2.mem = s.mem ∧ x.2.2.cline? l = some { c with hint := h, stamp := s.ctr } ∧
     ∀ m, m ≠ l → x.2.2.cline? m = s.cline? m) ∧
    (let x := s.sliceWrite l d mask h
     x.1 = (c.poison && mask != BitVec.allOnes 1024) ∧ x.2.mem = s.mem ∧
     (x.2.slice (homeSlice (l * 128))).ssn = (s.slice (homeSlice (l * 128))).ssn + 1 ∧
     (∃ c', x.2.cline? l = some c' ∧ c'.dirty = true ∧
       ∀ i, i < 1024 → c'.data.getLsbD i = if mask.getLsbD i then d.getLsbD i else c.data.getLsbD i) ∧
     ∀ m, m ≠ l → x.2.cline? m = s.cline? m)
  )

/-! ## The matrix engine -/

/-- R229, R240 to R243: in a bay with nothing in its acceptance order, TCFG configures a tile register and clears it,
TZERO clears it; AMOV moves rows of words either way, AMOVT transposed, AFIN rounds each accumulator and raises its
flags, AZERO clears alcove words. A row that AMOV or AMOVT fills has zeros from byte RB on; AFIN leaves those bytes. A tile
that is not configured traps TILESHAPE, a region outside the alcove ALCOVE; a core whose checks end so has had its turn in the
bay's order of the cycle (R224). Nothing else of the tiles, the alcoves and the memories changes. R244, R245, R400: MSAVE and
MREST in a frozen bay write and read an image of 4,096-byte alignment in the global window or an absolute vault; a line that no
aperture holds traps APERTURE (R139); a bay that is not frozen, or for MREST not empty, answers NOTFROZEN, before the image is
touched (log entry 37: DEDUCED). An MREST of a sound image loads the bay and its alcove from it, and answers 0; what an image's
opaque bytes are, and what stands for them, is the model's choice (log entry 10). -/
def Obligations.TilesAlcoveAndImages : Prop :=
  (
  ∀ (s : State) (gu : Guard) (ty acc : BitVec 4) (rm : BitVec 3) (sat toa : Bool) (x : TReg) (rows rb : BitVec 8) (a : Reg)
    (base : BitVec 15),
    let bk := bayOf s.cur
    let c := s.tcfg bk x.toNat
    let w := base.toNat
    (s.bay bk).jobs = [] → (s.bay bk).frozen = false → s.inCoreOrder [bk] = true → c.rows ≤ 192 → c.rb ≤ 128 →
    let rest := fun (t : State) => (∀ y r, y < 16 → y ≠ x.toNat → r < 192 → t.tileRow bk y r = s.tileRow bk y r) ∧
      (∀ b y r, b ≠ bk → y < 16 → r < 192 → t.tileRow b y r = s.tileRow b y r) ∧
      { t.mem with tdata := s.mem.tdata, tscale := s.mem.tscale } = s.mem
    let cleared := fun (t : State) => (∀ r, r < 192 → t.tileRow bk x.toNat r = 0 ∧ t.scaleRow bk x.toNat r = 0) ∧ rest t
    let uc : Uses := { len := 12, on := s.guard gu,
                       illegal := decide (rows.toNat = 0) || decide (192 < rows.toNat) || decide (rb.toNat = 0) || decide (128 < rb.toNat) }
    let um : Uses := { len := 12, on := s.guard gu, blocking := true }
    let ua : Uses := { um with rs := [a.toNat] }
    let uf : Uses := { um with illegal := !afinOk acc ty || decide (4 < rm.toNat) }
    let stops := fun (i : Instr) (words : Nat) (ok : Bool) =>
      (ok = false → exec i s = .next ((s.accepted [bk]).trap tTILESHAPE (s.irWord 1))) ∧
      (ok = true → 32768 < w + words → exec i s = .next ((s.accepted [bk]).trap tALCOVE (word w)))
    let kept := fun (t : State) => rest t ∧ ∀ r, c.rows ≤ r → r < 192 → t.tileRow bk x.toNat r = s.tileRow bk x.toNat r
    (IssuesPlain s uc → ∃ e, Performs s (.tcfg gu ty x rows rb) uc e ∧ cleared e ∧
      e.tcfg bk x.toNat = { cfg := true, rows := rows.toNat, rb := rb.toNat, ty := ty.toNat } ∧
      ∀ y, y ≠ x.toNat → e.tcfg bk y = s.tcfg bk y) ∧
    (IssuesPlain s { len := 12, on := s.guard gu } →
      (c.cfg = true → ∃ e, Performs s (.tzero gu x) { len := 12, on := s.guard gu } e ∧ cleared e ∧ e.tcfg bk x.toNat = c) ∧
      (c.cfg = false → exec (.tzero gu x) s = .next ((s.accepted [bk]).trap tTILESHAPE (s.irWord 1)))) ∧
    (IssuesPlain s um → stops (.amov gu x toa base) (c.rows * (c.rb / 4)) (c.cfg && c.rb % 4 == 0) ∧
      (c.cfg = true → c.rb % 4 = 0 → w + c.rows * (c.rb / 4) ≤ 32768 →
        ∃ e, Performs s (.amov gu x toa base) um e ∧
          (toa = false → kept e ∧ ∀ r, r < c.rows → e.tileRow bk x.toNat r = s.alcove bk (w + r * (c.rb / 4)) (c.rb / 4) % 2 ^ 1024) ∧
          (toa = true → { e.mem with alcove := s.mem.alcove } = s.mem ∧
            (∀ r k, r < c.rows → k < c.rb / 4 →
              e.alcove bk (w + r * (c.rb / 4) + k) 1 = s.tileRow bk x.toNat r / 2 ^ (32 * k) % 2 ^ 32) ∧
            ∀ k, (k < bk * 32768 + w ∨ bk * 32768 + w + c.rows * (c.rb / 4) ≤ k) → e.mem.alcove.get 0 k = s.mem.alcove.get 0 k))) ∧
    (IssuesPlain s um →
      let n := amovtWords c.ty
      (c.cfg = false ∨ n = 0 → exec (.amovt gu x base) s = .next ((s.accepted [bk]).trap tTILESHAPE (s.irWord 1))) ∧
      (c.cfg = true → n ≠ 0 → (w % n ≠ 0 ∨ 32768 < w + c.rb / (4 * n) * c.rows * n) →
        exec (.amovt gu x base) s = .next ((s.accepted [bk]).trap tALCOVE (word w))) ∧
      (c.cfg = true → n ≠ 0 → w % n = 0 → w + c.rb / (4 * n) * c.rows * n ≤ 32768 →
        ∃ e, Performs s (.amovt gu x base) um e ∧ kept e ∧
          (∀ r k, r < c.rows → k < c.rb / (4 * n) →
            e.tileRow bk x.toNat r / 2 ^ (32 * n * k) % 2 ^ (32 * n) = s.alcove bk (w + (k * c.rows + r) * n) n % 2 ^ (32 * n)) ∧
          ∀ r, r < c.rows → e.tileRow bk x.toNat r / 2 ^ (8 * c.rb) = 0)) ∧
    (IssuesPlain s uf →
      let b := bitsOf ty.toNat / 8
      let n := accWords acc.toNat
      let el := fun (r k : Nat) => cvtLane acc.toNat ty.toNat rm.toNat sat 0 (s.alcove bk (w + (r * (c.rb / b) + k) * n) n)
      stops (.afin gu ty acc rm sat x base) (c.rows * (c.rb / b) * n) (c.cfg && c.ty == ty.toNat && c.rb % b == 0) ∧
      (c.cfg = true → c.ty = ty.toNat → c.rb % b = 0 → w + c.rows * (c.rb / b) * n ≤ 32768 →
        ∃ e, Performs s (.afin gu ty acc rm sat x base) uf e ∧ kept e ∧
          (∀ r, r < c.rows → e.tileRow bk x.toNat r / 2 ^ (8 * c.rb) = s.tileRow bk x.toNat r / 2 ^ (8 * c.rb)) ∧
          (∀ r k, r < c.rows → k < c.rb / b →
            e.tileRow bk x.toNat r / 2 ^ (8 * b * k) % 2 ^ (8 * b) = (el r k).1 % 2 ^ (8 * b)) ∧
          (e.me.thr s.lv).fp = (s.me.thr s.lv).fp.or (FFlags.orAll
            ((List.range c.rows).flatMap (fun r => (List.range (c.rb / b)).map (fun k => (el r k).2)))))) ∧
    (IssuesPlain s ua →
      let n := (s.rg a).toNat
      (n = 0 ∨ 32768 < w + n → exec (.azero gu a base) s = .next ((s.accepted [bk]).trap tALCOVE (word w))) ∧
      (n ≠ 0 → w + n ≤ 32768 →
        ∃ e, Performs s (.azero gu a base) ua e ∧ { e.mem with alcove := s.mem.alcove } = s.mem ∧
          ∀ k, e.mem.alcove.get 0 k = if bk * 32768 + w ≤ k ∧ k < bk * 32768 + w + n then 0 else s.mem.alcove.get 0 k))
  ) ∧
  (
  ∀ (s : State) (gu : Guard) (la : BitVec 4) (d a : Reg),
    let u : Uses := { len := 12, on := s.guard gu, rs := [a.toNat], ws := [d.toNat], long := true, priv := some none }
    let v := s.rg a
    let b := s.bay (bayOf s.cur)
    IssuesPlain s u →
    let both := fun (t : State) => exec (.msave gu la d a) s = .next t ∧ exec (.mrest gu la d a) s = .next t
    (v.toNat % 4096 ≠ 0 → both (s.trap tALIGN v)) ∧
    (v.toNat % 4096 = 0 → ¬(v.toNat < 2 ^ 52 ∨ v.toNat / 2 ^ 48 = 0xFF04) → both (s.trap tAPERTURE v)) ∧
    (v.toNat % 4096 = 0 → (v.toNat < 2 ^ 52 ∨ v.toNat / 2 ^ 48 = 0xFF04) →
      (∀ k, s.imageOutside v = some k → both (s.trap tAPERTURE k)) ∧
      (s.steer s.cur s.me.pv v = none → s.imageOutside v = some v)) ∧
    (v.toNat % 4096 = 0 → (v.toNat < 2 ^ 52 ∨ v.toNat / 2 ^ 48 = 0xFF04) → s.imageOutside v = none →
      (b.frozen = false → Performs s (.msave gu la d a) u (s.answer d la (word jNOTFROZEN))) ∧
      (b.frozen = false ∨ b.jobs ≠ [] → Performs s (.mrest gu la d a) u (s.answer d la (word jNOTFROZEN))) ∧
      (∀ gs t, s.placeAll 1 false (imageElems v) = (gs, t) → firstTrap gs = none → firstPage gs = none → anyWait gs = false →
        b.frozen = true → ∀ code t',
          State.putImage (sealedByte (Config.imageByte t.fes.serial) imageBytes) (goLocs gs) t = some (code, t') →
          ∃ e : State, Performs s (.msave gu la d a) u (e.answer d la (word code)) ∧
            e.fes.images = t'.fes.images ++ [BayImage.mk t.fes.serial (bayOf t.cur) (t.bay (bayOf t.cur))
              (t.mem.alcove.filter (fun e => e.1 / 32768 == bayOf t.cur))] ∧
            e.fes.serial = t.fes.serial + 1 ∧ e = { t' with fes := e.fes }) ∧
      (∀ gs t, s.placeAll 0 false (imageElems v) = (gs, t) → firstTrap gs = none → firstPage gs = none → anyWait gs = false →
        b.frozen = true → b.jobs = [] → ∀ bs t', State.getImage (goLocs gs) [] t = some ((0, bs), t') →
          (sealVer bs = false → Performs s (.mrest gu la d a) u (t'.answer d la (word jBADVER))) ∧
          (sealVer bs = true → sealSum bs = false → Performs s (.mrest gu la d a) u (t'.answer d la (word jBADSUM))) ∧
          (sealVer bs = true → sealSum bs = true → ∀ img, t'.imageOf bs = some img →
            Performs s (.mrest gu la d a) u ((t'.loadImage (bayOf t'.cur) img).answer d la (word 0)))))
  )

/-- R225, R230 to R233, R236 to R238: a job is accepted by its bay, an MMAC by the four bays of its half, when their
queues and the core have room: g[d] receives its identifier and g[gs] will receive its status. A bay accepts the
instructions of one cycle in ascending core index: a core that comes after a higher one waits (R224), and one that traps has
had its turn. A misaligned or unreachable row, a tile that does not fit, or a region outside the alcove traps. MPOLL reports on
an identifier; MWAIT waits until the job has ended. R226, R227, R231, R234 to R237: a bay starts its next job in turn, unless it
is frozen or nothing may start; a running TLD moves one row at a time; a job that ends leaves the bay, which keeps its status,
and the status reaches g[gs]; an MMA, and each quarter of an MMAC, has computed every cell of its result then (log entry 15: the
model computes a job when it completes), and an MMAC ends with its last quarter, with the flags of all four. A cell is the chain
of its group sums, each the root of a tree of four levels over sixteen exact products, every node and link rounding once, the
old element before the first group unless Z. -/
def Obligations.MatrixJobs : Prop :=
  (
  ∀ (s : State) (gu : Guard) (la ty : BitVec 4) (h : Hint) (sat z scale : Bool) (d gs a b : Reg) (x y : TReg) (bm : BitVec 8)
    (base : BitVec 15),
    let bk := bayOf s.cur
    let bays := if bm = 0 then [bk] else ((List.range 8).filter (fun k => bm.getLsbD k)).map (fun k => tileOf s.cur * 8 + k)
    let quad := [bk / 4 * 4, bk / 4 * 4 + 1, bk / 4 * 4 + 2, bk / 4 * 4 + 3]
    let same := d == gs && d != 0
    let row : Uses := { len := 12, on := s.guard gu, rs := [a.toNat, b.toNat], ws := [d.toNat, gs.toNat], long := true, illegal := same }
    let mm : Uses := { len := 12, on := s.guard gu, ws := [d.toNat, gs.toNat], long := true,
                       illegal := same || decide (9 < ty.toNat) || (sat && ty != 9#4) }
    let ask : Uses := { len := 12, on := s.guard gu, rs := [a.toNat], ws := [d.toNat] }
    (s.bay bk).frozen = false →
    (IssuesPlain s row → ∀ i kind bs, (i, kind, bs) = (Instr.tld gu la h d gs a b scale x bm, JKind.tld, bays) ∨
        (i, kind, bs) = (Instr.tst gu la h d gs a b scale x, JKind.tst, [bk]) →
      let takers := if bs.contains bk then bs else bk :: bs
      let traps := fun (code : Nat) (v : Word) => exec i s = .next ((s.accepted takers).trap code v)
      (s.inCoreOrder takers = false → exec i s = .next s) ∧
      (s.inCoreOrder takers = true →
      let c := s.tcfg (bs.headD bk) x.toNat
      let j : Job := { kind := kind, ta := x.toNat, scale := scale, rows := c.rows, nb := rowBytes c scale, ga := s.rg a,
                       gb := s.rg b, bays := bs, hint := h, ty := c.ty, tb := s.ctr }
      let last := s.rg a + word (c.rows - 1) * s.rg b
      let aligned := scale = true ∨ (s.rg a).toNat % 16 = 0 ∧ (s.rg b).toNat % 16 = 0
      let ok := fun (w : Word) => s.rowOk s.cur s.me.pv w (max j.nb 1)
      (scale = false → (s.rg a).toNat % 16 ≠ 0 → traps tALIGN (s.rg a)) ∧
      (scale = false → (s.rg a).toNat % 16 = 0 → (s.rg b).toNat % 16 ≠ 0 → traps tALIGN (s.rg b)) ∧
      (aligned → ok (s.rg a) = false → traps tAPERTURE (s.rg a)) ∧
      (aligned → ok (s.rg a) = true → ok last = false → traps tAPERTURE last) ∧
      (aligned → ok (s.rg a) = true → ok last = true →
        ((∃ k ∈ bs, (s.tcfg k x.toNat).cfg = false ∨ s.tcfg k x.toNat ≠ c ∨ (scale = true ∧ isMX (s.tcfg k x.toNat).ty = false)) →
          traps tTILESHAPE (s.irWord 1)) ∧
        ((∀ k ∈ bs, s.tcfg k x.toNat = c) → c.cfg = true → (scale = true → isMX c.ty = true) → s.jobRoom [bk] = true →
          ∀ t, s.takeScores s.cur s.ctr (if kind = .tst then s.rowSpans j else []) = some t →
          Performs s i row (({ t with ctr := s.ctr + 1 } : State).acceptJob d gs la takers j))))) ∧
    (IssuesPlain s mm → ∀ i kind bs, (i, kind, bs) = (Instr.mma gu la ty sat z d gs x y base, JKind.mma, [bk]) ∨
        (i, kind, bs) = (Instr.mmac gu la ty sat z d gs x y base, JKind.mmac, quad) →
      (s.inCoreOrder bs = false → exec i s = .next s) ∧
      (s.inCoreOrder bs = true →
      let p := s.tcfg (bs.headD 0) x.toNat
      let q := s.tcfg (bs.headD 0) y.toNat
      let words := p.rows * q.rows * accWords (accOf ty.toNat)
      let fits := fun (k : Nat) =>
        let m := s.tcfg k x.toNat
        let n := s.tcfg k y.toNat
        m.cfg = true ∧ n.cfg = true ∧ m.ty = ty.toNat ∧ n.ty = ty.toNat ∧ m.rows ≤ 96 ∧ n.rows ≤ 192 ∧ m.rows = p.rows ∧ n.rows = q.rows
      ((∃ k ∈ bs, ¬fits k) → exec i s = .next ((s.accepted bs).trap tTILESHAPE (s.irWord 1))) ∧
      ((∀ k ∈ bs, fits k) → (base.toNat % 32 ≠ 0 ∨ 32768 < base.toNat + words) →
        exec i s = .next ((s.accepted bs).trap tALCOVE (base.setWidth 64))) ∧
      ((∀ k ∈ bs, fits k) →
      base.toNat % 32 = 0 → base.toNat + words ≤ 32768 → s.jobRoom bs = true →
        let j : Job := { kind := kind, ta := x.toNat, tb := y.toNat, rows := p.rows, n := q.rows, ty := ty.toNat, sat := sat,
                         z := z, abase := base.toNat, words := words, bays := bs }
        Performs s i mm (s.acceptJob d gs la bs j)))) ∧
    (IssuesPlain s ask →
      (s.inCoreOrder [bk] = false → exec (.mpoll gu d a) s = .next s) ∧
      (s.inCoreOrder [bk] = true → Performs s (.mpoll gu d a) ask ((s.accepted [bk]).wg d (s.jobReport (s.rg a))))) ∧
    (IssuesPlain s { ask with blocking := true, nomask := true } →
      let u : Uses := { ask with blocking := true, nomask := true }
      (s.inCoreOrder [bk] = false → StandsStill s (.mwait gu d a) u) ∧
      (s.inCoreOrder [bk] = true → s.jobReport (s.rg a) = word 0x80 → Waits s (.mwait gu d a) u (s.accepted [bk]) .issued) ∧
      (s.inCoreOrder [bk] = true → s.jobReport (s.rg a) ≠ word 0x80 →
        Performs s (.mwait gu d a) u ((s.accepted [bk]).wg d (s.jobReport (s.rg a))))) ∧
    ∀ (j : Job) (bs : List Nat), bs.Nodup →
      let t := s.acceptJob d gs la bs j
      (s.me.namesPort { ws := [d.toNat, gs.toNat] } = false →
        t.rg d = if d = 0 then 0 else jobIdent s.cur s.me.jobs) ∧
      t.me.pend = s.me.pend ++ [s.newPend (greg s.lv gs.toNat) la.toNat 1 .job 0] ∧
      (∀ k ∈ bs, (t.bay k).jobs = (s.bay k).jobs ++
        [{ j with id := s.ctr + 1, core := s.cur, lv := s.lv, pv := s.me.pv, pend := s.ctr, seq := s.me.jobs }]) ∧
      (∀ k, k ∉ bs → t.bay k = s.bay k) ∧ t.mem = s.mem ∧ t.me.v = s.me.v
  ) ∧
  (
  ∀ (s : State) (bk id : Nat) (j : Job),
    (s.freezing bk = true → exec (.matrixJobStart bk) s = .next s) ∧
    (s.freezing bk = false →
      nextServed (s.bay bk).rr ((Bay.heads bk (s.bay bk).jobs).filter (s.mayStart bk)) = some j →
      ∃ t, exec (.matrixJobStart bk) s = .next t ∧ (t.bay bk).rr = coreIdx j.core ∧
        (t.bay bk).jobs = updFirst (fun k => k.id == j.id) (fun k => { k with started := true }) (s.bay bk).jobs ∧
        (∀ k, k ≠ bk → t.bay k = s.bay k) ∧ t = { s with bays := t.bays }) ∧
    ((s.bay bk).jobs.find? (fun j => j.id == id) = some j → j.started = true →
      (j.kind = .tld → bayOf j.core = bk → j.row < j.rows → j.stop = none → j.wait = none → s.forkBusy j.core j.id = false →
        s.rowOk j.core j.pv (j.rowAt j.row) j.nb = true →
        ∀ x t, s.readRow bk j (j.rowAt j.row) (if inGlobal (j.rowAt j.row) then linePieces (j.rowAt j.row).toNat j.nb else [(0, j.nb)]) 0 =
            (.ok x, t) →
          exec (.tileRowMove bk id) s = .next ((t.fillRow j x).updJob bk id (fun j => { j with row := j.row + 1 }))) ∧
      (j.kind = .tld → bayOf j.core = bk → (j.rows ≤ j.row ∨ j.stop.isSome = true) →
        exec (.matrixJobComplete bk id) s = .next ((s.dropJob (baysOf (tileOf j.core)) id).endJob j)) ∧
      ((j.kind = .mma ∨ j.kind = .mmac) → s.freezing bk = false →
        let r := s.runMma bk j
        let t := r.1.dropJob [bk] id
        let f := j.flags.or r.2
        ((∀ k ∈ baysOf (tileOf j.core), ∀ x ∈ (t.bay k).jobs, x.id ≠ id) →
          exec (.matrixJobComplete bk id) s = .next (t.endJob { j with flags := f })) ∧
        ((∃ k ∈ baysOf (tileOf j.core), ∃ x ∈ (t.bay k).jobs, x.id = id) →
          ∃ t', exec (.matrixJobComplete bk id) s = .next t' ∧ t' = { t with bays := t'.bays } ∧
            (∀ k ∈ baysOf (tileOf j.core), (t'.bay k).jobs =
              updFirst (fun x => x.id == id) (fun x => { x with flags := x.flags.or f }) (t.bay k).jobs) ∧
            ∀ k, k ∉ baysOf (tileOf j.core) → t'.bay k = t.bay k))) ∧
    (let e := accWords (accOf j.ty)
      let t := (s.runMma bk j).1
      let cell := fun (i : Nat) => mmaCell j.ty j.sat j.z (s.tileRow bk j.ta (i / j.n)) (s.scaleRow bk j.ta (i / j.n))
        (s.tileRow bk j.tb (i % j.n)) (s.scaleRow bk j.tb (i % j.n)) (s.alcove bk (j.abase + i * e) e)
      (∀ i, i < j.rows * j.n → t.alcove bk (j.abase + i * e) e = (cell i).1 % 2 ^ (32 * e)) ∧
      (s.runMma bk j).2 = FFlags.orAll ((List.range (j.rows * j.n)).map (fun i => (cell i).2)) ∧
      (∀ k, (k < bk * 32768 + j.abase ∨ bk * 32768 + j.abase + j.rows * j.n * e ≤ k) →
        t.mem.alcove.get 0 k = s.mem.alcove.get 0 k) ∧
      { t.mem with alcove := s.mem.alcove } = s.mem)
  ) ∧
  (
  ∀ (ty : Nat) (sat z : Bool) (ra sa rb sb old : Nat),
    let w := bitsOf ty
    let groups := 1024 / w / 16
    let acc := fmtOf (if ty = 0 then 0 else 1)
    let bits := fun (row k : Nat) => row / 2 ^ (w * k) % 2 ^ w
    let val := fun (row scales k : Nat) =>
      let s := scales / 256 ^ (k / 16) % 256
      if ¬(6 ≤ ty ∧ ty ≤ 8) then decF (fmtOf ty) (bits row k)
      else if s = 255 then .nan false
      else (decF (fmtOf ty) (bits row k)).scale ((s : Int) - 127)
    let add := fun (p q : FVal × FFlags) =>
      let v := addV 0 p.1 q.1
      let r := roundF acc 0 false v.1
      (decF acc r.1, (p.2.or q.2).or (v.2.or r.2))
    let addInt := fun (x y : Int) =>
      let v := x + y
      intVal 11 (intBits 11 (if sat then max (-2 ^ 31) (min (2 ^ 31 - 1) v) else v))
    let isCell := fun (α : Type) (op : α → α → α) (leaf : Nat → α) (first : Option α) (c : Nat → Option α) =>
      ∃ node : Nat → Nat → Nat → α, c 0 = first ∧ ∀ g, g < groups →
        (∀ j, j < 16 → node g 0 j = leaf (16 * g + j)) ∧
        (∀ l j, l < 4 → j < 2 ^ (3 - l) → node g (l + 1) j = op (node g l (2 * j)) (node g l (2 * j + 1))) ∧
        c (g + 1) = some (match c g with
          | none => node g 4 0
          | some x => op x (node g 4 0))
    (ty < 9 → ∃ c v f, isCell (FVal × FFlags) add (fun k => mulV (val ra sa k) (val rb sb k))
        (if z then none else some (decF acc old, {})) c ∧ c groups = some (v, f) ∧
      mmaCell ty sat z ra sa rb sb old = ((roundF acc 0 false v).1, f)) ∧
    (ty = 9 → ∃ c v, isCell Int addInt (fun k => intVal 9 (bits ra k) * intVal 9 (bits rb k))
        (if z then none else some (intVal 11 old)) c ∧ c groups = some v ∧
      mmaCell ty sat z ra sa rb sb old = (intBits 11 v, {}))
  )

/-! ## The copy unit, fills and near-memory commands -/

/-- R153, R156, R168 to R172: CPSET and CPGET write and read the shadow registers of the running level; CPGO gives the
captured registers to the bay's copy unit, g[d] receiving the transfer's identifier, once the unit has a place and the
scratchpads that the registers' shape names have one for its scoreboard entries, and after the CPGOs of lower cores in the
cycle; a base that no copy may reach
traps APERTURE; CPCAN marks a transfer of its bay; SEALR seals a 64-byte record. R152, R157 to R165: the oldest
waiting copy starts when fewer than four run, or ends with BADSHAPE; a shape record is fetched once, and a copy with a
sound one walks its shape once it has its scoreboard entries; a copy whose element has been read writes it and
goes on, over an armed barrier word it skips and notes it; a cancelled copy ends; the status is delivered last. The
elements are numbered with the innermost count fastest. -/
def Obligations.CopyUnit : Prop :=
  (
  ∀ (s : State) (gu : Guard) (la idx : BitVec 4) (d gs a : Reg),
    let bk := bayOf s.cur
    let b := s.bay bk
    let set_ : Uses := { len := 12, on := s.guard gu, rs := [a.toNat], illegal := decide (9 < idx.toNat) }
    let get_ : Uses := { len := 12, on := s.guard gu, ws := [d.toNat], illegal := decide (9 < idx.toNat) }
    let go_ : Uses := { len := 12, on := s.guard gu, ws := [d.toNat, gs.toNat], long := true, illegal := d == gs && d != 0 }
    let can : Uses := { len := 12, on := s.guard gu, rs := [a.toNat], ws := [d.toNat] }
    (IssuesPlain s set_ →
      Performs s (.cpset gu idx a) set_ (s.updMe (fun c =>
        c.setThr s.lv { c.thr s.lv with cp := (c.thr s.lv).cp.set 0 idx.toNat (s.rg a) }))) ∧
    (IssuesPlain s get_ → Performs s (.cpget gu d idx) get_ (s.wg d ((s.me.thr s.lv).cp.get 0 idx.toNat))) ∧
    (IssuesPlain s go_ →
      let c : Copy := { core := s.cur, lv := s.lv, regs := (s.me.thr s.lv).cp, scout := s.me.cpscout.toNat, pv := s.me.pv, seq := b.copySeq }
      (∀ v, s.badBase c = some v → exec (.cpgo gu la d gs) s = .next (s.trap tAPERTURE v)) ∧
      let s1 := s.enterPend (s.newPend (greg s.lv gs.toNat) la.toNat 1 .copy 0)
      let s2 : State := { s1 with ctr := s1.ctr + 1 }
      let scores := s2.takeScores s.cur s1.ctr
        (if c.rt || c.recd then [] else ((s2.regShape c).map (s2.copySpans c)).getD [])
      (s.badBase c = none → (32 ≤ b.copies.length ∨ (b.copyBy.1 = s.cycle ∧ s.cur < b.copyBy.2) ∨ scores = none) →
        exec (.cpgo gu la d gs) s = .next s) ∧
      (∀ t, s.badBase c = none → b.copies.length < 32 → ¬(b.copyBy.1 = s.cycle ∧ s.cur < b.copyBy.2) → scores = some t →
        ∃ e : State, Performs s (.cpgo gu la d gs) go_ e ∧
          e.rg d = (if d = 0 then 0 else word (bk / 8 * 2 ^ 17 + bk % 8 * 2 ^ 14 + b.copySeq % 2 ^ 14)) ∧
          (e.bay bk).copies = b.copies ++ [{ c with id := s.ctr + 1, pend := s.ctr, scored := !(c.rt || c.recd) }] ∧
          (e.bay bk).copySeq = (b.copySeq + 1) % 2 ^ 14 ∧ (∀ k, k ≠ bk → e.bay k = s.bay k) ∧
          e.me.pend = s.me.pend ++ [s.newPend (greg s.lv gs.toNat) la.toNat 1 .copy 0] ∧ e.mem = s.mem ∧
          (∀ k, (e.core k).score = (t.core k).score) ∧
          (∀ lv r, r ≠ d.toNat → e.me.g lv r = s.me.g lv r) ∧ e.me.v = s.me.v)) ∧
    (IssuesPlain s can →
      let mine := fun (c : Copy) => copyIdent bk c.seq == s.rg a
      (b.copies.any mine = true → Performs s (.cpcan gu d a) can
        ((s.setBay bk { b with copies := updFirst mine (fun c => { c with cancel := true }) b.copies }).wg d 0)) ∧
      (b.copies.any mine = false → Performs s (.cpcan gu d a) can (s.wg d 1))) ∧
    (IssuesPlain s { can with long := true } →
      let u : Uses := { can with long := true }
      let v := s.rg a
      (v.toNat % 64 ≠ 0 → exec (.sealr gu la d a) s = .next (s.trap tALIGN v)) ∧
      (∀ x l t t', v.toNat % 64 = 0 → s.nowRead v 64 0 kLoad false = .ok x l t →
        t.storeElems .df false sysWrite [({ n := 4, addr := v + 60 }, (crc32c (bytesOf 60 x)).toNat)] = .done t' →
        Performs s (.sealr gu la d a) u (t'.answer d la ((crc32c (bytesOf 60 x)).setWidth 64))))
  ) ∧
  (
  ∀ (s : State) (bk id : Nat) (c : Copy),
    (((s.bay bk).copies.filter (fun c => c.st != .queued)).length < 4 →
      (s.bay bk).copies.find? (fun c => c.st == .queued) = some c → c.recd = false →
      (s.regShape c = none → exec (.copyStart bk) s = .next (s.endCopy bk c.id (some 8) false)) ∧
      (∀ h, s.regShape c = some h → exec (.copyStart bk) s = .next (s.startWalk bk c h))) ∧
    (∀ h : Shape,
      let c1 : Copy := { c with st := .shaped, esz := h.e, cnt := h.cnt, sstr := h.sstr, dstr := h.dstr }
      let s1 := s.updCopy bk c.id (fun c => { c with st := .shaped, esz := h.e, cnt := h.cnt, sstr := h.sstr, dstr := h.dstr })
      let runs := fun (t : State) => t.updCopy bk c.id (fun c => { c with st := .run, scored := true })
      (c.scored = true → s.startWalk bk c h = runs s1) ∧
      (c.scored = false →
        (s1.takeScores c.core c.id (s1.copySpans c1 h) = none → s.startWalk bk c h = s1) ∧
        ∀ t, s1.takeScores c.core c.id (s1.copySpans c1 h) = some t → s.startWalk bk c h = runs t)) ∧
    (s.copy? bk id = some c →
      (c.st = .fetch → s.forkBusy c.core c.id = false → c.abort = false → c.wait = none →
        ∀ x t, s.copyRead bk c 0 (c.reg 8) 64 .df = (.ok x, t) →
          (x % 2 ^ 16 ≠ fld (c.reg 9) 48 16 → exec (.shapeRecordFetch bk id) s = .next (t.endCopy bk id (some 4) false)) ∧
          (x % 2 ^ 16 = fld (c.reg 9) 48 16 → x / 2 ^ 480 ≠ (crc32c (bytesOf 60 x)).toNat →
            exec (.shapeRecordFetch bk id) s = .next (t.endCopy bk id (some 5) false)) ∧
          (x % 2 ^ 16 = fld (c.reg 9) 48 16 → x / 2 ^ 480 = (crc32c (bytesOf 60 x)).toNat →
            let shape := t.shapeOf c (x / 2 ^ 16 % 16) (recordWords x 8 3) (recordWords x 32 3)
            (x / 2 ^ 20 % 2 ^ 44 ≠ 0 ∨ x / 2 ^ 448 % 2 ^ 32 ≠ 0 ∨ shape = none →
              exec (.shapeRecordFetch bk id) s = .next (t.endCopy bk id (some 8) false)) ∧
            ∀ h, x / 2 ^ 20 % 2 ^ 44 = 0 → x / 2 ^ 448 % 2 ^ 32 = 0 → shape = some h →
              exec (.shapeRecordFetch bk id) s = .next (t.startWalk bk c h))) ∧
      (c.st = .shaped → exec (.shapeRecordFetch bk id) s = .next (s.beginWalk bk c)) ∧
      (c.st = .run → s.forkBusy c.core c.id = false → c.cancel = true → ∀ n,
        exec (.moveElement bk id n) s = .next (s.endCopy bk id (some 6) true)) ∧
      (c.st = .run → s.forkBusy c.core c.id = false → c.cancel = false → c.abort = false → c.wait = none → c.buf = [] →
        c.bad = none → c.i < c.n →
        ∀ x t, s.copyRead bk c c.i (c.srcAt c.i) c.esz (hintOf (fld (c.reg 9) 6 2)) = (.ok x, t) →
        let held := fun (k : Copy) => ({ k with buf := [BitVec.ofNat 1024 x], bad := none } : Copy)
        let w := (t.updCopy bk id held).copyWrite bk (held c) (c.dstAt c.i) c.esz (vecBytes (BitVec.ofNat 1024 x) 0 c.esz)
          (hintOf (fld (c.reg 9) 4 2))
        (∀ y, w.1 = .ok y → exec (.moveElement bk id 0) s = .next (w.2.copyNext bk (held c) false)) ∧
        (w.1 = .skip → exec (.moveElement bk id 0) s = .next (w.2.copyNext bk (held c) true))) ∧
      (c.st = .run → c.scout ≠ 0 → c.wait = none → c.abort = false → c.scoutAt = c.i → c.i < c.n →
        inGlobal (c.srcAt c.i) = false → inGlobal (c.dstAt c.i) = false →
        exec (.copyScout bk id) s = .next (s.updCopy bk id (fun k => { k with scoutAt := c.i + 1 }))) ∧
      (c.st = .updating → (∀ q ∈ (s.tile ((s.copyTile c).getD 0)).contribs, q.copy ≠ some (bk, id)) →
        exec (.copyComplete bk id) s = .next ((s.setBay bk { s.bay bk with
          copies := dropFirst (fun c => c.id == id) (s.bay bk).copies }).deliver c.core c.pend c.status))) ∧
    (∀ (base : Word) (n0 n1 n2 k0 k1 k2 : Nat) (s0 s1 s2 : Int), k0 < n0 → k1 < n1 → k2 < n2 →
      elemAddr base [n0, n1, n2] [s0, s1, s2] (k0 + n0 * (k1 + n1 * k2)) =
        base + BitVec.ofInt 64 ((k0 : Int) * s0 + (k1 : Int) * s1 + (k2 : Int) * s2))
  )

/-- R148 to R151: MFILL checks alignment, the range and its translation, takes its scoreboard entries and becomes a
fill; a fill of no target ends at once; each line of a fill is read once and written to every target of the mask. R106
to R113: NMCMD reads a command block of 64 bytes; a bad block answers BADCMD, a range that crosses its page PAGE, one
away from the command's die HOME, one refused REFUSED; else the command goes to the near-memory unit. A NOP, which has no
range, goes to that of die 0 (log entry 33: DEDUCED), and a dead way to a slice ends a command REFUSED (log entry 29: DEDUCED).
Each slice of the die is locked once; a command with all its locks is accepted; an idle unit takes the oldest command of its queue;
a running NOP ends. -/
def Obligations.MulticastFillAndNearMemory : Prop :=
  (
  ∀ (s : State) (gu : Guard) (la : BitVec 4) (h : Hint) (d a b c : Reg) (count : BitVec 24) (id : Nat) (f : MFill),
    let u : Uses := { len := 12, on := s.guard gu, rs := [a.toNat, b.toNat, c.toNat], ws := [d.toNat], long := true,
                      illegal := decide (count.toNat = 0) || decide (768 < count.toNat) }
    let i := Instr.mfill gu la h d a b c count
    let n := count.toNat
    (IssuesPlain s u →
      ((s.rg a).toNat % 128 ≠ 0 → exec i s = .next (s.trap tALIGN (s.rg a))) ∧
      ((s.rg a).toNat % 128 = 0 → (s.rg c).toNat % 128 ≠ 0 → exec i s = .next (s.trap tALIGN (s.rg c))) ∧
      ((s.rg a).toNat % 128 = 0 → (s.rg c).toNat % 128 = 0 → (s.rg a).toNat + 128 * n ≤ 2 ^ 52 →
        98304 < (s.rg c).toNat + 128 * n → exec i s = .next (s.trap tAPERTURE (s.rg c))) ∧
      ((s.rg a).toNat % 128 = 0 → (s.rg c).toNat % 128 = 0 → (s.rg a).toNat + 128 * n ≤ 2 ^ 52 → (s.rg c).toNat + 128 * n ≤ 98304 →
        ∀ ps t, s.fillPages (s.rg a) (128 * n) 3 = (ps, none, t) →
        (s.rg b = 0 → Performs s i u (t.answer d la (word (n * 2 ^ 32)))) ∧
        (s.rg b ≠ 0 → ∀ t', ({ t.enterPend (t.newPend (greg t.lv d.toNat) la.toNat 1 .mfill 0) with ctr := t.ctr + 2 } : State).takeScores
            s.cur (t.ctr + 1) ((maskCores (tileOf s.cur) (s.rg b)).map (fun k =>
              { core := k, lo := (s.rg c).toNat, hi := (s.rg c).toNat + 128 * n, last := n - 1 })) = some t' →
          let fill : MFill := { id := t.ctr + 1, core := s.cur, lv := s.lv, pend := t.ctr, src := s.rg a, pages := ps, mask := s.rg b,
                                off := (s.rg c).toNat, count := n, hint := h }
          Performs s i u { t' with fills := t'.fills ++ [fill] }))) ∧
    (s.fills.find? (fun f => f.id == id) = some f → s.forkBusy f.core f.id = false → s.nmHolds f.core f.id = false →
      s.lineBehind f = false → ∀ x t, s.engRead true { tile := tileOf f.core, core := coreIdx f.core, unit := 5, secure := (s.hallOfCore f.core).secure }
          kERead (f.pa f.i) 128 f.hint = (.ok x false, t) →
        let t' := t.witness f.core (f.pa f.i) (some (t.ssnOf (f.pa f.i)))
        let w := State.fillTargets f x (maskCores (tileOf f.core) f.mask) t'
        exec (.mfillLine id) s = .next (w.2.fillNext (if w.1 then f.note 3 else f)))
  ) ∧
  (
  (∀ (s : State) (gu : Guard) (la : BitVec 4) (d a : Reg),
    let u : Uses := { len := 12, on := s.guard gu, rs := [a.toNat], ws := [d.toNat], long := true }
    IssuesPlain s u →
    ((s.rg a).toNat % 64 ≠ 0 → exec (.nmcmd gu la d a) s = .next (s.trap tALIGN (s.rg a))) ∧
    ∀ x l t, (s.rg a).toNat % 64 = 0 → s.nmHolds s.cur s.ctr = false → s.nowRead (s.rg a) 64 0 kLoad false = .ok x l t →
      let b := nmBlk x
      (b.bad = true → Performs s (.nmcmd gu la d a) u (t.answer d la (word 2))) ∧
      (b.bad = false → ∀ rs t', t.nmPlaces b.ranges = (rs, none, t') →
        ((∃ r ∈ rs, r.cross = true) → Performs s (.nmcmd gu la d a) u (t'.answer d la (word 3))) ∧
        ((∀ r ∈ rs, r.cross = false) →
          let die := homeDie ((rs.getD 0 {}).pa)
          ((∃ r ∈ rs, t'.nmHome die r = true) → Performs s (.nmcmd gu la d a) u (t'.answer d la (word 4))) ∧
          ((∀ r ∈ rs, t'.nmHome die r = false) →
            let w := t'.nmRefused rs
            (w.1 = true → Performs s (.nmcmd gu la d a) u (w.2.answer d la (word 5))) ∧
            (w.1 = false → w.2.way (dieOf (tileOf t.cur)) (rowOfTile (tileOf t.cur)) die ≠ .dead →
              ∃ e : State, Performs s (.nmcmd gu la d a) u e ∧ e.mem = w.2.mem ∧
                e.me.pend = w.2.me.pend ++ [w.2.newPend (greg w.2.lv d.toNat) la.toNat 1 .nmu 0] ∧
                ∃ c : NmCmd, e.cmds = w.2.cmds ++ [c] ∧ c.st = .locking ∧ c.answered = [] ∧ c.core = t.cur ∧ c.pend = w.2.ctr ∧
                  c.op = b.op ∧ c.ty = b.ty ∧ c.n = b.n ∧ c.rm = b.rm ∧ c.sat = b.sat ∧ c.a0 = b.a0 ∧ c.a1 = b.a1))))) ∧
  ∀ (s : State) (id k : Nat) (c : NmCmd), s.cmds.find? (fun c => c.id == id) = some c →
    (c.st = .locking → k / 16 = homeDie c.home → k ∉ c.answered → s.sliceBusy c.core c.id k = false →
      s.wayToSlice (tileOf c.core) k = .dead → exec (.nmuLock id k) s = .next (s.endCmd c 0 5 {})) ∧
    (c.st = .locking → k / 16 = homeDie c.home → k ∉ c.answered → s.sliceBusy c.core c.id k = false →
      s.wayToSlice (tileOf c.core) k = .clear → s.slotsUsed k + c.slots k ≤ 4 →
      let ds := c.dstLines.filter (fun l => homeSlice (l * 128) == k)
      let ss := c.srcLines.filter (fun l => homeSlice (l * 128) == k)
      (∀ l ∈ ds ++ ss, s.missPending l = false ∧ s.recallWaits l = false) →
      exec (.nmuLock id k) s = .next (((ds.foldl State.evictLine (ss.foldl State.cleanLine s)).l1Clean (bayOf c.core)
        (fun l => ds.contains l)).updCmd id (fun c => { c with answered := k :: c.answered }))) ∧
    (c.st = .locking → (∀ j, j < 16 → homeDie c.home * 16 + j ∈ c.answered) → (s.nmuQueue (stackOf c.home)).length < 16 →
      exec (.nmuAccept id) s = .next { s.updCmd id (fun c => { c with st := .queued, order := s.ctr }) with ctr := s.ctr + 1 }) ∧
    ((∀ x ∈ s.cmds, x.st = .running → stackOf x.home ≠ k) →
      (s.nmuQueue k).find? (fun c => (s.nmuQueue k).all (fun d => decide (c.order ≤ d.order))) = some c →
      s.forkBusy c.core c.id = false → c.op ≠ 2 → c.op ≠ 7 →
      exec (.nmuExecute k) s = .next (s.updCmd c.id (fun c => { c with st := .running }))) ∧
    (s.cmds.find? (fun c => c.st == .running && stackOf c.home == k) = some c → c.op = 0 →
      exec (.nmuLine k) s = .next (({ s with cmds := dropFirst (fun x => x.id == c.id) s.cmds }).deliver c.core c.pend 0)) ∧
    (s.cmds.find? (fun c => c.st == .running && stackOf c.home == k) = some c → c.op = 4 → c.sz = 4 →
      let a := c.dst + c.i * 4
      let n := min (c.n - c.i) ((a / 128 * 128 + 128 - a) / 4)
      s.nmBefore c (a / 128) = false →
      let w := s.nmWrite a (n * 4) (nmElems c 32 0 0 n).1
      (c.i + n < c.n → exec (.nmuLine k) s = .next (w.updCmd c.id (fun _ => { c with i := c.i + n }))) ∧
      (c.n ≤ c.i + n → exec (.nmuLine k) s = .next (w.endCmd { c with i := c.i + n } c.n 0 c.flags)))
  )

/-! ## Barriers, counters, waits and fences -/

/-- R255 to R258: where a barrier word may be; PBINIT's five answers, and the word it arms (it reads g[c] only to arm one);
PBARR and PBEXP contribute
to the word's unit; PBWAIT waits at level 0 while the word is armed and in the given phase, and at level 1 never.
R257: the contributions that reach the unit of a word in one cycle are summed into one update. The phase advances
once, with ARR and BYTES reloaded, when the sum brings both to zero; BYTES wraps modulo 2^32. An arrival is told the
phase it counted in, and one too many OVER with the phase at its arrival (log entry 42: DEDUCED); on a word that is not armed it
is told NB and nothing else happens. In one cycle the accesses of cores to a scratchpad come in the order of R141 (log entry 32:
DEDUCED): a core whose turn has passed waits. -/
def Obligations.PhaseBarriers : Prop :=
  (
  ∀ (s : State) (gu : Guard) (la : BitVec 4) (d a b c : Reg),
    let init : Uses := { len := 12, on := s.guard gu, rs := [a.toNat, b.toNat] ++ (if s.pbinitReads b then [c.toNat] else []),
                         ws := [d.toNat], long := true }
    let arr_ : Uses := { len := 12, on := s.guard gu, rs := [a.toNat], ws := [d.toNat], long := true }
    let exp_ : Uses := { len := 12, on := s.guard gu, rs := [a.toNat, b.toNat] }
    let wait_ : Uses := { len := 12, on := s.guard gu, rs := [a.toNat, b.toNat], ws := [d.toNat], blocking := true, nomask := true }
    let va := s.rg a
    let arr := (s.rg b).toNat % 2 ^ 16
    let bytes := (s.rg c).toNat % 2 ^ 32
    (va.toNat % 8 ≠ 0 → s.wordPlace va = .inr (tALIGN, va)) ∧
    (va.toNat % 8 = 0 → va.toNat / 2 ^ 48 ≠ 0xFF00 → va.toNat / 2 ^ 48 ≠ 0xFF02 → s.wordPlace va = .inr (tAPERTURE, va)) ∧
    (va.toNat % 8 = 0 → va.toNat / 2 ^ 48 = 0xFF00 → va.toNat % 2 ^ 48 < 98304 → s.wordPlace va = .inl (s.cur, va.toNat % 2 ^ 48)) ∧
    (∀ code v, s.wordPlace va = .inr (code, v) →
      (IssuesPlain s init → ¬(arr ≠ 0 ∧ 2 ^ 31 ≤ bytes) → exec (.pbinit gu la d a b c) s = .next (s.trap code v)) ∧
      (IssuesPlain s arr_ → exec (.pbarr gu la d a) s = .next (s.trap code v)) ∧
      (IssuesPlain s exp_ → exec (.pbexp gu a b) s = .next (s.trap code v)) ∧
      (IssuesPlain s wait_ → exec (.pbwait gu d a b) s = .next (s.trap code v))) ∧
    (IssuesPlain s init → arr ≠ 0 → 2 ^ 31 ≤ bytes → exec (.pbinit gu la d a b c) s = .next (s.trap tILLEGAL (s.irWord 0))) ∧
    ∀ k o, s.wordPlace va = .inl (k, o) →
      let t := s.tile (tileOf k)
      let l := Loc.spad k o
      (IssuesPlain s init → s.pendingAt l = false → s.outOfTurn s.cur l 8 = false →
        (∀ r ∈ s.flight, r.op = .store → r.performed = false → r.loc.meets r.n l 8 = false) →
        (∀ e ∈ s.cores, ∀ r ∈ e.2.lv0.rest ++ e.2.lv1.rest, r.loc.meets r.n l 8 = false) →
        (∀ e, t.bar? k o = some e →
          (arr ≠ 0 → bytes < 2 ^ 31 → Performs s (.pbinit gu la d a b c) init (s.answer d la 2)) ∧
          (arr = 0 → Performs s (.pbinit gu la d a b c) init
            ((s.setTile (tileOf k) { t with bars := t.bars.filter (fun e => !(e.core == k && e.off == o)) }).answer d la 3))) ∧
        (t.bar? k o = none →
          (arr = 0 → Performs s (.pbinit gu la d a b c) init (s.answer d la 4)) ∧
          (arr ≠ 0 → bytes < 2 ^ 31 → 32 ≤ t.bars.length → Performs s (.pbinit gu la d a b c) init (s.answer d la 1)) ∧
          (arr ≠ 0 → bytes < 2 ^ 31 → t.bars.length < 32 → o + 8 ≤ 2 ^ 17 →
            ∃ w : State, Performs s (.pbinit gu la d a b c) init (w.answer d la 0) ∧
              w.spadRead k o 8 = arr * 2 ^ 32 + bytes ∧
              (w.tile (tileOf k)).bars = t.bars ++ [{ core := k, off := o, arr := arr, bytes := BitVec.ofNat 32 bytes }] ∧
              ∀ k' o', o' < 2 ^ 17 → (k' ≠ k ∨ o' < o ∨ o + 8 ≤ o') → w.spadByte k' o' = s.spadByte k' o'))) ∧
      ((∀ r ∈ s.flight, r.core = s.cur → r.loc.sameTarget l = true → r.performed = true) → s.pushAhead s.cur s.ctr l = false →
        (IssuesPlain s arr_ → Performs s (.pbarr gu la d a) arr_ ((s.enterPend (s.newPend (greg s.lv d.toNat) la.toNat 1 .other 0)).contribute
          { core := k, off := o, arrival := true, src := s.cur, pend := some s.ctr })) ∧
        (IssuesPlain s exp_ → Performs s (.pbexp gu a b) exp_
          (s.contribute { core := k, off := o, delta := (s.rg b).setWidth 32, src := s.cur }))) ∧
      (IssuesPlain s wait_ → (s.pendingAt l = true ∨ s.outOfTurn s.cur l 8 = true) → Waits s (.pbwait gu d a b) wait_ s .issued) ∧
      (IssuesPlain s wait_ → s.pendingAt l = false → s.outOfTurn s.cur l 8 = false →
        let x := s.spadRead k o 8
        ((t.bar? k o ≠ none ∧ x / 2 ^ 48 = (s.rg b).toNat % 2 ^ 16) → s.lv = false → Waits s (.pbwait gu d a b) wait_ s .issued) ∧
        (¬(t.bar? k o ≠ none ∧ x / 2 ^ 48 = (s.rg b).toNat % 2 ^ 16) ∨ s.lv = true →
          Performs s (.pbwait gu d a b) wait_ ((s.noteReach s.cur l 8).wg d (word x))))
  ) ∧
  (
  ∀ (s : State) (k o n : Nat), o + 8 ≤ 2 ^ 17 →
    let t := s.tile (tileOf k)
    let qs := (t.contribs.filter (fun q => q.core == k && q.off == o)).take n
    let w := s.spadRead k o 8
    (∀ e, t.bar? k o = some e → qs ≠ [] →
      let phase := w / 2 ^ 48
      let arr := w / 2 ^ 32 % 2 ^ 16 - (qs.filter (fun q => q.arrival)).length
      let bytes := BitVec.ofNat 32 w + (qs.filter (fun q => !q.arrival)).foldl (fun a q => a + q.delta) 0
      e.arr < 2 ^ 16 →
      ∃ t' : State, exec (.barrierUpdate k o n) s = .next t' ∧
        t'.spadRead k o 8 = (if arr = 0 ∧ bytes = 0 then (phase + 1) % 2 ^ 16 * 2 ^ 48 + e.arr * 2 ^ 32 + e.bytes.toNat
          else phase * 2 ^ 48 + arr * 2 ^ 32 + bytes.toNat) ∧
        (∀ k' o', o' < 2 ^ 17 → (k' ≠ k ∨ o' < o ∨ o + 8 ≤ o') → t'.spadByte k' o' = s.spadByte k' o')) ∧
    (∀ q p, qs = [q] → q.arrival = true → q.pend = some p →
      (∀ y ∈ s.tiles, ∀ m ∈ y.2.mons, m.loc.hit (.spad k o) 8 = false) →
      ∃ t' : State, exec (.barrierUpdate k o n) s = .next t' ∧
        (t.bar? k o = none → t'.mem = s.mem ∧ t'.core q.src = (s.core q.src).arrive p (word (2 ^ 62)) {}) ∧
        (t.bar? k o ≠ none → w / 2 ^ 32 % 2 ^ 16 ≠ 0 → (t'.core q.src).pend = ((s.core q.src).arrive p (word (w / 2 ^ 48)) {}).pend) ∧
        (t.bar? k o ≠ none → w / 2 ^ 32 % 2 ^ 16 = 0 → (t'.core q.src).pend = ((s.core q.src).arrive p (word (2 ^ 63 + w / 2 ^ 48)) {}).pend))
  )

/-- R260: CTINC adds to a counter, saturating at 2^64 − 1, and answers the new value. R261: the entries that the
counter crosses are freed and their actions performed in ascending threshold order, equal thresholds in arming order;
CTARM answers ARMED, FIRED or FULL. A wake ends a WFE or sets the latch; a record goes to the task queue, or to the
handler queue of its core; a record that finds its task queue full waits, and later actions of the tile behind it. R259: an armed barrier word is refused. R262: WAITA compares an aligned word and watches it
in one step: CHANGED when it differs; at level 1 WOKEN at once; FULL without a free monitor entry; else the thread
sleeps on its pending result. The WAITAs that watch a written place are answered WOKEN and their entries freed; a
WAITA may return without a write. -/
def Obligations.CountersAndAddressWaits : Prop :=
  (
  (∀ (s : State) (gu : Guard) (la : BitVec 4) (kind : BitVec 3) (d a b c : Reg) (k o : Nat),
    let inc : Uses := { len := 12, on := s.guard gu, rs := [a.toNat, b.toNat], ws := [d.toNat], long := true }
    let arm : Uses := { len := 12, on := s.guard gu, rs := [a.toNat, b.toNat, c.toNat], ws := [d.toNat], long := true }
    let l := Loc.spad k o
    let t := s.tile (tileOf k)
    s.wordPlace (s.rg a) = .inl (k, o) →
    (s.overBarrier l 8 = true →
      (IssuesPlain s inc → exec (.ctinc gu la d a b) s = .next (s.trap tCLOBBER (s.rg a))) ∧
      (IssuesPlain s arm → exec (.ctarm gu la kind d a b c) s = .next (s.trap tCLOBBER (s.rg a)))) ∧
    (s.overBarrier l 8 = false → s.pendingAt l = false → s.overScore l 8 = false → s.outOfTurn s.cur l 8 = false →
      let old := s.spadRead k o 8
      (IssuesPlain s inc →
        let new := min (old + (s.rg b).toNat) (2 ^ 64 - 1)
        let hits := (t.arms.filter (fun a => a.crossed k o old new)).foldl (fun l a => insArm a l) []
        let w := ((s.setTile (tileOf k) { t with arms := t.arms.filter (fun a => !a.crossed k o old new) }).noteReach s.cur l 8).locWrite
          l 8 new
        ∀ e, State.fireAll (tileOf k) hits w = some e → Performs s (.ctinc gu la d a b) inc (e.answer d la (word new))) ∧
      (IssuesPlain s arm → ∀ (act : ArmAct) (w : State),
        ((kind = 0 ∧ act = .wake (tileOf k * 64 + (s.rg c).toNat % 64) ∧ w = s) ∨
         (∃ x y, (s.rg c).toNat % 32 = 0 ∧ s.nowRead (s.rg c) 32 0 kLoad false = .ok x y w ∧ (recOf x).bad = none ∧
           ((kind = 1 ∧ fld (recOf x).tidx 38 26 = 0 ∧ act = .msg (tileOf k * 64 + fld (recOf x).tidx 32 6) (recOf x)) ∨
            (kind = 2 ∧ act = .task (recOf x))))) →
        w.pendingAt l = false → w.overScore l 8 = false → w.outOfTurn w.cur l 8 = false →
        let t' := w.noteReach w.cur l 8
        (t'.spadRead k o 8 < (s.rg b).toNat → (t'.tile (tileOf k)).arms.length < 64 → Performs s (.ctarm gu la kind d a b c) arm
          ((t'.setTile (tileOf k) { t'.tile (tileOf k) with
            arms := (t'.tile (tileOf k)).arms ++ [{ core := k, off := o, thr := s.rg b, act := act }] }).answer d la 0)) ∧
        (t'.spadRead k o 8 < (s.rg b).toNat → 64 ≤ (t'.tile (tileOf k)).arms.length →
          Performs s (.ctarm gu la kind d a b c) arm (t'.answer d la 2)) ∧
        ((s.rg b).toNat ≤ t'.spadRead k o 8 → ∀ e, t'.fire (tileOf k) act = some e →
          Performs s (.ctarm gu la kind d a b c) arm (e.answer d la 1))))) ∧
  (∀ (l : List Arm) (v : Word),
    let ordered := l.foldl (fun l a => insArm a l) []
    ordered.Perm l ∧ ordered.Pairwise (fun x y => x.thr.toNat ≤ y.thr.toNat) ∧
    ordered.filter (fun a => a.thr == v) = l.filter (fun a => a.thr == v)) ∧
  ∀ (s : State) (tl ck : Nat) (r : Rec),
    let cls := ((s.hallOf tl).getD {}).cls
    let t := s.tile tl
    (s.armWaits tl = true ∨ 8192 ≤ (t.queue cls).length →
      s.fire tl (.task r) = some { s with
        pushes := s.pushes ++ [{ id := s.ctr, tile := tl, crec := r, forced := true, armed := true }], ctr := s.ctr + 1 }) ∧
    (s.armWaits tl = true → s.fire tl (.msg ck r) = none ∧ s.fire tl (.wake ck) = none) ∧
    (s.armWaits tl = false →
      ((t.queue cls).length < 8192 → ∃ w, s.fire tl (.task r) = some w ∧ (w.tile tl).queue cls = t.queue cls ++ [s.cycle] ∧
        w.getRec tl (t.taskSlot cls (t.queue cls).length) = r ∧ w.pushes = s.pushes) ∧
      (let u := s.tile (tileOf ck)
       let from_ := s.myHall.sender s.cur
       (s.core ck).handlers.length < 64 → (∀ e ∈ u.overflow, e.core ≠ ck) → ¬(u.lastPost.1 = s.cycle ∧ from_ < u.lastPost.2) →
        s.fire tl (.msg ck r) = some ((s.setTile (tileOf ck) { u with lastPost := (s.cycle, from_) }).setCore ck
          { s.core ck with handlers := (s.core ck).handlers ++ [{ crec := r }] })) ∧
      ((∀ m ∈ (s.tile (tileOf ck)).mons, m.core ≠ ck) →
        s.fire tl (.wake ck) = some (s.setCore ck (if (s.core ck).lv0.hold = .wfe
          then { (s.core ck).resume false ((s.core ck).lv0.pc + 4) with latch := false } else { s.core ck with latch := true }))))
  ) ∧
  (
  (∀ (s : State) (i : Instr) (gu : Guard) (la : BitVec 4) (d a b : Reg) (imm : BitVec 24) (lit : BitVec 64) (u : Uses) (va : Word),
    ((i = .waita gu la d a b imm ∧ va = s.rg a + imm24 imm ∧
        u = { len := 12, on := s.guard gu, rs := [a.toNat, b.toNat], ws := [d.toNat], long := true, nomask := true }) ∨
      (i = .waitaLiteral gu la d a b lit ∧ va = s.rg a + lit ∧
        u = { len := 20, on := s.guard gu, rs := [a.toNat, b.toNat], ws := [d.toNat], long := true, nomask := true })) →
    IssuesPlain s u →
    (va.toNat % 8 ≠ 0 → exec i s = .next (s.trap tALIGN va)) ∧
    (va.toNat % 8 = 0 → ∀ x l t, s.nowRead va 8 0 kAtomic false = .ok x l t → (∀ pa, l = .glob pa → isHost pa = false) →
      (word x ≠ s.rg b → Performs s i u (t.answer d la 1)) ∧
      (word x = s.rg b → t.lv = true → Performs s i u (t.answer d la 0)) ∧
      (word x = s.rg b → t.lv = false → 32 ≤ (t.tile (tileOf t.cur)).mons.length → Performs s i u (t.answer d la 2)) ∧
      (word x = s.rg b → t.lv = false → (t.tile (tileOf t.cur)).mons.length < 32 →
        Performs s i u ((t.enterPend (t.newPend (greg t.lv d.toNat) la.toNat 1 .waita 0)).updTile (tileOf t.cur) (fun tl =>
          { tl with mons := tl.mons ++ [{ core := t.cur, pend := t.ctr, loc := l }] }))))) ∧
  (∀ (s : State) (l : Loc) (n tl : Nat), (∀ pa, l ≠ .glob pa) →
    ((s.notify l n).tile tl).mons = (s.tile tl).mons.filter (fun m => !m.loc.hit l n)) ∧
  (∀ (s : State) (l : Loc) (n : Nat) (m : Mon) (tl : Nat), (∀ pa, l ≠ .glob pa) → s.tiles = [(tl, { s.tile tl with mons := [m] })] →
    m.loc.hit l n = true → (s.notify l n).core m.core = (s.core m.core).arrive m.pend 0 {}) ∧
  ∀ (s : State) (ck id : Nat) (m : Mon), m ∈ (s.tile (tileOf ck)).mons → m.core = ck → m.pend = id →
    exec (.waitaWake ck id) s = .next ((s.setTile (tileOf ck) { s.tile (tileOf ck) with
      mons := (s.tile (tileOf ck)).mons.filter (fun m => !(m.core == ck && m.pend == id)) }).deliver ck id 0)
  )

/-- R263, R264, R436: what each scope covers; a fence waits while a covered access of its earlier class is not
performed; then it answers POISON, REFUSED and DEADLINK, reports each covered failure once, and, as FULL, ACQ or INST
at TILE or wider, drops the clean lines of the bay that it covers, and no answer that a slice has already given brings one
of them back (log entry 19: DEDUCED); INST empties the bay's instruction cache too. R333: the core's pushes on their way are
stores, which QUAD, DIE or PKG covers where they go to other tiles. -/
def Obligations.Fences : Prop :=
  (∀ (s : State) (i : Instr) (gu : Guard) (d : Reg) (scope kind : BitVec 3) (K : Nat),
    ((i = .fence gu d scope kind ∧ K = kind.toNat ∧ K < 4) ∨ (i = .fenceInst gu d scope ∧ K = 4)) →
    let n := scope.toNat
    let covers := fun l => coverScope s.cur l ≤ n
    let u : Uses := { len := 12, on := s.guard gu, ws := [d.toNat], blocking := true }
    let bk := bayOf s.cur
    let late := fun (r : Req) => r.core = s.cur ∧ r.lv = s.lv ∧ r.op.inClass (K != 3) (K != 2) = true ∧ covers r.loc
    let owed := fun (q : Contrib) => q.src = s.cur ∧ q.copy = none ∧ q.arrival = false ∧ covers (.spad q.core q.off)
    let pushed := fun (m : QFlight) => s.lv = false ∧ (∃ x, m.msg = .push x) ∧ m.src = s.cur ∧ covers (.spad m.core 0)
    let fails := (s.me.thr s.lv).fails
    let drops := (K = 0 ∨ K = 2 ∨ K = 4) ∧ 2 ≤ n
    IssuesPlain s u →
    ((∃ r ∈ s.flight, late r) → Waits s i u s .issued) ∧
    (K ≠ 2 → (∃ q ∈ (s.tile (tileOf s.cur)).contribs, owed q) ∨ (∃ m ∈ s.qflight, pushed m) → Waits s i u s .issued) ∧
    ((∀ r ∈ s.flight, ¬late r) →
      (K = 2 ∨ (∀ q ∈ (s.tile (tileOf s.cur)).contribs, ¬owed q) ∧ ∀ m ∈ s.qflight, ¬pushed m) →
      ∃ e : State, Performs s i u e ∧
        e.rg d = (if d = 0 then 0 else word ((if ∃ f ∈ fails, covers f.1 ∧ f.2 = true then 1 else 0) +
          (if ∃ f ∈ fails, covers f.1 ∧ f.2 = false then 2 else 0) +
          (if 5 ≤ n ∧ (s.linkState 0 = 2 ∨ s.linkState 1 = 2) then 4 else 0))) ∧
        (e.me.thr s.lv).fails = fails.filter (fun f => decide (n < coverScope s.cur f.1)) ∧
        (e.bay bk).l1 = (if drops then (s.bay bk).l1.filter (fun x => decide (n < 5) && homeDie (x.line * 128) != dieOf (tileOf s.cur)) else (s.bay bk).l1) ∧
        (e.bay bk).icache = (if K = 4 then [] else (s.bay bk).icache) ∧
        (∀ k, k ≠ bk → e.bay k = s.bay k) ∧ (∀ k, k ≠ s.cur → e.core k = s.core k) ∧ e.mem = s.mem ∧
        e.flight = (if drops then s.flight.map (fun r => match r.st, r.loc with
          | .done _ _ _, .glob pa =>
            if bayOf r.core = bk ∧ (5 ≤ n ∨ homeDie (pa / 128 * 128) = dieOf (tileOf s.cur)) then { r with nofill := true } else r
          | _, _ => r) else s.flight))) ∧
  (∀ (ck c o v pa : Nat),
    let far := fun (u : Nat) => if dieOf u ≠ dieOf (tileOf ck) then 5 else if quadOf u = quadOf (tileOf ck) then 3 else 4
    coverScope ck (.spad c o) = (if c = ck then 0 else if bayOf c = bayOf ck then 1
      else if tileOf c = tileOf ck then 2 else far (tileOf c)) ∧
    coverScope ck (.gal c o) = 2 ∧
    coverScope ck (.glob pa) = (if isHost pa then 6 else if homeDie pa = dieOf (tileOf ck) then 0 else 5) ∧
    coverScope ck (.vault v o) = (let u := tileOfVault v
      if u = tileOf ck then (if coreIdx ck * 32768 ≤ o ∧ o < coreIdx ck * 32768 + 32768 then 0 else 2) else far u)) ∧
  ReqOp.inClass .load true false = true ∧ ReqOp.inClass .store true false = false ∧ ReqOp.inClass .load false true = false ∧
  ReqOp.inClass .store false true = true ∧ ∀ op ty, ReqOp.inClass (.amo op ty) true false = true ∧
    ReqOp.inClass (.amo op ty) false true = true ∧ ReqOp.inClass (.rd op ty) false true = true ∧
    ReqOp.inClass (.xadd ty) false true = true

/-! ## Tasks and messages -/

/-- R294, R296: SPAWN checks the record and the target, waits for its earlier accesses, and offers the record to the
target tile. Once the offer is accepted it answers QUEUED; refused at level 1, FULL; refused at level 0 the thread
stores its frame above g2 and becomes the child, but traps WINDOW where it issued inside an open window on g2 or g3 (R49; that
the trap comes after the refusal is log entry 43: DEDUCED). R298: the step of CONT and JDEC on a join block: an armed block
answers BUSY to CONT; the count wraps modulo 2^32; an armed block whose count reaches zero fires once, and its record
is pushed and never refused, or, where the record or its target is unsound, nothing is pushed and a BADJOIN message with the
block's address goes to the service core's handler queue, or the hall is cancelled without one (R414). R297, R306: the block's
address is checked, and earlier accesses performed first. -/
def Obligations.SpawningAndJoining : Prop :=
  (
  ∀ (s : State) (gu : Guard) (d a b : Reg),
    let u : Uses := { len := 12, on := s.guard gu, rs := [a.toNat, b.toNat], ws := [d.toNat], mw := if s.lv then [] else [2, 3],
                      blocking := true, nomask := true }
    let i := Instr.spawn gu d a b
    (IssuesPlain s u →
      ((s.rg a).toNat % 32 ≠ 0 → exec i s = .next (s.trap tALIGN (s.rg a))) ∧
      ((s.rg a).toNat % 32 = 0 → ∀ x l t, s.nowRead (s.rg a) 32 0 kLoad false = .ok x l t →
        let r := recOf x
        (r.code.toNat % 4 ≠ 0 → exec i s = .next (t.trap tALIGN r.code)) ∧
        (r.code.toNat % 4 = 0 → r.jctr.toNat % 64 ≠ 0 → exec i s = .next (t.trap tALIGN r.jctr)) ∧
        (r.code.toNat % 4 = 0 → r.jctr.toNat % 64 = 0 →
          (targetOk s.myHall (s.rg b) true false = false → exec i s = .next (t.trap tCONE (s.rg b))) ∧
          (targetOk s.myHall (s.rg b) true false = true → t.unreleased = true → Waits s i u t .issued) ∧
          (targetOk s.myHall (s.rg b) true false = true → t.unreleased = false →
            ∃ e : State, Waits s i u e (.spawn t.ctr) ∧ (e.me.thr t.lv).offer = r ∧ e.mem = t.mem ∧
              e.pushes = t.pushes ++ [{ id := t.ctr, tile := t.targetTile s.myHall (tileOf s.cur) (s.rg b) r, crec := r,
                                        from? := some (s.cur, s.lv) }])))) ∧
    (s.me.namesPort u = false →
      ((s.me.thr s.lv).hold = .answered true →
        exec (.spawn gu d a b) s = .next ((s.wg d 0).updMe (fun c => c.resume s.lv (s.pc + 12)))) ∧
      ((s.me.thr s.lv).hold = .answered false → s.lv = true →
        exec (.spawn gu d a b) s = .next ((s.wg d 2).updMe (fun c => c.resume s.lv (s.pc + 12)))) ∧
      (∀ pc, (s.me.thr s.lv).hold = .answered false → s.lv = false → (s.me.thr s.lv).late = some pc →
        exec (.spawn gu d a b) s = .next (s.trap tWINDOW pc)) ∧
      ((s.me.thr s.lv).hold = .answered false → s.lv = false → (s.me.thr s.lv).late = none →
        let g2 := s.me.g false 2
        let r := (s.me.thr false).offer
        ∀ t, s.storeElems .df false sysWrite
            [({ idx := 0, addr := g2 }, (s.pc + 12).toNat), ({ idx := 1, addr := g2 + 8 }, (s.me.g false 3).toNat),
             ({ idx := 2, addr := g2 + 16 }, (s.me.thr false).jctr.toNat),
             ({ idx := 3, addr := g2 + 24 }, (s.me.thr false).ltask.toNat)] = .done t → t.lv = false → t.me.port d.toNat = none →
          ∃ e : State, exec (.spawn gu d a b) s = .next (e.updMe (fun c => c.resume s.lv r.code)) ∧ e.me.inl = t.me.inl + 1 ∧ e.me.g false 3 = r.frame ∧
            (d ≠ 2 → e.me.g false 2 = t.me.g false 2 + 32) ∧ (d ≠ 0 → d ≠ 3 → e.rg d = 1) ∧
            (e.me.thr false).ltask = word (r.tidx.toNat % 2 ^ 32) ∧ (e.me.thr false).jctr = r.jctr ∧
            (∀ k, k ≠ 2 → k ≠ 3 → k ≠ d.toNat → e.me.g false k = t.me.g false k) ∧ e.mem = t.mem))
  ) ∧
  (
  (∀ (s : State) (a : Word) (k o x : Nat) (add : Option Nat), o + 8 ≤ 2 ^ 17 → x < 2 ^ 512 →
    let w := x % 2 ^ 64
    let armed := w / 2 ^ 32 % 2 = 1
    let st := (s.joinStep a (.spad k o) x add).1
    let t := (s.joinStep a (.spad k o) x add).2
    (∀ n, add = some n → armed → st = 2 ∧ t = s) ∧
    ((add = none ∨ ¬armed) →
      let count := match add with
        | some n => (w + n) % 2 ^ 32
        | none => (w + (2 ^ 32 - 1)) % 2 ^ 32
      let isArmed := armed ∨ add ≠ none
      let r := recOf (x / 2 ^ 256)
      let target := word (x / 2 ^ 64)
      st = word (count * 2 ^ 32 + if isArmed ∧ count = 0 then 1 else 0) ∧
      t.spadRead k o 8 = w / 2 ^ 33 * 2 ^ 33 + (if isArmed ∧ count ≠ 0 then 2 ^ 32 else 0) + count ∧
      (¬(isArmed ∧ count = 0) → t.pushes = s.pushes) ∧
      (isArmed → count = 0 → r.bad = none → targetOk s.myHall target true false = true →
        ∃ p : Push, t.pushes = s.pushes ++ [p] ∧ p.crec = r ∧ p.forced = true ∧ p.from? = none ∧
          (bitAt target 63 = false → p.tile = s.myHall.tileAt (fld target 8 4) (fld target 16 3))) ∧
      (isArmed → count = 0 → (r.bad ≠ none ∨ targetOk s.myHall target true false = false) →
        let w := s.nowWrite (.spad k o) 8 (w / 2 ^ 33 * 2 ^ 33)
        let h := w.myHall
        let tidx := 3 * 2 ^ 28 + bit w.lv * 2 ^ 23 + h.y (tileOf w.cur) * 2 ^ 20 + h.x (tileOf w.cur) * 2 ^ 16 + coreIdx w.cur * 2 ^ 10
        let tile := w.tile (tileOf h.service)
        t.pushes = s.pushes ∧
        (h.stallh = 0 → t = w.cancelHall h.id) ∧
        (h.stallh ≠ 0 → (w.core h.service).handlers.length < 64 → (∀ e ∈ tile.overflow, e.core ≠ h.service) →
          tile.lastPost.1 ≠ w.cycle →
          t = (w.setTile (tileOf h.service) { tile with lastPost := (w.cycle, h.senderOf tidx) }).setCore h.service
            { w.core h.service with handlers := (w.core h.service).handlers ++
              [{ crec := { code := h.stallh, frame := a, jctr := 0, tidx := word tidx }, svc := true }] })))) ∧
  (∀ (s : State) (gu : Guard) (la : BitVec 4) (d a b : Reg),
    let u : Uses := { len := 12, on := s.guard gu, rs := [a.toNat, b.toNat], ws := [d.toNat], long := true }
    IssuesPlain s u → fld (s.rg b) 31 33 ≠ 0 → exec (.cont gu la d a b) s = .next (s.trap tILLEGAL (s.irWord 0))) ∧
  ∀ (s : State) (gu : Guard) (la : BitVec 4) (d a b : Reg),
    let cont := Instr.cont gu la d a b
    let jdec := Instr.jdec gu la d a
    let uc : Uses := { len := 12, on := s.guard gu, rs := [a.toNat, b.toNat], ws := [d.toNat], long := true }
    let uj : Uses := { len := 12, on := s.guard gu, rs := [a.toNat], ws := [d.toNat], long := true }
    let v := s.rg a
    let n := some (s.rg b).toNat
    let p := v.toNat / 2 ^ 48
    let sound := p ≤ 0xF ∨ p = 0xFF00 ∨ p = 0xFF02
    let stops := fun (i : Instr) =>
      (v.toNat % 64 ≠ 0 → exec i s = .next (s.trap tALIGN v)) ∧ (v.toNat % 64 = 0 → ¬sound → exec i s = .next (s.trap tAPERTURE v)) ∧
      (v.toNat % 64 = 0 → sound → s.unreleased = true → exec i s = .next s)
    let own := Loc.spad s.cur (v.toNat % 2 ^ 48)
    let at_ := s.noteReach s.cur own 64
    let free := p = 0xFF00 ∧ v.toNat % 2 ^ 48 + 64 ≤ 98304 ∧ s.overBarrier own 64 = false ∧ s.pendingAt own = false ∧
      s.unacked own 64 = false ∧ s.overScore own 64 = false ∧ s.outOfTurn s.cur own 64 = false
    (IssuesPlain s uc → fld (s.rg b) 31 33 = 0 → stops cont ∧
      (v.toNat % 64 = 0 → sound → s.unreleased = false → ∀ x l t, s.nowRead v 64 3 kAtomic true = .ok x l t →
        Performs s (.cont gu la d a b) uc ((t.joinStep v l x n).2.answer d la (t.joinStep v l x n).1)) ∧
      (v.toNat % 64 = 0 → s.unreleased = false → free →
        Performs s (.cont gu la d a b) uc
          ((at_.joinStep v own (s.locRead own 64) n).2.answer d la (at_.joinStep v own (s.locRead own 64) n).1))) ∧
    (IssuesPlain s uj → stops jdec ∧
      (v.toNat % 64 = 0 → sound → s.unreleased = false → ∀ x l t, s.nowRead v 64 3 kAtomic true = .ok x l t →
        Performs s (.jdec gu la d a) uj ((t.joinStep v l x none).2.answer d la (t.joinStep v l x none).1)) ∧
      (v.toNat % 64 = 0 → s.unreleased = false → free →
        Performs s (.jdec gu la d a) uj
          ((at_.joinStep v own (s.locRead own 64) none).2.answer d la (at_.joinStep v own (s.locRead own 64) none).1)))
  )

/-- R299, R305, R304: SEND delivers a record to the vestibule or queue of its core, due d + 1 steps after the
sender's; JOIN and LEAVE set and clear the core's bit of a group word and answer the old word; MASKH opens a masked
window of the task and UNMASKH closes it. R301: TEND waits for the results owed to its level, not for the status of an
engine that goes to g0, and for its earlier accesses; the PC of the frame that an inline child returns by traps ALIGN unless its
bits [1:0] are zero (R56);
decrements the join block of its record; then the record ends, level 1 returning to the task unprivileged, or an
inline child returns to its parent by the frame below g2. -/
def Obligations.SendingAndEndingRecords : Prop :=
  (
  ∀ (s : State) (gu : Guard) (la : BitVec 4) (h : Bool) (d a b : Reg),
    let snd : Uses := { len := 12, on := s.guard gu, rs := [a.toNat, b.toNat], ws := [d.toNat], long := true }
    let grp : Uses := { len := 12, on := s.guard gu, rs := [a.toNat], ws := [d.toNat], long := true }
    let opn : Uses := { len := 12, on := s.guard gu, uncounted := !s.me.maskOpen, illegal := s.lv }
    let cls : Uses := { len := 12, on := s.guard gu, uncounted := true }
    let ti := tileOf s.cur
    let tl := s.tile ti
    let me := coreIdx s.cur
    let set_ := fun (w : Word) => w ||| ((1 : Word) <<< me)
    let clr := fun (w : Word) => w &&& ~~~((1 : Word) <<< me)
    (IssuesPlain s snd → (s.rg a).toNat % 32 = 0 → ∀ x l t, s.nowRead (s.rg a) 32 0 kLoad false = .ok x l t → (recOf x).bad = none →
      (targetOk s.myHall (s.rg b) false true = false → exec (.send gu la h d a b) s = .next (t.trap tCONE (s.rg b))) ∧
      (targetOk s.myHall (s.rg b) false true = true → t.unreleased = true → exec (.send gu la h d a b) s = .next s) ∧
      (targetOk s.myHall (s.rg b) false true = true → t.unreleased = false →
        let to_ := s.myHall.tileAt (fld (s.rg b) 8 4) (fld (s.rg b) 16 3)
        let due := (t.tile ti).s + manhattan ti to_ + 1
        let v : VRec := { crec := recOf x, core := to_ * 64 + fld (s.rg b) 0 6, h := h, sender := s.myHall.sender s.cur, due := due }
        ∃ e : State, Performs s (.send gu la h d a b) snd e ∧ e.mem = t.mem ∧
          e.me.pend = t.me.pend ++ [t.newPend (greg t.lv d.toNat) la.toNat 1 .send 0] ∧
          e.parks = t.parks ++ [Park.mk (t.ctr + 1) to_ v s.cur s.lv t.ctr (t.tile ti).s])) ∧
    (IssuesPlain s grp → a = 0 →
      (∃ e : State, Performs s (.join gu la d a) grp (e.answer d la tl.group) ∧ (e.tile ti).group = set_ tl.group ∧
        (∀ k, k ≠ me → bitAt (e.tile ti).shares k = bitAt tl.shares k) ∧
        bitAt (e.tile ti).shares me = (bitAt tl.shares me && bitAt tl.group me) ∧ e.mem = s.mem) ∧
      Performs s (.leave gu la d a) grp ((s.setTile ti { tl with group := clr tl.group }).answer d la tl.group)) ∧
    (IssuesPlain s grp → a ≠ 0 →
      (∀ code v, s.wordPlace (s.rg a) = .inr (code, v) →
        exec (.join gu la d a) s = .next (s.trap code v) ∧ exec (.leave gu la d a) s = .next (s.trap code v)) ∧
      ∀ k o, s.wordPlace (s.rg a) = .inl (k, o) →
        (s.overBarrier (.spad k o) 8 = true → exec (.join gu la d a) s = .next (s.trap tCLOBBER (s.rg a)) ∧
          exec (.leave gu la d a) s = .next (s.trap tCLOBBER (s.rg a))) ∧
        (s.overBarrier (.spad k o) 8 = false → s.pendingAt (.spad k o) = false → s.overScore (.spad k o) 8 = false →
          s.outOfTurn s.cur (.spad k o) 8 = false →
          let w := word (s.spadRead k o 8)
          let at_ := s.noteReach s.cur (.spad k o) 8
          Performs s (.join gu la d a) grp ((at_.locWrite (.spad k o) 8 (set_ w).toNat).answer d la w) ∧
          Performs s (.leave gu la d a) grp ((at_.locWrite (.spad k o) 8 (clr w).toNat).answer d la w))) ∧
    (IssuesPlain s opn → Performs s (.maskh gu) opn
      (s.updMe (fun c => { c with maskOpen := true, maskCnt := if c.maskOpen then c.maskCnt else 0 }))) ∧
    (IssuesPlain s cls → s.lv = false → Performs s (.unmaskh gu) cls (s.updMe (fun c => { c with maskOpen := false, maskCnt := 0 }))) ∧
    (IssuesPlain s cls → s.lv = true → Performs s (.unmaskh gu) cls s)
  ) ∧
  (
  ∀ (s : State) (gu : Guard),
    let inline := s.lv = false ∧ 0 < s.me.inl
    let u : Uses := { len := 12, on := s.guard gu, ws := if inline then [2, 3] else [], blocking := true, nomask := true }
    let i := Instr.tend gu
    let j := (s.me.thr s.lv).jctr
    let base := s.me.g false 2 - 32
    let returns := fun (w : State) (x : Nat) => ∃ e : State, exec i s = .next (State.after s u e (word x)) ∧
      e.me.g false 2 = base ∧ e.me.g false 3 = word (x / 2 ^ 64) ∧ e.me.inl = w.me.inl - 1 ∧
      (e.me.thr false).jctr = word (x / 2 ^ 128) ∧ (e.me.thr false).ltask = word (x / 2 ^ 192 % 2 ^ 32) ∧
      (∀ k, k ≠ 2 → k ≠ 3 → e.me.g false k = w.me.g false k) ∧ e.mem = w.mem
    IssuesPlain s u →
    ((∃ p ∈ s.me.pend, p.lv = s.lv ∧ p.owed = true) ∨ s.unreleased = true → Waits s i u s .issued) ∧
    ((∀ p ∈ s.me.pend, p.lv = s.lv → p.owed = false) → s.unreleased = false →
      (j = 0 → ¬inline → Waits s i u (s.updMe Core.endRecord) .idle) ∧
      (j = 0 → inline → ∀ x l t, s.readFrame base 4 = .ok x l t →
        (x % 4 ≠ 0 → exec i s = .next (t.trap tALIGN (word x))) ∧ (x % 4 = 0 → t.lv = false → returns t x)) ∧
      (∀ code, blockTrap j = some code → j ≠ 0 → exec i s = .next (s.trap code j)) ∧
      (j ≠ 0 → blockTrap j = none → ¬inline → ∀ y l t, s.nowRead j 64 3 kAtomic true = .ok y l t →
        Waits s i u ((t.joinStep j l y none).2.updMe Core.endRecord) .idle) ∧
      (j ≠ 0 → blockTrap j = none → inline → ∀ y l t, s.nowRead j 64 3 kAtomic true = .ok y l t →
        ∀ x l' t', t.readFrame base 4 = .ok x l' t' →
          (x % 4 ≠ 0 → exec i s = .next (t'.trap tALIGN (word x))) ∧
          (x % 4 = 0 → (t'.joinStep j l y none).2.lv = false → returns (t'.joinStep j l y none).2 x))) ∧
    (∀ (c : Core), (c.level = false → c.endRecord = { c with pv := false }) ∧
      (c.level = true → c.endRecord.level = false ∧ c.endRecord.pv = false ∧
        (c.lv0.hold = .wfe → c.endRecord.lv0.hold = .ready ∧ c.endRecord.lv0.pc = c.lv0.pc + 4 ∧ c.endRecord.latch = false) ∧
        (c.lv0.hold ≠ .wfe → c.endRecord.lv0 = c.lv0))) ∧
    (∀ p : Pend, (p.cls = .copy ∨ p.cls = .job ∨ p.cls = .mfill ∨ p.cls = .nmu) → p.dst = none → p.acc = 0 → p.owed = false) ∧
    ∀ (p : Pend), p.dst ≠ none → p.owed = true
  )

/-- R292, R293, R299, R303, R415: a record that reaches a task queue of 7,680 is refused if it may be, and the thread
that offered it is told; a push that cannot be refused waits while the queue is full. A sent record is accepted,
taking the sender's next number, or answered FULL. Due records leave the vestibule while their core's queue has room.
A record of the service overflow moves into a handler queue that has room. R175, R291, R292, R300, R363: an idle core
takes the head of its pinned queue, else of its tile's task queues; of two classes the first, but the second after
1,024 takes; the cores of a tile take in ascending index within a cycle. A handler starts at level 1 over the task, not
while T, a masked window or a level-0 window is open, nor amid a vector store (R267). Which bytes of the vault a record of a
queue, the vestibule or the overflow takes is the model's choice (log entry 23). A record starts with its own PC, frame, task index and join block, unprivileged, all other registers of its level zero but
those beneath bound stream ports, which stay (R330, R400). -/
def Obligations.RecordsArriveAndStart : Prop :=
  (
  (∀ (s : State) (id : Nat) (p : Push), s.pushes.find? (fun p => p.id == id) = some p →
    (∀ ck lv, p.from? = some (ck, lv) → s.wayBetween (tileOf ck) p.tile = .clear) →
    (p.armed = true → ∀ q ∈ s.pushes, q.armed = true → q.tile = p.tile → p.id ≤ q.id) →
    let cls := ((s.hallOf p.tile).getD {}).cls
    let n := ((s.tile p.tile).queue cls).length
    let s' : State := { s with pushes := dropFirst (fun p => p.id == id) s.pushes }
    let tell := fun (t : State) (ok : Bool) => match p.from? with
      | none => t
      | some (ck, lv) => if ((t.core ck).thr lv).hold = .spawn id then t.updCore ck (fun c => c.setHold lv (.answered ok)) else t.setCore ck (t.core ck)
    (p.forced = true → 8192 ≤ n → exec (.recordPush id) s = .next s) ∧
    (p.forced = true → n < 8192 → exec (.recordPush id) s = .next (s'.pushTask p.tile cls p.crec)) ∧
    (p.forced = false → 7680 ≤ n → exec (.recordPush id) s = .next (tell s' false)) ∧
    (p.forced = false → n < 7680 → exec (.recordPush id) s = .next (tell (s'.pushTask p.tile cls p.crec) true))) ∧
  (∀ (s : State) (id : Nat) (p : Park), s.parks.find? (fun p => p.id == id) = some p →
    (∀ q ∈ s.parks, q.core = p.core → q.tile = p.tile → p.id ≤ q.id) → s.wayBetween (tileOf p.core) p.tile = .clear → p.v.h = true →
    let det := ((s.hallOf p.tile).getD {}).det
    let slot := (s.tile p.tile).vestSlot
    let v := { p.v with seq := (s.core p.core).sendSeq, crec := {}, slot := slot }
    ∃ t : State, exec (.recordPark id) s = .next t ∧ t.parks = dropFirst (fun q => q.id == id) s.parks ∧
      (det = true → (s.tile p.tile).vest.length < 512 →
        (∀ y ∈ s.tiles, ∀ m ∈ y.2.mons, m.loc.hit (.vault (vaultOf p.tile) (vestBase + 32 * slot)) 32 = false) →
        (t.tile p.tile).vest = (s.tile p.tile).vest ++ [v] ∧ t.getRec p.tile (vestBase + 32 * slot) = p.v.crec ∧
        (∀ u ∈ (s.tile p.tile).vest, u.slot ≠ slot) ∧ (t.core p.core).sendSeq = ((s.core p.core).sendSeq + 1) % 2 ^ 32 ∧
        (t.core p.core).pend = ((s.core p.core).arrive p.pend 0 {}).pend) ∧
      (det = false → (s.core p.v.core).handlers.length < 64 → (∀ e ∈ (s.tile (tileOf p.v.core)).overflow, e.core ≠ p.v.core) →
        (t.core p.v.core).handlers = (s.core p.v.core).handlers ++ [{ crec := p.v.crec }] ∧
        (t.core p.core).sendSeq = ((s.core p.core).sendSeq + 1) % 2 ^ 32) ∧
      ((det = true ∧ 512 ≤ (s.tile p.tile).vest.length) ∨ (det = false ∧ 64 ≤ (s.core p.v.core).handlers.length) →
        (t.core p.core).sendSeq = (s.core p.core).sendSeq ∧ (t.tile p.tile).vest = (s.tile p.tile).vest ∧
        (t.core p.core).pend = ((s.core p.core).arrive p.pend 1 {}).pend)) ∧
  (∀ (s : State) (tl : Nat) (v : VRec), ((s.hallOf tl).getD {}).stop = .none → (s.tile tl).vest = [v] →
    (v.due ≤ (s.tile tl).vestReady → s.queueRoom v.core v.h = true →
      exec (.vestibuleRelease tl) s = .next ((s.enqueueCore (s.vestRec tl v)).updTile tl (fun t => { t with vest := dropFirst (fun u => u == v) t.vest }))) ∧
    ((s.tile tl).vestReady < v.due ∨ s.queueRoom v.core v.h = false → exec (.vestibuleRelease tl) s = .next s)) ∧
  ∀ (s : State) (tl ck : Nat) (e : OverEnt), (s.tile tl).overflow.find? (fun e => e.core == ck) = some e → (s.core ck).handlers.length < 64 →
    exec (.serviceOverflowDrain tl ck) s = .next ((s.setTile tl { s.tile tl with
      overflow := dropFirst (fun x => x.core == ck) (s.tile tl).overflow }).setCore ck
        { s.core ck with handlers := (s.core ck).handlers ++ [{ crec := s.getRec tl (overBase + 32 * e.slot), svc := e.svc }] })
  ) ∧
  (
  (∀ (s : State) (ck : Nat) (h : Hall), s.hallOf (tileOf ck) = some h → h.stop = .none →
    let c := s.core ck
    let t := s.tile (tileOf ck)
    c.stopped = false → c.level = false →
    (c.lv0.hold = .idle → ∀ r rs, c.pinned = r :: rs → exec (.taskPop ck) s = .next (s.setCore ck ({ c with pinned := rs }.startTask r))) ∧
    let late := t.popBy.1 = s.cycle ∧ ck < t.popBy.2
    let takes := fun (k n : Nat) => exec (.taskPop ck) s = .next ((s.setTile (tileOf ck)
      { t with taskq := t.taskq.put k ((t.queue k).drop 1), taskHead := t.taskHead.put k ((t.taskHead.get 0 k + 1) % 8192),
               popC := n, popBy := (s.cycle, ck) }).setCore ck
        (c.startTask (s.getRec (tileOf ck) (0x200000 + 32 * (8192 * k + t.taskHead.get 0 k % 8192)))))
    (c.lv0.hold = .idle → c.pinned = [] → late → exec (.taskPop ck) s = .next s) ∧
    (c.lv0.hold = .idle → c.pinned = [] → ¬late → ∀ k, t.queue k ≠ [] → k < 4 → (∀ j, j < 4 → j ≠ k → t.queue j = []) → takes k 0) ∧
    (c.lv0.hold = .idle → c.pinned = [] → ¬late → ∀ k l, k < l → l < 4 → t.queue k ≠ [] → t.queue l ≠ [] →
      (∀ j, j < 4 → j ≠ k → j ≠ l → t.queue j = []) → t.popC < 1024 → takes k (t.popC + 1)) ∧
    (c.lv0.hold = .idle → c.pinned = [] → ¬late → ∀ k l, k < l → l < 4 → t.queue l ≠ [] → t.queue k ≠ [] →
      (∀ j, j < 4 → j ≠ k → j ≠ l → t.queue j = []) → 1024 ≤ t.popC → takes l 0) ∧
    (c.lv0.hold ≠ .idle → exec (.taskPop ck) s = .next s) ∧
    (∀ r rs, c.handlers = r :: rs → c.tBit = false → c.maskOpen = false → c.windowOpen false = false → c.lv0.rest = [] →
      (∀ code v f, c.lv0.hold ≠ .trap code v f) → exec (.handlerStart ck) s = .next (s.setCore ck ({ c with handlers := rs }.startHandler r))) ∧
    (c.tBit = true ∨ c.maskOpen = true ∨ c.windowOpen false = true ∨ c.lv0.rest ≠ [] → exec (.handlerStart ck) s = .next s)) ∧
  (∀ (c : Core) (r : Rec) (k : Nat), c.level = false →
    let e := c.startTask r
    e.lv0.pc = r.code ∧ e.lv0.jctr = r.jctr ∧ e.lv0.ltask = word (r.tidx.toNat % 2 ^ 32) ∧ e.lv0.hold = .ready ∧
    e.g false k = (if k = 2 then 0xFF01000000000000 else if k = 3 then r.frame
      else if 24 ≤ k ∧ k < 32 ∧ (c.qreg (k - 24)).st ≠ .unbound then c.g false k else 0) ∧
    e.pv = false ∧ (k ≠ 7 → e.p false k = 0) ∧ e.vreg k = 0 ∧
    e.lv1 = c.lv1 ∧ e.pinned = c.pinned) ∧
  ∀ (c : Core) (r : HRec) (k : Nat),
    let e := c.startHandler r
    e.level = true ∧ e.pv = r.svc ∧ e.lv1.pc = r.crec.code ∧ e.lv1.jctr = r.crec.jctr ∧ e.lv1.ltask = word (r.crec.tidx.toNat % 2 ^ 32) ∧
    (k < 32 → e.g true k = (if k = 2 then 0xFF01000000007000 else if k = 3 then r.crec.frame else 0)) ∧
    (32 ≤ k → e.g true k = c.g true k) ∧ (k ≠ 7 → e.p true k = 0) ∧ e.lv0 = c.lv0 ∧ e.v = c.v
  )

/-! ## Steps -/

/-- R310, R311, R318, R321, R322: STEP notes its tile's step, waits for the core's accesses to its gallery, counts the share of
a member once, and waits until its tile has left the step it noted;
STEPQ and HALLQ report the step, the members not complete, and the conditions that are unmet. R310 to R314: a tile
enters its next step exactly when its group is not empty, every member's share is complete, every send of the step is
acknowledged, every neighbour has entered its step, and no read of the landing to be replaced is in flight. It copies
its live gallery into the landing, signals its neighbours, and opens the shares of the new step. A signal tells a
neighbour's step. R318: a tile self-held for HALLWD cycles posts one STALL message, which waits in the tile where there is
no room for it; an entry comes after a STALL that is due (log entry 32: DEDUCED). The model holds the thread of a HALLQ until it
has been answered (log entry 8: DEDUCED), and orders a tile's own message after those of its cores in a cycle (log entry 23:
DESIGN CHOICE). -/
def Obligations.StepsOfATile : Prop :=
  (
  ∀ (s : State) (gu : Guard) (la : BitVec 4) (d a : Reg),
    let tl := tileOf s.cur
    let t := s.tile tl
    let st : Uses := { len := 12, on := s.guard gu, ws := [d.toNat], blocking := true, nomask := true, illegal := s.lv && s.guard gu }
    let q : Uses := { len := 12, on := s.guard gu, ws := [d.toNat] }
    let hq : Uses := { len := 12, on := s.guard gu, rs := [a.toNat], ws := [d.toNat], long := true }
    let busy := (∃ r ∈ s.flight, r.core = s.cur ∧ r.loc.sameTarget (.gal tl 0) = true) ∨ ∃ m ∈ s.gmsgs, m.core = s.cur ∧ m.landing ≠ none
    (IssuesPlain s st →
      (t.s = 0xFFFFFFFF → exec (.step gu d) s = .next (s.trap tCONE 0xFFFFFFFF)) ∧
      (t.s ≠ 0xFFFFFFFF → busy → Waits s (.step gu d) st s (.share t.s)) ∧
      (t.s ≠ 0xFFFFFFFF → ¬busy → bitAt t.group (coreIdx s.cur) = true →
        Waits s (.step gu d) st (s.setTile tl { t with shares := t.shares ||| ((1 : Word) <<< coreIdx s.cur) }) (.step t.s)) ∧
      (t.s ≠ 0xFFFFFFFF → ¬busy → bitAt t.group (coreIdx s.cur) = false → Waits s (.step gu d) st s (.step t.s))) ∧
    (s.me.namesPort st = false → ∀ k, (s.me.thr s.lv).hold = .step k →
      (k < t.s → exec (.step gu d) s = .next ((s.wg d (word t.s)).updMe (fun c => c.resume s.lv (s.pc + 12)))) ∧
      (t.s ≤ k → ∃ e, exec (.step gu d) s = .next e ∧ (e.me.thr s.lv) = s.me.thr s.lv ∧ e.tiles = s.tiles ∧ e.mem = s.mem)) ∧
    (s.me.namesPort st = false → ∀ k, (s.me.thr s.lv).hold = .share k →
      (busy → ∃ e, exec (.step gu d) s = .next e ∧ (e.me.thr s.lv) = s.me.thr s.lv ∧ e.tiles = s.tiles ∧ e.mem = s.mem) ∧
      (¬busy → k < t.s → exec (.step gu d) s = .next ((s.wg d (word t.s)).updMe (fun c => c.resume s.lv (s.pc + 12)))) ∧
      (¬busy → t.s = k → ∃ e, exec (.step gu d) s = .next e ∧ (e.me.thr s.lv).hold = .step k ∧ e.mem = s.mem ∧ (e.tile tl).s = k ∧
        (e.tile tl).shares = if bitAt t.group (coreIdx s.cur) then t.shares ||| ((1 : Word) <<< coreIdx s.cur) else t.shares)) ∧
    (IssuesPlain s q → Performs s (.stepq gu d) q (s.wg d (s.stepStatus tl))) ∧
    (IssuesPlain s hq →
      let w := s.rg a
      let h := s.myHall
      let u := h.tileAt (fld w 8 4) (fld w 16 3)
      (targetOk h w false false = false → exec (.hallq gu la d a) s = .next (s.trap tCONE w)) ∧
      (targetOk h w false false = true → s.wayBetween tl u = .dead → exec (.hallq gu la d a) s = .next (s.trap tREFUSED w)) ∧
      (targetOk h w false false = true → s.wayBetween tl u ≠ .dead →
        let p := { s.newPend (greg s.lv d.toNat) la.toNat 1 .mem 0 with acc := 1 }
        let m : GMsg := { id := s.ctr + 1, core := s.cur, lv := s.lv, pend := s.ctr, pc := s.pc, tile := u, n := 8, tval := w }
        let e : State := s.putPend p
        Waits s (.hallq gu la d a) hq { e with gmsgs := s.gmsgs ++ [m], ctr := s.ctr + 2 } (.access s.ctr))) ∧
    (∀ (k : Nat) (h : Hall), s.hallOf k = some h →
      let x := s.tile k
      let left := ((List.range 64).filter (fun i => bitAt x.group i && !bitAt x.shares i)).length
      let nbr := ∀ n ∈ h.neighbours k, x.s ≤ x.nbrS.get 0 n.1
      let dead := ∃ n ∈ h.neighbours k, s.wayToTile n.2 k = .dead
      let self := dead ∨ (nbr ∧ ¬(left = 0 ∧ x.unparked = 0))
      s.stepStatus k = word (x.s + left * 2 ^ 32 + (if x.unparked = 0 then 0 else 2 ^ 40) + (if nbr then 0 else 2 ^ 41) +
        (if self then 2 ^ 42 else 0)))
  ) ∧
  (
  (∀ (s : State) (tl : Nat) (h : Hall), s.hallOf tl = some h → h.stop = .none →
    let t := s.tile tl
    let k := t.s + 1
    let may := t.group ≠ 0 ∧ (∀ i, i < 64 → bitAt t.group i = true → bitAt t.shares i = true) ∧ t.unparked = 0 ∧
      (∀ n ∈ h.neighbours tl, t.s ≤ t.nbrS.get 0 n.1) ∧
      ¬(7 ≤ t.s ∧ ∃ m ∈ s.gmsgs, m.tile = tl ∧ m.landing = some (t.s - 7))
    let due := s.stallDue h tl = true
    (¬may ∨ due → exec (.stepEntry tl) s = .next s) ∧
    (may → ¬due → ∃ e : State, exec (.stepEntry tl) s = .next e ∧
      (e.tile tl).s = k ∧ (e.tile tl).shares = 0 ∧ (e.tile tl).wd = 0 ∧ (e.tile tl).stallPosted = false ∧ (e.tile tl).group = t.group ∧
      (∀ n ∈ h.neighbours tl, n.2 ≠ tl → (h.neighbours tl).countP (fun m => m.2 == n.2) = 1 →
        (e.tile n.2).signals = (s.tile n.2).signals ++ [(backDir n.1, k)]) ∧
      (SMap.wf 0 s.mem.gal = true → SMap.wf 0 s.mem.land = true → ∀ o, o < 16384 →
        e.mem.land.get 0 ((tl * 8 + k % 8) * 2 ^ 14 + o) = s.mem.gal.get 0 (tl * 2 ^ 14 + o)) ∧
      (SMap.wf 0 s.mem.land = true → ∀ a, (a < (tl * 8 + k % 8) * 2 ^ 14 ∨ (tl * 8 + k % 8) * 2 ^ 14 + 16384 ≤ a) →
        e.mem.land.get 0 a = s.mem.land.get 0 a) ∧
      e.mem.gal = s.mem.gal ∧ e.mem.spad = s.mem.spad ∧ e.mem.hbm = s.mem.hbm)) ∧
  (∀ (s : State) (tl dir k : Nat) (h : Hall) (n : Nat × Nat), s.hallOf tl = some h →
    (s.tile tl).signals.find? (fun e => e.1 == dir) = some (dir, k) → (h.neighbours tl).find? (fun n => n.1 == dir) = some n →
    (s.wayToTile n.2 tl = .clear → exec (.stepSignal tl dir) s = .next (s.setTile tl { s.tile tl with
      signals := dropFirst (fun q => q.1 == dir) (s.tile tl).signals, nbrS := (s.tile tl).nbrS.put dir k })) ∧
    (s.wayToTile n.2 tl ≠ .clear → exec (.stepSignal tl dir) s = .next s)) ∧
  ∀ (s : State) (tl : Nat) (h : Hall), s.hallOf tl = some h →
    let t := s.tile tl
    let due := s.launchOver h = false ∧ h.hallwd ≠ 0 ∧ h.stallh ≠ 0 ∧ h.hallwd ≤ t.wd ∧ t.stallPosted = false ∧
      (s.stepCond tl).selfHeld = true
    let u := s.tile (tileOf h.service)
    let late := u.lastPost.1 = s.cycle ∧ h.tileSender tl < u.lastPost.2
    let r : HRec := { crec := { code := h.stallh, frame := s.stallFrame h tl }, svc := true }
    (¬due → exec (.stall tl) s = .next s) ∧
    (due → ¬late → (s.core h.service).handlers.length < 64 → (∀ e ∈ u.overflow, e.core ≠ h.service) →
      ∃ e : State, exec (.stall tl) s = .next e ∧ (e.tile tl).stallPosted = true ∧
        (e.core h.service).handlers = (s.core h.service).handlers ++ [r]) ∧
    (due → late → ∃ e : State, exec (.stall tl) s = .next e ∧ (e.tile tl).stallPosted = true ∧
        (e.tile tl).unposted = t.unposted ++ [r] ∧ e.cores = s.cores)
  )

/-- R315, R323: a read of a gallery traps CONE beyond distance 3 or outside the hall, then ALIGN, APERTURE and, over a
dead link, REFUSED; at distance 0 it is a load of the own gallery, to which a store of the core that stands in its store
queue gives its bytes (R132); further, it asks the target for landing max(s − d, 0) and the thread waits (log entry 8: DEDUCED).
The target answers with the bytes of that landing, extended as asked; POISON for an uncorrectable error, with the offset as its
TVAL (log entry 31: DEDUCED). -/
def Obligations.GalleryReads : Prop :=
  (∀ (s : State) (i : Instr) (u : Uses) (gu : Guard) (la ty : BitVec 4) (d : Reg) (v : VReg) (a : Reg) (dx dy : BitVec 4)
      (off : BitVec 14) (dst : Option PReg0) (n : Nat) (sext : Bool),
    ((i = .rget gu la ty d a dx dy off ∧ dst = greg s.lv d.toNat ∧ n = bitsOf ty.toNat / 8 ∧ sext = isSigned ty.toNat ∧
        u = { len := 12, on := s.guard gu, rs := [a.toNat], ws := [d.toNat], long := true }) ∨
      (i = .rgetv gu la v a dx dy off ∧ dst = some (.v v.toNat) ∧ n = 128 ∧ sext = false ∧
        u = { len := 12, on := s.guard gu, rs := [a.toNat], vw := [v.toNat], long := true })) →
    IssuesPlain s u →
    let imm := word (dx.toNat * 2 ^ 20 + dy.toNat * 2 ^ 16 + off.toNat)
    let far := dx.toInt.natAbs + dy.toInt.natAbs
    let h := s.myHall
    let tl := tileOf s.cur
    let tx := (h.x tl : Int) + dx.toInt
    let ty' := (h.y tl : Int) + dy.toInt
    let inside := far ≤ 3 ∧ 0 ≤ tx ∧ tx < h.w ∧ 0 ≤ ty' ∧ ty' < h.h
    let o := s.rg a + word off.toNat
    let tgt := h.tileAt tx.toNat ty'.toNat
    let p := s.newPend dst la.toNat 1 .mem (BitVec.allOnes 1024)
    (¬inside → exec i s = .next (s.trap tCONE imm)) ∧
    (inside → o.toNat % n ≠ 0 → exec i s = .next (s.trap tALIGN o)) ∧
    (inside → o.toNat % n = 0 → 16384 < o.toNat + n → exec i s = .next (s.trap tAPERTURE o)) ∧
    (inside → o.toNat % n = 0 → o.toNat + n ≤ 16384 →
      (far = 0 → s.rmwAwaited (.gal tl o.toNat) n = false →
        let r : Req := { op := .load, va := galVA o.toNat, loc := .gal tl o.toNat, n := n, bytes := BitVec.allOnes 128, hint := .df,
                         pend := some s.ctr, sext := sext }
        let e : State := { s with ctr := s.ctr + 1 }
        (∀ x, e.forward (.gal tl o.toNat) n (BitVec.allOnes 128) = .data x → Performs s i u (e.putPend (p.take 0 n sext x))) ∧
        ((∀ x, e.forward (.gal tl o.toNat) n (BitVec.allOnes 128) ≠ .data x) → Performs s i u ((e.send r).putPend p))) ∧
      (far ≠ 0 → s.wayBetween tl tgt = .dead → exec i s = .next (s.trap tREFUSED imm)) ∧
      (far ≠ 0 → s.wayBetween tl tgt ≠ .dead →
        let m : GMsg := { id := s.ctr + 1, core := s.cur, lv := s.lv, pend := s.ctr, pc := s.pc, tile := tgt,
                          landing := some ((s.tile tl).s - far), off := o.toNat, n := n, sext := sext, tval := imm }
        let e : State := s.putPend { p with acc := 1 }
        Waits s i u { e with gmsgs := s.gmsgs ++ [m], ctr := s.ctr + 2 } (.access s.ctr)))) ∧
  ∀ (s : State) (id : Nat) (m : GMsg), s.gmsgs.find? (fun m => m.id == id) = some m →
    let s' : State := { s with gmsgs := dropFirst (fun q => q.id == id) s.gmsgs }
    let way := s.wayBetween (tileOf m.core) m.tile
    (way = .wait → exec (.galleryRead id) s = .next s) ∧
    (way = .dead → exec (.galleryRead id) s = .next (s'.served m.core m.pend (some (0, tREFUSED, m.tval)))) ∧
    (way = .clear → m.landing = none →
      exec (.galleryRead id) s = .next ((s'.give m.core m.pend 0 8 false (s.stepStatus m.tile).toNat).served m.core m.pend none)) ∧
    (way = .clear → ∀ k, m.landing = some k →
      let a := (m.tile * 8 + k % 8) * 2 ^ 14 + m.off
      ((∃ e ∈ s.mem.landErr, overlaps (e * 8) 8 a m.n = true) →
        exec (.galleryRead id) s = .next (s'.served m.core m.pend (some (0, tPOISON, word m.off)))) ∧
      ((∀ e ∈ s.mem.landErr, overlaps (e * 8) 8 a m.n = false) →
        exec (.galleryRead id) s = .next ((s'.give m.core m.pend 0 m.n m.sext (readBytes s.mem.land a m.n)).served m.core m.pend none)))

/-! ## Rate-coupled streams -/

/-- R336, R341 to R343: SRING declares a ring or answers BUSY or BADRING; SBIND.CONS checks in order BUSY, NORING and
GAIN, zeroes HEAD and TAIL behind the core's own earlier accesses and where no copy is to write (R141, R148), and waits for a
producer with the gains it captured; SBIND.PROD checks CONE, then BUSY,
SELF, NOPEER, DEADLINK and CYCLE, and else binds both ends, the producer with one credit for each slot; the stalls that
the waiting consumer has counted stay (R348). R337: a cycle
of gains above 96 is over the limit. R344 to R346: SGAIN sets new gains at the consumer's end of a live stream, or
answers BUSY, GAIN or CYCLE; SSTAT reads the loop; SUNBIND frees an end: a producer once its pushes have been
appended, closing the consumer's end; a consumer only when the stream no longer lives; at a DEAD stream's producer it reports 0
and leaves the consumer's elements (log entry 42: DEDUCED). Each traps STREAM on an unbound q-register, and an instruction that
names a bound one is barred from a masked window (R304). In SSTAT's word 0 of a WAITING stream the loop's registers have no stated value (log entry 26): only the
state is stated here. -/
def Obligations.StreamEnds : Prop :=
  (
  (∀ (s : State) (gu : Guard) (d a b : Reg) (q k : BitVec 3),
    let y := s.me.qreg q.toNat
    let u := fun (rs : List Nat) => ({ len := 12, on := s.guard gu, rs := rs, ws := [d.toNat], blocking := true, illegal := s.lv,
                                       nomask := y.st != .unbound } : Uses)
    let set_ := fun (t : State) (z : QReg) => t.updMe (fun c => c.setQ q.toNat z)
    let ring_ := u [a.toNat, b.toNat]
    let bind_ := u [b.toNat]
    let x := s.rg b
    (IssuesPlain s ring_ →
      (y.st ≠ .unbound → Performs s (.sring gu d a b q) ring_ (s.wg d 4)) ∧
      (y.st = .unbound → s.ringOf (s.rg a) (s.rg b) = none → Performs s (.sring gu d a b q) ring_ (s.wg d 7)) ∧
      (y.st = .unbound → ∀ r, s.ringOf (s.rg a) (s.rg b) = some r →
        Performs s (.sring gu d a b q) ring_ (set_ (s.wg d 0) { y with ring := some r }))) ∧
    (IssuesPlain s bind_ →
      let c := s.me
      (y.st ≠ .unbound → Performs s (.sbindCons gu d b q) bind_ (s.wg d 4)) ∧
      (y.st = .unbound → y.ring = none → Performs s (.sbindCons gu d b q) bind_ (s.wg d 5)) ∧
      (y.st = .unbound → ∀ o n, y.ring = some (o, n) →
        let wp := x.toNat % 2 ^ 9
        let wc := x.toNat / 2 ^ 16 % 2 ^ 9
        let ok := c.sgkp.toNat ≤ 64 ∧ c.sgki.toNat ≤ c.sgkp.toNat / 4 ∧ c.sset.toNat ≤ n ∧ 16 ≤ c.sper.toNat ∧
          x.toNat / 2 ^ 9 % 2 ^ 7 = 0 ∧ x.toNat / 2 ^ 25 = 0 ∧ 1 ≤ wp ∧ wp ≤ 256 ∧ 1 ≤ wc ∧ wc ≤ 256
        (¬ok → Performs s (.sbindCons gu d b q) bind_ (s.wg d 1)) ∧
        let l := Loc.spad s.cur o
        (ok → (s.pendingAt l = true ∨ s.overScore l 16 = true ∨ s.outOfTurn s.cur l 16 = true) →
          StandsStill s (.sbindCons gu d b q) bind_) ∧
        (ok → s.pendingAt l = false → s.overScore l 16 = false → s.outOfTurn s.cur l 16 = false →
          let t := (s.locWrite (.spad s.cur o) 8 0).locWrite (.spad s.cur (o + 8)) 8 0
          Performs s (.sbindCons gu d b q) bind_ (set_ (t.wg d 0)
            { ring := y.ring, st := .waiting, base := o, slots := n, wp0 := wp, wc0 := wc, kp := c.sgkp.toNat, ki := c.sgki.toNat,
              setp := c.sset.toNat, per := c.sper.toNat })))) ∧
    (IssuesPlain s bind_ →
      let h := s.myHall
      let i := Instr.sbindProd gu d b q k
      let ck := h.tileAt (fld x 8 4) (fld x 16 3) * 64 + fld x 0 6
      let z := (s.core ck).qreg k.toNat
      let way := s.wayBetween (tileOf s.cur) (tileOf ck)
      (targetOk h x false true = false → exec i s = .next (s.trap tCONE x)) ∧
      (targetOk h x false true = true →
        (y.st ≠ .unbound → Performs s i bind_ (s.wg d 4)) ∧
        (y.st = .unbound → ck = s.cur → Performs s i bind_ (s.wg d 6)) ∧
        (y.st = .unbound → ck ≠ s.cur → z.st ≠ .waiting → Performs s i bind_ (s.wg d 3)) ∧
        (y.st = .unbound → ck ≠ s.cur → z.st = .waiting → way = .dead → Performs s i bind_ (s.wg d 8)) ∧
        (y.st = .unbound → ck ≠ s.cur → z.st = .waiting → way ≠ .dead → s.overGain (ck, k.toNat) s.cur ck z.kp = true →
          Performs s i bind_ (s.wg d 2)) ∧
        (y.st = .unbound → ck ≠ s.cur → z.st = .waiting → way ≠ .dead → s.overGain (ck, k.toNat) s.cur ck z.kp = false →
          let st := if way = .clear then QSt.bound else .retrain
          ∃ e : State, Performs s i bind_ e ∧ e.rg d = 0 ∧ e.mem = s.mem ∧
            e.me.qreg q.toNat = { ring := y.ring, st := st, prod := true, peer := (ck, k.toNat), credits := z.slots, weight := z.wp0 } ∧
            (e.core ck).qreg k.toNat = { z with st := st, peer := (s.cur, q.toNat), wp := z.wp0, wc := z.wc0, integ := 0, laste := 0,
                                                stall := false, count := 0 })))) ∧
  (∀ (s : State) (a n : Word), a.toNat / 2 ^ 48 = 0xFF00 →
    let o := a.toNat % 2 ^ 48
    let sound := o % 16 = 0 ∧ 2 ≤ n.toNat ∧ n.toNat ≤ 4096 ∧ o + 16 + 8 * n.toNat ≤ 98304 ∧
      s.overBarrier (.spad s.cur o) (16 + 8 * n.toNat) = false
    (sound → s.ringOf a n = some (o, n.toNat)) ∧ (¬sound → s.ringOf a n = none)) ∧
  ∀ (s : State) (skip : Nat × Nat) (p c kp g : Nat), p ≠ c →
    (s.edges skip = [] → s.overGain skip p c kp = false) ∧
    (s.edges skip = [(c, p, g)] → s.overGain skip p c kp = decide (96 < g + kp))
  ) ∧
  (
  ∀ (s : State) (gu : Guard) (d b : Reg) (q : BitVec 3) (sel : BitVec 2),
    let y := s.me.qreg q.toNat
    let u := fun (rs : List Nat) => ({ len := 12, on := s.guard gu, rs := rs, ws := [d.toNat], blocking := true, illegal := s.lv,
                                       nomask := y.st != .unbound } : Uses)
    let e := if y.prod then y.peer else (s.cur, q.toNat)
    let z := (s.core e.1).qreg e.2
    let stat : Uses := { u [] with illegal := s.lv || sel == 3 }
    (y.st = .unbound →
      (IssuesPlain s (u [b.toNat]) → exec (.sgain gu d b q) s = .next (s.trap tSTREAM (word (0x100 + q.toNat)))) ∧
      (IssuesPlain s stat → exec (.sstat gu d q sel) s = .next (s.trap tSTREAM (word (0x100 + q.toNat)))) ∧
      (IssuesPlain s (u []) → exec (.sunbind gu d q) s = .next (s.trap tSTREAM (word (0x100 + q.toNat))))) ∧
    (y.st ≠ .unbound → IssuesPlain s (u [b.toNat]) →
      let x := (s.rg b).toNat
      let kp := x % 2 ^ 8
      let ki := x / 2 ^ 8 % 2 ^ 8
      let sp := x / 2 ^ 16 % 2 ^ 16
      let live := y.st = .bound ∨ y.st = .retrain
      let ok := x / 2 ^ 32 = 0 ∧ kp ≤ 64 ∧ ki ≤ kp / 4 ∧ sp ≤ z.slots
      (¬live → Performs s (.sgain gu d b q) (u [b.toNat]) (s.wg d 4)) ∧
      (live → ¬ok → Performs s (.sgain gu d b q) (u [b.toNat]) (s.wg d 1)) ∧
      (live → ok → s.overGain e z.peer.1 e.1 kp = true → Performs s (.sgain gu d b q) (u [b.toNat]) (s.wg d 2)) ∧
      (live → ok → s.overGain e z.peer.1 e.1 kp = false →
        Performs s (.sgain gu d b q) (u [b.toNat]) ((s.wg d 0).updQ e.1 e.2 (fun z => { z with kp := kp, ki := ki, setp := sp })))) ∧
    (y.st ≠ .unbound → IssuesPlain s stat →
      ∃ x : Word, Performs s (.sstat gu d q sel) stat (State.wg { s with ctr := s.ctr + 1 } d x) ∧
        (sel = 0 → x.toNat % 2 ^ 4 = z.st.code % 2 ^ 4 ∧ (z.st ≠ .waiting → z.wp ≤ 256 → z.wc ≤ 256 →
          x.toNat / 2 ^ 23 % 2 ^ 9 = z.wp ∧ x.toNat / 2 ^ 14 % 2 ^ 9 = z.wc ∧
          x.toNat / 2 ^ 32 % 2 ^ 16 = (BitVec.ofInt 16 z.laste).toNat ∧ x.toNat / 2 ^ 48 = (BitVec.ofInt 16 z.integ).toNat)) ∧
        (sel = 1 → z.full < 2 ^ 32 → z.empty < 2 ^ 32 → x.toNat = z.empty * 2 ^ 32 + z.full) ∧
        (sel = 2 → z.tail - z.head < 2 ^ 16 → x.toNat = z.samples % 2 ^ 32 * 2 ^ 32 + (z.tail - z.head))) ∧
    (y.st ≠ .unbound → IssuesPlain s (u []) →
      let i := Instr.sunbind gu d q
      let pushed := ∃ m ∈ s.qflight, m.core = y.peer.1 ∧ m.q = y.peer.2 ∧ ∃ x, m.msg = .push x
      (y.prod = true → y.st = .dead → Performs s i (u []) ((s.freeQ q).wg d 0)) ∧
      (y.prod = true → y.st ≠ .dead → (y.st = .retrain ∨ pushed) → Waits s i (u []) s .issued) ∧
      (y.prod = true → y.st ≠ .dead → y.st ≠ .retrain → ¬pushed → y.peer.1 ≠ s.cur →
        Performs s i (u []) (((s.freeQ q).updQ y.peer.1 y.peer.2 (fun z => { z with st := .closed })).wg d 0)) ∧
      (y.prod = false → (y.st = .bound ∨ y.st = .retrain) → Performs s i (u []) (s.wg d 4)) ∧
      (y.prod = false → y.st ≠ .bound → y.st ≠ .retrain →
        Performs s i (u []) ((s.freeQ q).wg d (word ((y.tail - y.head) % 2 ^ 32 * 2 ^ 32)))))
  )

/-- R328, R329, R333: a pushed element is written into its slot of the ring, and then TAIL is, behind the producer's own
earlier accesses to that scratchpad and where no copy is to write those words (R141, R148); a credit and a weight
reach the producer. R334: a sample adds the error to the integral unless a stall was seen, clamps it, and moves both
weights within 1 to 256; the producer is sent its weight; no sample is taken before its period has passed, nor while the
hall is stopped (R347). -/
def Obligations.StreamMessages : Prop :=
  (∀ (s : State) (ck q : Nat) (m : QFlight),
    let y := (s.core ck).qreg q
    let from_ := tileOf y.peer.1
    let for_ := fun (m : QFlight) => m.core == ck && m.q == q
    let slot := fun (ck : Nat) (y : QReg) => Loc.spad ck (y.base + 16 + 8 * (y.tail % y.slots))
    let runs := (s.hallOfCore ck).stop = .none
    (s.wayToTile from_ (tileOf ck) = .clear →
      (∀ x, s.qflight.find? (fun m => for_ m && m.msg.isPush) = some m → m.msg = .push x → 0 < y.slots →
        y.base + 16 + 8 * y.slots ≤ 98304 → y.tail + 1 < 2 ^ 64 →
        (∀ r ∈ s.flight, r.core = m.src → r.loc.sameTarget (slot ck y) = true → r.id < m.id → r.performed = true) →
        (∀ k ∈ s.contribsAt m.src (slot ck y), m.id ≤ k.id) →
        s.overScore (slot ck y) 8 = false → s.overScore (.spad ck (y.base + 8)) 8 = false →
        ∃ t : State, exec (.streamAppend ck q) s = .next t ∧
          t.spadRead ck (y.base + 16 + 8 * (y.tail % y.slots)) 8 = x.toNat ∧ t.spadRead ck (y.base + 8) 8 = y.tail + 1 ∧
          (t.core ck).qreg q = { y with tail := y.tail + 1 } ∧
          t.qflight = dropFirst (fun m => for_ m && m.msg.isPush) s.qflight ∧
          ∀ o, o < 2 ^ 17 → (o < y.base + 8 ∨ y.base + 16 ≤ o) →
            (o < y.base + 16 + 8 * (y.tail % y.slots) ∨ y.base + 24 + 8 * (y.tail % y.slots) ≤ o) → t.spadByte ck o = s.spadByte ck o) ∧
      (s.qflight.find? (fun m => for_ m && m.msg.isPush) = some m → 0 < y.slots →
        (∃ r ∈ s.flight, r.core = m.src ∧ r.loc.sameTarget (slot ck y) = true ∧ r.id < m.id ∧ r.performed = false) ∨
          s.overScore (slot ck y) 8 = true ∨ s.overScore (.spad ck (y.base + 8)) 8 = true →
        exec (.streamAppend ck q) s = .next s) ∧
      (s.qflight.find? (fun m => for_ m && m.msg == QMsg.credit) = some m →
        exec (.streamCredit ck q) s = .next (({ s with qflight := dropFirst (fun m => for_ m && m.msg == QMsg.credit) s.qflight }).updQ ck q
          (fun y => { y with credits := y.credits + 1 }))) ∧
      (∀ w, s.qflight = [m] → for_ m = true → m.msg = .weight w →
        exec (.weightMessage ck q) s = .next (({ s with qflight := [] }).updQ ck q (fun y => { y with weight := w })))) ∧
    (s.wayToTile from_ (tileOf ck) ≠ .clear → exec (.streamAppend ck q) s = .next s ∧ exec (.streamCredit ck q) s = .next s ∧
      exec (.weightMessage ck q) s = .next s) ∧
    (¬(y.prod = false ∧ y.st = .bound ∧ y.per ≤ y.count ∧ runs) → exec (.streamSample ck q) s = .next s) ∧
    (y.prod = false → y.st = .bound → y.per ≤ y.count → runs →
      exec (.streamSample ck q) s = .next (let t := s.updCore ck (fun c => c.setQ q y.sample)
        let w : QFlight := { core := y.peer.1, q := y.peer.2, msg := .weight y.sample.wp }
        { t with qflight := s.qflight ++ [w] }))) ∧
  ∀ (y : QReg),
    let err : Int := (y.tail : Int) - y.head - y.setp
    let i := if y.stall then y.integ else max (-32768) (min (y.integ + err) 32767)
    let adj := ((y.kp : Int) * err + (y.ki : Int) * i) / 256
    y.sample.integ = i ∧ y.sample.laste = err ∧ y.sample.stall = false ∧ y.sample.count = 0 ∧
    (y.sample.wp : Int) = max 1 (min (y.wp0 - adj) 256) ∧ (y.sample.wc : Int) = max 1 (min (y.wc0 + adj) 256) ∧
    y.sample.head = y.head ∧ y.sample.tail = y.tail

/-! ## System instructions -/

/-- R88, R181, R182, R409: what each system register reads as and what SETS does to it; GETS and SETS of a register
run in the mode that may. Pending flags that have arrived are delivered first to FPFLAGS. -/
def Obligations.SystemRegisters : Prop :=
  (∀ (s : State) (a : Reg) (num : BitVec 12),
    let get_ := sysUses [] [a.toNat] num s
    let set_ := sysUses [a.toNat] [] num s
    let arrived := FFlags.orAll ((s.me.pend.filter (fun p => p.lv == s.lv && p.need == 0)).map Pend.flags)
    (IssuesPlain s get_ → num ≠ 0x020 → ∃ x, s.sysReg num.toNat = some x ∧ Performs s (.gets a num) get_ (s.wg a x)) ∧
    (IssuesPlain s get_ → num = 0x020 → ∃ e : State, Performs s (.gets a num) get_ e ∧
      (a ≠ 0 → e.rg a = word (((s.me.thr s.lv).fp.or arrived).toNat)) ∧ (e.me.thr s.lv).fp = (s.me.thr s.lv).fp.or arrived) ∧
    (IssuesPlain s set_ → num ≠ 0x020 → Performs s (.sets a num) set_ (s.updMe (fun c => c.setSysReg num.toNat (s.rg a)))) ∧
    (IssuesPlain s set_ → num = 0x020 → ∃ e : State, Performs s (.sets a num) set_ e ∧ (e.me.thr s.lv).fp = FFlags.ofWord (s.rg a) ∧
      ∀ p ∈ e.me.pend, p.lv = s.lv → p.need = 0 → p.flags = {})) ∧
  (∀ (s : State),
    let c := s.me
    let h := s.myHall
    let t := tileOf s.cur
    s.sysReg 0x000 = some (word (s.cur % 64)) ∧ s.sysReg 0x001 = some (word (t % 16)) ∧ s.sysReg 0x002 = some (word (t / 16)) ∧
    s.sysReg 0x003 = some (word (t % 16 - h.ox)) ∧ s.sysReg 0x004 = some (word (t / 16 - h.oy)) ∧ s.sysReg 0x005 = some (word h.w) ∧
    s.sysReg 0x006 = some (word h.h) ∧ s.sysReg 0x007 = some (if c.level then 1 else 0) ∧ s.sysReg 0x010 = some h.lseed ∧
    s.sysReg 0x011 = some (c.thr c.level).ltask ∧ s.sysReg 0x012 = some (word (s.tile t).s) ∧ s.sysReg 0x018 = some (word s.cycle) ∧
    s.sysReg 0x030 = some c.sgkp ∧ s.sysReg 0x031 = some c.sgki ∧ s.sysReg 0x032 = some c.sset ∧ s.sysReg 0x033 = some c.sper ∧
    s.sysReg 0x034 = some (word c.w) ∧ s.sysReg 0x038 = some c.cpscout ∧ s.sysReg 0x100 = some c.tvec ∧ s.sysReg 0x101 = some c.tcause ∧
    s.sysReg 0x102 = some c.tpc ∧ s.sysReg 0x103 = some c.tval ∧
    ∀ n, n ∉ [0x000, 0x001, 0x002, 0x003, 0x004, 0x005, 0x006, 0x007, 0x010, 0x011, 0x012, 0x018, 0x020, 0x030, 0x031, 0x032, 0x033,
      0x034, 0x038, 0x100, 0x101, 0x102, 0x103] → s.sysReg n = none) ∧
  ∀ (c : Core) (x : Word) (n : Nat),
    c.setSysReg 0x030 x = { c with sgkp := x &&& 0xFF } ∧ c.setSysReg 0x031 x = { c with sgki := x &&& 0xFF } ∧
    c.setSysReg 0x032 x = { c with sset := x &&& 0xFFFF } ∧
    c.setSysReg 0x033 x = { c with sper := if (x &&& 0xFFFF).toNat < 16 then 16 else x &&& 0xFFFF } ∧
    c.setSysReg 0x038 x = { c with cpscout := x &&& 0xF } ∧ c.setSysReg 0x100 x = { c with tvec := x &&& ~~~3 } ∧
    c.setSysReg 0x101 x = { c with tcause := (c.tcause &&& 0x200) ||| (x &&& 0x1FF) } ∧
    c.setSysReg 0x102 x = { c with tpc := x &&& ~~~3 } ∧ c.setSysReg 0x103 x = { c with tval := x } ∧
    (n ∉ [0x020, 0x030, 0x031, 0x032, 0x033, 0x038, 0x100, 0x101, 0x102, 0x103] → c.setSysReg n x = c)

/-- R410: WFE waits for a wake event at level 0, unless the latch holds one, which it takes; a wake ends it. R417:
TLBINV waits for the thread's earlier accesses and for every access that uses an entry it drops; then the entries of
the bays in scope that it names are gone, and no other. PIN keeps the page of an address in the own fetch TLB, of
eight pins at most. R405, R416: a RETRY reply lets every thread go on that waits for it: one of a page fault takes up
again the access at which it stood, one of a trap goes on at TPC, and one of another message is as it was. Either reply
ends the waits it names of engines and members; after an ABORT they stop. A thread that is aborted traps REFUSED with its
address, one of the task that a handler runs over once the handler has ended (R400, R404); the pin of a page ends without one; a
trap's ABORT, and any reply to a DOUBLE, cancels the hall. That PIN traps APERTURE outside the global window, and that TLBINV
waits and then drops its entries in one step, is log entry 30 (DEDUCED). -/
def Obligations.WaitingInvalidatingAndReplies : Prop :=
  (
  (∀ (s : State) (ck : Nat),
    let u : Uses := { blocking := true, nomask := true }
    (IssuesPlain s u → (s.lv = true ∨ s.me.latch = true) → Performs s .wfe u (s.updMe (fun c => { c with latch := false }))) ∧
    (IssuesPlain s u → s.lv = false → s.me.latch = false → Waits s .wfe u s .wfe) ∧
    ((s.core ck).lv0.hold = .wfe →
      exec (.wfeWake ck) s = .next (s.setCore ck { (s.core ck).resume false ((s.core ck).lv0.pc + 4) with latch := false })) ∧
    ((s.core ck).lv0.hold ≠ .wfe → exec (.wfeWake ck) s = .next (s.setCore ck (s.core ck)))) ∧
  (∀ (s : State) (i : Instr) (a : Reg) (scope : BitVec 3) (names : TlbEnt → Bool),
    let asid := s.myHall.asid
    ((i = .tlbinvPage a scope ∧ names = fun e => e.maps asid (s.rg a).toNat) ∨
     (i = .tlbinvAsid a scope ∧ names = fun e => !e.g && e.asid == (s.rg a).toNat % 2 ^ 12) ∨
     (i = .tlbinvAll a scope ∧ names = fun _ => true)) →
    IssuesPlain s (tlbinvUses a) →
    let in_ := inScope s.cur scope.toNat
    let used := ∃ e ∈ s.bays, in_ e.1 = true ∧ s.usesEntry e.1 (e.2.dropping names) = true
    (s.unreleased = true ∨ used → Waits s i (tlbinvUses a) s .issued) ∧
    (s.unreleased = false → ¬used → ∃ e : State, Performs s i (tlbinvUses a) e ∧ e = { s with bays := e.bays } ∧
      ∀ k, let drop := fun (l : List TlbEnt) => if in_ k then l.filter (fun x => !names x) else l
        e.bay k = { s.bay k with vlt := drop (s.bay k).vlt, mft := drop (s.bay k).mft, cet := drop (s.bay k).cet,
                                 ift := drop (s.bay k).ift })) ∧
  (∀ (s : State) (a : Reg) (scope : BitVec 3), IssuesPlain s (tlbinvUses a) →
    (s.unreleased = true → Waits s (.tlbinvPin a scope) (tlbinvUses a) s .issued) ∧
    (s.unreleased = false → inGlobal (s.rg a) = false → exec (.tlbinvPin a scope) s = .next (s.trap tAPERTURE (s.rg a))) ∧
    (s.unreleased = false → inGlobal (s.rg a) = true → ∀ pa t,
      s.translate (bayOf s.cur) .ift s.rqst s.myHall.asid (s.rg a).toNat 2 s.me.pv = (.phys pa, t) →
      Performs s (.tlbinvPin a scope) (tlbinvUses a) (t.setBay (bayOf s.cur) { t.bay (bayOf s.cur) with
        ift := pinEntry s.myHall.asid (s.rg a).toNat (t.bay (bayOf s.cur)).ift }))) ∧
  (∀ (asid va : Nat) (l : List TlbEnt) (e : TlbEnt), l.find? (fun e => e.maps asid va) = some e →
    { e with pinned := true } ∈ pinEntry asid va l ∧
    ((l.filter (fun e => e.pinned)).length ≤ 8 → ((pinEntry asid va l).filter (fun e => e.pinned)).length ≤ 8)) ∧
  ∀ ck bk : Nat, inScope ck 0 bk = false ∧ inScope ck 1 bk = decide (bk = bayOf ck) ∧ inScope ck 2 bk = decide (bk / 8 = tileOf ck) ∧
    inScope ck 3 bk = decide (dieOf (bk / 8) = dieOf (tileOf ck) ∧ quadOf (bk / 8) = quadOf (tileOf ck)) ∧
    inScope ck 4 bk = decide (dieOf (bk / 8) = dieOf (tileOf ck)) ∧ inScope ck 5 bk = true
  ) ∧
  (
  (∀ (s : State) (tidx : BitVec 32) (rva : Word), ∃ t : State, exec (.rcmdRetry tidx rva) s = .next t ∧ t.mem = s.mem ∧
    ∀ (ck : Nat) (lv : Bool),
      let old := (s.core ck).thr lv
      let named := matchesReply tidx.toNat (pageOf rva) (s.waitTidx ck lv)
      (named = false → (t.core ck).thr lv = old) ∧
      (∀ va acc why pin, named = true → old.hold = .page va acc why pin → (t.core ck).thr lv = { old with hold := old.back }) ∧
      (∀ code v, named = true → old.hold = .service false code v →
        (t.core ck).thr lv = { old with hold := .ready, pc := (s.core ck).tpc })) ∧
  (∀ (s : State) (tidx : BitVec 32) (rva : Word) (retry : Bool) (bk : Nat),
    ∃ t : State, exec (if retry then .rcmdRetry tidx rva else .rcmdAbort tidx rva) s = .next t ∧
      (t.bay bk).copies = (s.bay bk).copies.map (fun (c : Copy) =>
        if engineMatches tidx.toNat (pageOf rva) c.wait then { c with wait := none, abort := !retry } else c) ∧
      (t.bay bk).jobs = (s.bay bk).jobs.map (fun (j : Job) =>
        if engineMatches tidx.toNat (pageOf rva) j.wait then { j with wait := none, stop := if retry then j.stop else some 7 } else j) ∧
      t.fes.members = s.fes.members.map (fun (m : Member) =>
        let mine := fun (w : PageWait) => w.tidx == tidx.toNat && w.va.toNat % 2 ^ 52 / 2 ^ 16 == rva.toNat % 2 ^ 52 / 2 ^ 16
        { m with waits := m.waits.filter (fun w => !mine w),
                 pageAborts := if retry then m.pageAborts else m.pageAborts ++ (m.waits.filter mine).flatMap (fun w => w.accs) })) ∧
  (∀ (s : State) (ck : Nat) (lv : Bool) (va : Word) (acc why : BitVec 2),
    ((s.core ck).thr lv).hold = .page va acc why false → (s.core ck).level ≠ lv →
    s.replyThread ck lv false = s.setCore ck ((s.core ck).latchTrap lv tREFUSED va (acc == 2))) ∧
  (∀ (s : State) (ck : Nat) (lv : Bool) (va : Word) (acc why : BitVec 2),
    ((s.core ck).thr lv).hold = .page va acc why false → (s.core ck).level = lv → (∀ p ∈ (s.core ck).pend, p.lv ≠ lv) →
    (s.core ck).tBit = false → (s.core ck).tvec.toNat / 4 ≠ 0 →
    let t := s.replyThread ck lv false
    (t.core ck).tval = va ∧ (t.core ck).tBit = true ∧ (t.core ck).tpc = (((s.core ck).thr lv).pc &&& ~~~3) ∧
    (t.core ck).tcause = word (9 + (if acc = 2 then 256 else 0) + (if lv then 512 else 0)) ∧
    ((t.core ck).thr lv).pc = ((s.core ck).tvec &&& ~~~3)) ∧
  (∀ (s : State) (ck : Nat) (lv : Bool) (va : Word) (acc why : BitVec 2), ((s.core ck).thr lv).hold = .page va acc why true →
    (((s.replyThread ck lv false).core ck).thr lv).hold = .ready ∧
    (((s.replyThread ck lv false).core ck).thr lv).pc = ((s.core ck).thr lv).pc + 4) ∧
  ∀ (s : State) (ck : Nat) (lv dbl retry : Bool) (code : Nat) (v : Word), ((s.core ck).thr lv).hold = .service dbl code v →
    (dbl = true ∨ retry = false) → s.replyThread ck lv retry = s.cancelHall (s.hallOfCore ck).id
  )

/-! ## The front-end sequencer -/

/-- R352, R353, R366: what a CTL write does; a TAIL write enqueues the entries it names, each read once with the seed
of the moment, or is ignored; a SEED write takes effect at the end of its cycle, so after an enqueue of that cycle;
DLAUNCH enqueues one entry, with the ASID of its launch, or answers BADCH or FULL. A CTL or TAIL write by the host comes
through the part of BAR0 that is mapped now, or completes as an unsupported request (R426, R428). With EN 0 a LAUNCH of
the channel waits for no hall (R358). That EN can be set only at bring-up state 7 is R431's. R355, R356, R434: an entry's turn comes when it is the next of an
enabled channel and, with AFTER, the one before it has completed. A bad entry is completed at once and passed over. A
WAITW that reads a word which satisfies it completes, else it waits and looks again after a write to the word's line;
one that cannot read its word completes with FAULT set. A SIGNAL stores its value and completes once the store is
acknowledged. -/
def Obligations.ChannelsAndEntries : Prop :=
  (
  (∀ (s : State) (who : Requester) (ch : Nat) (val : BitVec 64),
    let c := s.chan ch
    let put := s.updChan ch (fun _ => c.writeCtl who.secure (s.sys.bustat == 7) val)
    let queued := fun (e : Entry) =>
      if e.ch = ch ∧ (e.w 0).toNat / 2 ^ 60 = 0 ∧ e.st = .waiting then { e with st := .queued } else e
    let n := ((val.toNat % 2 ^ 32) + 2 ^ 32 - c.tail) % 2 ^ 32
    let fill := (c.tail + 2 ^ 32 - c.head) % 2 ^ 32
    let ctl := s.reaches who (.chan ch 0) = true
    let tail := s.reaches who (.chan ch 3) = true
    (¬ctl → exec (.channelEnable who ch val) s = .next { s with sys := { s.sys with hostAns := none } } ∧
      exec (.channelDisable who ch val) s = .next { s with sys := { s.sys with hostAns := none } }) ∧
    (¬tail → exec (.tailWrite who ch val) s = .next { s with sys := { s.sys with hostAns := none } }) ∧
    (ctl → ch < 16 → bitAt val 0 = true → c.en = false → (put.chan ch).en = true →
      exec (.channelEnable who ch val) s = .next put) ∧
    (ctl → ch < 16 → bitAt val 0 = true → c.en = false → (put.chan ch).en = false →
      exec (.channelEnable who ch val) s = .next { put with fes := { put.fes with entries := s.fes.entries.map queued } }) ∧
    (ctl → 16 ≤ ch ∨ bitAt val 0 = false ∨ c.en = true → exec (.channelEnable who ch val) s = .next s) ∧
    (ctl → ch < 16 → bitAt val 0 = false → c.en = true → ¬(c.wld = true ∧ who.secure = false) →
      exec (.channelDisable who ch val) s = .next { put with fes := { put.fes with entries := s.fes.entries.map queued } }) ∧
    (ctl → 16 ≤ ch ∨ bitAt val 0 = true ∨ c.en = false ∨ (c.wld = true ∧ who.secure = false) →
      ∃ t : State, exec (.channelDisable who ch val) s = .next t ∧ t.chan ch = c ∧ t.fes.entries = s.fes.entries) ∧
    (tail → (c.wld = true ∧ who.secure = false) ∨ c.dev = true ∨ n = 0 ∨ 2 ^ c.log2n < n + fill →
      exec (.tailWrite who ch val) s = .next s) ∧
    (tail → ¬(c.wld = true ∧ who.secure = false) → c.dev = false → n = 1 → n + fill ≤ 2 ^ c.log2n →
      ∀ ws t, s.readEntry c.wld (c.base.toNat / 2 ^ 6 % 2 ^ 42 * 64 + 64 * (c.tail % 2 ^ c.log2n)) = some (ws, t) → t.chan ch = c →
        ∃ e : State, exec (.tailWrite who ch val) s = .next e ∧ e.mem = t.mem ∧ e.chan ch = { c with tail := (c.tail + 1) % 2 ^ 32 } ∧
          e.fes.entries = t.fes.entries ++ [{ ch := ch, idx := c.tail, words := ws, seed := c.seed }]) ∧
    ∀ x : Word, ¬(c.wld = true ∧ who.secure = false) →
      s.regWrite who.secure (.chan ch 4) x = some (s.updChan ch (fun c => { c with seedIn := some x })) ∧
      ({ c with seedIn := some x } : Chan).seed = c.seed ∧ ({ c with seedIn := some x } : Chan).tick.seed = x) ∧
  (∀ (c : Chan) (sec ready : Bool) (x : Word),
    let d := c.writeCtl sec ready x
    let l := x.toNat / 2 ^ 16 % 2 ^ 4
    (c.wld = true → sec = false → d = c) ∧
    (¬(c.wld = true ∧ sec = false) →
      (c.en = true → d.en = (bitAt x 0 && decide (c.log2n ≠ 0)) ∧ d.dev = c.dev ∧ d.wld = c.wld ∧ d.log2n = c.log2n) ∧
      (c.en = false → d.dev = bitAt x 1 ∧ d.wld = (if sec then bitAt x 2 else c.wld) ∧
        d.log2n = (if 1 ≤ l ∧ l ≤ 12 then l else c.log2n) ∧ d.en = (bitAt x 0 && decide (d.log2n ≠ 0) && ready) ∧
        (d.en = true → d.ctl.toNat / 2 ^ 8 % 2 ^ 8 = 0)) ∧
      d.base = c.base ∧ d.head = c.head ∧ d.tail = c.tail ∧ d.seed = c.seed ∧ d.seedIn = c.seedIn)) ∧
  ∀ (s : State) (gu : Guard) (la : BitVec 4) (d a b : Reg),
    let u : Uses := { len := 12, on := s.guard gu, rs := [a.toNat, b.toNat], ws := [d.toNat], long := true }
    let i := Instr.dlaunch gu la d a b
    IssuesPlain s u →
    ((s.rg a).toNat % 64 ≠ 0 → exec i s = .next (s.trap tALIGN (s.rg a))) ∧
    ((s.rg a).toNat % 64 = 0 → ∀ x l t, s.nowRead (s.rg a) 64 0 kLoad false = .ok x l t →
      let k := (s.rg b).toNat
      let c := t.chan k
      let bad := 15 < k ∨ c.en = false ∨ c.dev = false ∨ (c.wld = true ∧ t.myHall.secure = false)
      (t.unreleased = true → exec i s = .next s) ∧
      (t.unreleased = false → bad → Performs s i u (t.answer d la 2)) ∧
      (t.unreleased = false → ¬bad → (c.tail + 2 ^ 32 - c.head) % 2 ^ 32 = 2 ^ c.log2n → Performs s i u (t.answer d la 1)) ∧
      (t.unreleased = false → ¬bad → (c.tail + 2 ^ 32 - c.head) % 2 ^ 32 ≠ 2 ^ c.log2n →
        let y := withAsid x t.myHall.asid
        ∀ p t', t.engWrite false { secure := c.wld } kEWrite (c.base.toNat / 2 ^ 6 % 2 ^ 42 * 64 + 64 * (c.tail % 2 ^ c.log2n)) 64 y .df =
            (.ok 0 p, t') → t'.chan k = c →
          ∃ e : State, Performs s i u (e.answer d la (word (c.tail * 2 ^ 32))) ∧ e.mem = t'.mem ∧
            e.chan k = { c with tail := (c.tail + 1) % 2 ^ 32 } ∧
            e.fes.entries = t'.fes.entries ++ [{ ch := k, idx := c.tail, words := (List.range 8).map (fun j => word (y / 2 ^ (64 * j))),
                                                 seed := c.seed }])) ∧
    (∀ x asid : Nat, asid < 2 ^ 12 → withAsid x asid / 2 ^ 256 % 2 ^ 12 = asid ∧ withAsid x asid % 2 ^ 256 = x % 2 ^ 256 ∧
      withAsid x asid / 2 ^ 268 = x / 2 ^ 268)
  ) ∧
  (
  ∀ (s : State) (ch : Nat) (e : Entry), s.fes.entries.find? (fun e => e.ch == ch && e.idx == (s.chan ch).head) = some e →
    let before := ∃ p ∈ s.fes.entries, p.ch = ch ∧ (p.idx + 1) % 2 ^ 32 = e.idx
    let turn := (s.chan ch).en = true ∧ ¬(e.after = true ∧ before)
    let gone := fun (t : State) => (t.endEntry ch e.idx).advanceHead ch
    (turn → s.turn? ch = some e) ∧ (¬turn → s.turn? ch = none) ∧
    (¬turn → exec (.waitwStart ch) s = .next s ∧ exec (.signalStart ch) s = .next s) ∧
    (turn → s.badEntry e = true → e.kind = 2 → exec (.waitwStart ch) s = .next (gone s)) ∧
    (turn → s.badEntry e = true → e.kind = 3 → exec (.signalStart ch) s = .next (gone s)) ∧
    (turn → s.badEntry e = true → e.kind = 0 → e.doneAt = 0 → (∀ o, e.st ≠ .allocated o) → exec (.launchStart ch) s = .next (gone s)) ∧
    (turn → s.badEntry e = false → e.kind = 2 →
      (∀ why t, s.fesPa (s.chan ch).wld e.asid (e.w 1) 0 = (.fault why, t) → exec (.waitwStart ch) s = .next (gone (t.setFault ch 1))) ∧
      (∀ t, s.fesPa (s.chan ch).wld e.asid (e.w 1) 0 = (.wait, t) → exec (.waitwStart ch) s = .next s) ∧
      (∀ pa t x t', s.fesPa (s.chan ch).wld e.asid (e.w 1) 0 = (.phys pa, t) → t.fesReadPa (t.chan e.ch).wld pa 8 = (.ok x, t') →
        (x = (e.w 2).toNat ∨ (bitAt (e.w 3) 0 = true ∧ (e.w 2).toNat ≤ x) → exec (.waitwStart ch) s = .next (gone t')) ∧
        (x ≠ (e.w 2).toNat → ¬(bitAt (e.w 3) 0 = true ∧ (e.w 2).toNat ≤ x) →
          exec (.waitwStart ch) s = .next ((t'.updEntry ch e.idx (fun e =>
            { e with st := .waiting, watch := false, watchPa := pa })).advanceHead ch)))) ∧
    (turn → s.badEntry e = false → e.kind = 3 → ∀ t, s.chanStore ch e.asid (e.w 1) (e.w 2) = some t →
      exec (.signalStart ch) s = .next ((t.updEntry ch e.idx (fun e => { e with st := .running })).advanceHead ch)) ∧
    ∀ (k : Nat) (w : Entry), s.fes.entries.find? (fun e => e.ch == ch && e.idx == k) = some w →
      (w.kind = 3 → w.st = .running → exec (.signalComplete ch k) s = .next (s.endEntry ch k)) ∧
      (w.kind = 2 → w.st = .waiting → w.watch = false → exec (.waitwRecheck ch k) s = .next s) ∧
      (w.kind = 2 → w.st = .waiting → w.watch = true → ∀ x t, s.fesReadPa (s.chan w.ch).wld w.watchPa 8 = (.ok x, t) →
        (x = (w.w 2).toNat ∨ (bitAt (w.w 3) 0 = true ∧ (w.w 2).toNat ≤ x) → exec (.waitwRecheck ch k) s = .next (t.endEntry ch k)) ∧
        (x ≠ (w.w 2).toNat → ¬(bitAt (w.w 3) 0 = true ∧ (w.w 2).toNat ≤ x) →
          exec (.waitwRecheck ch k) s = .next (t.updEntry ch k (fun e => { e with st := .waiting, watch := false, watchPa := w.watchPa }))))
  )

/-- R357 to R362, R364, R365: a hall takes the first free origin in row-major order; a launch that does not fit is
passed over, and one that has been passed over 64 times holds back what R358 says; halls freed in one cycle bring one
consideration (log entry 42: DEDUCED); a launch that starts, while EN of its
channel stands (R352), resets its tiles and cores and places one record in each tile's queue in the vault, at the place that the
model has chosen (log entry 23: DESIGN CHOICE); it ends when nothing of its hall is left to do, and no update-only copy of its
bays waits for a link, its tiles are freed, and its completion word is stored. CANCEL stops the hall at an
origin; of one that is being saved or restored it is the model's choice (log entry 28) that the SAVE finds no hall, and
that the hall is cancelled at its release. Every 1,024 cycles queues are sampled, and every microsecond the energy is
counted, while the hall is not being saved. -/
def Obligations.Launches : Prop :=
  (∀ (s : State) (w h : Nat),
    let fits := fun (x y : Nat) => x + w ≤ 16 ∧ y + h ≤ 8 ∧ ∀ k, k < w * h →
      (s.tile ((y + k / w) * 16 + x + k % w)).hall = none ∧ s.sys.withheld.getLsbD ((y + k / w) * 16 + x + k % w) = false
    (∀ x y, s.originFor w h = some (x, y) → x < 16 ∧ y < 8 ∧ fits x y ∧ ∀ x' y', x' < 16 → y' < 8 → y' * 16 + x' < y * 16 + x → ¬fits x' y') ∧
    (s.originFor w h = none → ∀ x y, x < 16 → y < 8 → ¬fits x y)) ∧
  (∀ (s : State),
    (s.fes.freed = false → (∀ c e, c < 16 → s.waitingLaunch c = some e → e.st ≠ .queued) → exec .hallAllocate s = .next s) ∧
    (∀ e, (List.range 16).filterMap s.waitingLaunch = [e] → (s.fes.freed = true ∨ e.st = .queued) →
      let s1 := s.updEntry e.ch e.idx (fun e => { e with st := .waiting })
      let s2 : State := { s1 with fes := { s1.fes with freed := false } }
      (∀ o, s.originFor e.hw e.hh = some o → exec .hallAllocate s = .next (s2.takeHall e o)) ∧
      (s.originFor e.hw e.hh = none →
        exec .hallAllocate s = .next (s2.updEntry e.ch e.idx (fun e => { e with passed := e.passed + 1 })))) ∧
    ∀ (ch c : Nat) (e x : Entry), s.waitingLaunch ch = some e → c < 16 → c ≠ ch → s.waitingLaunch c = some x → 64 ≤ x.passed →
      x.cls < e.cls ∨ (x.cls = e.cls ∧ e.passed < 64) → ∀ cls, s.consider cls ch = s) ∧
  (∀ (s : State) (ch o : Nat) (e : Entry), s.fes.entries.find? (fun e => e.ch == ch && e.idx == (s.chan ch).head) = some e →
    e.st = .allocated o → (s.chan ch).en = false → exec (.launchStart ch) s = .next s) ∧
  (∀ (s : State) (ch o : Nat) (e : Entry), s.fes.entries.find? (fun e => e.ch == ch && e.idx == (s.chan ch).head) = some e →
    e.st = .allocated o → (s.chan ch).en = true → o % 16 + e.hw ≤ 16 → o / 16 + e.hh ≤ 8 →
    ∃ t : State, exec (.launchStart ch) s = .next t ∧ (t.chan ch).head = ((s.chan ch).head + 1) % 2 ^ 32 ∧
      (∀ a, (∀ k, k < e.hw * e.hh → a / 2 ^ 24 ≠ vaultOf ((o / 16 + k / e.hw) * 16 + o % 16 + k % e.hw)) →
        t.mem.vault.get 0 a = s.mem.vault.get 0 a) ∧
      ∀ k, k < e.hw * e.hh →
        let tk := (o / 16 + k / e.hw) * 16 + o % 16 + k % e.hw
        (t.tile tk).hall = some e.hall ∧ (t.tile tk).s = 0 ∧ (t.tile tk).group = 0 ∧ (t.tile tk).bars = [] ∧ (t.tile tk).arms = [] ∧
        (t.tile tk).mons = [] ∧ (t.tile tk).vest = [] ∧
        (t.tile tk).queue e.cls = [s.cycle] ∧
        t.getRec tk (0x200000 + 32 * (8192 * e.cls)) = { code := e.w 1, frame := e.w 2, jctr := 0, tidx := word k } ∧
        (∀ a, a < 16384 → t.mem.gal.get 0 (tk * 2 ^ 14 + a) = 0) ∧
        ∀ c, c < 64 →
          let x := t.core (tk * 64 + c)
          x.lv0.fp = {} ∧ x.lv1.fp = {} ∧ x.lv0.hold = .idle ∧ x.lv1.hold = .idle ∧ x.lv0.cp = [] ∧ x.lv1.cp = [] ∧ x.lv0.fails = [] ∧
          x.lv1.fails = [] ∧ x.level = false ∧ x.pend = [] ∧ x.tBit = false ∧ x.pv = false ∧ x.tvec = 0 ∧ x.tcause = 0 ∧ x.tpc = 0 ∧
          x.tval = 0 ∧ x.latch = false ∧ x.b = 256 ∧ x.w = 256 ∧ x.sendSeq = 0 ∧ x.inl = 0 ∧ x.jobs = 0 ∧ x.wit = [] ∧ x.score = [] ∧
          x.q = [] ∧ x.pinned = [] ∧ x.handlers = [] ∧ x.lv0.rest = [] ∧ x.lv1.rest = []) ∧
  (∀ (s : State) (id : Nat) (h : Hall), s.hall? id = some h →
    let ready := match h.stop with
      | .none => s.hallIdle h
      | .cancel => s.allStopped h
      | .save _ => false
    (ready = false ∨ s.workDone h = false ∨ s.flushWaits h = true → exec (.launchEnd id) s = .next s) ∧
    (ready = true → s.workDone h = true → s.flushWaits h = false →
      let end_ := fun (t : State) => ((t.forgetHall h).freeTiles h).endEntry h.ch h.idx
      (h.done = 0 → exec (.launchEnd id) s = .next (end_ (s.flushU h))) ∧
      (h.done ≠ 0 → ∀ t, (s.flushU h).chanStore h.ch h.asid h.done (word (h.idx * 2 ^ 32 + if h.stop = .cancel then 2 else 1)) = some t →
        exec (.launchEnd id) s = .next (end_ (t.msix h.ch))) ∧
      ∀ (t : State) (k : Nat), k ∈ h.tiles → ((end_ t).tile k).hall = none ∧ (end_ t).hall? h.id = none)) ∧
  (∀ (s : State) (val : Word),
    let sound := val.toNat / 2 ^ 19 = 0 ∧ val.toNat / 2 ^ 12 % 2 ^ 4 = 0 ∧ val.toNat % 2 ^ 8 = 0
    let at_ := s.hallAt (val.toNat / 2 ^ 8 % 2 ^ 4) (val.toNat / 2 ^ 16 % 2 ^ 3)
    (¬sound ∨ at_ = none → exec (.cancel val) s = .next s) ∧
    (sound → ∀ h, at_ = some h → s.hall? h.id = some h →
      (h.stop = .none → exec (.cancel val) s = .next (s.updHall h.id (fun x => { x with stop := .cancel }))) ∧
      (h.stop = .cancel → exec (.cancel val) s = .next s) ∧
      ∀ k, h.stop = .save k →
        (s.sys.precmd.toNat % 4 = 2 → exec (.cancel val) s = .next (s.updHall h.id (fun x => { x with doomed := true }))) ∧
        (s.sys.precmd.toNat % 4 ≠ 2 →
          let t := s.updHall h.id (fun x => { x with stop := .cancel })
          exec (.cancel val) s = .next { t with sys := { s.sys with prestat := 3 } }))) ∧
  ∀ (s : State) (id reading : Nat) (h : Hall), s.hall? id = some h →
    let saved := ∃ k, h.stop = .save k
    (saved → exec (.occupancySample id) s = .next s ∧ exec (.energyTick id reading) s = .next s) ∧
    (s.cycle < h.sampled + 1024 → exec (.occupancySample id) s = .next s) ∧
    (¬saved → h.sampled + 1024 ≤ s.cycle → ∃ t : State, exec (.occupancySample id) s = .next t ∧
      ∀ k ∈ h.tiles, (h.ox + h.w ≤ 16 → (t.tile k).occOld = (s.tile k).occ) ∧
        ∀ c, c < 4 → (t.tile k).occ.get 0 c = ((s.tile k).queue c).length) ∧
    (s.cycle < h.lastTick + 940 → exec (.energyTick id reading) s = .next s) ∧
    (¬saved → h.lastTick + 940 ≤ s.cycle → exec (.energyTick id reading) s = .next (s.updHall id (fun h => h.tick reading))) ∧
    (h.tick reading).lastTick = h.lastTick + 940 ∧
    (h.budget = true → h.used + reading < h.energy → (h.tick reading).used = h.used + reading ∧ (h.tick reading).cls = h.cls) ∧
    (h.budget = true → h.energy ≤ h.used + reading → (h.tick reading).cls = min (h.cls + 1) 3 ∧ (h.tick reading).used = 0 ∧
      (h.tick reading).energy = h.refill ∧ ((h.tick reading).budget = true ↔ h.refill ≠ 0))

/-! ## Collectives -/

/-- R371 to R374, R392: COLL checks its block's address and hands the start to the FES; a start whose rank does not
name the issuing tile answers NOTMEMBER, one too many or already running BUSY, and else the member starts with the
number of its earlier starts; RLINV drops the cached rank lists of its launch; a COLL entry starts its member in its
turn, and keeps the block it has read while its start has to wait (R370). R375, R377, R379, R384 to R389: what each
operation of a packet does for the member it has reached: DLV enters the inbox while it has room; OPEN compares the
signature; GO starts the schedule; CUP and CDN close, and an abort comes first to who learns of it; SIG is discarded
without a signal word. What is sent to several ranks goes to all of them, or, where a way is dead, to none, and the
member aborts with DEADLINK. Packets of an earlier instance are dropped. A member aborts with TIMEOUT after TMO
microseconds; its running data instructions go on first, also those that wait for a reply to a page fault, and an ABORT to an
add to SIGW ends that add. In transit flight 0 is popped. A packet for another package that meets a link that is retraining
waits for it in this one. A schedule is read until its first KEND. The codes' places in the payload of ABT, OPEN and SIG, that
what goes to several ranks goes to all or to none, where a packet waits for a link, and that ABT alone overtakes data, which a
KSEND of this package holds back while the inbox has no room for them, are the model's choice (log entry 38). -/
def Obligations.CollectivesAndTheirPackets : Prop :=
  (
  (∀ (s : State) (gu : Guard) (la : BitVec 4) (d a : Reg),
    let u : Uses := { len := 12, on := s.guard gu, rs := [a.toNat], ws := [d.toNat], long := true }
    let v : Uses := { len := 12, on := s.guard gu, rs := [a.toNat], ws := [d.toNat], blocking := true }
    let ga := s.rg a
    (IssuesPlain s u →
      (ga.toNat % 128 ≠ 0 → exec (.coll gu la d a) s = .next (s.trap tALIGN ga)) ∧
      (ga.toNat % 128 = 0 → inGlobal ga = false → exec (.coll gu la d a) s = .next (s.trap tAPERTURE ga)) ∧
      (ga.toNat % 128 = 0 → inGlobal ga = true → s.unreleased = true → exec (.coll gu la d a) s = .next s) ∧
      (ga.toNat % 128 = 0 → inGlobal ga = true → s.unreleased = false →
        let p := s.newPend (greg s.lv d.toNat) la.toNat 1 .other 0
        let m : Member := { id := s.ctr + 1, asid := s.myHall.asid, secure := s.myHall.secure, hall := s.myHall.id, tile := tileOf s.cur,
                            addr := ga, core := s.cur, lv := s.lv, pend := s.ctr }
        let e : State := s.putPend p
        Performs s (.coll gu la d a) u { e with ctr := s.ctr + 2, fes := { s.fes with members := s.fes.members ++ [m] } })) ∧
    (IssuesPlain s v →
      let mine := fun (e : Nat × Word × Nat × List Word × Nat) => e.1 == s.myHall.asid && (ga == 0 || e.2.1 == ga)
      let t : State := { s with fes := { s.fes with rlists := s.fes.rlists.filter (fun e => !mine e) } }
      Performs s (.rlinv gu d a) v (t.wg d (word ((s.fes.rlists.filter mine).length))))) ∧
  (∀ (s : State) (m : Member) (l : List Word) (tl : Nat) (own : Hall), s.hallOf tl = some own → l.any badRank = false →
    let rs := l.map (s.resolveRank (own.oy * 16 + own.ox))
    let a := rs.getD m.rank 0
    let running := (s.fes.members.filter (fun x => x.st != .starting)).length
    (rankTile a ≠ some tl → ∃ t, s.startChecks m l (some tl) = .failed t 12 (some m)) ∧
    (∀ h, rankTile a = some tl → s.hallOfOrigin (a.toNat / 2 ^ 24 % 2 ^ 8) = some h → tl ∈ h.tiles → a.toNat / 2 ^ 32 % 2 ^ 16 = s.pkg →
      (64 ≤ running ∨ s.memberAt (word m.sid) a ≠ none → ∃ t, s.startChecks m l (some tl) = .failed t 11 (some m)) ∧
      (running < 64 → s.memberAt (word m.sid) a = none →
        ∃ t, s.startChecks m l (some tl) = .started t (s.starts (word m.sid) a % 2 ^ 16) ∧
          t.starts (word m.sid) a = s.starts (word m.sid) a + 1 ∧
          ∃ k ∈ t.fes.members, k.id = m.id ∧ k.st = .opening ∧ k.inst = s.starts (word m.sid) a % 2 ^ 16 ∧ k.tile = tl ∧ k.hall = h.id))) ∧
  ∀ (s : State) (ch : Nat) (e : Entry), s.turn? ch = some e → e.kind = 1 →
    let m : Member := { id := s.ctr, asid := e.asid, secure := (s.chan ch).wld, addr := e.w 1, entry := some (ch, e.idx), block := e.block }
    (s.badEntry e = true → exec (.collEntryStart ch) s = .next ((s.endEntry ch e.idx).advanceHead ch)) ∧
    (s.badEntry e = false →
      (∀ t n, (State.collStart { s with ctr := s.ctr + 1 } m none) = .started t n →
        exec (.collEntryStart ch) s = .next ((t.updEntry ch e.idx (fun e => { e with st := .running })).advanceHead ch)) ∧
      (∀ t code, (State.collStart { s with ctr := s.ctr + 1 } m none) = .failed t code none →
        let t' := if code = 6 then t.setFault ch 1 else if code = 8 then t.setFault ch 2 else if code = 9 then t.setFault ch 3 else t
        exec (.collEntryStart ch) s = .next ((t'.endEntry ch e.idx).advanceHead ch)) ∧
      (∀ x, (State.collStart { s with ctr := s.ctr + 1 } m none) = .wait (some x) →
        exec (.collEntryStart ch) s = .next (s.updEntry ch e.idx (fun e => { e with block := x.block }))) ∧
      ((State.collStart { s with ctr := s.ctr + 1 } m none) = .wait none → exec (.collEntryStart ch) s = .next s))
  ) ∧
  (
  (∀ (s : State) (id : Nat) (p : Pkt) (m : Member), s.fes.pkts.find? (fun p => p.id == id) = some p → p.nfl = 0 → p.outPort = none →
    s.behind (some m) p = false → s.memberAt (p.sig.1 >>> 32) (p.hdr.getD 1 0) = some m →
    (m.inst = p.inst → s.pktWay p m.tile = .clear →
      let op := fun (n : Nat) => p.opAt p.ops = n
      let done := fun (i : Instr) (t : State) => exec i s = .next (t.pktDone p)
      let upd := fun (f : Member → Member) => s.updMember m.id f
      (op 1 → m.st ≠ .closed → m.st ≠ .aborting →
        (m.inbox.length < 256 → done (.dlv id) ((upd (fun m => { m with inbox := m.inbox ++ [p] })).ackPkt p)) ∧
        (256 ≤ m.inbox.length → exec (.dlv id) s = .next s)) ∧
      (op 1 → (m.st = .closed ∨ m.st = .aborting) → done (.dlv id) (s.ackPkt p)) ∧
      (op 3 → m.st = .opening →
        (p.sig ≠ m.sig → done (.open_ id) (s.memAbort m.id 2)) ∧
        (p.sig = m.sig → p.payload.getD 0 0 ≠ 0 → done (.open_ id) (s.memAbort m.id 3)) ∧
        (p.sig = m.sig → p.payload.getD 0 0 = 0 → done (.open_ id) ((upd (fun m => { m with opens := p.rank :: m.opens })).openGate m.id))) ∧
      (op 4 → m.st = .opening → m.sentOpen = true → done (.go id) ((upd (fun m => { m with st := .running })).sendAll m 4 [] m.kids)) ∧
      (op 5 → done (.cup id) ((upd (fun m => { m with cups := p.rank :: m.cups })).closeGate m.id)) ∧
      (op 6 → m.st = .closing → m.sentCup = true →
        done (.cdn id) ((s.sendAll m 6 [] m.kids).closeDown m.id)) ∧
      (op 2 → done (.abt id) (s.memAborted m.id (p.payload.getD 0 0).toNat p.rank)) ∧
      (op 7 → m.b 8 = 0 → done (.sig id) (s.ackPkt p)) ∧
      (op 7 → m.b 8 ≠ 0 → .sig id ∈ m.pageAborts → done (.sig id)
        (((upd (fun m => { m with pageAborts := m.pageAborts.filter (fun a => a != .sig id) })).ackPkt p).memAbort m.id kPAGE)) ∧
      (op 7 → m.b 8 ≠ 0 → .sig id ∉ m.pageAborts → ∀ x t, s.memAdd m (ofBytes (p.payload.take 4)) = (.ok x, t) →
        done (.sig id) (t.ackPkt p))) ∧
    ((0 < (m.inst + 2 ^ 16 - p.inst) % 2 ^ 16 ∧ (m.inst + 2 ^ 16 - p.inst) % 2 ^ 16 < 2 ^ 15) → p.opAt p.ops = 1 →
      exec (.dlv id) s = .next (({ s with fes := { s.fes with pkts := dropFirst (fun p => p.id == id) s.fes.pkts } } : State).ackPkt p))) ∧
  (∀ (s : State) (m : Member) (p q : Pkt), s.fes.pkts = [q, p] → q.id ≠ p.id → p.sameWay q = true →
    (p.opAt p.ops ≠ 2 → s.behind (some m) p = true) ∧
    (p.opAt p.ops = 2 → s.behind (some m) p = !(q.port.isNone && q.opAt q.ops == 1 && decide (256 ≤ m.inbox.length)))) ∧
  (∀ (s : State) (m : Member) (op : Nat) (pl : List Byte) (rs : List Nat),
    let dead := fun (r : Nat) => s.sendPkt m r 0 0 0 [] none = .dead
    ((∃ r ∈ rs, dead r) → s.sendAll m op pl rs = s.memAbort m.id 7) ∧
    ((∀ r ∈ rs, ¬dead r) → s.sendAll m op pl rs = rs.foldl (fun s r => s.trySend m r op pl) s)) ∧
  (∀ (s : State) (id : Nat) (m : Member), s.member? id = some m →
    (m.abort.isSome = true → s.closeDown id = s) ∧
    (m.abort = none → s.closeDown id = (s.updMember id (fun m => { m with st := .closed })).finishAll id) ∧
    (m.run ≠ [] → s.finishStep id = s) ∧
    (m.tmo = 0 ∨ s.cycle < m.start + m.tmo * 940 → exec (.collectiveTimeout id) s = .next s) ∧
    (m.tmo ≠ 0 → m.start + m.tmo * 940 ≤ s.cycle → exec (.collectiveTimeout id) s = .next (s.memAbort id 5)) ∧
    (m.st = .opening → m.decoded = false → s.memHeld m = none → ∀ x t,
      s.memRead m (((m.b 0).toNat + 8 * m.sched.length) % 2 ^ 64) 64 = (.ok x, t) →
      let ws := m.sched ++ (List.range 8).map (fun i => word (x / 2 ^ (64 * i)))
      (∀ w ∈ ws, w.toNat / 2 ^ 60 ≠ 7) →
        (4096 ≤ ws.length → exec (.scheduleDecode id) s = .next (t.memAbort id 3)) ∧
        (ws.length < 4096 → exec (.scheduleDecode id) s = .next (t.updMember id (fun m => { m with sched := ws }))))) ∧
  (∀ (s : State) (m : Member) (r op off : Nat) (w40 : Word) (pl : List Byte) (who : Option (Nat × Nat)),
    let dest := m.rlist.getD r 0
    let t := s.sys.routes.get {} (dest.toNat / 2 ^ 32 % 2 ^ 16)
    let q := t.out.toNat
    dest.toNat / 2 ^ 32 % 2 ^ 16 ≠ s.pkg → t.v = true → (s.sys.ports.get {} q).state = 0 →
    s.way (dieOf m.tile) (rowOfTile m.tile) (portDie q) = .wait →
    let k : Pkt := { id := s.ctr, hdr := m.header t.hdr dest op w40 pl.length off, payload := pl, outPort := some q, src := m.tile,
                     sender := who }
    s.sendPkt m r op w40 off pl who = .here { s with ctr := s.ctr + 1, fes := { s.fes with pkts := s.fes.pkts ++ [k] } }) ∧
  (∀ (s : State) (id : Nat) (p : Pkt) (q : Nat), s.fes.pkts = [p] → p.id = id → p.outPort = some q →
    (s.wayToPort (dieOf p.src) (rowOfTile p.src) q = .wait → exec (.packetTransit id) s = .next s) ∧
    (s.wayToPort (dieOf p.src) (rowOfTile p.src) q = .clear → ∃ t : State, exec (.packetTransit id) s = .next t ∧ t.fes.pkts = [] ∧
      t.fes.out = s.fes.out ++ [(q, p.hdr, p.payload)])) ∧
  (∀ (s : State) (id : Nat) (p : Pkt) (q : Nat), s.fes.pkts = [p] → p.id = id → p.outPort = none → p.nfl ≠ 0 → p.port = some q →
    let w := p.hdr.getD 0 0
    let out := w.toNat % 2 ^ 4
    s.bridge (portDie q) (portDie out) = .clear →
    ∃ t : State, exec (.packetTransit id) s = .next t ∧ t.fes.pkts = [] ∧ t.fes.members = s.fes.members ∧
      t.fes.out = s.fes.out ++ [(out, word ((p.nfl - 1) * 2 ^ 60 + w.toNat % 2 ^ 60 / 16) :: p.hdr.drop 1, p.payload)]) ∧
  (∀ (m : Member), 0 < m.rank → m.rank < 2 ^ 16 → m.parent < m.rank ∧ ∃ j, j < 16 ∧ m.rank = m.parent + 2 ^ j ∧ m.parent % 2 ^ (j + 1) = 0) ∧
  ∀ (m : Member) (code origin : Nat),
    (m.aborted code origin).run = m.run ∧ (m.aborted code origin).inbox = m.inbox ∧ (m.aborted code origin).st = .aborting ∧
    (m.aborted code origin).waits.map (fun w => (w.va, w.tidx)) = m.waits.map (fun w => (w.va, w.tidx)) ∧
    (∀ a, a ≠ MemAcc.sched → (a ∈ (m.aborted code origin).pageAborts ↔ a ∈ m.pageAborts)) ∧
    (∀ w ∈ (m.aborted code origin).waits, MemAcc.sched ∉ w.accs) ∧ MemAcc.sched ∉ (m.aborted code origin).pageAborts ∧
    (m.aborted code origin).abort = some (code, origin) ∧ (∀ e ∈ (m.aborted code origin).chunks, e.1 < 2 * 4096) ∧
    (m.abort = none → m.word = Sys2Proof.word (m.inst * 2 ^ 48 + m.rank * 2 ^ 32 + 256 * m.flags.toNat + 1)) ∧
    (m.aborted code origin).word = Sys2Proof.word (m.inst * 2 ^ 48 + origin * 2 ^ 32 + 256 * m.flags.toNat + code)
  )

/-- R376 to R378, R380: a data instruction issues for its peer and its chunks, or aborts with BADSCHED; KWAIT waits
for its tag; KSIG issues; KLOOP goes back until its last iteration; KEND enters the closing gate once nothing runs. An
issued instruction whose chunks are done and accepted completes, one that an earlier one conflicts with waits; when a
packet that has left for another package is accepted there is a free value (log entry 38). A receiving instruction takes
its packets as they come, and a chunk once it is whole; the model does a chunk in one step (log entry 38: DESIGN CHOICE), but a
write that meets a page fault goes on where it stopped, and does not read the chunk again (R413, R416). A KSEND with BB 0 is
BADSCHED at its sender (log entry 42: DEDUCED). R378, R381, R383: an unwritten chunk that is read gives BADTREE;
in TREE mode two spans combine only where both are canonical at one level and the whole at the next, the lower as the
left operand, and EXACT adds the counts; a chunk written into buffer 2 must span every rank, and each element of it is
rounded to TY, in EXACT out of a slot. Integer sums wrap, and the FP sum of a node is rounded once. -/
def Obligations.CollectiveChunks : Prop :=
  (
  (∀ (s : State) (id : Nat) (m : Member), s.member? id = some m → m.st = .running → (s.memberHall m).stop ≠ .cancel →
    m.pageAborts.any MemAcc.stops = false →
    let upd := fun (t : State) (f : Member → Member) => t.updMember id f
    let next : State := { s with ctr := s.ctr + 1 }
    let issue := fun (r : RunData) => upd next (fun m => { m with run := m.run ++ [r], pc := m.pc + 1 })
    (∀ (i : Instr) (kop : Nat) (c : ChunkData),
      ((i = .ksend id c ∧ kop = 0) ∨ (i = .krecv id c ∧ kop = 1) ∨ (i = .kred id c ∧ kop = 2) ∨ (i = .kcopy id c ∧ kop = 3)) →
      let peer := if c.prel then (((m.rank : Int) + c.peer.toInt) % (m.nrank : Int)).toNat else c.peer.toNat
      let bad := m.nrank ≤ peer ∨ m.nch < c.clen.toNat ∨ c.bb = 0 ∨ (kop = 1 ∧ c.ba ≠ 0) ∨ (kop = 2 ∧ m.op = 0) ∨
        (kop = 3 ∧ (c.peer ≠ 0 ∨ c.prel = true))
      (bad → exec i s = .next (s.memAbort id 3)) ∧
      (¬bad → exec i s = .next (issue { id := s.ctr, kop := kop, c := c, peer := peer, first := m.cidx c }))) ∧
    (∀ (tag : BitVec 7) (all : Bool),
      ((∃ r ∈ m.run, all = true ∨ r.c.tag = tag) → exec (.kwait id tag all) s = .next s) ∧
      ((∀ r ∈ m.run, all = false ∧ r.c.tag ≠ tag) → exec (.kwait id tag all) s = .next (upd s (fun m => { m with pc := m.pc + 1 })))) ∧
    (∀ (p : BitVec 16) (prel : Bool) (tag : BitVec 7) (val : BitVec 32),
      let peer := if prel then (((m.rank : Int) + p.toInt) % (m.nrank : Int)).toNat else p.toNat
      (m.nrank ≤ peer → exec (.ksig id p prel tag val) s = .next (s.memAbort id 3)) ∧
      (peer < m.nrank → ∃ r : RunData, exec (.ksig id p prel tag val) s = .next (issue r) ∧ r.kop = 5 ∧ r.c.tag = tag ∧ r.peer = peer ∧
        r.sigVal = val ∧ r.done = 0 ∧ r.id = s.ctr)) ∧
    (∀ (count disp : BitVec 16),
      let i := m.iters.get 0 m.pc
      (i + 1 < count.toNat → exec (.kloop id count disp) s = .next (upd s (fun m =>
        { m with iters := m.iters.put m.pc (i + 1), pc := ((m.pc : Int) + disp.toInt).toNat }))) ∧
      (count.toNat ≤ i + 1 → exec (.kloop id count disp) s = .next (upd s (fun m =>
        { m with iters := m.iters.put m.pc 0, pc := m.pc + 1 })))) ∧
    (m.run = [] → exec (.kend id) s = .next ((upd s (fun m => { m with st := .closing })).closeGate id)) ∧
    (m.run ≠ [] → exec (.kend id) s = .next s) ∧
    (∀ (k : Nat) (r : RunData), m.run.find? (fun r => r.id == k) = some r →
      let held := ∃ q ∈ m.run.takeWhile (fun q => q.id != k), r.after m.nch q = true
      let c := (r.first + r.done) % m.nch
      let wrote := fun (t : State) (x : ChunkEnt) =>
        (t.updMember m.id (fun k => { k with chunks := k.chunks.put (r.c.bb.toNat * 4096 + c) x })).chunkDone m.id r.id
      let puts := fun (t : State) (v : ChunkVal) (f : FFlags) (rest : List Pkt) =>
        (m.chunkOut r.c.bb.toNat c v = none → exec (.chunkComplete id k) s = .next (t.memAbort m.id 4)) ∧
        ∀ o g, m.chunkOut r.c.bb.toNat c v = some (o, g) → ∀ y o' t',
          (t.updMember m.id (fun k => { k with inbox := rest, flags := (k.flags.or f).or g })).memWrite m o = (.ok y, o', t') →
          exec (.chunkComplete id k) s = .next (wrote t' v.span)
      (held → exec (.chunkComplete id k) s = .next s) ∧
      let took := r.far = false ∨ Config.peerTook s.stepNo = true
      let g := m.gather r c
      let whole := m.incoming g.1 c r.c.bb.toNat
      (¬held → r.c.clen.toNat ≤ r.done → r.unacked = 0 → took →
        exec (.chunkComplete id k) s = .next (upd s (fun m => { m with run := m.run.filter (fun q => q.id != k) }))) ∧
      (¬held → r.c.clen.toNat ≤ r.done → r.unacked ≠ 0 ∨ ¬took → exec (.chunkComplete id k) s = .next s) ∧
      (¬held → r.done < r.c.clen.toNat → r.kop ≠ 5 → ∀ o, r.out = some o →
        (∀ y o' t, s.memWrite m o = (.ok y, o', t) → exec (.chunkComplete id k) s = .next (wrote t o.span)) ∧
        ∀ va acc why o' t u, s.memWrite m o = (.page va acc why, o', t) →
          (t.updRun m.id r.id (fun q => { q with out := some o' })).memPage m (.run r.id) va acc why = some u →
          exec (.chunkComplete id k) s = .next u) ∧
      (¬held → r.done < r.c.clen.toNat → r.out = none →
        (r.kop = 3 → ∀ x v t, s.getChunk m r.c.ba.toNat c = (.ok x, v, t) → puts t v {} m.inbox) ∧
        (r.kop = 2 → ∀ x own t v, s.getChunk m r.c.ba.toNat c = (.ok x, own, t) → whole = .some v →
          (m.combine own v = none → exec (.chunkComplete id k) s = .next (s.memAbort m.id 4)) ∧
          ∀ w f, m.combine own v = some (w, f) → puts t w f g.2) ∧
        (r.kop = 1 → m.inbox = [] → r.parts = [] → exec (.chunkComplete id k) s = .next s) ∧
        (r.kop = 1 → whole = .none → exec (.chunkComplete id k) s = .next ((s.updMember m.id (fun k => { k with inbox := g.2 })).updRun
          m.id r.id (fun q => { q with parts := g.1 }))) ∧
        (r.kop = 1 → whole = .mismatch → exec (.chunkComplete id k) s = .next (s.memAbort m.id 2)) ∧
        (r.kop = 1 → ∀ v, whole = .some v → puts s v {} g.2)))) ∧
  (∀ (m : Member) (c : ChunkData),
    (m.loopOf m.pc = none → m.cidx c = c.cidx.toNat % m.nch) ∧
    (∀ k, m.loopOf m.pc = some k →
      (m.cidx c : Int) = ((c.cidx.toNat : Int) + ((m.iters.get 0 k : Nat) : Int) * c.cstep.toInt) % (m.nch : Int))) ∧
  ∀ (nch : Nat) (r q : RunData),
    (r.kop = 5 → (r.after nch q = true ↔ q.c.tag = r.c.tag)) ∧
    (r.kop < 4 → q.kop < 4 → ∀ x b, x ∈ r.chunksOf nch → x ∈ q.chunksOf nch → b < 3 → r.writes b = true →
      (q.reads b = true ∨ q.writes b = true) → r.after nch q = true)
  ) ∧
  (
  (∀ (m : Member) (a b : ChunkVal),
    let can := fun (lo hi l : Nat) => lo % 2 ^ l = 0 ∧ hi = min (lo + 2 ^ l) m.nrank
    let joins := fun (x y : ChunkEnt) => x.hi = y.lo ∧ ∃ l, l < 17 ∧ can x.lo x.hi l ∧ can y.lo y.hi l ∧ can x.lo y.hi (l + 1)
    let whole := fun (x y : ChunkVal) => ChunkVal.mk (m.fmt 1) (m.nodes x.fmt y.fmt x.vals y.vals).1 (ChunkEnt.mk x.span.lo y.span.hi)
    (m.exact = false → b.span.hi ≠ a.span.lo →
      (joins a.span b.span → ∃ f, m.combine a b = some (whole a b, f)) ∧
      (¬joins a.span b.span → m.combine a b = none)) ∧
    (m.exact = false → b.span.hi = a.span.lo →
      (joins b.span a.span → ∃ f, m.combine a b = some (whole b a, f)) ∧
      (¬joins b.span a.span → m.combine a b = none)) ∧
    (m.exact = true → ∃ v, m.combine a b = some ({ fmt := m.fmt 1, vals := v, span := { lo := a.span.lo + b.span.lo, hi := 0 } }, {}))) ∧
  (∀ (m : Member) (f g x y : Nat),
    (isInt m.ty = true → m.op = 1 → m.node f x g y = (putI m.ty false (intVal m.ty x + intVal m.ty y), {})) ∧
    (isInt m.ty = true → m.op ≠ 1 → m.node f x g y = minMaxLane m.ty (m.op == 3) x y) ∧
    (isInt m.ty = false → m.op = 1 → (m.node f x g y).1 =
      (roundF (fmtOf (m.fmt 1)) 0 false (addV 0 (decF (fmtOf f) x) (decF (fmtOf g) y)).1).1)) ∧
  (∀ (m : Member) (f x : Nat),
    let x64 := m.fmt 1 == 17
    (m.exact = false → m.toStaging f x = cvtLane f m.ty 0 false 0 x) ∧
    (m.exact = true → 16 ≤ f → m.toStaging f x = xaccRound x64 x m.ty m.rm false) ∧
    (m.exact = true → f < 16 → m.toStaging f x = xaccRound x64 (xaccAdd x64 0 (decF (fmtOf f) x)) m.ty m.rm false)) ∧
  ∀ (s : State) (m : Member) (buf c : Nat) (v : ChunkVal),
    (buf ≠ 0 → (∀ e ∈ m.chunks, e.1 ≠ buf * 4096 + c) → ∃ w, s.getChunk m buf c = (.stop 4, w, s)) ∧
    (let whole : ChunkEnt := if m.exact then { lo := m.nrank, hi := 0 } else { lo := 0, hi := m.nrank }
     (m.op ≠ 0 → v.span ≠ whole → m.chunkOut 2 c v = none) ∧
     ((m.op = 0 ∨ v.span = whole) → ∃ o f, m.chunkOut 2 c v = some (o, f) ∧ o.va = m.chunkAt 2 c ∧ o.n = m.elems c * fmtBytes (m.fmt 2) ∧
       o.x = joinVals (fmtBytes (m.fmt 2)) (v.vals.map (fun x => (m.toStaging v.fmt x).1)) ∧ o.span = v.span ∧
       f = FFlags.orAll (v.vals.map (fun x => (m.toStaging v.fmt x).2))))
  )

/-! ## Memory controllers, system space, and saving -/

/-- R97, R98, R99, R286: a sector whose errors lie in one symbol is corrected in the stack and counted in CECNT; one
with more is delivered as it is, poisons its line, and is counted in UECNT, with its line in UELINE, only if the line
was not poisoned before. A line is read sector by sector; the scrubber reads it the same way. Writing ones to HBMERR
clears the counter bits, saturated or not. -/
def Obligations.ErrorCorrection : Prop :=
  (∀ (s : State) (a i : Nat), i < 32 →
    let err := fun (k : Nat) => s.mem.errs.get 0 (a + k)
    let t := s.eccSector a
    let cnt := s.hbmerr (stackOf a)
    let cnt' := t.hbmerr (stackOf a)
    ((∀ k, k < 32 → err k = 0) → t = s) ∧
    (err i ≠ 0 → (∀ k, k < 32 → k ≠ i → err k = 0) →
      t.mem.hbm = s.mem.hbm ∧ t.mem.poison = s.mem.poison ∧ (∀ k, k < 32 → t.mem.errs.get 0 (a + k) = 0) ∧
      fld cnt' 48 16 = min (fld cnt 48 16 + 1) 0xFFFF ∧ fld cnt' 0 48 = fld cnt 0 48) ∧
    (∀ j, j < 32 → j ≠ i → err i ≠ 0 → err j ≠ 0 →
      (∀ k, k < 32 → t.mem.hbm.get 0 (a + k) = s.mem.hbm.get 0 (a + k) ^^^ err k ∧ t.mem.errs.get 0 (a + k) = 0) ∧
      t.poisoned (lineOf a) = true ∧ (∀ l, l ≠ lineOf a → t.poisoned l = s.poisoned l) ∧
      (s.poisoned (lineOf a) = true → cnt' = cnt) ∧
      (s.poisoned (lineOf a) = false → fld cnt' 48 16 = fld cnt 48 16 ∧
        fld cnt' 40 8 = min (fld cnt 40 8 + 1) 0xFF ∧ fld cnt' 0 40 = lineOf a % 2 ^ 40))) ∧
  (∀ (s : State) (line : Nat),
    let t := [96, 64, 32, 0].foldr (fun (o : Nat) (s : State) => s.eccSector (line * 128 + o)) s
    (s.hbmRead line).2.2 = t ∧ (s.hbmRead line).2.1 = t.poisoned line ∧
    (∀ i, i < 128 → lane (s.hbmRead line).1 8 i = (t.mem.hbm.get 0 (line * 128 + i)).toNat) ∧
    exec (.patrolScrub line) s = .next (if line * 128 < 2 ^ 39 then t else s)) ∧
  ∀ (s : State) (st : Nat) (val : BitVec 64), ∃ e : State, exec (.hbmerrClear st val) s = .next e ∧
    e = { s with sys := { s.sys with hbmerr := e.sys.hbmerr } } ∧
    (∀ i : Nat, (e.hbmerr st).getLsbD i = ((s.hbmerr st).getLsbD i && !(decide (40 ≤ i) && val.getLsbD i))) ∧
    ∀ k, k ≠ st → e.hbmerr k = s.hbmerr k

/-- R94, R105, R422 to R425: an access is refused at an address that nothing backs, and, of an N requester, where an
enabled secure region or a range of a secure window, enabled or not, meets any byte of it. A refusal is logged in the die
that makes it, with TOTAL counted up and saturating, among the refusals of its cycle: these stand in the log in ascending
order of their slice, an NMU's last, and nothing else of the log changes. Only S requesters that reach it clear the log,
and only S requesters write a region register. -/
def Obligations.WorldCheck : Prop :=
  (∀ (s : State) (secure : Bool) (pa n : Nat),
    let backed := pa < 2 ^ 39 ∨ 2 ^ 47 ≤ pa ∧ pa < 2 ^ 48
    let region := ∃ e ∈ s.sys.regions, e.1 / 64 = homeDie pa ∧ bitAt e.2.base 0 = true ∧ bitAt e.2.base 1 = true ∧
      fld e.2.base 16 32 ≤ (pa + n - 1) / 2 ^ 16 ∧ pa / 2 ^ 16 ≤ fld e.2.lim 16 32
    let window := ∃ k, k < 16 ∧ (s.fwin (homeDie pa * 16 + k)).wld = true ∧
      ∃ r ∈ (s.fwin (homeDie pa * 16 + k)).ranges, overlaps pa n r.1 r.2 = true
    (s.refuses secure pa n = true ↔ ¬backed ∨ secure = false ∧ (region ∨ pa < 2 ^ 39 ∧ window))) ∧
  (∀ (s : State) (pa kind : Nat) (r : Rqst),
    let d := homeDie pa
    let t := s.logRefusal pa kind r
    let log := s.sys.vlog.get {} d
    let log' := t.sys.vlog.get {} d
    t = { s with sys := { s.sys with vlog := t.sys.vlog } } ∧ (∀ k, k ≠ d → t.sys.vlog.get {} k = s.sys.vlog.get {} k) ∧
    let place := if kind = kNmu then 16 else sliceHash pa
    let old := if log.last = s.cycle then log.now else []
    let at_ := fun (i : Nat) => (log.next + 32 * old.length - old.length + i) % 32
    log'.total.toNat = min (log.total.toNat + 1) 0xFFFFFFFF ∧ log'.next = (log.next + 1) % 32 ∧ log'.last = s.cycle ∧
    (∀ k, (∀ i, i ≤ old.length → k ≠ at_ i) → log'.ents.get (0, 0) k = log.ents.get (0, 0) k) ∧
    (old.length < 32 → ∀ i, i ≤ old.length → log'.ents.get (0, 0) (at_ i) = (log'.now.getD i (0, 0, 0)).2) ∧
    ∃ (before after : List (Nat × Word × Word)) (e : Word × Word), old = before ++ after ∧ log'.now = before ++ (place, e) :: after ∧
    (∀ x ∈ before, x.1 ≤ place) ∧ (∀ x ∈ after.head?, place < x.1) ∧
    fld e.1 0 48 = pa % 2 ^ 48 ∧ fld e.1 48 4 = kind % 16 ∧ fld e.1 52 11 = 0 ∧ bitAt e.1 63 = true ∧
    bitAt e.2 41 = r.host ∧ bitAt e.2 0 = r.secure ∧
    (r.host = false → fld e.2 40 1 = dieOf r.tile % 2 ∧ fld e.2 32 7 = r.tile % 128 ∧ fld e.2 24 6 = r.core % 64 ∧ fld e.2 16 3 = r.unit % 8) ∧
    (r.host = true → fld e.2 1 40 = 0)) ∧
  (∀ (s : State) (who : Requester) (die : Nat) (val : BitVec 64),
    let reached := s.reaches who (.vlogCtl die) = true
    (¬reached → exec (.logClear who die val) s = .next { s with sys := { s.sys with hostAns := none } }) ∧
    (reached → who.secure = false ∨ val.getLsbD 31 = false → exec (.logClear who die val) s = .next s) ∧
    (reached → who.secure = true → val.getLsbD 31 = true → ∃ e : State, exec (.logClear who die val) s = .next e ∧
      e = { s with sys := { s.sys with vlog := e.sys.vlog } } ∧ (∀ k, k ≠ die → e.sys.vlog.get {} k = s.sys.vlog.get {} k) ∧
      let log := s.sys.vlog.get {} die
      let log' := e.sys.vlog.get {} die
      log'.total = 0 ∧ log'.next = 0 ∧ ∀ k, bitAt (log'.ents.get (0, 0) k).1 63 = false ∧
        fld (log'.ents.get (0, 0) k).1 0 63 = fld (log.ents.get (0, 0) k).1 0 63 ∧
        (log'.ents.get (0, 0) k).2 = (log.ents.get (0, 0) k).2)) ∧
  ∀ (s : State) (d n : Nat) (x : Word),
    s.regWrite false (.rbase d n) x = some s ∧ s.regWrite false (.rlim d n) x = some s ∧
    (s.regWrite true (.rbase d n) x).map (fun t => (t.regValue (.rbase d n), t.regValue (.rlim d n))) =
      some (x &&& 0xFFFFFFFF0003, s.regValue (.rlim d n)) ∧
    (s.regWrite true (.rlim d n) x).map (fun t => (t.regValue (.rbase d n), t.regValue (.rlim d n))) =
      some (s.regValue (.rbase d n), x &&& 0xFFFFFFFF0000)

/-- R100 to R102: setting EN enables a window only under the conditions of R101 and clears ERR, else it sets ERR; an N
writer changes nothing of a secure window and sets no WLD. Clearing EN leaves it reading 1 until every line of the
view has left the slices, and changes no other field (log entry 43); that waits while a recall of one of these lines waits
for a link that retrains (R118, R430). Other writes of an enabled window are ignored. There are 32 windows, and the
host's BAR0 maps none of them (R428). -/
def Obligations.FormatWindows : Prop :=
  (∀ (s : State) (who : Requester) (win : Nat) (val : BitVec 64),
    let f := s.fwin win
    let g : FWin := { f with ctl := (val &&& (if who.secure then 0xFFFFFF0000004FF0 else 0xFFFFFF0000000FF0)) |||
      (f.ctl &&& ~~~(if who.secure then 0xFFFFFF0000004FF0 else 0xFFFFFF0000000FF0)) }
    let die := win / 16
    let apart := fun (a b : Nat × Nat) => overlaps a.1 a.2 b.1 b.2 = false
    let ok := 2 ≤ g.pln ∧ g.pln ≤ 8 ∧ 1 ≤ g.rdk ∧ g.rdk ≤ g.pln ∧ 1 ≤ g.g ∧
      (∀ r ∈ g.ranges, die * 2 ^ 38 ≤ r.1 ∧ r.1 + r.2 ≤ (die + 1) * 2 ^ 38) ∧
      apart (g.vbase, 128 * g.g) (g.sbase, 16 * g.pln * g.g) ∧ apart (g.vbase, 128 * g.g) (g.scbase, g.g) ∧
      apart (g.sbase, 16 * g.pln * g.g) (g.scbase, g.g) ∧
      ∀ k, k < 16 → (s.fwin (die * 16 + k)).en = true → ∀ a ∈ g.ranges, ∀ b ∈ (s.fwin (die * 16 + k)).ranges, apart a b
    let reached := ∀ b, who ≠ .host b
    (¬reached → exec (.fwinEnable who win val) s = .next { s with sys := { s.sys with hostAns := none } }) ∧
    (reached → 32 ≤ win ∨ val.getLsbD 0 = false ∨ f.en = true ∨ (f.wld = true ∧ who.secure = false) →
      exec (.fwinEnable who win val) s = .next s) ∧
    (reached → win < 32 → val.getLsbD 0 = true → f.en = false → (f.wld = true → who.secure = true) →
      ∃ (e : State) (c : Word), exec (.fwinEnable who win val) s = .next e ∧ e = s.setFwin win { g with ctl := c } ∧
        (∀ i, i ≠ 0 → i ≠ 15 → bitAt c i = bitAt g.ctl i) ∧
        (ok → bitAt c 0 = true ∧ bitAt c 15 = false) ∧ (¬ok → bitAt c 0 = false ∧ bitAt c 15 = true))) ∧
  (∀ (s : State) (who : Requester) (win : Nat) (val : BitVec 64),
    let f := s.fwin win
    let reached := ∀ b, who ≠ .host b
    (¬reached → exec (.fwinDisable who win val) s = .next { s with sys := { s.sys with hostAns := none } }) ∧
    (reached → 32 ≤ win ∨ val.getLsbD 0 = true ∨ f.en = false ∨ (f.wld = true ∧ who.secure = false) →
      exec (.fwinDisable who win val) s = .next s) ∧
    (reached → win < 32 → val.getLsbD 0 = false → f.en = true → (f.wld = true → who.secure = true) →
      exec (.fwinDisable who win val) s = .next (s.setFwin win { f with closing := true }))) ∧
  (∀ (s : State) (sec : Bool) (win reg : Nat) (x : Word), (s.fwin win).en = true → reg ≠ 0 ∨ bitAt x 0 = true →
    s.writeFwin sec win reg x = s) ∧
  (∀ (s : State) (win : Nat),
    let f := s.fwin win
    let waits := (s.viewLines f).any s.recallWaits
    (f.en = false ∨ f.closing = false ∨ waits = true → exec (.fwinDisableDone win) s = .next s) ∧
    (f.en = true → f.closing = true → waits = false → ∃ e : State, exec (.fwinDisableDone win) s = .next e ∧
      (e.fwin win).en = false ∧ (e.fwin win).closing = false ∧ (e.fwin win).view = f.view ∧ (e.fwin win).stor = f.stor ∧
      (e.fwin win).scl = f.scl ∧ (∀ k, k ≠ win → e.fwin k = s.fwin k))) ∧
  ∀ (s : State) (win : Nat) (x : Word) (sec : Bool), (s.fwin win).en = false → ((s.fwin win).wld = true → sec = true) →
    s.writeFwin sec win 1 x = s.setFwin win { s.fwin win with view := x &&& 0xFFFFFFFFFF80 } ∧
    s.writeFwin sec win 2 x = s.setFwin win { s.fwin win with stor := x &&& 0xFFFFFFFFFF80 } ∧
    s.writeFwin sec win 3 x = s.setFwin win { s.fwin win with scl := x &&& 0xFFFFFFFFFFFF }

/-- R9, R353, R403, R411, R416, R418, R430 to R435: where each register of system space lies; a write of a register
that is read only changes nothing, a write of PREBASE, an ASIDROOT, a trap register, PKGID or a route keeps the fields
that can be written, and WO registers read zero. An offset with no register is written to no effect (the model's reading:
log entry 7); a host that cannot reach the register gets no completion but that of an unsupported request. R426, R428: the
host reaches, through a function that is exposed, what BAR0 maps, and in recovery BUSTAT and FWSTAT through function 0. -/
def Obligations.SystemSpace : Prop :=
  (∀ (s : State) (who : Requester) (off val : BitVec 64),
    let turned := ({ s with sys := { s.sys with hostAns := none } } : State)
    (sysReg? off.toNat = none → (∀ b, who ≠ .host b) → exec (.registerWrite who off val) s = .next s) ∧
    (sysReg? off.toNat = none → (∃ b, who = .host b) → exec (.registerWrite who off val) s = .next turned) ∧
    (∀ r, sysReg? off.toNat = some r → s.reaches who r = false → exec (.registerWrite who off val) s = .next turned) ∧
    (∀ r e, sysReg? off.toNat = some r → s.reaches who r = true → s.regWrite who.secure r val = some e →
      exec (.registerWrite who off val) s = .next e)) ∧
  (∀ (d n k t c i p : Nat), d < 2 → k < 4 →
    (n < 16 → sysReg? (0x1000000 + 0x1000000 * d + 0x1000 + 32 * n + 8 * k) = some (.fwin d n k)) ∧
    (n < 8 → sysReg? (0x4000000 + 0x1000 * n) = some (.hbmerr n)) ∧
    (t < 128 → c < 64 → i < 6 → sysReg? (0x5000000 + 0x10000 * t + 0x100 * c + 8 * i) = some (.coreReg (64 * t + c) i)) ∧
    (n < 16 → i < 5 → sysReg? (0x6000000 + 0x40 * n + 8 * i) = some (.chan n i)) ∧
    sysReg? 0x6000400 = some .cancel ∧ sysReg? 0x6000408 = some .prebase ∧ sysReg? 0x6000410 = some .precmd ∧
    sysReg? 0x6000418 = some .prestat ∧ (n < 4096 → sysReg? (0x7000000 + 8 * n) = some (.asidroot n)) ∧
    (n < 64 → sysReg? (0x8000000 + 0x10000 * d + 16 * n) = some (.rbase d n) ∧
      sysReg? (0x8000000 + 0x10000 * d + 16 * n + 8) = some (.rlim d n)) ∧
    sysReg? (0x8001000 + 0x10000 * d) = some (.vlogCtl d) ∧
    (n < 32 → i < 2 → sysReg? (0x8001100 + 0x10000 * d + 16 * n + 8 * i) = some (.vlogEnt d n i)) ∧
    (i < 2 → sysReg? (0x8020000 + 8 * i) = some (.link i)) ∧ (n < 16 → sysReg? (0x8020100 + 8 * n) = some (.port n)) ∧
    (n < 112 → sysReg? (0x8030000 + 8 * n) = some (.wear n)) ∧
    (i < 2 → sysReg? (0x8040000 + 8 * i) = some (.withheld i)) ∧ sysReg? 0x8040010 = some .bustat ∧ sysReg? 0x8040018 = some .fwstat ∧
    (n < 6 → sysReg? (0x8050000 + 8 * n) = some (.nonce n)) ∧ sysReg? 0x8050040 = some .attcmd ∧ sysReg? 0x8050048 = some .attstat ∧
    (n < 32 → sysReg? (0x8050100 + 8 * n) = some (.quote n)) ∧
    (p < 65535 → i < 2 → sysReg? (0x8100000 + 16 * p + 8 * i) = some (.route p i)) ∧ sysReg? 0x8200000 = some .pkgid) ∧
  (∀ (s : State) (sec : Bool) (x : Word) (n i : Nat),
    s.regValue .cancel = 0 ∧ s.regValue .precmd = 0 ∧ s.regValue .attcmd = 0 ∧ s.regValue (.coreReg n 4) = 0 ∧ s.regValue (.coreReg n 5) = 0 ∧
    s.regWrite sec .prestat x = some s ∧ s.regWrite sec (.vlogEnt n i i) x = some s ∧ s.regWrite sec (.wear n) x = some s ∧
    s.regWrite sec (.withheld n) x = some s ∧ s.regWrite sec .bustat x = some s ∧ s.regWrite sec .fwstat x = some s ∧
    s.regWrite sec .attstat x = some s ∧ s.regWrite sec (.quote n) x = some s ∧ s.regWrite sec (.chan n 2) x = some s ∧
    (s.regWrite sec .prebase x).map (fun t => t.regValue .prebase) = some (x &&& 0xFFFFFFFF0000) ∧
    (s.regWrite sec (.asidroot n) x).map (fun t => t.regValue (.asidroot n)) = some (x &&& 0xFFFFFFFF0001) ∧
    (s.regWrite sec (.coreReg n 0) x).map (fun t => t.regValue (.coreReg n 0)) = some (x &&& ~~~3) ∧
    (s.regWrite sec (.coreReg n 1) x).map (fun t => t.regValue (.coreReg n 1)) = some (x &&& ~~~3) ∧
    (s.regWrite sec (.coreReg n 2) x).map (fun t => t.regValue (.coreReg n 2)) =
      some ((s.regValue (.coreReg n 2) &&& 0x200) ||| (x &&& 0x1FF)) ∧
    (s.regWrite sec (.coreReg n 3) x).map (fun t => t.regValue (.coreReg n 3)) = some x ∧
    s.regWrite false .pkgid x = some s ∧ s.regWrite false (.route n i) x = some s ∧
    (s.regWrite true .pkgid x).map (fun t => t.regValue .pkgid) =
      some (if fld x 0 16 = 0xFFFF then s.regValue .pkgid else x &&& 0xFFFF) ∧
    (s.regWrite true (.route n 0) x).map (fun t => t.regValue (.route n 0)) = some x ∧
    (s.regWrite true (.route n 1) x).map (fun t => t.regValue (.route n 1)) = some (x &&& 0x1F)) ∧
  ∀ (s : State) (r : SysReg), s.reaches .mgmt r = true ∧ (∀ b, s.reaches (.core b) r = true) ∧
    ∀ b, (s.reaches (.host b) r = true ↔
      (s.sys.recovery = true ∧ b = false ∧ (r = .bustat ∨ r = .fwstat)) ∨
      (s.sys.recovery = false ∧ 5 ≤ s.sys.bustat ∧ (b = true → s.sys.function1 = true) ∧
        (∀ d n k, r ≠ .fwin d n k) ∧ (∀ n, r ≠ .hbmerr n) ∧ (∀ n, r ≠ .asidroot n) ∧ ∀ n k, r ≠ .coreReg n k))

/-- R422, R426, R427, R428: an access of the host through BAR2 within one line is a read or write at the home slice of that
line by a requester on die 0, secure through function 1; a refused read answers nothing, a refused write stores
nothing, and a read of a poisoned line returns none of its bytes (R98). What is not served is an unsupported request,
which changes nothing but its answer. The model's choices (log entry 41): the answer stands in hostAns, and a poisoned one
carries no data; a request of more than 4,096 bytes is unsupported (PRESUMED); an access through BAR0 is one of a register
of 8 bytes that the host reaches, and of another width unsupported; requests enter on die 0 and cross the bridge to lines
of die 1, by either link that is up. ATTCMD starts a quote, which holds the version, the firmware's SVN, the serial number,
the nonce, the digest, the withheld mask and the signature over what stands before it; serial number, digest and signature
are free values (log entry 11). -/
def Obligations.HostAndAttestation : Prop :=
  (∀ (s : State) (h : HostReq),
    let r : Rqst := { host := true, secure := h.function1 }
    let answer := fun (t : State) (a : Option (Nat × Bool)) => ({ t with sys := { t.sys with hostAns := a } } : State)
    let served := 5 ≤ s.sys.bustat ∧ s.sys.recovery = false ∧ (h.function1 = true → s.sys.function1 = true)
    (h.bar0 = true → sysReg? h.pa = none ∨ h.n ≠ 8 → exec (.hostAccess h) s = .next (answer s none)) ∧
    (∀ q, h.bar0 = true → sysReg? h.pa = some q → h.n = 8 →
      (s.reaches (.host h.function1) q = false → exec (.hostAccess h) s = .next (answer s none)) ∧
      (s.reaches (.host h.function1) q = true → h.write = false →
        exec (.hostAccess h) s = .next (answer s (some ((s.regValue q).toNat, false)))) ∧
      (s.reaches (.host h.function1) q = true → h.write = true → ∀ e, s.regWrite h.function1 q (word h.data) = some e →
        exec (.hostAccess h) s = .next e)) ∧
    (h.bar0 = false → ¬served ∨ 2 ^ 39 < h.pa + h.n ∨ 4096 < h.n → exec (.hostAccess h) s = .next (answer s none)) ∧
    (h.bar0 = false → served → h.pa + h.n ≤ 2 ^ 39 → 0 < h.n → h.pa % 128 + h.n ≤ 128 →
      (s.bridge 0 (homeDie h.pa) = .wait → exec (.hostAccess h) s = .next s) ∧
      (s.bridge 0 (homeDie h.pa) = .dead → exec (.hostAccess h) s = .next (if h.write then s else answer s none)) ∧
      (s.bridge 0 (homeDie h.pa) = .clear →
        (s.refuses h.function1 h.pa h.n = true → exec (.hostAccess h) s =
          .next (if h.write then s.logRefusal h.pa kStore r else answer (s.logRefusal h.pa kLoad r) none)) ∧
        (s.refuses h.function1 h.pa h.n = false → s.free (lineOf h.pa) h.write = true →
          (h.write = false → exec (.hostAccess h) s =
            .next (answer (s.lineRead h.pa h.n .df).2.2
              (some (if (s.lineRead h.pa h.n .df).2.1 then (0, true) else ((s.lineRead h.pa h.n .df).1, false))))) ∧
          (h.write = true → s.viewReadOnly (lineOf h.pa) = true → exec (.hostAccess h) s = .next s) ∧
          (h.write = true → s.viewReadOnly (lineOf h.pa) = false →
            exec (.hostAccess h) s = .next (s.lineWrite h.pa h.n (h.data % 2 ^ (8 * h.n)) .df).2))))) ∧
  (∀ (s : State) (val : BitVec 64),
    exec (.attcmd val) s = .next (if val = 1 ∧ s.sys.attstat ≠ 1 then { s with sys := { s.sys with attstat := 1 } } else s) ∧
    (s.sys.attstat ≠ 1 → exec .attestDone s = .next s)) ∧
  ∀ (s : State), s.sys.attstat = 1 → ∃ e : State, exec .attestDone s = .next e ∧
    e = { s with sys := { s.sys with attstat := 2, quote := e.sys.quote } } ∧ e.sys.quote.length = 256 ∧
    let part := fun (o n : Nat) => (e.sys.quote.drop o).take n
    part 0 4 = [1, 0, 0, 0] ∧ ofBytes (part 4 4) = s.sys.svn.toNat ∧ ofBytes (part 8 8) = Config.serial.toNat ∧
    ofBytes (part 16 48) = readBytes s.sys.nonce 0 48 ∧ ofBytes (part 64 48).reverse = (Config.firmwareDigest s.sys.svn).toNat ∧
    ofBytes (part 112 16) = s.sys.withheld.toNat ∧ part 128 32 = List.replicate 32 0 ∧
    ofBytes (part 160 48).reverse * 2 ^ 384 + ofBytes (part 208 48).reverse = (Config.quoteSignature (part 0 160)).toNat

/-- R418 to R421, R160: a pre-emption command is ignored while one is at work or with a reserved bit set. SAVE stops
the hall at the given origin, or ends with NOHALL; once its cores have stopped and its accesses and engines are done,
its image is written, its tiles are free and PRESTAT reads DONE, and no management core answers for it any more. RESTORE
ends with BADIMG on a wrong VER or SUM, NOFIT where the rectangle is not free, NOTMOVABLE at another origin than the saved
one without MOVE. Both wait for lines of the save area that another command or a missed read holds (R110). The model's
choices (log entry 28): a RESTORE of an image with a refused line, of which a line lies where nothing backs it, or whose
header is that of no known save ends with BADIMG, before and at its release; at its release a hall that was cancelled
meanwhile is cancelled. A sealed image has sound VER and SUM, and zero between. The opaque bytes of an image are free (log
entry 10). -/
def Obligations.SavingAndRestoring : Prop :=
  (∀ (s : State) (val : BitVec 64), s.sys.prestat = 1 ∨ fld val 19 45 ≠ 0 ∨ fld val 12 4 ≠ 0 ∨ fld val 3 5 ≠ 0 →
    exec (.precmdSave val) s = .next s ∧ exec (.precmdRestore val) s = .next s) ∧
  (∀ (s : State) (val : BitVec 64), s.sys.prestat ≠ 1 → fld val 19 45 = 0 → fld val 12 4 = 0 → fld val 3 5 = 0 →
    (fld val 0 2 ≠ 1 → exec (.precmdSave val) s = .next s) ∧ (fld val 0 2 ≠ 2 → exec (.precmdRestore val) s = .next s) ∧
    (fld val 0 2 = 1 →
      ((∀ h ∈ s.fes.halls, h.ox ≠ fld val 8 4 ∨ h.oy ≠ fld val 16 3) →
        exec (.precmdSave val) s = .next { s with sys := { s.sys with precmd := val, prestat := 3 } }) ∧
      (∀ h, s.hallAt (fld val 8 4) (fld val 16 3) = some h → h.stop = .none →
        ∃ e : State, exec (.precmdSave val) s = .next e ∧ e.sys = { s.sys with precmd := val, prestat := 1 } ∧
          e.fes.halls = updFirst (fun x => x.id == h.id) (fun x => { x with stop := .save (bitAt val 2) }) s.fes.halls)) ∧
    (fld val 0 2 = 2 → s.precmdWaits val = true → exec (.precmdRestore val) s = .next s) ∧
    (fld val 0 2 = 2 → s.precmdWaits val = false →
      let base := s.saveBase
      let s0 : State := { s with sys := { s.sys with precmd := val } }
      let header := s0.lineBytes base 512
      let x := fld val 8 4
      let y := fld val 16 3
      ∃ e : State, exec (.precmdRestore val) s = .next e ∧ (header.1 = none → e.sys.prestat = 4) ∧
        ∀ bs, header.1 = some bs →
        (sealVer bs = false ∨ sealSum bs = false ∨ header.2.savedAt bs = none → e.sys.prestat = 4) ∧
        ∀ sv, sealVer bs = true → sealSum bs = true → header.2.savedAt bs = some sv →
          let t := (header.2.imageOk base sv).2
          ((header.2.imageOk base sv).1 = false ∨ t.areaUnbacked base sv.hall.areaBytes = true → e.sys.prestat = 4) ∧
          ((header.2.imageOk base sv).1 = true → t.areaUnbacked base sv.hall.areaBytes = false →
            (t.fits x y sv.hall.w sv.hall.h = false → e.sys.prestat = 5) ∧
            (t.fits x y sv.hall.w sv.hall.h = true → sv.move = false → ¬(sv.hall.ox = x ∧ sv.hall.oy = y) → e.sys.prestat = 6) ∧
            (t.fits x y sv.hall.w sv.hall.h = true → sv.move = true ∨ sv.hall.ox = x ∧ sv.hall.oy = y →
              e.sys.prestat = 1 ∧ ∀ k, k < sv.hall.w * sv.hall.h → (e.tile ((y + k / sv.hall.w) * 16 + x + k % sv.hall.w)).hall.isSome = true)))) ∧
  (∀ (s : State),
    (s.saving = none ∨ s.sys.prestat ≠ 1 ∨ fld s.sys.precmd 0 2 ≠ 1 → exec .saveDone s = .next s) ∧
    (s.saving = none ∨ s.sys.prestat ≠ 1 ∨ fld s.sys.precmd 0 2 ≠ 2 → exec .restoreDone s = .next s) ∧
    ∀ h, s.saving = some h → s.sys.prestat = 1 →
      (fld s.sys.precmd 0 2 = 1 →
        let done := s.allStopped h = true ∧ s.drained h = true ∧ s.resultsIn h = true ∧ s.movesDone h = true ∧
          s.areaFree s.saveBase h.areaBytes = true
        (¬done → exec .saveDone s = .next s) ∧
        (done → ∃ e : State, exec .saveDone s = .next e ∧ e.sys.prestat = 2 ∧
          e.fes.halls = s.fes.halls.filter (fun x => x.id != h.id) ∧
          (∀ k, (e.tile k).hall = if h.tiles.contains k then none else (s.tile k).hall) ∧
          e.sys.mgmt = s.sys.mgmt.filter (fun m => !h.hasCore m.1) ∧
          ∀ ck, h.hasCore ck = true → (e.core ck).lv0.hold = .idle ∧ (e.core ck).lv1.hold = .idle)) ∧
      (fld s.sys.precmd 0 2 = 2 →
        let header := s.lineBytes s.saveBase 512
        let found := header.1.bind header.2.savedAt
        (s.areaFree s.saveBase h.areaBytes = false → exec .restoreDone s = .next s) ∧
        (s.areaFree s.saveBase h.areaBytes = true → ∃ e : State, exec .restoreDone s = .next e ∧
          (found = none → e.sys.prestat = 4) ∧
          (found.isSome = true → e.sys.prestat = 2 ∧
            e.fes.halls = updFirst (fun x => x.id == h.id)
              (fun x => { x with stop := if x.doomed then .cancel else .none, doomed := false, sampled := s.cycle,
                                 lastTick := s.cycle }) s.fes.halls)))) ∧
  ∀ (f : Nat → Byte) (n : Nat), 8 ≤ n →
    let image := (List.range n).map (sealedByte f n)
    sealVer image = true ∧ sealSum image = true ∧ (image.drop 2).take 2 = [0, 0] ∧
    ∀ i, 8 ≤ i → i < n → image.getD i 0 = f i

/-! ## Links, bring-up and health -/

/-- R430: a flit or frame that is accepted ends its count of failures, one that fails its CRC is counted. The ninth
failure of a flit, or a loss of lane lock, begins a retrain; within 100 µs (94,000 cycles, that is until 94,000 of them
have passed, DEDUCED, log entry 40) it ends with the link up, after that it has failed, and the third failure in a row
leaves the link dead. A frame is retried up to 16 times; after that
the port is down and retrains. A count saturates. Writing ones to a status register clears bits of ERRCNT and nothing
else. -/
def Obligations.LinksAndPorts : Prop :=
  let counts := fun (k k' : Link) => k'.errcnt.toNat = min (k.errcnt.toNat + 1) 0xFFFFFFFF
  let begins := fun (now : Nat) (k k' : Link) => k'.state = 1 ∧ k'.since = now ∧ k'.fails = 0 ∧ k'.failsB = 0 ∧
    k'.retrains.toNat = min (k.retrains.toNat + 1) 0xFFFF
  (∀ (s : State) (link dir : Nat) (ok : Bool), link < 2 → dir < 2 →
    let k := s.link link
    let fails := if dir = 0 then k.fails else k.failsB
    (k.state ≠ 0 → exec (.flitReceive link dir ok) s = .next s ∧ exec (.laneLockLoss link) s = .next s) ∧
    (k.state = 0 →
      (∃ k', exec (.flitReceive link dir ok) s = .next (s.setLink link k') ∧
        (ok = true → k'.state = 0 ∧ k'.errcnt = k.errcnt ∧ k'.retrains = k.retrains ∧ (if dir = 0 then k'.fails else k'.failsB) = 0 ∧
          (if dir = 0 then k'.failsB = k.failsB else k'.fails = k.fails)) ∧
        (ok = false → counts k k' ∧
          (fails < 8 → k'.state = 0 ∧ k'.retrains = k.retrains ∧ (if dir = 0 then k'.fails else k'.failsB) = fails + 1 ∧
            (if dir = 0 then k'.failsB = k.failsB else k'.fails = k.fails)) ∧
          (8 ≤ fails → begins s.cycle k k' ∧ k'.failed = k.failed))) ∧
      (∃ k', exec (.laneLockLoss link) s = .next (s.setLink link k') ∧ begins s.cycle k k' ∧ k'.errcnt = k.errcnt ∧ k'.failed = k.failed))) ∧
  (∀ (s : State) (link : Nat), link < 2 →
    let k := s.link link
    (k.state ≠ 1 → exec (.retrainDone link) s = .next s ∧ exec (.retrainTimeout link) s = .next s) ∧
    (k.state = 1 → s.cycle ≤ k.since + 94000 → exec (.retrainTimeout link) s = .next s ∧
      exec (.retrainDone link) s = .next (s.setLink link { k with state := 0, failed := 0 })) ∧
    (k.state = 1 → k.since + 94000 < s.cycle → exec (.retrainDone link) s = .next s ∧
      ∃ k', exec (.retrainTimeout link) s = .next (s.setLink link k') ∧ k'.failed = k.failed + 1 ∧ k'.errcnt = k.errcnt ∧
        (k.failed < 2 → begins s.cycle k k') ∧ (2 ≤ k.failed → k'.state = 2 ∧ k'.retrains = k.retrains))) ∧
  (∀ (s : State) (port : Nat) (hdr : List (BitVec 64)) (payload : List (BitVec 8)),
    let k := s.port port
    port < 16 → hdr.length = 8 → payload.length ≤ 4096 →
    (k.state ≠ 0 → ∀ ok, exec (.harpinFrame port ok hdr payload) s = .next s) ∧
    (k.state = 0 →
      (∃ k', exec (.harpinFrame port false hdr payload) s = .next (s.setPort port k') ∧ counts k k' ∧
        (k.fails < 16 → k'.state = 0 ∧ k'.fails = k.fails + 1 ∧ k'.retrains = k.retrains) ∧
        (16 ≤ k.fails → k'.state = 3 ∧ k'.fails = 0 ∧ k'.retrains.toNat = min (k.retrains.toNat + 1) 0xFFFF)) ∧
      let p : Pkt := { id := s.ctr, hdr := hdr, payload := payload, port := some port }
      let known := 1 ≤ fld (hdr.getD 2 0) 28 4 ∧ fld (hdr.getD 2 0) 28 4 ≤ 4 ∧
        ∀ j, j < fld (hdr.getD 2 0) 28 4 → 1 ≤ fld (hdr.getD 2 0) (12 + 4 * j) 4 ∧ fld (hdr.getD 2 0) (12 + 4 * j) 4 ≤ 7
      (¬(fld (hdr.getD 0 0) 60 4 = 0 ∧ ¬known) → exec (.harpinFrame port true hdr payload) s =
        .next { (s.setPort port { k with fails := 0 }) with ctr := s.ctr + 1, fes := { s.fes with pkts := s.fes.pkts ++ [p] } }) ∧
      (fld (hdr.getD 0 0) 60 4 = 0 → ¬known → ∃ k', exec (.harpinFrame port true hdr payload) s = .next (s.setPort port k') ∧
        counts k k' ∧ k'.state = 0 ∧ k'.fails = 0))) ∧
  (∀ (s : State) (port : Nat), port < 16 →
    (s.sys.bustat < 6 ∨ (s.port port).state ≠ 3 → exec (.portUp port) s = .next s) ∧
    (6 ≤ s.sys.bustat → (s.port port).state = 3 →
      exec (.portUp port) s = .next (s.setPort port { s.port port with state := 0, fails := 0 }))) ∧
  ∀ (s : State) (l : Nat) (val : BitVec 64), ∃ e : State, exec (.errcntClear l val) s = .next e ∧
    (∀ j, j < 2 → e.link j = if j = l then { s.link j with errcnt := (s.link j).errcnt &&& ~~~(val >>> 32).setWidth 32 } else s.link j) ∧
    ∀ p, e.port p = if p + 2 = l then { s.port p with errcnt := (s.port p).errcnt &&& ~~~(val >>> 32).setWidth 32 } else s.port p

/-- R426, R429, R431, R432, R433, R435: bring-up goes through its states in order, each entered from the one before:
the firmware is examined in state 1 and training begins when the last image examined is OK; an image is OLDSVN when it
passes signature, key and digest and is older than the fuse (that the version is compared after these, and that a later image
may be examined in state 1, are the model's choices, log entry 39); a slice or stack that fails self-test stops
bring-up at state 3; links that cannot train are dead and ports that cannot stay down; after a refusal of the firmware
the PCIe link comes up in recovery, in state 1, and recovery ends with state 5. Each event in any other state changes
nothing, and no other event of these changes BUSTAT. Wear monitors take what the management core writes. That reset keeps
the memories is the model's choice (log entry 39). -/
def Obligations.BringUp : Prop :=
  (∀ (s : State) (code : Nat) (svn : BitVec 32),
    (s.sys.bustat ≠ 1 ∨ code = 0 ∨ 5 < code → exec (.firmwareVerify code svn) s = .next s) ∧
    (s.sys.bustat = 1 → 1 ≤ code → code ≤ 5 → ∃ e : State, exec (.firmwareVerify code svn) s = .next e ∧
      let older := svn.toNat < s.sys.svnFuse.toNat
      let found := if code = 1 ∨ code = 4 then (if older then 4 else 1) else code
      fld e.sys.fwstat 32 32 = svn.toNat ∧ fld e.sys.fwstat 0 32 = found ∧
      e = { s with sys := { s.sys with fwstat := e.sys.fwstat, svn := if found = 1 then svn else s.sys.svn } })) ∧
  (∀ (s : State) (withheld : BitVec 128) (ok up0 up1 : Bool),
    (¬(s.sys.bustat = 1 ∧ fld s.sys.fwstat 0 8 = 1) → exec .hbmTraining s = .next s) ∧
    (s.sys.bustat = 1 → fld s.sys.fwstat 0 8 = 1 → ∃ e : State, exec .hbmTraining s = .next e ∧
      e.sys.bustat = 2 ∧ (∀ a, (e.mem.errs.get 0 a) = 0) ∧ e.cores = s.cores ∧ e.fes = s.fes) ∧
    exec (.selfTest withheld ok) s =
      .next (if s.sys.bustat = 2 then { s with sys := { s.sys with bustat := 3, withheld := withheld, halted := !ok } } else s) ∧
    (s.sys.bustat ≠ 3 ∨ s.sys.halted = true → exec (.ilupolTraining up0 up1) s = .next s) ∧
    (s.sys.bustat = 3 → s.sys.halted = false → ∃ e : State, exec (.ilupolTraining up0 up1) s = .next e ∧
      e = { s with sys := { s.sys with bustat := 4, links := e.sys.links } } ∧
      e.link 0 = { state := if up0 then 0 else 2 } ∧ e.link 1 = { state := if up1 then 0 else 2 }) ∧
    exec (.pcieLinkUp true) s =
      .next (if s.sys.bustat = 1 ∧ 2 ≤ fld s.sys.fwstat 0 8 then { s with sys := { s.sys with recovery := true } } else s) ∧
    exec (.pcieLinkUp false) s = .next (if s.sys.bustat = 4 then { s with sys := { s.sys with bustat := 5, recovery := false } } else s) ∧
    exec .ready s = .next (if s.sys.bustat = 6 then { s with sys := { s.sys with bustat := 7 } } else s)) ∧
  (∀ (s : State) (up pkg : BitVec 16) (routes : List RouteWrite),
    (s.sys.bustat ≠ 5 → exec (.harpinTraining up pkg routes) s = .next s) ∧
    (s.sys.bustat = 5 → ∃ e : State, exec (.harpinTraining up pkg routes) s = .next e ∧
      e = { s with sys := { s.sys with bustat := 6, ports := e.sys.ports, pkgid := e.sys.pkgid, routes := e.sys.routes } } ∧
      (∀ p, p < 16 → e.port p = { state := if up.getLsbD p then 0 else 3 }) ∧
      e.sys.pkgid = (if pkg = 0xFFFF then s.sys.pkgid else pkg.setWidth 64) ∧
      (∀ p, (∀ r ∈ routes, r.pkg.toNat ≠ p) → e.sys.routes.get {} p = s.sys.routes.get {} p) ∧
      ∀ l r, routes = l ++ [r] → r.pkg ≠ 0xFFFF → e.sys.routes.get {} r.pkg.toNat = { hdr := r.hdr, v := r.v, out := r.out })) ∧
  (∀ (s : State) (mon : Nat) (hours : BitVec 32) (conf : BitVec 8),
    (112 ≤ mon ∨ 100 < conf.toNat → exec (.wearUpdate mon hours conf) s = .next s) ∧
    (mon < 112 → conf.toNat ≤ 100 → ∃ e : State, exec (.wearUpdate mon hours conf) s = .next e ∧
      e = { s with sys := { s.sys with wear := e.sys.wear } } ∧
      (∀ k, k ≠ mon → e.regValue (.wear k) = s.regValue (.wear k)) ∧ fld (e.regValue (.wear mon)) 32 32 = hours.toNat ∧
      fld (e.regValue (.wear mon)) 24 8 = conf.toNat ∧ fld (e.regValue (.wear mon)) 0 24 = 0)) ∧
  ∀ (s : State), ∃ e : State, exec .reset s = .next e ∧ e.mem = s.mem ∧ e.sys = { State.reset.sys with svnFuse := s.sys.svnFuse } ∧ e.cores = [] ∧ e.bays = [] ∧
    e.tiles = [] ∧ e.slices = [] ∧ e.cycle = 0 ∧ e.flight = [] ∧ e.fes.halls = [] ∧ e.fes.chans = [] ∧ e.fes.entries = [] ∧ e.fes.members = []

/-! ## Encodings, reset and memory -/

/-- R38 to R61: every well-formed instruction of a core, but for the two events of a fetch that gives none, has an
encoding, of as many words as its first word tells, and decoding these words, whatever follows them, gives the
instruction back with every operand; and words that decode give a well-formed instruction of a core, whose encoding
they are. R64, R65: the same of the chunk instructions. -/
def Obligations.DecodeEncode : Prop :=
  (∀ (i : Instr), i.unit = .core → i.wf = true → (∀ w, i ≠ .illegalEncoding w) → (∀ va why, i ≠ .fetchFault va why) → ∃ w0 ws, encode i = w0 :: ws ∧ (encode i).length = lenWords w0 ∧
    ∀ (w : Nat → BitVec 32), (∀ k, k < (encode i).length → w k = (encode i).getD k 0) →
      decode (w 0) (w 1) (w 2) (w 3) (w 4) = some i) ∧
  (∀ (w0 w1 w2 w3 w4 : BitVec 32) (i : Instr), decode w0 w1 w2 w3 w4 = some i →
    i.unit = .core ∧ i.wf = true ∧ encode i = [w0, w1, w2, w3, w4].take (lenWords w0)) ∧
  (∀ (idx : Nat) (c : ChunkI), c.ok idx = true → decodeChunk idx c.word = some c) ∧
  ∀ (idx : Nat) (w : BitVec 64) (c : ChunkI), decodeChunk idx w = some c → c.ok idx = true ∧ c.word = w

/-- The words that the specification itself gives for some instructions decode to them (R62, R64, R120, R189, R194,
R196, R206, R210 and others). -/
def Obligations.DecodedWords : Prop :=
  let gu : Guard := { gp := 7, gs := true }
  decode 0x001461C1 0x0 0x0 0x0 0x0 = some (.add 5 6 7) ∧
  decode 0x48180000 0x00004000 0x0 0x0 0x0 = some (.addiLiteral 6 0 16384) ∧
  decode 0x203FFFFE 0x0 0x0 0x0 0x0 = some (.br ⟨1, true⟩ 0xFFFFE) ∧
  decode 0x83500000 0x10108300 0x0 0x0 0x0 = some (.vfma ⟨2, true⟩ 0 0 false 4 1 2 3) ∧
  decode 0x88F30000 0x00145008 0x00221804 0x0 0x0 = some (.pair gu (.imm .add 5 5 (.short 8)) (.v2 .vadd 1 0 1 2 3)) ∧
  decode 0x30146003 0x0 0x0 0x0 0x0 = some (.stb 5 6 .df 3) ∧
  decode 0xA8F04000 0x10900000 0x00000100 0x0 0x0 = some (.vld gu 4 0 .df 4 9 256) ∧
  decode 0x85F21008 0x24414600 0x00000008 0x0 0x0 = some (.mfill gu 1 .ll 9 4 5 6 8) ∧
  decode 0x82F22000 0x20000900 0x0 0x0 0x0 = some (.cpgo gu 2 8 9) ∧
  decode 0x3C085012 0x0 0x0 0x0 0x0 = some (.gets 5 0x012) ∧
  decode 0x0220928C 0x0 0x0 0x0 0x0 = some (.div 8 9 10 3) ∧
  decode 0x03084144 0x0 0x0 0x0 0x0 = some (.pltw 2 4 5) ∧
  decode 0x87F20000 0x31454000 0x0000E666 0x0 0x0 = some (.nmask gu 12 20 21 0xE666) ∧
  decode 0x90F10000 0x08000000 0x0 0x0 0x0 = some (.amov gu 2 false 0) ∧
  decode 0x9FF20000 0x14000000 0x50000000 0x0 0x0 = some (.fenceInst gu 5 2) ∧
  decode 0xA1F21000 0x2061C001 0x0 0x0 0x0 = some (.send gu 1 true 8 6 7) ∧
  decode 0xB2F22C00 0x14000000 0x00F00040 0x0 0x0 = some (.rget gu 2 12 5 0 15 0 0x40) ∧
  decode 0xB8F20000 0x14019801 0x00000002 0x0 0x0 = some (.sbindProd gu 5 6 0 2) ∧
  decode 0xBEF21000 0x14400000 0x0 0x0 0x0 = some (.coll gu 1 5 4) ∧
  decode 0x3C10700A 0x0 0x0 0x0 0x0 = some (.tlbinvAsid 7 2) ∧
  decode 0x99F11000 0x14400000 0x0 0x0 0x0 = some (.mrest gu 1 5 4) ∧
  decode 0 0 0 0 0 = none ∧ decode 0xFFFFFFFF 0 0 0 0 = none ∧
  decodeChunk 0 0x7000000000000000 = some .kend ∧
  decodeChunk 0 0x0200010018085000 =
    some (.data 0 { ba := 0, bb := 2, peer := 1, prel := false, cidx := 3, clen := 1, tag := 5, cstep := 0 })

/-- R352, R357, R431: after reset the device is in bring-up state 1, no channel is enabled, no hall stands, and no
core has a thread to run. Memory lists nothing, in canonical form (log entry 3). R9, R99 to R102, R352, R403, R411,
R418, R423 to R435: what the registers of system space read as after reset. The values of the attestation mailbox are
the model's (log entry 2). -/
def Obligations.ResetState : Prop :=
  (
  Mems.wf State.reset.mem = true ∧ State.reset.sys.bustat = 1 ∧ State.reset.fes.halls = [] ∧
  (∀ c, (State.reset.chan c).en = false) ∧
  (∀ ck, (State.reset.core ck).level = false ∧ (State.reset.core ck).pv = false ∧
    (State.reset.core ck).lv0.hold = .idle ∧ (State.reset.core ck).lv1.hold = .idle) ∧
  ∀ a, State.reset.mem.hbm.get 0 a = 0 ∧ State.reset.mem.errs.get 0 a = 0
  ) ∧
  (
  ∀ (r : SysReg), State.reset.regValue r = match r with
    | .link _ => 3
    | .port _ => 3
    | .bustat => 1
    | _ => 0
  )

/-- Every step keeps memory in its canonical form: addresses strictly rising, and no entry holding what an unlisted
address reads as (log entry 3). -/
def Obligations.StepKeepsMemoryCanonical : Prop :=
  ∀ (s t : State), Mems.wf s.mem = true → step s = .next t → Mems.wf t.mem = true

end
end

