-- ==== Sys2Proof/Laws/Map.lean ====
section
/-!
SUPPORT. The laws of finite maps: reading after writing, and that every operation keeps the canonical form.
-/

namespace Sys2Proof

variable {α : Type}

/-! ## Reading after writing -/

theorem SMap.get_put (d v : α) (k q : Nat) (m : SMap α) :
    (SMap.put k v m).get d q = if k = q then v else m.get d q := by
  induction m with
  | nil => simp [SMap.put, SMap.get]
  | cons e m ih =>
    obtain ⟨j, w⟩ := e
    unfold SMap.put
    split
    · simp [SMap.get]
    · split
      · rename_i h; subst h; simp only [SMap.get]; split <;> rfl
      · simp only [SMap.get, ih]
        split
        · rename_i h; subst h; rw [if_neg (by assumption)]
        · rfl

theorem SMap.get_put_same (d v : α) (k : Nat) (m : SMap α) : (SMap.put k v m).get d k = v := by
  simp [SMap.get_put]

theorem SMap.get_put_other (d v : α) {k q : Nat} (h : k ≠ q) (m : SMap α) :
    (SMap.put k v m).get d q = m.get d q := by
  simp [SMap.get_put, h]

theorem SMap.put_put (v w : α) (k : Nat) (m : SMap α) : SMap.put k v (SMap.put k w m) = SMap.put k v m := by
  induction m with
  | nil => simp [SMap.put]
  | cons e m ih =>
    obtain ⟨j, x⟩ := e
    by_cases h1 : k < j
    · simp [SMap.put, h1]
    · by_cases h2 : k = j
      · simp [SMap.put, h2]
      · simp [SMap.put, h1, h2, ih]

theorem SMap.get_erase (d : α) (k q : Nat) (m : SMap α) :
    (SMap.erase k m).get d q = if k = q then d else m.get d q := by
  induction m with
  | nil => simp [SMap.erase, SMap.get]
  | cons e m ih =>
    obtain ⟨j, w⟩ := e
    by_cases hj : j = k
    · subst hj
      simp only [SMap.erase, if_true, ih, SMap.get]
      split <;> simp
    · simp only [SMap.erase, if_neg hj, SMap.get, ih]
      by_cases hq : j = q
      · have : k ≠ q := fun h => hj (hq.trans h.symm)
        simp [hq, this]
      · simp [hq]

theorem SMap.get_set [DecidableEq α] (d v : α) (k q : Nat) (m : SMap α) :
    (SMap.set d k v m).get d q = if k = q then v else m.get d q := by
  unfold SMap.set
  split
  · rename_i h; rw [SMap.get_erase, h]
  · exact SMap.get_put d v k q m

/-! ## The canonical form -/

theorem SMap.sortedFrom_mono {lo : Nat} {m : SMap α} (h : SMap.sortedFrom (some lo) m = true) :
    SMap.sortedFrom none m = true := by
  cases m with
  | nil => rfl
  | cons e m => simp [SMap.sortedFrom] at h ⊢; exact h.2

theorem SMap.sortedFrom_le {lo hi : Nat} (hl : lo ≤ hi) {m : SMap α} (h : SMap.sortedFrom (some hi) m = true) :
    SMap.sortedFrom (some lo) m = true := by
  cases m with
  | nil => rfl
  | cons e m => simp [SMap.sortedFrom] at h ⊢; exact ⟨by omega, h.2⟩

theorem SMap.put_sortedFrom {lo : Option Nat} {k : Nat} (v : α) {m : SMap α}
    (hk : ∀ l, lo = some l → l < k) (h : SMap.sortedFrom lo m = true) :
    SMap.sortedFrom lo (SMap.put k v m) = true := by
  induction m generalizing lo with
  | nil => cases lo <;> simp_all [SMap.put, SMap.sortedFrom]
  | cons e m ih =>
    obtain ⟨j, w⟩ := e
    simp only [SMap.sortedFrom, Bool.and_eq_true] at h
    unfold SMap.put
    split
    · rename_i h1
      simp only [SMap.sortedFrom, Bool.and_eq_true, h.2, and_true, decide_eq_true_eq]
      exact ⟨by cases lo <;> simp_all, h1⟩
    · split
      · rename_i h2; subst h2
        simp only [SMap.sortedFrom, Bool.and_eq_true]
        exact ⟨by cases lo <;> simp_all, h.2⟩
      · simp only [SMap.sortedFrom, Bool.and_eq_true]
        refine ⟨h.1, ih (fun l hl => ?_) h.2⟩
        cases hl; omega

theorem SMap.erase_sortedFrom {lo : Option Nat} {k : Nat} {m : SMap α} (h : SMap.sortedFrom lo m = true) :
    SMap.sortedFrom lo (SMap.erase k m) = true := by
  induction m generalizing lo with
  | nil => exact h
  | cons e m ih =>
    obtain ⟨j, w⟩ := e
    simp only [SMap.sortedFrom, Bool.and_eq_true] at h
    unfold SMap.erase
    split
    · have := ih h.2
      cases lo with
      | none => exact SMap.sortedFrom_mono this
      | some l => exact SMap.sortedFrom_le (by have := h.1; simp at this; omega) this
    · simp only [SMap.sortedFrom, Bool.and_eq_true]
      exact ⟨h.1, ih h.2⟩

theorem SMap.filter_sortedFrom {lo : Option Nat} (p : Nat × α → Bool) {m : SMap α}
    (h : SMap.sortedFrom lo m = true) : SMap.sortedFrom lo (m.filter p) = true := by
  induction m generalizing lo with
  | nil => exact h
  | cons e m ih =>
    obtain ⟨j, w⟩ := e
    simp only [SMap.sortedFrom, Bool.and_eq_true] at h
    simp only [List.filter_cons]
    split
    · simp only [SMap.sortedFrom, Bool.and_eq_true]
      exact ⟨h.1, ih h.2⟩
    · have := ih h.2
      cases lo with
      | none => exact SMap.sortedFrom_mono this
      | some l => exact SMap.sortedFrom_le (by have := h.1; simp at this; omega) this

theorem SMap.mem_put {v : α} {k : Nat} {m : SMap α} {e : Nat × α} (h : e ∈ SMap.put k v m) : e = (k, v) ∨ e ∈ m := by
  induction m with
  | nil => simpa [SMap.put] using h
  | cons x m ih =>
    obtain ⟨j, w⟩ := x
    unfold SMap.put at h
    split at h
    · simpa using h
    · split at h
      · rcases List.mem_cons.mp h with h | h
        · exact .inl h
        · exact .inr (List.mem_cons_of_mem _ h)
      · rcases List.mem_cons.mp h with h | h
        · exact .inr (h ▸ List.mem_cons_self)
        · rcases ih h with h | h
          · exact .inl h
          · exact .inr (List.mem_cons_of_mem _ h)

theorem SMap.mem_erase {k : Nat} {m : SMap α} {e : Nat × α} (h : e ∈ SMap.erase k m) : e ∈ m := by
  induction m with
  | nil => exact h
  | cons x m ih =>
    obtain ⟨j, w⟩ := x
    unfold SMap.erase at h
    split at h
    · exact List.mem_cons_of_mem _ (ih h)
    · simp at h ⊢
      exact h.imp_right ih

theorem SMap.wf_nil [DecidableEq α] (d : α) : SMap.wf d ([] : SMap α) = true := rfl

theorem SMap.put_wf [DecidableEq α] {d v : α} (k : Nat) {m : SMap α} (hv : v ≠ d) (h : SMap.wf d m = true) :
    SMap.wf d (SMap.put k v m) = true := by
  simp only [SMap.wf, Bool.and_eq_true, List.all_eq_true, decide_eq_true_eq] at h ⊢
  refine ⟨SMap.put_sortedFrom v (fun l hl => by cases hl) h.1, fun e he => ?_⟩
  rcases SMap.mem_put he with rfl | he
  · exact hv
  · exact h.2 e he

theorem SMap.erase_wf [DecidableEq α] {d : α} (k : Nat) {m : SMap α} (h : SMap.wf d m = true) :
    SMap.wf d (SMap.erase k m) = true := by
  simp only [SMap.wf, Bool.and_eq_true, List.all_eq_true, decide_eq_true_eq] at h ⊢
  exact ⟨SMap.erase_sortedFrom h.1, fun e he => h.2 e (SMap.mem_erase he)⟩

theorem SMap.set_wf [DecidableEq α] (d v : α) (k : Nat) {m : SMap α} (h : SMap.wf d m = true) :
    SMap.wf d (SMap.set d k v m) = true := by
  unfold SMap.set
  split
  · exact SMap.erase_wf k h
  · rename_i hv; exact SMap.put_wf k hv h

theorem SMap.filter_wf [DecidableEq α] {d : α} (p : Nat × α → Bool) {m : SMap α} (h : SMap.wf d m = true) :
    SMap.wf d (m.filter p) = true := by
  simp only [SMap.wf, Bool.and_eq_true, List.all_eq_true, decide_eq_true_eq] at h ⊢
  exact ⟨SMap.filter_sortedFrom p h.1, fun e he => h.2 e (List.mem_filter.mp he).1⟩

theorem SMap.clear_wf [DecidableEq α] {d : α} (base len : Nat) {m : SMap α} (h : SMap.wf d m = true) :
    SMap.wf d (SMap.clear base len m) = true := SMap.filter_wf _ h

theorem SMap.get_filter_pos {d : α} (p : Nat → Bool) {q : Nat} (hp : p q = true) (m : SMap α) :
    SMap.get d (m.filter (fun e => p e.1)) q = m.get d q := by
  induction m with
  | nil => rfl
  | cons e m ih =>
    obtain ⟨j, w⟩ := e
    by_cases hj : p j = true
    · simp only [List.filter_cons, hj, if_true, SMap.get, ih]
    · have : j ≠ q := fun h => hj (h ▸ hp)
      simpa [List.filter_cons, hj, SMap.get, if_neg this] using ih

end Sys2Proof
end

