-- ==== Sys2Proof/Laws/Canonical.lean ====
section
/-!
SUPPORT. Every operation over memory keeps it in canonical form, and reset has it.
-/

namespace Sys2Proof

open Sys2Proof.Machine

/-- The canonical form, memory by memory. -/
theorem Mems.wf_iff (m : Mems) : Mems.wf m = true ↔
    SMap.wf 0 m.hbm = true ∧ SMap.wf 0 m.errs = true ∧ SMap.wf 0 m.host = true ∧ SMap.sortedFrom none m.spad = true ∧
    SMap.wf 0 m.vault = true ∧ SMap.wf 0 m.gal = true ∧ SMap.wf 0 m.land = true ∧ SMap.wf 0 m.tdata = true ∧
    SMap.wf 0 m.tscale = true ∧ SMap.wf 0 m.alcove = true := by
  simp [Mems.wf, Bool.and_eq_true, and_assoc]

/-- Reset memory is in canonical form. -/
theorem reset_mem_wf : Mems.wf State.reset.mem = true := by
  rw [Mems.wf_iff]; exact ⟨rfl, rfl, rfl, rfl, rfl, rfl, rfl, rfl, rfl, rfl⟩

/-! ## Maps -/

theorem writeBytes_wf {m : SMap Byte} (h : SMap.wf 0 m = true) (a n x : Nat) : SMap.wf 0 (writeBytes m a n x) = true := by
  induction n generalizing m a x with
  | zero => exact h
  | succ n ih => exact ih (SMap.set_wf 0 _ _ h) _ _

theorem putBytes_sorted {m : SMap Byte} (h : SMap.sortedFrom none m = true) (a n x : Nat) :
    SMap.sortedFrom none (putBytes m a n x) = true := by
  induction n generalizing m a x with
  | zero => exact h
  | succ n ih => exact ih (SMap.put_sortedFrom _ (fun _ e => by cases e) h) _ _

/-- What a fold does not break, it keeps. -/
theorem foldl_keeps {α β : Type} (P : β → Prop) {f : β → α → β} (hf : ∀ b a, P b → P (f b a)) (l : List α) {b : β} (h : P b) :
    P (l.foldl f b) := by
  induction l generalizing b with
  | nil => exact h
  | cons a l ih => exact ih (hf b a h)

/-! ## Changing one memory -/

section
variable {m : Mems} (h : Mems.wf m = true)
include h

theorem Mems.set_hbm {x : SMap Byte} (hx : SMap.wf 0 x = true) : Mems.wf { m with hbm := x } = true := by
  simp_all [Mems.wf_iff]
theorem Mems.set_errs {x : SMap Byte} (hx : SMap.wf 0 x = true) : Mems.wf { m with errs := x } = true := by
  simp_all [Mems.wf_iff]
theorem Mems.set_stored {x y : SMap Byte} (hx : SMap.wf 0 x = true) (hy : SMap.wf 0 y = true) (z : List Nat) :
    Mems.wf { m with hbm := x, errs := y, rewritten := z } = true := by
  simp_all [Mems.wf_iff]
theorem Mems.set_host {x : SMap Byte} (hx : SMap.wf 0 x = true) : Mems.wf { m with host := x } = true := by
  simp_all [Mems.wf_iff]
theorem Mems.set_spad {x : SMap Byte} (hx : SMap.sortedFrom none x = true) : Mems.wf { m with spad := x } = true := by
  simp_all [Mems.wf_iff]
theorem Mems.set_vault {x : SMap Byte} (hx : SMap.wf 0 x = true) : Mems.wf { m with vault := x } = true := by
  simp_all [Mems.wf_iff]
theorem Mems.set_gal {x : SMap Byte} (hx : SMap.wf 0 x = true) : Mems.wf { m with gal := x } = true := by
  simp_all [Mems.wf_iff]
theorem Mems.set_land {x : SMap Byte} (hx : SMap.wf 0 x = true) : Mems.wf { m with land := x } = true := by
  simp_all [Mems.wf_iff]
theorem Mems.set_tdata {x : SMap Byte} (hx : SMap.wf 0 x = true) : Mems.wf { m with tdata := x } = true := by
  simp_all [Mems.wf_iff]
theorem Mems.set_tscale {x : SMap Byte} (hx : SMap.wf 0 x = true) : Mems.wf { m with tscale := x } = true := by
  simp_all [Mems.wf_iff]
theorem Mems.set_alcove {x : SMap Word} (hx : SMap.wf 0 x = true) : Mems.wf { m with alcove := x } = true := by
  simp_all [Mems.wf_iff]
theorem Mems.set_poison (x y : List Nat) : Mems.wf { m with poison := x, rewritten := y } = true := by
  simp_all [Mems.wf_iff]

theorem Mems.hbm_wf : SMap.wf 0 m.hbm = true := ((Mems.wf_iff m).1 h).1
theorem Mems.errs_wf : SMap.wf 0 m.errs = true := ((Mems.wf_iff m).1 h).2.1
theorem Mems.host_wf : SMap.wf 0 m.host = true := ((Mems.wf_iff m).1 h).2.2.1
theorem Mems.spad_sorted : SMap.sortedFrom none m.spad = true := ((Mems.wf_iff m).1 h).2.2.2.1
theorem Mems.vault_wf : SMap.wf 0 m.vault = true := ((Mems.wf_iff m).1 h).2.2.2.2.1
theorem Mems.gal_wf : SMap.wf 0 m.gal = true := ((Mems.wf_iff m).1 h).2.2.2.2.2.1
theorem Mems.land_wf : SMap.wf 0 m.land = true := ((Mems.wf_iff m).1 h).2.2.2.2.2.2.1
theorem Mems.tdata_wf : SMap.wf 0 m.tdata = true := ((Mems.wf_iff m).1 h).2.2.2.2.2.2.2.1
theorem Mems.tscale_wf : SMap.wf 0 m.tscale = true := ((Mems.wf_iff m).1 h).2.2.2.2.2.2.2.2.1
theorem Mems.alcove_wf : SMap.wf 0 m.alcove = true := ((Mems.wf_iff m).1 h).2.2.2.2.2.2.2.2.2
end

/-! ## The stacks -/

section
variable {s : State} (h : Mems.wf s.mem = true)
include h

theorem setPoison_wf (line : Nat) (b : Bool) : Mems.wf (s.setPoison line b).mem = true := Mems.set_poison h _ _

theorem eccSector_wf (a : Nat) : Mems.wf (s.eccSector a).mem = true := by
  unfold State.eccSector
  dsimp only
  generalize List.filter _ _ = bad
  rcases bad with _ | ⟨i, _ | ⟨j, l⟩⟩
  · exact h
  · exact Mems.set_errs h (SMap.set_wf 0 _ _ (Mems.errs_wf h))
  · have hf := foldl_keeps (fun m => Mems.wf m = true)
      (f := fun (m : Mems) (i : Nat) => { m with hbm := m.hbm.set 0 (a + i) (m.hbm.get 0 (a + i) ^^^ m.errs.get 0 (a + i)),
                                                 errs := m.errs.set 0 (a + i) 0,
                                                 rewritten := m.rewritten.filter (fun c => c != (a + i) / 16) })
      (fun m i hm => Mems.set_stored hm (SMap.set_wf 0 _ _ (Mems.hbm_wf hm)) (SMap.set_wf 0 _ _ (Mems.errs_wf hm)) _)
      (i :: j :: l) h
    dsimp only
    split
    · exact hf
    · apply setPoison_wf; exact hf

theorem hbmRead_wf (line : Nat) : Mems.wf (s.hbmRead line).2.2.mem = true := by
  unfold State.hbmRead
  dsimp only
  split
  · exact h
  · exact eccSector_wf (eccSector_wf (eccSector_wf (eccSector_wf h _) _) _) _

theorem scrubLines_wf (ls : List Nat) : Mems.wf (s.scrubLines ls).mem = true := by
  induction ls generalizing s with
  | nil => exact h
  | cons l ls ih => exact ih (hbmRead_wf h l)

theorem hbmWrite_wf (line : Nat) (d : Vec) (p : Bool) : Mems.wf (s.hbmWrite line d p).mem = true := by
  have hw := writeBytes_wf (Mems.hbm_wf h) (line * 128) 128 d.toNat
  unfold State.hbmWrite
  apply setPoison_wf
  dsimp only [State.updMem]
  revert hw
  generalize writeBytes s.mem.hbm (line * 128) 128 d.toNat = w
  intro hw
  exact Mems.set_errs (Mems.set_hbm h hw) (SMap.clear_wf _ _ (Mems.errs_wf h))

theorem readChunks_wf (f : FWin) (g k : Nat) : Mems.wf (s.readChunks f g k).2.2.mem = true := by
  induction k with
  | zero => exact h
  | succ k ih => exact hbmRead_wf ih _

theorem fetchLine_wf (line : Nat) : Mems.wf (s.fetchLine line).2.2.mem = true := by
  unfold State.fetchLine
  split
  · exact hbmRead_wf h _
  · exact readChunks_wf h _ _ _

theorem writeChunk_wf (f : FWin) (g j x : Nat) : Mems.wf (s.writeChunk f g j x).mem = true := by
  have hw := hbmWrite_wf (hbmRead_wf h (lineOf (f.chunk g j))) (lineOf (f.chunk g j))
    (blend (s.hbmRead (lineOf (f.chunk g j))).1 (atByte x (f.chunk g j % 128)) (byteMask (f.chunk g j % 128) 16))
    (s.hbmRead (lineOf (f.chunk g j))).2.1
  unfold State.writeChunk
  dsimp only
  split
  · exact Mems.set_poison hw _ _
  · exact hw

theorem storeLine_wf (line : Nat) (d : Vec) (p : Bool) : Mems.wf (s.storeLine line d p).mem = true := by
  unfold State.storeLine
  split
  · exact hbmWrite_wf h _ _ _
  · rename_i f _
    split
    · exact h
    · exact setPoison_wf (foldl_keeps (fun (s : State) => Mems.wf s.mem = true) (fun s j hs => writeChunk_wf hs _ _ _ _) _ h) _ _

/-! ## The slices -/

omit h in
theorem notify_mem (l : Loc) (n : Nat) : (s.notify l n).mem = s.mem := by
  have hf : ∀ (ms : List Mon) (t : State), (ms.foldl (fun s m => s.updCore m.core (fun c => c.arrive m.pend 0 {})) t).mem = t.mem := by
    intro ms
    induction ms with
    | nil => intro t; rfl
    | cons m ms ih => intro t; exact ih _
  unfold State.notify
  dsimp only
  cases l <;> dsimp only <;> split <;> (try split) <;> first | rfl | exact hf _ _

omit h in
theorem addFails_mem (l : Loc) (p : Bool) (os : List (Nat × Bool)) : (s.addFails l p os).mem = s.mem := by
  unfold State.addFails
  induction os generalizing s with
  | nil => rfl
  | cons o os ih => exact ih (s := s.addFail o.1 o.2 l p)

theorem rawLine_wf (line : Nat) : Mems.wf (s.rawLine line).2.2.mem = true := by
  unfold State.rawLine
  split
  · exact h
  · exact fetchLine_wf h _

theorem putRaw_wf (line : Nat) (d : Vec) (p : Bool) : Mems.wf (s.putRaw line d p).mem = true := by
  unfold State.putRaw
  split
  · exact h
  · exact storeLine_wf h _ _ _

theorem combine_wf (line : Nat) (bays : List Nat) : Mems.wf (s.combine line bays).mem = true := by
  unfold State.combine
  dsimp only
  split
  · exact h
  · rw [notify_mem]
    have hd := foldl_keeps (fun (s : State) => Mems.wf s.mem = true) (f := fun s bk => s.dropU line bk) (fun _ _ hs => hs) bays
      (putRaw_wf (rawLine_wf h line) line
        ((bays.filterMap (fun bk => (s.bay bk).uline? line)).foldl (fun d u => u.combine d) (s.rawLine line).1) (s.rawLine line).2.1)
    split
    · exact foldl_keeps (fun (s : State) => Mems.wf s.mem = true) (fun s u hs => by rw [addFails_mem]; exact hs) _ hd
    · exact hd

theorem loseU_wf (line bk : Nat) : Mems.wf (s.loseU line bk).mem = true := by
  unfold State.loseU
  exact foldl_keeps (fun (s : State) => Mems.wf s.mem = true) (fun s u hs => by rw [addFails_mem]; exact hs) _ h

theorem recall_wf (line : Nat) : Mems.wf (s.recall line).mem = true := by
  unfold State.recall
  exact combine_wf (foldl_keeps (fun (s : State) => Mems.wf s.mem = true) (fun s bk hs => loseU_wf hs _ _) _ h) _ _

theorem evictLine_wf (line : Nat) : Mems.wf (s.evictLine line).mem = true := by
  unfold State.evictLine
  dsimp only
  split
  · exact recall_wf h _
  · split
    · exact storeLine_wf (recall_wf h _) _ _ _
    · exact recall_wf h _

theorem makeRoom_wf (line : Nat) : Mems.wf (s.makeRoom line).mem = true := by
  unfold State.makeRoom
  split
  · exact h
  · exact evictLine_wf h _

theorem install_wf (line : Nat) (d : Vec) (p q : Bool) (r : Hint) : Mems.wf (s.install line d p q r).mem = true :=
  makeRoom_wf h _

theorem sliceRead_wf (line : Nat) (r : Hint) : Mems.wf (s.sliceRead line r).2.2.mem = true := by
  unfold State.sliceRead
  dsimp only
  split
  · exact recall_wf h _
  · split
    · exact fetchLine_wf (recall_wf h _) _
    · exact install_wf (fetchLine_wf (recall_wf h _) _) _ _ _ _ _

omit h in
theorem bumpSsn_mem (k : Nat) : (s.bumpSsn k).mem = s.mem := rfl

/-- A line written back or brought in. -/
theorem putBack_wf (c : Prop) [Decidable c] (line : Nat) (d : Vec) (p q : Bool) (r : Hint) :
    Mems.wf (if c then s.storeLine line d p else s.install line d p q r).mem = true := by
  split
  · exact storeLine_wf h _ _ _
  · exact install_wf h _ _ _ _ _

theorem sliceWrite_wf (line : Nat) (d mask : Vec) (r : Hint) : Mems.wf (s.sliceWrite line d mask r).2.mem = true := by
  unfold State.sliceWrite
  dsimp only
  split
  · rw [notify_mem, bumpSsn_mem]; exact recall_wf h _
  · split
    · rw [notify_mem, bumpSsn_mem]; exact putBack_wf (recall_wf h _) _ _ _ _ _ _
    · rw [notify_mem, bumpSsn_mem]; exact putBack_wf (fetchLine_wf (recall_wf h _) _) _ _ _ _ _ _

theorem hostWrite_wf (pa n x : Nat) : Mems.wf (s.hostWrite pa n x).mem = true :=
  Mems.set_host h (writeBytes_wf (Mems.host_wf h) _ _ _)

theorem lineRead_wf (pa n : Nat) (r : Hint) : Mems.wf (s.lineRead pa n r).2.2.mem = true := by
  unfold State.lineRead
  split
  · exact h
  · exact sliceRead_wf h _ _

theorem lineWrite_wf (pa n x : Nat) (r : Hint) : Mems.wf (s.lineWrite pa n x r).2.mem = true := by
  unfold State.lineWrite
  split
  · rw [notify_mem]; exact hostWrite_wf h _ _ _
  · exact sliceWrite_wf h _ _ _ _

theorem logRefusal_wf (pa kind : Nat) (r : Rqst) : Mems.wf (s.logRefusal pa kind r).mem = true := h

theorem engRead_wf (placed : Bool) (r : Rqst) (kind pa n : Nat) (hint : Hint) :
    Mems.wf (s.engRead placed r kind pa n hint).2.mem = true := by
  unfold State.engRead
  split
  · exact h
  · exact h
  · split
    · exact h
    · split
      · exact h
      · exact lineRead_wf h _ _ _

theorem engWrite_wf (placed : Bool) (r : Rqst) (kind pa n x : Nat) (hint : Hint) :
    Mems.wf (s.engWrite placed r kind pa n x hint).2.mem = true := by
  unfold State.engWrite
  split
  · exact h
  · exact h
  · split
    · exact h
    · split
      · exact h
      · split
        · exact h
        · split
          · exact h
          · exact lineWrite_wf h _ _ _ _

/-! ## The core memories -/

theorem locWrite_wf (l : Loc) (n x : Nat) : Mems.wf (s.locWrite l n x).mem = true := by
  unfold State.locWrite
  rw [notify_mem]
  cases l with
  | spad c o => exact Mems.set_spad h (putBytes_sorted (Mems.spad_sorted h) _ _ _)
  | vault v o => exact Mems.set_vault h (writeBytes_wf (Mems.vault_wf h) _ _ _)
  | gal t o => exact Mems.set_gal h (writeBytes_wf (Mems.gal_wf h) _ _ _)
  | glob a => exact h

theorem locWriteMasked_wf (l : Loc) (d : Vec) (b : BitVec 128) : Mems.wf (s.locWriteMasked l d b).mem = true := locWrite_wf h _ _ _

theorem putRec_wf (tile off : Nat) (r : Rec) : Mems.wf (s.putRec tile off r).mem = true := by
  unfold State.putRec
  rw [notify_mem]
  exact Mems.set_vault h (writeBytes_wf (Mems.vault_wf h) _ _ _)

theorem nmWrite_wf (pa n x : Nat) : Mems.wf (s.nmWrite pa n x).mem = true := by
  have hw : Mems.wf (s.updMem (fun m => { m with hbm := writeBytes m.hbm pa n x, errs := m.errs.clear pa n })).mem = true :=
    Mems.set_stored h (writeBytes_wf (Mems.hbm_wf h) _ _ _) (SMap.clear_wf _ _ (Mems.errs_wf h)) _
  unfold State.nmWrite
  rw [notify_mem, bumpSsn_mem]
  split
  · exact setPoison_wf hw _ _
  · exact hw

theorem putTileRow_wf (bk t r o n x : Nat) : Mems.wf (s.putTileRow bk t r o n x).mem = true :=
  Mems.set_tdata h (writeBytes_wf (Mems.tdata_wf h) _ _ _)

theorem putScaleRow_wf (bk t r x : Nat) : Mems.wf (s.putScaleRow bk t r x).mem = true :=
  Mems.set_tscale h (writeBytes_wf (Mems.tscale_wf h) _ _ _)

theorem clearTile_wf (bk t : Nat) : Mems.wf (s.clearTile bk t).mem = true :=
  Mems.set_tscale (Mems.set_tdata h (SMap.clear_wf _ _ (Mems.tdata_wf h))) (SMap.clear_wf _ _ (Mems.tscale_wf h))

theorem putAlcove_wf (bk w e x : Nat) : Mems.wf (s.putAlcove bk w e x).mem = true := by
  induction e generalizing s w x with
  | zero => exact h
  | succ e ih =>
    exact ih (s := s.updMem (fun m => { m with alcove := m.alcove.set 0 (bk * alcoveWords + w) (word (x % 2 ^ 32)) }))
      (Mems.set_alcove h (SMap.set_wf 0 _ _ (Mems.alcove_wf h))) _ _

theorem takeLanding_wf (tile step : Nat) : Mems.wf (s.takeLanding tile step).mem = true := by
  have hg := SMap.filter_wf (fun e => e.1 / 2 ^ 14 == tile) (Mems.gal_wf h)
  have hn : ∀ e ∈ s.mem.gal.filter (fun e => e.1 / 2 ^ 14 == tile), e.2 ≠ 0 := by
    intro e he
    have := hg
    simp only [SMap.wf, Bool.and_eq_true, List.all_eq_true, decide_eq_true_eq] at this
    exact this.2 e he
  have hl : ∀ (g : SMap Byte), (∀ e ∈ g, e.2 ≠ 0) → ∀ (l : SMap Byte), SMap.wf 0 l = true →
      SMap.wf 0 (g.foldl (fun l e => l.put (landAddr tile (step % 8) 0 + e.1 % 2 ^ 14) e.2) l) = true := by
    intro g
    induction g with
    | nil => intro _ l hl; exact hl
    | cons e g ih =>
      intro hg l hl
      exact ih (fun x hx => hg x (List.mem_cons_of_mem _ hx)) _ (SMap.put_wf _ (hg e (List.mem_cons_self ..)) hl)
  have := hl _ hn _ (SMap.clear_wf (landAddr tile (step % 8) 0) galSize (Mems.land_wf h))
  unfold State.takeLanding
  simp_all [Mems.wf_iff, State.updMem]

theorem softError_wf (sector : Nat) (p : BitVec 256) : Mems.wf (s.softError sector p).mem = true := by
  unfold State.softError
  split
  · exact h
  · exact Mems.set_errs h (foldl_keeps (fun m => SMap.wf 0 m = true) (fun m i hm => SMap.set_wf 0 _ _ hm) _ (Mems.errs_wf h))

end

theorem atStart_wf {m : Mems} (h : Mems.wf m = true) (t : Nat) : Mems.wf (m.atStart t) = true := by
  unfold Mems.atStart
  simp_all [Mems.wf_iff, SMap.clear_wf]
  exact SMap.filter_sortedFrom _ h.2.2.2.1

theorem image_load_wf {m : Mems} (h : Mems.wf m = true) (img : BayImage) (bk : Nat) : Mems.wf (img.load bk m) = true :=
  Mems.set_alcove h (foldl_keeps (fun m => SMap.wf 0 m = true) (fun _ _ hm => SMap.set_wf 0 _ _ hm) _
    (SMap.clear_wf _ _ (Mems.alcove_wf h)))

theorem putLines_wf {s : State} (h : Mems.wf s.mem = true) (pa : Nat) (f : Nat → Byte) (n : Nat) :
    Mems.wf (s.putLines pa f n).mem = true := by
  induction n with
  | zero => exact h
  | succ n ih => exact engWrite_wf ih _ _ _ _ _ _ _

theorem takeLines_wf {s : State} (h : Mems.wf s.mem = true) (pa : Nat) {w : Nat → Nat → Mems → Mems}
    (hw : ∀ o x m, Mems.wf m = true → Mems.wf (w o x m) = true) (n : Nat) : Mems.wf (s.takeLines pa w n).mem = true := by
  induction n with
  | zero => exact h
  | succ n ih =>
    have hr := engRead_wf ih false saveRqst kERead (pa + 128 * n) 128 .df
    unfold State.takeLines
    dsimp only
    split
    · rename_i heq; rw [heq] at hr; exact hw _ _ _ hr
    · rename_i heq; rw [heq] at hr; exact hr

theorem lineBytes_wf {s : State} (h : Mems.wf s.mem = true) (pa n : Nat) : Mems.wf (s.lineBytes pa n).2.mem = true := by
  induction n with
  | zero => exact h
  | succ n ih =>
    have hr := engRead_wf ih false saveRqst kERead (pa + 128 * n) 128 .df
    unfold State.lineBytes
    dsimp only
    split
    · rename_i heq; rw [heq] at hr; exact hr
    · rename_i heq; rw [heq] at hr; exact hr

end Sys2Proof
end

