-- ==== Sys2Proof/Laws/State.lean ====
section
/-!
SUPPORT. What each update of the state leaves in each field, one lemma per field and update, so that no proof unfolds a
record update; and reading a unit after an update of one.
-/

namespace Sys2Proof.Machine

open Sys2Proof

variable (s : State)

/-! ## setCore -/

@[simp] theorem State.setCore_agenda (k : Nat) (x : Core) : (s.setCore k x).agenda = s.agenda := rfl
@[simp] theorem State.setCore_stepNo (k : Nat) (x : Core) : (s.setCore k x).stepNo = s.stepNo := rfl
@[simp] theorem State.setCore_ctr (k : Nat) (x : Core) : (s.setCore k x).ctr = s.ctr := rfl
@[simp] theorem State.setCore_cycle (k : Nat) (x : Core) : (s.setCore k x).cycle = s.cycle := rfl
@[simp] theorem State.setCore_closing (k : Nat) (x : Core) : (s.setCore k x).closing = s.closing := rfl
@[simp] theorem State.setCore_cur (k : Nat) (x : Core) : (s.setCore k x).cur = s.cur := rfl
@[simp] theorem State.setCore_cores (k : Nat) (x : Core) : (s.setCore k x).cores = s.cores.put k x := rfl
@[simp] theorem State.setCore_bays (k : Nat) (x : Core) : (s.setCore k x).bays = s.bays := rfl
@[simp] theorem State.setCore_tiles (k : Nat) (x : Core) : (s.setCore k x).tiles = s.tiles := rfl
@[simp] theorem State.setCore_slices (k : Nat) (x : Core) : (s.setCore k x).slices = s.slices := rfl
@[simp] theorem State.setCore_mem (k : Nat) (x : Core) : (s.setCore k x).mem = s.mem := rfl
@[simp] theorem State.setCore_flight (k : Nat) (x : Core) : (s.setCore k x).flight = s.flight := rfl
@[simp] theorem State.setCore_cmds (k : Nat) (x : Core) : (s.setCore k x).cmds = s.cmds := rfl
@[simp] theorem State.setCore_fills (k : Nat) (x : Core) : (s.setCore k x).fills = s.fills := rfl
@[simp] theorem State.setCore_pushes (k : Nat) (x : Core) : (s.setCore k x).pushes = s.pushes := rfl
@[simp] theorem State.setCore_parks (k : Nat) (x : Core) : (s.setCore k x).parks = s.parks := rfl
@[simp] theorem State.setCore_gmsgs (k : Nat) (x : Core) : (s.setCore k x).gmsgs = s.gmsgs := rfl
@[simp] theorem State.setCore_qflight (k : Nat) (x : Core) : (s.setCore k x).qflight = s.qflight := rfl
@[simp] theorem State.setCore_sys (k : Nat) (x : Core) : (s.setCore k x).sys = s.sys := rfl
@[simp] theorem State.setCore_fes (k : Nat) (x : Core) : (s.setCore k x).fes = s.fes := rfl

/-! ## updCore -/

@[simp] theorem State.updCore_agenda (k : Nat) (f : Core → Core) : (s.updCore k f).agenda = s.agenda := rfl
@[simp] theorem State.updCore_stepNo (k : Nat) (f : Core → Core) : (s.updCore k f).stepNo = s.stepNo := rfl
@[simp] theorem State.updCore_ctr (k : Nat) (f : Core → Core) : (s.updCore k f).ctr = s.ctr := rfl
@[simp] theorem State.updCore_cycle (k : Nat) (f : Core → Core) : (s.updCore k f).cycle = s.cycle := rfl
@[simp] theorem State.updCore_closing (k : Nat) (f : Core → Core) : (s.updCore k f).closing = s.closing := rfl
@[simp] theorem State.updCore_cur (k : Nat) (f : Core → Core) : (s.updCore k f).cur = s.cur := rfl
@[simp] theorem State.updCore_cores (k : Nat) (f : Core → Core) : (s.updCore k f).cores = s.cores.put k (f (s.core k)) := rfl
@[simp] theorem State.updCore_bays (k : Nat) (f : Core → Core) : (s.updCore k f).bays = s.bays := rfl
@[simp] theorem State.updCore_tiles (k : Nat) (f : Core → Core) : (s.updCore k f).tiles = s.tiles := rfl
@[simp] theorem State.updCore_slices (k : Nat) (f : Core → Core) : (s.updCore k f).slices = s.slices := rfl
@[simp] theorem State.updCore_mem (k : Nat) (f : Core → Core) : (s.updCore k f).mem = s.mem := rfl
@[simp] theorem State.updCore_flight (k : Nat) (f : Core → Core) : (s.updCore k f).flight = s.flight := rfl
@[simp] theorem State.updCore_cmds (k : Nat) (f : Core → Core) : (s.updCore k f).cmds = s.cmds := rfl
@[simp] theorem State.updCore_fills (k : Nat) (f : Core → Core) : (s.updCore k f).fills = s.fills := rfl
@[simp] theorem State.updCore_pushes (k : Nat) (f : Core → Core) : (s.updCore k f).pushes = s.pushes := rfl
@[simp] theorem State.updCore_parks (k : Nat) (f : Core → Core) : (s.updCore k f).parks = s.parks := rfl
@[simp] theorem State.updCore_gmsgs (k : Nat) (f : Core → Core) : (s.updCore k f).gmsgs = s.gmsgs := rfl
@[simp] theorem State.updCore_qflight (k : Nat) (f : Core → Core) : (s.updCore k f).qflight = s.qflight := rfl
@[simp] theorem State.updCore_sys (k : Nat) (f : Core → Core) : (s.updCore k f).sys = s.sys := rfl
@[simp] theorem State.updCore_fes (k : Nat) (f : Core → Core) : (s.updCore k f).fes = s.fes := rfl

/-! ## updMe -/

@[simp] theorem State.updMe_agenda (f : Core → Core) : (s.updMe f).agenda = s.agenda := rfl
@[simp] theorem State.updMe_stepNo (f : Core → Core) : (s.updMe f).stepNo = s.stepNo := rfl
@[simp] theorem State.updMe_ctr (f : Core → Core) : (s.updMe f).ctr = s.ctr := rfl
@[simp] theorem State.updMe_cycle (f : Core → Core) : (s.updMe f).cycle = s.cycle := rfl
@[simp] theorem State.updMe_closing (f : Core → Core) : (s.updMe f).closing = s.closing := rfl
@[simp] theorem State.updMe_cur (f : Core → Core) : (s.updMe f).cur = s.cur := rfl
@[simp] theorem State.updMe_cores (f : Core → Core) : (s.updMe f).cores = s.cores.put s.cur (f s.me) := rfl
@[simp] theorem State.updMe_bays (f : Core → Core) : (s.updMe f).bays = s.bays := rfl
@[simp] theorem State.updMe_tiles (f : Core → Core) : (s.updMe f).tiles = s.tiles := rfl
@[simp] theorem State.updMe_slices (f : Core → Core) : (s.updMe f).slices = s.slices := rfl
@[simp] theorem State.updMe_mem (f : Core → Core) : (s.updMe f).mem = s.mem := rfl
@[simp] theorem State.updMe_flight (f : Core → Core) : (s.updMe f).flight = s.flight := rfl
@[simp] theorem State.updMe_cmds (f : Core → Core) : (s.updMe f).cmds = s.cmds := rfl
@[simp] theorem State.updMe_fills (f : Core → Core) : (s.updMe f).fills = s.fills := rfl
@[simp] theorem State.updMe_pushes (f : Core → Core) : (s.updMe f).pushes = s.pushes := rfl
@[simp] theorem State.updMe_parks (f : Core → Core) : (s.updMe f).parks = s.parks := rfl
@[simp] theorem State.updMe_gmsgs (f : Core → Core) : (s.updMe f).gmsgs = s.gmsgs := rfl
@[simp] theorem State.updMe_qflight (f : Core → Core) : (s.updMe f).qflight = s.qflight := rfl
@[simp] theorem State.updMe_sys (f : Core → Core) : (s.updMe f).sys = s.sys := rfl
@[simp] theorem State.updMe_fes (f : Core → Core) : (s.updMe f).fes = s.fes := rfl

/-! ## setBay -/

@[simp] theorem State.setBay_agenda (k : Nat) (x : Bay) : (s.setBay k x).agenda = s.agenda := rfl
@[simp] theorem State.setBay_stepNo (k : Nat) (x : Bay) : (s.setBay k x).stepNo = s.stepNo := rfl
@[simp] theorem State.setBay_ctr (k : Nat) (x : Bay) : (s.setBay k x).ctr = s.ctr := rfl
@[simp] theorem State.setBay_cycle (k : Nat) (x : Bay) : (s.setBay k x).cycle = s.cycle := rfl
@[simp] theorem State.setBay_closing (k : Nat) (x : Bay) : (s.setBay k x).closing = s.closing := rfl
@[simp] theorem State.setBay_cur (k : Nat) (x : Bay) : (s.setBay k x).cur = s.cur := rfl
@[simp] theorem State.setBay_cores (k : Nat) (x : Bay) : (s.setBay k x).cores = s.cores := rfl
@[simp] theorem State.setBay_bays (k : Nat) (x : Bay) : (s.setBay k x).bays = s.bays.put k x := rfl
@[simp] theorem State.setBay_tiles (k : Nat) (x : Bay) : (s.setBay k x).tiles = s.tiles := rfl
@[simp] theorem State.setBay_slices (k : Nat) (x : Bay) : (s.setBay k x).slices = s.slices := rfl
@[simp] theorem State.setBay_mem (k : Nat) (x : Bay) : (s.setBay k x).mem = s.mem := rfl
@[simp] theorem State.setBay_flight (k : Nat) (x : Bay) : (s.setBay k x).flight = s.flight := rfl
@[simp] theorem State.setBay_cmds (k : Nat) (x : Bay) : (s.setBay k x).cmds = s.cmds := rfl
@[simp] theorem State.setBay_fills (k : Nat) (x : Bay) : (s.setBay k x).fills = s.fills := rfl
@[simp] theorem State.setBay_pushes (k : Nat) (x : Bay) : (s.setBay k x).pushes = s.pushes := rfl
@[simp] theorem State.setBay_parks (k : Nat) (x : Bay) : (s.setBay k x).parks = s.parks := rfl
@[simp] theorem State.setBay_gmsgs (k : Nat) (x : Bay) : (s.setBay k x).gmsgs = s.gmsgs := rfl
@[simp] theorem State.setBay_qflight (k : Nat) (x : Bay) : (s.setBay k x).qflight = s.qflight := rfl
@[simp] theorem State.setBay_sys (k : Nat) (x : Bay) : (s.setBay k x).sys = s.sys := rfl
@[simp] theorem State.setBay_fes (k : Nat) (x : Bay) : (s.setBay k x).fes = s.fes := rfl

/-! ## updBay -/

@[simp] theorem State.updBay_agenda (k : Nat) (f : Bay → Bay) : (s.updBay k f).agenda = s.agenda := rfl
@[simp] theorem State.updBay_stepNo (k : Nat) (f : Bay → Bay) : (s.updBay k f).stepNo = s.stepNo := rfl
@[simp] theorem State.updBay_ctr (k : Nat) (f : Bay → Bay) : (s.updBay k f).ctr = s.ctr := rfl
@[simp] theorem State.updBay_cycle (k : Nat) (f : Bay → Bay) : (s.updBay k f).cycle = s.cycle := rfl
@[simp] theorem State.updBay_closing (k : Nat) (f : Bay → Bay) : (s.updBay k f).closing = s.closing := rfl
@[simp] theorem State.updBay_cur (k : Nat) (f : Bay → Bay) : (s.updBay k f).cur = s.cur := rfl
@[simp] theorem State.updBay_cores (k : Nat) (f : Bay → Bay) : (s.updBay k f).cores = s.cores := rfl
@[simp] theorem State.updBay_bays (k : Nat) (f : Bay → Bay) : (s.updBay k f).bays = s.bays.put k (f (s.bay k)) := rfl
@[simp] theorem State.updBay_tiles (k : Nat) (f : Bay → Bay) : (s.updBay k f).tiles = s.tiles := rfl
@[simp] theorem State.updBay_slices (k : Nat) (f : Bay → Bay) : (s.updBay k f).slices = s.slices := rfl
@[simp] theorem State.updBay_mem (k : Nat) (f : Bay → Bay) : (s.updBay k f).mem = s.mem := rfl
@[simp] theorem State.updBay_flight (k : Nat) (f : Bay → Bay) : (s.updBay k f).flight = s.flight := rfl
@[simp] theorem State.updBay_cmds (k : Nat) (f : Bay → Bay) : (s.updBay k f).cmds = s.cmds := rfl
@[simp] theorem State.updBay_fills (k : Nat) (f : Bay → Bay) : (s.updBay k f).fills = s.fills := rfl
@[simp] theorem State.updBay_pushes (k : Nat) (f : Bay → Bay) : (s.updBay k f).pushes = s.pushes := rfl
@[simp] theorem State.updBay_parks (k : Nat) (f : Bay → Bay) : (s.updBay k f).parks = s.parks := rfl
@[simp] theorem State.updBay_gmsgs (k : Nat) (f : Bay → Bay) : (s.updBay k f).gmsgs = s.gmsgs := rfl
@[simp] theorem State.updBay_qflight (k : Nat) (f : Bay → Bay) : (s.updBay k f).qflight = s.qflight := rfl
@[simp] theorem State.updBay_sys (k : Nat) (f : Bay → Bay) : (s.updBay k f).sys = s.sys := rfl
@[simp] theorem State.updBay_fes (k : Nat) (f : Bay → Bay) : (s.updBay k f).fes = s.fes := rfl

/-! ## setTile -/

@[simp] theorem State.setTile_agenda (k : Nat) (x : Tile) : (s.setTile k x).agenda = s.agenda := rfl
@[simp] theorem State.setTile_stepNo (k : Nat) (x : Tile) : (s.setTile k x).stepNo = s.stepNo := rfl
@[simp] theorem State.setTile_ctr (k : Nat) (x : Tile) : (s.setTile k x).ctr = s.ctr := rfl
@[simp] theorem State.setTile_cycle (k : Nat) (x : Tile) : (s.setTile k x).cycle = s.cycle := rfl
@[simp] theorem State.setTile_closing (k : Nat) (x : Tile) : (s.setTile k x).closing = s.closing := rfl
@[simp] theorem State.setTile_cur (k : Nat) (x : Tile) : (s.setTile k x).cur = s.cur := rfl
@[simp] theorem State.setTile_cores (k : Nat) (x : Tile) : (s.setTile k x).cores = s.cores := rfl
@[simp] theorem State.setTile_bays (k : Nat) (x : Tile) : (s.setTile k x).bays = s.bays := rfl
@[simp] theorem State.setTile_tiles (k : Nat) (x : Tile) : (s.setTile k x).tiles = s.tiles.put k x := rfl
@[simp] theorem State.setTile_slices (k : Nat) (x : Tile) : (s.setTile k x).slices = s.slices := rfl
@[simp] theorem State.setTile_mem (k : Nat) (x : Tile) : (s.setTile k x).mem = s.mem := rfl
@[simp] theorem State.setTile_flight (k : Nat) (x : Tile) : (s.setTile k x).flight = s.flight := rfl
@[simp] theorem State.setTile_cmds (k : Nat) (x : Tile) : (s.setTile k x).cmds = s.cmds := rfl
@[simp] theorem State.setTile_fills (k : Nat) (x : Tile) : (s.setTile k x).fills = s.fills := rfl
@[simp] theorem State.setTile_pushes (k : Nat) (x : Tile) : (s.setTile k x).pushes = s.pushes := rfl
@[simp] theorem State.setTile_parks (k : Nat) (x : Tile) : (s.setTile k x).parks = s.parks := rfl
@[simp] theorem State.setTile_gmsgs (k : Nat) (x : Tile) : (s.setTile k x).gmsgs = s.gmsgs := rfl
@[simp] theorem State.setTile_qflight (k : Nat) (x : Tile) : (s.setTile k x).qflight = s.qflight := rfl
@[simp] theorem State.setTile_sys (k : Nat) (x : Tile) : (s.setTile k x).sys = s.sys := rfl
@[simp] theorem State.setTile_fes (k : Nat) (x : Tile) : (s.setTile k x).fes = s.fes := rfl

/-! ## updTile -/

@[simp] theorem State.updTile_agenda (k : Nat) (f : Tile → Tile) : (s.updTile k f).agenda = s.agenda := rfl
@[simp] theorem State.updTile_stepNo (k : Nat) (f : Tile → Tile) : (s.updTile k f).stepNo = s.stepNo := rfl
@[simp] theorem State.updTile_ctr (k : Nat) (f : Tile → Tile) : (s.updTile k f).ctr = s.ctr := rfl
@[simp] theorem State.updTile_cycle (k : Nat) (f : Tile → Tile) : (s.updTile k f).cycle = s.cycle := rfl
@[simp] theorem State.updTile_closing (k : Nat) (f : Tile → Tile) : (s.updTile k f).closing = s.closing := rfl
@[simp] theorem State.updTile_cur (k : Nat) (f : Tile → Tile) : (s.updTile k f).cur = s.cur := rfl
@[simp] theorem State.updTile_cores (k : Nat) (f : Tile → Tile) : (s.updTile k f).cores = s.cores := rfl
@[simp] theorem State.updTile_bays (k : Nat) (f : Tile → Tile) : (s.updTile k f).bays = s.bays := rfl
@[simp] theorem State.updTile_tiles (k : Nat) (f : Tile → Tile) : (s.updTile k f).tiles = s.tiles.put k (f (s.tile k)) := rfl
@[simp] theorem State.updTile_slices (k : Nat) (f : Tile → Tile) : (s.updTile k f).slices = s.slices := rfl
@[simp] theorem State.updTile_mem (k : Nat) (f : Tile → Tile) : (s.updTile k f).mem = s.mem := rfl
@[simp] theorem State.updTile_flight (k : Nat) (f : Tile → Tile) : (s.updTile k f).flight = s.flight := rfl
@[simp] theorem State.updTile_cmds (k : Nat) (f : Tile → Tile) : (s.updTile k f).cmds = s.cmds := rfl
@[simp] theorem State.updTile_fills (k : Nat) (f : Tile → Tile) : (s.updTile k f).fills = s.fills := rfl
@[simp] theorem State.updTile_pushes (k : Nat) (f : Tile → Tile) : (s.updTile k f).pushes = s.pushes := rfl
@[simp] theorem State.updTile_parks (k : Nat) (f : Tile → Tile) : (s.updTile k f).parks = s.parks := rfl
@[simp] theorem State.updTile_gmsgs (k : Nat) (f : Tile → Tile) : (s.updTile k f).gmsgs = s.gmsgs := rfl
@[simp] theorem State.updTile_qflight (k : Nat) (f : Tile → Tile) : (s.updTile k f).qflight = s.qflight := rfl
@[simp] theorem State.updTile_sys (k : Nat) (f : Tile → Tile) : (s.updTile k f).sys = s.sys := rfl
@[simp] theorem State.updTile_fes (k : Nat) (f : Tile → Tile) : (s.updTile k f).fes = s.fes := rfl

/-! ## setSlice -/

@[simp] theorem State.setSlice_agenda (k : Nat) (x : Slice) : (s.setSlice k x).agenda = s.agenda := rfl
@[simp] theorem State.setSlice_stepNo (k : Nat) (x : Slice) : (s.setSlice k x).stepNo = s.stepNo := rfl
@[simp] theorem State.setSlice_ctr (k : Nat) (x : Slice) : (s.setSlice k x).ctr = s.ctr := rfl
@[simp] theorem State.setSlice_cycle (k : Nat) (x : Slice) : (s.setSlice k x).cycle = s.cycle := rfl
@[simp] theorem State.setSlice_closing (k : Nat) (x : Slice) : (s.setSlice k x).closing = s.closing := rfl
@[simp] theorem State.setSlice_cur (k : Nat) (x : Slice) : (s.setSlice k x).cur = s.cur := rfl
@[simp] theorem State.setSlice_cores (k : Nat) (x : Slice) : (s.setSlice k x).cores = s.cores := rfl
@[simp] theorem State.setSlice_bays (k : Nat) (x : Slice) : (s.setSlice k x).bays = s.bays := rfl
@[simp] theorem State.setSlice_tiles (k : Nat) (x : Slice) : (s.setSlice k x).tiles = s.tiles := rfl
@[simp] theorem State.setSlice_slices (k : Nat) (x : Slice) : (s.setSlice k x).slices = s.slices.put k x := rfl
@[simp] theorem State.setSlice_mem (k : Nat) (x : Slice) : (s.setSlice k x).mem = s.mem := rfl
@[simp] theorem State.setSlice_flight (k : Nat) (x : Slice) : (s.setSlice k x).flight = s.flight := rfl
@[simp] theorem State.setSlice_cmds (k : Nat) (x : Slice) : (s.setSlice k x).cmds = s.cmds := rfl
@[simp] theorem State.setSlice_fills (k : Nat) (x : Slice) : (s.setSlice k x).fills = s.fills := rfl
@[simp] theorem State.setSlice_pushes (k : Nat) (x : Slice) : (s.setSlice k x).pushes = s.pushes := rfl
@[simp] theorem State.setSlice_parks (k : Nat) (x : Slice) : (s.setSlice k x).parks = s.parks := rfl
@[simp] theorem State.setSlice_gmsgs (k : Nat) (x : Slice) : (s.setSlice k x).gmsgs = s.gmsgs := rfl
@[simp] theorem State.setSlice_qflight (k : Nat) (x : Slice) : (s.setSlice k x).qflight = s.qflight := rfl
@[simp] theorem State.setSlice_sys (k : Nat) (x : Slice) : (s.setSlice k x).sys = s.sys := rfl
@[simp] theorem State.setSlice_fes (k : Nat) (x : Slice) : (s.setSlice k x).fes = s.fes := rfl

/-! ## updMem -/

@[simp] theorem State.updMem_agenda (f : Mems → Mems) : (s.updMem f).agenda = s.agenda := rfl
@[simp] theorem State.updMem_stepNo (f : Mems → Mems) : (s.updMem f).stepNo = s.stepNo := rfl
@[simp] theorem State.updMem_ctr (f : Mems → Mems) : (s.updMem f).ctr = s.ctr := rfl
@[simp] theorem State.updMem_cycle (f : Mems → Mems) : (s.updMem f).cycle = s.cycle := rfl
@[simp] theorem State.updMem_closing (f : Mems → Mems) : (s.updMem f).closing = s.closing := rfl
@[simp] theorem State.updMem_cur (f : Mems → Mems) : (s.updMem f).cur = s.cur := rfl
@[simp] theorem State.updMem_cores (f : Mems → Mems) : (s.updMem f).cores = s.cores := rfl
@[simp] theorem State.updMem_bays (f : Mems → Mems) : (s.updMem f).bays = s.bays := rfl
@[simp] theorem State.updMem_tiles (f : Mems → Mems) : (s.updMem f).tiles = s.tiles := rfl
@[simp] theorem State.updMem_slices (f : Mems → Mems) : (s.updMem f).slices = s.slices := rfl
@[simp] theorem State.updMem_mem (f : Mems → Mems) : (s.updMem f).mem = f s.mem := rfl
@[simp] theorem State.updMem_flight (f : Mems → Mems) : (s.updMem f).flight = s.flight := rfl
@[simp] theorem State.updMem_cmds (f : Mems → Mems) : (s.updMem f).cmds = s.cmds := rfl
@[simp] theorem State.updMem_fills (f : Mems → Mems) : (s.updMem f).fills = s.fills := rfl
@[simp] theorem State.updMem_pushes (f : Mems → Mems) : (s.updMem f).pushes = s.pushes := rfl
@[simp] theorem State.updMem_parks (f : Mems → Mems) : (s.updMem f).parks = s.parks := rfl
@[simp] theorem State.updMem_gmsgs (f : Mems → Mems) : (s.updMem f).gmsgs = s.gmsgs := rfl
@[simp] theorem State.updMem_qflight (f : Mems → Mems) : (s.updMem f).qflight = s.qflight := rfl
@[simp] theorem State.updMem_sys (f : Mems → Mems) : (s.updMem f).sys = s.sys := rfl
@[simp] theorem State.updMem_fes (f : Mems → Mems) : (s.updMem f).fes = s.fes := rfl

/-! ## updSys -/

@[simp] theorem State.updSys_agenda (f : Sys → Sys) : (s.updSys f).agenda = s.agenda := rfl
@[simp] theorem State.updSys_stepNo (f : Sys → Sys) : (s.updSys f).stepNo = s.stepNo := rfl
@[simp] theorem State.updSys_ctr (f : Sys → Sys) : (s.updSys f).ctr = s.ctr := rfl
@[simp] theorem State.updSys_cycle (f : Sys → Sys) : (s.updSys f).cycle = s.cycle := rfl
@[simp] theorem State.updSys_closing (f : Sys → Sys) : (s.updSys f).closing = s.closing := rfl
@[simp] theorem State.updSys_cur (f : Sys → Sys) : (s.updSys f).cur = s.cur := rfl
@[simp] theorem State.updSys_cores (f : Sys → Sys) : (s.updSys f).cores = s.cores := rfl
@[simp] theorem State.updSys_bays (f : Sys → Sys) : (s.updSys f).bays = s.bays := rfl
@[simp] theorem State.updSys_tiles (f : Sys → Sys) : (s.updSys f).tiles = s.tiles := rfl
@[simp] theorem State.updSys_slices (f : Sys → Sys) : (s.updSys f).slices = s.slices := rfl
@[simp] theorem State.updSys_mem (f : Sys → Sys) : (s.updSys f).mem = s.mem := rfl
@[simp] theorem State.updSys_flight (f : Sys → Sys) : (s.updSys f).flight = s.flight := rfl
@[simp] theorem State.updSys_cmds (f : Sys → Sys) : (s.updSys f).cmds = s.cmds := rfl
@[simp] theorem State.updSys_fills (f : Sys → Sys) : (s.updSys f).fills = s.fills := rfl
@[simp] theorem State.updSys_pushes (f : Sys → Sys) : (s.updSys f).pushes = s.pushes := rfl
@[simp] theorem State.updSys_parks (f : Sys → Sys) : (s.updSys f).parks = s.parks := rfl
@[simp] theorem State.updSys_gmsgs (f : Sys → Sys) : (s.updSys f).gmsgs = s.gmsgs := rfl
@[simp] theorem State.updSys_qflight (f : Sys → Sys) : (s.updSys f).qflight = s.qflight := rfl
@[simp] theorem State.updSys_sys (f : Sys → Sys) : (s.updSys f).sys = f s.sys := rfl
@[simp] theorem State.updSys_fes (f : Sys → Sys) : (s.updSys f).fes = s.fes := rfl

/-! ## updHall -/

@[simp] theorem State.updHall_agenda (k : Nat) (f : Hall → Hall) : (s.updHall k f).agenda = s.agenda := rfl
@[simp] theorem State.updHall_stepNo (k : Nat) (f : Hall → Hall) : (s.updHall k f).stepNo = s.stepNo := rfl
@[simp] theorem State.updHall_ctr (k : Nat) (f : Hall → Hall) : (s.updHall k f).ctr = s.ctr := rfl
@[simp] theorem State.updHall_cycle (k : Nat) (f : Hall → Hall) : (s.updHall k f).cycle = s.cycle := rfl
@[simp] theorem State.updHall_closing (k : Nat) (f : Hall → Hall) : (s.updHall k f).closing = s.closing := rfl
@[simp] theorem State.updHall_cur (k : Nat) (f : Hall → Hall) : (s.updHall k f).cur = s.cur := rfl
@[simp] theorem State.updHall_cores (k : Nat) (f : Hall → Hall) : (s.updHall k f).cores = s.cores := rfl
@[simp] theorem State.updHall_bays (k : Nat) (f : Hall → Hall) : (s.updHall k f).bays = s.bays := rfl
@[simp] theorem State.updHall_tiles (k : Nat) (f : Hall → Hall) : (s.updHall k f).tiles = s.tiles := rfl
@[simp] theorem State.updHall_slices (k : Nat) (f : Hall → Hall) : (s.updHall k f).slices = s.slices := rfl
@[simp] theorem State.updHall_mem (k : Nat) (f : Hall → Hall) : (s.updHall k f).mem = s.mem := rfl
@[simp] theorem State.updHall_flight (k : Nat) (f : Hall → Hall) : (s.updHall k f).flight = s.flight := rfl
@[simp] theorem State.updHall_cmds (k : Nat) (f : Hall → Hall) : (s.updHall k f).cmds = s.cmds := rfl
@[simp] theorem State.updHall_fills (k : Nat) (f : Hall → Hall) : (s.updHall k f).fills = s.fills := rfl
@[simp] theorem State.updHall_pushes (k : Nat) (f : Hall → Hall) : (s.updHall k f).pushes = s.pushes := rfl
@[simp] theorem State.updHall_parks (k : Nat) (f : Hall → Hall) : (s.updHall k f).parks = s.parks := rfl
@[simp] theorem State.updHall_gmsgs (k : Nat) (f : Hall → Hall) : (s.updHall k f).gmsgs = s.gmsgs := rfl
@[simp] theorem State.updHall_qflight (k : Nat) (f : Hall → Hall) : (s.updHall k f).qflight = s.qflight := rfl
@[simp] theorem State.updHall_sys (k : Nat) (f : Hall → Hall) : (s.updHall k f).sys = s.sys := rfl
@[simp] theorem State.updHall_fes (k : Nat) (f : Hall → Hall) : (s.updHall k f).fes = { s.fes with halls := updFirst (fun x => x.id == k) f s.fes.halls } := rfl

/-! ## Reading a unit after an update of one -/

theorem State.core_setCore (k q : Nat) (x : Core) : (s.setCore k x).core q = if k = q then x else s.core q := by
  exact SMap.get_put _ x k q s.cores

@[simp] theorem State.core_setCore_same (k : Nat) (x : Core) : (s.setCore k x).core k = x := by
  exact SMap.get_put_same _ x k s.cores

@[simp] theorem State.setCore_setCore (k : Nat) (x y : Core) : (s.setCore k x).setCore k y = s.setCore k y := by
  simp only [State.setCore, SMap.put_put]

theorem State.bay_setBay (k q : Nat) (x : Bay) : (s.setBay k x).bay q = if k = q then x else s.bay q := by
  exact SMap.get_put _ x k q s.bays

@[simp] theorem State.bay_setBay_same (k : Nat) (x : Bay) : (s.setBay k x).bay k = x := by
  exact SMap.get_put_same _ x k s.bays

@[simp] theorem State.setBay_setBay (k : Nat) (x y : Bay) : (s.setBay k x).setBay k y = s.setBay k y := by
  simp only [State.setBay, SMap.put_put]

theorem State.tile_setTile (k q : Nat) (x : Tile) : (s.setTile k x).tile q = if k = q then x else s.tile q := by
  exact SMap.get_put _ x k q s.tiles

@[simp] theorem State.tile_setTile_same (k : Nat) (x : Tile) : (s.setTile k x).tile k = x := by
  exact SMap.get_put_same _ x k s.tiles

@[simp] theorem State.setTile_setTile (k : Nat) (x y : Tile) : (s.setTile k x).setTile k y = s.setTile k y := by
  simp only [State.setTile, SMap.put_put]

theorem State.slice_setSlice (k q : Nat) (x : Slice) : (s.setSlice k x).slice q = if k = q then x else s.slice q := by
  exact SMap.get_put _ x k q s.slices

@[simp] theorem State.slice_setSlice_same (k : Nat) (x : Slice) : (s.setSlice k x).slice k = x := by
  exact SMap.get_put_same _ x k s.slices

@[simp] theorem State.setSlice_setSlice (k : Nat) (x y : Slice) : (s.setSlice k x).setSlice k y = s.setSlice k y := by
  simp only [State.setSlice, SMap.put_put]

@[simp] theorem State.me_updMe (f : Core → Core) : (s.updMe f).me = f s.me := s.core_setCore_same s.cur (f s.me)

@[simp] theorem State.lv_updMe (f : Core → Core) : (s.updMe f).lv = (f s.me).level := congrArg Core.level (s.me_updMe f)

@[simp] theorem State.updMe_updMe (f g : Core → Core) : (s.updMe f).updMe g = s.updMe (fun c => g (f c)) := by
  show (s.updMe f).setCore s.cur (g (s.updMe f).me) = s.setCore s.cur (g (f s.me))
  rw [s.me_updMe f]
  exact s.setCore_setCore s.cur (f s.me) (g (f s.me))

theorem State.core_updMe_other (f : Core → Core) {q : Nat} (h : q ≠ s.cur) : (s.updMe f).core q = s.core q := by
  show (s.setCore s.cur (f s.me)).core q = s.core q
  rw [s.core_setCore, if_neg (Ne.symm h)]

end Sys2Proof.Machine
end

