-- ==== Sys2Proof/Laws/Core.lean ====
section
/-!
SUPPORT. The registers of a core: reading one after writing one, and what a write to a register leaves of the core.
-/

namespace Sys2Proof.Machine

open Sys2Proof

variable (c : Core) (lv : Bool)

/-! ## Threads -/

@[simp] theorem Core.thr_setThr (t : Thread) : (c.setThr lv t).thr lv = t := by cases lv <;> rfl

@[simp] theorem Core.thr_setThr_other (t : Thread) : (c.setThr lv t).thr (!lv) = c.thr (!lv) := by cases lv <;> rfl

theorem Core.setThr_rest (t : Thread) :
    c.setThr lv t = { c with lv0 := (c.setThr lv t).lv0, lv1 := (c.setThr lv t).lv1 } := by cases lv <;> rfl

@[simp] theorem Core.setThr_setThr (t t' : Thread) : (c.setThr lv t).setThr lv t' = c.setThr lv t' := by
  cases lv <;> rfl

@[simp] theorem Core.setThr_gHi (t : Thread) : (c.setThr lv t).gHi = c.gHi := by cases lv <;> rfl
@[simp] theorem Core.setThr_v (t : Thread) : (c.setThr lv t).v = c.v := by cases lv <;> rfl
@[simp] theorem Core.setThr_arrived (t : Thread) : (c.setThr lv t).arrived = c.arrived := by cases lv <;> rfl
@[simp] theorem Core.setThr_pend (t : Thread) : (c.setThr lv t).pend = c.pend := by cases lv <;> rfl
@[simp] theorem Core.setThr_level (t : Thread) : (c.setThr lv t).level = c.level := by cases lv <;> rfl
@[simp] theorem Core.setThr_pv (t : Thread) : (c.setThr lv t).pv = c.pv := by cases lv <;> rfl
@[simp] theorem Core.setThr_maskOpen (t : Thread) : (c.setThr lv t).maskOpen = c.maskOpen := by cases lv <;> rfl
@[simp] theorem Core.setThr_maskCnt (t : Thread) : (c.setThr lv t).maskCnt = c.maskCnt := by cases lv <;> rfl
@[simp] theorem Core.setThr_qStall (t : Thread) : (c.setThr lv t).qStall = c.qStall := by cases lv <;> rfl
@[simp] theorem Core.setThr_reach (t : Thread) : (c.setThr lv t).reach = c.reach := by cases lv <;> rfl
@[simp] theorem Core.setThr_b (t : Thread) : (c.setThr lv t).b = c.b := by cases lv <;> rfl

/-! ## What a change of the registers of one level leaves of a core -/

/-- `e` is `c` with changes to the named registers of one level only, flags raised, and results entered. -/
structure Core.Changes (c e : Core) (lv : Bool) (gs ps vs : List Nat) (f : FFlags) (new : List Pend) : Prop where
  general : ∀ r, r ∉ gs → e.g lv r = c.g lv r
  predicates : ∀ r, r ∉ ps → e.p lv r = c.p lv r
  vectors : ∀ r, r ∉ vs → e.vreg r = c.vreg r
  flags : (e.thr lv).fp = (c.thr lv).fp.or f
  thread : e.thr lv = { c.thr lv with g := (e.thr lv).g, p := (e.thr lv).p, fp := (e.thr lv).fp }
  otherLevel : e.thr (!lv) = c.thr (!lv)
  pending : e.pend = c.pend ++ new
  arrivals : new = [] → e.arrived = c.arrived
  core : e = { c with lv0 := e.lv0, lv1 := e.lv1, gHi := e.gHi, v := e.v, pend := e.pend, arrived := e.arrived }

@[simp] theorem FFlags.or_none (f : FFlags) : f.or {} = f := by cases f; simp [FFlags.or]

theorem FFlags.or_assoc (f g h : FFlags) : (f.or g).or h = f.or (g.or h) := by
  simp [FFlags.or, Bool.or_assoc]

theorem Core.changes_refl : c.Changes c lv [] [] [] {} [] := by
  constructor <;> first | rfl | simp

variable {c lv}

theorem Core.Changes.trans {d e : Core} {gs ps vs gs' ps' vs' : List Nat} {f f' : FFlags} {new new' : List Pend}
    (h : c.Changes d lv gs ps vs f new) (h' : d.Changes e lv gs' ps' vs' f' new') :
    c.Changes e lv (gs ++ gs') (ps ++ ps') (vs ++ vs') (f.or f') (new ++ new') where
  general r hr := by
    simp only [List.mem_append, not_or] at hr
    rw [h'.general r hr.2, h.general r hr.1]
  predicates r hr := by
    simp only [List.mem_append, not_or] at hr
    rw [h'.predicates r hr.2, h.predicates r hr.1]
  vectors r hr := by
    simp only [List.mem_append, not_or] at hr
    rw [h'.vectors r hr.2, h.vectors r hr.1]
  flags := by rw [h'.flags, h.flags, FFlags.or_assoc]
  thread := by rw [h'.thread, h.thread]
  otherLevel := by rw [h'.otherLevel, h.otherLevel]
  pending := by rw [h'.pending, h.pending, List.append_assoc]
  arrivals hn := by
    rw [h'.arrivals (List.append_eq_nil_iff.mp hn).2, h.arrivals (List.append_eq_nil_iff.mp hn).1]
  core := by rw [h'.core, h.core]

theorem Core.Changes.mono {e : Core} {gs ps vs gs' ps' vs' : List Nat} {f : FFlags} {new : List Pend}
    (h : c.Changes e lv gs ps vs f new) (hg : gs ⊆ gs') (hp : ps ⊆ ps') (hv : vs ⊆ vs') :
    c.Changes e lv gs' ps' vs' f new :=
  { h with
    general := fun r hr => h.general r (fun m => hr (hg m))
    predicates := fun r hr => h.predicates r (fun m => hr (hp m))
    vectors := fun r hr => h.vectors r (fun m => hr (hv m)) }

variable (c lv)

/-! ## General registers -/

theorem Core.g_setG (r q : Nat) (x : Word) :
    (c.setG lv r x).g lv q = if r = q then (if q = 0 then 0 else x) else c.g lv q := by
  unfold Core.setG Core.g
  by_cases hr : r = 0
  · subst hr; by_cases hq : q = 0
    · subst hq; simp
    · have : ¬ 0 = q := fun h => hq h.symm
      simp [hq, this]
  · by_cases hr2 : r < 32
    · simp only [hr, hr2, if_false, if_true]
      by_cases hq : q = 0
      · simp [hq]
      · by_cases hq2 : q < 32
        · simp only [hq, hq2, if_false, if_true, Core.thr_setThr, SMap.get_set]
        · have : r ≠ q := by omega
          simp [hq, hq2, this]
    · simp only [hr, hr2, if_false]
      by_cases hq : q = 0
      · have : r ≠ q := by omega
        simp [hq]
      · by_cases hq2 : q < 32
        · have : r ≠ q := by omega
          simp only [hq, hq2, this, if_false, if_true]; cases lv <;> rfl
        · simp [hq, hq2, SMap.get_set]

theorem Core.setG_changes (r : Nat) (x : Word) : c.Changes (c.setG lv r x) lv [r] [] [] {} [] := by
  by_cases hr : r = 0
  · subst hr; exact (c.changes_refl lv).mono (by simp) (by simp) (by simp)
  · constructor
    · intro q hq
      rw [Core.g_setG, if_neg (by simpa [eq_comm] using hq)]
    all_goals
      unfold Core.setG
      simp only [hr, if_false]
      split
      · cases lv <;> simp [Core.setThr, Core.thr, Core.p, Core.vreg]
      · cases lv <;> simp [Core.thr, Core.p, Core.vreg]

/-! ## Predicates -/

theorem Core.p_setP (r q : Nat) (x : Word) :
    (c.setP lv r x).p lv q = if r = q then (if q = 7 then ones else x) else c.p lv q := by
  unfold Core.setP Core.p
  by_cases hr : r = 7
  · subst hr; by_cases hq : q = 7
    · subst hq; simp
    · have : ¬ 7 = q := fun h => hq h.symm
      simp [hq, this]
  · simp only [hr, if_false]
    by_cases hq : q = 7
    · have : r ≠ q := by omega
      simp [hq]
    · simp only [hq, if_false, Core.thr_setThr, SMap.get_set]

theorem Core.setP_changes (r : Nat) (x : Word) : c.Changes (c.setP lv r x) lv [] [r] [] {} [] := by
  by_cases hr : r = 7
  · subst hr; exact (c.changes_refl lv).mono (by simp) (by simp) (by simp)
  · constructor
    case predicates =>
      intro q hq
      rw [Core.p_setP, if_neg (by simpa [eq_comm] using hq)]
    all_goals
      unfold Core.setP
      simp only [hr, if_false]
      cases lv <;> simp [Core.setThr, Core.thr, Core.g, Core.vreg]

/-! ## Vector registers -/

theorem Core.vreg_setV (r q : Nat) (x : Vec) : (c.setV r x).vreg q = if r = q then x else c.vreg q := by
  unfold Core.setV Core.vreg
  exact SMap.get_set 0 x r q c.v

theorem Core.setV_changes (r : Nat) (x : Vec) : c.Changes (c.setV r x) lv [] [] [r] {} [] := by
  constructor
  case vectors =>
    intro q hq
    rw [Core.vreg_setV, if_neg (by simpa [eq_comm] using hq)]
  all_goals cases lv <;> simp [Core.setV, Core.thr, Core.g, Core.p]

/-! ## Flags and pending results -/

theorem Core.raise_changes (f : FFlags) : c.Changes (c.raise lv f) lv [] [] [] f [] := by
  constructor
  all_goals cases lv <;> simp [Core.raise, Core.setThr, Core.thr, Core.g, Core.p, Core.vreg]

theorem Core.addPend_changes (p : Pend) :
    c.Changes ({ c with pend := c.pend ++ [p] } : Core).noteArrivals lv [] [] [] {} [p] := by
  constructor
  all_goals cases lv <;> simp [Core.noteArrivals, Core.thr, Core.g, Core.p, Core.vreg]

end Sys2Proof.Machine
end

