-- ==== Sys2Proof/Laws/Issue.lean ====
section
/-!
SUPPORT. Issuing: an instruction that nothing stands before has its own effect; what the state is once that effect is
done; and how the effect's changes of registers become those of the whole step.
-/

namespace Sys2Proof

open Sys2Proof.Machine

variable {s : State} {u : Uses}

/-! ## From issue to effect -/

theorem issueWith_of_issues (h : Issues s u) (body : State → Res) :
    s.issueWith u body = s.settle u false (body s) := by
  have h0 : (s.me.thr s.me.level).hold = .ready := h.ready
  have h3 : (u.priv.isSome && !s.me.pv) = false := by
    cases hp : u.priv.isSome
    · rfl
    · simp [h.mode hp]
  have hm : s.me.level = false → s.me.maskOpen = true → _ := h.masked
  have h4 : (!s.me.level && s.me.maskOpen && !u.uncounted && decide (64 ≤ s.me.maskCnt)) = false := by
    cases hl : s.me.level <;> cases ho : s.me.maskOpen <;> simp
    intro hu
    rcases (hm hl ho).1 with h | h
    · simp [h] at hu
    · omega
  have h5 : (!s.me.level && s.me.maskOpen && (u.nomask || s.me.namesPort u)) = false := by
    cases hl : s.me.level <;> cases ho : s.me.maskOpen <;> simp
    exact (hm hl ho).2
  have h6 : (u.fpwait && s.me.pend.any (fun p => p.lv == s.me.level && p.flagsDue)) = false := by
    cases hf : u.fpwait
    · rfl
    · simp only [Bool.true_and, List.any_eq_false, Bool.and_eq_true, beq_iff_eq, not_and]
      intro p hp hl
      have := h.flags hf p hp hl
      simp [this]
  unfold State.issueWith State.issuePorts
  simp only [h0, h.enabled, h.legal, h3, h4, h5, h6, h.windows, h.operands, h.ports, h.pops]
  simp

theorem popped_of_noPort {c : Core} (h : c.namesPort u = false) : c.popped u = [] := by
  have h' : ∀ r ∈ u.rs, c.port r = none := by
    intro r hr
    simp only [Core.namesPort, List.any_eq_false] at h
    have := h r (List.mem_append_left _ hr)
    simpa using this
  have : u.rs.filterMap c.port = [] := by
    simp only [List.filterMap_eq_nil_iff]; exact h'
  simp [Core.popped, this]

theorem settle_done (h : IssuesPlain s u) {t : State} :
    s.settle u false (.done t) = State.after s u t (s.nextPc u) := by
  simp [State.settle, State.finish, State.after, popped_of_noPort h.noPort, h.noPort, State.lv]

theorem settle_jump (h : IssuesPlain s u) {t : State} (a : Word) :
    s.settle u false (.jump t a) = State.after s u t a := by
  simp [State.settle, State.finish, State.after, popped_of_noPort h.noPort, h.noPort, State.lv]

theorem runs_done (h : IssuesPlain s u) {body : State → Res} {t : State} (hb : body s = .done t) :
    s.runs u body = .next (State.after s u t (s.pc + word u.len)) := by
  rw [State.runs, issueWith_of_issues h.toIssues, hb, settle_done h, State.nextPc]

theorem runs_jump (h : IssuesPlain s u) {body : State → Res} {t : State} {a : Word} (hb : body s = .jump t a) : s.runs u body = .next (State.after s u t a) := by
  rw [State.runs, issueWith_of_issues h.toIssues, hb, settle_jump h]

/-! ## Operands -/

theorem port_none_of_noPort {c : Core} (h : c.namesPort u = false) {r : Nat} (hr : r ∈ u.rs ++ u.ws) :
    c.port r = none := by
  simp only [Core.namesPort, List.any_eq_false] at h
  simpa using h r hr

theorem srcOf_of_plain (h : IssuesPlain s u) {r : Nat} (hr : r ∈ u.rs) : s.srcOf r = s.me.g s.lv r := by
  simp [State.srcOf, h.fresh, State.srcNow, port_none_of_noPort h.noPort (List.mem_append_left _ hr)]

theorem src_of_plain (h : IssuesPlain s u) {r : Reg} (hr : r.toNat ∈ u.rs) : s.src r = s.rg r := srcOf_of_plain h hr

theorem srcV_of_issues (h : Issues s u) (r : VReg) : s.srcV r = s.rv r := by simp [State.srcV, h.freshV]

theorem dst_plain (h : IssuesPlain s u) {r : Reg} (hr : r.toNat ∈ u.ws) (x : Word) : s.dst r x = s.wg r x :=
  by simp [State.dst, port_none_of_noPort h.noPort (List.mem_append_right _ hr)]

/-! ## The whole step -/

theorem Core.thr_issued (c : Core) (lv lv' : Bool) (lim : Nat) (b : Bool) : (c.issued lv u lim b).thr lv' = c.thr lv' := by
  cases lv' <;> rfl

/-- What an effect on the executing core's registers becomes once the issue has been counted. -/
theorem completes_of_changes {e : Core} {gs ps vs : List Nat} {f : FFlags} {new : List Pend} (hu : u.on = true)
    (hc : s.me.Changes e s.lv gs ps vs f new) (hn : ∀ p ∈ new, s.ctr ≤ p.id) (pc : Word) :
    Completes s (State.after s u { s with cores := s.cores.put s.cur e, ctr := s.ctr + new.length } pc) u pc gs ps vs f new := by
  have hme : ({ s with cores := s.cores.put s.cur e, ctr := s.ctr + new.length } : State).me = e :=
    SMap.get_put_same _ e s.cur s.cores
  have hme' : (State.after s u { s with cores := s.cores.put s.cur e, ctr := s.ctr + new.length } pc).me =
      (e.issued s.lv u s.ctr false).resume s.lv pc := by
    rw [State.after, State.me_updMe, hme]
  have hthr : ((e.issued s.lv u s.ctr false).resume s.lv pc).thr s.lv =
      { e.thr s.lv with pc := pc, hold := .ready, held := [], heldV := [], late := none } := by
    simp [Core.resume, Core.thr_issued]
  have hother : ((e.issued s.lv u s.ctr false).resume s.lv pc).thr (!s.lv) = e.thr (!s.lv) := by
    simp [Core.resume, Core.thr_issued]
  have hgHi : ((e.issued s.lv u s.ctr false).resume s.lv pc).gHi = e.gHi := by
    simp [Core.resume, Core.issued]
  have hv : ((e.issued s.lv u s.ctr false).resume s.lv pc).v = e.v := by
    simp [Core.resume, Core.issued]
  have hpend : ((e.issued s.lv u s.ctr false).resume s.lv pc).pend = s.me.pend.map (counted s u) ++ new := by
    have : ((e.issued s.lv u s.ctr false).resume s.lv pc).pend = e.pend.map (counted s u) := by
      simp only [Core.resume, Core.setThr_pend, Core.issued]
      refine List.map_congr_left fun p _ => ?_
      simp only [counted, hu, Bool.and_eq_true, beq_iff_eq, decide_eq_true_eq, Bool.or_false, Bool.true_and]
    rw [this, hc.pending, List.map_append]
    congr 1
    calc new.map (counted s u) = new.map id := List.map_congr_left fun p hp => by
          have := hn p hp
          simp [counted, Nat.not_lt.mpr this]
      _ = new := List.map_id new
  constructor
  case outside =>
    rw [hme']
    simp [State.after, State.updMe, State.updCore, State.setCore, SMap.put_put, State.core, SMap.get_put_same]
  case pc => rw [hme', hthr]
  case goesOn => rw [hme', hthr]; exact ⟨rfl, rfl⟩
  case general =>
    intro r hr
    rw [hme', ← hc.general r hr]
    simp only [Core.g, hthr, hgHi]
  case predicates =>
    intro r hr
    rw [hme', ← hc.predicates r hr]
    simp only [Core.p, hthr]
  case vectors =>
    intro r hr
    rw [hme', ← hc.vectors r hr]
    simp only [Core.vreg, hv]
  case flags => rw [hme', hthr]; exact hc.flags
  case thread =>
    rw [hme', hthr]
    conv_lhs => rw [hc.thread]
  case otherLevel => rw [hme', hother]; exact hc.otherLevel
  case pending => rw [hme', hpend]
  case arrivals => intro hn'; rw [hme', ← hc.arrivals hn']; simp [Core.resume, Core.issued]
  case core =>
    rw [hme']
    generalize hX : (e.issued s.lv u s.ctr false).resume s.lv pc = X
    have hX' : X = { e with lv0 := X.lv0, lv1 := X.lv1, gHi := X.gHi, v := X.v, pend := X.pend, arrived := X.arrived,
                            maskCnt := X.maskCnt, b := X.b, qStall := if s.lv then s.me.qStall else none, issuedNow := true } := by
      have e1 : e.qStall = s.me.qStall := by rw [hc.core]
      rw [← hX, ← e1]; cases s.lv <;> rfl
    have hmc : X.maskCnt = s.me.maskCnt + (if s.lv = false ∧ s.me.maskOpen ∧ u.uncounted = false then 1 else 0) := by
      have e1 : e.maskCnt = s.me.maskCnt := by rw [hc.core]
      have e2 : e.maskOpen = s.me.maskOpen := by rw [hc.core]
      rw [← hX, Core.resume, Core.setThr_maskCnt]
      simp only [Core.issued, e1, e2]
      cases s.lv <;> cases s.me.maskOpen <;> cases u.uncounted <;> simp
    have hb : X.b = if s.lv then s.me.b else s.me.b - 256 := by
      have e1 : e.b = s.me.b := by rw [hc.core]
      rw [← hX, Core.resume, Core.setThr_b]
      simp only [Core.issued, e1]
    rw [← hmc, ← hb]
    conv_lhs => rw [hX']
    conv_lhs => rw [hc.core]

end Sys2Proof
end

