-- ==== Sys2Proof/Laws/Scalar.lean ====
section
/-!
SUPPORT. The scalar operations: what an instruction that writes one register answers, once for all of them.
-/

namespace Sys2Proof

open Sys2Proof.Machine

variable {s : State} {u : Uses}

theorem wg_eq (d : Reg) (x : Word) :
    s.wg d x = { s with cores := s.cores.put s.cur (s.me.setG s.lv d.toNat x), ctr := s.ctr + ([] : List Pend).length } := rfl

theorem wp_eq (d : PReg) (x : Word) :
    s.wp d x = { s with cores := s.cores.put s.cur (s.me.setP s.lv d.toNat x), ctr := s.ctr + ([] : List Pend).length } := rfl

theorem lv_of_completes {t : State} {pc : Word} {gs ps vs : List Nat} {f : FFlags} {new : List Pend}
    (h : Completes s t u pc gs ps vs f new) : t.lv = s.lv := by
  show t.me.level = s.me.level
  rw [h.core]

theorem me_after {e : State} {pc : Word} : (State.after s u e pc).me = (e.me.issued s.lv u s.ctr false).resume s.lv pc :=
  e.me_updMe _

theorem g_after {e : State} {pc : Word} (lv : Bool) (r : Nat) : (State.after s u e pc).me.g lv r = e.me.g lv r := by
  rw [me_after]
  unfold Core.g Core.resume
  cases lv <;> cases s.lv <;> rfl

theorem p_after {e : State} {pc : Word} (lv : Bool) (r : Nat) : (State.after s u e pc).me.p lv r = e.me.p lv r := by
  rw [me_after]
  unfold Core.p Core.resume
  cases lv <;> cases s.lv <;> rfl

theorem vreg_after {e : State} {pc : Word} (r : Nat) : (State.after s u e pc).me.vreg r = e.me.vreg r := by
  rw [me_after]
  unfold Core.vreg Core.resume
  cases s.lv <;> rfl

/-- Writing one general register as the effect of an instruction, going on at `pc`. -/
theorem completes_wg (hu : u.on = true) (d : Reg) (x : Word) (pc : Word) :
    Completes s (State.after s u (s.wg d x) pc) u pc [d.toNat] [] [] {} [] ∧
      (State.after s u (s.wg d x) pc).rg d = if d = 0 then 0 else x := by
  have h : Completes s (State.after s u (s.wg d x) pc) u pc [d.toNat] [] [] {} [] := by
    rw [wg_eq]; exact completes_of_changes hu (s.me.setG_changes s.lv d.toNat x) (by simp) pc
  refine ⟨h, ?_⟩
  rw [State.rg, lv_of_completes h, g_after]
  show ((s.updMe _).me).g s.lv d.toNat = _
  rw [State.me_updMe]
  show (s.me.setG s.lv d.toNat x).g s.lv d.toNat = _
  rw [Core.g_setG, if_pos rfl]
  congr 1
  simp [← BitVec.toNat_inj]

/-- Writing one predicate register as the effect of an instruction. -/
theorem completes_wp (hu : u.on = true) (d : PReg) (x : Word) (pc : Word) :
    Completes s (State.after s u (s.wp d x) pc) u pc [] [d.toNat] [] {} [] ∧
      (State.after s u (s.wp d x) pc).rp d = if d = 7 then ones else x := by
  have h : Completes s (State.after s u (s.wp d x) pc) u pc [] [d.toNat] [] {} [] := by
    rw [wp_eq]; exact completes_of_changes hu (s.me.setP_changes s.lv d.toNat x) (by simp) pc
  refine ⟨h, ?_⟩
  rw [State.rp, lv_of_completes h, p_after]
  show ((s.updMe _).me).p s.lv d.toNat = _
  rw [State.me_updMe]
  show (s.me.setP s.lv d.toNat x).p s.lv d.toNat = _
  rw [Core.p_setP, if_pos rfl]
  congr 1
  simp [← BitVec.toNat_inj]

/-- Nothing but the issue. -/
theorem completes_nothing (hu : u.on = true) (pc : Word) :
    Completes s (State.after s u s pc) u pc [] [] [] {} [] := by
  have h := completes_of_changes (s := s) hu (s.me.changes_refl s.lv) (by simp) pc
  have e : State.after s u { s with cores := s.cores.put s.cur s.me, ctr := s.ctr + ([] : List Pend).length } pc =
      State.after s u s pc := by
    simp [State.after, State.updMe, State.updCore, State.setCore, State.core, State.me, SMap.put_put, SMap.get_put_same]
  rw [e] at h
  exact h

theorem enterPend_eq (p : Pend) :
    s.enterPend p = { s with cores := s.cores.put s.cur ({ s.me with pend := s.me.pend ++ [p] } : Core).noteArrivals,
                             ctr := s.ctr + [p].length } := rfl

/-- Entering one pending result as the effect of an instruction. -/
theorem completes_enterPend (hu : u.on = true) {p : Pend} (hp : s.ctr ≤ p.id) (pc : Word) :
    Completes s (State.after s u (s.enterPend p) pc) u pc [] [] [] {} [p] := by
  rw [enterPend_eq]
  exact completes_of_changes hu (s.me.addPend_changes s.lv p) (by simpa using hp) pc

/-- An instruction whose effect is to write one general register. -/
theorem answersG_of_done {i : Instr} {d : Reg} {x : Word} {body : State → Res} (h : IssuesPlain s u)
    (hi : exec i s = s.runs u body) (hb : body s = .done (s.wg d x)) : AnswersG s i u d x :=
  ⟨_, hi.trans (runs_done h hb), completes_wg h.enabled d x _⟩

/-- An instruction whose effect is to write one predicate register. -/
theorem answersP_of_done {i : Instr} {d : PReg} {x : Word} {body : State → Res} (h : IssuesPlain s u)
    (hi : exec i s = s.runs u body) (hb : body s = .done (s.wp d x)) : AnswersP s i u d x :=
  ⟨_, hi.trans (runs_done h hb), completes_wp h.enabled d x _⟩

/-- The scalar half operations that write a general register (R187). -/
theorem half_answersG {i : Instr} {h : SHalf} {d : Reg} (hi : ∀ s, exec i s = execHalf h s) (hd : halfDst h = .g d)
    (hp : IssuesPlain s (halfUses h)) : AnswersG s i (halfUses h) d (halfVal s.rg s.rp s.pc h) := by
  refine answersG_of_done hp (hi s) ?_
  have hw : d.toNat ∈ (halfUses h).ws := by simp [halfUses, hd, SDst.gs]
  have hs : ∀ r ∈ halfSrcs h, s.src r = s.rg r := fun r hr =>
    src_of_plain hp (List.mem_map.mpr ⟨r, hr, rfl⟩)
  simp only [hd, State.writeHalf, dst_plain hp hw]
  congr 2
  unfold State.halfValue
  cases h <;> simp_all [halfVal, halfSrcs]

/-- The scalar half operations that write a predicate (R187). -/
theorem half_answersP {i : Instr} {h : SHalf} {d : PReg} (hi : ∀ s, exec i s = execHalf h s) (hd : halfDst h = .p d)
    (hp : IssuesPlain s (halfUses h)) : AnswersP s i (halfUses h) d (halfVal s.rg s.rp s.pc h) := by
  refine answersP_of_done hp (hi s) ?_
  have hs : ∀ r ∈ halfSrcs h, s.src r = s.rg r := fun r hr =>
    src_of_plain hp (List.mem_map.mpr ⟨r, hr, rfl⟩)
  simp only [hd, State.writeHalf]
  congr 2
  unfold State.halfValue
  cases h <;> simp_all [halfVal, halfSrcs]

end Sys2Proof
end

