-- ==== Sys2Proof/Laws/Lanes.lean ====
section
/-!
SUPPORT. Lanes: what stands in a lane of a vector that was built lane by lane or blended with an old one, and what an
instruction that writes one vector register answers.
-/

namespace Sys2Proof

open Sys2Proof.Machine

/-! ## Bits of lanes -/

theorem testBit_lane (v : Vec) (w i j : Nat) :
    (lane v w i).testBit j = (decide (j < w) && v.getLsbD (i * w + j)) := by
  rw [lane, Nat.testBit_mod_two_pow, Nat.testBit_div_two_pow, BitVec.getLsbD, Nat.add_comm]

theorem lane_lt (v : Vec) (w i : Nat) : lane v w i < 2 ^ w := Nat.mod_lt _ (Nat.two_pow_pos w)

theorem testBit_foldLanes (w : Nat) (ls : List Nat) (i j : Nat) (hj : j < w) :
    (ls.foldr (fun x acc => x % 2 ^ w + 2 ^ w * acc) 0).testBit (i * w + j) = (ls.getD i 0).testBit j := by
  induction ls generalizing i with
  | nil => simp
  | cons x ls ih =>
    rw [List.foldr_cons, Nat.add_comm, Nat.testBit_two_pow_mul_add _ (Nat.mod_lt _ (Nat.two_pow_pos w))]
    cases i with
    | zero => simp [hj, Nat.testBit_mod_two_pow]
    | succ i =>
      have h1 : ¬ (i + 1) * w + j < w := by rw [Nat.add_mul]; omega
      have h2 : (i + 1) * w + j - w = i * w + j := by rw [Nat.add_mul]; omega
      rw [if_neg h1, h2, ih]
      rfl

theorem lane_ofLanes {w i : Nat} (ls : List Nat) (h : (i + 1) * w ≤ 1024) :
    lane (ofLanes w ls) w i = ls.getD i 0 % 2 ^ w := by
  refine Nat.eq_of_testBit_eq fun j => ?_
  rw [testBit_lane, Nat.testBit_mod_two_pow]
  by_cases hj : j < w
  · have : i * w + j < 1024 := by rw [Nat.add_mul] at h; omega
    simp only [hj, decide_true, Bool.true_and, ofLanes, BitVec.getLsbD_ofNat, this]
    exact testBit_foldLanes w ls i j hj
  · simp [hj]

theorem lane_blend_on {w i : Nat} (old new mask : Vec) (hm : lane mask w i = 2 ^ w - 1) :
    lane (blend old new mask) w i = lane new w i := by
  refine Nat.eq_of_testBit_eq fun j => ?_
  rw [testBit_lane, testBit_lane]
  by_cases hj : j < w
  · have hb : mask.getLsbD (i * w + j) = true := by
      have := testBit_lane mask w i j
      rw [hm, Nat.testBit_two_pow_sub_one] at this
      simpa [hj] using this.symm
    simp [hj, blend, hb]
  · simp [hj]

theorem lane_blend_off {w i : Nat} (old new mask : Vec) (h : (i + 1) * w ≤ 1024) (hm : lane mask w i = 0) :
    lane (blend old new mask) w i = lane old w i := by
  refine Nat.eq_of_testBit_eq fun j => ?_
  rw [testBit_lane, testBit_lane]
  by_cases hj : j < w
  · have hb : mask.getLsbD (i * w + j) = false := by
      have := testBit_lane mask w i j
      rw [hm, Nat.zero_testBit] at this
      simpa [hj] using this.symm
    have h' : i * w + j < 1024 := by rw [Nat.add_mul] at h; omega
    simp only [hj, decide_true, Bool.true_and, blend, BitVec.getLsbD_or, BitVec.getLsbD_and, BitVec.getLsbD_not, hb, h',
      Bool.and_false, Bool.false_or, Bool.not_false, Bool.and_true]
  · simp [hj]

theorem lane_laneMask {w i : Nat} (p : Nat → Bool) (h : (i + 1) * w ≤ 1024) (hi : i < 1024 / w) :
    lane (laneMask w p) w i = if p i then 2 ^ w - 1 else 0 := by
  rw [laneMask, lane_ofLanes _ h, List.getD_eq_getElem?_getD, List.getElem?_map, List.getElem?_range hi]
  have := Nat.two_pow_pos w
  show (if p i then 2 ^ w - 1 else 0) % 2 ^ w = _
  split
  · exact Nat.mod_eq_of_lt (by omega)
  · exact Nat.zero_mod _

/-- A lane of an old vector blended with lanes placed under their own mask. -/
theorem lane_blend_laneMask {w i : Nat} (old : Vec) (ls : List Nat) (p : Nat → Bool) (h : (i + 1) * w ≤ 1024)
    (hi : i < 1024 / w) :
    lane (blend old (ofLanes w ls) (laneMask w p)) w i = if p i then ls.getD i 0 % 2 ^ w else lane old w i := by
  cases hp : p i
  · rw [lane_blend_off _ _ _ h (by rw [lane_laneMask p h hi, hp]; rfl)]; rfl
  · rw [lane_blend_on _ _ _ (by rw [lane_laneMask p h hi, hp]; rfl), lane_ofLanes ls h]; rfl

/-! ## Types -/

theorem bitsOf_cases (ty : BitVec 4) :
    bitsOf ty.toNat = 4 ∨ bitsOf ty.toNat = 8 ∨ bitsOf ty.toNat = 16 ∨ bitsOf ty.toNat = 32 ∨ bitsOf ty.toNat = 64 := by
  revert ty; decide

theorem lanes_fit (ty : BitVec 4) {i : Nat} (h : i < lanesOfTy ty.toNat) : (i + 1) * bitsOf ty.toNat ≤ 1024 := by
  unfold lanesOfTy at h
  rcases bitsOf_cases ty with e | e | e | e | e <;> rw [e] at h ⊢ <;> omega

/-! ## Flags of lanes -/

theorem FFlags.none_or (f : FFlags) : FFlags.or {} f = f := by cases f; simp [FFlags.or]

theorem foldl_or (l : List FFlags) (f : FFlags) : l.foldl FFlags.or f = f.or (FFlags.orAll l) := by
  induction l generalizing f with
  | nil => exact (FFlags.or_none f).symm
  | cons x l ih =>
    rw [List.foldl_cons, ih (f.or x), FFlags.or_assoc]
    congr 1
    show x.or (FFlags.orAll l) = (x :: l).foldl FFlags.or {}
    rw [List.foldl_cons, ih (FFlags.or {} x), FFlags.none_or]

theorem orAll_cons (x : FFlags) (l : List FFlags) : FFlags.orAll (x :: l) = x.or (FFlags.orAll l) := by
  rw [FFlags.orAll, List.foldl_cons, foldl_or, FFlags.none_or]

/-- An inactive lane raises nothing, so it may be left out. -/
theorem orAll_filter (l : List Nat) (act : Nat → Bool) (g : Nat → FFlags) :
    FFlags.orAll (l.map (fun i => if act i then g i else {})) = FFlags.orAll ((l.filter act).map g) := by
  induction l with
  | nil => rfl
  | cons i l ih =>
    rw [List.map_cons, orAll_cons, ih]
    cases h : act i
    · simp [h, FFlags.none_or]
    · simp [h, orAll_cons]

/-! ## An operation lane by lane -/

theorem lanewise_flags (ty : Nat) (act : Nat → Bool) (r : Nat → LaneRes) :
    (lanewise ty act r).flags = activeFlags ty act r := by
  show FFlags.orAll (List.map _ (List.map _ _)) = _
  rw [List.map_map, activeFlags, ← orAll_filter]
  congr 1
  refine List.map_congr_left fun i _ => ?_
  simp only [Function.comp]
  split <;> rfl

theorem lanewise_lanes (ty : BitVec 4) (act : Nat → Bool) (r : Nat → LaneRes) (old : Vec) :
    LanesWritten ty.toNat act r old
      (blend old (lanewise ty.toNat act r).val (lanewise ty.toNat act r).mask) := by
  intro i hi
  show lane (blend old (ofLanes _ (List.map _ (List.map _ _))) (laneMask _ act)) _ i = _
  rw [lane_blend_laneMask _ _ _ (lanes_fit ty hi) hi]
  cases h : act i
  · rfl
  · simp [List.getD_eq_getElem?_getD, List.getElem?_range hi, h]

/-! ## Writing one vector register -/

variable {s : State} {u : Uses}

theorem writeVec_eq (d : VReg) (r : VecRes) :
    s.writeVec d r = { s with cores := s.cores.put s.cur ((s.me.setV d.toNat (blend (s.rv d) r.val r.mask)).raise s.lv r.flags),
                              ctr := s.ctr + ([] : List Pend).length } := by
  simp only [State.writeVec, State.wv, State.raise, State.updMe_updMe]
  rfl

theorem completes_writeVec (hu : u.on = true) (d : VReg) (r : VecRes) (pc : Word) :
    Completes s (State.after s u (s.writeVec d r) pc) u pc [] [] [d.toNat] r.flags [] ∧
      (State.after s u (s.writeVec d r) pc).rv d = blend (s.rv d) r.val r.mask := by
  have hc := (s.me.setV_changes s.lv d.toNat (blend (s.rv d) r.val r.mask)).trans
    (((s.me.setV d.toNat (blend (s.rv d) r.val r.mask)).raise_changes s.lv r.flags))
  rw [FFlags.none_or] at hc
  refine ⟨?_, ?_⟩
  · rw [writeVec_eq]; exact completes_of_changes hu hc (by simp) pc
  · rw [State.rv, vreg_after, writeVec_eq]
    show (SMap.get _ (SMap.put _ _ _) _ : Core).vreg _ = _
    rw [SMap.get_put_same]
    unfold Core.raise Core.vreg
    rw [Core.setThr_v]
    exact SMap.get_put_setV _ _ _
where
  SMap.get_put_setV (c : Core) (r : Nat) (x : Vec) : (c.setV r x).v.get 0 r = x := by
    have := c.vreg_setV r r x
    rwa [if_pos rfl] at this

/-- An instruction whose effect is to write one vector register lane by lane. -/
theorem answersV_of_done {i : Instr} {d : VReg} {ty : BitVec 4} {act : Nat → Bool} {r : Nat → LaneRes}
    {body : State → Res} (h : IssuesPlain s u) (hi : exec i s = s.runs u body)
    (hb : body s = .done (s.writeVec d (lanewise ty.toNat act r))) : AnswersV s i u d ty.toNat act r := by
  obtain ⟨h1, h2⟩ := completes_writeVec (s := s) h.enabled d (lanewise ty.toNat act r) (s.pc + word u.len)
  rw [lanewise_flags] at h1
  exact ⟨_, hi.trans (runs_done h hb), h1, by rw [h2]; exact lanewise_lanes ty act r (s.rv d)⟩

end Sys2Proof
end

