-- ==== Sys2Proof/Laws/Memory.lean ====
section
/-!
SUPPORT. Instructions that wait, and the loads and stores of one element: what each answers, once for all of them.
-/

namespace Sys2Proof

open Sys2Proof.Machine

variable {s : State} {u : Uses}

/-! ## Waiting -/

theorem runs_wait (h : IssuesPlain s u) {body : State → Res} {t : State} {w : Hold} (hb : body s = .wait t w) :
    s.runs u body = .next (State.waiting s u t w) := by
  have hp : u.rs.map (fun r => (r, s.srcOf r)) = u.rs.map (fun r => (r, s.me.g s.lv r)) :=
    List.map_congr_left fun r hr => by rw [srcOf_of_plain h hr]
  rw [State.runs, issueWith_of_issues h.toIssues, hb]
  simp only [State.settle, State.waiting, State.keepSrcs, h.noPort, Bool.false_eq_true, if_false, State.updMe_updMe, hp]
  have h1 : (s.me.thr s.me.level).heldV = [] := h.freshV
  have h2 : (s.me.thr s.me.level).late = none := h.onTime
  simp only [Core.keepOld, State.lv, h1, h2, List.nil_append]
  congr 2
  funext c
  cases s.me.level <;> rfl

theorem runs_trap (h : Issues s u) {body : State → Res} {code : Nat} {v : Word} (hb : body s = .trap s code v) :
    s.runs u body = .next (s.trap code v) := by
  rw [State.runs, issueWith_of_issues h, hb]; rfl

/-! ## What issuing leaves -/

theorem Core.g_resume (c : Core) (lv lv' : Bool) (pc : Word) (lim : Nat) (b : Bool) (r : Nat) :
    ((c.issued lv u lim b).resume lv pc).g lv' r = c.g lv' r := by
  cases lv <;> cases lv' <;> rfl

theorem Core.p_resume (c : Core) (lv lv' : Bool) (pc : Word) (lim : Nat) (b : Bool) (r : Nat) :
    ((c.issued lv u lim b).resume lv pc).p lv' r = c.p lv' r := by
  cases lv <;> cases lv' <;> rfl

/-- An effect that changes, of the cores, only the executing core's pending results. -/
structure OnlyPends (s e : State) : Prop where
  cur : e.cur = s.cur
  me : ∃ ps as, e.me = { s.me with pend := ps, arrived := as }
  others : ∀ k, k ≠ s.cur → e.core k = s.core k
  memory : e.mem = s.mem
  system : e.sys = s.sys

theorem core_updMe_of_ne (e : State) (f : Core → Core) {k : Nat} (h : k ≠ e.cur) : (e.updMe f).core k = e.core k := by
  simp only [State.updMe, State.updCore, State.core, State.setCore]
  exact SMap.get_put_other _ _ (Ne.symm h) _

theorem untouched_after {e : State} (h : OnlyPends s e) (pc : Word) : Untouched s (State.after s u e pc) := by
  obtain ⟨ps, as, hme⟩ := h.me
  have hm : (State.after s u e pc).me = (e.me.issued s.lv u s.ctr false).resume s.lv pc := e.me_updMe _
  constructor
  case general => intro lv r; rw [hm, Core.g_resume, hme]; rfl
  case predicates => intro lv r; rw [hm, Core.p_resume, hme]; rfl
  case vectors => rw [hm, hme]; cases s.lv <;> rfl
  case flags => intro lv; rw [hm, hme]; cases s.lv <;> cases lv <;> rfl
  case traps => rw [hm, hme]; cases s.lv <;> exact ⟨rfl, rfl, rfl, rfl, rfl, rfl⟩
  case memory => exact h.memory
  case system => exact h.system
  case others =>
    intro k hk
    rw [State.after, core_updMe_of_ne _ _ (by rw [h.cur]; exact hk)]
    exact h.others k hk

theorem waiting_me (e : State) (w : Hold) :
    (State.waiting s u e w).me = (e.me.issued s.lv u s.ctr false).setThr s.lv
      { (e.me.issued s.lv u s.ctr false).thr s.lv with
        hold := w, held := u.rs.map (fun r => (r, s.me.g s.lv r)),
        heldV := (u.vs.filter s.me.windowV).map (fun r => (r, s.me.vreg r)),
        late := (s.me.violated { u with ws := u.mw, vw := [] }).map (fun p => p.pc) } := by
  rw [State.waiting, State.me_updMe, State.me_updMe]

theorem untouched_waiting {e : State} (h : OnlyPends s e) (w : Hold) : Untouched s (State.waiting s u e w) := by
  obtain ⟨ps, as, hme⟩ := h.me
  have hm := waiting_me (s := s) (u := u) e w
  constructor
  case general => intro lv r; rw [hm, hme]; cases s.lv <;> cases lv <;> rfl
  case predicates => intro lv r; rw [hm, hme]; cases s.lv <;> cases lv <;> rfl
  case vectors => rw [hm, hme]; cases s.lv <;> rfl
  case flags => intro lv; rw [hm, hme]; cases s.lv <;> cases lv <;> rfl
  case traps => rw [hm, hme]; cases s.lv <;> exact ⟨rfl, rfl, rfl, rfl, rfl, rfl⟩
  case memory => exact h.memory
  case system => exact h.system
  case others =>
    intro k hk
    rw [State.waiting, core_updMe_of_ne _ _ (by show k ≠ (e.updMe _).cur; exact h.cur ▸ hk),
      core_updMe_of_ne _ _ (by rw [h.cur]; exact hk)]
    exact h.others k hk

theorem onlyPends_send (h : OnlyPends s e) (r : Req) : OnlyPends s (e.send r) :=
  ⟨h.cur, h.me, h.others, h.memory, h.system⟩

theorem onlyPends_putPend {e : State} (h : OnlyPends s e) (p : Pend) : OnlyPends s (e.putPend p) := by
  obtain ⟨ps, as, hme⟩ := h.me
  refine ⟨h.cur, ⟨ps ++ [p], (Core.noteArrivals { s.me with pend := ps ++ [p], arrived := as }).arrived, ?_⟩, ?_, h.memory, h.system⟩
  · rw [State.putPend, State.me_updMe, hme]; rfl
  · intro k hk
    rw [State.putPend, core_updMe_of_ne _ _ (by rw [h.cur]; exact hk)]
    exact h.others k hk

theorem onlyPends_of_quiet {s' : State} (h : Quiet s s') (n : Nat) : OnlyPends s { s' with ctr := n } := by
  rw [h]; exact ⟨rfl, ⟨s.me.pend, s.me.arrived, rfl⟩, fun _ _ => rfl, rfl, rfl⟩

theorem onlyPends_setBay {e : State} (h : OnlyPends s e) (k : Nat) (b : Bay) : OnlyPends s (e.setBay k b) :=
  ⟨h.cur, h.me, h.others, h.memory, h.system⟩

/-! ## One element -/

theorem misaligned_none {n : Nat} {a : Word} (h : a.toNat % n = 0) : misaligned [{ n := n, addr := a : Elem }] = none := by
  simp [misaligned, h]

theorem misaligned_some {n : Nat} {a : Word} (h : a.toNat % n ≠ 0) :
    misaligned [{ n := n, addr := a : Elem }] = some { n := n, addr := a } := by
  have : (a.toNat % n != 0) = true := by simpa using h
  simp [misaligned, List.find?, this]

theorem placeAll_one {acc : Acc} {ok : Bool} {e : Elem} {g : Go} {s' : State} (h : s.place acc ok e.addr = (g, s')) :
    s.placeAll acc ok [e] = ([(e, g)], s') := by
  simp [State.placeAll, h]

/-- A store of the core in its store queue gives a load its bytes (R132). -/
theorem startLoad_data {p : Pend} {h : Hint} {sx : Bool} {e : Elem} {l : Loc} {b : BitVec 128} {x : Nat}
    (hx : s.forward l e.n b = .data x) : s.startLoad p h sx e l b = (p.take e.byte e.n sx x, s) := by
  unfold State.startLoad
  rw [hx]

/-- How a load starts in a core memory of its own die, where no store gives its bytes (R141). -/
theorem startLoad_near {p : Pend} {h : Hint} {sx : Bool} {e : Elem} {l : Loc} {b : BitVec 128}
    (hx : ∀ x, s.forward l e.n b ≠ .data x) (hg : l.isGlob = false) (hd : dieOf l.tile = dieOf (tileOf s.cur)) :
    s.startLoad p h sx e l b = (p, s.send { op := .load, va := e.addr, loc := l, n := e.n, bytes := b, hint := h,
                                               pend := some p.id, lane := e.byte, elem := e.idx, sext := sx }) := by
  unfold State.startLoad
  cases hf : s.forward l e.n b with
  | data x => exact absurd hf (hx x)
  | none => cases l <;> simp_all [Loc.isGlob]
  | partly => cases l <;> simp_all [Loc.isGlob]

/-- How it starts in one of the other die. -/
theorem startLoad_far {p : Pend} {h : Hint} {sx : Bool} {e : Elem} {l : Loc} {b : BitVec 128}
    (hx : ∀ x, s.forward l e.n b ≠ .data x) (hg : l.isGlob = false) (hd : dieOf l.tile ≠ dieOf (tileOf s.cur)) :
    s.startLoad p h sx e l b = ({ p with acc := p.acc + 1 },
      s.send { op := .load, va := e.addr, loc := l, n := e.n, bytes := b, hint := h, pend := some p.id, lane := e.byte,
               elem := e.idx, sext := sx }) := by
  unfold State.startLoad
  cases hf : s.forward l e.n b with
  | data x => exact absurd hf (hx x)
  | none => cases l <;> simp_all [Loc.isGlob]
  | partly => cases l <;> simp_all [Loc.isGlob]

/-- How it starts in a line of a stack: the bay's copy gives its bytes or its poison, or the home slice is asked. -/
theorem startLoad_glob {p : Pend} {h : Hint} {sx : Bool} {e : Elem} {pa : Nat} {b : BitVec 128}
    (hx : ∀ x, s.forward (.glob pa) e.n b ≠ .data x) :
    s.startLoad p h sx e (.glob pa) b =
      match s.l1Hit (.glob pa) h with
      | some c =>
        (if c.poison then { p with bad := worseLane p.bad (e.idx, tPOISON, e.addr) }
         else p.take e.byte e.n sx (vecBytes c.data (pa % 128) e.n),
         s.setBay (bayOf s.cur) ((s.bay (bayOf s.cur)).l1Touch (lineOf pa) s.stepNo))
      | none =>
        ({ p with acc := p.acc + 1 },
         s.send { op := .load, va := e.addr, loc := .glob pa, n := e.n, bytes := b, hint := h, pend := some p.id,
                  lane := e.byte, elem := e.idx, sext := sx }) := by
  unfold State.startLoad
  cases hf : s.forward (.glob pa) e.n b with
  | data x => exact absurd hf (hx x)
  | none => rfl
  | partly => rfl

/-- The scalar loads (R134). -/
theorem loadsG_of_load {i : Instr} {d a : Reg} {la : BitVec 4} {h : Hint} {off : Word} {len n : Nat} {sext ok : Bool}
    (hi : ∀ s, exec i s = execLoad d a la h off len n sext ok s)
    (hp : IssuesPlain s { scalar len [a] [d] with long := true }) :
    LoadsG s i { scalar len [a] [d] with long := true } d la h sext n ok (s.rg a + off) := by
  have hs : s.src a = s.rg a := src_of_plain hp (by simp [scalar])
  have hh : (s.me.thr s.lv).hold = .ready := hp.ready
  have hi' : exec i s = s.runs { scalar len [a] [d] with long := true } (fun s =>
    s.loadElems (greg s.lv d.toNat) la h sext 0 ok sysRead [{ n := n, addr := s.src a + off }]) := hi s
  generalize hA : s.rg a + off = A
  have mis0 : A.toNat % n = 0 → misaligned [{ n := n, addr := A : Elem }] = none := misaligned_none
  have mis1 : A.toNat % n ≠ 0 → misaligned [{ n := n, addr := A : Elem }] = some { n := n, addr := A } := misaligned_some
  refine ⟨fun h0 => ?_, fun code v s' h0 hpl => ?_, fun r s' h0 hpl => ?_, fun l s' h0 hpl hsc hrm hpart => ?_⟩
  · rw [hi']
    refine runs_trap hp.toIssues ?_
    simp only [State.loadElems, hh, hs, hA, mis1 h0]
  · rw [hi']
    refine runs_trap hp.toIssues ?_
    simp only [State.loadElems, hh, hs, hA, mis0 h0, placeAll_one (e := { n := n, addr := A }) hpl, firstTrap]
  · rw [Performs, hi']
    refine runs_done hp ?_
    simp only [State.loadElems, hh, hs, hA, mis0 h0, placeAll_one (e := { n := n, addr := A }) hpl, firstTrap]
    simp [anyWait, firstPage, goLocs, sysRead]
  · have hf' : (s.forward l n (BitVec.allOnes 128) == .partly) = false := by simpa using hpart
    have body : s.loadElems (greg s.lv d.toNat) la h sext 0 ok sysRead [{ n := n, addr := A }] =
        (let (p, t) := State.startLoad { s' with ctr := s'.ctr + 1 } (s'.newPend (greg s.lv d.toNat) la.toNat 1 .mem 0) h sext
            { n := n, addr := A } l (BitVec.allOnes 128)
         s.loadEnd p t) := by
      simp only [State.loadElems, hh, mis0 h0, placeAll_one (e := { n := n, addr := A }) hpl, firstTrap, firstPage, anyWait,
        goLocs, List.any_cons, List.any_nil, hsc, hrm, hf', Bool.or_false]
      simp only [Bool.false_eq_true, if_false, List.length_cons, List.length_nil, State.startLoads]
    have quiet : Quiet s s' → OnlyPends s { s' with ctr := s'.ctr + 1 } := fun q => onlyPends_of_quiet q _
    refine ⟨fun x hx => ⟨?_, fun q => untouched_after (onlyPends_putPend (quiet q) _) _⟩, fun hx => ?_⟩
    · rw [Performs, hi']
      refine runs_done hp ?_
      simp only [hs, hA]
      rw [body, startLoad_data (e := { n := n, addr := A }) hx]
      simp [State.loadEnd, State.newPend, Pend.take]
    · have sent := fun q => onlyPends_send (quiet q)
      refine ⟨fun hg hd => ⟨?_, fun q => untouched_after (onlyPends_putPend (sent q _) _) _⟩,
        fun hg hd => ⟨?_, fun q => untouched_waiting (onlyPends_putPend (sent q _) _) _⟩, fun pa hl => ?_⟩
      · rw [Performs, hi']
        refine runs_done hp ?_
        simp only [hs, hA]
        rw [body, startLoad_near (e := { n := n, addr := A }) hx hg hd]
        rfl
      · rw [Waits, hi']
        refine runs_wait hp ?_
        simp only [hs, hA]
        rw [body, startLoad_far (e := { n := n, addr := A }) hx hg hd]
        rfl
      · subst hl
        refine ⟨fun hm => ⟨?_, fun q => untouched_waiting (onlyPends_putPend (sent q _) _) _⟩,
          fun c hc hpo => ⟨?_, fun q => untouched_after (onlyPends_putPend (onlyPends_setBay (quiet q) _ _) _) _⟩, fun c hc hpo => ?_⟩
        · rw [Waits, hi']
          refine runs_wait hp ?_
          simp only [hs, hA]
          rw [body, startLoad_glob (e := { n := n, addr := A }) hx]
          simp only [hm]
          rfl
        · rw [Performs, hi']
          refine runs_done hp ?_
          simp only [hs, hA]
          rw [body, startLoad_glob (e := { n := n, addr := A }) hx]
          simp [hc, hpo, State.loadEnd, State.newPend, Pend.take]
        · rw [hi']
          refine runs_trap hp.toIssues ?_
          simp only [hs, hA]
          rw [body, startLoad_glob (e := { n := n, addr := A }) hx]
          simp [hc, hpo, State.loadEnd, State.newPend, worseLane]

/-- The scalar stores (R134). -/
theorem storesG_of_store {i : Instr} {d a : Reg} {h : Hint} {off : Word} {len n : Nat} {ok : Bool}
    (hi : ∀ s, exec i s = execStore d a h off len n ok s)
    (hp : IssuesPlain s (scalar len [d, a] [])) :
    StoresG s i (scalar len [d, a] []) h n ok (s.rg a + off) (s.rg d) := by
  have hq := hp.queued
  have hs : s.src a = s.rg a := src_of_plain hp (by simp [scalar])
  have hd : s.src d = s.rg d := src_of_plain hp (by simp [scalar])
  have hi' : exec i s = s.runs (scalar len [d, a] []) (fun s =>
    s.storeElems h ok sysWrite [({ n := n, addr := s.src a + off }, (s.src d).toNat % 2 ^ (8 * n))]) := hi s
  generalize hA : s.rg a + off = A
  have mis0 : A.toNat % n = 0 → misaligned [{ n := n, addr := A : Elem }] = none := misaligned_none
  have mis1 : A.toNat % n ≠ 0 → misaligned [{ n := n, addr := A : Elem }] = some { n := n, addr := A } := misaligned_some
  refine ⟨fun h0 => ?_, fun code v s' h0 hpl => ?_, fun r s' t h0 hpl hfull hw => ?_, fun l s' h0 hpl => ⟨fun hb => ?_, fun hb hsc hfull => ⟨?_, fun q => ?_⟩⟩⟩
  · rw [hi']
    refine runs_trap hp.toIssues ?_
    simp only [State.storeElems, hq, hs, hA, List.map, mis1 h0]
    rfl
  · rw [hi']
    refine runs_trap hp.toIssues ?_
    simp only [State.storeElems, hq, hs, hA, List.map, mis0 h0, placeAll_one (e := { n := n, addr := A }) hpl, firstTrap]
    rfl
  · rw [Performs, hi']
    refine runs_done hp ?_
    simp only [State.storeElems, hq, hs, hd, hA, List.map, mis0 h0, placeAll_one (e := { n := n, addr := A }) hpl, firstTrap]
    simp [anyWait, firstPage, goLocs, hfull, hw]
  · rw [hi']
    refine runs_trap hp.toIssues ?_
    simp only [State.storeElems, hq, hs, hA, List.map, mis0 h0, placeAll_one (e := { n := n, addr := A }) hpl, firstTrap]
    simp [goLocs, hb]
  · rw [Performs, hi']
    refine runs_done hp ?_
    simp only [State.storeElems, hq, hs, hd, hA, List.map, mis0 h0, placeAll_one (e := { n := n, addr := A }) hpl, firstTrap]
    simp [anyWait, firstPage, goLocs, hb, hsc, hfull]
  · exact untouched_after (onlyPends_send (e := s') (by have := onlyPends_of_quiet q s'.ctr; exact this) _) _

end Sys2Proof
end

