-- ==== Sys2Proof/Laws/PerInstr.lean ====
section
/-!
SUPPORT. The family EncodedLength (R38): an instruction that a core decodes is one, three or five words; the steps of
other units have no words.
-/

namespace Sys2Proof.Laws.EncodedLength

/-- A decoded instruction has one, three or five words; the steps of other units, and the events of a fetch that gives no
instruction, have none. -/
def Statement (i : Instr) : Prop :=
  ((i.unit ≠ .core ∨ i matches .illegalEncoding _ ∨ i matches .fetchFault _ _) ∧ encode i = []) ∨
    (i.unit = .core ∧ ((encode i).length = 1 ∨ (encode i).length = 3 ∨ (encode i).length = 5))

theorem add (d a b : Reg) : Statement (.add d a b) := Or.inr ⟨rfl, .inl rfl⟩
theorem sub (d a b : Reg) : Statement (.sub d a b) := Or.inr ⟨rfl, .inl rfl⟩
theorem mul (d a b : Reg) : Statement (.mul d a b) := Or.inr ⟨rfl, .inl rfl⟩
theorem mulh (d a b : Reg) : Statement (.mulh d a b) := Or.inr ⟨rfl, .inl rfl⟩
theorem mulhw (d a b : Reg) : Statement (.mulhw d a b) := Or.inr ⟨rfl, .inl rfl⟩
theorem and (d a b : Reg) : Statement (.and d a b) := Or.inr ⟨rfl, .inl rfl⟩
theorem or (d a b : Reg) : Statement (.or d a b) := Or.inr ⟨rfl, .inl rfl⟩
theorem xor (d a b : Reg) : Statement (.xor d a b) := Or.inr ⟨rfl, .inl rfl⟩
theorem andn (d a b : Reg) : Statement (.andn d a b) := Or.inr ⟨rfl, .inl rfl⟩
theorem orn (d a b : Reg) : Statement (.orn d a b) := Or.inr ⟨rfl, .inl rfl⟩
theorem shl (d a b : Reg) : Statement (.shl d a b) := Or.inr ⟨rfl, .inl rfl⟩
theorem shr (d a b : Reg) : Statement (.shr d a b) := Or.inr ⟨rfl, .inl rfl⟩
theorem sra (d a b : Reg) : Statement (.sra d a b) := Or.inr ⟨rfl, .inl rfl⟩
theorem rot (d a b : Reg) : Statement (.rot d a b) := Or.inr ⟨rfl, .inl rfl⟩
theorem min (d a b : Reg) : Statement (.min d a b) := Or.inr ⟨rfl, .inl rfl⟩
theorem max (d a b : Reg) : Statement (.max d a b) := Or.inr ⟨rfl, .inl rfl⟩
theorem minw (d a b : Reg) : Statement (.minw d a b) := Or.inr ⟨rfl, .inl rfl⟩
theorem maxw (d a b : Reg) : Statement (.maxw d a b) := Or.inr ⟨rfl, .inl rfl⟩
theorem clz (d a : Reg) : Statement (.clz d a) := Or.inr ⟨rfl, .inl rfl⟩
theorem ctz (d a : Reg) : Statement (.ctz d a) := Or.inr ⟨rfl, .inl rfl⟩
theorem popc (d a : Reg) : Statement (.popc d a) := Or.inr ⟨rfl, .inl rfl⟩
theorem brev (d a : Reg) : Statement (.brev d a) := Or.inr ⟨rfl, .inl rfl⟩
theorem bswp (d a : Reg) : Statement (.bswp d a) := Or.inr ⟨rfl, .inl rfl⟩
theorem div (d a b : Reg) (la : BitVec 4) : Statement (.div d a b la) := Or.inr ⟨rfl, .inl rfl⟩
theorem divw (d a b : Reg) (la : BitVec 4) : Statement (.divw d a b la) := Or.inr ⟨rfl, .inl rfl⟩
theorem rem (d a b : Reg) (la : BitVec 4) : Statement (.rem d a b la) := Or.inr ⟨rfl, .inl rfl⟩
theorem remw (d a b : Reg) (la : BitVec 4) : Statement (.remw d a b la) := Or.inr ⟨rfl, .inl rfl⟩
theorem peq (d : PReg) (a b : Reg) : Statement (.peq d a b) := Or.inr ⟨rfl, .inl rfl⟩
theorem pne (d : PReg) (a b : Reg) : Statement (.pne d a b) := Or.inr ⟨rfl, .inl rfl⟩
theorem plt (d : PReg) (a b : Reg) : Statement (.plt d a b) := Or.inr ⟨rfl, .inl rfl⟩
theorem ple (d : PReg) (a b : Reg) : Statement (.ple d a b) := Or.inr ⟨rfl, .inl rfl⟩
theorem pltw (d : PReg) (a b : Reg) : Statement (.pltw d a b) := Or.inr ⟨rfl, .inl rfl⟩
theorem plew (d : PReg) (a b : Reg) : Statement (.plew d a b) := Or.inr ⟨rfl, .inl rfl⟩
theorem pand (d a b : PReg) : Statement (.pand d a b) := Or.inr ⟨rfl, .inl rfl⟩
theorem por (d a b : PReg) : Statement (.por d a b) := Or.inr ⟨rfl, .inl rfl⟩
theorem pxor (d a b : PReg) : Statement (.pxor d a b) := Or.inr ⟨rfl, .inl rfl⟩
theorem pnot (d a : PReg) : Statement (.pnot d a) := Or.inr ⟨rfl, .inl rfl⟩
theorem sel (d a b : Reg) (p : PReg) : Statement (.sel d a b p) := Or.inr ⟨rfl, .inl rfl⟩
theorem nrand (d a b : Reg) : Statement (.nrand d a b) := Or.inr ⟨rfl, .inl rfl⟩
theorem addi (d a : Reg) (imm : BitVec 12) : Statement (.addi d a imm) := Or.inr ⟨rfl, .inl rfl⟩
theorem addiLiteral (d a : Reg) (lit : BitVec 64) : Statement (.addiLiteral d a lit) := Or.inr ⟨rfl, .inr (.inl rfl)⟩
theorem andi (d a : Reg) (imm : BitVec 12) : Statement (.andi d a imm) := Or.inr ⟨rfl, .inl rfl⟩
theorem andiLiteral (d a : Reg) (lit : BitVec 64) : Statement (.andiLiteral d a lit) := Or.inr ⟨rfl, .inr (.inl rfl)⟩
theorem ori (d a : Reg) (imm : BitVec 12) : Statement (.ori d a imm) := Or.inr ⟨rfl, .inl rfl⟩
theorem oriLiteral (d a : Reg) (lit : BitVec 64) : Statement (.oriLiteral d a lit) := Or.inr ⟨rfl, .inr (.inl rfl)⟩
theorem xori (d a : Reg) (imm : BitVec 12) : Statement (.xori d a imm) := Or.inr ⟨rfl, .inl rfl⟩
theorem xoriLiteral (d a : Reg) (lit : BitVec 64) : Statement (.xoriLiteral d a lit) := Or.inr ⟨rfl, .inr (.inl rfl)⟩
theorem shli (d a : Reg) (n : BitVec 6) : Statement (.shli d a n) := Or.inr ⟨rfl, .inl rfl⟩
theorem shri (d a : Reg) (n : BitVec 6) : Statement (.shri d a n) := Or.inr ⟨rfl, .inl rfl⟩
theorem srai (d a : Reg) (n : BitVec 6) : Statement (.srai d a n) := Or.inr ⟨rfl, .inl rfl⟩
theorem roti (d a : Reg) (n : BitVec 6) : Statement (.roti d a n) := Or.inr ⟨rfl, .inl rfl⟩
theorem peqi (d : PReg) (a : Reg) (imm : BitVec 12) : Statement (.peqi d a imm) := Or.inr ⟨rfl, .inl rfl⟩
theorem peqiLiteral (d : PReg) (a : Reg) (lit : BitVec 64) : Statement (.peqiLiteral d a lit) := Or.inr ⟨rfl, .inr (.inl rfl)⟩
theorem plti (d : PReg) (a : Reg) (imm : BitVec 12) : Statement (.plti d a imm) := Or.inr ⟨rfl, .inl rfl⟩
theorem pltiLiteral (d : PReg) (a : Reg) (lit : BitVec 64) : Statement (.pltiLiteral d a lit) := Or.inr ⟨rfl, .inr (.inl rfl)⟩
theorem bfx (d a : Reg) (pos wm1 : BitVec 6) : Statement (.bfx d a pos wm1) := Or.inr ⟨rfl, .inl rfl⟩
theorem bfi (d a : Reg) (pos wm1 : BitVec 6) : Statement (.bfi d a pos wm1) := Or.inr ⟨rfl, .inl rfl⟩
theorem exts (d a : Reg) (wm1 : BitVec 6) : Statement (.exts d a wm1) := Or.inr ⟨rfl, .inl rfl⟩
theorem extz (d a : Reg) (wm1 : BitVec 6) : Statement (.extz d a wm1) := Or.inr ⟨rfl, .inl rfl⟩
theorem movl (d : Reg) (imm : BitVec 12) : Statement (.movl d imm) := Or.inr ⟨rfl, .inl rfl⟩
theorem movlLiteral (d : Reg) (lit : BitVec 64) : Statement (.movlLiteral d lit) := Or.inr ⟨rfl, .inr (.inl rfl)⟩
theorem addpc (d : Reg) (imm : BitVec 12) : Statement (.addpc d imm) := Or.inr ⟨rfl, .inl rfl⟩
theorem addpcLiteral (d : Reg) (lit : BitVec 64) : Statement (.addpcLiteral d lit) := Or.inr ⟨rfl, .inr (.inl rfl)⟩
theorem jalr (d a : Reg) (imm : BitVec 12) : Statement (.jalr d a imm) := Or.inr ⟨rfl, .inl rfl⟩
theorem jalrLiteral (d a : Reg) (lit : BitVec 64) : Statement (.jalrLiteral d a lit) := Or.inr ⟨rfl, .inr (.inl rfl)⟩
theorem loop (d : Reg) (imm : BitVec 12) : Statement (.loop d imm) := Or.inr ⟨rfl, .inl rfl⟩
theorem loopLiteral (d : Reg) (lit : BitVec 64) : Statement (.loopLiteral d lit) := Or.inr ⟨rfl, .inr (.inl rfl)⟩
theorem br (gu : Guard) (disp : BitVec 20) : Statement (.br gu disp) := Or.inr ⟨rfl, .inl rfl⟩
theorem jal (gu : Guard) (disp : BitVec 20) : Statement (.jal gu disp) := Or.inr ⟨rfl, .inl rfl⟩
theorem ldb (d a : Reg) (la : BitVec 4) (rh : Hint) (off : BitVec 6) : Statement (.ldb d a la rh off) := Or.inr ⟨rfl, .inl rfl⟩
theorem ldbLiteral (d a : Reg) (la : BitVec 4) (rh : Hint) (lit : BitVec 64) : Statement (.ldbLiteral d a la rh lit) := Or.inr ⟨rfl, .inr (.inl rfl)⟩
theorem ldbs (d a : Reg) (la : BitVec 4) (rh : Hint) (off : BitVec 6) : Statement (.ldbs d a la rh off) := Or.inr ⟨rfl, .inl rfl⟩
theorem ldbsLiteral (d a : Reg) (la : BitVec 4) (rh : Hint) (lit : BitVec 64) : Statement (.ldbsLiteral d a la rh lit) := Or.inr ⟨rfl, .inr (.inl rfl)⟩
theorem ldh (d a : Reg) (la : BitVec 4) (rh : Hint) (off : BitVec 6) : Statement (.ldh d a la rh off) := Or.inr ⟨rfl, .inl rfl⟩
theorem ldhLiteral (d a : Reg) (la : BitVec 4) (rh : Hint) (lit : BitVec 64) : Statement (.ldhLiteral d a la rh lit) := Or.inr ⟨rfl, .inr (.inl rfl)⟩
theorem ldhs (d a : Reg) (la : BitVec 4) (rh : Hint) (off : BitVec 6) : Statement (.ldhs d a la rh off) := Or.inr ⟨rfl, .inl rfl⟩
theorem ldhsLiteral (d a : Reg) (la : BitVec 4) (rh : Hint) (lit : BitVec 64) : Statement (.ldhsLiteral d a la rh lit) := Or.inr ⟨rfl, .inr (.inl rfl)⟩
theorem ldw (d a : Reg) (la : BitVec 4) (rh : Hint) (off : BitVec 6) : Statement (.ldw d a la rh off) := Or.inr ⟨rfl, .inl rfl⟩
theorem ldwLiteral (d a : Reg) (la : BitVec 4) (rh : Hint) (lit : BitVec 64) : Statement (.ldwLiteral d a la rh lit) := Or.inr ⟨rfl, .inr (.inl rfl)⟩
theorem ldws (d a : Reg) (la : BitVec 4) (rh : Hint) (off : BitVec 6) : Statement (.ldws d a la rh off) := Or.inr ⟨rfl, .inl rfl⟩
theorem ldwsLiteral (d a : Reg) (la : BitVec 4) (rh : Hint) (lit : BitVec 64) : Statement (.ldwsLiteral d a la rh lit) := Or.inr ⟨rfl, .inr (.inl rfl)⟩
theorem ldd (d a : Reg) (la : BitVec 4) (rh : Hint) (off : BitVec 6) : Statement (.ldd d a la rh off) := Or.inr ⟨rfl, .inl rfl⟩
theorem lddLiteral (d a : Reg) (la : BitVec 4) (rh : Hint) (lit : BitVec 64) : Statement (.lddLiteral d a la rh lit) := Or.inr ⟨rfl, .inr (.inl rfl)⟩
theorem stb (d a : Reg) (rh : Hint) (off : BitVec 6) : Statement (.stb d a rh off) := Or.inr ⟨rfl, .inl rfl⟩
theorem stbLiteral (d a : Reg) (rh : Hint) (lit : BitVec 64) : Statement (.stbLiteral d a rh lit) := Or.inr ⟨rfl, .inr (.inl rfl)⟩
theorem sth (d a : Reg) (rh : Hint) (off : BitVec 6) : Statement (.sth d a rh off) := Or.inr ⟨rfl, .inl rfl⟩
theorem sthLiteral (d a : Reg) (rh : Hint) (lit : BitVec 64) : Statement (.sthLiteral d a rh lit) := Or.inr ⟨rfl, .inr (.inl rfl)⟩
theorem stw (d a : Reg) (rh : Hint) (off : BitVec 6) : Statement (.stw d a rh off) := Or.inr ⟨rfl, .inl rfl⟩
theorem stwLiteral (d a : Reg) (rh : Hint) (lit : BitVec 64) : Statement (.stwLiteral d a rh lit) := Or.inr ⟨rfl, .inr (.inl rfl)⟩
theorem std (d a : Reg) (rh : Hint) (off : BitVec 6) : Statement (.std d a rh off) := Or.inr ⟨rfl, .inl rfl⟩
theorem stdLiteral (d a : Reg) (rh : Hint) (lit : BitVec 64) : Statement (.stdLiteral d a rh lit) := Or.inr ⟨rfl, .inr (.inl rfl)⟩
theorem pref (a : Reg) (rh : Hint) (off : BitVec 6) : Statement (.pref a rh off) := Or.inr ⟨rfl, .inl rfl⟩
theorem prefLiteral (a : Reg) (rh : Hint) (lit : BitVec 64) : Statement (.prefLiteral a rh lit) := Or.inr ⟨rfl, .inr (.inl rfl)⟩
theorem evict (a : Reg) (rh : Hint) (off : BitVec 6) : Statement (.evict a rh off) := Or.inr ⟨rfl, .inl rfl⟩
theorem evictLiteral (a : Reg) (rh : Hint) (lit : BitVec 64) : Statement (.evictLiteral a rh lit) := Or.inr ⟨rfl, .inr (.inl rfl)⟩
theorem trap (imm : BitVec 12) : Statement (.trap imm) := Or.inr ⟨rfl, .inl rfl⟩
theorem gets (a : Reg) (num : BitVec 12) : Statement (.gets a num) := Or.inr ⟨rfl, .inl rfl⟩
theorem sets (a : Reg) (num : BitVec 12) : Statement (.sets a num) := Or.inr ⟨rfl, .inl rfl⟩
theorem tlbinvPage (a : Reg) (scope : BitVec 3) : Statement (.tlbinvPage a scope) := Or.inr ⟨rfl, .inl rfl⟩
theorem tlbinvAsid (a : Reg) (scope : BitVec 3) : Statement (.tlbinvAsid a scope) := Or.inr ⟨rfl, .inl rfl⟩
theorem tlbinvAll (a : Reg) (scope : BitVec 3) : Statement (.tlbinvAll a scope) := Or.inr ⟨rfl, .inl rfl⟩
theorem tlbinvPin (a : Reg) (scope : BitVec 3) : Statement (.tlbinvPin a scope) := Or.inr ⟨rfl, .inl rfl⟩
theorem bkpt (imm : BitVec 12) : Statement (.bkpt imm) := Or.inr ⟨rfl, .inl rfl⟩
theorem pair (gu : Guard) (sh : SHalf) (vh : VHalf) : Statement (.pair gu sh vh) := by
  refine Or.inr ⟨rfl, ?_⟩
  simp only [encode, pairWords]
  split <;> simp [litWords]
theorem vadd (gu : Guard) (ty : BitVec 4) (rm : BitVec 3) (sat : Bool) (d a b : VReg) : Statement (.vadd gu ty rm sat d a b) := Or.inr ⟨rfl, .inr (.inl rfl)⟩
theorem vsub (gu : Guard) (ty : BitVec 4) (rm : BitVec 3) (sat : Bool) (d a b : VReg) : Statement (.vsub gu ty rm sat d a b) := Or.inr ⟨rfl, .inr (.inl rfl)⟩
theorem vmul (gu : Guard) (ty : BitVec 4) (rm : BitVec 3) (sat : Bool) (d a b : VReg) : Statement (.vmul gu ty rm sat d a b) := Or.inr ⟨rfl, .inr (.inl rfl)⟩
theorem vfma (gu : Guard) (ty : BitVec 4) (rm : BitVec 3) (sat : Bool) (d a b c : VReg) : Statement (.vfma gu ty rm sat d a b c) := Or.inr ⟨rfl, .inr (.inl rfl)⟩
theorem vfms (gu : Guard) (ty : BitVec 4) (rm : BitVec 3) (sat : Bool) (d a b c : VReg) : Statement (.vfms gu ty rm sat d a b c) := Or.inr ⟨rfl, .inr (.inl rfl)⟩
theorem vfnma (gu : Guard) (ty : BitVec 4) (rm : BitVec 3) (sat : Bool) (d a b c : VReg) : Statement (.vfnma gu ty rm sat d a b c) := Or.inr ⟨rfl, .inr (.inl rfl)⟩
theorem vdiv (gu : Guard) (la ty : BitVec 4) (rm : BitVec 3) (sat : Bool) (d a b : VReg) : Statement (.vdiv gu la ty rm sat d a b) := Or.inr ⟨rfl, .inr (.inl rfl)⟩
theorem vsqrt (gu : Guard) (la ty : BitVec 4) (rm : BitVec 3) (d a : VReg) : Statement (.vsqrt gu la ty rm d a) := Or.inr ⟨rfl, .inr (.inl rfl)⟩
theorem vrsq (gu : Guard) (la ty : BitVec 4) (rm : BitVec 3) (d a : VReg) : Statement (.vrsq gu la ty rm d a) := Or.inr ⟨rfl, .inr (.inl rfl)⟩
theorem vmin (gu : Guard) (ty : BitVec 4) (d a b : VReg) : Statement (.vmin gu ty d a b) := Or.inr ⟨rfl, .inr (.inl rfl)⟩
theorem vmax (gu : Guard) (ty : BitVec 4) (d a b : VReg) : Statement (.vmax gu ty d a b) := Or.inr ⟨rfl, .inr (.inl rfl)⟩
theorem vabs (gu : Guard) (ty : BitVec 4) (sat : Bool) (d a : VReg) : Statement (.vabs gu ty sat d a) := Or.inr ⟨rfl, .inr (.inl rfl)⟩
theorem vneg (gu : Guard) (ty : BitVec 4) (sat : Bool) (d a : VReg) : Statement (.vneg gu ty sat d a) := Or.inr ⟨rfl, .inr (.inl rfl)⟩
theorem vclamp (gu : Guard) (ty : BitVec 4) (d a b c : VReg) : Statement (.vclamp gu ty d a b c) := Or.inr ⟨rfl, .inr (.inl rfl)⟩
theorem vcmp (gu : Guard) (ty : BitVec 4) (rel : BitVec 3) (d : PReg) (a b : VReg) : Statement (.vcmp gu ty rel d a b) := Or.inr ⟨rfl, .inr (.inl rfl)⟩
theorem vsel (gu : Guard) (ty : BitVec 4) (d a b : VReg) (p : PReg) : Statement (.vsel gu ty d a b p) := Or.inr ⟨rfl, .inr (.inl rfl)⟩
theorem vcvt (gu : Guard) (ty src : BitVec 4) (rm : BitVec 3) (sat : Bool) (d a c : VReg) (part : BitVec 4) : Statement (.vcvt gu ty src rm sat d a c part) := Or.inr ⟨rfl, .inr (.inl rfl)⟩
theorem vcvtLiteral (gu : Guard) (ty src : BitVec 4) (rm : BitVec 3) (sat : Bool) (d a c : VReg) (lit : BitVec 64) : Statement (.vcvtLiteral gu ty src rm sat d a c lit) := Or.inr ⟨rfl, .inr (.inr rfl)⟩
theorem vscale (gu : Guard) (ty src : BitVec 4) (d a : VReg) (part : BitVec 4) : Statement (.vscale gu ty src d a part) := Or.inr ⟨rfl, .inr (.inl rfl)⟩
theorem vscaleLiteral (gu : Guard) (ty src : BitVec 4) (d a : VReg) (lit : BitVec 64) : Statement (.vscaleLiteral gu ty src d a lit) := Or.inr ⟨rfl, .inr (.inr rfl)⟩
theorem vrsum (gu : Guard) (ty : BitVec 4) (sat : Bool) (d a : VReg) : Statement (.vrsum gu ty sat d a) := Or.inr ⟨rfl, .inr (.inl rfl)⟩
theorem vrmin (gu : Guard) (ty : BitVec 4) (d a : VReg) : Statement (.vrmin gu ty d a) := Or.inr ⟨rfl, .inr (.inl rfl)⟩
theorem vrmax (gu : Guard) (ty : BitVec 4) (d a : VReg) : Statement (.vrmax gu ty d a) := Or.inr ⟨rfl, .inr (.inl rfl)⟩
theorem vdot (gu : Guard) (ty : BitVec 4) (d a b : VReg) : Statement (.vdot gu ty d a b) := Or.inr ⟨rfl, .inr (.inl rfl)⟩
theorem viadd (gu : Guard) (ty : BitVec 4) (sat : Bool) (d a b : VReg) : Statement (.viadd gu ty sat d a b) := Or.inr ⟨rfl, .inr (.inl rfl)⟩
theorem visub (gu : Guard) (ty : BitVec 4) (sat : Bool) (d a b : VReg) : Statement (.visub gu ty sat d a b) := Or.inr ⟨rfl, .inr (.inl rfl)⟩
theorem vimul (gu : Guard) (ty : BitVec 4) (sat : Bool) (d a b : VReg) : Statement (.vimul gu ty sat d a b) := Or.inr ⟨rfl, .inr (.inl rfl)⟩
theorem vimad (gu : Guard) (ty : BitVec 4) (sat : Bool) (d a b c : VReg) : Statement (.vimad gu ty sat d a b c) := Or.inr ⟨rfl, .inr (.inl rfl)⟩
theorem vand (gu : Guard) (ty : BitVec 4) (d a b : VReg) : Statement (.vand gu ty d a b) := Or.inr ⟨rfl, .inr (.inl rfl)⟩
theorem vor (gu : Guard) (ty : BitVec 4) (d a b : VReg) : Statement (.vor gu ty d a b) := Or.inr ⟨rfl, .inr (.inl rfl)⟩
theorem vxor (gu : Guard) (ty : BitVec 4) (d a b : VReg) : Statement (.vxor gu ty d a b) := Or.inr ⟨rfl, .inr (.inl rfl)⟩
theorem vshl (gu : Guard) (ty : BitVec 4) (d a b : VReg) : Statement (.vshl gu ty d a b) := Or.inr ⟨rfl, .inr (.inl rfl)⟩
theorem vshr (gu : Guard) (ty : BitVec 4) (d a b : VReg) : Statement (.vshr gu ty d a b) := Or.inr ⟨rfl, .inr (.inl rfl)⟩
theorem vsra (gu : Guard) (ty : BitVec 4) (d a b : VReg) : Statement (.vsra gu ty d a b) := Or.inr ⟨rfl, .inr (.inl rfl)⟩
theorem vsplat (gu : Guard) (ty : BitVec 4) (d : VReg) (a : Reg) : Statement (.vsplat gu ty d a) := Or.inr ⟨rfl, .inr (.inl rfl)⟩
theorem vsplatLiteral (gu : Guard) (ty : BitVec 4) (d : VReg) (lit : BitVec 64) : Statement (.vsplatLiteral gu ty d lit) := Or.inr ⟨rfl, .inr (.inr rfl)⟩
theorem vperm (gu : Guard) (ty : BitVec 4) (d a b : VReg) : Statement (.vperm gu ty d a b) := Or.inr ⟨rfl, .inr (.inl rfl)⟩
theorem vext (gu : Guard) (ty : BitVec 4) (d : Reg) (a : VReg) (b : Reg) : Statement (.vext gu ty d a b) := Or.inr ⟨rfl, .inr (.inl rfl)⟩
theorem vins (gu : Guard) (ty : BitVec 4) (d : VReg) (a b : Reg) : Statement (.vins gu ty d a b) := Or.inr ⟨rfl, .inr (.inl rfl)⟩
theorem vmov (gu : Guard) (ty : BitVec 4) (d a : VReg) : Statement (.vmov gu ty d a) := Or.inr ⟨rfl, .inr (.inl rfl)⟩
theorem vld (gu : Guard) (la ty : BitVec 4) (rh : Hint) (d : VReg) (a : Reg) (imm : BitVec 24) : Statement (.vld gu la ty rh d a imm) := Or.inr ⟨rfl, .inr (.inl rfl)⟩
theorem vldLiteral (gu : Guard) (la ty : BitVec 4) (rh : Hint) (d : VReg) (a : Reg) (lit : BitVec 64) : Statement (.vldLiteral gu la ty rh d a lit) := Or.inr ⟨rfl, .inr (.inr rfl)⟩
theorem vst (gu : Guard) (ty : BitVec 4) (rh : Hint) (d : VReg) (a : Reg) (imm : BitVec 24) : Statement (.vst gu ty rh d a imm) := Or.inr ⟨rfl, .inr (.inl rfl)⟩
theorem vstLiteral (gu : Guard) (ty : BitVec 4) (rh : Hint) (d : VReg) (a : Reg) (lit : BitVec 64) : Statement (.vstLiteral gu ty rh d a lit) := Or.inr ⟨rfl, .inr (.inr rfl)⟩
theorem vlds (gu : Guard) (la ty : BitVec 4) (rh : Hint) (d : VReg) (a b : Reg) (imm : BitVec 24) : Statement (.vlds gu la ty rh d a b imm) := Or.inr ⟨rfl, .inr (.inl rfl)⟩
theorem vldsLiteral (gu : Guard) (la ty : BitVec 4) (rh : Hint) (d : VReg) (a b : Reg) (lit : BitVec 64) : Statement (.vldsLiteral gu la ty rh d a b lit) := Or.inr ⟨rfl, .inr (.inr rfl)⟩
theorem vsts (gu : Guard) (ty : BitVec 4) (rh : Hint) (d : VReg) (a b : Reg) (imm : BitVec 24) : Statement (.vsts gu ty rh d a b imm) := Or.inr ⟨rfl, .inr (.inl rfl)⟩
theorem vstsLiteral (gu : Guard) (ty : BitVec 4) (rh : Hint) (d : VReg) (a b : Reg) (lit : BitVec 64) : Statement (.vstsLiteral gu ty rh d a b lit) := Or.inr ⟨rfl, .inr (.inr rfl)⟩
theorem vgath (gu : Guard) (la ty : BitVec 4) (rh : Hint) (d : VReg) (a : Reg) (b : VReg) (imm : BitVec 24) : Statement (.vgath gu la ty rh d a b imm) := Or.inr ⟨rfl, .inr (.inl rfl)⟩
theorem vgathLiteral (gu : Guard) (la ty : BitVec 4) (rh : Hint) (d : VReg) (a : Reg) (b : VReg) (lit : BitVec 64) : Statement (.vgathLiteral gu la ty rh d a b lit) := Or.inr ⟨rfl, .inr (.inr rfl)⟩
theorem vscat (gu : Guard) (ty : BitVec 4) (rh : Hint) (d : VReg) (a : Reg) (b : VReg) (imm : BitVec 24) : Statement (.vscat gu ty rh d a b imm) := Or.inr ⟨rfl, .inr (.inl rfl)⟩
theorem vscatLiteral (gu : Guard) (ty : BitVec 4) (rh : Hint) (d : VReg) (a : Reg) (b : VReg) (lit : BitVec 64) : Statement (.vscatLiteral gu ty rh d a b lit) := Or.inr ⟨rfl, .inr (.inr rfl)⟩
theorem tcfg (gu : Guard) (ty : BitVec 4) (t : TReg) (rows rb : BitVec 8) : Statement (.tcfg gu ty t rows rb) := Or.inr ⟨rfl, .inr (.inl rfl)⟩
theorem tld (gu : Guard) (la : BitVec 4) (rh : Hint) (d gs a b : Reg) (scale : Bool) (t : TReg) (bm : BitVec 8) : Statement (.tld gu la rh d gs a b scale t bm) := Or.inr ⟨rfl, .inr (.inl rfl)⟩
theorem tst (gu : Guard) (la : BitVec 4) (rh : Hint) (d gs a b : Reg) (scale : Bool) (t : TReg) : Statement (.tst gu la rh d gs a b scale t) := Or.inr ⟨rfl, .inr (.inl rfl)⟩
theorem tzero (gu : Guard) (t : TReg) : Statement (.tzero gu t) := Or.inr ⟨rfl, .inr (.inl rfl)⟩
theorem mma (gu : Guard) (la ty : BitVec 4) (sat z : Bool) (d gs : Reg) (ta tb : TReg) (abase : BitVec 15) : Statement (.mma gu la ty sat z d gs ta tb abase) := Or.inr ⟨rfl, .inr (.inl rfl)⟩
theorem mmac (gu : Guard) (la ty : BitVec 4) (sat z : Bool) (d gs : Reg) (ta tb : TReg) (abase : BitVec 15) : Statement (.mmac gu la ty sat z d gs ta tb abase) := Or.inr ⟨rfl, .inr (.inl rfl)⟩
theorem mpoll (gu : Guard) (d a : Reg) : Statement (.mpoll gu d a) := Or.inr ⟨rfl, .inr (.inl rfl)⟩
theorem mwait (gu : Guard) (d a : Reg) : Statement (.mwait gu d a) := Or.inr ⟨rfl, .inr (.inl rfl)⟩
theorem amov (gu : Guard) (t : TReg) (toa : Bool) (abase : BitVec 15) : Statement (.amov gu t toa abase) := Or.inr ⟨rfl, .inr (.inl rfl)⟩
theorem amovt (gu : Guard) (t : TReg) (abase : BitVec 15) : Statement (.amovt gu t abase) := Or.inr ⟨rfl, .inr (.inl rfl)⟩
theorem azero (gu : Guard) (a : Reg) (abase : BitVec 15) : Statement (.azero gu a abase) := Or.inr ⟨rfl, .inr (.inl rfl)⟩
theorem afin (gu : Guard) (ty acc : BitVec 4) (rm : BitVec 3) (sat : Bool) (t : TReg) (abase : BitVec 15) : Statement (.afin gu ty acc rm sat t abase) := Or.inr ⟨rfl, .inr (.inl rfl)⟩
theorem msave (gu : Guard) (la : BitVec 4) (d a : Reg) : Statement (.msave gu la d a) := Or.inr ⟨rfl, .inr (.inl rfl)⟩
theorem mrest (gu : Guard) (la : BitVec 4) (d a : Reg) : Statement (.mrest gu la d a) := Or.inr ⟨rfl, .inr (.inl rfl)⟩
theorem cpset (gu : Guard) (idx : BitVec 4) (a : Reg) : Statement (.cpset gu idx a) := Or.inr ⟨rfl, .inr (.inl rfl)⟩
theorem cpget (gu : Guard) (d : Reg) (idx : BitVec 4) : Statement (.cpget gu d idx) := Or.inr ⟨rfl, .inr (.inl rfl)⟩
theorem cpgo (gu : Guard) (la : BitVec 4) (d gs : Reg) : Statement (.cpgo gu la d gs) := Or.inr ⟨rfl, .inr (.inl rfl)⟩
theorem cpcan (gu : Guard) (d a : Reg) : Statement (.cpcan gu d a) := Or.inr ⟨rfl, .inr (.inl rfl)⟩
theorem sealr (gu : Guard) (la : BitVec 4) (d a : Reg) : Statement (.sealr gu la d a) := Or.inr ⟨rfl, .inr (.inl rfl)⟩
theorem mfill (gu : Guard) (la : BitVec 4) (rh : Hint) (d a b c : Reg) (count : BitVec 24) : Statement (.mfill gu la rh d a b c count) := Or.inr ⟨rfl, .inr (.inl rfl)⟩
theorem nmcmd (gu : Guard) (la : BitVec 4) (d a : Reg) : Statement (.nmcmd gu la d a) := Or.inr ⟨rfl, .inr (.inl rfl)⟩
theorem nmask (gu : Guard) (d a b : Reg) (thr : BitVec 24) : Statement (.nmask gu d a b thr) := Or.inr ⟨rfl, .inr (.inl rfl)⟩
theorem amoadd (gu : Guard) (la ty : BitVec 4) (sat : Bool) (rh : Hint) (d a b : Reg) (imm : BitVec 24) : Statement (.amoadd gu la ty sat rh d a b imm) := Or.inr ⟨rfl, .inr (.inl rfl)⟩
theorem amoaddLiteral (gu : Guard) (la ty : BitVec 4) (sat : Bool) (rh : Hint) (d a b : Reg) (lit : BitVec 64) : Statement (.amoaddLiteral gu la ty sat rh d a b lit) := Or.inr ⟨rfl, .inr (.inr rfl)⟩
theorem amomin (gu : Guard) (la ty : BitVec 4) (rh : Hint) (d a b : Reg) (imm : BitVec 24) : Statement (.amomin gu la ty rh d a b imm) := Or.inr ⟨rfl, .inr (.inl rfl)⟩
theorem amominLiteral (gu : Guard) (la ty : BitVec 4) (rh : Hint) (d a b : Reg) (lit : BitVec 64) : Statement (.amominLiteral gu la ty rh d a b lit) := Or.inr ⟨rfl, .inr (.inr rfl)⟩
theorem amomax (gu : Guard) (la ty : BitVec 4) (rh : Hint) (d a b : Reg) (imm : BitVec 24) : Statement (.amomax gu la ty rh d a b imm) := Or.inr ⟨rfl, .inr (.inl rfl)⟩
theorem amomaxLiteral (gu : Guard) (la ty : BitVec 4) (rh : Hint) (d a b : Reg) (lit : BitVec 64) : Statement (.amomaxLiteral gu la ty rh d a b lit) := Or.inr ⟨rfl, .inr (.inr rfl)⟩
theorem amoand (gu : Guard) (la ty : BitVec 4) (rh : Hint) (d a b : Reg) (imm : BitVec 24) : Statement (.amoand gu la ty rh d a b imm) := Or.inr ⟨rfl, .inr (.inl rfl)⟩
theorem amoandLiteral (gu : Guard) (la ty : BitVec 4) (rh : Hint) (d a b : Reg) (lit : BitVec 64) : Statement (.amoandLiteral gu la ty rh d a b lit) := Or.inr ⟨rfl, .inr (.inr rfl)⟩
theorem amoor (gu : Guard) (la ty : BitVec 4) (rh : Hint) (d a b : Reg) (imm : BitVec 24) : Statement (.amoor gu la ty rh d a b imm) := Or.inr ⟨rfl, .inr (.inl rfl)⟩
theorem amoorLiteral (gu : Guard) (la ty : BitVec 4) (rh : Hint) (d a b : Reg) (lit : BitVec 64) : Statement (.amoorLiteral gu la ty rh d a b lit) := Or.inr ⟨rfl, .inr (.inr rfl)⟩
theorem amoxor (gu : Guard) (la ty : BitVec 4) (rh : Hint) (d a b : Reg) (imm : BitVec 24) : Statement (.amoxor gu la ty rh d a b imm) := Or.inr ⟨rfl, .inr (.inl rfl)⟩
theorem amoxorLiteral (gu : Guard) (la ty : BitVec 4) (rh : Hint) (d a b : Reg) (lit : BitVec 64) : Statement (.amoxorLiteral gu la ty rh d a b lit) := Or.inr ⟨rfl, .inr (.inr rfl)⟩
theorem amoswp (gu : Guard) (la ty : BitVec 4) (rh : Hint) (d a b : Reg) (imm : BitVec 24) : Statement (.amoswp gu la ty rh d a b imm) := Or.inr ⟨rfl, .inr (.inl rfl)⟩
theorem amoswpLiteral (gu : Guard) (la ty : BitVec 4) (rh : Hint) (d a b : Reg) (lit : BitVec 64) : Statement (.amoswpLiteral gu la ty rh d a b lit) := Or.inr ⟨rfl, .inr (.inr rfl)⟩
theorem amocas (gu : Guard) (la ty : BitVec 4) (rh : Hint) (d a b c : Reg) (imm : BitVec 24) : Statement (.amocas gu la ty rh d a b c imm) := Or.inr ⟨rfl, .inr (.inl rfl)⟩
theorem amocasLiteral (gu : Guard) (la ty : BitVec 4) (rh : Hint) (d a b c : Reg) (lit : BitVec 64) : Statement (.amocasLiteral gu la ty rh d a b c lit) := Or.inr ⟨rfl, .inr (.inr rfl)⟩
theorem rdadd (gu : Guard) (ty : BitVec 4) (rh : Hint) (a b : Reg) (imm : BitVec 24) : Statement (.rdadd gu ty rh a b imm) := Or.inr ⟨rfl, .inr (.inl rfl)⟩
theorem rdaddLiteral (gu : Guard) (ty : BitVec 4) (rh : Hint) (a b : Reg) (lit : BitVec 64) : Statement (.rdaddLiteral gu ty rh a b lit) := Or.inr ⟨rfl, .inr (.inr rfl)⟩
theorem rdmin (gu : Guard) (ty : BitVec 4) (rh : Hint) (a b : Reg) (imm : BitVec 24) : Statement (.rdmin gu ty rh a b imm) := Or.inr ⟨rfl, .inr (.inl rfl)⟩
theorem rdminLiteral (gu : Guard) (ty : BitVec 4) (rh : Hint) (a b : Reg) (lit : BitVec 64) : Statement (.rdminLiteral gu ty rh a b lit) := Or.inr ⟨rfl, .inr (.inr rfl)⟩
theorem rdmax (gu : Guard) (ty : BitVec 4) (rh : Hint) (a b : Reg) (imm : BitVec 24) : Statement (.rdmax gu ty rh a b imm) := Or.inr ⟨rfl, .inr (.inl rfl)⟩
theorem rdmaxLiteral (gu : Guard) (ty : BitVec 4) (rh : Hint) (a b : Reg) (lit : BitVec 64) : Statement (.rdmaxLiteral gu ty rh a b lit) := Or.inr ⟨rfl, .inr (.inr rfl)⟩
theorem xadd (gu : Guard) (ty : BitVec 4) (rh : Hint) (a b : Reg) (imm : BitVec 24) : Statement (.xadd gu ty rh a b imm) := Or.inr ⟨rfl, .inr (.inl rfl)⟩
theorem xaddLiteral (gu : Guard) (ty : BitVec 4) (rh : Hint) (a b : Reg) (lit : BitVec 64) : Statement (.xaddLiteral gu ty rh a b lit) := Or.inr ⟨rfl, .inr (.inr rfl)⟩
theorem xrnd (gu : Guard) (la ty : BitVec 4) (rm : BitVec 3) (sat : Bool) (rh : Hint) (d a : Reg) (x64 clr : Bool) (imm : BitVec 24) : Statement (.xrnd gu la ty rm sat rh d a x64 clr imm) := Or.inr ⟨rfl, .inr (.inl rfl)⟩
theorem xrndLiteral (gu : Guard) (la ty : BitVec 4) (rm : BitVec 3) (sat : Bool) (rh : Hint) (d a : Reg) (x64 clr : Bool) (lit : BitVec 64) : Statement (.xrndLiteral gu la ty rm sat rh d a x64 clr lit) := Or.inr ⟨rfl, .inr (.inr rfl)⟩
theorem pbinit (gu : Guard) (la : BitVec 4) (d a b c : Reg) : Statement (.pbinit gu la d a b c) := Or.inr ⟨rfl, .inr (.inl rfl)⟩
theorem pbarr (gu : Guard) (la : BitVec 4) (d a : Reg) : Statement (.pbarr gu la d a) := Or.inr ⟨rfl, .inr (.inl rfl)⟩
theorem pbexp (gu : Guard) (a b : Reg) : Statement (.pbexp gu a b) := Or.inr ⟨rfl, .inr (.inl rfl)⟩
theorem pbwait (gu : Guard) (d a b : Reg) : Statement (.pbwait gu d a b) := Or.inr ⟨rfl, .inr (.inl rfl)⟩
theorem waita (gu : Guard) (la : BitVec 4) (d a b : Reg) (imm : BitVec 24) : Statement (.waita gu la d a b imm) := Or.inr ⟨rfl, .inr (.inl rfl)⟩
theorem waitaLiteral (gu : Guard) (la : BitVec 4) (d a b : Reg) (lit : BitVec 64) : Statement (.waitaLiteral gu la d a b lit) := Or.inr ⟨rfl, .inr (.inr rfl)⟩
theorem ctarm (gu : Guard) (la : BitVec 4) (kind : BitVec 3) (d a b c : Reg) : Statement (.ctarm gu la kind d a b c) := Or.inr ⟨rfl, .inr (.inl rfl)⟩
theorem ctinc (gu : Guard) (la : BitVec 4) (d a b : Reg) : Statement (.ctinc gu la d a b) := Or.inr ⟨rfl, .inr (.inl rfl)⟩
theorem fence (gu : Guard) (d : Reg) (scope kind : BitVec 3) : Statement (.fence gu d scope kind) := Or.inr ⟨rfl, .inr (.inl rfl)⟩
theorem fenceInst (gu : Guard) (d : Reg) (scope : BitVec 3) : Statement (.fenceInst gu d scope) := Or.inr ⟨rfl, .inr (.inl rfl)⟩
theorem spawn (gu : Guard) (d a b : Reg) : Statement (.spawn gu d a b) := Or.inr ⟨rfl, .inr (.inl rfl)⟩
theorem send (gu : Guard) (la : BitVec 4) (h : Bool) (d a b : Reg) : Statement (.send gu la h d a b) := Or.inr ⟨rfl, .inr (.inl rfl)⟩
theorem tend (gu : Guard) : Statement (.tend gu) := Or.inr ⟨rfl, .inr (.inl rfl)⟩
theorem cont (gu : Guard) (la : BitVec 4) (d a b : Reg) : Statement (.cont gu la d a b) := Or.inr ⟨rfl, .inr (.inl rfl)⟩
theorem jdec (gu : Guard) (la : BitVec 4) (d a : Reg) : Statement (.jdec gu la d a) := Or.inr ⟨rfl, .inr (.inl rfl)⟩
theorem join (gu : Guard) (la : BitVec 4) (d a : Reg) : Statement (.join gu la d a) := Or.inr ⟨rfl, .inr (.inl rfl)⟩
theorem leave (gu : Guard) (la : BitVec 4) (d a : Reg) : Statement (.leave gu la d a) := Or.inr ⟨rfl, .inr (.inl rfl)⟩
theorem maskh (gu : Guard) : Statement (.maskh gu) := Or.inr ⟨rfl, .inr (.inl rfl)⟩
theorem unmaskh (gu : Guard) : Statement (.unmaskh gu) := Or.inr ⟨rfl, .inr (.inl rfl)⟩
theorem step (gu : Guard) (d : Reg) : Statement (.step gu d) := Or.inr ⟨rfl, .inr (.inl rfl)⟩
theorem stepq (gu : Guard) (d : Reg) : Statement (.stepq gu d) := Or.inr ⟨rfl, .inr (.inl rfl)⟩
theorem rget (gu : Guard) (la ty : BitVec 4) (d a : Reg) (dx dy : BitVec 4) (off : BitVec 14) : Statement (.rget gu la ty d a dx dy off) := Or.inr ⟨rfl, .inr (.inl rfl)⟩
theorem rgetv (gu : Guard) (la : BitVec 4) (d : VReg) (a : Reg) (dx dy : BitVec 4) (off : BitVec 14) : Statement (.rgetv gu la d a dx dy off) := Or.inr ⟨rfl, .inr (.inl rfl)⟩
theorem hallq (gu : Guard) (la : BitVec 4) (d a : Reg) : Statement (.hallq gu la d a) := Or.inr ⟨rfl, .inr (.inl rfl)⟩
theorem sring (gu : Guard) (d a b : Reg) (q : BitVec 3) : Statement (.sring gu d a b q) := Or.inr ⟨rfl, .inr (.inl rfl)⟩
theorem sbindCons (gu : Guard) (d b : Reg) (q : BitVec 3) : Statement (.sbindCons gu d b q) := Or.inr ⟨rfl, .inr (.inl rfl)⟩
theorem sbindProd (gu : Guard) (d b : Reg) (q k : BitVec 3) : Statement (.sbindProd gu d b q k) := Or.inr ⟨rfl, .inr (.inl rfl)⟩
theorem sgain (gu : Guard) (d b : Reg) (q : BitVec 3) : Statement (.sgain gu d b q) := Or.inr ⟨rfl, .inr (.inl rfl)⟩
theorem sstat (gu : Guard) (d : Reg) (q : BitVec 3) (wsel : BitVec 2) : Statement (.sstat gu d q wsel) := Or.inr ⟨rfl, .inr (.inl rfl)⟩
theorem sunbind (gu : Guard) (d : Reg) (q : BitVec 3) : Statement (.sunbind gu d q) := Or.inr ⟨rfl, .inr (.inl rfl)⟩
theorem dlaunch (gu : Guard) (la : BitVec 4) (d a b : Reg) : Statement (.dlaunch gu la d a b) := Or.inr ⟨rfl, .inr (.inl rfl)⟩
theorem coll (gu : Guard) (la : BitVec 4) (d a : Reg) : Statement (.coll gu la d a) := Or.inr ⟨rfl, .inr (.inl rfl)⟩
theorem rlinv (gu : Guard) (d a : Reg) : Statement (.rlinv gu d a) := Or.inr ⟨rfl, .inr (.inl rfl)⟩
theorem ksend (m : Nat) (c : ChunkData) : Statement (.ksend m c) := Or.inl ⟨.inl nofun, rfl⟩
theorem krecv (m : Nat) (c : ChunkData) : Statement (.krecv m c) := Or.inl ⟨.inl nofun, rfl⟩
theorem kred (m : Nat) (c : ChunkData) : Statement (.kred m c) := Or.inl ⟨.inl nofun, rfl⟩
theorem kcopy (m : Nat) (c : ChunkData) : Statement (.kcopy m c) := Or.inl ⟨.inl nofun, rfl⟩
theorem kwait (m : Nat) (tag : BitVec 7) (all : Bool) : Statement (.kwait m tag all) := Or.inl ⟨.inl nofun, rfl⟩
theorem ksig (m : Nat) (peer : BitVec 16) (prel : Bool) (tag : BitVec 7) (val : BitVec 32) : Statement (.ksig m peer prel tag val) := Or.inl ⟨.inl nofun, rfl⟩
theorem kloop (m : Nat) (count disp : BitVec 16) : Statement (.kloop m count disp) := Or.inl ⟨.inl nofun, rfl⟩
theorem kend (m : Nat) : Statement (.kend m) := Or.inl ⟨.inl nofun, rfl⟩
theorem nop : Statement (.nop) := Or.inr ⟨rfl, .inl rfl⟩
theorem eret : Statement (.eret) := Or.inr ⟨rfl, .inl rfl⟩
theorem wfe : Statement (.wfe) := Or.inr ⟨rfl, .inl rfl⟩
theorem matrixJobStart (bay : Nat) : Statement (.matrixJobStart bay) := Or.inl ⟨.inl nofun, rfl⟩
theorem tileRowMove (bay job : Nat) : Statement (.tileRowMove bay job) := Or.inl ⟨.inl nofun, rfl⟩
theorem matrixJobComplete (bay job : Nat) : Statement (.matrixJobComplete bay job) := Or.inl ⟨.inl nofun, rfl⟩
theorem copyStart (bay : Nat) : Statement (.copyStart bay) := Or.inl ⟨.inl nofun, rfl⟩
theorem shapeRecordFetch (bay copy : Nat) : Statement (.shapeRecordFetch bay copy) := Or.inl ⟨.inl nofun, rfl⟩
theorem copyScout (bay copy : Nat) : Statement (.copyScout bay copy) := Or.inl ⟨.inl nofun, rfl⟩
theorem moveElement (bay copy ahead : Nat) : Statement (.moveElement bay copy ahead) := Or.inl ⟨.inl nofun, rfl⟩
theorem copyComplete (bay copy : Nat) : Statement (.copyComplete bay copy) := Or.inl ⟨.inl nofun, rfl⟩
theorem mfillLine (fill : Nat) : Statement (.mfillLine fill) := Or.inl ⟨.inl nofun, rfl⟩
theorem nmuLock (cmd slice : Nat) : Statement (.nmuLock cmd slice) := Or.inl ⟨.inl nofun, rfl⟩
theorem nmuAccept (cmd : Nat) : Statement (.nmuAccept cmd) := Or.inl ⟨.inl nofun, rfl⟩
theorem nmuExecute (stack : Nat) : Statement (.nmuExecute stack) := Or.inl ⟨.inl nofun, rfl⟩
theorem nmuLine (stack : Nat) : Statement (.nmuLine stack) := Or.inl ⟨.inl nofun, rfl⟩
theorem barrierUpdate (core off n : Nat) : Statement (.barrierUpdate core off n) := Or.inl ⟨.inl nofun, rfl⟩
theorem waitaWake (core pend : Nat) : Statement (.waitaWake core pend) := Or.inl ⟨.inl nofun, rfl⟩
theorem recordPush (msg : Nat) : Statement (.recordPush msg) := Or.inl ⟨.inl nofun, rfl⟩
theorem recordPark (msg : Nat) : Statement (.recordPark msg) := Or.inl ⟨.inl nofun, rfl⟩
theorem vestibuleRelease (tile : Nat) : Statement (.vestibuleRelease tile) := Or.inl ⟨.inl nofun, rfl⟩
theorem taskPop (core : Nat) : Statement (.taskPop core) := Or.inl ⟨.inl nofun, rfl⟩
theorem handlerStart (core : Nat) : Statement (.handlerStart core) := Or.inl ⟨.inl nofun, rfl⟩
theorem stepSignal (tile dir : Nat) : Statement (.stepSignal tile dir) := Or.inl ⟨.inl nofun, rfl⟩
theorem stepEntry (tile : Nat) : Statement (.stepEntry tile) := Or.inl ⟨.inl nofun, rfl⟩
theorem stall (tile : Nat) : Statement (.stall tile) := Or.inl ⟨.inl nofun, rfl⟩
theorem streamAppend (core q : Nat) : Statement (.streamAppend core q) := Or.inl ⟨.inl nofun, rfl⟩
theorem streamCredit (core q : Nat) : Statement (.streamCredit core q) := Or.inl ⟨.inl nofun, rfl⟩
theorem streamSample (core q : Nat) : Statement (.streamSample core q) := Or.inl ⟨.inl nofun, rfl⟩
theorem weightMessage (core q : Nat) : Statement (.weightMessage core q) := Or.inl ⟨.inl nofun, rfl⟩
theorem scheduleDecode (m : Nat) : Statement (.scheduleDecode m) := Or.inl ⟨.inl nofun, rfl⟩
theorem chunkComplete (m k : Nat) : Statement (.chunkComplete m k) := Or.inl ⟨.inl nofun, rfl⟩
theorem dlv (pkt : Nat) : Statement (.dlv pkt) := Or.inl ⟨.inl nofun, rfl⟩
theorem open_ (pkt : Nat) : Statement (.open_ pkt) := Or.inl ⟨.inl nofun, rfl⟩
theorem go (pkt : Nat) : Statement (.go pkt) := Or.inl ⟨.inl nofun, rfl⟩
theorem cup (pkt : Nat) : Statement (.cup pkt) := Or.inl ⟨.inl nofun, rfl⟩
theorem cdn (pkt : Nat) : Statement (.cdn pkt) := Or.inl ⟨.inl nofun, rfl⟩
theorem abt (pkt : Nat) : Statement (.abt pkt) := Or.inl ⟨.inl nofun, rfl⟩
theorem sig (pkt : Nat) : Statement (.sig pkt) := Or.inl ⟨.inl nofun, rfl⟩
theorem collectiveTimeout (m : Nat) : Statement (.collectiveTimeout m) := Or.inl ⟨.inl nofun, rfl⟩
theorem packetTransit (pkt : Nat) : Statement (.packetTransit pkt) := Or.inl ⟨.inl nofun, rfl⟩
theorem sliceRead (req : Nat) (into : Option Nat) : Statement (.sliceRead req into) := Or.inl ⟨.inl nofun, rfl⟩
theorem sliceWrite (req : Nat) : Statement (.sliceWrite req) := Or.inl ⟨.inl nofun, rfl⟩
theorem sliceAtomic (req : Nat) : Statement (.sliceAtomic req) := Or.inl ⟨.inl nofun, rfl⟩
theorem sliceEvict (req : Nat) : Statement (.sliceEvict req) := Or.inl ⟨.inl nofun, rfl⟩
theorem sliceFill (req : Nat) : Statement (.sliceFill req) := Or.inl ⟨.inl nofun, rfl⟩
theorem readResponse (req : Nat) : Statement (.readResponse req) := Or.inl ⟨.inl nofun, rfl⟩
theorem storeAck (req : Nat) : Statement (.storeAck req) := Or.inl ⟨.inl nofun, rfl⟩
theorem witnessExpire (core slice : Nat) : Statement (.witnessExpire core slice) := Or.inl ⟨.inl nofun, rfl⟩
theorem resultWriteback (core pend : Nat) : Statement (.resultWriteback core pend) := Or.inl ⟨.inl nofun, rfl⟩
theorem serviceOverflowDrain (tile core : Nat) : Statement (.serviceOverflowDrain tile core) := Or.inl ⟨.inl nofun, rfl⟩
theorem rcmdRetry (tidx : BitVec 32) (rva : BitVec 64) : Statement (.rcmdRetry tidx rva) := Or.inl ⟨.inl nofun, rfl⟩
theorem rcmdAbort (tidx : BitVec 32) (rva : BitVec 64) : Statement (.rcmdAbort tidx rva) := Or.inl ⟨.inl nofun, rfl⟩
theorem wfeWake (core : Nat) : Statement (.wfeWake core) := Or.inl ⟨.inl nofun, rfl⟩
theorem channelEnable (who : Requester) (ch : Nat) (val : BitVec 64) : Statement (.channelEnable who ch val) := Or.inl ⟨.inl nofun, rfl⟩
theorem channelDisable (who : Requester) (ch : Nat) (val : BitVec 64) : Statement (.channelDisable who ch val) := Or.inl ⟨.inl nofun, rfl⟩
theorem tailWrite (who : Requester) (ch : Nat) (val : BitVec 64) : Statement (.tailWrite who ch val) := Or.inl ⟨.inl nofun, rfl⟩
theorem hallAllocate : Statement (.hallAllocate) := Or.inl ⟨.inl nofun, rfl⟩
theorem launchStart (ch : Nat) : Statement (.launchStart ch) := Or.inl ⟨.inl nofun, rfl⟩
theorem launchEnd (hall : Nat) : Statement (.launchEnd hall) := Or.inl ⟨.inl nofun, rfl⟩
theorem collEntryStart (ch : Nat) : Statement (.collEntryStart ch) := Or.inl ⟨.inl nofun, rfl⟩
theorem waitwStart (ch : Nat) : Statement (.waitwStart ch) := Or.inl ⟨.inl nofun, rfl⟩
theorem waitwRecheck (ch idx : Nat) : Statement (.waitwRecheck ch idx) := Or.inl ⟨.inl nofun, rfl⟩
theorem signalStart (ch : Nat) : Statement (.signalStart ch) := Or.inl ⟨.inl nofun, rfl⟩
theorem signalComplete (ch idx : Nat) : Statement (.signalComplete ch idx) := Or.inl ⟨.inl nofun, rfl⟩
theorem cancel (val : BitVec 64) : Statement (.cancel val) := Or.inl ⟨.inl nofun, rfl⟩
theorem occupancySample (hall : Nat) : Statement (.occupancySample hall) := Or.inl ⟨.inl nofun, rfl⟩
theorem energyTick (hall reading : Nat) : Statement (.energyTick hall reading) := Or.inl ⟨.inl nofun, rfl⟩
theorem precmdSave (val : BitVec 64) : Statement (.precmdSave val) := Or.inl ⟨.inl nofun, rfl⟩
theorem saveDone : Statement (.saveDone) := Or.inl ⟨.inl nofun, rfl⟩
theorem precmdRestore (val : BitVec 64) : Statement (.precmdRestore val) := Or.inl ⟨.inl nofun, rfl⟩
theorem restoreDone : Statement (.restoreDone) := Or.inl ⟨.inl nofun, rfl⟩
theorem fwinEnable (who : Requester) (win : Nat) (val : BitVec 64) : Statement (.fwinEnable who win val) := Or.inl ⟨.inl nofun, rfl⟩
theorem fwinDisable (who : Requester) (win : Nat) (val : BitVec 64) : Statement (.fwinDisable who win val) := Or.inl ⟨.inl nofun, rfl⟩
theorem fwinDisableDone (win : Nat) : Statement (.fwinDisableDone win) := Or.inl ⟨.inl nofun, rfl⟩
theorem hbmerrClear (stack : Nat) (val : BitVec 64) : Statement (.hbmerrClear stack val) := Or.inl ⟨.inl nofun, rfl⟩
theorem patrolScrub (line : Nat) : Statement (.patrolScrub line) := Or.inl ⟨.inl nofun, rfl⟩
theorem logClear (who : Requester) (die : Nat) (val : BitVec 64) : Statement (.logClear who die val) := Or.inl ⟨.inl nofun, rfl⟩
theorem errcntClear (link : Nat) (val : BitVec 64) : Statement (.errcntClear link val) := Or.inl ⟨.inl nofun, rfl⟩
theorem registerWrite (who : Requester) (off val : BitVec 64) : Statement (.registerWrite who off val) := Or.inl ⟨.inl nofun, rfl⟩
theorem hostAccess (h : HostReq) : Statement (.hostAccess h) := Or.inl ⟨.inl nofun, rfl⟩
theorem attcmd (val : BitVec 64) : Statement (.attcmd val) := Or.inl ⟨.inl nofun, rfl⟩
theorem attestDone : Statement (.attestDone) := Or.inl ⟨.inl nofun, rfl⟩
theorem flitReceive (link dir : Nat) (crcOk : Bool) : Statement (.flitReceive link dir crcOk) := Or.inl ⟨.inl nofun, rfl⟩
theorem retrainDone (link : Nat) : Statement (.retrainDone link) := Or.inl ⟨.inl nofun, rfl⟩
theorem retrainTimeout (link : Nat) : Statement (.retrainTimeout link) := Or.inl ⟨.inl nofun, rfl⟩
theorem harpinFrame (port : Nat) (crcOk : Bool) (hdr : List (BitVec 64)) (payload : List (BitVec 8)) : Statement (.harpinFrame port crcOk hdr payload) := Or.inl ⟨.inl nofun, rfl⟩
theorem portUp (port : Nat) : Statement (.portUp port) := Or.inl ⟨.inl nofun, rfl⟩
theorem reset : Statement (.reset) := Or.inl ⟨.inl nofun, rfl⟩
theorem firmwareVerify (code : Nat) (svn : BitVec 32) : Statement (.firmwareVerify code svn) := Or.inl ⟨.inl nofun, rfl⟩
theorem hbmTraining : Statement (.hbmTraining) := Or.inl ⟨.inl nofun, rfl⟩
theorem selfTest (withheld : BitVec 128) (unitOk : Bool) : Statement (.selfTest withheld unitOk) := Or.inl ⟨.inl nofun, rfl⟩
theorem ilupolTraining (up0 up1 : Bool) : Statement (.ilupolTraining up0 up1) := Or.inl ⟨.inl nofun, rfl⟩
theorem pcieLinkUp (recovery : Bool) : Statement (.pcieLinkUp recovery) := Or.inl ⟨.inl nofun, rfl⟩
theorem harpinTraining (up : BitVec 16) (pkg : BitVec 16) (routes : List RouteWrite) : Statement (.harpinTraining up pkg routes) := Or.inl ⟨.inl nofun, rfl⟩
theorem ready : Statement (.ready) := Or.inl ⟨.inl nofun, rfl⟩
theorem wearUpdate (mon : Nat) (hours : BitVec 32) (conf : BitVec 8) : Statement (.wearUpdate mon hours conf) := Or.inl ⟨.inl nofun, rfl⟩
theorem illegalEncoding (word0 : BitVec 32) : Statement (.illegalEncoding word0) := Or.inl ⟨.inr (.inl rfl), rfl⟩
theorem fetchFault (addr : BitVec 64) (why : FetchWhy) : Statement (.fetchFault addr why) := Or.inl ⟨.inr (.inr rfl), rfl⟩
theorem coreApertureAccess (req : Nat) : Statement (.coreApertureAccess req) := Or.inl ⟨.inl nofun, rfl⟩
theorem galleryRead (msg : Nat) : Statement (.galleryRead msg) := Or.inl ⟨.inl nofun, rfl⟩
theorem pcieCompletion (req : Nat) : Statement (.pcieCompletion req) := Or.inl ⟨.inl nofun, rfl⟩
theorem laneLockLoss (link : Nat) : Statement (.laneLockLoss link) := Or.inl ⟨.inl nofun, rfl⟩

end Sys2Proof.Laws.EncodedLength
end

