-- ==== Sys2Proof/Laws/Trap.lean ====
section
/-!
SUPPORT. Taking a trap: what the latched trap of a thread with nothing pending comes to when a handler is set.
-/

namespace Sys2Proof

open Sys2Proof.Machine

/-- Clearing the two low bits of an address that is not below 4 leaves something. -/
theorem vector_ne_zero {x : Word} (h : x.toNat / 4 ≠ 0) : (x &&& ~~~3) ≠ 0 := by
  intro e
  have hb : ∀ i, 2 ≤ i → x.getLsbD i = false := by
    intro i hi
    have h3 : (3 : Word).getLsbD i = false := by
      have : Nat.testBit 3 i = false := Nat.testBit_lt_two_pow (Nat.lt_of_lt_of_le (by decide : 3 < 2 ^ 2) (Nat.pow_le_pow_right (by decide) hi))
      rw [show (3 : Word) = BitVec.ofNat 64 3 from rfl, BitVec.getLsbD_ofNat, this, Bool.and_false]
    have := congrArg (fun y : Word => y.getLsbD i) e
    simp only [BitVec.getLsbD_and, BitVec.getLsbD_not, h3, Bool.not_false, Bool.and_true] at this
    by_cases hi' : i < 64
    · simpa [hi'] using this
    · exact BitVec.getLsbD_of_ge x i (by omega)
  apply h
  rw [show 4 = 2 ^ 2 from rfl]
  refine Nat.eq_of_testBit_eq fun i => ?_
  rw [Nat.testBit_div_two_pow, Nat.zero_testBit]
  exact hb (2 + i) (by omega) ▸ (by rw [BitVec.getLsbD, Nat.add_comm])

variable {s : State}

theorem Core.latchTrap_rest (c : Core) (lv : Bool) (code : Nat) (tval : Word) (fetch : Bool) :
    c.latchTrap lv code tval fetch =
      { c with lv0 := (c.latchTrap lv code tval fetch).lv0, lv1 := (c.latchTrap lv code tval fetch).lv1,
               pend := (c.closeWindows lv).pend, qStall := if lv then c.qStall else none } := by
  cases lv <;> rfl

theorem Core.latchTrap_thr (c : Core) (lv : Bool) (code : Nat) (tval : Word) (fetch : Bool) :
    (c.latchTrap lv code tval fetch).thr lv = { c.thr lv with hold := .trap code tval fetch, held := [], heldV := [], late := none } := by
  cases lv <;> rfl

/-- A trap of a thread with no pending result is taken at once when a handler is set and none is running (R51, R404). -/
theorem trap_taken (code : Nat) (tval : Word) (fetch : Bool) (hp : ∀ p ∈ s.me.pend, p.lv ≠ s.lv)
    (ht : s.me.tBit = false) (hv : s.me.tvec.toNat / 4 ≠ 0) :
    s.trap code tval fetch =
      s.updMe (fun c => ((({ c.latchTrap s.lv code tval fetch with
        tpc := s.pc &&& ~~~3, tcause := causeWord s.lv fetch code, tval := tval, tvec := c.tvec, tBit := true, pvSave := c.pv, pv := true,
        maskOpen := false, maskCnt := 0 } : Core).setPc s.lv (c.tvec &&& ~~~3)).setHold s.lv .ready)) := by
  have hne := vector_ne_zero hv
  have hX : s.me.latchTrap s.lv code tval fetch = _ := Core.latchTrap_rest s.me s.lv code tval fetch
  have hpend : (s.me.latchTrap s.lv code tval fetch).owes s.lv = false := by
    rw [hX]
    simp only [Core.owes, Core.closeWindows, List.any_map, List.any_eq_false, Function.comp]
    intro p hpm
    have := hp p hpm
    split <;> simp [this]
  have hthr := Core.latchTrap_thr s.me s.lv code tval fetch
  have ht' : (s.me.latchTrap s.lv code tval fetch).tBit = false := by rw [hX]; exact ht
  have hv' : (s.me.latchTrap s.lv code tval fetch).tvec = s.me.tvec := by rw [hX]
  have hlv' : ((s.me.latchTrap s.lv code tval fetch).level != s.lv) = false := by rw [hX]; simp [State.lv]
  have hpv' : (s.me.latchTrap s.lv code tval fetch).pv = s.me.pv := by rw [hX]
  have hpc : (s.me.latchTrap s.lv code tval fetch).pcOf s.lv = s.pc := by
    show (Core.thr _ s.lv).pc = _; rw [hthr]; rfl
  have hcore : (s.updMe (fun c => c.latchTrap s.lv code tval fetch)).core s.cur = s.me.latchTrap s.lv code tval fetch :=
    s.me_updMe _
  show (s.updMe (fun c => c.latchTrap s.lv code tval fetch)).takeTrap s.cur s.lv = _
  unfold State.takeTrap
  simp only [hcore, hthr, hpend, hlv', Bool.false_or, Bool.false_eq_true, if_false]
  unfold State.trapEntry
  simp only [hcore, ht', hv', hpv', hpc, Bool.false_eq_true, if_false, hne]
  show (s.setCore s.cur _).setCore s.cur _ = s.setCore s.cur _
  rw [State.setCore_setCore]
  rfl

end Sys2Proof
end

