-- ==== Sys2Proof/Tests/Slice0.lean ====
section
/-!
SUPPORT. Tests: words of the specification and what they decode to, ill-formed terms that the checks refuse, single steps
with results worked out from the rules, and for every statement of Certificates/Slice0/Obligations.lean that has
hypotheses a concrete state and operands that meet them.
-/

namespace Sys2Proof

/- The theorems of this file are checked one after another: side by side they would take a thread and its stack each. -/
set_option Elab.async false

open Sys2Proof.Machine

/-! ## A small machine

The machine after reset with an instruction placed where core 0 fetches, that core running, and chosen registers. -/

def demo (g : SMap Word) (p : SMap Word := []) (v : SMap Vec := []) : State :=
  let s := State.reset.withFetchWord 32 0
  s.updCore 0 (fun c => { c with lv0 := { c.lv0 with g := g, p := p }, v := v })

/-- The same with a change to core 0. -/
def demoWith (g : SMap Word) (f : Core → Core) : State := (demo g).updCore 0 f

/-- What a next state shows. -/
def after {α : Type} (o : Host.Outcome State Fault Refusal) (d : α) (f : State → α) : α :=
  match o with
  | .next t => f t
  | _ => d

/-- The always-true guard: p7 reads all ones. -/
def gt : Guard := { gp := 7, gs := true }
/-- The guard that always fails. -/
def gf : Guard := { gp := 7, gs := false }

/-! ## Witnesses

Whether a core issues, as a Bool; each witness proves the hypotheses of the statement it is named after. -/

def issuesB (s : State) (u : Uses) : Bool :=
  (s.me.thr s.lv).hold == .ready && (s.me.thr s.lv).held == [] && (s.me.thr s.lv).heldV == [] &&
  (s.me.thr s.lv).late == none && (s.me.thr s.lv).rest == [] && u.on && !u.illegal &&
  (!u.priv.isSome || s.me.pv) && !s.me.maskOpen && s.me.violated u == none && !s.me.busy u &&
  (!u.fpwait || s.me.pend.all (fun p => p.lv != s.lv || !p.flagsDue)) &&
  s.me.ports u == .ok && !(s.me.popped u).any s.popWaits

theorem issues_of {s : State} {u : Uses} (h : issuesB s u = true) : Issues s u := by
  simp only [issuesB, Bool.and_eq_true, Bool.or_eq_true, Bool.not_eq_true', beq_iff_eq] at h
  obtain ⟨⟨⟨⟨⟨⟨⟨⟨⟨⟨⟨⟨⟨h1, h2⟩, hv⟩, hl⟩, hq⟩, h3⟩, h4⟩, h5⟩, h6⟩, h7⟩, h8⟩, h9⟩, h10⟩, h11⟩ := h
  refine ⟨h1, h2, hv, hl, hq, h3, h4, ?_, ?_, h7, h8, ?_, h10, h11⟩
  · intro h; rcases h5 with h5 | h5
    · rw [h] at h5; cases h5
    · exact h5
  · intro _ h; rw [h] at h6; cases h6
  · intro hf p hp hlv
    rcases h9 with h9 | h9
    · rw [hf] at h9; cases h9
    · simpa [hlv] using List.all_eq_true.1 h9 p hp

theorem plain_of {s : State} {u : Uses} (h : (issuesB s u && !s.me.namesPort u) = true) : IssuesPlain s u := by
  simp only [Bool.and_eq_true, Bool.not_eq_true'] at h
  exact ⟨issues_of h.1, h.2⟩

def s0 : State := demo [(6, 0xFFFFFFFFFFFFFFFF), (7, 2)]
/-- The divide of the same core in flight. -/
def sDiv : State := demoWith [] (fun c => { c with pend := [{ id := 0, win := 3, cls := .divide, need := 1 }] })
def sVdiv : State := demoWith [] (fun c => { c with pend := [{ id := 0, win := 3, cls := .vdivide, need := 1 }] })

theorem witness_TwoRegisterOperations : IssuesPlain s0 (scalar 4 [6, 7] [5]) := plain_of (by decide +kernel)

theorem witness_ImmediateOperations :
    IssuesPlain s0 (scalar 4 [6] [5]) ∧ IssuesPlain s0 (scalar 12 [6] [5]) ∧ IssuesPlain s0 (scalar 4 [] [5]) ∧
    IssuesPlain s0 (scalar 12 [] [5]) := by
  and_intros <;> exact plain_of (by decide +kernel)

/-- A field that ends at bit 63, the last that fits. -/
theorem witness_BitOperations :
    IssuesPlain s0 (scalar 4 [6] [5]) ∧ IssuesPlain s0 (scalar 4 [5, 6] [5]) ∧ (60#6).toNat + ((3#6).toNat + 1) ≤ 64 := by
  and_intros <;> first | exact plain_of (by decide +kernel) | decide +kernel

theorem witness_PredicatesSelectAndRandom :
    IssuesPlain s0 (scalar 4 [6, 7] []) ∧ IssuesPlain s0 (scalar 4 [6] []) ∧ IssuesPlain s0 (scalar 12 [6] []) ∧
    IssuesPlain s0 (scalar 4 [] []) ∧ IssuesPlain s0 (scalar 4 [6, 7] [5]) ∧
    IssuesPlain s0 { scalar 12 [6, 7] [5] with on := s0.guard gt } := by
  and_intros <;> exact plain_of (by decide +kernel)

/-- With no divide in flight, and with one. -/
theorem witness_Divides :
    (IssuesPlain s0 { scalar 4 [6, 7] [5] with long := true } ∧ ∀ p ∈ s0.me.pend, p.cls = .divide → p.need = 0) ∧
    (IssuesPlain sDiv { scalar 4 [6, 7] [5] with long := true } ∧ ∃ p ∈ sDiv.me.pend, p.cls = .divide ∧ p.need ≠ 0) := by
  and_intros <;> first | exact plain_of (by decide +kernel) | decide +kernel

/-- An aligned target, the counted loop going on and ending, and a misaligned target. -/
theorem witness_BranchesAndJumps :
    IssuesPlain s0 { scalar 4 [] [] with on := s0.guard gt } ∧ IssuesPlain s0 { scalar 4 [] [1] with on := s0.guard gt } ∧
    (IssuesPlain s0 (scalar 4 [7] [5]) ∧ (s0.rg 7 + (2#12).signExtend 64).toNat % 4 = 0) ∧
    (IssuesPlain s0 (scalar 12 [7] [5]) ∧ (s0.rg 7 + 2#64).toNat % 4 = 0) ∧
    (IssuesPlain s0 (scalar 4 [7] [7]) ∧ s0.rg 7 - 1 ≠ 0) ∧ IssuesPlain s0 (scalar 12 [7] [7]) ∧
    IssuesPlain s0 (scalar 4 [] []) ∧ (0x63000001#32 >>> 24 = 0x23#32 ∨ 0x63000001#32 >>> 24 = 0x63#32) ∧
    (s0.rg 7 + (1#12).signExtend 64).toNat % 4 ≠ 0 ∧ (s0.rg 7 + 1#64).toNat % 4 ≠ 0 := by
  and_intros <;> first | exact plain_of (by decide +kernel) | decide +kernel

/-- FP32 lanes; with no long operation in flight, and with one. -/
theorem witness_VectorFloatingPoint :
    IssuesPlain s0 (vecUses gt 1 [1, 2] [3] s0) ∧ IssuesPlain s0 (vecUses gt 1 [1, 2, 4] [3] s0) ∧
    (IssuesPlain s0 { vecUses gt 1 [1, 2] [3] s0 with long := true } ∧
      IssuesPlain s0 { vecUses gt 1 [1] [3] s0 with long := true } ∧ ∀ p ∈ s0.me.pend, p.cls = .vdivide → p.need = 0) ∧
    (IssuesPlain sVdiv { vecUses gt 1 [1, 2] [3] sVdiv with long := true } ∧ ∃ p ∈ sVdiv.me.pend, p.cls = .vdivide ∧ p.need ≠ 0) := by
  and_intros <;> first | exact plain_of (by decide +kernel) | decide +kernel

theorem witness_VectorOrderAndSelect :
    IssuesPlain s0 (vecUses gt 11 [1, 2] [3] s0) ∧ IssuesPlain s0 (vecUses gt 11 [1, 2, 4] [3] s0) ∧
    IssuesPlain s0 (vecUses gt 11 [1] [3] s0) ∧ IssuesPlain s0 (vecUses gt 0 [1, 2] [] s0) ∧
    IssuesPlain s0 (vecUses gt 0 [1, 2] [3] s0) := by
  and_intros <;> exact plain_of (by decide +kernel)

/-- A conversion from FP64 to FP32; from FP64 into MXFP8 and into MXF4, with the last part that fits; a choice of scales. -/
theorem witness_VectorIntegersBitsAndConversions :
    IssuesPlain s0 (vecUses gt 11 [1, 2] [3] s0) ∧ IssuesPlain s0 (vecUses gt 11 [1, 2, 4] [3] s0) ∧
    (isMX (1#4).toNat = false ∧ IssuesPlain s0 (vecUses gt 1 [1] [3] s0) ∧
      IssuesPlain s0 { vecUses gt 1 [1] [3] s0 with len := 20 }) ∧
    ((0#4).toNat ≤ 3 ∧ IssuesPlain s0 (vecUses gt 6 [1, 4] [3] s0) ∧ ((7#4).toNat + 1) * lanesOfTy (0#4).toNat ≤ 128 ∧
      IssuesPlain s0 { vecUses gt 6 [1, 4] [3] s0 with len := 20 } ∧ ((7#64).toNat + 1) * lanesOfTy (0#4).toNat ≤ 128) ∧
    ((3 : VReg) ≠ 4 ∧ IssuesPlain s0 (vecUses gt 8 [1, 4] [3, 4] s0) ∧ ((15#4).toNat + 1) * lanesOfTy (0#4).toNat ≤ 256 ∧
      IssuesPlain s0 { vecUses gt 8 [1, 4] [3, 4] s0 with len := 20 } ∧ ((15#64).toNat + 1) * lanesOfTy (0#4).toNat ≤ 256) ∧
    IssuesPlain s0 (vecUses gt 0 [1] [3] s0) ∧ IssuesPlain s0 { vecUses gt 0 [1] [3] s0 with len := 20 } := by
  and_intros <;> first | exact plain_of (by decide +kernel) | decide +kernel

/-- With active lanes, so that a reduction has a result; and a reduction with no active lane does not execute. -/
theorem witness_LaneMovesAndReductions :
    IssuesPlain s0 { vecUses gt 9 [] [3] s0 with rs := [6] } ∧ IssuesPlain s0 { vecUses gt 9 [] [3] s0 with len := 20 } ∧
    IssuesPlain s0 (vecUses gt 9 [1, 2] [3] s0) ∧ IssuesPlain s0 (vecUses gt 9 [1] [3] s0) ∧
    IssuesPlain s0 { len := 12, on := s0.guard gt, rs := [7], ws := [5], vs := [1] } ∧
    IssuesPlain s0 { len := 12, on := s0.guard gt, rs := [6, 7], vs := [3], vw := [3] } ∧
    (IssuesPlain s0 { vecUses gt 9 [1] [] s0 with vw := [3] } ∧
      (vecReduce .vrsum 9 false (s0.active gt 9) (s0.rv 1)).isSome = true) ∧
    IssuesPlain s0 { vecUses gt 9 [1, 2] [] s0 with vw := [3] } := by
  and_intros <;> first | exact plain_of (by decide +kernel) | decide +kernel

/-- A pair that writes a general register and a vector register, and one that writes two predicates. -/
theorem witness_PairReadsBeforeWrites :
    (IssuesPlain s0 (pairUses gt (.rr .add 5 6 7) (.v2 .vadd 1 0 3 1 2) s0) ∧ s0.guard gt = true ∧
      s0.vguard gt (vhalfTy (.v2 .vadd 1 0 3 1 2)) = true ∧ halfDst (.rr .add 5 6 7) = .g 5) ∧
    (IssuesPlain s0 (pairUses gt (.cmp .eq 1 6 7) (.vcmp 1 0 2 1 2) s0) ∧ halfDst (.cmp .eq 1 6 7) = .p 1) := by
  and_intros <;> first | exact plain_of (by decide +kernel) | decide +kernel

/-! ### One step, guards and traps -/

/-- The address of a page of the global window that the demo maps, writable, past the instruction. -/
def aGlob : Word := 0x400000080

/-- ADD g5, g6, g7 is the next instruction. -/
def sFetch (w : Nat) : State := State.reset.withFetchWord 32 w
/-- A thread that has issued a WFE and waits. -/
def sIssued : State := { demoWith [] (fun c => { c with lv0 := { c.lv0 with hold := .issued, ir := [0x23000000] } }) with
  agenda := [.issue 0] }

def fetches (s : State) (p : List (BitVec 32) → Bool) : Bool :=
  match s.fetchInstr 0 (s.core 0).lv0.pc with
  | .words ws _ => p ws
  | _ => false

/-- A NOP at the PC; a word that no encoding matches; a PC outside the global window; an issued instruction that waits; a
whole step of another unit. -/
theorem witness_StepRunsTheDecodedInstruction :
    ((sFetch 0x23000000).agenda = [.issue 0] ∧ ((sFetch 0x23000000).core 0).stopped = false ∧
      ((sFetch 0x23000000).core 0).lv0.hold = .ready ∧ ((sFetch 0x23000000).core 0).mayIssue = true ∧
      fetches (sFetch 0x23000000) (fun ws => decodeWords ws == some .nop) = true) ∧
    fetches (sFetch 0xFFFFFFFF) (fun ws => decodeWords ws == none) = true ∧
    (∃ t, (sFetch 0).fetchInstr 0 (2 ^ 52) = .fail (2 ^ 52) .aperture t) ∧
    (sIssued.agenda = [.issue 0] ∧ (sIssued.core 0).lv0.hold = .issued ∧ decodeWords (sIssued.core 0).lv0.ir = some .nop) ∧
    (Instr.saveDone).unit = Unit3.event :=
  ⟨by decide +kernel, by decide +kernel, ⟨_, rfl⟩, by decide +kernel, by decide⟩

def sCached : State := (sFetch 0).updBay 0 (fun b => { b with icache := [(0x400000000 / 128, 0x23000000)] })

theorem witness_WordsAreFetchedFromTheirLine :
    2 ^ 52 ≤ (2 ^ 52 : Word).toNat ∧ (word fetchBase).toNat < 2 ^ 52 ∧
    ∃ e, (sCached.bay 0).ift.find? (fun e => e.maps (sCached.hallOfCore 0).asid (word fetchBase).toNat) = some e ∧
      e.permits 2 (sCached.core 0).pv = true ∧
      (sCached.bay 0).icache.find? (fun l => l.1 == (e.pa + (word fetchBase).toNat % 2 ^ e.size) / 128) =
        some ((e.pa + (word fetchBase).toNat % 2 ^ e.size) / 128, 0x23000000) :=
  ⟨by decide, by decide, { vpage := fetchBase / 65536, size := 16, pa := fetchBase, x := true, w := true },
   by decide +kernel, by decide +kernel, by decide +kernel⟩

/-- An open masked window with room for one more instruction, and a guard that fails. -/
def sMask (n : Nat) : State := demoWith [] (fun c => { c with maskOpen := true, maskCnt := n })

theorem witness_GuardsTurnInstructionsOff :
    ((sMask 63).me.thr (sMask 63).lv).hold = .ready ∧ (sMask 63).lv = false ∧ (sMask 63).me.maskOpen = true ∧
    (sMask 63).me.maskCnt < 64 ∧ (sMask 63).guard gf = false ∧ (sMask 63).vguard gf (1#4).toNat = false := by decide +kernel

def sTrap (tv : Word) (t : Bool) : State := demoWith [] (fun c => { c with tvec := tv, tBit := t })
def sWindow : State := demoWith [] (fun c => { c with pend := [{ id := 0, win := 1, dst := some (.gb false 5), need := 1 }] })

/-- Each rule of the order: an illegal level, no privilege, a full window, a forbidden instruction, an open window. Trap
entry with a handler, without one, and while a trap is being handled. ERET with T set and clear. -/
theorem witness_TrapsAndReturn :
    ((s0.me.thr s0.lv).hold = .ready ∧ s0.me.pv = false) ∧
    ((sMask 64).lv = false ∧ (sMask 64).me.maskOpen = true ∧ 64 ≤ (sMask 64).me.maskCnt ∧ (sMask 63).me.maskCnt < 64) ∧
    ((sWindow.me.thr sWindow.lv).hold = .ready ∧ (sWindow.me.violated (scalar 4 [6, 7] [5])).isSome = true) ∧
    (((sTrap 4 false).core 0).tBit = false ∧ ((sTrap 4 false).core 0).tvec.toNat / 4 ≠ 0) ∧
    (((sTrap 3 false).core 1).tBit = false ∧ ((sTrap 3 false).core 1).tvec.toNat / 4 = 0 ∧
      1 ≠ ((sTrap 3 false).hallOfCore 1).service) ∧
    ((((sTrap 4 false).setCore 1 { tBit := true }).core 1).tBit = true ∧
      1 ≠ (((sTrap 4 false).setCore 1 { tBit := true }).hallOfCore 1).service) ∧
    (Issues (sTrap 4 true) { blocking := true } ∧ (sTrap 4 true).me.tBit = true) ∧
    (Issues (sTrap 4 false) { blocking := true } ∧ (sTrap 4 false).me.tBit = false) := by
  and_intros <;> first | exact plain_of (by decide +kernel) | exact issues_of (by decide +kernel) | decide +kernel

/-- Both ends of the privileged range, and a number that no register has. -/
theorem witness_PrivilegedInstructions :
    (s0.me.thr s0.lv).hold = .ready ∧ s0.me.pv = false ∧ s0.sysReg (0x104#12).toNat = none ∧
    0x100 ≤ (0x100#12).toNat ∧ (0x103#12).toNat ≤ 0x103 := by decide +kernel

theorem witness_TrapBreakpointAndIllegalWords :
    Issues (sTrap 4 false) {} ∧ (∀ p ∈ (sTrap 4 false).me.pend, p.lv ≠ (sTrap 4 false).lv) ∧
    (sTrap 4 false).me.tBit = false ∧ (sTrap 4 false).me.tvec.toNat / 4 ≠ 0 := by
  and_intros <;> first | exact plain_of (by decide +kernel) | exact issues_of (by decide +kernel) | decide +kernel

/-- q0 a consumer port with an element, q1 a producer port with a credit. -/
def sPorts : State := demoWith [] (fun c => { c with
  q := [(0, { st := .bound, slots := 4, base := 256, tail := 1, peer := (64, 2) }),
        (1, { st := .bound, prod := true, credits := 1, peer := (64, 3) })] })

theorem witness_StreamPortsPopAndPush :
    Issues sPorts (scalar 4 [24, 24] [25]) ∧ sPorts.me.port (24 : Reg).toNat = some 0 ∧
    sPorts.me.port (25 : Reg).toNat = some 1 ∧ (sPorts.me.qreg 0).st = .bound ∧
    (Issues sPorts (scalar 4 [24, 7] [25]) ∧ sPorts.me.port (7 : Reg).toNat = none) := by
  and_intros <;> first | exact plain_of (by decide +kernel) | exact issues_of (by decide +kernel) | decide +kernel

/-! ### Memory instructions

Core 0 with four pages: of HBM, of the host, of no memory, and of HBM for reading only. -/

def pages : List TlbEnt :=
  [{ vpage := fetchBase / 65536, pa := fetchBase, x := true, w := true }, { vpage := fetchBase / 65536 + 1, pa := 2 ^ 47, w := true },
   { vpage := fetchBase / 65536 + 2, pa := 2 ^ 45, w := true }, { vpage := fetchBase / 65536 + 3, pa := fetchBase + 65536 }]
def sMem : State := (demo [(6, 0xFF00000000000008), (7, 8), (8, aGlob), (9, 0xFF01000000000000), (10, 0xFF00000000000100)]).updBay 0 (fun b => { b with vlt := pages })
def sMemPv : State := sMem.updMe (fun c => { c with pv := true })
/-- A younger store of the core to eight bytes at `aGlob`, not performed. -/
def sFwd : State := { sMem with flight := [{ core := 0, op := .store, loc := .glob 0x400000080, n := 8, data := 7 }] }
/-- The line of `aGlob` in the bay's L1, good or poisoned. -/
def sL1 (p : Bool) : State := sMem.updBay 0 (fun b => { b with l1 := [{ line := 0x400000080 / 128, data := 9, poison := p }] })

/-- What placing comes to at each kind of address: misaligned; no memory; a system register; a core memory of this die and
of the other; a global line held in the store queue, held in the L1 good or poisoned, and held nowhere near. -/
theorem witness_ScalarLoads :
    IssuesPlain sMem { scalar 4 [6] [5] with long := true } ∧ IssuesPlain sMem { scalar 12 [6] [5] with long := true } ∧
    ((sMem.rg 6 + (-1 : BitVec 6).signExtend 64 * word 1).toNat % 2 ≠ 0 ∧ (sMem.place 0 false (-8)).1 = .trap tAPERTURE (-8)) ∧
    (∃ r, (sMemPv.place 0 true 0xFF06000006000400).1 = .sys r) ∧
    ((sMem.place 0 false (sMem.rg 6)).1 = .loc (.spad 0 8) ∧ sMem.ownScore (.spad 0 8) 8 = false ∧
      sMem.rmwAwaited (.spad 0 8) 8 = false ∧ dieOf (Loc.spad 0 8).tile = dieOf (tileOf sMem.cur)) ∧
    ((sMemPv.place 0 false 0xFF04000040000000).1 = .loc (.vault 64 0) ∧ dieOf (Loc.vault 64 0).tile ≠ dieOf (tileOf sMemPv.cur)) ∧
    ((sFwd.place 0 false aGlob).1 = .loc (.glob 0x400000080) ∧ sFwd.rmwAwaited (.glob 0x400000080) 8 = false ∧
      sFwd.forward (.glob 0x400000080) 8 (BitVec.allOnes 128) = .data 7) ∧
    ((sMem.place 0 false aGlob).1 = .loc (.glob 0x400000080) ∧ sMem.forward (.glob 0x400000080) 8 (BitVec.allOnes 128) = .none ∧
      sMem.l1Hit (.glob 0x400000080) .df = none) ∧
    (∃ c, (sL1 false).l1Hit (.glob 0x400000080) .df = some c ∧ c.poison = false) ∧
    ∃ c, (sL1 true).l1Hit (.glob 0x400000080) .df = some c ∧ c.poison = true :=
  ⟨plain_of (by decide +kernel), plain_of (by decide +kernel), by decide +kernel,
   ⟨_, (by decide +kernel : _ = Go.sys .cancel)⟩, by decide +kernel, by decide +kernel, by decide +kernel,
   by decide +kernel, ⟨{ line := 0x400000080 / 128, data := 9, poison := false }, by decide +kernel, rfl⟩,
   ⟨{ line := 0x400000080 / 128, data := 9, poison := true }, by decide +kernel, rfl⟩⟩

/-- An armed barrier word at offset 0 of core 0's scratchpad. -/
def sArmed : State := sMem.setTile 0 { sMem.tile 0 with bars := [{ core := 0, off := 0, arr := 1 }] }

theorem witness_ScalarStores :
    IssuesPlain sMem (scalar 4 [5, 6] []) ∧ IssuesPlain sMem (scalar 12 [5, 6] []) ∧
    (sMem.place 1 false aGlob).1 = .loc (.glob 0x400000080) ∧ sMem.storesFull = false ∧
    (sMem.place 1 false (aGlob + 0x30000)).1 = .page (aGlob + 0x30000) rPERM ∧
    ((sArmed.place 1 false 0xFF00000000000007).1 = .loc (.spad 0 7) ∧ sArmed.overBarrier (.spad 0 7) 1 = true ∧
      sArmed.overBarrier (.spad 0 8) 8 = false ∧ sArmed.ownScore (.spad 0 8) 8 = false) := by
  and_intros <;> first | exact plain_of (by decide +kernel) | decide +kernel

/-- What the global address `w` of core 0 translates to for a load. -/
def placedAt (s : State) (w : Nat) : Machine.Trans :=
  (s.translate (bayOf s.cur) .vlt s.rqst s.myHall.asid w 0 s.me.pv).1
/-- A root table in the other die's memory, over a link that is not up yet. -/
def sFarRoot : State := { sMem with sys := { sMem.sys with asidroot := [(0, 2 ^ 38 + 1)] } }

/-- Both ends of each window; a page that translates, one of the host, none, and one whose walk waits. -/
theorem witness_PlacingPrefetchAndEvict :
    ((sMem.bay (bayOf sMem.cur)).vlt.find? (fun e => e.maps sMem.myHall.asid aGlob.toNat)).isSome = true ∧ aGlob.toNat < 2 ^ 52 ∧
    (2 ^ 52 : Word).toNat = 2 ^ 52 ∧ (0xFF00000000017FFF : Word).toNat = 0xFF00 * 2 ^ 48 + 98303 ∧
    (0xFF01000000007FFF : Word).toNat = 0xFF01 * 2 ^ 48 + 32767 ∧
    (0xFF020000007F7FFF : Word).toNat = 0xFF02 * 2 ^ 48 + 63 * 2 ^ 17 + 98303 ∧
    (0xFF03000000003FFF : Word).toNat = 0xFF03 * 2 ^ 48 + 16383 ∧
    (0xFF0400007FBFFFFF : Word).toNat = 0xFF04 * 2 ^ 48 + 127 * 2 ^ 24 + 12582911 ∧
    0x10 * 2 ^ 48 ≤ (0xFEFFFFFFFFFFFFFF : Word).toNat ∧ (0xFEFFFFFFFFFFFFFF : Word).toNat < 0xFF00 * 2 ^ 48 ∧
    IssuesPlain sMem (scalar 4 [8] []) ∧ IssuesPlain sMem (scalar 12 [8] []) ∧
    sMem.steer sMem.cur sMem.me.pv aGlob = some (.glob 0x400000080) ∧ sMem.steer sMem.cur sMem.me.pv (-8) = none ∧
    sMem.steer sMem.cur sMem.me.pv (sMem.rg 6) = some (.loc (.spad 0 8)) ∧ placedAt sMem 0x400000080 = .phys 0x400000080 ∧
    placedAt sMem 0x400010080 = .phys (2 ^ 47 + 128) ∧ isHost (2 ^ 47 + 128) = true ∧ isHost 0x400000080 = false ∧
    placedAt sMem 0x400040080 = .fault rNOTVALID ∧ placedAt sFarRoot 0x400040080 = .wait := by
  and_intros <;> first | exact plain_of (by decide +kernel) | decide +kernel

/-- 32 bytes apart from a line, and a whole line; both as loads and as stores. -/
theorem witness_VectorLoadsAndStores :
    8 * (bitsOf (9#4).toNat / 8) = bitsOf (9#4).toNat ∧
    IssuesPlain sMem { len := 12, on := sMem.vguard gt (9#4).toNat, rs := [6], vw := [3], long := true } ∧
    IssuesPlain sMem { len := 20, on := sMem.vguard gt (9#4).toNat, rs := [6, 7], vw := [3], long := true } ∧
    IssuesPlain sMem { len := 12, on := sMem.vguard gt (9#4).toNat, rs := [6], vs := [2], vw := [3], long := true } ∧
    IssuesPlain sMem { len := 12, on := sMem.vguard gt (9#4).toNat, rs := [6], vs := [3] } ∧
    IssuesPlain sMem { len := 12, on := sMem.vguard gt (9#4).toNat, rs := [6], vs := [3, 2] } ∧
    ((sMem.rg 6).toNat % 128 ≠ 0 ∧
      (sMem.placeAll 0 false (sMem.vElems gt 11 (fun i => sMem.rg 6 + word (i * 4)))).1.all (fun e => match e.2 with
        | .loc l => !sMem.ownScore l 4 && !sMem.rmwAwaited l 4 && !sMem.overBarrier l 4
        | _ => false) = true ∧
      (sMem.vElems gt 11 (fun i => sMem.rg 6 + word (i * 4))).all (fun e => e.addr.toNat % e.n == 0) = true) ∧
    ((aGlob.toNat % 128 = 0 ∧ (sMem.vElems gt 11 (fun i => aGlob + word (i * 4))).length = 32 ∧
      (sMem.place 0 false aGlob).1 = .loc (.glob 0x400000080) ∧ (sMem.place 1 false aGlob).1 = .loc (.glob 0x400000080) ∧
      sMem.storesFull = false ∧ sMem.forward (.glob 0x4000000FC) 4 (BitVec.allOnes 128) = .none)) := by
  and_intros <;> first | exact plain_of (by decide +kernel) | decide +kernel

/-- In the own scratchpad, at a global address, and at a vault of the other die. -/
theorem witness_AtomicOperations :
    IssuesPlain sMem { len := 12, on := sMem.guard gt, rs := [6, 7, 0], ws := [5], long := true } ∧
    IssuesPlain sMem { len := 20, on := sMem.guard gt, rs := [6, 7, 4], ws := [5], long := true } ∧
    ((sMem.rg 6 + (1#24).signExtend 64).toNat % 4 ≠ 0) ∧
    ((sMem.place 3 false (sMem.rg 6)).1 = .loc (.spad 0 8) ∧ sMem.overBarrier (.spad 0 8) 8 = false ∧
      sMem.ownScore (.spad 0 8) 8 = false ∧ sMem.rmwAwaited (.spad 0 8) 8 = false ∧
      dieOf (Loc.spad 0 8).tile = dieOf (tileOf sMem.cur)) ∧
    ((sArmed.place 3 false (sMem.rg 6 - 8)).1 = .loc (.spad 0 0) ∧ sArmed.overBarrier (.spad 0 0) 8 = true) ∧
    ((sMem.place 3 false aGlob).1 = .loc (.glob 0x400000080) ∧ sMem.rmwAwaited (.glob 0x400000080) 8 = false) ∧
    ((sMemPv.place 3 false 0xFF04000040000000).1 = .loc (.vault 64 0) ∧ dieOf (Loc.vault 64 0).tile ≠ dieOf (tileOf sMemPv.cur)) := by
  and_intros <;> first | exact plain_of (by decide +kernel) | decide +kernel

/-- A line that may be changed, one of the host, and one that the world check refuses; XACC32 and XACC64 slots. -/
theorem witness_ReductionsAndAccumulators :
    IssuesPlain sMem { len := 12, on := sMem.guard gt, rs := [6, 7] } ∧ IssuesPlain sMem { len := 20, on := sMem.guard gt, rs := [6, 7] } ∧
    (sMem.place 3 false (sMem.rg 6)).1 = .loc (.spad 0 8) ∧
    ((sMem.place 3 false aGlob).1 = .loc (.glob 0x400000080) ∧ sMem.wayToSlice (tileOf sMem.cur) (homeSlice 0x400000080) = .clear ∧
      (sMem.check sMem.rqst kAtomic 0x400000080 4).1 = false ∧ isHost 0x400000080 = false ∧
      sMem.viewReadOnly (0x400000080 / 128) = false ∧ sMem.free (0x400000080 / 128) true = true ∧
      sMem.linePending (0x400000080 / 128) = false ∧ (∀ c ∈ sMem.cmds, c.core = sMem.cur → c.st ≠ .locking) ∧
      (sMem.bay (bayOf sMem.cur)).uline? (0x400000080 / 128) = none ∧ sMem.knownBad (0x400000080 / 128) = false ∧
      (sMem.holdersOf (0x400000080 / 128)).length < 8) ∧
    ((sMem.place 3 false (aGlob + 0x20000)).1 = .loc (.glob 0x200000000080) ∧
      (sMem.check sMem.rqst kAtomic 0x200000000080 4).1 = true) ∧
    ((sMem.place 3 false (aGlob + 0x10000)).1 = .loc (.glob 0x800000000080) ∧ isHost 0x800000000080 = true) ∧
    IssuesPlain sMem { len := 12, on := sMem.guard gt, rs := [9], ws := [5], long := true } ∧
    IssuesPlain sMem { len := 20, on := sMem.guard gt, rs := [9], ws := [5], long := true } ∧
    (sMem.rg 9).toNat % 64 = 0 ∧ (sMem.place 0 false (sMem.rg 9)).1 = .loc (.vault 0 0) ∧ (sMem.rg 6).toNat % 64 ≠ 0 ∧
    (0xFF01000000000000 : Word).toNat % 288 ≠ 0 ∧ (0xFF01000000000020 : Word).toNat % 288 = 0 ∧
    (match sMem.readSlot64 .df 0xFF01000000000020 9 with | .ok x _ _ => x == 0 | _ => false) = true := by
  and_intros <;> first | exact plain_of (by decide +kernel) | decide +kernel

/-! ### Accesses at their places, and the matrix engine -/

/-- A result for g5 that has arrived; a divide that ends now; one for a shared general register, a predicate and a vector
register. -/
def sPend (dst : PReg0) (cls : PCls) : State :=
  demoWith [] (fun c => { c with pend := [{ id := 3, dst := some dst, cls := cls, need := if cls = .divide then 1 else 0 }] })

theorem witness_ResultsReachTheirRegisters :
    [(PReg0.gb false 31, PCls.mem), (.gs 32, .divide), (.pb false 6, .mem), (.v 255, .mem)].all (fun x =>
      match ((sPend x.1 x.2).core 0).pend.find? (fun p => p.id == 3) with
      | some p => (p.need == 0 || p.cls == .divide) && p.acc == 0 && p.win == 0 && ((sPend x.1 x.2).core 0).lv0.hold == .ready &&
          ((sPend x.1 x.2).core 0).lv1.hold == .idle
      | none => false) = true := by decide +kernel

/-- One request of core 0 on its way. -/
def sReq (r : Req) : State := { sMem with flight := [{ r with id := 1 }] }
def linkDead (s : State) : State := { s with sys := { s.sys with links := [(0, { state := 2 }), (1, { state := 2 })] } }

theorem witness_CoreMemoryAccessesAndAnswers :
    ([({ op := .load, loc := .spad 0 8, n := 8, pend := some 0 } : Req), { op := .store, loc := .spad 1 98296, n := 8 },
      { op := .store, loc := .gal 0 16376, n := 8 }, { op := .amo .add 12, loc := .spad 0 8, n := 8, pend := some 0 }].all (fun r =>
      ((sReq r).req? 1).isSome && (sReq r).inTurn { r with id := 1 } && !r.loc.isGlob && r.st == .sent &&
        !(sReq r).overScore r.loc r.n && (sReq r).wayBetween (tileOf r.core) r.loc.tile == .clear)) = true ∧
    (linkDead (sReq { op := .store, loc := .vault 64 0, n := 8 })).wayBetween 0 (tileOfVault 64) = .dead ∧
    ([({ op := .load, loc := .glob 0x400000080, n := 8, st := .missed } : Req), { op := .load, loc := .glob (2 ^ 47), n := 8, st := .pcie },
      { op := .load, loc := .glob 0x400000080, n := 8, pend := some 0, st := .done 0 (some 1) false },
      { op := .store, loc := .glob 0x400000080, n := 8, st := .done 0 (some 1) false }].all (fun r =>
      ((sReq r).req? 1).isSome && !(sReq r).locked (0x400000080 / 128) false && (sReq r).answerInTurn { r with id := 1 })) = true ∧
    rmwNew .add 12 ((sReq {}).hostRead (2 ^ 47) 8) 7 0 = some 7 ∧
    (let s := { demoWith [] (fun c => { c with wit := [(5, 9, 0)] }) with cycle := 2 ^ 23 }
     (s.core 0).wit.find? (fun e => e.1 == 5) = some (5, 9, 0) ∧ 0 + 2 ^ 23 ≤ s.cycle) ∧
    (let s := { demoWith [] (fun c => { c with wit := [(5, 9, 0)] }) with cycle := 2 ^ 23 - 1 }
     (s.core 0).wit.find? (fun e => e.1 == 5) = some (5, 9, 0) ∧ s.cycle < 0 + 2 ^ 23) := by decide +kernel

/-- The home slice of the line of `aGlob` holds it. -/
def withLine (s : State) : State :=
  s.putLine { line := 0x400000080 / 128, data := 9 }

theorem witness_SliceAccesses :
    ([({ op := .load, loc := .glob 0x400000080, n := 8, pend := some 0 } : Req), { op := .store, loc := .glob 0x400000080, n := 8 },
      { op := .amo .add 12, loc := .glob 0x400000080, n := 8, pend := some 0 }, { op := .evict, loc := .glob 0x400000080, n := 128 }].all (fun r =>
      let s := sReq r
      (s.req? 1).isSome && s.inTurn { r with id := 1 } && s.wayToSlice (tileOf r.core) (homeSlice 0x400000080) == .clear &&
        !(s.reqRefused r 0x400000080).1 && s.free (0x400000080 / 128) true && !s.viewReadOnly (0x400000080 / 128) &&
        ((s.recall (0x400000080 / 128)).cline? (0x400000080 / 128)).isNone &&
        (((withLine s).recall (0x400000080 / 128)).cline? (0x400000080 / 128)).isSome)) = true ∧
    ((sReq { op := .load, loc := .glob (2 ^ 45), n := 8 }).reqRefused { op := .load, loc := .glob (2 ^ 45), n := 8, id := 1 } (2 ^ 45)).1 = true ∧
    ((sReq { op := .load, loc := .glob (2 ^ 47), n := 8 }).reqRefused { op := .load, loc := .glob (2 ^ 47), n := 8, id := 1 } (2 ^ 47)).1 = false ∧
    isHost (2 ^ 47) = true ∧ ((withLine sMem).cline? (0x400000080 / 128)).isSome = true ∧
    (withLine sMem).holdersOf (0x400000080 / 128) = [] := by decide +kernel

/-- A bay whose tile registers t1 and t2 hold FP64 rows: 4 rows of 16 bytes. -/
def sTiles : State := sMem.updBay 0 (fun b => { b with tcfg := [(1, { cfg := true, rows := 4, rb := 16, ty := 0 }),
  (2, { cfg := true, rows := 4, rb := 16, ty := 0 })] })
def uBlock (s : State) : Uses := { len := 12, on := s.guard gt, blocking := true }
/-- The image's lines, in the vault above tile 0. -/
def imageAt : Word := 0xFF04000000400000
def sFrozen : State := sTiles.updBay 0 (fun b => { b with frozen := true })

theorem witness_TilesAlcoveAndImages :
    ((sTiles.bay (bayOf sTiles.cur)).jobs = [] ∧ (sTiles.bay (bayOf sTiles.cur)).frozen = false ∧
      (sTiles.tcfg 0 1).cfg = true ∧ (sTiles.tcfg 0 1).rows ≤ 192 ∧ (sTiles.tcfg 0 1).rb ≤ 128 ∧ (sTiles.tcfg 0 1).rb % 4 = 0 ∧
      (sTiles.tcfg 0 3).cfg = false ∧ amovtWords (sTiles.tcfg 0 1).ty = 2 ∧
      (32752#15).toNat + 4 * (16 / 4) ≤ 32768 ∧ 32768 < (32753#15).toNat + 4 * (16 / 4)) ∧
    IssuesPlain sTiles { len := 12, on := sTiles.guard gt,
                         illegal := decide ((192#8).toNat = 0) || decide (192 < (192#8).toNat) || decide ((128#8).toNat = 0) ||
                           decide (128 < (128#8).toNat) } ∧
    IssuesPlain sTiles { len := 12, on := sTiles.guard gt } ∧ IssuesPlain sTiles (uBlock sTiles) ∧
    IssuesPlain sTiles { uBlock sTiles with illegal := !afinOk 0 0 || decide (4 < (0#3).toNat) } ∧
    IssuesPlain sTiles { uBlock sTiles with rs := [7] } ∧
    (let s := sFrozen.updMe (fun c => { c with pv := true })
     IssuesPlain s { len := 12, on := s.guard gt, rs := [6], ws := [5], long := true, priv := some none }) ∧
    imageAt.toNat % 4096 = 0 ∧ (sMem.rg 6).toNat % 4096 ≠ 0 ∧ (imageAt.toNat < 2 ^ 52 ∨ imageAt.toNat / 2 ^ 48 = 0xFF04) ∧
    (let p := ((sFrozen.updMe (fun c => { c with pv := true })).placeAll 1 false (imageElems imageAt)).1
     firstTrap p = none ∧ firstPage p = none) ∧
    ((State.getImage (goLocs ((sFrozen.updMe (fun c => { c with pv := true })).placeAll 0 false (imageElems imageAt)).1) [] sFrozen).map
      (fun x => x.1.1)) = some 0 ∧
    ((State.putImage (sealedByte (Config.imageByte 0) imageBytes) (goLocs (sFrozen.placeAll 1 false (imageElems imageAt)).1)
      sFrozen).map (fun x => x.1)) = some 0 := by
  and_intros <;> first | exact plain_of (by decide +kernel) | decide +kernel

/-! ## Bytes that are not known

The opaque bytes of an image have no values; what is read of a memory that holds them is read off here. -/

/-- The bytes `f` at `n` addresses from `b` on. -/
def known (b n : Nat) (f : Nat → Byte) : SMap Byte := (List.range n).map (fun i => (b + i, f i))

theorem get_placed (b k : Nat) (f : Nat → Byte) :
    ∀ places : List Nat, k ∈ places → SMap.get 0 (places.map (fun i => (b + i, f i))) (b + k) = f k
  | a :: rest, h => by
    rw [List.map_cons, SMap.get]
    by_cases hk : a = k
    · rw [if_pos (by rw [hk]), hk]
    · rw [if_neg (by omega)]
      exact get_placed b k f rest ((List.mem_cons.1 h).resolve_left (fun e => hk e.symm))

theorem get_known {b n k : Nat} {f : Nat → Byte} (h : k < n) : (known b n f).get 0 (b + k) = f k :=
  get_placed b k f _ (List.mem_range.2 h)

theorem bytesOf_readBytes (m : SMap Byte) (n : Nat) :
    ∀ a, bytesOf n (readBytes m a n) = (List.range n).map (fun i => m.get 0 (a + i)) := by
  induction n with
  | zero => intro a; rfl
  | succ n ih =>
    intro a
    have h : ((m.get 0 a).toNat + 256 * readBytes m (a + 1) n) / 256 = readBytes m (a + 1) n := by
      have := (m.get 0 a).isLt; omega
    rw [readBytes, bytesOf, h, ih, List.range_succ_eq_map, List.map_cons, List.map_map]
    congr 1
    · apply BitVec.eq_of_toNat_eq
      rw [BitVec.toNat_ofNat]
      have := (m.get 0 a).isLt
      simp only [Nat.add_zero]; omega
    · apply List.map_congr_left
      intro i _
      simp only [Function.comp_apply]
      congr 1; omega

theorem lines_of (g : Nat → Byte) (n : Nat) :
    (List.range n).flatMap (fun j => (List.range 128).map (fun i => g (128 * j + i))) = (List.range (128 * n)).map g := by
  induction n with
  | zero => rfl
  | succ n ih =>
    rw [List.range_succ (n := n), List.flatMap_append, ih, Nat.mul_succ, List.range_add, List.map_append, List.map_map]
    simp [List.flatMap_cons, Function.comp_def]

/-- A sealed image: its VER, its SUM, and what it holds. -/
theorem sealed_sound (f : Nat → Byte) {n : Nat} (h : 8 ≤ n) :
    sealVer ((List.range n).map (sealedByte f n)) = true ∧ sealSum ((List.range n).map (sealedByte f n)) = true ∧
    ((List.range n).map (sealedByte f n)).drop 8 = (List.range (n - 8)).map (fun i => f (i + 8)) := by
  obtain ⟨k, rfl⟩ : ∃ k, n = 8 + k := ⟨n - 8, by omega⟩
  have hd : ((List.range (8 + k)).map (sealedByte f (8 + k))).drop 8 = (List.range (8 + k - 8)).map (fun i => f (i + 8)) := by
    rw [List.range_add, List.map_append, List.drop_append_of_le_length (by simp), List.drop_of_length_le (by simp),
      List.nil_append, List.map_map, Nat.add_sub_cancel_left]
    apply List.map_congr_left
    intro i _
    simp only [Function.comp_apply, sealedByte]
    rw [if_neg (by omega), if_neg (by omega), if_neg (by omega), Nat.add_comm]
  refine ⟨?_, ?_, hd⟩
  · rw [List.range_add, List.map_append]
    simp [sealVer, List.range_succ, sealedByte]
  · have hs : (((List.range (8 + k)).map (sealedByte f (8 + k))).drop 4).take 4 =
        (List.range 4).map (byteN (crc32c ((List.range (8 + k - 8)).map (fun i => f (i + 8)))).toNat) := by
      rw [List.range_add, List.map_append]
      simp [List.range_succ, sealedByte]
    rw [sealSum, hs, hd]
    generalize crc32c _ = c
    have := c.isLt
    simp [List.range_succ, ofBytes, byteN]
    omega

/-- Reading line by line what is held at `b`. -/
theorem lines_known (b : Nat) {k n m : Nat} (f : Nat → Byte) (h : k + 128 * n ≤ m) :
    (List.range n).flatMap (fun j => bytesOf 128 (readBytes (known b m f) (b + (k + 128 * j)) 128)) =
      (List.range (128 * n)).map (fun i => f (k + i)) := by
  rw [← lines_of, List.flatMap_def, List.flatMap_def]
  refine congrArg List.flatten (List.map_congr_left (fun j hj => ?_))
  rw [bytesOf_readBytes]
  apply List.map_congr_left
  intro i hi
  have := List.mem_range.1 hj
  have := List.mem_range.1 hi
  rw [show b + (k + 128 * j) + i = b + (k + (128 * j + i)) by omega]
  exact get_known (by omega)

/-- Lines of an image in a vault. -/
theorem getImage_vault (s : State) (v b : Nat) (e : Nat → Elem) (l : List Nat) (bs : List Byte)
    (hw : s.wayBetween (tileOf s.cur) (tileOfVault v) = .clear) :
    State.getImage (l.map (fun j => (e j, Loc.vault v (b + 128 * j)))) bs s =
      some ((0, bs ++ l.flatMap (fun j => bytesOf 128 (readBytes s.mem.vault (v * 2 ^ 24 + (b + 128 * j)) 128))), s) := by
  induction l generalizing bs with
  | nil => simp [State.getImage]
  | cons a l ih => rw [List.map_cons, State.getImage, ih] <;> simp [State.locRead, List.append_assoc, Loc.tile, hw]

/-- Elements that all lie in core memories are placed without a change. -/
theorem placeAll_locs (s : State) (acc : Acc) (ok : Bool) (e : Nat → Elem) (w : Nat → Loc) (l : List Nat)
    (h : ∀ j ∈ l, s.steer s.cur s.me.pv (e j).addr = some (.loc (w j))) :
    s.placeAll acc ok (l.map e) = (l.map (fun j => (e j, Go.loc (w j))), s) := by
  induction l with
  | nil => rfl
  | cons a l ih =>
    have ha : s.place acc ok (e a).addr = (.loc (w a), s) := by simp [State.place, h a (List.mem_cons_self ..)]
    simp only [List.map_cons, State.placeAll, ha, ih (fun j hj => h j (List.mem_cons_of_mem _ hj))]

/-- Lines of host memory. -/
theorem lineBytes_host (s : State) (a n : Nat) (h : a + 128 * n ≤ 2 ^ 47) :
    s.lineBytes (2 ^ 47 + a) n =
      (some ((List.range n).flatMap (fun j => bytesOf 128 (readBytes s.mem.host (a + 128 * j) 128))), s) := by
  induction n with
  | zero => rfl
  | succ n ih =>
    have hh : isHost (2 ^ 47 + a + 128 * n) = true := decide_eq_true (by unfold hostBase; omega)
    have hr : s.refuses saveRqst.secure (2 ^ 47 + a + 128 * n) 128 = false := by
      rw [State.refuses, hh, decide_eq_false (p := 2 ^ 48 ≤ 2 ^ 47 + a + 128 * n) (by omega)]; simp [saveRqst]
    rw [State.lineBytes, ih (by omega)]
    simp only [State.engRead, State.engWay, hr, hh, State.lineRead, State.hostRead, if_true, Bool.not_true, Bool.false_and,
      Bool.false_eq_true, if_false, Option.map_some]
    rw [List.range_succ, List.flatMap_append]
    simp only [show 2 ^ 47 + a + 128 * n - hostBase = a + 128 * n by unfold hostBase; omega, List.flatMap_cons, List.flatMap_nil,
      List.append_nil]

/-- The places of elements that all go to memory. -/
theorem places_locs (e : Nat → Elem) (w : Nat → Loc) (l : List Nat) :
    let gs := l.map (fun j => (e j, Go.loc (w j)))
    firstTrap gs = none ∧ firstPage gs = none ∧ anyWait gs = false ∧ goLocs gs = l.map (fun j => (e j, w j)) := by
  induction l with
  | nil => exact ⟨rfl, rfl, rfl, rfl⟩
  | cons a l ih =>
    obtain ⟨h1, h2, h3, h4⟩ := ih
    refine ⟨h1, h2, ?_, ?_⟩
    · simp [anyWait]
    · simpa [goLocs] using h4

/-- A sealed image with another byte in its SUM. -/
theorem sealed_changed (f : Nat → Byte) {n : Nat} (h : 8 ≤ n) :
    let g := fun i => if i = 4 then sealedByte f n 4 + 1 else sealedByte f n i
    sealVer ((List.range n).map g) = true ∧ sealSum ((List.range n).map g) = false := by
  intro g
  obtain ⟨k, rfl⟩ : ∃ k, n = 8 + k := ⟨n - 8, by omega⟩
  have hd : ((List.range (8 + k)).map g).drop 8 = ((List.range (8 + k)).map (sealedByte f (8 + k))).drop 8 := by
    simp only [List.range_add, List.map_append, List.map_map]
    rw [List.drop_append_of_le_length (by simp), List.drop_append_of_le_length (by simp), List.drop_of_length_le (by simp),
      List.drop_of_length_le (by simp)]
    simp only [List.nil_append]
    apply List.map_congr_left
    intro i _
    simp only [Function.comp_apply, g]
    rw [if_neg (by omega)]
  obtain ⟨-, -, hb⟩ := sealed_sound f h
  refine ⟨?_, ?_⟩
  · rw [List.range_add, List.map_append]
    simp [sealVer, List.range_succ, sealedByte, g]
  · have hs : (((List.range (8 + k)).map g).drop 4).take 4 =
        (let c := (crc32c ((List.range (8 + k - 8)).map (fun i => f (i + 8)))).toNat
         [byteN c 0 + 1, byteN c 1, byteN c 2, byteN c 3]) := by
      rw [List.range_add, List.map_append]
      simp [List.range_succ, sealedByte, g]
    rw [sealSum, hs, hd, hb]
    generalize crc32c _ = c
    have := c.isLt
    simp [ofBytes, byteN]
    omega

/-- A frozen bay, and `m` in the vaults. -/
def sImage (m : SMap Byte) : State :=
  let s := sFrozen.updMe (fun c => { c with pv := true })
  { s with mem := { s.mem with vault := m }, fes := { s.fes with images := [{ serial := 0 }] } }

/-- Line `j` of the image. -/
def imageElem (j : Nat) : Elem := { idx := j, byte := 0, n := 128, addr := imageAt + word (128 * j) }
/-- Its place. -/
def imageLoc (j : Nat) : Loc := .vault 0 (0x400000 + 128 * j)

theorem imageElems_eq : imageElems imageAt = (List.range 1056).map imageElem := by
  unfold imageElems
  rw [show imageBytes / 128 = 1056 by decide]
  rfl

theorem image_steer (m : SMap Byte) {j : Nat} (h : j < 1056) :
    (sImage m).steer (sImage m).cur (sImage m).me.pv (imageElem j).addr = some (.loc (imageLoc j)) := by
  have ha : (imageElem j).addr.toNat = 0xFF04000000400000 + 128 * j := by
    have h0 : (0xFF04000000400000 : Word).toNat = 0xFF04000000400000 := rfl
    simp only [imageElem, imageAt, word, BitVec.toNat_add, BitVec.toNat_ofNat, h0]
    omega
  have hpv : (sImage m).me.pv = true := rfl
  have h1 : (0xFF04000000400000 + 128 * j) / 2 ^ 48 = 0xFF04 := by omega
  have h2 : (0xFF04000000400000 + 128 * j) % 2 ^ 48 = 0x400000 + 128 * j := by omega
  have h3 : (0x400000 + 128 * j) / 2 ^ 24 = 0 := by omega
  have h4 : (0x400000 + 128 * j) % 2 ^ 24 = 0x400000 + 128 * j := by omega
  have h5 : 0x400000 + 128 * j < 2 ^ 31 ∧ 0x400000 + 128 * j < vaultSize := ⟨by omega, by unfold vaultSize; omega⟩
  rw [hpv, State.steer]
  simp only [ha, h1, h2, h3, h4, if_pos h5, if_true, imageLoc]
  rw [if_neg (by omega)]

theorem sImage_vault (m : SMap Byte) : (sImage m).mem.vault = m := rfl

theorem image_get (m : SMap Byte) (l : List Nat) :
    State.getImage (l.map (fun j => (imageElem j, imageLoc j))) [] (sImage m) =
      some ((0, l.flatMap (fun j => bytesOf 128 (readBytes m (0x400000 + 128 * j) 128))), sImage m) := by
  have hw : (sImage []).wayBetween (tileOf (sImage []).cur) (tileOfVault 0) = .clear := by decide +kernel
  have h := getImage_vault (sImage m) 0 0x400000 imageElem l [] hw
  simp only [List.nil_append, Nat.zero_mul, Nat.zero_add, sImage_vault] at h
  simpa only [imageLoc] using h

theorem image_read (m : SMap Byte) :
    ∃ gs, (sImage m).placeAll 0 false (imageElems imageAt) = (gs, sImage m) ∧ firstTrap gs = none ∧ firstPage gs = none ∧
      anyWait gs = false ∧
      State.getImage (goLocs gs) [] (sImage m) =
        some ((0, (List.range 1056).flatMap (fun j => bytesOf 128 (readBytes m (0x400000 + 128 * j) 128))), sImage m) := by
  have hp := placeAll_locs (sImage m) 0 false imageElem imageLoc (List.range 1056)
    (fun j hj => image_steer m (List.mem_range.1 hj))
  have hg := image_get m (List.range 1056)
  rw [imageElems_eq]
  generalize List.range 1056 = l at *
  obtain ⟨h1, h2, h3, h4⟩ := places_locs imageElem imageLoc l
  exact ⟨_, hp, h1, h2, h3, h4 ▸ hg⟩

theorem image_known (f : Nat → Byte) :
    (List.range 1056).flatMap (fun j => bytesOf 128 (readBytes (known 0x400000 imageBytes f) (0x400000 + 128 * j) 128)) =
      (List.range imageBytes).map f := by
  have go : ∀ n m, 128 * n = m → (List.range n).flatMap (fun j => bytesOf 128 (readBytes (known 0x400000 m f) (0x400000 + 128 * j) 128)) =
      (List.range m).map f := by
    intro n m h
    have := lines_known 0x400000 (k := 0) (n := n) (m := m) f (by omega)
    simpa only [Nat.zero_add, h] using this
  exact go 1056 imageBytes (by decide)

theorem image_bay (m : SMap Byte) : ((sImage m).bay (bayOf (sImage m).cur)).frozen = true ∧
    ((sImage m).bay (bayOf (sImage m).cur)).jobs = [] := by
  have h : (sFrozen.bay (bayOf sFrozen.cur)).frozen = true ∧ (sFrozen.bay (bayOf sFrozen.cur)).jobs = [] := by decide +kernel
  exact h
theorem image_list (m : SMap Byte) : (sImage m).fes.images = [{ serial := 0 }] := rfl

/-- What MREST reads of an image whose bytes are `f`. -/
theorem image_bytes (f : Nat → Byte) :
    let s := sImage (known 0x400000 imageBytes f)
    ∃ gs, s.placeAll 0 false (imageElems imageAt) = (gs, s) ∧ firstTrap gs = none ∧ firstPage gs = none ∧ anyWait gs = false ∧
      (s.bay (bayOf s.cur)).frozen = true ∧ (s.bay (bayOf s.cur)).jobs = [] ∧
      State.getImage (goLocs gs) [] s = some ((0, (List.range imageBytes).map f), s) := by
  intro s
  have h := image_read (known 0x400000 imageBytes f)
  rw [image_known] at h
  obtain ⟨gs, h1, h2, h3, h4, h5⟩ := h
  exact ⟨gs, h1, h2, h3, h4, (image_bay _).1, (image_bay _).2, h5⟩

/-- A sound image, one whose SUM is wrong, and one of zeros, which has no VER. -/
theorem witness_MrestReadsAnImage :
    (∃ f : Nat → Byte, let bs := (List.range imageBytes).map f
      sealVer bs = true ∧ sealSum bs = true ∧ (sImage (known 0x400000 imageBytes f)).imageOf bs = some { serial := 0 }) ∧
    (∃ f : Nat → Byte, sealVer ((List.range imageBytes).map f) = true ∧ sealSum ((List.range imageBytes).map f) = false) ∧
    ∃ f : Nat → Byte, sealVer ((List.range imageBytes).map f) = false := by
  obtain ⟨h1, h2, h3⟩ := sealed_sound (Config.imageByte 0) (n := imageBytes) (by decide)
  refine ⟨⟨_, h1, h2, ?_⟩, ⟨_, sealed_changed (Config.imageByte 0) (n := imageBytes) (by decide)⟩, fun _ => 0, ?_⟩
  · rw [State.imageOf, image_list, h3]
    simp
  · rw [show imageBytes = 1 + 135167 by decide, List.range_add, List.map_append]
    rfl

/-- A TLD of core 0 that may start; the same running, with a row to move, and with all rows moved; an MMA that runs. -/
def sJob (j : Job) : State := sTiles.updBay 0 (fun b => { b with jobs := [j] })
def jTld : Job := { id := 9, kind := .tld, ta := 1, rows := 4, nb := 16, ga := 0xFF00000000000000, gb := 16, bays := [0] }
def jMma : Job := { id := 9, kind := .mma, ta := 1, tb := 2, rows := 4, n := 4, ty := 0, bays := [0], started := true }

theorem witness_MatrixJobs :
    (let u : Uses := { len := 12, on := sTiles.guard gt, rs := [10, 7], ws := [5, 4], long := true, illegal := (5 : Reg) == 4 && (5 : Reg) != 0 }
     IssuesPlain sTiles u) ∧
    ((sTiles.rg 10).toNat % 16 = 0 ∧ sTiles.rowOk sTiles.cur sTiles.me.pv (sTiles.rg 10) 16 = true ∧
      sTiles.rowOk sTiles.cur sTiles.me.pv (sTiles.rg 10 + word 3 * 16) 16 = true ∧ sTiles.jobRoom [0] = true ∧
      (sTiles.takeScores sTiles.cur sTiles.ctr []).isSome = true ∧ sTiles.inCoreOrder [0] = true ∧
      (sTiles.updBay 0 (fun b => { b with jobBy := (sTiles.cycle, 1) })).inCoreOrder [0] = false) ∧
    (let u : Uses := { len := 12, on := sTiles.guard gt, ws := [5, 4], long := true,
                       illegal := ((5 : Reg) == 4 && (5 : Reg) != 0) || decide (9 < (0#4).toNat) || (false && (0#4) != 9#4) }
     IssuesPlain sTiles u) ∧
    (sTiles.tcfg 0 1).ty = (0#4).toNat ∧ (0#15).toNat % 32 = 0 ∧
    IssuesPlain sTiles { len := 12, on := sTiles.guard gt, rs := [7], ws := [5] } ∧
    IssuesPlain sTiles { len := 12, on := sTiles.guard gt, rs := [7], ws := [5], blocking := true, nomask := true } ∧
    ((sJob jTld).freezing 0 = false ∧
      nextServed ((sJob jTld).bay 0).rr ((Bay.heads 0 ((sJob jTld).bay 0).jobs).filter ((sJob jTld).mayStart 0)) = some jTld) ∧
    (let s := sJob { jTld with started := true }
     s.forkBusy 0 9 = false ∧ s.rowOk 0 false (jTld.rowAt 0) 16 = true ∧
       (match (s.readRow 0 jTld (jTld.rowAt 0) [(0, 16)] 0).1 with | .ok _ => true | _ => false) = true) ∧
    ((sJob jMma).bay 0).jobs.find? (fun j => j.id == 9) = some jMma ∧ (sJob jMma).freezing 0 = false := by
  and_intros <;> first | exact plain_of (by decide +kernel) | decide +kernel

/-! ### Copies, fills, near-memory commands, barriers, counters, fences and tasks -/

/-- An access performed at once, of which `p` holds. -/
def nowB (n : Now) (p : Nat → State → Bool) : Bool :=
  match n with
  | .ok x _ t => p x t
  | _ => false

/-- Sixteen bytes a row, two rows, between two places of core 0's scratchpad: the shadow registers of such a copy. -/
def cpRegs : SMap Word :=
  [(0, 0xFF00000000000000), (1, 0xFF00000000000200), (2, 0x1000000010), (3, 0), (4, 0), (5, 2), (6, 1), (7, 1), (9, 0x400)]
def cp1 : Copy := { id := 9, regs := cpRegs, scout := 4, scored := true }
def cpRun : Copy := { cp1 with st := .run, esz := 16, cnt := [2], sstr := [16], dstr := [16] }
def sCopy (c : Copy) : State := sMem.updBay 0 (fun b => { b with copies := [c] })
def sSet (r : SMap Word) : State := sMem.updMe (fun c => { c with lv0 := { c.lv0 with cp := r } })
/-- A copy that fetches a shape record of serial number 7 from the vault. -/
def cpFetch : Copy :=
  { cp1 with st := .fetch, scored := false
             regs := [(0, 0xFF00000000000000), (1, 0xFF00000000000200), (8, 0xFF01000000000000), (9, 0x7000000010000)] }
/-- A shape record: serial number, two rows of sixteen bytes, sealed. -/
def recBody (sn : Nat) : Nat := sn + 4 * 2 ^ 16 + 2 * 2 ^ 64 + 2 ^ 128 + 2 ^ 192 + 0x1000000010 * 2 ^ 256
def recSealed (sn : Nat) : Nat := recBody sn + (crc32c (bytesOf 60 (recBody sn))).toNat * 2 ^ 480
def sRecord (x : Nat) : State := { sCopy cpFetch with mem := { sMem.mem with vault := putBytes [] 0 64 x } }
/-- The record that the copy reads. -/
def fetched (x : Nat) (p : Nat → State → Bool) : Bool :=
  match (sRecord x).copyRead 0 cpFetch 0 (cpFetch.reg 8) 64 .df with
  | (.ok y, t) => p y t
  | _ => false

theorem witness_CopyUnit :
    IssuesPlain sMem { len := 12, on := sMem.guard gt, rs := [6], illegal := decide (9 < (9#4).toNat) } ∧
    IssuesPlain sMem { len := 12, on := sMem.guard gt, ws := [5], illegal := decide (9 < (9#4).toNat) } ∧
    IssuesPlain (sSet cpRegs) { len := 12, on := (sSet cpRegs).guard gt, ws := [5, 4], long := true, illegal := (5 : Reg) == 4 && (5 : Reg) != 0 } ∧
    (sMem.badBase { cp1 with regs := [(0, 0x10000000000000)] } = some 0x10000000000000 ∧ sMem.badBase cp1 = none ∧
      (sMem.bay 0).copies.length < 32 ∧ sMem.regShape { cp1 with regs := [] } = none ∧ (sMem.regShape cp1).isSome = true ∧
      (sMem.takeScores 0 9 (sMem.copySpans cp1 cpRun.shape)).isSome = true) ∧
    (let s := sSet cpRegs
     let c : Copy := { regs := cpRegs, scout := s.me.cpscout.toNat }
     let s1 := s.enterPend (s.newPend (greg s.lv 4) 0 1 .copy 0)
     let s2 : State := { s1 with ctr := s1.ctr + 1 }
     (s2.takeScores s.cur s1.ctr (((s2.regShape c).map (s2.copySpans c)).getD [])).isSome = true ∧
       ¬((s.bay 0).copyBy.1 = s.cycle ∧ s.cur < (s.bay 0).copyBy.2)) ∧
    (IssuesPlain (sCopy cp1) { len := 12, on := (sCopy cp1).guard gt, rs := [4], ws := [5] } ∧
      ((sCopy cp1).bay 0).copies.any (fun c => copyIdent 0 c.seq == (sCopy cp1).rg 4) = true ∧
      (sMem.bay 0).copies.any (fun c => copyIdent 0 c.seq == sMem.rg 4) = false) ∧
    (IssuesPlain sMem { len := 12, on := sMem.guard gt, rs := [9], ws := [5], long := true } ∧ (sMem.rg 9).toNat % 64 = 0 ∧
      (sMem.rg 6).toNat % 64 ≠ 0 ∧ nowB (sMem.nowRead (sMem.rg 9) 64 0 kLoad false) (fun _ t =>
        match t.storeElems .df false sysWrite [({ n := 4, addr := sMem.rg 9 + 60 }, 5)] with | .done _ => true | _ => false) = true) ∧
    (((sCopy cp1).bay 0).copies.find? (fun c => c.st == .queued) = some cp1 ∧ cp1.recd = false ∧
      (((sCopy cp1).bay 0).copies.filter (fun c => c.st != .queued)).length < 4) ∧
    ((sRecord 0).copy? 0 9 = some cpFetch ∧ (sRecord 0).forkBusy 0 9 = false ∧
      fetched 0 (fun x _ => x % 2 ^ 16 != fld (cpFetch.reg 9) 48 16) = true ∧
      fetched (recBody 7) (fun x _ => x % 2 ^ 16 == fld (cpFetch.reg 9) 48 16 && x / 2 ^ 480 != (crc32c (bytesOf 60 x)).toNat) = true ∧
      fetched (recSealed 7) (fun x t => x % 2 ^ 16 == fld (cpFetch.reg 9) 48 16 && x / 2 ^ 480 == (crc32c (bytesOf 60 x)).toNat &&
        x / 2 ^ 20 % 2 ^ 44 == 0 && x / 2 ^ 448 % 2 ^ 32 == 0 &&
        t.shapeOf cpFetch (x / 2 ^ 16 % 16) (recordWords x 8 3) (recordWords x 32 3) ==
          some { e := 16, cnt := [2, 1, 1], sstr := [16, 0, 0], dstr := [16, 0, 0] }) = true) ∧
    ((sCopy { cpRun with st := .shaped }).copy? 0 9 = some { cpRun with st := .shaped }) ∧
    ((sCopy { cpRun with cancel := true }).copy? 0 9 = some { cpRun with cancel := true } ∧
      (sCopy { cpRun with cancel := true }).forkBusy 0 9 = false) ∧
    ((sCopy cpRun).copy? 0 9 = some cpRun ∧ (sCopy cpRun).forkBusy 0 9 = false ∧ cpRun.buf = [] ∧ cpRun.i < cpRun.n ∧
      cpRun.bad = none ∧
      (match ((sCopy cpRun).copyRead 0 cpRun 0 (cpRun.srcAt 0) 16 .df).1 with | .ok _ => true | _ => false) = true ∧
      (match ((sCopy cpRun).copyWrite 0 cpRun (cpRun.dstAt 0) 16 0 .df).1 with | .ok _ => true | _ => false) = true ∧
      cpRun.scout ≠ 0 ∧ cpRun.scoutAt = cpRun.i ∧ inGlobal (cpRun.srcAt 0) = false ∧ inGlobal (cpRun.dstAt 0) = false) ∧
    ((sCopy { cpRun with st := .updating }).copy? 0 9 = some { cpRun with st := .updating } ∧
      ∀ q ∈ (sMem.tile 0).contribs, q.copy ≠ some (0, 9)) := by
  and_intros <;> first | exact plain_of (by decide +kernel) | decide +kernel

def uFill (n : BitVec 24) : Uses :=
  { len := 12, on := sMem.guard gt, rs := [8, 7, 9], ws := [5], long := true, illegal := decide (n.toNat = 0) || decide (768 < n.toNat) }
def sRegs (g : SMap Word) : State := sMem.updMe (fun c => { c with lv0 := { c.lv0 with g := g } })
/-- Target mask of core 3, offset 0. -/
def sFill : State := sRegs [(7, 8), (8, aGlob)]
def fill1 : MFill := { id := 9, src := aGlob, pages := [(0x400000080 / 65536, fetchBase)], mask := 8, count := 1 }
/-- A NOP command in memory at the vault's first bytes: OP 0 with destination on this die. -/
def cmd (op : Nat) (st : NmSt) : NmCmd := { id := 9, op := op, ty := 11, n := 1, dst := 0x400000100, st := st }
def sCmd (c : NmCmd) : State := { sMem with cmds := [c] }

/-- A fill of one line, up to the last line of the scratchpad, of 768 lines at most; the stages of a command. -/
theorem witness_MulticastFillAndNearMemory :
    IssuesPlain sFill (uFill 768) ∧
    ((sFill.rg 8).toNat % 128 = 0 ∧ (sFill.rg 9).toNat % 128 = 0 ∧ (sFill.rg 8).toNat + 128 * 768 ≤ 2 ^ 52 ∧
      (sFill.rg 9).toNat + 128 * 768 ≤ 98304 ∧ (sMem.rg 6).toNat % 128 ≠ 0 ∧ 98304 < 128 + 128 * 768 ∧
      (sFill.fillPages aGlob 128 3).2.1 = none ∧ sFill.rg 7 ≠ 0 ∧ sFill.rg 4 = 0 ∧
      (({ sFill with ctr := 2 } : State).takeScores 0 1
        ((maskCores 0 8).map (fun k => { core := k, lo := 0, hi := 128, last := 0 }))).isSome = true) ∧
    (let s := { sMem with fills := [fill1] }
     s.fills.find? (fun f => f.id == 9) = some fill1 ∧ s.forkBusy 0 9 = false ∧ s.nmHolds 0 9 = false ∧ s.lineBehind fill1 = false ∧
      (match (s.engRead true { tile := 0, core := 0, unit := 5, secure := (s.hallOfCore 0).secure } kERead (fill1.pa 0) 128 .df).1 with
        | .ok _ p => !p | _ => false) = true) ∧
    (IssuesPlain sMem { len := 12, on := sMem.guard gt, rs := [9], ws := [5], long := true } ∧ (sMem.rg 9).toNat % 64 = 0 ∧
      nowB (sMem.nowRead (sMem.rg 9) 64 0 kLoad false) (fun _ t =>
        (nmBlk (3 * 2 ^ 508)).bad && !(nmBlk (aGlob.toNat * 2 ^ 64 + 2 ^ 32 + 0xB4)).bad &&
          (t.nmPlaces [(aGlob, 4, 1)]).2.1 == none && (t.nmPlaces [(aGlob, 65536, 1)]).1.any (fun r => r.cross) &&
          (t.nmPlaces [(aGlob, 4, 1)]).1.all (fun r => !r.cross && !t.nmHome 0 r) &&
          (t.nmPlaces [(aGlob + 0x10000, 4, 1)]).1.any (fun r => t.nmHome 0 r) &&
          !(t.nmRefused (t.nmPlaces [(aGlob, 4, 1)]).1).1 && (t.nmRefused (t.nmPlaces [(aGlob + 0x20000, 4, 1)]).1).1 &&
          t.way (dieOf (tileOf t.cur)) (rowOfTile (tileOf t.cur)) 0 != .dead && !sMem.nmHolds sMem.cur sMem.ctr) = true) ∧
    (let c := cmd 4 .locking
     (sCmd c).cmds.find? (fun c => c.id == 9) = some c ∧ 0 / 16 = homeDie c.home ∧ (sCmd c).sliceBusy 0 9 0 = false ∧
      (sCmd c).wayToSlice 0 0 = .clear ∧ (sCmd c).slotsUsed 0 + c.slots 0 ≤ 4 ∧ (linkDead (sCmd c)).wayToSlice 0 16 = .dead ∧
      ∀ l ∈ c.dstLines ++ c.srcLines, (sCmd c).missPending l = false) ∧
    (let c := { cmd 4 .locking with answered := List.range 16 }
     (∀ j, j < 16 → homeDie c.home * 16 + j ∈ c.answered) ∧ ((sCmd c).nmuQueue (stackOf c.home)).length < 16) ∧
    (let c := cmd 4 .queued
     ((sCmd c).nmuQueue (stackOf c.home)).find? (fun c => ((sCmd c).nmuQueue (stackOf c.home)).all (fun d => decide (c.order ≤ d.order))) = some c ∧
      (sCmd c).forkBusy 0 9 = false) ∧
    (let c := cmd 4 .running
     (sCmd c).cmds.find? (fun c => c.st == .running && stackOf c.home == stackOf (cmd 4 .running).home) = some c ∧ c.sz = 4 ∧
      (sCmd c).nmBefore c (c.dst / 128) = false ∧ c.n ≤ c.i + min (c.n - c.i) ((c.dst / 128 * 128 + 128 - c.dst) / 4)) := by
  and_intros <;> first | exact plain_of (by decide +kernel) | decide +kernel

/-- Eight known bytes of core 0's scratchpad at offset 8, for words at g6: the word `x`. -/
def sWord (x : Nat) : State := { sMem with mem := { sMem.mem with spad := putBytes [] 8 8 x } }
/-- The word armed as a phase barrier. -/
def sBar (x : Nat) : State := (sWord x).setTile 0 { (sWord x).tile 0 with bars := [{ core := 0, off := 8, arr := 1 }] }
/-- The same, with a contribution on its way. -/
def sContrib (x : Nat) (q : Contrib) : State := (sBar x).setTile 0 { (sBar x).tile 0 with contribs := [q] }

theorem witness_PhaseBarriers :
    sMem.wordPlace (sMem.rg 6) = .inl (0, 8) ∧ sMem.wordPlace 0xFF00000000000009 = .inr (tALIGN, 0xFF00000000000009) ∧
    sMem.wordPlace 0xFF01000000000000 = .inr (tAPERTURE, 0xFF01000000000000) ∧
    IssuesPlain sMem { len := 12, on := sMem.guard gt, rs := [6, 7] ++ (if sMem.pbinitReads 7 then [4] else []), ws := [5], long := true } ∧
    IssuesPlain sMem { len := 12, on := sMem.guard gt, rs := [6, 4] ++ (if sMem.pbinitReads 4 then [4] else []), ws := [5], long := true } ∧
    IssuesPlain sMem { len := 12, on := sMem.guard gt, rs := [6], ws := [5], long := true } ∧
    IssuesPlain sMem { len := 12, on := sMem.guard gt, rs := [6, 7] } ∧
    IssuesPlain sMem { len := 12, on := sMem.guard gt, rs := [6, 7], ws := [5], blocking := true, nomask := true } ∧
    (∀ e ∈ sMem.cores, ∀ r ∈ e.2.lv0.rest ++ e.2.lv1.rest, r.loc.meets r.n (.spad 0 8) 8 = false) ∧
    (let t : Tile := { bars := List.replicate 32 { core := 1 } }
     t.bar? 0 8 = none ∧ 32 ≤ t.bars.length) ∧
    ((sMem.rg 7).toNat % 2 ^ 16 ≠ 0 ∧ (sMem.rg 4).toNat % 2 ^ 16 = 0 ∧ (sMem.rg 4).toNat % 2 ^ 32 < 2 ^ 31 ∧
      2 ^ 31 ≤ (0x80000000 : Word).toNat % 2 ^ 32) ∧
    (sMem.pendingAt (.spad 0 8) = false ∧ (∀ r ∈ sMem.flight, r.op = .store → r.performed = false → r.loc.meets r.n (.spad 0 8) 8 = false) ∧
      (sMem.tile 0).bar? 0 8 = none ∧ (sMem.tile 0).bars.length < 32 ∧ ((sBar 0).tile 0).bar? 0 8 = some { core := 0, off := 8, arr := 1 }) ∧
    ((sBar 0).spadRead 0 8 8 / 2 ^ 48 = ((sBar 0).rg 4).toNat % 2 ^ 16 ∧ (sBar 0).lv = false) ∧
    (let q : Contrib := { core := 0, off := 8, arrival := true, src := 1, pend := some 7 }
     (((sContrib (2 ^ 32) q).tile 0).contribs.filter (fun q => q.core == 0 && q.off == 8)).take 1 = [q] ∧
      ((sContrib (2 ^ 32) q).tile 0).bar? 0 8 = some { core := 0, off := 8, arr := 1 } ∧
      (sContrib (2 ^ 32) q).spadRead 0 8 8 / 2 ^ 32 % 2 ^ 16 ≠ 0 ∧ (sContrib 0 q).spadRead 0 8 8 / 2 ^ 32 % 2 ^ 16 = 0 ∧
      ∀ y ∈ (sContrib 0 q).tiles, ∀ m ∈ y.2.mons, m.loc.hit (.spad 0 8) 8 = false) := by
  and_intros <;> first | exact plain_of (by decide +kernel) | decide +kernel

/-- A counter below its entry's threshold and at it; a record at g9; a monitor of the watched place. -/
theorem witness_CountersAndAddressWaits :
    sMem.wordPlace (sMem.rg 6) = .inl (0, 8) ∧ (sBar 0).overBarrier (.spad 0 8) 8 = true ∧ (sWord 7).overBarrier (.spad 0 8) 8 = false ∧
    ((sWord 7).pendingAt (.spad 0 8) = false ∧ (sWord 7).overScore (.spad 0 8) 8 = false ∧ (sWord 7).spadRead 0 8 8 < ((sWord 7).rg 7).toNat ∧
      ((sWord 8).rg 7).toNat ≤ (sWord 8).spadRead 0 8 8 ∧ ((sWord 7).tile 0).arms.length < 64) ∧
    IssuesPlain (sWord 7) { len := 12, on := (sWord 7).guard gt, rs := [6, 7], ws := [5], long := true } ∧
    IssuesPlain (sWord 7) { len := 12, on := (sWord 7).guard gt, rs := [6, 7, 9], ws := [5], long := true } ∧
    (State.fireAll 0 [] (sWord 7)).isSome = true ∧
    (sMem.armWaits 0 = false ∧ ({ sMem with pushes := [{ armed := true }] } : State).armWaits 0 = true ∧
      (sMem.setTile 0 { sMem.tile 0 with taskq := [(0, List.replicate 8192 0)] }).armWaits 0 = false ∧
      8192 ≤ (((sMem.setTile 0 { sMem.tile 0 with taskq := [(0, List.replicate 8192 0)] }).tile 0).queue 0).length ∧
      ((sMem.tile 0).queue 0).length < 8192 ∧
      ¬((sMem.tile 0).lastPost.1 = sMem.cycle ∧ sMem.myHall.sender sMem.cur < (sMem.tile 0).lastPost.2)) ∧
    ((sMem.rg 9).toNat % 32 = 0 ∧ nowB (sMem.nowRead (sMem.rg 9) 32 0 kLoad false) (fun x _ =>
      (recOf x).bad == none && fld (recOf x).tidx 38 26 == 0) = true) ∧
    ((sMem.core 3).handlers.length < 64 ∧ (∀ e ∈ (sMem.tile (tileOf 3)).overflow, e.core ≠ 3) ∧ ∀ m ∈ (sMem.tile (tileOf 3)).mons, m.core ≠ 3) ∧
    IssuesPlain sMem { len := 12, on := sMem.guard gt, rs := [9, 4], ws := [5], long := true, nomask := true } ∧
    IssuesPlain sMem { len := 20, on := sMem.guard gt, rs := [9, 4], ws := [5], long := true, nomask := true } ∧
    nowB (sMem.nowRead (sMem.rg 9) 8 0 kAtomic false) (fun x t =>
      word x == sMem.rg 4 && word x != sMem.rg 7 && !t.lv && decide ((t.tile (tileOf t.cur)).mons.length < 32)) = true ∧
    (let m : Mon := { core := 0, pend := 7, loc := .spad 0 8 }
     let s : State := { sMem with tiles := [(0, { sMem.tile 0 with mons := [m] })] }
     s.tiles = [(0, { s.tile 0 with mons := [m] })] ∧ m.loc.hit (.spad 0 8) 8 = true ∧ m ∈ (s.tile (tileOf 0)).mons) := by
  and_intros <;> first | exact plain_of (by decide +kernel) | decide +kernel

/-- A load that a TILE fence covers is on its way; a failure it covers. -/
theorem witness_Fences :
    IssuesPlain sMem { len := 12, on := sMem.guard gt, ws := [5], blocking := true } ∧
    (let r : Req := { id := 1, core := 0, op := .load, loc := .spad 0 8, n := 8 }
     r ∈ (sReq r).flight ∧ r.core = (sReq r).cur ∧ r.lv = (sReq r).lv ∧ r.op.inClass true true = true ∧ coverScope 0 r.loc ≤ 2) ∧
    (let q : Contrib := { core := 0, off := 8, src := 0 }
     q ∈ ((sContrib 0 q).tile (tileOf (sContrib 0 q).cur)).contribs ∧ coverScope 0 (.spad q.core q.off) ≤ 2) ∧
    (let m : QFlight := { core := 0, q := 1, msg := .push 7, src := 0 }
     m ∈ ({ sMem with qflight := [m] } : State).qflight ∧ m.src = sMem.cur ∧ sMem.lv = false ∧ coverScope 0 (.spad m.core 0) ≤ 2) ∧
    (sMem.flight = [] ∧ (sMem.tile 0).contribs = [] ∧ sMem.qflight = []) := by
  and_intros <;> first | exact plain_of (by decide +kernel) | decide +kernel

/-! ### Tasks, steps, galleries and streams -/

/-- A record at g9 whose code is misaligned. -/
def sRecBad : State := { sMem with mem := { sMem.mem with vault := [(0, 2)] } }
/-- An offer of core 0 that was accepted, or refused, with a frame in its vault slice. -/
def sAnswered (ok : Bool) : State :=
  sMem.updMe (fun c => { c with lv0 := { c.lv0 with hold := .answered ok, g := [(2, 0xFF01000000000000)] } })

theorem witness_SpawningAndJoining :
    IssuesPlain sMem { len := 12, on := sMem.guard gt, rs := [9, 4], ws := [5], blocking := true, nomask := true } ∧
    ((sMem.rg 9).toNat % 32 = 0 ∧ (sMem.rg 6).toNat % 32 ≠ 0 ∧ nowB (sMem.nowRead (sMem.rg 9) 32 0 kLoad false) (fun x t =>
        (recOf x).code.toNat % 4 == 0 && (recOf x).jctr.toNat % 64 == 0 && !t.unreleased) = true ∧
      nowB (sRecBad.nowRead (sRecBad.rg 9) 32 0 kLoad false) (fun x _ => (recOf x).code.toNat % 4 != 0) = true ∧
      targetOk sMem.myHall (sMem.rg 4) true false = true ∧ targetOk sMem.myHall 0x100 true false = false ∧
      (sReq { op := .store, loc := .spad 0 8, n := 8 }).unreleased = true) ∧
    (((sAnswered true).me.thr (sAnswered true).lv).hold = .answered true ∧
      ((sAnswered false).me.thr (sAnswered false).lv).hold = .answered false ∧ (sAnswered false).lv = false ∧
      (∀ p ∈ (sAnswered false).me.pend, p.dst ≠ some (.gb false 2) ∧ p.dst ≠ some (.gb false 3)) ∧
      (match (sAnswered false).storeElems .df false sysWrite [({ idx := 0, addr := 0xFF01000000000000 }, 5),
          ({ idx := 1, addr := 0xFF01000000000008 }, 5), ({ idx := 2, addr := 0xFF01000000000010 }, 5),
          ({ idx := 3, addr := 0xFF01000000000018 }, 5)] with | .done t => !t.lv && (t.me.port 5).isNone | _ => false) = true) ∧
    (fld (0x7FFFFFFF : Word) 31 33 = 0 ∧ fld (0x80000000 : Word) 31 33 ≠ 0) ∧
    IssuesPlain sMem { len := 12, on := sMem.guard gt, rs := [9, 7], ws := [5], long := true } ∧
    IssuesPlain sMem { len := 12, on := sMem.guard gt, rs := [9], ws := [5], long := true } ∧
    IssuesPlain (sRegs [(7, 0x80000000), (10, 0xFF00000000000100)])
      { len := 12, on := true, rs := [10, 7], ws := [5], long := true } ∧
    ((sMem.rg 10).toNat % 64 = 0 ∧ (sMem.rg 10).toNat / 2 ^ 48 = 0xFF00 ∧ sMem.unreleased = false ∧
      nowB (sMem.nowRead (sMem.rg 10) 64 3 kAtomic true) (fun _ _ => true) = true) ∧
    (let own := Loc.spad sMem.cur ((sMem.rg 10).toNat % 2 ^ 48)
     (sMem.rg 10).toNat % 2 ^ 48 + 64 ≤ 98304 ∧ sMem.overBarrier own 64 = false ∧ sMem.pendingAt own = false ∧
      sMem.unacked own 64 = false ∧ sMem.overScore own 64 = false ∧ fld (sMem.rg 7) 31 33 = 0) ∧
    ((sMem.rg 8).toNat / 2 ^ 48 ≤ 0xF ∧ (sMem.rg 9).toNat % 64 = 0 ∧
      ¬((sMem.rg 9).toNat / 2 ^ 48 ≤ 0xF ∨ (sMem.rg 9).toNat / 2 ^ 48 = 0xFF00 ∨ (sMem.rg 9).toNat / 2 ^ 48 = 0xFF02)) := by
  and_intros <;> first | exact plain_of (by decide +kernel) | decide +kernel

/-- At level 0 and at level 1; a record with a join block; a child inside its parent's frame. -/
def sLv1 : State := sMem.updMe (fun c => { c with level := true, lv1 := { c.lv1 with hold := .ready } })
def sInl : State := sMem.updMe (fun c => { c with inl := 1, lv0 := { c.lv0 with g := [(2, 0xFF01000000000020)] } })
def sJctr (j : Word) : State := sMem.updMe (fun c => { c with lv0 := { c.lv0 with jctr := j } })

theorem witness_SendingAndEndingRecords :
    IssuesPlain sMem { len := 12, on := sMem.guard gt, rs := [9, 4], ws := [5], long := true } ∧
    ((sMem.rg 9).toNat % 32 = 0 ∧ nowB (sMem.nowRead (sMem.rg 9) 32 0 kLoad false) (fun x t => (recOf x).bad == none && !t.unreleased) = true ∧
      targetOk sMem.myHall (sMem.rg 4) false true = true ∧ targetOk sMem.myHall 0x100 false true = false) ∧
    IssuesPlain sMem { len := 12, on := sMem.guard gt, rs := [0], ws := [5], long := true } ∧
    IssuesPlain sMem { len := 12, on := sMem.guard gt, rs := [6], ws := [5], long := true } ∧
    (sMem.wordPlace (sMem.rg 6) = .inl (0, 8) ∧ sMem.overBarrier (.spad 0 8) 8 = false ∧ (sBar 0).overBarrier (.spad 0 8) 8 = true ∧
      sMem.pendingAt (.spad 0 8) = false ∧ sMem.overScore (.spad 0 8) 8 = false) ∧
    IssuesPlain sMem { len := 12, on := sMem.guard gt, uncounted := !sMem.me.maskOpen, illegal := sMem.lv } ∧
    (IssuesPlain sMem { len := 12, on := sMem.guard gt, uncounted := true } ∧ sMem.lv = false) ∧
    (IssuesPlain sLv1 { len := 12, on := sLv1.guard gt, uncounted := true } ∧ sLv1.lv = true) ∧
    IssuesPlain sMem { len := 12, on := sMem.guard gt, blocking := true, nomask := true } ∧
    ((∀ p ∈ sMem.me.pend, p.lv = sMem.lv → p.owed = false) ∧ sMem.unreleased = false ∧ (sMem.me.thr sMem.lv).jctr = 0 ∧
      ¬(0 < sMem.me.inl) ∧ (∃ p ∈ sWindow.me.pend, p.lv = sWindow.lv ∧ p.owed = true) ∧
      ({ cls := .copy } : Pend).dst = none ∧ ({ cls := .copy } : Pend).acc = 0) ∧
    (0 < sInl.me.inl ∧ nowB (sInl.readFrame (sInl.me.g false 2 - 32) 4) (fun _ t => !t.lv) = true) ∧
    (IssuesPlain (sJctr 0xFF01000000000040) { len := 12, on := true, blocking := true, nomask := true } ∧
      blockTrap 0xFF01000000000040 = some tAPERTURE ∧ blockTrap 0xFF00000000000040 = none ∧
      nowB ((sJctr 0xFF00000000000040).nowRead 0xFF00000000000040 64 3 kAtomic true) (fun _ _ => true) = true) ∧
    (sLv1.me.level = true ∧ sLv1.me.lv0.hold ≠ .wfe) := by
  and_intros <;> first | exact plain_of (by decide +kernel) | decide +kernel

/-- The limits of the queues: 7,680 records, 8,192 with forced ones, 512 in a vestibule, 64 handlers. -/
def sPush (n : Nat) (forced : Bool) : State :=
  ({ sMem with pushes := [{ id := 9, forced := forced }] } : State).setTile 0
    { sMem.tile 0 with taskq := [(0, List.replicate n 0)] }
def sPark (n : Nat) : State :=
  ({ sMem with parks := [{ id := 9, v := { h := true } }] } : State).setTile 0 { sMem.tile 0 with vest := List.replicate n {} }
def sIdle (c : Core) (t : Tile) : State := (sMem.setCore 0 { c with stopped := false }).setTile 0 { t with hall := some 0 }

theorem witness_RecordsArriveAndStart :
    ((sPush 7679 false).pushes.find? (fun p => p.id == 9) = some { id := 9, forced := false } ∧
      (((sPush 7679 false).tile 0).queue 0).length < 7680 ∧ 7680 ≤ (((sPush 7680 false).tile 0).queue 0).length ∧
      (((sPush 8191 true).tile 0).queue 0).length < 8192 ∧ 8192 ≤ (((sPush 8192 true).tile 0).queue 0).length ∧
      (((sPush 0 true).hallOf 0).getD {}).cls = 0 ∧ (sPush 0 true).wayBetween 0 0 = .clear) ∧
    ((sPark 511).parks.find? (fun p => p.id == 9) = some { id := 9, v := { h := true } } ∧
      (∀ q ∈ (sPark 511).parks, q.core = 0 → q.tile = 0 → 9 ≤ q.id) ∧ (sPark 511).wayBetween 0 0 = .clear ∧
      ((sPark 511).tile 0).vest.length < 512 ∧ 512 ≤ ((sPark 512).tile 0).vest.length ∧ ((sPark 0).core 0).handlers.length < 64 ∧
      (((sPark 0).hallOf 0).getD {}).det = false ∧ (({ sPark 0 with fes := { halls := [{ det := true }] } } : State).hallOf 0).map (fun (h : Hall) => h.det) = some true ∧
      ((∀ y ∈ (sPark 0).tiles, ∀ m ∈ y.2.mons, m.loc.hit (.vault (vaultOf 0) (vestBase + 32 * ((sPark 0).tile 0).vestSlot)) 32 = false) ∧
        ∀ e ∈ ((sPark 0).tile 0).overflow, e.core ≠ 0)) ∧
    (let s := (sMem.setTile 0 { sMem.tile 0 with vest := [{ h := true, due := 1 }], vestReady := 1 })
     ((s.hallOf 0).getD {}).stop = .none ∧ s.queueRoom 0 true = true) ∧
    (let s := (sMem.setTile 0 { sMem.tile 0 with overflow := [{ core := 0 }] })
     (s.tile 0).overflow.find? (fun e => e.core == 0) = some { core := 0 } ∧ (s.core 0).handlers.length < 64) ∧
    ((sMem.hallOf (tileOf 0)).map (fun h => h.stop) = some .none) ∧
    (let s := sIdle { pinned := [{}] } {}
     (s.core 0).stopped = false ∧ (s.core 0).level = false ∧ (s.core 0).lv0.hold = .idle ∧ (s.core 0).pinned = [{}]) ∧
    (let s := sIdle {} { taskq := [(1, [0]), (3, [0])], popC := 1023 }
     (s.tile 0).queue 1 = [0] ∧ (s.tile 0).queue 3 ≠ [] ∧ (∀ j, j < 4 → j ≠ 1 → j ≠ 3 → (s.tile 0).queue j = []) ∧
       (s.tile 0).popC < 1024 ∧ 1024 ≤ (1024 : Nat) ∧ ¬((s.tile 0).popBy.1 = s.cycle ∧ 0 < (s.tile 0).popBy.2)) ∧
    (let s := sIdle {} { taskq := [(3, [0])], popBy := (0, 1) }
     (s.tile 0).queue 3 = [0] ∧ (∀ j, j < 4 → j ≠ 3 → (s.tile 0).queue j = []) ∧
       (s.tile 0).popBy.1 = s.cycle ∧ 0 < (s.tile 0).popBy.2) ∧
    (let s := sIdle { handlers := [{}] } {}
     (s.core 0).handlers = [{}] ∧ (s.core 0).tBit = false ∧ (s.core 0).maskOpen = false ∧ (s.core 0).windowOpen false = false) ∧
    ((sMem.core 0).lv0.hold ≠ .idle ∧ (sTrap 0 true).me.tBit = true) := by
  and_intros <;> first | exact plain_of (by decide +kernel) | decide +kernel

/-- A member of the group of core 0's tile; the last step; a tile whose step may end: its only member's share is complete. -/
def sStep (k : Nat) (g sh : Word) : State := sMem.setTile 0 { sMem.tile 0 with s := k, group := g, shares := sh }

theorem witness_StepsOfATile :
    (IssuesPlain (sStep 3 1 0) { len := 12, on := (sStep 3 1 0).guard gt, ws := [5], blocking := true, nomask := true,
                                 illegal := (sStep 3 1 0).lv && (sStep 3 1 0).guard gt } ∧
      ((sStep 3 1 0).tile 0).s ≠ 0xFFFFFFFF ∧ ((sStep 0xFFFFFFFF 1 0).tile 0).s = 0xFFFFFFFF ∧ (sStep 3 1 0).flight = [] ∧
      (sStep 3 1 0).gmsgs = [] ∧ bitAt ((sStep 3 1 0).tile 0).group (coreIdx (sStep 3 1 0).cur) = true ∧
      bitAt ((sStep 3 2 0).tile 0).group (coreIdx (sStep 3 2 0).cur) = false) ∧
    (let s := (sStep 3 1 0).updMe (fun c => { c with lv0 := { c.lv0 with hold := .step 2 } })
     (s.me.thr s.lv).hold = .step 2 ∧ 2 < (s.tile 0).s) ∧
    (let s := (sStep 3 1 0).updMe (fun c => { c with lv0 := { c.lv0 with hold := .share 3 } })
     let r : Req := { id := 1, core := 0, op := .load, loc := .gal 0 8, n := 8 }
     (s.me.thr s.lv).hold = .share 3 ∧ (s.tile 0).s = 3 ∧ s.flight = [] ∧ s.gmsgs = [] ∧
       s.me.namesPort { ws := [5] } = false ∧ r ∈ ({ s with flight := [r] } : State).flight ∧ r.core = s.cur ∧
       r.loc.sameTarget (.gal 0 0) = true) ∧
    IssuesPlain sMem { len := 12, on := sMem.guard gt, ws := [5] } ∧
    IssuesPlain sMem { len := 12, on := sMem.guard gt, rs := [4], ws := [5], long := true } ∧
    (targetOk sMem.myHall (sMem.rg 4) false false = true ∧ targetOk sMem.myHall 0x100 false false = false ∧
      sMem.wayBetween 0 (sMem.myHall.tileAt 0 0) = .clear) ∧
    (let s := sStep 7 1 1
     ((s.hallOf 0).map (fun h => h.neighbours 0)) = some [] ∧ (s.hallOf 0).map (fun h => h.stop) = some .none ∧ (s.tile 0).group ≠ 0 ∧
      (∀ i, i < 64 → bitAt (s.tile 0).group i = true → bitAt (s.tile 0).shares i = true) ∧ (s.tile 0).unparked = 0 ∧
      SMap.wf 0 s.mem.gal = true ∧ SMap.wf 0 s.mem.land = true) ∧
    (let h : Hall := { id := 0, w := 2, h := 1 }
     let s := ({ sMem with fes := { sMem.fes with halls := [h] } } : State).setTile 0 { sMem.tile 0 with signals := [(1, 3)] }
     s.hallOf 0 = some h ∧ (s.tile 0).signals.find? (fun e => e.1 == 1) = some (1, 3) ∧
      ((h.neighbours 0).find? (fun n => n.1 == 1)).isSome = true ∧
      (h.neighbours 0).all (fun n => s.wayToTile n.2 0 == .clear) = true) ∧
    (let h : Hall := { id := 0, w := 1, h := 1, hallwd := 5, stallh := 4 }
     let s := ({ sMem with fes := { sMem.fes with halls := [h] } } : State).setTile 0 { sMem.tile 0 with wd := 5, group := 1 }
     let u := s.tile (tileOf h.service)
     s.hallOf 0 = some h ∧ h.hallwd ≤ (s.tile 0).wd ∧ (s.tile 0).stallPosted = false ∧ (s.stepCond 0).selfHeld = true ∧
      ¬(u.lastPost.1 = s.cycle ∧ h.tileSender 0 < u.lastPost.2) ∧
      (let v := (s.updTile 0 (fun t => { t with lastPost := (s.cycle, h.tileSender 0 + 1) })).tile (tileOf h.service)
       v.lastPost.1 = s.cycle ∧ h.tileSender 0 < v.lastPost.2) ∧
      (s.core h.service).handlers.length < 64 ∧ ∀ e ∈ u.overflow, e.core ≠ h.service) := by
  and_intros <;> first | exact plain_of (by decide +kernel) | decide +kernel

/-- At distance 0 at the last doubleword, outside the hall, misaligned, beyond the gallery; a message at a landing. -/
def sWide : State := { sMem with fes := { sMem.fes with halls := [{ id := 0, w := 4, h := 1 }] } }
def sGmsg (l : Option Nat) : State := { sMem with gmsgs := [{ id := 9, landing := l, n := 8 }] }

theorem witness_GalleryReads :
    IssuesPlain sWide { len := 12, on := sWide.guard gt, rs := [0], ws := [5], long := true } ∧
    IssuesPlain sWide { len := 12, on := sWide.guard gt, rs := [0], vw := [3], long := true } ∧
    ((0 : Int) ≤ (sWide.myHall.x 0 : Int) + (3#4).toInt ∧ (sWide.myHall.x 0 : Int) + (3#4).toInt < sWide.myHall.w ∧
      (3#4).toInt.natAbs + (0#4).toInt.natAbs ≤ 3 ∧ ¬((0 : Int) ≤ (sWide.myHall.x 0 : Int) + (15#4).toInt)) ∧
    ((sWide.rg 0 + word (16376#14).toNat).toNat % 8 = 0 ∧ (sWide.rg 0 + word (16376#14).toNat).toNat + 8 ≤ 16384 ∧
      (sWide.rg 0 + word (1#14).toNat).toNat % 8 ≠ 0 ∧ 16384 < (sWide.rg 8 + 8).toNat + 8 ∧ sWide.rmwAwaited (.gal 0 16376) 8 = false ∧
      sWide.wayBetween 0 (sWide.myHall.tileAt 3 0) ≠ .dead) ∧
    ((sGmsg none).gmsgs.find? (fun m => m.id == 9) = some { id := 9, landing := none, n := 8 } ∧ (sGmsg none).wayBetween 0 0 = .clear ∧
      (sGmsg (some 3)).gmsgs.find? (fun m => m.id == 9) = some { id := 9, landing := some 3, n := 8 } ∧
      (∀ e ∈ (sGmsg (some 3)).mem.landErr, overlaps (e * 8) 8 (3 * 2 ^ 14) 8 = false) ∧ overlaps (6144 * 8) 8 (3 * 2 ^ 14) 8 = true) := by
  and_intros <;> first | exact plain_of (by decide +kernel) | decide +kernel

def sQ (y : QReg) : State := sMem.updMe (fun c => { c with q := [(1, y)] })
/-- A consumer that waits at core 1, q2. -/
def sPeer : State := (sQ {}).setCore 1 { q := [(2, { st := .waiting, slots := 4 })] }
def uS (rs : List Nat) : Uses := { len := 12, on := true, rs := rs, ws := [5], blocking := true }

theorem witness_StreamEnds :
    (IssuesPlain (sQ {}) (uS [10, 7]) ∧ ((sQ {}).me.qreg 1).st = .unbound ∧ (sQ {}).ringOf ((sQ {}).rg 6) ((sQ {}).rg 7) = none ∧
      (sQ {}).ringOf ((sQ {}).rg 10) ((sQ {}).rg 7) = some (256, 8)) ∧
    (IssuesPlain (sQ { ring := some (256, 8) }) (uS [7]) ∧ (sQ { ring := some (256, 8) }).me.sgkp.toNat ≤ 64 ∧
      16 ≤ (sQ {}).me.sper.toNat ∧ ((sQ {}).rg 7).toNat % 2 ^ 9 ≤ 256 ∧ (0x01000100 : Word).toNat % 2 ^ 9 = 256 ∧
      (0x01000100 : Word).toNat / 2 ^ 16 % 2 ^ 9 = 256) ∧
    (IssuesPlain sPeer (uS [4]) ∧ targetOk sPeer.myHall 1 false true = true ∧ targetOk sPeer.myHall 0x100 false true = false ∧
      sPeer.myHall.tileAt 0 0 * 64 + 1 = 1 ∧ ((sPeer.core 1).qreg 2).st = .waiting ∧ sPeer.wayBetween 0 0 = .clear ∧
      sPeer.overGain (1, 2) 0 1 0 = false ∧ sPeer.edges (1, 2) = []) ∧
    ((0xFF00000000017FE0 : Word).toNat / 2 ^ 48 = 0xFF00 ∧ (0xFF00000000017FE0 : Word).toNat % 2 ^ 48 + 16 + 8 * 2 ≤ 98304) ∧
    (IssuesPlain (sQ { st := .bound, prod := true, peer := (1, 2) }) (uS [7]) ∧ IssuesPlain (sQ { st := .bound, prod := true, peer := (1, 2) }) (uS []) ∧
      ((sQ { st := .bound, prod := true, peer := (1, 2) }).me.qreg 1).st ≠ .unbound ∧ (sQ { st := .bound }).qflight = []) ∧
    (IssuesPlain (sQ { st := .closed }) (uS []) ∧ ((sQ { st := .closed }).me.qreg 1).prod = false) ∧
    (IssuesPlain (sQ {}) (uS []) ∧ IssuesPlain (sQ {}) { uS [] with illegal := (sQ {}).lv || (2#2) == 3 }) := by
  and_intros <;> first | exact plain_of (by decide +kernel) | decide +kernel

def sFlightQ (m : QMsg) : State := { sQ { st := .bound, base := 256, slots := 8, per := 256, count := 256 } with qflight := [{ core := 0, q := 1, msg := m }] }
/-- The slot that the push of `sFlightQ` fills. -/
def slotQ : Loc := .spad 0 272

/-- A push that may be appended, and one behind an earlier store of its producer. -/
theorem witness_StreamMessages :
    ((∀ r ∈ (sFlightQ (.push 7)).flight, r.core = 0 → r.loc.sameTarget slotQ = true → r.id < 0 → r.performed = true) ∧
      (sFlightQ (.push 7)).contribsAt 0 slotQ = [] ∧ (sFlightQ (.push 7)).overScore slotQ 8 = false ∧
      (sFlightQ (.push 7)).overScore (.spad 0 264) 8 = false ∧ ((sFlightQ (.push 7)).hallOfCore 0).stop = .none) ∧
    (let r : Req := { id := 0, core := 0, op := .store, loc := slotQ, n := 8 }
     let m : QFlight := { core := 0, q := 1, msg := .push 7, id := 1 }
     let s : State := { sFlightQ .credit with qflight := [m], flight := [r] }
     s.qflight.find? (fun m => (m.core == 0 && m.q == 1) && m.msg.isPush) = some m ∧ r ∈ s.flight ∧ r.core = m.src ∧
       r.loc.sameTarget slotQ = true ∧ r.id < m.id ∧ r.performed = false) ∧
    (sFlightQ (.push 7)).qflight.find? (fun m => (m.core == 0 && m.q == 1) && m.msg.isPush) = some { core := 0, q := 1, msg := .push 7 } ∧
    (sFlightQ .credit).qflight.find? (fun m => (m.core == 0 && m.q == 1) && m.msg == QMsg.credit) = some { core := 0, q := 1, msg := .credit } ∧
    (sFlightQ (.weight 9)).qflight = [{ core := 0, q := 1, msg := .weight 9 }] ∧ (sFlightQ .credit).wayToTile 0 0 = .clear ∧
    (let y := ((sFlightQ .credit).core 0).qreg 1
     y.base + 16 + 8 * y.slots ≤ 98304 ∧ 0 < y.slots ∧ y.tail + 1 < 2 ^ 64 ∧ y.prod = false ∧ y.st = .bound ∧ y.per ≤ y.count) := by
  decide +kernel

/-! ### System registers, replies and the front-end sequencer -/

theorem witness_SystemRegisters :
    (IssuesPlain sMem (sysUses [] [5] 0x018 sMem) ∧ (0x018 : BitVec 12) ≠ 0x020) ∧ IssuesPlain sMem (sysUses [] [5] 0x020 sMem) ∧
    IssuesPlain sMem (sysUses [6] [] 0x030 sMem) ∧ IssuesPlain sMem (sysUses [6] [] 0x020 sMem) ∧
    IssuesPlain sMemPv (sysUses [] [5] 0x103 sMemPv) ∧ IssuesPlain sMemPv (sysUses [6] [] 0x100 sMemPv) := by
  and_intros <;> first | exact plain_of (by decide +kernel) | decide +kernel

def sHold (h : Hold) : State := (sTrap 4 false).updCore 0 (fun c => { c with lv0 := { c.lv0 with hold := h, ltask := 5 } })

theorem witness_WaitingInvalidatingAndReplies :
    (IssuesPlain sMem { blocking := true, nomask := true } ∧ sMem.lv = false ∧ sMem.me.latch = false ∧
      (sMem.updMe (fun c => { c with latch := true })).me.latch = true) ∧
    (((sHold .wfe).core 0).lv0.hold = .wfe ∧ (sMem.core 0).lv0.hold ≠ .wfe) ∧
    (IssuesPlain sMemPv (tlbinvUses 8) ∧ sMemPv.unreleased = false ∧
      (∀ e ∈ sMemPv.bays, sMemPv.usesEntry e.1 (e.2.dropping (fun _ => true)) = false) ∧ inGlobal (sMemPv.rg 8) = true ∧
      inGlobal (sMemPv.rg 6) = false ∧
      (match (sMemPv.translate 0 .ift sMemPv.rqst sMemPv.myHall.asid 0x400000000 2 sMemPv.me.pv).1 with | .phys _ => true | _ => false) = true) ∧
    (pages.find? (fun e => e.maps 0 0x400000080)).isSome = true ∧ (pages.filter (fun e => e.pinned)).length ≤ 8 ∧
    (((sHold (.page aGlob 0 1 false)).waitTidx 0 false).map (fun w => matchesReply w.1 (pageOf aGlob) (some w)) = some true ∧
      ((sHold (.page aGlob 0 1 false)).core 0).lv0.hold = .page aGlob 0 1 false ∧
      (∀ p ∈ ((sHold (.page aGlob 0 1 false)).core 0).pend, p.lv ≠ false) ∧ ((sHold (.page aGlob 0 1 false)).core 0).tBit = false ∧
      ((sHold (.page aGlob 0 1 false)).core 0).tvec.toNat / 4 ≠ 0) ∧
    (matchesReply 5 (pageOf aGlob) ((sHold (.page aGlob 0 1 false)).waitTidx 0 true) = false ∧
      ((sHold (.service false 1 4)).waitTidx 0 false).map (fun w => matchesReply w.1 (pageOf 0) (some w)) = some true) ∧
    ((sHold (.page aGlob 2 1 true)).core 0).lv0.hold = .page aGlob 2 1 true ∧
    ((sHold (.service true 1 4)).core 0).lv0.hold = .service true 1 4 := by
  and_intros <;> first | exact plain_of (by decide +kernel) | decide +kernel

/-- An enabled channel of one entry, owned by a device; a waiting word, a signal and a launch at its head. The page tables map
the gigabyte at 16 GiB to itself. -/
def sTables : State :=
  { sMem with
    sys := { sMem.sys with asidroot := [(0, 0x10001)], bustat := 7 }
    mem := { sMem.mem with hbm := writeBytes (writeBytes sMem.mem.hbm 0x10000 8 0x20001) 0x20080 8 0x400000007 } }
def sChan (e : Entry) : State :=
  { sTables with fes := { sTables.fes with chans := [(0, { ctl := 0x10003, base := 0x400001000 })], entries := [e] } }
def eWait (x : Word) : Entry := { words := [0x2000000000000000, aGlob, x, 0] }
def eSig : Entry := { words := [0x3000000000000000, aGlob, 5] }
def eLaunch (st : EntSt) : Entry := { words := [0, 4], st := st }

theorem witness_ChannelsAndEntries :
    (bitAt (3 : Word) 0 = true ∧ (sMem.chan 0).en = false ∧ bitAt (2 : Word) 0 = false ∧ ((sChan eSig).chan 0).en = true) ∧
    (let s := (sChan eSig).updChan 0 (fun c => { c with ctl := 0 })
     let put := fun (v : Word) => (s.updChan 0 (fun c => c.writeCtl false (s.sys.bustat == 7) v)).chan 0
     s.reaches (.host false) (.chan 0 0) = true ∧ s.reaches (.host false) (.chan 0 3) = true ∧ (s.chan 0).en = false ∧
      (put 0x10001).en = true ∧ (put 1).en = false ∧ State.reset.reaches (.host false) (.chan 0 0) = false ∧
      State.reset.reaches (.host false) (.chan 0 3) = false) ∧
    (let s := (sChan eSig).updChan 0 (fun c => { c with ctl := 0x10001 })
     ¬((s.chan 0).wld = true ∧ (Requester.host false).secure = false) ∧ (s.chan 0).dev = false ∧ (s.chan 0).log2n = 1 ∧
      ((1 : Word).toNat % 2 ^ 32 + 2 ^ 32 - (s.chan 0).tail) % 2 ^ 32 = 1 ∧
      (match s.readEntry (s.chan 0).wld ((s.chan 0).base.toNat / 2 ^ 6 % 2 ^ 42 * 64 + 64 * ((s.chan 0).tail % 2 ^ (s.chan 0).log2n)) with
        | some (_, t) => t.chan 0 == s.chan 0 | none => false) = true) ∧
    (let s := (sChan eSig).updChan 0 (fun c => { c with tail := 2 })
     (2 ^ 32 + 2 - 0) % 2 ^ 32 = 2 ^ (s.chan 0).log2n) ∧
    (IssuesPlain (sChan eSig) { len := 12, on := (sChan eSig).guard gt, rs := [9, 4], ws := [5], long := true } ∧
      ((sChan eSig).rg 9).toNat % 64 = 0 ∧ ((sChan eSig).rg 6).toNat % 64 ≠ 0 ∧ ((sChan eSig).rg 4).toNat ≤ 15 ∧
      nowB ((sChan eSig).nowRead ((sChan eSig).rg 9) 64 0 kLoad false) (fun _ t => !t.unreleased && (t.chan 0).en && (t.chan 0).dev &&
        (match t.engWrite false { secure := false } kEWrite 0x400001000 64 0 .df with
          | (.ok 0 _, t') => t'.chan 0 == t.chan 0 | _ => false)) = true) ∧
    (∀ e ∈ [eWait 0, eWait 1, eSig, eLaunch .queued], (sChan e).fes.entries.find? (fun x => x.ch == 0 && x.idx == ((sChan e).chan 0).head) = some e ∧
      ((sChan e).chan 0).en = true ∧ e.after = false ∧ (sChan e).badEntry e = false) ∧
    ((eWait 0).kind = 2 ∧ eSig.kind = 3 ∧ (eLaunch .queued).kind = 0 ∧ (sChan { eSig with words := [0x3000000000000000, 4, 5] }).badEntry
        { eSig with words := [0x3000000000000000, 4, 5] } = true) ∧
    ((match (sChan (eWait 0)).fesPa false 0 aGlob 0 with
        | (.phys pa, t) => match (t.fesReadPa false pa 8).1 with | .ok x => x == 0 | _ => false
        | _ => false) = true ∧ ((sChan (eWait 0)).fesPa false 0 0x10 0).1 = .fault rNOTVALID ∧ (0 : Nat) ≠ (1 : Word).toNat ∧
      (({ sChan (eWait 0) with cmds := [{ id := 9, op := 4, ty := 11, n := 1, dst := 0x20080, st := .queued }] } : State).fesPa
        false 0 aGlob 0).1 = .wait) ∧
    ((sChan eSig).chanStore 0 0 aGlob 5).isSome = true ∧
    (let w : Entry := { eWait 1 with st := .waiting, watch := true, watchPa := 0x400000080 }
     (sChan w).fes.entries.find? (fun e => e.ch == 0 && e.idx == 0) = some w ∧
      (match ((sChan w).fesReadPa false w.watchPa 8).1 with | .ok x => x == 0 | _ => false) = true) := by
  and_intros <;> first | exact plain_of (by decide +kernel) | decide +kernel

/-- A launch that waits, one with its origin at the last tile, a hall with nothing left to do, and one to be cancelled. -/
def sHall (h : Hall) (c : Core) : State := { (State.reset.setCore 0 c).setTile 0 { hall := some 0 } with
  fes := { halls := [{ h with w := 1, h := 1 }] }, cycle := 1024 }

theorem witness_Launches :
    ((State.reset.originFor 16 8) = some (0, 0) ∧ (sMem.originFor 16 8) = none) ∧
    (let s := sChan (eLaunch .queued)
     (List.range 16).filterMap s.waitingLaunch = [eLaunch .queued] ∧ (eLaunch .queued).st = .queued ∧
      s.originFor (eLaunch .queued).hw (eLaunch .queued).hh = some (1, 0)) ∧
    (sMem.fes.freed = false ∧ (List.range 16).all (fun c => (sMem.waitingLaunch c).isNone) = true) ∧
    (let e := eLaunch (.allocated 127)
     let s := sChan e
     s.fes.entries.find? (fun x => x.ch == 0 && x.idx == (s.chan 0).head) = some e ∧ e.st = .allocated 127 ∧ 127 % 16 + e.hw ≤ 16 ∧
      127 / 16 + e.hh ≤ 8 ∧ (s.chan 0).en = true ∧ ((s.updChan 0 (fun c => { c with ctl := 0x10002 })).chan 0).en = false) ∧
    (let x : Entry := { eLaunch .waiting with passed := 64 }
     let y : Entry := { eLaunch .waiting with ch := 1 }
     let s : State := { sTables with fes := { sTables.fes with
       chans := [(0, { ctl := 0x10001 }), (1, { ctl := 0x10001 })], entries := [x, y] } }
     s.waitingLaunch 0 = some x ∧ s.waitingLaunch 1 = some y ∧ x.cls = y.cls ∧ y.passed < 64) ∧
    (let s := sHall {} {}
     (s.hall? 0).isSome = true ∧ ((s.hall? 0).map (fun h => s.hallIdle h && s.workDone h && h.done == 0)) = some true) ∧
    (let s := sHall {} { lv0 := { hold := .ready } }
     ((s.hall? 0).map (fun h => s.hallIdle h)) = some false) ∧
    (let h : Hall := { id := 0, done := aGlob, w := 1, h := 1 }
     let s := { sTables with fes := { sTables.fes with halls := [h] } }
     ((s.flushU h).chanStore h.ch h.asid h.done 1).isSome = true) ∧
    ((0 : Word).toNat / 2 ^ 19 = 0 ∧ ((sHall {} {}).hallAt 0 0).map (fun h => h.stop) = some .none ∧ sMem.hallAt 15 7 = none) ∧
    ([HallStop.cancel, .save true].all (fun k =>
      let s := sHall { stop := k } {}
      (s.hallAt 0 0).map (fun h => h.stop) == some k && (s.hall? 0).map (fun h => h.stop) == some k && s.sys.precmd.toNat % 4 != 2) = true ∧
      ({ sHall { stop := .save true } {} with sys := { precmd := 2 } } : State).sys.precmd.toNat % 4 = 2) ∧
    (let s := sHall { sampled := 0, lastTick := 84, budget := true, energy := 7, used := 6 } {}
     s.hall? 0 = some { sampled := 0, lastTick := 84, budget := true, energy := 7, used := 6, w := 1, h := 1 } ∧ 0 + 1024 ≤ s.cycle ∧
      84 + 940 ≤ s.cycle ∧ s.cycle < 1 + 1024 ∧ s.cycle < 85 + 940 ∧ 6 + 0 < 7 ∧ 7 ≤ 6 + 1) := by
  and_intros <;> first | exact plain_of (by decide +kernel) | decide +kernel

/-! ### Collectives, memory controllers and the package -/

/-- A collective of two ranks of one tile each: rank 0 at tile 0, this member; rank 1 at tile 1. Integer sums (S32) of four
chunks. -/
def block1 : List Word := [aGlob, 0, 0x0000000700000002, 0x01B0000000000004, 0, 0, 0, 0, aGlob]
def mem1 : Member := { id := 9, block := block1, rlist := [0, 0x100], st := .opening }
def pkt1 (op inst : Nat) (b : Byte) : Pkt :=
  { id := 7, hdr := [0, 0, word (inst * 2 ^ 48 + 2 ^ 28 + op * 2 ^ 12), mem1.sig.1, mem1.sig.2], payload := [b] }
def sColl (m : Member) (p : Pkt) : State :=
  { sTables with fes := { sTables.fes with members := [m], pkts := [p] }, tiles := (sTables.tiles.put 1 { sTables.tile 1 with hall := some 0 }) }
def eColl : Entry := { words := [0x1000000000000000, aGlob] }

theorem witness_CollectivesAndTheirPackets :
    (IssuesPlain sMem { len := 12, on := sMem.guard gt, rs := [8], ws := [5], long := true } ∧ (sMem.rg 8).toNat % 128 = 0 ∧
      (sMem.rg 6).toNat % 128 ≠ 0 ∧ inGlobal (sMem.rg 8) = true ∧ inGlobal (sMem.rg 9) = false ∧ sMem.unreleased = false) ∧
    IssuesPlain sMem { len := 12, on := sMem.guard gt, rs := [8], ws := [5], blocking := true } ∧
    ((sMem.hallOf 0).isSome = true ∧ [(0 : Word), 0x100].any badRank = false ∧ rankTile (sMem.resolveRank 0 0) = some 0 ∧
      rankTile (sMem.resolveRank 0 0x100) = some 1 ∧ (0 : Word).toNat / 2 ^ 32 % 2 ^ 16 = sMem.pkg ∧
      (sMem.hallOfOrigin 0).map (fun h => h.tiles.contains 0) = some true ∧ (sMem.fes.members.filter (fun x => x.st != .starting)).length < 64 ∧
      sMem.memberAt (word mem1.sid) 0 = none ∧ (sColl mem1 (pkt1 1 0 0)).memberAt (word mem1.sid) 0 ≠ none) ∧
    ((sChan eColl).turn? 0 = some eColl ∧ eColl.kind = 1 ∧ (sChan eColl).badEntry eColl = false ∧
      (match State.collStart (sChan eColl) { asid := 0, addr := aGlob } none with | .failed _ code _ => code != 0 | _ => false) = true) ∧
    ([1, 2, 3, 4, 5, 6, 7].all (fun op =>
      let p := pkt1 op 0 0
      let s := sColl mem1 p
      s.fes.pkts.find? (fun p => p.id == 7) == some p && p.nfl == 0 && p.outPort == none && !s.behind (some mem1) p &&
        s.memberAt (p.sig.1 >>> 32) (p.hdr.getD 1 0) == some mem1 && mem1.inst == p.inst && s.pktWay p mem1.tile == .clear &&
        p.opAt p.ops == op)) = true ∧
    ((pkt1 3 0 0).sig = mem1.sig ∧ (pkt1 3 0 0).payload.getD 0 0 = 0 ∧ (pkt1 3 0 2).payload.getD 0 0 ≠ 0 ∧
      ({ pkt1 3 0 0 with hdr := [] } : Pkt).sig ≠ mem1.sig ∧ mem1.inbox.length < 256 ∧ mem1.b 8 ≠ 0 ∧ .sig 7 ∉ mem1.pageAborts ∧
      0 < (1 + 2 ^ 16 - 0) % 2 ^ 16) ∧
    (match ((sColl mem1 (pkt1 7 0 0)).memAdd mem1 5).1 with | .ok _ => true | _ => false) = true ∧
    ((sColl mem1 (pkt1 1 0 0)).member? 9 = some mem1 ∧ mem1.tmo = 0 ∧ mem1.decoded = false ∧
      ((sColl mem1 (pkt1 1 0 0)).memHeld mem1).isNone = true ∧
      (match ((sColl mem1 (pkt1 1 0 0)).memRead mem1 aGlob.toNat 64).1 with | .ok x => x == 0 | _ => false) = true) ∧
    (let p : Pkt := { id := 7, hdr := [0x1000000000000003], port := some 0 }
     p.nfl ≠ 0 ∧ p.port = some 0 ∧ State.reset.bridge (portDie 0) (portDie 3) = .clear) := by
  and_intros <;> first | exact plain_of (by decide +kernel) | decide +kernel

/-- The member runs, with a KCOPY of buffer 0 to buffer 1 issued. -/
def kcopy1 : RunData := { id := 5, kop := 3, c := { ba := 0, bb := 1, peer := 0, prel := false, cidx := 0, clen := 1, tag := 5, cstep := 0 } }
def mem2 (r : List RunData) : Member := { mem1 with st := .running, run := r, inst := 0 }

theorem witness_CollectiveChunks :
    (let s := sColl (mem2 [kcopy1]) (pkt1 1 0 0)
     s.member? 9 = some (mem2 [kcopy1]) ∧ (s.memberHall (mem2 [kcopy1])).stop ≠ .cancel ∧
      (mem2 [kcopy1]).pageAborts.any MemAcc.stops = false ∧
      (mem2 [kcopy1]).waits = [] ∧ (mem2 [kcopy1]).run.find? (fun r => r.id == 5) = some kcopy1 ∧ kcopy1.done < kcopy1.c.clen.toNat ∧
      ((mem2 []).nrank = 2 ∧ 1 ≤ (mem2 []).nch ∧ (mem2 []).op = 1 ∧ isInt (mem2 []).ty = true) ∧ (mem2 [kcopy1]).loopOf 0 = none) ∧
    (let a : ChunkVal := { fmt := 11, vals := [1], span := { lo := 0, hi := 1 } }
     let b : ChunkVal := { fmt := 11, vals := [2], span := { lo := 1, hi := 2 } }
     (mem2 []).exact = false ∧ a.span.hi = b.span.lo ∧ b.span.hi ≠ a.span.lo ∧ 0 % 2 ^ 0 = 0 ∧ 1 = min (0 + 2 ^ 0) (mem2 []).nrank) ∧
    ((1 : Nat) ≠ 0 ∧ (∀ e ∈ (mem2 []).chunks, e.1 ≠ 1 * 4096 + 0)) := by
  and_intros <;> first | exact plain_of (by decide +kernel) | decide +kernel

/-- One bad symbol at the last byte of a sector; two bad symbols, of a line that is poisoned and of one that is not. -/
def sErr (l : SMap Byte) (p : List Nat) : State := { State.reset with mem := { errs := l, poison := p } }

theorem witness_ErrorCorrection :
    ((sErr [(31, 1)] []).mem.errs.get 0 (0 + 31) ≠ 0 ∧ ∀ k, k < 32 → k ≠ 31 → (sErr [(31, 1)] []).mem.errs.get 0 (0 + k) = 0) ∧
    ((sErr [(0, 1), (31, 1)] []).mem.errs.get 0 (0 + 0) ≠ 0 ∧ (sErr [(0, 1), (31, 1)] []).mem.errs.get 0 (0 + 31) ≠ 0 ∧
      (sErr [(0, 1), (31, 1)] []).poisoned 0 = false ∧ (sErr [(0, 1), (31, 1)] [0]).poisoned 0 = true) := by decide +kernel

theorem witness_WorldCheck :
    (Requester.host false).secure = false ∧ (Requester.host true).secure = true ∧ (0x80000000 : Word).getLsbD 31 = true ∧
    (({ } : Rqst).host = false) ∧ (({ host := true } : Rqst).host = true) := by decide

/-- A window that may be enabled, one that is enabled, one that is closing. -/
def fwOk : FWin := { ctl := 0x0000010000000220, view := 0, stor := 0x10000, scl := 0x20000 }
def sWin (f : FWin) : State := { State.reset with sys := { fwin := [(0, f)] } }

theorem witness_FormatWindows :
    ((1 : Word).getLsbD 0 = true ∧ ((sWin fwOk).fwin 0).en = false ∧ ((sWin fwOk).fwin 0).wld = false ∧ 2 ≤ fwOk.pln ∧ fwOk.pln ≤ 8 ∧
      1 ≤ fwOk.rdk ∧ fwOk.rdk ≤ fwOk.pln ∧ 1 ≤ fwOk.g ∧ (∀ r ∈ fwOk.ranges, 0 * 2 ^ 38 ≤ r.1 ∧ r.1 + r.2 ≤ (0 + 1) * 2 ^ 38) ∧
      overlaps fwOk.vbase (128 * fwOk.g) fwOk.sbase (16 * fwOk.pln * fwOk.g) = false) ∧
    (let f : FWin := { fwOk with ctl := fwOk.ctl ||| 1 }
     ((sWin f).fwin 0).en = true ∧ ((sWin f).fwin 0).closing = false ∧ ((sWin { f with closing := true }).fwin 0).closing = true) := by
  decide +kernel

/-- The first and last register of each kind, an offset that has none, and a requester that cannot reach a register. -/
theorem witness_SystemSpace :
    sysReg? (0x1001000 : Word).toNat = some (.fwin 0 0 0) ∧ sysReg? (0x1000000 + 0x1000000 * 1 + 0x1000 + 32 * 15 + 8 * 3) = some (.fwin 1 15 3) ∧
    sysReg? (0x5000000 + 0x10000 * 127 + 0x100 * 63 + 8 * 5) = some (.coreReg 8191 5) ∧ sysReg? (0x8100000 + 16 * 65534 + 8 * 1) = some (.route 65534 1) ∧
    sysReg? (0x8200008 : Word).toNat = none ∧ State.reset.reaches (.host true) .bustat = false ∧ State.reset.reaches .mgmt .bustat = true ∧
    (State.reset.regWrite true .bustat 5).isSome = true := by decide +kernel

theorem witness_HostAndAttestation :
    (let h : HostReq := { function1 := false, write := false, pa := 2 ^ 39 - 8, n := 8, data := 0 }
     let s : State := { State.reset with sys := { bustat := 5 } }
     5 ≤ s.sys.bustat ∧ s.sys.recovery = false ∧ h.pa + h.n ≤ 2 ^ 39 ∧ 0 < h.n ∧ h.pa % 128 + h.n ≤ 128 ∧
      s.bridge 0 (homeDie h.pa) = .wait ∧ s.bridge 0 (homeDie 0) = .clear ∧ s.refuses false 0 8 = false ∧ s.free (lineOf 0) true = true ∧
      s.viewReadOnly (lineOf 0) = false) ∧
    (let s : State := { State.reset with sys := { bustat := 5, regions := [(0, { base := 3, lim := 0 })] } }
     s.refuses false 0 8 = true) ∧
    (({ State.reset with sys := { attstat := 1 } } : State).sys.attstat = 1 ∧ State.reset.sys.attstat ≠ 1) := by decide +kernel

/-- A hall that can be saved; one whose save is at work, with nothing of its own left; a header that is no image, and one
whose VER and SUM are sound but that no save has written. -/
def sSave (stop : HallStop) (pre : Word) (st : Nat) : State := { sHall { stop := stop } { stopped := true } with
  sys := { precmd := pre, prestat := st, prebase := 0x800000000000 } }

theorem witness_SavingAndRestoring :
    ((sSave .none 0 0).sys.prestat ≠ 1 ∧ fld (1 : Word) 19 45 = 0 ∧ fld (1 : Word) 12 4 = 0 ∧ fld (1 : Word) 3 5 = 0 ∧ fld (1 : Word) 0 2 = 1 ∧
      fld (2 : Word) 0 2 = 2 ∧ fld (2 : Word) 19 45 = 0 ∧ fld (8 : Word) 3 5 ≠ 0) ∧
    (((sSave .none 0 0).hallAt 0 0).map (fun h => h.stop) = some .none ∧ ∀ h ∈ (sSave .none 0 0).fes.halls, h.ox ≠ 1 ∨ h.oy ≠ 0) ∧
    (let s := sSave (.save true) 1 1
     s.saving.isSome = true ∧ s.sys.prestat = 1 ∧ fld s.sys.precmd 0 2 = 1 ∧
      s.saving.map (fun h => s.allStopped h && s.drained h && s.resultsIn h && s.movesDone h &&
        s.areaFree s.saveBase h.areaBytes) = some true) ∧
    (let s := sSave (.save true) 2 1
     s.saving.isSome = true ∧ fld s.sys.precmd 0 2 = 2 ∧ s.saving.map (fun h => s.areaFree s.saveBase h.areaBytes) = some true) ∧
    (let s := { sSave .none 0 0 with cmds := [{ op := 4, n := 1, dst := 2 ^ 38, st := .queued }], sys := { prebase := word (2 ^ 38) } }
     s.precmdWaits 2 = true) ∧
    sealVer [2, 0, 0, 0] = false := by
  and_intros <;> first | exact plain_of (by decide +kernel) | decide +kernel

/-- One saved hall of one tile at the origin, its save area at the foot of host memory, which holds `m`. -/
def saved0 : Saved := { serial := 0, base := 2 ^ 47, move := false, hall := { w := 1, h := 1 } }
def sRestore (m : SMap Byte) : State :=
  { State.reset with
    sys := { prebase := word (2 ^ 47) }
    fes := { saves := [saved0] }
    tiles := [(5, { hall := some 9 })]
    mem := { State.reset.mem with host := m } }

/-- Two parts of `n` lines, `f` and `g`. -/
def parts (n : Nat) (f g : Nat → Byte) : SMap Byte :=
  known 0 (2 * (128 * n)) (fun i => if i < 128 * n then f i else g (i - 128 * n))

theorem parts_lines (n : Nat) (f g : Nat → Byte) (h : 256 * n ≤ 2 ^ 47) :
    (sRestore (parts n f g)).lineBytes (2 ^ 47 + 0) n = (some ((List.range (128 * n)).map f), sRestore (parts n f g)) ∧
    (sRestore (parts n f g)).lineBytes (2 ^ 47 + 128 * n) n = (some ((List.range (128 * n)).map g), sRestore (parts n f g)) := by
  have go : ∀ k F, k + 128 * n ≤ 2 * (128 * n) →
      (∀ i, i < 128 * n → (if k + i < 128 * n then f (k + i) else g (k + i - 128 * n)) = F i) →
      (sRestore (parts n f g)).lineBytes (2 ^ 47 + k) n = (some ((List.range (128 * n)).map F), sRestore (parts n f g)) := by
    intro k F hk hh
    rw [lineBytes_host _ _ _ (by omega)]
    refine Prod.ext (congrArg some ?_) rfl
    have := lines_known 0 (n := n) (fun i => if i < 128 * n then f i else g (i - 128 * n)) hk
    simp only [Nat.zero_add] at this
    exact this.trans (List.map_congr_left (fun i hi => hh i (List.mem_range.1 hi)))
  refine ⟨go 0 f (by omega) (fun i hi => ?_), go (128 * n) g (by omega) (fun i hi => ?_)⟩
  · rw [if_pos (by omega), Nat.zero_add]
  · rw [if_neg (by omega)]; congr 1; omega

theorem restore_lines (f g : Nat → Byte) :
    (sRestore (parts 512 f g)).lineBytes (2 ^ 47) 512 = (some ((List.range 65536).map f), sRestore (parts 512 f g)) ∧
    (sRestore (parts 512 f g)).lineBytes (tileBase (2 ^ 47) 0) 512 = (some ((List.range 65536).map g), sRestore (parts 512 f g)) := by
  have h := parts_lines 512 f g (by decide)
  rw [show 128 * 512 = 65536 by decide, Nat.add_zero] at h
  rw [show tileBase (2 ^ 47) 0 = 2 ^ 47 + 65536 by decide]
  exact h

theorem restore_saved (m : SMap Byte) (bs : List Byte)
    (h : bs.drop 8 = (List.range 65528).map (fun i => Config.imageByte 0 (i + 8))) : (sRestore m).savedAt bs = some saved0 := by
  rw [State.savedAt, show (sRestore m).fes.saves = [saved0] from rfl, h]
  simp [saved0]

theorem restore_ok (f g : Nat → Byte) : (sRestore (parts 512 f g)).imageOk (2 ^ 47) saved0 =
      (sealVer ((List.range 65536).map g) && sealSum ((List.range 65536).map g), sRestore (parts 512 f g)) := by
  rw [State.imageOk, show saved0.hall.w * saved0.hall.h = 1 from rfl, show List.range 1 = [0] from rfl]
  simp only [List.foldl_cons, List.foldl_nil, (restore_lines f g).2, Bool.true_and, Option.any_some]

theorem seal_zero (n : Nat) : sealVer ((List.range (1 + n)).map (fun _ => (0 : Byte))) = false := by
  rw [List.range_add, List.map_append]
  rfl

theorem restore_fits (m : SMap Byte) (x y : Nat) : (sRestore m).fits x y 1 1 = (sRestore []).fits x y 1 1 := rfl

/-- A sound save area, where the hall may come back, must not move, and does not fit; one whose tile state is bad; and one
whose header is bad. -/
theorem witness_RestoreReadsItsImage :
    (sRestore []).saveBase = 2 ^ 47 ∧
    (∃ (f g : Nat → Byte) (bs : List Byte), let s := sRestore (parts 512 f g)
      let header := s.lineBytes (2 ^ 47) 512
      header.1 = some bs ∧ sealVer bs = true ∧ sealSum bs = true ∧
      header.2.savedAt bs = some saved0 ∧ (header.2.imageOk (2 ^ 47) saved0).1 = true ∧
      let t := (header.2.imageOk (2 ^ 47) saved0).2
      t.areaUnbacked (2 ^ 47) saved0.hall.areaBytes = false ∧
      t.fits 0 0 1 1 = true ∧ t.fits 1 0 1 1 = true ∧ t.fits 5 0 1 1 = false) ∧
    (∃ (f g : Nat → Byte) (bs : List Byte), let s := sRestore (parts 512 f g)
      let header := s.lineBytes (2 ^ 47) 512
      header.1 = some bs ∧ sealVer bs = true ∧ sealSum bs = true ∧
      header.2.savedAt bs = some saved0 ∧ (header.2.imageOk (2 ^ 47) saved0).1 = false) := by
  obtain ⟨h1, h2, h3⟩ := sealed_sound (Config.imageByte 0) (n := 65536) (by decide)
  rw [show 65536 - 8 = 65528 by decide] at h3
  obtain ⟨g1, g2, -⟩ := sealed_sound (fun _ => 0) (n := 65536) (by decide)
  have hz := seal_zero 65535
  rw [show 1 + 65535 = 65536 by decide] at hz
  have h4 : (sRestore []).fits 0 0 1 1 = true ∧ (sRestore []).fits 1 0 1 1 = true ∧ (sRestore []).fits 5 0 1 1 = false := by
    decide +kernel
  refine ⟨by decide, ⟨sealedByte (Config.imageByte 0) 65536, sealedByte (fun _ => 0) 65536,
    (List.range 65536).map (sealedByte (Config.imageByte 0) 65536), ?_⟩,
    sealedByte (Config.imageByte 0) 65536, fun _ => 0, (List.range 65536).map (sealedByte (Config.imageByte 0) 65536), ?_⟩
  · simp only [(restore_lines _ _).1, restore_ok, restore_fits]
    exact ⟨trivial, h1, h2, restore_saved _ _ h3, by rw [g1, g2]; rfl, by decide, h4⟩
  · simp only [(restore_lines _ _).1, restore_ok]
    exact ⟨trivial, h1, h2, restore_saved _ _ h3, by rw [hz, Bool.false_and]⟩

/-- The last failure but one and the last of a flit and of a frame; a retrain that is in time and one that is late. -/
def sLink (k : Link) : State := { State.reset with sys := { links := [(0, k)], ports := [(15, k)], bustat := 6 }, cycle := 94000 }

theorem witness_LinksAndPorts :
    (0 < 2 ∧ ((sLink { state := 0, fails := 7 }).link 0).state = 0 ∧ ((sLink { state := 0, fails := 7 }).link 0).fails < 8 ∧
      8 ≤ ((sLink { state := 0, fails := 8 }).link 0).fails ∧ ((sLink {}).link 0).state ≠ 0) ∧
    (((sLink { state := 1, since := 0 }).link 0).state = 1 ∧ (sLink { state := 1 }).cycle ≤ 0 + 94000 ∧
      ({ sLink { state := 1, failed := 2 } with cycle := 94001 } : State).cycle > 0 + 94000 ∧ ((sLink { state := 1, failed := 2 }).link 0).failed = 2) ∧
    (15 < 16 ∧ (List.replicate 8 (0 : Word)).length = 8 ∧ ((sLink { state := 0, fails := 15 }).port 15).fails < 16 ∧
      16 ≤ ((sLink { state := 0, fails := 16 }).port 15).fails ∧ fld (0 : Word) 60 4 = 0 ∧ fld (0x10001000 : Word) 28 4 = 1 ∧
      fld (0x10001000 : Word) 12 4 = 1) ∧
    (6 ≤ (sLink {}).sys.bustat ∧ ((sLink {}).port 15).state = 3) := by decide +kernel

def sUp (n : Nat) (fw : Word) : State := { State.reset with sys := { bustat := n, fwstat := fw } }

theorem witness_BringUp :
    ((sUp 1 0).sys.bustat = 1 ∧ fld (sUp 1 0).sys.fwstat 0 8 = 0 ∧ fld (sUp 1 1).sys.fwstat 0 8 = 1 ∧ (sUp 3 1).sys.bustat = 3 ∧
      (sUp 3 1).sys.halted = false ∧ (sUp 5 1).sys.bustat = 5) ∧ (111 < 112 ∧ (100#8).toNat ≤ 100 ∧ ¬((101#8).toNat ≤ 100)) := by decide +kernel

/-- A command of near memory that has locked one element at a physical address. -/
def lockAt (pa : Nat) : List NmCmd := [{ op := 4, n := 1, dst := pa, st := .queued }]
/-- The control block of a collective of one rank in memory. -/
def sBlock (cmds : List NmCmd) : State :=
  let s := sChan eColl
  let put := fun (m : SMap Byte) (e : Nat × Nat) => writeBytes m e.1 8 e.2
  { s with
    cmds := cmds
    mem := { s.mem with hbm := [(0x400000080, 0x400000000), (0x400000088, 0x400000100), (0x400000090, 0x700000001),
      (0x400000098, 0x01B0000000000004), (0x4000000C0, 0x400000080)].foldl put s.mem.hbm } }

/-- A COLL entry that starts its member, one whose block is locked, and one whose block is read and whose rank list is
locked. -/
theorem witness_CollEntries :
    let res := fun (cmds : List NmCmd) =>
      let s := sBlock cmds
      match State.collStart { s with ctr := s.ctr + 1 } { id := s.ctr, asid := 0, secure := (s.chan 0).wld, addr := eColl.w 1, entry := some (0, 0) } none with
      | .started _ _ => 1
      | .wait none => 2
      | .wait (some _) => 3
      | _ => 0
    (sBlock []).turn? 0 = some eColl ∧ res [] = 1 ∧ (sBlock (lockAt 0x400000080)).turn? 0 = some eColl ∧ res (lockAt 0x400000080) = 2 ∧
      (sBlock (lockAt 0x400000100)).turn? 0 = some eColl ∧ res (lockAt 0x400000100) = 3 := by decide +kernel

/-- A member whose four chunks of one S32 element each lie at the pages of `sTables`. -/
def block2 : List Word := [0x400000000, 0x400000100, 0x700000002, 0x01B0000000000004, aGlob, aGlob + 0x100, aGlob + 0x200, 0, aGlob]
def mem3 (r : RunData) (ps : List Pkt) (parts : List Pkt) : Member :=
  { mem2 [{ r with parts := parts }] with block := block2, inbox := ps }
/-- A KRECV into buffer 1, and a packet of its chunk 0 for buffer `buf`, with `n` bytes. -/
def krecv1 : RunData := { kcopy1 with kop := 1, peer := 1, c := { kcopy1.c with peer := 1 } }
def chunkPkt (buf n : Nat) : Pkt :=
  { id := 8, hdr := [0, 0, 0x100000000, (mem2 []).sig.1, (mem2 []).sig.2, word (5 * 2 ^ 45 + buf * 2 ^ 43 + 1)], payload := List.replicate n 0 }

/-- A chunk that can be written, and is written whole. -/
def puts (s : State) (m : Member) (buf c : Nat) (v : ChunkVal) : Bool :=
  match m.chunkOut buf c v with
  | some (o, _) => (match s.memWrite m o with | (.ok x, _) => x == 0 | _ => false)
  | none => false

/-- A KCOPY reads and writes its chunk; a KRECV has too few bytes of its chunk, a packet of another buffer, and all 16 bytes. -/
theorem witness_ChunksMove :
    (let m := mem3 kcopy1 [] []
     let s := sColl m (pkt1 1 0 0)
     s.member? 9 = some m ∧ m.st = .running ∧ (s.memberHall m).stop ≠ .cancel ∧ m.pageAborts.any MemAcc.stops = false ∧
       m.run.find? (fun r => r.id == 5) = some kcopy1 ∧ m.run.takeWhile (fun q => q.id != 5) = [] ∧
       kcopy1.done < kcopy1.c.clen.toNat ∧ kcopy1.kop = 3 ∧
       (match s.getChunk m kcopy1.c.ba.toNat ((kcopy1.first + kcopy1.done) % m.nch) with
        | (.ok _, v, t) => puts t m kcopy1.c.bb.toNat ((kcopy1.first + kcopy1.done) % m.nch) v
        | _ => false) = true) ∧
    (let m := mem3 krecv1 [] []
     let s := sColl m (pkt1 1 0 0)
     s.member? 9 = some m ∧ m.run.find? (fun r => r.id == 5) = some krecv1 ∧ krecv1.kop = 1 ∧ m.inbox = [] ∧ krecv1.parts = []) ∧
    (let come := fun (p : Pkt) =>
       let m := mem3 krecv1 [p] []
       let s := sColl m (pkt1 1 0 0)
       if s.member? 9 = some m then
         match m.incoming (m.gather krecv1 ((krecv1.first + krecv1.done) % m.nch)).1 ((krecv1.first + krecv1.done) % m.nch) krecv1.c.bb.toNat with
         | .none => 1
         | .mismatch => 2
         | .some v => if puts s m krecv1.c.bb.toNat ((krecv1.first + krecv1.done) % m.nch) v then 3 else 0
       else 0
     come (chunkPkt 1 8) = 1 ∧ come (chunkPkt 2 8) = 2 ∧ come (chunkPkt 1 16) = 3) ∧
    (let r : RunData := { kcopy1 with done := 1 }
     r.c.clen.toNat ≤ r.done ∧ r.unacked = 0 ∧ r.far = false) := by
  and_intros <;> decide +kernel

/-- Bring-up has ended: the host reaches the log. -/
def sHost : State := { State.reset with sys := { bustat := 5 } }

theorem witness_LogClear :
    sHost.reaches (.host false) (.vlogCtl 0) = true ∧ sHost.reaches (.host true) (.vlogCtl 0) = false ∧
    ({ sHost with sys := { sHost.sys with function1 := true } } : State).reaches (.host true) (.vlogCtl 0) = true ∧ State.reset.reaches (.host true) (.vlogCtl 0) = false ∧
    State.reset.reaches .mgmt (.vlogCtl 1) = true ∧ (Requester.mgmt).secure = true ∧ (Requester.host false).secure = false ∧
    (0x80000000 : Word).getLsbD 31 = true ∧ (0 : Word).getLsbD 31 = false := by decide +kernel

/-- The last window and the first number that is none; a writer that is a host, one that is not. -/
theorem witness_FormatWindowsReached :
    (31 < 32 ∧ 32 ≤ 32 ∧ (∀ b, Requester.mgmt ≠ .host b) ∧ ∃ b, Requester.host false = .host b) ∧
    (let s : State := { State.reset with sys := { fwin := [(31, { fwOk with ctl := fwOk.ctl ||| 1 })] } }
     (s.fwin 31).en = true ∧ (s.fwin 31).closing = false ∧ (s.fwin 31).wld = false ∧ (s.fwin 30).en = false) ∧
    ((sWin { fwOk with ctl := fwOk.ctl ||| 0x4000 }).fwin 0).wld = true := by
  refine ⟨⟨by decide, by decide, nofun, _, rfl⟩, by decide +kernel, by decide +kernel⟩

/-- A register that the host writes, and one it does not reach; function 1 before and after the management core has exposed
it; recovery. -/
theorem witness_HostReaches :
    sysReg? 0x6000408 = some .prebase ∧ sHost.reaches (.host false) .prebase = true ∧ (sHost.regWrite false .prebase 1).isSome = true ∧
    sysReg? 0x1001000 = some (.fwin 0 0 0) ∧ sHost.reaches (.host false) (.fwin 0 0 0) = false ∧
    sHost.sys.function1 = false ∧ sHost.reaches (.host true) .prebase = false ∧
    ({ sHost with sys := { sHost.sys with function1 := true } } : State).reaches (.host true) .prebase = true ∧ sHost.sys.recovery = false ∧
    (let s : State := { State.reset with sys := { bustat := 1, recovery := true } }
     s.reaches (.host false) .fwstat = true ∧ s.reaches (.host true) .fwstat = false ∧ s.reaches (.host false) .prebase = false) := by
  decide +kernel

/-- An access through BAR0 that is served, one of another width, one at no register, and one of a register out of reach. -/
theorem witness_HostAccessThroughBar0 :
    (let h : HostReq := { function1 := false, write := false, pa := 0x6000408, n := 8, data := 0, bar0 := true }
     h.bar0 = true ∧ sysReg? h.pa = some .prebase ∧ h.n = 8 ∧ sHost.reaches (.host h.function1) .prebase = true ∧
       sysReg? ({ h with pa := 0x6000404 } : HostReq).pa = none ∧ ({ h with n := 4 } : HostReq).n ≠ 8 ∧
       sysReg? ({ h with pa := 0x1001000 } : HostReq).pa = some (.fwin 0 0 0) ∧ sHost.reaches (.host h.function1) (.fwin 0 0 0) = false) ∧
    (let h : HostReq := { function1 := false, write := true, pa := 0, n := 8, data := 0 }
     h.bar0 = false ∧ ¬(5 ≤ State.reset.sys.bustat) ∧ 2 ^ 39 < 2 ^ 39 - 7 + h.n) := by decide +kernel

/-- A version that is the fuse's, and one that is older. -/
theorem witness_FirmwareVersions :
    let s : State := { State.reset with sys := { bustat := 1, svnFuse := 3 } }
    s.sys.bustat = 1 ∧ ¬((3 : BitVec 32).toNat < s.sys.svnFuse.toNat) ∧ (2 : BitVec 32).toNat < s.sys.svnFuse.toNat ∧
      ({ s with sys := { s.sys with fwstat := 2 } } : State).sys.bustat = 1 ∧
      2 ≤ fld ({ s with sys := { s.sys with fwstat := 2 } } : State).sys.fwstat 0 8 := by decide +kernel

/-- A hall is saved while a management core holds a message of one of its cores. -/
theorem witness_SavingWithAMessage :
    let s0 := sSave (.save true) 1 1
    let s : State := { s0 with sys := { s0.sys with mgmt := [(3, false)] } }
    s.saving.map (fun h => s.allStopped h && s.drained h && s.resultsIn h && s.movesDone h && h.hasCore 3 && !h.hasCore 64) = some true ∧
      s.sys.prestat = 1 ∧ fld s.sys.precmd 0 2 = 1 := by decide +kernel

/-- Two results that can be written, of which the other has arrived first; and the same with nothing before. -/
theorem witness_ResultsInOrderOfArrival :
    let s := fun (l : List Nat) => demoWith [] (fun c => { c with arrived := l, pend := [{ id := 3, dst := some (.gb false 5) }, { id := 4 }] })
    (((s [4, 3]).core 0).updPend 3 (fun p => p)).laterThan 3 = true ∧ (((s [3, 4]).core 0).updPend 3 (fun p => p)).laterThan 3 = false ∧
      ((s []).core 0).pend.find? (fun p => p.id == 3) = some { id := 3, dst := some (.gb false 5) } := by decide +kernel

/-- Neither privilege is asked nor the instruction illegal, and the tiles of the alcove answer in the cores' order. -/
theorem witness_GuardedOffAndAlcove :
    (∃ u : Uses, u.on = false ∧ u.priv = none ∧ u.illegal = false) ∧ sTiles.inCoreOrder [0] = true ∧
    (let gs := (sFrozen.placeAll 1 false (imageElems imageAt)).1
     anyWait gs = false ∧ firstTrap gs = none) := by
  refine ⟨⟨{ scalar 4 [] [] with on := false }, by decide⟩, by decide +kernel, by decide +kernel⟩

/-! ### What waits, what is late, and what stops half-way -/

/-- An instruction that stalls at issue, and may be tried again. -/
theorem witness_StalledAtIssue :
    let s := sIssued.updCore 0 (fun c => { c with lv0 := { c.lv0 with hold := .stalled } })
    s.agenda = [.issue 0] ∧ (s.core 0).lv0.hold = .stalled ∧ (s.core 0).mayIssue = true ∧
      decodeWords (s.core 0).lv0.ir = some .nop := by decide +kernel

/-- The tile of the service core has room for a message; it has taken one in this cycle. -/
theorem witness_RoomAtTheServiceCore :
    let svc := fun (s : State) => s.tile (tileOf (s.hallOfCore 1).service)
    let s : State := { sTrap 3 false with cycle := 1 }
    (svc s).lastPost.1 ≠ s.cycle ∧ (svc s).overflow.length < 2048 ∧ 1 ≠ (s.hallOfCore 1).service ∧ (s.core 1).tBit = false ∧
      (let t := s.updTile (tileOf (s.hallOfCore 1).service) (fun x => { x with lastPost := (1, 0) })
       (svc t).lastPost.1 = t.cycle) := by decide +kernel

/-- Core 1's load from core 0's scratchpad, after core 4, and after core 0 itself, has reached its bytes in this cycle. -/
theorem witness_ReachesInTheirTurn :
    let r : Req := { id := 1, core := 1, op := .load, loc := .spad 0 8, n := 8, pend := some 0 }
    let s := fun (k : Nat) => (sReq r).updCore 0 (fun c => { c with reach := (sMem.cycle, [(k, 8, 8)]) })
    ((s 5).core 0).reach.1 = (s 5).cycle ∧ (5, 8, 8) ∈ ((s 5).core 0).reach.2 ∧ overlaps 8 8 8 8 = true ∧
      (s 5).outOfTurn 1 (.spad 0 8) 8 = true ∧ (s 0).outOfTurn 1 (.spad 0 8) 8 = false ∧ sMem.outOfTurn sMem.cur (.spad 0 8) 8 = false ∧
      sMem.outOfTurn sMem.cur (.spad 0 256) 64 = false ∧ sMem.pushAhead sMem.cur sMem.ctr (.spad 0 8) = false ∧
      sMem.linksWait (0x400000080 / 128) = false ∧ sMem.recallWaits (0x400000080 / 128) = false := by decide +kernel

/-- An image whose last line lies past its vault, one whose first does, and one that lies in it. -/
theorem witness_ImagesInTheirAperture :
    (sImage []).imageOutside 0xFF04000000BFF000 = some 0xFF04000000C00000 ∧ (0xFF04000000BFF000 : Word).toNat % 4096 = 0 ∧
    (sImage []).steer (sImage []).cur (sImage []).me.pv 0xFF04000000C00000 = none ∧ (sImage []).imageOutside imageAt = none ∧
    ¬((0xFF01000000000000 : Word).toNat < 2 ^ 52 ∨ (0xFF01000000000000 : Word).toNat / 2 ^ 48 = 0xFF04) := by decide +kernel

/-- A quarter of an MMAC that is the last, and one that is not; tiles that fit a multiplication and one that is not configured. -/
theorem witness_MmacAndItsTiles :
    let j : Job := { jMma with kind := .mmac, bays := [0, 1] }
    (let s := sJob j
     (s.bay 0).jobs.find? (fun j => j.id == 9) = some j ∧ s.freezing 0 = false ∧
       ∀ k ∈ baysOf (tileOf j.core), ∀ x ∈ (((s.runMma 0 j).1.dropJob [0] 9).bay k).jobs, x.id ≠ 9) ∧
    (let s := (sJob j).updBay 1 (fun b => { b with jobs := [j] })
     1 ∈ baysOf (tileOf j.core) ∧ j ∈ (((s.runMma 0 j).1.dropJob [0] 9).bay 1).jobs ∧ j.id = 9) ∧
    ((sTiles.tcfg 0 1).cfg = true ∧ (sTiles.tcfg 0 2).cfg = true ∧ (sTiles.tcfg 0 1).ty = 0 ∧ (sTiles.tcfg 0 1).rows ≤ 96 ∧
      (sTiles.tcfg 0 1).ty = (sTiles.tcfg 0 2).ty ∧ isMX (sTiles.tcfg 0 1).ty = false ∧ (32767#15).toNat % 32 ≠ 0) ∧
    (sTiles.updBay 0 (fun b => { b with jobBy := (sTiles.cycle, 1) })).inCoreOrder [bayOf sTiles.cur] = false := by decide +kernel

/-- A refused SPAWN that issued inside an open window; a join block whose last decrement finds a bad record, and a bad target. -/
theorem witness_LateWindowsAndBadJoins :
    (let s := (sAnswered false).updMe (fun c => { c with lv0 := { c.lv0 with late := some 4 } })
     (s.me.thr s.lv).hold = .answered false ∧ s.lv = false ∧ (s.me.thr s.lv).late = some 4 ∧
       ((sAnswered false).me.thr (sAnswered false).lv).late = none) ∧
    (let x := 2 ^ 32 + 1 + 2 * 2 ^ 256
     256 + 8 ≤ 2 ^ 17 ∧ x < 2 ^ 512 ∧ x % 2 ^ 64 / 2 ^ 32 % 2 = 1 ∧ (x % 2 ^ 64 + (2 ^ 32 - 1)) % 2 ^ 32 = 0 ∧
       (recOf (x / 2 ^ 256)).bad ≠ none ∧ (recOf 0).bad = none ∧ targetOk sMem.myHall (word 0) true false = true ∧
       targetOk sMem.myHall (word 0x100) true false = false) ∧
    (let s : State := { sMem with cycle := 1, fes := { sMem.fes with halls := [{ id := 0, w := 1, h := 1, stallh := 4 }] } }
     let w := s.nowWrite (.spad 0 256) 8 0
     w.myHall.stallh ≠ 0 ∧ sMem.myHall.stallh = 0 ∧ (w.core w.myHall.service).handlers.length < 64 ∧
       (w.tile (tileOf w.myHall.service)).overflow = [] ∧ (w.tile (tileOf w.myHall.service)).lastPost.1 ≠ w.cycle) := by decide +kernel

/-- An inline child that returns to an aligned PC and to one that is not, with a join block and without. -/
theorem witness_InlineChildrenEnd :
    let own := sInl.updMe (fun c => { c with lv0 := { c.lv0 with jctr := 0xFF00000000000040 } })
    let block : State := { own with mem := { own.mem with spad := putBytes [] 64 64 (2 ^ 32 + 2) } }
    let bad := fun (s : State) => { s with mem := { s.mem with vault := [(0, 2)] } }
    let base := sInl.me.g false 2 - 32
    sInl.lv = false ∧ 0 < sInl.me.inl ∧ IssuesPlain sInl { len := 12, on := true, ws := [2, 3], blocking := true, nomask := true } ∧
    nowB (sInl.readFrame base 4) (fun x t => x % 4 == 0 && !t.lv) = true ∧ nowB ((bad sInl).readFrame base 4) (fun x _ => x % 4 == 2) = true ∧
    [block, bad block].map (fun s => nowB (s.nowRead 0xFF00000000000040 64 3 kAtomic true) (fun y t =>
      nowB (t.readFrame base 4) (fun x t' => x % 4 == 0 && !(t'.joinStep 0xFF00000000000040 (.spad 0 64) y none).2.lv))) = [true, false] := by
  and_intros <;> first | exact plain_of (by decide +kernel) | decide +kernel

/-- A handler that waits for the rest of a vector store; a tile with a STALL due; a consumer's ring that a store is on its way
to; a page fault of the task that a handler runs over. -/
theorem witness_WaitsOfCoresAndTiles :
    ((sIdle { handlers := [{}], lv0 := { rest := [{}] } } {}).core 0).lv0.rest ≠ [] ∧
    (let h : Hall := { id := 0, w := 1, h := 1, hallwd := 5, stallh := 4 }
     let s := ({ sMem with fes := { sMem.fes with halls := [h] } } : State).setTile 0 { sMem.tile 0 with wd := 5, group := 1 }
     s.stallDue h 0 = true ∧ s.launchOver h = false ∧ (s.updTile 0 (fun t => { t with wd := 4 })).stallDue h 0 = false) ∧
    (let s := sQ { ring := some (256, 8) }
     let l := Loc.spad s.cur 256
     s.pendingAt l = false ∧ s.overScore l 16 = false ∧ s.outOfTurn s.cur l 16 = false ∧
       ({ s with flight := [{ op := .store, loc := l, n := 8 }] } : State).pendingAt l = true) ∧
    (let s := (sHold (.page aGlob 0 1 false)).updCore 0 (fun c => { c with level := true })
     ((s.core 0).thr false).hold = .page aGlob 0 1 false ∧ (s.core 0).level ≠ false) ∧
    ((sHall {} {}).hall? 0).map (fun h => (sHall {} {}).flushWaits h) = some false ∧
    (((sWin { fwOk with ctl := fwOk.ctl ||| 1, closing := true }).viewLines fwOk).any
      (sWin { fwOk with ctl := fwOk.ctl ||| 1, closing := true }).recallWaits) = false := by decide +kernel

/-- A packet to port 15 that waits in the package for a link, and goes; one behind another, and an abort that a full inbox
does not hold. -/
theorem witness_PacketsThatWait :
    let net := fun (n : Nat) (ps : List Pkt) =>
      ({ sColl mem1 (pkt1 1 0 0) with
         sys := { links := [(0, { state := n }), (1, { state := n })], ports := [(15, { state := 0 })], routes := [(1, { v := true, out := 15 })] }
         fes := { members := [mem1], pkts := ps } } : State)
    let far : Member := { mem1 with rlist := [0, 2 ^ 32] }
    let p : Pkt := { id := 7, hdr := [0], outPort := some 15 }
    ((far.rlist.getD 1 0).toNat / 2 ^ 32 % 2 ^ 16 ≠ (net 1 []).pkg ∧ ((net 1 []).sys.routes.get {} 1).v = true ∧
      ((net 1 []).sys.ports.get {} 15).state = 0 ∧ (net 1 []).way (dieOf far.tile) (rowOfTile far.tile) (portDie 15) = .wait) ∧
    ((net 1 [p]).wayToPort 0 0 15 = .wait ∧ (net 0 [p]).wayToPort 0 0 15 = .clear) ∧
    (let q := { pkt1 1 0 0 with id := 6 }
     let full := { mem1 with inbox := List.replicate 256 {} }
     (pkt1 2 0 0).sameWay q = true ∧ (net 0 [q, pkt1 2 0 0]).behind (some mem1) (pkt1 2 0 0) = true ∧
       (net 0 [q, pkt1 2 0 0]).behind (some full) (pkt1 2 0 0) = false ∧ (net 0 [q, pkt1 1 0 0]).behind (some full) (pkt1 1 0 0) = true) ∧
    (let m := { mem1 with pageAborts := [.sig 7] }
     MemAcc.sig 7 ∈ m.pageAborts ∧ m.b 8 ≠ 0) := by decide +kernel

/-- A KRED whose peer's chunk has come, of the same level, and of another; a write that has stopped half-way. -/
theorem witness_ChunksThatGoOn :
    (let kred := { krecv1 with kop := 2 }
     let sum := fun (lo : Nat) =>
       let m := { mem3 kred [] [] with chunks := [] }
       let own : ChunkVal := { fmt := 11, vals := [1], span := { lo := 0, hi := 1 } }
       (m.combine own { fmt := 11, vals := [2], span := { lo := lo, hi := lo + 1 } }).isSome
     sum 1 = true ∧ sum 2 = false) ∧
    (let o : ColOut := { va := aGlob.toNat, n := 16, x := 5, span := { lo := 0, hi := 1 } }
     let r : RunData := { kcopy1 with out := some o }
     let m := mem3 r [] []
     let s := sColl m (pkt1 1 0 0)
     s.member? 9 = some m ∧ m.run.find? (fun r => r.id == 5) = some r ∧ r.done < r.c.clen.toNat ∧ r.kop ≠ 5 ∧
       (match s.memWrite m o with | (.ok x, _) => x == 0 | _ => false) = true ∧
       (match s.memWrite m { o with va := 0x10 } with | (.page va _ _, _) => va == 0x10 | _ => false) = true) := by
  and_intros <;> decide +kernel

/-- A well-formed instruction of a core, words that decode, a chunk instruction and a word that decodes to one. -/
theorem witness_DecodeEncode :
    (Instr.add 5 6 7).unit = Unit3.core ∧ (Instr.add 5 6 7).wf = true ∧ decode 0x001461C1 0 0 0 0 = some (.add 5 6 7) ∧
    ChunkI.kend.ok 0 = true ∧ decodeChunk 0 0x7000000000000000 = some .kend := by decide

/-- A step that performs a store of the scratchpad. -/
theorem witness_StepKeepsMemoryCanonical :
    let s : State := { sReq { op := .store, loc := .spad 0 8, n := 8, data := 7 } with agenda := [.event (.coreApertureAccess 1)] }
    Mems.wf s.mem = true ∧ (∃ t, step s = .next t) ∧ after (step s) false (fun t => t.spadRead 0 8 8 == 7) = true :=
  ⟨by decide +kernel, ⟨_, rfl⟩, by decide +kernel⟩

/-! ## Words

The words that the specification writes out, and for every instruction of a core its word put together by hand from the
encoding tables of 16_formats to 30: each field at a value of its own, so that swapped or dropped bits show. -/

/-- The guard of the words below. -/
def gu : Guard := { gp := 2, gs := true }

theorem test_words_of_the_specification_1 :
    decode 0x001461C1 0 0 0 0 = some (.add 5 6 7) ∧
    decode 0x48180000 0x00004000 0 0 0 = some (.addiLiteral 6 0 16384) ∧
    decode 0x2E1C4200 0 0 0 0 = some (.ldd 7 4 2 .df 0) ∧
    decode 0x731C5000 0x00000100 0 0 0 = some (.stdLiteral 7 5 .df 256) ∧
    decode 0x203FFFFE 0 0 0 0 = some (.br ⟨1, true⟩ 0xFFFFE) ∧
    decode 0x83500000 0x10108300 0 0 0 = some (.vfma ⟨2, true⟩ 0 0 false 4 1 2 3) ∧
    decode 0x88F30000 0x00145008 0x00221804 0 0 = some (.pair gt (.imm .add 5 5 (.short 8)) (.v2 .vadd 1 0 1 2 3)) ∧
    decode 0x23000000 0 0 0 0 = some (.nop) ∧
    decode 0x86F23000 0x24400000 0 0 0 = some (.nmcmd gt 3 9 4) ∧
    decode 0x2C2820BE 0 0 0 0 = some (.ldw 10 2 0 .ll 62) ∧
    decode 0x30146003 0 0 0 0 = some (.stb 5 6 .df 3) ∧
    decode 0xA8F04000 0x10900000 0x00000100 0 0 = some (.vld gt 4 0 .df 4 9 256) ∧
    decode 0x85F21008 0x24414600 0x00000008 0 0 = some (.mfill gt 1 .ll 9 4 5 6 8) ∧
    decode 0x80F20000 0x00500000 0x00000001 0 0 = some (.cpset gt 1 5) ∧
    decode 0x81F20000 0x18000000 0x00000009 0 0 = some (.cpget gt 6 9) ∧
    decode 0x82F22000 0x20000900 0 0 0 = some (.cpgo gt 2 8 9) ∧
    decode 0x83F20000 0x1C800000 0 0 0 = some (.cpcan gt 7 8) ∧
    decode 0x84F21000 0x28400000 0 0 0 = some (.sealr gt 1 10 4) ∧
    decode 0x3C085012 0 0 0 0 = some (.gets 5 0x012) := by decide

theorem test_words_of_the_specification_2 :
    decode 0x0F14500D 0 0 0 0 = some (.roti 5 5 13) ∧
    decode 0x12146307 0 0 0 0 = some (.bfx 5 6 12 7) ∧
    decode 0x0220928C 0 0 0 0 = some (.div 8 9 10 3) ∧
    decode 0x04187203 0 0 0 0 = some (.sel 6 7 8 3) ∧
    decode 0x03084144 0 0 0 0 = some (.pltw 2 4 5) ∧
    decode 0x21F00010 0 0 0 0 = some (.jal gt 0x10) ∧
    decode 0x18001000 0 0 0 0 = some (.jalr 0 1 0) ∧
    decode 0x05314540 0 0 0 0 = some (.nrand 12 20 21) ∧
    decode 0x87F20000 0x31454000 0x0000E666 0 0 = some (.nmask gt 12 20 21 0xE666) ∧
    decode 0x80F10200 0 0x00008001 0 0 = some (.tcfg gt 2 0 1 128) ∧
    decode 0x8BF10000 0x34800000 0 0 0 = some (.mwait gt 13 8) ∧
    decode 0x90F10000 0x08000000 0 0 0 = some (.amov gt 2 false 0) ∧
    decode 0x9FF20000 0x14000000 0x50000000 0 0 = some (.fenceInst gt 5 2) ∧
    decode 0xA0F20000 0x1461C000 0 0 0 = some (.spawn gt 5 6 7) ∧
    decode 0xA1F21000 0x2061C001 0 0 0 = some (.send gt 1 true 8 6 7) ∧
    decode 0xA2F20000 0 0 0 0 = some (.tend gt) ∧
    decode 0xA3F20000 0x14418000 0 0 0 = some (.cont gt 0 5 4 6) ∧
    decode 0xA4F20000 0x24400000 0 0 0 = some (.jdec gt 0 9 4) ∧
    decode 0xA5F20000 0x14000000 0 0 0 = some (.join gt 0 5 0) := by decide

theorem test_words_of_the_specification_3 :
    decode 0xA7F20000 0 0 0 0 = some (.maskh gt) ∧
    decode 0xA8F20000 0 0 0 0 = some (.unmaskh gt) ∧
    decode 0xB0F20000 0x14000000 0 0 0 = some (.step gt 5) ∧
    decode 0xB1F20000 0x18000000 0 0 0 = some (.stepq gt 6) ∧
    decode 0xB2F22C00 0x14000000 0x00F00040 0 0 = some (.rget gt 2 12 5 0 15 0 0x40) ∧
    decode 0xB3F21000 0x0C400000 0x00010080 0 0 = some (.rgetv gt 1 3 4 0 1 0x80) ∧
    decode 0xB4F21000 0x1C400000 0 0 0 = some (.hallq gt 1 7 4) ∧
    decode 0xB9F20000 0x14419800 0 0 0 = some (.sring gt 5 4 6 0) ∧
    decode 0xB8F20000 0x14019800 0 0 0 = some (.sbindCons gt 5 6 0) ∧
    decode 0xB8F20000 0x14019801 0x00000002 0 0 = some (.sbindProd gt 5 6 0 2) ∧
    decode 0xBAF20000 0x14019900 0 0 0 = some (.sgain gt 5 6 1) ∧
    decode 0xBBF20000 0x14001800 0x00000001 0 0 = some (.sstat gt 5 0 1) ∧
    decode 0xBCF20000 0x14001800 0 0 0 = some (.sunbind gt 5 0) ∧
    decode 0xBDF21000 0x14418000 0 0 0 = some (.dlaunch gt 1 5 4 6) ∧
    decode 0xBEF21000 0x14400000 0 0 0 = some (.coll gt 1 5 4) ∧
    decode 0xBFF20000 0x18400000 0 0 0 = some (.rlinv gt 6 4) ∧
    decode 0x3C10700A 0 0 0 0 = some (.tlbinvAsid 7 2) ∧
    decode 0x98F11000 0x14400000 0 0 0 = some (.msave gt 1 5 4) ∧
    decode 0x99F11000 0x14400000 0 0 0 = some (.mrest gt 1 5 4) := by decide

theorem test_words_of_two_register_operations_1 :
    decode 0x842F01 0x0 0x0 0x0 0x0 = some (.add 33 2 60) ∧
    decode 0x842F02 0x0 0x0 0x0 0x0 = some (.sub 33 2 60) ∧
    decode 0x842F03 0x0 0x0 0x0 0x0 = some (.mul 33 2 60) ∧
    decode 0x842F04 0x0 0x0 0x0 0x0 = some (.mulh 33 2 60) ∧
    decode 0x842F05 0x0 0x0 0x0 0x0 = some (.mulhw 33 2 60) ∧
    decode 0x842F08 0x0 0x0 0x0 0x0 = some (.and 33 2 60) ∧
    decode 0x842F09 0x0 0x0 0x0 0x0 = some (.or 33 2 60) ∧
    decode 0x842F0A 0x0 0x0 0x0 0x0 = some (.xor 33 2 60) ∧
    decode 0x842F0B 0x0 0x0 0x0 0x0 = some (.andn 33 2 60) ∧
    decode 0x842F0C 0x0 0x0 0x0 0x0 = some (.orn 33 2 60) ∧
    decode 0x842F10 0x0 0x0 0x0 0x0 = some (.shl 33 2 60) ∧
    decode 0x842F11 0x0 0x0 0x0 0x0 = some (.shr 33 2 60) ∧
    decode 0x842F12 0x0 0x0 0x0 0x0 = some (.sra 33 2 60) ∧
    decode 0x842F13 0x0 0x0 0x0 0x0 = some (.rot 33 2 60) := by decide

theorem test_words_of_two_register_operations_2 :
    decode 0x842F18 0x0 0x0 0x0 0x0 = some (.min 33 2 60) ∧
    decode 0x842F19 0x0 0x0 0x0 0x0 = some (.max 33 2 60) ∧
    decode 0x842F1A 0x0 0x0 0x0 0x0 = some (.minw 33 2 60) ∧
    decode 0x842F1B 0x0 0x0 0x0 0x0 = some (.maxw 33 2 60) := by decide

theorem test_words_of_bit_counting :
    decode 0x187C000 0x0 0x0 0x0 0x0 = some (.clz 33 60) ∧
    decode 0x187C001 0x0 0x0 0x0 0x0 = some (.ctz 33 60) ∧
    decode 0x187C002 0x0 0x0 0x0 0x0 = some (.popc 33 60) ∧
    decode 0x187C003 0x0 0x0 0x0 0x0 = some (.brev 33 60) ∧
    decode 0x187C004 0x0 0x0 0x0 0x0 = some (.bswp 33 60) := by decide

theorem test_words_of_divides :
    decode 0x2842F24 0x0 0x0 0x0 0x0 = some (.div 33 2 60 9) ∧
    decode 0x2842F25 0x0 0x0 0x0 0x0 = some (.divw 33 2 60 9) ∧
    decode 0x2842F26 0x0 0x0 0x0 0x0 = some (.rem 33 2 60 9) ∧
    decode 0x2842F27 0x0 0x0 0x0 0x0 = some (.remw 33 2 60 9) := by decide

theorem test_words_of_predicates :
    decode 0x3142F00 0x0 0x0 0x0 0x0 = some (.peq 5 2 60) ∧
    decode 0x3142F01 0x0 0x0 0x0 0x0 = some (.pne 5 2 60) ∧
    decode 0x3142F02 0x0 0x0 0x0 0x0 = some (.plt 5 2 60) ∧
    decode 0x3142F03 0x0 0x0 0x0 0x0 = some (.ple 5 2 60) ∧
    decode 0x3142F04 0x0 0x0 0x0 0x0 = some (.pltw 5 2 60) ∧
    decode 0x3142F05 0x0 0x0 0x0 0x0 = some (.plew 5 2 60) ∧
    decode 0x3142190 0x0 0x0 0x0 0x0 = some (.pand 5 2 6) ∧
    decode 0x3142191 0x0 0x0 0x0 0x0 = some (.por 5 2 6) ∧
    decode 0x3142192 0x0 0x0 0x0 0x0 = some (.pxor 5 2 6) ∧
    decode 0x3146013 0x0 0x0 0x0 0x0 = some (.pnot 5 6) ∧
    decode 0x4842F05 0x0 0x0 0x0 0x0 = some (.sel 33 2 60 5) ∧
    decode 0x5842F00 0x0 0x0 0x0 0x0 = some (.nrand 33 2 60) := by decide

theorem test_words_of_immediates_1 :
    decode 0x8842801 0x0 0x0 0x0 0x0 = some (.addi 33 2 0x801) ∧
    decode 0x48842000 0x9ABCDEF0 0x12345678 0x0 0x0 = some (.addiLiteral 33 2 0x123456789ABCDEF0) ∧
    decode 0x9842801 0x0 0x0 0x0 0x0 = some (.andi 33 2 0x801) ∧
    decode 0x49842000 0x9ABCDEF0 0x12345678 0x0 0x0 = some (.andiLiteral 33 2 0x123456789ABCDEF0) ∧
    decode 0xA842801 0x0 0x0 0x0 0x0 = some (.ori 33 2 0x801) ∧
    decode 0x4A842000 0x9ABCDEF0 0x12345678 0x0 0x0 = some (.oriLiteral 33 2 0x123456789ABCDEF0) ∧
    decode 0xB842801 0x0 0x0 0x0 0x0 = some (.xori 33 2 0x801) ∧
    decode 0x4B842000 0x9ABCDEF0 0x12345678 0x0 0x0 = some (.xoriLiteral 33 2 0x123456789ABCDEF0) ∧
    decode 0xC84202D 0x0 0x0 0x0 0x0 = some (.shli 33 2 45) ∧
    decode 0xD84202D 0x0 0x0 0x0 0x0 = some (.shri 33 2 45) ∧
    decode 0xE84202D 0x0 0x0 0x0 0x0 = some (.srai 33 2 45) ∧
    decode 0xF84202D 0x0 0x0 0x0 0x0 = some (.roti 33 2 45) ∧
    decode 0x10142801 0x0 0x0 0x0 0x0 = some (.peqi 5 2 0x801) ∧
    decode 0x50142000 0x9ABCDEF0 0x12345678 0x0 0x0 = some (.peqiLiteral 5 2 0x123456789ABCDEF0) := by decide

theorem test_words_of_immediates_2 :
    decode 0x11142801 0x0 0x0 0x0 0x0 = some (.plti 5 2 0x801) ∧
    decode 0x51142000 0x9ABCDEF0 0x12345678 0x0 0x0 = some (.pltiLiteral 5 2 0x123456789ABCDEF0) := by decide

theorem test_words_of_bit_fields :
    decode 0x12842A14 0x0 0x0 0x0 0x0 = some (.bfx 33 2 40 20) ∧
    decode 0x13842A14 0x0 0x0 0x0 0x0 = some (.bfi 33 2 40 20) ∧
    decode 0x14842028 0x0 0x0 0x0 0x0 = some (.exts 33 2 40) ∧
    decode 0x15842028 0x0 0x0 0x0 0x0 = some (.extz 33 2 40) ∧
    decode 0x16840801 0x0 0x0 0x0 0x0 = some (.movl 33 0x801) ∧
    decode 0x56840000 0x9ABCDEF0 0x12345678 0x0 0x0 = some (.movlLiteral 33 0x123456789ABCDEF0) ∧
    decode 0x17840801 0x0 0x0 0x0 0x0 = some (.addpc 33 0x801) ∧
    decode 0x57840000 0x9ABCDEF0 0x12345678 0x0 0x0 = some (.addpcLiteral 33 0x123456789ABCDEF0) := by decide

theorem test_words_of_control :
    decode 0x18842801 0x0 0x0 0x0 0x0 = some (.jalr 33 2 0x801) ∧
    decode 0x58842000 0x9ABCDEF0 0x12345678 0x0 0x0 = some (.jalrLiteral 33 2 0x123456789ABCDEF0) ∧
    decode 0x19840801 0x0 0x0 0x0 0x0 = some (.loop 33 0x801) ∧
    decode 0x59840000 0x9ABCDEF0 0x12345678 0x0 0x0 = some (.loopLiteral 33 0x123456789ABCDEF0) ∧
    decode 0x20580001 0x0 0x0 0x0 0x0 = some (.br gu 0x80001) ∧
    decode 0x21580001 0x0 0x0 0x0 0x0 = some (.jal gu 0x80001) ∧
    decode 0x23000000 0x0 0x0 0x0 0x0 = some (.nop) := by decide

theorem test_words_of_scalar_loads :
    decode 0x288429A1 0x0 0x0 0x0 0x0 = some (.ldb 33 2 9 .ll 33) ∧
    decode 0x68842980 0x9ABCDEF0 0x12345678 0x0 0x0 = some (.ldbLiteral 33 2 9 .ll 0x123456789ABCDEF0) ∧
    decode 0x298429A1 0x0 0x0 0x0 0x0 = some (.ldbs 33 2 9 .ll 33) ∧
    decode 0x69842980 0x9ABCDEF0 0x12345678 0x0 0x0 = some (.ldbsLiteral 33 2 9 .ll 0x123456789ABCDEF0) ∧
    decode 0x2A8429A1 0x0 0x0 0x0 0x0 = some (.ldh 33 2 9 .ll 33) ∧
    decode 0x6A842980 0x9ABCDEF0 0x12345678 0x0 0x0 = some (.ldhLiteral 33 2 9 .ll 0x123456789ABCDEF0) ∧
    decode 0x2B8429A1 0x0 0x0 0x0 0x0 = some (.ldhs 33 2 9 .ll 33) ∧
    decode 0x6B842980 0x9ABCDEF0 0x12345678 0x0 0x0 = some (.ldhsLiteral 33 2 9 .ll 0x123456789ABCDEF0) ∧
    decode 0x2C8429A1 0x0 0x0 0x0 0x0 = some (.ldw 33 2 9 .ll 33) ∧
    decode 0x6C842980 0x9ABCDEF0 0x12345678 0x0 0x0 = some (.ldwLiteral 33 2 9 .ll 0x123456789ABCDEF0) ∧
    decode 0x2D8429A1 0x0 0x0 0x0 0x0 = some (.ldws 33 2 9 .ll 33) ∧
    decode 0x6D842980 0x9ABCDEF0 0x12345678 0x0 0x0 = some (.ldwsLiteral 33 2 9 .ll 0x123456789ABCDEF0) ∧
    decode 0x2E8429A1 0x0 0x0 0x0 0x0 = some (.ldd 33 2 9 .ll 33) ∧
    decode 0x6E842980 0x9ABCDEF0 0x12345678 0x0 0x0 = some (.lddLiteral 33 2 9 .ll 0x123456789ABCDEF0) := by decide

theorem test_words_of_scalar_stores :
    decode 0x308420E1 0x0 0x0 0x0 0x0 = some (.stb 33 2 .byp 33) ∧
    decode 0x708420C0 0x9ABCDEF0 0x12345678 0x0 0x0 = some (.stbLiteral 33 2 .byp 0x123456789ABCDEF0) ∧
    decode 0x318420E1 0x0 0x0 0x0 0x0 = some (.sth 33 2 .byp 33) ∧
    decode 0x718420C0 0x9ABCDEF0 0x12345678 0x0 0x0 = some (.sthLiteral 33 2 .byp 0x123456789ABCDEF0) ∧
    decode 0x328420E1 0x0 0x0 0x0 0x0 = some (.stw 33 2 .byp 33) ∧
    decode 0x728420C0 0x9ABCDEF0 0x12345678 0x0 0x0 = some (.stwLiteral 33 2 .byp 0x123456789ABCDEF0) ∧
    decode 0x338420E1 0x0 0x0 0x0 0x0 = some (.std 33 2 .byp 33) ∧
    decode 0x738420C0 0x9ABCDEF0 0x12345678 0x0 0x0 = some (.stdLiteral 33 2 .byp 0x123456789ABCDEF0) ∧
    decode 0x34002061 0x0 0x0 0x0 0x0 = some (.pref 2 .sl 33) ∧
    decode 0x74002040 0x9ABCDEF0 0x12345678 0x0 0x0 = some (.prefLiteral 2 .sl 0x123456789ABCDEF0) ∧
    decode 0x35002061 0x0 0x0 0x0 0x0 = some (.evict 2 .sl 33) ∧
    decode 0x75002040 0x9ABCDEF0 0x12345678 0x0 0x0 = some (.evictLiteral 2 .sl 0x123456789ABCDEF0) := by decide

theorem test_words_of_system :
    decode 0x3C000801 0x0 0x0 0x0 0x0 = some (.trap 0x801) ∧
    decode 0x3C040000 0x0 0x0 0x0 0x0 = some (.eret) ∧
    decode 0x3C0A1103 0x0 0x0 0x0 0x0 = some (.gets 33 0x103) ∧
    decode 0x3C0E1103 0x0 0x0 0x0 0x0 = some (.sets 33 0x103) ∧
    decode 0x3C121005 0x0 0x0 0x0 0x0 = some (.tlbinvPage 33 5) ∧
    decode 0x3C12100D 0x0 0x0 0x0 0x0 = some (.tlbinvAsid 33 5) ∧
    decode 0x3C121015 0x0 0x0 0x0 0x0 = some (.tlbinvAll 33 5) ∧
    decode 0x3C121019 0x0 0x0 0x0 0x0 = some (.tlbinvPin 33 1) ∧
    decode 0x3C140801 0x0 0x0 0x0 0x0 = some (.bkpt 0x801) ∧
    decode 0x3C180000 0x0 0x0 0x0 0x0 = some (.wfe) := by decide

theorem test_words_of_pairs :
    decode 0x80530000 0x842F11 0xE22F247 0x0 0x0 = some (.pair gu (.rr .shr 33 2 60) (.v3 .vfma 1 3 17 2 30 9)) ∧
    decode 0xD6530000 0x840000 0x3E22F17C 0x9ABCDEF0 0x12345678 = some (.pair gu (.movl 33 (.lit 0x123456789ABCDEF0)) (.vsel 15 17 2 30 5)) := by decide

theorem test_words_of_vector_arithmetic :
    decode 0x80500170 0x44278000 0x0 0x0 0x0 = some (.vadd gu 1 3 true 17 2 30) ∧
    decode 0x81500170 0x44278000 0x0 0x0 0x0 = some (.vsub gu 1 3 true 17 2 30) ∧
    decode 0x82500170 0x44278000 0x0 0x0 0x0 = some (.vmul gu 1 3 true 17 2 30) ∧
    decode 0x83500170 0x44278900 0x0 0x0 0x0 = some (.vfma gu 1 3 true 17 2 30 9) ∧
    decode 0x84500170 0x44278900 0x0 0x0 0x0 = some (.vfms gu 1 3 true 17 2 30 9) ∧
    decode 0x85500170 0x44278900 0x0 0x0 0x0 = some (.vfnma gu 1 3 true 17 2 30 9) ∧
    decode 0x86509170 0x44278000 0x0 0x0 0x0 = some (.vdiv gu 9 1 3 true 17 2 30) ∧
    decode 0x87509160 0x44200000 0x0 0x0 0x0 = some (.vsqrt gu 9 1 3 17 2) ∧
    decode 0x88509160 0x44200000 0x0 0x0 0x0 = some (.vrsq gu 9 1 3 17 2) ∧
    decode 0x89500B00 0x44278000 0x0 0x0 0x0 = some (.vmin gu 11 17 2 30) ∧
    decode 0x8A500B00 0x44278000 0x0 0x0 0x0 = some (.vmax gu 11 17 2 30) ∧
    decode 0x8B500B10 0x44200000 0x0 0x0 0x0 = some (.vabs gu 11 true 17 2) ∧
    decode 0x8C500B10 0x44200000 0x0 0x0 0x0 = some (.vneg gu 11 true 17 2) ∧
    decode 0x8D500B00 0x44278900 0x0 0x0 0x0 = some (.vclamp gu 11 17 2 30 9) := by decide

theorem test_words_of_vector_lanes_1 :
    decode 0x8E500100 0x14278600 0x0 0x0 0x0 = some (.vcmp gu 1 6 5 2 30) ∧
    decode 0x8F500800 0x44278500 0x0 0x0 0x0 = some (.vsel gu 8 17 2 30 5) ∧
    decode 0x90500970 0x44200000 0x5 0x0 0x0 = some (.vcvt gu 9 0 3 true 17 2 0 5) ∧
    decode 0xD0500970 0x44200000 0x0 0x5 0x0 = some (.vcvtLiteral gu 9 0 3 true 17 2 0 5) ∧
    decode 0x91500800 0x44200001 0x5 0x0 0x0 = some (.vscale gu 8 1 17 2 5) ∧
    decode 0xD1500800 0x44200001 0x0 0x5 0x0 = some (.vscaleLiteral gu 8 1 17 2 5) ∧
    decode 0x92500B10 0x44200000 0x0 0x0 0x0 = some (.vrsum gu 11 true 17 2) ∧
    decode 0x93500B00 0x44200000 0x0 0x0 0x0 = some (.vrmin gu 11 17 2) ∧
    decode 0x94500B00 0x44200000 0x0 0x0 0x0 = some (.vrmax gu 11 17 2) ∧
    decode 0x95500100 0x44278000 0x0 0x0 0x0 = some (.vdot gu 1 17 2 30) ∧
    decode 0x96500B10 0x44278000 0x0 0x0 0x0 = some (.viadd gu 11 true 17 2 30) ∧
    decode 0x97500B10 0x44278000 0x0 0x0 0x0 = some (.visub gu 11 true 17 2 30) ∧
    decode 0x98500B10 0x44278000 0x0 0x0 0x0 = some (.vimul gu 11 true 17 2 30) ∧
    decode 0x99500B10 0x44278900 0x0 0x0 0x0 = some (.vimad gu 11 true 17 2 30 9) := by decide

theorem test_words_of_vector_lanes_2 :
    decode 0x9A500B00 0x44278000 0x0 0x0 0x0 = some (.vand gu 11 17 2 30) ∧
    decode 0x9B500B00 0x44278000 0x0 0x0 0x0 = some (.vor gu 11 17 2 30) ∧
    decode 0x9C500B00 0x44278000 0x0 0x0 0x0 = some (.vxor gu 11 17 2 30) ∧
    decode 0x9D500B00 0x44278000 0x0 0x0 0x0 = some (.vshl gu 11 17 2 30) ∧
    decode 0x9E500B00 0x44278000 0x0 0x0 0x0 = some (.vshr gu 11 17 2 30) ∧
    decode 0x9F500B00 0x44278000 0x0 0x0 0x0 = some (.vsra gu 11 17 2 30) ∧
    decode 0xA0500800 0x47C00000 0x0 0x0 0x0 = some (.vsplat gu 8 17 60) ∧
    decode 0xE0500800 0x44000000 0x0 0x9ABCDEF0 0x12345678 = some (.vsplatLiteral gu 8 17 0x123456789ABCDEF0) ∧
    decode 0xA1500B00 0x44278000 0x0 0x0 0x0 = some (.vperm gu 11 17 2 30) ∧
    decode 0xA2500B00 0x842F0000 0x0 0x0 0x0 = some (.vext gu 11 33 2 60) ∧
    decode 0xA3500B00 0x461F0000 0x0 0x0 0x0 = some (.vins gu 11 17 33 60) ∧
    decode 0xA4500800 0x44200000 0x0 0x0 0x0 = some (.vmov gu 8 17 2) := by decide

theorem test_words_of_vector_memory :
    decode 0xA8509504 0x47C00000 0x812345 0x0 0x0 = some (.vld gu 9 5 .sl 17 60 0x812345) ∧
    decode 0xE8509504 0x47C00000 0x0 0x9ABCDEF0 0x12345678 = some (.vldLiteral gu 9 5 .sl 17 60 0x123456789ABCDEF0) ∧
    decode 0xA9500504 0x47C00000 0x812345 0x0 0x0 = some (.vst gu 5 .sl 17 60 0x812345) ∧
    decode 0xE9500504 0x47C00000 0x0 0x9ABCDEF0 0x12345678 = some (.vstLiteral gu 5 .sl 17 60 0x123456789ABCDEF0) ∧
    decode 0xAA509504 0x47C84000 0x812345 0x0 0x0 = some (.vlds gu 9 5 .sl 17 60 33 0x812345) ∧
    decode 0xEA509504 0x47C84000 0x0 0x9ABCDEF0 0x12345678 = some (.vldsLiteral gu 9 5 .sl 17 60 33 0x123456789ABCDEF0) ∧
    decode 0xAB500504 0x47C84000 0x812345 0x0 0x0 = some (.vsts gu 5 .sl 17 60 33 0x812345) ∧
    decode 0xEB500504 0x47C84000 0x0 0x9ABCDEF0 0x12345678 = some (.vstsLiteral gu 5 .sl 17 60 33 0x123456789ABCDEF0) ∧
    decode 0xAC509104 0x47C78000 0x812345 0x0 0x0 = some (.vgath gu 9 1 .sl 17 60 30 0x812345) ∧
    decode 0xEC509104 0x47C78000 0x0 0x9ABCDEF0 0x12345678 = some (.vgathLiteral gu 9 1 .sl 17 60 30 0x123456789ABCDEF0) ∧
    decode 0xAD500104 0x47C78000 0x812345 0x0 0x0 = some (.vscat gu 1 .sl 17 60 30 0x812345) ∧
    decode 0xED500104 0x47C78000 0x0 0x9ABCDEF0 0x12345678 = some (.vscatLiteral gu 1 .sl 17 60 30 0x123456789ABCDEF0) := by decide

theorem test_words_of_matrix_engine :
    decode 0x80510200 0x34000000 0x80C0 0x0 0x0 = some (.tcfg gu 2 13 192 128) ∧
    decode 0x81519004 0x842F3B01 0xA50D 0x0 0x0 = some (.tld gu 9 .sl 33 59 2 60 true 13 0xA5) ∧
    decode 0x82519004 0x842F3B01 0xD 0x0 0x0 = some (.tst gu 9 .sl 33 59 2 60 true 13) ∧
    decode 0x83510000 0x34000000 0x0 0x0 0x0 = some (.tzero gu 13) ∧
    decode 0x88519910 0x84D1BB00 0x4004321 0x0 0x0 = some (.mma gu 9 9 true true 33 59 13 6 0x4321) ∧
    decode 0x89519910 0x84D1BB00 0x4004321 0x0 0x0 = some (.mmac gu 9 9 true true 33 59 13 6 0x4321) ∧
    decode 0x8A510000 0x84200000 0x0 0x0 0x0 = some (.mpoll gu 33 2) ∧
    decode 0x8B510000 0x84200000 0x0 0x0 0x0 = some (.mwait gu 33 2) ∧
    decode 0x90510000 0x34000000 0x4004321 0x0 0x0 = some (.amov gu 13 true 0x4321) ∧
    decode 0x91510000 0x34000000 0x4321 0x0 0x0 = some (.amovt gu 13 0x4321) ∧
    decode 0x92510000 0x3C00000 0x4321 0x0 0x0 = some (.azero gu 60 0x4321) ∧
    decode 0x93510170 0x34000000 0x4321 0x0 0x0 = some (.afin gu 1 0 3 true 13 0x4321) ∧
    decode 0x98519000 0x84200000 0x0 0x0 0x0 = some (.msave gu 9 33 2) ∧
    decode 0x99519000 0x84200000 0x0 0x0 0x0 = some (.mrest gu 9 33 2) := by decide

theorem test_words_of_copies :
    decode 0x80520000 0x3C00000 0x9 0x0 0x0 = some (.cpset gu 9 60) ∧
    decode 0x81520000 0x84000000 0x9 0x0 0x0 = some (.cpget gu 33 9) ∧
    decode 0x82529000 0x84003B00 0x0 0x0 0x0 = some (.cpgo gu 9 33 59) ∧
    decode 0x83520000 0x84200000 0x0 0x0 0x0 = some (.cpcan gu 33 2) ∧
    decode 0x84529000 0x84200000 0x0 0x0 0x0 = some (.sealr gu 9 33 2) ∧
    decode 0x85529004 0x842F1100 0x2A5 0x0 0x0 = some (.mfill gu 9 .sl 33 2 60 17 0x2A5) ∧
    decode 0x86529000 0x84200000 0x0 0x0 0x0 = some (.nmcmd gu 9 33 2) ∧
    decode 0x87520000 0x842F0000 0x8123 0x0 0x0 = some (.nmask gu 33 2 60 0x8123) := by decide

theorem test_words_of_atomics_1 :
    decode 0x88529B14 0x842F0000 0x812345 0x0 0x0 = some (.amoadd gu 9 11 true .sl 33 2 60 0x812345) ∧
    decode 0xC8529B14 0x842F0000 0x0 0x9ABCDEF0 0x12345678 = some (.amoaddLiteral gu 9 11 true .sl 33 2 60 0x123456789ABCDEF0) ∧
    decode 0x89529B04 0x842F0000 0x812345 0x0 0x0 = some (.amomin gu 9 11 .sl 33 2 60 0x812345) ∧
    decode 0xC9529B04 0x842F0000 0x0 0x9ABCDEF0 0x12345678 = some (.amominLiteral gu 9 11 .sl 33 2 60 0x123456789ABCDEF0) ∧
    decode 0x8A529B04 0x842F0000 0x812345 0x0 0x0 = some (.amomax gu 9 11 .sl 33 2 60 0x812345) ∧
    decode 0xCA529B04 0x842F0000 0x0 0x9ABCDEF0 0x12345678 = some (.amomaxLiteral gu 9 11 .sl 33 2 60 0x123456789ABCDEF0) ∧
    decode 0x8B529B04 0x842F0000 0x812345 0x0 0x0 = some (.amoand gu 9 11 .sl 33 2 60 0x812345) ∧
    decode 0xCB529B04 0x842F0000 0x0 0x9ABCDEF0 0x12345678 = some (.amoandLiteral gu 9 11 .sl 33 2 60 0x123456789ABCDEF0) ∧
    decode 0x8C529B04 0x842F0000 0x812345 0x0 0x0 = some (.amoor gu 9 11 .sl 33 2 60 0x812345) ∧
    decode 0xCC529B04 0x842F0000 0x0 0x9ABCDEF0 0x12345678 = some (.amoorLiteral gu 9 11 .sl 33 2 60 0x123456789ABCDEF0) ∧
    decode 0x8D529B04 0x842F0000 0x812345 0x0 0x0 = some (.amoxor gu 9 11 .sl 33 2 60 0x812345) ∧
    decode 0xCD529B04 0x842F0000 0x0 0x9ABCDEF0 0x12345678 = some (.amoxorLiteral gu 9 11 .sl 33 2 60 0x123456789ABCDEF0) ∧
    decode 0x8E529B04 0x842F0000 0x812345 0x0 0x0 = some (.amoswp gu 9 11 .sl 33 2 60 0x812345) ∧
    decode 0xCE529B04 0x842F0000 0x0 0x9ABCDEF0 0x12345678 = some (.amoswpLiteral gu 9 11 .sl 33 2 60 0x123456789ABCDEF0) := by decide

theorem test_words_of_atomics_2 :
    decode 0x8F529B04 0x842F1100 0x812345 0x0 0x0 = some (.amocas gu 9 11 .sl 33 2 60 17 0x812345) ∧
    decode 0xCF529B04 0x842F1100 0x0 0x9ABCDEF0 0x12345678 = some (.amocasLiteral gu 9 11 .sl 33 2 60 17 0x123456789ABCDEF0) ∧
    decode 0x90520B04 0x2F0000 0x812345 0x0 0x0 = some (.rdadd gu 11 .sl 2 60 0x812345) ∧
    decode 0xD0520B04 0x2F0000 0x0 0x9ABCDEF0 0x12345678 = some (.rdaddLiteral gu 11 .sl 2 60 0x123456789ABCDEF0) ∧
    decode 0x91520B04 0x2F0000 0x812345 0x0 0x0 = some (.rdmin gu 11 .sl 2 60 0x812345) ∧
    decode 0xD1520B04 0x2F0000 0x0 0x9ABCDEF0 0x12345678 = some (.rdminLiteral gu 11 .sl 2 60 0x123456789ABCDEF0) ∧
    decode 0x92520B04 0x2F0000 0x812345 0x0 0x0 = some (.rdmax gu 11 .sl 2 60 0x812345) ∧
    decode 0xD2520B04 0x2F0000 0x0 0x9ABCDEF0 0x12345678 = some (.rdmaxLiteral gu 11 .sl 2 60 0x123456789ABCDEF0) ∧
    decode 0x93520104 0x2F0000 0x812345 0x0 0x0 = some (.xadd gu 1 .sl 2 60 0x812345) ∧
    decode 0xD3520104 0x2F0000 0x0 0x9ABCDEF0 0x12345678 = some (.xaddLiteral gu 1 .sl 2 60 0x123456789ABCDEF0) ∧
    decode 0x94529174 0x84200002 0x812345 0x0 0x0 = some (.xrnd gu 9 1 3 true .sl 33 2 false true 0x812345) ∧
    decode 0xD4529174 0x84200002 0x0 0x9ABCDEF0 0x12345678 = some (.xrndLiteral gu 9 1 3 true .sl 33 2 false true 0x123456789ABCDEF0) := by decide

theorem test_words_of_synchronisation :
    decode 0x98529000 0x842F1100 0x0 0x0 0x0 = some (.pbinit gu 9 33 2 60 17) ∧
    decode 0x99529000 0x84200000 0x0 0x0 0x0 = some (.pbarr gu 9 33 2) ∧
    decode 0x9A520000 0x2F0000 0x0 0x0 0x0 = some (.pbexp gu 2 60) ∧
    decode 0x9B520000 0x842F0000 0x0 0x0 0x0 = some (.pbwait gu 33 2 60) ∧
    decode 0x9C529000 0x842F0000 0x812345 0x0 0x0 = some (.waita gu 9 33 2 60 0x812345) ∧
    decode 0xDC529000 0x842F0000 0x0 0x9ABCDEF0 0x12345678 = some (.waitaLiteral gu 9 33 2 60 0x123456789ABCDEF0) ∧
    decode 0x9D529000 0x842F1100 0x8000000 0x0 0x0 = some (.ctarm gu 9 2 33 2 60 17) ∧
    decode 0x9E529000 0x842F0000 0x0 0x0 0x0 = some (.ctinc gu 9 33 2 60) ∧
    decode 0x9F520000 0x84000000 0xA8000000 0x0 0x0 = some (.fence gu 33 5 2) ∧
    decode 0x9F520000 0x84000000 0x90000000 0x0 0x0 = some (.fenceInst gu 33 4) := by decide

theorem test_words_of_tasks :
    decode 0xA0520000 0x842F0000 0x0 0x0 0x0 = some (.spawn gu 33 2 60) ∧
    decode 0xA1529000 0x842F0001 0x0 0x0 0x0 = some (.send gu 9 true 33 2 60) ∧
    decode 0xA2520000 0x0 0x0 0x0 0x0 = some (.tend gu) ∧
    decode 0xA3529000 0x842F0000 0x0 0x0 0x0 = some (.cont gu 9 33 2 60) ∧
    decode 0xA4529000 0x84200000 0x0 0x0 0x0 = some (.jdec gu 9 33 2) ∧
    decode 0xA5529000 0x84200000 0x0 0x0 0x0 = some (.join gu 9 33 2) ∧
    decode 0xA6529000 0x84200000 0x0 0x0 0x0 = some (.leave gu 9 33 2) ∧
    decode 0xA7520000 0x0 0x0 0x0 0x0 = some (.maskh gu) ∧
    decode 0xA8520000 0x0 0x0 0x0 0x0 = some (.unmaskh gu) := by decide

theorem test_words_of_steps_and_streams :
    decode 0xB0520000 0x84000000 0x0 0x0 0x0 = some (.step gu 33) ∧
    decode 0xB1520000 0x84000000 0x0 0x0 0x0 = some (.stepq gu 33) ∧
    decode 0xB2529B00 0x84200000 0xD22345 0x0 0x0 = some (.rget gu 9 11 33 2 13 2 0x2345) ∧
    decode 0xB3529000 0x44200000 0xD22345 0x0 0x0 = some (.rgetv gu 9 17 2 13 2 0x2345) ∧
    decode 0xB4529000 0x84200000 0x0 0x0 0x0 = some (.hallq gu 9 33 2) ∧
    decode 0xB8520000 0x840F1D00 0x0 0x0 0x0 = some (.sbindCons gu 33 60 5) ∧
    decode 0xB8520000 0x840F1D01 0x6 0x0 0x0 = some (.sbindProd gu 33 60 5 6) ∧
    decode 0xB9520000 0x842F1D00 0x0 0x0 0x0 = some (.sring gu 33 2 60 5) ∧
    decode 0xBA520000 0x840F1D00 0x0 0x0 0x0 = some (.sgain gu 33 60 5) ∧
    decode 0xBB520000 0x84001D00 0x2 0x0 0x0 = some (.sstat gu 33 5 2) ∧
    decode 0xBC520000 0x84001D00 0x0 0x0 0x0 = some (.sunbind gu 33 5) ∧
    decode 0xBD529000 0x842F0000 0x0 0x0 0x0 = some (.dlaunch gu 9 33 2 60) ∧
    decode 0xBE529000 0x84200000 0x0 0x0 0x0 = some (.coll gu 9 33 2) ∧
    decode 0xBF520000 0x84200000 0x0 0x0 0x0 = some (.rlinv gu 33 2) := by decide

/-- Written bit by bit: MAJ, D, A, B and FN of ADD (R39, R189); MAJ, GP, GS and the displacement of BR (R198). -/
theorem test_words_bit_by_bit :
    decode (0b00000000#8 ++ 0b000101#6 ++ 0b000110#6 ++ 0b000111#6 ++ 0b000001#6) 0 0 0 0 = some (.add 5 6 7) ∧
    decode (0b00100000#8 ++ 0b001#3 ++ 0b1#1 ++ 0b11111111111111111110#20) 0 0 0 0 = some (.br ⟨1, true⟩ 0xFFFFE) := by decide

/-- Words that stand for nothing: all zeros, all ones, a NOP with a field set. -/
theorem test_words_that_are_illegal :
    decode 0 0 0 0 0 = none ∧ decode 0xFFFFFFFF 0 0 0 0 = none ∧ decode 0x23000001 0 0 0 0 = none ∧ decode 0x23100000 0 0 0 0 = none := by decide

/-- Chunk words of R64, R65 and R392. -/
theorem test_chunk_words :
    decodeChunk 0 0x7000000000000000 = some .kend ∧
    decodeChunk 0 0x0200010018085000 =
      some (.data 0 { ba := 0, bb := 2, peer := 1, prel := false, cidx := 3, clen := 1, tag := 5, cstep := 0 }) ∧
    decodeChunk 0 0x7000000000000001 = none ∧ decodeChunk 0 0xF000000000000000 = none := by decide

/-! ## Ill-formed terms: one for each check -/

theorem test_wf_refuses_fields :
    (Instr.bfx 1 2 60 4).wf = false ∧ (Instr.bfi 1 2 60 4).wf = false ∧ (Instr.loop 0 4).wf = false ∧ (Instr.loopLiteral 0 4).wf = false ∧
    (Instr.evict 1 .ll 0).wf = false ∧ (Instr.evictLiteral 1 .ll 0).wf = false ∧ (Instr.gets 1 0x008).wf = false ∧
    (Instr.sets 1 0x104).wf = false ∧ (Instr.tlbinvPage 1 0).wf = false ∧ (Instr.tlbinvAsid 1 6).wf = false ∧
    (Instr.tlbinvAll 1 7).wf = false ∧ (Instr.tlbinvPin 1 2).wf = false := by decide

theorem test_wf_refuses_pairs :
    (Instr.pair gu (.cmp .eq 1 2 3) (.vcmp 1 0 1 2 3)).wf = false ∧ (Instr.pair gu (.bfx 1 2 60 4) (.v1 .vmov 1 2 3)).wf = false ∧
    (Instr.pair gu (.rr .add 1 2 3) (.v2 .vdiv 1 0 1 2 3)).wf = false ∧ (Instr.pair gu (.rr .add 1 2 3) (.v1 .vsqrt 1 2 3)).wf = false ∧
    (Instr.pair gu (.rr .add 1 2 3) (.v2 .vmin 1 1 1 2 3)).wf = false ∧ (Instr.pair gu (.rr .add 1 2 3) (.v2 .viadd 1 0 1 2 3)).wf = false ∧
    (Instr.pair gu (.rr .add 1 2 3) (.v2 .vperm 8 0 1 2 3)).wf = false ∧ (Instr.pair gu (.rr .add 1 2 3) (.vcmp 11 6 1 2 3)).wf = false ∧
    (Instr.pair gu (.rr .add 1 2 3) (.v3 .vclamp 4 0 1 2 3 4)).wf = false := by decide

theorem test_wf_refuses_vector_types :
    (Instr.vadd gu 9 0 false 1 2 3).wf = false ∧ (Instr.vfma gu 0 5 false 1 2 3 4).wf = false ∧ (Instr.vdiv gu 0 4 0 false 1 2 3).wf = false ∧
    (Instr.vmin gu 4 1 2 3).wf = false ∧ (Instr.vabs gu 0 true 1 2).wf = false ∧ (Instr.vneg gu 3 true 1 2).wf = false ∧
    (Instr.vcmp gu 11 6 1 2 3).wf = false ∧ (Instr.vcmp gu 0 7 1 2 3).wf = false ∧ (Instr.vcvt gu 1 0 0 false 1 2 3 0).wf = false ∧
    (Instr.vcvt gu 6 9 0 false 1 2 3 0).wf = false ∧ (Instr.vcvt gu 6 0 0 true 1 2 3 0).wf = false ∧ (Instr.vcvt gu 1 0 0 false 1 2 0 2).wf = false ∧
    (Instr.vcvtLiteral gu 6 0 0 false 1 2 3 8).wf = false ∧ (Instr.vscale gu 0 0 1 2 0).wf = false ∧ (Instr.vscaleLiteral gu 6 9 1 2 0).wf = false ∧
    (Instr.vrsum gu 0 true 1 2).wf = false ∧ (Instr.vrmin gu 6 1 2).wf = false ∧ (Instr.vdot gu 9 1 2 3).wf = false ∧
    (Instr.viadd gu 0 false 1 2 3).wf = false ∧ (Instr.vshl gu 2 1 2 3).wf = false ∧ (Instr.vperm gu 8 1 2 3).wf = false := by decide

theorem test_wf_refuses_memory_and_matrix :
    (Instr.vld gu 0 6 .df 1 2 0).wf = false ∧ (Instr.vscat gu 8 .df 1 2 3 0).wf = false ∧ (Instr.tcfg gu 0 1 193 16).wf = false ∧
    (Instr.tcfg gu 0 1 0 16).wf = false ∧ (Instr.tcfg gu 0 1 4 129).wf = false ∧ (Instr.tld gu 0 .df 5 5 1 2 false 1 0).wf = false ∧
    (Instr.tst gu 0 .df 5 5 1 2 false 1).wf = false ∧ (Instr.mma gu 0 10 false false 1 2 1 2 0).wf = false ∧
    (Instr.mma gu 0 0 true false 1 2 1 2 0).wf = false ∧ (Instr.mmac gu 0 0 false false 3 3 1 2 0).wf = false ∧
    (Instr.afin gu 0 1 0 false 1 0).wf = false ∧ (Instr.afin gu 0 0 5 false 1 0).wf = false := by decide

theorem test_wf_refuses_the_rest :
    (Instr.cpset gu 10 1).wf = false ∧ (Instr.cpget gu 1 10).wf = false ∧ (Instr.cpgo gu 0 4 4).wf = false ∧
    (Instr.mfill gu 0 .df 1 2 3 4 0).wf = false ∧ (Instr.mfill gu 0 .df 1 2 3 4 769).wf = false ∧ (Instr.nmask gu 1 2 3 65537).wf = false ∧
    (Instr.amoadd gu 0 9 false .df 1 2 3 0).wf = false ∧ (Instr.amocas gu 0 0 .df 1 2 3 4 0).wf = false ∧ (Instr.rdadd gu 0 .df 1 2 0).wf = false ∧
    (Instr.xadd gu 0 .df 1 2 0).wf = false ∧ (Instr.xrnd gu 0 0 0 false .df 1 2 false false 0).wf = false ∧
    (Instr.xrnd gu 0 1 0 false .df 1 2 true true 0).wf = false ∧ (Instr.xrnd gu 0 1 5 false .df 1 2 false false 0).wf = false ∧
    (Instr.ctarm gu 0 3 1 2 3 4).wf = false ∧ (Instr.fence gu 1 0 4).wf = false ∧ (Instr.rget gu 0 0 1 2 0 0 0).wf = false ∧
    (Instr.sstat gu 1 2 3).wf = false := by decide

theorem test_chunks_refused :
    (ChunkI.data 0 { ba := 3, bb := 0, peer := 0, prel := false, cidx := 0, clen := 1, tag := 0, cstep := 0 }).ok 0 = false ∧
    (ChunkI.data 0 { ba := 0, bb := 3, peer := 0, prel := false, cidx := 0, clen := 1, tag := 0, cstep := 0 }).ok 0 = false ∧
    (ChunkI.data 0 { ba := 0, bb := 1, peer := 0, prel := false, cidx := 0, clen := 0, tag := 0, cstep := 0 }).ok 0 = false ∧
    (ChunkI.data 1 { ba := 1, bb := 1, peer := 0, prel := false, cidx := 0, clen := 1, tag := 0, cstep := 0 }).ok 0 = false ∧
    (ChunkI.data 3 { ba := 0, bb := 1, peer := 1, prel := false, cidx := 0, clen := 1, tag := 0, cstep := 0 }).ok 0 = false ∧
    (ChunkI.kloop 0 0xFFFF).ok 5 = false ∧ (ChunkI.kloop 2 0xFFFE).ok 1 = false ∧ (ChunkI.kloop 2 1).ok 5 = false := by decide

/-- A word of each of these does not decode either: a bit field beyond bit 63, a register that no system register is, a
compare that is no relation. -/
theorem test_ill_formed_words_do_not_decode :
    decodeWords (encode (.bfx 1 2 60 4)) = none ∧ decodeWords (encode (.gets 1 0x008)) = none ∧
    decodeWords (encode (.vcmp gu 11 6 1 2 3)) = none ∧ decodeWords (encode (.tcfg gu 0 1 193 16)) = none := by decide

/-! ## Single steps

The results are the specification's own examples, or worked by hand from the rule named. -/

/-- What register `r` holds after an instruction run on the given registers. -/
def rgAfter (i : Instr) (g : SMap Word) (r : Reg) (p : SMap Word := []) : Word := after (exec i (demo g p)) 0xDEAD (fun t => t.rg r)
def rpAfter (i : Instr) (g : SMap Word) (r : PReg) (p : SMap Word := []) : Word := after (exec i (demo g p)) 0xDEAD (fun t => t.rp r)
/-- What a vector register holds, and the flags of the level. -/
def rvAfter (i : Instr) (g : SMap Word) (v : SMap Vec) (r : VReg) : Vec := after (exec i (demo g [] v)) 0xDEAD (fun t => t.rv r)
def flAfter (i : Instr) (v : SMap Vec) : Option FFlags := after (exec i (demo [] [] v)) none (fun t => some (t.me.thr t.lv).fp)
/-- The trap cause and TVAL after an instruction. -/
def trapAfter (i : Instr) (g : SMap Word) : Nat × Word :=
  after (exec i (demo g)) (0xDEAD, 0) (fun t => (t.me.tcause.toNat % 256, t.me.tval))

/-- R189. -/
theorem test_add_wraps_and_sub_borrows :
    rgAfter (.add 5 6 7) [(6, 0xFFFFFFFFFFFFFFFF), (7, 2)] 5 = 1 ∧
    rgAfter (.sub 5 6 7) [(6, 1), (7, 2)] 5 = 0xFFFFFFFFFFFFFFFF ∧
    rgAfter (.add 5 5 5) [(5, 3)] 5 = 6 ∧
    rgAfter (.add 0 6 7) [(6, 1), (7, 2)] 0 = 0 := by decide +kernel

/-- R189 and its examples. -/
theorem test_products :
    rgAfter (.mul 5 6 7) [(6, 0xFFFFFFFFFFFFFFFF), (7, 3)] 5 = 0xFFFFFFFFFFFFFFFD ∧
    rgAfter (.mulh 5 6 7) [(6, 0xFFFFFFFFFFFFFFFF), (7, 1)] 5 = 0xFFFFFFFFFFFFFFFF ∧
    rgAfter (.mulhw 5 6 7) [(6, 0xFFFFFFFFFFFFFFFF), (7, 2)] 5 = 1 := by decide +kernel

/-- R189. -/
theorem test_bitwise :
    rgAfter (.and 5 6 7) [(6, 12), (7, 10)] 5 = 8 ∧
    rgAfter (.or 5 6 7) [(6, 12), (7, 10)] 5 = 14 ∧
    rgAfter (.xor 5 6 7) [(6, 12), (7, 10)] 5 = 6 ∧
    rgAfter (.andn 5 6 7) [(6, 12), (7, 10)] 5 = 4 ∧
    rgAfter (.orn 5 6 7) [(6, 12), (7, 10)] 5 = 0xFFFFFFFFFFFFFFFD := by decide +kernel

/-- R189 and its example: amounts modulo 64. -/
theorem test_shifts :
    rgAfter (.sra 5 6 7) [(6, 0x8000000000000000), (7, 63)] 5 = 0xFFFFFFFFFFFFFFFF ∧
    rgAfter (.shr 5 6 7) [(6, 0x8000000000000000), (7, 63)] 5 = 1 ∧
    rgAfter (.shl 5 6 7) [(6, 3), (7, 65)] 5 = 6 ∧
    rgAfter (.rot 5 6 7) [(6, 0x8000000000000001), (7, 1)] 5 = 3 := by decide +kernel

/-- R189: MIN and MAX are signed, MINW and MAXW unsigned. -/
theorem test_extremes :
    rgAfter (.min 5 6 7) [(6, 0xFFFFFFFFFFFFFFFF), (7, 1)] 5 = 0xFFFFFFFFFFFFFFFF ∧
    rgAfter (.max 5 6 7) [(6, 0xFFFFFFFFFFFFFFFF), (7, 1)] 5 = 1 ∧
    rgAfter (.minw 5 6 7) [(6, 0xFFFFFFFFFFFFFFFF), (7, 1)] 5 = 1 ∧
    rgAfter (.maxw 5 6 7) [(6, 0xFFFFFFFFFFFFFFFF), (7, 1)] 5 = 0xFFFFFFFFFFFFFFFF := by decide +kernel

/-- R191 and its example. -/
theorem test_bits :
    rgAfter (.bswp 5 6) [(6, 0x0102030405060708)] 5 = 0x0807060504030201 ∧
    rgAfter (.clz 5 6) [] 5 = 64 ∧
    rgAfter (.ctz 5 6) [(6, 8)] 5 = 3 ∧
    rgAfter (.popc 5 6) [(6, 0xFF01)] 5 = 9 ∧
    rgAfter (.brev 5 6) [(6, 1)] 5 = 0x8000000000000000 := by decide +kernel

/-- R192 and its example: BFX g5, g6, 12, 8 takes bits [19:12]. -/
theorem test_bit_fields :
    rgAfter (.bfx 5 6 12 7) [(6, 0xABCDE123)] 5 = 0xDE ∧
    rgAfter (.bfi 5 6 4 7) [(5, 0xFFFFFF), (6, 0x12)] 5 = 0xFFF12F ∧
    rgAfter (.exts 5 6 7) [(6, 0x80)] 5 = 0xFFFFFFFFFFFFFF80 ∧
    rgAfter (.extz 5 6 7) [(6, 0x1FF)] 5 = 0xFF := by decide +kernel

/-- R190, R193. -/
theorem test_immediates :
    rgAfter (.addi 5 6 0xFFF) [(6, 5)] 5 = 4 ∧
    rgAfter (.andi 5 6 0xFFF) [(6, 0x123456)] 5 = 0x123456 ∧
    rgAfter (.ori 5 6 1) [(6, 4)] 5 = 5 ∧
    rgAfter (.xori 5 6 0xFFF) [(6, 0)] 5 = 0xFFFFFFFFFFFFFFFF ∧
    rgAfter (.shli 5 6 4) [(6, 1)] 5 = 16 ∧
    rgAfter (.srai 5 6 4) [(6, 0x8000000000000000)] 5 = 0xF800000000000000 ∧
    rgAfter (.movlLiteral 5 0x123456789ABCDEF0) [] 5 = 0x123456789ABCDEF0 := by decide +kernel

/-- R195 to R197: a compare writes all ones or zeros; a write of p7 is discarded. -/
theorem test_predicates :
    rpAfter (.plt 1 6 7) [(6, 0xFFFFFFFFFFFFFFFF), (7, 0)] 1 = ones ∧
    rpAfter (.pltw 1 6 7) [(6, 0xFFFFFFFFFFFFFFFF), (7, 0)] 1 = 0 ∧
    rpAfter (.peq 7 6 7) [(6, 1)] 7 = ones ∧
    rpAfter (.pand 1 2 3) [] 1 [(2, 12), (3, 10)] = 8 ∧
    rpAfter (.pnot 1 2) [] 1 [(2, 1)] = 0xFFFFFFFFFFFFFFFE ∧
    rgAfter (.sel 5 6 7 1) [(6, 3), (7, 4)] 5 [(1, 2)] = 4 := by decide +kernel

/-- R194, R47: DIV leaves its old destination to the next LA instructions. -/
theorem test_divide_is_a_window :
    rgAfter (.div 8 9 10 3) [(8, 77), (9, 100), (10, 7)] 8 = 77 ∧
    after (exec (.div 8 9 10 3) (demo [(9, 0x8000000000000000), (10, 0xFFFFFFFFFFFFFFFF)])) 0 (fun t => ((t.me.pend.headD default).val).setWidth 64) = (0x8000000000000000 : Word) := by decide +kernel

/-- R198, R199: displacements count words from the instruction. -/
theorem test_branch_and_jump :
    after (exec (.br gt 0xFFFFE) (demo [])) 0 (fun t => t.pc - (demo []).pc) = (-8 : Word) ∧
    after (exec (.br gf 0xFFFFE) (demo [])) 0 (fun t => t.pc - (demo []).pc) = 4 ∧
    after (exec (.jalr 1 6 4) (demo [(6, 0x400001000)])) 0 (fun t => t.pc) = 0x400001004 := by decide +kernel

/-- R38, R201: a step fetches the word placed at the program counter, runs it and moves on by 4. -/
theorem test_nop_in_a_step :
    after (step (State.reset.withFetchWord 32 0x23000000)) 0 (fun t => (t.core 0).lv0.pc - fetchBase) = 4 := by decide +kernel

/-- R218 and its example: 2^24, 1, 1 and -2^24 are summed in a tree, which loses a one. -/
theorem test_vector_sum_of_lanes :
    rvAfter (.vrsum gt 1 false 3 4) [] [(4, 0xcb8000003f8000003f8000004b800000)] 3 &&& 0xFFFFFFFF = 0x3F800000 ∧
    flAfter (.vrsum gt 1 false 3 4) [(4, 0xcb8000003f8000003f8000004b800000)] = some (FFlags.mk false false false false true) := by decide +kernel

/-- R211: 1 + 2 and 1 - 2 in FP32 and BF16, 3 times 2 plus 1, and a quotient by zero raises DZ. -/
theorem test_vector_float :
    rvAfter (.vadd gt 1 0 false 3 4 5) [] [(4, 0x3f8000003f8000003f8000003f8000003f8000003f8000003f8000003f8000003f8000003f8000003f8000003f8000003f8000003f8000003f8000003f8000003f8000003f8000003f8000003f8000003f8000003f8000003f8000003f8000003f8000003f8000003f8000003f8000003f8000003f8000003f8000003f800000), (5, 0x4000000040000000400000004000000040000000400000004000000040000000400000004000000040000000400000004000000040000000400000004000000040000000400000004000000040000000400000004000000040000000400000004000000040000000400000004000000040000000400000004000000040000000)] 3 = 0x4040000040400000404000004040000040400000404000004040000040400000404000004040000040400000404000004040000040400000404000004040000040400000404000004040000040400000404000004040000040400000404000004040000040400000404000004040000040400000404000004040000040400000 ∧
    rvAfter (.vsub gt 2 0 false 3 4 5) [] [(4, 0x3f803f803f803f803f803f803f803f803f803f803f803f803f803f803f803f803f803f803f803f803f803f803f803f803f803f803f803f803f803f803f803f803f803f803f803f803f803f803f803f803f803f803f803f803f803f803f803f803f803f803f803f803f803f803f803f803f803f803f803f803f803f803f803f80), (5, 0x4000400040004000400040004000400040004000400040004000400040004000400040004000400040004000400040004000400040004000400040004000400040004000400040004000400040004000400040004000400040004000400040004000400040004000400040004000400040004000400040004000400040004000)] 3 = 0xbf80bf80bf80bf80bf80bf80bf80bf80bf80bf80bf80bf80bf80bf80bf80bf80bf80bf80bf80bf80bf80bf80bf80bf80bf80bf80bf80bf80bf80bf80bf80bf80bf80bf80bf80bf80bf80bf80bf80bf80bf80bf80bf80bf80bf80bf80bf80bf80bf80bf80bf80bf80bf80bf80bf80bf80bf80bf80bf80bf80bf80bf80bf80bf80 ∧
    rvAfter (.vfma gt 1 0 false 3 4 5 6) [] [(4, 0x4040000040400000404000004040000040400000404000004040000040400000404000004040000040400000404000004040000040400000404000004040000040400000404000004040000040400000404000004040000040400000404000004040000040400000404000004040000040400000404000004040000040400000), (5, 0x4000000040000000400000004000000040000000400000004000000040000000400000004000000040000000400000004000000040000000400000004000000040000000400000004000000040000000400000004000000040000000400000004000000040000000400000004000000040000000400000004000000040000000), (6, 0x3f8000003f8000003f8000003f8000003f8000003f8000003f8000003f8000003f8000003f8000003f8000003f8000003f8000003f8000003f8000003f8000003f8000003f8000003f8000003f8000003f8000003f8000003f8000003f8000003f8000003f8000003f8000003f8000003f8000003f8000003f8000003f800000)] 3 = 0x40e0000040e0000040e0000040e0000040e0000040e0000040e0000040e0000040e0000040e0000040e0000040e0000040e0000040e0000040e0000040e0000040e0000040e0000040e0000040e0000040e0000040e0000040e0000040e0000040e0000040e0000040e0000040e0000040e0000040e0000040e0000040e00000 ∧
    (after (exec (.vdiv gt 0 1 0 false 3 4 5) (demo [] [] [(4, 0x3f8000003f8000003f8000003f8000003f8000003f8000003f8000003f8000003f8000003f8000003f8000003f8000003f8000003f8000003f8000003f8000003f8000003f8000003f8000003f8000003f8000003f8000003f8000003f8000003f8000003f8000003f8000003f8000003f8000003f8000003f8000003f800000)])) none (fun t => some (t.me.pend.headD default).flags)) = some (FFlags.mk false true false false false) := by decide +kernel

/-- R219, R220: U8 lanes wrap or saturate. -/
theorem test_vector_integer :
    rvAfter (.viadd gt 13 false 3 4 5) [] [(4, 0xffffffffffffffffffffffffffffffffffffffffffffffffffffffffffffffffffffffffffffffffffffffffffffffffffffffffffffffffffffffffffffffffffffffffffffffffffffffffffffffffffffffffffffffffffffffffffffffffffffffffffffffffffffffffffffffffffffffffffffffffffffffffffffffff), (5, 0x202020202020202020202020202020202020202020202020202020202020202020202020202020202020202020202020202020202020202020202020202020202020202020202020202020202020202020202020202020202020202020202020202020202020202020202020202020202020202020202020202020202020202)] 3 = 0x101010101010101010101010101010101010101010101010101010101010101010101010101010101010101010101010101010101010101010101010101010101010101010101010101010101010101010101010101010101010101010101010101010101010101010101010101010101010101010101010101010101010101 ∧
    rvAfter (.viadd gt 13 true 3 4 5) [] [(4, 0xffffffffffffffffffffffffffffffffffffffffffffffffffffffffffffffffffffffffffffffffffffffffffffffffffffffffffffffffffffffffffffffffffffffffffffffffffffffffffffffffffffffffffffffffffffffffffffffffffffffffffffffffffffffffffffffffffffffffffffffffffffffffffffffff), (5, 0x202020202020202020202020202020202020202020202020202020202020202020202020202020202020202020202020202020202020202020202020202020202020202020202020202020202020202020202020202020202020202020202020202020202020202020202020202020202020202020202020202020202020202)] 3 = 0xffffffffffffffffffffffffffffffffffffffffffffffffffffffffffffffffffffffffffffffffffffffffffffffffffffffffffffffffffffffffffffffffffffffffffffffffffffffffffffffffffffffffffffffffffffffffffffffffffffffffffffffffffffffffffffffffffffffffffffffffffffffffffffffff ∧
    rvAfter (.vxor gt 13 3 4 5) [] [(4, 0xf0f0f0f0f0f0f0f0f0f0f0f0f0f0f0f0f0f0f0f0f0f0f0f0f0f0f0f0f0f0f0f0f0f0f0f0f0f0f0f0f0f0f0f0f0f0f0f0f0f0f0f0f0f0f0f0f0f0f0f0f0f0f0f0f0f0f0f0f0f0f0f0f0f0f0f0f0f0f0f0f0f0f0f0f0f0f0f0f0f0f0f0f0f0f0f0f0f0f0f0f0f0f0f0f0f0f0f0f0f0f0f0f0f0f0f0f0f0f0f0f0f0f0f0f0f0f0f0), (5, 0xffffffffffffffffffffffffffffffffffffffffffffffffffffffffffffffffffffffffffffffffffffffffffffffffffffffffffffffffffffffffffffffffffffffffffffffffffffffffffffffffffffffffffffffffffffffffffffffffffffffffffffffffffffffffffffffffffffffffffffffffffffffffffffffff)] 3 = 0xf0f0f0f0f0f0f0f0f0f0f0f0f0f0f0f0f0f0f0f0f0f0f0f0f0f0f0f0f0f0f0f0f0f0f0f0f0f0f0f0f0f0f0f0f0f0f0f0f0f0f0f0f0f0f0f0f0f0f0f0f0f0f0f0f0f0f0f0f0f0f0f0f0f0f0f0f0f0f0f0f0f0f0f0f0f0f0f0f0f0f0f0f0f0f0f0f0f0f0f0f0f0f0f0f0f0f0f0f0f0f0f0f0f0f0f0f0f0f0f0f0f0f0f0f0f0f0f := by decide +kernel

/-- R221, R222: VINS and VEXT take the lane modulo the lane count. -/
theorem test_vector_moves :
    after (exec (.vsplat gt 1 3 6) (demo [(6, 7)])) 0 (fun t => t.rv 3) = 0x700000007000000070000000700000007000000070000000700000007000000070000000700000007000000070000000700000007000000070000000700000007000000070000000700000007000000070000000700000007000000070000000700000007000000070000000700000007000000070000000700000007 ∧
    after (exec (.vins gt 1 3 6 7) (demo [(6, 9), (7, 33)])) 0 (fun t => t.rv 3) = 0x900000000 ∧
    after (exec (.vext gt 1 6 3 7) (demo [(7, 33)] [] [(3, 0x900000000)])) 0 (fun t => t.rg 6) = 9 ∧
    rvAfter (.vmov gf 1 3 4) [] [(3, 5), (4, 6)] 3 = 5 := by decide +kernel

/-- R400, R407 to R410: TRAP and BKPT take the trap with their causes, and a misaligned load reports its address. -/
theorem test_traps_precisely :
    trapAfter (.trap 5) [] = (0x0E, 5) ∧
    trapAfter (.bkpt 5) [] = (0x0D, 5) ∧
    trapAfter (.ldd 5 6 0 .df 1) [(6, 0xFF00000000000004)] = (0x04, 0xFF0000000000000C) := by decide +kernel

/-- R234 and its worked example: the same products in other places of K give 3 exactly, or 1 with NX. -/
theorem test_matrix_tree_decides_the_bits :
    mmaCell 2 false true 0x3f80c5800000000000000000000000000000000000000000000000003f803f8000004580 0 0x3f8045800000000000000000000000000000000000000000000000003f803f8000004580 0 0 = (0x40400000, FFlags.mk false false false false false) ∧
    mmaCell 2 false true 0x3f80c58000000000000000000000000000000000000000000000000000003f803f804580 0 0x3f80458000000000000000000000000000000000000000000000000000003f803f804580 0 0 = (0x3F800000, FFlags.mk false false false false true) := by decide +kernel

/-- R107 and the worked example of 04: a weight 1 with gradient 1 becomes 8,183/8,192. -/
theorem test_fade :
    nmElem { op := 2, ty := 1, a0 := 0x3A800000, slot := (fadeFactor { a0 := 0x3A800000, a1 := 0x3E000000 }).1 } 0x3F800000 0x3F800000 = (0x3F7FB800, FFlags.mk false false false false false) := by decide +kernel

/-- R3 and R95: tile (9, 5) is 89, on die 1 in quadrant 2; PA 0x4_0000_0100 is held in stack 1. -/
theorem test_places_of_tiles_and_lines :
    tileX 89 = 9 ∧ tileY 89 = 5 ∧
    dieOf 89 = 1 ∧ quadOf 89 = 2 ∧
    homeDie 0x400000100 = 0 ∧ stackOf 0x400000100 = 1 := by decide +kernel

/-- R334 and the worked example of 18: four samples of a loop. -/
theorem test_stream_samples :
    ((QReg.sample { prod := false, st := .bound, kp := 32, ki := 8, setp := 16, wp0 := 192, wc0 := 192, tail := 24, integ := 0, stall := false }).integ, (QReg.sample { prod := false, st := .bound, kp := 32, ki := 8, setp := 16, wp0 := 192, wc0 := 192, tail := 24, integ := 0, stall := false }).wp, (QReg.sample { prod := false, st := .bound, kp := 32, ki := 8, setp := 16, wp0 := 192, wc0 := 192, tail := 24, integ := 0, stall := false }).wc) = (8, 191, 193) ∧
    ((QReg.sample { prod := false, st := .bound, kp := 32, ki := 8, setp := 16, wp0 := 192, wc0 := 192, tail := 40, integ := 8, stall := false }).integ, (QReg.sample { prod := false, st := .bound, kp := 32, ki := 8, setp := 16, wp0 := 192, wc0 := 192, tail := 40, integ := 8, stall := false }).wp, (QReg.sample { prod := false, st := .bound, kp := 32, ki := 8, setp := 16, wp0 := 192, wc0 := 192, tail := 40, integ := 8, stall := false }).wc) = (32, 188, 196) ∧
    ((QReg.sample { prod := false, st := .bound, kp := 32, ki := 8, setp := 16, wp0 := 192, wc0 := 192, tail := 0, integ := 32, stall := true }).integ, (QReg.sample { prod := false, st := .bound, kp := 32, ki := 8, setp := 16, wp0 := 192, wc0 := 192, tail := 0, integ := 32, stall := true }).wp, (QReg.sample { prod := false, st := .bound, kp := 32, ki := 8, setp := 16, wp0 := 192, wc0 := 192, tail := 0, integ := 32, stall := true }).wc) = (32, 193, 191) ∧
    ((QReg.sample { prod := false, st := .bound, kp := 32, ki := 8, setp := 16, wp0 := 192, wc0 := 192, tail := 10, integ := 32, stall := false }).integ, (QReg.sample { prod := false, st := .bound, kp := 32, ki := 8, setp := 16, wp0 := 192, wc0 := 192, tail := 10, integ := 32, stall := false }).wp, (QReg.sample { prod := false, st := .bound, kp := 32, ki := 8, setp := 16, wp0 := 192, wc0 := 192, tail := 10, integ := 32, stall := false }).wc) = (26, 192, 192) := by decide +kernel

end Sys2Proof
end

section
/-!
SUPPORT. Bytes of numbers: their count, and the number that they hold.
-/

namespace Sys2Proof.Machine

open Sys2Proof

@[simp] theorem length_bytesOf (n x : Nat) : (bytesOf n x).length = n := by
  induction n generalizing x with
  | zero => rfl
  | succ n ih => rw [bytesOf, List.length_cons, ih]

theorem ofBytes_bytesOf (n x : Nat) : ofBytes (bytesOf n x) = x % 2 ^ (8 * n) := by
  induction n generalizing x with
  | zero => simp [bytesOf, ofBytes, Nat.mod_one]
  | succ n ih =>
    rw [bytesOf, ofBytes, ih, BitVec.toNat_ofNat, Nat.mul_succ, Nat.add_comm (8 * n), Nat.pow_add, Nat.mod_mul]

theorem ofBytes_bytesOf_lt {n x : Nat} (h : x < 2 ^ (8 * n)) : ofBytes (bytesOf n x) = x := by
  rw [ofBytes_bytesOf, Nat.mod_eq_of_lt h]

theorem ofBytes_bytesOf_toNat {w n : Nat} (x : BitVec w) (h : w = 8 * n) : ofBytes (bytesOf n x.toNat) = x.toNat := by
  subst h
  exact ofBytes_bytesOf_lt x.isLt

theorem bytesOf_zero (n : Nat) : bytesOf n 0 = List.replicate n 0 := by
  induction n with
  | zero => rfl
  | succ n ih => rw [bytesOf, List.replicate_succ, Nat.zero_div, ih]; rfl

theorem readBytes_lt (m : SMap Byte) (a n : Nat) : readBytes m a n < 2 ^ (8 * n) := by
  induction n generalizing a with
  | zero => simp [readBytes]
  | succ n ih =>
    have hb := (m.get 0 a).isLt
    have hr := ih (a + 1)
    rw [readBytes, Nat.mul_succ, Nat.pow_add]
    omega

@[simp] theorem length_bytesBE (n x : Nat) : (bytesBE n x).length = n := by
  rw [bytesBE, List.length_reverse, length_bytesOf]

@[simp] theorem reverse_bytesBE (n x : Nat) : (bytesBE n x).reverse = bytesOf n x := List.reverse_reverse _

/-- A field of a record lies behind the fields before it. -/
theorem take_drop_flatten {α : Type} {fs : List (List α)} {i : Nat} {f : List α} (h : fs[i]? = some f) :
    (fs.flatten.drop ((fs.map List.length).take i).sum).take f.length = f := by
  induction fs generalizing i with
  | nil => simp at h
  | cons g fs ih =>
    cases i with
    | zero =>
      obtain rfl : g = f := by simpa using h
      simp
    | succ i =>
      rw [List.flatten_cons, List.map_cons, List.take_succ_cons, List.sum_cons, List.drop_append,
        List.drop_of_length_le (Nat.le_add_right _ _), Nat.add_sub_cancel_left, List.nil_append]
      exact ih (by simpa using h)

end Sys2Proof.Machine
end

section
/-!
SUPPORT. Registers of system space: what a write leaves in the register written, who reaches a register, and what a
REGISTER_WRITE comes to.
-/

namespace Sys2Proof.Machine

open Sys2Proof

variable (s : State)

/-! ## Who reaches a register -/

theorem State.serves_iff (f : Bool) : s.serves f = true ↔
    (s.sys.recovery = true ∧ f = false) ∨
    (s.sys.recovery = false ∧ 5 ≤ s.sys.bustat ∧ (f = true → s.sys.function1 = true)) := by
  unfold State.serves
  cases s.sys.recovery <;> cases f <;> simp

theorem SysReg.inBar0_iff (r : SysReg) : r.inBar0 = true ↔
    (∀ d n k, r ≠ .fwin d n k) ∧ (∀ n, r ≠ .hbmerr n) ∧ (∀ n, r ≠ .asidroot n) ∧ ∀ n k, r ≠ .coreReg n k := by
  cases r <;> simp [SysReg.inBar0]

theorem SysReg.inRecovery_iff (r : SysReg) : r.inRecovery = true ↔ r = .bustat ∨ r = .fwstat := by
  cases r <;> simp [SysReg.inRecovery]

/-- R426, R428: in recovery function 0 reaches the bring-up status alone; else an exposed function what BAR0 maps. -/
theorem State.reaches_host_iff (f : Bool) (r : SysReg) : s.reaches (.host f) r = true ↔
    (s.sys.recovery = true ∧ f = false ∧ r.inRecovery = true) ∨
    (s.sys.recovery = false ∧ 5 ≤ s.sys.bustat ∧ (f = true → s.sys.function1 = true) ∧ r.inBar0 = true) := by
  unfold State.reaches
  rw [Bool.and_eq_true, s.serves_iff]
  cases s.sys.recovery <;> simp [and_assoc]

theorem State.atReg_reached {who : Requester} {r : SysReg} (h : s.reaches who r = true) (go : State) :
    s.atReg who r go = go := if_pos h

theorem State.atReg_unreached {who : Requester} {r : SysReg} (h : s.reaches who r = false) (go : State) :
    s.atReg who r go = s.unsupported := if_neg (by simp [h])

/-! ## REGISTER_WRITE -/

/-- A write where no register stands changes nothing, but that a host is answered as unsupported (log entry 7). -/
theorem exec_registerWrite_none {off : BitVec 64} (h : sysReg? off.toNat = none) (who : Requester) (val : BitVec 64) :
    exec (.registerWrite who off val) s = .next (if ∃ b, who = .host b then s.unsupported else s) := by
  show execRegisterWrite who off val s = _
  unfold execRegisterWrite
  simp only [h]
  cases who <;> simp

theorem exec_registerWrite_some {off : BitVec 64} {r : SysReg} (h : sysReg? off.toNat = some r) (who : Requester)
    (val : BitVec 64) :
    exec (.registerWrite who off val) s = .next (s.atReg who r ((s.regWrite who.secure r val).getD s)) := by
  show execRegisterWrite who off val s = _
  unfold execRegisterWrite
  simp only [h]

/-! ## What a write leaves in the register -/

theorem State.core_updCore (k : Nat) (f : Core → Core) : (s.updCore k f).core k = f (s.core k) :=
  s.core_setCore_same k _

theorem State.regWrite_trapReg (sec : Bool) (ck : Nat) {k : Nat} (h : k < 4) (x : Word) :
    (s.regWrite sec (.coreReg ck k) x).map (fun t => t.regValue (.coreReg ck k)) =
      some (((s.core ck).writeTrapReg k x).readTrapReg k) := by
  simp only [State.regWrite, State.regValue, if_pos h, Option.map_some, State.core_updCore]

theorem State.regWrite_asidroot (sec : Bool) (a : Nat) (x : Word) :
    (s.regWrite sec (.asidroot a) x).map (fun t => t.regValue (.asidroot a)) = some (x &&& 0xFFFFFFFF0001) := by
  simp only [State.regWrite, State.regValue, Option.map_some, SMap.get_set, if_true]

theorem State.regWrite_route (p w : Nat) (x : Word) :
    (s.regWrite true (.route p w) x).map (fun t => t.regValue (.route p w)) =
      some (if w = 0 then x else word (16 * bit (bitAt x 4) + fld x 0 4)) := by
  have hout : (BitVec.ofNat 4 (fld x 0 4)).toNat = fld x 0 4 := Nat.mod_mod _ _
  unfold State.regWrite State.regValue
  simp only [Bool.not_true, Bool.false_eq_true, if_false, Option.map_some, SMap.get_put_same]
  split
  · rfl
  · rw [hout]

/-- V and OUT stand in the low five bits (R435). -/
theorem routeFields_eq (x : Word) : word (16 * bit (bitAt x 4) + fld x 0 4) = x &&& 0x1F := by
  apply BitVec.eq_of_toNat_eq
  have hb : bit (bitAt x 4) = x.toNat / 16 % 2 := by
    rw [bitAt, BitVec.getLsbD, Nat.testBit_eq_decide_div_mod_eq]
    rcases Nat.mod_two_eq_zero_or_one (x.toNat / 16) with h | h <;> simp [bit, h]
  have hm : (x &&& 0x1F).toNat = x.toNat % 32 := by
    rw [BitVec.toNat_and]
    exact Nat.and_two_pow_sub_one_eq_mod x.toNat 5
  rw [hm, hb, word, BitVec.toNat_ofNat, fld]
  omega

theorem State.regWrite_pkgid (x : Word) :
    (s.regWrite true .pkgid x).map (fun t => t.regValue .pkgid) =
      some (if fld x 0 16 = 0xFFFF then s.regValue .pkgid else x &&& 0xFFFF) := by
  by_cases h : fld x 0 16 = 0xFFFF <;> simp [State.regWrite, State.regValue, h]

/-! ## Registers that are read only, and write only -/

/-- The registers of which no field can be written (R9). -/
def SysReg.readOnly : SysReg → Bool
  | .prestat | .vlogEnt _ _ _ | .wear _ | .withheld _ | .bustat | .fwstat | .attstat | .quote _ => true
  | .chan _ k => k == 2
  | _ => false

/-- The registers that read zero (R9). -/
def SysReg.writeOnly : SysReg → Bool
  | .cancel | .precmd | .attcmd => true
  | .coreReg _ k => decide (4 ≤ k)
  | _ => false

theorem State.regWrite_readOnly (sec : Bool) {r : SysReg} (h : r.readOnly = true) (x : Word) :
    s.regWrite sec r x = some s := by
  cases r with
  | prestat | vlogEnt _ _ _ | wear _ | withheld _ | bustat | fwstat | attstat | quote _ => rfl
  | chan c k =>
    obtain rfl : k = 2 := eq_of_beq h
    simp only [State.regWrite, State.writeChan, ite_self]
  | _ => simp [SysReg.readOnly] at h

theorem State.regValue_writeOnly {r : SysReg} (h : r.writeOnly = true) : s.regValue r = 0 := by
  cases r with
  | cancel | precmd | attcmd => rfl
  | coreReg ck k => exact if_neg (Nat.not_lt.mpr (of_decide_eq_true h))
  | _ => simp [SysReg.writeOnly] at h

/-! ## Where the registers lie

The map tests one block after the other: the tests before a register's own block fail, and the offset within the block
gives its numbers. -/

section
variable {d n k t c i p : Nat}

theorem sysReg?_fwin (hd : d < 2) (hn : n < 16) (hk : k < 4) :
    sysReg? (0x1000000 + 0x1000000 * d + 0x1000 + 32 * n + 8 * k) = some (.fwin d n k) := by
  have hreg : (0x1000000 + 0x1000000 * d + 0x1000 + 32 * n + 8 * k) % 0x1000000 = 0x1000 + 32 * n + 8 * k := by omega
  unfold sysReg?
  rw [if_neg (by omega), if_pos (by omega)]
  simp only [hreg]
  rw [if_pos (by omega), Option.some_inj, SysReg.fwin.injEq]
  omega

theorem sysReg?_hbmerr (hn : n < 8) : sysReg? (0x4000000 + 0x1000 * n) = some (.hbmerr n) := by
  unfold sysReg?
  iterate 2 rw [if_neg (by omega)]
  rw [if_pos (by omega), if_pos (by omega), Option.some_inj, SysReg.hbmerr.injEq]
  omega

theorem sysReg?_coreReg (ht : t < 128) (hc : c < 64) (hi : i < 6) :
    sysReg? (0x5000000 + 0x10000 * t + 0x100 * c + 8 * i) = some (.coreReg (64 * t + c) i) := by
  have hreg : 0x5000000 + 0x10000 * t + 0x100 * c + 8 * i - 0x5000000 = 0x10000 * t + 0x100 * c + 8 * i := by omega
  unfold sysReg?
  iterate 3 rw [if_neg (by omega)]
  rw [if_pos (by omega)]
  simp only [hreg]
  rw [if_pos (by omega), Option.some_inj, SysReg.coreReg.injEq]
  omega

theorem sysReg?_chan (hn : n < 16) (hi : i < 5) : sysReg? (0x6000000 + 0x40 * n + 8 * i) = some (.chan n i) := by
  unfold sysReg?
  iterate 4 rw [if_neg (by omega)]
  rw [if_pos (by omega), if_pos (by omega), Option.some_inj, SysReg.chan.injEq]
  omega

theorem sysReg?_asidroot (hn : n < 4096) : sysReg? (0x7000000 + 8 * n) = some (.asidroot n) := by
  unfold sysReg?
  iterate 9 rw [if_neg (by omega)]
  rw [if_pos (by omega), Option.some_inj, SysReg.asidroot.injEq]
  omega

theorem sysReg?_rbase (hd : d < 2) (hn : n < 64) : sysReg? (0x8000000 + 0x10000 * d + 16 * n) = some (.rbase d n) := by
  unfold sysReg?
  iterate 10 rw [if_neg (by omega)]
  rw [if_pos (by omega), if_pos (by omega), if_pos (by omega), Option.some_inj, SysReg.rbase.injEq]
  omega

theorem sysReg?_rlim (hd : d < 2) (hn : n < 64) : sysReg? (0x8000000 + 0x10000 * d + 16 * n + 8) = some (.rlim d n) := by
  unfold sysReg?
  iterate 10 rw [if_neg (by omega)]
  rw [if_pos (by omega), if_pos (by omega), if_neg (by omega), Option.some_inj, SysReg.rlim.injEq]
  omega

theorem sysReg?_vlogCtl (hd : d < 2) : sysReg? (0x8001000 + 0x10000 * d) = some (.vlogCtl d) := by
  unfold sysReg?
  iterate 10 rw [if_neg (by omega)]
  rw [if_pos (by omega), if_neg (by omega), if_pos (by omega), Option.some_inj, SysReg.vlogCtl.injEq]
  omega

theorem sysReg?_vlogEnt (hd : d < 2) (hn : n < 32) (hi : i < 2) :
    sysReg? (0x8001100 + 0x10000 * d + 16 * n + 8 * i) = some (.vlogEnt d n i) := by
  unfold sysReg?
  iterate 10 rw [if_neg (by omega)]
  rw [if_pos (by omega), if_neg (by omega), if_neg (by omega), if_pos (by omega), Option.some_inj, SysReg.vlogEnt.injEq]
  omega

theorem sysReg?_link (hi : i < 2) : sysReg? (0x8020000 + 8 * i) = some (.link i) := by
  unfold sysReg?
  iterate 11 rw [if_neg (by omega)]
  rw [if_pos (by omega), Option.some_inj, SysReg.link.injEq]
  omega

theorem sysReg?_port (hn : n < 16) : sysReg? (0x8020100 + 8 * n) = some (.port n) := by
  unfold sysReg?
  iterate 12 rw [if_neg (by omega)]
  rw [if_pos (by omega), Option.some_inj, SysReg.port.injEq]
  omega

theorem sysReg?_wear (hn : n < 112) : sysReg? (0x8030000 + 8 * n) = some (.wear n) := by
  unfold sysReg?
  iterate 13 rw [if_neg (by omega)]
  rw [if_pos (by omega), Option.some_inj, SysReg.wear.injEq]
  omega

theorem sysReg?_withheld (hi : i < 2) : sysReg? (0x8040000 + 8 * i) = some (.withheld i) := by
  match i, hi with
  | 0, _ => rfl
  | 1, _ => rfl

theorem sysReg?_nonce (hn : n < 6) : sysReg? (0x8050000 + 8 * n) = some (.nonce n) := by
  unfold sysReg?
  iterate 18 rw [if_neg (by omega)]
  rw [if_pos (by omega), Option.some_inj, SysReg.nonce.injEq]
  omega

theorem sysReg?_quote (hn : n < 32) : sysReg? (0x8050100 + 8 * n) = some (.quote n) := by
  unfold sysReg?
  iterate 21 rw [if_neg (by omega)]
  rw [if_pos (by omega), Option.some_inj, SysReg.quote.injEq]
  omega

theorem sysReg?_route (hp : p < 65535) (hi : i < 2) : sysReg? (0x8100000 + 16 * p + 8 * i) = some (.route p i) := by
  unfold sysReg?
  iterate 22 rw [if_neg (by omega)]
  rw [if_pos (by omega), Option.some_inj, SysReg.route.injEq]
  omega

end

/-! ## After reset -/

theorem reset_regValue_fwin (d n k : Nat) : State.reset.regValue (.fwin d n k) = 0 := by
  show (if k = 0 then (0 : Word) else if k = 1 then 0 else if k = 2 then 0 else 0) = 0
  simp only [ite_self]

theorem reset_regValue_chan (c k : Nat) : State.reset.regValue (.chan c k) = 0 := by
  show (if k = 0 then (0 : Word) else if k = 1 then 0 else if k = 2 then 0 else if k = 3 then 0 else 0) = 0
  simp only [ite_self]

theorem reset_readTrapReg (k : Nat) : ({} : Core).readTrapReg k = 0 := by
  unfold Core.readTrapReg
  split <;> rfl

theorem reset_regValue_coreReg (ck k : Nat) : State.reset.regValue (.coreReg ck k) = 0 := by
  show (if k < 4 then ({} : Core).readTrapReg k else 0) = 0
  rw [reset_readTrapReg, ite_self]

/-- A link or port that has not been trained is down, and has counted no error (R430). -/
theorem freshLink_status : ({} : Link).status = 3 := by decide

theorem reset_regValue_vlogCtl (d : Nat) : State.reset.regValue (.vlogCtl d) = 0 := by
  show word (({} : VLog).total.toNat * 2 ^ 32 + ({} : VLog).next) = 0
  decide

end Sys2Proof.Machine
end

section
/-!
SUPPORT. Host accesses through BAR2 and BAR0, and the attestation quote.
-/

namespace Sys2Proof.Machine

open Sys2Proof

variable (s : State)

/-! ## Accesses of a requester that stands at no tile -/

section
variable {s} {r : Rqst} {kind pa n x : Nat} {hint : Hint}

theorem engRead_refused (h : s.refuses r.secure pa n = true) :
    s.engRead false r kind pa n hint = (.refused, s.logRefusal pa kind r) := by
  simp [State.engRead, State.engWay, h]

theorem engRead_served (h : s.refuses r.secure pa n = false) (hf : s.free (lineOf pa) false = true) :
    s.engRead false r kind pa n hint =
      (.ok (s.lineRead pa n hint).1 (s.lineRead pa n hint).2.1, (s.lineRead pa n hint).2.2) := by
  simp [State.engRead, State.engWay, h, hf]

theorem engWrite_refused (h : s.refuses r.secure pa n = true) :
    s.engWrite false r kind pa n x hint = (.refused, s.logRefusal pa kind r) := by
  simp [State.engWrite, State.engWay, h]

theorem engWrite_readOnly (h : s.refuses r.secure pa n = false) (hv : s.viewReadOnly (lineOf pa) = true) :
    s.engWrite false r kind pa n x hint = (.refused, s) := by
  simp [State.engWrite, State.engWay, h, hv]

theorem engWrite_served (h : s.refuses r.secure pa n = false) (hv : s.viewReadOnly (lineOf pa) = false)
    (hh : isHost pa = false) (hf : s.free (lineOf pa) true = true) :
    s.engWrite false r kind pa n x hint = (.ok 0 (s.lineWrite pa n x hint).1, (s.lineWrite pa n x hint).2) := by
  simp [State.engWrite, State.engWay, h, hv, hh, hf]

end

/-! ## BAR2 within one line -/

section
variable {s} {r : Rqst} {pa n : Nat} (hn : 0 < n) (hl : pa % 128 + n ≤ 128)
include hn

theorem bar2Load_wait (h : s.bridge 0 (homeDie pa) = .wait) : s.bar2Load r pa n (lineFuel n) = (none, s, true) := by
  simp [lineFuel, State.bar2Load, h, Nat.ne_of_gt hn]

theorem bar2Load_dead (h : s.bridge 0 (homeDie pa) = .dead) : s.bar2Load r pa n (lineFuel n) = (none, s, false) := by
  simp [lineFuel, State.bar2Load, h, Nat.ne_of_gt hn]

theorem bar2Store_wait (h : s.bridge 0 (homeDie pa) = .wait) (x : Nat) :
    s.bar2Store r pa n x (lineFuel n) = (s, true) := by
  simp [lineFuel, State.bar2Store, h, Nat.ne_of_gt hn]

include hl

theorem bar2Store_dead (h : s.bridge 0 (homeDie pa) = .dead) (x : Nat) :
    s.bar2Store r pa n x (lineFuel n) = (s, false) := by
  have hk : min n (128 - pa % 128) = n := by omega
  simp [lineFuel, State.bar2Store, h, hk, Nat.ne_of_gt hn]

theorem bar2Load_refused (h : s.bridge 0 (homeDie pa) = .clear) {t : State}
    (he : s.engRead false r kLoad pa n .df = (.refused, t)) : s.bar2Load r pa n (lineFuel n) = (none, t, false) := by
  have hk : min n (128 - pa % 128) = n := by omega
  simp [lineFuel, State.bar2Load, h, hk, Nat.ne_of_gt hn, he]

theorem bar2Load_ok (h : s.bridge 0 (homeDie pa) = .clear) {t : State} {x : Nat} {p : Bool}
    (he : s.engRead false r kLoad pa n .df = (.ok x p, t)) :
    s.bar2Load r pa n (lineFuel n) = (some (if p then (0, true) else (x, false)), t, false) := by
  have hk : min n (128 - pa % 128) = n := by omega
  simp [lineFuel, State.bar2Load, h, hk, Nat.ne_of_gt hn, he]

theorem bar2Store_clear (h : s.bridge 0 (homeDie pa) = .clear) {t : State} {a : EngRes} {x : Nat}
    (he : s.engWrite false r kStore pa n (x % 2 ^ (8 * n)) .df = (a, t)) (ha : a ≠ .wait) :
    s.bar2Store r pa n x (lineFuel n) = (t, false) := by
  have hk : min n (128 - pa % 128) = n := by omega
  simp only [lineFuel, State.bar2Store, h, hk, Nat.ne_of_gt hn, he, if_false, Nat.sub_self]
  cases a with
  | wait => exact absurd rfl ha
  | _ => rfl

end

/-! ## HOST_ACCESS -/

/-- The requester that a host access is. -/
def hostRqst (h : HostReq) : Rqst := { host := true, secure := h.function1 }

/-- What BAR2 serves (R428; log entry 41). -/
structure State.Bar2Serves (s : State) (h : HostReq) : Prop where
  up : 5 ≤ s.sys.bustat
  working : s.sys.recovery = false
  exposed : h.function1 = true → s.sys.function1 = true
  backed : h.pa + h.n ≤ 2 ^ 39
  short : h.n ≤ 4096

section
variable {s} {h : HostReq}

theorem exec_hostAccess_bar0 (h0 : h.bar0 = true) : exec (.hostAccess h) s = .next (s.bar0 h) := by
  show execHostAccess h s = _
  unfold execHostAccess
  rw [if_pos h0]

theorem bar0_unsupported (hbad : sysReg? h.pa = none ∨ h.n ≠ 8) : s.bar0 h = s.unsupported := by
  unfold State.bar0
  cases hr : sysReg? h.pa with
  | none => rfl
  | some r => exact if_pos (hbad.resolve_left (by simp [hr]))

theorem bar0_register {r : SysReg} (hr : sysReg? h.pa = some r) (hn : h.n = 8) :
    s.bar0 h = s.atReg (.host h.function1) r
      (if h.write then (s.regWrite h.function1 r (word h.data)).getD s
       else s.updSys (fun y => { y with hostAns := some ((s.regValue r).toNat, false) })) := by
  unfold State.bar0
  simp only [hr]
  exact if_neg (not_not.mpr hn)

theorem bar2Serves_iff : s.Bar2Serves h ↔
    (!s.serves h.function1 || s.sys.recovery || decide (hbmTop < h.pa + h.n) || decide (4096 < h.n)) = false := by
  simp only [Bool.or_eq_false_iff, Bool.not_eq_false', decide_eq_false_iff_not, not_lt, s.serves_iff]
  constructor
  · rintro ⟨up, working, exposed, backed, short⟩
    exact ⟨⟨⟨.inr ⟨working, up, exposed⟩, working⟩, backed⟩, short⟩
  · rintro ⟨⟨⟨⟨recovery, -⟩ | ⟨-, up, exposed⟩, working⟩, backed⟩, short⟩
    · simp [working] at recovery
    · exact ⟨up, working, exposed, backed, short⟩

theorem exec_hostAccess_unserved (h0 : h.bar0 = false) (hs : ¬s.Bar2Serves h) :
    exec (.hostAccess h) s = .next s.unsupported := by
  rw [bar2Serves_iff, Bool.not_eq_false] at hs
  show execHostAccess h s = _
  unfold execHostAccess
  simp only [h0, hs]
  rfl

section
variable (h0 : h.bar0 = false) (hs : s.Bar2Serves h)
include h0 hs

theorem exec_hostAccess_store (hw : h.write = true) {t : State}
    (hb : s.bar2Store (hostRqst h) h.pa h.n h.data (lineFuel h.n) = (t, false)) : exec (.hostAccess h) s = .next t := by
  show execHostAccess h s = _
  rw [hostRqst] at hb
  simp [execHostAccess, h0, bar2Serves_iff.mp hs, hw, hb]

theorem exec_hostAccess_store_waits (hw : h.write = true) {t : State}
    (hb : s.bar2Store (hostRqst h) h.pa h.n h.data (lineFuel h.n) = (t, true)) : exec (.hostAccess h) s = .next s := by
  show execHostAccess h s = _
  rw [hostRqst] at hb
  simp [execHostAccess, h0, bar2Serves_iff.mp hs, hw, hb]

theorem exec_hostAccess_load (hw : h.write = false) {t : State} {a : Option (Nat × Bool)}
    (hb : s.bar2Load (hostRqst h) h.pa h.n (lineFuel h.n) = (a, t, false)) :
    exec (.hostAccess h) s = .next { t with sys := { t.sys with hostAns := a } } := by
  show execHostAccess h s = _
  rw [hostRqst] at hb
  simp [execHostAccess, h0, bar2Serves_iff.mp hs, hw, hb, State.updSys]

theorem exec_hostAccess_load_waits (hw : h.write = false) {t : State} {a : Option (Nat × Bool)}
    (hb : s.bar2Load (hostRqst h) h.pa h.n (lineFuel h.n) = (a, t, true)) : exec (.hostAccess h) s = .next s := by
  show execHostAccess h s = _
  rw [hostRqst] at hb
  simp [execHostAccess, h0, bar2Serves_iff.mp hs, hw, hb]

end

end

/-! ## The quote -/

/-- The fields of a quote (R427): the version, the SVN, the serial number, the nonce, the digest, the withheld mask, zeros,
and the two halves of the signature over what stands before it. -/
def State.quoteFields (s : State) : List (List Byte) :=
  let sig := (Config.quoteSignature s.quoteBody).toNat
  [bytesOf 2 1 ++ bytesOf 2 0, bytesOf 4 s.sys.svn.toNat, bytesOf 8 Config.serial.toNat,
    bytesOf 48 (readBytes s.sys.nonce 0 48), bytesBE 48 (Config.firmwareDigest s.sys.svn).toNat,
    bytesOf 16 s.sys.withheld.toNat, bytesOf 32 0, bytesBE 48 (sig / 2 ^ 384), bytesBE 48 sig]

theorem State.flatten_quoteFields : s.quoteFields.flatten =
    s.quoteBody ++ bytesBE 48 ((Config.quoteSignature s.quoteBody).toNat / 2 ^ 384) ++
      bytesBE 48 (Config.quoteSignature s.quoteBody).toNat := by
  simp only [quoteFields, quoteBody, List.flatten_cons, List.flatten_nil, List.append_nil, List.append_assoc]

theorem State.length_quoteBody : s.quoteBody.length = 160 := by
  simp only [quoteBody, List.length_append, length_bytesOf, length_bytesBE]

theorem State.length_quote : s.quoteFields.flatten.length = 256 := by
  rw [flatten_quoteFields]
  simp only [List.length_append, length_quoteBody, length_bytesBE]

/-- The lengths of the fields place them (R427). -/
theorem State.lengths_quoteFields : s.quoteFields.map List.length = [4, 4, 8, 48, 48, 16, 32, 48, 48] := by
  simp only [quoteFields, List.map_cons, List.map_nil, List.length_append, length_bytesOf, length_bytesBE]

theorem exec_attestDone_making (h : s.sys.attstat = 1) : exec .attestDone s =
    .next { s with sys := { s.sys with attstat := 2, quote := s.quoteFields.flatten } } := by
  rw [s.flatten_quoteFields]
  show execAttestDone s = _
  unfold execAttestDone
  rw [if_neg (not_not.mpr h)]
  rfl

theorem exec_attestDone_idle (h : s.sys.attstat ≠ 1) : exec .attestDone s = .next s := by
  show execAttestDone s = _
  unfold execAttestDone
  rw [if_pos h]

theorem exec_attcmd (val : BitVec 64) : exec (.attcmd val) s = .next (s.writeAttcmd val) := rfl

/-- A signature is its two halves, each of 48 bytes. -/
theorem signature_halves (sig : BitVec 768) :
    ofBytes (bytesOf 48 (sig.toNat / 2 ^ 384)) * 2 ^ 384 + ofBytes (bytesOf 48 sig.toNat) = sig.toNat := by
  have hlt : sig.toNat / 2 ^ 384 < 2 ^ (8 * 48) :=
    Nat.div_lt_of_lt_mul (by rw [← Nat.pow_add, show 384 + 8 * 48 = 768 from rfl]; exact sig.isLt)
  rw [ofBytes_bytesOf_lt hlt, ofBytes_bytesOf, show 8 * 48 = 384 from rfl]
  exact Nat.div_add_mod' sig.toNat (2 ^ 384)

/-- Bytes `o` to `o + n - 1` of a quote. -/
def State.quotePart (s : State) (o n : Nat) : List Byte := (s.quoteFields.flatten.drop o).take n

/-- The signature is over the bytes that stand before it. -/
theorem State.quotePart_body : s.quotePart 0 160 = s.quoteBody := by
  rw [quotePart, List.drop_zero, flatten_quoteFields, List.append_assoc, List.take_left' s.length_quoteBody]

/-- Field `i` of a quote lies behind those before it. -/
theorem State.quotePart_field (i o : Nat) {n : Nat} {f : List Byte} (hf : s.quoteFields[i]? = some f)
    (ho : ([4, 4, 8, 48, 48, 16, 32, 48, 48].take i).sum = o) (hn : f.length = n) : s.quotePart o n = f := by
  rw [← s.lengths_quoteFields] at ho
  rw [quotePart, ← ho, ← hn]
  exact take_drop_flatten hf

/-- What a quote holds, and where (R427). -/
theorem State.quotePart_holds :
    s.quotePart 0 4 = [1, 0, 0, 0] ∧ ofBytes (s.quotePart 4 4) = s.sys.svn.toNat ∧
    ofBytes (s.quotePart 8 8) = Config.serial.toNat ∧ ofBytes (s.quotePart 16 48) = readBytes s.sys.nonce 0 48 ∧
    ofBytes (s.quotePart 64 48).reverse = (Config.firmwareDigest s.sys.svn).toNat ∧
    ofBytes (s.quotePart 112 16) = s.sys.withheld.toNat ∧ s.quotePart 128 32 = List.replicate 32 0 ∧
    ofBytes (s.quotePart 160 48).reverse * 2 ^ 384 + ofBytes (s.quotePart 208 48).reverse =
      (Config.quoteSignature (s.quotePart 0 160)).toNat := by
  refine ⟨s.quotePart_field 0 0 rfl rfl rfl, ?_, ?_, ?_, ?_, ?_, ?_, ?_⟩
  · rw [s.quotePart_field 1 4 rfl rfl (length_bytesOf _ _)]
    exact ofBytes_bytesOf_toNat s.sys.svn rfl
  · rw [s.quotePart_field 2 8 rfl rfl (length_bytesOf _ _)]
    exact ofBytes_bytesOf_toNat Config.serial rfl
  · rw [s.quotePart_field 3 16 rfl rfl (length_bytesOf _ _)]
    exact ofBytes_bytesOf_lt (readBytes_lt _ _ _)
  · rw [s.quotePart_field 4 64 rfl rfl (length_bytesBE _ _), reverse_bytesBE]
    exact ofBytes_bytesOf_toNat (Config.firmwareDigest s.sys.svn) rfl
  · rw [s.quotePart_field 5 112 rfl rfl (length_bytesOf _ _)]
    exact ofBytes_bytesOf_toNat s.sys.withheld rfl
  · rw [s.quotePart_field 6 128 rfl rfl (length_bytesOf _ _)]
    exact bytesOf_zero 32
  · rw [s.quotePart_field 7 160 rfl rfl (length_bytesBE _ _), s.quotePart_field 8 208 rfl rfl (length_bytesBE _ _),
      reverse_bytesBE, reverse_bytesBE, s.quotePart_body]
    exact signature_halves _

end Sys2Proof.Machine
end

section
/-!
PROOFS. The statements of 00_scope: system space, the host and attestation, and reset.
-/

namespace Sys2Proof

open Sys2Proof.Machine

/-- Settles O59: memory is canonical by the law of reset, and every map is empty, so each register reads what its map gives
an unlisted number. -/
theorem resetState : Obligations.ResetState := by
  unfold Obligations.ResetState
  refine ⟨⟨reset_mem_wf, rfl, rfl, fun _ => BitVec.getLsbD_zero, fun _ => ⟨rfl, rfl, rfl, rfl⟩, fun _ => ⟨rfl, rfl⟩⟩,
    fun r => ?_⟩
  cases r with
  | fwin d n k => exact reset_regValue_fwin d n k
  | chan c k => exact reset_regValue_chan c k
  | coreReg ck k => exact reset_regValue_coreReg ck k
  | vlogEnt d i w => exact ite_self _
  | withheld i => simp [State.regValue, State.reset]
  | nonce i => rfl
  | quote i => simp [State.regValue, State.reset, ofBytes, word]
  | route p w => exact ite_self _
  | vlogCtl d => exact reset_regValue_vlogCtl d
  | link l => exact freshLink_status
  | port p => exact freshLink_status
  | _ => rfl

/-- Settles O52, from the place of each block, what a write leaves in each register, and who reaches one
(`State.reaches_host_iff`). -/
theorem systemSpace : Obligations.SystemSpace := by
  unfold Obligations.SystemSpace
  refine ⟨fun s who off val => ⟨fun h hw => ?_, fun h hw => ?_, fun r hr hno => ?_, fun r e hr hyes he => ?_⟩,
    fun d n k t c i p hd hk =>
      ⟨fun hn => sysReg?_fwin hd hn hk, sysReg?_hbmerr, sysReg?_coreReg, sysReg?_chan, rfl, rfl, rfl, rfl, sysReg?_asidroot,
        fun hn => ⟨sysReg?_rbase hd hn, sysReg?_rlim hd hn⟩, sysReg?_vlogCtl hd, sysReg?_vlogEnt hd, sysReg?_link,
        sysReg?_port, sysReg?_wear, sysReg?_withheld, rfl, rfl, sysReg?_nonce, rfl, rfl, sysReg?_quote, sysReg?_route, rfl⟩,
    fun s sec x n i =>
      ⟨s.regValue_writeOnly rfl, s.regValue_writeOnly rfl, s.regValue_writeOnly rfl, s.regValue_writeOnly rfl,
        s.regValue_writeOnly rfl, s.regWrite_readOnly sec rfl x, s.regWrite_readOnly sec rfl x, s.regWrite_readOnly sec rfl x,
        s.regWrite_readOnly sec rfl x, s.regWrite_readOnly sec rfl x, s.regWrite_readOnly sec rfl x,
        s.regWrite_readOnly sec rfl x, s.regWrite_readOnly sec rfl x, s.regWrite_readOnly sec rfl x, rfl,
        s.regWrite_asidroot sec n x, s.regWrite_trapReg sec n (by omega) x, s.regWrite_trapReg sec n (by omega) x,
        s.regWrite_trapReg sec n (by omega) x,
        s.regWrite_trapReg sec n (by omega) x, rfl, rfl, s.regWrite_pkgid x, s.regWrite_route n 0 x,
        (s.regWrite_route n 1 x).trans (congrArg some (routeFields_eq x))⟩,
    fun s r => ⟨rfl, fun _ => rfl, fun b => ?_⟩⟩
  · rw [exec_registerWrite_none s h, if_neg (fun ⟨b, hb⟩ => hw b hb)]
  · rw [exec_registerWrite_none s h, if_pos hw]; rfl
  · rw [exec_registerWrite_some s hr, s.atReg_unreached hno]; rfl
  · rw [exec_registerWrite_some s hr, s.atReg_reached hyes, he]; rfl
  · rw [s.reaches_host_iff, r.inRecovery_iff, r.inBar0_iff]

/-- Settles O53: an access within one line is one read or write of `State.engRead` or `State.engWrite`, whose outcomes are the
cases of the statement; the quote is its list of fields. -/
theorem hostAndAttestation : Obligations.HostAndAttestation := by
  unfold Obligations.HostAndAttestation
  refine ⟨fun s h => ⟨fun h0 hbad => ?_, fun q h0 hq hn => ⟨fun hno => ?_, fun hyes hw => ?_, fun hyes hw e he => ?_⟩,
      fun h0 hbad => ?_, fun h0 ⟨up, working, exposed⟩ backed hn hl => ?_⟩,
    fun s val => ⟨exec_attcmd s val, exec_attestDone_idle s⟩,
    fun s hs => ⟨_, exec_attestDone_making s hs, rfl, s.length_quote, s.quotePart_holds⟩⟩
  · rw [exec_hostAccess_bar0 h0, bar0_unsupported hbad]; rfl
  · rw [exec_hostAccess_bar0 h0, bar0_register hq hn, s.atReg_unreached hno]; rfl
  · rw [exec_hostAccess_bar0 h0, bar0_register hq hn, s.atReg_reached hyes, hw]; rfl
  · rw [exec_hostAccess_bar0 h0, bar0_register hq hn, s.atReg_reached hyes, hw, he]; rfl
  · exact exec_hostAccess_unserved h0 fun hs => by
      rcases hbad with hbad | hbad | hbad
      · exact hbad ⟨hs.up, hs.working, hs.exposed⟩
      · exact absurd hs.backed (Nat.not_le.mpr hbad)
      · exact absurd hs.short (Nat.not_le.mpr hbad)
  · have hs : s.Bar2Serves h := ⟨up, working, exposed, backed, by omega⟩
    refine ⟨fun hb => ?_, fun hb => ?_, fun hb => ⟨fun hr => ?_, fun hr hf =>
      ⟨fun hw => ?_, fun hw hv => ?_, fun hw hv => ?_⟩⟩⟩
    · cases hw : h.write with
      | true => exact exec_hostAccess_store_waits h0 hs hw (bar2Store_wait hn hb _)
      | false => exact exec_hostAccess_load_waits h0 hs hw (bar2Load_wait hn hb)
    · cases hw : h.write with
      | true => exact exec_hostAccess_store h0 hs hw (bar2Store_dead hn hl hb _)
      | false => exact exec_hostAccess_load h0 hs hw (bar2Load_dead hn hb)
    · cases hw : h.write with
      | true => exact exec_hostAccess_store h0 hs hw (bar2Store_clear hn hl hb (engWrite_refused hr) nofun)
      | false => exact exec_hostAccess_load h0 hs hw (bar2Load_refused hn hl hb (engRead_refused hr))
    · rw [hw] at hf
      exact exec_hostAccess_load h0 hs hw (bar2Load_ok hn hl hb (engRead_served hr hf))
    · exact exec_hostAccess_store h0 hs hw (bar2Store_clear hn hl hb (engWrite_readOnly hr hv) nofun)
    · rw [hw] at hf
      have hh : isHost h.pa = false := decide_eq_false (by unfold hostBase; omega)
      exact exec_hostAccess_store h0 hs hw (bar2Store_clear hn hl hb (engWrite_served hr hv hh hf) nofun)

end Sys2Proof
end

section
/-!
SUPPORT. Encoding and decoding (R38 to R65): what the fields of an encoded word read, format by format, and the
candidate that the words of an instruction name.
-/

namespace Sys2Proof

/-! ## Fields of a word put together from fields -/

theorem getLsbD_append_low {n m i : Nat} {x : BitVec n} {y : BitVec m} (h : i < m) :
    (x ++ y).getLsbD i = y.getLsbD i := by
  rw [BitVec.getLsbD_append, if_pos h]

theorem getLsbD_append_high {n m i : Nat} {x : BitVec n} {y : BitVec m} (h : m ≤ i) :
    (x ++ y).getLsbD i = x.getLsbD (i - m) := by
  rw [BitVec.getLsbD_append, if_neg (Nat.not_lt.mpr h)]

theorem setWidth_append_low {n m k : Nat} {x : BitVec n} {y : BitVec m} (h : k ≤ m) :
    (x ++ y).setWidth k = y.setWidth k := by
  rw [BitVec.setWidth_append, dif_pos h]

theorem setWidth_append_self {n m : Nat} (x : BitVec n) (y : BitVec m) : (x ++ y).setWidth m = y := by
  rw [setWidth_append_low (Nat.le_refl m), BitVec.setWidth_eq]

@[simp] theorem bitv_getLsbD_zero (n : Nat) (b : Bool) : (bitv (n + 1) b).getLsbD 0 = b := by
  cases b <;> simp [bitv]

@[simp] theorem bitv_beq_one (n : Nat) (b : Bool) : (bitv (n + 1) b == BitVec.ofNat (n + 1) 1) = b := by
  cases b <;> simp [bitv]

@[simp] theorem Hint.ofBits_bits (h : Hint) : Hint.ofBits h.bits = h := by cases h <;> rfl

@[simp] theorem setWidth_pfield (p : PReg) : (pfield p).setWidth 3 = p := by
  rw [pfield, setWidth_append_self]

/-- The two words of a literal put together again (R38). -/
@[simp] theorem litWords_join (l : Word) : (l.extractLsb' 32 32 ++ l.setWidth 32 : BitVec 64) = l := by
  rw [BitVec.setWidth_eq_extractLsb' (by decide)]
  exact BitVec.extractLsb'_append_extractLsb'

/-! ## The base formats with their LEN (R38, R41) -/

/-- A base word: LEN, major opcode and 24 bits. -/
def baseWord (len : BitVec 2) (maj : BitVec 6) (body : BitVec 24) : BitVec 32 := len ++ maj ++ body
/-- R format. -/
def rWord (len : BitVec 2) (maj d a b fn : BitVec 6) : BitVec 32 := len ++ maj ++ d ++ a ++ b ++ fn
/-- I format. -/
def iWord (len : BitVec 2) (maj d a : BitVec 6) (imm : BitVec 12) : BitVec 32 := len ++ maj ++ d ++ a ++ imm
/-- M format. -/
def mWord (len : BitVec 2) (maj d a : BitVec 6) (la : BitVec 4) (rh : Hint) (off : BitVec 6) : BitVec 32 :=
  len ++ maj ++ d ++ a ++ la ++ rh.bits ++ off

section
variable (len : BitVec 2) (maj d a b fn off : BitVec 6) (la : BitVec 4) (rh : Hint) (imm : BitVec 12) (body : BitVec 24)

@[simp] theorem baseWord_fields :
    (baseWord len maj body).extractLsb' 30 2 = len ∧ (baseWord len maj body).extractLsb' 24 6 = maj ∧
    (baseWord len maj body).extractLsb' 0 24 = body := by
  simp (disch := omega) only [baseWord, BitVec.extractLsb'_append_eq_of_le, BitVec.extractLsb'_append_eq_of_add_le,
    Nat.reduceSub, BitVec.extractLsb'_eq_self, and_self]

@[simp] theorem rWord_fields :
    (rWord len maj d a b fn).extractLsb' 30 2 = len ∧ (rWord len maj d a b fn).extractLsb' 24 6 = maj ∧
    (rWord len maj d a b fn).extractLsb' 18 6 = d ∧ (rWord len maj d a b fn).extractLsb' 12 6 = a ∧
    (rWord len maj d a b fn).extractLsb' 6 6 = b ∧ (rWord len maj d a b fn).extractLsb' 2 4 = fn.extractLsb' 2 4 ∧
    (rWord len maj d a b fn).extractLsb' 0 2 = fn.extractLsb' 0 2 := by
  simp (disch := omega) only [rWord, BitVec.extractLsb'_append_eq_of_le, BitVec.extractLsb'_append_eq_of_add_le,
    Nat.reduceSub, BitVec.extractLsb'_eq_self, and_self]

@[simp] theorem iWord_fields :
    (iWord len maj d a imm).extractLsb' 30 2 = len ∧ (iWord len maj d a imm).extractLsb' 24 6 = maj ∧
    (iWord len maj d a imm).extractLsb' 18 6 = d ∧ (iWord len maj d a imm).extractLsb' 12 6 = a ∧
    (iWord len maj d a imm).extractLsb' 0 12 = imm ∧ (iWord len maj d a imm).extractLsb' 3 2 = imm.extractLsb' 3 2 ∧
    (iWord len maj d a imm).extractLsb' 0 3 = imm.extractLsb' 0 3 := by
  simp (disch := omega) only [iWord, BitVec.extractLsb'_append_eq_of_le, BitVec.extractLsb'_append_eq_of_add_le,
    Nat.reduceSub, BitVec.extractLsb'_eq_self, and_self]

@[simp] theorem mWord_fields :
    (mWord len maj d a la rh off).extractLsb' 30 2 = len ∧ (mWord len maj d a la rh off).extractLsb' 24 6 = maj ∧
    (mWord len maj d a la rh off).extractLsb' 18 6 = d ∧ (mWord len maj d a la rh off).extractLsb' 12 6 = a ∧
    (mWord len maj d a la rh off).extractLsb' 8 4 = la ∧ (mWord len maj d a la rh off).extractLsb' 6 2 = rh.bits ∧
    (mWord len maj d a la rh off).extractLsb' 0 6 = off := by
  simp (disch := omega) only [mWord, BitVec.extractLsb'_append_eq_of_le, BitVec.extractLsb'_append_eq_of_add_le,
    Nat.reduceSub, BitVec.extractLsb'_eq_self, and_self]

@[simp] theorem encJ_fields (gu : Guard) (disp : BitVec 20) :
    (encJ maj gu disp).extractLsb' 30 2 = 0#2 ∧ (encJ maj gu disp).extractLsb' 24 6 = maj ∧
    (encJ maj gu disp).extractLsb' 21 3 = gu.gp ∧ (encJ maj gu disp).getLsbD 20 = gu.gs ∧
    (encJ maj gu disp).extractLsb' 0 20 = disp := by
  simp (disch := omega) only [encJ, BitVec.extractLsb'_append_eq_of_le, BitVec.extractLsb'_append_eq_of_add_le,
    getLsbD_append_low, getLsbD_append_high, Nat.reduceSub, BitVec.extractLsb'_eq_self, bitv_getLsbD_zero, and_self]

end

/-! ## Extended instructions (R44) -/

@[simp] theorem XF.read_words (f : XF) (len : BitVec 2) : XF.read (f.word0 len) f.word1 f.word2 = f := by
  obtain ⟨xop, ⟨gp, gs⟩, ec, la, ty, rm, sat, rh, d, a, b, c, fx, scope, kind, imm⟩ := f
  simp (disch := omega) only [XF.read, XF.word0, XF.word1, XF.word2, BitVec.extractLsb'_append_eq_of_le,
    BitVec.extractLsb'_append_eq_of_add_le, getLsbD_append_low, getLsbD_append_high, Nat.reduceSub,
    BitVec.extractLsb'_eq_self, bitv_getLsbD_zero]

theorem XF.word0_len (f : XF) (len : BitVec 2) : (f.word0 len).extractLsb' 30 2 = len := by
  simp (disch := omega) only [XF.word0, BitVec.extractLsb'_append_eq_of_le, Nat.reduceSub, BitVec.extractLsb'_eq_self]

/-! ## The halves of a pair -/

@[simp] theorem RROp.ofFn_fn (op : RROp) : RROp.ofFn op.fn = some op := by cases op <;> rfl

@[simp] theorem ROp.ofFn_fn (op : ROp) : ROp.ofFn op.fn = some op := by cases op <;> rfl

/-- The fields of the 24 bits of a half in R format. -/
theorem rBody_fields (d a b fn : BitVec 6) :
    (d ++ a ++ b ++ fn : BitVec 24).extractLsb' 18 6 = d ∧ (d ++ a ++ b ++ fn : BitVec 24).extractLsb' 12 6 = a ∧
    (d ++ a ++ b ++ fn : BitVec 24).extractLsb' 6 6 = b ∧ (d ++ a ++ b ++ fn : BitVec 24).extractLsb' 0 6 = fn := by
  simp (disch := omega) only [BitVec.extractLsb'_append_eq_of_le, BitVec.extractLsb'_append_eq_of_add_le, Nat.reduceSub,
    BitVec.extractLsb'_eq_self, and_self]

/-- The fields of the 24 bits of a half in I format. -/
theorem iBody_fields (d a : BitVec 6) (imm : BitVec 12) :
    (d ++ a ++ imm : BitVec 24).extractLsb' 18 6 = d ∧ (d ++ a ++ imm : BitVec 24).extractLsb' 12 6 = a ∧
    (d ++ a ++ imm : BitVec 24).extractLsb' 0 12 = imm := by
  simp (disch := omega) only [BitVec.extractLsb'_append_eq_of_le, BitVec.extractLsb'_append_eq_of_add_le, Nat.reduceSub,
    BitVec.extractLsb'_eq_self, and_self]

/-- A scalar half is read back from its major opcode, its 24 bits and its literal (R41, R55). -/
theorem candHalf_half (h : SHalf) : candHalf h.maj h.body h.lit? = some h := by
  unfold candHalf
  cases h with
  | rr op d a b => simp only [SHalf.body, SHalf.maj, rBody_fields]; simp
  | r1 op d a => simp only [SHalf.body, SHalf.maj, rBody_fields]; simp
  | cmp op d a b => simp only [SHalf.body, SHalf.maj, rBody_fields]; cases op <;> simp [CmpOp.fn]
  | plog op d a b => simp only [SHalf.body, SHalf.maj, rBody_fields]; cases op <;> simp [PLogOp.fn]
  | imm op d a c => simp only [SHalf.body, SHalf.maj, iBody_fields]; cases op <;> cases c <;> rfl
  | sh op d a n => simp only [SHalf.body, SHalf.maj, rBody_fields]; cases op <;> rfl
  | peqi d a c => simp only [SHalf.body, SHalf.maj, iBody_fields]; cases c <;> simp [SHalf.lit?, Imm.lit?, Imm.field]
  | plti d a c => simp only [SHalf.body, SHalf.maj, iBody_fields]; cases c <;> simp [SHalf.lit?, Imm.lit?, Imm.field]
  | movl d c => simp only [SHalf.body, SHalf.maj, iBody_fields]; cases c <;> rfl
  | addpc d c => simp only [SHalf.body, SHalf.maj, iBody_fields]; cases c <;> rfl
  | pnot d a => simp only [SHalf.body, SHalf.maj, rBody_fields]; simp
  | sel d a b p => simp only [SHalf.body, SHalf.maj, rBody_fields]; simp
  | nrand d a b => simp only [SHalf.body, SHalf.maj, rBody_fields]; rfl
  | bfx d a pos wm1 => simp only [SHalf.body, SHalf.maj, rBody_fields]; rfl
  | bfi d a pos wm1 => simp only [SHalf.body, SHalf.maj, rBody_fields]; rfl
  | exts d a wm1 => simp only [SHalf.body, SHalf.maj, rBody_fields]; rfl
  | extz d a wm1 => simp only [SHalf.body, SHalf.maj, rBody_fields]; rfl

/-- The word of a vector half (R55). -/
def vWord (xop : BitVec 6) (d a b c : BitVec 5) (ty : BitVec 4) (rm : BitVec 2) : BitVec 32 :=
  xop ++ d ++ a ++ b ++ c ++ ty ++ rm

@[simp] theorem vWord_fields (xop : BitVec 6) (d a b c : BitVec 5) (ty : BitVec 4) (rm : BitVec 2) :
    (vWord xop d a b c ty rm).extractLsb' 26 6 = xop ∧ (vWord xop d a b c ty rm).extractLsb' 21 5 = d ∧
    (vWord xop d a b c ty rm).extractLsb' 16 5 = a ∧ (vWord xop d a b c ty rm).extractLsb' 11 5 = b ∧
    (vWord xop d a b c ty rm).extractLsb' 6 5 = c ∧ (vWord xop d a b c ty rm).extractLsb' 2 4 = ty ∧
    (vWord xop d a b c ty rm).extractLsb' 0 2 = rm := by
  simp (disch := omega) only [vWord, BitVec.extractLsb'_append_eq_of_le, BitVec.extractLsb'_append_eq_of_add_le,
    Nat.reduceSub, BitVec.extractLsb'_eq_self, and_self]

theorem VHalf.word_eq (h : VHalf) : h.word =
    match h with
    | .v1 op ty d a => vWord op.xop d a 0 0 ty 0
    | .v2 op ty rm d a b => vWord op.xop d a b 0 ty rm
    | .v3 op ty rm d a b c => vWord op.xop d a b c ty rm
    | .vcmp ty rel d a b => vWord 0x0E (0#2 ++ d) a b (0#2 ++ rel) ty 0
    | .vsel ty d a b p => vWord 0x0F d a b (0#2 ++ p) ty 0 := by cases h <;> rfl

/-- A vector half is read back from its word (R55). -/
theorem candVHalf_word (h : VHalf) : candVHalf h.word = some h := by
  rw [VHalf.word_eq]
  unfold candVHalf
  cases h with
  | v1 op ty d a => simp only [vWord_fields]; cases op <;> rfl
  | v2 op ty rm d a b => simp only [vWord_fields]; cases op <;> rfl
  | v3 op ty rm d a b c => simp only [vWord_fields]; cases op <;> rfl
  | vcmp ty rel d a b => simpa using ⟨setWidth_append_self _ _, setWidth_append_self _ _⟩
  | vsel ty d a b p => simpa using setWidth_append_self _ _

/-! ## The candidate that a list of words names -/

/-- The words name the instruction as candidate, whatever follows them, and are as many as the first announces (R38). -/
def Names (ws : List (BitVec 32)) (i : Instr) : Prop :=
  ∃ w0 rest, ws = w0 :: rest ∧ ws.length = lenWords w0 ∧
    ∀ w : Nat → BitVec 32, (∀ k, k < ws.length → w k = ws.getD k 0) → candidate (w 0) (w 1) (w 2) (w 3) (w 4) = some i

section
variable {w0 w1 w2 w3 w4 : BitVec 32} {f : XF} {l : Word} {i : Instr}

theorem names_base (hl : w0.extractLsb' 30 2 = 0#2) (h : candBase w0 none = some i) : Names [w0] i := by
  refine ⟨w0, [], rfl, by simp [lenWords, hl], fun w hw => ?_⟩
  rw [hw 0 (by simp)]
  simpa [candidate, hl] using h

theorem names_baseLit (hl : w0.extractLsb' 30 2 = 1#2) (h : candBase w0 (some l) = some i) :
    Names (w0 :: litWords l) i := by
  refine ⟨w0, litWords l, rfl, by simp [lenWords, hl, litWords], fun w hw => ?_⟩
  rw [hw 0 (by simp), hw 1 (by simp [litWords]), hw 2 (by simp [litWords])]
  simpa [candidate, hl, litWords] using h

theorem names_ext (hl : w0.extractLsb' 30 2 = 2#2) (h : candExt w0 w1 w2 none = some i) : Names [w0, w1, w2] i := by
  refine ⟨w0, [w1, w2], rfl, by simp [lenWords, hl], fun w hw => ?_⟩
  rw [hw 0 (by simp), hw 1 (by simp), hw 2 (by simp)]
  simpa [candidate, hl] using h

theorem names_extLit (hl : w0.extractLsb' 30 2 = 3#2) (h : candExt w0 w1 w2 (some l) = some i) :
    Names (w0 :: w1 :: w2 :: litWords l) i := by
  refine ⟨w0, w1 :: w2 :: litWords l, rfl, by simp [lenWords, hl, litWords], fun w hw => ?_⟩
  rw [hw 0 (by simp), hw 1 (by simp), hw 2 (by simp), hw 3 (by simp [litWords]), hw 4 (by simp [litWords])]
  simpa [candidate, hl, litWords] using h

section
variable {maj d a b fn off : BitVec 6} {la : BitVec 4} {rh : Hint} {imm : BitVec 12}

theorem names_encR (h : candBase (rWord 0#2 maj d a b fn) none = some i) : Names [encR maj d a b fn] i :=
  names_base (rWord_fields ..).1 h

theorem names_encI (h : candBase (iWord 0#2 maj d a imm) none = some i) : Names [encI maj d a imm] i :=
  names_base (iWord_fields ..).1 h

theorem names_litI (h : candBase (iWord 1#2 maj d a 0#12) (some l) = some i) : Names (litI maj d a l) i :=
  names_baseLit (iWord_fields ..).1 h

theorem names_encY (h : candBase (iWord 0#2 0x3C#6 fn a imm) none = some i) : Names [encY fn a imm] i :=
  names_base (iWord_fields ..).1 h

theorem names_encM (h : candBase (mWord 0#2 maj d a la rh off) none = some i) : Names [encM maj d a la rh off] i :=
  names_base (mWord_fields ..).1 h

theorem names_litM (h : candBase (mWord 1#2 maj d a la rh 0#6) (some l) = some i) : Names (litM maj d a la rh l) i :=
  names_baseLit (mWord_fields ..).1 h

end

/-- The words of an extended instruction name what its class gives for its fields. -/
theorem names_words {g : XF → Option Word → Option Instr} {j : Instr}
    (hg : ∀ w0 w1 w2 lit, XF.read w0 w1 w2 = f → candExt w0 w1 w2 lit = g f lit) (hj : g f none = some j) (h : j = i) :
    Names f.words i :=
  names_ext (f.word0_len _) (by rw [hg _ _ _ _ (f.read_words _), hj, h])

theorem names_wordsLit {g : XF → Option Word → Option Instr} {j : Instr}
    (hg : ∀ w0 w1 w2 lit, XF.read w0 w1 w2 = f → candExt w0 w1 w2 lit = g f lit) (hj : g f (some l) = some j) (h : j = i) :
    Names (f.wordsLit l) i :=
  names_extLit (f.word0_len _) (by rw [hg _ _ _ _ (f.read_words _), hj, h])

theorem candExt_classV (h : f.ec = 0#4) (w0 w1 w2 : BitVec 32) (lit : Option Word) (hr : XF.read w0 w1 w2 = f) :
    candExt w0 w1 w2 lit = candV f lit := by
  simp [candExt, hr, h]

theorem candExt_classX (h : f.ec = 1#4) (w0 w1 w2 : BitVec 32) (lit : Option Word) (hr : XF.read w0 w1 w2 = f) :
    candExt w0 w1 w2 lit = candX f lit := by
  simp [candExt, hr, h]

theorem candExt_classC (h : f.ec = 2#4) (w0 w1 w2 : BitVec 32) (lit : Option Word) (hr : XF.read w0 w1 w2 = f) :
    candExt w0 w1 w2 lit = candC f lit := by
  simp [candExt, hr, h]

end

/-- A base word with the major opcode of a scalar half names that half. -/
theorem candBase_half (len : BitVec 2) (h : SHalf) : candBase (baseWord len h.maj h.body) h.lit? = some h.toInstr := by
  have hm : candBase (baseWord len h.maj h.body) h.lit? = (candHalf h.maj h.body h.lit?).map SHalf.toInstr := by
    unfold candBase
    simp only [baseWord_fields]
    cases h with
    | imm op d a c => cases op <;> rfl
    | sh op d a n => cases op <;> rfl
    | _ => rfl
  rw [hm, candHalf_half, Option.map_some]

/-- The words of a scalar half standing alone name its instruction. -/
theorem names_half (h : SHalf) : Names h.words h.toInstr := by
  have hc := fun len => candBase_half len h
  unfold SHalf.words
  cases hl : h.lit? with
  | none => exact names_base (baseWord_fields _ _ _).1 (hl ▸ hc 0#2)
  | some l => exact names_baseLit (baseWord_fields _ _ _).1 (hl ▸ hc 1#2)

/-- Word 0 of a pair (R44, R53). -/
def pairWord0 (len : BitVec 2) (maj : BitVec 6) (gu : Guard) : BitVec 32 :=
  len ++ maj ++ gu.gp ++ bitv 1 gu.gs ++ 3#4 ++ 0#16

@[simp] theorem pairWord0_fields (len : BitVec 2) (maj : BitVec 6) (gu : Guard) :
    (pairWord0 len maj gu).extractLsb' 30 2 = len ∧ (pairWord0 len maj gu).extractLsb' 24 6 = maj ∧
    (pairWord0 len maj gu).extractLsb' 21 3 = gu.gp ∧ (pairWord0 len maj gu).getLsbD 20 = gu.gs ∧
    (pairWord0 len maj gu).extractLsb' 16 4 = 3#4 := by
  simp (disch := omega) only [pairWord0, BitVec.extractLsb'_append_eq_of_le, BitVec.extractLsb'_append_eq_of_add_le,
    getLsbD_append_low, getLsbD_append_high, Nat.reduceSub, BitVec.extractLsb'_eq_self, bitv_getLsbD_zero, and_self]

theorem pairWord1_body (body : BitVec 24) : (0#8 ++ body : BitVec 32).extractLsb' 0 24 = body := by
  rw [BitVec.extractLsb'_append_eq_of_add_le (Nat.le_refl 24), BitVec.extractLsb'_eq_self]

theorem candExt_pair (len : BitVec 2) (gu : Guard) (sh : SHalf) (vh : VHalf) :
    candExt (pairWord0 len sh.maj gu) (0#8 ++ sh.body) vh.word sh.lit? = some (.pair gu sh vh) := by
  have hec : (XF.read (pairWord0 len sh.maj gu) (0#8 ++ sh.body) vh.word).ec = 3#4 := (pairWord0_fields _ _ _).2.2.2.2
  have hp : candPair (pairWord0 len sh.maj gu) (0#8 ++ sh.body) vh.word sh.lit? = some (.pair gu sh vh) := by
    simp only [candPair, pairWord0_fields, pairWord1_body, candHalf_half, candVHalf_word]
  unfold candExt
  simp only [hec]
  exact hp

/-- The words of a pair name it (R53, R55). -/
theorem names_pair (gu : Guard) (sh : SHalf) (vh : VHalf) : Names (pairWords gu sh vh) (.pair gu sh vh) := by
  have hc := fun len => candExt_pair len gu sh vh
  unfold pairWords
  cases hl : sh.lit? with
  | none => exact names_ext (pairWord0_fields _ _ _).1 (hl ▸ hc 2#2)
  | some l => exact names_extLit (pairWord0_fields _ _ _).1 (hl ▸ hc 3#2)

/-- Every well-formed instruction that a core decodes is the candidate of its own words. -/
theorem names_encode (i : Instr) (hc : i.unit = .core) (hw : i.wf = true) (hi : ∀ w, i ≠ .illegalEncoding w)
    (hf : ∀ va why, i ≠ .fetchFault va why) : Names (encode i) i := by
  cases i
  case illegalEncoding => exact absurd rfl (hi _)
  case fetchFault => exact absurd rfl (hf _ _)
  case pair gu sh vh => exact names_pair gu sh vh
  case add | sub | mul | mulh | mulhw | and | or | xor | andn | orn | shl | shr | sra | rot | min | max | minw | maxw
      | clz | ctz | popc | brev | bswp | peq | pne | plt | ple | pltw | plew | pand | por | pxor | pnot | sel | nrand
      | addi | addiLiteral | andi | andiLiteral | ori | oriLiteral | xori | xoriLiteral | shli | shri | srai | roti
      | peqi | peqiLiteral | plti | pltiLiteral | bfx | bfi | exts | extz | movl | movlLiteral | addpc | addpcLiteral =>
    unfold encode
    exact names_half _
  case div | divw | rem | remw =>
    unfold encode
    exact names_encR (by
      simp (disch := omega) only [candBase, rWord_fields, BitVec.extractLsb'_append_eq_of_le,
        BitVec.extractLsb'_append_eq_of_add_le, Nat.reduceSub, BitVec.extractLsb'_eq_self]
      rfl)
  case nop => exact names_base rfl rfl
  case br | jal =>
    unfold encode
    exact names_base (encJ_fields ..).1 (by simp only [candBase, encJ_fields]; rfl)
  case jalr | loop =>
    unfold encode
    exact names_encI (by simp [candBase])
  case trap | eret | gets | sets | bkpt | wfe =>
    unfold encode
    exact names_encY (by simp [candBase])
  case tlbinvPage | tlbinvAsid | tlbinvAll | tlbinvPin =>
    unfold encode
    exact names_encY (by
      simp (disch := omega) only [candBase, iWord_fields, BitVec.extractLsb'_append_eq_of_le,
        BitVec.extractLsb'_append_eq_of_add_le, Nat.reduceSub, BitVec.extractLsb'_eq_self]
      rfl)
  case jalrLiteral | loopLiteral =>
    unfold encode
    exact names_litI (by simp [candBase])
  case ldb | ldbs | ldh | ldhs | ldw | ldws | ldd | stb | sth | stw | std | pref | evict =>
    unfold encode
    exact names_encM (by simp [candBase])
  case ldbLiteral | ldbsLiteral | ldhLiteral | ldhsLiteral | ldwLiteral | ldwsLiteral | lddLiteral | stbLiteral
      | sthLiteral | stwLiteral | stdLiteral | prefLiteral | evictLiteral =>
    unfold encode
    exact names_litM (by simp [candBase])
  case vadd | vsub | vmul | vfma | vfms | vfnma | vdiv | vsqrt | vrsq | vmin | vmax | vabs | vneg | vclamp | vcmp | vsel
      | vcvt | vscale | vrsum | vrmin | vrmax | vdot | viadd | visub | vimul | vimad | vand | vor | vxor | vshl | vshr
      | vsra | vsplat | vperm | vext | vins | vmov | vld | vst | vlds | vsts | vgath | vscat =>
    unfold encode
    exact names_words (candExt_classV rfl) rfl (by simp)
  case vcvtLiteral | vscaleLiteral | vsplatLiteral | vldLiteral | vstLiteral | vldsLiteral | vstsLiteral | vgathLiteral
      | vscatLiteral =>
    unfold encode
    exact names_wordsLit (candExt_classV rfl) rfl (by simp)
  case tcfg | tld =>
    unfold encode
    exact names_words (candExt_classX rfl) rfl (by
      simp (disch := omega) only [setWidth_append_self, BitVec.extractLsb'_append_eq_of_le,
        BitVec.extractLsb'_append_eq_of_add_le, BitVec.setWidth_setWidth_of_le, BitVec.setWidth_eq,
        BitVec.extractLsb'_eq_self, Nat.reduceSub, bitv_beq_one, Hint.ofBits_bits])
  case tst | tzero | mma | mmac | mpoll | mwait | amov | amovt | azero | afin | msave | mrest =>
    unfold encode
    exact names_words (candExt_classX rfl) rfl (by simp)
  case rget | rgetv =>
    unfold encode
    exact names_words (candExt_classC rfl) rfl (by
      simp (disch := omega) only [setWidth_append_self, BitVec.extractLsb'_append_eq_of_le,
        BitVec.extractLsb'_append_eq_of_add_le, BitVec.setWidth_setWidth_of_le, BitVec.setWidth_eq,
        BitVec.extractLsb'_eq_self, Nat.reduceSub])
  case sring | sbindCons | sbindProd | sgain | sstat | sunbind =>
    unfold encode
    exact names_words (candExt_classC rfl) rfl (by
      simp (disch := omega) only [setWidth_append_self, BitVec.setWidth_setWidth_of_le, BitVec.setWidth_eq])
  case xrnd =>
    unfold encode
    exact names_words (candExt_classC rfl) rfl (by
      simp (disch := omega) only [getLsbD_append_low, getLsbD_append_high, Nat.reduceSub, bitv_getLsbD_zero, Hint.ofBits_bits])
  case xrndLiteral =>
    unfold encode
    exact names_wordsLit (candExt_classC rfl) rfl (by
      simp (disch := omega) only [getLsbD_append_low, getLsbD_append_high, Nat.reduceSub, bitv_getLsbD_zero, Hint.ofBits_bits])
  case fence gu d scope kind =>
    have hk : kind ≠ 4#3 := fun e => by subst e; cases hw
    unfold encode
    exact names_words (candExt_classC rfl) (if_neg hk) rfl
  case cpset | cpget | cpgo | cpcan | sealr | mfill | nmcmd | nmask | amoadd | amomin | amomax | amoand | amoor | amoxor
      | amoswp | amocas | rdadd | rdmin | rdmax | xadd | pbinit | pbarr | pbexp | pbwait | waita | ctarm | ctinc
      | fenceInst | spawn | send | tend | cont | jdec | join | leave | maskh | unmaskh | step | stepq
      | hallq | dlaunch | coll | rlinv =>
    unfold encode
    exact names_words (candExt_classC rfl) rfl (by simp)
  case amoaddLiteral | amominLiteral | amomaxLiteral | amoandLiteral | amoorLiteral | amoxorLiteral | amoswpLiteral
      | amocasLiteral | rdaddLiteral | rdminLiteral | rdmaxLiteral | xaddLiteral | waitaLiteral =>
    unfold encode
    exact names_wordsLit (candExt_classC rfl) rfl (by simp)
  all_goals nomatch hc

/-! ## Decoding -/

/-- Only an instruction of a core has words. -/
theorem core_of_encode {i : Instr} (h : encode i ≠ []) : i.unit = .core := by
  cases i <;> first | rfl | exact absurd rfl h

/-- Words decode to a candidate that is well formed and whose encoding they are (R61). -/
theorem decode_eq_some {w0 w1 w2 w3 w4 : BitVec 32} {i : Instr} :
    decode w0 w1 w2 w3 w4 = some i ↔
      candidate w0 w1 w2 w3 w4 = some i ∧ i.wf = true ∧ encode i = [w0, w1, w2, w3, w4].take (lenWords w0) := by
  unfold decode
  cases candidate w0 w1 w2 w3 w4 with
  | none => simp
  | some j =>
    simp only [Bool.and_eq_true, beq_iff_eq, Option.ite_none_right_eq_some, Option.some_inj]
    constructor
    · rintro ⟨⟨hw, he⟩, rfl⟩
      exact ⟨rfl, hw, he⟩
    · rintro ⟨rfl, hw, he⟩
      exact ⟨⟨hw, he⟩, rfl⟩

theorem lenWords_cases (w : BitVec 32) : lenWords w = 1 ∨ lenWords w = 3 ∨ lenWords w = 5 := by
  unfold lenWords
  split <;> simp

/-- What the first words of a list of words are, taken from a sequence that starts with the list. -/
theorem take_of_agree {w : Nat → BitVec 32} {ws : List (BitVec 32)} (hn : ws.length ≤ 5)
    (hw : ∀ k, k < ws.length → w k = ws.getD k 0) : [w 0, w 1, w 2, w 3, w 4].take ws.length = ws := by
  have hr : [w 0, w 1, w 2, w 3, w 4] = (List.range 5).map w := rfl
  rw [hr, ← List.map_take, List.take_range, Nat.min_eq_left hn]
  refine List.ext_getElem (by simp) fun k _ hk => ?_
  simp [hw k hk, hk]

/-! ## Chunk instructions (R64) -/

theorem dataChunk_fields (kop : BitVec 4) (c : ChunkData) :
    (dataChunk kop c).extractLsb' 60 4 = kop ∧ (dataChunk kop c).extractLsb' 58 2 = c.ba ∧
    (dataChunk kop c).extractLsb' 56 2 = c.bb ∧ (dataChunk kop c).extractLsb' 40 16 = c.peer ∧
    (dataChunk kop c).getLsbD 39 = c.prel ∧ (dataChunk kop c).extractLsb' 27 12 = c.cidx ∧
    (dataChunk kop c).extractLsb' 19 8 = c.clen ∧ (dataChunk kop c).extractLsb' 12 7 = c.tag ∧
    (dataChunk kop c).extractLsb' 0 8 = c.cstep := by
  simp (disch := omega) only [dataChunk, BitVec.extractLsb'_append_eq_of_le, BitVec.extractLsb'_append_eq_of_add_le,
    getLsbD_append_low, getLsbD_append_high, Nat.reduceSub, BitVec.extractLsb'_eq_self, bitv_getLsbD_zero, and_self]

theorem ctlChunk_fields (kop : BitVec 4) (peer : BitVec 16) (prel : Bool) (tag : BitVec 7) (arg : BitVec 32) :
    (ctlChunk kop peer prel tag arg).extractLsb' 60 4 = kop ∧ (ctlChunk kop peer prel tag arg).extractLsb' 40 16 = peer ∧
    (ctlChunk kop peer prel tag arg).getLsbD 39 = prel ∧ (ctlChunk kop peer prel tag arg).extractLsb' 32 7 = tag ∧
    (ctlChunk kop peer prel tag arg).extractLsb' 0 32 = arg ∧
    (ctlChunk kop peer prel tag arg).extractLsb' 16 16 = arg.extractLsb' 16 16 ∧
    (ctlChunk kop peer prel tag arg).extractLsb' 0 16 = arg.extractLsb' 0 16 ∧
    (ctlChunk kop peer prel tag arg).getLsbD 0 = arg.getLsbD 0 := by
  simp (disch := omega) only [ctlChunk, BitVec.extractLsb'_append_eq_of_le, BitVec.extractLsb'_append_eq_of_add_le,
    getLsbD_append_low, getLsbD_append_high, Nat.reduceSub, BitVec.extractLsb'_eq_self, bitv_getLsbD_zero, and_self]

/-- A chunk instruction is read back from its doubleword. -/
theorem candChunk_word (c : ChunkI) : candChunk c.word = some c := by
  unfold candChunk
  cases c with
  | data kop c =>
    simp only [ChunkI.word, dataChunk_fields]
    have hk : kop = 0#2 ∨ kop = 1#2 ∨ kop = 2#2 ∨ kop = 3#2 := by revert kop; decide
    rcases hk with rfl | rfl | rfl | rfl <;> rfl
  | kwait tag all =>
    simp only [ChunkI.word, ctlChunk_fields, bitv_getLsbD_zero]
    rfl
  | ksig peer prel tag val =>
    simp only [ChunkI.word, ctlChunk_fields]
    rfl
  | kloop count disp =>
    simp (disch := omega) only [ChunkI.word, ctlChunk_fields, BitVec.extractLsb'_append_eq_of_le,
      BitVec.extractLsb'_append_eq_of_add_le, Nat.reduceSub, BitVec.extractLsb'_eq_self]
    rfl
  | kend =>
    simp only [ChunkI.word, ctlChunk_fields]
    rfl

end Sys2Proof
end

section
/-!
SUPPORT. Arrived results: what writing one leaves in each register of its core, and the event that writes it
(R48, R88, R184).
-/

namespace Sys2Proof.Machine

open Sys2Proof

/-! ## Lists -/

theorem find?_updFirst {α : Type} {p : α → Bool} {f : α → α} {l : List α} {x : α} (hf : ∀ y, p (f y) = p y)
    (h : l.find? p = some x) : (updFirst p f l).find? p = some (f x) := by
  induction l with
  | nil => cases h
  | cons y l ih =>
    unfold updFirst
    cases hy : p y with
    | true =>
      rw [List.find?_cons_of_pos hy, Option.some_inj] at h
      rw [if_pos rfl, List.find?_cons_of_pos (by rw [hf, hy]), h]
    | false =>
      rw [List.find?_cons_of_neg (by simp [hy])] at h
      rw [if_neg (by simp), List.find?_cons_of_neg (by simp [hy]), ih h]

theorem filter_not_updFirst {α : Type} {p : α → Bool} {f : α → α} (hf : ∀ y, p (f y) = p y) (l : List α) :
    (updFirst p f l).filter (fun y => !p y) = l.filter (fun y => !p y) := by
  induction l with
  | nil => rfl
  | cons y l ih =>
    unfold updFirst
    cases hy : p y with
    | true => simp [hf, hy]
    | false => simp [hy, ih]

/-! ## A level's registers after a write at another level -/

variable (c : Core)

theorem Core.thr_setThr_ne {lv lv' : Bool} (h : lv' ≠ lv) (t : Thread) : (c.setThr lv t).thr lv' = c.thr lv' := by
  rw [Bool.eq_not_of_ne h, Core.thr_setThr_other]

theorem Core.g_setThr {lv : Bool} {t : Thread} (ht : t.g = (c.thr lv).g) (lv' : Bool) (r : Nat) :
    (c.setThr lv t).g lv' r = c.g lv' r := by
  unfold Core.g
  rw [Core.setThr_gHi]
  by_cases h : lv' = lv
  · subst h; rw [Core.thr_setThr, ht]
  · rw [c.thr_setThr_ne h]

theorem Core.p_setThr {lv : Bool} {t : Thread} (ht : t.p = (c.thr lv).p) (lv' : Bool) (r : Nat) :
    (c.setThr lv t).p lv' r = c.p lv' r := by
  unfold Core.p
  by_cases h : lv' = lv
  · subst h; rw [Core.thr_setThr, ht]
  · rw [c.thr_setThr_ne h]

@[simp] theorem Core.vreg_setThr (lv : Bool) (t : Thread) (r : Nat) : (c.setThr lv t).vreg r = c.vreg r := by
  unfold Core.vreg; rw [Core.setThr_v]

/-! ## Registers of both levels after a write -/

theorem Core.g_setG_level (lv lv' : Bool) (r q : Nat) (x : Word) :
    (c.setG lv r x).g lv' q = if (greg lv' q).isSome ∧ greg lv r = greg lv' q then x else c.g lv' q := by
  unfold Core.setG greg
  by_cases hr : r = 0
  · have hn : ¬ ((if q = 0 then none else if q < 32 then some (PReg0.gb lv' q) else some (.gs q)).isSome ∧
        none = if q = 0 then none else if q < 32 then some (PReg0.gb lv' q) else some (.gs q)) := by
      rintro ⟨hs, he⟩; rw [← he] at hs; cases hs
    simp only [hr, if_true]
    rw [if_neg hn]
  by_cases hr2 : r < 32
  · simp only [hr, hr2, if_false, if_true]
    unfold Core.g
    by_cases hq : q = 0
    · simp [hq]
    · by_cases hq2 : q < 32
      · by_cases hl : lv' = lv
        · subst hl; simp [hq, hq2, SMap.get_set]
        · simp [hq, hq2, c.thr_setThr_ne hl, Ne.symm hl]
      · simp [hq, hq2]
  · simp only [hr, hr2, if_false]
    unfold Core.g
    by_cases hq : q = 0
    · simp [hq]
    · by_cases hq2 : q < 32
      · simp [hq, hq2, Core.thr]
      · simp [hq, hq2, SMap.get_set]

theorem Core.p_setP_level (lv lv' : Bool) {r : Nat} (hr : r ≠ 7) (q : Nat) (x : Word) :
    (c.setP lv r x).p lv' q = if lv = lv' ∧ r = q then x else c.p lv' q := by
  unfold Core.setP Core.p
  rw [if_neg hr]
  by_cases hq : q = 7
  · subst hq; simp [hr]
  · by_cases hl : lv' = lv
    · subst hl; simp [hq, SMap.get_set]
    · simp [hq, c.thr_setThr_ne hl, Ne.symm hl]

/-! ## What a write to one register leaves of the others -/

@[simp] theorem Core.raise_g (lv : Bool) (f : FFlags) (lv' : Bool) (r : Nat) : (c.raise lv f).g lv' r = c.g lv' r :=
  c.g_setThr (t := { c.thr lv with fp := (c.thr lv).fp.or f }) rfl lv' r

@[simp] theorem Core.raise_p (lv : Bool) (f : FFlags) (lv' : Bool) (r : Nat) : (c.raise lv f).p lv' r = c.p lv' r :=
  c.p_setThr (t := { c.thr lv with fp := (c.thr lv).fp.or f }) rfl lv' r

@[simp] theorem Core.raise_vreg (lv : Bool) (f : FFlags) (r : Nat) : (c.raise lv f).vreg r = c.vreg r :=
  c.vreg_setThr _ _ r

theorem Core.setG_p (lv : Bool) (r : Nat) (x : Word) (lv' : Bool) (q : Nat) : (c.setG lv r x).p lv' q = c.p lv' q := by
  unfold Core.setG
  split
  · rfl
  split
  · exact c.p_setThr (t := { c.thr lv with g := (c.thr lv).g.set 0 r x }) rfl lv' q
  · rfl

theorem Core.setG_vreg (lv : Bool) (r : Nat) (x : Word) (q : Nat) : (c.setG lv r x).vreg q = c.vreg q := by
  unfold Core.setG
  split
  · rfl
  split
  · exact c.vreg_setThr _ _ q
  · rfl

theorem Core.setP_g (lv : Bool) (r : Nat) (x : Word) (lv' : Bool) (q : Nat) : (c.setP lv r x).g lv' q = c.g lv' q := by
  unfold Core.setP
  split
  · rfl
  · exact c.g_setThr (t := { c.thr lv with p := (c.thr lv).p.set 0 r x }) rfl lv' q

theorem Core.setP_vreg (lv : Bool) (r : Nat) (x : Word) (q : Nat) : (c.setP lv r x).vreg q = c.vreg q := by
  unfold Core.setP
  split
  · rfl
  · exact c.vreg_setThr _ _ q

/-- Neither register file holds flags, what a thread waits for, or results. -/
structure Core.SameWork (c e : Core) : Prop where
  fp : ∀ lv, (e.thr lv).fp = (c.thr lv).fp
  hold : ∀ lv, (e.thr lv).hold = (c.thr lv).hold
  pend : e.pend = c.pend

theorem Core.setThr_sameWork {lv : Bool} {t : Thread} (hf : t.fp = (c.thr lv).fp) (hh : t.hold = (c.thr lv).hold) :
    c.SameWork (c.setThr lv t) := by
  refine ⟨fun lv' => ?_, fun lv' => ?_, c.setThr_pend lv t⟩ <;>
    (by_cases h : lv' = lv
     · subst h; rw [Core.thr_setThr]; assumption
     · rw [c.thr_setThr_ne h])

theorem Core.setG_sameWork (lv : Bool) (r : Nat) (x : Word) : c.SameWork (c.setG lv r x) := by
  unfold Core.setG
  split
  · exact ⟨fun _ => rfl, fun _ => rfl, rfl⟩
  split
  · exact c.setThr_sameWork (t := { c.thr lv with g := (c.thr lv).g.set 0 r x }) rfl rfl
  · exact ⟨fun _ => rfl, fun _ => rfl, rfl⟩

theorem Core.setP_sameWork (lv : Bool) (r : Nat) (x : Word) : c.SameWork (c.setP lv r x) := by
  unfold Core.setP
  split
  · exact ⟨fun _ => rfl, fun _ => rfl, rfl⟩
  · exact c.setThr_sameWork (t := { c.thr lv with p := (c.thr lv).p.set 0 r x }) rfl rfl

/-! ## Writing a result -/

theorem Core.fp_raise (lv lv' : Bool) (f : FFlags) :
    ((c.raise lv f).thr lv').fp = if lv' = lv then (c.thr lv').fp.or f else (c.thr lv').fp := by
  unfold Core.raise
  by_cases h : lv' = lv
  · subst h; rw [Core.thr_setThr, if_pos rfl]
  · rw [c.thr_setThr_ne h, if_neg h]

theorem Core.hold_raise (lv lv' : Bool) (f : FFlags) : ((c.raise lv f).thr lv').hold = (c.thr lv').hold := by
  unfold Core.raise
  by_cases h : lv' = lv
  · subst h; rw [Core.thr_setThr]
  · rw [c.thr_setThr_ne h]

/-- The destination of a result, if it has one, is a register of its kind: g0 and p7 are none (R42, R173). -/
structure Pend.Named (p : Pend) : Prop where
  banked : ∀ lv r, p.dst = some (.gb lv r) → 0 < r ∧ r < 32
  shared : ∀ r, p.dst = some (.gs r) → 32 ≤ r
  predicate : ∀ lv r, p.dst = some (.pb lv r) → r ≠ 7

/-- What a result leaves when it has been written: its flags raised, and its register alone changed (R48, R88). -/
structure Core.Written (c e : Core) (p : Pend) : Prop where
  general : ∀ lv r, e.g lv r = if (greg lv r).isSome ∧ p.dst = greg lv r then p.val.setWidth 64 else c.g lv r
  predicates : ∀ lv r, e.p lv r = if p.dst = some (.pb lv r) then p.val.setWidth 64 else c.p lv r
  vectors : ∀ r, e.vreg r = if p.dst = some (.v r) then blend (c.vreg r) p.val p.mask else c.vreg r
  work : (c.raise p.lv p.flags).SameWork e

variable {c}

theorem not_names_g {p : Pend} (h : ∀ lv r, p.dst ≠ some (.gb lv r)) (h' : ∀ r, p.dst ≠ some (.gs r)) (lv : Bool)
    (r : Nat) :
    ¬ ((greg lv r).isSome ∧ p.dst = greg lv r) := by
  unfold greg
  split
  · simp
  split
  · simp [h lv r]
  · simp [h' r]

theorem greg_ne_pb (lv lv' : Bool) (r q : Nat) : greg lv r ≠ some (.pb lv' q) := by
  unfold greg
  split
  · simp
  · split <;> simp

theorem greg_ne_v (lv : Bool) (r q : Nat) : greg lv r ≠ some (.v q) := by
  unfold greg
  split
  · simp
  · split <;> simp

theorem Core.writeG_written {p : Pend} {lv : Bool} {r : Nat} (hd : p.dst = greg lv r) :
    c.Written ((c.raise p.lv p.flags).setG lv r (p.val.setWidth 64)) p where
  general lv' q := by rw [Core.g_setG_level, Core.raise_g, hd]
  predicates lv' q := by
    rw [Core.setG_p, Core.raise_p, if_neg (hd ▸ greg_ne_pb lv lv' r q)]
  vectors q := by
    rw [Core.setG_vreg, Core.raise_vreg, if_neg (hd ▸ greg_ne_v lv r q)]
  work := Core.setG_sameWork _ _ _ _

theorem Core.writePend_written {p : Pend} (hp : p.Named) : c.Written (c.writePend p) p := by
  unfold Core.writePend
  split
  · next hd =>
    exact ⟨fun lv r => by rw [Core.raise_g, if_neg (not_names_g (by simp [hd]) (by simp [hd]) lv r)],
      fun lv r => by rw [Core.raise_p, if_neg (by simp [hd])], fun r => by rw [Core.raise_vreg, if_neg (by simp [hd])],
      ⟨fun _ => rfl, fun _ => rfl, rfl⟩⟩
  · next lv r hd =>
    obtain ⟨h0, h32⟩ := hp.banked lv r hd
    have hr : greg lv r = some (.gb lv r) := by rw [greg, if_neg (by omega), if_pos h32]
    exact Core.writeG_written (hd.trans hr.symm)
  · next r hd =>
    have h32 := hp.shared r hd
    have hr : greg false r = some (.gs r) := by rw [greg, if_neg (by omega), if_neg (by omega)]
    exact Core.writeG_written (hd.trans hr.symm)
  · next lv r hd =>
    have h7 := hp.predicate lv r hd
    refine ⟨fun lv' q => ?_, fun lv' q => ?_, fun q => ?_, Core.setP_sameWork _ _ _ _⟩
    · rw [Core.setP_g, Core.raise_g, if_neg (not_names_g (by simp [hd]) (by simp [hd]) lv' q)]
    · rw [Core.p_setP_level _ _ _ h7, Core.raise_p, hd]
      simp only [Option.some_inj, PReg0.pb.injEq]
    · rw [Core.setP_vreg, Core.raise_vreg, if_neg (by simp [hd])]
  · next r hd =>
    refine ⟨fun lv' q => ?_, fun lv' q => ?_, fun q => ?_, ⟨fun _ => rfl, fun _ => rfl, rfl⟩⟩
    · rw [if_neg (not_names_g (by simp [hd]) (by simp [hd]) lv' q)]
      exact Core.raise_g c _ _ lv' q
    · rw [if_neg (by simp [hd])]
      exact Core.raise_p c _ _ lv' q
    · rw [Core.vreg_setV, Core.raise_vreg, Core.raise_vreg, hd]
      simp only [Option.some_inj, PReg0.v.injEq]
      split <;> simp_all

/-! ## The event -/

/-- What the arrival of a divide or vector divide makes of its result: all of it has come (R48). -/
def Pend.arrivedHere (p : Pend) : Pend := if p.cls == .divide || p.cls == .vdivide then { p with need := 0 } else p

section
variable (p : Pend)

@[simp] theorem Pend.arrivedHere_id : p.arrivedHere.id = p.id := by unfold Pend.arrivedHere; split <;> rfl
@[simp] theorem Pend.arrivedHere_lv : p.arrivedHere.lv = p.lv := by unfold Pend.arrivedHere; split <;> rfl
@[simp] theorem Pend.arrivedHere_dst : p.arrivedHere.dst = p.dst := by unfold Pend.arrivedHere; split <;> rfl
@[simp] theorem Pend.arrivedHere_val : p.arrivedHere.val = p.val := by unfold Pend.arrivedHere; split <;> rfl
@[simp] theorem Pend.arrivedHere_mask : p.arrivedHere.mask = p.mask := by unfold Pend.arrivedHere; split <;> rfl
@[simp] theorem Pend.arrivedHere_flags : p.arrivedHere.flags = p.flags := by unfold Pend.arrivedHere; split <;> rfl

theorem Pend.arrivedHere_writable (hn : p.need = 0 ∨ p.cls = .divide ∨ p.cls = .vdivide) (ha : p.acc = 0)
    (hw : p.win = 0) : p.arrivedHere.writable = true := by
  unfold Pend.arrivedHere
  split
  · simp [Pend.writable, ha, hw]
  · next hc =>
    have h0 : p.need = 0 := hn.resolve_right (by simpa using hc)
    simp [Pend.writable, h0, ha, hw]

end

/-- An arrived result with its window closed is written once it is the first that can be (R184). -/
theorem Core.writeback_eq {id : Nat} {p : Pend} (hf : c.pend.find? (fun p => p.id == id) = some p)
    (hn : p.need = 0 ∨ p.cls = .divide ∨ p.cls = .vdivide) (ha : p.acc = 0) (hw : p.win = 0) :
    c.writeback id =
      let c1 := c.updPend id Pend.arrivedHere
      if c1.laterThan id then c1
      else ({ c1 with pend := c1.pend.filter (fun q => q.id != id), arrived := c1.arrived.filter (fun i => i != id) }).writePend
        p.arrivedHere := by
  have hfind : (c.updPend id Pend.arrivedHere).pend.find? (fun p => p.id == id) = some p.arrivedHere :=
    find?_updFirst (fun q => by rw [q.arrivedHere_id]) hf
  have hwr : p.arrivedHere.writable = true := p.arrivedHere_writable hn ha hw
  unfold Core.writeback
  change (match (c.updPend id Pend.arrivedHere).pend.find? (fun p => p.id == id) with
    | none => c.updPend id Pend.arrivedHere
    | some q => if !q.writable || (c.updPend id Pend.arrivedHere).laterThan id then _ else _) = _
  rw [hfind]
  change (if !p.arrivedHere.writable || _ then _ else _) = _
  rw [hwr, Bool.not_true, Bool.false_or]
  rfl

theorem State.takeTrap_of_free {s : State} {ck : Nat} {lv : Bool}
    (h : ∀ code v f, ((s.core ck).thr lv).hold ≠ .trap code v f) : s.takeTrap ck lv = s := by
  cases hold : ((s.core ck).thr lv).hold with
  | trap code v f => exact absurd hold (h code v f)
  | _ => simp only [State.takeTrap, hold]

/-- With no trap latched, the event writes the result and does nothing else. -/
theorem exec_resultWriteback_of_free {s : State} {ck id : Nat}
    (h : ∀ lv code v f, (((s.core ck).writeback id).thr lv).hold ≠ .trap code v f) :
    exec (.resultWriteback ck id) s = .next (s.setCore ck ((s.core ck).writeback id)) := by
  have hc : (s.setCore ck ((s.core ck).writeback id)).core ck = (s.core ck).writeback id := s.core_setCore_same ck _
  have hf lv : (s.setCore ck ((s.core ck).writeback id)).takeTrap ck lv = s.setCore ck ((s.core ck).writeback id) :=
    State.takeTrap_of_free (by rw [hc]; exact h lv)
  change (Host.Outcome.next (((s.setCore ck ((s.core ck).writeback id)).takeTrap ck false).takeTrap ck true)) = _
  rw [hf, hf]

end Sys2Proof.Machine
end

section
/-!
SUPPORT. Long operations: one in flight holds the next back (R47, R48, R194, R210).
-/

namespace Sys2Proof.Machine

open Sys2Proof

variable {s : State} {u : Uses}

/-- A body that stalls leaves an instruction that is not blocking, and names no port, where it was. -/
theorem runs_stall (h : IssuesPlain s u) (hu : u.blocking = false) {body : State → Res} (hb : body s = .stall) :
    s.runs u body = .next s := by
  simp [State.runs, issueWith_of_issues h.toIssues, hb, State.settle, hu, h.noPort]

theorem any_inFlight_false {l : List Pend} {k : PCls} (h : ∀ p ∈ l, p.cls = k → p.need = 0) :
    l.any (fun p => p.cls == k && p.need != 0) = false := by
  simpa using h

theorem any_inFlight_true {l : List Pend} {k : PCls} (h : ∃ p ∈ l, p.cls = k ∧ p.need ≠ 0) :
    l.any (fun p => p.cls == k && p.need != 0) = true := by
  simpa using h

/-! ## Divides -/

theorem divBody_stalls {op : DivOp} {d a b : Reg} {la : BitVec 4} (h : ∃ p ∈ s.me.pend, p.cls = .divide ∧ p.need ≠ 0) :
    divBody op d a b la s = .stall := if_pos (any_inFlight_true h)

theorem runs_div_stall {d a b : Reg} {la : BitVec 4} (h : IssuesPlain s (divUses d a b))
    (hf : ∃ p ∈ s.me.pend, p.cls = .divide ∧ p.need ≠ 0) (op : DivOp) :
    s.runs (divUses d a b) (divBody op d a b la) = .next s :=
  runs_stall h rfl (divBody_stalls hf)

theorem runs_div_starts {d a b : Reg} {la : BitVec 4} (h : IssuesPlain s (divUses d a b))
    (hf : ∀ p ∈ s.me.pend, p.cls = .divide → p.need = 0) (op : DivOp) :
    ∃ t, s.runs (divUses d a b) (divBody op d a b la) = .next t ∧
      Completes s t (divUses d a b) (s.pc + 4) [] [] [] {}
        [{ id := s.ctr, lv := s.lv, dst := greg s.lv d.toNat, win := la.toNat, pc := s.pc, cls := .divide, need := 1,
           val := (divVal op (s.rg a) (s.rg b)).setWidth 1024 }] := by
  have hb : divBody op d a b la s = .done (s.enterPend { s.newPend (greg s.lv d.toNat) la.toNat 1 .divide 0 with
      val := (divVal op (s.rg a) (s.rg b)).setWidth 1024 }) := by
    rw [divBody, any_inFlight_false hf, if_neg (by decide), src_of_plain h (by simp [divUses]),
      src_of_plain h (by simp [divUses])]
  exact ⟨_, runs_done h hb, completes_enterPend h.enabled (Nat.le_refl _) _⟩

end Sys2Proof.Machine
end

section
/-!
SUPPORT. Floating-point lanes (R208, R210, R211).
-/

namespace Sys2Proof.Machine

open Sys2Proof

variable {s : State}

theorem roundLane_eq (ty rm : Nat) (sat : Bool) (v : FVal × FFlags) :
    roundLane ty rm sat v = ((roundF (fmtOf ty) rm sat v.1).1, v.2.or (roundF (fmtOf ty) rm sat v.1).2) := rfl

/-- A product inside a fused operation is not rounded (R211). -/
theorem fmaV_eq (rm : Nat) (x y z : FVal) :
    fmaV rm x y z = ((addV rm (mulV x y).1 z).1, (mulV x y).2.or (addV rm (mulV x y).1 z).2) := rfl

theorem v3Lane_vfnma (ty rm : Nat) (sat : Bool) (a b c : Nat) :
    v3Lane .vfnma ty rm sat a b c = roundLane ty rm sat
      ((addV rm (mulV (elemVal ty a) (elemVal ty b)).1.flip (elemVal ty c)).1,
        (mulV (elemVal ty a) (elemVal ty b)).2.or
          (addV rm (mulV (elemVal ty a) (elemVal ty b)).1.flip (elemVal ty c)).2) := rfl

/-- A lane by lane operation of two sources; VPERM alone takes a lane from elsewhere (R221). -/
theorem vec2_lanewise {op : V2Op} (h : op ≠ .vperm) (ty rm : Nat) (sat : Bool) (act : Nat → Bool) (a b : Vec) :
    vec2 op ty rm sat act a b = lanewise ty act fun i => v2Lane op ty rm sat (lane a (bitsOf ty) i) (lane b (bitsOf ty) i) := by
  simp only [vec2, if_neg h]

/-- An instruction that writes one vector register lane by lane. -/
theorem execVec_answers {i : Instr} {gu : Guard} {ty : BitVec 4} {srcs : List VReg} {d : VReg}
    {f : (Nat → Bool) → State → VecRes} {r : Nat → LaneRes} (h : IssuesPlain s (vecUses gu ty srcs [d] s))
    (hi : exec i s = execVec gu ty srcs d f s)
    (hr : f (s.active gu ty.toNat) s = lanewise ty.toNat (s.active gu ty.toNat) r) :
    AnswersV s i (vecUses gu ty srcs [d] s) d ty.toNat (s.active gu ty.toNat) r :=
  answersV_of_done h hi (congrArg (fun r => Res.done (s.writeVec d r)) hr)

theorem vec2_answers {i : Instr} (op : V2Op) (rm : BitVec 3) {gu : Guard} {ty : BitVec 4} {sat : Bool} {d a b : VReg}
    (hop : op ≠ .vperm) (h : IssuesPlain s (vecUses gu ty [a, b] [d] s))
    (hi : exec i s = execVec gu ty [a, b] d (fun act s => vec2 op ty.toNat rm.toNat sat act (s.rv a) (s.rv b)) s) :
    AnswersV s i (vecUses gu ty [a, b] [d] s) d ty.toNat (s.active gu ty.toNat)
      (fun i => v2Lane op ty.toNat rm.toNat sat (lane (s.rv a) (bitsOf ty.toNat) i) (lane (s.rv b) (bitsOf ty.toNat) i)) :=
  execVec_answers h hi (vec2_lanewise hop ..)

theorem vec3_answers {i : Instr} (op : V3Op) (rm : BitVec 3) {gu : Guard} {ty : BitVec 4} {sat : Bool} {d a b c : VReg}
    (h : IssuesPlain s (vecUses gu ty [a, b, c] [d] s))
    (hi : exec i s = execVec gu ty [a, b, c] d
      (fun act s => vec3 op ty.toNat rm.toNat sat act (s.rv a) (s.rv b) (s.rv c)) s) :
    AnswersV s i (vecUses gu ty [a, b, c] [d] s) d ty.toNat (s.active gu ty.toNat)
      (fun i => v3Lane op ty.toNat rm.toNat sat (lane (s.rv a) (bitsOf ty.toNat) i) (lane (s.rv b) (bitsOf ty.toNat) i)
        (lane (s.rv c) (bitsOf ty.toNat) i)) :=
  execVec_answers h hi rfl

/-! ## Long vector operations -/

section
variable {gu : Guard} {la ty : BitVec 4} {srcs : List VReg} {d : VReg} {f : (Nat → Bool) → State → VecRes}

variable {i : Instr} (hi : exec i s = execLongVec gu la ty srcs d f s)
include hi

theorem execLongVec_stalls (h : IssuesPlain s { vecUses gu ty srcs [d] s with long := true })
    (hf : ∃ p ∈ s.me.pend, p.cls = .vdivide ∧ p.need ≠ 0) : exec i s = .next s :=
  hi.trans <| runs_stall h rfl (if_pos (any_inFlight_true hf))

/-- With none in flight, the active lanes' rounded results and flags become pending, for those lanes alone. -/
theorem execLongVec_starts {r : Nat → LaneRes} (h : IssuesPlain s { vecUses gu ty srcs [d] s with long := true })
    (hf : ∀ p ∈ s.me.pend, p.cls = .vdivide → p.need = 0)
    (hr : f (s.active gu ty.toNat) s = lanewise ty.toNat (s.active gu ty.toNat) r) :
    ∃ t p, exec i s = .next t ∧
      Completes s t { vecUses gu ty srcs [d] s with long := true } (s.pc + 12) [] [] [] {} [p] ∧
      p.id = s.ctr ∧ p.lv = s.lv ∧ p.dst = some (.v d.toNat) ∧ p.win = la.toNat ∧ p.pc = s.pc ∧
      p.cls = .vdivide ∧ p.need = 1 ∧ p.flags = activeFlags ty.toNat (s.active gu ty.toNat) r ∧
      LanesWritten ty.toNat (s.active gu ty.toNat) r (s.rv d) (blend (s.rv d) p.val p.mask) := by
  have hidle := ne_true_of_eq_false (any_inFlight_false hf)
  refine ⟨_, _, hi.trans (runs_done h (if_neg hidle)), completes_enterPend h.enabled (Nat.le_refl _) _, rfl, rfl, rfl, rfl, rfl, rfl, rfl, ?_, ?_⟩
  · exact (congrArg VecRes.flags hr).trans (lanewise_flags ..)
  · show LanesWritten _ _ _ _ (blend _ (f _ _).val (f _ _).mask)
    rw [hr]
    exact lanewise_lanes ty _ r _

end

end Sys2Proof.Machine
end

section
/-!
SUPPORT. Pairs (R53): what each half writes, as a change of the core that holds the values both halves read before.
-/

namespace Sys2Proof.Machine

open Sys2Proof

/-! ## What a half writes -/

/-- The predicates a scalar destination names. -/
def SDst.ps : SDst → List Nat
  | .p d => [d.toNat]
  | .g _ => []

/-- The predicates, the vector registers and the flags that applying a vector half's result writes. -/
def VWrite.ps : VWrite → List Nat
  | .v _ _ => []
  | .p d _ _ => [d.toNat]

def VWrite.vs : VWrite → List Nat
  | .v d _ => [d.toNat]
  | .p _ _ _ => []

def VWrite.flags : VWrite → FFlags
  | .v _ r => r.flags
  | .p _ _ f => f

/-- Writing a scalar result at a level of a core. -/
def Core.putHalf (lv : Bool) (d : SDst) (x : Word) (c : Core) : Core :=
  match d with
  | .g d => c.setG lv d.toNat x
  | .p d => c.setP lv d.toNat x

/-- Writing a vector half's result at a level of a core. -/
def Core.putV (lv : Bool) (y : VWrite) (c : Core) : Core :=
  match y with
  | .v d r => (c.setV d.toNat (blend (c.vreg d.toNat) r.val r.mask)).raise lv r.flags
  | .p d x f => (c.setP lv d.toNat x).raise lv f

variable {c e : Core} {lv : Bool} {s : State} {u : Uses}

theorem Core.putHalf_changes (d : SDst) (x : Word) : c.Changes (c.putHalf lv d x) lv d.gs d.ps [] {} [] := by
  cases d with
  | g d => exact c.setG_changes lv d.toNat x
  | p d => exact c.setP_changes lv d.toNat x

theorem Core.putV_changes (y : VWrite) : c.Changes (c.putV lv y) lv [] y.ps y.vs y.flags [] := by
  cases y with
  | v d r => exact (c.setV_changes lv d.toNat _).trans (Core.raise_changes _ lv r.flags)
  | p d x f => exact (c.setP_changes lv d.toNat x).trans (Core.raise_changes _ lv f)

/-- A half that does not execute leaves no effect (R46). -/
theorem Core.Changes.ite {gs ps vs : List Nat} {f : FFlags} (h : c.Changes e lv gs ps vs f []) (b : Bool) :
    c.Changes (if b then e else c) lv (if b then gs else []) (if b then ps else []) (if b then vs else [])
      (if b then f else {}) [] := by
  cases b with
  | true => exact h
  | false => exact c.changes_refl lv

theorem Core.Changes.level_eq {gs ps vs : List Nat} {f : FFlags} {new : List Pend} (h : c.Changes e lv gs ps vs f new) :
    e.level = c.level := by rw [h.core]

theorem State.writeHalf_eq (h : IssuesPlain s u) {d : SDst} (hd : ∀ r ∈ d.gs, r ∈ u.ws) (x : Word) :
    s.writeHalf d x = s.setCore s.cur (s.me.putHalf s.lv d x) := by
  cases d with
  | g d => exact dst_plain h (hd _ (List.mem_singleton_self _)) x
  | p d => rfl

theorem State.writeV_eq (y : VWrite) : s.writeV y = s.setCore s.cur (s.me.putV s.lv y) := by
  cases y with
  | v d r => exact writeVec_eq d r
  | p d x f =>
    simp only [State.writeV, State.wp, State.raise, State.updMe_updMe]
    refine congrArg (s.setCore s.cur) ?_
    exact congrArg (fun lv => (s.me.setP s.lv d.toNat x).raise lv f) (s.me.setP_changes s.lv d.toNat x).level_eq

theorem writeV_setCore (hl : e.level = s.lv) (y : VWrite) :
    (s.setCore s.cur e).writeV y = s.setCore s.cur (e.putV s.lv y) := by
  have hme : (s.setCore s.cur e).me = e := s.core_setCore_same s.cur e
  have hlv : (s.setCore s.cur e).lv = s.lv := (congrArg Core.level hme).trans hl
  rw [State.writeV_eq, hme, hlv]
  exact s.setCore_setCore _ _ _

/-- An effect on the executing core alone, and the registers it leaves. -/
theorem completes_setCore {gs ps vs : List Nat} {f : FFlags} (hu : u.on = true)
    (hc : s.me.Changes e s.lv gs ps vs f []) (pc : Word) :
    let t := State.after s u (s.setCore s.cur e) pc
    Completes s t u pc gs ps vs f [] ∧ (∀ r, t.rg r = e.g s.lv r.toNat) ∧ (∀ r, t.rp r = e.p s.lv r.toNat) ∧
      ∀ r, t.rv r = e.vreg r.toNat := by
  intro t
  have h : Completes s t u pc gs ps vs f [] := completes_of_changes hu hc (by simp) pc
  have hme : (s.setCore s.cur e).me = e := s.core_setCore_same s.cur e
  refine ⟨h, fun r => ?_, fun r => ?_, fun r => ?_⟩
  · rw [State.rg, lv_of_completes h, g_after, hme]
  · rw [State.rp, lv_of_completes h, p_after, hme]
  · rw [State.rv, vreg_after, hme]

/-! ## Both halves -/

/-- The core after both halves have written what they computed before either did. -/
def Core.putPair (lv : Bool) (son von : Bool) (d : SDst) (x : Word) (y : VWrite) (c : Core) : Core :=
  let e := if son then c.putHalf lv d x else c
  if von then e.putV lv y else e

theorem Core.putPair_changes (son von : Bool) (d : SDst) (x : Word) (y : VWrite) :
    c.Changes (c.putPair lv son von d x y) lv (if son then d.gs else []) ((if son then d.ps else []) ++ y.ps) y.vs
      (if von then y.flags else {}) [] := by
  have h := ((Core.putHalf_changes (c := c) (lv := lv) d x).ite son).trans ((Core.putV_changes y).ite von)
  have hf : FFlags.or {} (if von then y.flags else {}) = if von then y.flags else {} := by simp [FFlags.or]
  simp only [ite_self, List.nil_append, hf] at h
  exact h.mono (by cases von <;> simp) (by cases von <;> simp) (by cases von <;> simp)

theorem Core.g_putPair {d : Reg} (von : Bool) (x : Word) (y : VWrite) :
    (c.putPair lv true von (.g d) x y).g lv d.toNat = if d = 0 then 0 else x := by
  have hg : ((c.putHalf lv (.g d) x).g lv d.toNat) = if d = 0 then 0 else x := by
    rw [Core.putHalf, Core.g_setG, if_pos rfl]
    simp [← BitVec.toNat_inj]
  cases von with
  | false => exact hg
  | true => exact ((Core.putV_changes y).general _ (by simp)).trans hg

theorem Core.p_putPair_scalar {d : PReg} {von : Bool} (x : Word) {y : VWrite} (hy : d.toNat ∉ y.ps) :
    (c.putPair lv true von (.p d) x y).p lv d.toNat = if d = 7 then ones else x := by
  have hp : ((c.putHalf lv (.p d) x).p lv d.toNat) = if d = 7 then ones else x := by
    rw [Core.putHalf, Core.p_setP, if_pos rfl]
    simp [← BitVec.toNat_inj]
  cases von with
  | false => exact hp
  | true => exact ((Core.putV_changes y).predicates _ hy).trans hp

theorem Core.p_putPair_vector (son : Bool) (d' : SDst) (x : Word) (d : PReg) (w : Word) (f : FFlags) :
    (c.putPair lv son true d' x (.p d w f)).p lv d.toNat = if d = 7 then ones else w := by
  have h (e : Core) : (e.putV lv (.p d w f)).p lv d.toNat = if d = 7 then ones else w := by
    rw [Core.putV, (Core.raise_changes _ lv f).predicates _ (by simp), Core.p_setP, if_pos rfl]
    simp [← BitVec.toNat_inj]
  exact h _

theorem Core.vreg_putPair (son : Bool) (d' : SDst) (x : Word) (d : VReg) (r : VecRes) :
    (c.putPair lv son true d' x (.v d r)).vreg d.toNat = blend (c.vreg d.toNat) r.val r.mask := by
  have h (e : Core) (he : e.vreg d.toNat = c.vreg d.toNat) :
      (e.putV lv (.v d r)).vreg d.toNat = blend (c.vreg d.toNat) r.val r.mask := by
    rw [Core.putV, (Core.raise_changes _ lv _).vectors _ (by simp), Core.vreg_setV, if_pos rfl, he]
  refine h _ ?_
  cases son with
  | false => rfl
  | true => exact (Core.putHalf_changes d' x).vectors _ (by simp)

/-- A scalar operation's value is that of the registers, where its operands read as the registers. -/
theorem halfValue_eq {h : SHalf} (hs : ∀ r ∈ halfSrcs h, s.src r = s.rg r) :
    s.halfValue h = halfVal s.rg s.rp s.pc h := by
  unfold State.halfValue
  cases h <;> simp_all [halfVal, halfSrcs]

/-- What applying a vector half's result writes are the registers that the half names. -/
theorem vhalf_writes (act : Nat → Bool) (vh : VHalf) :
    (s.vhalf act vh).ps = (match vh with | .vcmp _ _ d _ _ => [d.toNat] | _ => []) ∧
      (s.vhalf act vh).vs = (vhalfDst vh).toList.map (fun r => r.toNat) := by
  cases vh <;> exact ⟨rfl, rfl⟩

theorem execPair_eq {gu : Guard} {sh : SHalf} {vh : VHalf} (h : IssuesPlain s (pairUses gu sh vh s)) :
    exec (.pair gu sh vh) s = .next (State.after s (pairUses gu sh vh s)
      (s.setCore s.cur (s.me.putPair s.lv (s.guard gu) (s.vguard gu (vhalfTy vh)) (halfDst sh)
        (halfVal s.rg s.rp s.pc sh) (s.vhalf (s.active gu (vhalfTy vh)) vh)))
      (s.pc + if sh.lit?.isSome then 20 else 12)) := by
  have hx (hg : s.guard gu = true) : s.halfValue sh = halfVal s.rg s.rp s.pc sh :=
    halfValue_eq fun r hr => src_of_plain h (by simpa [pairUses, hg] using ⟨r, hr, rfl⟩)
  have hd (hg : s.guard gu = true) : ∀ r ∈ (halfDst sh).gs, r ∈ (pairUses gu sh vh s).ws := by
    simp [pairUses, hg]
  have hlen : word (pairUses gu sh vh s).len = if sh.lit?.isSome then 20 else 12 := by
    unfold pairUses; cases sh.lit?.isSome <;> rfl
  rw [← hlen]
  refine runs_done h ?_
  refine congrArg Res.done ?_
  unfold Core.putPair
  cases hg : s.guard gu with
  | false =>
    cases hv : s.vguard gu (vhalfTy vh) with
    | false => exact absurd h.enabled (by simp [pairUses, hg, hv])
    | true => exact State.writeV_eq _
  | true =>
    simp only [if_true, hx hg, State.writeHalf_eq h (hd hg)]
    cases s.vguard gu (vhalfTy vh) with
    | false => rfl
    | true =>
      exact writeV_setCore (Core.putHalf_changes _ _).level_eq _

end Sys2Proof.Machine
end

section
/-!
SUPPORT. Fetching one word (R38, R402, R411, R436).
-/

namespace Sys2Proof.Machine

open Sys2Proof

variable {s : State} {ck : Nat} {va : Word}

/-- A hit of a TLB whose entry permits the access gives its address, and is noted in the TLB (R411). -/
theorem translate_hit {bk : Nat} {i : TlbId} {r : Rqst} {asid va : Nat} {acc : Acc} {pv : Bool} {e : TlbEnt}
    (hf : ((s.bay bk).tlb i).find? (fun e => e.maps asid va) = some e) (hp : e.permits acc pv = true) :
    s.translate bk i r asid va acc pv = (.phys (e.phys va), s.setBay bk ((s.bay bk).tlbTouch i asid va s.stepNo)) := by
  simp only [State.translate, hf, hp, if_true]

theorem tlbTouch_icache (b : Bay) (i : TlbId) (asid va stamp : Nat) : (b.tlbTouch i asid va stamp).icache = b.icache := by
  cases i <;> rfl

theorem inGlobal_iff : inGlobal va = true ↔ va.toNat < 2 ^ 52 := decide_eq_true_iff

theorem ofNat_vecBytes_word (v : Vec) (o : Nat) : BitVec.ofNat 32 (vecBytes v o 4) = BitVec.ofNat 32 (v.toNat / 2 ^ (8 * o)) := by
  rw [vecBytes, ← BitVec.toNat_inj, BitVec.toNat_ofNat, BitVec.toNat_ofNat, Nat.mod_mod_of_dvd _ (Nat.dvd_refl _)]

theorem fetchWord_outside (h : 2 ^ 52 ≤ va.toNat) : s.fetchWord ck va = .fail va .aperture s := by
  have hg : inGlobal va = false := by rw [← Bool.not_eq_true, inGlobal_iff]; omega
  simp only [State.fetchWord, hg, Bool.not_false, if_true]

/-- A word whose translation and whose line are both at hand in the bay. -/
theorem fetchWord_hit {e : TlbEnt} {line : Vec} (hva : va.toNat < 2 ^ 52)
    (he : (s.bay (bayOf ck)).ift.find? (fun e => e.maps (s.hallOfCore ck).asid va.toNat) = some e)
    (hp : e.permits 2 (s.core ck).pv = true)
    (hl : (s.bay (bayOf ck)).icache.find? (fun l => l.1 == lineOf (e.phys va.toNat)) = some (lineOf (e.phys va.toNat), line)) :
    s.fetchWord ck va = .words [BitVec.ofNat 32 (line.toNat / 2 ^ (8 * (e.phys va.toNat % 128)))]
      (s.setBay (bayOf ck) ((s.bay (bayOf ck)).tlbTouch .ift (s.hallOfCore ck).asid va.toNat s.stepNo)) := by
  simp only [State.fetchWord, inGlobal_iff.mpr hva, Bool.not_true, Bool.false_eq_true, if_false,
    translate_hit (i := .ift) he hp, State.bay_setBay_same, tlbTouch_icache, hl, ofNat_vecBytes_word]

end Sys2Proof.Machine
end

section
/-!
SUPPORT. One step: which instruction it executes (R38, R183, R402).
-/

namespace Sys2Proof.Machine

open Sys2Proof

variable {s t : State} {ck : Nat} {ws : List (BitVec 32)}

theorem step_of_agenda {a : Act} {rest : List Act} (h : s.agenda = a :: rest) :
    step s = State.act { s with agenda := rest, stepNo := s.stepNo + 1 } a := by
  simp only [step, h]

theorem act_issue (h : s.closing = false) (ck : Nat) : s.act (.issue ck) = s.issueCore ck := by
  simp [State.act, h]

theorem act_event {i : Instr} (hu : i.unit = .event) (he : atEnd i = s.closing) : s.act (.event i) = exec i s :=
  if_pos ⟨hu, he⟩

theorem runWords_decoded {i : Instr} (h : decodeWords ws = some i) : s.runWords ck ws = exec i (s.loadIr ck ws) := by
  simp only [State.runWords, h]

theorem runWords_undecoded (h : decodeWords ws = none) :
    s.runWords ck ws = exec (.illegalEncoding (ws.getD 0 0)) (s.loadIr ck ws) := by
  simp only [State.runWords, h]; rfl

/-- A core that is ready and may issue fetches at its PC. -/
theorem issueCore_ready (hs : (s.core ck).stopped = false) (hr : ((s.core ck).thr (s.core ck).level).hold = .ready)
    (hm : (s.core ck).mayIssue = true) : s.issueCore ck = s.fetchAndRun ck := by
  simp [State.issueCore, hs, hr, hm]

/-- An instruction that has issued and waits, or stalls at issue, is run again from its own words. -/
theorem issueCore_again (hs : (s.core ck).stopped = false)
    (hr : ((s.core ck).thr (s.core ck).level).hold = .issued ∨
      ((s.core ck).thr (s.core ck).level).hold = .stalled ∧ (s.core ck).mayIssue = true) :
    s.issueCore ck = s.runWords ck ((s.core ck).thr (s.core ck).level).ir := by
  rcases hr with hr | ⟨hr, hm⟩
  · simp [State.issueCore, hs, hr]
  · simp [State.issueCore, hs, hr, hm]

theorem fetchAndRun_words (h : s.fetchInstr ck ((s.core ck).thr (s.core ck).level).pc = .words ws t) :
    s.fetchAndRun ck = t.runWords ck ws := by
  simp only [State.fetchAndRun, h]

theorem fetchAndRun_fail {va : Word} {why : FetchWhy}
    (h : s.fetchInstr ck ((s.core ck).thr (s.core ck).level).pc = .fail va why t) :
    s.fetchAndRun ck = exec (.fetchFault va why) { t with cur := ck } := by
  simp only [State.fetchAndRun, h]; rfl

theorem fetchAndRun_stall (h : s.fetchInstr ck ((s.core ck).thr (s.core ck).level).pc = .stall) :
    s.fetchAndRun ck = .next s := by
  simp only [State.fetchAndRun, h]

end Sys2Proof.Machine
end

section
/-!
SUPPORT. Instructions whose guard is false (R46, R47): they count as one issued instruction and do nothing else.
-/

namespace Sys2Proof.Machine

open Sys2Proof

variable {s : State} {u : Uses}

/-- With its guard false an instruction closes no window, whatever it declares (R47, R50). -/
theorem issued_off (c : Core) (h : u.on = false) (lv : Bool) (lim : Nat) (ports : Bool) :
    c.issued lv u lim ports = c.issued lv u lim false := by
  simp [Core.issued, h]

/-- The traps that come before the guard (R62) do not apply: the instruction is no ILLEGAL and no privileged one, and no
masked window is full. -/
structure PassesToGuard (s : State) (u : Uses) : Prop where
  ready : (s.me.thr s.lv).hold = .ready
  legal : u.illegal = false
  unprivileged : u.priv = none
  room : s.lv = false → s.me.maskOpen = true → u.uncounted = false → s.me.maskCnt < 64

theorem runs_off (h : PassesToGuard s u) (hoff : u.on = false) (body : State → Res) :
    s.runs u body = .next (State.after s u s (s.pc + word u.len)) := by
  have hready : (s.me.thr s.me.level).hold = .ready := h.ready
  have hfull : (!s.me.level && s.me.maskOpen && !u.uncounted && decide (64 ≤ s.me.maskCnt)) = false := by
    have := h.room
    rw [State.lv] at this
    cases hl : s.me.level <;> cases ho : s.me.maskOpen <;> cases hu : u.uncounted <;> simp_all
  simp [State.runs, State.issueWith, hready, h.legal, h.unprivileged, hfull, hoff, State.settle, State.finish, State.after,
    issued_off _ hoff, State.nextPc, State.lv]

/-- What an instruction that is turned off leaves of its core. -/
theorem after_off (hoff : u.on = false) (pc : Word) :
    (State.after s u s pc).mem = s.mem ∧ (State.after s u s pc).me.v = s.me.v ∧
      (State.after s u s pc).me.gHi = s.me.gHi ∧ (State.after s u s pc).me.pend =
        s.me.pend.map (fun p => if p.lv = s.lv ∧ p.id < s.ctr then { p with win := p.win - 1 } else p) := by
  rw [me_after]
  refine ⟨rfl, ?_, ?_, ?_⟩
  · simp [Core.resume, Core.issued]
  · simp [Core.resume, Core.issued]
  · simp [Core.resume, Core.issued, hoff]

/-! ## Well-formed instructions that could be ILLEGAL -/

theorem gdGs_legal {d gs : Reg} (h : gdGsOk d gs = true) : (d == gs && d != 0) = false := by
  simp only [gdGsOk, Bool.or_eq_true, bne_iff_ne, beq_iff_eq] at h
  rcases h with h | h <;> simp [h]

theorem rows_legal {rows rb : BitVec 8} (h : rowsOk rows rb = true) :
    (decide (rows.toNat = 0) || decide (192 < rows.toNat) || decide (rb.toNat = 0) || decide (128 < rb.toNat)) = false := by
  simp only [rowsOk, Bool.and_eq_true, decide_eq_true_eq] at h
  simp only [Bool.or_eq_false_iff, decide_eq_false_iff_not]
  omega

end Sys2Proof.Machine
end

section
/-!
SUPPORT. Which trap an instruction takes (R62), trap entry and the message of a blocked thread (R404, R405, R415), and
ERET (R408).
-/

namespace Sys2Proof.Machine

open Sys2Proof

variable {s t : State} {u : Uses}

/-! ## Which trap is taken -/

section
variable (hr : (s.me.thr s.lv).hold = .ready) (body : State → Res)
include hr

theorem runs_illegal (hi : u.illegal = true) : s.runs u body = .next (s.trap tILLEGAL (s.irWord 0)) := by
  have hr' : (s.me.thr s.me.level).hold = .ready := hr
  simp [State.runs, State.issueWith, hr', hi]

variable (hi : u.illegal = false)
include hi

theorem runs_priv {v : Option Word} (hp : u.priv = some v) (hpv : s.me.pv = false) :
    s.runs u body = .next (s.trap tPRIV (v.getD (s.irWord 0))) := by
  have hr' : (s.me.thr s.me.level).hold = .ready := hr
  simp [State.runs, State.issueWith, hr', hi, hp, hpv]

variable (hp : (u.priv.isSome && !s.me.pv) = false)
include hp

theorem runs_fullMask (hf : (!s.me.level && s.me.maskOpen && !u.uncounted && decide (64 ≤ s.me.maskCnt)) = true) :
    s.runs u body = .next ((s.updMe (fun c => { c with maskOpen := false, maskCnt := 0 })).trap tWINDOW 65) := by
  have hr' : (s.me.thr s.me.level).hold = .ready := hr
  simp only [State.runs, State.issueWith, hr', hi, hp, hf]
  rfl

variable (hf : (!s.me.level && s.me.maskOpen && !u.uncounted && decide (64 ≤ s.me.maskCnt)) = false) (hon : u.on = true)
include hf hon

theorem runs_maskForbids (hm : (!s.me.level && s.me.maskOpen && (u.nomask || s.me.namesPort u)) = true) :
    s.runs u body = .next (s.trap tWINDOW 0) := by
  have hr' : (s.me.thr s.me.level).hold = .ready := hr
  simp only [State.runs, State.issueWith, hr', hi, hp, hf, hon, hm]
  rfl

theorem runs_windowViolated (hm : (!s.me.level && s.me.maskOpen && (u.nomask || s.me.namesPort u)) = false) {p : Pend}
    (hv : s.me.violated u = some p) : s.runs u body = .next (s.trap tWINDOW p.pc) := by
  have hr' : (s.me.thr s.me.level).hold = .ready := hr
  simp only [State.runs, State.issueWith, hr', hi, hp, hf, hon, hm, hv]
  rfl

end

/-! ## Changes of pending results alone -/

/-- Only the pending results of a core, and the order of their arrival, have changed. -/
def Core.OnlyResults (c e : Core) : Prop := e = { c with pend := e.pend, arrived := e.arrived }

theorem Core.OnlyResults.refl (c : Core) : c.OnlyResults c := rfl

theorem Core.OnlyResults.trans {c d e : Core} (h : c.OnlyResults d) (h' : d.OnlyResults e) : c.OnlyResults e := by
  unfold Core.OnlyResults at *
  rw [h', h]

theorem Core.updPend_onlyResults (c : Core) (id : Nat) (f : Pend → Pend) : c.OnlyResults (c.updPend id f) := rfl

theorem Core.OnlyResults.thr_eq {c e : Core} (h : c.OnlyResults e) (lv : Bool) : e.thr lv = c.thr lv := by
  rw [h]; cases lv <;> rfl

/-- Every core of a state keeps all but its pending results. -/
def State.OnlyResults (s t : State) : Prop := ∀ k, (s.core k).OnlyResults (t.core k)

theorem updCore_onlyResults {k : Nat} {f : Core → Core} (hf : (s.core k).OnlyResults (f (s.core k))) :
    s.OnlyResults (s.updCore k f) := by
  intro q
  rw [State.updCore, State.core_setCore]
  split
  · next h => rw [← h]; exact hf
  · exact .refl _

/-- Waking what waits gives a result to each waiter (R262). -/
theorem foldl_arrive_onlyResults (ms : List Mon) :
    s.OnlyResults (ms.foldl (fun s m => s.updCore m.core (fun c => c.arrive m.pend 0 {})) s) :=
  foldl_keeps s.OnlyResults (fun _ _ hb k => (hb k).trans (updCore_onlyResults (Core.updPend_onlyResults ..) k)) ms
    fun _ => .refl _

theorem notify_vault_onlyResults (v o n : Nat) : s.OnlyResults (s.notify (.vault v o) n) := by
  have hwake (ts : SMap Tile) (ms : List Mon) (b : Bool) : s.OnlyResults
      (if b then s else ms.foldl (fun s m => s.updCore m.core (fun c => c.arrive m.pend 0 {})) { s with tiles := ts }) := by
    cases b with
    | true => exact fun _ => .refl _
    | false => exact foldl_arrive_onlyResults (s := { s with tiles := ts }) ms
  exact hwake _ _ _

/-! ## The record of a message -/

theorem core_updMem (f : Mems → Mems) (k : Nat) : (s.updMem f).core k = s.core k := rfl

theorem putRec_onlyResults (tile off : Nat) (r : Rec) : s.OnlyResults (s.putRec tile off r) := by
  intro k
  rw [State.putRec, ← core_updMem (s := s)]
  exact notify_vault_onlyResults _ _ _ k

/-- A record put into a core's queue, or into the overflow of its tile, changes no other core but for results. -/
theorem postHandler_others {ck sender : Nat} {r : HRec} (h : s.postHandler ck sender r = some t) {k : Nat} (hk : k ≠ ck) :
    (s.core k).OnlyResults (t.core k) := by
  unfold State.postHandler at h
  dsimp only at h
  split at h
  · cases h
  split at h
  · cases h
    rw [State.core_setCore, if_neg (Ne.symm hk)]
    exact .refl _
  split at h
  · cases h
    exact putRec_onlyResults (s := s.setTile _ _) _ _ _ k
  · cases h

/-- There is room while no record has been posted at the tile in this cycle and its overflow is not full (R415). -/
theorem postHandler_room {ck sender : Nat} (r : HRec) (hl : (s.tile (tileOf ck)).lastPost.1 ≠ s.cycle)
    (ho : (s.tile (tileOf ck)).overflow.length < 2048) : ∃ t, s.postHandler ck sender r = some t := by
  unfold State.postHandler
  dsimp only
  rw [if_neg (fun h => hl h.1)]
  split
  · exact ⟨_, rfl⟩
  · exact ⟨_, if_pos ho⟩

/-! ## Blocking on a message -/

theorem cancelHall_core (h k : Nat) : (s.cancelHall h).core k = s.core k := by
  unfold State.cancelHall
  split
  · rfl
  split
  · split <;> rfl
  · rfl

theorem postService_others {h : Hall} {frame : Word} {tidx k : Nat} (hp : s.postService h frame tidx = .posted t)
    (hk : k ≠ h.service) : (s.core k).OnlyResults (t.core k) := by
  unfold State.postService at hp
  split at hp
  · cases hp
  split at hp
  · next hs => cases hp; exact postHandler_others hs hk
  · cases hp

/-- Is there room for a record in the overflow of a core's tile, with nothing posted there in this cycle (R415)? -/
def State.HasRoom (s : State) (ck : Nat) : Prop :=
  (s.tile (tileOf ck)).lastPost.1 ≠ s.cycle ∧ (s.tile (tileOf ck)).overflow.length < 2048

theorem postService_not_full {h : Hall} {frame : Word} {tidx : Nat} (hr : s.HasRoom h.service) :
    s.postService h frame tidx ≠ .full := by
  unfold State.postService
  obtain ⟨t, ht⟩ := postHandler_room (s := s) (sender := h.senderOf tidx)
    { crec := { code := h.stallh, frame := frame, jctr := 0, tidx := word tidx }, svc := true } hr.1 hr.2
  rw [ht]
  split <;> simp

theorem Core.setHold_setHold (c : Core) (lv : Bool) (h h' : Hold) : (c.setHold lv h).setHold lv h' = c.setHold lv h' := by
  cases lv <;> rfl

/-- A thread that blocks on a message stands for the service core, or waits for room there; nothing else of its core
changes but results (R405, R415). -/
structure State.Blocks (s t : State) (ck : Nat) (lv dbl : Bool) (code : Nat) (frame : Word) (h : Hold) : Prop where
  hold : h = .service dbl code frame ∨ h = .unserviced dbl code frame
  posted : s.HasRoom (s.hallOfCore ck).service → h = .service dbl code frame
  core : ((s.core ck).setHold lv h).OnlyResults (t.core ck)

theorem postTrap_blocks (ck : Nat) (lv dbl : Bool) (code : Nat) (frame : Word) :
    ∃ h, s.Blocks (s.postTrap ck lv dbl code frame) ck lv dbl code frame h := by
  have hcore (f : Core → Core) (w : State) : (w.updCore ck f).core ck = f (w.core ck) := State.core_setCore_same ..
  unfold State.postTrap
  dsimp only
  split
  · refine ⟨.service dbl code frame, .inl rfl, fun _ => rfl, ?_⟩
    rw [← hcore (fun c => c.setHold lv _) s]
    exact .refl _
  next hk =>
  split
  · next s' hp =>
    refine ⟨.service dbl code frame, .inl rfl, fun _ => rfl, ?_⟩
    rw [← hcore (fun c => c.setHold lv _) s]
    exact postService_others hp hk
  · next hp =>
    refine ⟨.unserviced dbl code frame, .inr rfl, fun hr => absurd hp (postService_not_full hr), ?_⟩
    rw [hcore, hcore, Core.setHold_setHold]
    exact .refl _
  · next hp =>
    refine ⟨.service dbl code frame, .inl rfl, fun _ => rfl, ?_⟩
    rw [cancelHall_core, hcore]
    exact .refl _

/-- A blocked thread's trap registers, mode and PC are those it had. -/
theorem State.Blocks.kept {ck : Nat} {lv dbl : Bool} {code : Nat} {frame : Word} {h : Hold}
    (hb : s.Blocks t ck lv dbl code frame h) :
    (t.core ck).tpc = (s.core ck).tpc ∧ (t.core ck).tval = (s.core ck).tval ∧ (t.core ck).tcause = (s.core ck).tcause ∧
      (t.core ck).tBit = (s.core ck).tBit ∧ (t.core ck).pv = (s.core ck).pv ∧
      (t.core ck).thr lv = { (s.core ck).thr lv with hold := h } := by
  have he := hb.core
  rw [he.thr_eq, he]
  cases lv <;> exact ⟨rfl, rfl, rfl, rfl, rfl, rfl⟩

/-! ## Trap entry -/

theorem vector_eq_zero {x : Word} (h : x.toNat / 4 = 0) : (x &&& ~~~3) = 0 := by
  have hx : x = 0 ∨ x = 1 ∨ x = 2 ∨ x = 3 := by bv_omega
  rcases hx with rfl | rfl | rfl | rfl <;> decide

section
variable {ck : Nat} (lv : Bool) (code : Nat) (tval : Word) (fetch : Bool)

/-- The core once the first trap's registers are written (R403, R404). -/
def Core.noteTrap (c : Core) (lv : Bool) (code : Nat) (tval : Word) (fetch : Bool) : Core :=
  { c with tpc := c.pcOf lv &&& ~~~3, tcause := causeWord lv fetch code, tval := tval }

/-- The core at its handler (R404). -/
def Core.enterHandler (c : Core) (lv : Bool) : Core :=
  (({ c with tBit := true, pvSave := c.pv, pv := true, maskOpen := false, maskCnt := 0 } : Core).setPc lv
    (c.tvec &&& ~~~3)).setHold lv .ready

theorem trapEntry_double (ht : (s.core ck).tBit = true) :
    s.trapEntry ck lv code tval fetch = s.postTrap ck lv true code ((s.core ck).pcOf lv) := by
  simp only [State.trapEntry, ht, if_true]

theorem trapEntry_noHandler (ht : (s.core ck).tBit = false) (hv : (s.core ck).tvec.toNat / 4 = 0) :
    s.trapEntry ck lv code tval fetch =
      (s.setCore ck ((s.core ck).noteTrap lv code tval fetch)).postTrap ck lv false code ((s.core ck).pcOf lv) := by
  simp only [State.trapEntry, ht, Bool.false_eq_true, if_false, vector_eq_zero hv, if_true, Core.noteTrap]

theorem trapEntry_handler (ht : (s.core ck).tBit = false) (hv : (s.core ck).tvec.toNat / 4 ≠ 0) :
    s.trapEntry ck lv code tval fetch =
      s.setCore ck (((s.core ck).noteTrap lv code tval fetch).enterHandler lv) := by
  simp only [State.trapEntry, ht, Bool.false_eq_true, if_false, vector_ne_zero hv]
  rfl

theorem causeWord_eq : causeWord lv fetch code = word (code + (if fetch then 256 else 0) + (if lv then 512 else 0)) := by
  cases lv <;> cases fetch <;> rfl

/-- Entering a handler changes, of the core's registers, none of either bank (R404). -/
theorem enterHandler_core (c : Core) :
    let d := c.enterHandler lv
    d.tBit = true ∧ d.pvSave = c.pv ∧ d.pv = true ∧ d.maskOpen = false ∧ d.level = c.level ∧
      (d.thr lv).pc = (c.tvec &&& ~~~3) ∧ (d.thr lv).hold = .ready ∧ (d.thr lv).g = (c.thr lv).g ∧
      (d.thr lv).p = (c.thr lv).p ∧ d.gHi = c.gHi ∧ d.v = c.v ∧ d.thr (!lv) = c.thr (!lv) ∧
      d.tpc = c.tpc ∧ d.tval = c.tval ∧ d.tcause = c.tcause := by
  cases lv <;> exact ⟨rfl, rfl, rfl, rfl, rfl, rfl, rfl, rfl, rfl, rfl, rfl, rfl, rfl, rfl, rfl⟩

end

/-! ## ERET -/

/-- What ERET leaves of its core, at whatever level `lv` it executes (R408). -/
theorem eret_core (c : Core) (lv : Bool) (lim : Nat) (held : List (Nat × Word)) (heldV : List (Nat × Vec))
    (late : Option Word) :
    let d := c.eret.issued lv u lim false
    let e := d.setThr lv { d.thr lv with hold := .ready, held := held, heldV := heldV, late := late }
    (e.tBit = false ∧ e.pv = c.pvSave ∧ e.level = bitAt c.tcause 9 ∧ e.pcOf (bitAt c.tcause 9) = c.tpc) ∧
      (e.thr lv).hold = .ready ∧ (∀ l r, e.g l r = c.g l r) ∧ (∀ l r, e.p l r = c.p l r) ∧
      e.v = c.v ∧ e.tvec = c.tvec ∧ e.tpc = c.tpc ∧ e.tval = c.tval ∧ e.tcause = c.tcause := by
  unfold Core.eret
  generalize bitAt c.tcause 9 = resumed
  refine ⟨?_, ?_, fun l r => ?_, fun l r => ?_, ?_⟩
  · cases resumed <;> cases lv <;> exact ⟨rfl, rfl, rfl, rfl⟩
  · rw [Core.thr_setThr]
  · cases resumed <;> cases lv <;> cases l <;> rfl
  · cases resumed <;> cases lv <;> cases l <;> rfl
  · cases resumed <;> cases lv <;> exact ⟨rfl, rfl, rfl, rfl, rfl⟩

end Sys2Proof.Machine
end

section
/-!
PROOFS. The statements of 02_encoding_and_opcode_map.
-/

namespace Sys2Proof

open Machine

/-- Settles O57: an instruction is the candidate of its own words, and the decoder takes a candidate only where the words
are its encoding. -/
theorem decodeEncode : Obligations.DecodeEncode := by
  unfold Obligations.DecodeEncode
  refine ⟨fun i hc hw hi hf => ?_, fun w0 w1 w2 w3 w4 i h => ?_, fun idx c hok => ?_, fun idx w c h => ?_⟩
  · obtain ⟨w0, rest, he, hlen, hcand⟩ := names_encode i hc hw hi hf
    refine ⟨w0, rest, he, hlen, fun w hag => decode_eq_some.mpr ⟨hcand w hag, hw, ?_⟩⟩
    have h0 : w 0 = w0 := by rw [hag 0 (by simp [he]), he]; rfl
    rw [h0, ← hlen, ← h0]
    refine (take_of_agree ?_ hag).symm
    rcases lenWords_cases w0 with h | h | h <;> omega
  · obtain ⟨-, hw, he⟩ := decode_eq_some.mp h
    refine ⟨core_of_encode ?_, hw, he⟩
    rw [he]
    rcases lenWords_cases w0 with h | h | h <;> simp [h]
  · simp [decodeChunk, candChunk_word, hok]
  · unfold decodeChunk at h
    split at h
    · cases h
    · next c' _ =>
      obtain ⟨hc, rfl⟩ : (c'.word = w ∧ c'.ok idx = true) ∧ c' = c := by simpa using h
      exact hc.symm

/-- Settles O26: the result is the first that can be written, `Core.writeback_eq`, and `Core.writePend_written` says what
writing it leaves in each register. -/
theorem resultsReachTheirRegisters : Obligations.ResultsReachTheirRegisters := by
  unfold Obligations.ResultsReachTheirRegisters
  intro s ck id p c hfind hneed hacc hwin hfree hbanked hshared hpred c1
  have hwb := Core.writeback_eq hfind hneed hacc hwin
  refine ⟨fun hlater => ?_, fun hfirst => ?_⟩
  · have hw : (s.core ck).writeback id = c1 := hwb.trans (if_pos hlater)
    have he := exec_resultWriteback_of_free (s := s) (ck := ck) (id := id) (by rw [hw]; exact hfree)
    rw [he, hw]; rfl
  · let e0 : Core := { c1 with pend := c1.pend.filter (fun q => q.id != id), arrived := c1.arrived.filter (fun i => i != id) }
    have hw : (s.core ck).writeback id = e0.writePend p.arrivedHere :=
      hwb.trans (if_neg (by rw [← Bool.not_eq_true] at hfirst; exact hfirst))
    have hnamed : p.arrivedHere.Named :=
      ⟨by simpa using hbanked, by simpa using hshared, by simpa using hpred⟩
    obtain ⟨hg, hp, hv, hfp, hhold, hpend⟩ := Core.writePend_written (c := e0) hnamed
    simp only [Pend.arrivedHere_lv, Pend.arrivedHere_dst, Pend.arrivedHere_val, Pend.arrivedHere_mask,
      Pend.arrivedHere_flags] at hg hp hv hfp hhold hpend
    refine ⟨_, exec_resultWriteback_of_free fun lv => ?_, ?_⟩
    · rw [hw, hhold, Core.hold_raise]; exact hfree lv
    · rw [hw]
      simp only [State.core_setCore_same]
      refine ⟨rfl, ?_, fun lv => ?_, hg, hp, hv⟩
      · rw [hpend, Core.raise, Core.setThr_pend]
        exact filter_not_updFirst (p := fun q => q.id == id) (fun q => by rw [q.arrivedHere_id]) c.pend
      · rw [hfp, Core.fp_raise]; rfl

/-- Settles O5: `divBody` stalls with a divide in flight, and else enters the quotient or remainder of `divVal`. -/
theorem divides : Obligations.Divides := by
  unfold Obligations.Divides
  intro s d a b la u x y (hi : IssuesPlain s (divUses d a b))
  refine ⟨fun hf => ?_, fun hf => ?_⟩
  · have hs := runs_div_starts (la := la) hi hf
    exact ⟨hs .div, hs .divw, hs .rem, hs .remw⟩
  · have hs := runs_div_stall (la := la) hi hf
    exact ⟨hs .div, hs .divw, hs .rem, hs .remw⟩

/-- Settles O7: each operation is one rounding, `roundLane`, in every active lane; the three long ones enter it as a
pending result, `execLongVec_starts`. -/
theorem vectorFloatingPoint : Obligations.VectorFloatingPoint := by
  unfold Obligations.VectorFloatingPoint
  refine ⟨?_, ?_⟩
  · intro s gu ty rm sat d a b c act x y z round
    have hround v : round v = roundLane ty.toNat rm.toNat sat v := (roundLane_eq ..).symm
    simp only [hround]
    refine ⟨fun h => ⟨?_, ?_, ?_⟩, fun h => ⟨?_, ?_, ?_⟩⟩
    · exact vec2_answers .vadd rm (by decide) h rfl
    · exact vec2_answers .vsub rm (by decide) h rfl
    · exact vec2_answers .vmul rm (by decide) h rfl
    · simp only [← fmaV_eq]
      exact vec3_answers .vfma rm h rfl
    · simp only [← fmaV_eq]
      exact vec3_answers .vfms rm h rfl
    · simp only [x, y, z, ← v3Lane_vfnma]
      exact vec3_answers .vfnma rm h rfl
  · intro s gu la ty rm sat d a b act x y round starts u2 u1
    have hround sat v : round sat v = roundLane ty.toNat rm.toNat sat v := (roundLane_eq ..).symm
    simp only [hround]
    have hdiv : exec (.vdiv gu la ty rm sat d a b) s = execLongVec gu la ty [a, b] d
      (fun act s => vec2 .vdiv ty.toNat rm.toNat sat act (s.rv a) (s.rv b)) s := rfl
    have hsqrt : exec (.vsqrt gu la ty rm d a) s = execLongVec gu la ty [a] d
      (fun act s => vec1 .vsqrt ty.toNat rm.toNat false act (s.rv a)) s := rfl
    have hrsq : exec (.vrsq gu la ty rm d a) s = execLongVec gu la ty [a] d
      (fun act s => vec1 .vrsq ty.toNat rm.toNat false act (s.rv a)) s := rfl
    refine ⟨fun h => ⟨fun hf => ?_, execLongVec_stalls hdiv h⟩, fun h => ⟨fun hf => ⟨?_, ?_⟩, fun hf => ⟨?_, ?_⟩⟩⟩
    · exact execLongVec_starts hdiv h hf (vec2_lanewise (by decide) ..)
    · exact execLongVec_starts hsqrt h hf rfl
    · exact execLongVec_starts hrsq h hf rfl
    · exact execLongVec_stalls hsqrt h hf
    · exact execLongVec_stalls hrsq h hf

/-- Settles O11: both halves' values are taken from the state before (`execPair_eq`), and `Core.putPair` writes them. -/
theorem pairReadsBeforeWrites : Obligations.PairReadsBeforeWrites := by
  unfold Obligations.PairReadsBeforeWrites
  intro s gu sh vh h x y
  obtain ⟨hps, hvs⟩ := vhalf_writes (s := s) (s.active gu (vhalfTy vh)) vh
  have hc := Core.putPair_changes (c := s.me) (lv := s.lv) (s.guard gu) (s.vguard gu (vhalfTy vh)) (halfDst sh) x y
  obtain ⟨hdone, hg', hp', hv'⟩ := completes_setCore h.enabled hc (s.pc + if sh.lit?.isSome then 20 else 12)
  refine ⟨_, execPair_eq h, ?_, fun hg d hd => ?_, fun hg d hd hne => ?_, fun hv d r hy => ?_, fun hv d w f hy => ?_⟩
  · rw [hps, hvs] at hdone
    exact hdone
  · refine (hg' d).trans ?_
    rw [hg, hd]
    exact Core.g_putPair _ _ _
  · have hy : d.toNat ∉ y.ps := by
      intro hmem
      cases hyd : y with
      | v d' r => simp [hyd, VWrite.ps] at hmem
      | p d' w f => exact hne d' w f hyd (BitVec.toNat_inj.mp (by simpa [hyd, VWrite.ps, eq_comm] using hmem))
    refine (hp' d).trans ?_
    rw [hg, hd]
    exact Core.p_putPair_scalar _ hy
  · refine (hv' d).trans ?_
    rw [hv, hy]
    exact Core.vreg_putPair _ _ _ _ _
  · refine (hp' d).trans ?_
    rw [hv, hy]
    exact Core.p_putPair_vector _ _ _ _ _ _

/-- Settles O13: `fetchWord_outside` and `fetchWord_hit`; the hit notes itself in the bay's instruction TLB alone. -/
theorem wordsAreFetchedFromTheirLine : Obligations.WordsAreFetchedFromTheirLine := by
  unfold Obligations.WordsAreFetchedFromTheirLine
  intro s ck va
  refine ⟨fetchWord_outside, ?_⟩
  intro e line hva he hp pa hl
  refine ⟨_, fetchWord_hit hva he hp hl, rfl, fun bk hbk => ?_⟩
  rw [State.bay_setBay, if_neg (Ne.symm hbk)]

/-- Settles O12: by the kind of act the step takes from the agenda. -/
theorem stepRunsTheDecodedInstruction : Obligations.StepRunsTheDecodedInstruction := by
  unfold Obligations.StepRunsTheDecodedInstruction
  refine ⟨fun s ck rest hag => ?_, fun s i rest hag hu he => ?_⟩
  · intro s' th hc hs
    have hstep : step s = s'.issueCore ck := (step_of_agenda hag).trans (act_issue (s := s') hc ck)
    refine ⟨fun hr hm => ?_, fun hw i hd => ?_⟩
    · have hfetch := hstep.trans (issueCore_ready hs hr hm)
      exact ⟨fun ws t i hf hd => hfetch.trans ((fetchAndRun_words hf).trans (runWords_decoded hd)),
        fun ws t hf hd => hfetch.trans ((fetchAndRun_words hf).trans (runWords_undecoded hd)),
        fun va why t hf => hfetch.trans (fetchAndRun_fail hf), fun hf => hfetch.trans (fetchAndRun_stall hf)⟩
    · exact hstep.trans ((issueCore_again hs hw).trans (runWords_decoded hd))
  · exact (step_of_agenda hag).trans (act_event (s := { s with agenda := rest, stepNo := s.stepNo + 1 }) hu he)

/-- Settles O15: what an instruction declares is off with its guard, and `runs_off` says what is left of it. -/
theorem guardsTurnInstructionsOff : Obligations.GuardsTurnInstructionsOff := by
  unfold Obligations.GuardsTurnInstructionsOff
  refine ⟨fun s u body hoff hready hp hi hroom => ?_, ?_⟩
  · exact ⟨_, runs_off ⟨hready, hi, hp, hroom⟩ hoff body, rfl, after_off hoff _⟩
  · intro s gu ty la rm sat h d a b v w t disp imm rows rb bm hready hroom off
    have turned {i : Instr} {u : Uses} {body : State → Res} {len : Nat} (hi : exec i s = s.runs u body)
        (hoff : u.on = false) (hlegal : i.wf = true → u.illegal = false) (hp : u.priv = none) (hlen : u.len = len) :
        off i len := fun hwf =>
      ⟨u, hoff, by rw [hi, runs_off ⟨hready, hlegal hwf, hp, fun hlv ho _ => hroom hlv ho⟩ hoff, hlen]⟩
    refine ⟨fun hg => ⟨?br, ?jal, ?nmask, ?tcfg, ?tld, ?cpgo, ?nmcmd, ?amoadd, ?rdadd, ?pbarr, ?pbwait, ?spawn, ?tend,
      ?step, ?vext, ?vins, ?coll⟩, fun hv => ⟨?vadd, ?vdiv, ?vrsum, ?vmov, ?vld, ?vst⟩⟩
    case br | jal | nmask | nmcmd | amoadd | rdadd | pbarr | pbwait | spawn | tend | vext | vins | coll =>
      exact turned rfl hg (fun _ => rfl) rfl rfl
    case tcfg => exact turned rfl hg rows_legal rfl rfl
    case tld => exact turned rfl hg gdGs_legal rfl rfl
    case cpgo => exact turned rfl hg gdGs_legal rfl rfl
    case step => exact turned rfl hg (fun _ => by rw [hg, Bool.and_false]) rfl rfl
    case vadd | vdiv | vrsum | vmov | vld | vst => exact turned rfl hv (fun _ => rfl) rfl rfl

/-- Settles O16: the order of the checks of `issueWith`; trap entry at a handler (`enterHandler_core`) or on a message
(`postTrap_blocks`); ERET (`eret_core`). -/
theorem trapsAndReturn : Obligations.TrapsAndReturn := by
  unfold Obligations.TrapsAndReturn
  refine ⟨?_, ?_, ?_⟩
  · intro s u body hr full masked
    have hfull : (!s.me.level && s.me.maskOpen && !u.uncounted && decide (64 ≤ s.me.maskCnt)) = true ↔ full := by
      simp [full, State.lv, and_assoc]
    have hmasked : (!s.me.level && s.me.maskOpen && (u.nomask || s.me.namesPort u)) = true ↔ masked := by
      simp [masked, State.lv, and_assoc]
    refine ⟨runs_illegal hr body, fun hi => ⟨fun v hp hpv => runs_priv hr body hi hp hpv, fun hp => ?_⟩⟩
    have hp' : (u.priv.isSome && !s.me.pv) = false := by rcases hp with hp | hp <;> simp [hp]
    refine ⟨fun hf => runs_fullMask hr body hi hp' (hfull.mpr hf), fun hon hf hm => ?_, fun hon hf hm p hv => ?_⟩
    · exact runs_maskForbids hr body hi hp' (Bool.eq_false_iff.mpr (mt hfull.mp hf)) hon (hmasked.mpr hm)
    · exact runs_windowViolated hr body hi hp' (Bool.eq_false_iff.mpr (mt hfull.mp hf)) hon
        (Bool.eq_false_iff.mpr (mt hmasked.mp hm)) hv
  · intro s ck lv fetch code tval c t d svc room
    refine ⟨fun ht => ?_, fun ht hk => ?_⟩
    · by_cases hv : c.tvec.toNat / 4 = 0
      · obtain ⟨h, hb⟩ := postTrap_blocks (s := s.setCore ck (c.noteTrap lv code tval fetch)) ck lv false code (c.pcOf lv)
        rw [← trapEntry_noHandler lv code tval fetch ht hv] at hb
        have hkept := hb.kept
        rw [State.core_setCore_same] at hkept
        obtain ⟨hpc, hval, hcause, hbit, hpv, hthr⟩ := hkept
        have hhold : (d.thr lv).hold = h := congrArg Thread.hold hthr
        refine ⟨hpc, hval, hcause.trans (causeWord_eq lv code fetch), fun hne => absurd hv hne, fun _ _ => ?_⟩
        refine ⟨hbit.trans ht, hpv, (congrArg Thread.pc hthr).trans rfl, ?_, fun hroom => ?_⟩
        · rw [hhold]; exact hb.hold
        · rw [hhold]; exact hb.posted hroom
      · have he : t = _ := trapEntry_handler lv code tval fetch ht hv
        have hd : d = (c.noteTrap lv code tval fetch).enterHandler lv := by
          show t.core ck = _
          rw [he, State.core_setCore_same]
        have hcore := enterHandler_core lv (c.noteTrap lv code tval fetch)
        rw [← hd] at hcore
        obtain ⟨hbit, hsave, hpv, hmask, hlevel, hpc, hhold, hg, hp, hgHi, hvec, hother, htpc, htval, htcause⟩ := hcore
        refine ⟨htpc, htval, htcause.trans (causeWord_eq lv code fetch), fun _ => ?_, fun h0 => absurd h0 hv⟩
        refine ⟨hbit, hsave, hpv, hmask, hlevel, hpc, hhold, hg, hp, hgHi, hvec, hother, ?_, fun k hk => ?_⟩
        · rw [he]; rfl
        · rw [he, State.core_setCore, if_neg (Ne.symm hk)]
    · obtain ⟨h, hb⟩ := postTrap_blocks (s := s) ck lv true code (c.pcOf lv)
      rw [← trapEntry_double lv code tval fetch ht] at hb
      obtain ⟨hpc, hval, hcause, hbit, -, hthr⟩ := hb.kept
      have hhold : (d.thr lv).hold = h := congrArg Thread.hold hthr
      refine ⟨hpc, hval, hcause, hbit.trans ht, ?_, fun hroom => ?_⟩
      · rw [hhold]; exact hb.hold
      · rw [hhold]; exact hb.posted hroom
  · intro s hissues
    refine ⟨fun ht => ?_, fun ht => ?_⟩
    · have hu : ({ blocking := true, illegal := !s.me.tBit } : Uses) = { blocking := true } := by rw [ht]; rfl
      have hw := runs_wait (body := fun s => .wait (s.updMe Core.eret) .ready) ⟨hissues, rfl⟩ rfl
      refine ⟨_, (congrArg (fun u => s.runs u _) hu).trans hw, ?_⟩
      rw [waiting_me, State.me_updMe]
      obtain ⟨⟨hbit, hpv, hlevel, hpc⟩, hready, hg, hp, hv, htraps⟩ :=
        eret_core (u := { blocking := true }) s.me s.lv s.ctr _ _ _
      obtain ⟨htvec, htpc, htval, htcause⟩ := htraps
      exact ⟨hbit, hpv, hlevel, hpc, fun _ => hready, hg, hp, hv, htvec, htpc, htval, htcause, rfl⟩
    · exact runs_illegal hissues.ready _ (by rw [ht]; rfl)

end Sys2Proof
end

section
/-!
SUPPORT. System registers: delivering the flags that have arrived, and the effect of GETS and SETS (R88, R181, R182, R409).
-/

namespace Sys2Proof.Machine

open Sys2Proof

/-! ## Delivering flags -/

section
variable (c : Core) (lv : Bool)

/-- The flags of the results of a level that have arrived, which FPFLAGS has yet to be given (R88). -/
def Core.arrivedFlags : FFlags := FFlags.orAll ((c.pend.filter (fun p => p.lv == lv && p.need == 0)).map Pend.flags)

@[simp] theorem Core.level_flushFlags : (c.flushFlags lv).level = c.level := c.setThr_level lv _

@[simp] theorem Core.port_flushFlags (r : Nat) : (c.flushFlags lv).port r = c.port r := by cases lv <;> rfl

theorem Core.fp_flushFlags : ((c.flushFlags lv).thr lv).fp = (c.thr lv).fp.or (c.arrivedFlags lv) := by
  cases lv <;> rfl

theorem Core.flags_of_flushFlags {p : Pend} (hp : p ∈ (c.flushFlags lv).pend) (hl : p.lv = lv) (hn : p.need = 0) :
    p.flags = {} := by
  obtain ⟨q, -, rfl⟩ := List.mem_map.mp hp
  by_cases hq : (q.lv == lv && q.need == 0) = true
  · simp only [if_pos hq]
  · simp only [if_neg hq] at hl hn
    simp [hl, hn] at hq

end

variable {s : State}

/-! ## A general register that has been written -/

theorem rg_wg_same {a : Reg} (h : a ≠ 0) (x : Word) : (s.wg a x).rg a = x := by
  have h0 : a.toNat ≠ 0 := fun h' => h (BitVec.eq_of_toNat_eq h')
  have hlv : (s.wg a x).lv = s.lv := (s.lv_updMe _).trans (s.me.setG_changes s.lv a.toNat x).level_eq
  rw [State.rg, hlv, State.wg, State.me_updMe, State.lv, Core.g_setG, if_pos rfl, if_neg h0]

theorem fp_wg (a : Reg) (x : Word) (lv : Bool) : ((s.wg a x).me.thr lv).fp = (s.me.thr lv).fp := by
  rw [State.wg, State.me_updMe, (s.me.setG_sameWork _ _ x).fp]

/-! ## Registers -/

/-- A mask of the low 16 bits takes the same field as `fld`. -/
theorem toNat_and_FFFF (x : Word) : (x &&& 0xFFFF).toNat = fld x 0 16 := by
  simpa [fld] using Nat.and_two_pow_sub_one_eq_mod x.toNat 16

theorem sysReg_fpflags : s.sysReg 0x020 = some (word (s.me.thr s.lv).fp.toNat) := rfl

theorem sysReg_isSome_of_legal {rs ws : List Nat} {num : BitVec 12} (h : IssuesPlain s (sysUses rs ws num s)) :
    ∃ x, s.sysReg num.toNat = some x :=
  Option.isSome_iff_exists.mp (Option.isNone_eq_false_iff.mp h.legal)

theorem setSysReg_fpflags (c : Core) (x : Word) :
    c.setSysReg 0x020 x = c.setThr c.level { c.thr c.level with fp := FFlags.ofWord x } := rfl

/-- Every number but those of R181 names no register. -/
theorem sysReg_unlisted {n : Nat} (h : n ∉ [0x000, 0x001, 0x002, 0x003, 0x004, 0x005, 0x006, 0x007, 0x010, 0x011, 0x012,
      0x018, 0x020, 0x030, 0x031, 0x032, 0x033, 0x034, 0x038, 0x100, 0x101, 0x102, 0x103]) : s.sysReg n = none := by
  unfold State.sysReg
  split <;> simp_all

/-- SETS leaves a register that is read only as it is, and so with a number that names none (R182). -/
theorem setSysReg_readOnly {c : Core} {x : Word} {n : Nat}
    (h : n ∉ [0x020, 0x030, 0x031, 0x032, 0x033, 0x038, 0x100, 0x101, 0x102, 0x103]) : c.setSysReg n x = c := by
  unfold Core.setSysReg
  split <;> simp_all

theorem sysReg_level : s.sysReg 0x007 = some (if s.me.level then 1 else 0) := by
  show some (word (bit s.me.level)) = _
  cases s.me.level <;> rfl

theorem setSysReg_sper (c : Core) (x : Word) :
    c.setSysReg 0x033 x = { c with sper := if (x &&& 0xFFFF).toNat < 16 then 16 else x &&& 0xFFFF } := by
  rw [toNat_and_FFFF]; rfl

/-! ## GETS and SETS -/

section
variable {num : BitVec 12} {a : Reg}

theorem deliverFlags_other (h : num ≠ 0x020) : s.deliverFlags num = s := if_neg h

theorem deliverFlags_fpflags : s.deliverFlags 0x020 = s.updMe (fun c => c.flushFlags c.level) := if_pos rfl

theorem me_deliverFlags_fpflags : (s.deliverFlags 0x020).me = s.me.flushFlags s.lv := by
  rw [deliverFlags_fpflags, State.me_updMe, State.lv]

theorem port_deliverFlags (r : Nat) : (s.deliverFlags num).me.port r = s.me.port r := by
  by_cases h : num = 0x020
  · rw [h, me_deliverFlags_fpflags, Core.port_flushFlags]
  · rw [deliverFlags_other h]

theorem gets_performs {x : Word} (h : IssuesPlain s (sysUses [] [a.toNat] num s))
    (hx : (s.deliverFlags num).sysReg num.toNat = some x) :
    Performs s (.gets a num) (sysUses [] [a.toNat] num s) ((s.deliverFlags num).wg a x) := by
  refine runs_done h ?_
  have hport : s.me.port a.toNat = none := port_none_of_noPort h.noPort (List.mem_singleton_self _)
  simp only [hx, Option.getD_some, State.dst, port_deliverFlags, hport]

theorem sets_performs (h : IssuesPlain s (sysUses [a.toNat] [] num s)) :
    Performs s (.sets a num) (sysUses [a.toNat] [] num s)
      ((s.deliverFlags num).updMe (fun c => c.setSysReg num.toNat (s.rg a))) := by
  refine runs_done h ?_
  rw [src_of_plain h (List.mem_singleton_self _)]

theorem gets_reads_register (h : IssuesPlain s (sysUses [] [a.toNat] num s)) (hnum : num ≠ 0x020) :
    ∃ x, s.sysReg num.toNat = some x ∧ Performs s (.gets a num) (sysUses [] [a.toNat] num s) (s.wg a x) := by
  obtain ⟨x, hx⟩ := sysReg_isSome_of_legal h
  have hd : s.deliverFlags num = s := deliverFlags_other hnum
  have hget := gets_performs h (hd.symm ▸ hx)
  rw [hd] at hget
  exact ⟨x, hx, hget⟩

theorem sets_writes_register (h : IssuesPlain s (sysUses [a.toNat] [] num s)) (hnum : num ≠ 0x020) :
    Performs s (.sets a num) (sysUses [a.toNat] [] num s) (s.updMe (fun c => c.setSysReg num.toNat (s.rg a))) := by
  have hset := sets_performs h
  rwa [deliverFlags_other hnum] at hset

theorem gets_reads_fpflags (h : IssuesPlain s (sysUses [] [a.toNat] 0x020 s)) :
    ∃ e : State, Performs s (.gets a 0x020) (sysUses [] [a.toNat] 0x020 s) e ∧
      (a ≠ 0 → e.rg a = word ((s.me.thr s.lv).fp.or (s.me.arrivedFlags s.lv)).toNat) ∧
      (e.me.thr s.lv).fp = (s.me.thr s.lv).fp.or (s.me.arrivedFlags s.lv) := by
  have hlv : (s.deliverFlags 0x020).lv = s.lv := by
    rw [State.lv, me_deliverFlags_fpflags, Core.level_flushFlags]; rfl
  have hfp : ((s.deliverFlags 0x020).me.thr s.lv).fp = (s.me.thr s.lv).fp.or (s.me.arrivedFlags s.lv) := by
    rw [me_deliverFlags_fpflags, Core.fp_flushFlags]
  refine ⟨_, gets_performs h sysReg_fpflags, fun ha => ?_, ?_⟩
  · rw [rg_wg_same ha, hlv, hfp]
  · rw [fp_wg, hfp]

theorem sets_writes_fpflags (h : IssuesPlain s (sysUses [a.toNat] [] 0x020 s)) :
    ∃ e : State, Performs s (.sets a 0x020) (sysUses [a.toNat] [] 0x020 s) e ∧
      (e.me.thr s.lv).fp = FFlags.ofWord (s.rg a) ∧ ∀ p ∈ e.me.pend, p.lv = s.lv → p.need = 0 → p.flags = {} := by
  have hme (x : Word) : ((s.deliverFlags 0x020).updMe (fun c => c.setSysReg 0x020 x)).me =
      (s.me.flushFlags s.lv).setThr s.lv { (s.me.flushFlags s.lv).thr s.lv with fp := FFlags.ofWord x } := by
    rw [State.me_updMe, me_deliverFlags_fpflags, setSysReg_fpflags, Core.level_flushFlags]; rfl
  refine ⟨_, sets_performs h, ?_, fun p hp => ?_⟩
  · exact (congrArg (fun c => (c.thr s.lv).fp) (hme (s.rg a))).trans (by rw [Core.thr_setThr])
  · have hp' := (congrArg Core.pend (hme (s.rg a))) ▸ hp
    rw [Core.setThr_pend] at hp'
    exact s.me.flags_of_flushFlags s.lv hp'

end

end Sys2Proof.Machine
end

section
/-!
PROOFS. The statements of 03_number_formats.
-/

namespace Sys2Proof

open Machine

/-- Settles O43: GETS and SETS of any register but FPFLAGS leave pending flags as they are, and those of FPFLAGS act on the
core after `Core.flushFlags`; what the registers read as and hold is an equation for each. -/
theorem systemRegisters : Obligations.SystemRegisters := by
  unfold Obligations.SystemRegisters
  refine ⟨?_, ?_, ?_⟩
  · intro s a num get_ set_ arrived
    refine ⟨gets_reads_register, fun h hnum => ?_, sets_writes_register, fun h hnum => ?_⟩
    · subst hnum; exact gets_reads_fpflags h
    · subst hnum; exact sets_writes_fpflags h
  · intro s c h t
    exact ⟨rfl, rfl, rfl, rfl, rfl, rfl, rfl, sysReg_level, rfl, rfl, rfl, rfl, rfl, rfl, rfl, rfl, rfl, rfl, rfl, rfl, rfl,
      rfl, fun n => sysReg_unlisted⟩
  · intro c x n
    exact ⟨rfl, rfl, rfl, setSysReg_sper c x, rfl, rfl, rfl, rfl, rfl, setSysReg_readOnly⟩

end Sys2Proof
end

section
/-!
SUPPORT. Finite maps: every value changed.
-/

namespace Sys2Proof

/-- A map with every value changed, where the change keeps what an unlisted key reads as. -/
theorem SMap.get_map {α : Type} {d : α} {g : α → α} (hd : g d = d) (m : SMap α) (k : Nat) :
    SMap.get d (m.map (fun e => (e.1, g e.2))) k = g (SMap.get d m k) := by
  induction m with
  | nil => exact hd.symm
  | cons e m ih =>
    rw [List.map_cons, SMap.get, SMap.get]
    split
    · rfl
    · exact ih

end Sys2Proof
end

section
/-!
SUPPORT. Fields of words, written and put together from numbers (R9).
-/

namespace Sys2Proof.Machine

open Sys2Proof

/-! ## A field written -/

theorem getLsbD_word (v i : Nat) : (word v).getLsbD i = (decide (i < 64) && v.testBit i) := BitVec.getLsbD_ofNat ..

/-- A written field holds the bits of its value, and every other bit is kept. -/
theorem bitAt_setFld (x : Word) {lo n : Nat} (v : Nat) (h : lo + n ≤ 64) (i : Nat) :
    bitAt (setFld x lo n v) i = if lo ≤ i ∧ i < lo + n then v.testBit (i - lo) else bitAt x i := by
  simp only [bitAt, setFld, BitVec.getLsbD_or, BitVec.getLsbD_and, BitVec.getLsbD_not, BitVec.getLsbD_shiftLeft,
    getLsbD_word, Nat.testBit_two_pow_sub_one]
  by_cases hi : i < 64
  · by_cases hlo : lo ≤ i
    · by_cases hn : i < lo + n
      · simp [hi, hlo, hn, Nat.not_lt.mpr hlo, show i - lo < n by omega, show i - lo < 64 by omega]
      · simp [hi, hn, show ¬(i - lo < n) by omega]
    · simp [hi, hlo, Nat.lt_of_not_le hlo]
  · rw [if_neg (by omega)]
    simp [hi, BitVec.getLsbD_of_ge _ i (Nat.le_of_not_lt hi)]

/-- A field of bits below a written one is kept. -/
theorem fld_setFld_below (x : Word) {lo n : Nat} (v : Nat) (h : lo + n ≤ 64) : fld (setFld x lo n v) 0 lo = fld x 0 lo := by
  simp only [fld, Nat.pow_zero, Nat.div_one]
  refine Nat.eq_of_testBit_eq fun i => ?_
  rw [Nat.testBit_mod_two_pow, Nat.testBit_mod_two_pow]
  by_cases hi : i < lo
  · have hb := bitAt_setFld x v h i
    rw [if_neg (by omega)] at hb
    exact congrArg _ hb
  · simp [hi]

end Sys2Proof.Machine
end

section
/-!
SUPPORT. What a notification, a report and a message leave of the state: only the waiters' results, the watches and the
entries of the FES change (R262, R264).
-/

namespace Sys2Proof.Machine

open Sys2Proof

variable {s : State}

theorem foldl_updCore_eq {α : Type} (k : α → Nat) (f : α → Core → Core) (l : List α) :
    l.foldl (fun (t : State) a => t.updCore (k a) (f a)) s =
      { s with cores := (l.foldl (fun (t : State) a => t.updCore (k a) (f a)) s).cores } :=
  foldl_keeps (fun (t : State) => t = { s with cores := t.cores })
    (fun t a ht => by rw [ht]; rfl) l rfl

/-- The state once a written place has woken its waiters, before the FES looks at it (R262). -/
def State.wake (s : State) (l : Loc) (n : Nat) : State :=
  let hits := s.tiles.flatMap (fun e => e.2.mons.filter (fun m => m.loc.hit l n))
  if hits.isEmpty then s
  else hits.foldl (fun s m => s.updCore m.core (fun c => c.arrive m.pend 0 {}))
    { s with tiles := s.tiles.map (fun e => (e.1, { e.2 with mons := e.2.mons.filter (fun m => !m.loc.hit l n) })) }

theorem notify_eq_wake (l : Loc) (n : Nat) : s.notify l n = { s.wake l n with fes := (s.notify l n).fes } := by
  cases l with
  | glob pa =>
    have hfes (w : State) (es : List Entry) : (if w.fes.entries.isEmpty then w else { w with fes := { w.fes with entries := es } }) =
        { w with fes := State.fes (if w.fes.entries.isEmpty then w else { w with fes := { w.fes with entries := es } }) } := by
      split <;> rfl
    exact hfes (s.wake (.glob pa) n) _
  | spad | vault | gal => rfl

theorem wake_eq (l : Loc) (n : Nat) :
    s.wake l n = { s with cores := (s.wake l n).cores, tiles := (s.wake l n).tiles } := by
  unfold State.wake
  dsimp only
  split
  · rfl
  · rw [foldl_updCore_eq]

/-- Only results of cores, watches of tiles, and entries of the FES change where a place is written (R262). -/
theorem notify_eq (l : Loc) (n : Nat) : s.notify l n =
    { s with cores := (s.notify l n).cores, tiles := (s.notify l n).tiles, fes := (s.notify l n).fes } := by
  rw [notify_eq_wake, wake_eq]

/-- The tiles after a place has been written have lost the watches on it (R262). -/
theorem tile_notify (l : Loc) (n k : Nat) : ∃ ms, (s.notify l n).tile k = { s.tile k with mons := ms } := by
  rw [notify_eq_wake]
  change ∃ ms, (s.wake l n).tile k = _
  unfold State.wake
  dsimp only
  split
  · exact ⟨(s.tile k).mons, rfl⟩
  · rw [foldl_updCore_eq]
    exact ⟨_, SMap.get_map (d := ({} : Tile)) (g := fun x => { x with mons := x.mons.filter (fun m => !m.loc.hit l n) }) rfl s.tiles k⟩

theorem notify_onlyResults (l : Loc) (n : Nat) : s.OnlyResults (s.notify l n) := by
  rw [notify_eq_wake]
  change s.OnlyResults (s.wake l n)
  unfold State.wake
  dsimp only
  split
  · exact fun _ => .refl _
  · exact foldl_arrive_onlyResults (s := { s with tiles := _ }) _

theorem addFails_eq (l : Loc) (p : Bool) (os : List (Nat × Bool)) :
    s.addFails l p os = { s with cores := (s.addFails l p os).cores } :=
  foldl_updCore_eq (fun o : Nat × Bool => o.1) _ os

end Sys2Proof.Machine
end

section
/-!
SUPPORT. Format windows: the conditions for enabling one, what a write of its registers leaves, and what writing lines back
leaves of them (R100 to R102).
-/

namespace Sys2Proof.Machine

open Sys2Proof

variable (s : State)

/-! ## The registers of a window -/

theorem State.fwin_setFwin (k q : Nat) (f : FWin) : (s.setFwin k f).fwin q = if k = q then f else s.fwin q :=
  SMap.get_put _ f k q s.sys.fwin

/-- The window once the writable fields of CTL are those of `x` (R100, R105). -/
def FWin.withCtl (f : FWin) (sec : Bool) (x : Word) : FWin :=
  { f with ctl := (x &&& (if sec then 0xFFFFFF0000004FF0 else 0xFFFFFF0000000FF0)) |||
      (f.ctl &&& ~~~(if sec then 0xFFFFFF0000004FF0 else 0xFFFFFF0000000FF0)) }

/-- EN is no field that such a write writes. -/
theorem FWin.en_withCtl (f : FWin) (sec : Bool) (x : Word) : (f.withCtl sec x).en = f.en := by
  cases sec <;> simp [FWin.en, FWin.withCtl, bitAt]

/-- CTL once an attempt to enable the window has succeeded or failed (R101). -/
def enabledCtl (ok : Bool) (ctl : Word) : Word := if ok then setFld (setFld ctl 15 1 0) 0 1 1 else setFld ctl 15 1 1

theorem bitAt_enabledCtl (ok : Bool) (ctl : Word) (i : Nat) :
    bitAt (enabledCtl ok ctl) i = if i = 15 then !ok else if i = 0 then ok || bitAt ctl 0 else bitAt ctl i := by
  cases ok
  · rw [enabledCtl, if_neg (by decide), bitAt_setFld _ _ (by decide)]
    by_cases h : i = 15
    · subst h; rfl
    · rw [if_neg (by omega), if_neg h]
      split
      · next h0 => rw [h0]; rfl
      · rfl
  · rw [enabledCtl, if_pos rfl, bitAt_setFld _ _ (by decide), bitAt_setFld _ _ (by decide)]
    by_cases h : i = 15
    · subst h; rfl
    · by_cases h0 : i = 0
      · subst h0; rfl
      · rw [if_neg (by omega), if_neg (by omega), if_neg h, if_neg h0]

section
variable {s} {sec : Bool} {k : Nat} (hw : (s.fwin k).wld = true → sec = true)

theorem writeFwin_foreign (hw : (s.fwin k).wld = true) (reg : Nat) (x : Word) : s.writeFwin false k reg x = s := by
  simp [State.writeFwin, hw]

include hw

theorem writable_of_world : ((s.fwin k).wld && !sec) = false := by
  cases h : (s.fwin k).wld
  · rfl
  · rw [hw h]; rfl

/-- A CTL write that sets EN enables the window or sets ERR (R101). -/
theorem writeFwin_enable (he : (s.fwin k).en = false) {x : Word} (hx : bitAt x 0 = true) :
    s.writeFwin sec k 0 x = s.setFwin k { (s.fwin k).withCtl sec x with
      ctl := enabledCtl (s.fwinOk k ((s.fwin k).withCtl sec x)) ((s.fwin k).withCtl sec x).ctl } := by
  have hm : (if sec then fwinMask else setFld fwinMask 14 1 0) =
      (if sec then 0xFFFFFF0000004FF0 else 0xFFFFFF0000000FF0) := by cases sec <;> rfl
  simp only [State.writeFwin, writable_of_world hw, he, hx, hm, Bool.false_eq_true, if_false, Bool.not_true]
  change (if s.fwinOk k ((s.fwin k).withCtl sec x) = true then _ else _) = _
  cases s.fwinOk k ((s.fwin k).withCtl sec x) <;> rfl

/-- A CTL write that clears EN begins to close the window, and changes no other field (R102; log entry 43). -/
theorem writeFwin_disable (he : (s.fwin k).en = true) {x : Word} (hx : bitAt x 0 = false) :
    s.writeFwin sec k 0 x = s.setFwin k { s.fwin k with closing := true } := by
  simp [State.writeFwin, writable_of_world hw, he, hx]

/-- The address registers of a window that is not enabled (R100). -/
theorem writeFwin_addresses (he : (s.fwin k).en = false) (x : Word) :
    s.writeFwin sec k 1 x = s.setFwin k { s.fwin k with view := x &&& 0xFFFFFFFFFF80 } ∧
    s.writeFwin sec k 2 x = s.setFwin k { s.fwin k with stor := x &&& 0xFFFFFFFFFF80 } ∧
    s.writeFwin sec k 3 x = s.setFwin k { s.fwin k with scl := x &&& 0xFFFFFFFFFFFF } := by
  simp only [State.writeFwin, writable_of_world hw, he, Bool.false_eq_true, if_false, and_self]

end

/-- Other writes of an enabled window are ignored (R102). -/
theorem writeFwin_ignored {k : Nat} (he : (s.fwin k).en = true) (sec : Bool) {reg : Nat} {x : Word}
    (h : reg ≠ 0 ∨ bitAt x 0 = true) : s.writeFwin sec k reg x = s := by
  have hn : ¬(reg = 0 ∧ (!bitAt x 0) = true) := by rintro ⟨rfl, hb⟩; simp_all
  simp only [State.writeFwin, he, if_true, if_neg hn, ite_self]

/-! ## The conditions for enabling (R101) -/

theorem fwinOk_iff (k : Nat) (f : FWin) : s.fwinOk k f = true ↔
    2 ≤ f.pln ∧ f.pln ≤ 8 ∧ 1 ≤ f.rdk ∧ f.rdk ≤ f.pln ∧ 1 ≤ f.g ∧
    (∀ r ∈ f.ranges, k / 16 * 2 ^ 38 ≤ r.1 ∧ r.1 + r.2 ≤ (k / 16 + 1) * 2 ^ 38) ∧
    overlaps f.vbase (128 * f.g) f.sbase (16 * f.pln * f.g) = false ∧ overlaps f.vbase (128 * f.g) f.scbase f.g = false ∧
    overlaps f.sbase (16 * f.pln * f.g) f.scbase f.g = false ∧
    ∀ n, n < 16 → (s.fwin (k / 16 * 16 + n)).en = true → ∀ a ∈ f.ranges, ∀ b ∈ (s.fwin (k / 16 * 16 + n)).ranges,
      overlaps a.1 a.2 b.1 b.2 = false := by
  have hfar : (s.fwins (k / 16)).all (fun g => f.ranges.all (fun a => g.ranges.all (fun b => !rangesMeet a b))) = true ↔
      ∀ n, n < 16 → (s.fwin (k / 16 * 16 + n)).en = true → ∀ a ∈ f.ranges, ∀ b ∈ (s.fwin (k / 16 * 16 + n)).ranges,
        overlaps a.1 a.2 b.1 b.2 = false := by
    simp only [State.fwins, List.all_eq_true, List.mem_filter, List.mem_map, List.mem_range, rangesMeet, Bool.not_eq_true',
      and_imp, forall_exists_index, forall_apply_eq_imp_iff₂]
  have hdie : f.ranges.all (inDie (k / 16)) = true ↔
      ∀ r ∈ f.ranges, k / 16 * 2 ^ 38 ≤ r.1 ∧ r.1 + r.2 ≤ (k / 16 + 1) * 2 ^ 38 := by
    simp only [List.all_eq_true, inDie, Bool.and_eq_true, decide_eq_true_eq]
  simp only [State.fwinOk, Bool.and_eq_true, decide_eq_true_eq, hfar, hdie, Bool.not_eq_true']
  simp only [and_assoc]
  rfl

/-! ## Who reaches a window -/

/-- The host reaches no window, and every other requester does (R428). -/
theorem State.reaches_fwin_iff (who : Requester) (d n r : Nat) : s.reaches who (.fwin d n r) = true ↔ ∀ b, who ≠ .host b := by
  cases who with
  | host b => simp [State.reaches, SysReg.inBar0, SysReg.inRecovery]
  | core b => simp [State.reaches]
  | mgmt => simp [State.reaches]

/-! ## FWIN_ENABLE and FWIN_DISABLE -/

section
variable {s} {who : Requester} {win : Nat}

theorem exec_fwin_unreached (h : ¬∀ b, who ≠ .host b) (val : BitVec 64) :
    exec (.fwinEnable who win val) s = .next s.unsupported ∧ exec (.fwinDisable who win val) s = .next s.unsupported := by
  have hr : s.reaches who (.fwin (win / 16) (win % 16) 0) = false :=
    Bool.eq_false_iff.mpr fun e => h ((s.reaches_fwin_iff who _ _ _).mp e)
  exact ⟨congrArg _ (s.atReg_unreached hr _), congrArg _ (s.atReg_unreached hr _)⟩

variable (h : ∀ b, who ≠ .host b)
include h

theorem exec_fwinEnable (val : BitVec 64) : exec (.fwinEnable who win val) s =
    .next (if 32 ≤ win || !bitAt val 0 || (s.fwin win).en then s else s.writeFwin who.secure win 0 val) :=
  congrArg _ (s.atReg_reached ((s.reaches_fwin_iff who _ _ _).mpr h) _)

theorem exec_fwinDisable (val : BitVec 64) : exec (.fwinDisable who win val) s =
    .next (if 32 ≤ win || bitAt val 0 || !(s.fwin win).en then s else s.writeFwin who.secure win 0 val) :=
  congrArg _ (s.atReg_reached ((s.reaches_fwin_iff who _ _ _).mpr h) _)

end

/-- A write that a condition stops, or that an N writer makes of a secure window, changes nothing (R101, R102, R105). -/
theorem writeFwin_unless {win : Nat} {sec c : Bool} (h : c = true ∨ ((s.fwin win).wld = true ∧ sec = false)) (x : Word) :
    (if c then s else s.writeFwin sec win 0 x) = s := by
  rcases h with rfl | ⟨hw, rfl⟩
  · rfl
  · rw [writeFwin_foreign hw, ite_self]

/-! ## FWIN_DISABLE_DONE -/

theorem exec_fwinDisableDone (win : Nat) : exec (.fwinDisableDone win) s = .next (
    if !(s.fwin win).en || !(s.fwin win).closing || (s.viewLines (s.fwin win)).any s.recallWaits then s
    else ((s.viewLines (s.fwin win)).foldl State.evictLine s).setFwin win
      { s.fwin win with ctl := setFld (s.fwin win).ctl 0 1 0, closing := false }) := rfl

/-! ## Writing lines back keeps the windows -/

section
variable {s}

theorem fwin_eccSector (a : Nat) : (s.eccSector a).sys.fwin = s.sys.fwin := by
  unfold State.eccSector
  dsimp only
  split
  · rfl
  · rfl
  · split <;> rfl

@[simp] theorem fwin_hbmRead (line : Nat) : (s.hbmRead line).2.2.sys.fwin = s.sys.fwin := by
  unfold State.hbmRead
  dsimp only
  split
  · rfl
  · simp only [fwin_eccSector]

@[simp] theorem fwin_hbmWrite (line : Nat) (d : Vec) (p : Bool) : (s.hbmWrite line d p).sys.fwin = s.sys.fwin := rfl

theorem fwin_readChunks (f : FWin) (g k : Nat) : (s.readChunks f g k).2.2.sys.fwin = s.sys.fwin := by
  induction k with
  | zero => rfl
  | succ k ih =>
    rw [← ih]
    exact fwin_hbmRead (s := (s.readChunks f g k).2.2) _

theorem fwin_fetchLine (line : Nat) : (s.fetchLine line).2.2.sys.fwin = s.sys.fwin := by
  unfold State.fetchLine
  split
  · exact fwin_hbmRead _
  · exact fwin_readChunks _ _ _

theorem fwin_writeChunk (f : FWin) (g j x : Nat) : (s.writeChunk f g j x).sys.fwin = s.sys.fwin := by
  unfold State.writeChunk
  dsimp only
  split
  · exact fwin_hbmRead _
  · exact fwin_hbmRead _

theorem fwin_storeLine (line : Nat) (d : Vec) (p : Bool) : (s.storeLine line d p).sys.fwin = s.sys.fwin := by
  unfold State.storeLine
  split
  · rfl
  · split
    · rfl
    · exact foldl_keeps (fun (t : State) => t.sys.fwin = s.sys.fwin) (fun t j ht => (fwin_writeChunk ..).trans ht) _ rfl

theorem fwin_rawLine (line : Nat) : (s.rawLine line).2.2.sys.fwin = s.sys.fwin := by
  unfold State.rawLine
  split
  · rfl
  · exact fwin_fetchLine _

theorem fwin_notify (l : Loc) (n : Nat) : (s.notify l n).sys.fwin = s.sys.fwin := by rw [notify_eq]

theorem fwin_putRaw (line : Nat) (d : Vec) (p : Bool) : (s.putRaw line d p).sys.fwin = s.sys.fwin := by
  unfold State.putRaw
  split
  · rfl
  · exact fwin_storeLine _ _ _

theorem fwin_addFails (l : Loc) (p : Bool) (os : List (Nat × Bool)) : (s.addFails l p os).sys.fwin = s.sys.fwin := by
  rw [addFails_eq]

theorem fwin_combine (line : Nat) (bays : List Nat) : (s.combine line bays).sys.fwin = s.sys.fwin := by
  unfold State.combine
  dsimp only
  split
  · rfl
  have hput := (fwin_putRaw (s := (s.rawLine line).2.2) line
    ((bays.filterMap (fun bk => (s.bay bk).uline? line)).foldl (fun d u => u.combine d) (s.rawLine line).1)
    (s.rawLine line).2.1).trans (fwin_rawLine line)
  have hdrop := foldl_keeps (fun (t : State) => t.sys.fwin = s.sys.fwin) (f := fun t bk => t.dropU line bk)
    (fun _ _ ht => ht) bays hput
  rw [fwin_notify]
  change (State.sys (if _ then _ else _)).fwin = _
  split
  · exact foldl_keeps (fun (t : State) => t.sys.fwin = s.sys.fwin) (fun _ _ ht => (fwin_addFails ..).trans ht) _ hdrop
  · exact hdrop

theorem fwin_loseU (line bk : Nat) : (s.loseU line bk).sys.fwin = s.sys.fwin :=
  foldl_keeps (fun (t : State) => t.sys.fwin = s.sys.fwin) (fun _ _ ht => (fwin_addFails ..).trans ht) _ rfl

theorem fwin_recall (line : Nat) : (s.recall line).sys.fwin = s.sys.fwin :=
  (fwin_combine ..).trans
    (foldl_keeps (fun (t : State) => t.sys.fwin = s.sys.fwin) (fun _ _ ht => (fwin_loseU ..).trans ht) _ rfl)

/-- Writing a line back and dropping it changes no format window. -/
theorem fwin_evictLine (line : Nat) : (s.evictLine line).sys.fwin = s.sys.fwin := by
  unfold State.evictLine
  dsimp only
  split
  · exact fwin_recall line
  · split
    · exact (fwin_storeLine ..).trans (fwin_recall line)
    · exact fwin_recall line

end

end Sys2Proof.Machine
end

section
/-!
SUPPORT. The world check: which accesses are refused (R94, R105, R424), the entries of the violation log and their places
(R425), and the region registers (R423).
-/

namespace Sys2Proof.Machine

open Sys2Proof

/-! ## Fields of a word given as a number -/

theorem fld_word (v : Nat) {lo n : Nat} (h : lo + n ≤ 64) : fld (word v) lo n = v / 2 ^ lo % 2 ^ n := by
  have hs : 2 ^ 64 = 2 ^ lo * 2 ^ (64 - lo) := by rw [← Nat.pow_add]; congr 1; omega
  rw [fld, word, BitVec.toNat_ofNat, hs, Nat.mod_mul_right_div_self,
    Nat.mod_mod_of_dvd _ (Nat.pow_dvd_pow 2 (by omega))]

theorem bitAt_word (v : Nat) {i : Nat} (h : i < 64) : bitAt (word v) i = decide (v / 2 ^ i % 2 = 1) := by
  rw [bitAt, getLsbD_word, Nat.testBit_eq_decide_div_mod_eq]
  simp [h]

/-! ## Which accesses are refused -/

variable (s : State)

theorem inSecure_iff (pa n : Nat) : s.inSecure pa n = true ↔
    ∃ e ∈ s.sys.regions, e.1 / 64 = homeDie pa ∧ bitAt e.2.base 0 = true ∧ bitAt e.2.base 1 = true ∧
      fld e.2.base 16 32 ≤ (pa + n - 1) / 2 ^ 16 ∧ pa / 2 ^ 16 ≤ fld e.2.lim 16 32 := by
  simp only [State.inSecure, List.any_eq_true, Bool.and_eq_true, beq_iff_eq, decide_eq_true_eq, and_assoc]
  rfl

theorem inSecureWin_iff (pa n : Nat) : s.inSecureWin pa n = true ↔
    ∃ k, k < 16 ∧ (s.fwin (homeDie pa * 16 + k)).wld = true ∧
      ∃ r ∈ (s.fwin (homeDie pa * 16 + k)).ranges, overlaps pa n r.1 r.2 = true := by
  simp [State.inSecureWin]

theorem refuses_iff (secure : Bool) (pa n : Nat) : s.refuses secure pa n = true ↔
    ¬(pa < 2 ^ 39 ∨ 2 ^ 47 ≤ pa ∧ pa < 2 ^ 48) ∨
      secure = false ∧ (s.inSecure pa n = true ∨ pa < 2 ^ 39 ∧ s.inSecureWin pa n = true) := by
  have hbacked : (!isHbm pa && !isHost pa || decide (2 ^ 48 ≤ pa)) = true ↔ ¬(pa < 2 ^ 39 ∨ 2 ^ 47 ≤ pa ∧ pa < 2 ^ 48) := by
    rw [isHbm, isHost, hbmTop, hostBase]
    simp only [Bool.or_eq_true, Bool.and_eq_true, Bool.not_eq_true', decide_eq_true_eq, decide_eq_false_iff_not]
    omega
  rw [State.refuses, Bool.or_eq_true, hbacked]
  rw [isHbm, hbmTop]
  simp only [Bool.and_eq_true, Bool.or_eq_true, Bool.not_eq_true', decide_eq_true_eq]

/-! ## The log -/

/-- An entry stands behind those of places up to its own, and before those of higher ones. -/
theorem insLog_split (e : Nat × Word × Word) (l : List (Nat × Word × Word)) :
    ∃ before after, l = before ++ after ∧ insLog e l = before ++ e :: after ∧ (∀ x ∈ before, x.1 ≤ e.1) ∧
      ∀ x ∈ after.head?, e.1 < x.1 := by
  induction l with
  | nil => exact ⟨[], [], rfl, rfl, by simp, by simp⟩
  | cons x l ih =>
    by_cases h : e.1 < x.1
    · exact ⟨[], x :: l, rfl, if_pos h, by simp, by simpa using h⟩
    · obtain ⟨before, after, hl, hi, hb, ha⟩ := ih
      refine ⟨x :: before, after, by rw [hl]; rfl, by rw [insLog, if_neg h, hi]; rfl, ?_, ha⟩
      simpa using ⟨Nat.le_of_not_lt h, fun a b c => hb (a, b, c)⟩

theorem length_insLog (e : Nat × Word × Word) (l : List (Nat × Word × Word)) : (insLog e l).length = l.length + 1 := by
  obtain ⟨before, after, rfl, hi, -⟩ := insLog_split e l
  rw [hi]
  simp only [List.length_append, List.length_cons]
  omega

theorem get_putLog_other (es : List (Nat × Word × Word)) {m : SMap (Word × Word)} {i k : Nat}
    (h : ∀ j, j < es.length → k ≠ (i + j) % 32) : (putLog m i es).get (0, 0) k = m.get (0, 0) k := by
  induction es generalizing m i with
  | nil => rfl
  | cons e es ih =>
    have h0 : i % 32 ≠ k := fun e => h 0 (by simp) e.symm
    rw [putLog, ih fun j hj => ?_, SMap.get_put_other _ _ h0]
    rw [Nat.add_right_comm]
    exact h (j + 1) (by simpa using hj)

theorem get_putLog (es : List (Nat × Word × Word)) {m : SMap (Word × Word)} {i : Nat} (hl : es.length ≤ 32) {j : Nat}
    (hj : j < es.length) : (putLog m i es).get (0, 0) ((i + j) % 32) = (es.getD j (0, 0, 0)).2 := by
  induction es generalizing m i j with
  | nil => simp at hj
  | cons e es ih =>
    simp only [List.length_cons] at hl hj
    rw [putLog]
    cases j with
    | zero =>
      rw [get_putLog_other es fun j hj => by omega, Nat.add_zero, SMap.get_put_same]
      rfl
    | succ j =>
      rw [← Nat.add_assoc, Nat.add_right_comm]
      exact ih (by omega) (by omega)

/-- TOTAL counts up to all ones (R425). -/
theorem VLog.total_enter (l : VLog) (cycle : Nat) (e : Nat × Word × Word) :
    (l.enter cycle e).total.toNat = min (l.total.toNat + 1) 0xFFFFFFFF := by
  have hlt := l.total.isLt
  rw [VLog.enter]
  dsimp only
  split
  · next h => rw [h]; rfl
  · next h =>
    have hne : l.total.toNat ≠ 0xFFFFFFFF := fun e => h (BitVec.eq_of_toNat_eq e)
    rw [BitVec.toNat_add, show (1 : BitVec 32).toNat = 1 from rfl]
    omega

/-- The entries that a log's cycle has made so far (R425). -/
def VLog.ofCycle (l : VLog) (cycle : Nat) : List (Nat × Word × Word) := if l.last = cycle then l.now else []

/-- The place in the log of the `i`-th refusal of a cycle, when there are `n` of it already. -/
def VLog.slot (l : VLog) (n i : Nat) : Nat := (l.next + 32 * n - n + i) % 32

theorem VLog.ents_enter_other (l : VLog) (cycle : Nat) (e : Nat × Word × Word) {k : Nat}
    (h : ∀ i, i ≤ (l.ofCycle cycle).length → k ≠ l.slot (l.ofCycle cycle).length i) :
    (l.enter cycle e).ents.get (0, 0) k = l.ents.get (0, 0) k :=
  get_putLog_other _ fun j hj => h j (by rw [length_insLog] at hj; exact Nat.le_of_lt_succ hj)

theorem VLog.ents_enter (l : VLog) (cycle : Nat) (e : Nat × Word × Word) (hl : (l.ofCycle cycle).length < 32) {i : Nat}
    (hi : i ≤ (l.ofCycle cycle).length) :
    (l.enter cycle e).ents.get (0, 0) (l.slot (l.ofCycle cycle).length i) = ((l.enter cycle e).now.getD i (0, 0, 0)).2 :=
  get_putLog (insLog e (l.ofCycle cycle)) (by rw [length_insLog]; exact hl) (by rw [length_insLog]; omega)

/-- The two words of an entry of the log (R425). -/
def logWords (pa kind : Nat) (r : Rqst) : Word × Word :=
  (word (pa % 2 ^ 48 + kind % 16 * 2 ^ 48 + 2 ^ 63),
   if r.host then word (2 ^ 41 + bit r.secure)
   else word (dieOf r.tile * 2 ^ 40 + r.tile % 128 * 2 ^ 32 + r.core % 64 * 2 ^ 24 + r.unit % 8 * 2 ^ 16 + bit r.secure))

theorem logRefusal_eq (pa kind : Nat) (r : Rqst) : s.logRefusal pa kind r = { s with sys := { s.sys with
    vlog := s.sys.vlog.put (homeDie pa) ((s.sys.vlog.get {} (homeDie pa)).enter s.cycle
      (if kind = kNmu then 16 else sliceHash pa, logWords pa kind r)) } } := rfl

theorem logWords_access (pa kind : Nat) (r : Rqst) :
    fld (logWords pa kind r).1 0 48 = pa % 2 ^ 48 ∧ fld (logWords pa kind r).1 48 4 = kind % 16 ∧
      fld (logWords pa kind r).1 52 11 = 0 ∧ bitAt (logWords pa kind r).1 63 = true := by
  simp only [logWords]
  rw [fld_word _ (by decide), fld_word _ (by decide), fld_word _ (by decide), bitAt_word _ (by decide), decide_eq_true_eq]
  omega

theorem bit_le_one (b : Bool) : bit b ≤ 1 := by cases b <;> decide

/-- The lowest bit of a word, put there as a truth value. -/
theorem bitAt_word_add_bit {v : Nat} (h : v % 2 = 0) (b : Bool) : bitAt (word (v + bit b)) 0 = b := by
  rw [bitAt_word _ (by decide)]
  cases b <;> simp [bit] <;> omega

theorem logWords_host (pa kind : Nat) {r : Rqst} (h : r.host = true) :
    bitAt (logWords pa kind r).2 41 = true ∧ bitAt (logWords pa kind r).2 0 = r.secure ∧ fld (logWords pa kind r).2 1 40 = 0 := by
  have hb := bit_le_one r.secure
  simp only [logWords, h, if_true]
  refine ⟨?_, bitAt_word_add_bit (by decide) _, ?_⟩
  · rw [bitAt_word _ (by decide), decide_eq_true_eq]
    omega
  · rw [fld_word _ (by decide)]
    omega

theorem logWords_tile (pa kind : Nat) {r : Rqst} (h : r.host = false) :
    bitAt (logWords pa kind r).2 41 = false ∧ bitAt (logWords pa kind r).2 0 = r.secure ∧
      fld (logWords pa kind r).2 40 1 = dieOf r.tile % 2 ∧ fld (logWords pa kind r).2 32 7 = r.tile % 128 ∧
      fld (logWords pa kind r).2 24 6 = r.core % 64 ∧ fld (logWords pa kind r).2 16 3 = r.unit % 8 := by
  have hb := bit_le_one r.secure
  have hd : dieOf r.tile ≤ 1 := by simp only [dieOf, tileX]; omega
  simp only [logWords, h, Bool.false_eq_true, if_false]
  rw [bitAt_word _ (by decide), bitAt_word_add_bit (by omega), fld_word _ (by decide), fld_word _ (by decide),
    fld_word _ (by decide), fld_word _ (by decide), decide_eq_false_iff_not]
  refine ⟨by omega, rfl, by omega, by omega, by omega, by omega⟩

/-! ## Clearing the log -/

/-- The log of a die once it has been cleared: V of every entry is clear, and the rest of it stands (R425). -/
theorem get_clearedEnts (m : SMap (Word × Word)) (k : Nat) :
    SMap.get (0, 0) (m.map (fun e => (e.1, (setFld e.2.1 63 1 0, e.2.2)))) k =
      (setFld (m.get (0, 0) k).1 63 1 0, (m.get (0, 0) k).2) :=
  SMap.get_map (g := fun e : Word × Word => (setFld e.1 63 1 0, e.2)) (by decide) m k

theorem exec_logClear_unreached {who : Requester} {die : Nat} (h : ¬s.reaches who (.vlogCtl die) = true) (val : BitVec 64) :
    exec (.logClear who die val) s = .next s.unsupported :=
  congrArg _ (s.atReg_unreached (Bool.eq_false_iff.mpr h) _)

theorem exec_logClear {who : Requester} {die : Nat} (h : s.reaches who (.vlogCtl die) = true) (val : BitVec 64) :
    exec (.logClear who die val) s = .next (s.writeVlog who.secure die val) :=
  congrArg _ (s.atReg_reached h _)

theorem writeVlog_kept {sec : Bool} {x : Word} (h : sec = false ∨ bitAt x 31 = false) (d : Nat) : s.writeVlog sec d x = s := by
  rcases h with rfl | h
  · rfl
  · rw [State.writeVlog, h, Bool.and_false]; rfl

theorem writeVlog_clear {x : Word} (h : bitAt x 31 = true) (d : Nat) : s.writeVlog true d x = { s with sys := { s.sys with vlog := s.sys.vlog.put d {
      total := 0, next := 0,
      ents := (s.sys.vlog.get {} d).ents.map (fun e => (e.1, (setFld e.2.1 63 1 0, e.2.2))),
      last := (s.sys.vlog.get {} d).last } } } := by
  rw [State.writeVlog, h]; rfl

/-! ## The region registers -/

theorem region_setRegion (d n : Nat) (r : Region) : (s.setRegion d n r).region d n = r := SMap.get_put_same ..

end Sys2Proof.Machine
end

section
/-!
SUPPORT. MFILL and NMCMD: what issuing each comes to, and each stage of a fill and of a near-memory command (R106 to R113,
R148 to R151).
-/

namespace Sys2Proof.Machine

open Sys2Proof

variable {s t : State}

/-! ## MFILL -/

/-- What MFILL declares (R149). -/
def mfillUses (gu : Guard) (d a b c : Reg) (count : BitVec 24) (s : State) : Uses :=
  { len := 12, on := s.guard gu, rs := [a.toNat, b.toNat, c.toNat], ws := [d.toNat], long := true,
    illegal := decide (count.toNat = 0) || decide (768 < count.toNat) }

theorem exec_mfill (gu : Guard) (la : BitVec 4) (h : Hint) (d a b c : Reg) (count : BitVec 24) :
    exec (.mfill gu la h d a b c count) s = s.runs (mfillUses gu d a b c count s) (mfillBody h d a b c la count.toNat) := rfl

section
variable {h : Hint} {d a b c : Reg} {la : BitVec 4} {n : Nat}

theorem mfillBody_misalignedSource (ha : (s.src a).toNat % 128 ≠ 0) :
    mfillBody h d a b c la n s = .trap s tALIGN (s.src a) := if_pos ha

variable (ha : (s.src a).toNat % 128 = 0)
include ha

theorem mfillBody_misalignedOffset (hc : (s.src c).toNat % 128 ≠ 0) :
    mfillBody h d a b c la n s = .trap s tALIGN (s.src c) := by
  rw [mfillBody, if_neg (not_not.mpr ha), if_pos hc]

variable (hc : (s.src c).toNat % 128 = 0) (hs : (s.src a).toNat + 128 * n ≤ 2 ^ 52)
include hc hs

theorem mfillBody_tooLong (hl : spadSize < (s.src c).toNat + 128 * n) :
    mfillBody h d a b c la n s = .trap s tAPERTURE (s.src c) := by
  rw [mfillBody, if_neg (not_not.mpr ha), if_neg (not_not.mpr hc), if_neg (Nat.not_lt.mpr hs), if_pos hl]

variable (hl : (s.src c).toNat + 128 * n ≤ spadSize) {ps : List (Nat × Nat)} (hp : s.fillPages (s.src a) (128 * n) 3 = (ps, none, t))
include hl hp

theorem mfillBody_noTarget (hb : s.src b = 0) : mfillBody h d a b c la n s = .done (t.answer d la (word (n * 2 ^ 32))) := by
  rw [mfillBody, if_neg (not_not.mpr ha), if_neg (not_not.mpr hc), if_neg (Nat.not_lt.mpr hs), if_neg (Nat.not_lt.mpr hl), hp]
  exact if_pos hb

theorem mfillBody_takes (hb : s.src b ≠ 0) {t' : State}
    (ht : ({ t.enterPend (t.newPend (greg t.lv d.toNat) la.toNat 1 .mfill 0) with ctr := t.ctr + 2 } : State).takeScores
      s.cur (t.ctr + 1) ((maskCores (tileOf s.cur) (s.src b)).map (fun k =>
        { core := k, lo := (s.src c).toNat, hi := (s.src c).toNat + 128 * n, last := n - 1 })) = some t') :
    mfillBody h d a b c la n s = .done { t' with fills := t'.fills ++ [
      { id := t.ctr + 1, core := s.cur, lv := s.lv, pend := t.ctr, src := s.src a, pages := ps, mask := s.src b,
        off := (s.src c).toNat, count := n, hint := h }] } := by
  rw [mfillBody, if_neg (not_not.mpr ha), if_neg (not_not.mpr hc), if_neg (Nat.not_lt.mpr hs), if_neg (Nat.not_lt.mpr hl), hp]
  dsimp only
  rw [if_neg hb]
  rw [show (t.pendG d la 1 .mfill).2.fresh.2.takeScores s.cur (t.pendG d la 1 .mfill).2.fresh.1 _ = some t' from ht]
  rfl

end

theorem exec_mfillLine {id : Nat} {f : MFill} (hf : s.fills.find? (fun f => f.id == id) = some f)
    (hfork : s.forkBusy f.core f.id = false) (hnm : s.nmHolds f.core f.id = false) (hl : s.lineBehind f = false) {x : Nat}
    (hr : s.engRead true { tile := tileOf f.core, core := coreIdx f.core, unit := 5, secure := (s.hallOfCore f.core).secure }
      kERead (f.pa f.i) 128 f.hint = (.ok x false, t)) :
    exec (.mfillLine id) s =
      let w := State.fillTargets f x (maskCores (tileOf f.core) f.mask) (t.witness f.core (f.pa f.i) (some (t.ssnOf (f.pa f.i))))
      .next (w.2.fillNext (if w.1 then f.note 3 else f)) := by
  change execMfillLine id s = _
  simp only [execMfillLine, hf, hfork, hnm, hl, hr]
  rfl

/-! ## NMCMD -/

/-- What NMCMD declares (R113). -/
def nmcmdUses (gu : Guard) (d a : Reg) (s : State) : Uses :=
  { len := 12, on := s.guard gu, rs := [a.toNat], ws := [d.toNat], long := true }

/-- The effect of NMCMD: the block is read, and acted on (R113). -/
def nmcmdBody (d a : Reg) (la : BitVec 4) (s : State) : Res :=
  if (s.src a).toNat % 64 ≠ 0 then .trap s tALIGN (s.src a)
  else if s.nmHolds s.cur s.ctr then .stall
  else (s.nowRead (s.src a) 64 0 kLoad false).res 0 (fun x _ t => nmcmdOn d la (nmBlk x) t)

theorem exec_nmcmd (gu : Guard) (la : BitVec 4) (d a : Reg) :
    exec (.nmcmd gu la d a) s = s.runs (nmcmdUses gu d a s) (nmcmdBody d a la) := rfl

theorem nmcmdBody_read {d a : Reg} {la : BitVec 4} (ha : (s.src a).toNat % 64 = 0) (hn : s.nmHolds s.cur s.ctr = false) {x : Nat}
    {l : Loc} (hr : s.nowRead (s.src a) 64 0 kLoad false = .ok x l t) : nmcmdBody d a la s = nmcmdOn d la (nmBlk x) t := by
  rw [nmcmdBody, if_neg (not_not.mpr ha), hn, hr]
  rfl

section
variable {d : Reg} {la : BitVec 4} {b : NmBlk}

theorem nmcmdOn_bad (hb : b.bad = true) : nmcmdOn d la b s = .done (s.answer d la (word 2)) := if_pos hb

variable (hb : b.bad = false) {rs : List NmRange} (hp : s.nmPlaces b.ranges = (rs, none, t))
include hb hp

theorem nmcmdOn_crosses (hx : ∃ r ∈ rs, r.cross = true) : nmcmdOn d la b s = .done (t.answer d la (word 3)) := by
  rw [nmcmdOn, hb, hp]
  exact if_pos (List.any_eq_true.mpr hx)

variable (hx : ∀ r ∈ rs, r.cross = false)
include hx

theorem nmcmdOn_away (hh : ∃ r ∈ rs, t.nmHome (homeDie (rs.getD 0 {}).pa) r = true) :
    nmcmdOn d la b s = .done (t.answer d la (word 4)) := by
  rw [nmcmdOn, hb, hp]
  dsimp only
  rw [if_neg (by decide), if_neg (by simpa using hx), if_pos (List.any_eq_true.mpr hh)]
  rfl

variable (hh : ∀ r ∈ rs, t.nmHome (homeDie (rs.getD 0 {}).pa) r = false)
include hh

theorem nmcmdOn_refused (hw : (t.nmRefused rs).1 = true) :
    nmcmdOn d la b s = .done ((t.nmRefused rs).2.answer d la (word 5)) := by
  rw [nmcmdOn, hb, hp]
  dsimp only
  rw [if_neg (by decide), if_neg (by simpa using hx), if_neg (by simpa using hh), hw]
  rfl

/-- The command that a block's ranges give (R109, R113). -/
def NmBlk.cmd (b : NmBlk) (rs : List NmRange) (id core pend : Nat) (lv : Bool) : NmCmd :=
  { id := id, core := core, lv := lv, pend := pend, op := b.op, ty := b.ty, rm := b.rm, sat := b.sat, n := b.n,
    dst := if nmDst b.op then (rs.getD 0 {}).pa else 0, src := if nmSrc b.op then (rs.getD 1 {}).pa else 0,
    res := if b.op = 7 then (rs.getD 0 {}).pa else 0, a0 := b.a0, a1 := b.a1 }

/-- A command is entered with a pending result of its own. -/
def State.enterCmd (w : State) (d : Reg) (la : BitVec 4) (b : NmBlk) (rs : List NmRange) (core : Nat) (lv : Bool) : State :=
  let e := w.enterPend (w.newPend (greg w.lv d.toNat) la.toNat 1 .nmu 0)
  { e with ctr := e.ctr + 1, cmds := w.cmds ++ [b.cmd rs e.ctr core w.ctr lv] }

theorem nmcmdOn_enters (hw : (t.nmRefused rs).1 = false)
    (hway : (t.nmRefused rs).2.way (dieOf (tileOf s.cur)) (rowOfTile (tileOf s.cur)) (homeDie (rs.getD 0 {}).pa) ≠ .dead) :
    nmcmdOn d la b s = .done ((t.nmRefused rs).2.enterCmd d la b rs s.cur s.lv) := by
  rw [nmcmdOn, hb, hp]
  dsimp only
  rw [if_neg (by decide), if_neg (by simpa using hx), if_neg (by simpa using hh),
    if_neg (by rw [hw, Bool.false_or, beq_iff_eq]; exact hway)]
  rfl

end

/-- What entering a command leaves (R112, R113). -/
theorem enterCmd_entered (w : State) (d : Reg) (la : BitVec 4) (b : NmBlk) (rs : List NmRange) (core : Nat) (lv : Bool) :
    (w.enterCmd d la b rs core lv).mem = w.mem ∧
      (w.enterCmd d la b rs core lv).me.pend = w.me.pend ++ [w.newPend (greg w.lv d.toNat) la.toNat 1 .nmu 0] ∧
      (w.enterCmd d la b rs core lv).cmds = w.cmds ++ [b.cmd rs (w.ctr + 1) core w.ctr lv] := by
  refine ⟨rfl, ?_, rfl⟩
  exact congrArg Core.pend (w.me_updMe fun c =>
    ({ c with pend := c.pend ++ [w.newPend (greg w.lv d.toNat) la.toNat 1 .nmu 0] } : Core).noteArrivals)

/-! ## The locks of a command -/

section
variable {id k : Nat} {c : NmCmd} (hf : s.cmds.find? (fun c => c.id == id) = some c)
include hf

section
variable (hst : c.st = .locking) (hk : k / 16 = homeDie c.home) (hn : k ∉ c.answered) (hb : s.sliceBusy c.core c.id k = false)
include hst hk hn hb

/-- The lock request of a command in its way to a slice that has not answered (R109). -/
theorem exec_nmuLock : exec (.nmuLock id k) s = .next (
    let ds := c.dstLines.filter (fun l => homeSlice (l * 128) == k)
    let ss := c.srcLines.filter (fun l => homeSlice (l * 128) == k)
    match s.wayToSlice (tileOf c.core) k with
    | .wait => s
    | .dead => s.endCmd c 0 5 {}
    | .clear =>
      if 4 < s.slotsUsed k + c.slots k ∨ (ds ++ ss).any (fun l => s.missPending l || s.recallWaits l) then s
      else ((ds.foldl State.evictLine (ss.foldl State.cleanLine s)).l1Clean (bayOf c.core) (fun l => ds.contains l)).updCmd id
        (fun c => { c with answered := k :: c.answered })) := by
  have hgo : ¬(c.st ≠ .locking ∨ k / 16 ≠ homeDie c.home ∨ c.answered.contains k ∨ s.sliceBusy c.core c.id k) := by
    simp [hst, hk, hn, hb]
  change execNmuLock id k s = _
  simp only [execNmuLock, hf, if_neg hgo]
  rfl

theorem exec_nmuLock_dead (hw : s.wayToSlice (tileOf c.core) k = .dead) :
    exec (.nmuLock id k) s = .next (s.endCmd c 0 5 {}) := by
  rw [exec_nmuLock hf hst hk hn hb, hw]

end

theorem exec_nmuAccept (hst : c.st = .locking) (ha : ∀ j, j < 16 → homeDie c.home * 16 + j ∈ c.answered)
    (hq : (s.nmuQueue (stackOf c.home)).length < 16) : exec (.nmuAccept id) s =
      .next { s.updCmd id (fun c => { c with st := .queued, order := s.ctr }) with ctr := s.ctr + 1 } := by
  have hall : (List.range 16).all (fun k => c.answered.contains (homeDie c.home * 16 + k)) = true := by
    simpa only [List.all_eq_true, List.mem_range, List.contains_iff_mem] using ha
  change execNmuAccept id s = _
  simp only [execNmuAccept, hf]
  rw [if_pos ⟨hst, hall, hq⟩]

end

/-! ## The running command of a unit -/

/-- An idle unit takes the oldest command of its queue; one that has no slot to read and no factor to make runs at once (R109). -/
theorem exec_nmuExecute {k : Nat} {c : NmCmd} (hidle : ∀ x ∈ s.cmds, x.st = .running → stackOf x.home ≠ k)
    (hf : (s.nmuQueue k).find? (fun c => (s.nmuQueue k).all (fun d => decide (c.order ≤ d.order))) = some c)
    (hb : s.forkBusy c.core c.id = false) (h2 : c.op ≠ 2) (h7 : c.op ≠ 7) :
    exec (.nmuExecute k) s = .next (s.updCmd c.id (fun c => { c with st := .running })) := by
  have hnone : s.cmds.any (fun c => c.st == .running && stackOf c.home == k) = false := by
    simpa using hidle
  change execNmuExecute k s = _
  simp only [execNmuExecute, hnone, hf, hb, if_neg h2, if_neg h7]
  rfl

section
variable {k : Nat} {c : NmCmd} (hf : s.cmds.find? (fun c => c.st == .running && stackOf c.home == k) = some c)
include hf

theorem exec_nmuLine_nop (hop : c.op = 0) : exec (.nmuLine k) s =
    .next (({ s with cmds := dropFirst (fun x => x.id == c.id) s.cmds }).deliver c.core c.pend 0) := by
  change execNmuLine k s = _
  simp only [execNmuLine, hf, if_pos hop]
  rfl

theorem exec_nmuLine_dst (h0 : c.op ≠ 0) (h7 : c.op ≠ 7) : exec (.nmuLine k) s = .next (s.nmDstLine c) := by
  change execNmuLine k s = _
  simp only [execNmuLine, hf, if_neg h0, if_neg h7]

end

/-- A FILL raises no flags (R107). -/
theorem flags_nmElems_fill {c : NmCmd} (hop : c.op = 4) (w d sv k : Nat) : (nmElems c w d sv k).2 = {} := by
  induction k with
  | zero => rfl
  | succ k ih =>
    have he : (nmElem c (d / 2 ^ (w * k) % 2 ^ w) (sv / 2 ^ (w * k) % 2 ^ w)).2 = {} := by
      simp only [nmElem, hop]
    rw [nmElems]
    dsimp only
    rw [ih, he]
    rfl

/-- The elements of a FILL of 4 bytes that lie in the line of its next one. -/
def NmCmd.lineElems (c : NmCmd) : Nat := min (c.n - c.i) (((c.dst + c.i * 4) / 128 * 128 + 128 - (c.dst + c.i * 4)) / 4)

/-- The next line of a FILL of 4-byte elements: nothing of it is read (R107, R111). -/
theorem nmDstLine_fill {c : NmCmd} (hop : c.op = 4) (hsz : c.sz = 4) (hb : s.nmBefore c ((c.dst + c.i * 4) / 128) = false) :
    s.nmDstLine c =
      let w := s.nmWrite (c.dst + c.i * 4) (c.lineElems * 4) (nmElems c 32 0 0 c.lineElems).1
      if c.n ≤ c.i + c.lineElems then w.endCmd { c with i := c.i + c.lineElems } c.n 0 c.flags
      else w.updCmd c.id (fun _ => { c with i := c.i + c.lineElems }) := by
  have hd : nmReadsDst c.op = false := by rw [hop]; rfl
  have hs : nmSrc c.op = false := by rw [hop]; rfl
  unfold State.nmDstLine
  simp only [hsz, hd, hs, lineOf, hb, Bool.false_and, Bool.or_self, Bool.false_eq_true, if_false, flags_nmElems_fill hop,
    FFlags.or_none]
  rfl

end Sys2Proof.Machine
end

section
/-!
SUPPORT. The bytes of the memories: reading what has been written, and what a write leaves (R142, R146).
-/

namespace Sys2Proof.Machine

open Sys2Proof

variable {s : State}

/-! ## Memories in canonical form -/

theorem get_writeBytes_other (m : SMap Byte) {a n q : Nat} (x : Nat) (h : q < a ∨ a + n ≤ q) :
    (writeBytes m a n x).get 0 q = m.get 0 q := by
  induction n generalizing m a x with
  | zero => rfl
  | succ n ih => rw [writeBytes, ih _ _ (by omega), SMap.get_set, if_neg (by omega)]

theorem readBytes_writeBytes (m : SMap Byte) (a n x : Nat) : readBytes (writeBytes m a n x) a n = x % 2 ^ (8 * n) := by
  induction n generalizing m a x with
  | zero => simp [readBytes, Nat.mod_one]
  | succ n ih =>
    rw [readBytes, writeBytes, ih, get_writeBytes_other _ _ (.inl (Nat.lt_succ_self a)), SMap.get_set, if_pos rfl,
      BitVec.toNat_ofNat, Nat.mul_succ, Nat.add_comm (8 * n), Nat.pow_add, Nat.mod_mul]

/-! ## Scratchpads -/

theorem get_putBytes_other (m : SMap Byte) {a n q : Nat} (x : Nat) (d : Byte) (h : q < a ∨ a + n ≤ q) :
    (putBytes m a n x).get d q = m.get d q := by
  induction n generalizing m a x with
  | zero => rfl
  | succ n ih => rw [putBytes, ih _ _ (by omega), SMap.get_put_other _ _ (by omega)]

theorem get_putBytes (m : SMap Byte) {n : Nat} (a x : Nat) (d : Byte) {i : Nat} (hi : i < n) :
    (putBytes m a n x).get d (a + i) = BitVec.ofNat 8 (x / 256 ^ i) := by
  induction n generalizing m a x i with
  | zero => omega
  | succ n ih =>
    rw [putBytes]
    cases i with
    | zero => rw [get_putBytes_other _ _ _ (.inl (by omega)), Nat.add_zero, SMap.get_put_same, Nat.pow_zero, Nat.div_one]
    | succ i => rw [show a + (i + 1) = a + 1 + i by omega, ih _ _ _ (by omega), Nat.div_div_eq_div_mul, Nat.pow_succ']

theorem spadRead_congr {t : State} {c : Nat} (h : ∀ o, t.spadByte c o = s.spadByte c o) (o n : Nat) :
    t.spadRead c o n = s.spadRead c o n := by
  induction n with
  | zero => rfl
  | succ n ih => rw [State.spadRead, State.spadRead, ih, h]

/-- A scratchpad that holds the bytes of a number reads as that number. -/
theorem spadRead_of_bytes {c o n x : Nat} (h : ∀ i, i < n → s.spadByte c (o + i) = BitVec.ofNat 8 (x / 256 ^ i)) :
    s.spadRead c o n = x % 2 ^ (8 * n) := by
  have hp : 2 ^ (8 * n) = 256 ^ n := by rw [Nat.pow_mul]
  rw [hp]
  clear hp
  induction n with
  | zero => simp [State.spadRead, Nat.mod_one]
  | succ n ih =>
    rw [State.spadRead, ih fun i hi => h i (by omega), h n (Nat.lt_succ_self n), Nat.pow_succ, Nat.mod_mul,
      BitVec.toNat_ofNat]

/-- The memories after a place in a core memory has been written. -/
def Mems.put (m : Mems) (l : Loc) (n x : Nat) : Mems :=
  match l with
  | .spad c o => { m with spad := putBytes m.spad (c * 2 ^ 17 + o) n x }
  | .vault v o => { m with vault := writeBytes m.vault (v * 2 ^ 24 + o) n x }
  | .gal t o => { m with gal := writeBytes m.gal (t * 2 ^ 14 + o) n x }
  | .glob _ => m

theorem locWrite_eq (l : Loc) (n x : Nat) : s.locWrite l n x = (s.updMem (fun m => m.put l n x)).notify l n := by
  cases l <;> rfl

theorem mem_locWrite (l : Loc) (n x : Nat) : (s.locWrite l n x).mem = s.mem.put l n x := by
  rw [locWrite_eq, notify_mem]
  rfl

theorem flight_locWrite (l : Loc) (n x : Nat) : (s.locWrite l n x).flight = s.flight := by
  rw [locWrite_eq, notify_eq]
  rfl

theorem locWrite_onlyResults (l : Loc) (n x : Nat) : s.OnlyResults (s.locWrite l n x) := by
  rw [locWrite_eq]
  exact notify_onlyResults (s := s.updMem _) l n

/-- A byte of a scratchpad after a place has been written: undefined bytes stay what they are (R142). -/
theorem spadByte_locWrite (l : Loc) (n x c o : Nat) : (s.locWrite l n x).spadByte c o =
    (s.mem.put l n x).spad.get (Config.spadByte (s.tile (tileOf c)).epoch (c * 2 ^ 17 + o)) (c * 2 ^ 17 + o) := by
  have hepoch : ((s.locWrite l n x).tile (tileOf c)).epoch = (s.tile (tileOf c)).epoch := by
    obtain ⟨ms, hms⟩ := tile_notify (s := s.updMem (fun m => m.put l n x)) l n (tileOf c)
    rw [locWrite_eq, hms]
    rfl
  rw [State.spadByte, mem_locWrite, hepoch]

theorem spadRead_locWrite (c o n x : Nat) : (s.locWrite (.spad c o) n x).spadRead c o n = x % 2 ^ (8 * n) :=
  spadRead_of_bytes fun i hi => by
    rw [spadByte_locWrite, ← Nat.add_assoc]
    exact get_putBytes _ _ _ _ hi

theorem spadByte_locWrite_other {c o n : Nat} (x : Nat) (hn : o + n ≤ 2 ^ 17) {c' o' : Nat} (ho : o' < 2 ^ 17)
    (h : c' ≠ c ∨ o' < o ∨ o + n ≤ o') : (s.locWrite (.spad c o) n x).spadByte c' o' = s.spadByte c' o' := by
  rw [spadByte_locWrite]
  exact get_putBytes_other _ _ _ (by omega)

end Sys2Proof.Machine
end

section
/-!
SUPPORT. Accesses at core memories: whose turn it is at a scratchpad (R141), and what performing one leaves.
-/

namespace Sys2Proof.Machine

open Sys2Proof

variable {s t : State}

/-! ## What has reached the scratchpads is noted, and stays so -/

/-- The accesses noted at every core's scratchpad are the same (R141). -/
def State.SameReach (s t : State) : Prop := ∀ k, (t.core k).reach = (s.core k).reach

theorem State.SameReach.refl (s : State) : s.SameReach s := fun _ => rfl

theorem State.SameReach.trans {u : State} (h : s.SameReach t) (h' : t.SameReach u) : s.SameReach u :=
  fun k => (h' k).trans (h k)

theorem State.OnlyResults.sameReach (h : s.OnlyResults t) : s.SameReach t := fun k => by rw [h k]

theorem setCore_sameReach {k : Nat} {c : Core} (h : c.reach = (s.core k).reach) : s.SameReach (s.setCore k c) := by
  intro q
  rw [State.core_setCore]
  split
  · next e => rw [h, e]
  · rfl

theorem updCore_sameReach {k : Nat} {f : Core → Core} (h : (f (s.core k)).reach = (s.core k).reach) :
    s.SameReach (s.updCore k f) := setCore_sameReach h

theorem setHold_reach (c : Core) (lv : Bool) (h : Hold) : (c.setHold lv h).reach = c.reach := c.setThr_reach lv _

theorem postHandler_sameReach {ck sender : Nat} {r : HRec} (h : s.postHandler ck sender r = some t) : s.SameReach t := by
  unfold State.postHandler at h
  dsimp only at h
  split at h
  · cases h
  split at h
  · cases h
    exact setCore_sameReach (s := s.setTile _ _) rfl
  split at h
  · cases h
    exact (putRec_onlyResults (s := s.setTile _ _) _ _ _).sameReach
  · cases h

theorem postService_sameReach {h : Hall} {frame : Word} {tidx : Nat} (hp : s.postService h frame tidx = .posted t) :
    s.SameReach t := by
  unfold State.postService at hp
  split at hp
  · cases hp
  split at hp
  · next hs => cases hp; exact postHandler_sameReach hs
  · cases hp

theorem postTrap_sameReach (ck : Nat) (lv dbl : Bool) (code : Nat) (frame : Word) :
    s.SameReach (s.postTrap ck lv dbl code frame) := by
  have hb : s.SameReach (s.updCore ck (fun c => c.setHold lv (.service dbl code frame))) :=
    updCore_sameReach (setHold_reach ..)
  unfold State.postTrap
  dsimp only
  split
  · exact hb
  split
  · next hp => exact hb.trans (postService_sameReach hp)
  · exact hb.trans (updCore_sameReach (setHold_reach ..))
  · exact hb.trans fun k => by rw [cancelHall_core]

theorem trapEntry_sameReach (ck : Nat) (lv : Bool) (code : Nat) (tval : Word) (fetch : Bool) :
    s.SameReach (s.trapEntry ck lv code tval fetch) := by
  unfold State.trapEntry
  dsimp only
  split
  · exact postTrap_sameReach _ _ _ _ _
  split
  · refine .trans ?_ (postTrap_sameReach _ _ _ _ _)
    exact setCore_sameReach rfl
  · exact setCore_sameReach ((setHold_reach ..).trans (Core.setThr_reach ..))

theorem takeTrap_sameReach (ck : Nat) (lv : Bool) : s.SameReach (s.takeTrap ck lv) := by
  unfold State.takeTrap
  dsimp only
  split
  · split
    · exact .refl s
    · exact trapEntry_sameReach _ _ _ _ _
  · exact .refl s

theorem served_sameReach (ck id : Nat) (bad : Option (Nat × Nat × Word)) : s.SameReach (s.served ck id bad) := by
  unfold State.served
  generalize hq : (fun p : Pend => { p with acc := p.acc - 1, bad := match bad with | none => p.bad | some b => worseLane p.bad b }) = q
  have hb : s.SameReach (s.updCore ck (fun c => c.updPend id q)) := updCore_sameReach rfl
  dsimp only
  split
  · exact hb
  split
  · exact hb
  split
  · exact hb
  split
  · exact hb.trans (setCore_sameReach (setHold_reach ..))
  · refine .trans (hb.trans ?_) (takeTrap_sameReach _ _)
    exact setCore_sameReach (Core.setThr_reach ..)

theorem aperturePut_sameReach (r : Req) (x : Vec) (f : FFlags) : s.SameReach (s.aperturePut r x f) := by
  unfold State.aperturePut
  split
  · exact .refl s
  · dsimp only
    have hgive (p : Nat) : s.SameReach ((s.updCore r.core (fun c => c.updPend p (fun q => { q with flags := q.flags.or f }))).give
        r.core p r.lane r.n r.sext x.toNat) := (updCore_sameReach rfl).trans (updCore_sameReach rfl)
    split
    · exact (hgive _).trans (served_sameReach _ _ _)
    · exact hgive _

/-! ## Whose turn it is -/

theorem outOfTurn_iff (ck : Nat) (l : Loc) (n : Nat) : s.outOfTurn ck l n = true ↔
    ∃ c o k o' n', l = .spad c o ∧ (s.core c).reach.1 = s.cycle ∧ (k, o', n') ∈ (s.core c).reach.2 ∧
      reachKey c ck < k ∧ overlaps o' n' o n = true := by
  cases l with
  | spad c o => simp [State.outOfTurn]
  | glob | vault | gal => simp [State.outOfTurn]

theorem outOfTurn_eq_false {ck : Nat} {l : Loc} {n : Nat} (h : ¬∃ c o k o' n', l = .spad c o ∧ (s.core c).reach.1 = s.cycle ∧
    (k, o', n') ∈ (s.core c).reach.2 ∧ reachKey c ck < k ∧ overlaps o' n' o n = true) : s.outOfTurn ck l n = false :=
  Bool.eq_false_iff.mpr fun hlater => h ((outOfTurn_iff ck l n).mp hlater)

theorem noteReach_sameElse (ck : Nat) (l : Loc) (n : Nat) : s.noteReach ck l n = { s with cores := (s.noteReach ck l n).cores } := by
  cases l <;> rfl

/-- Noting that bytes have been reached changes, of every core, the notes alone (R141). -/
theorem core_noteReach (ck : Nat) (l : Loc) (n k : Nat) :
    ∃ x, (s.noteReach ck l n).core k = { s.core k with reach := x } := by
  cases l with
  | spad c o =>
    by_cases h : c = k
    · subst h
      exact ⟨_, s.core_updCore c _⟩
    · exact ⟨(s.core k).reach, (State.core_setCore ..).trans (if_neg h)⟩
  | glob | vault | gal => exact ⟨(s.core k).reach, rfl⟩

theorem reach_noteReach (ck c o n : Nat) : ((s.noteReach ck (.spad c o) n).core c).reach.1 = s.cycle ∧
    (reachKey c ck, o, n) ∈ ((s.noteReach ck (.spad c o) n).core c).reach.2 := by
  have h : (s.noteReach ck (.spad c o) n).core c = (s.core c).reached s.cycle (reachKey c ck) o n := s.core_updCore c _
  rw [h]
  exact ⟨rfl, List.mem_cons_self⟩

theorem spadByte_noteReach (ck : Nat) (l : Loc) (n c o : Nat) : (s.noteReach ck l n).spadByte c o = s.spadByte c o := by
  cases l <;> rfl

theorem locRead_noteReach (ck : Nat) (l l' : Loc) (n n' : Nat) : (s.noteReach ck l n).locRead l' n' = s.locRead l' n' := by
  cases l' with
  | spad c o => exact spadRead_congr (fun o => spadByte_noteReach ..) o n'
  | glob | vault | gal => cases l <;> rfl

/-! ## A read-modify-write at a core memory -/

theorem rmwAt_coreMemory {l : Loc} (hl : l.isGlob = false) (n : Nat) (h : Hint) (strict : Bool) (f : Nat → Option Nat) :
    s.rmwAt l n h strict f = (s.locRead l n, false, ((f (s.locRead l n)).map (s.locWrite l n)).getD s) := by
  have hat : s.readAt l n h = (s.locRead l n, false, s) ∧ ∀ x, s.writeAt l n x h = (false, s.locWrite l n x) := by
    cases l with
    | glob => cases hl
    | spad | vault | gal => exact ⟨rfl, fun _ => rfl⟩
  unfold State.rmwAt
  rw [hat.1]
  simp only [Bool.false_and, Bool.false_eq_true, if_false, hat.2]
  cases f (s.locRead l n) <;> rfl

/-! ## The access -/

/-- The access of a request at its core memory, once it has been noted (R141, R144). -/
def State.atCoreMemory (s : State) (r : Req) : State :=
  match r.op with
  | .load => s.aperturePut r (BitVec.ofNat 1024 (s.locRead r.loc r.n)) {}
  | .store =>
    if r.n = 128 then s.locWriteMasked r.loc r.data r.bytes else s.locWrite r.loc r.n (r.data.toNat % 2 ^ (8 * r.n))
  | .pref => s
  | .evict => s
  | _ =>
    let (old, _, s) := s.rmwAt r.loc r.n .df false r.effect.1
    let (x, f) := r.effect.2 old
    if r.op.returns then s.aperturePut r (BitVec.ofNat 1024 x) f else s

theorem atCoreMemory_sameReach (r : Req) (hl : r.loc.isGlob = false) : s.SameReach (s.atCoreMemory r) := by
  have hrmw : s.SameReach (s.rmwAt r.loc r.n .df false r.effect.1).2.2 := by
    rw [rmwAt_coreMemory hl]
    cases r.effect.1 (s.locRead r.loc r.n) with
    | none => exact .refl s
    | some x => exact (locWrite_onlyResults _ _ _).sameReach
  have hput (x : Vec) (f : FFlags) : s.SameReach (if r.op.returns then
      (s.rmwAt r.loc r.n .df false r.effect.1).2.2.aperturePut r x f else (s.rmwAt r.loc r.n .df false r.effect.1).2.2) := by
    split
    · exact hrmw.trans (aperturePut_sameReach _ _ _)
    · exact hrmw
  unfold State.atCoreMemory
  split
  · exact aperturePut_sameReach _ _ _
  · split
    · exact (locWrite_onlyResults _ _ _).sameReach
    · exact (locWrite_onlyResults _ _ _).sameReach
  · exact .refl s
  · exact .refl s
  · exact hput _ _

/-- A request whose turn has come at a core memory, over the way to it: a dead one refuses the access (R430). -/
def State.overWay (s : State) (id : Nat) (r : Req) : Way → State
  | .wait => s
  | .dead =>
    if r.op == .store then (s.addFail r.core r.lv r.loc false).dropReq id
    else
      match r.pend with
      | none => (s.addFail r.core r.lv r.loc false).dropReq id
      | some p => (s.dropReq id).served r.core p (some (r.elem, tREFUSED, r.va))
  | .clear => ((s.noteReach r.core r.loc r.n).atCoreMemory r).dropReq id

section
variable {id : Nat} {r : Req} (hreq : s.req? id = some r) (hg : r.loc.isGlob = false) (hst : r.st = .sent) (ht : s.inTurn r = true)
include hreq hg hst ht

theorem exec_coreApertureAccess_later (h : s.outOfTurn r.core r.loc r.n = true) : exec (.coreApertureAccess id) s = .next s := by
  change execCoreApertureAccess id s = _
  simp only [execCoreApertureAccess, State.withReq, hreq, hg, hst, ht, h, Bool.or_true, if_true]
  rfl

/-- An access in its turn, that no range-scoreboard entry holds back. -/
theorem exec_coreApertureAccess_turn (hs : ∀ c o, r.loc = .spad c o → c ≠ r.core → r.n ≠ 128 ∧ s.overScore r.loc r.n = false)
    (ho : s.outOfTurn r.core r.loc r.n = false) :
    exec (.coreApertureAccess id) s = .next (s.overWay id r (s.wayBetween (tileOf r.core) r.loc.tile)) := by
  have hw : ((match r.loc with | .spad c _ => c != r.core | _ => false) &&
      (if r.n = 128 then (List.range 128).any (fun i => r.bytes.getLsbD i && s.overScore (r.loc.add i) 1)
        else s.overScore r.loc r.n)) = false := by
    cases hl : r.loc with
    | spad c o =>
      by_cases hc : c = r.core
      · simp [hc]
      · obtain ⟨hn, hscore⟩ := hs c o hl hc
        rw [hl] at hscore
        simp [hn, hscore]
    | glob | vault | gal => rfl
  change execCoreApertureAccess id s = _
  simp only [execCoreApertureAccess, State.withReq, hreq]
  have hturn : (r.loc.isGlob || r.st != .sent || !s.inTurn r) = false := by simp [hg, hst, ht]
  refine congrArg Host.Outcome.next ((if_neg (Bool.eq_false_iff.mp hturn)).trans
    ((if_neg (Bool.eq_false_iff.mp ((congrArg (· || _) hw).trans ho))).trans ?_))
  cases s.wayBetween (tileOf r.core) r.loc.tile with
  | wait | dead => rfl
  | clear =>
    rw [State.overWay, State.atCoreMemory]
    cases r.op <;> rfl

end

end Sys2Proof.Machine
end

section
/-!
SUPPORT. What an access at a core memory leaves, and the answers that reach a core (R122, R125, R128, R130, R277).
-/

namespace Sys2Proof.Machine

open Sys2Proof

variable {s t : State}

/-! ## The result of a load at a core memory -/

theorem updFirst_id {α : Type} (p : α → Bool) (l : List α) : updFirst p (fun x => x) l = l := by
  induction l with
  | nil => rfl
  | cons x xs ih => rw [updFirst, ih, ite_self]

theorem updPend_no_flags (c : Core) (p : Nat) : c.updPend p (fun q => { q with flags := q.flags.or {} }) = c.noteArrivals := by
  simp only [FFlags.or_none]
  rw [Core.updPend, updFirst_id]

theorem atByte_ofNat (x lane : Nat) : atByte (BitVec.ofNat 1024 x).toNat lane = BitVec.ofNat 1024 (x * 2 ^ (8 * lane)) := by
  apply BitVec.eq_of_toNat_eq
  rw [atByte, BitVec.toNat_ofNat, BitVec.toNat_ofNat, BitVec.toNat_ofNat, Nat.mod_mul_mod]

theorem aperturePut_near (r : Req) (x : Vec) {f : FFlags} {p : Nat} (hp : r.pend = some p) (hd : dieOf r.loc.tile = dieOf (tileOf r.core)) :
    s.aperturePut r x f = (s.updCore r.core (fun c => c.updPend p (fun q => { q with flags := q.flags.or f }))).give
      r.core p r.lane r.n r.sext x.toNat := by
  simp [State.aperturePut, hp, Loc.acrossFrom, hd]

/-- The bytes of a load at a core memory of its own die come to its pending result (R134, R144). -/
theorem core_aperturePut_load (r : Req) (x : Nat) {p : Nat} (hp : r.pend = some p) (hd : dieOf r.loc.tile = dieOf (tileOf r.core)) :
    (s.aperturePut r (BitVec.ofNat 1024 x) {}).core r.core = (s.core r.core).noteArrivals.updPend p (fun q =>
      { q with need := q.need - 1
               val := q.val ||| (match q.dst with
                 | some (.v _) => BitVec.ofNat 1024 (x * 2 ^ (8 * r.lane))
                 | _ => BitVec.ofNat 1024 (extendTo r.sext r.n (BitVec.ofNat 1024 x).toNat)) }) := by
  have htake : (fun q : Pend => q.take r.lane r.n r.sext (BitVec.ofNat 1024 x).toNat) = fun q =>
      { q with need := q.need - 1
               val := q.val ||| (match q.dst with
                 | some (.v _) => BitVec.ofNat 1024 (x * 2 ^ (8 * r.lane))
                 | _ => BitVec.ofNat 1024 (extendTo r.sext r.n (BitVec.ofNat 1024 x).toNat)) } := by
    funext q
    rw [← atByte_ofNat x r.lane]
    rfl
  rw [aperturePut_near r _ hp hd, State.give, State.core_updCore, State.core_updCore, updPend_no_flags, htake]

theorem flight_mem_aperturePut_near (r : Req) (x : Vec) {f : FFlags} {p : Nat} (hp : r.pend = some p) (hd : dieOf r.loc.tile = dieOf (tileOf r.core)) :
    (s.aperturePut r x f).flight = s.flight ∧ (s.aperturePut r x f).mem = s.mem := by
  rw [aperturePut_near r x hp hd]
  exact ⟨rfl, rfl⟩

/-! ## The access of each kind -/

theorem spadRead_dropReq (id c o n : Nat) : (s.dropReq id).spadRead c o n = s.spadRead c o n :=
  spadRead_congr (s := s) (t := s.dropReq id) (fun _ => rfl) o n

section
variable {r : Req}

theorem atCoreMemory_store (hop : r.op = .store) (hn : r.n ≠ 128) :
    s.atCoreMemory r = s.locWrite r.loc r.n (r.data.toNat % 2 ^ (8 * r.n)) := by
  simp [State.atCoreMemory, hop, hn]

theorem atCoreMemory_load (hop : r.op = .load) : s.atCoreMemory r = s.aperturePut r (BitVec.ofNat 1024 (s.locRead r.loc r.n)) {} := by
  simp [State.atCoreMemory, hop]

/-- An atomic at a core memory writes its new value, if it has one, and returns the old one (R249). -/
theorem atCoreMemory_amo {op : RmwOp} {ty : Nat} (hop : r.op = .amo op ty) (hg : r.loc.isGlob = false) {new : Nat}
    (hnew : rmwNew op ty (s.locRead r.loc r.n) r.data.toNat r.cmp.toNat = some new) :
    s.atCoreMemory r = (s.locWrite r.loc r.n new).aperturePut r (BitVec.ofNat 1024 (s.locRead r.loc r.n)) {} := by
  simp [State.atCoreMemory, hop, rmwAt_coreMemory hg, Req.effect, hnew, ReqOp.returns]

/-- A store at a scratchpad that has been noted: its bytes, and no others (R141). -/
theorem atCoreMemory_store_spad {ck c o n : Nat} (hl : r.loc = .spad c o) (hop : r.op = .store) (hn : r.n ≠ 128) (hsize : o + r.n ≤ 2 ^ 17) :
    let t := (s.noteReach ck r.loc n).atCoreMemory r
    t.flight = s.flight ∧ t.spadRead c o r.n = r.data.toNat % 2 ^ (8 * r.n) ∧
      (∀ c' o', o' < 2 ^ 17 → (c' ≠ c ∨ o' < o ∨ o + r.n ≤ o') → t.spadByte c' o' = s.spadByte c' o') ∧
      { t.mem with spad := s.mem.spad } = s.mem := by
  intro t
  have ht : t = (s.noteReach ck (.spad c o) n).locWrite (.spad c o) r.n (r.data.toNat % 2 ^ (8 * r.n)) := by
    rw [← hl]
    exact atCoreMemory_store hop hn
  rw [ht]
  refine ⟨flight_locWrite .., ?_, fun c' o' ho' h => ?_, ?_⟩
  · rw [spadRead_locWrite, Nat.mod_mod]
  · rw [spadByte_locWrite_other _ hsize ho' h, spadByte_noteReach]
  · rw [mem_locWrite]
    rfl

/-- A store at a gallery: its bytes, and no others (R148). -/
theorem atCoreMemory_store_gal {ck k o n : Nat} (hl : r.loc = .gal k o) (hop : r.op = .store) (hn : r.n ≠ 128) :
    let t := (s.noteReach ck r.loc n).atCoreMemory r
    readBytes t.mem.gal (k * 2 ^ 14 + o) r.n = r.data.toNat % 2 ^ (8 * r.n) ∧
      (∀ a, (a < k * 2 ^ 14 + o ∨ k * 2 ^ 14 + o + r.n ≤ a) → t.mem.gal.get 0 a = s.mem.gal.get 0 a) ∧
      { t.mem with gal := s.mem.gal } = s.mem := by
  intro t
  have ht : t.mem = s.mem.put (.gal k o) r.n (r.data.toNat % 2 ^ (8 * r.n)) := by
    have ht : t = (s.noteReach ck (.gal k o) n).locWrite (.gal k o) r.n (r.data.toNat % 2 ^ (8 * r.n)) := by
      rw [← hl]
      exact atCoreMemory_store hop hn
    rw [ht, mem_locWrite]
    rfl
  rw [ht]
  refine ⟨?_, fun a ha => get_writeBytes_other _ _ ha, rfl⟩
  rw [Mems.put, readBytes_writeBytes, Nat.mod_mod]

/-- A load at a core memory of its own die: its bytes come to its pending result, and no memory changes (R144). -/
theorem atCoreMemory_load_near {ck n p : Nat} {l : Loc} (hop : r.op = .load) (hp : r.pend = some p)
    (hd : dieOf r.loc.tile = dieOf (tileOf r.core)) :
    let t := (s.noteReach ck l n).atCoreMemory r
    t.mem = s.mem ∧ t.flight = s.flight ∧
      { t.core r.core with reach := (s.core r.core).reach } = (s.core r.core).noteArrivals.updPend p (fun q =>
        { q with need := q.need - 1
                 val := q.val ||| (match q.dst with
                   | some (.v _) => BitVec.ofNat 1024 (s.locRead r.loc r.n * 2 ^ (8 * r.lane))
                   | _ => BitVec.ofNat 1024 (extendTo r.sext r.n (BitVec.ofNat 1024 (s.locRead r.loc r.n)).toNat)) }) := by
  intro t
  have ht : t = (s.noteReach ck l n).aperturePut r (BitVec.ofNat 1024 (s.locRead r.loc r.n)) {} := by
    rw [← locRead_noteReach ck l r.loc n r.n]
    exact atCoreMemory_load hop
  obtain ⟨hflight, hmem⟩ := flight_mem_aperturePut_near (s := s.noteReach ck l n) r (BitVec.ofNat 1024 (s.locRead r.loc r.n)) (f := {}) hp hd
  obtain ⟨x, hx⟩ := core_noteReach (s := s) ck l n r.core
  rw [ht, hflight, hmem, core_aperturePut_load r _ hp hd, hx, noteReach_sameElse]
  exact ⟨rfl, rfl, rfl⟩

end

end Sys2Proof.Machine
end

section
/-!
SUPPORT. The answers that reach a core, event by event.
-/

namespace Sys2Proof.Machine

open Sys2Proof

section
variable {s : State} {id pa : Nat} {r : Req} (hreq : s.req? id = some r) (hl : r.loc = .glob pa)
include hreq hl

theorem exec_sliceFill (hst : r.st = .missed) (hlock : s.locked (pa / 128) false = false) (hlink : s.linksWait (pa / 128) = false) :
    exec (.sliceFill id) s = .next ((s.sliceRead (pa / 128) r.hint).2.2.readAll r pa false (s.sliceRead (pa / 128) r.hint).1
      (s.sliceRead (pa / 128) r.hint).2.1) := by
  change execSliceFill id s = _
  simp only [execSliceFill, State.withReq, hreq, hl, hst, lineOf, hlock, hlink, Bool.or_self, Bool.false_eq_true, if_false]

theorem exec_pcieCompletion_load (hst : r.st = .pcie) (hop : r.op = .load) : exec (.pcieCompletion id) s =
    .next (s.readAll r pa false (BitVec.ofNat 1024 (s.hostRead (pa / 128 * 128) 128)) false) := by
  change execPcieCompletion id s = _
  simp only [execPcieCompletion, State.withReq, hreq, hl, hst, hop, ReqOp.isRead, if_true]
  rfl

theorem exec_pcieCompletion_amo (hst : r.st = .pcie) {op : RmwOp} {ty new : Nat} (hop : r.op = .amo op ty)
    (hnew : rmwNew op ty (s.hostRead pa r.n) r.data.toNat r.cmp.toNat = some new) :
    exec (.pcieCompletion id) s =
      .next ((((s.hostWrite pa r.n new).bumpSsn (homeSlice pa)).notify (.glob pa) r.n).atomicDone r (s.hostRead pa r.n) false
        (some ((((s.hostWrite pa r.n new).bumpSsn (homeSlice pa)).notify (.glob pa) r.n).ssnOf pa))) := by
  change execPcieCompletion id s = _
  simp only [execPcieCompletion, State.withReq, hreq, hl, hst, hop, ReqOp.isRead, Req.effect, hnew, Bool.false_eq_true, if_false]

variable {data : Vec} {ssn : Option (BitVec 48)} (hst : r.st = .done data ssn false) (ht : s.answerInTurn r = true)
include hst ht

/-- The answer of a request with a result: what it brings to the L1, then its bytes; one whose line waits for a place waits. -/
theorem exec_readResponse {p : Nat} (hp : r.pend = some p) (hop : (r.op.isRead || r.op.returns) = true) :
    exec (.readResponse id) s = .next
      (((((s.witness r.core pa ssn).dropReq id).answerL1 r pa data ssn false).map fun t =>
        if r.op.isRead then t.give r.core p r.lane r.n r.sext (vecBytes data (pa % 128) r.n)
        else t.give r.core p 0 r.n r.sext data.toNat).getD s) := by
  have hgo : (!(r.op.isRead || r.op.returns) || !s.answerInTurn r) = false := by simp [ht, hop]
  change execReadResponse id s = _
  simp only [execReadResponse, State.withReq, hreq, hl, hst, hgo, hp, Bool.false_eq_true, if_false]
  cases ((s.witness r.core pa ssn).dropReq id).answerL1 r pa data ssn false <;> rfl

theorem exec_storeAck {n : BitVec 48} (hop : r.op = .store) (hssn : ssn = some n) (hn : r.n ≠ 128) :
    exec (.storeAck id) s = .next (((s.witness r.core pa ssn).dropReq id).updBay (bayOf r.core) (fun b => b.l1Store (pa / 128)
      (BitVec.ofNat 1024 (r.data.toNat % 2 ^ (8 * r.n) * 2 ^ (8 * (pa % 128)))) (byteMask (pa % 128) r.n) n)) := by
  subst hssn
  change execStoreAck id s = _
  simp only [execStoreAck, State.withReq, hreq, hl, hst, ht, hop, ReqOp.isRead, ReqOp.returns, Req.lineData, hn, if_false]
  rfl

end

/-! ## What an answer brings to the L1 -/

section
variable {s : State} {r : Req} {pa : Nat} {data : Vec} {n : BitVec 48}

theorem answerL1_host {ssn : Option (BitVec 48)} {poison : Bool} (h : isHost pa = true) :
    s.answerL1 r pa data ssn poison = some s := by
  cases ssn <;> simp [State.answerL1, h]

theorem answerL1_load {poison : Bool} (hh : isHost pa = false) (hop : r.op = .load) (hb : r.hint ≠ .byp) :
    s.answerL1 r pa data (some n) poison = s.l1Bring (bayOf r.core) (pa / 128) (!r.nofill) data poison n (r.hint == .sl) := by
  have hby : (r.hint == .byp) = false := by simp [hb]
  simp [State.answerL1, hh, hop, hby, ReqOp.isRead, lineOf]

theorem answerL1_amo {op : RmwOp} {ty : Nat} {d : Vec} {bad poison : Bool} (hh : isHost pa = false) (hop : r.op = .amo op ty)
    (ha : r.after = some (d, bad)) :
    s.answerL1 r pa data (some n) poison = s.l1Bring (bayOf r.core) (pa / 128) false d bad n false := by
  simp [State.answerL1, hh, hop, ha, ReqOp.isRead, lineOf]

/-- The answer of an atomic leaves the L1 as it is when it brings no line, or the bay has no copy (R130). -/
theorem answerL1_amo_unchanged {op : RmwOp} {ty : Nat} {ssn : Option (BitVec 48)} {poison : Bool} (hop : r.op = .amo op ty)
    (h : r.after = none ∨ ssn = none ∨ isHost pa = true ∨ (s.bay (bayOf r.core)).l1? (pa / 128) = none) :
    s.answerL1 r pa data ssn poison = some s := by
  cases ssn with
  | none => rfl
  | some n =>
    cases hh : isHost pa with
    | true => exact answerL1_host hh
    | false =>
      cases ha : r.after with
      | none => simp [State.answerL1, hh, hop, ha, ReqOp.isRead]
      | some w =>
        have hnone : (s.bay (bayOf r.core)).l1? (pa / 128) = none := by simpa [ha, hh] using h
        rw [answerL1_amo hh hop ha, State.l1Bring]
        simp [hnone]

end

section
variable {s : State} {bk line : Nat} {d : Vec} {poison : Bool} {ssn : BitVec 48} {low : Bool}

theorem l1Bring_stands {fresh : Bool} (hu : (s.bay bk).uline? line = none) (h : ((s.bay bk).l1? line).isSome = true) :
    s.l1Bring bk line fresh d poison ssn low = some (s.updBay bk (fun b => b.l1Fill line d poison ssn s.stepNo low)) := by
  simp [State.l1Bring, hu, h]

theorem l1Bring_dropped (h : ((s.bay bk).l1? line).isSome = false) : s.l1Bring bk line false d poison ssn low = some s := by
  simp [State.l1Bring, h]

theorem l1Bring_fresh (hu : (s.bay bk).uline? line = none) (h : ((s.bay bk).l1? line).isSome = false) :
    s.l1Bring bk line true d poison ssn low =
      (s.l1Room bk line).map (fun t => t.updBay bk (fun b => b.l1Fill line d poison ssn t.stepNo low)) := by
  simp [State.l1Bring, hu, h]

end

/-! ## The witness table -/

section
variable {s : State} {ck k : Nat} {e : Nat × BitVec 48 × Nat} (he : (s.core ck).wit.find? (fun e => e.1 == k) = some e)
include he

theorem exec_witnessExpire_old (h : e.2.2 + 2 ^ 23 ≤ s.cycle) :
    exec (.witnessExpire ck k) s = .next (s.updCore ck (fun c => { c with wit := c.wit.erase k })) := by
  change execWitnessExpire ck k s = _
  simp only [execWitnessExpire, he, h, if_true]

theorem exec_witnessExpire_young (h : s.cycle < e.2.2 + 2 ^ 23) : exec (.witnessExpire ck k) s = .next s := by
  change execWitnessExpire ck k s = _
  simp only [execWitnessExpire, he, Nat.not_le.mpr h, if_false]

end

end Sys2Proof.Machine
end

section
/-!
PROOFS. The statements of 04_hbm_and_base_die.
-/

namespace Sys2Proof

open Machine

/-- Settles O27: a core memory's access is `exec_coreApertureAccess_turn`, with what it leaves by `atCoreMemory_load`, `_store`
and `_amo`; an answer's bytes are `exec_readResponse` and what it brings to the L1 `answerL1_load` and `answerL1_amo`. -/
theorem coreMemoryAccessesAndAnswers : Obligations.CoreMemoryAccessesAndAnswers := by
  unfold Obligations.CoreMemoryAccessesAndAnswers
  refine ⟨fun s id r hreq hg hst ht hs => ?_, fun s id pa r hreq hl => ⟨?_, ?_, ?_, fun data ssn hst ht => ?_⟩,
    fun s ck k e he => ⟨fun h => ?_, exec_witnessExpire_young he⟩⟩
  · refine ⟨fun h => exec_coreApertureAccess_later hreq hg hst ht ((outOfTurn_iff ..).mpr h), fun h hw => ?_, fun h hw => ?_⟩
    · have hexec := exec_coreApertureAccess_turn hreq hg hst ht hs (outOfTurn_eq_false h)
      rw [hw, State.overWay] at hexec
      refine ⟨fun hop p hp hd => ⟨_, hexec, ?_⟩, fun c o hl => ⟨_, hexec, ?_⟩, fun hop hn c o hl hsize => ⟨_, hexec, ?_⟩,
        fun hop hn k o hl hsize => ⟨_, hexec, atCoreMemory_store_gal hl hop hn⟩, fun op ty hop => ⟨_, hexec, fun new hnew => ?_⟩⟩
      · obtain ⟨hmem, hflight, hcore⟩ := atCoreMemory_load_near (s := s) (ck := r.core) (l := r.loc) (n := r.n) hop hp hd
        exact ⟨hmem, congrArg (dropFirst _) hflight, hcore⟩
      · have hreach := atCoreMemory_sameReach (s := s.noteReach r.core r.loc r.n) r hg c
        change (((s.noteReach r.core r.loc r.n).atCoreMemory r).core c).reach.1 = _ ∧
          _ ∈ (((s.noteReach r.core r.loc r.n).atCoreMemory r).core c).reach.2
        rw [hreach, hl]
        exact reach_noteReach ..
      · obtain ⟨hflight, hread, hother, hmem⟩ := atCoreMemory_store_spad (s := s) (ck := r.core) (n := r.n) hl hop hn hsize
        exact ⟨congrArg (dropFirst _) hflight, (spadRead_dropReq ..).trans hread, hother, hmem⟩
      · rw [atCoreMemory_amo hop hg ((locRead_noteReach ..).symm ▸ hnew), locRead_noteReach]
    · have hexec := exec_coreApertureAccess_turn hreq hg hst ht hs (outOfTurn_eq_false h)
      rw [hw, State.overWay] at hexec
      exact ⟨fun hop => by simpa [hop] using hexec, fun hop p hp => by simpa [hop, hp] using hexec⟩
  · exact fun hst hlock hlink => exec_sliceFill hreq hl hst hlock hlink
  · exact exec_pcieCompletion_load hreq hl
  · exact fun hst op ty new hop hnew => exec_pcieCompletion_amo hreq hl hst hop hnew
  · refine ⟨fun hop p hp hh => ?_, fun hop p n hp hh hssn hb hu => ?_, fun op ty p hop hp => ⟨fun h => ?_, fun d bad n ha hssn hh hu hstands => ?_⟩,
      fun hop n hssn hn => exec_storeAck hreq hl hst ht hop hssn hn⟩
    · rw [exec_readResponse hreq hl hst ht hp (by simp [hop, ReqOp.isRead]), answerL1_host hh, hop]
      rfl
    · have hanswer := exec_readResponse hreq hl hst ht hp (by simp [hop, ReqOp.isRead])
      subst hssn
      rw [answerL1_load hh hop hb, hop] at hanswer
      refine ⟨fun hstands => ?_, fun hstands hfill => ?_, fun hstands hfill => ⟨fun t hroom => ?_, fun hroom => ?_⟩⟩
      · rw [hanswer, l1Bring_stands hu hstands]
        rfl
      · rw [hanswer, hfill, Bool.not_true, l1Bring_dropped hstands]
        rfl
      · rw [hanswer, hfill, Bool.not_false, l1Bring_fresh hu hstands, hroom]
        rfl
      · rw [hanswer, hfill, Bool.not_false, l1Bring_fresh hu hstands, hroom]
        rfl
    · rw [exec_readResponse hreq hl hst ht hp (by simp [hop, ReqOp.returns]), answerL1_amo_unchanged hop h, hop]
      rfl
    · subst hssn
      rw [exec_readResponse hreq hl hst ht hp (by simp [hop, ReqOp.returns]), answerL1_amo hh hop ha, l1Bring_stands hu hstands, hop]
      rfl
  · exact ⟨_, exec_witnessExpire_old he h, congrArg Core.wit (State.core_updCore ..), rfl⟩

/-- Settles O32, stage by stage: what `mfillBody` and `nmcmdOn` come to, and the steps of the slices and of the near-memory
units. -/
theorem multicastFillAndNearMemory : Obligations.MulticastFillAndNearMemory := by
  unfold Obligations.MulticastFillAndNearMemory
  refine ⟨fun s gu la h d a b c count id f => ?_, fun s gu la d a => ?_, fun s id k c hf => ?_⟩
  · intro u i n
    refine ⟨fun hi => ?_, fun hf hfork hnm hl x t hr => exec_mfillLine hf hfork hnm hl hr⟩
    have ea : s.src a = s.rg a := src_of_plain hi (by simp [u])
    have eb : s.src b = s.rg b := src_of_plain hi (by simp [u])
    have ec : s.src c = s.rg c := src_of_plain hi (by simp [u])
    rw [← ea, ← eb, ← ec]
    refine ⟨fun ha => runs_trap hi.toIssues (mfillBody_misalignedSource ha),
      fun ha hc => runs_trap hi.toIssues (mfillBody_misalignedOffset ha hc),
      fun ha hc hs hl => runs_trap hi.toIssues (mfillBody_tooLong ha hc hs hl), fun ha hc hs hl ps t hp => ⟨fun hb => ?_, fun hb t' ht => ?_⟩⟩
    · exact runs_done hi (mfillBody_noTarget ha hc hs hl hp hb)
    · exact runs_done hi (mfillBody_takes ha hc hs hl hp hb ht)
  · intro u hi
    have ea : s.src a = s.rg a := src_of_plain hi (by simp [u])
    rw [← ea]
    refine ⟨fun ha => runs_trap hi.toIssues (if_pos ha), fun x l t ha hn hr => ?_⟩
    intro b
    have hread {r : Res} {e : State} (h : nmcmdOn d la b t = r) (he : r = .done e) : Performs s (.nmcmd gu la d a) u e :=
      runs_done hi ((nmcmdBody_read ha hn hr).trans (h.trans he))
    refine ⟨fun hb => hread rfl (nmcmdOn_bad hb), fun hb rs t' hp => ⟨fun hx => hread rfl (nmcmdOn_crosses hb hp hx), fun hx => ?_⟩⟩
    refine ⟨fun hh => hread rfl (nmcmdOn_away hb hp hx hh), fun hh => ⟨fun hw => hread rfl (nmcmdOn_refused hb hp hx hh hw), fun hw hway => ?_⟩⟩
    obtain ⟨hmem, hpend, hcmds⟩ := enterCmd_entered (t'.nmRefused rs).2 d la b rs t.cur t.lv
    exact ⟨_, hread rfl (nmcmdOn_enters hb hp hx hh hw hway), hmem, hpend, _, hcmds, rfl, rfl, rfl, rfl, rfl, rfl, rfl, rfl, rfl, rfl, rfl⟩
  · refine ⟨fun hst hk hn hb hw => exec_nmuLock_dead hf hst hk hn hb hw, fun hst hk hn hb hw hsl => ?_,
      fun hst ha hq => exec_nmuAccept hf hst ha hq, fun hidle hq hb h2 h7 => exec_nmuExecute hidle hq hb h2 h7,
      fun hr h0 => exec_nmuLine_nop hr h0, fun hr h4 hsz => ?_⟩
    · intro ds ss hfree
      have hgo : ¬(4 < s.slotsUsed k + c.slots k ∨ (ds ++ ss).any (fun l => s.missPending l || s.recallWaits l) = true) := by
        rintro (h | h)
        · omega
        · obtain ⟨l, hl, h⟩ := List.any_eq_true.mp h
          simp [hfree l hl] at h
      rw [exec_nmuLock hf hst hk hn hb, hw]
      exact congrArg _ (if_neg hgo)
    · intro a n hb w
      rw [exec_nmuLine_dst hr (by omega) (by omega), nmDstLine_fill h4 hsz hb]
      exact ⟨fun hlt => congrArg _ (if_neg (Nat.not_le.mpr hlt)), fun hle => congrArg _ (if_pos hle)⟩

/-- Settles O50: `refuses_iff`; what `VLog.enter` leaves at each place of the log, and the fields of `logWords`; and
`writeVlog_clear`, which only an S requester that reaches the log comes to. -/
theorem worldCheck : Obligations.WorldCheck := by
  unfold Obligations.WorldCheck
  refine ⟨fun s secure pa n => ?_, fun s pa kind r => ?_, fun s who die val => ?_, fun s d n x => ?_⟩
  · rw [refuses_iff, inSecure_iff, inSecureWin_iff]
  · intro d t log log'
    have hlog : log' = log.enter s.cycle (if kind = kNmu then 16 else sliceHash pa, logWords pa kind r) :=
      SMap.get_put_same ..
    obtain ⟨before, after, hold, hnow, hb, ha⟩ := insLog_split (if kind = kNmu then 16 else sliceHash pa, logWords pa kind r)
      (log.ofCycle s.cycle)
    obtain ⟨hpa, hkind, hzero, hv⟩ := logWords_access pa kind r
    refine ⟨rfl, fun k hk => SMap.get_put_other _ _ (Ne.symm hk) _, ?_⟩
    intro place old at_
    rw [hlog]
    refine ⟨log.total_enter .., rfl, rfl, fun k hk => log.ents_enter_other _ _ hk, fun hl i hi => log.ents_enter _ _ hl hi,
      before, after, logWords pa kind r, hold, hnow, hb, ha, hpa, hkind, hzero, hv, ?_⟩
    cases hh : r.host with
    | false =>
      obtain ⟨hhost, hsec, hfields⟩ := logWords_tile pa kind hh
      exact ⟨hhost, hsec, fun _ => hfields, nofun⟩
    | true =>
      obtain ⟨hhost, hsec, hrest⟩ := logWords_host pa kind hh
      exact ⟨hhost, hsec, nofun, fun _ => hrest⟩
  · refine ⟨fun h => exec_logClear_unreached s h val, fun h hx => ?_, fun h hsec hx => ?_⟩
    · rw [exec_logClear s h, writeVlog_kept s hx]
    · refine ⟨_, (exec_logClear s h val).trans (by rw [hsec, writeVlog_clear s hx]), rfl,
        fun k hk => SMap.get_put_other _ _ (Ne.symm hk) _, ?_⟩
      intro log log'
      have hlog : log' = _ := SMap.get_put_same ..
      rw [hlog]
      refine ⟨rfl, rfl, fun k => ?_⟩
      dsimp only
      rw [get_clearedEnts]
      exact ⟨(bitAt_setFld _ _ (by decide) _).trans rfl, fld_setFld_below _ _ (by decide), rfl⟩
  · refine ⟨rfl, rfl, ?_, ?_⟩ <;>
      simp [State.regWrite, State.regValue, region_setRegion]

/-- Settles O51: `reaches_fwin_iff` says who reaches a window; a CTL write is `writeFwin_enable` or `writeFwin_disable`, and
`fwin_evictLine` keeps the windows while the view's lines leave the slices. -/
theorem formatWindows : Obligations.FormatWindows := by
  unfold Obligations.FormatWindows
  refine ⟨fun s who win val => ?_, fun s who win val => ?_, fun s sec win reg x he h => writeFwin_ignored s he sec h,
    fun s win => ?_, fun s win x sec he hw => writeFwin_addresses hw he x⟩
  · refine ⟨fun h => (exec_fwin_unreached h val).1, fun h hx => ?_, fun h hwin hx he hw => ?_⟩
    · rw [exec_fwinEnable h, writeFwin_unless]
      rcases hx with hx | hx | hx | hx
      · exact .inl (by simp [hx])
      · have hx : bitAt val 0 = false := hx
        exact .inl (by simp [hx])
      · exact .inl (by simp [hx])
      · exact .inr hx
    · have hx : bitAt val 0 = true := hx
      have hgo : ¬(32 ≤ win || !bitAt val 0 || (s.fwin win).en) = true := by simp [hx, he, hwin]
      rw [exec_fwinEnable h, if_neg hgo, writeFwin_enable hw he hx]
      have hiff := fwinOk_iff s win ((s.fwin win).withCtl who.secure val)
      refine ⟨_, _, rfl, rfl, fun i h0 h15 => ?_, fun hok => ?_, fun hok => ?_⟩
      · rw [bitAt_enabledCtl, if_neg h15, if_neg h0]
        rfl
      · rw [hiff.mpr hok, bitAt_enabledCtl, bitAt_enabledCtl]
        exact ⟨rfl, rfl⟩
      · rw [Bool.eq_false_iff.mpr (fun e => hok (hiff.mp e)), bitAt_enabledCtl, bitAt_enabledCtl]
        exact ⟨((s.fwin win).en_withCtl who.secure val).trans he, rfl⟩
  · refine ⟨fun h => (exec_fwin_unreached h val).2, fun h hx => ?_, fun h hwin hx he hw => ?_⟩
    · rw [exec_fwinDisable h, writeFwin_unless]
      rcases hx with hx | hx | hx | hx
      · exact .inl (by simp [hx])
      · have hx : bitAt val 0 = true := hx
        exact .inl (by simp [hx])
      · exact .inl (by simp [hx])
      · exact .inr hx
    · have hx : bitAt val 0 = false := hx
      have hgo : ¬(32 ≤ win || bitAt val 0 || !(s.fwin win).en) = true := by simp [hx, he, hwin]
      rw [exec_fwinDisable h, if_neg hgo, writeFwin_disable hw he hx]
  · refine ⟨fun h => ?_, fun he hc hw => ?_⟩
    · rw [exec_fwinDisableDone, if_pos]
      rcases h with h | h | h <;> simp [h]
    · have hgo : ¬(!(s.fwin win).en || !(s.fwin win).closing || (s.viewLines (s.fwin win)).any s.recallWaits) = true := by
        simp only [he, hc, hw]; decide
      refine ⟨_, (exec_fwinDisableDone s win).trans (congrArg _ (if_neg hgo)), ?_⟩
      have hkept : ((s.viewLines (s.fwin win)).foldl State.evictLine s).sys.fwin = s.sys.fwin :=
        foldl_keeps (fun (t : State) => t.sys.fwin = s.sys.fwin) (fun _ _ ht => (fwin_evictLine _).trans ht) _ rfl
      rw [State.fwin_setFwin, if_pos rfl]
      refine ⟨?_, rfl, rfl, rfl, rfl, fun k hk => ?_⟩
      · exact (bitAt_setFld _ _ (by decide) _).trans rfl
      · rw [State.fwin_setFwin, if_neg (Ne.symm hk), State.fwin, hkept]
        rfl

end Sys2Proof
end

section
/-!
SUPPORT. Placing an address: what each aperture opens, and what a page that stands in the bay's TLB comes to (R139, R140, R412).
-/

namespace Sys2Proof.Machine

open Sys2Proof

variable {s : State} {ck : Nat} {pv : Bool} {a : Word}

/-! ## Steering (R139) -/

/-- Outside the global window no aperture opens a global address. -/
theorem steer_outside (h : 2 ^ 52 ≤ a.toNat) {sp : Spot} (hs : s.steer ck pv a = some sp) :
    (∃ r, sp = .sys r) ∨ ∃ l, sp = .loc l ∧ l.isGlob = false := by
  revert hs
  simp only [State.steer, if_neg (Nat.not_lt.mpr h)]
  split
  · split <;> rintro ⟨⟩
    exact .inr ⟨_, rfl, rfl⟩
  · split <;> rintro ⟨⟩
    exact .inr ⟨_, rfl, rfl⟩
  · split <;> rintro ⟨⟩
    exact .inr ⟨_, rfl, rfl⟩
  · split <;> rintro ⟨⟩
    exact .inr ⟨_, rfl, rfl⟩
  · split
    · split
      · rintro ⟨⟩
        exact .inr ⟨_, rfl, rfl⟩
      · split
        · nofun
        · split <;> rintro ⟨⟩
          exact .inr ⟨_, rfl, rfl⟩
    · nofun
  · split <;> rintro ⟨⟩
    exact .inl ⟨_, rfl⟩
  · nofun

theorem steer_ne_glob (h : 2 ^ 52 ≤ a.toNat) (w : Nat) : s.steer ck pv a ≠ some (.glob w) := by
  intro hs
  rcases steer_outside h hs with ⟨r, hr⟩ | ⟨l, hl, _⟩
  · cases hr
  · cases hl

theorem steer_global (h : a.toNat < 2 ^ 52) : s.steer ck pv a = some (.glob a.toNat) := if_pos h

section
variable {off : Nat}

/-- An address of an aperture beyond the global window, apart into the aperture and the offset. -/
theorem aperture_split {k : Nat} (hk : 16 ≤ k) (ho : off < 2 ^ 48) (ha : a.toNat = k * 2 ^ 48 + off) :
    ¬a.toNat < 2 ^ 52 ∧ a.toNat / 2 ^ 48 = k ∧ a.toNat % 2 ^ 48 = off := by
  omega

theorem steer_ownSpad (ho : off < 98304) (ha : a.toNat = 0xFF00 * 2 ^ 48 + off) :
    s.steer ck pv a = some (.loc (.spad ck off)) := by
  obtain ⟨hw, hk, hoff⟩ := aperture_split (by omega) (by omega) ha
  simp only [State.steer, if_neg hw, hk, hoff, spadSize, ho, if_true]

theorem steer_ownVault (ho : off < 32768) (ha : a.toNat = 0xFF01 * 2 ^ 48 + off) :
    s.steer ck pv a = some (.loc (.vault (vaultOf (tileOf ck)) (coreIdx ck * 32768 + off))) := by
  obtain ⟨hw, hk, hoff⟩ := aperture_split (by omega) (by omega) ha
  simp only [State.steer, if_neg hw, hk, hoff, ho, if_true]

theorem steer_tileSpad {k : Nat} (hk : k < 64) (ho : off < 98304) (ha : a.toNat = 0xFF02 * 2 ^ 48 + k * 2 ^ 17 + off) :
    s.steer ck pv a = some (.loc (.spad (tileOf ck * 64 + k) off)) := by
  obtain ⟨hw, hap, hoff⟩ := aperture_split (off := k * 2 ^ 17 + off) (by omega) (by omega) (ha.trans (Nat.add_assoc ..))
  have hcore : (k * 2 ^ 17 + off) / 2 ^ 17 = k ∧ (k * 2 ^ 17 + off) % 2 ^ 17 = off := by omega
  have hin : k * 2 ^ 17 + off < 2 ^ 23 ∧ off < 98304 := by omega
  simp only [State.steer, if_neg hw, hap, hoff, hcore, spadSize, if_pos hin]

theorem steer_gallery (ho : off < 16384) (ha : a.toNat = 0xFF03 * 2 ^ 48 + off) :
    s.steer ck pv a = some (.loc (.gal (tileOf ck) off)) := by
  obtain ⟨hw, hk, hoff⟩ := aperture_split (by omega) (by omega) ha
  simp only [State.steer, if_neg hw, hk, hoff, galSize, ho, if_true]

/-- A vault of the package beyond its task queues opens to P code and to the vault's own hall (R292). -/
theorem steer_vaults {v : Nat} (hv : v < 128) (hlo : 0x400000 ≤ off) (ho : off < 12582912)
    (ha : a.toNat = 0xFF04 * 2 ^ 48 + v * 2 ^ 24 + off) :
    s.steer ck pv a = if pv ∨ (s.tile (tileOfVault v)).hall = (s.tile (tileOf ck)).hall then some (.loc (.vault v off)) else none := by
  obtain ⟨hw, hap, hoff⟩ := aperture_split (off := v * 2 ^ 24 + off) (by omega) (by omega) (ha.trans (Nat.add_assoc ..))
  have hvault : (v * 2 ^ 24 + off) / 2 ^ 24 = v ∧ (v * 2 ^ 24 + off) % 2 ^ 24 = off := by omega
  have hin : v * 2 ^ 24 + off < 2 ^ 31 ∧ off < 12582912 := by omega
  simp only [State.steer, if_neg hw, hap, hoff, hvault, vaultSize, if_pos hin, if_neg (Nat.not_lt.mpr hlo)]
  cases pv <;> simp

/-- Between the global window and the apertures there is nothing. -/
theorem steer_gap (hlo : 0x10 * 2 ^ 48 ≤ a.toNat) (hhi : a.toNat < 0xFF00 * 2 ^ 48) : s.steer ck pv a = none := by
  have hw : ¬a.toNat < 2 ^ 52 := by omega
  simp only [State.steer, if_neg hw]
  split
  · omega
  · omega
  · omega
  · omega
  · omega
  · omega
  · rfl

end

/-! ## Placing (R140) -/

section
variable {acc : Acc} {ok : Bool}

theorem place_loc {l : Loc} (h : s.steer s.cur s.me.pv a = some (.loc l)) : s.place acc ok a = (.loc l, s) := by
  simp only [State.place, h]

theorem place_none (h : s.steer s.cur s.me.pv a = none) : s.place acc ok a = (.trap tAPERTURE a, s) := by
  simp only [State.place, h]

/-- An address outside the global window is placed without a walk, and at no global address. -/
theorem place_outside {g : Go} {s' : State} (h : 2 ^ 52 ≤ a.toNat) (hp : s.place acc ok a = (g, s')) :
    s' = s ∧ ∀ pa, g ≠ .loc (.glob pa) := by
  cases hs : s.steer s.cur s.me.pv a with
  | none =>
    rw [place_none hs] at hp
    obtain ⟨rfl, rfl⟩ := Prod.mk.inj hp
    exact ⟨rfl, nofun⟩
  | some sp =>
    rcases steer_outside h hs with ⟨r, rfl⟩ | ⟨l, rfl, hl⟩
    · simp only [State.place, hs] at hp
      obtain ⟨rfl, rfl⟩ := Prod.mk.inj hp
      refine ⟨rfl, fun pa => ?_⟩
      split
      · nofun
      · split <;> nofun
    · rw [place_loc hs] at hp
      obtain ⟨rfl, rfl⟩ := Prod.mk.inj hp
      refine ⟨rfl, fun pa hpa => ?_⟩
      cases hpa
      cases hl

/-- A page that stands in the bay's TLB: its address where the entry permits the access, else a page fault; no bay but this one
and nothing else changes (R411, R412). -/
theorem place_hit {e : TlbEnt} (h : a.toNat < 2 ^ 52)
    (he : (s.bay (bayOf s.cur)).vlt.find? (fun e => e.maps s.myHall.asid a.toNat) = some e) :
    s.place acc ok a = (if e.permits acc s.me.pv then .loc (.glob (e.phys a.toNat)) else .page a rPERM,
      if e.permits acc s.me.pv then
        s.setBay (bayOf s.cur) ((s.bay (bayOf s.cur)).tlbTouch .vlt s.myHall.asid a.toNat s.stepNo) else s) := by
  have hf : ((s.bay (bayOf s.cur)).tlb .vlt).find? (fun e => e.maps s.myHall.asid a.toNat) = some e := he
  simp only [State.place, steer_global h, State.translate, hf]
  cases e.permits acc s.me.pv <;> rfl

end

end Sys2Proof.Machine
end

section
/-!
SUPPORT. PREF and EVICT: what an access that never traps comes to (R135, R136).
-/

namespace Sys2Proof.Machine

open Sys2Proof

variable {s : State} {op : ReqOp} {h : Hint} {a : Word}

theorem quietBody_elsewhere (hs : ∀ w, s.steer s.cur s.me.pv a ≠ some (.glob w)) : quietBody op h a s = .done s := by
  unfold quietBody
  split
  · rename_i w hw
    exact absurd hw (hs w)
  · rfl

section
variable {w : Nat} (hs : s.steer s.cur s.me.pv a = some (.glob w))
include hs

theorem quietBody_fault {why : BitVec 2} {t : State}
    (ht : s.translate (bayOf s.cur) .vlt s.rqst s.myHall.asid w 0 s.me.pv = (.fault why, t)) : quietBody op h a s = .done t := by
  simp only [quietBody, hs, ht]

theorem quietBody_wait {t : State}
    (ht : s.translate (bayOf s.cur) .vlt s.rqst s.myHall.asid w 0 s.me.pv = (.wait, t)) : quietBody op h a s = .stall := by
  simp only [quietBody, hs, ht]

variable {pa : Nat} {t : State} (ht : s.translate (bayOf s.cur) .vlt s.rqst s.myHall.asid w 0 s.me.pv = (.phys pa, t))
include ht

theorem quietBody_host (hh : isHost pa = true) : quietBody op h a s = .done t := by
  simp only [quietBody, hs, ht, hh, if_true]

/-- A line of a stack: a request for it goes to its home slice. -/
theorem quietBody_line (hh : isHost pa = false) : quietBody op h a s = .done (t.send (lineReq op h a pa)) := by
  simp only [quietBody, hs, ht, hh, Bool.false_eq_true, if_false]

end

end Sys2Proof.Machine
end

section
/-!
SUPPORT. Loads and stores of several elements: what one comes to whose elements all have places (R134, R138), and the store
queue (R132).
-/

namespace Sys2Proof.Machine

open Sys2Proof

variable {s s' : State}

/-! ## Elements that all have places -/

/-- Elements placed at `ls`, as placing them answers. -/
def atPlaces (ls : List (Elem × Loc)) : List (Elem × Go) := ls.map (fun e => (e.1, Go.loc e.2))

@[simp] theorem firstTrap_atPlaces (ls : List (Elem × Loc)) : firstTrap (atPlaces ls) = none := by
  induction ls with
  | nil => rfl
  | cons e ls ih => exact ih

@[simp] theorem firstPage_atPlaces (ls : List (Elem × Loc)) : firstPage (atPlaces ls) = none := by
  induction ls with
  | nil => rfl
  | cons e ls ih => exact ih

@[simp] theorem goLocs_atPlaces (ls : List (Elem × Loc)) : goLocs (atPlaces ls) = ls := by
  induction ls with
  | nil => rfl
  | cons e ls ih => exact congrArg (e :: ·) ih

@[simp] theorem anyWait_atPlaces (ls : List (Elem × Loc)) : anyWait (atPlaces ls) = false := by
  simp [anyWait, atPlaces]

theorem atPlaces_ne_sys (ls : List (Elem × Loc)) (e : Elem) (r : SysReg) : atPlaces ls ≠ [(e, .sys r)] := by
  cases ls with
  | nil => nofun
  | cons x ls => intro h; cases (Prod.mk.inj (List.cons.inj h).1).2

theorem placeAll_elems (acc : Acc) (ok : Bool) (es : List Elem) : (s.placeAll acc ok es).1.map Prod.fst = es := by
  induction es generalizing s with
  | nil => rfl
  | cons e es ih => exact congrArg (e :: ·) ih

/-- The elements that have been placed are those of the access, in their order. -/
theorem elems_of_placeAll {acc : Acc} {ok : Bool} {es : List Elem} {ls : List (Elem × Loc)}
    (h : s.placeAll acc ok es = (atPlaces ls, s')) : ls.map Prod.fst = es := by
  have hes := placeAll_elems (s := s) acc ok es
  rw [h] at hes
  simpa [atPlaces, Function.comp_def] using hes

theorem misaligned_eq_none {es : List Elem} (h : ∀ e ∈ es, e.addr.toNat % e.n = 0) : misaligned es = none := by
  simpa [misaligned] using h

/-! ## Loads -/

section
variable {dst : Option PReg0} {la : BitVec 4} {h : Hint} {sext ok : Bool} {mask : Vec} {sysRead : SysReg → State → Word × State}
  {es : List Elem} (hr : (s.me.thr s.lv).hold = .ready)
include hr

theorem loadElems_misaligned {e : Elem} (he : misaligned es = some e) :
    s.loadElems dst la h sext mask ok sysRead es = .trap s tALIGN e.addr := by
  simp only [State.loadElems, hr, he]

/-- A load whose elements are aligned and have places, and that nothing of the core holds back, starts them one after the
other (R134, R138). -/
theorem loadElems_starts {ls : List (Elem × Loc)} (ha : ∀ e ∈ es, e.addr.toNat % e.n = 0)
    (hp : s.placeAll 0 ok es = (atPlaces ls, s'))
    (hw : ∀ e ∈ ls, s.ownScore e.2 e.1.n = false ∧ s.rmwAwaited e.2 e.1.n = false ∧ s.forward e.2 e.1.n (BitVec.allOnes 128) ≠ .partly) :
    s.loadElems dst la h sext mask ok sysRead es =
      s.loadEnd
        (State.startLoads { s' with ctr := s'.ctr + 1 } (s'.newPend dst la.toNat ls.length .mem mask) h sext ls).1
        (State.startLoads { s' with ctr := s'.ctr + 1 } (s'.newPend dst la.toNat ls.length .mem mask) h sext ls).2 := by
  have hgo : ls.any (fun e => s.ownScore e.2 e.1.n || s.rmwAwaited e.2 e.1.n || s.forward e.2 e.1.n (BitVec.allOnes 128) == .partly) =
      false := by
    rw [List.any_eq_false]
    intro e he
    obtain ⟨hscore, hrmw, hfwd⟩ := hw e he
    simpa [hscore, hrmw] using hfwd
  simp only [State.loadElems, hr, misaligned_eq_none ha, hp, firstTrap_atPlaces, anyWait_atPlaces, firstPage_atPlaces, goLocs_atPlaces,
    hgo, Bool.false_eq_true, if_false]
  split
  · rename_i hsys
    exact absurd hsys (atPlaces_ne_sys _ _ _)
  · rfl

end

theorem loadEnd_done {p : Pend} {t : State} (ha : p.acc = 0) (hb : p.bad = none) : s.loadEnd p t = .done (t.putPend p) := by
  simp only [State.loadEnd, ha, hb, ne_eq, not_true_eq_false, if_false]

theorem loadEnd_wait {p : Pend} {t : State} (ha : p.acc ≠ 0) : s.loadEnd p t = .wait (t.putPend p) (.access p.id) := if_pos ha

/-! ## The store queue (R132) -/

section
variable {t : State} {rs : List Req} (hs : ∀ r ∈ rs, s.ownScore r.loc r.n = false)
include hs

theorem takeWhile_noScore (n : Nat) : (rs.take n).takeWhile (fun r => !s.ownScore r.loc r.n) = rs.take n := by
  rw [List.takeWhile_eq_self_iff]
  intro r hr
  rw [hs r (List.mem_of_mem_take hr)]
  rfl

variable (hq : (s.me.thr s.lv).rest = [])
include hq

theorem queueStores_all (hl : rs.length ≤ 16 - s.storesQueued) : s.queueStores t rs = .done (rs.foldl State.send t) := by
  have hall : rs.take (storeCap - s.storesQueued) = rs := List.take_of_length_le hl
  have hnow := hall ▸ takeWhile_noScore hs (storeCap - s.storesQueued)
  simp only [State.queueStores, hall, hnow, List.drop_length, hq, List.isEmpty_nil, if_true]

/-- Those that find none wait, and the instruction with them. -/
theorem queueStores_waits (hl : 16 - s.storesQueued < rs.length) : s.queueStores t rs =
    .wait (((rs.take (16 - s.storesQueued)).foldl State.send t).updMe (fun c => c.setRest (rs.drop (16 - s.storesQueued)))) .issued := by
  have hlen : (rs.take (16 - s.storesQueued)).length = 16 - s.storesQueued := List.length_take_of_le (Nat.le_of_lt hl)
  have hrest : rs.drop (16 - s.storesQueued) ≠ [] := by simpa using hl
  simp only [State.queueStores, takeWhile_noScore hs, storeCap, hlen, hq, if_neg hrest, List.isEmpty_iff]

end

/-! ## Stores -/

/-- The request of one element of a store. -/
def storeReq (h : Hint) (e : Elem × Loc) (x : Nat) : Req :=
  { op := .store, va := e.1.addr, loc := e.2, n := e.1.n, data := BitVec.ofNat 1024 x, bytes := BitVec.allOnes 128, hint := h }

section
variable {h : Hint} {ok : Bool} {sysWrite : SysReg → Word → State → Option State} {es : List Elem} {x : Elem → Nat}
  (hq : (s.me.thr s.lv).rest = [])
include hq

theorem storeElems_misaligned {e : Elem} (he : misaligned es = some e) :
    s.storeElems h ok sysWrite (es.map fun e => (e, x e)) = .trap s tALIGN e.addr := by
  simp [State.storeElems, hq, Function.comp_def, he]

/-- A store whose elements are aligned and have places, and that nothing of the core holds back, puts a request for each into
the store queue (R132, R134, R138). -/
theorem storeElems_queues {ls : List (Elem × Loc)} (ha : ∀ e ∈ es, e.addr.toNat % e.n = 0)
    (hp : s.placeAll 1 ok es = (atPlaces ls, s')) (hf : s.storesFull = false)
    (hw : ∀ e ∈ ls, s.ownScore e.2 e.1.n = false ∧ s.overBarrier e.2 e.1.n = false) :
    s.storeElems h ok sysWrite (es.map fun e => (e, x e)) = s.queueStores s' (ls.map fun e => storeReq h e (x e.1)) := by
  have hscore : ls.any (fun e => s.ownScore e.2 e.1.n) = false := List.any_eq_false.mpr fun e he => by simp [(hw e he).1]
  have hbar : ls.find? (fun e => s.overBarrier e.2 e.1.n) = none := List.find?_eq_none.mpr fun e he => by simp [(hw e he).2]
  have hreqs : (ls.zip (es.map fun e => (e, x e))).map (fun e =>
      ({ op := .store, va := e.1.1.addr, loc := e.1.2, n := e.1.1.n, data := BitVec.ofNat 1024 e.2.2,
         bytes := BitVec.allOnes 128, hint := h } : Req)) = ls.map fun e => storeReq h e (x e.1) := by
    have hzip : ls.zip (es.map fun e => (e, x e)) = ls.map fun e => (e, e.1, x e.1) := by
      rw [← elems_of_placeAll hp, List.map_map]
      simpa [Function.comp_def] using List.zip_map' (f := fun e : Elem × Loc => e) (g := fun e => (e.1, x e.1)) (l := ls)
    rw [hzip, List.map_map]
    rfl
  have hone (r : Req) (hr : [r] = ls.map fun e => storeReq h e (x e.1)) : s.queueStores s' [r] = .done (s'.send r) := by
    refine queueStores_all (fun q hmem => ?_) hq ?_
    · rw [hr] at hmem
      obtain ⟨e, he, rfl⟩ := List.mem_map.mp hmem
      exact (hw e he).1
    · have : ¬16 ≤ s.storesQueued := of_decide_eq_false hf
      simp only [List.length_singleton]
      omega
  simp only [State.storeElems, hq, List.map_map, Function.comp_def, List.map_id', misaligned_eq_none ha, hp, firstTrap_atPlaces,
    anyWait_atPlaces, firstPage_atPlaces, goLocs_atPlaces, hbar, hscore, hf, List.isEmpty_nil, Bool.not_true, Bool.or_self,
    Bool.false_eq_true, if_false, hreqs]
  split
  · rename_i hsys _
    exact absurd hsys (atPlaces_ne_sys _ _ _)
  · split
    · rename_i hr
      rw [hr, hone _ hr.symm]
    · rfl

end

end Sys2Proof.Machine
end

section
/-!
SUPPORT. Vector loads and stores: their lanes (R137), and an aligned line as one access (R138).
-/

namespace Sys2Proof.Machine

open Sys2Proof

variable {s s' : State}

/-! ## A line as one access (R138) -/

section
variable {l : Loc} {e : Elem} {es : List Elem} {h : Hint} {bytes : BitVec 128}

theorem loadLine_starts {d : VReg} {la : BitVec 4} {mask : Vec} (hr : (s.me.thr s.lv).hold = .ready) (hp : s.place 0 false e.addr = (.loc l, s'))
    (hw : ∀ x ∈ es, s.ownScore (l.lineStart.add x.byte) x.n = false ∧ s.rmwAwaited (l.lineStart.add x.byte) x.n = false)
    (hf : s.forward l.lineStart 128 bytes ≠ .partly) :
    s.loadLine d la h bytes mask e es =
      s.loadEnd
        (State.startLoad { s' with ctr := s'.ctr + 1 } (s'.newPend (some (.v d.toNat)) la.toNat 1 .mem mask) h false
          { idx := 0, byte := 0, n := 128, addr := e.addr } l.lineStart bytes).1
        (State.startLoad { s' with ctr := s'.ctr + 1 } (s'.newPend (some (.v d.toNat)) la.toNat 1 .mem mask) h false
          { idx := 0, byte := 0, n := 128, addr := e.addr } l.lineStart bytes).2 := by
  have hgo : (es.any (fun x => s.ownScore (l.lineStart.add x.byte) x.n || s.rmwAwaited (l.lineStart.add x.byte) x.n) ||
      s.forward l.lineStart 128 bytes == .partly) = false := by
    have hany : es.any (fun x => s.ownScore (l.lineStart.add x.byte) x.n || s.rmwAwaited (l.lineStart.add x.byte) x.n) = false :=
      List.any_eq_false.mpr fun x hx => by simp [hw x hx]
    simp [hany, hf]
  simp only [State.loadLine, hr, hp, hgo, Bool.false_eq_true, if_false]

theorem storeLineV_sends {x : Vec} (hp : s.place 1 false e.addr = (.loc l, s')) (hfull : s.storesFull = false)
    (hw : ∀ x ∈ es, s.ownScore (l.lineStart.add x.byte) x.n = false ∧ s.overBarrier (l.lineStart.add x.byte) x.n = false) :
    s.storeLineV h x bytes e es =
      .done (s'.send { op := .store, va := e.addr, loc := l.lineStart, n := 128, data := x, bytes := bytes, hint := h }) := by
  have hscore : es.any (fun x => s.ownScore (l.lineStart.add x.byte) x.n) = false :=
    List.any_eq_false.mpr fun x hx => by simp [(hw x hx).1]
  have hbar : es.find? (fun x => s.overBarrier (l.lineStart.add x.byte) x.n) = none :=
    List.find?_eq_none.mpr fun x hx => by simp [(hw x hx).2]
  simp only [State.storeLineV, hp, hbar, hscore, hfull, Bool.or_self, Bool.false_eq_true, if_false]

end

/-! ## The lanes of a vector access (R137) -/

section
variable {gu : Guard} {ty : Nat}

/-- Where the guard lets some lane execute, there is an element. -/
theorem vElems_ne_nil (hg : s.vguard gu ty = true) (hw : 8 * (bitsOf ty / 8) = bitsOf ty) (addr : Nat → Word) :
    s.vElems gu ty addr ≠ [] := by
  obtain ⟨i, hi, hact⟩ := List.any_eq_true.mp hg
  have hlanes : lanesOfTy ty = 128 / (bitsOf ty / 8) := by
    rw [lanesOfTy, ← hw, Nat.mul_div_cancel_left _ (by decide : 0 < 8), show 1024 = 8 * 128 from rfl,
      Nat.mul_div_mul_left _ _ (by decide)]
  rw [hlanes] at hi
  exact List.ne_nil_of_mem (List.mem_map.mpr ⟨i, List.mem_filter.mpr ⟨hi, hact⟩, rfl⟩)

theorem n_of_mem_vElems {addr : Nat → Word} {e : Elem} (he : e ∈ s.vElems gu ty addr) : e.n = bitsOf ty / 8 := by
  obtain ⟨i, _, rfl⟩ := List.mem_map.mp he
  rfl

theorem n_of_placed {addr : Nat → Word} {acc : Acc} {ok : Bool} {ls : List (Elem × Loc)}
    (hp : s.placeAll acc ok (s.vElems gu ty addr) = (atPlaces ls, s')) {e : Elem × Loc} (he : e ∈ ls) : e.1.n = bitsOf ty / 8 :=
  n_of_mem_vElems (elems_of_placeAll hp ▸ List.mem_map_of_mem he)

end

theorem sintN_eq_toInt (x w : Nat) : sintN x w = (BitVec.ofNat w x).toInt := by
  rw [BitVec.toInt, BitVec.toNat_ofNat]
  rfl

/-! ## The instructions -/

section
variable (gu : Guard) (la ty : BitVec 4) (h : Hint) (d : VReg) (rs : List Reg) (vs : List VReg) (len : Nat) (unit : Bool)
  (addr : State → Nat → Word)

/-- What a vector load declares. -/
def vloadUses (s : State) : Uses :=
  { len := len, on := s.vguard gu ty.toNat, rs := rs.map (fun r => r.toNat), vs := vs.map (fun v => v.toNat), vw := [d.toNat], long := true }

/-- What a vector store declares. -/
def vstoreUses (s : State) : Uses :=
  { len := len, on := s.vguard gu ty.toNat, rs := rs.map (fun r => r.toNat), vs := d.toNat :: vs.map (fun v => v.toNat) }

/-- The effect of a vector load. -/
def vloadBody (s : State) : Res :=
  match s.vElems gu ty.toNat (addr s) with
  | [] => .done s
  | e :: rest =>
    if unit && (addr s 0).toNat % 128 == 0 then
      s.loadLine d la h (elemBytes (e :: rest)) (laneMask (bitsOf ty.toNat) (s.active gu ty.toNat)) e (e :: rest)
    else
      s.loadElems (some (.v d.toNat)) la h false (laneMask (bitsOf ty.toNat) (s.active gu ty.toNat)) false sysRead (e :: rest)

/-- The effect of a vector store. -/
def vstoreBody (s : State) : Res :=
  match s.vElems gu ty.toNat (addr s) with
  | [] => .done s
  | e :: rest =>
    if unit && (addr s 0).toNat % 128 == 0 then s.storeLineV h (s.srcV d) (elemBytes (e :: rest)) e (e :: rest)
    else s.storeElems h false sysWrite ((e :: rest).map (fun e => (e, lane (s.srcV d) (bitsOf ty.toNat) e.idx)))

theorem execVload_eq (s : State) : execVload gu la ty h d rs vs len unit addr s =
    s.runs (vloadUses gu ty d rs vs len s) (vloadBody gu la ty h d unit addr) := by
  unfold execVload
  congr 1
  funext s
  unfold vloadBody
  cases hes : s.vElems gu ty.toNat (addr s) <;> rfl

theorem execVstore_eq (s : State) : execVstore gu ty h d rs vs len unit addr s =
    s.runs (vstoreUses gu ty d rs vs len s) (vstoreBody gu ty h d unit addr) := by
  unfold execVstore
  congr 1
  funext s
  unfold vstoreBody
  cases hes : s.vElems gu ty.toNat (addr s) <;> rfl

end

section
variable {gu : Guard} {la ty : BitVec 4} {h : Hint} {d : VReg} {unit : Bool} {addr : State → Nat → Word}

/-- An access that is no whole line: lane by lane. -/
theorem vloadBody_lanes (hg : s.vguard gu ty.toNat = true) (hw : 8 * (bitsOf ty.toNat / 8) = bitsOf ty.toNat)
    (hu : unit = false ∨ (addr s 0).toNat % 128 ≠ 0) : vloadBody gu la ty h d unit addr s =
      s.loadElems (some (.v d.toNat)) la h false (laneMask (bitsOf ty.toNat) (s.active gu ty.toNat)) false sysRead
        (s.vElems gu ty.toNat (addr s)) := by
  have hline : ¬(unit && (addr s 0).toNat % 128 == 0) = true := by rcases hu with hu | hu <;> simp [hu]
  unfold vloadBody
  split
  · rename_i hnil
    exact absurd hnil (vElems_ne_nil hg hw _)
  · rename_i hes
    rw [if_neg hline, hes]

theorem vstoreBody_lanes (hg : s.vguard gu ty.toNat = true) (hw : 8 * (bitsOf ty.toNat / 8) = bitsOf ty.toNat)
    (hu : unit = false ∨ (addr s 0).toNat % 128 ≠ 0) : vstoreBody gu ty h d unit addr s =
      s.storeElems h false sysWrite
        ((s.vElems gu ty.toNat (addr s)).map (fun e => (e, lane (s.srcV d) (bitsOf ty.toNat) e.idx))) := by
  have hline : ¬(unit && (addr s 0).toNat % 128 == 0) = true := by rcases hu with hu | hu <;> simp [hu]
  unfold vstoreBody
  split
  · rename_i hnil
    exact absurd hnil (vElems_ne_nil hg hw _)
  · rename_i hes
    rw [if_neg hline, hes]

section
variable {e : Elem} {rest : List Elem} (hes : s.vElems gu ty.toNat (addr s) = e :: rest) (ha : (addr s 0).toNat % 128 = 0)
include hes ha

theorem vloadBody_line : vloadBody gu la ty h d true addr s =
    s.loadLine d la h (elemBytes (e :: rest)) (laneMask (bitsOf ty.toNat) (s.active gu ty.toNat)) e (e :: rest) := by
  simp only [vloadBody, hes, ha, Bool.true_and, beq_self_eq_true, if_true]

theorem vstoreBody_line : vstoreBody gu ty h d true addr s =
    s.storeLineV h (s.srcV d) (elemBytes (e :: rest)) e (e :: rest) := by
  simp only [vstoreBody, hes, ha, Bool.true_and, beq_self_eq_true, if_true]

end
end

end Sys2Proof.Machine
end

section
/-!
SUPPORT. Vector loads and stores as instructions: what one that issues answers, whatever its addresses are (R137, R138).
-/

namespace Sys2Proof

open Machine

variable {s : State} {u : Uses} {i : Instr} {body : State → Res}

/-- A load that has started goes on, or waits for what the home slices answer. -/
theorem loadEnd_outcome (hp : IssuesPlain s u) (hi : exec i s = s.runs u body) {p : Pend} {t : State} (hb : body s = s.loadEnd p t) :
    (p.acc = 0 → p.bad = none → Performs s i u (t.putPend p)) ∧ (p.acc ≠ 0 → Waits s i u (t.putPend p) (.access p.id)) :=
  ⟨fun ha hbad => hi.trans (runs_done hp (hb.trans (loadEnd_done ha hbad))),
    fun ha => hi.trans (runs_wait hp (hb.trans (loadEnd_wait ha)))⟩

/-- A store goes on when all its requests have entered the store queue (R132). -/
theorem queueStores_outcome (hp : IssuesPlain s u) (hi : exec i s = s.runs u body) {rs : List Req} {t : State}
    (hs : ∀ r ∈ rs, s.ownScore r.loc r.n = false) (hb : body s = s.queueStores t rs) :
    (rs.length ≤ 16 - s.storesQueued → Performs s i u (rs.foldl State.send t)) ∧
      (16 - s.storesQueued < rs.length → Waits s i u
        (((rs.take (16 - s.storesQueued)).foldl State.send t).updMe (fun c => c.setRest (rs.drop (16 - s.storesQueued)))) .issued) :=
  ⟨fun hl => hi.trans (runs_done hp (hb.trans (queueStores_all hs hp.queued hl))),
    fun hl => hi.trans (runs_wait hp (hb.trans (queueStores_waits hs hp.queued hl)))⟩

section
variable {gu : Guard} {la ty : BitVec 4} {h : Hint} {d : VReg} {rs : List Reg} {vs : List VReg} {len : Nat}
  {addr : State → Nat → Word} {addr' : Nat → Word}

/-! ## Lane by lane -/

section
variable {unit : Bool} (hw : 8 * (bitsOf ty.toNat / 8) = bitsOf ty.toNat) (haddr : addr s = addr')
  (hu : unit = false ∨ (addr' 0).toNat % 128 ≠ 0)
include hw haddr hu

theorem vload_lanes (hi : exec i s = execVload gu la ty h d rs vs len unit addr s) (hp : IssuesPlain s (vloadUses gu ty d rs vs len s)) :
    (∀ e, misaligned (s.vElems gu ty.toNat addr') = some e → exec i s = .next (s.trap tALIGN e.addr)) ∧
    ∀ gs s' (ls : List (Elem × Loc)), (∀ e ∈ s.vElems gu ty.toNat addr', e.addr.toNat % e.n = 0) →
      s.placeAll 0 false (s.vElems gu ty.toNat addr') = (gs, s') → gs = atPlaces ls →
      (∀ e ∈ ls, s.ownScore e.2 (bitsOf ty.toNat / 8) = false ∧ s.rmwAwaited e.2 (bitsOf ty.toNat / 8) = false ∧
        s.forward e.2 (bitsOf ty.toNat / 8) (BitVec.allOnes 128) ≠ .partly) →
      let r := State.startLoads { s' with ctr := s'.ctr + 1 }
        (s'.newPend (some (.v d.toNat)) la.toNat ls.length .mem (laneMask (bitsOf ty.toNat) (s.active gu ty.toNat))) h false ls
      (r.1.acc = 0 → r.1.bad = none → Performs s i (vloadUses gu ty d rs vs len s) (r.2.putPend r.1)) ∧
        (r.1.acc ≠ 0 → Waits s i (vloadUses gu ty d rs vs len s) (r.2.putPend r.1) (.access r.1.id)) := by
  have hi := hi.trans (execVload_eq ..)
  have hbody := vloadBody_lanes (la := la) (h := h) (d := d) (addr := addr) hp.enabled hw (haddr.symm ▸ hu)
  rw [haddr] at hbody
  refine ⟨fun e he => hi.trans (runs_trap hp.toIssues (hbody.trans (loadElems_misaligned hp.ready he))),
    fun gs s' ls ha hpl hgs hfree => ?_⟩
  subst hgs
  exact loadEnd_outcome hp hi (hbody.trans (loadElems_starts hp.ready ha hpl fun e he => n_of_placed hpl he ▸ hfree e he))

theorem vstore_lanes (hi : exec i s = execVstore gu ty h d rs vs len unit addr s) (hp : IssuesPlain s (vstoreUses gu ty d rs vs len s)) :
    (∀ e, misaligned (s.vElems gu ty.toNat addr') = some e → exec i s = .next (s.trap tALIGN e.addr)) ∧
    ∀ gs s' (ls : List (Elem × Loc)), (∀ e ∈ s.vElems gu ty.toNat addr', e.addr.toNat % e.n = 0) →
      s.placeAll 1 false (s.vElems gu ty.toNat addr') = (gs, s') → gs = atPlaces ls → s.storesFull = false →
      (∀ e ∈ ls, s.ownScore e.2 (bitsOf ty.toNat / 8) = false ∧ s.overBarrier e.2 (bitsOf ty.toNat / 8) = false) →
      let reqs := ls.map fun e => storeReq h e (lane (s.rv d) (bitsOf ty.toNat) e.1.idx)
      (reqs.length ≤ 16 - s.storesQueued → Performs s i (vstoreUses gu ty d rs vs len s) (reqs.foldl State.send s')) ∧
        (16 - s.storesQueued < reqs.length → Waits s i (vstoreUses gu ty d rs vs len s)
          (((reqs.take (16 - s.storesQueued)).foldl State.send s').updMe (fun c => c.setRest (reqs.drop (16 - s.storesQueued)))) .issued) := by
  have hi := hi.trans (execVstore_eq ..)
  have hbody := vstoreBody_lanes (h := h) (d := d) (addr := addr) hp.enabled hw (haddr.symm ▸ hu)
  rw [haddr, srcV_of_issues hp.toIssues] at hbody
  refine ⟨fun e he => hi.trans (runs_trap hp.toIssues (hbody.trans (storeElems_misaligned hp.queued he))),
    fun gs s' ls ha hpl hgs hfull hfree => ?_⟩
  subst hgs
  have hfree' : ∀ e ∈ ls, s.ownScore e.2 e.1.n = false ∧ s.overBarrier e.2 e.1.n = false := fun e he => n_of_placed hpl he ▸ hfree e he
  refine queueStores_outcome hp hi (fun r hr => ?_) (hbody.trans (storeElems_queues hp.queued ha hpl hfull hfree'))
  obtain ⟨e, he, rfl⟩ := List.mem_map.mp hr
  exact (hfree' e he).1

end

/-! ## A line as one access -/

section
variable {e : Elem} {rest : List Elem} (hes : s.vElems gu ty.toNat (addr s) = e :: rest) (ha : (addr s 0).toNat % 128 = 0)
  {l : Loc} {s' : State}
include hes ha

theorem vload_line (hi : exec i s = execVload gu la ty h d rs vs len true addr s) (hp : IssuesPlain s (vloadUses gu ty d rs vs len s))
    (hpl : s.place 0 false e.addr = (.loc l, s'))
    (hw : ∀ x ∈ e :: rest, s.ownScore (l.lineStart.add x.byte) x.n = false ∧ s.rmwAwaited (l.lineStart.add x.byte) x.n = false)
    (hf : s.forward l.lineStart 128 (elemBytes (e :: rest)) ≠ .partly) :
    let r := State.startLoad { s' with ctr := s'.ctr + 1 }
      (s'.newPend (some (.v d.toNat)) la.toNat 1 .mem (laneMask (bitsOf ty.toNat) (s.active gu ty.toNat))) h false
      { idx := 0, byte := 0, n := 128, addr := e.addr } l.lineStart (elemBytes (e :: rest))
    (r.1.acc = 0 → r.1.bad = none → Performs s i (vloadUses gu ty d rs vs len s) (r.2.putPend r.1)) ∧
      (r.1.acc ≠ 0 → Waits s i (vloadUses gu ty d rs vs len s) (r.2.putPend r.1) (.access r.1.id)) :=
  loadEnd_outcome hp (hi.trans (execVload_eq ..)) ((vloadBody_line hes ha).trans (loadLine_starts hp.ready hpl hw hf))

theorem vstore_line (hi : exec i s = execVstore gu ty h d rs vs len true addr s) (hp : IssuesPlain s (vstoreUses gu ty d rs vs len s))
    (hpl : s.place 1 false e.addr = (.loc l, s')) (hfull : s.storesFull = false)
    (hw : ∀ x ∈ e :: rest, s.ownScore (l.lineStart.add x.byte) x.n = false ∧ s.overBarrier (l.lineStart.add x.byte) x.n = false) :
    Starts s s' i (vstoreUses gu ty d rs vs len s) (s'.send
      { op := .store, va := e.addr, loc := l.lineStart, n := 128, data := s.rv d, bytes := elemBytes (e :: rest), hint := h }) := by
  have hsend := (vstoreBody_line hes ha).trans (storeLineV_sends (h := h) (x := s.srcV d) hpl hfull hw)
  rw [srcV_of_issues hp.toIssues] at hsend
  exact ⟨hi.trans ((execVstore_eq ..).trans (runs_done hp hsend)),
    fun q => untouched_after (onlyPends_send (onlyPends_of_quiet q s'.ctr) _) _⟩

end
end

end Sys2Proof
end

section
/-!
SUPPORT. RD, XADD and XRND: what a reduction comes to at its place (R248, R250, R252), and the request of an atomic (R246, R253).
-/

namespace Sys2Proof.Machine

open Sys2Proof

variable {s t : State}

/-! ## Reductions -/

/-- The request that a reduction makes, before it has a place. -/
def State.reduceReq (s : State) (op : ReqOp) (h : Hint) (n ty : Nat) (a b : Reg) (o : Word) : Req :=
  { op := op, va := s.src a + o, n := n, data := BitVec.ofNat 1024 ((s.src b).toNat % 2 ^ bitsOf ty), hint := h }

theorem execRd_eq (gu : Guard) (ty n : Nat) (op : ReqOp) (h : Hint) (a b : Reg) (len : Nat) (o : Word) : execRd gu ty n op h a b len o s =
    s.runs { len := len, on := s.guard gu, rs := [a.toNat, b.toNat] } (fun s => reduceBody (s.reduceReq op h n ty a b o) s) := rfl

section
variable {r : Req}

theorem reduceBody_misaligned (h : r.va.toNat % r.n ≠ 0) : reduceBody r s = .trap s tALIGN r.va := if_pos h

variable (ha : r.va.toNat % r.n = 0) {l : Loc} (hp : s.place 3 false r.va = (.loc l, t))
include ha hp

theorem reduceBody_barrier (hb : s.overBarrier l r.n = true) : reduceBody r s = .trap s tCLOBBER r.va := by
  simp only [reduceBody, ha, hp, hb, ne_eq, not_true_eq_false, if_false, if_true]

/-- At a core memory it is a request. -/
theorem reduceBody_coreMemory (hb : s.overBarrier l r.n = false) (hs : s.ownScore l r.n = false) (hl : l.isGlob = false) :
    reduceBody r s = .done (t.send { r with loc := l }) := by
  simp only [reduceBody, ha, hp, hb, hs, ne_eq, not_true_eq_false, if_false, Bool.false_eq_true]
  cases l with
  | glob => cases hl
  | spad | vault | gal => rfl

end

section
variable {r : Req} {pa : Nat} (ha : r.va.toNat % r.n = 0) (hp : s.place 3 false r.va = (.loc (.glob pa), t))
  (hw : s.wayToSlice (tileOf s.cur) (homeSlice pa) = .clear)
  {bad : Bool} {e : State} (hc : t.check s.rqst kAtomic pa r.n = (bad, e))
include ha hp hw hc

/-- One that is refused, or cannot change its line, is reported (R248). -/
theorem reduceBody_refused (h : bad = true ∨ isHost pa = true ∨ s.viewReadOnly (pa / 128) = true) :
    reduceBody r s = .done (e.addFail s.cur s.lv (.glob pa) false) := by
  have hno : (bad || isHost pa || s.viewReadOnly (lineOf pa)) = true := by
    simpa [or_assoc, lineOf] using h
  simp only [reduceBody, ha, hp, State.overBarrier, State.ownScore, hw, hc, hno, ne_eq, not_true_eq_false, if_false, if_true,
    Bool.false_eq_true]

/-- One at a line that it may change goes into the bay's update-only copy, where the L1 has a place for it (R130, R250). -/
theorem reduceBody_combines (hb : bad = false) (hh : isHost pa = false) (hv : s.viewReadOnly (pa / 128) = false)
    (hf : s.free (pa / 128) true = true) (hpend : s.linePending (pa / 128) = false)
    (hcmds : ∀ c ∈ s.cmds, c.core = s.cur → c.st ≠ .locking) {e' : State} (hroom : e.reduceRoom pa = some e') :
    reduceBody r s = .done (e'.reduceGlob { r with loc := .glob pa } pa) := by
  have hok : (bad || isHost pa || s.viewReadOnly (lineOf pa)) = false := by simp [hb, hh, hv, lineOf]
  have hlock : s.cmds.any (fun c => c.core == s.cur && c.st == .locking) = false := by
    simpa using hcmds
  have hgo : (!s.free (lineOf pa) true || s.linePending (lineOf pa) || s.cmds.any (fun c => c.core == s.cur && c.st == .locking)) =
      false := by
    simp [hf, hpend, hlock, lineOf]
  simp only [reduceBody, ha, hp, State.overBarrier, State.ownScore, hw, hc, hok, hgo, hroom, ne_eq, not_true_eq_false, if_false,
    Bool.false_eq_true]

end

theorem reduceRoom_stands {pa : Nat} (h : ((s.bay (bayOf s.cur)).uline? (pa / 128)).isSome = true ∨
    ((s.bay (bayOf s.cur)).l1? (pa / 128)).isSome = true) : s.reduceRoom pa = some s := if_pos h

/-- A bay that has no update-only copy of the line opens one, where fewer than eight hold it (R250). -/
theorem reduceGlob_opens {r : Req} {pa : Nat} (hu : (s.bay (bayOf s.cur)).uline? (pa / 128) = none)
    (hk : s.knownBad (pa / 128) = false) (hn : (s.holdersOf (pa / 128)).length < 8) :
    s.reduceGlob r pa = s.openU (bayOf s.cur)
      ((freshU (pa / 128) r.op).apply r.op (pa % 128) r.n r.data.toNat [(s.cur, s.lv)]) := by
  simp only [State.reduceGlob, lineOf, hk, hu, hn, Bool.false_eq_true, if_false, if_true]

/-! ## Atomics -/

/-- The pending result of an atomic; `held` where its thread waits for the answer. -/
def State.atomicPend (s : State) (d : Reg) (la : BitVec 4) (op : ReqOp) (held : Bool) : Pend :=
  { s.newPend (greg s.lv d.toNat) la.toNat 1 (match op with | .xrnd _ _ _ _ => .xrnd | _ => .mem) 0 with acc := bit held }

section
variable {d : Reg} {la : BitVec 4} {r : Req} {acc : Acc} {write : Bool} (hr : (s.me.thr s.lv).hold = .ready)
include hr

theorem atomicReq_misaligned (h : r.va.toNat % r.n ≠ 0) : s.atomicReq d la r acc write = .trap s tALIGN r.va := by
  simp only [State.atomicReq, hr, if_pos h]

variable (ha : r.va.toNat % r.n = 0) {l : Loc} (hp : s.place acc false r.va = (.loc l, t))
  (hb : (write && s.overBarrier l r.n) = false) (hs : s.ownScore l r.n = false) (hm : s.rmwAwaited l r.n = false)
include ha hp hb hs hm

theorem atomicReq_sends : s.atomicReq d la r acc write =
    if l.isGlob || l.acrossFrom s.cur then
      .wait ((t.enterPend (t.atomicPend d la r.op true)).send { r with loc := l, pend := some t.ctr }) (.access t.ctr)
    else .done ((t.enterPend (t.atomicPend d la r.op false)).send { r with loc := l, pend := some t.ctr }) := by
  simp only [State.atomicReq, hr, ha, hp, hb, hs, hm, ne_eq, not_true_eq_false, if_false, Bool.false_eq_true, Bool.or_self]
  cases l.isGlob || l.acrossFrom s.cur <;> rfl

/-- An atomic at a core memory of the own die goes on at once. -/
theorem atomicReq_near (hg : l.isGlob = false) (hd : dieOf l.tile = dieOf (tileOf s.cur)) : s.atomicReq d la r acc write =
    .done ((t.enterPend (t.atomicPend d la r.op false)).send { r with loc := l, pend := some t.ctr }) := by
  have hheld : (l.isGlob || l.acrossFrom s.cur) = false := by simp [hg, hd, Loc.acrossFrom]
  rw [atomicReq_sends hr ha hp hb hs hm, hheld]
  rfl

/-- One anywhere else holds its thread (log entry 8). -/
theorem atomicReq_held (h : l.isGlob = true ∨ dieOf l.tile ≠ dieOf (tileOf s.cur)) : s.atomicReq d la r acc write =
    .wait ((t.enterPend (t.atomicPend d la r.op true)).send { r with loc := l, pend := some t.ctr }) (.access t.ctr) := by
  have hheld : (l.isGlob || l.acrossFrom s.cur) = true := by
    cases hg : l.isGlob
    · rcases h with h | h
      · exact absurd h (by simp [hg])
      · simp [hg, h, Loc.acrossFrom]
    · rfl
  rw [atomicReq_sends hr ha hp hb hs hm, hheld]
  rfl

end

end Sys2Proof.Machine

namespace Sys2Proof

open Machine

theorem onlyPends_enterPend {s e : State} (h : OnlyPends s e) (p : Pend) : OnlyPends s (e.enterPend p) := by
  obtain ⟨hcur, hme, hothers, hmem, hsys⟩ := onlyPends_putPend h p
  exact ⟨hcur, hme, hothers, hmem, hsys⟩

end Sys2Proof
end

section
/-!
SUPPORT. Requests at their home slice, outcome by outcome (R120, R124, R126, R129, R136, R277).
-/

namespace Sys2Proof.Machine

open Sys2Proof

section
variable {s t : State} {id pa : Nat} {r : Req} (hreq : s.req? id = some r) (hl : r.loc = .glob pa) (hst : r.st = .sent)
  (ht : s.inTurn r = true) (hw : s.wayToSlice (tileOf r.core) (homeSlice pa) = .clear)

include hl hst ht in
theorem atSlice_of_turn : s.atSlice r = some pa := by
  simp only [State.atSlice, hl, hst, ht, beq_self_eq_true, Bool.and_self, if_true]

include hreq hl hst ht hw

/-! ## What the world check refuses -/

section
variable (hc : s.reqRefused r pa = (true, t))
include hc

theorem exec_sliceRead_refused (hop : r.op = .load) : exec (.sliceRead id none) s = .next (t.readAll r pa true 0 false) := by
  change execSliceRead id none s = _
  simp [execSliceRead, State.withReq, hreq, atSlice_of_turn hl hst ht, hop, ReqOp.isRead, hw, hc]

theorem exec_sliceWrite_refused (hop : r.op = .store) : exec (.sliceWrite id) s = .next (t.storeFailed r) := by
  change execSliceWrite id s = _
  simp [execSliceWrite, State.withReq, hreq, atSlice_of_turn hl hst ht, hop, hw, hc]

theorem exec_sliceAtomic_refused (hop : r.op.isAtomic = true) : exec (.sliceAtomic id) s = .next (t.atomicFailed r) := by
  change execSliceAtomic id s = _
  simp [execSliceAtomic, State.withReq, hreq, atSlice_of_turn hl hst ht, hop, hw, hc]

end

theorem exec_sliceEvict_dropped {bad : Bool} (hc : s.reqRefused r pa = (bad, t)) (hop : r.op = .evict) (h : (bad || isHost pa) = true) :
    exec (.sliceEvict id) s = .next (t.dropReq id) := by
  change execSliceEvict id s = _
  simp only [execSliceEvict, State.withReq, hreq, atSlice_of_turn hl hst ht, hop, hw, hc, h, bne_self_eq_false, if_true,
    Bool.false_eq_true, if_false]

/-! ## What it lets through -/

variable (hc : s.reqRefused r pa = (false, t))
include hc

theorem exec_sliceRead_host (hh : isHost pa = true) (hop : r.op = .load) :
    exec (.sliceRead id none) s = .next (t.updReq id (fun r => { r with st := .pcie })) := by
  change execSliceRead id none s = _
  simp [execSliceRead, State.withReq, hreq, atSlice_of_turn hl hst ht, hop, ReqOp.isRead, hw, hc, hh]

variable (hh : isHost pa = false)
include hh

section
variable (hop : r.op = .load) (hf : s.free (pa / 128) false = true)
include hop hf

theorem exec_sliceRead_miss (hm : (t.recall (pa / 128)).cline? (pa / 128) = none) :
    exec (.sliceRead id none) s = .next ((t.recall (pa / 128)).updReq id (fun r => { r with st := .missed })) := by
  change execSliceRead id none s = _
  simp [execSliceRead, State.withReq, hreq, atSlice_of_turn hl hst ht, hop, ReqOp.isRead, hw, hc, hh, lineOf, hf, hm]

theorem exec_sliceRead_hit {c : CLine} (hm : (t.recall (pa / 128)).cline? (pa / 128) = some c) :
    exec (.sliceRead id none) s = .next (((t.recall (pa / 128)).sliceRead (pa / 128) r.hint).2.2.readAll r pa false
      ((t.recall (pa / 128)).sliceRead (pa / 128) r.hint).1 ((t.recall (pa / 128)).sliceRead (pa / 128) r.hint).2.1) := by
  change execSliceRead id none s = _
  simp [execSliceRead, State.withReq, hreq, atSlice_of_turn hl hst ht, hop, ReqOp.isRead, hw, hc, hh, lineOf, hf, hm]

end

section
variable (hf : s.free (pa / 128) true = true)
include hf

theorem exec_sliceWrite_store (hop : r.op = .store) (hv : s.viewReadOnly (pa / 128) = false) (hn : r.n ≠ 128) {bad : Bool} {e : State}
    (hx : t.sliceWrite (pa / 128) (BitVec.ofNat 1024 (r.data.toNat % 2 ^ (8 * r.n) * 2 ^ (8 * (pa % 128)))) (byteMask (pa % 128) r.n) r.hint =
      (bad, e)) :
    exec (.sliceWrite id) s = .next ((if bad then e.addFail r.core r.lv r.loc true else e).markDone id 0
      (some ((if bad then e.addFail r.core r.lv r.loc true else e).ssnOf pa)) false) := by
  change execSliceWrite id s = _
  simp only [execSliceWrite, State.withReq, hreq, atSlice_of_turn hl hst ht, hop, hw, hc, hh, lineOf, hf, hv, Req.lineData, hn, atByte,
    bne_self_eq_false, Bool.or_self, Bool.not_true, Bool.false_eq_true, if_false, hx]

theorem exec_sliceAtomic_amo {op : RmwOp} {ty : Nat} (hop : r.op = .amo op ty) (hv : s.viewReadOnly (pa / 128) = false) {old : Nat}
    {bad : Bool} {e e' : State} (hx : t.rmwAt r.loc r.n r.hint true (fun old => rmwNew op ty old r.data.toNat r.cmp.toNat) = (old, bad, e))
    (he : e.updReq id (fun q => { q with after := some ((e.rawLine (pa / 128)).1, (e.rawLine (pa / 128)).2.1) }) = e') :
    exec (.sliceAtomic id) s = .next (e'.atomicDone r old bad (some (e'.ssnOf pa))) := by
  change execSliceAtomic id s = _
  simp only [execSliceAtomic, State.withReq, hreq, atSlice_of_turn hl hst ht, hop, hw, hc, hh, lineOf, hf, hv, ReqOp.isAtomic,
    ReqOp.returns, ReqOp.writes, Req.effect, hx, he, Bool.not_true, Bool.false_and, Bool.false_eq_true, if_false]

theorem exec_sliceEvict_evicts (hop : r.op = .evict) :
    exec (.sliceEvict id) s = .next ((t.evictAt (bayOf r.core) (pa / 128) r.hint).dropReq id) := by
  change execSliceEvict id s = _
  simp [execSliceEvict, State.withReq, hreq, atSlice_of_turn hl hst ht, hop, hw, hc, hh, lineOf, hf]

end
end

/-! ## What an EVICT does there (R136) -/

section
variable {s : State} {bk line : Nat} {h : Hint}

theorem evictAt_kept (hk : ((s.recall line).l1Clean bk (fun l => l == line)).cline? line = none ∨ h = .byp) :
    s.evictAt bk line h = (s.recall line).l1Clean bk (fun l => l == line) := by
  unfold State.evictAt
  dsimp only
  split
  · rfl
  · rename_i c hc
    rcases hk with hk | rfl
    · rw [hk] at hc
      cases hc
    · rfl

variable {c : CLine} (hc : ((s.recall line).l1Clean bk (fun l => l == line)).cline? line = some c)
include hc

theorem evictAt_shortLived (hh : h = .sl) :
    s.evictAt bk line h = ((s.recall line).l1Clean bk (fun l => l == line)).putLine { c with hint := .sl } := by
  subst hh
  simp only [State.evictAt, hc, reduceCtorEq, if_false, if_true]

theorem evictAt_writesBack (hs : h ≠ .sl) (hb : h ≠ .byp) :
    s.evictAt bk line h = ((s.recall line).l1Clean bk (fun l => l == line)).evictLine line := by
  simp only [State.evictAt, hc, if_neg hb, if_neg hs]

end

end Sys2Proof.Machine
end

section
/-!
SUPPORT. A line that a slice holds: what a read and a write of it leave, where no bay holds it update-only (R124, R126, R130).
-/

namespace Sys2Proof.Machine

open Sys2Proof

variable {s : State}

/-! ## The lines of a slice -/

/-- With no holder there is nothing to recall. -/
theorem recall_of_no_holder {line : Nat} (h : s.holdersOf line = []) : s.recall line = s := by
  simp only [State.recall, h]
  rfl

theorem line_of_cline? {line : Nat} {c : CLine} (h : s.cline? line = some c) : c.line = line := by
  simpa using List.find?_some h

theorem cline?_of_slices {t : State} (h : ∀ k, (t.slice k).lines = (s.slice k).lines) (line : Nat) : t.cline? line = s.cline? line := by
  rw [State.cline?, State.cline?, h]

/-- A line put in its slice is the copy that the slice holds, most recently used, and the copy of no other line changes. -/
theorem cline?_putLine (c : CLine) (line : Nat) :
    (s.putLine c).cline? line = if line = c.line then some { c with stamp := s.ctr } else s.cline? line := by
  have hslice (k : Nat) : (s.putLine c).slice k = if homeSlice (c.line * 128) = k then
      { s.slice k with lines := { c with stamp := s.ctr } :: (s.slice k).lines.filter (fun x => x.line != c.line) } else s.slice k := by
    simp only [State.putLine, State.uncache, State.slice, State.setSlice, SMap.get_put]
    split
    · subst k
      simp
    · rfl
  rw [State.cline?, hslice]
  by_cases hk : homeSlice (c.line * 128) = homeSlice (line * 128)
  · rw [if_pos hk]
    by_cases hline : line = c.line
    · subst hline
      simp
    · rw [if_neg hline, List.find?_cons_of_neg (by simpa using Ne.symm hline), List.find?_filter]
      congr 1
      funext x
      by_cases hx : x.line = line <;> simp [hx, hline]
  · have hline : line ≠ c.line := fun e => hk (e ▸ rfl)
    rw [if_neg hk, if_neg hline]
    rfl

theorem ssn_putLine (c : CLine) (k : Nat) : ((s.putLine c).slice k).ssn = (s.slice k).ssn := by
  simp only [State.putLine, State.uncache, State.slice, State.setSlice, SMap.get_put]
  split
  · subst k; rfl
  · rfl

theorem slice_bumpSsn (k q : Nat) : (s.bumpSsn k).slice q = if k = q then { s.slice q with ssn := (s.slice q).ssn + 1 } else s.slice q := by
  rw [State.bumpSsn, State.slice_setSlice]
  split
  · subst q; rfl
  · rfl

theorem slice_notify (l : Loc) (n k : Nat) : (s.notify l n).slice k = s.slice k := by rw [notify_eq]; rfl

theorem getLsbD_blend (old new mask : Vec) {i : Nat} (hi : i < 1024) :
    (blend old new mask).getLsbD i = if mask.getLsbD i then new.getLsbD i else old.getLsbD i := by
  simp only [blend, BitVec.getLsbD_or, BitVec.getLsbD_and, BitVec.getLsbD_not, hi, decide_true, Bool.true_and]
  cases mask.getLsbD i <;> simp

/-! ## A read and a write -/

section
variable {line : Nat} {c : CLine} (hc : s.cline? line = some c) (hh : s.holdersOf line = [])
include hc hh

theorem sliceRead_held (h : Hint) : s.sliceRead line h = (c.data, c.poison, s.putLine { c with hint := h }) := by
  simp only [State.sliceRead, recall_of_no_holder hh, hc]

/-- The line as a write leaves it. -/
def CLine.written (c : CLine) (d mask : Vec) (h : Hint) : CLine :=
  { c with data := blend c.data d mask, poison := c.poison && !(mask == BitVec.allOnes 1024), dirty := true, hint := h }

theorem sliceWrite_held (d mask : Vec) (h : Hint) : s.sliceWrite line d mask h = (c.poison && !(mask == BitVec.allOnes 1024),
    ((s.putLine (c.written d mask h)).bumpSsn (homeSlice (line * 128))).notify (.glob (line * 128)) 128) := by
  simp only [State.sliceWrite, recall_of_no_holder hh, hc]
  rfl

theorem cline?_sliceWrite_held (d mask : Vec) (h : Hint) (m : Nat) : (s.sliceWrite line d mask h).2.cline? m =
    if m = line then some { c.written d mask h with stamp := s.ctr } else s.cline? m := by
  have hlines (k : Nat) : ((s.sliceWrite line d mask h).2.slice k).lines = ((s.putLine (c.written d mask h)).slice k).lines := by
    rw [sliceWrite_held hc hh]
    dsimp only
    rw [slice_notify, slice_bumpSsn]
    split <;> rfl
  rw [cline?_of_slices hlines, cline?_putLine, ← line_of_cline? hc]
  rfl

theorem ssn_sliceWrite_held (d mask : Vec) (h : Hint) : ((s.sliceWrite line d mask h).2.slice (homeSlice (line * 128))).ssn =
    (s.slice (homeSlice (line * 128))).ssn + 1 := by
  rw [sliceWrite_held hc hh]
  dsimp only
  rw [slice_notify, slice_bumpSsn, if_pos rfl, ssn_putLine]

theorem mem_sliceWrite_held (d mask : Vec) (h : Hint) : (s.sliceWrite line d mask h).2.mem = s.mem := by
  rw [sliceWrite_held hc hh]
  exact notify_mem ..

end

end Sys2Proof.Machine
end

section
/-!
SUPPORT. RGET and RGETV: each thing that a read of a gallery comes to, and its answer at the target (R315, R323).
-/

namespace Sys2Proof.Machine

open Sys2Proof

variable {s : State}

/-! ## At the reader -/

section
variable {dst : Option PReg0} {la : BitVec 4} {n : Nat} {sext : Bool} {a : Reg} {dx dy : BitVec 4} {off : BitVec 14}

/-- The immediate of a gallery read, which a refusal has as its TVAL. -/
def galImm (dx dy : BitVec 4) (off : BitVec 14) : Word := word (dx.toNat * 2 ^ 20 + dy.toNat * 2 ^ 16 + off.toNat)

/-- How far a gallery read reaches. -/
def galFar (dx dy : BitVec 4) : Nat := dx.toInt.natAbs + dy.toInt.natAbs

/-- The column and the row of the hall that a gallery read names. -/
def State.galAt (s : State) (dx dy : BitVec 4) : Int × Int :=
  ((s.myHall.x (tileOf s.cur) : Int) + dx.toInt, (s.myHall.y (tileOf s.cur) : Int) + dy.toInt)

/-- Within distance 3 and within the hall (R315). -/
def State.galInside (s : State) (dx dy : BitVec 4) : Prop :=
  galFar dx dy ≤ 3 ∧ 0 ≤ (s.galAt dx dy).1 ∧ (s.galAt dx dy).1 < s.myHall.w ∧ 0 ≤ (s.galAt dx dy).2 ∧ (s.galAt dx dy).2 < s.myHall.h

/-- The tile that a gallery read names. -/
def State.galTile (s : State) (dx dy : BitVec 4) : Nat := s.myHall.tileAt (s.galAt dx dy).1.toNat (s.galAt dx dy).2.toNat

variable (hr : (s.me.thr s.lv).hold = .ready)
include hr

theorem rgetBody_outside (h : ¬s.galInside dx dy) : rgetBody dst la n sext a dx dy off s = .trap s tCONE (galImm dx dy off) := by
  have hout : 3 < galFar dx dy ∨ (s.galAt dx dy).1 < 0 ∨ (s.myHall.w : Int) ≤ (s.galAt dx dy).1 ∨ (s.galAt dx dy).2 < 0 ∨
      (s.myHall.h : Int) ≤ (s.galAt dx dy).2 := by
    simp only [State.galInside] at h
    omega
  simp only [rgetBody, hr]
  exact if_pos hout

/-- A read inside the cone, by its alignment, its end, and how far it reaches. -/
theorem rgetBody_inside (h : s.galInside dx dy) : rgetBody dst la n sext a dx dy off s =
    let o := s.src a + word off.toNat
    if o.toNat % n ≠ 0 then .trap s tALIGN o
    else if 16384 < o.toNat + n then .trap s tAPERTURE o
    else if galFar dx dy = 0 then
      if s.rmwAwaited (.gal (tileOf s.cur) o.toNat) n then .stall
      else
        let x := State.startLoad { s with ctr := s.ctr + 1 } (s.newPend dst la.toNat 1 .mem (BitVec.allOnes 1024)) .df sext
          { n := n, addr := galVA o.toNat } (.gal (tileOf s.cur) o.toNat) (BitVec.allOnes 128)
        s.loadEnd x.1 x.2
    else if s.wayBetween (tileOf s.cur) (s.galTile dx dy) = .dead then .trap s tREFUSED (galImm dx dy off)
    else s.askTile dst la (BitVec.allOnes 1024) { tile := s.galTile dx dy, landing := some ((s.tile (tileOf s.cur)).s - galFar dx dy),
                                                  off := o.toNat, n := n, sext := sext, tval := galImm dx dy off } := by
  have hin : ¬(3 < galFar dx dy ∨ (s.galAt dx dy).1 < 0 ∨ (s.myHall.w : Int) ≤ (s.galAt dx dy).1 ∨ (s.galAt dx dy).2 < 0 ∨
      (s.myHall.h : Int) ≤ (s.galAt dx dy).2) := by
    simp only [State.galInside] at h
    omega
  simp only [rgetBody, hr]
  exact if_neg hin

variable (hin : s.galInside dx dy)
include hin

theorem rgetBody_misaligned (ha : (s.src a + word off.toNat).toNat % n ≠ 0) :
    rgetBody dst la n sext a dx dy off s = .trap s tALIGN (s.src a + word off.toNat) :=
  (rgetBody_inside hr hin).trans (if_pos ha)

variable (ha : (s.src a + word off.toNat).toNat % n = 0)
include ha

theorem rgetBody_beyond (he : 16384 < (s.src a + word off.toNat).toNat + n) :
    rgetBody dst la n sext a dx dy off s = .trap s tAPERTURE (s.src a + word off.toNat) := by
  simp only [rgetBody_inside hr hin, ha, he, ne_eq, not_true_eq_false, if_false, if_true]

variable (he : (s.src a + word off.toNat).toNat + n ≤ 16384)
include he

/-- At distance 0 it is a load of the own gallery. -/
theorem rgetBody_own (h0 : galFar dx dy = 0) (hrmw : s.rmwAwaited (.gal (tileOf s.cur) (s.src a + word off.toNat).toNat) n = false) :
    rgetBody dst la n sext a dx dy off s =
      let x := State.startLoad { s with ctr := s.ctr + 1 } (s.newPend dst la.toNat 1 .mem (BitVec.allOnes 1024)) .df sext
        { n := n, addr := galVA (s.src a + word off.toNat).toNat } (.gal (tileOf s.cur) (s.src a + word off.toNat).toNat)
        (BitVec.allOnes 128)
      s.loadEnd x.1 x.2 := by
  simp only [rgetBody_inside hr hin, ha, Nat.not_lt.mpr he, h0, hrmw, ne_eq, not_true_eq_false, if_false, if_true, Bool.false_eq_true]

theorem rgetBody_dead (h0 : galFar dx dy ≠ 0) (hw : s.wayBetween (tileOf s.cur) (s.galTile dx dy) = .dead) :
    rgetBody dst la n sext a dx dy off s = .trap s tREFUSED (galImm dx dy off) := by
  simp only [rgetBody_inside hr hin, ha, Nat.not_lt.mpr he, h0, hw, ne_eq, not_true_eq_false, if_false, if_true]

/-- Further, the target is asked for the landing that lies as many steps back. -/
theorem rgetBody_asks (h0 : galFar dx dy ≠ 0) (hw : s.wayBetween (tileOf s.cur) (s.galTile dx dy) ≠ .dead) :
    rgetBody dst la n sext a dx dy off s =
      s.askTile dst la (BitVec.allOnes 1024) { tile := s.galTile dx dy, landing := some ((s.tile (tileOf s.cur)).s - galFar dx dy),
                                               off := (s.src a + word off.toNat).toNat, n := n, sext := sext, tval := galImm dx dy off } := by
  simp only [rgetBody_inside hr hin, ha, Nat.not_lt.mpr he, h0, hw, ne_eq, not_true_eq_false, if_false]

end

theorem me_enterPend (p : Pend) : (s.enterPend p).me = ({ s.me with pend := s.me.pend ++ [p] } : Core).noteArrivals :=
  s.me_updMe (fun c => ({ c with pend := c.pend ++ [p] } : Core).noteArrivals)

@[simp] theorem lv_enterPend (p : Pend) : (s.enterPend p).lv = s.lv := by
  rw [State.lv, me_enterPend]
  rfl

@[simp] theorem pc_enterPend (p : Pend) : (s.enterPend p).pc = s.pc := by
  rw [State.pc, lv_enterPend, me_enterPend]
  rfl

/-- A query or a read of another tile: the message to it, and the thread that waits for the answer (log entry 8). -/
theorem askTile_eq (dst : Option PReg0) (la : BitVec 4) (mask : Vec) (m : GMsg) : s.askTile dst la mask m =
    .wait { s.putPend { s.newPend dst la.toNat 1 .mem mask with acc := 1 } with
              gmsgs := s.gmsgs ++ [{ m with id := s.ctr + 1, core := s.cur, lv := s.lv, pend := s.ctr, pc := s.pc }], ctr := s.ctr + 2 }
      (.access s.ctr) := by
  simp only [State.askTile, lv_enterPend, pc_enterPend]
  rfl

/-! ## At the target -/

section
variable {id : Nat} {m : GMsg} (hm : s.gmsgs.find? (fun m => m.id == id) = some m)
include hm

theorem exec_galleryRead_waits (hw : s.wayBetween (tileOf m.core) m.tile = .wait) : exec (.galleryRead id) s = .next s := by
  change execGalleryRead id s = _
  simp only [execGalleryRead, hm, hw]

theorem exec_galleryRead_dead (hw : s.wayBetween (tileOf m.core) m.tile = .dead) : exec (.galleryRead id) s =
    .next (State.served { s with gmsgs := dropFirst (fun q => q.id == id) s.gmsgs } m.core m.pend (some (0, tREFUSED, m.tval))) := by
  change execGalleryRead id s = _
  simp only [execGalleryRead, hm, hw]

variable (hw : s.wayBetween (tileOf m.core) m.tile = .clear)
include hw

theorem exec_galleryRead_status (hl : m.landing = none) : exec (.galleryRead id) s =
    .next ((State.give { s with gmsgs := dropFirst (fun q => q.id == id) s.gmsgs } m.core m.pend 0 8 false
      (s.stepStatus m.tile).toNat).served m.core m.pend none) := by
  change execGalleryRead id s = _
  simp only [execGalleryRead, hm, hw, hl]

theorem exec_galleryRead_landing {k : Nat} (hl : m.landing = some k) : exec (.galleryRead id) s =
    .next (if s.landPoison (landAddr m.tile (k % 8) m.off) m.n then
        State.served { s with gmsgs := dropFirst (fun q => q.id == id) s.gmsgs } m.core m.pend (some (0, tPOISON, word m.off))
      else
        (State.give { s with gmsgs := dropFirst (fun q => q.id == id) s.gmsgs } m.core m.pend 0 m.n m.sext
          (readBytes s.mem.land (landAddr m.tile (k % 8) m.off) m.n)).served m.core m.pend none) := by
  change execGalleryRead id s = _
  simp only [execGalleryRead, hm, hw, hl]

end

theorem landPoison_iff (a n : Nat) : s.landPoison a n = true ↔ ∃ e ∈ s.mem.landErr, overlaps (e * 8) 8 a n = true := List.any_eq_true

end Sys2Proof.Machine
end

section
/-!
PROOFS. The statements of 05_slices_and_arcades.
-/

namespace Sys2Proof

open Machine

/-- Settles O20: every scalar load is an `execLoad`, whose cases `loadsG_of_load` goes through. -/
theorem scalarLoads : Obligations.ScalarLoads := by
  unfold Obligations.ScalarLoads
  intro s d a la h off lit u v at_
  refine ⟨fun hp => ⟨?_, ?_, ?_, ?_, ?_, ?_, ?_⟩, fun hp => ⟨?_, ?_, ?_, ?_, ?_, ?_, ?_⟩⟩ <;> exact loadsG_of_load (fun _ => rfl) hp

/-- Settles O21: every scalar store is an `execStore`, whose cases `storesG_of_store` goes through. -/
theorem scalarStores : Obligations.ScalarStores := by
  unfold Obligations.ScalarStores
  intro s d a h off lit u v x
  refine ⟨fun hp => ⟨?_, ?_, ?_, ?_⟩, fun hp => ⟨?_, ?_, ?_, ?_⟩⟩ <;> exact storesG_of_store (fun _ => rfl) hp

/-- Settles O22: the apertures one by one (`steer_ownSpad` to `steer_gap`), a standing page by `place_hit`, and each outcome of
`quietBody` for both instructions. -/
theorem placingPrefetchAndEvict : Obligations.PlacingPrefetchAndEvict := by
  unfold Obligations.PlacingPrefetchAndEvict
  refine ⟨fun s s' acc ok a g hp => ?_, fun s a h off lit => ?_⟩
  · have hg : g = (s.place acc ok a).1 := congrArg Prod.fst hp.symm
    refine ⟨fun h => place_outside h hp, fun e h he => ?_, fun off ho ha => ?_, fun off ho ha => ?_, fun k off hk ho ha => ?_,
      fun off ho ha => ?_, fun v off hv hlo ho ha => ?_, fun hlo hhi => ?_⟩
    · rw [place_hit h he] at hp
      obtain ⟨rfl, rfl⟩ := Prod.mk.inj hp
      refine ⟨?_, rfl⟩
      split <;> rfl
    · exact hg.trans (congrArg Prod.fst (place_loc (steer_ownSpad ho ha)))
    · exact hg.trans (congrArg Prod.fst (place_loc (steer_ownVault ho ha)))
    · exact hg.trans (congrArg Prod.fst (place_loc (steer_tileSpad hk ho ha)))
    · exact hg.trans (congrArg Prod.fst (place_loc (steer_gallery ho ha)))
    · have hs := steer_vaults (s := s) (ck := s.cur) (pv := s.me.pv) hv hlo ho ha
      split <;> rename_i hopen
      · rw [if_pos hopen] at hs
        exact hg.trans (congrArg Prod.fst (place_loc hs))
      · rw [if_neg hopen] at hs
        exact hg.trans (congrArg Prod.fst (place_none hs))
    · exact hg.trans (congrArg Prod.fst (place_none (steer_gap hlo hhi)))
  · intro does
    have hdoes {i j : Instr} {len : Nat} {o : Word}
        (hi : exec i s = s.runs (scalar len [a] []) (fun s => prefBody h (s.src a + o) s))
        (hj : exec j s = s.runs (scalar len [a] []) (fun s => evictBody h (s.src a + o) s)) : does i j len (s.rg a + o) := by
      intro hp u placed
      have ea : s.src a = s.rg a := src_of_plain hp (by simp [scalar])
      rw [← ea]
      have both {t t' : State} (ht : quietBody .pref h (s.src a + o) s = .done t) (ht' : quietBody .evict h (s.src a + o) s = .done t') :
          Performs s i u t ∧ Performs s j u t' :=
        ⟨hi.trans (runs_done hp ht), hj.trans (runs_done hp ht')⟩
      refine ⟨fun hs => both (quietBody_elsewhere hs) (quietBody_elsewhere hs), fun w hs => ⟨fun why t ht => ?_, fun t ht => ?_,
        fun pa t ht => ⟨fun hh => ?_, fun hh => ?_⟩⟩⟩
      · exact both (quietBody_fault hs ht) (quietBody_fault hs ht)
      · exact ⟨hi.trans (runs_stall hp rfl (quietBody_wait hs ht)), hj.trans (runs_stall hp rfl (quietBody_wait hs ht))⟩
      · exact both (quietBody_host hs ht hh) (quietBody_host hs ht hh)
      · exact both (quietBody_line hs ht hh) (quietBody_line hs ht hh)
    exact ⟨hdoes rfl rfl, hdoes rfl rfl, fun va hva => steer_ne_glob hva⟩

/-- Settles O23: an access lane by lane is `vload_lanes` or `vstore_lanes`, an aligned one `vload_line` or `vstore_line`; what
remains is that the lanes' addresses are those of the registers. -/
theorem vectorLoadsAndStores : Obligations.VectorLoadsAndStores := by
  unfold Obligations.VectorLoadsAndStores
  refine ⟨fun s gu la ty h d a b x imm lit => ?_, fun s gu la ty h d a imm lit => ?_⟩
  · intro w lanes mask loads stores near far wide hw
    have hloads {i : Instr} {len : Nat} {rs : List Reg} {vs : List VReg} {unit : Bool} {addr : State → Nat → Word} {addr' : Nat → Word}
        (hi : exec i s = execVload gu la ty h d rs vs len unit addr s)
        (haddr : IssuesPlain s (vloadUses gu ty d rs vs len s) → addr s = addr') : loads i len rs vs unit addr' :=
      fun hp hu => vload_lanes hw (haddr hp) hu hi hp
    have hstores {i : Instr} {len : Nat} {rs : List Reg} {vs : List VReg} {unit : Bool} {addr : State → Nat → Word} {addr' : Nat → Word}
        (hi : exec i s = execVstore gu ty h d rs vs len unit addr s)
        (haddr : IssuesPlain s (vstoreUses gu ty d rs vs len s) → addr s = addr') : stores i len rs vs unit addr' := by
      intro hp hu
      obtain ⟨hmis, hqueue⟩ := vstore_lanes hw (haddr hp) hu hi hp
      refine ⟨hmis, fun gs s' ls ha hpl hgs hfull hfree => ?_⟩
      intro reqs room
      have hreqs : (ls.map fun e => storeReq h e (lane (s.rv d) (bitsOf ty.toNat) e.1.idx)) = reqs :=
        List.map_congr_left fun e he => by
          have hn : e.1.n = w := n_of_placed (hgs ▸ hpl) he
          rw [storeReq, hn, ← hw]
      have hout := hqueue gs s' ls ha hpl hgs hfull hfree
      rw [hreqs] at hout
      exact hout
    have hnear {u : Uses} (hp : IssuesPlain s u) (ha : a.toNat ∈ u.rs) (o : Word) :
        (fun i => s.src a + o + word (i * (bitsOf ty.toNat / 8))) = near o := by rw [src_of_plain hp ha]
    have hfar {u : Uses} (hp : IssuesPlain s u) (ha : a.toNat ∈ u.rs) (hb : b.toNat ∈ u.rs) (o : Word) :
        (fun i => s.src a + o + word i * s.src b) = far o := by rw [src_of_plain hp ha, src_of_plain hp hb]
    have hwide {u : Uses} (hp : IssuesPlain s u) (ha : a.toNat ∈ u.rs) (o : Word) :
        (fun i => s.src a + o + indexed ty.toNat (s.srcV x) i) = wide o := by
      simp only [src_of_plain hp ha, srcV_of_issues hp.toIssues, indexed, wide, ← sintN_eq_toInt, hw]
      rfl
    exact ⟨hloads rfl fun hp => hnear hp (.head _) _, hloads rfl fun hp => hnear hp (.head _) _,
      hloads rfl fun hp => hfar hp (.head _) (.tail _ (.head _)) _, hloads rfl fun hp => hfar hp (.head _) (.tail _ (.head _)) _,
      hloads rfl fun hp => hwide hp (.head _) _, hloads rfl fun hp => hwide hp (.head _) _,
      hstores rfl fun hp => hnear hp (.head _) _, hstores rfl fun hp => hnear hp (.head _) _,
      hstores rfl fun hp => hfar hp (.head _) (.tail _ (.head _)) _, hstores rfl fun hp => hfar hp (.head _) (.tail _ (.head _)) _,
      hstores rfl fun hp => hwide hp (.head _) _, hstores rfl fun hp => hwide hp (.head _) _⟩
  · intro line
    have hline {i j : Instr} {len : Nat} {o : Word} {addr : State → Nat → Word}
        (hi : exec i s = execVload gu la ty h d [a] [] len true addr s) (hj : exec j s = execVstore gu ty h d [a] [] len true addr s)
        (haddr : s.src a = s.rg a → addr s = fun i => s.rg a + o + word (i * (bitsOf ty.toNat / 8))) : line i j len (s.rg a + o) := by
      intro hva e rest hes
      have hplace {u : Uses} (hp : IssuesPlain s u) (ha : a.toNat ∈ u.rs) :
          s.vElems gu ty.toNat (addr s) = e :: rest ∧ (addr s 0).toNat % 128 = 0 := by
        rw [haddr (src_of_plain hp ha)]
        exact ⟨hes, by simpa [word] using hva⟩
      simp only [hes]
      refine ⟨fun hp l s' => ?_, fun hp l s' => ?_⟩
      · obtain ⟨hes', ha⟩ := hplace hp (.head _)
        exact vload_line hes' ha hi hp
      · obtain ⟨hes', ha⟩ := hplace hp (.head _)
        exact vstore_line hes' ha hj hp
    exact ⟨hline rfl rfl fun ea => by rw [← ea]; rfl, hline rfl rfl fun ea => by rw [← ea]⟩

/-- Settles O25: a reduction is each outcome of `reduceBody`, and what it opens `reduceGlob_opens`; an XACC32 slot is read by
the request of `atomicReq_near` or `atomicReq_held`, an XACC64 slot by `State.readSlot64`. -/
theorem reductionsAndAccumulators : Obligations.ReductionsAndAccumulators := by
  unfold Obligations.ReductionsAndAccumulators
  refine ⟨fun s gu ty h a b imm lit => ?_, fun s gu la ty rm sat h d a clr imm lit => ?_⟩
  · intro rd
    have hrd {i : Instr} {op : ReqOp} {n len : Nat} {o : Word} (hi : exec i s = execRd gu ty.toNat n op h a b len o s) :
        rd i op n len (s.rg a + o) := by
      intro hp
      have ea : s.src a = s.rg a := src_of_plain hp (.head _)
      have eb : s.src b = s.rg b := src_of_plain hp (.tail _ (.head _))
      rw [← ea, ← eb]
      have hi := hi.trans (execRd_eq ..)
      let r := s.reduceReq op h n ty.toNat a b o
      refine ⟨fun ha => ?_, fun l s' ha hpl => ⟨fun hb => ?_, fun hb hs hl => ⟨?_, fun q => ?_⟩,
        fun pa bad t hl hw hc => ⟨fun hno => ?_, fun hb hh hv hf hpend hcmds => ⟨fun hstands => reduceRoom_stands hstands,
          fun t' hroom => ⟨?_, fun hu hk hn => reduceGlob_opens hu hk hn⟩⟩⟩⟩⟩
      · exact hi.trans (runs_trap hp.toIssues (reduceBody_misaligned (r := r) ha))
      · exact hi.trans (runs_trap hp.toIssues (reduceBody_barrier (r := r) ha hpl hb))
      · exact hi.trans (runs_done hp (reduceBody_coreMemory (r := r) ha hpl hb hs hl))
      · exact untouched_after (onlyPends_send (onlyPends_of_quiet q s'.ctr) _) _
      · subst hl
        exact hi.trans (runs_done hp (reduceBody_refused (r := r) ha hpl hw hc hno))
      · subst hl
        exact hi.trans (runs_done hp (reduceBody_combines (r := r) ha hpl hw hc hb hh hv hf hpend hcmds hroom))
    exact ⟨hrd rfl, hrd rfl, hrd rfl, hrd rfl, hrd rfl, hrd rfl, hrd rfl, hrd rfl⟩
  · intro rnd
    have hrnd {i j : Instr} {len : Nat} {o : Word} (hi : exec i s = execRound gu la ty rm sat h d a false clr len o s)
        (hj : exec j s = execRound gu la ty rm sat h d a true clr len o s) : rnd i j len (s.rg a + o) := by
      intro hp
      have ea : s.src a = s.rg a := src_of_plain hp (.head _)
      rw [← ea]
      refine ⟨fun ha => ?_, fun l s' ha hpl hb hs hm => ?_, fun ha => ?_, fun x l t ha hslot => ?_⟩
      · exact hi.trans (runs_trap hp.toIssues (atomicReq_misaligned hp.ready ha))
      · have quiet (q : Quiet s s') (p : Pend) (r : Req) : OnlyPends s ((s'.enterPend p).send r) :=
          onlyPends_send (onlyPends_enterPend (onlyPends_of_quiet q s'.ctr) p) r
        exact ⟨fun hg hd => ⟨hi.trans (runs_done hp (atomicReq_near hp.ready ha hpl hb hs hm hg hd)), fun q => untouched_after (quiet q _ _) _⟩,
          fun hfar => ⟨hi.trans (runs_wait hp (atomicReq_held hp.ready ha hpl hb hs hm hfar)), fun q => untouched_waiting (quiet q _ _) _⟩,
          fun old => ⟨rfl, rfl⟩⟩
      · exact hj.trans (runs_trap hp.toIssues (if_pos ha))
      · refine hj.trans (runs_done hp ?_)
        simp only [if_true, ha, ne_eq, not_true_eq_false, if_false, hslot]
        rfl
    exact ⟨hrnd rfl rfl, hrnd rfl rfl⟩

/-- Settles O28: a request at its home slice by outcome (`exec_sliceRead_refused` to `exec_sliceEvict_evicts`); a line that the
slice holds by `sliceRead_held`, `cline?_putLine` and the lemmas on `sliceWrite_held`. -/
theorem sliceAccesses : Obligations.SliceAccesses := by
  unfold Obligations.SliceAccesses
  refine ⟨fun s id r pa t hreq hl hst ht hw => ⟨fun hc => ?_, fun hc hh => ?_, fun hc hh => ?_⟩, fun s l d mask h c hc hh => ⟨?_, ?_⟩⟩
  · exact ⟨exec_sliceRead_refused hreq hl hst ht hw hc, exec_sliceWrite_refused hreq hl hst ht hw hc,
      fun op ty hop => exec_sliceAtomic_refused hreq hl hst ht hw hc (by rw [hop]; rfl),
      fun hop => exec_sliceEvict_dropped hreq hl hst ht hw hc hop rfl⟩
  · exact ⟨exec_sliceRead_host hreq hl hst ht hw hc hh, fun hop => exec_sliceEvict_dropped hreq hl hst ht hw hc hop hh⟩
  · refine ⟨fun hop hf => ⟨exec_sliceRead_miss hreq hl hst ht hw hc hh hop hf, fun c => exec_sliceRead_hit hreq hl hst ht hw hc hh hop hf⟩,
      fun hop hv hf hn => exec_sliceWrite_store hreq hl hst ht hw hc hh hf hop hv hn rfl,
      fun op ty hop hv hf => exec_sliceAtomic_amo hreq hl hst ht hw hc hh hf hop hv rfl rfl, fun hop hf => ?_⟩
    have hevict := exec_sliceEvict_evicts hreq hl hst ht hw hc hh hf hop
    exact ⟨fun hk => by rw [hevict, evictAt_kept hk], fun c hc =>
      ⟨fun hs => by rw [hevict, evictAt_shortLived hc hs], fun hs hb => by rw [hevict, evictAt_writesBack hc hs hb]⟩⟩
  · intro x
    have hx : x = _ := sliceRead_held hc hh h
    have hline (m : Nat) : x.2.2.cline? m = if m = l then some { c with hint := h, stamp := s.ctr } else s.cline? m := by
      rw [hx, cline?_putLine, ← line_of_cline? hc]
    rw [hline, if_pos rfl]
    refine ⟨by rw [hx], by rw [hx], by rw [hx]; rfl, rfl, fun m hm => ?_⟩
    rw [hline, if_neg hm]
  · intro x
    have hline (m : Nat) := cline?_sliceWrite_held hc hh d mask h m
    refine ⟨congrArg Prod.fst (sliceWrite_held hc hh d mask h), mem_sliceWrite_held hc hh d mask h, ssn_sliceWrite_held hc hh d mask h,
      ⟨_, (hline l).trans (if_pos rfl), rfl, fun i hi => getLsbD_blend c.data d mask hi⟩, fun m hm => (hline m).trans (if_neg hm)⟩

/-- Settles O40: a read outside the cone is `rgetBody_outside`, one inside it `rgetBody_inside` by its alignment, its end and how
far it reaches; the target's answer is `exec_galleryRead_landing`. -/
theorem galleryReads : Obligations.GalleryReads := by
  unfold Obligations.GalleryReads
  refine ⟨fun s i u gu la ty d v a dx dy off dst n sext hi hp => ?_, fun s id m hm => ?_⟩
  · have hexec : exec i s = s.runs u (rgetBody dst la n sext a dx dy off) := by
      rcases hi with ⟨rfl, rfl, rfl, rfl, rfl⟩ | ⟨rfl, rfl, rfl, rfl, rfl⟩ <;> rfl
    have ea : s.src a = s.rg a := src_of_plain hp (by rcases hi with ⟨_, _, _, _, rfl⟩ | ⟨_, _, _, _, rfl⟩ <;> exact .head _)
    rw [← ea]
    intro imm far h tl tx ty' inside o tgt p
    refine ⟨fun hout => hexec.trans (runs_trap hp.toIssues (rgetBody_outside hp.ready hout)),
      fun hin ha => hexec.trans (runs_trap hp.toIssues (rgetBody_misaligned hp.ready hin ha)),
      fun hin ha he => hexec.trans (runs_trap hp.toIssues (rgetBody_beyond hp.ready hin ha he)),
      fun hin ha he => ⟨fun h0 hrmw => ⟨fun x hx => ?_, fun hx => ?_⟩,
        fun h0 hw => hexec.trans (runs_trap hp.toIssues (rgetBody_dead hp.ready hin ha he h0 hw)), fun h0 hw => ?_⟩⟩
    · have hown := rgetBody_own (dst := dst) (la := la) (sext := sext) hp.ready hin ha he h0 hrmw
      rw [startLoad_data (e := { n := n, addr := galVA o.toNat }) hx] at hown
      exact hexec.trans (runs_done hp (hown.trans (loadEnd_done rfl rfl)))
    · have hown := rgetBody_own (dst := dst) (la := la) (sext := sext) hp.ready hin ha he h0 hrmw
      rw [startLoad_near (e := { n := n, addr := galVA o.toNat }) hx rfl rfl] at hown
      exact hexec.trans (runs_done hp (hown.trans (loadEnd_done rfl rfl)))
    · exact hexec.trans (runs_wait hp ((rgetBody_asks hp.ready hin ha he h0 hw).trans (askTile_eq ..)))
  · intro s' way
    refine ⟨exec_galleryRead_waits hm, exec_galleryRead_dead hm, exec_galleryRead_status hm, fun hw k hl => ?_⟩
    intro at_
    rw [exec_galleryRead_landing hm hw hl]
    refine ⟨fun h => congrArg _ (if_pos (landPoison_iff ..|>.mpr h)), fun h => congrArg _ (if_neg fun hbad => ?_)⟩
    obtain ⟨e, he, hover⟩ := (landPoison_iff ..).mp hbad
    exact absurd hover (Bool.eq_false_iff.mp (h e he))

end Sys2Proof
end

section
/-!
SUPPORT. The messages between the ends of a stream: which one is taken, when a push waits, what the arrival of an element
leaves, and a sample of the control loop (R328, R329, R333, R334).
-/

namespace Sys2Proof.Machine

open Sys2Proof

variable {s : State} {ck q : Nat}

/-! ## Taking a message -/

/-- The way of a message to an end of a stream is clear. -/
def State.streamClear (s : State) (ck q : Nat) : Prop :=
  s.wayToTile (tileOf ((s.core ck).qreg q).peer.1) (tileOf ck) = .clear

theorem takeMsg_oldest {p : QMsg → Bool} {m : QFlight} (hw : s.streamClear ck q)
    (hm : s.qflight.find? (fun m => m.isFor (ck, q) && p m.msg) = some m) : s.takeMsg ck q p =
      some (m.msg, { s with qflight := dropFirst (fun m => m.isFor (ck, q) && p m.msg) s.qflight }) := by
  simp only [State.streamClear] at hw
  simp only [State.takeMsg, hm, hw, ne_eq, not_true_eq_false, if_false]

theorem takeMsg_held (hw : ¬s.streamClear ck q) (p : QMsg → Bool) : s.takeMsg ck q p = none := by
  unfold State.takeMsg
  dsimp only
  split
  · rfl
  · exact if_pos hw

/-! ## Credits and weights -/

theorem exec_streamCredit_held (hw : ¬s.streamClear ck q) : exec (.streamCredit ck q) s = .next s := by
  change execStreamCredit ck q s = _
  rw [execStreamCredit, takeMsg_held hw]

theorem exec_streamCredit_arrives {m : QFlight} (hw : s.streamClear ck q)
    (hm : s.qflight.find? (fun m => m.isFor (ck, q) && m.msg == QMsg.credit) = some m) : exec (.streamCredit ck q) s = .next
      (({ s with qflight := dropFirst (fun m => m.isFor (ck, q) && m.msg == QMsg.credit) s.qflight }).updQ ck q
        (fun y => { y with credits := y.credits + 1 })) := by
  have hpick : (m.isFor (ck, q) && m.msg == QMsg.credit) = true := 
    List.find?_some (p := fun m : QFlight => m.isFor (ck, q) && m.msg == QMsg.credit) hm
  have hmsg : m.msg = .credit := eq_of_beq (Bool.and_eq_true_iff.mp hpick).2
  change execStreamCredit ck q s = _
  rw [execStreamCredit, takeMsg_oldest (p := fun m => m == .credit) hw hm, hmsg]

theorem exec_weightMessage_held (hw : ¬s.streamClear ck q) : exec (.weightMessage ck q) s = .next s := by
  change execWeightMessage ck q s = _
  rw [execWeightMessage, takeMsg_held hw]

/-- The only message on its way is a weight for this end. -/
theorem exec_weightMessage_arrives {m : QFlight} {w : Nat} (hw : s.streamClear ck q) (hq : s.qflight = [m])
    (hfor : m.isFor (ck, q) = true) (hmsg : m.msg = .weight w) : exec (.weightMessage ck q) s =
      .next (({ s with qflight := [] }).updQ ck q (fun y => { y with weight := w })) := by
  have hpick : (m.isFor (ck, q) && (match m.msg with | .weight _ => true | _ => false)) = true := by rw [hfor, hmsg]; rfl
  change execWeightMessage ck q s = _
  rw [execWeightMessage, takeMsg_oldest hw (by rw [hq]; exact List.find?_cons_of_pos hpick), hmsg, hq]
  simp only [dropFirst, hfor, hmsg, Bool.and_self, if_true]

/-! ## Pushes -/

/-- Where in its scratchpad the ring of a consumer takes the next element (R328). -/
def QReg.tailOff (y : QReg) : Nat := y.base + 16 + 8 * (y.tail % max y.slots 1)

/-- The slot that the next element fills. -/
def QReg.tailSlot (y : QReg) (ck : Nat) : Loc := .spad ck y.tailOff

theorem QReg.tailOff_eq {y : QReg} (h : 0 < y.slots) : y.tailOff = y.base + 16 + 8 * (y.tail % y.slots) := by
  rw [QReg.tailOff, max_eq_left (Nat.succ_le_of_lt h)]

theorem QReg.tailOff_fits {y : QReg} (h : 0 < y.slots) : y.tailOff + 8 ≤ y.base + 16 + 8 * y.slots := by
  have := Nat.mod_lt y.tail h
  rw [QReg.tailOff_eq h]
  omega

/-- A push waits for an earlier access or contribution of its producer to the scratchpad, and for a copy that is to write
the slot or TAIL (R141, R148). -/
theorem appendWaits_iff {m : QFlight} (hm : s.qflight.find? (fun m => m.isFor (ck, q) && m.msg.isPush) = some m) :
    let y := (s.core ck).qreg q
    let l := y.tailSlot ck
    s.appendWaits ck q = true ↔
      (∃ r ∈ s.flight, r.core = m.src ∧ r.loc.sameTarget l = true ∧ r.id < m.id ∧ r.performed = false) ∨
      (∃ k ∈ s.contribsAt m.src l, k.id < m.id) ∨ s.overScore l 8 = true ∨ s.overScore (.spad ck (y.base + 8)) 8 = true := by
  simp only [State.appendWaits, hm, QReg.tailSlot, QReg.tailOff, Bool.or_eq_true, List.any_eq_true, Bool.and_eq_true, beq_iff_eq,
    Bool.not_eq_true', decide_eq_true_eq, or_assoc, and_assoc, and_comm (a := Req.performed _ = false)]

/-- The state once the oldest push has been taken, its element written into the slot, and TAIL after it (R328). -/
def State.append (s : State) (ck q : Nat) (x : Word) : State :=
  let y := (s.core ck).qreg q
  let t : State := { s with qflight := dropFirst (fun m => m.isFor (ck, q) && m.msg.isPush) s.qflight }
  ((t.locWrite (y.tailSlot ck) 8 x.toNat).updQ ck q (fun y => { y with tail := y.tail + 1 })).locWrite (.spad ck (y.base + 8)) 8
    (y.tail + 1)

theorem exec_streamAppend_waits (h : s.appendWaits ck q = true) : exec (.streamAppend ck q) s = .next s := by
  change execStreamAppend ck q s = _
  rw [execStreamAppend, if_pos h]

theorem exec_streamAppend_held (hw : ¬s.streamClear ck q) : exec (.streamAppend ck q) s = .next s := by
  change execStreamAppend ck q s = _
  rw [execStreamAppend, takeMsg_held hw, ite_self]

theorem exec_streamAppend_appends {m : QFlight} {x : Word} (hw : s.streamClear ck q)
    (hm : s.qflight.find? (fun m => m.isFor (ck, q) && m.msg.isPush) = some m) (hmsg : m.msg = .push x)
    (h : s.appendWaits ck q = false) : exec (.streamAppend ck q) s = .next (s.append ck q x) := by
  change execStreamAppend ck q s = _
  rw [execStreamAppend, if_neg (Bool.eq_false_iff.mp h), takeMsg_oldest hw hm, hmsg]
  rfl

/-! ## What the arrival of an element leaves -/

theorem qflight_locWrite (l : Loc) (n x : Nat) : (s.locWrite l n x).qflight = s.qflight := by
  rw [locWrite_eq, notify_eq]
  rfl

theorem Core.OnlyResults.qreg_eq {c e : Core} (h : c.OnlyResults e) (k : Nat) : e.qreg k = c.qreg k := by rw [h]; rfl

theorem qreg_updQ (f : QReg → QReg) : ((s.updQ ck q f).core ck).qreg q = f ((s.core ck).qreg q) := by
  rw [State.updQ, State.core_updCore]
  exact SMap.get_put_same ..

theorem spadRead_locWrite_other {c o n : Nat} (x : Nat) (hn : o + n ≤ 2 ^ 17) {c' o' n' : Nat} (hn' : o' + n' ≤ 2 ^ 17)
    (h : c' ≠ c ∨ o' + n' ≤ o ∨ o + n ≤ o') : (s.locWrite (.spad c o) n x).spadRead c' o' n' = s.spadRead c' o' n' := by
  induction n' with
  | zero => rfl
  | succ n' ih =>
    rw [State.spadRead, State.spadRead, ih (by omega) (by omega), spadByte_locWrite_other x hn (by omega) (by omega)]

theorem qflight_append (x : Word) : (s.append ck q x).qflight = dropFirst (fun m => m.isFor (ck, q) && m.msg.isPush) s.qflight :=
  (qflight_locWrite ..).trans (qflight_locWrite ..)

/-- Of the q-register only TAIL moves. -/
theorem qreg_append (x : Word) :
    ((s.append ck q x).core ck).qreg q = { (s.core ck).qreg q with tail := ((s.core ck).qreg q).tail + 1 } := by
  rw [State.append, (locWrite_onlyResults _ _ _ ck).qreg_eq, qreg_updQ, (locWrite_onlyResults _ _ _ ck).qreg_eq]
  rfl

/-- TAIL, which the consumer reads. -/
theorem spadRead_append_tail (x : Word) (ht : ((s.core ck).qreg q).tail + 1 < 2 ^ 64) :
    (s.append ck q x).spadRead ck (((s.core ck).qreg q).base + 8) 8 = ((s.core ck).qreg q).tail + 1 :=
  (spadRead_locWrite ..).trans (Nat.mod_eq_of_lt ht)

section
variable (h0 : 0 < ((s.core ck).qreg q).slots)
  (hfit : ((s.core ck).qreg q).base + 16 + 8 * ((s.core ck).qreg q).slots ≤ spadSize)
include h0 hfit

/-- The slot holds the element: TAIL, written after it, lies before the slots. -/
theorem spadRead_append_slot (x : Word) : (s.append ck q x).spadRead ck ((s.core ck).qreg q).tailOff 8 = x.toNat := by
  have hend := QReg.tailOff_fits h0
  have hbase : ((s.core ck).qreg q).base + 16 ≤ ((s.core ck).qreg q).tailOff := Nat.le_add_right ..
  simp only [spadSize] at hfit
  calc (s.append ck q x).spadRead ck ((s.core ck).qreg q).tailOff 8
    _ = _ := spadRead_locWrite_other _ (by omega) (by omega) (.inr (.inr (by omega)))
    _ = (State.locWrite { s with qflight := _ } (((s.core ck).qreg q).tailSlot ck) 8 x.toNat).spadRead ck
          ((s.core ck).qreg q).tailOff 8 := spadRead_congr (fun _ => rfl) ..
    _ = x.toNat := (spadRead_locWrite ..).trans (Nat.mod_eq_of_lt x.isLt)

/-- Every other byte of the scratchpad stays. -/
theorem spadByte_append_other (x : Word) {o : Nat} (ho : o < 2 ^ 17)
    (htail : o < ((s.core ck).qreg q).base + 8 ∨ ((s.core ck).qreg q).base + 16 ≤ o)
    (hslot : o < ((s.core ck).qreg q).tailOff ∨ ((s.core ck).qreg q).tailOff + 8 ≤ o) :
    (s.append ck q x).spadByte ck o = s.spadByte ck o := by
  have hend := QReg.tailOff_fits h0
  simp only [spadSize] at hfit
  exact (spadByte_locWrite_other _ (by omega) ho (.inr (by omega))).trans
    (spadByte_locWrite_other _ (by omega) ho (.inr hslot))

end

/-! ## Samples -/

/-- A sample is taken at the consumer of a bound stream once its period has passed, while the hall runs (R334, R347). -/
theorem sampleTaken_iff : ((s.core ck).qreg q).due = true ∧ s.hallRuns ck = true ↔
    ((s.core ck).qreg q).prod = false ∧ ((s.core ck).qreg q).st = .bound ∧ ((s.core ck).qreg q).per ≤ ((s.core ck).qreg q).count ∧
      (s.hallOfCore ck).stop = .none := by
  simp only [QReg.due, State.hallRuns, Bool.and_eq_true, Bool.not_eq_true', beq_iff_eq, decide_eq_true_eq, and_assoc]

theorem exec_streamSample_not (h : ¬(((s.core ck).qreg q).due = true ∧ s.hallRuns ck = true)) :
    exec (.streamSample ck q) s = .next s := by
  have hskip : (!((s.core ck).qreg q).due || !s.hallRuns ck) = true := by
    rwa [← Bool.not_and, Bool.not_eq_true', ← Bool.not_eq_true, Bool.and_eq_true]
  change execStreamSample ck q s = _
  rw [execStreamSample]
  exact congrArg _ (if_pos hskip)

theorem exec_streamSample_takes (hdue : ((s.core ck).qreg q).due = true) (hrun : s.hallRuns ck = true) :
    exec (.streamSample ck q) s = .next
      { s.updCore ck (fun c => c.setQ q ((s.core ck).qreg q).sample) with
        qflight := s.qflight ++ [{ core := ((s.core ck).qreg q).peer.1, q := ((s.core ck).qreg q).peer.2,
                                   msg := .weight ((s.core ck).qreg q).sample.wp }] } := by
  change execStreamSample ck q s = _
  simp only [execStreamSample, hdue, hrun, Bool.not_true, Bool.or_self, if_neg Bool.false_ne_true]
  rfl

theorem clampI_eq {lo hi : Int} (h : lo ≤ hi) (x : Int) : clampI x lo hi = max lo (min x hi) := by
  unfold clampI
  split
  · omega
  · split <;> omega

/-- A weight of the loop stays within 1 to 256. -/
theorem toNat_clampI_weight (x : Int) : ((clampI x 1 256).toNat : Int) = max 1 (min x 256) := by
  rw [clampI_eq (by decide)]
  omega

/-- The integral after a sample, held within 16 bits (R334). -/
theorem QReg.sample_integ (y : QReg) : y.sample.integ =
    if y.stall then y.integ else max (-32768) (min (y.integ + ((y.tail : Int) - y.head - y.setp)) 32767) := by
  rw [← clampI_eq (by decide)]
  rfl

end Sys2Proof.Machine
end

section
/-!
PROOFS. The statements of 06_core_memories on the rings of streams in scratchpads.
-/

namespace Sys2Proof

open Machine

/-- Settles O42: a push by `exec_streamAppend_appends` and what `State.append` leaves, or, where `appendWaits_iff` holds it,
`exec_streamAppend_waits`; a sample by `sampleTaken_iff`, and its arithmetic by `QReg.sample_integ` and `toNat_clampI_weight`. -/
theorem streamMessages : Obligations.StreamMessages := by
  unfold Obligations.StreamMessages
  refine ⟨fun s ck q m => ?_, fun y => ?_⟩
  · intro y from_ for_ slot runs
    refine ⟨fun hw => ⟨?_, ?_, exec_streamCredit_arrives hw, fun w => exec_weightMessage_arrives hw⟩,
      fun hw => ⟨exec_streamAppend_held hw, exec_streamCredit_held hw, exec_weightMessage_held hw⟩,
      fun hnot => exec_streamSample_not (mt sampleTaken_iff.mp hnot), fun hprod hst hper hrun => ?_⟩
    · intro x hm hmsg h0 hfit ht hflight hcontrib hslot htail
      have hoff : y.tailOff = y.base + 16 + 8 * (y.tail % y.slots) := QReg.tailOff_eq h0
      have hl : slot ck y = y.tailSlot ck := congrArg (Loc.spad ck) hoff.symm
      rw [hl] at hflight hcontrib hslot
      have hfree : s.appendWaits ck q = false := by
        refine Bool.eq_false_iff.mpr fun hwait => ?_
        obtain ⟨r, hr, hcore, hloc, hid, hnot⟩ | ⟨k, hk, hid⟩ | hover | hover := (appendWaits_iff hm).mp hwait
        · exact absurd (hflight r hr hcore hloc hid) (Bool.eq_false_iff.mp hnot)
        · exact absurd (hcontrib k hk) (Nat.not_le_of_lt hid)
        · exact absurd hover (Bool.eq_false_iff.mp hslot)
        · exact absurd hover (Bool.eq_false_iff.mp htail)
      exact ⟨_, exec_streamAppend_appends hw hm hmsg hfree, hoff ▸ spadRead_append_slot h0 hfit x, spadRead_append_tail x ht,
        qreg_append x, qflight_append x, fun o ho hot hos =>
          spadByte_append_other h0 hfit x ho hot (hoff ▸ hos.imp_right (by omega))⟩
    · intro hm h0 hbehind
      have hl : slot ck y = y.tailSlot ck := congrArg (Loc.spad ck) (QReg.tailOff_eq h0).symm
      rw [hl] at hbehind
      exact exec_streamAppend_waits ((appendWaits_iff hm).mpr (hbehind.imp_right .inr))
    · obtain ⟨hdue, hrun⟩ := sampleTaken_iff.mpr ⟨hprod, hst, hper, hrun⟩
      exact exec_streamSample_takes hdue hrun
  · intro err i adj
    have hi : y.sample.integ = i := y.sample_integ
    have hadj : adj = ((y.kp : Int) * err + (y.ki : Int) * y.sample.integ) / 256 := by rw [hi]
    rw [hadj]
    exact ⟨hi, rfl, rfl, rfl, toNat_clampI_weight _, toNat_clampI_weight _, rfl, rfl⟩

end Sys2Proof
end


section
/-!
SUPPORT. CPSET, CPGET, CPGO, CPCAN and SEALR: what issuing each comes to (R168 to R172), and what taking scoreboard entries
leaves of the state (R147).
-/

namespace Sys2Proof.Machine

open Sys2Proof

variable {s t : State}

/-! ## Scoreboard entries -/

/-- `t` is `s` with other range-scoreboard entries. -/
structure State.OnlyScores (s t : State) : Prop where
  cores : t = { s with cores := t.cores }
  core : ∀ k, t.core k = { s.core k with score := (t.core k).score }

theorem State.OnlyScores.refl (s : State) : s.OnlyScores s := ⟨rfl, fun _ => rfl⟩

theorem State.OnlyScores.updCore {k : Nat} {f : Core → Core} (h : s.OnlyScores t)
    (hf : ∀ c, f c = { c with score := (f c).score }) : s.OnlyScores (t.updCore k f) where
  cores := by rw [h.cores]; rfl
  core q := by
    rw [State.updCore, t.core_setCore]
    split
    · rename_i hq
      rw [hf, h.core k, hq]
    · exact h.core q

/-- A transfer that has taken its entries has changed nothing else (R147). -/
theorem takeScores_onlyScores {issuer owner : Nat} {l : List Span} (h : s.takeScores issuer owner l = some t) : s.OnlyScores t := by
  obtain ⟨-, hl⟩ := Option.ite_none_right_eq_some.mp h
  cases hl
  exact foldl_keeps (fun t => s.OnlyScores t) (fun _ _ ht => ht.updCore fun _ => rfl) l (.refl s)

/-! ## Shadow registers -/

/-- What CPSET and CPGET declare (R168). -/
def cpsetUses (gu : Guard) (idx : BitVec 4) (a : Reg) (s : State) : Uses :=
  { len := 12, on := s.guard gu, rs := [a.toNat], illegal := decide (9 < idx.toNat) }

/-- See cpsetUses. -/
def cpgetUses (gu : Guard) (d : Reg) (idx : BitVec 4) (s : State) : Uses :=
  { len := 12, on := s.guard gu, ws := [d.toNat], illegal := decide (9 < idx.toNat) }

theorem cpset_performs {gu : Guard} {idx : BitVec 4} {a : Reg} (hi : IssuesPlain s (cpsetUses gu idx a s)) :
    Performs s (.cpset gu idx a) (cpsetUses gu idx a s) (s.updMe (fun c =>
      c.setThr s.lv { c.thr s.lv with cp := (c.thr s.lv).cp.set 0 idx.toNat (s.rg a) })) := by
  have ea : s.src a = s.rg a := src_of_plain hi (.head _)
  rw [← ea]
  exact runs_done hi rfl

theorem cpget_performs {gu : Guard} {d : Reg} {idx : BitVec 4} (hi : IssuesPlain s (cpgetUses gu d idx s)) :
    Performs s (.cpget gu d idx) (cpgetUses gu d idx s) (s.wg d ((s.me.thr s.lv).cp.get 0 idx.toNat)) :=
  runs_done hi (congrArg Res.done (dst_plain hi (.head _) _))

/-! ## CPGO -/

/-- What CPGO declares (R169). -/
def cpgoUses (gu : Guard) (d gs : Reg) (s : State) : Uses :=
  { len := 12, on := s.guard gu, ws := [d.toNat, gs.toNat], long := true, illegal := d == gs && d != 0 }

theorem exec_cpgo (gu : Guard) (la : BitVec 4) (d gs : Reg) :
    exec (.cpgo gu la d gs) s = s.runs (cpgoUses gu d gs s) (cpgoBody d gs la) := rfl

/-- The transfer that the running level's shadow registers describe (R170). -/
def State.captured (s : State) : Copy :=
  { core := s.cur, lv := s.lv, regs := (s.me.thr s.lv).cp, scout := s.me.cpscout.toNat, pv := s.me.pv,
    seq := (s.bay (bayOf s.cur)).copySeq }

/-- The state once a CPGO has its pending result and its transfer a number. -/
def State.numbered (s : State) (gs : Reg) (la : BitVec 4) : State :=
  { s.enterPend (s.newPend (greg s.lv gs.toNat) la.toNat 1 .copy 0) with ctr := s.ctr + 1 + 1 }

/-- The spans a transfer takes entries for at issue: those of the shape its registers give, where it goes to its own tile and
has no shape record (R166). -/
def State.spansAtIssue (s : State) (c : Copy) : List Span :=
  if c.rt || c.recd then []
  else match s.regShape c with
    | none => []
    | some h => s.copySpans c h

theorem spansAtIssue_eq (c : Copy) :
    s.spansAtIssue c = if c.rt || c.recd then [] else ((s.regShape c).map (s.copySpans c)).getD [] := by
  unfold State.spansAtIssue
  cases s.regShape c <;> rfl

/-- The scoreboard entries that a CPGO needs, taken (R147). -/
def State.cpgoScores (s : State) (gs : Reg) (la : BitVec 4) : Option State :=
  (s.numbered gs la).takeScores s.cur (s.ctr + 1) ((s.numbered gs la).spansAtIssue s.captured)

/-- The transfer as the unit takes it. -/
def State.taken (s : State) : Copy :=
  { s.captured with id := s.ctr + 1, pend := s.ctr, scored := !(s.captured.rt || s.captured.recd) }

/-- The transfer `c` has joined those of the executing core's bay. -/
def State.enqueueCopy (s : State) (c : Copy) : State :=
  s.updBay (bayOf c.core) (fun b =>
    { b with copies := b.copies ++ [c], copySeq := (b.copySeq + 1) % 2 ^ 14, copyBy := (s.cycle, s.cur) })

section
variable {d gs : Reg} {la : BitVec 4}

theorem cpgoBody_eq : cpgoBody d gs la s =
    match s.badBase s.captured with
    | some a => .trap s tAPERTURE a
    | none =>
      if 32 ≤ (s.bay (bayOf s.cur)).copies.length ∨
          ((s.bay (bayOf s.cur)).copyBy.1 = s.cycle ∧ s.cur < (s.bay (bayOf s.cur)).copyBy.2) then .stall
      else match s.cpgoScores gs la with
        | none => .stall
        | some t => .done ((t.enqueueCopy s.taken).dst d (copyIdent (bayOf s.cur) (s.bay (bayOf s.cur)).copySeq)) := rfl

theorem cpgoBody_aperture {v : Word} (h : s.badBase s.captured = some v) : cpgoBody d gs la s = .trap s tAPERTURE v := by
  rw [cpgoBody_eq, h]

variable (hb : s.badBase s.captured = none)
include hb

theorem cpgoBody_stalls (h : 32 ≤ (s.bay (bayOf s.cur)).copies.length ∨
    ((s.bay (bayOf s.cur)).copyBy.1 = s.cycle ∧ s.cur < (s.bay (bayOf s.cur)).copyBy.2) ∨ s.cpgoScores gs la = none) :
    cpgoBody d gs la s = .stall := by
  rw [cpgoBody_eq, hb]
  rw [← or_assoc] at h
  dsimp only
  split
  · rfl
  · rename_i hroom
    rw [h.resolve_left hroom]

theorem cpgoBody_takes (hroom : (s.bay (bayOf s.cur)).copies.length < 32)
    (hturn : ¬((s.bay (bayOf s.cur)).copyBy.1 = s.cycle ∧ s.cur < (s.bay (bayOf s.cur)).copyBy.2))
    (ht : s.cpgoScores gs la = some t) :
    cpgoBody d gs la s = .done ((t.enqueueCopy s.taken).dst d (copyIdent (bayOf s.cur) (s.bay (bayOf s.cur)).copySeq)) := by
  rw [cpgoBody_eq, hb, ht]
  exact if_neg (not_or.mpr ⟨Nat.not_le.mpr hroom, hturn⟩)

end

section
variable {gs : Reg} {la : BitVec 4} (ht : s.cpgoScores gs la = some t)
include ht

/-- Of the executing core only its results and its scoreboard have changed where the transfer has its entries. -/
theorem me_of_cpgoScores : t.me = { s.me with
    pend := s.me.pend ++ [s.newPend (greg s.lv gs.toNat) la.toNat 1 .copy 0], arrived := t.me.arrived, score := t.me.score } := by
  have h := takeScores_onlyScores ht
  have hcur : t.cur = s.cur := by rw [h.cores]; rfl
  have hme : (s.numbered gs la).core s.cur = _ := me_enterPend (s := s) (s.newPend (greg s.lv gs.toNat) la.toNat 1 .copy 0)
  rw [State.me, hcur, h.core, hme]
  rfl

theorem rest_of_cpgoScores : t = { s with cores := t.cores, ctr := s.ctr + 1 + 1 } := by
  rw [(takeScores_onlyScores ht).cores]
  rfl

end

/-! ### What an accepted CPGO leaves -/

/-- The place that a register field names tells the register (R42, R174). -/
theorem greg_inj {lv lv' : Bool} {r q : Nat} (hq : (greg lv' q).isSome = true) (h : greg lv r = greg lv' q) : r = q := by
  unfold greg at h hq
  split_ifs at h hq <;> simp_all

theorem Core.g_setG_other (c : Core) (lv lv' : Bool) {r q : Nat} (x : Word) (h : q ≠ r) : (c.setG lv r x).g lv' q = c.g lv' q := by
  rw [Core.g_setG_level, if_neg]
  rintro ⟨hq, heq⟩
  exact h (greg_inj hq heq).symm

theorem Core.setG_v (c : Core) (lv : Bool) (r : Nat) (x : Word) : (c.setG lv r x).v = c.v := by
  unfold Core.setG
  split
  · rfl
  · split
    · exact Core.setThr_v ..
    · rfl

/-- The state after an accepted CPGO: the transfer has joined the others, and `d` holds its identifier. -/
def State.afterCpgo (s t : State) (d : Reg) : State :=
  (t.enqueueCopy s.taken).wg d (copyIdent (bayOf s.cur) (s.bay (bayOf s.cur)).copySeq)

theorem rg_afterCpgo (d : Reg) : (s.afterCpgo t d).rg d =
    if d = 0 then 0 else copyIdent (bayOf s.cur) (s.bay (bayOf s.cur)).copySeq := by
  split
  · rename_i h
    rw [h]
    rfl
  · rename_i h
    exact rg_wg_same h _

section
variable {d gs : Reg} {la : BitVec 4} (ht : s.cpgoScores gs la = some t)
include ht

theorem bay_afterCpgo (k : Nat) : (s.afterCpgo t d).bay k =
    if bayOf s.cur = k then
      { s.bay k with
        copies := (s.bay k).copies ++ [s.taken], copySeq := ((s.bay k).copySeq + 1) % 2 ^ 14, copyBy := (s.cycle, s.cur) }
    else s.bay k := by
  rw [rest_of_cpgoScores ht]
  refine (State.bay_setBay _ (bayOf s.cur) k _).trans ?_
  split
  · rename_i hk
    rw [← hk]
    rfl
  · rfl

theorem mem_afterCpgo : (s.afterCpgo t d).mem = s.mem := by
  rw [rest_of_cpgoScores ht]
  rfl

theorem cur_of_cpgoScores : t.cur = s.cur := by
  rw [rest_of_cpgoScores ht]

theorem me_afterCpgo : (s.afterCpgo t d).me =
    t.me.setG s.lv d.toNat (copyIdent (bayOf s.cur) (s.bay (bayOf s.cur)).copySeq) := by
  have hlv : t.me.level = s.lv := by rw [me_of_cpgoScores ht]; rfl
  rw [← hlv]
  exact (t.enqueueCopy s.taken).me_updMe _

theorem core_afterCpgo (k : Nat) : ((s.afterCpgo t d).core k).score = (t.core k).score := by
  by_cases hk : k = t.cur
  · rw [hk]
    change (s.afterCpgo t d).me.score = t.me.score
    rw [me_afterCpgo ht, (t.me.setG_changes s.lv d.toNat _).core]
  · exact congrArg Core.score ((t.enqueueCopy s.taken).core_updMe_other _ hk)

theorem pend_afterCpgo : (s.afterCpgo t d).me.pend = s.me.pend ++ [s.newPend (greg s.lv gs.toNat) la.toNat 1 .copy 0] := by
  rw [me_afterCpgo ht, (t.me.setG_changes s.lv d.toNat _).pending, me_of_cpgoScores ht, List.append_nil]

theorem g_afterCpgo (lv : Bool) {r : Nat} (hr : r ≠ d.toNat) : (s.afterCpgo t d).me.g lv r = s.me.g lv r := by
  rw [me_afterCpgo ht, Core.g_setG_other _ _ _ _ hr, me_of_cpgoScores ht]
  rfl

theorem v_afterCpgo : (s.afterCpgo t d).me.v = s.me.v := by
  rw [me_afterCpgo ht, Core.setG_v, me_of_cpgoScores ht]

theorem cpgo_performs {gu : Guard} (hi : IssuesPlain s (cpgoUses gu d gs s)) (hb : s.badBase s.captured = none)
    (hroom : (s.bay (bayOf s.cur)).copies.length < 32)
    (hturn : ¬((s.bay (bayOf s.cur)).copyBy.1 = s.cycle ∧ s.cur < (s.bay (bayOf s.cur)).copyBy.2)) :
    Performs s (.cpgo gu la d gs) (cpgoUses gu d gs s) (s.afterCpgo t d) := by
  refine runs_done hi ((cpgoBody_takes hb hroom hturn ht).trans (congrArg Res.done ?_))
  have hport : (t.enqueueCopy s.taken).me.port d.toNat = s.me.port d.toNat := by
    change t.me.port d.toNat = _
    rw [me_of_cpgoScores ht]
    rfl
  rw [State.dst, hport, port_none_of_noPort hi.noPort (.head _)]
  rfl

end

/-! ## CPCAN -/

/-- What CPCAN declares (R171). -/
def cpcanUses (gu : Guard) (d a : Reg) (s : State) : Uses :=
  { len := 12, on := s.guard gu, rs := [a.toNat], ws := [d.toNat] }

section
variable {gu : Guard} {d a : Reg} (hi : IssuesPlain s (cpcanUses gu d a s))
include hi

theorem cpcan_marks (h : (s.bay (bayOf s.cur)).copies.any (fun c => copyIdent (bayOf s.cur) c.seq == s.rg a) = true) :
    Performs s (.cpcan gu d a) (cpcanUses gu d a s) ((s.setBay (bayOf s.cur) { s.bay (bayOf s.cur) with
      copies := updFirst (fun c => copyIdent (bayOf s.cur) c.seq == s.rg a) (fun c => { c with cancel := true })
        (s.bay (bayOf s.cur)).copies }).wg d 0) := by
  have ea : s.src a = s.rg a := src_of_plain hi (.head _)
  rw [← ea] at h ⊢
  refine runs_done hi ((if_pos h).trans (congrArg Res.done ?_))
  have hport : s.me.port d.toNat = none := port_none_of_noPort hi.noPort (.tail _ (.head _))
  unfold State.dst
  rw [show (State.me (State.updBay s _ _)).port _ = none from hport]
  rfl

theorem cpcan_finds_none (h : (s.bay (bayOf s.cur)).copies.any (fun c => copyIdent (bayOf s.cur) c.seq == s.rg a) = false) :
    Performs s (.cpcan gu d a) (cpcanUses gu d a s) (s.wg d 1) := by
  have ea : s.src a = s.rg a := src_of_plain hi (.head _)
  rw [← ea] at h
  exact runs_done hi ((if_neg (Bool.eq_false_iff.mp h)).trans (congrArg Res.done (dst_plain hi (.head _) _)))

end

/-! ## SEALR -/

/-- What SEALR declares (R172). -/
def sealrUses (gu : Guard) (d a : Reg) (s : State) : Uses := { cpcanUses gu d a s with long := true }

section
variable {gu : Guard} {d a : Reg} {la : BitVec 4} (hi : IssuesPlain s (sealrUses gu d a s))
include hi

theorem sealr_misaligned (ha : (s.rg a).toNat % 64 ≠ 0) : exec (.sealr gu la d a) s = .next (s.trap tALIGN (s.rg a)) := by
  have ea : s.src a = s.rg a := src_of_plain hi (.head _)
  rw [← ea] at ha ⊢
  exact runs_trap hi.toIssues (if_pos ha)

theorem sealr_seals (ha : (s.rg a).toNat % 64 = 0) {x : Nat} {l : Loc} {t' : State}
    (hr : s.nowRead (s.rg a) 64 0 kLoad false = .ok x l t)
    (hw : t.storeElems .df false sysWrite [({ n := 4, addr := s.rg a + 60 }, (crc32c (bytesOf 60 x)).toNat)] = .done t') :
    Performs s (.sealr gu la d a) (sealrUses gu d a s) (t'.answer d la ((crc32c (bytesOf 60 x)).setWidth 64)) := by
  have ea : s.src a = s.rg a := src_of_plain hi (.head _)
  rw [← ea] at ha hr hw
  refine runs_done hi ((if_neg (not_not.mpr ha)).trans ?_)
  rw [hr, Now.res]
  dsimp only
  rw [hw]

end

end Sys2Proof.Machine
end

section
/-!
SUPPORT. The stages of a copy in its bay's unit: its start, the shape record, the walk, one element, the scout and the end
(R152, R157 to R165).
-/

namespace Sys2Proof.Machine

open Sys2Proof

variable {s t : State} {bk id : Nat} {c : Copy}

/-! ## Start -/

section
variable (hroom : ((s.bay bk).copies.filter (fun c => c.st != .queued)).length < 4)
  (hc : (s.bay bk).copies.find? (fun c => c.st == .queued) = some c) (hrec : c.recd = false)
include hroom hc hrec

theorem exec_copyStart_badShape (h : s.regShape c = none) :
    exec (.copyStart bk) s = .next (s.endCopy bk c.id (some 8) false) := by
  change execCopyStart bk s = _
  simp only [execCopyStart, copyRun, if_neg (Nat.not_le.mpr hroom), hc, hrec, h, Bool.false_eq_true, if_false]
  rfl

theorem exec_copyStart_walks {h : Shape} (hs : s.regShape c = some h) :
    exec (.copyStart bk) s = .next (s.startWalk bk c h) := by
  change execCopyStart bk s = _
  simp only [execCopyStart, copyRun, if_neg (Nat.not_le.mpr hroom), hc, hrec, hs, Bool.false_eq_true, if_false]

end

/-! ## The walk begins -/

/-- A copy whose shape is in force (R161). -/
def Copy.shaped (h : Shape) (c : Copy) : Copy :=
  { c with st := .shaped, esz := h.e, cnt := h.cnt, sstr := h.sstr, dstr := h.dstr }

/-- The copy runs, with its scoreboard entries. -/
def State.walks (s : State) (bk id : Nat) : State := s.updCopy bk id (fun c => { c with st := .run, scored := true })

theorem startWalk_eq (h : Shape) : s.startWalk bk c h =
    match (if c.scored then some (s.updCopy bk c.id (Copy.shaped h))
      else (s.updCopy bk c.id (Copy.shaped h)).takeScores c.core c.id ((s.updCopy bk c.id (Copy.shaped h)).copySpans (c.shaped h) h)) with
    | none => s.updCopy bk c.id (Copy.shaped h)
    | some t => t.walks bk c.id := rfl

theorem startWalk_scored (hc : c.scored = true) (h : Shape) :
    s.startWalk bk c h = (s.updCopy bk c.id (Copy.shaped h)).walks bk c.id := by
  rw [startWalk_eq, if_pos hc]

section
variable (hc : c.scored = false) {h : Shape}
include hc

theorem startWalk_waits (ht : (s.updCopy bk c.id (Copy.shaped h)).takeScores c.core c.id
    ((s.updCopy bk c.id (Copy.shaped h)).copySpans (c.shaped h) h) = none) :
    s.startWalk bk c h = s.updCopy bk c.id (Copy.shaped h) := by
  rw [startWalk_eq, hc, if_neg Bool.false_ne_true, ht]

theorem startWalk_takes (ht : (s.updCopy bk c.id (Copy.shaped h)).takeScores c.core c.id
    ((s.updCopy bk c.id (Copy.shaped h)).copySpans (c.shaped h) h) = some t) : s.startWalk bk c h = t.walks bk c.id := by
  rw [startWalk_eq, hc, if_neg Bool.false_ne_true, ht]

end

/-! ## The shape record (R161) -/

section
variable (hc : s.copy? bk id = some c)
include hc

theorem exec_shapeRecordFetch_shaped (hst : c.st = .shaped) : exec (.shapeRecordFetch bk id) s = .next (s.beginWalk bk c) := by
  change execShapeRecordFetch bk id s = _
  simp only [execShapeRecordFetch, hc, hst, if_true]

/-- What a copy does with its shape record `x` (R158 to R161). -/
def State.checkRecord (t : State) (bk id : Nat) (c : Copy) (x : Nat) : State :=
  if x % 2 ^ 16 ≠ fld (c.reg 9) 48 16 then t.endCopy bk id (some 4) false
  else if x / 2 ^ 480 ≠ (crc32c (bytesOf 60 x)).toNat then t.endCopy bk id (some 5) false
  else if x / 2 ^ 20 % 2 ^ 44 ≠ 0 ∨ x / 2 ^ 448 % 2 ^ 32 ≠ 0 then t.endCopy bk id (some 8) false
  else
    match t.shapeOf c (x / 2 ^ 16 % 16) (recordWords x 8 3) (recordWords x 32 3) with
    | none => t.endCopy bk id (some 8) false
    | some h => t.startWalk bk c h

theorem exec_shapeRecordFetch_read (hst : c.st = .fetch) (hfork : s.forkBusy c.core c.id = false) (ha : c.abort = false)
    (hw : c.wait = none) {x : Nat} (hr : s.copyRead bk c 0 (c.reg 8) 64 .df = (.ok x, t)) :
    exec (.shapeRecordFetch bk id) s = .next (t.checkRecord bk id c x) := by
  change execShapeRecordFetch bk id s = _
  simp only [execShapeRecordFetch, hc, hst, hfork, ha, hw, hr]
  rfl

end

section
variable {x : Nat}

theorem checkRecord_serial (hv : x % 2 ^ 16 ≠ fld (c.reg 9) 48 16) :
    t.checkRecord bk id c x = t.endCopy bk id (some 4) false := if_pos hv

variable (hv : x % 2 ^ 16 = fld (c.reg 9) 48 16)
include hv

theorem checkRecord_sum (hs : x / 2 ^ 480 ≠ (crc32c (bytesOf 60 x)).toNat) :
    t.checkRecord bk id c x = t.endCopy bk id (some 5) false := by
  rw [State.checkRecord, if_neg (not_not.mpr hv), if_pos hs]

variable (hs : x / 2 ^ 480 = (crc32c (bytesOf 60 x)).toNat)
include hs

theorem checkRecord_badShape (h : x / 2 ^ 20 % 2 ^ 44 ≠ 0 ∨ x / 2 ^ 448 % 2 ^ 32 ≠ 0 ∨
    t.shapeOf c (x / 2 ^ 16 % 16) (recordWords x 8 3) (recordWords x 32 3) = none) :
    t.checkRecord bk id c x = t.endCopy bk id (some 8) false := by
  rw [State.checkRecord, if_neg (not_not.mpr hv), if_neg (not_not.mpr hs)]
  rw [← or_assoc] at h
  split
  · rfl
  · rename_i hz
    rw [h.resolve_left hz]

theorem checkRecord_sound (h0 : x / 2 ^ 20 % 2 ^ 44 = 0) (h1 : x / 2 ^ 448 % 2 ^ 32 = 0) {h : Shape}
    (hh : t.shapeOf c (x / 2 ^ 16 % 16) (recordWords x 8 3) (recordWords x 32 3) = some h) :
    t.checkRecord bk id c x = t.startWalk bk c h := by
  rw [State.checkRecord, if_neg (not_not.mpr hv), if_neg (not_not.mpr hs), if_neg (not_or.mpr ⟨not_not.mpr h0, not_not.mpr h1⟩), hh]

end

/-! ## One element (R157, R163) -/

/-- An element that has been read, on its way to its destination. -/
def Copy.holding (x : Nat) (c : Copy) : Copy := { c with buf := [BitVec.ofNat 1024 x], bad := none }

theorem heldAt_of_undisturbed (ha : c.abort = false) (hw : c.wait = none) (j : Nat) : c.heldAt j = false := by
  simp [Copy.heldAt, ha, hw]

theorem writeHeld_of_undisturbed (ha : c.abort = false) (hw : c.wait = none) : c.writeHeld = false := by
  simp [Copy.writeHeld, ha, hw]

/-- A unit that holds no element reads the one at hand. -/
theorem readAhead_one (ha : c.abort = false) (hw : c.wait = none) (hbuf : c.buf = []) (hbad : c.bad = none) (hi : c.i < c.n) {x : Nat}
    (hr : s.copyRead bk c c.i (c.srcAt c.i) c.esz (hintOf (fld (c.reg 9) 6 2)) = (.ok x, t)) :
    s.readAhead bk c 1 1 = (.ok 0, [BitVec.ofNat 1024 x], t) := by
  have hgo : ¬(1 ≤ 0 ∨ c.n ≤ c.i ∨ c.heldAt c.i = true) := by simp [heldAt_of_undisturbed ha hw, hi]
  simp only [State.readAhead, hbuf, hbad, List.length_nil, Nat.add_zero, if_neg hgo]
  rw [show s.copyRead bk c c.i (c.srcAt c.i) c.esz (hintOf (fld c.flags 6 2)) = _ from hr]
  rfl

/-- What the write of the element at hand, which came to `w`, makes of the copy. -/
def moveOutcome (bk id : Nat) (c : Copy) (w : MoveRes × State) : State :=
  match w with
  | (.ok _, s) => s.copyNext bk c false
  | (.skip, s) => s.copyNext bk c true
  | (.stop code, s) => s.endCopy bk id (some code) true
  | (.page va acc why, s) => s.copyPage bk c c.i va acc why
  | (.wait, s) => s

theorem moveOutcome_ok {w : MoveRes × State} {y : Nat} (h : w.1 = .ok y) : moveOutcome bk id c w = w.2.copyNext bk c false := by
  obtain ⟨r, t⟩ := w
  cases h
  rfl

theorem moveOutcome_skip {w : MoveRes × State} (h : w.1 = .skip) : moveOutcome bk id c w = w.2.copyNext bk c true := by
  obtain ⟨r, t⟩ := w
  cases h
  rfl

section
variable (hc : s.copy? bk id = some c) (hst : c.st = .run) (hfork : s.forkBusy c.core c.id = false)
include hc hst hfork

theorem exec_moveElement_cancelled (hx : c.cancel = true) (n : Nat) :
    exec (.moveElement bk id n) s = .next (s.endCopy bk id (some 6) true) := by
  change execMoveElement bk id n s = _
  simp only [execMoveElement, hc, hst, hfork, hx]
  rfl

variable (hx : c.cancel = false) (ha : c.abort = false) (hw : c.wait = none) (hbuf : c.buf = []) (hbad : c.bad = none)
  (hi : c.i < c.n) {x : Nat}
  (hr : s.copyRead bk c c.i (c.srcAt c.i) c.esz (hintOf (fld (c.reg 9) 6 2)) = (.ok x, t))
include hx ha hw hbuf hbad hi hr

theorem exec_moveElement_read : exec (.moveElement bk id 0) s = .next (moveOutcome bk id (c.holding x)
    ((t.updCopy bk id (Copy.holding x)).copyWrite bk (c.holding x) (c.dstAt c.i) c.esz (vecBytes (BitVec.ofNat 1024 x) 0 c.esz)
      (hintOf (fld (c.reg 9) 4 2)))) := by
  have hheld : (c.holding x).writeHeld = false := writeHeld_of_undisturbed ha hw
  change execMoveElement bk id 0 s = _
  rw [execMoveElement, hc]
  dsimp only
  rw [if_neg (not_or.mpr ⟨not_not.mpr hst, Bool.eq_false_iff.mp hfork⟩), if_neg (Bool.eq_false_iff.mp hx),
    if_neg (Bool.eq_false_iff.mp (heldAt_of_undisturbed ha hw c.i)), show min 0 64 + 1 = 1 from rfl,
    readAhead_one ha hw hbuf hbad hi hr]
  exact congrArg _ (if_neg (Bool.eq_false_iff.mp hheld))

end

/-! ## The scout (R162) -/

/-- The scout passes an element that touches no page. -/
theorem exec_copyScout_passes (hc : s.copy? bk id = some c) (hst : c.st = .run) (h0 : c.scout ≠ 0) (hw : c.wait = none)
    (ha : c.abort = false) (hat : c.scoutAt = c.i) (hi : c.i < c.n) (hsrc : inGlobal (c.srcAt c.i) = false)
    (hdst : inGlobal (c.dstAt c.i) = false) :
    exec (.copyScout bk id) s = .next (s.updCopy bk id (fun k => { k with scoutAt := c.i + 1 })) := by
  have hj : max c.scoutAt c.i = c.i := by rw [hat, Nat.max_self]
  change execCopyScout bk id s = _
  simp only [execCopyScout, hc, hj, Nat.sub_self, List.range_zero, List.flatMap_nil, List.filter_nil, List.eraseDups_nil,
    List.length_nil, hst, h0, hw, ha, hsrc, hdst, Nat.not_le.mpr hi]
  rfl

/-! ## The end (R164, R165) -/

theorem exec_copyComplete_delivers (hc : s.copy? bk id = some c) (hst : c.st = .updating)
    (h : ∀ q ∈ (s.tile ((s.copyTile c).getD 0)).contribs, q.copy ≠ some (bk, id)) :
    exec (.copyComplete bk id) s = .next ((s.setBay bk { s.bay bk with
      copies := dropFirst (fun c => c.id == id) (s.bay bk).copies }).deliver c.core c.pend c.status) := by
  have hnone : ¬(s.tile ((s.copyTile c).getD 0)).contribs.any (fun q => q.copy == some (bk, id)) = true := by simpa using h
  change execCopyComplete bk id s = _
  simp only [execCopyComplete, hc, hst, if_neg hnone]
  rfl

/-! ## The walk (R157) -/

/-- The innermost count runs fastest. -/
theorem elemAddr_walk (base : Word) {n0 n1 n2 k0 k1 k2 : Nat} (s0 s1 s2 : Int) (h0 : k0 < n0) (h1 : k1 < n1) :
    elemAddr base [n0, n1, n2] [s0, s1, s2] (k0 + n0 * (k1 + n1 * k2)) =
      base + BitVec.ofInt 64 ((k0 : Int) * s0 + (k1 : Int) * s1 + (k2 : Int) * s2) := by
  have hrow : (k0 + n0 * (k1 + n1 * k2)) / n0 = k1 + n1 * k2 := by
    rw [Nat.add_mul_div_left _ _ (Nat.zero_lt_of_lt h0), Nat.div_eq_of_lt h0, Nat.zero_add]
  have hplane : (k1 + n1 * k2) / n1 = k2 := by
    rw [Nat.add_mul_div_left _ _ (Nat.zero_lt_of_lt h1), Nat.div_eq_of_lt h1, Nat.zero_add]
  simp only [elemAddr, List.getD_cons_zero, List.getD_cons_succ, hrow, hplane, Nat.add_mul_mod_self_left,
    Nat.mod_eq_of_lt h0, Nat.mod_eq_of_lt h1, wrap64]

end Sys2Proof.Machine
end

section
/-!
SUPPORT. What an access at a home slice leaves of the halls, however far it reaches: their list, the tiles that belong to each,
and the messages at management cores (R121 to R127, R251).
-/

namespace Sys2Proof.Machine

open Sys2Proof

variable {s t : State}

/-- The halls, their tiles, the messages at management cores and the cycle are the same in `t` as in `s`. -/
structure State.SameHalls (s t : State) : Prop where
  halls : t.fes.halls = s.fes.halls
  mgmt : t.sys.mgmt = s.sys.mgmt
  cycle : t.cycle = s.cycle
  owner : ∀ k, (t.tile k).hall = (s.tile k).hall

theorem State.SameHalls.refl (s : State) : s.SameHalls s := ⟨rfl, rfl, rfl, fun _ => rfl⟩

theorem State.SameHalls.trans {u : State} (h : s.SameHalls t) (h' : t.SameHalls u) : s.SameHalls u :=
  ⟨h'.halls.trans h.halls, h'.mgmt.trans h.mgmt, h'.cycle.trans h.cycle, fun k => (h'.owner k).trans (h.owner k)⟩

theorem foldl_sameHalls {α : Type} {f : State → α → State} (hf : ∀ (t : State) a, t.SameHalls (f t a)) (l : List α) :
    s.SameHalls (l.foldl f s) := foldl_keeps (fun t => s.SameHalls t) (fun t a ht => ht.trans (hf t a)) l (.refl s)

theorem foldr_sameHalls {α : Type} {f : α → State → State} (hf : ∀ a (t : State), t.SameHalls (f a t)) (l : List α) :
    s.SameHalls (l.foldr f s) := by
  rw [List.foldr_eq_foldl_reverse]
  exact foldl_sameHalls (fun t a => hf a t) _

/-! ## Memory -/

theorem updMem_sameHalls (f : Mems → Mems) : s.SameHalls (s.updMem f) := ⟨rfl, rfl, rfl, fun _ => rfl⟩

theorem countCe_sameHalls (st : Nat) : s.SameHalls (s.countCe st) := ⟨rfl, rfl, rfl, fun _ => rfl⟩

theorem countUe_sameHalls (st line : Nat) : s.SameHalls (s.countUe st line) := ⟨rfl, rfl, rfl, fun _ => rfl⟩

theorem setPoison_sameHalls (line : Nat) (b : Bool) : s.SameHalls (s.setPoison line b) := updMem_sameHalls _

theorem eccSector_sameHalls (a : Nat) : s.SameHalls (s.eccSector a) := by
  unfold State.eccSector
  dsimp only
  split
  · exact .refl s
  · exact (updMem_sameHalls _).trans (countCe_sameHalls _)
  · split
    · exact updMem_sameHalls _
    · exact ((updMem_sameHalls _).trans (countUe_sameHalls _ _)).trans (setPoison_sameHalls _ _)

theorem hbmRead_sameHalls (line : Nat) : s.SameHalls (s.hbmRead line).2.2 := by
  unfold State.hbmRead
  dsimp only
  split
  · exact .refl s
  · exact (((eccSector_sameHalls _).trans (eccSector_sameHalls _)).trans (eccSector_sameHalls _)).trans (eccSector_sameHalls _)

theorem hbmWrite_sameHalls (line : Nat) (d : Vec) (p : Bool) : s.SameHalls (s.hbmWrite line d p) :=
  (updMem_sameHalls _).trans (setPoison_sameHalls _ _)

theorem readChunks_sameHalls (f : FWin) (g k : Nat) : s.SameHalls (s.readChunks f g k).2.2 := by
  induction k with
  | zero => exact .refl s
  | succ k ih => exact ih.trans (hbmRead_sameHalls _)

theorem fetchLine_sameHalls (line : Nat) : s.SameHalls (s.fetchLine line).2.2 := by
  unfold State.fetchLine
  split
  · exact hbmRead_sameHalls _
  · exact readChunks_sameHalls _ _ _

theorem writeChunk_sameHalls (f : FWin) (g j x : Nat) : s.SameHalls (s.writeChunk f g j x) := by
  unfold State.writeChunk
  dsimp only
  refine (hbmRead_sameHalls (lineOf (f.chunk g j))).trans ?_
  split
  · exact (hbmWrite_sameHalls _ _ _).trans (updMem_sameHalls _)
  · exact hbmWrite_sameHalls _ _ _

theorem storeLine_sameHalls (line : Nat) (d : Vec) (p : Bool) : s.SameHalls (s.storeLine line d p) := by
  unfold State.storeLine
  split
  · exact hbmWrite_sameHalls _ _ _
  · split
    · exact .refl s
    · exact (foldl_sameHalls (fun _ _ => writeChunk_sameHalls _ _ _ _) _).trans (setPoison_sameHalls _ _)

/-! ## Slices -/

theorem notify_sameHalls (l : Loc) (n : Nat) : s.SameHalls (s.notify l n) where
  halls := by
    have hw : (s.wake l n).fes.halls = s.fes.halls := by rw [wake_eq]
    cases l with
    | glob pa =>
      have hfes (w : State) (es : List Entry) :
          (if w.fes.entries.isEmpty then w else { w with fes := { w.fes with entries := es } }).fes.halls = w.fes.halls := by
        split <;> rfl
      exact (hfes (s.wake (.glob pa) n) _).trans hw
    | spad | vault | gal => exact hw
  mgmt := by rw [notify_eq]
  cycle := by rw [notify_eq]
  owner k := by
    obtain ⟨ms, hms⟩ := tile_notify (s := s) l n k
    rw [hms]

theorem addFails_sameHalls (l : Loc) (p : Bool) (os : List (Nat × Bool)) : s.SameHalls (s.addFails l p os) := by
  rw [addFails_eq]
  exact ⟨rfl, rfl, rfl, fun _ => rfl⟩

theorem uncache_sameHalls (line : Nat) : s.SameHalls (s.uncache line) := ⟨rfl, rfl, rfl, fun _ => rfl⟩

theorem putLine_sameHalls (c : CLine) : s.SameHalls (s.putLine c) := ⟨rfl, rfl, rfl, fun _ => rfl⟩

theorem rawLine_sameHalls (line : Nat) : s.SameHalls (s.rawLine line).2.2 := by
  unfold State.rawLine
  split
  · exact .refl s
  · exact fetchLine_sameHalls _

theorem putRaw_sameHalls (line : Nat) (d : Vec) (p : Bool) : s.SameHalls (s.putRaw line d p) := by
  unfold State.putRaw
  split
  · exact putLine_sameHalls _
  · exact storeLine_sameHalls _ _ _

theorem dropU_sameHalls (line : Nat) (s : State) (bk : Nat) : s.SameHalls (s.dropU line bk) := ⟨rfl, rfl, rfl, fun _ => rfl⟩

theorem bumpSsn_sameHalls (k : Nat) : s.SameHalls (s.bumpSsn k) := ⟨rfl, rfl, rfl, fun _ => rfl⟩

theorem combine_sameHalls (line : Nat) (bays : List Nat) : s.SameHalls (s.combine line bays) := by
  unfold State.combine
  dsimp only
  split
  · exact .refl s
  refine .trans ?_ (notify_sameHalls _ _)
  refine .trans ?_ (bumpSsn_sameHalls _)
  have hdrop (d : Vec) (p : Bool) :=
    ((rawLine_sameHalls (s := s) line).trans (putRaw_sameHalls line d p)).trans (foldl_sameHalls (dropU_sameHalls line) bays)
  split
  · exact (hdrop _ _).trans (foldl_sameHalls (fun _ _ => addFails_sameHalls _ _ _) _)
  · exact hdrop _ _

theorem loseU_sameHalls (line : Nat) (s : State) (bk : Nat) : s.SameHalls (s.loseU line bk) :=
  (dropU_sameHalls line s bk).trans (foldl_sameHalls (fun _ _ => addFails_sameHalls _ _ _) _)

theorem recall_sameHalls (line : Nat) : s.SameHalls (s.recall line) :=
  (foldl_sameHalls (loseU_sameHalls line) _).trans (combine_sameHalls _ _)

theorem evictLine_sameHalls (line : Nat) : s.SameHalls (s.evictLine line) := by
  unfold State.evictLine
  dsimp only
  refine (recall_sameHalls line).trans ?_
  split
  · exact .refl _
  · refine State.SameHalls.trans ?_ (uncache_sameHalls line)
    split
    · exact storeLine_sameHalls _ _ _
    · exact .refl _

theorem install_sameHalls (line : Nat) (d : Vec) (p b : Bool) (h : Hint) : s.SameHalls (s.install line d p b h) := by
  refine .trans ?_ (putLine_sameHalls _)
  unfold State.makeRoom
  split
  · exact .refl s
  · exact evictLine_sameHalls _

theorem sliceRead_sameHalls (line : Nat) (h : Hint) : s.SameHalls (s.sliceRead line h).2.2 := by
  unfold State.sliceRead
  dsimp only
  refine (recall_sameHalls line).trans ?_
  split
  · exact putLine_sameHalls _
  · refine (fetchLine_sameHalls line).trans ?_
    split
    · exact .refl _
    · exact install_sameHalls _ _ _ _ _

theorem sliceWrite_sameHalls (line : Nat) (d mask : Vec) (h : Hint) : s.SameHalls (s.sliceWrite line d mask h).2 := by
  have hput (t : State) (e : Vec) (p : Bool) : t.SameHalls (((if h = .byp then t.storeLine line e p
      else t.install line e p true h).bumpSsn (homeSlice (line * 128))).notify (.glob (line * 128)) 128) := by
    refine .trans (.trans ?_ (bumpSsn_sameHalls _)) (notify_sameHalls _ _)
    split
    · exact storeLine_sameHalls _ _ _
    · exact install_sameHalls _ _ _ _ _
  unfold State.sliceWrite
  dsimp only
  refine (recall_sameHalls line).trans ?_
  split
  · dsimp only
    refine .trans ?_ (notify_sameHalls _ _)
    exact (putLine_sameHalls _).trans (bumpSsn_sameHalls _)
  · split
    · exact hput _ _ _
    · exact (fetchLine_sameHalls line).trans (hput _ _ _)

/-! ## Accesses of engines -/

theorem lineRead_sameHalls (pa n : Nat) (h : Hint) : s.SameHalls (s.lineRead pa n h).2.2 := by
  unfold State.lineRead
  split
  · exact .refl s
  · exact sliceRead_sameHalls _ _

theorem lineWrite_sameHalls (pa n x : Nat) (h : Hint) : s.SameHalls (s.lineWrite pa n x h).2 := by
  unfold State.lineWrite
  split
  · dsimp only
    refine .trans ?_ (notify_sameHalls _ _)
    exact (updMem_sameHalls _).trans (bumpSsn_sameHalls _)
  · exact sliceWrite_sameHalls _ _ _ _

theorem logRefusal_sameHalls (pa kind : Nat) (r : Rqst) : s.SameHalls (s.logRefusal pa kind r) := ⟨rfl, rfl, rfl, fun _ => rfl⟩

theorem engRead_sameHalls (placed : Bool) (r : Rqst) (kind pa n : Nat) (h : Hint) :
    s.SameHalls (s.engRead placed r kind pa n h).2 := by
  unfold State.engRead
  split
  · exact .refl s
  · exact .refl s
  · split
    · exact logRefusal_sameHalls _ _ _
    · split
      · exact .refl s
      · exact lineRead_sameHalls _ _ _

theorem engWrite_sameHalls (placed : Bool) (r : Rqst) (kind pa n x : Nat) (h : Hint) :
    s.SameHalls (s.engWrite placed r kind pa n x h).2 := by
  unfold State.engWrite
  split
  · exact .refl s
  · exact .refl s
  · split
    · exact logRefusal_sameHalls _ _ _
    · split
      · exact .refl s
      · split
        · exact .refl s
        · split
          · exact .refl s
          · exact lineWrite_sameHalls _ _ _ _

/-! ## The regions of a save area -/

theorem putLines_sameHalls (pa : Nat) (f : Nat → Byte) (n : Nat) : s.SameHalls (s.putLines pa f n) := by
  induction n with
  | zero => exact .refl s
  | succ n ih => exact ih.trans (engWrite_sameHalls _ _ _ _ _ _ _)

theorem takeLines_sameHalls (pa : Nat) (w : Nat → Nat → Mems → Mems) (n : Nat) : s.SameHalls (s.takeLines pa w n) := by
  induction n with
  | zero => exact .refl s
  | succ n ih =>
    have h := ih.trans (engRead_sameHalls false saveRqst kERead (pa + 128 * n) 128 .df)
    dsimp only [State.takeLines]
    split
    · rename_i u he
      rw [he] at h
      exact h.trans (updMem_sameHalls _)
    · rename_i u _ he
      rw [he] at h
      exact h

theorem lineBytes_sameHalls (pa n : Nat) : s.SameHalls (s.lineBytes pa n).2 := by
  induction n with
  | zero => exact .refl s
  | succ n ih =>
    have h := ih.trans (engRead_sameHalls false saveRqst kERead (pa + 128 * n) 128 .df)
    dsimp only [State.lineBytes]
    split
    · rename_i u he
      rw [he] at h
      exact h
    · rename_i u _ he
      rw [he] at h
      exact h

theorem flushU_sameHalls (h : Hall) : s.SameHalls (s.flushU h) :=
  foldl_sameHalls (fun _ _ => foldl_sameHalls (fun _ _ => recall_sameHalls _) _) _

theorem saveTile_sameHalls (serial base k tile : Nat) : s.SameHalls (s.saveTile serial base k tile) := by
  unfold State.saveTile
  dsimp only
  refine .trans ?_ (putLines_sameHalls _ _ _)
  refine .trans ?_ (foldl_sameHalls (fun _ _ => putLines_sameHalls _ _ _) _)
  refine .trans ?_ (foldl_sameHalls (fun _ _ => (putLines_sameHalls _ _ _).trans (putLines_sameHalls _ _ _)) _)
  refine .trans ?_ (foldl_sameHalls (fun _ _ => putLines_sameHalls _ _ _) _)
  refine .trans ?_ (foldl_sameHalls (fun _ _ => putLines_sameHalls _ _ _) _)
  exact ((putLines_sameHalls _ _ _).trans (putLines_sameHalls _ _ _)).trans (putLines_sameHalls _ _ _)

theorem restoreTile_sameHalls (base k tile : Nat) : s.SameHalls (s.restoreTile base k tile) := by
  unfold State.restoreTile
  dsimp only
  refine .trans ?_ (takeLines_sameHalls _ _ _)
  refine .trans ?_ (foldr_sameHalls (fun _ _ => takeLines_sameHalls _ _ _) _)
  refine .trans ?_ (foldr_sameHalls (fun _ _ => (takeLines_sameHalls _ _ _).trans (takeLines_sameHalls _ _ _)) _)
  exact (takeLines_sameHalls _ _ _).trans (foldr_sameHalls (fun _ _ => takeLines_sameHalls _ _ _) _)

end Sys2Proof.Machine
end

section
/-!
SUPPORT. Finite maps: the values of some keys changed, and the values of a list of keys written.
-/

namespace Sys2Proof

variable {α : Type} {d : α}

/-- What is read of a map some of whose values have changed, where the change leaves what an unlisted key reads as. -/
theorem SMap.get_mapIf {β : Type} (read : α → β) {p : Nat → Bool} {g : α → α} {k : Nat} (hd : read (g d) = read d) (m : SMap α) :
    read (SMap.get d (m.map (fun e => if p e.1 then (e.1, g e.2) else e)) k) =
      if p k then read (g (SMap.get d m k)) else read (SMap.get d m k) := by
  induction m with
  | nil => exact ((ite_congr rfl (fun _ => hd) (fun _ => rfl)).trans (ite_self _)).symm
  | cons e m ih =>
    have hkey : (if p e.1 then (e.1, g e.2) else e).1 = e.1 := by split <;> rfl
    rw [List.map_cons, SMap.get, SMap.get, hkey]
    by_cases he : e.1 = k
    · rw [if_pos he, if_pos he, he]
      by_cases hp : p k = true
      · rw [if_pos hp, if_pos hp]
      · rw [if_neg hp, if_neg hp]
    · rw [if_neg he, if_neg he, ih]

/-- Every key of a list that is written holds a value that was written. -/
theorem SMap.get_foldl_put {P : α → Prop} {f : SMap α → Nat → α} (hf : ∀ m k, P (f m k)) (l : List Nat) {m : SMap α} {k : Nat}
    (hk : k ∈ l ∨ P (SMap.get d m k)) : P (SMap.get d (l.foldl (fun m k => m.put k (f m k)) m) k) := by
  induction l generalizing m with
  | nil => exact hk.resolve_left List.not_mem_nil
  | cons q l ih =>
    refine ih ?_
    by_cases hq : q = k
    · subst hq
      exact .inr (by rw [SMap.get_put_same]; exact hf _ _)
    · rw [SMap.get_put_other _ _ hq]
      exact hk.imp_left fun h => (List.mem_cons.mp h).resolve_left (Ne.symm hq)

end Sys2Proof
end

section
/-!
SUPPORT. The seal of an image: its VER, its SUM and what it holds (R160, R245, R419).
-/

namespace Sys2Proof.Machine

open Sys2Proof

variable {f : Nat → Byte} {n : Nat}

/-- The contents of an image, which its SUM covers. -/
def imageContents (f : Nat → Byte) (n : Nat) : List Byte := (List.range (n - 8)).map (fun k => f (k + 8))

theorem sealedByte_contents {i : Nat} (h : 8 ≤ i) : sealedByte f n i = f i := by
  rw [sealedByte, if_neg (by omega), if_neg (by omega), if_neg (by omega)]

theorem map_byteN (n x : Nat) : (List.range n).map (byteN x) = bytesOf n x := by
  induction n generalizing x with
  | zero => rfl
  | succ n ih =>
    have hhead : byteN x 0 = BitVec.ofNat 8 x := by rw [byteN, Nat.mul_zero, Nat.pow_zero, Nat.div_one]
    have htail : byteN x ∘ Nat.succ = byteN (x / 256) := by
      funext i
      rw [Function.comp_apply, byteN, byteN, Nat.div_div_eq_div_mul, Nat.mul_succ, Nat.pow_add, Nat.mul_comm]
    rw [List.range_succ_eq_map, List.map_cons, List.map_map, hhead, htail, ih, bytesOf]

/-- An image byte by byte: VER, zero, SUM and the contents. -/
theorem map_sealedByte (h : 8 ≤ n) : (List.range n).map (sealedByte f n) =
    1 :: 0 :: 0 :: 0 :: (bytesOf 4 (crc32c (imageContents f n)).toNat ++ imageContents f n) := by
  obtain ⟨m, rfl⟩ := Nat.exists_eq_add_of_le h
  have hhead : (List.range 8).map (sealedByte f (8 + m)) =
      1 :: 0 :: 0 :: 0 :: bytesOf 4 (crc32c (imageContents f (8 + m))).toNat := by
    rw [← map_byteN]
    rfl
  have htail : ((List.range m).map (8 + ·)).map (sealedByte f (8 + m)) = imageContents f (8 + m) := by
    rw [List.map_map, imageContents, Nat.add_sub_cancel_left]
    refine List.map_congr_left fun k _ => ?_
    rw [Function.comp_apply, sealedByte_contents (Nat.le_add_right ..), Nat.add_comm]
  rw [List.range_add, List.map_append, hhead, htail]
  rfl

theorem sealVer_image (h : 8 ≤ n) : sealVer ((List.range n).map (sealedByte f n)) = true := by
  rw [map_sealedByte h]
  rfl

theorem sealSum_image (h : 8 ≤ n) : sealSum ((List.range n).map (sealedByte f n)) = true := by
  have hsum : ofBytes (bytesOf 4 (crc32c (imageContents f n)).toNat) = (crc32c (imageContents f n)).toNat :=
    ofBytes_bytesOf_toNat _ rfl
  rw [map_sealedByte h]
  exact beq_iff_eq.mpr hsum

theorem zeros_image (h : 8 ≤ n) : (((List.range n).map (sealedByte f n)).drop 2).take 2 = [0, 0] := by
  rw [map_sealedByte h]
  rfl

theorem getD_image {i : Nat} (h : 8 ≤ i) (hi : i < n) : ((List.range n).map (sealedByte f n)).getD i 0 = f i := by
  rw [List.getD_eq_getElem _ _ (by simpa using hi), List.getElem_map, List.getElem_range, sealedByte_contents h]

end Sys2Proof.Machine
end

section
/-!
SUPPORT. PRECMD: the commands that are ignored, SAVE, and the checks of RESTORE in their order (R418, R420, R421).
-/

namespace Sys2Proof.Machine

open Sys2Proof

variable {s : State} {val : BitVec 64}

theorem precmdOk_iff : precmdOk val = true ↔ fld val 19 45 = 0 ∧ fld val 12 4 = 0 ∧ fld val 3 5 = 0 := by
  simp only [precmdOk, Bool.and_eq_true, beq_iff_eq, and_assoc]

theorem exec_precmdSave (val : BitVec 64) : exec (.precmdSave val) s = .next (s.precmdSave val) := rfl

theorem precmdSave_ignored (h : s.sys.prestat = 1 ∨ precmdOk val = false ∨ fld val 0 2 ≠ 1) : s.precmdSave val = s := by
  refine if_pos ?_
  rwa [Bool.not_eq_true']

theorem precmdRestore_ignored (h : s.sys.prestat = 1 ∨ precmdOk val = false ∨ fld val 0 2 ≠ 2) : s.precmdRestore val = s := by
  refine if_pos ?_
  rwa [Bool.not_eq_true']

theorem exec_precmdRestore_ignored (h : s.sys.prestat = 1 ∨ precmdOk val = false ∨ fld val 0 2 ≠ 2) :
    exec (.precmdRestore val) s = .next s := by
  change Host.Outcome.next (if _ then s else s.precmdRestore val) = _
  rw [precmdRestore_ignored h, ite_self]

/-- A command with a reserved bit set, or while another is at work, is ignored (R418). -/
theorem precmd_ignored {val : Word} (hi : s.sys.prestat = 1 ∨ fld val 19 45 ≠ 0 ∨ fld val 12 4 ≠ 0 ∨ fld val 3 5 ≠ 0) :
    exec (.precmdSave val) s = .next s ∧ exec (.precmdRestore val) s = .next s := by
  have hbad : s.sys.prestat = 1 ∨ precmdOk val = false := by
    rwa [← Bool.not_eq_true, precmdOk_iff, not_and_or, not_and_or]
  have hor {p : Prop} : s.sys.prestat = 1 ∨ precmdOk val = false ∨ p := hbad.imp_right .inl
  exact ⟨by rw [exec_precmdSave, precmdSave_ignored hor], exec_precmdRestore_ignored hor⟩

theorem exec_precmdRestore_waits (h : s.precmdWaits val = true) : exec (.precmdRestore val) s = .next s := congrArg _ (if_pos h)

theorem exec_precmdRestore_acts (h : s.precmdWaits val = false) : exec (.precmdRestore val) s = .next (s.precmdRestore val) :=
  congrArg _ (if_neg (Bool.eq_false_iff.mp h))

/-- PRECMD holds the command. -/
def State.withPrecmd (s : State) (val : Word) : State := { s with sys := { s.sys with precmd := val } }

section
variable (hidle : s.sys.prestat ≠ 1) (hok : precmdOk val = true)
include hidle hok

/-! ## SAVE -/

section
variable (hop : fld val 0 2 = 1)
include hop

theorem precmdSave_eq : s.precmdSave val = match s.hallAt (fld val 8 4) (fld val 16 3) with
    | none => (s.withPrecmd val).setPrestat 3
    | some h =>
      if h.stop ≠ .none then (s.withPrecmd val).setPrestat 3
      else ((s.withPrecmd val).updHall h.id (fun h => { h with stop := .save (bitAt val 2) })).setPrestat 1 := by
  refine if_neg ?_
  simp [hidle, hok, hop]

theorem precmdSave_noHall (h : s.hallAt (fld val 8 4) (fld val 16 3) = none) :
    s.precmdSave val = (s.withPrecmd val).setPrestat 3 := by
  rw [precmdSave_eq hidle hok hop, h]

theorem precmdSave_stops {h : Hall} (hh : s.hallAt (fld val 8 4) (fld val 16 3) = some h) (hs : h.stop = .none) :
    s.precmdSave val = ((s.withPrecmd val).updHall h.id (fun x => { x with stop := .save (bitAt val 2) })).setPrestat 1 := by
  rw [precmdSave_eq hidle hok hop, hh]
  exact if_neg (not_not.mpr hs)

end

end

theorem hallAt_eq_none {x y : Nat} (h : ∀ h ∈ s.fes.halls, h.ox ≠ x ∨ h.oy ≠ y) : s.hallAt x y = none := by
  refine List.find?_eq_none.mpr fun k hk => ?_
  simpa [imp_iff_not_or] using h k hk

/-! ## RESTORE -/

/-- The hall of a save at a new origin, its tiles taken and its bays frozen (R421). -/
def State.takeTiles (s : State) (x y : Nat) (sv : Saved) : State :=
  let h := { sv.hall with ox := x, oy := y, stop := .none, id := if (s.hall? sv.hall.id).isSome then s.fes.nextHall else sv.hall.id }
  { s with
    fes := { s.fes with halls := s.fes.halls ++ [{ h with stop := .save sv.move }], nextHall := s.fes.nextHall + 1 }
    tiles := h.tiles.foldl (fun m t => m.put t { SMap.get ({} : Tile) m t with hall := some h.id }) s.tiles
    bays := (h.tiles.flatMap (fun t => (List.range 8).map (fun j => t * 8 + j))).foldl (fun m k =>
      m.put k { SMap.get ({} : Bay) m k with frozen := true }) s.bays }

/-- RESTORE of the save `sv` to the origin (x, y): its image, the room for its hall, and whether it may move. -/
def State.restoreSave (s : State) (base x y : Nat) (sv : Saved) : State :=
  let r := s.imageOk base sv
  if !r.1 || r.2.areaUnbacked base sv.hall.areaBytes then r.2.setPrestat 4
  else if !r.2.fits x y sv.hall.w sv.hall.h then r.2.setPrestat 5
  else if !sv.move && (sv.hall.ox, sv.hall.oy) != (x, y) then r.2.setPrestat 6
  else (r.2.takeTiles x y sv).setPrestat 1

/-- RESTORE with the header `bs` to the origin (x, y). -/
def State.restoreHeader (s : State) (base x y : Nat) (bs : List Byte) : State :=
  if !sealVer bs || !sealSum bs then s.setPrestat 4
  else match s.savedAt bs with
    | none => s.setPrestat 4
    | some sv => s.restoreSave base x y sv

/-- RESTORE to the origin (x, y), by what reading the header came to. -/
def restoreFrom (base x y : Nat) : Option (List Byte) × State → State
  | (none, s) => s.setPrestat 4
  | (some bs, s) => s.restoreHeader base x y bs

/-- RESTORE to the origin (x, y). -/
def State.restoreTo (s : State) (x y : Nat) : State := restoreFrom s.saveBase x y (s.lineBytes s.saveBase 512)

theorem precmdRestore_eq (hidle : s.sys.prestat ≠ 1) (hok : precmdOk val = true) (hop : fld val 0 2 = 2) :
    s.precmdRestore val = (s.withPrecmd val).restoreTo (fld val 8 4) (fld val 16 3) := by
  have hgo : ¬(s.sys.prestat = 1 ∨ (!precmdOk val) = true ∨ fld val 0 2 ≠ 2) := by simp [hidle, hok, hop]
  unfold State.precmdRestore State.restoreTo State.withPrecmd
  rw [if_neg hgo]
  -- The save area and the number of lines are made opaque: comparing the two sides must not unfold the reading of 512 lines.
  obtain ⟨base, hbase⟩ : ∃ base, base = State.saveBase := ⟨_, rfl⟩
  obtain ⟨n, hn⟩ : ∃ n, n = 512 := ⟨_, rfl⟩
  rw [← hbase, ← hn]
  rfl

/-- A RESTORE that acts reads the header of the save area first (R421). -/
theorem exec_precmdRestore_reads {val : Word} (hidle : s.sys.prestat ≠ 1) (hok : precmdOk val = true) (hop : fld val 0 2 = 2)
    (hgo : s.precmdWaits val = false) : exec (.precmdRestore val) s = .next
      (restoreFrom s.saveBase (fld val 8 4) (fld val 16 3) ((s.withPrecmd val).lineBytes s.saveBase 512)) :=
  (exec_precmdRestore_acts hgo).trans (congrArg _ (precmdRestore_eq hidle hok hop))

section
variable {base x y : Nat} {bs : List Byte} {sv : Saved}

theorem restoreFrom_refused {r : Option (List Byte) × State} (h : r.1 = none) : (restoreFrom base x y r).sys.prestat = 4 := by
  obtain ⟨l, t⟩ := r
  cases h
  rfl

theorem restoreFrom_read {r : Option (List Byte) × State} (h : r.1 = some bs) :
    restoreFrom base x y r = r.2.restoreHeader base x y bs := by
  obtain ⟨l, t⟩ := r
  cases h
  rfl

theorem restoreHeader_bad (h : sealVer bs = false ∨ sealSum bs = false ∨ s.savedAt bs = none) :
    (s.restoreHeader base x y bs).sys.prestat = 4 := by
  unfold State.restoreHeader
  split
  · rfl
  · rename_i hseal
    obtain ⟨hver, hsum⟩ : sealVer bs = true ∧ sealSum bs = true := by simpa using hseal
    obtain h | h | h := h
    · exact absurd hver (Bool.eq_false_iff.mp h)
    · exact absurd hsum (Bool.eq_false_iff.mp h)
    · rw [h]
      rfl

theorem restoreHeader_known (hver : sealVer bs = true) (hsum : sealSum bs = true) (hsv : s.savedAt bs = some sv) :
    s.restoreHeader base x y bs = s.restoreSave base x y sv := by
  rw [State.restoreHeader, hver, hsum, hsv]
  rfl

theorem restoreSave_bad (h : (s.imageOk base sv).1 = false ∨ (s.imageOk base sv).2.areaUnbacked base sv.hall.areaBytes = true) :
    (s.restoreSave base x y sv).sys.prestat = 4 := by
  refine congrArg (fun t : State => t.sys.prestat) (if_pos ?_) |>.trans rfl
  rwa [Bool.or_eq_true, Bool.not_eq_true']

variable (hok : (s.imageOk base sv).1 = true) (hback : (s.imageOk base sv).2.areaUnbacked base sv.hall.areaBytes = false)
include hok hback

theorem restoreSave_sound : s.restoreSave base x y sv =
    if !(s.imageOk base sv).2.fits x y sv.hall.w sv.hall.h then (s.imageOk base sv).2.setPrestat 5
    else if !sv.move && (sv.hall.ox, sv.hall.oy) != (x, y) then (s.imageOk base sv).2.setPrestat 6
    else ((s.imageOk base sv).2.takeTiles x y sv).setPrestat 1 := by
  refine if_neg ?_
  rw [hok, hback]
  exact Bool.false_ne_true

theorem restoreSave_noFit (hfit : (s.imageOk base sv).2.fits x y sv.hall.w sv.hall.h = false) :
    (s.restoreSave base x y sv).sys.prestat = 5 := by
  rw [restoreSave_sound hok hback, hfit]
  rfl

variable (hfit : (s.imageOk base sv).2.fits x y sv.hall.w sv.hall.h = true)
include hfit

theorem restoreSave_notMovable (hmove : sv.move = false) (hat : ¬(sv.hall.ox = x ∧ sv.hall.oy = y)) :
    (s.restoreSave base x y sv).sys.prestat = 6 := by
  have hne : ((sv.hall.ox, sv.hall.oy) != (x, y)) = true := by simpa [Prod.ext_iff] using hat
  rw [restoreSave_sound hok hback, hfit, hmove, hne]
  rfl

theorem restoreSave_takes (hgo : sv.move = true ∨ sv.hall.ox = x ∧ sv.hall.oy = y) :
    s.restoreSave base x y sv = ((s.imageOk base sv).2.takeTiles x y sv).setPrestat 1 := by
  have hstay : ¬(!sv.move && (sv.hall.ox, sv.hall.oy) != (x, y)) = true := by
    obtain hmove | ⟨rfl, rfl⟩ := hgo
    · simp [hmove]
    · simp
  rw [restoreSave_sound hok hback, hfit, if_neg hstay]
  rfl

end

/-- Each tile of the rectangle belongs to the restored hall. -/
theorem tile_takeTiles {x y k : Nat} {sv : Saved} (hk : k < sv.hall.w * sv.hall.h) :
    ((s.takeTiles x y sv).tile ((y + k / sv.hall.w) * 16 + x + k % sv.hall.w)).hall.isSome = true :=
  SMap.get_foldl_put (d := ({} : Tile)) (P := fun t => t.hall.isSome = true) (fun _ _ => rfl) _
    (.inl (List.mem_map.mpr ⟨k, List.mem_range.mpr hk, rfl⟩))

/-- A RESTORE that finds room takes the tiles of its rectangle (R421). -/
theorem restoreSave_restores {base x y : Nat} {sv : Saved} (hsound : (s.imageOk base sv).1 = true)
    (hback : (s.imageOk base sv).2.areaUnbacked base sv.hall.areaBytes = false)
    (hfit : (s.imageOk base sv).2.fits x y sv.hall.w sv.hall.h = true)
    (hgo : sv.move = true ∨ sv.hall.ox = x ∧ sv.hall.oy = y) :
    (s.restoreSave base x y sv).sys.prestat = 1 ∧ ∀ k, k < sv.hall.w * sv.hall.h →
      ((s.restoreSave base x y sv).tile ((y + k / sv.hall.w) * 16 + x + k % sv.hall.w)).hall.isSome = true := by
  rw [restoreSave_takes hsound hback hfit hgo]
  exact ⟨rfl, fun k hk => tile_takeTiles hk⟩

end Sys2Proof.Machine
end


section
/-!
SUPPORT. SAVE_DONE and RESTORE_DONE: when a save or a restore ends, and what it leaves of the halls, their tiles and their cores
(R419 to R421).
-/

namespace Sys2Proof.Machine

open Sys2Proof

variable {s : State} {h : Hall}

/-! ## Freed tiles -/

theorem owner_freeTiles (k : Nat) : ((s.freeTiles h).tile k).hall = if h.tiles.contains k then none else (s.tile k).hall :=
  SMap.get_mapIf (p := h.tiles.contains) (g := fun t => { t with hall := none }) Tile.hall rfl s.tiles

/-- A core whose hall is gone. -/
def Core.freed (c : Core) : Core := { c with stopped := true, level := false, lv0 := c.lv0.freed, lv1 := c.lv1.freed, q := [] }

theorem hold_freeTiles {ck : Nat} (hc : h.hasCore ck = true) :
    ((s.freeTiles h).core ck).lv0.hold = .idle ∧ ((s.freeTiles h).core ck).lv1.hold = .idle := by
  have hread {β : Type} (read : Core → β) (hd : read (Core.freed {}) = read {}) :
      read ((s.freeTiles h).core ck) = read (s.core ck).freed :=
    (SMap.get_mapIf (p := h.hasCore) (g := Core.freed) read hd s.cores).trans (if_pos hc)
  exact ⟨hread (fun c => c.lv0.hold) rfl, hread (fun c => c.lv1.hold) rfl⟩

/-! ## SAVE_DONE -/

/-- Everything of the hall has stopped, drained and come in, and its save area can be written (R420). -/
def State.saveReady (s : State) (h : Hall) : Prop :=
  s.allStopped h = true ∧ s.drained h = true ∧ s.resultsIn h = true ∧ s.movesDone h = true ∧ s.areaFree s.saveBase h.areaBytes = true

/-- The image of the hall has been written (R419). -/
def State.writeImage (s : State) (h : Hall) : State :=
  ((List.range (h.w * h.h)).foldl (fun t k => t.saveTile s.fes.serial s.saveBase k (h.tiles.getD k 0)) (s.flushU h)).putLines
    s.saveBase (sealedByte (Config.imageByte s.fes.serial) 0x10000) 512

/-- The FES keeps what the opaque parts of the image stand for. -/
def State.keepSave (s : State) (sv : Saved) : State :=
  { s with fes := { s.fes with saves := s.fes.saves ++ [sv], serial := sv.serial + 1, away := sv.hall.id :: s.fes.away } }

theorem not_saveReady_iff : ¬s.saveReady h ↔
    !s.allStopped h ∨ !s.drained h ∨ !s.resultsIn h ∨ !s.movesDone h ∨ !s.areaFree s.saveBase h.areaBytes := by
  simp only [State.saveReady, not_and_or, Bool.not_eq_true, Bool.not_eq_true']

theorem writeImage_sameHalls : s.SameHalls (s.writeImage h) :=
  ((flushU_sameHalls h).trans (foldl_sameHalls (fun _ _ => saveTile_sameHalls _ _ _ _) _)).trans (putLines_sameHalls _ _ _)

/-- A save that ends leaves its hall's tiles and cores free, and everything else of the halls as it was (R405, R420). -/
theorem keepSave_frees {t : State} {sv : Saved} (hsame : s.SameHalls t) :
    let e := ((t.freeTiles h).keepSave sv).setPrestat 2
    e.fes.halls = s.fes.halls.filter (fun x => x.id != h.id) ∧
      (∀ k, (e.tile k).hall = if h.tiles.contains k then none else (s.tile k).hall) ∧
      e.sys.mgmt = s.sys.mgmt.filter (fun m => !h.hasCore m.1) ∧
      ∀ ck, h.hasCore ck = true → (e.core ck).lv0.hold = .idle ∧ (e.core ck).lv1.hold = .idle :=
  ⟨congrArg _ hsame.halls, fun k => hsame.owner k ▸ owner_freeTiles k, congrArg _ hsame.mgmt, fun _ => hold_freeTiles⟩

theorem exec_saveDone_idle (hi : s.saving = none ∨ s.sys.prestat ≠ 1 ∨ fld s.sys.precmd 0 2 ≠ 1) : exec .saveDone s = .next s := by
  change execSaveDone s = _
  unfold execSaveDone
  split
  · rfl
  · rename_i hs
    refine congrArg _ (if_pos ?_)
    rw [hs] at hi
    simp only [reduceCtorEq, false_or] at hi
    exact hi.imp_right .inl

section
variable (hs : s.saving = some h) (hp : s.sys.prestat = 1) (hop : fld s.sys.precmd 0 2 = 1)
include hs hp hop

theorem exec_saveDone_eq : exec .saveDone s = .next (
    if !s.allStopped h ∨ !s.drained h ∨ !s.resultsIn h ∨ !s.movesDone h ∨ !s.areaFree s.saveBase h.areaBytes then s
    else (((s.writeImage h).freeTiles h).keepSave ((s.flushU h).snapshot h s.fes.serial s.saveBase)).setPrestat 2) := by
  change execSaveDone s = _
  unfold execSaveDone State.writeImage
  obtain ⟨base, hbase⟩ : ∃ base, base = State.saveBase := ⟨_, rfl⟩
  obtain ⟨put, hput⟩ : ∃ put, put = State.putLines := ⟨_, rfl⟩
  rw [hs, ← hbase, ← hput]
  simp only [hp, hop, ne_eq, not_true_eq_false, false_or]
  rfl

theorem exec_saveDone_waits (hw : ¬s.saveReady h) : exec .saveDone s = .next s := by
  rw [exec_saveDone_eq hs hp hop, if_pos (not_saveReady_iff.mp hw)]

theorem exec_saveDone_saves (hr : s.saveReady h) : exec .saveDone s = .next ((((s.writeImage h).freeTiles h).keepSave
    ((s.flushU h).snapshot h s.fes.serial s.saveBase)).setPrestat 2) := by
  rw [exec_saveDone_eq hs hp hop, if_neg (fun hw => not_saveReady_iff.mpr hw hr)]

end

/-! ## RESTORE_DONE -/

/-- The image of the hall has been read back (R421). -/
def State.readImage (s : State) (base : Nat) (h : Hall) (sv : Saved) : State :=
  ((List.range (h.w * h.h)).foldr (fun k t => t.restoreTile base k (h.tiles.getD k 0)) s).reload sv h

/-- The hall of a restore goes on, or meets the cancellation that came meanwhile (R421). -/
def Hall.released (cycle : Nat) (x : Hall) : Hall :=
  { x with stop := if x.doomed then .cancel else .none, doomed := false, sampled := cycle, lastTick := cycle }

theorem halls_readImage (base : Nat) (sv : Saved) : (s.readImage base h sv).fes.halls = s.fes.halls :=
  (foldr_sameHalls (fun _ _ => restoreTile_sameHalls _ _ _) (List.range (h.w * h.h))).halls

theorem cycle_readImage (base : Nat) (sv : Saved) : (s.readImage base h sv).cycle = s.cycle :=
  (foldr_sameHalls (fun _ _ => restoreTile_sameHalls _ _ _) (List.range (h.w * h.h))).cycle

/-- A released image leaves the halls as they were, but for the one that is released (R421). -/
theorem halls_released (base n : Nat) (sv : Saved) :
    ((((s.lineBytes base n).2.readImage base h sv).updHall h.id (Hall.released s.cycle)).setPrestat 2).fes.halls =
      updFirst (fun x => x.id == h.id) (Hall.released s.cycle) s.fes.halls :=
  congrArg (updFirst _ _) ((halls_readImage base sv).trans (lineBytes_sameHalls base n).halls)

theorem exec_restoreDone_idle (hi : s.saving = none ∨ s.sys.prestat ≠ 1 ∨ fld s.sys.precmd 0 2 ≠ 2) :
    exec .restoreDone s = .next s := by
  change execRestoreDone s = _
  unfold execRestoreDone
  split
  · rfl
  · rename_i hgo
    rw [hi.resolve_right hgo]

section
variable (hs : s.saving = some h) (hp : s.sys.prestat = 1) (hop : fld s.sys.precmd 0 2 = 2)
include hs hp hop

theorem exec_restoreDone_eq : exec .restoreDone s = .next (
    if !s.areaFree s.saveBase h.areaBytes then s
    else
      let r := s.lineBytes s.saveBase 512
      match r.1.bind r.2.savedAt with
      | none => (r.2.freeTiles h).setPrestat 4
      | some sv => ((r.2.readImage s.saveBase h sv).updHall h.id (Hall.released (r.2.readImage s.saveBase h sv).cycle)).setPrestat 2) := by
  change execRestoreDone s = _
  unfold execRestoreDone
  obtain ⟨base, hbase⟩ : ∃ base, base = State.saveBase := ⟨_, rfl⟩
  obtain ⟨n, hn⟩ : ∃ n, n = 512 := ⟨_, rfl⟩
  rw [if_neg (not_or.mpr ⟨not_not.mpr hp, not_not.mpr hop⟩), hs, ← hbase, ← hn]
  rfl

theorem exec_restoreDone_waits (ha : s.areaFree s.saveBase h.areaBytes = false) : exec .restoreDone s = .next s := by
  rw [exec_restoreDone_eq hs hp hop, ha]
  rfl

variable (ha : s.areaFree s.saveBase h.areaBytes = true)
include ha

theorem exec_restoreDone_unknown (hf : (s.lineBytes s.saveBase 512).1.bind (s.lineBytes s.saveBase 512).2.savedAt = none) :
    exec .restoreDone s = .next (((s.lineBytes s.saveBase 512).2.freeTiles h).setPrestat 4) := by
  rw [exec_restoreDone_eq hs hp hop, ha]
  dsimp only
  rw [hf]
  rfl

theorem exec_restoreDone_releases {sv : Saved}
    (hf : (s.lineBytes s.saveBase 512).1.bind (s.lineBytes s.saveBase 512).2.savedAt = some sv) :
    exec .restoreDone s = .next ((((s.lineBytes s.saveBase 512).2.readImage s.saveBase h sv).updHall h.id
      (Hall.released s.cycle)).setPrestat 2) := by
  have hcycle := (cycle_readImage (s := (s.lineBytes s.saveBase 512).2) (h := h) s.saveBase sv).trans
    (lineBytes_sameHalls s.saveBase 512).cycle
  rw [exec_restoreDone_eq hs hp hop, ha]
  dsimp only
  rw [hf, ← hcycle]
  rfl

end

end Sys2Proof.Machine
end

section
/-!
PROOFS. The statements of 07_copy_unit.
-/

namespace Sys2Proof

open Machine

/-- Settles O31: what issuing CPSET, CPGET, CPGO, CPCAN and SEALR comes to; then the stages of a copy, its shape record by
`State.checkRecord`, and the order of its elements by `elemAddr_walk`. -/
theorem copyUnit : Obligations.CopyUnit := by
  unfold Obligations.CopyUnit
  refine ⟨fun s gu la idx d gs a => ?_, fun s bk id c => ⟨fun hroom hc hrec => ?_, fun h => ?_, fun hc => ?_, ?_⟩⟩
  · intro bk b set_ get_ go_ can
    refine ⟨cpset_performs, cpget_performs, fun hi => ?_, fun hi => ?_, fun hi => ?_⟩
    · intro c
      refine ⟨fun v hv => runs_trap hi.toIssues (cpgoBody_aperture hv), ?_⟩
      intro s1 s2 scores
      have hscores : s.cpgoScores gs la = scores := congrArg (State.takeScores s2 s.cur s1.ctr) (spansAtIssue_eq c)
      refine ⟨fun hb hwait => runs_stall hi rfl (cpgoBody_stalls hb (hscores ▸ hwait)), fun t hb hroom hturn ht => ?_⟩
      rw [← hscores] at ht
      have hbay := bay_afterCpgo (d := d) ht
      refine ⟨s.afterCpgo t d, cpgo_performs ht hi hb hroom hturn, rg_afterCpgo d, ?_, ?_, fun k hk => ?_, pend_afterCpgo ht,
        mem_afterCpgo ht, core_afterCpgo ht, fun lv r hr => g_afterCpgo ht lv hr, v_afterCpgo ht⟩
      · rw [hbay, if_pos rfl]
        rfl
      · rw [hbay, if_pos rfl]
      · rw [hbay, if_neg (Ne.symm hk)]
    · exact ⟨cpcan_marks hi, cpcan_finds_none hi⟩
    · exact ⟨sealr_misaligned hi, fun x l t t' ha hr hw => sealr_seals hi ha hr hw⟩
  · exact ⟨exec_copyStart_badShape hroom hc hrec, fun h hs => exec_copyStart_walks hroom hc hrec hs⟩
  · intro c1 s1 runs
    exact ⟨fun hsc => startWalk_scored hsc h, fun hsc => ⟨startWalk_waits hsc, fun t ht => startWalk_takes hsc ht⟩⟩
  · refine ⟨fun hst hfork ha hw x t hr => ?_, exec_shapeRecordFetch_shaped hc, exec_moveElement_cancelled hc,
      fun hst hfork hx ha hw hbuf hbad hi x t hr => ?_, exec_copyScout_passes hc, exec_copyComplete_delivers hc⟩
    · rw [exec_shapeRecordFetch_read hc hst hfork ha hw hr]
      exact ⟨fun hv => congrArg _ (checkRecord_serial hv), fun hv hs => congrArg _ (checkRecord_sum hv hs), fun hv hs =>
        ⟨fun h => congrArg _ (checkRecord_badShape hv hs h), fun h h0 h1 hh => congrArg _ (checkRecord_sound hv hs h0 h1 hh)⟩⟩
    · intro held w
      rw [exec_moveElement_read hc hst hfork hx ha hw hbuf hbad hi hr]
      exact ⟨fun y hy => congrArg _ (moveOutcome_ok hy), fun hk => congrArg _ (moveOutcome_skip hk)⟩
  · exact fun base n0 n1 n2 k0 k1 k2 s0 s1 s2 h0 h1 _ => elemAddr_walk base s0 s1 s2 h0 h1

/-- Settles O54: by the cases of each of the four steps, and by the layout of a sealed image. -/
theorem savingAndRestoring : Obligations.SavingAndRestoring := by
  unfold Obligations.SavingAndRestoring
  refine ⟨fun s val => precmd_ignored, fun s val hidle hver hrest hlow => ?_, fun s => ⟨exec_saveDone_idle, exec_restoreDone_idle,
    fun h hs hp => ⟨fun hop => ?_, fun hop => ?_⟩⟩, fun f n hn => ?_⟩
  · have hok : precmdOk val = true := precmdOk_iff.mpr ⟨hver, hrest, hlow⟩
    refine ⟨fun hop => congrArg _ (precmdSave_ignored (.inr (.inr hop))), fun hop => exec_precmdRestore_ignored (.inr (.inr hop)),
      fun hop => ⟨fun hno => ?_, fun h hh hstop => ?_⟩, fun _ => exec_precmdRestore_waits, fun hop hgo => ?_⟩
    · exact congrArg Host.Outcome.next (precmdSave_noHall hidle hok hop (hallAt_eq_none hno))
    · exact ⟨_, congrArg Host.Outcome.next (precmdSave_stops hidle hok hop hh hstop), rfl, rfl⟩
    · refine ⟨_, exec_precmdRestore_reads hidle hok hop hgo,
        restoreFrom_refused (r := (s.withPrecmd val).lineBytes s.saveBase 512), fun bs hread => ?_⟩
      rw [restoreFrom_read (r := (s.withPrecmd val).lineBytes s.saveBase 512) hread]
      refine ⟨restoreHeader_bad, fun sv hver hsum hsv => ?_⟩
      rw [restoreHeader_known (s := ((s.withPrecmd val).lineBytes s.saveBase 512).2) hver hsum hsv]
      exact ⟨restoreSave_bad, fun hsound hback => ⟨restoreSave_noFit hsound hback, restoreSave_notMovable hsound hback,
        restoreSave_restores hsound hback⟩⟩
  · exact ⟨exec_saveDone_waits hs hp hop, fun hready => ⟨_, exec_saveDone_saves hs hp hop hready, rfl,
      keepSave_frees writeImage_sameHalls⟩⟩
  · refine ⟨exec_restoreDone_waits hs hp hop, fun ha => ?_⟩
    cases hfound : (s.lineBytes s.saveBase 512).1.bind (s.lineBytes s.saveBase 512).2.savedAt with
    | none => exact ⟨_, exec_restoreDone_unknown hs hp hop ha hfound, fun _ => rfl, fun hsome => absurd hsome Bool.false_ne_true⟩
    | some sv => exact ⟨_, exec_restoreDone_releases hs hp hop ha hfound, fun hnone => absurd hnone (Option.some_ne_none sv),
        fun _ => ⟨rfl, halls_released _ _ _⟩⟩
  · exact ⟨sealVer_image hn, sealSum_image hn, zeros_image hn, fun i => getD_image⟩

end Sys2Proof
end

section
/-!
SUPPORT. The records that stand in a vault: reading back one that has been put there, what putting it leaves where no watch is
on its place, and a place for one more (R262, R290, R292).
-/

namespace Sys2Proof

theorem SMap.get_default_or_mem {α : Type} (d : α) (m : SMap α) (k : Nat) : m.get d k = d ∨ (k, m.get d k) ∈ m := by
  induction m with
  | nil => exact .inl rfl
  | cons e m ih =>
    obtain ⟨j, v⟩ := e
    rw [SMap.get]
    split
    · next h => exact .inr (h ▸ List.mem_cons_self)
    · exact ih.imp_right (List.mem_cons_of_mem _)

theorem SMap.get_filter_neg {α : Type} {d : α} (p : Nat → Bool) {q : Nat} (hp : p q = false) (m : SMap α) :
    SMap.get d (m.filter (fun e => p e.1)) q = d := by
  rcases SMap.get_default_or_mem d (m.filter (fun e => p e.1)) q with h | h
  · exact h
  · exact absurd ((List.mem_filter.mp h).2.symm.trans hp) nofun

end Sys2Proof

namespace Sys2Proof.Machine

open Sys2Proof

variable {s : State}

/-! ## The bytes of a record -/

theorem recOf_bytes (r : Rec) : recOf (r.bytes % 2 ^ (8 * 32)) = r := by
  obtain ⟨code, frame, jctr, tidx⟩ := r
  have hc := code.isLt
  have hf := frame.isLt
  have hj := jctr.isLt
  have ht := tidx.isLt
  simp only [recOf, Rec.bytes, word, Rec.mk.injEq]
  -- Each word is what is left of the sum above and below it.
  refine ⟨?_, ?_, ?_, ?_⟩ <;> apply BitVec.eq_of_toNat_eq <;> rw [BitVec.toNat_ofNat] <;> omega

theorem getRec_putRec (tile off : Nat) (r : Rec) : (s.putRec tile off r).getRec tile off = r := by
  rw [State.getRec, State.putRec, notify_mem, State.updMem, readBytes_writeBytes, recOf_bytes]

/-! ## Places without a watch -/

/-- No core waits for a write of `n` bytes at a place (R262). -/
def State.Unwatched (s : State) (l : Loc) (n : Nat) : Prop := ∀ y ∈ s.tiles, ∀ m ∈ y.2.mons, m.loc.hit l n = false

theorem State.Unwatched.setTile {l : Loc} {n k : Nat} {x : Tile} (h : s.Unwatched l n) (hx : x.mons = (s.tile k).mons) :
    (s.setTile k x).Unwatched l n := by
  intro y hy m hm
  rcases SMap.mem_put hy with rfl | hy
  · rw [hx] at hm
    rcases SMap.get_default_or_mem ({} : Tile) s.tiles k with hd | hmem
    · rw [State.tile, hd] at hm
      exact absurd hm List.not_mem_nil
    · exact h _ hmem m hm
  · exact h y hy m hm

theorem notify_vault_unwatched {v o n : Nat} (h : s.Unwatched (.vault v o) n) : s.notify (.vault v o) n = s := by
  have hno : s.tiles.flatMap (fun e => e.2.mons.filter (fun m => m.loc.hit (.vault v o) n)) = [] :=
    List.flatMap_eq_nil_iff.mpr fun e he => List.filter_eq_nil_iff.mpr fun m hm => by rw [h e he m hm]; exact Bool.false_ne_true
  unfold State.notify
  simp only [hno, List.isEmpty_nil, if_true]

theorem putRec_unwatched {tile off : Nat} (h : s.Unwatched (.vault (vaultOf tile) off) 32) (r : Rec) : s.putRec tile off r =
    s.updMem (fun m => { m with vault := writeBytes m.vault (vaultOf tile * 2 ^ 24 + off) 32 r.bytes }) := by
  have hw (f : Mems → Mems) : (s.updMem f).Unwatched (.vault (vaultOf tile) off) 32 := h
  rw [State.putRec, notify_vault_unwatched (hw _)]

theorem parks_notify (l : Loc) (n : Nat) : (s.notify l n).parks = s.parks := by
  rw [notify_eq]

theorem parks_putRec (tile off : Nat) (r : Rec) : (s.putRec tile off r).parks = s.parks := by
  rw [State.putRec, parks_notify, State.updMem_parks]

theorem tile_updMem (f : Mems → Mems) (k : Nat) : (s.updMem f).tile k = s.tile k := rfl

theorem vest_putRec (tile off : Nat) (r : Rec) (k : Nat) : ((s.putRec tile off r).tile k).vest = (s.tile k).vest := by
  have hnotify (l : Loc) (t : State) : ((t.notify l 32).tile k).vest = (t.tile k).vest := by
    obtain ⟨ms, hms⟩ := tile_notify (s := t) l 32 k
    rw [hms]
  rw [State.putRec, hnotify, tile_updMem]

/-! ## A place for one more record -/

/-- Where the search ends at a taken place, all it has passed are taken too. -/
theorem taken_of_freeSlot_taken {used : List Nat} {fuel k : Nat} (h : freeSlot used fuel k ∈ used) :
    ∀ i ∈ List.range' k (fuel + 1), i ∈ used := by
  induction fuel generalizing k with
  | zero =>
    intro i hi
    rw [List.mem_singleton.mp hi]
    exact h
  | succ fuel ih =>
    rw [freeSlot] at h
    split at h
    · next hk =>
      intro i hi
      rw [List.range'_succ, List.mem_cons] at hi
      rcases hi with rfl | hi
      · exact List.contains_iff_mem.mp hk
      · exact ih h i hi
    · next hk => exact absurd (List.contains_iff_mem.mpr h) hk

/-- The search looks at one place more than are taken, so it finds one that is free. -/
theorem freeSlot_not_mem (used : List Nat) (k : Nat) : freeSlot used used.length k ∉ used := by
  intro h
  have hle := (List.subperm_of_subset List.nodup_range' (taken_of_freeSlot_taken h)).length_le
  rw [List.length_range'] at hle
  omega

theorem slot_ne_vestSlot {t : Tile} {u : VRec} (hu : u ∈ t.vest) : u.slot ≠ t.vestSlot := by
  intro h
  have hno := freeSlot_not_mem (t.vest.map (fun v => v.slot)) 0
  rw [List.length_map] at hno
  exact hno (List.mem_map.mpr ⟨u, hu, h⟩)

end Sys2Proof.Machine
end

section
/-!
SUPPORT. How records reach the queues: RECORD_PUSH, RECORD_PARK, VESTIBULE_RELEASE and SERVICE_OVERFLOW_DRAIN (R292, R293,
R299, R303, R415).
-/

namespace Sys2Proof.Machine

open Sys2Proof

variable {s : State}

/-! ## RECORD_PUSH -/

/-- The thread that offered a record is told where it still waits for the answer (R296). -/
theorem answerSpawn_eq (id : Nat) (who : Option (Nat × Bool)) (ok : Bool) : s.answerSpawn id who ok =
    match who with
    | none => s
    | some (ck, lv) =>
      if ((s.core ck).thr lv).hold = .spawn id then s.updCore ck (fun c => c.setHold lv (.answered ok)) else s.setCore ck (s.core ck) := by
  match who with
  | none => rfl
  | some (ck, lv) =>
    simp only [State.answerSpawn, State.updCore, beq_iff_eq]
    split <;> rfl

/-- A push whose way is clear, and that no earlier action of its tile waits before, finds room or does not (R293). -/
theorem exec_recordPush_arrives {id : Nat} {p : Push} (hf : s.pushes.find? (fun p => p.id == id) = some p)
    (hway : ∀ ck lv, p.from? = some (ck, lv) → s.wayBetween (tileOf ck) p.tile = .clear)
    (hfirst : p.armed = true → ∀ q ∈ s.pushes, q.armed = true → q.tile = p.tile → p.id ≤ q.id) :
    let cls := ((s.hallOf p.tile).getD {}).cls
    let n := ((s.tile p.tile).queue cls).length
    exec (.recordPush id) s = .next (
      if p.forced then if 8192 ≤ n then s else (s.dropPush id).pushTask p.tile cls p.crec
      else if 7680 ≤ n then (s.dropPush id).answerSpawn id p.from? false
      else ((s.dropPush id).pushTask p.tile cls p.crec).answerSpawn id p.from? true) := by
  intro cls n
  have hbehind : s.pushes.any (fun q => p.armed && q.armed && q.tile == p.tile && decide (q.id < p.id)) = false := by
    rw [List.any_eq_false]
    intro q hq hbad
    simp only [Bool.and_eq_true, beq_iff_eq, decide_eq_true_eq] at hbad
    obtain ⟨⟨⟨hp, hqa⟩, htile⟩, hlt⟩ := hbad
    exact absurd hlt (Nat.not_lt.mpr (hfirst hp q hq hqa htile))
  change execRecordPush id s = _
  unfold execRecordPush
  simp only [hf, hbehind, Bool.or_false]
  cases hfrom : p.from? with
  | none => rfl
  | some who =>
    obtain ⟨ck, lv⟩ := who
    simp only [hway ck lv hfrom]
    rfl

/-! ## RECORD_PARK -/

/-- A sent record has reached its tile, and is no longer one that the step of its sender waits for (R311). -/
def State.unpark (s : State) (id : Nat) (p : Park) : State :=
  ({ s with parks := dropFirst (fun q => q.id == id) s.parks }).updTile (tileOf p.core)
    (fun t => { t with unparked := if t.s = p.step then t.unparked - 1 else t.unparked })

/-- The core that sent an accepted record takes its next number (R303). -/
def State.countSend (s : State) (ck : Nat) : State := s.updCore ck (fun c => { c with sendSeq := (c.sendSeq + 1) % 2 ^ 32 })

/-- An accepted record with its number takes a place of a vestibule (R292, R303). -/
def State.intoVestibule (s : State) (tile slot : Nat) (v : VRec) : State :=
  (s.updTile tile (fun t => { t with vest := t.vest ++ [{ v with crec := {}, slot := slot }] })).putRec tile (vestBase + 32 * slot) v.crec

section
variable {id : Nat} {p : Park} (hf : s.parks.find? (fun p => p.id == id) = some p)
  (hfirst : ∀ q ∈ s.parks, q.core = p.core → q.tile = p.tile → p.id ≤ q.id) (hway : s.wayBetween (tileOf p.core) p.tile = .clear)
include hf hfirst hway

/-- The first of the records that its core has sent to a tile is accepted there or answered FULL (R299). -/
theorem exec_recordPark_arrives :
    let det := ((s.hallOf p.tile).getD {}).det
    let v := { p.v with seq := (s.core p.core).sendSeq }
    let t := (s.unpark id p).countSend p.core
    exec (.recordPark id) s = .next (
      if (if det then decide ((s.tile p.tile).vest.length < vestCap) else s.queueRoom p.v.core p.v.h) then
        (if det then t.intoVestibule p.tile (s.tile p.tile).vestSlot v else t.enqueueCore v).deliver p.core p.pend 0
      else (s.unpark id p).deliver p.core p.pend 1) := by
  have hbehind : s.parks.any (fun q => decide (q.id < p.id) && q.core == p.core && q.tile == p.tile) = false := by
    rw [List.any_eq_false]
    intro q hq hbad
    simp only [Bool.and_eq_true, beq_iff_eq, decide_eq_true_eq] at hbad
    obtain ⟨⟨hlt, hcore⟩, htile⟩ := hbad
    exact absurd hlt (Nat.not_lt.mpr (hfirst q hq hcore htile))
  change execRecordPark id s = _
  unfold execRecordPark
  simp only [hf, hbehind, hway, ne_eq, not_true_eq_false, if_false, Bool.false_eq_true]
  rfl

theorem exec_recordPark_vestibule (hd : ((s.hallOf p.tile).getD {}).det = true) (hn : (s.tile p.tile).vest.length < 512) :
    exec (.recordPark id) s = .next ((((s.unpark id p).countSend p.core).intoVestibule p.tile (s.tile p.tile).vestSlot
      { p.v with seq := (s.core p.core).sendSeq }).deliver p.core p.pend 0) := by
  have hroom : decide ((s.tile p.tile).vest.length < vestCap) = true := decide_eq_true hn
  rw [exec_recordPark_arrives hf hfirst hway]
  simp only [hd, hroom, if_true]

theorem exec_recordPark_queue (hd : ((s.hallOf p.tile).getD {}).det = false) (hroom : s.queueRoom p.v.core p.v.h = true) :
    exec (.recordPark id) s = .next ((((s.unpark id p).countSend p.core).enqueueCore
      { p.v with seq := (s.core p.core).sendSeq }).deliver p.core p.pend 0) := by
  rw [exec_recordPark_arrives hf hfirst hway]
  simp only [hd, hroom, if_true, Bool.false_eq_true, if_false]

theorem exec_recordPark_full
    (hroom : (if ((s.hallOf p.tile).getD {}).det then decide ((s.tile p.tile).vest.length < vestCap)
      else s.queueRoom p.v.core p.v.h) = false) :
    exec (.recordPark id) s = .next ((s.unpark id p).deliver p.core p.pend 1) := by
  rw [exec_recordPark_arrives hf hfirst hway]
  simp only [hroom, Bool.false_eq_true, if_false]

end

/-! ## What the arrival of a sent record leaves -/

section
variable (id : Nat) (p : Park)

theorem vest_unpark (k : Nat) : ((s.unpark id p).tile k).vest = (s.tile k).vest := by
  rw [State.unpark, State.updTile, State.tile_setTile]
  split
  · next h => rw [← h]; rfl
  · rfl

theorem unwatched_unpark {l : Loc} {n : Nat} (h : s.Unwatched l n) : (s.unpark id p).Unwatched l n :=
  State.Unwatched.setTile (s := { s with parks := dropFirst (fun q => q.id == id) s.parks }) h rfl

end

theorem parks_intoVestibule (tile slot : Nat) (v : VRec) : (s.intoVestibule tile slot v).parks = s.parks := parks_putRec ..

theorem getRec_intoVestibule (tile slot : Nat) (v : VRec) :
    (s.intoVestibule tile slot v).getRec tile (vestBase + 32 * slot) = v.crec := getRec_putRec ..

theorem core_updTile (tile : Nat) (f : Tile → Tile) (k : Nat) : (s.updTile tile f).core k = s.core k := rfl

/-- Where no core waits for a write there, a record put into a vestibule leaves every core as it was. -/
theorem core_intoVestibule {tile slot : Nat} (h : s.Unwatched (.vault (vaultOf tile) (vestBase + 32 * slot)) 32) (v : VRec) (k : Nat) :
    (s.intoVestibule tile slot v).core k = s.core k := by
  have hw (vs : List VRec) : (s.updTile tile (fun t => { t with vest := t.vest ++ vs })).Unwatched
      (.vault (vaultOf tile) (vestBase + 32 * slot)) 32 := h.setTile rfl
  rw [State.intoVestibule, putRec_unwatched (hw _), core_updMem, core_updTile]

theorem vest_intoVestibule (tile slot : Nat) (v : VRec) : ((s.intoVestibule tile slot v).tile tile).vest =
    (s.tile tile).vest ++ [{ v with crec := {}, slot := slot }] := by
  rw [State.intoVestibule, vest_putRec, State.updTile, State.tile_setTile_same]

theorem core_countSend (ck : Nat) : (s.countSend ck).core ck = { s.core ck with sendSeq := ((s.core ck).sendSeq + 1) % 2 ^ 32 } :=
  State.core_updCore s ck _

theorem handlers_countSend (ck k : Nat) : ((s.countSend ck).core k).handlers = (s.core k).handlers := by
  rw [State.countSend, State.updCore, State.core_setCore]
  split
  · next h => rw [← h]
  · rfl

theorem handlers_enqueueCore {v : VRec} (hh : v.h = true) :
    ((s.enqueueCore v).core v.core).handlers = (s.core v.core).handlers ++ [{ crec := v.crec }] := by
  rw [State.enqueueCore, State.core_updCore, if_pos hh]

theorem sendSeq_enqueueCore (v : VRec) (k : Nat) : ((s.enqueueCore v).core k).sendSeq = (s.core k).sendSeq := by
  rw [State.enqueueCore, State.updCore, State.core_setCore]
  split
  · next h =>
    rw [← h]
    split <;> rfl
  · rfl

theorem deliver_onlyResults (ck id : Nat) (x : Word) : s.OnlyResults (s.deliver ck id x) :=
  updCore_onlyResults (Core.updPend_onlyResults ..)

theorem sendSeq_deliver (ck id : Nat) (x : Word) (k : Nat) : ((s.deliver ck id x).core k).sendSeq = (s.core k).sendSeq := by
  rw [deliver_onlyResults ck id x k]

theorem handlers_deliver (ck id : Nat) (x : Word) (k : Nat) : ((s.deliver ck id x).core k).handlers = (s.core k).handlers := by
  rw [deliver_onlyResults ck id x k]

theorem pend_deliver (ck id : Nat) (x : Word) : ((s.deliver ck id x).core ck).pend = ((s.core ck).arrive id x {}).pend :=
  congrArg Core.pend (State.core_updCore s ck _)

/-- What is left once a record has been accepted into a vestibule. -/
theorem vestibule_leaves (id : Nat) (p : Park) {slot : Nat} (v : VRec)
    (h : s.Unwatched (.vault (vaultOf p.tile) (vestBase + 32 * slot)) 32) :
    let t := (((s.unpark id p).countSend p.core).intoVestibule p.tile slot v).deliver p.core p.pend 0
    (t.tile p.tile).vest = (s.tile p.tile).vest ++ [{ v with crec := {}, slot := slot }] ∧
    t.getRec p.tile (vestBase + 32 * slot) = v.crec ∧
    (t.core p.core).sendSeq = ((s.core p.core).sendSeq + 1) % 2 ^ 32 ∧
    (t.core p.core).pend = ((s.core p.core).arrive p.pend 0 {}).pend := by
  have hw : ((s.unpark id p).countSend p.core).Unwatched (.vault (vaultOf p.tile) (vestBase + 32 * slot)) 32 :=
    unwatched_unpark id p h
  refine ⟨?_, getRec_intoVestibule .., ?_, ?_⟩
  · change (State.tile (State.intoVestibule _ _ _ _) _).vest = _
    rw [vest_intoVestibule]
    exact congrArg (· ++ _) (vest_unpark id p p.tile)
  · rw [sendSeq_deliver, core_intoVestibule hw, core_countSend]
    rfl
  · rw [pend_deliver, core_intoVestibule hw, core_countSend]
    rfl

/-- What is left once a record has been accepted into a handler queue. -/
theorem queue_leaves (id : Nat) (p : Park) {v : VRec} (hh : v.h = true) :
    let t := (((s.unpark id p).countSend p.core).enqueueCore v).deliver p.core p.pend 0
    (t.core v.core).handlers = (s.core v.core).handlers ++ [{ crec := v.crec }] ∧
    (t.core p.core).sendSeq = ((s.core p.core).sendSeq + 1) % 2 ^ 32 := by
  refine ⟨?_, ?_⟩
  · rw [handlers_deliver, handlers_enqueueCore hh, handlers_countSend]
    rfl
  · rw [sendSeq_deliver, sendSeq_enqueueCore, core_countSend]
    rfl

/-- What is left once a record has been answered FULL. -/
theorem full_leaves (id : Nat) (p : Park) :
    let t := (s.unpark id p).deliver p.core p.pend 1
    (t.core p.core).sendSeq = (s.core p.core).sendSeq ∧ (t.tile p.tile).vest = (s.tile p.tile).vest ∧
    (t.core p.core).pend = ((s.core p.core).arrive p.pend 1 {}).pend :=
  ⟨sendSeq_deliver .., vest_unpark id p p.tile, pend_deliver ..⟩

/-- A handler queue has room for a sent record while it is not full and no earlier record waits in the overflow (R415). -/
theorem queueRoom_handler_iff (ck : Nat) : s.queueRoom ck true = true ↔
    (s.core ck).handlers.length < 64 ∧ ∀ e ∈ (s.tile (tileOf ck)).overflow, e.core ≠ ck := by
  simp only [State.queueRoom, if_true, Bool.and_eq_true, decide_eq_true_eq, List.all_eq_true, bne_iff_ne]
  exact Iff.rfl

/-! ## VESTIBULE_RELEASE -/

section
variable {tl : Nat} {v : VRec} (hstop : ((s.hallOf tl).getD {}).stop = .none) (hv : (s.tile tl).vest = [v])
include hstop hv

/-- A vestibule of one record. -/
theorem exec_vestibuleRelease_one : exec (.vestibuleRelease tl) s =
    .next (s.releaseFrom tl (if v.due ≤ (s.tile tl).vestReady then [v] else [])) := by
  change execVestibuleRelease tl s = _
  rw [execVestibuleRelease, if_pos hstop, State.releaseVest, hv]
  by_cases hdue : v.due ≤ (s.tile tl).vestReady
  · simp only [List.filter_cons, decide_eq_true hdue, if_pos hdue, if_true]
    rfl
  · simp only [List.filter_cons, decide_eq_false hdue, if_neg hdue, Bool.false_eq_true, if_false]
    rfl

theorem exec_vestibuleRelease_releases (hdue : v.due ≤ (s.tile tl).vestReady) (hroom : s.queueRoom v.core v.h = true) :
    exec (.vestibuleRelease tl) s =
      .next ((s.enqueueCore (s.vestRec tl v)).updTile tl (fun t => { t with vest := dropFirst (fun u => u == v) t.vest })) := by
  rw [exec_vestibuleRelease_one hstop hv, if_pos hdue, State.releaseFrom, if_pos hroom]
  rfl

theorem exec_vestibuleRelease_holds (h : (s.tile tl).vestReady < v.due ∨ s.queueRoom v.core v.h = false) :
    exec (.vestibuleRelease tl) s = .next s := by
  rw [exec_vestibuleRelease_one hstop hv]
  rcases h with hdue | hroom
  · rw [if_neg (Nat.not_le.mpr hdue), State.releaseFrom]
  · split
    · rw [State.releaseFrom, if_neg (Bool.eq_false_iff.mp hroom)]
    · rw [State.releaseFrom]

end

/-! ## SERVICE_OVERFLOW_DRAIN -/

theorem exec_serviceOverflowDrain_moves {tl ck : Nat} {e : OverEnt}
    (hf : (s.tile tl).overflow.find? (fun e => e.core == ck) = some e) (hroom : (s.core ck).handlers.length < 64) :
    exec (.serviceOverflowDrain tl ck) s = .next ((s.setTile tl { s.tile tl with
      overflow := dropFirst (fun x => x.core == ck) (s.tile tl).overflow }).setCore ck
        { s.core ck with handlers := (s.core ck).handlers ++ [{ crec := s.getRec tl (overBase + 32 * e.slot), svc := e.svc }] }) := by
  change execServiceOverflowDrain tl ck s = _
  have hcap : (s.core ck).handlers.length < handlerCap := hroom
  simp only [execServiceOverflowDrain, hf, if_pos hcap]
  rfl

end Sys2Proof.Machine
end

section
/-!
SUPPORT. How records start: the class that an idle core takes from, TASK_POP and HANDLER_START, and the registers that a
record starts with (R175, R291, R292, R300, R330, R363, R400).
-/

namespace Sys2Proof.Machine

open Sys2Proof

variable {s : State}

/-! ## The class an idle core takes from (R363) -/

section
variable {t : Tile}

theorem popClass_one {k : Nat} (hk : k < 4) (hq : t.queue k ≠ []) (hno : ∀ j, j < 4 → j ≠ k → t.queue j = []) :
    t.popClass = some (k, 0) := by
  have hone : ∀ k < 4, (List.range 4).filter (fun c => c == k) = [k] := by decide
  have hfull : (List.range 4).filter (fun c => !(t.queue c).isEmpty) = [k] := by
    rw [← hone k hk]
    refine List.filter_congr fun c hc => ?_
    by_cases h : c = k
    · simpa [h] using hq
    · simp [h, hno c (List.mem_range.mp hc) h]
  simp only [Tile.popClass, hfull]

/-- Of two classes with records the first, but the second once 1,024 have been taken. -/
theorem popClass_two {k l : Nat} (hkl : k < l) (hl : l < 4) (hqk : t.queue k ≠ []) (hql : t.queue l ≠ [])
    (hno : ∀ j, j < 4 → j ≠ k → j ≠ l → t.queue j = []) :
    t.popClass = if t.popC < 1024 then some (k, t.popC + 1) else some (l, 0) := by
  have htwo : ∀ l < 4, ∀ k < l, (List.range 4).filter (fun c => c == k || c == l) = [k, l] := by decide
  have hfull : (List.range 4).filter (fun c => !(t.queue c).isEmpty) = [k, l] := by
    rw [← htwo l hl k hkl]
    refine List.filter_congr fun c hc => ?_
    by_cases h : c = k
    · simpa [h] using hqk
    · by_cases h' : c = l
      · simpa [h'] using hql
      · simp [h, h', hno c (List.mem_range.mp hc) h h']
  simp only [Tile.popClass, hfull, List.foldl_nil]

end

/-! ## TASK_POP and HANDLER_START -/

theorem interruptible_iff {t : Thread} : t.interruptible = true ↔ t.rest = [] ∧ ∀ code v f, t.hold ≠ .trap code v f := by
  rw [Thread.interruptible, Bool.and_eq_true, List.isEmpty_iff]
  cases t.hold <;> simp

section
variable {ck : Nat} {h : Hall}

theorem exec_taskPop_busy (hhold : (s.core ck).lv0.hold ≠ .idle) : exec (.taskPop ck) s = .next s := by
  change execTaskPop ck s = _
  simp only [execTaskPop]
  rw [if_pos (.inr (.inr (.inr hhold)))]

theorem exec_handlerStart_held (hb : (s.core ck).tBit = true ∨ (s.core ck).maskOpen = true ∨ (s.core ck).windowOpen false = true ∨
    (s.core ck).lv0.interruptible = false) : exec (.handlerStart ck) s = .next s := by
  change execHandlerStart ck s = _
  simp only [execHandlerStart]
  rw [if_pos]
  rcases hb with ht | hm | hw | hi
  · simp [ht]
  · simp [hm]
  · simp [hw]
  · simp [hi]

variable (hh : s.hallOf (tileOf ck) = some h) (hstop : h.stop = .none) (hrun : (s.core ck).stopped = false)
  (hlv : (s.core ck).level = false)
include hh hstop hrun hlv

section
variable (hidle : (s.core ck).lv0.hold = .idle)
include hidle

theorem exec_taskPop_pinned {r : Rec} {rs : List Rec} (hp : (s.core ck).pinned = r :: rs) :
    exec (.taskPop ck) s = .next (s.setCore ck ({ s.core ck with pinned := rs }.startTask r)) := by
  change execTaskPop ck s = _
  simp only [execTaskPop, hh, Option.getD_some, hstop, hrun, hlv, hidle, hp, ne_eq, not_true_eq_false, Bool.false_eq_true,
    or_self, if_false]

variable (hp : (s.core ck).pinned = [])
include hp

/-- Not after a core of a higher index in the same cycle. -/
theorem exec_taskPop_late (hlate : (s.tile (tileOf ck)).popBy.1 = s.cycle ∧ ck < (s.tile (tileOf ck)).popBy.2) :
    exec (.taskPop ck) s = .next s := by
  change execTaskPop ck s = _
  simp only [execTaskPop, hh, Option.getD_some, hstop, hrun, hlv, hidle, hp, ne_eq, not_true_eq_false, Bool.false_eq_true,
    or_self, if_false, if_pos hlate]

theorem exec_taskPop_takes (hlate : ¬((s.tile (tileOf ck)).popBy.1 = s.cycle ∧ ck < (s.tile (tileOf ck)).popBy.2)) {k n : Nat}
    (hpop : (s.tile (tileOf ck)).popClass = some (k, n)) :
    exec (.taskPop ck) s = .next ((s.setTile (tileOf ck)
      { (s.tile (tileOf ck)).popTask k with popC := n, popBy := (s.cycle, ck) }).setCore ck
        ((s.core ck).startTask (s.taskRec (tileOf ck) k))) := by
  change execTaskPop ck s = _
  simp only [execTaskPop, hh, Option.getD_some, hstop, hrun, hlv, hidle, hp, ne_eq, not_true_eq_false, Bool.false_eq_true,
    or_self, if_false, if_neg hlate, hpop]

end

theorem exec_handlerStart_starts {r : HRec} {rs : List HRec} (hr : (s.core ck).handlers = r :: rs) (ht : (s.core ck).tBit = false)
    (hm : (s.core ck).maskOpen = false) (hw : (s.core ck).windowOpen false = false) (hi : (s.core ck).lv0.interruptible = true) :
    exec (.handlerStart ck) s = .next (s.setCore ck ({ s.core ck with handlers := rs }.startHandler r)) := by
  change execHandlerStart ck s = _
  simp only [execHandlerStart, hh, Option.getD_some, hstop, hrun, hlv, hr, ht, hm, hw, hi, ne_eq, not_true_eq_false,
    Bool.false_eq_true, Bool.not_true, or_self, if_false]

end

/-! ## The registers that a record starts with -/

theorem fld_low (x : Word) (n : Nat) : fld x 0 n = x.toNat % 2 ^ n := by rw [fld, Nat.pow_zero, Nat.div_one]

section
variable (c : Core)

theorem bound_iff (q : Nat) : c.bound q = true ↔ (c.qreg q).st ≠ .unbound := bne_iff_ne

theorem get_startBank (r : Rec) (k : Nat) : SMap.get 0 (c.startBank r) k =
    if k = 2 then 0xFF01000000000000 else if k = 3 then r.frame
    else if 24 ≤ k ∧ k < 32 ∧ (c.qreg (k - 24)).st ≠ .unbound then c.lv0.g.get 0 k else 0 := by
  have hkeep : SMap.get 0 (c.lv0.g.filter (fun e => decide (24 ≤ e.1) && decide (e.1 < 32) && c.bound (e.1 - 24))) k =
      if 24 ≤ k ∧ k < 32 ∧ (c.qreg (k - 24)).st ≠ .unbound then c.lv0.g.get 0 k else 0 := by
    have hp : (decide (24 ≤ k) && decide (k < 32) && c.bound (k - 24)) = true ↔
        24 ≤ k ∧ k < 32 ∧ (c.qreg (k - 24)).st ≠ .unbound := by
      rw [Bool.and_eq_true, Bool.and_eq_true, decide_eq_true_eq, decide_eq_true_eq, bound_iff, and_assoc]
    split
    · next h => exact SMap.get_filter_pos (fun i => decide (24 ≤ i) && decide (i < 32) && c.bound (i - 24)) (hp.mpr h) _
    · next h =>
      exact SMap.get_filter_neg (fun i => decide (24 ≤ i) && decide (i < 32) && c.bound (i - 24))
        (Bool.eq_false_iff.mpr fun h' => h (hp.mp h')) _
  rw [Core.startBank, SMap.get_set, SMap.get, hkeep]
  by_cases h2 : k = 2
  · subst h2; rfl
  · simp only [if_neg (Ne.symm h2), eq_comm (a := k)]

theorem g_startTask (r : Rec) (k : Nat) : (c.startTask r).g false k =
    if k = 2 then 0xFF01000000000000 else if k = 3 then r.frame
    else if 24 ≤ k ∧ k < 32 ∧ (c.qreg (k - 24)).st ≠ .unbound then c.g false k else 0 := by
  unfold Core.g
  by_cases h0 : k = 0
  · subst h0; rfl
  · by_cases hk : k < 32
    · simp only [if_neg h0, if_pos hk]
      exact get_startBank c r k
    · rw [if_neg h0, if_neg hk, if_neg (by omega), if_neg (by omega), if_neg (fun h => hk h.2.1)]
      rfl

theorem p_startTask (r : Rec) {k : Nat} (hk : k ≠ 7) : (c.startTask r).p false k = 0 := if_neg hk

theorem g_startHandler (r : HRec) {k : Nat} (hk : k < 32) : (c.startHandler r).g true k =
    if k = 2 then 0xFF01000000007000 else if k = 3 then r.crec.frame else 0 := by
  unfold Core.g
  by_cases h0 : k = 0
  · subst h0; rfl
  · rw [if_neg h0, if_pos hk]
    change SMap.get 0 (SMap.set 0 3 r.crec.frame [(2, 0xFF01000000007000)]) k = _
    rw [SMap.get_set, SMap.get, SMap.get]
    by_cases h2 : k = 2
    · subst h2; rfl
    · simp only [if_neg (Ne.symm h2), eq_comm (a := k)]

theorem g_startHandler_shared (r : HRec) {k : Nat} (hk : 32 ≤ k) : (c.startHandler r).g true k = c.g true k := by
  simp only [Core.g, if_neg (Nat.not_lt.mpr hk)]
  rfl

theorem p_startHandler (r : HRec) {k : Nat} (hk : k ≠ 7) : (c.startHandler r).p true k = 0 := if_neg hk

end

end Sys2Proof.Machine
end

section
/-!
PROOFS. The statement of 08_registers_and_issue on the records of tasks and messages.
-/

namespace Sys2Proof

open Machine

/-- Settles O38: what a RECORD_PUSH and a RECORD_PARK come to, by the room they find; the two releases; then the cases of TASK_POP
by `popClass_one` and `popClass_two`, those of HANDLER_START, and the banks that a record starts with. -/
theorem recordsArriveAndStart : Obligations.RecordsArriveAndStart := by
  unfold Obligations.RecordsArriveAndStart
  refine ⟨⟨fun s id p hf hway hfirst => ?_, fun s id p hf hfirst hway hh => ?_, fun s tl v hstop hv => ?_,
    fun s tl ck e => exec_serviceOverflowDrain_moves⟩, fun s ck h hh hstop => ?_, fun c r k _ => ?_, fun c r k => ?_⟩
  · intro cls n s' tell
    have htell (t : State) (ok : Bool) : tell t ok = t.answerSpawn id p.from? ok := (answerSpawn_eq id p.from? ok).symm
    rw [htell, htell, exec_recordPush_arrives hf hway hfirst]
    refine ⟨fun hp hn => ?_, fun hp hn => ?_, fun hp hn => ?_, fun hp hn => ?_⟩
    · rw [if_pos hp, if_pos hn]
    · rw [if_pos hp, if_neg (Nat.not_le.mpr hn)]
      rfl
    · rw [if_neg (Bool.eq_false_iff.mp hp), if_pos hn]
      rfl
    · rw [if_neg (Bool.eq_false_iff.mp hp), if_neg (Nat.not_le.mpr hn)]
      rfl
  · generalize hd : ((s.hallOf p.tile).getD {}).det = accepts
    intro det slot v
    cases accepts with
    | true =>
      by_cases hn : (s.tile p.tile).vest.length < 512
      · refine ⟨_, exec_recordPark_vestibule hf hfirst hway hd hn, parks_intoVestibule .., fun _ _ hw => ?_, nofun,
          fun hno => ?_⟩
        · obtain ⟨hvest, hrec, hseq, hpend⟩ := vestibule_leaves id p { p.v with seq := (s.core p.core).sendSeq } hw
          exact ⟨hvest, hrec, fun u => slot_ne_vestSlot, hseq, hpend⟩
        · rcases hno with ⟨-, hfull⟩ | ⟨hno, -⟩
          · exact absurd hn (Nat.not_lt.mpr hfull)
          · exact absurd hno nofun
      · exact ⟨_, exec_recordPark_full hf hfirst hway (by rw [hd, if_pos rfl]; exact decide_eq_false hn), rfl,
          fun _ hlt => absurd hlt hn, nofun, fun _ => full_leaves id p⟩
    | false =>
      cases hroom : s.queueRoom p.v.core p.v.h with
      | true =>
        have hlt := ((queueRoom_handler_iff p.v.core).mp (hh ▸ hroom)).1
        refine ⟨_, exec_recordPark_queue hf hfirst hway hd hroom, rfl, nofun,
          fun _ _ _ => queue_leaves id p (v := { p.v with seq := (s.core p.core).sendSeq }) hh, fun hno => ?_⟩
        rcases hno with ⟨hno, -⟩ | ⟨-, hfull⟩
        · exact absurd hno nofun
        · exact absurd hlt (Nat.not_lt.mpr hfull)
      | false =>
        refine ⟨_, exec_recordPark_full hf hfirst hway (by rw [hd, if_neg Bool.false_ne_true, hroom]), rfl,
          nofun, fun _ hlt hover => ?_, fun _ => full_leaves id p⟩
        have hyes := (congrArg (s.queueRoom p.v.core) hh).trans ((queueRoom_handler_iff p.v.core).mpr ⟨hlt, hover⟩)
        exact absurd (hroom.symm.trans hyes) nofun
  · exact ⟨exec_vestibuleRelease_releases hstop hv, exec_vestibuleRelease_holds hstop hv⟩
  · intro c t hrun hlv
    refine ⟨fun hi r rs => exec_taskPop_pinned hh hstop hrun hlv hi, ?_⟩
    intro late takes
    refine ⟨exec_taskPop_late hh hstop hrun hlv, fun hi hp hl k hq hk hno => ?_, fun hi hp hl k l hkl hl4 hqk hql hno hc => ?_,
      fun hi hp hl k l hkl hl4 hql hqk hno hc => ?_, exec_taskPop_busy, fun r rs hr ht hm hw hrest htrap => ?_, fun hb => ?_⟩
    · exact exec_taskPop_takes hh hstop hrun hlv hi hp hl (popClass_one hk hq hno)
    · exact exec_taskPop_takes hh hstop hrun hlv hi hp hl ((popClass_two hkl hl4 hqk hql hno).trans (if_pos hc))
    · exact exec_taskPop_takes hh hstop hrun hlv hi hp hl ((popClass_two hkl hl4 hqk hql hno).trans (if_neg (Nat.not_lt.mpr hc)))
    · exact exec_handlerStart_starts hh hstop hrun hlv hr ht hm hw (interruptible_iff.mpr ⟨hrest, htrap⟩)
    · refine exec_handlerStart_held (hb.imp_right (Or.imp_right (Or.imp_right fun hrest => ?_)))
      exact Bool.eq_false_iff.mpr fun hi => hrest (interruptible_iff.mp hi).1
  · exact ⟨rfl, rfl, congrArg word (fld_low _ 32), rfl, g_startTask c r k, rfl, p_startTask c r, rfl, rfl, rfl⟩
  · exact ⟨rfl, rfl, rfl, rfl, congrArg word (fld_low _ 32), g_startHandler c r, g_startHandler_shared c r, p_startHandler c r,
      rfl, rfl⟩

end Sys2Proof
end

section
/-!
SUPPORT. The scalar operations that stand alone (R187): each is the half of a pair that it can be (R54), and answers that
half's value.
-/

namespace Sys2Proof.Machine

open Sys2Proof

variable {s : State}

theorem exec_toInstr (h : SHalf) (s : State) : exec h.toInstr s = execHalf h s := by
  cases h with
  | rr op => cases op <;> rfl
  | r1 op => cases op <;> rfl
  | cmp op => cases op <;> rfl
  | plog op => cases op <;> rfl
  | imm op d a c => cases op <;> cases c <;> rfl
  | sh op => cases op <;> rfl
  | peqi d a c => cases c <;> rfl
  | plti d a c => cases c <;> rfl
  | movl d c => cases c <;> rfl
  | addpc d c => cases c <;> rfl
  | pnot | sel | nrand | bfx | bfi | exts | extz => rfl

theorem toInstr_answersG (h : SHalf) {d : Reg} (hd : halfDst h = .g d) (hp : IssuesPlain s (halfUses h)) :
    AnswersG s h.toInstr (halfUses h) d (halfVal s.rg s.rp s.pc h) := half_answersG (exec_toInstr h) hd hp

theorem toInstr_answersP (h : SHalf) {d : PReg} (hd : halfDst h = .p d) (hp : IssuesPlain s (halfUses h)) :
    AnswersP s h.toInstr (halfUses h) d (halfVal s.rg s.rp s.pc h) := half_answersP (exec_toInstr h) hd hp

/-! ## Minimum and maximum (R189) -/

section
variable {α : Type} [LinearOrder α] (k : Word → α) (x y : Word)

/-- Of two equal keys the minimum may be taken on either side. -/
theorem ite_lt_left : (if k y < k x then y else x) = if k x ≤ k y then x else y := by
  by_cases h : k y < k x
  · rw [if_pos h, if_neg (not_le.mpr h)]
  · rw [if_neg h, if_pos (not_lt.mp h)]

/-- So may the maximum, where equal keys are keys of equal words. -/
theorem ite_lt_right (hk : k.Injective) : (if k x < k y then y else x) = if k x ≤ k y then y else x := by
  rcases lt_trichotomy (k x) (k y) with h | h | h
  · rw [if_pos h, if_pos h.le]
  · rw [hk h, ite_self, ite_self]
  · rw [if_neg h.not_gt, if_neg (not_le.mpr h)]

end

variable (x y : Word)

theorem rrVal_min : rrVal .min x y = if x.toInt ≤ y.toInt then x else y := ite_lt_left BitVec.toInt x y

theorem rrVal_max : rrVal .max x y = if x.toInt ≤ y.toInt then y else x :=
  ite_lt_right BitVec.toInt x y fun _ _ => BitVec.toInt_inj.mp

theorem rrVal_minw : rrVal .minw x y = if x.toNat ≤ y.toNat then x else y := ite_lt_left BitVec.toNat x y

theorem rrVal_maxw : rrVal .maxw x y = if x.toNat ≤ y.toNat then y else x :=
  ite_lt_right BitVec.toNat x y fun _ _ => BitVec.toNat_inj.mp

end Sys2Proof.Machine
end

section
/-!
SUPPORT. Numbers added up from bits and bytes, each at its own place: which bit of the sum is which.
-/

namespace Sys2Proof.Machine

open Sys2Proof

theorem foldl_range_eq_sum (f : Nat → Nat) (n : Nat) :
    (List.range n).foldl (fun acc k => acc + f k) 0 = ∑ k ∈ Finset.range n, f k := by
  induction n with
  | zero => rfl
  | succ n ih => rw [List.range_succ, List.foldl_append, ih, Finset.sum_range_succ]; rfl

/-- Bit `j` of the digit at place `i` of a number written with `n` digits of `w` bits. -/
theorem testBit_sum_digits {w j : Nat} (hj : j < w) {f : Nat → Nat} (hf : ∀ k, f k < 2 ^ w) {n i : Nat} (hi : i < n) :
    (∑ k ∈ Finset.range n, f k * (2 ^ w) ^ k).testBit (w * i + j) = (f i).testBit j := by
  induction n generalizing f i with
  | zero => exact absurd hi (Nat.not_lt_zero i)
  | succ n ih =>
    have hs : ∑ k ∈ Finset.range (n + 1), f k * (2 ^ w) ^ k =
        2 ^ w * ∑ k ∈ Finset.range n, f (k + 1) * (2 ^ w) ^ k + f 0 := by
      rw [Finset.sum_range_succ', Finset.mul_sum, Nat.pow_zero, Nat.mul_one]
      congr 1
      exact Finset.sum_congr rfl fun k _ => by ring
    rw [hs, Nat.testBit_two_pow_mul_add _ (hf 0)]
    cases i with
    | zero => rw [Nat.mul_zero, Nat.zero_add, if_pos hj]
    | succ i =>
      have hlow : ¬w * (i + 1) + j < w := by rw [Nat.mul_succ]; omega
      have hsub : w * (i + 1) + j - w = w * i + j := by rw [Nat.mul_succ]; omega
      rw [if_neg hlow, hsub, ih (fun k => hf (k + 1)) (Nat.lt_of_succ_lt_succ hi)]

/-- The same with the digits written from the highest place down. -/
theorem testBit_sum_digits_down {w j : Nat} (hj : j < w) {f : Nat → Nat} (hf : ∀ k, f k < 2 ^ w) {n i : Nat} (hi : i < n) :
    (∑ k ∈ Finset.range n, f k * (2 ^ w) ^ (n - 1 - k)).testBit (w * i + j) = (f (n - 1 - i)).testBit j := by
  rw [← Finset.sum_range_reflect]
  have hsum : ∑ k ∈ Finset.range n, f (n - 1 - k) * (2 ^ w) ^ (n - 1 - (n - 1 - k)) =
      ∑ k ∈ Finset.range n, f (n - 1 - k) * (2 ^ w) ^ k :=
    Finset.sum_congr rfl fun k hk => by rw [Nat.sub_sub_self (by have := Finset.mem_range.mp hk; omega)]
  rw [hsum, testBit_sum_digits hj (fun k => hf (n - 1 - k)) hi]

theorem bit_lt_two (b : Bool) : bit b < 2 ^ 1 := by cases b <;> decide

theorem testBit_bit_zero (b : Bool) : (bit b).testBit 0 = b := by cases b <;> rfl

theorem fld_lt (x : Word) (lo n : Nat) : fld x lo n < 2 ^ n := Nat.mod_lt _ (Nat.two_pow_pos n)

theorem testBit_fld (x : Word) (lo : Nat) {n j : Nat} (hj : j < n) : (fld x lo n).testBit j = x.getLsbD (lo + j) := by
  rw [fld, Nat.testBit_mod_two_pow, Nat.testBit_div_two_pow, BitVec.getLsbD, Nat.add_comm]
  simp [hj]

end Sys2Proof.Machine
end

section
/-!
SUPPORT. What the counting, reordering and bit-field operations and NMASK compute, bit by bit (R191, R192, R205).
-/

namespace Sys2Proof.Machine

open Sys2Proof

variable (x : Word)

/-! ## Counting (R191) -/

/-- `clzFrom x i` zeros stand in bits `i` - 1 downwards, and a one below them unless they are all. -/
theorem clzFrom_spec (i : Nat) : clzFrom x i ≤ i ∧ (∀ k, k < clzFrom x i → x.getLsbD (i - 1 - k) = false) ∧
    (clzFrom x i < i → x.getLsbD (i - 1 - clzFrom x i) = true) := by
  induction i with
  | zero => simp [clzFrom]
  | succ i ih =>
    obtain ⟨hle, hzeros, hone⟩ := ih
    cases hb : x.getLsbD i with
    | true => simp [clzFrom, hb]
    | false =>
      have hc : clzFrom x (i + 1) = clzFrom x i + 1 := by rw [clzFrom, hb]; rfl
      rw [hc]
      refine ⟨Nat.succ_le_succ hle, fun k hk => ?_, fun hlt => ?_⟩
      · cases k with
        | zero => exact hb
        | succ k =>
          rw [show i + 1 - 1 - (k + 1) = i - 1 - k by omega]
          exact hzeros k (Nat.lt_of_succ_lt_succ hk)
      · rw [show i + 1 - 1 - (clzFrom x i + 1) = i - 1 - clzFrom x i by omega]
        exact hone (Nat.lt_of_succ_lt_succ hlt)

/-- `ctzFrom x i` zeros stand in bits 64 - `i` upwards, and a one above them unless they are all. -/
theorem ctzFrom_spec {i : Nat} (hi : i ≤ 64) : ctzFrom x i ≤ i ∧
    (∀ k, k < ctzFrom x i → x.getLsbD (64 - i + k) = false) ∧
    (ctzFrom x i < i → x.getLsbD (64 - i + ctzFrom x i) = true) := by
  induction i with
  | zero => simp [ctzFrom]
  | succ i ih =>
    obtain ⟨hle, hzeros, hone⟩ := ih (Nat.le_of_succ_le hi)
    have hup k : 64 - (i + 1) + (k + 1) = 64 - i + k := by omega
    have hlow : 64 - (i + 1) = 63 - i := by omega
    cases hb : x.getLsbD (63 - i) with
    | true => simp [ctzFrom, hb, hlow]
    | false =>
      have hc : ctzFrom x (i + 1) = ctzFrom x i + 1 := by rw [ctzFrom, hb]; rfl
      rw [hc, hup]
      refine ⟨Nat.succ_le_succ hle, fun k hk => ?_, fun hlt => hone (Nat.lt_of_succ_lt_succ hlt)⟩
      cases k with
      | zero => rw [Nat.add_zero, hlow, hb]
      | succ k => rw [hup, hzeros k (Nat.lt_of_succ_lt_succ hk)]

theorem sum_bits_eq_countP (p : Nat → Bool) (n : Nat) : ∑ k ∈ Finset.range n, bit (p k) = (List.range n).countP p := by
  induction n with
  | zero => rfl
  | succ n ih =>
    rw [Finset.sum_range_succ, ih, List.range_succ, List.countP_append, List.countP_singleton]
    rfl

theorem r1Val_popc : r1Val .popc x = word ((List.range 64).countP fun i => x.getLsbD i) := by
  rw [← sum_bits_eq_countP, ← foldl_range_eq_sum]
  rfl

/-! ## Reordering (R191) -/

theorem getLsbD_brev {i : Nat} (hi : i < 64) : (r1Val .brev x).getLsbD i = x.getLsbD (63 - i) := by
  have hsum := testBit_sum_digits_down (w := 1) (j := 0) Nat.one_pos (fun k => bit_lt_two (x.getLsbD k)) hi
  rw [testBit_bit_zero, ← foldl_range_eq_sum, Nat.one_mul, Nat.add_zero] at hsum
  rw [r1Val, getLsbD_word, decide_eq_true hi, Bool.true_and]
  exact hsum

theorem getLsbD_bswp {i j : Nat} (hi : i < 8) (hj : j < 8) :
    (r1Val .bswp x).getLsbD (8 * i + j) = x.getLsbD (8 * (7 - i) + j) := by
  have hsum := testBit_sum_digits_down hj (fun k => fld_lt x (8 * k) 8) hi
  rw [testBit_fld x _ hj, ← foldl_range_eq_sum] at hsum
  rw [r1Val, getLsbD_word, decide_eq_true (show 8 * i + j < 64 by omega), Bool.true_and]
  exact hsum

/-! ## Bit fields (R192) -/

theorem zextN_toNat (w : Nat) : zextN x.toNat w = (x.setWidth w).setWidth 64 := by
  apply BitVec.eq_of_toNat_eq
  simp [zextN, word]

theorem sextN_toNat {w : Nat} (hw : 0 < w) : sextN x.toNat w = (x.setWidth w).signExtend 64 := by
  have htwo : 2 ^ w = 2 * 2 ^ (w - 1) := by rw [← Nat.pow_succ', Nat.succ_eq_add_one, Nat.sub_add_cancel hw]
  rw [BitVec.signExtend, BitVec.toInt_eq_toNat_cond, BitVec.toNat_setWidth]
  simp only [sextN, if_neg (Nat.ne_of_gt hw)]
  by_cases h : 2 ^ (w - 1) ≤ x.toNat % 2 ^ w
  · rw [if_pos h, if_neg (by omega)]
  · rw [if_neg h, if_pos (by omega), BitVec.ofInt_natCast]
    rfl

/-- The bits of the field are the low bits of the source, the others those of the old destination. -/
theorem getLsbD_bfiVal (t : Word) {pos w : Nat} (h : pos + w ≤ 64) (i : Nat) : (bfiVal t x pos w).getLsbD i =
    if pos ≤ i ∧ i < pos + w then x.getLsbD (i - pos) else t.getLsbD i := by
  refine (bitAt_setFld t _ h i).trans ?_
  split
  · next hf =>
    rw [Nat.testBit_mod_two_pow, decide_eq_true (show i - pos < w by omega), Bool.true_and]
    rfl
  · rfl

/-! ## NMASK (R205) -/

theorem fld_top (n : Nat) (h : n ≤ 64) : fld x n (64 - n) = x.toNat / 2 ^ n := by
  refine Nat.mod_eq_of_lt (Nat.div_lt_of_lt_mul ?_)
  rw [← Nat.pow_add, Nat.add_sub_cancel' h]
  exact x.isLt

theorem getLsbD_nmask (key ctr : Word) (thr : Nat) {j : Nat} (hj : j < 64) :
    (nmask key ctr thr).getLsbD j = decide ((newel key (ctr + word j)).toNat / 2 ^ 48 < thr) := by
  have hsum := testBit_sum_digits (w := 1) (j := 0) Nat.one_pos
    (fun k => bit_lt_two (decide (fld (newel key (ctr + word k)) 48 16 < thr))) hj
  rw [testBit_bit_zero, ← foldl_range_eq_sum, Nat.one_mul, Nat.add_zero, fld_top _ 48 (by decide)] at hsum
  rw [nmask, getLsbD_word, decide_eq_true hj, Bool.true_and, ← hsum]
  simp only [Nat.pow_one, Nat.mul_comm]

end Sys2Proof.Machine
end

section
/-!
SUPPORT. A trap with no handler to take it: its message can be written into a vault (R405, R414, R415).
-/

namespace Sys2Proof.Machine

open Sys2Proof

/-- Core 0 stands at JALR g5, g0, 2 with TVEC 0, in a hall whose STALLH is set and whose service core, core 63 of the same tile,
has the 64 records in its handler queue that it can hold. -/
def crowded : State :=
  let s := State.reset.withFetchWord 32 ((encode (.jalr 5 0 2)).headD 0).toNat
  (s.updHall 0 (fun h => { h with stallh := 0x1004 })).updCore 63 (fun c => { c with handlers := List.replicate 64 {} })

theorem crowded_issues : IssuesPlain crowded (scalar 4 [0] [5]) :=
  ⟨⟨rfl, rfl, rfl, rfl, rfl, rfl, rfl, nofun, nofun, rfl, rfl, nofun, rfl, rfl⟩, rfl⟩

/-- The TRAP message stands in the service overflow: the first byte of its CODE, which is STALLH. -/
theorem crowded_trap_vault : SMap.get 0 (crowded.trap tALIGN 2).mem.vault overBase = 4 := by decide

end Sys2Proof.Machine
end

section
/-!
PROOFS. The statements of 09_scalar_and_control.
-/

namespace Sys2Proof

open Machine

/-- Settles O1: each is a half of two registers, which answers `rrVal` of them. -/
theorem twoRegisterOperations : Obligations.TwoRegisterOperations := by
  unfold Obligations.TwoRegisterOperations
  intro s d a b hp u x y n
  have h (op : RROp) : AnswersG s (SHalf.rr op d a b).toInstr u d (rrVal op x y) := toInstr_answersG (.rr op d a b) rfl hp
  have hmin := h .min
  have hmax := h .max
  have hminw := h .minw
  have hmaxw := h .maxw
  rw [rrVal_min] at hmin
  rw [rrVal_max] at hmax
  rw [rrVal_minw] at hminw
  rw [rrVal_maxw] at hmaxw
  exact ⟨h .add, h .sub, h .mul, h .mulh, h .mulhw, h .and, h .or, h .xor, h .andn, h .orn, h .shl, h .shr, h .sra, h .rot,
    hmin, hmax, hminw, hmaxw⟩

/-- Settles O2: each is a half of one source and an immediate, or of an immediate alone. -/
theorem immediateOperations : Obligations.ImmediateOperations := by
  unfold Obligations.ImmediateOperations
  intro s d a imm n lit
  refine ⟨fun hp => ?_, fun hp => ?_, fun hp => ?_, fun hp => ?_⟩
  · intro u x
    have hi (op : IOp) : AnswersG s (SHalf.imm op d a (.short imm)).toInstr u d (iVal op x (imm.signExtend 64)) :=
      toInstr_answersG (.imm op d a (.short imm)) rfl hp
    have hs (op : ShOp) : AnswersG s (SHalf.sh op d a n).toInstr u d (shVal op x n.toNat) :=
      toInstr_answersG (.sh op d a n) rfl hp
    exact ⟨hi .add, hi .and, hi .or, hi .xor, hs .shl, hs .shr, hs .sra, hs .rot⟩
  · intro u x
    have hi (op : IOp) : AnswersG s (SHalf.imm op d a (.lit lit)).toInstr u d (iVal op x lit) :=
      toInstr_answersG (.imm op d a (.lit lit)) rfl hp
    exact ⟨hi .add, hi .and, hi .or, hi .xor⟩
  · exact ⟨toInstr_answersG (.movl d (.short imm)) rfl hp, toInstr_answersG (.addpc d (.short imm)) rfl hp⟩
  · exact ⟨toInstr_answersG (.movl d (.lit lit)) rfl hp, toInstr_answersG (.addpc d (.lit lit)) rfl hp⟩

/-- Settles O3: the values of the halves, bit by bit. -/
theorem bitOperations : Obligations.BitOperations := by
  unfold Obligations.BitOperations
  refine ⟨fun s d a hp => ?_, fun s d a pos wm1 => ?_⟩
  · intro u x
    have h (op : ROp) : AnswersG s (SHalf.r1 op d a).toInstr u d (r1Val op x) := toInstr_answersG (.r1 op d a) rfl hp
    obtain ⟨hclz, hleading, hhighest⟩ := clzFrom_spec x 64
    obtain ⟨hctz, htrailing, hlowest⟩ := ctzFrom_spec x (Nat.le_refl 64)
    simp only [Nat.sub_self, Nat.zero_add] at htrailing hlowest
    have hpopc := h .popc
    rw [r1Val_popc] at hpopc
    exact ⟨⟨_, hclz, hleading, hhighest, h .clz⟩, ⟨_, hctz, htrailing, hlowest, h .ctz⟩, hpopc,
      ⟨_, fun i => getLsbD_brev x, h .brev⟩, ⟨_, fun i j => getLsbD_bswp x, h .bswp⟩⟩
  · intro w x
    refine ⟨fun hp => ⟨fun _ => ?_, ?_, ?_⟩, fun hp hfit => ?_⟩
    · rw [← zextN_toNat]
      exact toInstr_answersG (.bfx d a pos wm1) rfl hp
    · rw [← sextN_toNat x (Nat.succ_pos _)]
      exact toInstr_answersG (.exts d a wm1) rfl hp
    · rw [← zextN_toNat]
      exact toInstr_answersG (.extz d a wm1) rfl hp
    · exact ⟨_, fun i _ => getLsbD_bfiVal x (s.rg d) hfit i, toInstr_answersG (.bfi d a pos wm1) rfl hp⟩

/-- Settles O4: the compares, predicate logic, SEL and NRAND are halves; NMASK writes `nmask`, whose bits `getLsbD_nmask`
gives. -/
theorem predicatesSelectAndRandom : Obligations.PredicatesSelectAndRandom := by
  unfold Obligations.PredicatesSelectAndRandom
  refine ⟨fun s d p q a b imm lit => ?_, fun s gu d a b p thr => ?_⟩
  · intro truth x y
    refine ⟨fun hp => ?_, fun hp => ?_, fun hp => ?_, fun hp => ?_⟩
    · intro u
      have h (op : CmpOp) : AnswersP s (SHalf.cmp op d a b).toInstr u d (predWord (cmpVal op x y)) :=
        toInstr_answersP (.cmp op d a b) rfl hp
      exact ⟨h .eq, h .ne, h .lt, h .le, h .ltw, h .lew⟩
    · exact ⟨toInstr_answersP (.peqi d a (.short imm)) rfl hp, toInstr_answersP (.plti d a (.short imm)) rfl hp⟩
    · exact ⟨toInstr_answersP (.peqi d a (.lit lit)) rfl hp, toInstr_answersP (.plti d a (.lit lit)) rfl hp⟩
    · intro u
      have h (op : PLogOp) : AnswersP s (SHalf.plog op d p q).toInstr u d (plogVal op (s.rp p) (s.rp q)) :=
        toInstr_answersP (.plog op d p q) rfl hp
      exact ⟨h .and, h .or, h .xor, toInstr_answersP (.pnot d p) rfl hp⟩
  · intro x y newelOf
    refine ⟨fun hp => ⟨toInstr_answersG (.sel d a b p) rfl hp, toInstr_answersG (.nrand d a b) rfl hp⟩, fun hp => ?_⟩
    refine ⟨_, fun j => getLsbD_nmask x y thr.toNat, answersG_of_done hp rfl ?_⟩
    rw [dst_plain hp (List.mem_singleton_self _), src_of_plain hp (by simp [scalar]), src_of_plain hp (by simp [scalar])]

/-- Refutes O6: the ALIGN trap of a misaligned JALR target need not leave memory as it was, as its second half says. In `crowded`
no handler takes the trap, so that the thread blocks on a TRAP message; the service core's queue is full, and the message is
written into the service overflow, which lies in the tile's vault (R405, R414, R415). -/
theorem not_branchesAndJumps : ¬ Obligations.BranchesAndJumps := by
  unfold Obligations.BranchesAndJumps
  rintro ⟨-, h⟩
  obtain ⟨hshort, -⟩ := h crowded 5 0 2#12 0
  obtain ⟨-, hmem⟩ := hshort crowded_issues (by decide)
  have htarget : crowded.rg 0 + (2#12).signExtend 64 = 2 := by decide
  have hwritten := crowded_trap_vault
  rw [← htarget, hmem] at hwritten
  exact absurd hwritten (by decide)

end Sys2Proof
end


section
/-!
SUPPORT. Vector instructions that write one register: results known by their low bits alone, integer results (R78), and the
state each write leaves.
-/

namespace Sys2Proof.Machine

open Sys2Proof

variable {s : State} {u : Uses}

/-! ## Results told by other numbers with the same low bits -/

theorem answersV_congr {i : Instr} {d : VReg} {ty : Nat} {act : Nat → Bool} {r r' : Nat → LaneRes} (h : AnswersV s i u d ty act r)
    (hbits : ∀ i, (r i).1 % 2 ^ bitsOf ty = (r' i).1 % 2 ^ bitsOf ty) (hflags : ∀ i, (r i).2 = (r' i).2) :
    AnswersV s i u d ty act r' := by
  obtain ⟨t, hnext, hc, hlanes⟩ := h
  refine ⟨t, hnext, ?_, fun i hi => ?_⟩
  · have hf : activeFlags ty act r' = activeFlags ty act r := congrArg FFlags.orAll (List.map_congr_left fun i _ => (hflags i).symm)
    rw [hf]
    exact hc
  · rw [hlanes i hi, hbits i]

theorem vec1_answers {i : Instr} (op : V1Op) {gu : Guard} {ty : BitVec 4} {sat : Bool} {d a : VReg}
    (h : IssuesPlain s (vecUses gu ty [a] [d] s))
    (hi : exec i s = execVec gu ty [a] d (fun act s => vec1 op ty.toNat 0 sat act (s.rv a)) s) :
    AnswersV s i (vecUses gu ty [a] [d] s) d ty.toNat (s.active gu ty.toNat)
      (fun i => v1Lane op ty.toNat 0 sat (lane (s.rv a) (bitsOf ty.toNat) i)) :=
  execVec_answers h hi rfl

/-! ## Integer results (R78) -/

theorem intLo_le_intHi (ty : Nat) : intLo ty ≤ intHi ty := by
  have hs : 1 ≤ 2 ^ (bitsOf ty - 1) := Nat.one_le_two_pow
  have hu : 1 ≤ 2 ^ bitsOf ty := Nat.one_le_two_pow
  unfold intLo intHi
  cases isSigned ty <;> simp only [if_true, if_false, Bool.false_eq_true] <;> omega

/-- An integer result, saturated or wrapped. -/
theorem putI_eq (ty : Nat) (sat : Bool) (v : Int) :
    putI ty sat v = intBits ty (if sat then max (intLo ty) (min (intHi ty) v) else v) := by
  have h := intLo_le_intHi ty
  have hsat : satI ty v = max (intLo ty) (min (intHi ty) v) := by
    unfold satI
    split <;> [skip; split] <;> omega
  rw [putI, hsat]

/-! ## Writing one vector register and raising flags -/

theorem raise_wv_setCore (d : VReg) (x : Vec) (f : FFlags) :
    (s.wv d x).raise f = s.setCore s.cur ((s.me.setV d.toNat x).raise s.lv f) := by
  simp only [State.wv, State.raise, State.updMe_updMe]
  rfl

theorem vreg_raise (c : Core) (lv : Bool) (f : FFlags) (r : Nat) : (c.raise lv f).vreg r = c.vreg r :=
  (c.raise_changes lv f).vectors r (List.not_mem_nil)

theorem completes_wv (hu : u.on = true) (d : VReg) (x : Vec) (pc : Word) :
    Completes s (State.after s u (s.wv d x) pc) u pc [] [] [d.toNat] {} [] ∧ (State.after s u (s.wv d x) pc).rv d = x := by
  obtain ⟨h, -, -, hv⟩ := completes_setCore hu (s.me.setV_changes s.lv d.toNat x) pc
  refine ⟨h, (hv d).trans ?_⟩
  rw [Core.vreg_setV, if_pos rfl]

theorem completes_raise_wv (hu : u.on = true) (d : VReg) (x : Vec) (f : FFlags) (pc : Word) :
    Completes s (State.after s u ((s.wv d x).raise f) pc) u pc [] [] [d.toNat] f [] ∧
      (State.after s u ((s.wv d x).raise f) pc).rv d = x := by
  have hc := (s.me.setV_changes s.lv d.toNat x).trans (Core.raise_changes _ s.lv f)
  rw [FFlags.none_or] at hc
  obtain ⟨h, -, -, hv⟩ := completes_setCore hu hc pc
  rw [raise_wv_setCore]
  refine ⟨h, (hv d).trans ?_⟩
  rw [vreg_raise, Core.vreg_setV, if_pos rfl]

end Sys2Proof.Machine
end

section
/-!
SUPPORT. Order of lanes: minimum and maximum, absolute value and negation, VCMP (R212 to R214).
-/

namespace Sys2Proof.Machine

open Sys2Proof

variable {s : State}

/-! ## Order of two elements (R212) -/

/-- Is the first of two elements the lower? Of two zeros, the negative one is. -/
def lowerLane (ty p q : Nat) : Bool :=
  if isInt ty then decide (intVal ty p < intVal ty q)
  else
    let v := elemVal ty p
    let u := elemVal ty q
    cmpV v u == .lt || (cmpV v u == .eq && (v.neg? && !u.neg?))

theorem minMaxLane_eq (ty : Nat) (big : Bool) (p q : Nat) : minMaxLane ty big p q =
    if !isInt ty && ((elemVal ty p).isNan || (elemVal ty q).isNan) then
      (qnan (fmtOf ty), { nv := (elemVal ty p).isSig || (elemVal ty q).isSig })
    else (if lowerLane ty p q = big then q else p, {}) := by
  unfold minMaxLane lowerLane
  cases isInt ty with
  | true => simp
  | false =>
    cases h : cmpV (elemVal ty p) (elemVal ty q) <;> simp [h]

theorem minMaxLane_min (ty p q : Nat) : minMaxLane ty false p q =
    if !isInt ty && ((elemVal ty p).isNan || (elemVal ty q).isNan) then
      (qnan (fmtOf ty), { nv := (elemVal ty p).isSig || (elemVal ty q).isSig })
    else (if lowerLane ty p q then p else q, {}) := by
  rw [minMaxLane_eq]
  cases lowerLane ty p q <;> rfl

/-! ## VABS and VNEG (R213) -/

/-- Adding the sign bit changes it alone. -/
theorem add_signBit_mod {w : Nat} (hw : 0 < w) (a : Nat) : (a + 2 ^ (w - 1)) % 2 ^ w = (a ^^^ 2 ^ (w - 1)) % 2 ^ w := by
  refine Nat.eq_of_testBit_eq fun j => ?_
  rw [Nat.testBit_mod_two_pow, Nat.testBit_mod_two_pow, Nat.add_comm, Nat.testBit_xor, Nat.testBit_two_pow]
  rcases lt_trichotomy j (w - 1) with h | rfl | h
  · rw [Nat.testBit_two_pow_add_gt h, decide_eq_false h.ne', Bool.xor_false]
  · rw [Nat.testBit_two_pow_add_eq, decide_eq_true rfl, Bool.xor_true]
  · rw [decide_eq_false (by omega : ¬j < w), Bool.false_and, Bool.false_and]

theorem v1Lane_vabs (ty rm : Nat) (sat : Bool) (a : Nat) : v1Lane .vabs ty rm sat a =
    (if isInt ty then putI ty sat (intVal ty a).natAbs else a % 2 ^ (bitsOf ty - 1), {}) := by
  unfold v1Lane
  cases isInt ty <;> rfl

theorem v1Lane_vneg_flags (ty rm : Nat) (sat : Bool) (a : Nat) : (v1Lane .vneg ty rm sat a).2 = {} := by
  unfold v1Lane
  cases isInt ty <;> rfl

theorem v1Lane_vneg_mod (ty : BitVec 4) (rm : Nat) (sat : Bool) (a : Nat) :
    (v1Lane .vneg ty.toNat rm sat a).1 % 2 ^ bitsOf ty.toNat =
      (if isInt ty.toNat then putI ty.toNat sat (-(intVal ty.toNat a)) else a ^^^ 2 ^ (bitsOf ty.toNat - 1)) %
        2 ^ bitsOf ty.toNat := by
  have hw : 0 < bitsOf ty.toNat := by have := bitsOf_cases ty; omega
  unfold v1Lane
  cases isInt ty.toNat with
  | true => rfl
  | false => exact (Nat.mod_mod _ _).trans (add_signBit_mod hw a)

/-! ## VCMP (R214) -/

/-- Does a relation of VCMP hold? -/
def relHolds (rel : Nat) (x y : FVal) : Bool :=
  let nan := x.isNan || y.isNan
  match rel with
  | 0 => !nan && cmpV x y == .eq
  | 1 => nan || cmpV x y != .eq
  | 2 => !nan && cmpV x y == .lt
  | 3 => !nan && cmpV x y != .gt
  | 4 => !nan && cmpV x y == .gt
  | 5 => !nan && cmpV x y != .lt
  | _ => nan

/-- Does a relation of VCMP raise NV? The four of order do for any NaN, the others for a signalling one. -/
def relInvalid (rel : Nat) (x y : FVal) : Bool :=
  if 2 ≤ rel ∧ rel ≤ 5 then x.isNan || y.isNan else x.isSig || y.isSig

theorem lt_or_eq_eq_ne_gt (o : Ordering) : (o == .lt || o == .eq) = (o != .gt) := by cases o <;> rfl

theorem not_lt_not_eq_eq_gt (p : Bool) (o : Ordering) : (p && !(o == .lt) && !(o == .eq)) = (p && o == .gt) := by
  cases p <;> cases o <;> rfl

theorem cmpLane_eq (ty rel a b : Nat) : cmpLane ty rel a b =
    (relHolds rel (elemVal ty a) (elemVal ty b), { nv := relInvalid rel (elemVal ty a) (elemVal ty b) }) := by
  match rel with
  | 0 | 1 | 2 | 5 => rfl
  | 3 => exact congrArg (fun p => (_ && p, _)) (lt_or_eq_eq_ne_gt _)
  | 4 => exact congrArg (·, _) (not_lt_not_eq_eq_gt _ _)
  | n + 6 =>
    have h : ¬(2 ≤ n + 6 ∧ n + 6 ≤ 5) := by omega
    rw [relInvalid, if_neg h]
    rfl

theorem orAll_nv (l : List Nat) (p : Nat → Bool) : FFlags.orAll (l.map fun i => { nv := p i }) = { nv := l.any p } := by
  induction l with
  | nil => rfl
  | cons i l ih =>
    rw [List.map_cons, orAll_cons, ih]
    rfl

section
variable (ty rel : Nat) (act : Nat → Bool) (a b : Vec) (old : Word)

theorem vecCmp_flags : (vecCmp ty rel act a b old).2 = { nv := (List.range (lanesOfTy ty)).any (fun i =>
    act i && relInvalid rel (elemVal ty (lane a (bitsOf ty) i)) (elemVal ty (lane b (bitsOf ty) i))) } := by
  refine Eq.trans ?_ (orAll_nv ..)
  simp only [vecCmp, List.map_map]
  congr 1
  refine List.map_congr_left fun i _ => ?_
  cases h : act i <;> simp [h, cmpLane_eq]

/-- The bits of a word from a list of truth values. -/
theorem getLsbD_word_bits (l : List Bool) {j : Nat} (hj : j < 64) :
    (word (l.foldr (fun b acc => bit b + 2 * acc) 0)).getLsbD j = l.getD j false := by
  have h := testBit_foldLanes 1 (l.map bit) j 0 Nat.one_pos
  have hdigit (b : Bool) : bit b % 2 = bit b := Nat.mod_eq_of_lt (bit_lt_two b)
  have hgetD : (l.map bit).getD j 0 = bit (l.getD j false) := by
    simp only [List.getD_eq_getElem?_getD, List.getElem?_map]
    cases l[j]? <;> rfl
  rw [List.foldr_map, hgetD, testBit_bit_zero, Nat.mul_one, Nat.add_zero] at h
  simp only [Nat.pow_one, hdigit] at h
  rw [getLsbD_word, decide_eq_true hj, Bool.true_and, ← h]

theorem getLsbD_vecCmp {j : Nat} (hj : j < 64) : (vecCmp ty rel act a b old).1.getLsbD j =
    if lanesOfTy ty / groupOf ty ≤ j then false
    else if (List.range (groupOf ty)).any (fun k => act (j * groupOf ty + k)) then
      (List.range (groupOf ty)).all fun k => !act (j * groupOf ty + k) ||
        relHolds rel (elemVal ty (lane a (bitsOf ty) (j * groupOf ty + k))) (elemVal ty (lane b (bitsOf ty) (j * groupOf ty + k)))
    else old.getLsbD j := by
  refine (getLsbD_word_bits _ hj).trans ?_
  by_cases hout : lanesOfTy ty / groupOf ty ≤ j
  · simp [List.getD_eq_getElem?_getD, hout]
  · have hin : j < lanesOfTy ty / groupOf ty := Nat.lt_of_not_le hout
    have hlane {k : Nat} (hk : k < groupOf ty) : j * groupOf ty + k < lanesOfTy ty :=
      calc j * groupOf ty + k < (j + 1) * groupOf ty := by rw [Nat.succ_mul]; omega
        _ ≤ lanesOfTy ty / groupOf ty * groupOf ty := Nat.mul_le_mul_right _ hin
        _ ≤ lanesOfTy ty := Nat.div_mul_le_self ..
    rw [if_neg hout, List.getD_eq_getElem?_getD, List.getElem?_map, List.getElem?_range hin, Option.map_some, Option.getD_some]
    dsimp only
    rw [List.any_map, List.all_map]
    refine if_congr Iff.rfl ?_ rfl
    rw [Bool.eq_iff_iff, List.all_eq_true, List.all_eq_true]
    refine forall₂_congr fun k hk => ?_
    rw [Function.comp_apply, List.getD_eq_getElem?_getD, List.getElem?_map, List.getElem?_range (hlane (List.mem_range.mp hk)),
      Option.map_some, Option.getD_some, cmpLane_eq]
    cases act (j * groupOf ty + k) <;> rfl

end

/-! ## Writing a predicate and raising flags -/

theorem p_putV (c : Core) (lv : Bool) (d : PReg) (w : Word) (f : FFlags) :
    (c.putV lv (.p d w f)).p lv d.toNat = if d = 7 then ones else w := by
  rw [Core.putV, (Core.raise_changes _ lv f).predicates _ (List.not_mem_nil), Core.p_setP, if_pos rfl]
  simp [← BitVec.toNat_inj]

theorem execVcmp_answers {gu : Guard} {ty : BitVec 4} {rel : BitVec 3} {d : PReg} {a b : VReg}
    (h : IssuesPlain s (vecUses gu ty [a, b] [] s)) :
    let r := vecCmp ty.toNat rel.toNat (s.active gu ty.toNat) (s.rv a) (s.rv b) (s.rp d)
    ∃ t, exec (.vcmp gu ty rel d a b) s = .next t ∧
      Completes s t (vecUses gu ty [a, b] [] s) (s.pc + 12) [] [d.toNat] [] r.2 [] ∧ t.rp d = if d = 7 then ones else r.1 := by
  intro r
  obtain ⟨hc, -, hp, -⟩ := completes_setCore h.enabled (Core.putV_changes (c := s.me) (lv := s.lv) (.p d r.1 r.2)) (s.pc + 12)
  have hb : exec (.vcmp gu ty rel d a b) s = _ := runs_done h (congrArg Res.done (State.writeV_eq (.p d r.1 r.2)))
  exact ⟨_, hb, hc, (hp d).trans (p_putV ..)⟩

end Sys2Proof.Machine
end

section
/-!
SUPPORT. What moves lanes (R221, R222).
-/

namespace Sys2Proof.Machine

open Sys2Proof

variable {s : State} {u : Uses}

/-! ## VSPLAT and VPERM (R221) -/

theorem execVsplat_answers {gu : Guard} {ty : BitVec 4} {d : VReg} {a : Reg}
    (h : IssuesPlain s { vecUses gu ty [] [d] s with rs := [a.toNat] }) :
    AnswersV s (.vsplat gu ty d a) { vecUses gu ty [] [d] s with rs := [a.toNat] } d ty.toNat (s.active gu ty.toNat)
      (fun _ => ((s.rg a).toNat, {})) := by
  rw [← src_of_plain h (List.mem_singleton_self _)]
  exact answersV_congr (answersV_of_done h (i := .vsplat gu ty d a) rfl rfl) (fun _ => Nat.mod_mod _ _) fun _ => rfl

theorem execVsplatLiteral_answers {gu : Guard} {ty : BitVec 4} {d : VReg} {lit : Word}
    (h : IssuesPlain s { vecUses gu ty [] [d] s with len := 20 }) :
    AnswersV s (.vsplatLiteral gu ty d lit) { vecUses gu ty [] [d] s with len := 20 } d ty.toNat (s.active gu ty.toNat)
      (fun _ => (lit.toNat, {})) :=
  answersV_congr (answersV_of_done h (i := .vsplatLiteral gu ty d lit) rfl rfl) (fun _ => Nat.mod_mod _ _) fun _ => rfl

theorem vec2_vperm (ty rm : Nat) (sat : Bool) (act : Nat → Bool) (a b : Vec) : vec2 .vperm ty rm sat act a b =
    lanewise ty act fun i => (lane a (bitsOf ty) (lane b (bitsOf ty) i % lanesOfTy ty), {}) := rfl

/-! ## VEXT (R222) -/

/-- A narrow number sign-extended to a word. -/
theorem sextN_eq_signExtend {x w : Nat} (hw : 0 < w) (hx : x < 2 ^ 64) : sextN x w = (BitVec.ofNat w x).signExtend 64 := by
  have h := sextN_toNat (x := word x) hw
  have hn : (word x).toNat = x := by rw [word, BitVec.toNat_ofNat, Nat.mod_eq_of_lt hx]
  have hcut : (word x).setWidth w = BitVec.ofNat w x := BitVec.eq_of_toNat_eq (by rw [BitVec.toNat_setWidth, hn, BitVec.toNat_ofNat])
  rwa [hn, hcut] at h

theorem extLane_eq (ty : BitVec 4) (v : Vec) (k : Word) :
    let x := lane v (bitsOf ty.toNat) (k.toNat % lanesOfTy ty.toNat)
    extLane ty.toNat v k =
      if 9 ≤ ty.toNat ∧ ty.toNat ≤ 12 then (BitVec.ofNat (bitsOf ty.toNat) x).signExtend 64 else word x := by
  intro x
  have hw : 0 < bitsOf ty.toNat ∧ bitsOf ty.toNat ≤ 64 := by have := bitsOf_cases ty; omega
  have hx : x < 2 ^ 64 := (lane_lt ..).trans_le (Nat.pow_le_pow_right (by decide) hw.2)
  rw [← sextN_eq_signExtend hw.1 hx]
  simp only [extLane, isSigned, Bool.and_eq_true, decide_eq_true_eq]
  rfl

/-! ## VINS (R222) -/

/-- What `insLane` places under its mask is one lane of a vector. -/
theorem laneAt_eq (w i x : Nat) : insLane.laneAt w i (x % 2 ^ w) = ofLanes w (List.replicate i 0 ++ [x]) := by
  have h : (List.replicate i 0 ++ [x]).foldr (fun x acc => x % 2 ^ w + 2 ^ w * acc) 0 = x % 2 ^ w * 2 ^ (i * w) := by
    induction i with
    | zero => simp
    | succ i ih =>
      rw [List.replicate_succ, List.cons_append, List.foldr_cons, ih, Nat.zero_mod]
      ring
  rw [insLane.laneAt, ofLanes, h]

theorem getD_replicate_append (k x i : Nat) : (List.replicate k 0 ++ [x]).getD i 0 = if i = k then x else 0 := by
  rcases lt_trichotomy i k with h | rfl | h
  · simp [List.getD_eq_getElem?_getD, List.getElem?_append_left, h, h.ne]
  · simp [List.getD_eq_getElem?_getD]
  · simp [List.getD_eq_getElem?_getD, h.ne', h]

theorem lane_laneAt (ty : BitVec 4) {i : Nat} (hi : i < lanesOfTy ty.toNat) (k x : Nat) :
    lane (insLane.laneAt (bitsOf ty.toNat) k (x % 2 ^ bitsOf ty.toNat)) (bitsOf ty.toNat) i =
      if i = k then x % 2 ^ bitsOf ty.toNat else 0 := by
  rw [laneAt_eq, lane_ofLanes _ (lanes_fit ty hi), getD_replicate_append, apply_ite (· % 2 ^ bitsOf ty.toNat), Nat.zero_mod]

theorem insLane_lanes (ty : BitVec 4) (v : Vec) (k x : Word) : LanesWritten ty.toNat
    (fun i => i == k.toNat % lanesOfTy ty.toNat) (fun _ => (x.toNat, {})) v (insLane ty.toNat v k x) := by
  intro i hi
  have hpos := Nat.two_pow_pos (bitsOf ty.toNat)
  have hones : (2 ^ bitsOf ty.toNat - 1) % 2 ^ bitsOf ty.toNat = 2 ^ bitsOf ty.toNat - 1 := Nat.mod_eq_of_lt (by omega)
  have hmask := lane_laneAt ty hi (k.toNat % lanesOfTy ty.toNat) (2 ^ bitsOf ty.toNat - 1)
  rw [hones] at hmask
  show lane (blend v _ _) _ i = _
  by_cases hik : i = k.toNat % lanesOfTy ty.toNat
  · rw [lane_blend_on _ _ _ (hmask.trans (if_pos hik)), lane_laneAt ty hi, if_pos hik, if_pos (beq_iff_eq.mpr hik)]
  · rw [lane_blend_off _ _ _ (lanes_fit ty hi) (hmask.trans (if_neg hik)), if_neg (by simpa using hik)]

theorem activeFlags_none (ty : Nat) (act : Nat → Bool) (r : Nat → Nat) : activeFlags ty act (fun i => (r i, {})) = {} := by
  unfold activeFlags
  induction (List.range (lanesOfTy ty)).filter act with
  | nil => rfl
  | cons i l ih => rw [List.map_cons, orAll_cons, ih, FFlags.none_or]

theorem execVins_answers {gu : Guard} {ty : BitVec 4} {d : VReg} {a b : Reg}
    (h : IssuesPlain s { len := 12, on := s.guard gu, rs := [a.toNat, b.toNat], vs := [d.toNat], vw := [d.toNat] }) :
    AnswersV s (.vins gu ty d a b) { len := 12, on := s.guard gu, rs := [a.toNat, b.toNat], vs := [d.toNat], vw := [d.toNat] } d
      ty.toNat (fun i => i == (s.rg b).toNat % lanesOfTy ty.toNat) (fun _ => ((s.rg a).toNat, {})) := by
  have hb : exec (.vins gu ty d a b) s = _ :=
    runs_done h (t := s.wv d (insLane ty.toNat (s.rv d) (s.rg b) (s.rg a))) (by
      rw [src_of_plain h (by simp), src_of_plain h (by simp)])
  obtain ⟨hc, hv⟩ := completes_wv h.enabled d (insLane ty.toNat (s.rv d) (s.rg b) (s.rg a)) (s.pc + word 12)
  refine ⟨_, hb, ?_, ?_⟩
  · rw [activeFlags_none]
    exact hc
  · exact (congrArg (LanesWritten _ _ _ (s.rv d)) hv).mpr (insLane_lanes ty _ _ _)

end Sys2Proof.Machine
end

section
/-!
SUPPORT. Reductions (R218): the model folds the list of terms level by level, and its last entry is the root of the tree.
-/

namespace Sys2Proof.Machine

open Sys2Proof

/-! ## Trees -/

variable {α : Type}

/-- Two nodes of a tree combined (R218): of two the operation's result, with the flags of both and its own; one alone passes up
unchanged. -/
def combine (op : α → α → α × FFlags) : Option (α × FFlags) → Option (α × FFlags) → Option (α × FFlags)
  | none, r => r
  | l, none => l
  | some (x, f), some (y, g) => some ((op x y).1, (f.or g).or (op x y).2)

/-- Node `k` of level `l` of the tree over some leaves. -/
def treeNode {N : Type} (c : N → N → N) (leaf : Nat → N) : Nat → Nat → N
  | 0, i => leaf i
  | l + 1, k => c (treeNode c leaf l (2 * k)) (treeNode c leaf l (2 * k + 1))

variable {N : Type} {c : N → N → N}

/-- The tree over the level above the leaves. -/
theorem treeNode_level (leaf : Nat → N) (l k : Nat) :
    treeNode c (treeNode c leaf 1) l k = treeNode c leaf (l + 1) k := by
  induction l generalizing k with
  | zero => rfl
  | succ l ih =>
    show c _ _ = c _ _
    rw [ih, ih]

/-- Pairing off neighbours makes the nodes of one level those of the next. -/
theorem pairs_range {pair : List N → List N} (hnil : pair [] = []) (hcons : ∀ x y l, pair (x :: y :: l) = c x y :: pair l)
    (f : Nat → N) (n : Nat) : pair ((List.range (2 * n)).map f) = (List.range n).map (treeNode c f 1) := by
  induction n generalizing f with
  | zero => exact hnil
  | succ n ih =>
    have hrange : (List.range (2 * (n + 1))).map f = f 0 :: f 1 :: (List.range (2 * n)).map fun i => f (i + 2) := by
      simp [Nat.mul_succ, List.range_succ_eq_map, Function.comp_def]
    rw [hrange, hcons, ih, List.range_succ_eq_map, List.map_cons, List.map_map]
    rfl

/-- Level after level, down to the root. -/
theorem levels_root {pair : List N → List N} (hnil : pair [] = []) (hcons : ∀ x y l, pair (x :: y :: l) = c x y :: pair l)
    {up : Nat → List N → N} (hzero : ∀ x l, up 0 (x :: l) = x) (hsucc : ∀ k l, up (k + 1) l = up k (pair l))
    (f : Nat → N) (k : Nat) : up k ((List.range (2 ^ k)).map f) = treeNode c f k 0 := by
  induction k generalizing f with
  | zero => exact hzero _ _
  | succ k ih => rw [hsucc, Nat.pow_succ', pairs_range hnil hcons, ih, treeNode_level]

theorem treeUp_root (op : FVal → FVal → FVal × FFlags) (leaf : Nat → Node) (k : Nat) :
    treeUp op k ((List.range (2 ^ k)).map leaf) = treeNode (combine op) leaf k 0 := by
  refine levels_root (pair := treeLevel op) rfl (fun x y l => ?_) (fun _ _ => rfl) (fun _ _ => rfl) leaf k
  cases x <;> cases y <;> rfl

theorem treeBits_root (op : Nat → Nat → LaneRes) (leaf : Nat → Option LaneRes) (k : Nat) :
    treeBits op k ((List.range (2 ^ k)).map leaf) = treeNode (combine op) leaf k 0 := by
  refine levels_root (pair := treeBits.pairUp op) rfl (fun x y l => ?_) (fun _ _ => rfl) (fun _ _ => rfl) leaf k
  cases x <;> cases y <;> rfl

theorem lanesOfTy_pow (ty : BitVec 4) : lanesOfTy ty.toNat = 2 ^ Nat.log2 (lanesOfTy ty.toNat) := by
  revert ty; decide

/-! ## The results of the reductions (R218) -/

/-- The leaves of a reduction: the terms of the active lanes. -/
def leaves {α : Type} (act : Nat → Bool) (term : Nat → α × FFlags) (i : Nat) : Option (α × FFlags) :=
  if act i then some (term i) else none

/-- The root of the tree over the lanes of a vector of type `ty`. -/
def treeRoot {α : Type} (ty : Nat) (act : Nat → Bool) (op : α → α → α × FFlags) (term : Nat → α × FFlags) :
    Option (α × FFlags) :=
  treeNode (combine op) (leaves act term) (Nat.log2 (lanesOfTy ty)) 0

/-- A sum rounded to FP32, as a VDOT of any type but FP64 is at its root. -/
def roundToFp32 (e : FVal × FFlags) : FVal × FFlags :=
  (decF (fmtOf 1) (roundF (fmtOf 1) 0 false e.1).1, e.2.or (roundF (fmtOf 1) 0 false e.1).2)

/-- The last rounding of a sum, to its own type. -/
def roundLast (ty : Nat) (e : FVal × FFlags) : LaneRes :=
  let r := roundF (fmtOf ty) 0 false e.1
  (r.1, e.2.or { r.2 with nv := r.2.nv || e.1.isSig })

theorem treeSum_eq (ty : Nat) (dot : Bool) (terms : List Node) :
    treeSum ty dot terms = (treeUp (sumNode ty) (Nat.log2 terms.length) terms).map
      fun e => roundLast ty (if dot && ty ≠ 0 then roundToFp32 e else e) := by
  unfold treeSum
  cases treeUp (sumNode ty) (Nat.log2 terms.length) terms with
  | none => rfl
  | some e =>
    simp only [Option.map_some]
    cases dot && decide (ty ≠ 0) <;> rfl

section
variable (ty : BitVec 4) (act : Nat → Bool)

theorem treeUp_lanes (op : FVal → FVal → FVal × FFlags) (term : Nat → FVal × FFlags) :
    treeUp op (Nat.log2 (lanesOfTy ty.toNat)) ((List.range (lanesOfTy ty.toNat)).map (leaves act term)) =
      treeRoot ty.toNat act op term := by
  conv_lhs => arg 3; rw [lanesOfTy_pow ty]
  exact treeUp_root ..

theorem treeBits_lanes (op : Nat → Nat → LaneRes) (term : Nat → LaneRes) :
    treeBits op (Nat.log2 (lanesOfTy ty.toNat)) ((List.range (lanesOfTy ty.toNat)).map (leaves act term)) =
      treeRoot ty.toNat act op term := by
  conv_lhs => arg 3; rw [lanesOfTy_pow ty]
  exact treeBits_root ..

theorem treeSum_lanes (dot : Bool) (term : Nat → FVal × FFlags) :
    treeSum ty.toNat dot ((List.range (lanesOfTy ty.toNat)).map (leaves act term)) =
      (treeRoot ty.toNat act (sumNode ty.toNat) term).map
        fun e => roundLast ty.toNat (if dot && ty.toNat ≠ 0 then roundToFp32 e else e) := by
  rw [treeSum_eq, List.length_map, List.length_range, treeUp_lanes]

theorem vecReduce_min (sat : Bool) (a : Vec) : vecReduce .vrmin ty.toNat sat act a =
    treeRoot ty.toNat act (minMaxLane ty.toNat false) fun i => (lane a (bitsOf ty.toNat) i, {}) := treeBits_lanes ..

theorem vecReduce_max (sat : Bool) (a : Vec) : vecReduce .vrmax ty.toNat sat act a =
    treeRoot ty.toNat act (minMaxLane ty.toNat true) fun i => (lane a (bitsOf ty.toNat) i, {}) := treeBits_lanes ..

theorem vecReduce_sum_int (h : isInt ty.toNat = true) (sat : Bool) (a : Vec) : vecReduce .vrsum ty.toNat sat act a =
    treeRoot ty.toNat act (fun x y => (putI ty.toNat sat (intVal ty.toNat x + intVal ty.toNat y), {}))
      fun i => (lane a (bitsOf ty.toNat) i, {}) :=
  (if_pos h).trans (treeBits_lanes ..)

theorem vecReduce_sum_fp (h : isInt ty.toNat = false) (sat : Bool) (a : Vec) : vecReduce .vrsum ty.toNat sat act a =
    (treeRoot ty.toNat act (sumNode ty.toNat) fun i => (elemVal ty.toNat (lane a (bitsOf ty.toNat) i), {})).map
      (roundLast ty.toNat) :=
  (if_neg (ne_true_of_eq_false h)).trans (treeSum_lanes ty act false _)

theorem vecDot_eq (a b : Vec) : vecDot ty.toNat act a b =
    (treeRoot ty.toNat act (sumNode ty.toNat) fun i =>
      mulV (elemVal ty.toNat (lane a (bitsOf ty.toNat) i)) (elemVal ty.toNat (lane b (bitsOf ty.toNat) i))).map
      fun e => roundLast ty.toNat (if ty.toNat = 0 then e else roundToFp32 e) := by
  refine (treeSum_lanes ty act true _).trans ?_
  congr 1
  funext e
  simp [ite_not]

end

/-! ## Writing a reduction's result -/

variable {s : State}

/-- The instruction leaves a reduction's result in lane 0 of `d` and zeros in its other lanes, or, where no lane is active, nothing
(R218). -/
def Reduces (s : State) (i : Instr) (u : Uses) (d : VReg) (ty : Nat) (r : Option LaneRes) : Prop :=
  ∃ t, exec i s = .next t ∧
    match r with
    | none => Completes s t u (s.pc + 12) [] [] [] {} []
    | some (x, f) => Completes s t u (s.pc + 12) [] [] [d.toNat] f [] ∧
        ∀ k, k < lanesOfTy ty → lane (t.rv d) (bitsOf ty) k = if k = 0 then x % 2 ^ bitsOf ty else 0

theorem execReduce_reduces {i : Instr} {gu : Guard} {ty : BitVec 4} {srcs : List VReg} {d : VReg}
    {f : (Nat → Bool) → State → Option LaneRes} {r : Option LaneRes}
    (h : IssuesPlain s { vecUses gu ty srcs [] s with vw := [d.toNat] }) (hi : exec i s = execReduce gu ty srcs d f s)
    (hr : f (s.active gu ty.toNat) s = r) :
    Reduces s i { vecUses gu ty srcs [] s with vw := [d.toNat] } d ty.toNat r := by
  cases r with
  | none => exact ⟨_, hi.trans (runs_done h (t := s) (by simp only [hr])), completes_nothing h.enabled _⟩
  | some e =>
    obtain ⟨hc, hv⟩ := completes_raise_wv h.enabled d (ofLanes (bitsOf ty.toNat) [e.1]) e.2 (s.pc + 12)
    refine ⟨_, hi.trans (runs_done h (by simp only [hr])), hc,
      fun k hk => (congrArg (fun v => lane v _ k) hv).trans ?_⟩
    rw [lane_ofLanes _ (lanes_fit ty hk)]
    cases k with
    | zero => rfl
    | succ k => exact Nat.zero_mod _

end Sys2Proof.Machine
end

section
/-!
SUPPORT. A vector of which a window of lanes is computed, and the rest left as it is; shifts within a lane (R216, R220).
-/

namespace Sys2Proof.Machine

open Sys2Proof

/-! ## Shifts within a lane (R220) -/

/-- An arithmetic shift right rounds the quotient down. -/
theorem v2Lane_vsra (ty rm : Nat) (sat : Bool) (a b : Nat) : v2Lane .vsra ty rm sat a b =
    (((BitVec.ofNat (bitsOf ty) a).sshiftRight (b % bitsOf ty)).toNat, {}) := by
  have h : ((BitVec.ofNat (bitsOf ty) a).sshiftRight (b % bitsOf ty)).toNat =
      (((BitVec.ofNat (bitsOf ty) a).sshiftRight (b % bitsOf ty)).toInt % (2 ^ bitsOf ty : Nat)).toNat := by
    rw [← BitVec.toNat_ofInt, BitVec.ofInt_toInt]
  rw [h, BitVec.toInt_sshiftRight, Int.shiftRight_eq_div_pow, ← sintN_eq_toInt, Nat.cast_pow]
  rfl

theorem v2Lane_vshl_mod (ty rm : Nat) (sat : Bool) (a b : Nat) :
    (v2Lane .vshl ty rm sat a b).1 % 2 ^ bitsOf ty = a * 2 ^ (b % bitsOf ty) % 2 ^ bitsOf ty := Nat.mod_mod _ _

/-! ## Lists of lanes -/

section
variable {α : Type}

theorem flatMap_blocks (g : Nat → α) (m : Nat) :
    ((List.range m).flatMap fun k => (List.range 16).map fun j => g (16 * k + j)) = (List.range (16 * m)).map g := by
  induction m with
  | zero => rfl
  | succ m ih =>
    rw [List.range_succ (n := m), List.flatMap_append, ih, Nat.mul_succ, List.range_add, List.map_append, List.map_map,
      List.flatMap_singleton]
    rfl

theorem getD_map_range (g : Nat → α) (z : α) (n i : Nat) : ((List.range n).map g).getD i z = if i < n then g i else z := by
  by_cases h : i < n
  · simp [List.getD_eq_getElem?_getD, h]
  · simp [List.getD_eq_getElem?_getD, h]

theorem getD_padded {lo i : Nat} (h : lo ≤ i) (z : α) (l : List α) : (List.replicate lo z ++ l).getD i z = l.getD (i - lo) z := by
  rw [List.getD_eq_getElem?_getD, List.getElem?_append_right (by simpa using h), List.length_replicate, List.getD_eq_getElem?_getD]

/-- A list of `lo + cnt + rest` places with values in the window alone. -/
theorem map_range_window (g : Nat → α) (z : α) (lo cnt rest : Nat) :
    ((List.range (lo + cnt + rest)).map fun i => if lo ≤ i ∧ i < lo + cnt then g i else z) =
      List.replicate lo z ++ ((List.range cnt).map fun t => g (lo + t)) ++ List.replicate rest z := by
  rw [List.range_add, List.range_add, List.map_append, List.map_append, List.map_map, List.map_map]
  congr 1
  · congr 1
    · refine List.eq_replicate_iff.mpr ⟨by simp, fun x hx => ?_⟩
      obtain ⟨i, hi, rfl⟩ := List.mem_map.mp hx
      exact if_neg fun h => absurd (List.mem_range.mp hi) (Nat.not_lt.mpr h.1)
    · refine List.map_congr_left fun t ht => if_pos ⟨Nat.le_add_right .., ?_⟩
      exact Nat.add_lt_add_left (List.mem_range.mp ht) lo
  · refine List.eq_replicate_iff.mpr ⟨by simp, fun x hx => ?_⟩
    obtain ⟨i, hi, rfl⟩ := List.mem_map.mp hx
    exact if_neg fun h => absurd h.2 (Nat.not_lt.mpr (Nat.le_add_right ..))

end

theorem ofLanes_append_zeros (w k : Nat) (l : List Nat) : ofLanes w (l ++ List.replicate k 0) = ofLanes w l := by
  have h : (List.replicate k 0).foldr (fun x acc => x % 2 ^ w + 2 ^ w * acc) 0 = 0 := by
    induction k with
    | zero => rfl
    | succ k ih => rw [List.replicate_succ, List.foldr_cons, ih, Nat.zero_mod, Nat.mul_zero]
  rw [ofLanes, ofLanes, List.foldr_append, h]

theorem orAll_append (l m : List FFlags) : FFlags.orAll (l ++ m) = (FFlags.orAll l).or (FFlags.orAll m) := by
  rw [FFlags.orAll, List.foldl_append, foldl_or]
  rfl

theorem orAll_replicate_none (k : Nat) : FFlags.orAll (List.replicate k {}) = {} := by
  induction k with
  | zero => rfl
  | succ k ih => rw [List.replicate_succ, orAll_cons, ih, FFlags.none_or]

/-- The entry of a lane in the list of a window's results: its bits, whether it is written, its flags. -/
def windowEntry (w : Nat → Bool) (r : Nat → LaneRes) (i : Nat) : Nat × Bool × FFlags :=
  let e : LaneRes := if w i then r i else (0, {})
  (e.1, w i, e.2)

/-- Writing the entries of a window of lanes is an operation lane by lane. -/
theorem lanewise_window {ty : Nat} (w : Nat → Bool) (r : Nat → LaneRes) {lo cnt : Nat} (h : lo + cnt ≤ lanesOfTy ty) :
    let rs := (List.range cnt).map fun t => windowEntry w r (lo + t)
    ({ val := ofLanes (bitsOf ty) (List.replicate lo 0 ++ rs.map (fun r => r.1)),
       mask := laneMask (bitsOf ty) (fun i => decide (lo ≤ i) && (rs.getD (i - lo) (0, false, {})).2.1),
       flags := FFlags.orAll (rs.map (fun r => r.2.2)) } : VecRes) =
      lanewise ty (fun i => w i && decide (lo ≤ i) && decide (i < lo + cnt)) r := by
  intro rs
  let entry : Nat → LaneRes := fun i => if w i then r i else (0, {})
  obtain ⟨rest, hrest⟩ := Nat.exists_eq_add_of_le h
  let z : LaneRes := (0, {})
  have hall : ((List.range (lanesOfTy ty)).map fun i => if w i && decide (lo ≤ i) && decide (i < lo + cnt) then r i else z) =
      List.replicate lo z ++ ((List.range cnt).map fun t => entry (lo + t)) ++ List.replicate rest z := by
    rw [hrest, ← map_range_window]
    refine List.map_congr_left fun i _ => ?_
    cases hw : w i <;> simp [entry, z, hw]
  unfold lanewise
  rw [hall]
  simp only [VecRes.mk.injEq]
  refine ⟨?_, congrArg _ (funext fun i => ?_), ?_⟩
  · rw [List.map_append, List.map_append, List.map_replicate, List.map_replicate, ofLanes_append_zeros, List.map_map, List.map_map]
    rfl
  · by_cases hi : lo ≤ i
    · have hlo : lo + (i - lo) = i := Nat.add_sub_cancel' hi
      have hlt : i - lo < cnt ↔ i < lo + cnt := by omega
      rw [getD_map_range, hlo]
      simp only [hi, hlt, windowEntry]
      by_cases h : i < lo + cnt <;> simp [h]
    · simp [hi]
  · rw [List.map_append, List.map_append, List.map_replicate, List.map_replicate, orAll_append, orAll_append, orAll_replicate_none,
      orAll_replicate_none, FFlags.none_or, FFlags.or_none, List.map_map, List.map_map]
    rfl

end Sys2Proof.Machine
end

section
/-!
SUPPORT. Conversions and block scales (R216, R217).
-/

namespace Sys2Proof.Machine

open Sys2Proof

/-! ## Blocks of a vector of an MX type -/

/-- The active lanes of a block. -/
def blockLanes (act : Nat → Bool) (b : Nat) : List Nat := ((List.range 16).map fun j => 16 * b + j).filter act

section
variable (ty rm : Nat) (act : Nat → Bool) (x : Nat → FVal) (sc : Nat → Nat)

/-- Is a block one of NaN in MXF4 (R77)? -/
def nanBlock (b : Nat) : Bool := ty == 8 && blockNan ((blockLanes act b).map x)

/-- Is a lane written? All of a block of NaN are. -/
def mxWrites (i : Nat) : Bool := act i || nanBlock ty act x (i / 16)

/-- What is written to a lane, of the values `x` and under the scale bytes `sc`. -/
def mxRes (i : Nat) : LaneRes :=
  if nanBlock ty act x (i / 16) then (0, blockNanFlags ((blockLanes act (i / 16)).map x))
  else if sc (i / 16) = 255 then (0, {})
  else mxLane ty rm (sc (i / 16)) (x i)

/-- The entry of a lane in the list of a conversion's results. -/
def mxEntry (i : Nat) : Nat × Bool × FFlags := windowEntry (mxWrites ty act x) (mxRes ty rm act x sc) i

/-- The entry of a lane, by the block it lies in. -/
theorem mxEntry_eq (i : Nat) : mxEntry ty rm act x sc i =
    if nanBlock ty act x (i / 16) then (0, true, blockNanFlags ((blockLanes act (i / 16)).map x))
    else if sc (i / 16) = 255 then (0, act i, {})
    else if act i then ((mxLane ty rm (sc (i / 16)) (x i)).1, true, (mxLane ty rm (sc (i / 16)) (x i)).2)
    else (0, false, {}) := by
  unfold mxEntry windowEntry mxWrites mxRes
  cases nanBlock ty act x (i / 16) <;> cases act i <;> simp
  split <;> rfl

/-- The entries of one block, of block `k` of a window that starts at block `q`. -/
theorem mxEntry_block (q k : Nat) : ((List.range 16).map fun j => mxEntry ty rm act x sc (16 * q + (16 * k + j))) =
    ((List.range 16).map fun j => 16 * (q + k) + j).map fun i =>
      if nanBlock ty act x (q + k) then (0, true, blockNanFlags ((blockLanes act (q + k)).map x))
      else if sc (q + k) = 255 then (0, act i, {})
      else if act i then ((mxLane ty rm (sc (q + k)) (x i)).1, true, (mxLane ty rm (sc (q + k)) (x i)).2)
      else (0, false, {}) := by
  rw [List.map_map]
  refine List.map_congr_left fun j hj => ?_
  have hi : 16 * (q + k) + j = 16 * q + (16 * k + j) := by omega
  have hb : (16 * q + (16 * k + j)) / 16 = q + k := by
    have := List.mem_range.mp hj
    omega
  rw [mxEntry_eq, hb, Function.comp_apply, hi]

end

/-- VCVT into an MX type, of `n` lanes from lane `lo`, which are whole blocks: a conversion lane by lane, and the blocks of NaN. -/
theorem vecCvt_mx {src ty part lo n : Nat} {off : Int} {x : Nat → FVal} (rm : Nat) (sat : Bool) (act : Nat → Bool) (a c : Vec)
    (hmx : isMX ty = true) (hspan : cvtSpan src ty part = (lo, n, off)) (hlo : 16 ∣ lo) (hn : 16 ∣ n)
    (hfit : lo + n ≤ lanesOfTy ty)
    (hx : ∀ i : Nat, elemVal src (lane a (bitsOf src) ((i : Int) + off).toNat) = x i) :
    vecCvt src ty rm sat part act a c =
      (lanewise ty (fun i => mxWrites ty act x i && decide (lo ≤ i) && decide (i < lo + n)) (mxRes ty rm act x (lane c 8)),
        ((List.range (n / 16)).filter fun k => nanBlock ty act x (lo / 16 + k)).map fun k => lo / 16 + k) := by
  obtain ⟨q, rfl⟩ := hlo
  obtain ⟨m, rfl⟩ := hn
  rw [← lanewise_window _ _ hfit]
  unfold vecCvt
  rw [hspan]
  simp only [hmx, if_true, Nat.mul_div_cancel_left _ (by decide : 0 < 16), hx]
  rw [List.map_congr_left (l := List.range m) (g := fun k =>
    ((List.range 16).map fun j => mxEntry ty rm act x (lane c 8) (16 * q + (16 * k + j)), nanBlock ty act x (q + k))) ?hblock]
  case hblock =>
    intro k _
    rw [mxEntry_block]
    cases hn : nanBlock ty act x (q + k) with
    | true => exact if_pos hn
    | false =>
      refine (if_neg (ne_true_of_eq_false hn)).trans ?_
      split <;> rfl
  rw [List.flatMap_map, flatMap_blocks (fun t => mxEntry ty rm act x (lane c 8) (16 * q + t))]
  refine Prod.ext rfl (congrArg (List.map (q + ·)) (List.filter_congr fun k hk => ?_))
  rw [getD_map_range, if_pos (List.mem_range.mp hk)]

/-- Elsewhere than into an MX type no block is one of NaN. -/
theorem vecCvt_plain {src ty : Nat} (rm : Nat) (sat : Bool) (part : Nat) (act : Nat → Bool) (a c : Vec) (hmx : isMX ty = false) :
    let sp := cvtSpan src ty part
    let from_ := fun (i : Nat) => ((i : Int) + sp.2.2).toNat
    vecCvt src ty rm sat part act a c =
      (lanewise ty (fun i => act i && decide (sp.1 ≤ i) && decide (i < sp.1 + sp.2.1)) fun i =>
        cvtLane src ty rm sat (lane c 8 (from_ i / 16)) (lane a (bitsOf src) (from_ i)), []) :=
  if_neg (ne_true_of_eq_false hmx)

theorem nanBlock_of_ne {ty : Nat} (h : ty ≠ 8) (act : Nat → Bool) (x : Nat → FVal) (b : Nat) : nanBlock ty act x b = false := by
  rw [nanBlock, beq_eq_false_iff_ne.mpr h, Bool.false_and]

theorem mxWrites_of_ne {ty : Nat} (h : ty ≠ 8) (act : Nat → Bool) (x : Nat → FVal) : mxWrites ty act x = act := by
  funext i
  rw [mxWrites, nanBlock_of_ne h, Bool.or_false]

theorem mxRes_of_ne {ty : Nat} (h : ty ≠ 8) (rm : Nat) (act : Nat → Bool) (x : Nat → FVal) (sc : Nat → Nat) :
    mxRes ty rm act x sc = fun i => if sc (i / 16) = 255 then (0, {}) else mxLane ty rm (sc (i / 16)) (x i) := by
  funext i
  rw [mxRes, nanBlock_of_ne h, if_neg Bool.false_ne_true]

theorem contains_window (q m : Nat) (p : Nat → Bool) (b : Nat) :
    (((List.range m).filter fun k => p (q + k)).map fun k => q + k).contains b = (decide (q ≤ b) && decide (b < q + m) && p b) := by
  rw [Bool.eq_iff_iff, List.contains_iff_mem]
  simp only [List.mem_map, List.mem_filter, List.mem_range, Bool.and_eq_true, decide_eq_true_eq]
  constructor
  · rintro ⟨k, ⟨hk, hp⟩, rfl⟩
    exact ⟨⟨Nat.le_add_right .., Nat.add_lt_add_left hk q⟩, hp⟩
  · rintro ⟨⟨hq, hb⟩, hp⟩
    exact ⟨b - q, ⟨by omega, by rwa [Nat.add_sub_cancel' hq]⟩, Nat.add_sub_cancel' hq⟩

/-- The lanes that a conversion from a floating-point type into an MX type writes are whole blocks. -/
theorem cvtSpan_mx {src ty : BitVec 4} (hsrc : src.toNat ≤ 3) (hty : isMX ty.toNat = true) (part : Nat) :
    16 ∣ lanesOfTy src.toNat ∧
      cvtSpan src.toNat ty.toNat part =
        (part * lanesOfTy src.toNat, lanesOfTy src.toNat, -((part * lanesOfTy src.toNat : Nat) : Int)) := by
  have hlanes : lanesOfTy src.toNat < lanesOfTy ty.toNat ∧ 16 ∣ lanesOfTy src.toNat := by
    revert hsrc hty
    revert src ty
    decide
  exact ⟨hlanes.2, if_pos hlanes.1⟩

section
variable {src ty : BitVec 4} (hsrc : src.toNat ≤ 3) (rm : Nat) (sat : Bool) {part : Nat} (act : Nat → Bool) (a c : Vec)
include hsrc

/-- Into MXF8 no block is one of NaN. -/
theorem vecCvt_intoMxf8 (hty : ty = 6 ∨ ty = 7) (hfit : (part + 1) * lanesOfTy src.toNat ≤ 128) :
    let sp := cvtSpan src.toNat ty.toNat part
    vecCvt src.toNat ty.toNat rm sat part act a c =
      (lanewise ty.toNat (fun i => act i && decide (sp.1 ≤ i) && decide (i < sp.1 + sp.2.1)) fun i =>
        if lane c 8 (i / 16) = 255 then (0, {})
        else mxLane ty.toNat rm (lane c 8 (i / 16))
          (elemVal src.toNat (lane a (bitsOf src.toNat) ((i : Int) + sp.2.2).toNat)), []) := by
  intro sp
  have hmx : isMX ty.toNat = true ∧ lanesOfTy ty.toNat = 128 ∧ ty.toNat ≠ 8 := by rcases hty with rfl | rfl <;> decide
  obtain ⟨hmx, hlanes, hne⟩ := hmx
  obtain ⟨hn, hspan⟩ := cvtSpan_mx hsrc hmx part
  rw [show sp = _ from hspan]
  refine (vecCvt_mx rm sat act a c hmx hspan (hn.mul_left part) hn (by rwa [hlanes, ← Nat.succ_mul]) fun _ => rfl).trans ?_
  rw [mxWrites_of_ne hne, mxRes_of_ne hne]
  simp only [nanBlock_of_ne hne, List.filter_false, List.map_nil]

/-- Into MXF4 a block may be one of NaN. -/
theorem vecCvt_intoMxf4 (hfit : (part + 1) * lanesOfTy src.toNat ≤ 256) :
    let n := lanesOfTy src.toNat
    let lo := part * n
    let x := fun (i : Nat) => elemVal src.toNat (lane a (bitsOf src.toNat) (i - lo))
    let within := fun (i : Nat) => decide (lo ≤ i) && decide (i < lo + n)
    let nan := fun (b : Nat) => blockNan ((blockLanes act b).map x)
    ∃ bs, vecCvt src.toNat 8 rm sat part act a c =
        (lanewise 8 (fun i => within i && (act i || nan (i / 16))) (fun i =>
          if nan (i / 16) then (0, blockNanFlags ((blockLanes act (i / 16)).map x))
          else if lane c 8 (i / 16) = 255 then (0, {})
          else mxLane 8 rm (lane c 8 (i / 16)) (x i)), bs) ∧
      ∀ b, bs.contains b = (within (16 * b) && nan b) := by
  intro n lo x within nan
  obtain ⟨hn, hspan⟩ := cvtSpan_mx (ty := 8) hsrc rfl part
  have hlo : 16 ∣ lo := hn.mul_left part
  have hfrom (i : Nat) : ((i : Int) + -(lo : Int)).toNat = i - lo := by omega
  have hcvt := vecCvt_mx (x := x) rm sat act a c rfl hspan hlo hn (by rwa [← Nat.succ_mul])
    fun i => congrArg (elemVal _ <| lane a _ ·) (hfrom i)
  refine ⟨_, hcvt.trans (congrArg (·, _) ?_), fun b => ?_⟩
  · refine congrArg (lanewise 8 · _) (funext fun i => ?_)
    show (mxWrites 8 act x i && decide (lo ≤ i) && decide (i < lo + n)) = _
    rw [Bool.and_assoc, Bool.and_comm]
    rfl
  · have hfirst : lo ≤ 16 * b ↔ lo / 16 ≤ b := by omega
    have hlast : 16 * b < lo + n ↔ b < lo / 16 + n / 16 := by omega
    rw [contains_window]
    simp only [within, hfirst, hlast]
    rfl

end

/-! ## The effect of a conversion -/

variable {s : State}

/-- What VCVT declares. -/
def cvtUses (gu : Guard) (ty src : BitVec 4) (d a c : VReg) (len : Nat) (s : State) : Uses :=
  { vecUses gu ty (if isMX ty.toNat || isMX src.toNat then [a, c] else [a]) (if ty = 8 then [d, c] else [d]) s with len := len }

/-- A conversion none of whose blocks is one of NaN. -/
theorem execCvt_answers {i : Instr} {gu : Guard} {ty src : BitVec 4} {rm : BitVec 3} {sat : Bool} {d a c : VReg} {part len : Nat}
    {act : Nat → Bool} {r : Nat → LaneRes} (h : IssuesPlain s (cvtUses gu ty src d a c len s))
    (hi : exec i s = execCvt gu ty src rm sat d a c part len s)
    (hr : vecCvt src.toNat ty.toNat rm.toNat sat part (s.active gu ty.toNat) (s.rv a) (s.rv c) = (lanewise ty.toNat act r, [])) :
    AnswersV s i (cvtUses gu ty src d a c len s) d ty.toNat act r := by
  refine answersV_of_done h hi ?_
  simp only [hr]
  rfl

/-- A core after the scale bytes of some blocks have been set to 0xFF. -/
def Core.putScales (c : VReg) (bs : List Nat) (e : Core) : Core :=
  if bs.isEmpty then e else e.setV c.toNat (nanScales (e.vreg c.toNat) bs)

section
variable (c : VReg) (bs : List Nat) (e : Core) (lv : Bool)

theorem putScales_changes : e.Changes (e.putScales c bs) lv [] [] [c.toNat] {} [] := by
  unfold Core.putScales
  cases bs.isEmpty with
  | true => exact (e.changes_refl lv).mono (List.nil_subset _) (List.nil_subset _) (List.nil_subset _)
  | false => exact e.setV_changes lv c.toNat _

theorem lane_nanScales (v : Vec) {b : Nat} (hb : b < 128) : lane (nanScales v bs) 8 b = if bs.contains b then 255 else lane v 8 b := by
  rw [nanScales, lane_ofLanes _ (by omega), getD_map_range, if_pos hb]
  have := lane_lt v 8 b
  split
  · rfl
  · exact Nat.mod_eq_of_lt this

theorem lane_putScales {b : Nat} (hb : b < 128) :
    lane ((e.putScales c bs).vreg c.toNat) 8 b = if bs.contains b then 255 else lane (e.vreg c.toNat) 8 b := by
  unfold Core.putScales
  cases bs with
  | nil => rfl
  | cons k bs =>
    refine Eq.trans (congrArg (fun v => lane v 8 b) ?_) (lane_nanScales _ _ hb)
    exact (Core.vreg_setV ..).trans (if_pos rfl)

end

theorem vreg_putV (c : Core) (lv : Bool) (d : VReg) (r : VecRes) (q : VReg) : (c.putV lv (.v d r)).vreg q.toNat =
    if d = q then blend (c.vreg d.toNat) r.val r.mask else c.vreg q.toNat := by
  rw [Core.putV, vreg_raise, Core.vreg_setV]
  exact if_congr BitVec.toNat_inj rfl rfl

/-- Writing the elements, and then the scale bytes of the blocks of NaN, if any. -/
theorem writeVec_putScales (d c : VReg) (r : VecRes) (bs : List Nat) :
    (if bs.isEmpty then s.writeVec d r else (s.writeVec d r).wv c (nanScales ((s.writeVec d r).rv c) bs)) =
      s.setCore s.cur ((s.me.putV s.lv (.v d r)).putScales c bs) := by
  have hw : s.writeVec d r = s.setCore s.cur (s.me.putV s.lv (.v d r)) := State.writeV_eq (.v d r)
  have hme : (s.writeVec d r).me = s.me.putV s.lv (.v d r) := by rw [hw]; exact s.core_setCore_same ..
  unfold Core.putScales
  cases bs.isEmpty with
  | true => exact hw
  | false =>
    show (s.writeVec d r).setCore s.cur ((s.writeVec d r).me.setV _ (nanScales ((s.writeVec d r).me.vreg _) bs)) = _
    rw [hme, hw]
    exact s.setCore_setCore ..

/-- A conversion into MXF4. -/
theorem execCvt_scales {i : Instr} {gu : Guard} {ty src : BitVec 4} {rm : BitVec 3} {sat : Bool} {d a c : VReg} {part len : Nat}
    {r : VecRes} {bs : List Nat} (h : IssuesPlain s (cvtUses gu ty src d a c len s))
    (hi : exec i s = execCvt gu ty src rm sat d a c part len s)
    (hr : vecCvt src.toNat ty.toNat rm.toNat sat part (s.active gu ty.toNat) (s.rv a) (s.rv c) = (r, bs)) :
    let e := blend (s.rv d) r.val r.mask
    ∃ t, exec i s = .next t ∧
      Completes s t (cvtUses gu ty src d a c len s) (s.pc + word len) [] [] [d.toNat, c.toNat] r.flags [] ∧
      (d ≠ c → t.rv d = e) ∧
      ∀ b, b < 128 → lane (t.rv c) 8 b = if bs.contains b then 255 else lane (if d = c then e else s.rv c) 8 b := by
  intro e
  have hchanges := (Core.putV_changes (c := s.me) (lv := s.lv) (.v d r)).trans (putScales_changes c bs _ s.lv)
  obtain ⟨hc, -, -, hv⟩ := completes_setCore h.enabled hchanges (s.pc + word (cvtUses gu ty src d a c len s).len)
  have hx : exec i s = _ := hi.trans (runs_done h (by simp only [hr]; exact congrArg Res.done (writeVec_putScales ..)))
  rw [FFlags.or_none] at hc
  refine ⟨_, hx, hc, fun hdc => ?_, fun b hb => ?_⟩
  · have hd : d.toNat ∉ [c.toNat] := by simpa [BitVec.toNat_inj] using hdc
    rw [hv, (putScales_changes c bs _ s.lv).vectors _ hd, vreg_putV, if_pos rfl]
    rfl
  · rw [hv, lane_putScales _ _ _ hb, vreg_putV]
    rfl

/-! ## Scales -/

/-- A scale byte of a block with an active lane is chosen, and every other byte is kept. -/
theorem lane_vecScale (ty src part : Nat) (act : Nat → Bool) (a old : Vec) {k : Nat} (hk : k < 128) :
    let lo := part * lanesOfTy src / 16
    let ls := blockLanes act (k - lo)
    let r := vecScale ty src part act a
    lane (blend old r.val r.mask) 8 k =
      if lo ≤ k ∧ k < lo + lanesOfTy src / 16 ∧ ls ≠ [] then
        blockScale ty (ls.map fun i => elemVal src (lane a (bitsOf src) i)) % 256
      else lane old 8 k := by
  intro lo ls r
  refine (lane_blend_laneMask _ _ _ (by omega) (by omega)).trans ?_
  by_cases hlo : lo ≤ k
  · have hin : k < lo + lanesOfTy src / 16 ↔ k - lo < lanesOfTy src / 16 := by omega
    rw [getD_padded hlo, List.map_map, getD_map_range, getD_map_range]
    by_cases hblock : k - lo < lanesOfTy src / 16
    · have hls : ((List.range 16).map fun j => 16 * (k - lo) + j).filter act = ls := rfl
      rw [if_pos hblock, if_pos hblock, Function.comp_apply, hls, decide_eq_true hlo]
      cases ls <;> simp [hlo, hin, hblock]
    · rw [if_neg hblock, if_neg hblock, Bool.and_false, if_neg Bool.false_ne_true, if_neg fun h => hblock (hin.mp h.2.1)]
  · refine (if_neg ?_).trans (if_neg fun h => hlo h.1).symm
    rw [decide_eq_false hlo]
    exact Bool.false_ne_true

theorem execScale_lanes {i : Instr} {gu : Guard} {ty src : BitVec 4} {d a : VReg} {part len : Nat}
    (h : IssuesPlain s { vecUses gu src [a] [d] s with len := len }) (hi : exec i s = execScale gu ty src d a part len s) :
    ∃ t, exec i s = .next t ∧
      Completes s t { vecUses gu src [a] [d] s with len := len } (s.pc + word len) [] [] [d.toNat] {} [] ∧
      ∀ k, k < 128 →
        let lo := part * lanesOfTy src.toNat / 16
        let ls := blockLanes (s.active gu src.toNat) (k - lo)
        lane (t.rv d) 8 k =
          if lo ≤ k ∧ k < lo + lanesOfTy src.toNat / 16 ∧ ls ≠ [] then
            blockScale ty.toNat (ls.map fun i => elemVal src.toNat (lane (s.rv a) (bitsOf src.toNat) i)) % 256
          else lane (s.rv d) 8 k := by
  obtain ⟨hc, hv⟩ := completes_writeVec h.enabled d
    (vecScale ty.toNat src.toNat part (s.active gu src.toNat) (s.rv a)) (s.pc + word len)
  exact ⟨_, hi.trans (runs_done h rfl), hc, fun k hk => (congrArg (fun v => lane v 8 k) hv).trans (lane_vecScale _ _ _ _ _ _ hk)⟩

end Sys2Proof.Machine
end

section
/-!
PROOFS. The statements of 10_vector_instructions.
-/

namespace Sys2Proof

open Machine

/-- Settles O8: VMIN, VMAX and VCLAMP are made of `minMaxLane`, told by `minMaxLane_eq`; VABS and VNEG by `v1Lane_vabs` and
`v1Lane_vneg_mod`; the predicate of VCMP bit by bit by `getLsbD_vecCmp`, its flags by `vecCmp_flags`. -/
theorem vectorOrderAndSelect : Obligations.VectorOrderAndSelect := by
  unfold Obligations.VectorOrderAndSelect
  refine ⟨?_, ?_⟩
  · intro s gu ty sat d a b c w act x y z below lower nan sig smaller larger fit
    have hsmaller : smaller = minMaxLane ty.toNat false := by
      funext p q
      exact (minMaxLane_min ty.toNat p q).symm
    have hlarger : larger = minMaxLane ty.toNat true := by
      funext p q
      exact (minMaxLane_eq ty.toNat true p q).symm
    have hfit (v : Int) : fit v = putI ty.toNat sat v := (putI_eq ..).symm
    rw [hsmaller, hlarger]
    simp only [hfit]
    refine ⟨fun h => ⟨?_, ?_⟩, fun h => ?_, fun h => ⟨?_, ?_⟩⟩
    · exact vec2_answers .vmin 0 (by decide) h rfl
    · exact vec2_answers .vmax 0 (by decide) h rfl
    · exact vec3_answers .vclamp 0 h rfl
    · simp only [w, x, ← v1Lane_vabs ty.toNat 0]
      exact vec1_answers .vabs h rfl
    · exact answersV_congr (vec1_answers .vneg h rfl) (fun _ => v1Lane_vneg_mod ..) fun _ => v1Lane_vneg_flags ..
  · intro s gu ty rel d q e a b w m act x y nan sig holds nv
    refine ⟨fun h => ?_, fun h => ?_⟩
    · obtain ⟨t, hnext, hc, hp⟩ := execVcmp_answers (rel := rel) (d := d) h
      rw [vecCmp_flags] at hc
      refine ⟨t, hnext, hc, fun hd j hj => ?_⟩
      rw [hp, if_neg hd, getLsbD_vecCmp _ _ _ _ _ _ hj]
      rfl
    · exact execVec_answers (f := fun act s => vecSel ty.toNat act (s.rv a) (s.rv b) (s.rp q)) h rfl rfl

/-- Settles O9: integers and bits lane by lane; a conversion by what `vecCvt` comes to, plain (`vecCvt_plain`), into MXF8
(`vecCvt_intoMxf8`) or into MXF4 (`vecCvt_intoMxf4`), where `execCvt_scales` says what the scale bytes become; VSCALE by
`execScale_lanes`. -/
theorem vectorIntegersBitsAndConversions : Obligations.VectorIntegersBitsAndConversions := by
  unfold Obligations.VectorIntegersBitsAndConversions
  refine ⟨?_, ?_⟩
  · intro s gu ty sat d a b c w act x y z int fit bits
    have hfit (v : Int) : fit v = (putI ty.toNat sat v, {}) := congrArg (·, _) (putI_eq ..).symm
    simp only [hfit]
    refine ⟨fun h => ⟨?_, ?_, ?_, ?_, ?_, ?_, ?_, ?_, ?_⟩, fun h => vec3_answers .vimad 0 h rfl⟩
    · exact vec2_answers .viadd 0 (by decide) h rfl
    · exact vec2_answers .visub 0 (by decide) h rfl
    · exact vec2_answers .vimul 0 (by decide) h rfl
    · exact vec2_answers .vand 0 (by decide) h rfl
    · exact vec2_answers .vor 0 (by decide) h rfl
    · exact vec2_answers .vxor 0 (by decide) h rfl
    · exact answersV_congr (vec2_answers .vshl 0 (by decide) h rfl) (fun _ => v2Lane_vshl_mod ..) fun _ => rfl
    · exact vec2_answers .vshr 0 (by decide) h rfl
    · simp only [bits, x, y, w, ← v2Lane_vsra ty.toNat 0 false]
      exact vec2_answers .vsra 0 (by decide) h rfl
  · intro s gu ty src rm sat d a c part lit act mx u span live from_ plain intoMx scales
    have hcvt : exec (.vcvt gu ty src rm sat d a c part) s = execCvt gu ty src rm sat d a c part.toNat 12 s := rfl
    have hcvtLit : exec (.vcvtLiteral gu ty src rm sat d a c lit) s = execCvt gu ty src rm sat d a c lit.toNat 20 s := rfl
    refine ⟨fun hmx => ⟨fun h => ?_, fun h => ?_⟩, fun hty hsrc => ⟨fun h hfit => ?_, fun h hfit => ?_⟩, fun hty hsrc => ?_,
      fun hsrc => ⟨fun h => execScale_lanes h rfl, fun h => execScale_lanes h rfl⟩⟩
    · exact execCvt_answers h hcvt (vecCvt_plain _ _ _ _ _ _ hmx)
    · exact execCvt_answers h hcvtLit (vecCvt_plain _ _ _ _ _ _ hmx)
    · exact execCvt_answers h hcvt (vecCvt_intoMxf8 hsrc _ _ _ _ _ hty hfit)
    · exact execCvt_answers h hcvtLit (vecCvt_intoMxf8 hsrc _ _ _ _ _ hty hfit)
    · subst hty
      intro converts
      have hconverts {i : Instr} {p len : Nat} (h : IssuesPlain s (cvtUses gu 8 src d a c len s))
          (hi : exec i s = execCvt gu 8 src rm sat d a c p len s) (hfit : (p + 1) * lanesOfTy src.toNat ≤ 256) :
          converts i p len := by
        obtain ⟨bs, hr, hbs⟩ := vecCvt_intoMxf4 hsrc rm.toNat sat act (s.rv a) (s.rv c) hfit
        obtain ⟨t, hnext, hc, hd, hscale⟩ := execCvt_scales h hi hr
        rw [lanewise_flags] at hc
        refine ⟨t, _, hnext, hc, lanewise_lanes 8 _ _ _, hd, fun b hb => ?_⟩
        rw [hscale b hb, hbs]
        rfl
      exact ⟨fun h hfit => hconverts h hcvt hfit, fun h hfit => hconverts h hcvtLit hfit⟩

/-- Settles O10: the lane moves are lane by lane, but VEXT (`extLane_eq`) and VINS (`execVins_answers`); each reduction's result is
a root of `treeNode`, whose levels are the model's own (`treeUp_root`, `treeBits_root`), and `execReduce_reduces` writes it. -/
theorem laneMovesAndReductions : Obligations.LaneMovesAndReductions := by
  unfold Obligations.LaneMovesAndReductions
  refine ⟨?_, ?_⟩
  · intro s gu ty d a b ga gb gd lit w n act x bits k
    refine ⟨fun h => ?_, fun h => ?_, fun h => ?_, fun h => ?_, ?_, ?_⟩
    · exact execVsplat_answers h
    · exact execVsplatLiteral_answers h
    · exact execVec_answers (f := fun act s => vec2 .vperm ty.toNat 0 false act (s.rv a) (s.rv b)) h rfl (vec2_vperm ..)
    · exact vec1_answers .vmov h rfl
    · intro u h
      refine answersG_of_done h rfl ?_
      rw [src_of_plain h (List.mem_singleton_self _), srcV_of_issues h.toIssues, dst_plain h (List.mem_singleton_self _), extLane_eq]
    · exact execVins_answers
  · intro s gu ty sat d a b n w act x y isTree addInt addFp lower pick rne32 last reduces
    have htree {α : Type} (op : α → α → α × FFlags) (term : Nat → α × FFlags) :
        isTree α op term (treeNode (combine op) (leaves act term)) := by
      refine ⟨fun i _ => rfl, fun l k _ => ?_⟩
      rfl
    have hpick (big : Bool) : pick big = minMaxLane ty.toNat big := by
      funext p q
      exact (minMaxLane_eq ty.toNat big p q).symm
    have hadd : addInt = fun p q => (putI ty.toNat sat (intVal ty.toNat p + intVal ty.toNat q), {}) := by
      funext p q
      exact congrArg (·, _) (putI_eq ty.toNat sat _).symm
    have hsum : exec (.vrsum gu ty sat d a) s =
      execReduce gu ty [a] d (fun act s => vecReduce .vrsum ty.toNat sat act (s.rv a)) s := rfl
    have hmin : exec (.vrmin gu ty d a) s =
      execReduce gu ty [a] d (fun act s => vecReduce .vrmin ty.toNat false act (s.rv a)) s := rfl
    have hmax : exec (.vrmax gu ty d a) s =
      execReduce gu ty [a] d (fun act s => vecReduce .vrmax ty.toNat false act (s.rv a)) s := rfl
    have hdot : exec (.vdot gu ty d a b) s =
      execReduce gu ty [a, b] d (fun act s => vecDot ty.toNat act (s.rv a) (s.rv b)) s := rfl
    rw [hadd, hpick, hpick]
    refine ⟨?_, ?_⟩
    · intro u h
      refine ⟨fun hint => ⟨_, htree .., ?_⟩, fun hfp => ⟨_, htree .., ?_⟩, ⟨_, htree .., ?_⟩, ⟨_, htree .., ?_⟩⟩
      · exact execReduce_reduces h hsum (vecReduce_sum_int ty _ hint sat _)
      · exact execReduce_reduces h hsum (vecReduce_sum_fp ty _ hfp sat _)
      · exact execReduce_reduces h hmin (vecReduce_min ty _ false _)
      · exact execReduce_reduces h hmax (vecReduce_max ty _ false _)
    · intro u h
      exact ⟨_, htree .., execReduce_reduces h hdot (vecDot_eq ty _ _ _)⟩

end Sys2Proof
end

section
/-!
SUPPORT. The tile registers and the alcove of a bay: what a read of either returns after a write to the same place and to
another, and what a write leaves (R229, R240).
-/

namespace Sys2Proof

/-! ## Memories -/

theorem SMap.get_clear {α : Type} (d : α) (b n q : Nat) (m : SMap α) :
    (SMap.clear b n m).get d q = if b ≤ q ∧ q < b + n then d else m.get d q := by
  by_cases h : b ≤ q ∧ q < b + n
  · rw [if_pos h]
    induction m with
    | nil => rfl
    | cons e m ih =>
      by_cases he : e.1 = q
      · rw [SMap.clear, List.filter_cons_of_neg (by simp; omega)]
        exact ih
      · rw [SMap.clear, List.filter_cons]
        split
        · rw [SMap.get, if_neg he]
          exact ih
        · exact ih
  · rw [if_neg h]
    exact SMap.get_filter_pos (fun k => decide (k < b) || decide (b + n ≤ k)) (by simp; omega) m

end Sys2Proof

namespace Sys2Proof.Machine

open Sys2Proof

variable {m m' : SMap Byte} {a n : Nat}

theorem readBytes_congr (h : ∀ q, a ≤ q → q < a + n → m'.get 0 q = m.get 0 q) : readBytes m' a n = readBytes m a n := by
  induction n generalizing a with
  | zero => rfl
  | succ n ih => rw [readBytes, readBytes, h a (by omega) (by omega), ih fun q h1 h2 => h q (by omega) (by omega)]

theorem readBytes_writeBytes_other {b k : Nat} (x : Nat) (h : a + n ≤ b ∨ b + k ≤ a) :
    readBytes (writeBytes m b k x) a n = readBytes m a n :=
  readBytes_congr fun _ _ _ => get_writeBytes_other m x (by omega)

theorem readBytes_zeros (h : ∀ q, a ≤ q → q < a + n → m.get 0 q = 0) : readBytes m a n = 0 := by
  induction n generalizing a with
  | zero => rfl
  | succ n ih => rw [readBytes, h a (by omega) (by omega), ih fun q h1 h2 => h q (by omega) (by omega)]; rfl

theorem readBytes_add (o k : Nat) : readBytes m a (o + k) = readBytes m a o + 2 ^ (8 * o) * readBytes m (a + o) k := by
  induction o generalizing a with
  | zero => rw [Nat.zero_add, readBytes, Nat.mul_zero, Nat.pow_zero, Nat.one_mul, Nat.zero_add, Nat.add_zero]
  | succ o ih =>
    rw [Nat.succ_add, readBytes, ih, readBytes, Nat.mul_succ, Nat.pow_add, show a + 1 + o = a + (o + 1) by omega]
    ring

/-- The bytes above the first `o`. -/
theorem readBytes_div (o k : Nat) : readBytes m a (o + k) / 2 ^ (8 * o) = readBytes m (a + o) k := by
  rw [readBytes_add, Nat.add_mul_div_left _ _ (Nat.two_pow_pos _), Nat.div_eq_of_lt (readBytes_lt m a o), Nat.zero_add]

/-- The first `o` bytes. -/
theorem readBytes_mod (o k : Nat) : readBytes m a (o + k) % 2 ^ (8 * o) = readBytes m a o := by
  rw [readBytes_add, Nat.add_mul_mod_self_left, Nat.mod_eq_of_lt (readBytes_lt m a o)]

/-- Bits of a number that stand below those cut off. -/
theorem mod_div_mod {a b n : Nat} (v : Nat) (h : a + b ≤ n) : v % 2 ^ n / 2 ^ a % 2 ^ b = v / 2 ^ a % 2 ^ b := by
  obtain ⟨k, rfl⟩ := Nat.exists_eq_add_of_le h
  rw [Nat.add_assoc, Nat.pow_add, Nat.mod_mul_right_div_self, Nat.mod_mod_of_dvd _ (Nat.pow_dvd_pow 2 (Nat.le_add_right b k))]

/-! ## Tile registers -/

variable {s t : State} {bk x r : Nat}

/-- Bytes `o` to `o + n - 1` of a row of a tile register. -/
def State.tileBytes (s : State) (bk t r o n : Nat) : Nat := readBytes s.mem.tdata (tdataAddr bk t (128 * r + o)) n

theorem tdataAddr_add (bk x p o : Nat) : tdataAddr bk x p + o = tdataAddr bk x (p + o) := Nat.add_assoc ..

theorem tileBytes_row : s.tileBytes bk x r 0 128 = s.tileRow bk x r := rfl

theorem tileRow_div {o : Nat} (h : o ≤ 128) : s.tileRow bk x r / 2 ^ (8 * o) = s.tileBytes bk x r o (128 - o) := by
  have hd := readBytes_div (m := s.mem.tdata) (a := tdataAddr bk x (128 * r)) o (128 - o)
  rw [Nat.add_sub_of_le h, tdataAddr_add] at hd
  exact hd

theorem tileRow_bytes {o n : Nat} (h : o + n ≤ 128) :
    s.tileRow bk x r / 2 ^ (8 * o) % 2 ^ (8 * n) = s.tileBytes bk x r o n := by
  obtain ⟨k, hk⟩ := Nat.exists_eq_add_of_le h
  rw [tileRow_div (by omega), show 128 - o = n + k by omega]
  exact readBytes_mod n k

theorem tileBytes_congr (h : t.mem.tdata = s.mem.tdata) (o n : Nat) : t.tileBytes bk x r o n = s.tileBytes bk x r o n := by
  rw [State.tileBytes, State.tileBytes, h]

theorem tileRow_congr (h : t.mem.tdata = s.mem.tdata) : t.tileRow bk x r = s.tileRow bk x r := tileBytes_congr h 0 128

theorem tileBytes_putTileRow (s : State) (bk x r o n v : Nat) :
    (s.putTileRow bk x r o n v).tileBytes bk x r o n = v % 2 ^ (8 * n) :=
  readBytes_writeBytes ..

theorem tileBytes_putTileRow_apart {o n p k : Nat} (v : Nat) (h : o + n ≤ p ∨ p + k ≤ o) :
    (s.putTileRow bk x r p k v).tileBytes bk x r o n = s.tileBytes bk x r o n :=
  readBytes_writeBytes_other v (by unfold tdataAddr; omega)

theorem tileRow_putTileRow_other {b y q o n : Nat} (v : Nat) (hx : x < 16) (hy : y < 16) (hr : r < 192) (hq : q < 192)
    (ho : o + n ≤ 128) (h : ¬(b = bk ∧ y = x ∧ q = r)) : (s.putTileRow bk x r o n v).tileRow b y q = s.tileRow b y q :=
  readBytes_writeBytes_other v (by unfold tdataAddr; omega)

section
variable (hr : r < 192)
include hr

theorem tileRow_clearTile : (s.clearTile bk x).tileRow bk x r = 0 :=
  readBytes_zeros fun q _ _ => by
    change SMap.get 0 (SMap.clear _ _ _) q = 0
    rw [SMap.get_clear, if_pos]
    unfold tdataAddr at *
    omega

theorem scaleRow_clearTile : (s.clearTile bk x).scaleRow bk x r = 0 :=
  readBytes_zeros fun q _ _ => by
    change SMap.get 0 (SMap.clear _ _ _) q = 0
    rw [SMap.get_clear, if_pos]
    unfold tscaleAddr at *
    omega

theorem tileRow_clearTile_other {b y : Nat} (hx : x < 16) (hy : y < 16) (h : ¬(b = bk ∧ y = x)) :
    (s.clearTile bk x).tileRow b y r = s.tileRow b y r :=
  readBytes_congr fun q _ _ => by
    change SMap.get 0 (SMap.clear _ _ _) q = _
    rw [SMap.get_clear, if_neg]
    unfold tdataAddr at *
    omega

end

/-! ## The alcove -/

theorem alcove_congr {w e : Nat}
    (h : ∀ i, i < e → t.mem.alcove.get 0 (bk * 32768 + (w + i)) = s.mem.alcove.get 0 (bk * 32768 + (w + i))) :
    t.alcove bk w e = s.alcove bk w e := by
  induction e with
  | zero => rfl
  | succ e ih => rw [State.alcove, State.alcove, ih fun i hi => h i (by omega), alcoveWords, h e (Nat.lt_succ_self e)]

theorem alcove_of_mem (h : t.mem.alcove = s.mem.alcove) (w e : Nat) : t.alcove bk w e = s.alcove bk w e :=
  alcove_congr fun _ _ => by rw [h]

theorem putAlcove_eq (s : State) (bk w e v : Nat) :
    s.putAlcove bk w e v = s.updMem (fun m => { m with alcove := (s.putAlcove bk w e v).mem.alcove }) := by
  induction e generalizing s w v with
  | zero => rfl
  | succ e ih =>
    rw [State.putAlcove, ih]
    rfl

theorem cur_putAlcove (s : State) (bk w e v : Nat) : (s.putAlcove bk w e v).cur = s.cur := by
  rw [putAlcove_eq]
  rfl

theorem get_putAlcove_other {w e q : Nat} (v : Nat) (h : q < bk * 32768 + w ∨ bk * 32768 + w + e ≤ q) :
    (s.putAlcove bk w e v).mem.alcove.get 0 q = s.mem.alcove.get 0 q := by
  induction e generalizing s w v with
  | zero => rfl
  | succ e ih =>
    rw [State.putAlcove, ih _ (by omega), State.updMem_mem]
    change SMap.get 0 (SMap.set 0 _ _ _) q = _
    rw [SMap.get_set, if_neg (by unfold alcoveWords; omega)]

theorem get_putAlcove {w e i : Nat} (v : Nat) (h : i < e) :
    (s.putAlcove bk w e v).mem.alcove.get 0 (bk * 32768 + (w + i)) = word (v / 2 ^ (32 * i) % 2 ^ 32) := by
  induction e generalizing s w v i with
  | zero => omega
  | succ e ih =>
    rw [State.putAlcove]
    cases i with
    | zero =>
      rw [get_putAlcove_other _ (.inl (by omega)), State.updMem_mem]
      change SMap.get 0 (SMap.set 0 _ _ _) _ = _
      rw [SMap.get_set, if_pos (by rfl), Nat.mul_zero, Nat.pow_zero, Nat.div_one]
    | succ i =>
      rw [show w + (i + 1) = w + 1 + i by omega, ih _ (by omega), Nat.div_div_eq_div_mul, ← Nat.pow_add]
      congr 4
      omega

theorem toNat_word_mod (v : Nat) : (word (v % 2 ^ 32)).toNat = v % 2 ^ 32 := by
  rw [word, BitVec.toNat_ofNat]
  exact Nat.mod_eq_of_lt (by omega)

/-- Alcove words that hold the words of a number read as that number. -/
theorem alcove_of_words {w e v : Nat}
    (h : ∀ i, i < e → s.mem.alcove.get 0 (bk * 32768 + (w + i)) = word (v / 2 ^ (32 * i) % 2 ^ 32)) :
    s.alcove bk w e = v % 2 ^ (32 * e) := by
  induction e with
  | zero => rw [Nat.mul_zero, Nat.pow_zero, Nat.mod_one]; rfl
  | succ e ih =>
    rw [State.alcove, ih fun i hi => h i (by omega), alcoveWords, h e (Nat.lt_succ_self e), toNat_word_mod, Nat.mul_succ,
      Nat.pow_add, Nat.mod_mul, Nat.mul_comm (_ % _)]

theorem alcove_one (w : Nat) : s.alcove bk w 1 = (s.mem.alcove.get 0 (bk * 32768 + w)).toNat := by
  rw [State.alcove, State.alcove, Nat.mul_zero, Nat.pow_zero, Nat.mul_one, Nat.zero_add]
  rfl

end Sys2Proof.Machine
end

section
/-!
SUPPORT. X-class instructions at issue (R224): a bay that is not frozen, in its order of the cycle; the state after the turn of
a core; clearing a tile and moving words where nothing stands in the bay's acceptance order (R229, R241).
-/

namespace Sys2Proof.Machine

open Sys2Proof

variable {s t : State} {u : Uses}

/-! ## Bays changed one after the other -/

theorem foldl_updBay_eq (f : State → Nat → Bay → Bay) (bks : List Nat) (s : State) :
    bks.foldl (fun s k => s.updBay k (f s k)) s = { s with bays := (bks.foldl (fun s k => s.updBay k (f s k)) s).bays } := by
  induction bks generalizing s with
  | nil => rfl
  | cons k bks ih => rw [List.foldl_cons, ih]; rfl

theorem bay_updBay (k q : Nat) (f : Bay → Bay) : (s.updBay k f).bay q = if k = q then f (s.bay q) else s.bay q := by
  refine (s.bay_setBay k q _).trans ?_
  split
  · rename_i h; rw [h]
  · rfl

theorem bay_foldl_updBay_other (f : State → Nat → Bay → Bay) {bks : List Nat} {k : Nat} (h : k ∉ bks) (s : State) :
    (bks.foldl (fun s k => s.updBay k (f s k)) s).bay k = s.bay k := by
  induction bks generalizing s with
  | nil => rfl
  | cons q bks ih =>
    obtain ⟨hq, hk⟩ := List.ne_and_not_mem_of_not_mem_cons h
    rw [List.foldl_cons, ih hk, bay_updBay, if_neg (Ne.symm hq)]

theorem bay_foldl_updBay (f : Nat → Bay → Bay) {bks : List Nat} (hb : bks.Nodup) {k : Nat} (h : k ∈ bks) (s : State) :
    (bks.foldl (fun s k => s.updBay k (f k)) s).bay k = f k (s.bay k) := by
  induction bks generalizing s with
  | nil => exact absurd h List.not_mem_nil
  | cons q bks ih =>
    obtain ⟨hq, hnd⟩ := List.nodup_cons.mp hb
    rw [List.foldl_cons]
    rcases List.mem_cons.mp h with rfl | hk
    · rw [bay_foldl_updBay_other (fun _ => f) hq, bay_updBay, if_pos rfl]
    · have hne : q ≠ k := fun e => hq (e ▸ hk)
      rw [ih hnd hk, bay_updBay, if_neg hne]

/-! ## The turn of a core (R224) -/

theorem accepted_eq (bks : List Nat) : s.accepted bks = { s with bays := (s.accepted bks).bays } :=
  foldl_updBay_eq (fun s _ b => { b with jobBy := (s.cycle, s.cur) }) bks s

theorem bay_accepted (bks : List Nat) (k : Nat) :
    (s.accepted bks).bay k = { s.bay k with jobBy := ((s.accepted bks).bay k).jobBy } := by
  unfold State.accepted
  induction bks generalizing s with
  | nil => rfl
  | cons q bks ih =>
    rw [List.foldl_cons, ih]
    conv_lhs => rw [bay_updBay]
    split <;> rfl

theorem bay_accepted_other {bks : List Nat} {k : Nat} (h : k ∉ bks) : (s.accepted bks).bay k = s.bay k :=
  bay_foldl_updBay_other _ h s

section
variable {bks : List Nat}

theorem inTurnAt_late (h : s.inCoreOrder bks = false) (r : Res) : s.inTurnAt bks r = .stall := by
  simp [State.inTurnAt, h]

variable (h : s.inCoreOrder bks = true)
include h

theorem inTurnAt_trap (t : State) (code : Nat) (v : Word) :
    s.inTurnAt bks (.trap t code v) = .trap (t.accepted bks) code v := by
  simp [State.inTurnAt, h]

theorem inTurnAt_done (t : State) : s.inTurnAt bks (.done t) = .done t := by
  simp [State.inTurnAt, h]

theorem inTurnAt_wait (t : State) (w : Hold) : s.inTurnAt bks (.wait t w) = .wait t w := by
  simp [State.inTurnAt, h]

end

/-! ## Issuing in a bay that is not frozen -/

/-- A trap in a state that the checks before it have left. -/
theorem runs_trapIn (h : Issues s u) {body : State → Res} {code : Nat} {v : Word} (hb : body s = .trap t code v) :
    s.runs u body = .next (t.trap code v) := by
  rw [State.runs, issueWith_of_issues h, hb]; rfl

/-- A body that stalls leaves a blocking instruction standing still (R50). -/
theorem runs_standsStill (h : Issues s u) (hu : u.blocking = true) {body : State → Res} (hb : body s = .stall) :
    s.runs u body = .next (s.updMe (fun c => c.standStill u none)) := by
  rw [State.runs, issueWith_of_issues h, hb]
  simp [State.settle, hu]

section
variable (hf : (s.bay (bayOf s.cur)).frozen = false) {body : State → Res}
include hf

/-- A bay that is not frozen does not hold an X-class instruction back. -/
theorem open_body : (if (s.bay (bayOf s.cur)).frozen then .stall else body s) = body s := if_neg (Bool.eq_false_iff.mp hf)

theorem runsX_done (hi : IssuesPlain s u) (hb : body s = .done t) :
    s.runsX u body = .next (State.after s u t (s.pc + word u.len)) := runs_done hi ((open_body hf).trans hb)

theorem runsX_traps (hi : Issues s u) {code : Nat} {v : Word} (hb : body s = .trap t code v) :
    s.runsX u body = .next (t.trap code v) := runs_trapIn hi ((open_body hf).trans hb)

theorem runsX_stalls (hi : IssuesPlain s u) (hu : u.blocking = false) (hb : body s = .stall) : s.runsX u body = .next s :=
  runs_stall hi hu ((open_body hf).trans hb)

theorem runsX_standsStill (hi : Issues s u) (hu : u.blocking = true) (hb : body s = .stall) :
    s.runsX u body = .next (s.updMe (fun c => c.standStill u none)) := runs_standsStill hi hu ((open_body hf).trans hb)

theorem runsX_waits (hi : IssuesPlain s u) {w : Hold} (hb : body s = .wait t w) :
    s.runsX u body = .next (State.waiting s u t w) := runs_wait hi ((open_body hf).trans hb)

end

/-! ## A bay with nothing in its acceptance order -/

/-- Nothing stands in the acceptance order of the executing core's bay, which is not frozen and whose turn the core's is. -/
structure State.BayFree (s : State) : Prop where
  empty : (s.bay (bayOf s.cur)).jobs = []
  unfrozen : (s.bay (bayOf s.cur)).frozen = false
  inOrder : s.inCoreOrder [bayOf s.cur] = true

/-- The state in which the executing core has had its turn in its bay, and a number has been used. -/
def State.turned (s : State) : State := ({ s with ctr := s.ctr + 1 } : State).accepted [bayOf s.cur]

theorem turned_eq : s.turned = { s with ctr := s.ctr + 1, bays := s.turned.bays } := accepted_eq _

theorem cur_turned : s.turned.cur = s.cur := by rw [turned_eq]

theorem mem_turned : s.turned.mem = s.mem := by rw [turned_eq]

theorem me_turned : s.turned.me = s.me := by rw [turned_eq]; rfl

/-- A clearing is done at once: the data and the scale plane of the tile, and nothing else that is of the tiles or the alcove. -/
theorem acceptClear_free (h : (s.bay (bayOf s.cur)).jobs = []) (x : Nat) :
    ∃ t : State, s.acceptClear x = t.clearTile (bayOf s.cur) x ∧ t.mem = s.mem ∧ ∀ k, (t.bay k).tcfg = (s.bay k).tcfg := by
  have hcur : s.turned.cur = s.cur := cur_turned
  have htake : s.acceptClear x = (s.turned.updBay (bayOf s.cur) (fun b => { b with jobs := b.jobs ++
      [{ id := s.ctr, core := s.cur, lv := s.lv, kind := .clear, ta := x }] })).settleClears (bayOf s.cur) := by
    conv_rhs => rw [← hcur]
    rfl
  have hjobs : (s.turned.bay (bayOf s.cur)).jobs = [] := by
    rw [State.turned, bay_accepted]
    exact h
  have hbay : ∀ j : Job, ((s.turned.updBay (bayOf s.cur) (fun b => { b with jobs := b.jobs ++ [j] })).bay (bayOf s.cur)).jobs =
      [j] := fun j => by rw [bay_updBay, if_pos rfl, hjobs]; rfl
  rw [htake, State.settleClears, hbay]
  refine ⟨_, rfl, mem_turned, fun k => ?_⟩
  simp only [bay_updBay]
  have ht : (s.turned.bay k).tcfg = (s.bay k).tcfg := by
    rw [State.turned, bay_accepted]
    rfl
  split <;> exact ht

section
variable {chk : State → Res ⊕ Job} {perf : Job → State → State} (h : s.BayFree)
include h

/-- A move whose checks trap: the core has had its turn (R224). -/
theorem moveBody_traps {code : Nat} {v : Word} (hc : chk s = .inl (.trap s code v)) :
    moveBody chk perf s = .trap (s.accepted [bayOf s.cur]) code v := by
  simp only [moveBody, h.empty, List.find?_nil, hc, inTurnAt_trap h.inOrder]

/-- A move that passes its checks is performed at once (R241). -/
theorem moveBody_performs {j : Job} (hc : chk s = .inr j) :
    moveBody chk perf s = .done (perf { j with id := s.ctr, core := s.cur, lv := s.lv, kind := .move } s.turned) := by
  have hheld : ∀ j : Job, j.id = s.ctr →
      (s.turned.updBay (bayOf s.cur) (fun b => { b with jobs := b.jobs ++ [j] })).moveHeld (bayOf s.cur) j = false := by
    intro j hj
    have hjobs : (s.turned.bay (bayOf s.cur)).jobs = [] := by
      rw [State.turned, bay_accepted]
      exact h.empty
    rw [State.moveHeld, bay_updBay, if_pos rfl, Bay.before, hjobs, List.nil_append, List.takeWhile_cons_of_neg (by simp)]
    rfl
  have hh := hheld { j with id := s.ctr, core := s.cur, lv := s.lv, kind := .move } rfl
  simp only [moveBody, h.empty, List.find?_nil, hc]
  refine (congrArg (s.inTurnAt _) (if_neg ?_)).trans (inTurnAt_done h.inOrder _)
  exact Bool.eq_false_iff.mp hh

variable {gu : Guard} {rs : List Nat} {ill : Bool}
  (hi : IssuesPlain s { len := xlen, on := s.guard gu, rs := rs, blocking := true, illegal := ill })
include hi

theorem runsMove_traps {code : Nat} {v : Word} (hc : chk s = .inl (.trap s code v)) :
    s.runsMove gu rs ill chk perf = .next ((s.accepted [bayOf s.cur]).trap code v) :=
  runsX_traps h.unfrozen hi.toIssues (moveBody_traps h hc)

theorem runsMove_performs {j : Job} (hc : chk s = .inr j) :
    s.runsMove gu rs ill chk perf = .next (State.after s { len := xlen, on := s.guard gu, rs := rs, blocking := true, illegal := ill }
      (perf { j with id := s.ctr, core := s.cur, lv := s.lv, kind := .move } s.turned) (s.pc + word xlen)) :=
  runsX_done h.unfrozen hi (moveBody_performs h hc)

end

end Sys2Proof.Machine
end

section
/-!
SUPPORT. Moves between the alcove and the rows of a tile register (R241 to R243): what filling rows one after the other, each
column by column, leaves.
-/

namespace Sys2Proof.Machine

open Sys2Proof

variable {s t w : State} {bk x : Nat}

/-! ## What has been filled -/

/-- From `s` to `t`, of the memories only rows of tile register `x` of bay `bk` that `R` names have changed, and the running
level's flags have been raised by `f`. -/
structure State.Fills (s t : State) (bk x : Nat) (R : Nat → Prop) (f : FFlags) : Prop where
  cur : t.cur = s.cur
  level : t.lv = s.lv
  flags : (t.me.thr s.lv).fp = (s.me.thr s.lv).fp.or f
  mem : t.mem = { s.mem with tdata := t.mem.tdata }
  others : ∀ b y r, y < 16 → r < 192 → ¬(b = bk ∧ y = x ∧ R r) → t.tileRow b y r = s.tileRow b y r

variable {R R' Q : Nat → Prop} {f g : FFlags}

theorem State.Fills.refl (s : State) (bk x : Nat) (R : Nat → Prop) : s.Fills s bk x R {} :=
  ⟨rfl, rfl, (FFlags.or_none _).symm, rfl, fun _ _ _ _ _ _ => rfl⟩

theorem State.Fills.trans (h : s.Fills t bk x R f) (h' : t.Fills w bk x R' g) (hq : ∀ r, R r ∨ R' r → Q r) :
    s.Fills w bk x Q (f.or g) where
  cur := h'.cur.trans h.cur
  level := h'.level.trans h.level
  flags := by rw [← h.level, h'.flags, h.level, h.flags, FFlags.or_assoc]
  mem := by rw [h'.mem, h.mem]
  others b y r hy hr hn := by
    rw [h'.others b y r hy hr fun ⟨e, e', hR⟩ => hn ⟨e, e', hq r (.inr hR)⟩,
      h.others b y r hy hr fun ⟨e, e', hR⟩ => hn ⟨e, e', hq r (.inl hR)⟩]

theorem State.Fills.alcove_eq (h : s.Fills t bk x R f) : t.mem.alcove = s.mem.alcove := by rw [h.mem]

theorem turned_fills (s : State) (bk x : Nat) (R : Nat → Prop) : s.Fills s.turned bk x R {} where
  cur := cur_turned
  level := congrArg Core.level me_turned
  flags := by rw [me_turned, FFlags.or_none]
  mem := mem_turned
  others _ _ _ _ _ _ := tileRow_congr (by rw [mem_turned])

theorem putTileRow_fills {r o n : Nat} (v : Nat) (hx : x < 16) (hr : r < 192) (ho : o + n ≤ 128) :
    s.Fills (s.putTileRow bk x r o n v) bk x (· = r) {} where
  cur := rfl
  level := rfl
  flags := (FFlags.or_none _).symm
  mem := rfl
  others _ _ _ hy hq hn := tileRow_putTileRow_other v hx hy hr hq ho hn

theorem raise_fills (h : s.Fills t bk x R {}) (f : FFlags) : s.Fills (t.raise f) bk x R f where
  cur := h.cur
  level := by
    have : (t.me.raise t.me.level f).level = t.me.level := t.me.setThr_level _ _
    rw [← h.level, State.lv, State.raise, State.me_updMe, this]
    rfl
  flags := by
    have hlv : t.me.level = s.lv := h.level
    have hf : (t.me.thr s.lv).fp = (s.me.thr s.lv).fp := h.flags.trans (FFlags.or_none _)
    rw [State.raise, State.me_updMe, hlv, (t.me.raise_changes s.lv f).flags, hf]
  mem := h.mem
  others := h.others

/-! ## Row by row -/

/-- A fold over the first numbers, with what holds of each state on the way. -/
theorem foldl_range_holds {β : Type} (P : Nat → β → Prop) {f : β → Nat → β} {b : β} {n : Nat} (h0 : P 0 b)
    (hs : ∀ i b, i < n → P i b → P (i + 1) (f b i)) : P n ((List.range n).foldl f b) := by
  induction n with
  | zero => exact h0
  | succ n ih =>
    rw [List.range_succ, List.foldl_append]
    exact hs n _ (Nat.lt_succ_self n) (ih fun i b hi => hs i b (Nat.lt_succ_of_lt hi))

/-- The flags of the first `n` rows or columns. -/
def flagsOf (F : Nat → FFlags) (n : Nat) : FFlags := FFlags.orAll ((List.range n).map F)

theorem flagsOf_succ (F : Nat → FFlags) (n : Nat) : flagsOf F (n + 1) = (flagsOf F n).or (F n) := by
  rw [flagsOf, List.range_succ, List.map_append, orAll_append]
  exact congrArg _ (FFlags.none_or _)

theorem flagsOf_flagsOf (F : Nat → Nat → FFlags) (m n : Nat) :
    flagsOf (fun r => flagsOf (F r) m) n = FFlags.orAll ((List.range n).flatMap fun r => (List.range m).map (F r)) := by
  induction n with
  | zero => rfl
  | succ n ih => rw [flagsOf_succ, ih, List.range_succ, List.flatMap_append, orAll_append, List.flatMap_singleton]; rfl

/-- Rows filled in ascending order from the alcove, once the move has had its turn: what holds of a row when it has been filled
holds of it at the end. -/
theorem eachRow_fills {n : Nat} {perf : Nat → State → State} (V : Nat → Nat → Prop) (F : Nat → FFlags) (hx : x < 16)
    (hn : n ≤ 192)
    (hf : ∀ r t, r < n → t.cur = s.cur → t.mem.alcove = s.mem.alcove → t.tileRow bk x r = s.tileRow bk x r →
      t.Fills (perf r t) bk x (· = r) (F r) ∧ V r ((perf r t).tileRow bk x r)) :
    s.Fills ((List.range n).foldl (fun t r => perf r t) s.turned) bk x (· < n) (flagsOf F n) ∧
      ∀ r, r < n → V r (((List.range n).foldl (fun t r => perf r t) s.turned).tileRow bk x r) := by
  refine foldl_range_holds (fun k t => s.Fills t bk x (· < k) (flagsOf F k) ∧ ∀ r, r < k → V r (t.tileRow bk x r))
    ⟨turned_fills .., fun _ hr => absurd hr (Nat.not_lt_zero _)⟩ fun k t hk ⟨hfill, hrows⟩ => ?_
  obtain ⟨hstep, hrow⟩ := hf k t hk hfill.cur hfill.alcove_eq
    (hfill.others bk x k hx (by omega) fun ⟨_, _, h⟩ => Nat.lt_irrefl k h)
  refine ⟨flagsOf_succ F k ▸ hfill.trans hstep fun r hr => by omega, fun r hr => ?_⟩
  rcases Nat.lt_succ_iff_lt_or_eq.mp hr with hr | rfl
  · rw [hstep.others bk x r hx (by omega) fun ⟨_, _, h⟩ => Nat.ne_of_lt hr h]
    exact hrows r hr
  · exact hrow

/-- A row filled column by column, each `b` bytes: the columns hold their values, and what is above them is as it was. -/
theorem columns_fill {step : State → Nat → State} {v : Nat → Nat} {F : Nat → FFlags} {r b m : Nat}
    (hstep : ∀ t c, c < m → t.cur = s.cur → t.mem.alcove = s.mem.alcove →
      t.Fills (step t c) bk x (· = r) (F c) ∧ (step t c).mem = (t.putTileRow bk x r (b * c) b (v c)).mem) :
    s.Fills ((List.range m).foldl step s) bk x (· = r) (flagsOf F m) ∧
      (∀ c, c < m → ((List.range m).foldl step s).tileBytes bk x r (b * c) b = v c % 2 ^ (8 * b)) ∧
      ∀ o n, b * m ≤ o → ((List.range m).foldl step s).tileBytes bk x r o n = s.tileBytes bk x r o n := by
  refine foldl_range_holds (fun k t => s.Fills t bk x (· = r) (flagsOf F k) ∧
      (∀ c, c < k → t.tileBytes bk x r (b * c) b = v c % 2 ^ (8 * b)) ∧
      ∀ o n, b * m ≤ o → t.tileBytes bk x r o n = s.tileBytes bk x r o n)
    ⟨.refl .., fun _ hc => absurd hc (Nat.not_lt_zero _), fun _ _ _ => rfl⟩ fun k t hk ⟨hfill, hcols, habove⟩ => ?_
  obtain ⟨hput, hmem⟩ := hstep t k hk hfill.cur hfill.alcove_eq
  have hdata : (step t k).mem.tdata = (t.putTileRow bk x r (b * k) b (v k)).mem.tdata := by rw [hmem]
  refine ⟨flagsOf_succ F k ▸ hfill.trans hput fun _ h => h.elim id id, fun c hc => ?_, fun o n ho => ?_⟩
  · rw [tileBytes_congr hdata]
    rcases Nat.lt_succ_iff_lt_or_eq.mp hc with hc | rfl
    · have : b * (c + 1) ≤ b * k := Nat.mul_le_mul_left b hc
      rw [tileBytes_putTileRow_apart _ (.inl (by rw [Nat.mul_succ] at this; exact this))]
      exact hcols c hc
    · exact tileBytes_putTileRow ..
  · have : b * (k + 1) ≤ b * m := Nat.mul_le_mul_left b hk
    rw [tileBytes_congr hdata, tileBytes_putTileRow_apart _ (.inr (by rw [Nat.mul_succ] at this; omega)), habove o n ho]

theorem column_fits {b c m : Nat} (hc : c < m) (hm : b * m ≤ 128) : b * c + b ≤ 128 := by
  have : b * (c + 1) ≤ b * m := Nat.mul_le_mul_left b hc
  rw [Nat.mul_succ] at this
  omega

/-- A column is a field of its row. -/
theorem tileRow_column {r b c m : Nat} (hc : c < m) (hm : b * m ≤ 128) :
    s.tileRow bk x r / 2 ^ (8 * b * c) % 2 ^ (8 * b) = s.tileBytes bk x r (b * c) b := by
  rw [Nat.mul_assoc]
  exact tileRow_bytes (column_fits hc hm)

section
variable {step : State → Nat → State} {v : Nat → Nat} {F : Nat → FFlags} {r b m nb : Nat} (hm : b * m ≤ nb) (hnb : nb ≤ 128)
  (hstep : ∀ t c, c < m → t.cur = s.cur → t.mem.alcove = s.mem.alcove →
    t.Fills (step t c) bk x (· = r) (F c) ∧ (step t c).mem = (t.putTileRow bk x r (b * c) b (v c)).mem)
include hm hnb hstep

/-- A row filled column by column, whose bytes from `nb` on stay. -/
theorem columns_rest_stays :
    s.Fills ((List.range m).foldl step s) bk x (· = r) (flagsOf F m) ∧
      ((List.range m).foldl step s).tileRow bk x r / 2 ^ (8 * nb) = s.tileRow bk x r / 2 ^ (8 * nb) ∧
      ∀ c, c < m → ((List.range m).foldl step s).tileRow bk x r / 2 ^ (8 * b * c) % 2 ^ (8 * b) = v c % 2 ^ (8 * b) := by
  obtain ⟨hfill, hcols, habove⟩ := columns_fill hstep
  refine ⟨hfill, ?_, fun c hc => ?_⟩
  · rw [tileRow_div hnb, tileRow_div hnb, habove _ _ hm]
  · rw [tileRow_column hc (hm.trans hnb), hcols c hc]

/-- A row filled column by column, and with zeros from byte `nb` on. -/
theorem columns_rest_zero (hx : x < 16) (hr : r < 192) :
    s.Fills (((List.range m).foldl step s).putTileRow bk x r nb (128 - nb) 0) bk x (· = r) ((flagsOf F m).or {}) ∧
      (∀ c, c < m → (((List.range m).foldl step s).putTileRow bk x r nb (128 - nb) 0).tileRow bk x r / 2 ^ (8 * b * c) %
        2 ^ (8 * b) = v c % 2 ^ (8 * b)) ∧
      (((List.range m).foldl step s).putTileRow bk x r nb (128 - nb) 0).tileRow bk x r / 2 ^ (8 * nb) = 0 := by
  obtain ⟨hfill, hcols, -⟩ := columns_fill hstep
  refine ⟨hfill.trans (putTileRow_fills 0 hx hr (by omega)) fun _ h => h.elim id id, fun c hc => ?_, ?_⟩
  · have : b * (c + 1) ≤ b * m := Nat.mul_le_mul_left b hc
    rw [tileRow_column hc (hm.trans hnb), tileBytes_putTileRow_apart 0 (.inl (by rw [Nat.mul_succ] at this; omega)), hcols c hc]
  · rw [tileRow_div hnb, tileBytes_putTileRow, Nat.zero_mod]

end

/-! ## Words of the alcove, element by element -/

/-- A fold that writes `n` elements of `e` words each from word `w` of the alcove on: the elements hold the words of their
values, and nothing else of the memories has changed. -/
theorem elements_fill {step : State → Nat → State} {v : Nat → Nat} {w e n : Nat}
    (hstep : ∀ t i, i < n → t.cur = s.cur → t.mem.tdata = s.mem.tdata →
      (step t i).cur = t.cur ∧ (step t i).mem = (t.putAlcove bk (w + i * e) e (v i)).mem) :
    { ((List.range n).foldl step s).mem with alcove := s.mem.alcove } = s.mem ∧
      (∀ i k, i < n → k < e → ((List.range n).foldl step s).mem.alcove.get 0 (bk * 32768 + (w + i * e + k)) =
        word (v i / 2 ^ (32 * k) % 2 ^ 32)) ∧
      ∀ q, q < bk * 32768 + w ∨ bk * 32768 + w + n * e ≤ q →
        ((List.range n).foldl step s).mem.alcove.get 0 q = s.mem.alcove.get 0 q := by
  refine (foldl_range_holds (fun m (t : State) => t.cur = s.cur ∧ { t.mem with alcove := s.mem.alcove } = s.mem ∧
      (∀ i k, i < m → k < e → t.mem.alcove.get 0 (bk * 32768 + (w + i * e + k)) = word (v i / 2 ^ (32 * k) % 2 ^ 32)) ∧
      ∀ q, q < bk * 32768 + w ∨ bk * 32768 + w + n * e ≤ q → t.mem.alcove.get 0 q = s.mem.alcove.get 0 q)
    ⟨rfl, rfl, fun _ _ hi => absurd hi (Nat.not_lt_zero _), fun _ _ => rfl⟩ fun m t hm ⟨hcur, hmem, hval, hout⟩ => ?_).2
  have hdata : t.mem.tdata = s.mem.tdata := (congrArg Mems.tdata hmem :)
  obtain ⟨hc, hput⟩ := hstep t m hm hcur hdata
  refine ⟨hc.trans hcur, ?_, fun i k hi hk => ?_, fun q hq => ?_⟩
  · rw [hput, putAlcove_eq]
    exact hmem
  · rw [hput]
    rcases Nat.lt_succ_iff_lt_or_eq.mp hi with hi | rfl
    · have : (i + 1) * e ≤ m * e := Nat.mul_le_mul_right e hi
      rw [get_putAlcove_other _ (.inl (by rw [Nat.succ_mul] at this; omega))]
      exact hval i k hi hk
    · exact get_putAlcove _ hk
  · have : (m + 1) * e ≤ n * e := Nat.mul_le_mul_right e hm
    rw [hput, get_putAlcove_other _ (by rw [Nat.succ_mul] at this; omega)]
    exact hout q hq

end Sys2Proof.Machine
end

section
/-!
SUPPORT. The instructions on tile registers and the alcove, in a bay with nothing in its acceptance order (R229, R240 to R243).
-/

namespace Sys2Proof.Machine

open Sys2Proof

variable {s e : State} {gu : Guard} {x : TReg} {base : BitVec 15}

/-! ## What the statement says of the rest -/

section
variable {bk : Nat} {R : Nat → Prop} {f : FFlags}

theorem rest_of_fills (h : s.Fills e bk x.toNat R f) :
    (∀ y r, y < 16 → y ≠ x.toNat → r < 192 → e.tileRow bk y r = s.tileRow bk y r) ∧
    (∀ b y r, b ≠ bk → y < 16 → r < 192 → e.tileRow b y r = s.tileRow b y r) ∧
    { e.mem with tdata := s.mem.tdata, tscale := s.mem.tscale } = s.mem :=
  ⟨fun y r hy hne hr => h.others bk y r hy hr fun ⟨_, hx, _⟩ => hne hx,
    fun b y r hne hy hr => h.others b y r hy hr fun ⟨hb, _, _⟩ => hne hb, by rw [h.mem]⟩

theorem kept_of_fills {n : Nat} (h : s.Fills e bk x.toNat (· < n) f) (r : Nat) (hn : n ≤ r) (hr : r < 192) :
    e.tileRow bk x.toNat r = s.tileRow bk x.toNat r :=
  h.others bk x.toNat r x.isLt hr fun ⟨_, _, h⟩ => Nat.not_lt.mpr hn h

end

/-! ## TCFG and TZERO -/

/-- The tile register has been cleared, and nothing else of the tiles and memories has changed. -/
structure State.Clears (s t : State) (x : TReg) : Prop where
  zero : ∀ r, r < 192 → t.tileRow (bayOf s.cur) x.toNat r = 0 ∧ t.scaleRow (bayOf s.cur) x.toNat r = 0
  others : ∀ b y r, y < 16 → r < 192 → ¬(b = bayOf s.cur ∧ y = x.toNat) → t.tileRow b y r = s.tileRow b y r
  mem : { t.mem with tdata := s.mem.tdata, tscale := s.mem.tscale } = s.mem

theorem clearTile_clears (hm : e.mem = s.mem) : s.Clears (e.clearTile (bayOf s.cur) x.toNat) x where
  zero _ hr := ⟨tileRow_clearTile hr, scaleRow_clearTile hr⟩
  others b y r hy hr hn := by
    rw [tileRow_clearTile_other hr x.isLt hy hn]
    exact tileRow_congr (by rw [hm])
  mem := by
    change { e.mem with tdata := s.mem.tdata, tscale := s.mem.tscale } = s.mem
    rw [hm]

theorem acceptClear_clears (h : (s.bay (bayOf s.cur)).jobs = []) (x : TReg) :
    s.Clears (s.acceptClear x.toNat) x ∧ ∀ k, ((s.acceptClear x.toNat).bay k).tcfg = (s.bay k).tcfg := by
  obtain ⟨t, ht, hm, hcfg⟩ := acceptClear_free h x.toNat
  rw [ht]
  exact ⟨clearTile_clears hm, hcfg⟩

theorem rest_of_clears (h : s.Clears e x) :
    (∀ r, r < 192 → e.tileRow (bayOf s.cur) x.toNat r = 0 ∧ e.scaleRow (bayOf s.cur) x.toNat r = 0) ∧
    (∀ y r, y < 16 → y ≠ x.toNat → r < 192 → e.tileRow (bayOf s.cur) y r = s.tileRow (bayOf s.cur) y r) ∧
    (∀ b y r, b ≠ bayOf s.cur → y < 16 → r < 192 → e.tileRow b y r = s.tileRow b y r) ∧
    { e.mem with tdata := s.mem.tdata, tscale := s.mem.tscale } = s.mem :=
  ⟨h.zero, fun y r hy hne hr => h.others _ y r hy hr fun ⟨_, hx⟩ => hne hx,
    fun b y r hne hy hr => h.others b y r hy hr fun ⟨hb, _⟩ => hne hb, h.mem⟩

/-- What TCFG declares (R229). -/
def tcfgUses (gu : Guard) (rows rb : BitVec 8) (s : State) : Uses :=
  { len := 12, on := s.guard gu,
    illegal := decide (rows.toNat = 0) || decide (192 < rows.toNat) || decide (rb.toNat = 0) || decide (128 < rb.toNat) }

theorem tcfg_performs (h : s.BayFree) {ty : BitVec 4} {rows rb : BitVec 8} (hi : IssuesPlain s (tcfgUses gu rows rb s)) :
    ∃ e, Performs s (.tcfg gu ty x rows rb) (tcfgUses gu rows rb s) e ∧ s.Clears e x ∧
      e.tcfg (bayOf s.cur) x.toNat = { cfg := true, rows := rows.toNat, rb := rb.toNat, ty := ty.toNat } ∧
      ∀ y, y ≠ x.toNat → e.tcfg (bayOf s.cur) y = s.tcfg (bayOf s.cur) y := by
  let c : TCfg := { cfg := true, rows := rows.toNat, rb := rb.toNat, ty := ty.toNat }
  let t := s.updBay (bayOf s.cur) fun b => { b with tcfg := b.tcfg.put x.toNat c }
  have hbay : t.bay (bayOf s.cur) = { s.bay (bayOf s.cur) with tcfg := (s.bay (bayOf s.cur)).tcfg.put x.toNat c } := by
    rw [bay_updBay, if_pos rfl]
  obtain ⟨hclear, hcfg⟩ := acceptClear_clears (s := t) (by rw [show bayOf t.cur = bayOf s.cur from rfl, hbay]; exact h.empty) x
  refine ⟨t.acceptClear x.toNat, runsX_done h.unfrozen hi (inTurnAt_done h.inOrder _),
    ⟨hclear.zero, hclear.others, hclear.mem⟩, ?_, fun y hy => ?_⟩
  · rw [State.tcfg, hcfg, hbay]
    exact SMap.get_put_same ..
  · rw [State.tcfg, hcfg, hbay]
    exact SMap.get_put_other _ _ (Ne.symm hy) _

section
variable (h : s.BayFree) (hi : IssuesPlain s { len := 12, on := s.guard gu })
include h hi

theorem tzero_performs (hc : (s.tcfg (bayOf s.cur) x.toNat).cfg = true) :
    ∃ e, Performs s (.tzero gu x) { len := 12, on := s.guard gu } e ∧ s.Clears e x ∧
      e.tcfg (bayOf s.cur) x.toNat = s.tcfg (bayOf s.cur) x.toNat := by
  obtain ⟨hclear, hcfg⟩ := acceptClear_clears h.empty x
  refine ⟨_, runsX_done h.unfrozen hi
    ((congrArg (s.inTurnAt _) (if_pos hc)).trans (inTurnAt_done h.inOrder _)), hclear, ?_⟩
  rw [State.tcfg, hcfg]
  rfl

theorem tzero_traps (hc : (s.tcfg (bayOf s.cur) x.toNat).cfg = false) :
    exec (.tzero gu x) s = .next ((s.accepted [bayOf s.cur]).trap tTILESHAPE (s.irWord 1)) :=
  runsX_traps h.unfrozen hi.toIssues
    ((congrArg (s.inTurnAt _) (if_neg (Bool.eq_false_iff.mp hc))).trans (inTurnAt_trap h.inOrder ..))

end

/-! ## Moves -/

/-- What a move declares: it is blocking (R241). -/
def moveUses (gu : Guard) (s : State) : Uses := { len := 12, on := s.guard gu, blocking := true }

/-- The checks of a move of a tile register: its shape, and then the region of the alcove (R242, R243). -/
theorem shape_trap {p q : Prop} [Decidable p] [Decidable q] {j : Job} (hp : p) :
    (if p then .inl s.shape else if q then .inl (s.alcoveTrap base.toNat) else .inr j : Res ⊕ Job) =
      .inl (.trap s tTILESHAPE (s.irWord 1)) := if_pos hp

theorem alcove_trap {p q : Prop} [Decidable p] [Decidable q] {j : Job} (hp : ¬p) (hq : q) :
    (if p then .inl s.shape else if q then .inl (s.alcoveTrap base.toNat) else .inr j : Res ⊕ Job) =
      .inl (.trap s tALCOVE (word base.toNat)) := (if_neg hp).trans (if_pos hq)

theorem checks_pass {p q : Prop} [Decidable p] [Decidable q] {j : Job} (hp : ¬p) (hq : ¬q) :
    (if p then .inl s.shape else if q then .inl (s.alcoveTrap base.toNat) else .inr j : Res ⊕ Job) = .inr j :=
  (if_neg hp).trans (if_neg hq)

section
variable {toa : Bool} {c : TCfg} (h : s.BayFree) (hi : IssuesPlain s (moveUses gu s)) (hcfg : s.tcfg (bayOf s.cur) x.toNat = c)
include h hi hcfg

/-! ### AMOV (R242) -/

theorem amov_traps_shape (hc : (c.cfg && c.rb % 4 == 0) = false) :
    exec (.amov gu x toa base) s = .next ((s.accepted [bayOf s.cur]).trap tTILESHAPE (s.irWord 1)) := by
  subst hcfg
  exact runsMove_traps h hi (shape_trap (by simpa [Decidable.imp_iff_not_or] using hc))

theorem amov_traps_alcove (hc : (c.cfg && c.rb % 4 == 0) = true) (hw : 32768 < base.toNat + c.rows * (c.rb / 4)) :
    exec (.amov gu x toa base) s = .next ((s.accepted [bayOf s.cur]).trap tALCOVE (word base.toNat)) := by
  subst hcfg
  exact runsMove_traps h hi (alcove_trap (by simpa using hc) hw)

variable (hc : c.cfg = true) (hrb : c.rb % 4 = 0) (hw : base.toNat + c.rows * (c.rb / 4) ≤ 32768)
include hc hrb hw

theorem amov_fromAlcove (hrows : c.rows ≤ 192) :
    ∃ e, Performs s (.amov gu x false base) (moveUses gu s) e ∧
      s.Fills e (bayOf s.cur) x.toNat (· < c.rows) (flagsOf (fun _ => {}) c.rows) ∧
      ∀ r, r < c.rows → e.tileRow (bayOf s.cur) x.toNat r =
        s.alcove (bayOf s.cur) (base.toNat + r * (c.rb / 4)) (c.rb / 4) % 2 ^ 1024 := by
  subst hcfg
  refine ⟨_, runsMove_performs h hi (checks_pass (by simp [hc, hrb]) (Nat.not_lt.mpr hw)), ?_⟩
  refine eachRow_fills (fun r v => v = s.alcove (bayOf s.cur) (base.toNat + r * ((s.tcfg (bayOf s.cur) x.toNat).rb / 4))
    ((s.tcfg (bayOf s.cur) x.toNat).rb / 4) % 2 ^ 1024) (fun _ => {}) x.isLt hrows fun r t hr hcur hal _ => ⟨?_, ?_⟩
  · simp only [Bool.not_false, if_true, hcur]
    exact putTileRow_fills _ x.isLt (Nat.lt_of_lt_of_le hr hrows) (by decide)
  · simp only [Bool.not_false, if_true, hcur, ← tileBytes_row, tileBytes_putTileRow, alcove_of_mem hal]

theorem amov_toAlcove :
    ∃ e, Performs s (.amov gu x true base) (moveUses gu s) e ∧ { e.mem with alcove := s.mem.alcove } = s.mem ∧
      (∀ r k, r < c.rows → k < c.rb / 4 → e.alcove (bayOf s.cur) (base.toNat + r * (c.rb / 4) + k) 1 =
        s.tileRow (bayOf s.cur) x.toNat r / 2 ^ (32 * k) % 2 ^ 32) ∧
      ∀ k, k < bayOf s.cur * 32768 + base.toNat ∨ bayOf s.cur * 32768 + base.toNat + c.rows * (c.rb / 4) ≤ k →
        e.mem.alcove.get 0 k = s.mem.alcove.get 0 k := by
  subst hcfg
  refine ⟨_, runsMove_performs h hi (checks_pass (by simp [hc, hrb]) (Nat.not_lt.mpr hw)), ?_⟩
  let q := (s.tcfg (bayOf s.cur) x.toNat).rb / 4
  let v := fun r => s.tileRow (bayOf s.cur) x.toNat r % 2 ^ (8 * (s.tcfg (bayOf s.cur) x.toNat).rb)
  obtain ⟨hmem, hval, hout⟩ := elements_fill (s := s.turned) (bk := bayOf s.cur) (w := base.toNat) (v := v) (e := q)
    (n := (s.tcfg (bayOf s.cur) x.toNat).rows)
    (step := fun t r => t.putAlcove (bayOf t.cur) (base.toNat + r * q) q
      (t.tileRow (bayOf t.cur) x.toNat r % 2 ^ (8 * (s.tcfg (bayOf s.cur) x.toNat).rb)))
    fun t r _ hcur hdata => by
      rw [cur_turned] at hcur
      rw [mem_turned] at hdata
      exact ⟨cur_putAlcove .., by rw [hcur, tileRow_congr hdata]⟩
  rw [mem_turned] at hmem hout
  refine ⟨hmem, fun r k hr hk => ?_, hout⟩
  rw [alcove_one]
  refine (congrArg BitVec.toNat (hval r k hr hk)).trans ?_
  rw [toNat_word_mod, mod_div_mod _ (by omega)]

end

/-! ### AMOVT (R242) -/

section
variable {c : TCfg} (h : s.BayFree) (hi : IssuesPlain s (moveUses gu s)) (hcfg : s.tcfg (bayOf s.cur) x.toNat = c)
include h hi hcfg

theorem amovt_traps_shape (hc : c.cfg = false ∨ amovtWords c.ty = 0) :
    exec (.amovt gu x base) s = .next ((s.accepted [bayOf s.cur]).trap tTILESHAPE (s.irWord 1)) := by
  subst hcfg
  exact runsMove_traps h hi (shape_trap (by simpa using hc))

section
variable (hc : c.cfg = true) (hn : amovtWords c.ty ≠ 0)
include hc hn

theorem amovt_traps_alcove (hw : base.toNat % amovtWords c.ty ≠ 0 ∨
      32768 < base.toNat + c.rb / (4 * amovtWords c.ty) * c.rows * amovtWords c.ty) :
    exec (.amovt gu x base) s = .next ((s.accepted [bayOf s.cur]).trap tALCOVE (word base.toNat)) := by
  subst hcfg
  exact runsMove_traps h hi (alcove_trap (by simpa [hc] using hn) hw)

theorem amovt_performs (ha : base.toNat % amovtWords c.ty = 0)
    (hw : base.toNat + c.rb / (4 * amovtWords c.ty) * c.rows * amovtWords c.ty ≤ 32768) (hrows : c.rows ≤ 192) (hrb : c.rb ≤ 128) :
    ∃ e, Performs s (.amovt gu x base) (moveUses gu s) e ∧ (∃ f, s.Fills e (bayOf s.cur) x.toNat (· < c.rows) f) ∧
      (∀ r k, r < c.rows → k < c.rb / (4 * amovtWords c.ty) →
        e.tileRow (bayOf s.cur) x.toNat r / 2 ^ (32 * amovtWords c.ty * k) % 2 ^ (32 * amovtWords c.ty) =
          s.alcove (bayOf s.cur) (base.toNat + (k * c.rows + r) * amovtWords c.ty) (amovtWords c.ty) % 2 ^ (32 * amovtWords c.ty)) ∧
      ∀ r, r < c.rows → e.tileRow (bayOf s.cur) x.toNat r / 2 ^ (8 * c.rb) = 0 := by
  refine ⟨_, runsMove_performs h hi (checks_pass (by simpa [hcfg, hc] using hn) (by
    simp only [alcoveWords, hcfg]; omega)), ?_⟩
  rw [hcfg, show 32 * amovtWords c.ty = 8 * (4 * amovtWords c.ty) by omega]
  refine And.imp (fun hfill => ⟨_, hfill⟩) (fun hval => ⟨fun r k hr hk => (hval r hr).1 k hk, fun r hr => (hval r hr).2⟩)
    (eachRow_fills (fun r v => (∀ k, k < c.rb / (4 * amovtWords c.ty) →
        v / 2 ^ (8 * (4 * amovtWords c.ty) * k) % 2 ^ (8 * (4 * amovtWords c.ty)) = s.alcove (bayOf s.cur)
          (base.toNat + (k * c.rows + r) * amovtWords c.ty) (amovtWords c.ty) % 2 ^ (8 * (4 * amovtWords c.ty))) ∧
      v / 2 ^ (8 * c.rb) = 0) (fun _ => (flagsOf (fun _ => {}) (c.rb / (4 * amovtWords c.ty))).or {}) x.isLt hrows
      fun r t hr hcur hal _ => ?_)
  rw [hcur]
  refine columns_rest_zero (Nat.mul_div_le ..) hrb (fun t' k hk _ hal' => ⟨?_, ?_⟩) x.isLt (hr.trans_le hrows)
  · exact putTileRow_fills _ x.isLt (hr.trans_le hrows) (column_fits hk ((Nat.mul_div_le ..).trans hrb))
  · rw [alcove_of_mem (hal'.trans hal)]

end
end

/-! ### AFIN (R243) -/

/-- What AFIN declares. -/
def afinUses (gu : Guard) (ty acc : BitVec 4) (rm : BitVec 3) (s : State) : Uses :=
  { moveUses gu s with illegal := !afinOk acc ty || decide (4 < rm.toNat) }

/-- Column `k` of row `r` of what AFIN computes: the accumulator rounded, and its flags. -/
def afinLane (s : State) (ty acc : BitVec 4) (rm : BitVec 3) (sat : Bool) (w cols r k : Nat) : LaneRes :=
  cvtLane acc.toNat ty.toNat rm.toNat sat 0
    (s.alcove (bayOf s.cur) (w + (r * cols + k) * accWords acc.toNat) (accWords acc.toNat))

section
variable {c : TCfg} {ty acc : BitVec 4} {rm : BitVec 3} {sat : Bool} (h : s.BayFree)
  (hi : IssuesPlain s (afinUses gu ty acc rm s)) (hcfg : s.tcfg (bayOf s.cur) x.toNat = c)
include h hi hcfg

theorem afin_traps_shape (hc : (c.cfg && c.ty == ty.toNat && c.rb % (bitsOf ty.toNat / 8) == 0) = false) :
    exec (.afin gu ty acc rm sat x base) s = .next ((s.accepted [bayOf s.cur]).trap tTILESHAPE (s.irWord 1)) := by
  subst hcfg
  exact runsMove_traps h hi (shape_trap (by
    simpa only [Bool.and_eq_false_iff, Bool.or_eq_true, Bool.not_eq_true', bne, or_assoc] using hc))

theorem afin_traps_alcove (hc : (c.cfg && c.ty == ty.toNat && c.rb % (bitsOf ty.toNat / 8) == 0) = true)
    (hw : 32768 < base.toNat + c.rows * (c.rb / (bitsOf ty.toNat / 8)) * accWords acc.toNat) :
    exec (.afin gu ty acc rm sat x base) s = .next ((s.accepted [bayOf s.cur]).trap tALCOVE (word base.toNat)) := by
  subst hcfg
  exact runsMove_traps h hi (alcove_trap (by simpa [and_assoc] using hc) hw)

theorem afin_performs (hc : c.cfg = true) (hty : c.ty = ty.toNat) (hb : c.rb % (bitsOf ty.toNat / 8) = 0)
    (hw : base.toNat + c.rows * (c.rb / (bitsOf ty.toNat / 8)) * accWords acc.toNat ≤ 32768) (hrows : c.rows ≤ 192)
    (hrb : c.rb ≤ 128) :
    ∃ e, Performs s (.afin gu ty acc rm sat x base) (afinUses gu ty acc rm s) e ∧
      s.Fills e (bayOf s.cur) x.toNat (· < c.rows) (flagsOf (fun r => flagsOf (fun k =>
        (afinLane s ty acc rm sat base.toNat (c.rb / (bitsOf ty.toNat / 8)) r k).2) (c.rb / (bitsOf ty.toNat / 8))) c.rows) ∧
      ∀ r, r < c.rows →
        e.tileRow (bayOf s.cur) x.toNat r / 2 ^ (8 * c.rb) = s.tileRow (bayOf s.cur) x.toNat r / 2 ^ (8 * c.rb) ∧
        ∀ k, k < c.rb / (bitsOf ty.toNat / 8) →
          e.tileRow (bayOf s.cur) x.toNat r / 2 ^ (8 * (bitsOf ty.toNat / 8) * k) % 2 ^ (8 * (bitsOf ty.toNat / 8)) =
            (afinLane s ty acc rm sat base.toNat (c.rb / (bitsOf ty.toNat / 8)) r k).1 % 2 ^ (8 * (bitsOf ty.toNat / 8)) := by
  refine ⟨_, runsMove_performs h hi (checks_pass (by simp [hcfg, hc, hty, hb]) (by
    simp only [alcoveWords, hcfg]; omega)), ?_⟩
  rw [hcfg]
  refine eachRow_fills (fun r v => v / 2 ^ (8 * c.rb) = s.tileRow (bayOf s.cur) x.toNat r / 2 ^ (8 * c.rb) ∧
      ∀ k, k < c.rb / (bitsOf ty.toNat / 8) → v / 2 ^ (8 * (bitsOf ty.toNat / 8) * k) % 2 ^ (8 * (bitsOf ty.toNat / 8)) =
        (afinLane s ty acc rm sat base.toNat (c.rb / (bitsOf ty.toNat / 8)) r k).1 % 2 ^ (8 * (bitsOf ty.toNat / 8)))
    _ x.isLt hrows fun r t hr hcur hal hrow => ?_
  rw [hcur, ← hrow]
  refine columns_rest_stays (Nat.mul_div_le ..) hrb fun t' k hk _ hal' => ?_
  rw [alcove_of_mem (hal'.trans hal)]
  exact ⟨raise_fills (putTileRow_fills _ x.isLt (hr.trans_le hrows) (column_fits hk ((Nat.mul_div_le ..).trans hrb))) _, rfl⟩

end

/-! ### AZERO (R242) -/

section
variable {a : Reg} (h : s.BayFree) (hi : IssuesPlain s { moveUses gu s with rs := [a.toNat] })
include h hi

theorem azero_traps (hw : (s.rg a).toNat = 0 ∨ 32768 < base.toNat + (s.rg a).toNat) :
    exec (.azero gu a base) s = .next ((s.accepted [bayOf s.cur]).trap tALCOVE (word base.toNat)) := by
  rw [← src_of_plain hi (List.mem_singleton_self _)] at hw
  exact runsMove_traps h hi (if_pos hw)

theorem azero_performs (hn : (s.rg a).toNat ≠ 0) (hw : base.toNat + (s.rg a).toNat ≤ 32768) :
    ∃ e, Performs s (.azero gu a base) { moveUses gu s with rs := [a.toNat] } e ∧
      { e.mem with alcove := s.mem.alcove } = s.mem ∧
      ∀ k, e.mem.alcove.get 0 k = if bayOf s.cur * 32768 + base.toNat ≤ k ∧
        k < bayOf s.cur * 32768 + base.toNat + (s.rg a).toNat then 0 else s.mem.alcove.get 0 k := by
  rw [← src_of_plain hi (List.mem_singleton_self _)] at hn hw ⊢
  refine ⟨_, runsMove_performs h hi (if_neg (by simp only [alcoveWords]; omega)), ?_, fun k => ?_⟩
  · change { s.turned.mem with alcove := s.mem.alcove } = s.mem
    rw [mem_turned]
  · change SMap.get 0 (SMap.clear (bayOf s.turned.cur * alcoveWords + base.toNat) _ s.turned.mem.alcove) k = _
    rw [SMap.get_clear, mem_turned, cur_turned]
    rfl

end
end Sys2Proof.Machine
end

section
/-!
SUPPORT. The images of a bay (R244, R245, R400): the checks of MSAVE and MREST, and what each comes to once its lines have their
places.
-/

namespace Sys2Proof.Machine

open Sys2Proof

variable {s : State} {gu : Guard} {la : BitVec 4} {d a : Reg}

/-- An image may stand in the global window or in an absolute vault (R245). -/
def imageWindow (v : Word) : Prop := v.toNat < 2 ^ 52 ∨ v.toNat / 2 ^ 48 = 0xFF04

theorem imageWindow_iff (v : Word) : imageWindow v ↔ (inGlobal v || v.toNat / 2 ^ 48 == 0xFF04) = true := by
  rw [Bool.or_eq_true, inGlobal_iff, beq_iff_eq]
  rfl

/-- An image whose first line no aperture holds lies outside from there on (R139). -/
theorem imageOutside_first {v : Word} (h : s.steer s.cur s.me.pv v = none) : s.imageOutside v = some v := by
  have hv : v + word (128 * 0) = v := BitVec.add_zero v
  have hlines : imageElems v = { idx := 0, byte := 0, n := 128, addr := v + word (128 * 0) } ::
      (List.range 1055).map fun i => { idx := i + 1, byte := 0, n := 128, addr := v + word (128 * (i + 1)) } := by
    rw [imageElems, show imageBytes / 128 = 1055 + 1 by decide, List.range_succ_eq_map, List.map_cons, List.map_map]
    rfl
  have hout : (s.steer s.cur s.me.pv v).isNone = true := by rw [h]; rfl
  simp only [State.imageOutside]
  rw [if_pos (by rw [hout]; rfl), hlines, List.find?_cons_of_pos (by rw [hv]; exact hout)]
  exact congrArg some hv

/-! ## The checks -/

section
variable {acc : Acc} {ready : Bay → Bool} {go : List (Elem × Loc) → State → Option (Nat × State)}

theorem imageBody_misaligned (h : (s.src a).toNat % 4096 ≠ 0) : imageBody acc d a la ready go s = .trap s tALIGN (s.src a) :=
  if_pos h

variable (h0 : (s.src a).toNat % 4096 = 0)
include h0

theorem imageBody_noWindow (hw : ¬imageWindow (s.src a)) : imageBody acc d a la ready go s = .trap s tAPERTURE (s.src a) := by
  rw [imageWindow_iff] at hw
  exact (if_neg (not_not.mpr h0)).trans (if_pos (by rw [Bool.eq_false_iff.mpr hw]; rfl))

variable (hw : imageWindow (s.src a))
include hw

theorem imageBody_outside {k : Word} (hk : s.imageOutside (s.src a) = some k) :
    imageBody acc d a la ready go s = .trap s tAPERTURE k := by
  rw [imageWindow_iff] at hw
  refine (if_neg (not_not.mpr h0)).trans ((if_neg (by rw [hw]; decide)).trans ?_)
  rw [hk]

variable (hin : s.imageOutside (s.src a) = none)
include hin

theorem imageBody_notReady (hr : ready (s.bay (bayOf s.cur)) = false) :
    imageBody acc d a la ready go s = .done (s.answer d la (word jNOTFROZEN)) := by
  rw [imageWindow_iff] at hw
  refine (if_neg (not_not.mpr h0)).trans ((if_neg (by rw [hw]; decide)).trans ?_)
  rw [hin]
  exact if_pos (by rw [hr]; rfl)

/-- The places of the lines stand for themselves here: there are 1,056 of them. -/
theorem imageBody_goes (hr : ready (s.bay (bayOf s.cur)) = true) {gs : List (Elem × Go)} {t t' : State}
    (hp : s.placeAll acc false (imageElems (s.src a)) = (gs, t)) (ht : firstTrap gs = none) (hg : firstPage gs = none)
    (hwait : anyWait gs = false) {code : Nat} (hgo : go (goLocs gs) t = some (code, t')) :
    imageBody acc d a la ready go s = .done (t'.answer d la (word code)) := by
  rw [imageWindow_iff] at hw
  refine (if_neg (not_not.mpr h0)).trans ((if_neg (by rw [hw]; decide)).trans ?_)
  rw [hin]
  generalize s.placeAll acc false (imageElems (s.src a)) = places at *
  subst hp
  simp only [hr, ht, hg, hwait, hgo]
  rfl

end

/-! ## MSAVE and MREST -/

section
variable (hi : IssuesPlain s (imageUses gu d a s))
include hi

theorem src_of_image : s.src a = s.rg a := src_of_plain hi (List.mem_singleton_self _)

/-- Both take the traps of the checks. -/
theorem image_traps {code : Nat} {v : Word} (hb : ∀ acc ready go, imageBody acc d a la ready go s = .trap s code v) :
    exec (.msave gu la d a) s = .next (s.trap code v) ∧ exec (.mrest gu la d a) s = .next (s.trap code v) :=
  ⟨runs_trap hi.toIssues (hb ..), runs_trap hi.toIssues (hb ..)⟩

variable (h0 : (s.rg a).toNat % 4096 = 0) (hw : imageWindow (s.rg a)) (hin : s.imageOutside (s.rg a) = none)
include h0 hw hin

theorem msave_notFrozen (hf : (s.bay (bayOf s.cur)).frozen = false) :
    Performs s (.msave gu la d a) (imageUses gu d a s) (s.answer d la (word jNOTFROZEN)) := by
  rw [← src_of_image hi] at h0 hw hin
  exact runs_done hi (imageBody_notReady h0 hw hin hf)

theorem mrest_notFrozen (hf : (s.bay (bayOf s.cur)).frozen = false ∨ (s.bay (bayOf s.cur)).jobs ≠ []) :
    Performs s (.mrest gu la d a) (imageUses gu d a s) (s.answer d la (word jNOTFROZEN)) := by
  rw [← src_of_image hi] at h0 hw hin
  exact runs_done hi (imageBody_notReady h0 hw hin (by simpa [Decidable.imp_iff_not_or] using hf))

variable {gs : List (Elem × Go)} {t t' : State} (ht : firstTrap gs = none) (hg : firstPage gs = none) (hwait : anyWait gs = false)
  (hf : (s.bay (bayOf s.cur)).frozen = true)
include ht hg hwait hf

/-- MSAVE of a frozen bay: the FES keeps what the image's bytes stand for, under the number of the save (log entry 10). -/
theorem msave_writes (hp : s.placeAll 1 false (imageElems (s.rg a)) = (gs, t)) {code : Nat}
    (hput : State.putImage (sealedByte (Config.imageByte t.fes.serial) imageBytes) (goLocs gs) t = some (code, t')) :
    ∃ e : State, Performs s (.msave gu la d a) (imageUses gu d a s) (e.answer d la (word code)) ∧
      e.fes.images = t'.fes.images ++ [BayImage.mk t.fes.serial (bayOf t.cur) (t.bay (bayOf t.cur))
        (t.mem.alcove.filter (fun e => e.1 / 32768 == bayOf t.cur))] ∧
      e.fes.serial = t.fes.serial + 1 ∧ e = { t' with fes := e.fes } := by
  rw [← src_of_image hi] at h0 hw hin hp
  exact ⟨{ t' with fes := { t'.fes with images := t'.fes.images ++ [_], serial := t.fes.serial + 1 } },
    runs_done hi (imageBody_goes h0 hw hin hf hp ht hg hwait (by simp only [hput]; rfl)), rfl, rfl, rfl⟩

variable (hj : (s.bay (bayOf s.cur)).jobs = []) (hp : s.placeAll 0 false (imageElems (s.rg a)) = (gs, t)) {bs : List Byte}
  (hget : State.getImage (goLocs gs) [] t = some ((0, bs), t'))
include hj hp hget

theorem mrest_badVersion (hv : sealVer bs = false) :
    Performs s (.mrest gu la d a) (imageUses gu d a s) (t'.answer d la (word jBADVER)) := by
  rw [← src_of_image hi] at h0 hw hin hp
  exact runs_done hi (imageBody_goes h0 hw hin (by rw [hf, hj]; rfl) hp ht hg hwait (by simp [hget, hv]))

variable (hv : sealVer bs = true)
include hv

theorem mrest_badSum (hs : sealSum bs = false) :
    Performs s (.mrest gu la d a) (imageUses gu d a s) (t'.answer d la (word jBADSUM)) := by
  rw [← src_of_image hi] at h0 hw hin hp
  exact runs_done hi (imageBody_goes h0 hw hin (by rw [hf, hj]; rfl) hp ht hg hwait (by simp [hget, hv, hs]))

theorem mrest_loads (hs : sealSum bs = true) {img : BayImage} (him : t'.imageOf bs = some img) :
    Performs s (.mrest gu la d a) (imageUses gu d a s) ((t'.loadImage (bayOf t'.cur) img).answer d la (word 0)) := by
  rw [← src_of_image hi] at h0 hw hin hp
  exact runs_done hi (imageBody_goes h0 hw hin (by rw [hf, hj]; rfl) hp ht hg hwait (by simp [hget, hv, hs, him]))

end

end Sys2Proof.Machine
end

section
/-!
SUPPORT. A cell of a matrix product (R234, R235): each group sum is the root of a tree over sixteen products, and the cell is the
chain of its group sums.
-/

namespace Sys2Proof.Machine

open Sys2Proof

variable {α : Type}

/-! ## Trees of present values -/

/-- An operation on values that carry the flags of what has led to them. -/
def withFlags (op : α → α → α × FFlags) (p q : α × FFlags) : α × FFlags :=
  ((op p.1 q.1).1, (p.2.or q.2).or (op p.1 q.1).2)

/-- Where every leaf is present, so is every node. -/
theorem treeNode_present (op : α → α → α × FFlags) (leaf : Nat → α × FFlags) (l k : Nat) :
    treeNode (combine op) (fun i => some (leaf i)) l k = some (treeNode (withFlags op) leaf l k) := by
  induction l generalizing k with
  | zero => rfl
  | succ l ih => rw [treeNode, treeNode, ih, ih]; rfl

/-- The product that stands at leaf `k` of the trees of a cell. -/
def cellProduct (ty ra sa rb sb k : Nat) : FVal × FFlags := mulV (inVal ty ra sa k) (inVal ty rb sb k)

theorem groupSum_eq (ty ra sa rb sb g : Nat) : groupSum ty ra sa rb sb g =
    treeNode (withFlags (sumNode (accOf ty))) (fun j => cellProduct ty ra sa rb sb (16 * g + j)) 4 0 := by
  have h := (treeUp_root (sumNode (accOf ty)) (fun j => some (cellProduct ty ra sa rb sb (16 * g + j))) 4).trans
    (treeNode_present ..)
  exact congrArg (fun n : Node => n.getD (.fin false 0 0 false, {})) h

/-- Levels of the integer tree, one after the other. -/
def intTree (sat : Bool) : Nat → List Int → Int
  | 0, l => l.headD 0
  | k + 1, l => intTree sat k (intLevel sat l)

theorem intTree_root (sat : Bool) (leaf : Nat → Int) (k : Nat) :
    intTree sat k ((List.range (2 ^ k)).map leaf) = treeNode (intNode sat) leaf k 0 :=
  levels_root (pair := intLevel sat) rfl (fun _ _ _ => rfl) (fun _ _ => rfl) (fun _ _ => rfl) leaf k

/-- The product of two S8 elements. -/
def cellProductI (ra rb k : Nat) : Int := intVal 9 (ra / 2 ^ (8 * k)) * intVal 9 (rb / 2 ^ (8 * k))

theorem groupSumI_eq (sat : Bool) (ra rb g : Nat) :
    groupSumI sat ra rb g = treeNode (intNode sat) (fun j => cellProductI ra rb (16 * g + j)) 4 0 :=
  intTree_root sat (fun j => cellProductI ra rb (16 * g + j)) 4

/-! ## Chains -/

/-- One more group sum joins a chain, or begins it. -/
def chainOn (op : α → α → α) (c : Option α) (g : α) : α :=
  match c with
  | none => g
  | some x => op x g

/-- The chain of the first `n` group sums, from the old element if there is one. -/
def chainTo (op : α → α → α) (first : Option α) (sum : Nat → α) : Nat → Option α
  | 0 => first
  | n + 1 => some (chainOn op (chainTo op first sum n) (sum n))

/-- A chained value and its flags, as `chain` holds them. -/
def unchained : Option (FVal × FFlags) → Option FVal × FFlags
  | none => (none, {})
  | some (v, f) => (some v, f)

/-- One more group sum is chained. -/
def chainStep (acc : Nat) (e : Option FVal × FFlags) (g : FVal × FFlags) : Option FVal × FFlags :=
  match e.1 with
  | none => (some g.1, e.2.or g.2)
  | some c => (some (sumNode acc c g.1).1, (e.2.or g.2).or (sumNode acc c g.1).2)

theorem chain_append (acc : Nat) (l : List (FVal × FFlags)) (g : FVal × FFlags) (c : Option FVal) (f : FFlags) :
    chain acc (l ++ [g]) c f = chainStep acc (chain acc l c f) g := by
  induction l generalizing c f with
  | nil => cases c <;> rfl
  | cons h l ih => cases c <;> exact ih ..

theorem chain_eq (acc : Nat) (first : Option (FVal × FFlags)) (sum : Nat → FVal × FFlags) (n : Nat) :
    chain acc ((List.range n).map sum) (unchained first).1 (unchained first).2 =
      unchained (chainTo (withFlags (sumNode acc)) first sum n) := by
  induction n with
  | zero => rfl
  | succ n ih =>
    rw [List.range_succ, List.map_append, List.map_singleton, chain_append, ih, chainTo]
    cases chainTo (withFlags (sumNode acc)) first sum n with
    | none => exact congrArg (some (sum n).1, ·) (FFlags.none_or _)
    | some e => rfl

theorem chainI_append (sat : Bool) (l : List Int) (g : Int) (c : Option Int) :
    chainI sat (l ++ [g]) c = some (chainOn (intNode sat) (chainI sat l c) g) := by
  induction l generalizing c with
  | nil => cases c <;> rfl
  | cons h l ih => cases c <;> exact ih ..

theorem chainI_eq (sat : Bool) (first : Option Int) (sum : Nat → Int) (n : Nat) :
    chainI sat ((List.range n).map sum) first = chainTo (intNode sat) first sum n := by
  induction n with
  | zero => rfl
  | succ n ih => rw [List.range_succ, List.map_append, List.map_singleton, chainI_append, ih, chainTo]

/-! ## Cells -/

/-- Groups of sixteen elements in a row. -/
def cellGroups (ty : Nat) : Nat := 1024 / bitsOf ty / 16

theorem cellGroups_pos {ty : Nat} (h : ty < 10) : ∃ m, cellGroups ty = m + 1 :=
  Nat.exists_eq_succ_of_ne_zero ((by decide : ∀ t, t < 10 → cellGroups t ≠ 0) ty h)

/-- The values chained up to each group of a cell. -/
def cellChain (ty : Nat) (z : Bool) (ra sa rb sb old : Nat) : Nat → Option (FVal × FFlags) :=
  chainTo (withFlags (sumNode (accOf ty))) (if z then none else some (elemVal (accOf ty) old, {}))
    (fun g => treeNode (withFlags (sumNode (accOf ty))) (fun j => cellProduct ty ra sa rb sb (16 * g + j)) 4 0)

theorem mmaCell_float {ty : Nat} (h : ty < 9) (sat z : Bool) (ra sa rb sb old : Nat) :
    ∃ v f, cellChain ty z ra sa rb sb old (cellGroups ty) = some (v, f) ∧
      mmaCell ty sat z ra sa rb sb old = ((roundF (fmtOf (accOf ty)) 0 false v).1, f) := by
  obtain ⟨m, hm⟩ := cellGroups_pos (Nat.lt_succ_of_lt h)
  have hfirst : ((if z then none else some (elemVal (accOf ty) old) : Option FVal), ({} : FFlags)) =
      unchained (if z then none else some (elemVal (accOf ty) old, {})) := by cases z <;> rfl
  have hchain := chain_eq (accOf ty) (if z then none else some (elemVal (accOf ty) old, {}))
    (groupSum ty ra sa rb sb) (cellGroups ty)
  rw [← hfirst, funext (groupSum_eq ty ra sa rb sb)] at hchain
  obtain ⟨⟨v, f⟩, hv⟩ : ∃ e, cellChain ty z ra sa rb sb old (cellGroups ty) = some e := by rw [hm]; exact ⟨_, rfl⟩
  refine ⟨v, f, hv, ?_⟩
  rw [cellChain] at hv
  rw [hv] at hchain
  simp only [mmaCell, if_neg (Nat.ne_of_lt h), funext (groupSum_eq ty ra sa rb sb)]
  rw [cellGroups] at hchain
  rw [hchain]
  rfl

/-- The same of an S8 cell. -/
def cellChainI (sat z : Bool) (ra rb old : Nat) : Nat → Option Int :=
  chainTo (intNode sat) (if z then none else some (intVal 11 old))
    (fun g => treeNode (intNode sat) (fun j => cellProductI ra rb (16 * g + j)) 4 0)

theorem mmaCell_int (sat z : Bool) (ra sa rb sb old : Nat) :
    ∃ v, cellChainI sat z ra rb old (cellGroups 9) = some v ∧ mmaCell 9 sat z ra sa rb sb old = (intBits 11 v, {}) := by
  obtain ⟨m, hm⟩ := cellGroups_pos (ty := 9) (by decide)
  obtain ⟨v, hv⟩ : ∃ v, cellChainI sat z ra rb old (cellGroups 9) = some v := by rw [hm]; exact ⟨_, rfl⟩
  refine ⟨v, hv, ?_⟩
  have hchain := chainI_eq sat (if z then none else some (intVal 11 old)) (groupSumI sat ra rb) (cellGroups 9)
  rw [funext (groupSumI_eq sat ra rb)] at hchain
  rw [cellChainI, ← hchain] at hv
  simp only [mmaCell, if_true, funext (groupSumI_eq sat ra rb)]
  rw [cellGroups] at hv
  rw [hv]
  rfl

/-- An element of a row, and its value under its scale byte where the type is MX (R68 to R74, R234). -/
theorem inVal_eq {ty : Nat} (h : ty < 9) (row scales k : Nat) : inVal ty row scales k =
    if ¬(6 ≤ ty ∧ ty ≤ 8) then decF (fmtOf ty) (row / 2 ^ (bitsOf ty * k) % 2 ^ bitsOf ty)
    else if scales / 256 ^ (k / 16) % 256 = 255 then .nan false
    else (decF (fmtOf ty) (row / 2 ^ (bitsOf ty * k) % 2 ^ bitsOf ty)).scale
      (((scales / 256 ^ (k / 16) % 256 : Nat) : Int) - 127) := by
  by_cases hmx : 6 ≤ ty ∧ ty ≤ 8
  · rw [if_neg (not_not.mpr hmx)]
    exact if_pos (by simpa [isMX] using hmx)
  · rw [if_pos hmx]
    refine (if_neg (by simpa [isMX] using hmx)).trans (if_neg ?_)
    simp [isInt, h]

/-- An S8 element is the low byte of what stands above those before it. -/
theorem intVal_byte (x : Nat) : intVal 9 (x % 2 ^ bitsOf 9) = intVal 9 x := by
  simp [intVal, isSigned, sintN]

section
variable {ty : Nat} (h : ty < 9)
include h

theorem accOf_float : accOf ty = if ty = 0 then 0 else 1 := by
  unfold accOf
  split
  · rfl
  · rw [if_neg (Nat.ne_of_lt h)]

theorem elemVal_acc (old : Nat) : elemVal (accOf ty) old = decF (fmtOf (if ty = 0 then 0 else 1)) old := by
  rw [accOf_float h]
  split <;> rfl

/-- A node of the trees, and a link of the chain: the exact sum, rounded once in the accumulator's format (R234, R235). -/
theorem sumNode_acc (x y : FVal) : sumNode (accOf ty) x y =
    (decF (fmtOf (if ty = 0 then 0 else 1)) (roundF (fmtOf (if ty = 0 then 0 else 1)) 0 false (addV 0 x y).1).1,
      (addV 0 x y).2.or (roundF (fmtOf (if ty = 0 then 0 else 1)) 0 false (addV 0 x y).1).2) := by
  rw [accOf_float h]
  split <;> rfl

end

/-- The sum of two integers in a cell, within the accumulator's bits (R234, R78). -/
theorem intNode_eq (sat : Bool) (x y : Int) : intNode sat x y =
    intVal 11 (intBits 11 (if sat then max (-2 ^ 31) (min (2 ^ 31 - 1) (x + y)) else x + y)) :=
  congrArg (intVal 11) (putI_eq 11 sat (x + y))

end Sys2Proof.Machine
end

section
/-!
SUPPORT. Matrix jobs that run: starting, moving rows, and ending (R226, R227, R231, R234 to R237).
-/

namespace Sys2Proof.Machine

open Sys2Proof

variable {s t : State} {bk id : Nat} {j : Job}

/-! ## Starting -/

theorem matrixJobStart_frozen (h : s.freezing bk = true) : exec (.matrixJobStart bk) s = .next s :=
  congrArg Host.Outcome.next (if_pos h)

/-- The bay's next job starts, and its core is the one served last (R227). -/
theorem matrixJobStart_starts (h : s.freezing bk = false)
    (hj : nextServed (s.bay bk).rr ((Bay.heads bk (s.bay bk).jobs).filter (s.mayStart bk)) = some j) :
    ∃ t, exec (.matrixJobStart bk) s = .next t ∧ (t.bay bk).rr = coreIdx j.core ∧
      (t.bay bk).jobs = updFirst (fun k => k.id == j.id) (fun k => { k with started := true }) (s.bay bk).jobs ∧
      (∀ k, k ≠ bk → t.bay k = s.bay k) ∧ t = { s with bays := t.bays } := by
  refine ⟨(s.updJob bk j.id (fun j => { j with started := true })).updBay bk (fun b => { b with rr := coreIdx j.core }),
    congrArg Host.Outcome.next ((if_neg (Bool.eq_false_iff.mp h)).trans (by simp only [hj])), ?_, ?_, fun k hk => ?_, ?_⟩
  · rw [bay_updBay, if_pos rfl]
  · rw [bay_updBay, if_pos rfl, State.updJob, bay_updBay, if_pos rfl]
  · rw [bay_updBay, if_neg (Ne.symm hk), State.updJob, bay_updBay, if_neg (Ne.symm hk)]
  · rfl

/-! ## Rows and ends -/

section
variable (hf : (s.bay bk).jobs.find? (fun j => j.id == id) = some j) (hs : j.started = true)
include hf hs

theorem tileRowMove_reads (hk : j.kind = .tld) (hb : bayOf j.core = bk) (hr : j.row < j.rows) (hstop : j.stop = none)
    (hwait : j.wait = none) (hfork : s.forkBusy j.core j.id = false) (hok : s.rowOk j.core j.pv (j.rowAt j.row) j.nb = true)
    {x : Nat} (hread : s.readRow bk j (j.rowAt j.row)
      (if inGlobal (j.rowAt j.row) then linePieces (j.rowAt j.row).toNat j.nb else [(0, j.nb)]) 0 = (.ok x, t)) :
    exec (.tileRowMove bk id) s = .next ((t.fillRow j x).updJob bk id (fun j => { j with row := j.row + 1 })) := by
  change execTileRowMove bk id s = _
  simp only [execTileRowMove, hf]
  rw [if_neg (by simp [Job.port, hk, hb, hs, hr, hstop, hwait, hfork]), if_neg (by simp [hok]), if_pos (by simp [hk]), hread]

theorem matrixJobComplete_tld (hk : j.kind = .tld) (hb : bayOf j.core = bk) (hr : j.rows ≤ j.row ∨ j.stop.isSome = true) :
    exec (.matrixJobComplete bk id) s = .next ((s.dropJob (baysOf (tileOf j.core)) id).endJob j) := by
  change execMatrixJobComplete bk id s = _
  have hmore : (decide (j.row < j.rows) && j.stop.isNone) = false := by
    rcases hr with hr | hr
    · rw [decide_eq_false (Nat.not_lt.mpr hr), Bool.false_and]
    · rw [Option.isNone_eq_false_iff.mpr hr, Bool.and_false]
  simp only [execMatrixJobComplete, hf]
  rw [if_neg (by simp [Job.isJob, hk, hs]), if_pos (by simp [Job.port, hk]), if_neg (by simp [hb, hmore]),
    if_neg (by simp [hk])]

/-- The bays of the tile of a job, of those that still hold a job of its number. -/
def holders (t : State) (ck id : Nat) : List Nat :=
  (baysOf (tileOf ck)).filter (fun k => (t.bay k).jobs.any (fun x => x.id == id))

/-- An MMA, or a quarter of an MMAC, has been computed and has left its bay. -/
def State.computed (s : State) (bk id : Nat) (j : Job) : State := (s.runMma bk j).1.dropJob [bk] id

theorem matrixJobComplete_mma (hk : j.kind = .mma ∨ j.kind = .mmac) (hfr : s.freezing bk = false) :
    exec (.matrixJobComplete bk id) s = .next (
      if (holders (s.computed bk id j) j.core id).isEmpty then
        (s.computed bk id j).endJob { j with flags := j.flags.or (s.runMma bk j).2 }
      else (holders (s.computed bk id j) j.core id).foldl (fun t k => t.updJob k id (fun x =>
        { x with flags := x.flags.or (j.flags.or (s.runMma bk j).2) })) (s.computed bk id j)) := by
  change execMatrixJobComplete bk id s = _
  have hport : j.port = false := by rcases hk with hk | hk <;> simp [Job.port, hk]
  have hjob : j.isJob = true := by rcases hk with hk | hk <;> simp [Job.isJob, hk]
  simp only [execMatrixJobComplete, hf]
  rw [if_neg (by simp [hjob, hs]), if_neg (by simp [hport]), if_neg (by simp [hfr])]
  rfl

end

/-! ## The quarters of an MMAC -/

theorem baysOf_nodup (tile : Nat) : (baysOf tile).Nodup :=
  List.Nodup.map (fun a b h => by simpa using h) List.nodup_range

theorem holders_isEmpty_iff (ck : Nat) :
    (holders t ck id).isEmpty = true ↔ ∀ k ∈ baysOf (tileOf ck), ∀ x ∈ (t.bay k).jobs, x.id ≠ id := by
  simp [holders]

theorem updFirst_of_none {α : Type} {p : α → Bool} (f : α → α) {l : List α} (h : l.any p = false) : updFirst p f l = l := by
  induction l with
  | nil => rfl
  | cons x l ih =>
    simp only [List.any_cons, Bool.or_eq_false_iff] at h
    rw [updFirst, if_neg (Bool.eq_false_iff.mp h.1), ih h.2]

/-- The flags of a quarter join those of the job wherever it stands. -/
theorem foldl_updJob_holders (ck : Nat) (f : Job → Job) (t : State) :
    (holders t ck id).foldl (fun t k => t.updJob k id f) t =
        { t with bays := ((holders t ck id).foldl (fun t k => t.updJob k id f) t).bays } ∧
      (∀ k ∈ baysOf (tileOf ck), (((holders t ck id).foldl (fun t k => t.updJob k id f) t).bay k).jobs =
        updFirst (fun x => x.id == id) f (t.bay k).jobs) ∧
      ∀ k, k ∉ baysOf (tileOf ck) → ((holders t ck id).foldl (fun t k => t.updJob k id f) t).bay k = t.bay k := by
  have hsub : ∀ k, k ∈ holders t ck id ↔ k ∈ baysOf (tileOf ck) ∧ (t.bay k).jobs.any (fun x => x.id == id) = true := fun k =>
    List.mem_filter
  refine ⟨foldl_updBay_eq _ _ t, fun k hk => ?_, fun k hk => bay_foldl_updBay_other _ (fun h => hk ((hsub k).mp h).1) t⟩
  by_cases hany : (t.bay k).jobs.any (fun x => x.id == id) = true
  · exact congrArg Bay.jobs (bay_foldl_updBay (fun _ b => { b with jobs := updFirst (fun x => x.id == id) f b.jobs })
      ((baysOf_nodup _).filter _) ((hsub k).mpr ⟨hk, hany⟩) t)
  · rw [updFirst_of_none f (Bool.eq_false_iff.mpr hany)]
    exact congrArg Bay.jobs (bay_foldl_updBay_other _ (fun h => hany ((hsub k).mp h).2) t)

/-! ## The result of an MMA -/

/-- Cell `i` of the result of an MMA in a bay: its bits and its flags. -/
def State.cellOf (s : State) (bk : Nat) (j : Job) (i : Nat) : Nat × FFlags :=
  mmaCell j.ty j.sat j.z (s.tileRow bk j.ta (i / j.n)) (s.scaleRow bk j.ta (i / j.n)) (s.tileRow bk j.tb (i % j.n))
    (s.scaleRow bk j.tb (i % j.n)) (s.alcove bk (j.abase + i * accWords (accOf j.ty)) (accWords (accOf j.ty)))

theorem runMma_eq (s : State) (bk : Nat) (j : Job) : s.runMma bk j =
    ((List.range (j.rows * j.n)).foldl (fun t i => t.putAlcove bk (j.abase + i * accWords (accOf j.ty)) (accWords (accOf j.ty))
      (s.cellOf bk j i).1) s, flagsOf (fun i => (s.cellOf bk j i).2) (j.rows * j.n)) := by
  refine foldl_range_holds (fun k (r : State × FFlags) => r = ((List.range k).foldl (fun t i =>
    t.putAlcove bk (j.abase + i * accWords (accOf j.ty)) (accWords (accOf j.ty)) (s.cellOf bk j i).1) s,
    flagsOf (fun i => (s.cellOf bk j i).2) k)) rfl fun k r _ hr => ?_
  rw [hr, List.range_succ, List.foldl_append, flagsOf_succ]
  rfl

theorem runMma_holds (s : State) (bk : Nat) (j : Job) :
    (∀ i, i < j.rows * j.n → (s.runMma bk j).1.alcove bk (j.abase + i * accWords (accOf j.ty)) (accWords (accOf j.ty)) =
      (s.cellOf bk j i).1 % 2 ^ (32 * accWords (accOf j.ty))) ∧
    (s.runMma bk j).2 = FFlags.orAll ((List.range (j.rows * j.n)).map (fun i => (s.cellOf bk j i).2)) ∧
    (∀ k, k < bk * 32768 + j.abase ∨ bk * 32768 + j.abase + j.rows * j.n * accWords (accOf j.ty) ≤ k →
      (s.runMma bk j).1.mem.alcove.get 0 k = s.mem.alcove.get 0 k) ∧
    { (s.runMma bk j).1.mem with alcove := s.mem.alcove } = s.mem := by
  rw [runMma_eq]
  obtain ⟨hmem, hval, hout⟩ := elements_fill (s := s) (bk := bk) (v := fun i => (s.cellOf bk j i).1) (w := j.abase)
    (e := accWords (accOf j.ty)) (n := j.rows * j.n)
    (step := fun t i => t.putAlcove bk (j.abase + i * accWords (accOf j.ty)) (accWords (accOf j.ty)) (s.cellOf bk j i).1)
    fun t i _ _ _ => ⟨cur_putAlcove .., rfl⟩
  exact ⟨fun i hi => alcove_of_words fun k hk => hval i k hi hk, rfl, hout, hmem⟩

end Sys2Proof.Machine
end

section
/-!
SUPPORT. Matrix jobs at issue: the checks of TLD, TST, MMA and MMAC (R224, R230 to R233, R236), and what MPOLL and MWAIT report
(R238).
-/

namespace Sys2Proof.Machine

open Sys2Proof

variable {s : State} {gu : Guard} {la : BitVec 4} {d gs a b : Reg} {i : Instr} {kind : JKind} {bs : List Nat}

/-! ## Bodies that ask for a turn -/

section
variable {u : Uses} {body : State → Res} {bks : List Nat} (hf : (s.bay (bayOf s.cur)).frozen = false) (hi : IssuesPlain s u)
include hf hi

theorem runsX_late {r : Res} (hb : body s = s.inTurnAt bks r) (hu : u.blocking = false) (h : s.inCoreOrder bks = false) :
    s.runsX u body = .next s :=
  runsX_stalls hf hi hu (hb.trans (inTurnAt_late h r))

theorem runsX_turnTraps {code : Nat} {v : Word} (h : s.inCoreOrder bks = true) (hb : body s = s.inTurnAt bks (.trap s code v)) :
    s.runsX u body = .next ((s.accepted bks).trap code v) :=
  runsX_traps hf hi.toIssues (hb.trans (inTurnAt_trap h ..))

theorem runsX_turnDone {t : State} (h : s.inCoreOrder bks = true) (hb : body s = s.inTurnAt bks (.done t)) :
    s.runsX u body = .next (State.after s u t (s.pc + word u.len)) :=
  runsX_done hf hi (hb.trans (inTurnAt_done h t))

end

/-! ## Row jobs -/

/-- What TLD and TST declare (R230). -/
def rowUses (gu : Guard) (d gs a b : Reg) (s : State) : Uses :=
  { len := 12, on := s.guard gu, rs := [a.toNat, b.toNat], ws := [d.toNat, gs.toNat], long := true, illegal := d == gs && d != 0 }

/-- The bays that accept a row job: those it names, and the issuing core's. -/
def State.takers (s : State) (bs : List Nat) : List Nat :=
  if bs.contains (bayOf s.cur) then bs else bayOf s.cur :: bs

/-- The row job that TLD or TST asks for, whose scoreboard entries are the next number's. -/
def State.rowJob (s : State) (kind : JKind) (rh : Hint) (a b : Reg) (scale : Bool) (x : Nat) (bs : List Nat) : Job :=
  { kind := kind, ta := x, scale := scale, rows := (s.tcfg (bs.headD (bayOf s.cur)) x).rows,
    nb := rowBytes (s.tcfg (bs.headD (bayOf s.cur)) x) scale, ga := s.rg a, gb := s.rg b, bays := bs, hint := rh,
    ty := (s.tcfg (bs.headD (bayOf s.cur)) x).ty, tb := s.ctr }

/-- The bays that a TLD names by its mask; none is the issuing core's own (R230). -/
def State.namedBays (s : State) (bm : BitVec 8) : List Nat :=
  if bm = 0 then [bayOf s.cur] else ((List.range 8).filter (fun k => bm.getLsbD k)).map (fun k => tileOf s.cur * 8 + k)

theorem mask_names_none (bm : BitVec 8) : ((List.range 8).filter (fun k => bm.getLsbD k)).isEmpty = true ↔ bm = 0 := by
  rw [List.isEmpty_iff, List.filter_eq_nil_iff]
  refine ⟨fun h => BitVec.eq_of_getLsbD_eq fun k hk => ?_, fun h k _ => by simp [h]⟩
  simpa using h k (List.mem_range.mpr hk)

theorem exec_rowJob {rh : Hint} {scale : Bool} {x : TReg} {bm : BitVec 8}
    (h : (i, kind, bs) = (Instr.tld gu la rh d gs a b scale x bm, JKind.tld, s.namedBays bm) ∨
      (i, kind, bs) = (Instr.tst gu la rh d gs a b scale x, JKind.tst, [bayOf s.cur])) :
    ∃ body, exec i s = s.runsX (rowUses gu d gs a b s) body ∧ body s = rowJobBody kind d gs la rh a b scale x.toNat bs s := by
  rcases h with h | h <;> cases h
  · refine ⟨_, rfl, ?_⟩
    simp only [mask_names_none]
    rfl
  · exact ⟨_, rfl, rfl⟩

theorem not_bnot {c : Bool} (h : c = true) : ¬((!c) = true) := by simp [h]

theorem bnot_of_false {c : Bool} (h : c = false) : (!c) = true := by simp [h]

section
variable {rh : Hint} {scale : Bool} {x : Nat} (ea : s.src a = s.rg a) (eb : s.src b = s.rg b)
include ea eb

theorem rowJobBody_base (hs : scale = false) (ha : (s.rg a).toNat % 16 ≠ 0) :
    rowJobBody kind d gs la rh a b scale x bs s = s.inTurnAt (s.takers bs) (.trap s tALIGN (s.rg a)) := by
  simp only [rowJobBody, ea, eb]
  exact congrArg (s.inTurnAt (s.takers bs)) (if_pos (by simp [hs, ha]))

theorem rowJobBody_stride (hs : scale = false) (ha : (s.rg a).toNat % 16 = 0) (hb : (s.rg b).toNat % 16 ≠ 0) :
    rowJobBody kind d gs la rh a b scale x bs s = s.inTurnAt (s.takers bs) (.trap s tALIGN (s.rg b)) := by
  simp only [rowJobBody, ea, eb]
  exact congrArg (s.inTurnAt (s.takers bs)) ((if_neg (by simp [ha])).trans (if_pos (by simp [hs, hb])))

end

section
variable {rh : Hint} {scale : Bool} {x : Nat}

/-- The rows may lie where a row job's may: on 16 bytes, but for scale planes (R230). -/
def State.rowsAligned (s : State) (a b : Reg) (scale : Bool) : Prop :=
  scale = true ∨ (s.rg a).toNat % 16 = 0 ∧ (s.rg b).toNat % 16 = 0

theorem base_aligned (h : s.rowsAligned a b scale) : ¬((!scale && (s.rg a).toNat % 16 != 0) = true) := by
  rcases h with h | ⟨ha, -⟩
  · simp [h]
  · simp [ha]

theorem stride_aligned (h : s.rowsAligned a b scale) : ¬((!scale && (s.rg b).toNat % 16 != 0) = true) := by
  rcases h with h | ⟨-, hb⟩
  · simp [h]
  · simp [hb]

/-- A row of a job that is being issued can be reached (R139). -/
def State.rowReached (s : State) (j : Job) (w : Word) : Bool := s.rowOk s.cur s.me.pv w (max j.nb 1)

variable (ea : s.src a = s.rg a) (eb : s.src b = s.rg b) (hal : s.rowsAligned a b scale)
include ea eb hal

theorem rowJobBody_first (hr : s.rowReached (s.rowJob kind rh a b scale x bs) (s.rg a) = false) :
    rowJobBody kind d gs la rh a b scale x bs s = s.inTurnAt (s.takers bs) (.trap s tAPERTURE (s.rg a)) := by
  simp only [rowJobBody, ea, eb]
  exact congrArg (s.inTurnAt (s.takers bs)) ((if_neg (base_aligned hal)).trans ((if_neg (stride_aligned hal)).trans
    (if_pos (bnot_of_false hr))))

variable (hr : s.rowReached (s.rowJob kind rh a b scale x bs) (s.rg a) = true)
include hr

theorem rowJobBody_last {w : Word}
    (hw : w = (s.rowJob kind rh a b scale x bs).rowAt ((s.rowJob kind rh a b scale x bs).rows - 1))
    (hl : s.rowReached (s.rowJob kind rh a b scale x bs) w = false) :
    rowJobBody kind d gs la rh a b scale x bs s = s.inTurnAt (s.takers bs) (.trap s tAPERTURE w) := by
  subst hw
  simp only [rowJobBody, ea, eb]
  exact congrArg (s.inTurnAt (s.takers bs)) ((if_neg (base_aligned hal)).trans ((if_neg (stride_aligned hal)).trans
    ((if_neg (not_bnot hr)).trans (if_pos (bnot_of_false hl)))))

variable (hl : s.rowReached (s.rowJob kind rh a b scale x bs)
  ((s.rowJob kind rh a b scale x bs).rowAt ((s.rowJob kind rh a b scale x bs).rows - 1)) = true)
include hl

theorem rowJobBody_shape (hc : ∃ k ∈ bs, (s.tcfg k x).cfg = false ∨ s.tcfg k x ≠ s.tcfg (bs.headD (bayOf s.cur)) x ∨
      (scale = true ∧ isMX (s.tcfg k x).ty = false)) :
    rowJobBody kind d gs la rh a b scale x bs s = s.inTurnAt (s.takers bs) (.trap s tTILESHAPE (s.irWord 1)) := by
  simp only [rowJobBody, ea, eb]
  refine congrArg (s.inTurnAt (s.takers bs)) ((if_neg (base_aligned hal)).trans ((if_neg (stride_aligned hal)).trans
    ((if_neg (not_bnot hr)).trans ((if_neg (not_bnot hl)).trans (if_pos ?_)))))
  obtain ⟨k, hk, hc⟩ := hc
  refine List.any_eq_true.mpr ⟨k, hk, ?_⟩
  rcases hc with hc | hc | ⟨hs, hc⟩
  · simp [hc]
  · exact Bool.or_eq_true_iff.mpr (.inr (bne_iff_ne.mpr hc))
  · simp [hs, hc]

theorem rowJobBody_accepts (hc : ∀ k ∈ bs, s.tcfg k x = s.tcfg (bs.headD (bayOf s.cur)) x)
    (hcfg : (s.tcfg (bs.headD (bayOf s.cur)) x).cfg = true)
    (hmx : scale = true → isMX (s.tcfg (bs.headD (bayOf s.cur)) x).ty = true) (hroom : s.jobRoom [bayOf s.cur] = true)
    {t : State} (ht : s.takeScores s.cur s.ctr (if kind = .tst then s.rowSpans (s.rowJob kind rh a b scale x bs) else []) =
      some t) :
    rowJobBody kind d gs la rh a b scale x bs s = s.inTurnAt (s.takers bs) (.done (({ t with ctr := s.ctr + 1 } : State).acceptJob
      d gs la (s.takers bs) (s.rowJob kind rh a b scale x bs))) := by
  simp only [rowJobBody, ea, eb, beq_iff_eq]
  refine congrArg (s.inTurnAt (s.takers bs)) ((if_neg (base_aligned hal)).trans ((if_neg (stride_aligned hal)).trans
    ((if_neg (not_bnot hr)).trans ((if_neg (not_bnot hl)).trans ((if_neg ?_).trans ((if_neg (not_bnot hroom)).trans ?_))))))
  · refine Bool.eq_false_iff.mp (List.any_eq_false.mpr fun k hk => ?_)
    simpa [hc k hk] using And.intro hcfg hmx
  · exact congrArg (fun o : Option State => match o with
      | none => Res.stall
      | some s' => .done (({ s' with ctr := s.ctr + 1 } : State).acceptJob d gs la (s.takers bs)
          (s.rowJob kind rh a b scale x bs))) ht

end

/-! ## Matrix products -/

/-- The tiles of a product in one bay of those that share it (R233, R236). -/
def State.tilesFit (s : State) (bs : List Nat) (ty x y k : Nat) : Prop :=
  (s.tcfg k x).cfg = true ∧ (s.tcfg k y).cfg = true ∧ (s.tcfg k x).ty = ty ∧ (s.tcfg k y).ty = ty ∧
    (s.tcfg k x).rows ≤ 96 ∧ (s.tcfg k y).rows ≤ 192 ∧ (s.tcfg k x).rows = (s.tcfg (bs.headD 0) x).rows ∧
    (s.tcfg k y).rows = (s.tcfg (bs.headD 0) y).rows

/-- The test of a bay's tiles that an MMA makes. -/
def State.misfit (s : State) (bs : List Nat) (ty x y k : Nat) : Bool :=
  !(s.tcfg k x).cfg || !(s.tcfg k y).cfg || (s.tcfg k x).ty != ty || (s.tcfg k y).ty != ty || decide (96 < (s.tcfg k x).rows) ||
    decide (192 < (s.tcfg k y).rows) || (s.tcfg k x).rows != (s.tcfg (bs.headD 0) x).rows ||
    (s.tcfg k y).rows != (s.tcfg (bs.headD 0) y).rows

theorem misfit_eq_false_iff {ty x y k : Nat} : s.misfit bs ty x y k = false ↔ s.tilesFit bs ty x y k := by
  simp only [State.misfit, State.tilesFit, Bool.or_eq_false_iff, Bool.not_eq_false', bne_eq_false_iff_eq, decide_eq_false_iff_not,
    Nat.not_lt, and_assoc]

/-- The alcove words of a product (R233). -/
def State.productWords (s : State) (bs : List Nat) (ty x y : Nat) : Nat :=
  (s.tcfg (bs.headD 0) x).rows * (s.tcfg (bs.headD 0) y).rows * accWords (accOf ty)

/-- The job that MMA or MMAC asks for. -/
def State.productJob (s : State) (kind : JKind) (ty : Nat) (sat z : Bool) (x y base : Nat) (bs : List Nat) : Job :=
  { kind := kind, ta := x, tb := y, rows := (s.tcfg (bs.headD 0) x).rows, n := (s.tcfg (bs.headD 0) y).rows, ty := ty, sat := sat,
    z := z, abase := base, words := s.productWords bs ty x y, bays := bs }

theorem exec_product {ty : BitVec 4} {sat z : Bool} {x y : TReg} {base : BitVec 15}
    (h : (i, kind, bs) = (Instr.mma gu la ty sat z d gs x y base, JKind.mma, [bayOf s.cur]) ∨
      (i, kind, bs) = (Instr.mmac gu la ty sat z d gs x y base, JKind.mmac,
        [bayOf s.cur / 4 * 4, bayOf s.cur / 4 * 4 + 1, bayOf s.cur / 4 * 4 + 2, bayOf s.cur / 4 * 4 + 3])) :
    ∃ body, exec i s = s.runsX (mmaUses gu ty sat d gs s) body ∧
      body s = mmaBody kind d gs la ty.toNat sat z x.toNat y.toNat base.toNat bs s := by
  rcases h with h | h <;> cases h <;> exact ⟨_, rfl, rfl⟩

section
variable {ty x y base : Nat} {sat z : Bool}

theorem mmaBody_shape (h : ∃ k ∈ bs, ¬s.tilesFit bs ty x y k) :
    mmaBody kind d gs la ty sat z x y base bs s = s.inTurnAt bs (.trap s tTILESHAPE (s.irWord 1)) := by
  obtain ⟨k, hk, hm⟩ := h
  rw [← misfit_eq_false_iff, Bool.not_eq_false] at hm
  exact congrArg (s.inTurnAt bs) (if_pos (List.any_eq_true.mpr ⟨k, hk, hm⟩))

variable (h : ∀ k ∈ bs, s.tilesFit bs ty x y k)
include h

theorem no_misfit : ¬(bs.any (s.misfit bs ty x y) = true) :=
  fun hany => by
  obtain ⟨k, hk, hm⟩ := List.any_eq_true.mp hany
  exact Bool.eq_false_iff.mp (misfit_eq_false_iff.mpr (h k hk)) hm

theorem mmaBody_alcove (hb : base % 32 ≠ 0 ∨ 32768 < base + s.productWords bs ty x y) :
    mmaBody kind d gs la ty sat z x y base bs s = s.inTurnAt bs (.trap s tALCOVE (word base)) :=
  congrArg (s.inTurnAt bs) ((if_neg (no_misfit h)).trans (if_pos hb))

theorem mmaBody_accepts (hb : base % 32 = 0) (hw : base + s.productWords bs ty x y ≤ 32768) (hroom : s.jobRoom bs = true) :
    mmaBody kind d gs la ty sat z x y base bs s =
      s.inTurnAt bs (.done (s.acceptJob d gs la bs (s.productJob kind ty sat z x y base bs))) := by
  have hreg : ¬(base % 32 ≠ 0 ∨ alcoveWords < base + s.productWords bs ty x y) :=
    not_or.mpr ⟨not_not.mpr hb, Nat.not_lt.mpr hw⟩
  exact congrArg (s.inTurnAt bs) ((if_neg (no_misfit h)).trans ((if_neg hreg).trans (if_neg (not_bnot hroom))))

end

/-! ## Asking for a job's status -/

/-- What MPOLL declares (R238). -/
def mpollUses (gu : Guard) (d a : Reg) (s : State) : Uses := { len := 12, on := s.guard gu, rs := [a.toNat], ws := [d.toNat] }

/-- What MWAIT declares (R238). -/
def mwaitUses (gu : Guard) (d a : Reg) (s : State) : Uses :=
  { len := 12, on := s.guard gu, rs := [a.toNat], ws := [d.toNat], blocking := true, nomask := true }

theorem me_accepted (bks : List Nat) : (s.accepted bks).me = s.me := by rw [accepted_eq]; rfl

/-- Where a plain destination is written after the core has had its turn. -/
theorem dst_accepted {u : Uses} (hi : IssuesPlain s u) (hd : d.toNat ∈ u.ws) (bks : List Nat) (v : Word) :
    (s.accepted bks).dst d v = (s.accepted bks).wg d v := by
  rw [State.dst, me_accepted, port_none_of_noPort hi.noPort (List.mem_append_right _ hd)]

/-- An MWAIT that has not issued asks in its bay's order. -/
theorem mwait_asks (hi : IssuesPlain s (mwaitUses gu d a s)) {r : Res}
    (hr : s.inTurnAt [bayOf s.cur] (mwaitEnd d (s.jobReport (s.rg a)) (s.accepted [bayOf s.cur])) = r) :
    (fun s : State => if (s.me.thr s.lv).hold = .issued then mwaitEnd d (s.jobReport (s.src a)) s
      else s.inTurnAt [bayOf s.cur] (mwaitEnd d (s.jobReport (s.src a)) (s.accepted [bayOf s.cur]))) s = r := by
  have hnot : ¬((s.me.thr s.lv).hold = .issued) := by rw [hi.ready]; nofun
  rw [← src_of_plain hi (r := a) (.head _)] at hr
  exact (if_neg hnot).trans hr

section
variable (hf : (s.bay (bayOf s.cur)).frozen = false)
include hf

section
variable (hi : IssuesPlain s (mpollUses gu d a s))
include hi

theorem mpoll_late (h : s.inCoreOrder [bayOf s.cur] = false) : exec (.mpoll gu d a) s = .next s :=
  runsX_late hf hi rfl rfl h

theorem mpoll_performs (h : s.inCoreOrder [bayOf s.cur] = true) : Performs s (.mpoll gu d a) (mpollUses gu d a s)
    ((s.accepted [bayOf s.cur]).wg d (s.jobReport (s.rg a))) := by
  refine runsX_done hf hi ((inTurnAt_done h _).trans ?_)
  rw [src_of_plain hi (.head _), dst_accepted hi (.head _)]

end

section
variable (hi : IssuesPlain s (mwaitUses gu d a s))
include hi

theorem mwait_late (h : s.inCoreOrder [bayOf s.cur] = false) : StandsStill s (.mwait gu d a) (mwaitUses gu d a s) :=
  runsX_standsStill hf hi.toIssues rfl (mwait_asks hi (inTurnAt_late h _))

variable (h : s.inCoreOrder [bayOf s.cur] = true)
include h

theorem mwait_waits (hr : s.jobReport (s.rg a) = word 0x80) :
    Waits s (.mwait gu d a) (mwaitUses gu d a s) (s.accepted [bayOf s.cur]) .issued := by
  refine runsX_waits hf hi (mwait_asks hi ?_)
  exact (congrArg (s.inTurnAt _) (if_pos hr)).trans (inTurnAt_wait h ..)

theorem mwait_performs (hr : s.jobReport (s.rg a) ≠ word 0x80) : Performs s (.mwait gu d a) (mwaitUses gu d a s)
    ((s.accepted [bayOf s.cur]).wg d (s.jobReport (s.rg a))) := by
  refine runsX_done hf hi (mwait_asks hi ?_)
  rw [← dst_accepted hi (.head _)]
  exact (congrArg (s.inTurnAt _) (if_neg hr)).trans (inTurnAt_done h _)

end

end

/-! ## An accepted job -/

/-- The job as it stands in the queues: with the next numbers, and of the executing thread (R225, R237). -/
def State.queuedJob (s : State) (j : Job) : Job :=
  { j with id := s.ctr + 1, core := s.cur, lv := s.lv, pv := s.me.pv, pend := s.ctr, seq := s.me.jobs }

/-- The result that is awaited of a job: its status, for `gs`. -/
def State.jobPend (s : State) (gs : Reg) (la : BitVec 4) : Pend := s.newPend (greg s.lv gs.toNat) la.toNat 1 .job 0

/-- The state with the result awaited and the job's number used. -/
def State.jobNumbered (s : State) (gs : Reg) (la : BitVec 4) : State :=
  { s.enterPend (s.jobPend gs la) with ctr := s.ctr + 2 }

/-- The state with the job in its queues. -/
def State.jobQueued (s : State) (gs : Reg) (la : BitVec 4) (bs : List Nat) (j : Job) : State :=
  bs.foldl (fun t k => t.updBay k (fun b => { b with jobs := b.jobs ++ [j] })) ((s.jobNumbered gs la).accepted bs)

theorem me_jobNumbered : (s.jobNumbered gs la).me =
    { s.me with pend := s.me.pend ++ [s.jobPend gs la], arrived := (s.jobNumbered gs la).me.arrived } := by
  have h : (s.jobNumbered gs la).me = _ := me_enterPend (s := s) (s.jobPend gs la)
  rw [h]
  rfl

theorem jobQueued_eq {j : Job} : s.jobQueued gs la bs j = { s.jobNumbered gs la with bays := (s.jobQueued gs la bs j).bays } := by
  refine (foldl_updBay_eq (fun _ _ b => { b with jobs := b.jobs ++ [j] }) bs ((s.jobNumbered gs la).accepted bs)).trans ?_
  exact congrArg (fun t : State => { t with bays := (s.jobQueued gs la bs j).bays }) (accepted_eq bs)

theorem me_jobQueued {j : Job} : (s.jobQueued gs la bs j).me = (s.jobNumbered gs la).me := by
  rw [jobQueued_eq]
  rfl

theorem cur_jobQueued {j : Job} : (s.jobQueued gs la bs j).cur = s.cur := by
  rw [jobQueued_eq]
  rfl

/-- The state in which a job has been accepted, but for its identifier. -/
def State.jobTaken (s : State) (gs : Reg) (la : BitVec 4) (bs : List Nat) (j : Job) : State :=
  (s.jobQueued gs la bs (s.queuedJob j)).updMe (fun c => { c with jobs := s.me.jobs + 1 })

theorem acceptJob_eq (j : Job) : s.acceptJob d gs la bs j = (s.jobTaken gs la bs j).dst d (jobIdent s.cur s.me.jobs) := by
  have hlv : (s.jobNumbered gs la).lv = s.lv := by
    rw [State.lv, me_jobNumbered]
    rfl
  have hpv : (s.jobNumbered gs la).me.pv = s.me.pv := by rw [me_jobNumbered]
  have hjobs : (s.jobNumbered gs la).me.jobs = s.me.jobs := by rw [me_jobNumbered]
  have hq := cur_jobQueued (s := s) (gs := gs) (la := la) (bs := bs) (j := s.queuedJob j)
  rw [State.jobTaken, ← hq, ← hjobs, State.queuedJob, ← hlv, ← hpv, ← hjobs]
  rfl

theorem me_jobTaken (j : Job) : (s.jobTaken gs la bs j).me =
    { s.me with pend := s.me.pend ++ [s.jobPend gs la], arrived := (s.jobTaken gs la bs j).me.arrived, jobs := s.me.jobs + 1 } := by
  have h : (s.jobTaken gs la bs j).me = { (s.jobNumbered gs la).me with jobs := s.me.jobs + 1 } := by
    rw [State.jobTaken, State.me_updMe, me_jobQueued]
  rw [h, me_jobNumbered]

theorem jobTaken_eq (j : Job) : s.jobTaken gs la bs j =
    { s with cores := (s.jobTaken gs la bs j).cores, bays := (s.jobTaken gs la bs j).bays, ctr := s.ctr + 2 } := by
  exact congrArg (fun t : State => { t with cores := (s.jobTaken gs la bs j).cores }) jobQueued_eq

theorem bay_jobTaken_other {j : Job} {k : Nat} (h : k ∉ bs) : (s.jobTaken gs la bs j).bay k = s.bay k :=
  (bay_foldl_updBay_other _ h ((s.jobNumbered gs la).accepted bs)).trans (bay_accepted_other h)

theorem jobs_jobTaken {j : Job} (hb : bs.Nodup) {k : Nat} (h : k ∈ bs) :
    ((s.jobTaken gs la bs j).bay k).jobs = (s.bay k).jobs ++ [s.queuedJob j] := by
  have hk := bay_foldl_updBay (fun _ b => { b with jobs := b.jobs ++ [s.queuedJob j] }) hb h ((s.jobNumbered gs la).accepted bs)
  rw [bay_accepted] at hk
  exact congrArg Bay.jobs hk

/-! A destination that is a stream port pushes the value; neither it nor a register is of what a job leaves elsewhere. -/

theorem dst_bays (r : Reg) (v : Word) : (s.dst r v).bays = s.bays := by
  unfold State.dst
  split <;> rfl

theorem dst_mem (r : Reg) (v : Word) : (s.dst r v).mem = s.mem := by
  unfold State.dst
  split <;> rfl

theorem me_qPush (q : Nat) (v : Word) : (s.qPush q v).me = s.me.setQ q { s.me.qreg q with credits := (s.me.qreg q).credits - 1 } :=
  s.core_setCore_same s.cur _

theorem dst_pend (r : Reg) (v : Word) : (s.dst r v).me.pend = s.me.pend := by
  unfold State.dst
  split
  · rw [me_qPush]
    rfl
  · rw [State.wg, State.me_updMe, (s.me.setG_changes s.me.level r.toNat v).pending, List.append_nil]

theorem dst_v (r : Reg) (v : Word) : (s.dst r v).me.v = s.me.v := by
  unfold State.dst
  split
  · rw [me_qPush]
    rfl
  · rw [State.wg, State.me_updMe, Core.setG_v]

section
variable (j : Job)

theorem acceptJob_rg (h : s.me.namesPort { ws := [d.toNat, gs.toNat] } = false) :
    (s.acceptJob d gs la bs j).rg d = if d = 0 then 0 else jobIdent s.cur s.me.jobs := by
  have hport : (s.jobTaken gs la bs j).me.port d.toNat = none := by
    rw [me_jobTaken]
    exact port_none_of_noPort h (.head _)
  have hdst : s.acceptJob d gs la bs j = (s.jobTaken gs la bs j).wg d (jobIdent s.cur s.me.jobs) := by
    rw [acceptJob_eq, State.dst, hport]
  rw [hdst]
  split
  · rename_i h0
    rw [h0]
    rfl
  · rename_i h0
    exact rg_wg_same h0 _

theorem acceptJob_pend : (s.acceptJob d gs la bs j).me.pend = s.me.pend ++ [s.jobPend gs la] := by
  rw [acceptJob_eq, dst_pend, me_jobTaken]

theorem acceptJob_v : (s.acceptJob d gs la bs j).me.v = s.me.v := by
  rw [acceptJob_eq, dst_v, me_jobTaken]

theorem acceptJob_mem : (s.acceptJob d gs la bs j).mem = s.mem := by
  rw [acceptJob_eq, dst_mem, jobTaken_eq]

theorem acceptJob_bay (k : Nat) : (s.acceptJob d gs la bs j).bay k = (s.jobTaken gs la bs j).bay k := by
  rw [acceptJob_eq, State.bay, dst_bays]
  rfl

theorem acceptJob_jobs (hb : bs.Nodup) {k : Nat} (h : k ∈ bs) :
    ((s.acceptJob d gs la bs j).bay k).jobs = (s.bay k).jobs ++ [s.queuedJob j] := by
  rw [acceptJob_bay, jobs_jobTaken hb h]

theorem acceptJob_bay_other {k : Nat} (h : k ∉ bs) : (s.acceptJob d gs la bs j).bay k = s.bay k := by
  rw [acceptJob_bay, bay_jobTaken_other h]

end

end Sys2Proof.Machine
end

section
/-!
PROOFS. The statements of 11_matrix_engine.
-/

namespace Sys2Proof

open Sys2Proof.Machine

/-- Settles O29: where nothing stands in the bay's order a clearing and a move are done at once (`acceptClear_clears`,
`moveBody_performs`); a move fills its rows one after the other, and each row column by column (`eachRow_fills`); the images are
the cases of `imageBody`. -/
theorem tilesAlcoveAndImages : Obligations.TilesAlcoveAndImages := by
  unfold Obligations.TilesAlcoveAndImages
  refine ⟨?_, ?_⟩
  · intro s gu ty acc rm sat toa x rows rb a base bk c w hjobs hfrozen horder hrows hrb rest cleared uc um ua uf stops kept
    have hfree : s.BayFree := ⟨hjobs, hfrozen, horder⟩
    have hkept : ∀ {e f}, s.Fills e bk x.toNat (· < c.rows) f → kept e := fun h => ⟨rest_of_fills h, kept_of_fills h⟩
    refine ⟨fun hi => ?_, fun hi => ⟨fun hc => ?_, tzero_traps hfree hi⟩, fun hi => ⟨⟨amov_traps_shape hfree hi rfl,
      amov_traps_alcove hfree hi rfl⟩, fun hc hrb4 hw => ?_⟩, fun hi => ⟨amovt_traps_shape hfree hi rfl,
      amovt_traps_alcove hfree hi rfl, fun hc hn ha hw => ?_⟩, fun hi => ⟨⟨afin_traps_shape hfree hi rfl,
      afin_traps_alcove hfree hi rfl⟩, fun hc hty hb hw => ?_⟩, fun hi => ⟨azero_traps hfree hi, azero_performs hfree hi⟩⟩
    · obtain ⟨e, hp, hclear, hcfg⟩ := tcfg_performs hfree hi
      exact ⟨e, hp, rest_of_clears hclear, hcfg⟩
    · obtain ⟨e, hp, hclear, hcfg⟩ := tzero_performs hfree hi hc
      exact ⟨e, hp, rest_of_clears hclear, hcfg⟩
    · cases toa with
      | false =>
        obtain ⟨e, hp, hfill, hval⟩ := amov_fromAlcove hfree hi rfl hc hrb4 hw hrows
        exact ⟨e, hp, fun _ => ⟨hkept hfill, hval⟩, nofun⟩
      | true =>
        obtain ⟨e, hp, hval⟩ := amov_toAlcove hfree hi rfl hc hrb4 hw
        exact ⟨e, hp, nofun, fun _ => hval⟩
    · obtain ⟨e, hp, ⟨f, hfill⟩, hval⟩ := amovt_performs hfree hi rfl hc hn ha hw hrows hrb
      exact ⟨e, hp, hkept hfill, hval⟩
    · obtain ⟨e, hp, hfill, hval⟩ := afin_performs hfree hi rfl hc hty hb hw hrows hrb
      refine ⟨e, hp, hkept hfill, fun r hr => (hval r hr).1, fun r k hr => (hval r hr).2 k, ?_⟩
      rw [hfill.flags, flagsOf_flagsOf]
      rfl
  · intro s gu la d a u v b hi both
    have ea : s.src a = s.rg a := src_of_image hi
    refine ⟨fun hv => ?_, fun h0 hw => ?_, fun h0 hw => ⟨fun k hk => ?_, imageOutside_first⟩, fun h0 hw hin =>
      ⟨msave_notFrozen hi h0 hw hin, mrest_notFrozen hi h0 hw hin, fun gs t hp ht hg hwait hf code t' =>
        msave_writes hi h0 hw hin ht hg hwait hf hp, fun gs t hp ht hg hwait hf hj bs t' hget =>
        ⟨mrest_badVersion hi h0 hw hin ht hg hwait hf hj hp hget, mrest_badSum hi h0 hw hin ht hg hwait hf hj hp hget,
          fun hv hs img => mrest_loads hi h0 hw hin ht hg hwait hf hj hp hget hv hs⟩⟩⟩
    · refine image_traps hi fun acc ready go => ?_
      rw [imageBody_misaligned (by rw [ea]; exact hv), ea]
    · refine image_traps hi fun acc ready go => ?_
      rw [imageBody_noWindow (by rw [ea]; exact h0) (by rw [ea]; exact hw), ea]
    · refine image_traps hi fun acc ready go => ?_
      exact imageBody_outside (by rw [ea]; exact h0) (by rw [ea]; exact hw) (by rw [ea]; exact hk)

/-- Settles O30: the checks at issue are the cases of `rowJobBody` and `mmaBody`, each taken in the bays' turn (`inTurnAt`);
an accepted job's traces are those of `acceptJob_eq`; a job that runs takes the step of its event; and a cell is `cellChain`,
whose group sums are roots of trees (`treeUp_root`) and whose chain is `chainTo` (`chain_eq`). -/
theorem matrixJobs : Obligations.MatrixJobs := by
  unfold Obligations.MatrixJobs
  refine ⟨?_, ?_, ?_⟩
  · intro s gu la ty h sat z scale d gs a b x y bm base bk bays quad same row mm ask hf
    refine ⟨fun hi i kind bs hk => ?_, fun hi i kind bs hk => ?_, fun hi => ⟨mpoll_late hf hi, mpoll_performs hf hi⟩,
      fun hi => ⟨mwait_late hf hi, mwait_waits hf hi, mwait_performs hf hi⟩, fun j bs hb => ⟨acceptJob_rg j, acceptJob_pend j,
        fun k hk => acceptJob_jobs j hb hk, fun k hk => acceptJob_bay_other j hk, acceptJob_mem j, acceptJob_v j⟩⟩
    · intro takers traps
      obtain ⟨body, hexec, hbody⟩ := exec_rowJob hk
      have ea : s.src a = s.rg a := src_of_plain hi (.head _)
      have eb : s.src b = s.rg b := src_of_plain hi (.tail _ (.head _))
      refine ⟨fun hlate => hexec.trans (runsX_late hf hi hbody rfl hlate), fun hin => ?_⟩
      have htraps : ∀ {code v}, rowJobBody kind d gs la h a b scale x.toNat bs s = s.inTurnAt takers (.trap s code v) →
          traps code v := fun ht => hexec.trans (runsX_turnTraps hf hi hin (hbody.trans ht))
      intro c j last aligned ok
      refine ⟨fun hs ha => htraps (rowJobBody_base ea eb hs ha), fun hs ha hb => htraps (rowJobBody_stride ea eb hs ha hb),
        fun hal hr => htraps (rowJobBody_first ea eb hal hr), fun hal hr hl => htraps (rowJobBody_last ea eb hal hr rfl hl),
        fun hal hr hl => ⟨fun hc => htraps (rowJobBody_shape ea eb hal hr hl hc), fun hc hcfg hmx hroom t ht => ?_⟩⟩
      exact hexec.trans (runsX_turnDone hf hi hin (hbody.trans (rowJobBody_accepts ea eb hal hr hl hc hcfg hmx hroom ht)))
    · obtain ⟨body, hexec, hbody⟩ := exec_product hk
      refine ⟨fun hlate => hexec.trans (runsX_late hf hi hbody rfl hlate), fun hin => ?_⟩
      intro p q words fits
      have hbase : base.setWidth 64 = word base.toNat := BitVec.eq_of_toNat_eq (by simp [word])
      refine ⟨fun hc => hexec.trans (runsX_turnTraps hf hi hin (hbody.trans (mmaBody_shape hc))), fun hc hb => ?_,
        fun hc hb hw hroom => hexec.trans (runsX_turnDone hf hi hin (hbody.trans (mmaBody_accepts hc hb hw hroom)))⟩
      rw [hbase]
      exact hexec.trans (runsX_turnTraps hf hi hin (hbody.trans (mmaBody_alcove hc hb)))
  · intro s bk id j
    refine ⟨matrixJobStart_frozen, matrixJobStart_starts, fun hj hs => ⟨fun hk hb hr hstop hwait hfork hok x t hread =>
      tileRowMove_reads hj hs hk hb hr hstop hwait hfork hok hread, matrixJobComplete_tld hj hs, fun hk hfr => ⟨fun hlast => ?_,
        fun hmore => ?_⟩⟩, runMma_holds s bk j⟩
    · exact (matrixJobComplete_mma hj hs hk hfr).trans (congrArg _ (if_pos ((holders_isEmpty_iff _).mpr hlast)))
    · have hne : ¬((holders (s.computed bk id j) j.core id).isEmpty = true) := by
        rw [holders_isEmpty_iff]
        exact fun hall => by obtain ⟨k, hk, x, hx, hid⟩ := hmore; exact hall k hk x hx hid
      exact ⟨_, (matrixJobComplete_mma hj hs hk hfr).trans (congrArg _ (if_neg hne)), foldl_updJob_holders ..⟩
  · intro ty sat z ra sa rb sb old w groups acc bits val add addInt isCell
    refine ⟨fun hty => ?_, fun hty => ?_⟩
    · obtain ⟨v, f, hc, hcell⟩ := mmaCell_float hty sat z ra sa rb sb old
      have hadd : add = withFlags (sumNode (accOf ty)) := funext fun p => funext fun q => by
        rw [withFlags, sumNode_acc hty]
      have hleaf : (fun k => mulV (val ra sa k) (val rb sb k)) = cellProduct ty ra sa rb sb := funext fun k => by
        rw [cellProduct, inVal_eq hty, inVal_eq hty]
      have hfirst : elemVal (accOf ty) old = decF acc old := elemVal_acc hty old
      rw [hadd, hleaf, ← hfirst]
      refine ⟨cellChain ty z ra sa rb sb old, v, f, ?_, hc, ?_⟩
      · exact ⟨fun g => treeNode (withFlags (sumNode (accOf ty))) (fun j => cellProduct ty ra sa rb sb (16 * g + j)), rfl,
          fun g _ => ⟨fun j _ => rfl, fun l j _ _ => rfl, rfl⟩⟩
      · rw [hcell, accOf_float hty]
    · subst hty
      obtain ⟨v, hc, hcell⟩ := mmaCell_int sat z ra sa rb sb old
      have hadd : addInt = intNode sat := funext fun p => funext fun q => (intNode_eq sat p q).symm
      have hleaf : (fun k => intVal 9 (bits ra k) * intVal 9 (bits rb k)) = cellProductI ra rb := funext fun k =>
        congrArg₂ (· * ·) (intVal_byte _) (intVal_byte _)
      rw [hadd, hleaf]
      exact ⟨cellChainI sat z ra rb old, v, ⟨fun g => treeNode (intNode sat) (fun j => cellProductI ra rb (16 * g + j)), rfl,
        fun g _ => ⟨fun j _ => rfl, fun l j _ _ => rfl, rfl⟩⟩, hc, hcell⟩

end Sys2Proof
end

section
/-!
SUPPORT. Links of the bridge and Harpin ports (R430): their counts, a flit, a failed retrain and a frame.
-/

namespace Sys2Proof.Machine

open Sys2Proof

variable (k : Link) (now : Nat)

/-! ## Counting -/

/-- A counter that stands at its greatest value stays there. -/
theorem toNat_saturatingSucc {w : Nat} (x : BitVec w) (hw : 0 < w) :
    (if x = BitVec.allOnes w then x else x + 1).toNat = min (x.toNat + 1) (2 ^ w - 1) := by
  have hone : 1 < 2 ^ w := Nat.one_lt_two_pow hw.ne'
  have hx := x.isLt
  split
  next h => rw [h, BitVec.toNat_allOnes]; omega
  next h =>
    have hne : x.toNat ≠ 2 ^ w - 1 := fun e => h (BitVec.eq_of_toNat_eq (by rw [e, BitVec.toNat_allOnes]))
    have hstep : (x + 1).toNat = x.toNat + 1 := by
      rw [BitVec.toNat_add, show (1 : BitVec w).toNat = 1 from BitVec.toNat_one hw, Nat.mod_eq_of_lt (by omega)]
    omega

theorem countErr_errcnt : k.countErr.errcnt.toNat = min (k.errcnt.toNat + 1) 0xFFFFFFFF :=
  toNat_saturatingSucc k.errcnt (by decide)

theorem retrain_retrains : (k.retrain now).retrains.toNat = min (k.retrains.toNat + 1) 0xFFFF :=
  toNat_saturatingSucc k.retrains (by decide)

/-! ## Flits -/

/-- The failures counted in a direction. -/
def Link.failures (k : Link) (dir : Nat) : Nat := if dir = 0 then k.fails else k.failsB

/-- An accepted flit ends the count of its direction and leaves the other, the counters and the state. -/
theorem flit_ok (dir : Nat) :
    (k.flit dir true now).state = k.state ∧ (k.flit dir true now).errcnt = k.errcnt ∧ (k.flit dir true now).retrains = k.retrains ∧
      (k.flit dir true now).failures dir = 0 ∧
      (if dir = 0 then (k.flit dir true now).failsB = k.failsB else (k.flit dir true now).fails = k.fails) := by
  by_cases hd : dir = 0 <;> simp [Link.flit, Link.failures, hd]

/-- A failed flit that is not the ninth is counted. -/
theorem flit_failed_few {dir : Nat} (h : k.failures dir < 8) :
    k.flit dir false now = if dir = 0 then { k.countErr with fails := k.failures dir + 1 }
      else { k.countErr with failsB := k.failures dir + 1 } := by
  have hn : ¬ 9 ≤ k.failures dir + 1 := by omega
  exact if_neg hn

/-- The ninth begins a retrain. -/
theorem flit_failed_ninth {dir : Nat} (h : 8 ≤ k.failures dir) : k.flit dir false now = k.countErr.retrain now := by
  have hn : 9 ≤ k.failures dir + 1 := by omega
  exact if_pos hn

/-! ## Retrains -/

theorem retrainFailed_again (h : k.failed < 2) : k.retrainFailed now = { k with failed := k.failed + 1 }.retrain now :=
  if_neg (by omega)

theorem retrainFailed_dead (h : 2 ≤ k.failed) : k.retrainFailed now = { k with state := 2, failed := k.failed + 1 } :=
  if_pos (by omega)

/-! ## Frames -/

theorem frameFailed_retried (h : k.fails < 16) : k.frameFailed = { k.countErr with fails := k.fails + 1 } :=
  if_neg (by show ¬ 16 < k.fails + 1; omega)

theorem frameFailed_down (h : 16 ≤ k.fails) : k.frameFailed = { k.countErr with state := 3, fails := 0 }.countRetrain :=
  if_pos (by show 16 < k.fails + 1; omega)

theorem countRetrain_retrains : k.countRetrain.retrains.toNat = min (k.retrains.toNat + 1) 0xFFFF :=
  toNat_saturatingSucc k.retrains (by decide)

variable (s : State)

@[simp] theorem port_setPort (p q : Nat) (k : Link) : (s.setPort p k).port q = if p = q then k else s.port q :=
  SMap.get_put _ k p q s.sys.ports

@[simp] theorem setPort_setPort (p : Nat) (k k' : Link) : (s.setPort p k').setPort p k = s.setPort p k := by
  simp [State.setPort, SMap.put_put]

theorem countPort_eq (p : Nat) : s.countPort p = s.setPort p (s.port p).countErr := rfl

/-- The operations of a packet are known: one to four, each of 1 to 7 (R385). -/
theorem opsOk_iff (p : Pkt) : p.opsOk = true ↔ 1 ≤ fld (p.hdr.getD 2 0) 28 4 ∧ fld (p.hdr.getD 2 0) 28 4 ≤ 4 ∧
    ∀ j, j < fld (p.hdr.getD 2 0) 28 4 →
      1 ≤ fld (p.hdr.getD 2 0) (12 + 4 * j) 4 ∧ fld (p.hdr.getD 2 0) (12 + 4 * j) 4 ≤ 7 := by
  simp [Pkt.opsOk, Pkt.nops, Pkt.opAt, and_assoc]

/-! ## Clearing ERRCNT -/

theorem clearErr_eq (x : Word) : k.clearErr x = { k with errcnt := k.errcnt &&& ~~~(x >>> 32).setWidth 32 } := by
  have hfld : BitVec.ofNat 32 (fld x 32 32) = (x >>> 32).setWidth 32 := BitVec.eq_of_toNat_eq (by
    simp [fld, Nat.shiftRight_eq_div_pow])
  rw [Link.clearErr, hfld]

theorem writeErrcnt_link (l j : Nat) (x : Word) (hj : j < 2) :
    (s.writeErrcnt l x).link j = if j = l then (s.link j).clearErr x else s.link j := by
  unfold State.writeErrcnt
  split
  next hl =>
    show SMap.get _ (SMap.put _ _ _) j = _
    rw [SMap.get_put]
    by_cases h : l = j
    · subst h; simp [State.link]
    · rw [if_neg h, if_neg (Ne.symm h)]; rfl
  next hl => rw [if_neg (by omega)]; rfl

theorem writeErrcnt_port (l p : Nat) (x : Word) :
    (s.writeErrcnt l x).port p = if p + 2 = l then (s.port p).clearErr x else s.port p := by
  unfold State.writeErrcnt
  split
  next hl => rw [if_neg (by omega)]; rfl
  next hl =>
    show SMap.get _ (SMap.put _ _ _) p = _
    rw [SMap.get_put]
    by_cases h : l - 2 = p
    · subst h; rw [if_pos rfl, if_pos (by omega)]; rfl
    · rw [if_neg h, if_neg (by omega)]; rfl

/-! ## The events -/

section
variable {link dir : Nat} (hl : link < 2)
include hl

theorem exec_flitReceive_up (hd : dir < 2) (h : (s.link link).state = 0) (ok : Bool) :
    exec (.flitReceive link dir ok) s = .next (s.setLink link ((s.link link).flit dir ok s.cycle)) :=
  congrArg _ (if_neg (by omega))

theorem exec_laneLockLoss_up (h : (s.link link).state = 0) :
    exec (.laneLockLoss link) s = .next (s.setLink link ((s.link link).retrain s.cycle)) :=
  congrArg _ (if_neg (by omega))

omit hl in
theorem exec_link_notUp (h : (s.link link).state ≠ 0) (ok : Bool) :
    exec (.flitReceive link dir ok) s = .next s ∧ exec (.laneLockLoss link) s = .next s :=
  ⟨congrArg _ (if_pos (.inr (.inr h))), congrArg _ (if_pos (.inr h))⟩

omit hl in
theorem exec_retrain_none (h : (s.link link).state ≠ 1) :
    exec (.retrainDone link) s = .next s ∧ exec (.retrainTimeout link) s = .next s :=
  ⟨congrArg _ (if_pos (.inr (.inl h))), congrArg _ (if_pos (.inr (.inl h)))⟩

theorem exec_retrain_inTime (h : (s.link link).state = 1) (ht : s.cycle ≤ (s.link link).since + 94000) :
    exec (.retrainTimeout link) s = .next s ∧
      exec (.retrainDone link) s = .next (s.setLink link { s.link link with state := 0, failed := 0 }) :=
  ⟨congrArg _ (if_pos (.inr (.inr ht))), congrArg _ (if_neg (by simp only [retrainLimit, cyclesPerUs]; omega))⟩

theorem exec_retrain_late (h : (s.link link).state = 1) (ht : (s.link link).since + 94000 < s.cycle) :
    exec (.retrainDone link) s = .next s ∧
      exec (.retrainTimeout link) s = .next (s.setLink link ((s.link link).retrainFailed s.cycle)) :=
  ⟨congrArg _ (if_pos (.inr (.inr ht))), congrArg _ (if_neg (by simp only [retrainLimit, cyclesPerUs]; omega))⟩
end

section
variable {port : Nat} {hdr : List (BitVec 64)} {payload : List (BitVec 8)}

theorem exec_harpinFrame_notUp (h : (s.port port).state ≠ 0) (ok : Bool) :
    exec (.harpinFrame port ok hdr payload) s = .next s := congrArg _ (if_pos (.inr (.inl h)))

variable (hp : port < 16) (hh : hdr.length = 8) (hy : payload.length ≤ 4096) (hup : (s.port port).state = 0)
include hp hh hy hup

theorem exec_harpinFrame_failed :
    exec (.harpinFrame port false hdr payload) s = .next (s.setPort port (s.port port).frameFailed) :=
  congrArg _ ((if_neg (by omega)).trans (if_pos rfl))

theorem exec_harpinFrame_accepted :
    exec (.harpinFrame port true hdr payload) s =
      .next (let p : Pkt := { id := s.ctr, hdr := hdr, payload := payload, port := some port }
        if p.nfl = 0 ∧ !p.opsOk then (s.setPort port { s.port port with fails := 0 }).countPort port
        else { (s.setPort port { s.port port with fails := 0 }) with
          ctr := s.ctr + 1, fes := { s.fes with pkts := s.fes.pkts ++ [p] } }) :=
  congrArg _ ((if_neg (by omega)).trans (if_neg Bool.false_ne_true))
end

end Sys2Proof.Machine
end

section
/-!
PROOFS. The links and ports (R430).
-/

namespace Sys2Proof

open Sys2Proof.Machine

/-- Settles O55: one case for each event, from what a flit, a retrain and a frame leave of their link or port. -/
theorem linksAndPorts : Obligations.LinksAndPorts := by
  unfold Obligations.LinksAndPorts
  refine ⟨fun s link dir ok hl hd => ⟨fun h => exec_link_notUp s h ok, fun h => ⟨⟨_, exec_flitReceive_up s hl hd h ok, ?_, ?_⟩,
      ⟨_, exec_laneLockLoss_up s hl h, ⟨rfl, rfl, rfl, rfl, retrain_retrains _ _⟩, rfl, rfl⟩⟩⟩,
    fun s link hl => ⟨exec_retrain_none s, exec_retrain_inTime s hl, fun h ht => ⟨(exec_retrain_late s hl h ht).1, _,
      (exec_retrain_late s hl h ht).2, ?_⟩⟩,
    fun s port hdr payload hp hh hy => ⟨exec_harpinFrame_notUp s, fun hup => ⟨⟨_, exec_harpinFrame_failed s hp hh hy hup, ?_⟩, ?_⟩⟩,
    fun s port hp => ⟨fun h => congrArg _ (if_pos (.inr h)), fun hb hs => congrArg _ (if_neg (by omega))⟩,
    fun s l val => ⟨_, rfl, fun j hj => ?_, fun p => ?_⟩⟩
  · rintro rfl
    obtain ⟨hst, herr, hret, hcount, hother⟩ := flit_ok (s.link link) s.cycle dir
    exact ⟨hst.trans h, herr, hret, hcount, hother⟩
  · rintro rfl
    rcases Nat.lt_or_ge ((s.link link).failures dir) 8 with hf | hf
    · rw [flit_failed_few _ _ hf]
      have hcount := countErr_errcnt (s.link link)
      refine ⟨?_, fun _ => ?_, fun hge => absurd hf (Nat.not_lt.mpr hge)⟩
      · split <;> exact hcount
      · by_cases hd0 : dir = 0 <;> simp only [Link.failures, hd0, if_true, if_false] <;> exact ⟨h, rfl, trivial, rfl⟩
    · rw [flit_failed_ninth _ _ hf]
      exact ⟨countErr_errcnt _, fun hlt => absurd hlt (Nat.not_lt.mpr hf), fun _ =>
        ⟨⟨rfl, rfl, rfl, rfl, retrain_retrains _ _⟩, rfl⟩⟩
  · rcases Nat.lt_or_ge (s.link link).failed 2 with hf | hf
    · rw [retrainFailed_again _ _ hf]
      exact ⟨rfl, rfl, fun _ => ⟨rfl, rfl, rfl, rfl, retrain_retrains _ _⟩, fun hge => absurd hf (Nat.not_lt.mpr hge)⟩
    · rw [retrainFailed_dead _ _ hf]
      exact ⟨rfl, rfl, fun hlt => absurd hlt (Nat.not_lt.mpr hf), fun _ => ⟨rfl, rfl⟩⟩
  · rcases Nat.lt_or_ge (s.port port).fails 16 with hf | hf
    · rw [frameFailed_retried _ hf]
      exact ⟨countErr_errcnt _, fun _ => ⟨hup, rfl, rfl⟩, fun hge => absurd hf (Nat.not_lt.mpr hge)⟩
    · rw [frameFailed_down _ hf]
      exact ⟨countErr_errcnt _, fun hlt => absurd hlt (Nat.not_lt.mpr hf), fun _ => ⟨rfl, rfl, countRetrain_retrains _⟩⟩
  · intro p known
    have hknown : p.opsOk = true ↔ known := opsOk_iff p
    have hexec := exec_harpinFrame_accepted s hp hh hy hup
    refine ⟨fun hgood => hexec.trans (congrArg _ (if_neg (fun hbad => hgood ⟨hbad.1, ?_⟩))), fun hfl hun => ⟨_, hexec.trans
      (congrArg _ ((if_pos ⟨hfl, ?_⟩).trans ?_)), countErr_errcnt { s.port port with fails := 0 }, hup, rfl⟩⟩
    · simpa [← hknown] using hbad.2
    · rw [countPort_eq, port_setPort, if_pos rfl, setPort_setPort]
    · simpa [← hknown] using hun
  · rw [writeErrcnt_link s l j val hj, clearErr_eq]
  · rw [writeErrcnt_port, clearErr_eq]

end Sys2Proof
end

section
/-!
SUPPORT. The ECC engine (R97, R98): the errors that a sector's read leaves, and those that reading a line, and training,
clear.
-/

namespace Sys2Proof.Machine

open Sys2Proof

/-! ## Fields that have been written -/

/-- A written field holds its value. -/
theorem fld_setFld_same (x : Word) {lo n : Nat} (v : Nat) (h : lo + n ≤ 64) : fld (setFld x lo n v) lo n = v % 2 ^ n := by
  refine Nat.eq_of_testBit_eq fun j => ?_
  by_cases hj : j < n
  · have hb := bitAt_setFld x v h (lo + j)
    rw [if_pos (by omega), Nat.add_sub_cancel_left] at hb
    rw [testBit_fld _ _ hj, Nat.testBit_mod_two_pow, decide_eq_true hj, Bool.true_and]
    exact hb
  · rw [fld, Nat.testBit_mod_two_pow, Nat.testBit_mod_two_pow, decide_eq_false hj, Bool.false_and, Bool.false_and]

/-- A field that shares no bit with a written one is kept. -/
theorem fld_setFld_apart (x : Word) {lo n lo' n' : Nat} (v : Nat) (h : lo + n ≤ 64) (ha : lo' + n' ≤ lo ∨ lo + n ≤ lo') :
    fld (setFld x lo n v) lo' n' = fld x lo' n' := by
  refine Nat.eq_of_testBit_eq fun j => ?_
  by_cases hj : j < n'
  · have hb := bitAt_setFld x v h (lo' + j)
    rw [if_neg (by omega)] at hb
    rw [testBit_fld _ _ hj, testBit_fld _ _ hj]
    exact hb
  · rw [fld, fld, Nat.testBit_mod_two_pow, Nat.testBit_mod_two_pow, decide_eq_false hj, Bool.false_and, Bool.false_and]

/-! ## One sector -/

variable (s : State)

/-- The places of a sector whose bytes are wrong. -/
def State.badIn (s : State) (a : Nat) : List Nat :=
  (List.range 32).filter (fun i => decide (s.mem.errs.get 0 (a + i) ≠ 0))

theorem mem_badIn {a i : Nat} : i ∈ s.badIn a ↔ i < 32 ∧ s.mem.errs.get 0 (a + i) ≠ 0 := by
  simp [State.badIn]

theorem nodup_badIn (a : Nat) : (s.badIn a).Nodup := List.nodup_range.filter _

/-- The stored byte takes its error, which is met and gone. -/
def Mems.spoil (a : Nat) (m : Mems) (i : Nat) : Mems :=
  { m with hbm := m.hbm.set 0 (a + i) (m.hbm.get 0 (a + i) ^^^ m.errs.get 0 (a + i)),
           errs := m.errs.set 0 (a + i) 0,
           rewritten := m.rewritten.filter (fun c => c != (a + i) / 16) }

/-- The state once the bad bytes of a sector that cannot be corrected have been delivered. -/
def State.spoiled (s : State) (a : Nat) : State := s.updMem ((s.badIn a).foldl (Mems.spoil a))

theorem eccSector_good {a : Nat} (h : s.badIn a = []) : s.eccSector a = s := by
  unfold State.eccSector
  dsimp only
  rw [show (List.range 32).filter _ = [] from h]

theorem eccSector_corrects {a i : Nat} (h : s.badIn a = [i]) :
    s.eccSector a = (s.updMem (fun m => { m with errs := m.errs.set 0 (a + i) 0 })).countCe (stackOf a) := by
  unfold State.eccSector
  dsimp only
  rw [show (List.range 32).filter _ = [i] from h]

theorem eccSector_spoils {a : Nat} (h : 2 ≤ (s.badIn a).length) :
    s.eccSector a = if (s.spoiled a).poisoned (lineOf a) then s.spoiled a
      else ((s.spoiled a).countUe (stackOf a) (lineOf a)).setPoison (lineOf a) true := by
  unfold State.eccSector
  dsimp only
  generalize hb : (List.range 32).filter _ = bad
  rcases bad with _ | ⟨i, _ | ⟨j, l⟩⟩
  · rw [State.badIn, hb] at h; simp at h
  · rw [State.badIn, hb] at h; simp at h
  · have hs : s.spoiled a = s.updMem (fun m => (i :: j :: l).foldl (Mems.spoil a) m) := by rw [State.spoiled, State.badIn, hb]
    rw [hs]; rfl

theorem foldl_spoil_errs (a x : Nat) (is : List Nat) (m : Mems) :
    (is.foldl (Mems.spoil a) m).errs.get 0 x = if ∃ i ∈ is, a + i = x then 0 else m.errs.get 0 x := by
  induction is generalizing m with
  | nil => simp
  | cons i is ih =>
    rw [List.foldl_cons, ih]
    by_cases h : ∃ j ∈ is, a + j = x
    · rw [if_pos h, if_pos (h.imp fun j hj => ⟨List.mem_cons_of_mem _ hj.1, hj.2⟩)]
    · rw [if_neg h, Mems.spoil, SMap.get_set]
      by_cases hi : a + i = x
      · rw [if_pos hi, if_pos ⟨i, List.mem_cons_self, hi⟩]
      · rw [if_neg hi, if_neg]
        rintro ⟨j, hj, hx⟩
        rcases List.mem_cons.mp hj with rfl | hj
        · exact hi hx
        · exact h ⟨j, hj, hx⟩

theorem foldl_spoil_hbm (a x : Nat) {is : List Nat} (hn : is.Nodup) (m : Mems) :
    (is.foldl (Mems.spoil a) m).hbm.get 0 x =
      if ∃ i ∈ is, a + i = x then m.hbm.get 0 x ^^^ m.errs.get 0 x else m.hbm.get 0 x := by
  induction is generalizing m with
  | nil => simp
  | cons i is ih =>
    obtain ⟨hi, hn⟩ := List.nodup_cons.mp hn
    rw [List.foldl_cons, ih hn]
    by_cases h : ∃ j ∈ is, a + j = x
    · have hne : a + i ≠ x := by
        obtain ⟨j, hj, rfl⟩ := h
        intro e
        exact hi (by rwa [show i = j by omega])
      rw [if_pos h, if_pos (h.imp fun j hj => ⟨List.mem_cons_of_mem _ hj.1, hj.2⟩), Mems.spoil, SMap.get_set, SMap.get_set,
        if_neg hne, if_neg hne]
    · rw [if_neg h, Mems.spoil, SMap.get_set]
      by_cases hx : a + i = x
      · rw [if_pos hx, if_pos ⟨i, List.mem_cons_self, hx⟩, hx]
      · rw [if_neg hx, if_neg]
        rintro ⟨j, hj, e⟩
        rcases List.mem_cons.mp hj with rfl | hj
        · exact hx e
        · exact h ⟨j, hj, e⟩

theorem foldl_spoil_poison (a : Nat) (is : List Nat) (m : Mems) : (is.foldl (Mems.spoil a) m).poison = m.poison := by
  induction is generalizing m with
  | nil => rfl
  | cons i is ih => exact ih _

theorem spoiled_poisoned (a l : Nat) : (s.spoiled a).poisoned l = s.poisoned l := by
  rw [State.poisoned, State.spoiled, State.updMem_mem, foldl_spoil_poison]; rfl

theorem poisoned_setPoison (line l : Nat) :
    (s.setPoison line true).poisoned l = (decide (l = line) || s.poisoned l) := by
  have hlist : (s.setPoison line true).mem.poison =
      if s.mem.poison.contains line then s.mem.poison else line :: s.mem.poison := rfl
  rw [State.poisoned, hlist]
  by_cases h : s.mem.poison.contains line = true
  · rw [if_pos h]
    by_cases hl : l = line
    · subst hl; rw [h, decide_eq_true rfl, Bool.true_or]
    · rw [decide_eq_false hl, Bool.false_or]; rfl
  · rw [if_neg h, List.contains_cons]; rfl

/-- A sector with two bad bytes has at least two. -/
theorem two_le_badIn {a i j : Nat} (hi : i ∈ s.badIn a) (hj : j ∈ s.badIn a) (hne : j ≠ i) : 2 ≤ (s.badIn a).length := by
  generalize hb : s.badIn a = l at *
  rcases l with _ | ⟨x, _ | ⟨y, l⟩⟩
  · cases hi
  · exact absurd ((List.mem_singleton.mp hj).trans (List.mem_singleton.mp hi).symm) hne
  · simp

/-- The list of bad bytes with one member and no other. -/
theorem badIn_singleton {a i : Nat} (hi : i ∈ s.badIn a) (honly : ∀ k ∈ s.badIn a, k = i) : s.badIn a = [i] := by
  have hn := nodup_badIn s a
  generalize s.badIn a = l at *
  rcases l with _ | ⟨x, _ | ⟨y, l⟩⟩
  · cases hi
  · rw [honly x List.mem_cons_self]
  · have hx := honly x List.mem_cons_self
    have hy := honly y (by simp)
    simp [hx, hy] at hn

/-- Reading a sector meets every error in it and no other. -/
theorem eccSector_errs (a x : Nat) :
    (s.eccSector a).mem.errs.get 0 x = if a ≤ x ∧ x < a + 32 then 0 else s.mem.errs.get 0 x := by
  have hbad (i : Nat) : i ∈ s.badIn a → i < 32 := fun h => ((mem_badIn s).mp h).1
  have hgood : x ∉ (s.badIn a).map (a + ·) → a ≤ x → x < a + 32 → s.mem.errs.get 0 x = 0 := by
    intro hx h1 h2
    by_contra hne
    refine hx (List.mem_map.mpr ⟨x - a, (mem_badIn s).mpr ⟨by omega, ?_⟩, by omega⟩)
    rwa [show a + (x - a) = x by omega]
  by_cases hlen : 2 ≤ (s.badIn a).length
  · have hsp : (s.eccSector a).mem.errs = (s.spoiled a).mem.errs := by
      rw [eccSector_spoils s hlen]; split <;> rfl
    rw [hsp, State.spoiled, State.updMem_mem, foldl_spoil_errs]
    by_cases hm : ∃ i ∈ s.badIn a, a + i = x
    · obtain ⟨i, hi, rfl⟩ := hm
      have := hbad i hi
      rw [if_pos ⟨i, hi, rfl⟩, if_pos (by omega)]
    · rw [if_neg hm]
      split
      next hr => exact hgood (fun h => hm (List.mem_map.mp h)) hr.1 hr.2
      next => rfl
  · generalize hb : s.badIn a = l at *
    rcases l with _ | ⟨i, _ | ⟨j, l⟩⟩
    · rw [eccSector_good s hb]
      split
      next hr => exact hgood (by simp) hr.1 hr.2
      next => rfl
    · have := hbad i List.mem_cons_self
      rw [eccSector_corrects s hb]
      show (SMap.set 0 (a + i) 0 s.mem.errs).get 0 x = _
      rw [SMap.get_set]
      by_cases hi : a + i = x
      · rw [if_pos hi, if_pos (by omega)]
      · rw [if_neg hi]
        split
        next hr => exact hgood (by simpa using Ne.symm hi) hr.1 hr.2
        next => rfl
    · exact absurd (by simp) hlen

theorem eccSector_frame (a : Nat) : (s.eccSector a).cores = s.cores ∧ (s.eccSector a).fes = s.fes := by
  by_cases hlen : 2 ≤ (s.badIn a).length
  · rw [eccSector_spoils s hlen]; split <;> exact ⟨rfl, rfl⟩
  · generalize hb : s.badIn a = l at *
    rcases l with _ | ⟨i, _ | ⟨j, l⟩⟩
    · rw [eccSector_good s hb]; exact ⟨rfl, rfl⟩
    · rw [eccSector_corrects s hb]; exact ⟨rfl, rfl⟩
    · exact absurd (by simp) hlen

/-! ## A line -/

/-- The state once the ECC engine has read the four sectors of a line. -/
def State.eccLine (s : State) (line : Nat) : State :=
  [96, 64, 32, 0].foldr (fun (o : Nat) (s : State) => s.eccSector (line * 128 + o)) s

/-- With no error in the stacks, reading changes nothing. -/
theorem eccSector_noErrors (h : s.mem.errs = []) (a : Nat) : s.eccSector a = s :=
  eccSector_good s (by rw [State.badIn, h]; rfl)

theorem hbmRead_state (line : Nat) : (s.hbmRead line).2.2 = s.eccLine line := by
  unfold State.hbmRead State.eccLine
  simp only [List.foldr_cons, List.foldr_nil, Nat.add_zero]
  split
  next h =>
    have h := eccSector_noErrors s (List.isEmpty_iff.mp h)
    simp only [h]
  next => rfl

theorem eccLine_errs (line x : Nat) :
    (s.eccLine line).mem.errs.get 0 x = if lineOf x = line then 0 else s.mem.errs.get 0 x := by
  have hl : lineOf x = x / 128 := rfl
  simp only [State.eccLine, List.foldr_cons, List.foldr_nil, eccSector_errs]
  by_cases h : lineOf x = line
  · rw [if_pos h]
    have hx : x - line * 128 < 32 ∨ x - line * 128 < 64 ∨ x - line * 128 < 96 ∨ x - line * 128 < 128 := by omega
    split_ifs with h1 h2 h3 h4
    case neg => omega
    all_goals rfl
  · rw [if_neg h, if_neg (by omega), if_neg (by omega), if_neg (by omega), if_neg (by omega)]

theorem eccLine_frame (line : Nat) : (s.eccLine line).cores = s.cores ∧ (s.eccLine line).fes = s.fes := by
  simp only [State.eccLine, List.foldr_cons, List.foldr_nil, (eccSector_frame _ _).1, (eccSector_frame _ _).2, and_self]

/-- A byte of a number read from memory. -/
theorem readBytes_byte (m : SMap Byte) (a n i : Nat) (hi : i < n) :
    readBytes m a n / 2 ^ (8 * i) % 2 ^ 8 = (m.get 0 (a + i)).toNat := by
  obtain ⟨k, rfl⟩ := Nat.exists_eq_add_of_lt hi
  rw [Nat.add_assoc, readBytes_div, readBytes]
  have := (m.get 0 (a + i)).isLt
  omega

theorem toNat_ofNat_of_lt {w x : Nat} (h : x < 2 ^ w) : (BitVec.ofNat w x).toNat = x := by
  rw [BitVec.toNat_ofNat, Nat.mod_eq_of_lt h]

/-- A byte of a line as it is read. -/
theorem lane_readBytes (m : SMap Byte) (a : Nat) {i : Nat} (hi : i < 128) :
    lane (BitVec.ofNat 1024 (readBytes m a 128)) 8 i = (m.get 0 (a + i)).toNat := by
  rw [lane, toNat_ofNat_of_lt (readBytes_lt m a 128), Nat.mul_comm i 8]
  exact readBytes_byte m a 128 i hi

/-! ## Many lines -/

theorem scrubLines_errs (ls : List Nat) (x : Nat) :
    (s.scrubLines ls).mem.errs.get 0 x = if lineOf x ∈ ls then 0 else s.mem.errs.get 0 x := by
  induction ls generalizing s with
  | nil => rw [if_neg List.not_mem_nil]; rfl
  | cons l ls ih =>
    rw [State.scrubLines, ih, hbmRead_state, eccLine_errs]
    by_cases h : lineOf x ∈ ls
    · rw [if_pos h, if_pos (List.mem_cons_of_mem _ h)]
    · by_cases hl : lineOf x = l
      · rw [if_neg h, if_pos hl, if_pos (hl ▸ List.mem_cons_self)]
      · rw [if_neg h, if_neg hl, if_neg (by simp [h, hl])]

theorem scrubLines_frame (ls : List Nat) : (s.scrubLines ls).cores = s.cores ∧ (s.scrubLines ls).fes = s.fes := by
  induction ls generalizing s with
  | nil => exact ⟨rfl, rfl⟩
  | cons l ls ih =>
    obtain ⟨hc, hf⟩ := eccLine_frame s l
    obtain ⟨ihc, ihf⟩ := ih (s.eccLine l)
    rw [State.scrubLines, hbmRead_state]
    exact ⟨ihc.trans hc, ihf.trans hf⟩

/-- A key that a map does not list reads as what unlisted keys do. -/
theorem SMap_get_of_not_mem {α : Type} {d : α} {m : SMap α} {k : Nat} (h : k ∉ m.map Prod.fst) : SMap.get d m k = d := by
  induction m with
  | nil => rfl
  | cons e m ih =>
    rw [List.map_cons, List.mem_cons, not_or] at h
    rw [SMap.get, if_neg (Ne.symm h.1), ih h.2]

/-- Scrubbing the line of every listed error leaves none. -/
theorem scrubLines_all (x : Nat) : (s.scrubLines (s.mem.errs.map (fun e => lineOf e.1))).mem.errs.get 0 x = 0 := by
  rw [scrubLines_errs]
  split
  next => rfl
  next h =>
    refine SMap_get_of_not_mem fun hx => h ?_
    obtain ⟨e, he, rfl⟩ := List.mem_map.mp hx
    exact List.mem_map.mpr ⟨e, he, rfl⟩

/-! ## HBMERR -/

theorem hbmerr_countCe (st : Nat) :
    (s.countCe st).hbmerr st = setFld (s.hbmerr st) 48 16 (min (fld (s.hbmerr st) 48 16 + 1) 0xFFFF) := by
  show SMap.get 0 (SMap.set _ _ _ _) _ = _
  rw [SMap.get_set, if_pos rfl]

theorem hbmerr_countUe (st line : Nat) :
    (s.countUe st line).hbmerr st =
      setFld (setFld (s.hbmerr st) 40 8 (min (fld (s.hbmerr st) 40 8 + 1) 0xFF)) 0 40 line := by
  show SMap.get 0 (SMap.set _ _ _ _) _ = _
  rw [SMap.get_set, if_pos rfl]

theorem hbmerr_writeHbmerr (st k : Nat) (x : Word) :
    (s.writeHbmerr st x).hbmerr k = if st = k then s.hbmerr st &&& ~~~(x &&& 0xFFFFFF0000000000) else s.hbmerr k :=
  SMap.get_set ..

/-- The mask of the two counters of HBMERR (R99). -/
theorem getLsbD_counters (x : Word) (i : Nat) : (x &&& 0xFFFFFF0000000000).getLsbD i = (decide (40 ≤ i) && x.getLsbD i) := by
  have h : ∀ i : Fin 64, (0xFFFFFF0000000000 : Word).getLsbD i = decide (40 ≤ i.val) := by decide
  by_cases hi : i < 64
  · rw [BitVec.getLsbD_and, h ⟨i, hi⟩, Bool.and_comm]
  · rw [BitVec.getLsbD_of_ge _ _ (Nat.le_of_not_lt hi), BitVec.getLsbD_of_ge _ _ (Nat.le_of_not_lt hi), Bool.and_false]

end Sys2Proof.Machine
end

section
/-!
SUPPORT. Bring-up (R426, R431 to R435): the verdict over an image, and the tables that training fills.
-/

namespace Sys2Proof.Machine

open Sys2Proof

theorem fwVerdict_le {code : Nat} (h : code ≤ 5) (svn fuse : BitVec 32) : fwVerdict code svn fuse ≤ 5 := by
  unfold fwVerdict; split_ifs <;> omega

/-- An image that passes signature, key and digest is judged by its version alone. -/
theorem fwVerdict_eq (code : Nat) (svn fuse : BitVec 32) :
    fwVerdict code svn fuse = if code = 1 ∨ code = 4 then (if svn.toNat < fuse.toNat then 4 else 1) else code := by
  unfold fwVerdict; split_ifs <;> omega

/-- A fold of writes to keys of a map leaves the keys that it does not write. -/
theorem get_foldl_put_other {α β : Type} {d : α} {f : SMap α → β → SMap α} {l : List β} {k : Nat}
    (h : ∀ x ∈ l, ∀ m, SMap.get d (f m x) k = SMap.get d m k) (m : SMap α) :
    SMap.get d (l.foldl f m) k = SMap.get d m k := by
  induction l generalizing m with
  | nil => rfl
  | cons x l ih =>
    rw [List.foldl_cons, ih fun y hy => h y (List.mem_cons_of_mem _ hy), h x List.mem_cons_self]

/-- Every port below `n` is written. -/
theorem get_foldl_put_range {α : Type} {d : α} (f : Nat → α) {n p : Nat} (hp : p < n) (m : SMap α) :
    SMap.get d ((List.range n).foldl (fun m k => m.put k (f k)) m) p = f p := by
  induction n with
  | zero => omega
  | succ n ih =>
    rw [List.range_succ, List.foldl_append, List.foldl_cons, List.foldl_nil, SMap.get_put]
    split
    next h => rw [h]
    next h => exact ih (by omega)

/-- A route is written unless it names no package. -/
def putRoute (m : SMap Route) (r : RouteWrite) : SMap Route :=
  if r.pkg = 0xFFFF then m else m.put r.pkg.toNat { hdr := r.hdr, v := r.v, out := r.out }

theorem get_putRoute_other {r : RouteWrite} {p : Nat} (h : r.pkg.toNat ≠ p) (m : SMap Route) :
    SMap.get {} (putRoute m r) p = SMap.get {} m p := by
  unfold putRoute
  split
  · rfl
  · exact SMap.get_put_other _ _ h m

theorem get_putRoute_same {r : RouteWrite} (h : r.pkg ≠ 0xFFFF) (m : SMap Route) :
    SMap.get {} (putRoute m r) r.pkg.toNat = { hdr := r.hdr, v := r.v, out := r.out } := by
  rw [putRoute, if_neg h, SMap.get_put_same]

variable {s : State}

theorem exec_firmwareVerify {code : Nat} (svn : BitVec 32) (hb : s.sys.bustat = 1) (h1 : 1 ≤ code) (h5 : code ≤ 5) :
    exec (.firmwareVerify code svn) s = .next (s.updSys (fun y => { y with
      fwstat := word (svn.toNat * 2 ^ 32 + fwVerdict code svn s.sys.svnFuse),
      svn := if fwVerdict code svn s.sys.svnFuse = 1 then svn else y.svn })) :=
  congrArg _ (if_neg (by omega))

/-- Bring-up has reached state 6, with these tables. -/
def State.harpinUp (s : State) (ports : SMap Link) (pkgid : Word) (routes : SMap Route) : State :=
  s.updSys (fun y => { y with bustat := 6, ports := ports, pkgid := pkgid, routes := routes })

theorem harpinUp_frame {e : State} {ports : SMap Link} {pkgid : Word} {routes : SMap Route}
    (he : e = s.harpinUp ports pkgid routes) :
    e = { s with sys := { s.sys with bustat := 6, ports := e.sys.ports, pkgid := e.sys.pkgid, routes := e.sys.routes } } := by
  subst he; rfl

theorem exec_harpinTraining (up pkg : BitVec 16) (routes : List RouteWrite) (h : s.sys.bustat = 5) :
    exec (.harpinTraining up pkg routes) s = .next (s.harpinUp
      ((List.range 16).foldl (fun m p => m.put p { state := if up.getLsbD p then 0 else 3 }) s.sys.ports)
      (if pkg = 0xFFFF then s.sys.pkgid else word pkg.toNat) (routes.foldl putRoute s.sys.routes)) := by
  show execHarpinTraining up pkg routes s = _
  unfold execHarpinTraining
  rw [if_neg (not_not_intro h)]
  rfl

theorem port_harpinUp (ports : SMap Link) (pkgid : Word) (routes : SMap Route) (p : Nat) :
    (s.harpinUp ports pkgid routes).port p = ports.get {} p := rfl

theorem exec_hbmTraining (hb : s.sys.bustat = 1) (hc : fld s.sys.fwstat 0 8 = 1) : exec .hbmTraining s =
    .next ((s.scrubLines (s.mem.errs.map (fun e => lineOf e.1))).updSys (fun y => { y with bustat := 2 })) :=
  congrArg _ (if_neg (by rintro (h | h); exacts [h hb, h hc]))

theorem exec_ilupolTraining (up0 up1 : Bool) (hb : s.sys.bustat = 3) (hh : s.sys.halted = false) :
    exec (.ilupolTraining up0 up1) s = .next (s.updSys (fun y => { y with
      bustat := 4
      links := (y.links.put 0 { state := if up0 then 0 else 2 }).put 1 { state := if up1 then 0 else 2 } })) :=
  congrArg _ (if_neg (by rintro (h | h); exacts [h hb, by simp [hh] at h]))

theorem exec_wearUpdate {mon : Nat} {conf : BitVec 8} (hours : BitVec 32) (hm : mon < 112) (hc : conf.toNat ≤ 100) :
    exec (.wearUpdate mon hours conf) s = .next (s.updSys (fun y => { y with
      wear := y.wear.set 0 mon (word (hours.toNat * 2 ^ 32 + conf.toNat * 2 ^ 24)) })) :=
  congrArg _ (if_neg (by simp [wearMon, hm]; omega))

/-- The fields of a wear monitor. -/
theorem fld_wear (hours : BitVec 32) (conf : BitVec 8) :
    let x := word (hours.toNat * 2 ^ 32 + conf.toNat * 2 ^ 24)
    fld x 32 32 = hours.toNat ∧ fld x 24 8 = conf.toNat ∧ fld x 0 24 = 0 := by
  have hh := hours.isLt
  have hc := conf.isLt
  refine ⟨?_, ?_, ?_⟩ <;> rw [fld_word _ (by omega)] <;> omega

theorem fld_fwstat (svn : BitVec 32) {k : Nat} (hk : k ≤ 5) :
    fld (word (svn.toNat * 2 ^ 32 + k)) 32 32 = svn.toNat ∧ fld (word (svn.toNat * 2 ^ 32 + k)) 0 32 = k := by
  have hs := svn.isLt
  refine ⟨?_, ?_⟩ <;> rw [fld_word _ (by omega)] <;> omega

end Sys2Proof.Machine
end

section
/-!
SUPPORT. Every meaning gives a next state (R61), and every run goes on.
-/

namespace Sys2Proof

open Sys2Proof.Machine

/-- A trap that is taken at once: the handler's first instruction is next, and no register, vector or byte of memory has
changed (R404). -/
theorem trap_enters {s : State} (code : Nat) (tval : Word) (fetch : Bool) (hp : ∀ p ∈ s.me.pend, p.lv ≠ s.lv)
    (ht : s.me.tBit = false) (hv : s.me.tvec.toNat / 4 ≠ 0) :
    let t := s.trap code tval fetch
    t.pc = (s.me.tvec &&& ~~~3) ∧ (t.me.thr s.lv).hold = .ready ∧ t.me.level = s.me.level ∧ t.me.tpc = (s.pc &&& ~~~3) ∧
      t.me.tval = tval ∧ t.me.tcause = word (code + (if fetch then 256 else 0) + (if s.lv then 512 else 0)) ∧
      t.me.tBit = true ∧ t.me.pvSave = s.me.pv ∧ t.me.pv = true ∧ (∀ r, t.me.g s.lv r = s.me.g s.lv r) ∧
      (∀ r, t.me.p s.lv r = s.me.p s.lv r) ∧ t.me.v = s.me.v ∧ t.mem = s.mem := by
  intro t
  have htaken : t = _ := trap_taken code tval fetch hp ht hv
  have hme := (congrArg State.me htaken).trans (s.me_updMe _)
  have hmem : t.mem = s.mem := by rw [htaken]; rfl
  have hlv : s.me.level = s.lv := rfl
  rw [State.pc, State.lv, hme, hmem, ← causeWord_eq]
  have hlatch := Core.latchTrap_rest s.me s.lv code tval fetch
  rw [hlatch]
  cases hl : s.lv <;> rw [hl] at hlv <;>
    exact ⟨congrArg (fun l => Core.pcOf _ l) hlv, rfl, rfl, rfl, rfl, rfl, rfl, rfl, rfl, fun _ => rfl, fun _ => rfl, rfl, rfl⟩

/-- The meaning of every constructor is a next state by its own equation. -/
theorem exec_next (i : Instr) (s : State) : ∃ t, exec i s = .next t := by
  cases i <;> exact ⟨_, rfl⟩

theorem runWords_next (s : State) (ck : Nat) (ws : List (BitVec 32)) : ∃ t, s.runWords ck ws = .next t := by
  unfold State.runWords
  dsimp only
  split
  · exact exec_next _ _
  · exact ⟨_, rfl⟩

theorem fetchAndRun_next (s : State) (ck : Nat) : ∃ t, s.fetchAndRun ck = .next t := by
  unfold State.fetchAndRun
  dsimp only
  split
  · exact runWords_next _ _ _
  · exact ⟨_, rfl⟩
  · exact ⟨_, rfl⟩

theorem issueCore_next (s : State) (ck : Nat) : ∃ t, s.issueCore ck = .next t := by
  unfold State.issueCore
  dsimp only
  split
  · exact ⟨_, rfl⟩
  split
  case h_1 => split; exacts [fetchAndRun_next _ _, ⟨_, rfl⟩]
  case h_2 => split; exacts [runWords_next _ _ _, ⟨_, rfl⟩]
  case h_7 => exact ⟨_, rfl⟩
  all_goals exact runWords_next _ _ _

theorem nextChunk_next (s : State) (m : Member) : ∃ t, s.nextChunk m = .next t := by
  unfold State.nextChunk
  split
  case h_2 => split <;> exact ⟨_, rfl⟩
  all_goals exact ⟨_, rfl⟩

theorem serveMember_next (s : State) (m : Nat) : ∃ t, s.serveMember m = .next t := by
  unfold State.serveMember
  split
  · exact ⟨_, rfl⟩
  split
  case h_2 => exact nextChunk_next _ _
  all_goals exact ⟨_, rfl⟩

theorem act_next (s : State) (a : Act) : ∃ t, s.act a = .next t := by
  unfold State.act
  split
  next ck => split; exacts [⟨_, rfl⟩, issueCore_next s ck]
  next m => split; exacts [⟨_, rfl⟩, serveMember_next s m]
  next i => split; exacts [exec_next i s, ⟨_, rfl⟩]
  next => exact ⟨_, rfl⟩
  next => exact ⟨_, rfl⟩

theorem step_next (s : State) : StepsSafely s := by
  unfold StepsSafely step
  split
  · exact act_next _ _
  · exact act_next _ _

theorem safeRun (n : Nat) (s : State) : SafeRun n s := by
  induction n generalizing s with
  | zero => trivial
  | succ n ih =>
    obtain ⟨t, ht⟩ := step_next s
    exact ⟨t, ht, ih t⟩

end Sys2Proof
end

section
/-!
PROOFS. Totality, the words written out in the specification, privilege, TRAP and BKPT, the ECC engine and bring-up.
-/

namespace Sys2Proof

open Sys2Proof.Machine

/-- Settles O14: the meaning of each instruction and of each act is a next state, and a run is a sequence of steps. -/
theorem everyStepHasANextState : Obligations.EveryStepHasANextState := by
  unfold Obligations.EveryStepHasANextState
  exact ⟨exec_next, step_next, safeRun⟩

/-- Settles O58: the decoder evaluates on each of the words. -/
theorem decodedWords : Obligations.DecodedWords := by
  unfold Obligations.DecodedWords
  refine ⟨?_, ?_, ?_, ?_, ?_, ?_, ?_, ?_, ?_, ?_, ?_, ?_, ?_, ?_, ?_, ?_, ?_, ?_, ?_, ?_, ?_, ?_, ?_, ?_, ?_⟩ <;> decide +kernel

/-- Settles O17: the checks of ILLEGAL and of PRIV come before every other. -/
theorem privilegedInstructions : Obligations.PrivilegedInstructions := by
  unfold Obligations.PrivilegedInstructions
  intro s gu la d a num scope hr ill priv
  refine ⟨fun hn => ?_, fun hpv => ⟨fun hlo hhi => ?_, ?_⟩⟩
  · have hi (rs ws : List Nat) : (sysUses rs ws num s).illegal = true := Option.isNone_iff_eq_none.mpr hn
    exact ⟨runs_illegal hr _ (hi _ _), runs_illegal hr _ (hi _ _)⟩
  · have hi (rs ws : List Nat) : (sysUses rs ws num s).illegal = false := by
      have hnum : num.toNat = 0x100 ∨ num.toNat = 0x101 ∨ num.toNat = 0x102 ∨ num.toNat = 0x103 := by omega
      show (s.sysReg num.toNat).isNone = false
      rcases hnum with h | h | h | h <;> rw [h] <;> rfl
    have hp (rs ws : List Nat) : (sysUses rs ws num s).priv = some (some (num.setWidth 64)) :=
      if_pos (decide_eq_true hlo)
    exact ⟨runs_priv hr _ (hi _ _) (hp _ _) hpv, runs_priv hr _ (hi _ _) (hp _ _) hpv⟩
  · have hword0 {i : Instr} {u : Uses} {body : State → Res} (he : exec i s = s.runs u body) (hi : u.illegal = false)
        (hp : u.priv = some none) : priv i (s.irWord 0) := he.trans (runs_priv hr body hi hp hpv)
    exact ⟨hword0 rfl rfl rfl, hword0 rfl rfl rfl, hword0 rfl rfl rfl, hword0 rfl rfl rfl, hword0 rfl rfl rfl,
      hword0 rfl rfl rfl⟩

/-- Settles O18: each of them is one trap, and a trap with nothing pending is taken at once (`trap_enters`). -/
theorem trapBreakpointAndIllegalWords : Obligations.TrapBreakpointAndIllegalWords := by
  unfold Obligations.TrapBreakpointAndIllegalWords
  have hexec (s : State) (imm : BitVec 12) (hi : Issues s {}) :
      exec (.trap imm) s = .next (s.trap tTRAP (imm.setWidth 64)) ∧
        exec (.bkpt imm) s = .next (s.trap tBKPT (imm.setWidth 64)) :=
    ⟨congrArg _ (issueWith_of_issues hi _), congrArg _ (issueWith_of_issues hi _)⟩
  refine ⟨⟨hexec, fun s imm hi hp ht hv => ?_⟩, fun s w va hp ht hv => ?_⟩
  · obtain ⟨htrap, hbkpt⟩ := hexec s imm hi
    intro enters
    have hin {i : Instr} {code : Nat} (h : exec i s = .next (s.trap code (imm.setWidth 64))) : enters i code := by
      obtain ⟨hpc, hhold, hlevel, htpc, htval, hcause, hbit, hsave, hpv, hg, hpr, hvec, hmem⟩ :=
        trap_enters code (imm.setWidth 64) false hp ht hv
      exact ⟨_, h, hpc, hhold, hlevel, htpc, htval, hcause, hbit, hsave, hpv, hg, hpr, hvec, hmem⟩
    exact ⟨hin htrap, hin hbkpt⟩
  · intro enters
    have hin {i : Instr} {code : Nat} {tval : Word} {fetch : Bool} (h : exec i s = .next (s.trap code tval fetch)) :
        enters i (code + if fetch then 256 else 0) tval := by
      obtain ⟨hpc, hhold, -, htpc, htval, hcause, hbit, -, -, hg, hpr, hvec, hmem⟩ := trap_enters code tval fetch hp ht hv
      exact ⟨_, h, hpc, hhold, hbit, htpc, htval, hcause, hg, hpr, hvec, hmem⟩
    exact ⟨hin (fetch := false) rfl, hin (code := tAPERTURE) (fetch := true) rfl,
      hin (code := tPOISON) (fetch := true) rfl, hin (code := tREFUSED) (fetch := true) rfl⟩

/-- Settles O49: the bytes of a sector that are wrong are none, one or several (`State.badIn`), and a line is read sector by
sector (`hbmRead_state`). -/
theorem errorCorrection : Obligations.ErrorCorrection := by
  unfold Obligations.ErrorCorrection
  refine ⟨fun s a i hi => ?_, fun s line => ?_, fun s st val => ⟨_, rfl, rfl, fun i => ?_, fun k hk => ?_⟩⟩
  · intro err t cnt cnt'
    have hclear : ∀ k, k < 32 → t.mem.errs.get 0 (a + k) = 0 := fun k hk =>
      (eccSector_errs s a (a + k)).trans (if_pos (by omega))
    refine ⟨fun hnone => eccSector_good s ?_, fun herr honly => ?_, fun j hj hne herri herrj => ?_⟩
    · exact List.eq_nil_iff_forall_not_mem.mpr fun k hk => ((mem_badIn s).mp hk).2 (hnone k ((mem_badIn s).mp hk).1)
    · have hone := badIn_singleton s ((mem_badIn s).mpr ⟨hi, herr⟩) fun k hk => by
        by_contra hne
        exact ((mem_badIn s).mp hk).2 (honly k ((mem_badIn s).mp hk).1 hne)
      have ht : t = _ := eccSector_corrects s hone
      have hcnt : cnt' = setFld cnt 48 16 (min (fld cnt 48 16 + 1) 0xFFFF) := by
        show t.hbmerr _ = _
        rw [ht, hbmerr_countCe]; rfl
      refine ⟨by rw [ht]; rfl, by rw [ht]; rfl, hclear, ?_, ?_⟩
      · rw [hcnt, fld_setFld_same _ _ (by omega)]; omega
      · rw [hcnt, fld_setFld_apart _ _ (by omega) (by omega)]
    · have hlen := two_le_badIn s ((mem_badIn s).mpr ⟨hi, herri⟩) ((mem_badIn s).mpr ⟨hj, herrj⟩) hne
      have ht : t = _ := eccSector_spoils s hlen
      have hhbm : t.mem.hbm = (s.spoiled a).mem.hbm := by rw [ht]; split <;> rfl
      refine ⟨fun k hk => ⟨?_, hclear k hk⟩, ?_⟩
      · rw [hhbm]
        show ((s.badIn a).foldl (Mems.spoil a) s.mem).hbm.get 0 (a + k) = _
        rw [foldl_spoil_hbm a _ (nodup_badIn s a)]
        split
        next => rfl
        next hk' =>
          have hz : err k = 0 := by
            by_contra hne
            exact hk' ⟨k, (mem_badIn s).mpr ⟨hk, hne⟩, rfl⟩
          rw [hz]
          exact BitVec.xor_zero.symm
      · by_cases hp : s.poisoned (lineOf a) = true
        · have ht' : t = s.spoiled a := by rw [ht, if_pos ((spoiled_poisoned s a _).trans hp)]
          refine ⟨?_, fun l _ => ?_, fun _ => ?_, fun hn => absurd hp (by rw [hn]; exact Bool.false_ne_true)⟩
          · rw [ht', spoiled_poisoned, hp]
          · rw [ht', spoiled_poisoned]
          · show t.hbmerr _ = _
            rw [ht']; rfl
        · have ht' : t = ((s.spoiled a).countUe (stackOf a) (lineOf a)).setPoison (lineOf a) true := by
            rw [ht, if_neg (by rw [spoiled_poisoned]; exact hp)]
          have hpois (l : Nat) : t.poisoned l = (decide (l = lineOf a) || s.poisoned l) := by
            rw [ht', poisoned_setPoison, ← spoiled_poisoned s a l]; rfl
          have hcnt : cnt' = setFld (setFld cnt 40 8 (min (fld cnt 40 8 + 1) 0xFF)) 0 40 (lineOf a) := by
            show t.hbmerr _ = _
            rw [ht']
            exact hbmerr_countUe (s.spoiled a) _ _
          refine ⟨by rw [hpois, decide_eq_true rfl, Bool.true_or], fun l hl => by rw [hpois, decide_eq_false hl, Bool.false_or],
            fun hp' => absurd hp' hp, fun _ => ⟨?_, ?_, ?_⟩⟩
          · rw [hcnt, fld_setFld_apart _ _ (by omega) (by omega), fld_setFld_apart _ _ (by omega) (by omega)]
          · rw [hcnt, fld_setFld_apart _ _ (by omega) (by omega), fld_setFld_same _ _ (by omega)]; omega
          · rw [hcnt, fld_setFld_same _ _ (by omega)]
  · intro t
    have hst : (s.hbmRead line).2.2 = t := hbmRead_state s line
    refine ⟨hst, ?_, fun i hi => ?_, ?_⟩
    · rw [← hst]; rfl
    · have hdata : (s.hbmRead line).1 = BitVec.ofNat 1024 (readBytes (s.hbmRead line).2.2.mem.hbm (line * 128) 128) := rfl
      rw [hdata, hst, lane_readBytes _ _ hi]
    · show Host.Outcome.next (if isHbm (line * 128) then (s.hbmRead line).2.2 else s) = _
      rw [hst, isHbm, hbmTop]
      by_cases h : line * 128 < 2 ^ 39
      · rw [if_pos h, if_pos (decide_eq_true h)]
      · rw [if_neg h, if_neg (by rw [decide_eq_false h]; exact Bool.false_ne_true)]
  · rw [hbmerr_writeHbmerr, if_pos rfl]
    by_cases hi : i < 64
    · rw [BitVec.getLsbD_and, BitVec.getLsbD_not, getLsbD_counters, decide_eq_true hi, Bool.true_and]
    · rw [BitVec.getLsbD_of_ge _ _ (Nat.le_of_not_lt hi), BitVec.getLsbD_of_ge _ _ (Nat.le_of_not_lt hi), Bool.false_and]
  · rw [hbmerr_writeHbmerr, if_neg (Ne.symm hk)]

/-- Settles O56: each event acts in its state alone, by its own equation. -/
theorem bringUp : Obligations.BringUp := by
  unfold Obligations.BringUp
  refine ⟨fun s code svn => ⟨fun h => congrArg _ (if_pos h), fun hb h1 h5 => ⟨_, exec_firmwareVerify svn hb h1 h5, ?_⟩⟩,
    fun s withheld ok up0 up1 => ⟨fun h => ?_, fun hb hc => ?_, ?_, fun h => congrArg _ (if_pos h), fun hb hh => ?_, rfl, rfl, ?_⟩,
    fun s up pkg routes => ⟨fun h => congrArg _ (if_pos h), fun h =>
      ⟨_, exec_harpinTraining up pkg routes h, harpinUp_frame rfl, fun p hp => ?_, ?_, fun p hp => ?_, fun l r hl hr => ?_⟩⟩,
    fun s mon hours conf => ⟨fun h => ?_, fun hm hc => ⟨_, exec_wearUpdate hours hm hc, rfl, fun k hk => ?_, ?_⟩⟩,
    fun s => ⟨_, rfl, ?_⟩⟩
  · obtain ⟨hsvn, hcode⟩ := fld_fwstat svn (fwVerdict_le h5 svn s.sys.svnFuse)
    refine ⟨hsvn, hcode.trans (fwVerdict_eq _ _ _), ?_⟩
    rw [← fwVerdict_eq]; rfl
  · exact congrArg _ (if_pos (by rwa [← not_and_or]))
  · obtain ⟨hcores, hfes⟩ := scrubLines_frame s (s.mem.errs.map (fun e => lineOf e.1))
    exact ⟨_, exec_hbmTraining hb hc, rfl, scrubLines_all s, hcores, hfes⟩
  · show Host.Outcome.next (if s.sys.bustat ≠ 2 then s else _) = _
    rw [ite_not]; rfl
  · refine ⟨_, exec_ilupolTraining up0 up1 hb hh, rfl, ?_, ?_⟩
    · exact (SMap.get_put_other (k := 1) (q := 0) _ _ (by decide) _).trans (SMap.get_put_same ..)
    · exact SMap.get_put_same ..
  · show Host.Outcome.next (if s.sys.bustat ≠ 6 then s else _) = _
    rw [ite_not]; rfl
  · rw [port_harpinUp, get_foldl_put_range _ hp]
  · show (if pkg = 0xFFFF then _ else word pkg.toNat) = _
    rw [word, BitVec.ofNat_toNat]
  · exact get_foldl_put_other (fun r hr m => get_putRoute_other (hp r hr) m) _
  · subst hl
    show SMap.get {} ((l ++ [r]).foldl putRoute s.sys.routes) _ = _
    rw [List.foldl_append]
    exact get_putRoute_same hr _
  · refine congrArg _ (if_pos ?_)
    simpa [wearMon] using h
  · exact (SMap.get_set ..).trans (if_neg (Ne.symm hk))
  · have hmon : ({ s.sys with wear := s.sys.wear.set 0 mon (word (hours.toNat * 2 ^ 32 + conf.toNat * 2 ^ 24)) } : Sys).wear.get 0 mon =
        word (hours.toNat * 2 ^ 32 + conf.toNat * 2 ^ 24) := (SMap.get_set ..).trans (if_pos rfl)
    obtain ⟨h1, h2, h3⟩ := fld_wear hours conf
    exact ⟨(congrArg (fld · 32 32) hmon).trans h1, (congrArg (fld · 24 8) hmon).trans h2, (congrArg (fld · 0 24) hmon).trans h3⟩
  · exact ⟨rfl, rfl, rfl, rfl, rfl, rfl, rfl, rfl, rfl, rfl, rfl, rfl⟩

end Sys2Proof
end

section
/-!
SUPPORT. Stream ports (R328 to R330): what a push and a pop leave of the executing core and of the messages under way.
-/

namespace Sys2Proof.Machine

open Sys2Proof

variable {s : State} {q : Nat}

/-! ## A push -/

theorem qPush_me (x : Word) :
    (s.qPush q x).me = s.me.setQ q { s.me.qreg q with credits := (s.me.qreg q).credits - 1 } :=
  State.core_setCore_same ..

theorem qPush_qflight (x : Word) : (s.qPush q x).qflight = s.qflight ++
    [{ core := (s.me.qreg q).peer.1, q := (s.me.qreg q).peer.2, msg := .push x, id := s.ctr, src := s.cur }] := rfl

theorem Core.qreg_setQ (c : Core) (k : Nat) (y : QReg) : (c.setQ k y).qreg q = if k = q then y else c.qreg q :=
  SMap.get_put ..

/-! ## A pop -/

/-- A core whose consumer has popped an element. -/
def Core.popQ (c : Core) (q : Nat) : Core := c.setQ q { c.qreg q with head := (c.qreg q).head + 1 }

theorem qPop_bound (h : (s.me.qreg q).st = .bound) :
    let w := (s.setCore s.cur (s.me.popQ q)).locWrite (.spad s.cur (s.me.qreg q).base) 8 ((s.me.qreg q).head + 1)
    s.qPop q = { w with qflight := w.qflight ++
      [{ core := (s.me.qreg q).peer.1, q := (s.me.qreg q).peer.2, msg := .credit }] } := if_pos (.inl h)

theorem locWrite_spad (k o n x : Nat) :
    (s.locWrite (.spad k o) n x).mem.spad = putBytes s.mem.spad (k * 2 ^ 17 + o) n x ∧
      (s.locWrite (.spad k o) n x).qflight = s.qflight ∧ (s.locWrite (.spad k o) n x).cur = s.cur := by
  rw [locWrite_eq, notify_eq]
  exact ⟨rfl, rfl, rfl⟩

/-- A pop: HEAD and its mirror advance, a credit goes back, and nothing else of the core changes but results. -/
theorem qPop_leaves (h : (s.me.qreg q).st = .bound) :
    (s.me.popQ q).OnlyResults (s.qPop q).me ∧
      (s.qPop q).qflight = s.qflight ++ [{ core := (s.me.qreg q).peer.1, q := (s.me.qreg q).peer.2, msg := .credit }] ∧
      (s.qPop q).mem.spad = putBytes s.mem.spad (s.cur * 2 ^ 17 + (s.me.qreg q).base) 8 ((s.me.qreg q).head + 1) := by
  obtain ⟨hspad, hfl, hcur⟩ := locWrite_spad (s := s.setCore s.cur (s.me.popQ q)) s.cur (s.me.qreg q).base 8 ((s.me.qreg q).head + 1)
  have hcore := locWrite_onlyResults (s := s.setCore s.cur (s.me.popQ q)) (.spad s.cur (s.me.qreg q).base) 8 ((s.me.qreg q).head + 1) s.cur
  rw [State.core_setCore_same] at hcore
  rw [qPop_bound h]
  refine ⟨?_, ?_, hspad⟩
  · show (s.me.popQ q).OnlyResults (State.core _ _)
    rw [show (State.locWrite _ _ _ _).cur = s.cur from hcur]
    exact hcore
  · rw [hfl]; rfl

/-- An instruction that names a port and no two consumers completes: it is counted, with every window closed, and pops the
element it read. -/
theorem settle_pops {u : Uses} (hon : u.on = true) (hq : s.me.popped u = [q]) {t : State}
    (hn : s.me.namesPort u = true) :
    s.settle u false (.done t) =
      ((t.updMe (fun c => c.issued s.lv u s.ctr true)).qPop q).updMe (fun c => c.resume s.lv (s.nextPc u)) := by
  simp only [State.settle, State.finish, hon, hq, hn, if_true, Bool.false_eq_true, if_false, List.foldl_cons, List.foldl_nil]
  rfl

/-! ## The ports that ADD names -/

variable {d a b : Reg} {qi qo : Nat}

theorem popped_once (ha : s.me.port a.toNat = some qi) (hb : b = a ∨ s.me.port b.toNat = none) :
    s.me.popped (scalar 4 [a, b] [d]) = [qi] := by
  rcases hb with rfl | hb
  · simp [Core.popped, scalar, ha, List.eraseDups_cons]
  · simp [Core.popped, scalar, ha, hb, List.eraseDups_cons]

theorem srcNow_port (h : s.me.port a.toNat = some qi) : s.srcNow a.toNat = s.qHead s.cur qi := by simp [State.srcNow, h]

theorem srcNow_reg (h : s.me.port b.toNat = none) : s.srcNow b.toNat = s.rg b := by simp [State.srcNow, h, State.rg]

theorem src_of_fresh {u : Uses} (hi : Issues s u) (r : Reg) : s.src r = s.srcNow r.toNat := by
  simp [State.src, State.srcOf, hi.fresh]

theorem Core.OnlyResults.registers {c e : Core} (h : c.OnlyResults e) :
    (∀ lv r, e.g lv r = c.g lv r) ∧ e.v = c.v ∧ e.level = c.level ∧ ∀ k, e.qreg k = c.qreg k := by
  rw [h]
  exact ⟨fun lv r => by cases lv <;> rfl, rfl, rfl, fun _ => rfl⟩

/-- Registers that neither counting an issue nor going on touches. -/
theorem Core.resume_registers (c : Core) (lv : Bool) (pc : Word) :
    (∀ l r, (c.resume lv pc).g l r = c.g l r) ∧ (c.resume lv pc).v = c.v ∧ (c.resume lv pc).level = c.level ∧
      (∀ k, (c.resume lv pc).qreg k = c.qreg k) ∧ (c.resume lv pc).pcOf lv = pc := by
  cases lv <;> exact ⟨fun l r => by cases l <;> rfl, rfl, rfl, fun _ => rfl, rfl⟩

end Sys2Proof.Machine
end

section
/-!
PROOFS. Stream ports as operands.
-/

namespace Sys2Proof

open Sys2Proof.Machine

/-- Settles O19: ADD pushes its sum (`qPush_me`), is counted, and pops the element it read (`qPop_leaves`). -/
theorem streamPortsPopAndPush : Obligations.StreamPortsPopAndPush := by
  unfold Obligations.StreamPortsPopAndPush
  intro s d a b qi qo hi ha hb hd hne hst x
  let v : Word := x + if b = a then x else s.rg b
  let w : State := (s.qPush qo v).updMe (fun c => c.issued s.lv (scalar 4 [a, b] [d]) s.ctr true)
  have hsa : s.src a = x := (src_of_fresh hi a).trans (srcNow_port ha)
  have hsb : s.src b = if b = a then x else s.rg b := by
    rw [src_of_fresh hi]
    split
    next h => subst h; exact srcNow_port ha
    next h => exact srcNow_reg (hb.resolve_left h)
  have hn : s.me.namesPort (scalar 4 [a, b] [d]) = true := by simp [Core.namesPort, scalar, ha]
  have hbody : s.writeHalf (.g d) (s.halfValue (.rr .add d a b)) = s.qPush qo v := by
    have hval : s.halfValue (.rr .add d a b) = v := by
      show s.src a + s.src b = v
      rw [hsa, hsb]
    rw [hval]
    show s.dst d v = _
    simp only [State.dst, hd]
  have hexec : exec (.add d a b) s = .next ((w.qPop qi).updMe (fun c => c.resume s.lv (s.pc + 4))) := by
    refine congrArg _ ((issueWith_of_issues hi _).trans ?_)
    exact (congrArg (fun t => s.settle _ false (.done t)) hbody).trans (settle_pops rfl (popped_once ha hb) hn)
  have hme : w.me = (s.me.setQ qo { s.me.qreg qo with credits := (s.me.qreg qo).credits - 1 }).issued s.lv (scalar 4 [a, b] [d]) s.ctr true := by
    rw [State.me_updMe, qPush_me]
  have hwq (k : Nat) : w.me.qreg k = if qo = k then { s.me.qreg qo with credits := (s.me.qreg qo).credits - 1 } else s.me.qreg k := by
    rw [hme]; exact Core.qreg_setQ ..
  have hwi : w.me.qreg qi = s.me.qreg qi := by rw [hwq, if_neg (Ne.symm hne)]
  obtain ⟨hcore, hfl, hspad⟩ := qPop_leaves (s := w) (q := qi) (by rw [hwi]; exact hst)
  obtain ⟨hg, hv, hlevel, hq⟩ := hcore.registers
  obtain ⟨rg, rv, rlevel, rq, rpc⟩ := Core.resume_registers (w.qPop qi).me s.lv (s.pc + 4)
  have hqp (k : Nat) : (w.me.popQ qi).qreg k = if qi = k then { w.me.qreg qi with head := (w.me.qreg qi).head + 1 } else w.me.qreg k :=
    Core.qreg_setQ ..
  have hlv : w.me.level = s.lv := by rw [hme]; rfl
  refine ⟨_, hexec, ?_, ?_, ?_, ?_, ?_, fun lv r => ?_, ?_⟩
  · have hl : ((w.qPop qi).updMe (fun c => c.resume s.lv (s.pc + 4))).lv = s.lv := by
      rw [State.lv_updMe, rlevel, hlevel]; exact hlv
    rw [State.pc, hl, State.me_updMe, rpc]
  · rw [State.me_updMe, rq, hq, hqp, if_pos rfl, hwi]
  · rw [State.me_updMe, rq, hq, hqp, if_neg hne, hwq, if_pos rfl]
  · rw [State.updMe_qflight, hfl, hwi]
    exact List.append_assoc ..
  · rw [State.updMe_mem, hspad, hwi]; rfl
  · rw [State.me_updMe, rg, hg]
    exact (congrArg (fun c => Core.g c lv r) hme).trans (by cases lv <;> rfl)
  · rw [State.me_updMe, rv, hv]
    show w.me.v = s.me.v
    rw [hme]; rfl

end Sys2Proof
end

section
/-!
SUPPORT. Canonical memory (log entry 3), function by function: translation, fetching, traps and the issue of an instruction.

Each function of the model has a lemma `<function>_wf`: from a state with canonical memory it answers states with canonical
memory. They stand in the order of the calls, so that each rests on those of the functions it calls; the functions that write
memory themselves are those of Laws/Canonical. The lemmas are elaborated one at a time (`Elab.async`): many at once, over the whole
state, need more memory than one does.
-/

namespace Sys2Proof.Machine
set_option Elab.async false

open Sys2Proof

/-- What the effect of an instruction leaves is canonical. -/
def Res.Canon : Res → Prop
  | .done t => Mems.wf t.mem = true
  | .jump t _ => Mems.wf t.mem = true
  | .trap t _ _ => Mems.wf t.mem = true
  | .page t _ _ _ _ => Mems.wf t.mem = true
  | .stall => True
  | .wait t _ => Mems.wf t.mem = true

/-- What what an access at once leaves is canonical. -/
def Now.Canon : Now → Prop
  | .ok _ _ t => Mems.wf t.mem = true
  | .trap t _ _ => Mems.wf t.mem = true
  | .page t _ _ => Mems.wf t.mem = true
  | .stall => True

/-- What the start of a collective leaves is canonical. -/
def StartRes.Canon : StartRes → Prop
  | .started t _ => Mems.wf t.mem = true
  | .failed t _ _ => Mems.wf t.mem = true
  | .page t _ _ _ _ => Mems.wf t.mem = true
  | .wait _ => True

/-- What the sending of a packet leaves is canonical. -/
def SendRes.Canon : SendRes → Prop
  | .dead => True
  | .here t => Mems.wf t.mem = true
  | .gone t => Mems.wf t.mem = true

/-- What a fetch leaves is canonical. -/
def Fetched.Canon : Fetched → Prop
  | .words _ t => Mems.wf t.mem = true
  | .fail _ _ t => Mems.wf t.mem = true
  | .stall => True

/-- What the posting of a message leaves is canonical. -/
def Posted.Canon : Posted → Prop
  | .posted t => Mems.wf t.mem = true
  | .full => True
  | .fes => True

/-- What an instruction or a step leaves is canonical. -/
def Out.Canon : Out → Prop
  | .next t => Mems.wf t.mem = true
  | .fault _ => True
  | .refused _ => True

theorem getD_wf {o : Option State} {d : State} (ho : ∀ t, o = some t → Mems.wf t.mem = true) (hd : Mems.wf d.mem = true) :
    Mems.wf (o.getD d).mem = true := by
  cases o with
  | none => exact hd
  | some t => exact ho t rfl

/-- What keeps canonical memory at every element of a list keeps it over the list. -/
theorem fold_wf {α : Type} {f : State → α → State} {s : State} (hs : Mems.wf s.mem = true)
    (hf : ∀ (t : State) (a : α), Mems.wf t.mem = true → Mems.wf (f t a).mem = true) (l : List α) :
    Mems.wf (l.foldl f s).mem = true :=
  foldl_keeps (fun t : State => Mems.wf t.mem = true) hf l hs

theorem Out.canon_ite {p : Prop} [Decidable p] {a b : Out} (ha : a.Canon) (hb : b.Canon) : Out.Canon (if p then a else b) := by
  split
  · exact ha
  · exact hb

theorem check_wf {s : State} (r : Rqst) (kind pa n : ℕ) (hs : Mems.wf s.mem = true)
    : Mems.wf (State.check s r kind pa n).2.mem = true := by
  grind [State.check, logRefusal_wf]

theorem addFail_wf {s : State} (ck : ℕ) (lv : Bool) (l : Loc) (poison : Bool) (hs : Mems.wf s.mem = true)
    : Mems.wf (State.addFail s ck lv l poison).mem = true := by
  grind [State.addFail, State.updCore_mem]

theorem dropU_wf {s : State} (line bk : ℕ) (hs : Mems.wf s.mem = true) : Mems.wf (State.dropU s line bk).mem = true := by
  grind [State.dropU, State.setBay_mem, State.setSlice_mem]

theorem countCe_wf {s : State} (st : ℕ) (hs : Mems.wf s.mem = true) : Mems.wf (State.countCe s st).mem = true := by
  grind [State.countCe]

theorem countUe_wf {s : State} (st line : ℕ) (hs : Mems.wf s.mem = true) : Mems.wf (State.countUe s st line).mem = true := by
  grind [State.countUe]

theorem uncache_wf {s : State} (line : ℕ) (hs : Mems.wf s.mem = true) : Mems.wf (State.uncache s line).mem = true := by
  grind [State.uncache, State.setSlice_mem]

theorem putLine_wf {s : State} (c : CLine) (hs : Mems.wf s.mem = true) : Mems.wf (State.putLine s c).mem = true := by
  grind [State.putLine, State.setSlice_mem, uncache_wf]

theorem readPte_wf {s : State} (r : Rqst) (pa : ℕ) (hs : Mems.wf s.mem = true)
    : Mems.wf (State.readPte s r pa).2.mem = true := by
  grind [State.readPte, check_wf, lineRead_wf]

theorem walkFrom_wf {s : State} (r : Rqst) (asid va : ℕ) (acc : Acc) (pv : Bool) (lv base : ℕ)
    (hs : Mems.wf s.mem = true) : Mems.wf (State.walkFrom s r asid va acc pv lv base).2.mem = true := by
  induction lv generalizing s base with
  | zero => grind [State.walkFrom, readPte_wf]
  | succ lv ih => grind [State.walkFrom, readPte_wf]

theorem walk_wf {s : State} (r : Rqst) (asid va : ℕ) (acc : Acc) (pv : Bool) (hs : Mems.wf s.mem = true)
    : Mems.wf (State.walk s r asid va acc pv).2.mem = true := by
  grind [State.walk, walkFrom_wf]

theorem translate_wf {s : State} (bk : ℕ) (i : TlbId) (r : Rqst) (asid va : ℕ) (acc : Acc) (pv : Bool)
    (hs : Mems.wf s.mem = true) : Mems.wf (State.translate s bk i r asid va acc pv).2.mem = true := by
  grind [State.translate, State.setBay_mem, walk_wf]

theorem fetchWord_wf {s : State} (ck : ℕ) (va : Word) (hs : Mems.wf s.mem = true)
    : Fetched.Canon (State.fetchWord s ck va) := by
  grind [State.fetchWord, translate_wf, check_wf, State.setBay_mem, sliceRead_wf, Fetched.Canon]

theorem fetchMore_wf (ck : ℕ) (va : Word) (n : ℕ) (f : Fetched) (h : f.Canon) :
    (State.fetchMore ck va n f).Canon := by
  induction n with
  | zero => exact h
  | succ n ih => grind [State.fetchMore, fetchWord_wf, Fetched.Canon]

theorem fetchInstr_wf {s : State} (ck : ℕ) (va : Word) (hs : Mems.wf s.mem = true)
    : Fetched.Canon (State.fetchInstr s ck va) := by
  grind [State.fetchInstr, fetchMore_wf, fetchWord_wf, Fetched.Canon]

theorem loadIr_wf {s : State} (ck : ℕ) (ws : List (BitVec 32)) (hs : Mems.wf s.mem = true)
    : Mems.wf (State.loadIr s ck ws).mem = true := by
  grind [State.loadIr, State.updMe_mem]

theorem postHandler_wf {s : State} (ck sender : ℕ) (r : HRec) (hs : Mems.wf s.mem = true) {t : State}
    (e : State.postHandler s ck sender r = some t) : Mems.wf t.mem = true := by
  grind [State.postHandler, putRec_wf, State.setTile_mem, State.setCore_mem]

theorem postService_wf {s : State} (h : Hall) (frame : Word) (tidx : ℕ) (hs : Mems.wf s.mem = true)
    : Posted.Canon (State.postService s h frame tidx) := by
  grind [State.postService, postHandler_wf, Posted.Canon]

theorem cancelHall_wf {s : State} (h : ℕ) (hs : Mems.wf s.mem = true) : Mems.wf (State.cancelHall s h).mem = true := by
  grind [State.cancelHall, State.updHall_mem]

theorem postTrap_wf {s : State} (ck : ℕ) (lv dbl : Bool) (code : ℕ) (frame : Word) (hs : Mems.wf s.mem = true)
    : Mems.wf (State.postTrap s ck lv dbl code frame).mem = true := by
  grind [State.postTrap, cancelHall_wf, postService_wf, State.updCore_mem, Posted.Canon]

theorem trapEntry_wf {s : State} (ck : ℕ) (lv : Bool) (code : ℕ) (tval : Word) (fetch : Bool) (hs : Mems.wf s.mem = true)
    : Mems.wf (State.trapEntry s ck lv code tval fetch).mem = true := by
  grind [State.trapEntry, State.setCore_mem, postTrap_wf]

theorem takeTrap_wf {s : State} (ck : ℕ) (lv : Bool) (hs : Mems.wf s.mem = true)
    : Mems.wf (State.takeTrap s ck lv).mem = true := by
  grind [State.takeTrap, trapEntry_wf]

theorem trap_wf {s : State} (code : ℕ) (tval : Word) (fetch : Bool) (hs : Mems.wf s.mem = true)
    : Mems.wf (State.trap s code tval fetch).mem = true := by
  grind [State.trap, State.updMe_mem, takeTrap_wf]

theorem qPop_wf {s : State} (q : ℕ) (hs : Mems.wf s.mem = true) : Mems.wf (State.qPop s q).mem = true := by
  grind [State.qPop, locWrite_wf, State.setCore_mem]

theorem finish_wf {s : State} (c0 : Core) (u : Uses) (target : Word) (hs : Mems.wf s.mem = true) :
    Mems.wf (State.finish s c0 u target).mem = true := by
  have hp := foldl_keeps (P := fun t : State => Mems.wf t.mem = true) (f := State.qPop)
    (fun t q ht => qPop_wf q ht) (c0.popped u) hs
  grind [State.finish, State.updMe_mem]

theorem pageFault_wf {s : State} (va : Word) (acc why : BitVec 2) (pin : Bool) (hs : Mems.wf s.mem = true)
    : Mems.wf (State.pageFault s va acc why pin).mem = true := by
  grind [State.pageFault, postService_wf, State.updMe_mem, trap_wf, Posted.Canon]

theorem keepSrcs_wf {s : State} (u : Uses) (t : State) (ht : Mems.wf t.mem = true)
    : Mems.wf (State.keepSrcs s u t).mem = true := by
  grind [State.keepSrcs, State.updMe_mem]

theorem settle_wf {s : State} (u : Uses) (again : Bool) (r : Res) (hs : Mems.wf s.mem = true) (hr : Res.Canon r) :
    Mems.wf (State.settle s u again r).mem = true := by
  cases r <;> grind [State.settle, finish_wf, keepSrcs_wf, State.updMe_mem, pageFault_wf, trap_wf, Res.Canon]

theorem issuePorts_wf {s : State} (u : Uses) (body : State → Res) (hs : Mems.wf s.mem = true) (hb : (body s).Canon)
    : Mems.wf (s.issuePorts u body).mem = true := by
  grind [State.issuePorts, trap_wf, State.updMe_mem, settle_wf]

theorem tryAgain_wf {s : State} (u : Uses) (r : Res) (hs : Mems.wf s.mem = true) (hr : Res.Canon r) :
    Mems.wf (State.tryAgain s u r).mem = true := by
  have hset := settle_wf u true r hs hr
  have htrap : ∀ v, Mems.wf (s.trap tSTREAM v).mem = true := fun v => trap_wf _ _ _ hs
  unfold State.tryAgain
  split <;> simp only [hset, htrap]

theorem issueWith_wf {s : State} (u : Uses) (body : State → Res) (hs : Mems.wf s.mem = true)
    (hb : (body s).Canon) : Mems.wf (s.issueWith u body).mem = true := by
  have hp := issuePorts_wf u body hs hb
  unfold State.issueWith
  dsimp only
  split_ifs
  case pos => exact hp
  case pos => exact tryAgain_wf u (body s) hs hb
  case pos => exact trap_wf _ _ _ hs
  case pos => exact trap_wf _ _ _ hs
  case pos => exact trap_wf _ _ _ hs
  case pos => exact settle_wf u false (.done s) hs hs
  case pos => exact trap_wf _ _ _ hs
  all_goals grind [trap_wf]

/-- An instruction keeps canonical memory when the effect it has on its state does. -/
theorem runs_wf {s : State} (u : Uses) (body : State → Res) (hs : Mems.wf s.mem = true)
    (hb : (body s).Canon) : Out.Canon (s.runs u body) :=
  issueWith_wf u body hs hb

end Sys2Proof.Machine
end

section
/-!
SUPPORT. Canonical memory (log entry 3), function by function: the scalar instructions.
-/

namespace Sys2Proof.Machine
set_option Elab.async false

open Sys2Proof

theorem qPush_wf {s : State} (q : ℕ) (x : Word) (hs : Mems.wf s.mem = true) : Mems.wf (State.qPush s q x).mem = true := by
  grind [State.qPush, State.setCore_mem]

theorem wg_wf {s : State} (r : Reg) (x : Word) (hs : Mems.wf s.mem = true) : Mems.wf (State.wg s r x).mem = true := by
  grind [State.wg, State.updMe_mem]

theorem dst_wf {s : State} (r : Reg) (x : Word) (hs : Mems.wf s.mem = true) : Mems.wf (State.dst s r x).mem = true := by
  grind [State.dst, qPush_wf, wg_wf]

theorem wp_wf {s : State} (r : PReg) (x : Word) (hs : Mems.wf s.mem = true) : Mems.wf (State.wp s r x).mem = true := by
  grind [State.wp, State.updMe_mem]

theorem writeHalf_wf {s : State} (d : SDst) (x : Word) (hs : Mems.wf s.mem = true) :
    Mems.wf (State.writeHalf s d x).mem = true := by
  cases d with
  | g r => exact dst_wf r x hs
  | p r => exact wp_wf r x hs

theorem execHalf_wf {s : State} (h : SHalf) (hs : Mems.wf s.mem = true) : Out.Canon (execHalf h s) := by
  grind [execHalf, writeHalf_wf, runs_wf, Out.Canon, Res.Canon]

theorem execAdd_wf {s : State} (d a b : Reg) (hs : Mems.wf s.mem = true) : Out.Canon (execAdd d a b s) := by
  grind [execAdd, execHalf_wf, Out.Canon]

theorem execSub_wf {s : State} (d a b : Reg) (hs : Mems.wf s.mem = true) : Out.Canon (execSub d a b s) := by
  grind [execSub, execHalf_wf, Out.Canon]

theorem execMul_wf {s : State} (d a b : Reg) (hs : Mems.wf s.mem = true) : Out.Canon (execMul d a b s) := by
  grind [execMul, execHalf_wf, Out.Canon]

theorem execMulh_wf {s : State} (d a b : Reg) (hs : Mems.wf s.mem = true) : Out.Canon (execMulh d a b s) := by
  grind [execMulh, execHalf_wf, Out.Canon]

theorem execMulhw_wf {s : State} (d a b : Reg) (hs : Mems.wf s.mem = true) : Out.Canon (execMulhw d a b s) := by
  grind [execMulhw, execHalf_wf, Out.Canon]

theorem execAnd_wf {s : State} (d a b : Reg) (hs : Mems.wf s.mem = true) : Out.Canon (execAnd d a b s) := by
  grind [execAnd, execHalf_wf, Out.Canon]

theorem execOr_wf {s : State} (d a b : Reg) (hs : Mems.wf s.mem = true) : Out.Canon (execOr d a b s) := by
  grind [execOr, execHalf_wf, Out.Canon]

theorem execXor_wf {s : State} (d a b : Reg) (hs : Mems.wf s.mem = true) : Out.Canon (execXor d a b s) := by
  grind [execXor, execHalf_wf, Out.Canon]

theorem execAndn_wf {s : State} (d a b : Reg) (hs : Mems.wf s.mem = true) : Out.Canon (execAndn d a b s) := by
  grind [execAndn, execHalf_wf, Out.Canon]

theorem execOrn_wf {s : State} (d a b : Reg) (hs : Mems.wf s.mem = true) : Out.Canon (execOrn d a b s) := by
  grind [execOrn, execHalf_wf, Out.Canon]

theorem execShl_wf {s : State} (d a b : Reg) (hs : Mems.wf s.mem = true) : Out.Canon (execShl d a b s) := by
  grind [execShl, execHalf_wf, Out.Canon]

theorem execShr_wf {s : State} (d a b : Reg) (hs : Mems.wf s.mem = true) : Out.Canon (execShr d a b s) := by
  grind [execShr, execHalf_wf, Out.Canon]

theorem execSra_wf {s : State} (d a b : Reg) (hs : Mems.wf s.mem = true) : Out.Canon (execSra d a b s) := by
  grind [execSra, execHalf_wf, Out.Canon]

theorem execRot_wf {s : State} (d a b : Reg) (hs : Mems.wf s.mem = true) : Out.Canon (execRot d a b s) := by
  grind [execRot, execHalf_wf, Out.Canon]

theorem execMin_wf {s : State} (d a b : Reg) (hs : Mems.wf s.mem = true) : Out.Canon (execMin d a b s) := by
  grind [execMin, execHalf_wf, Out.Canon]

theorem execMax_wf {s : State} (d a b : Reg) (hs : Mems.wf s.mem = true) : Out.Canon (execMax d a b s) := by
  grind [execMax, execHalf_wf, Out.Canon]

theorem execMinw_wf {s : State} (d a b : Reg) (hs : Mems.wf s.mem = true) : Out.Canon (execMinw d a b s) := by
  grind [execMinw, execHalf_wf, Out.Canon]

theorem execMaxw_wf {s : State} (d a b : Reg) (hs : Mems.wf s.mem = true) : Out.Canon (execMaxw d a b s) := by
  grind [execMaxw, execHalf_wf, Out.Canon]

theorem execClz_wf {s : State} (d a : Reg) (hs : Mems.wf s.mem = true) : Out.Canon (execClz d a s) := by
  grind [execClz, execHalf_wf, Out.Canon]

theorem execCtz_wf {s : State} (d a : Reg) (hs : Mems.wf s.mem = true) : Out.Canon (execCtz d a s) := by
  grind [execCtz, execHalf_wf, Out.Canon]

theorem execPopc_wf {s : State} (d a : Reg) (hs : Mems.wf s.mem = true) : Out.Canon (execPopc d a s) := by
  grind [execPopc, execHalf_wf, Out.Canon]

theorem execBrev_wf {s : State} (d a : Reg) (hs : Mems.wf s.mem = true) : Out.Canon (execBrev d a s) := by
  grind [execBrev, execHalf_wf, Out.Canon]

theorem execBswp_wf {s : State} (d a : Reg) (hs : Mems.wf s.mem = true) : Out.Canon (execBswp d a s) := by
  grind [execBswp, execHalf_wf, Out.Canon]

theorem putPend_wf {s : State} (p : Pend) (hs : Mems.wf s.mem = true) : Mems.wf (State.putPend s p).mem = true := by
  grind [State.putPend, State.updMe_mem]

theorem enterPend_wf {s : State} (p : Pend) (hs : Mems.wf s.mem = true) : Mems.wf (State.enterPend s p).mem = true := by
  grind [State.enterPend, putPend_wf]

theorem divBody_wf {s : State} (op : DivOp) (d a b : Reg) (la : BitVec 4) (hs : Mems.wf s.mem = true)
    : Res.Canon (divBody op d a b la s) := by
  grind [divBody, enterPend_wf, Res.Canon]

theorem execDiv_wf {s : State} (d a b : Reg) (la : BitVec 4) (hs : Mems.wf s.mem = true) : Out.Canon (execDiv d a b la s) := by
  grind [execDiv, divBody_wf, runs_wf, Res.Canon, Out.Canon]

theorem execDivw_wf {s : State} (d a b : Reg) (la : BitVec 4) (hs : Mems.wf s.mem = true)
    : Out.Canon (execDivw d a b la s) := by
  grind [execDivw, divBody_wf, runs_wf, Res.Canon, Out.Canon]

theorem execRem_wf {s : State} (d a b : Reg) (la : BitVec 4) (hs : Mems.wf s.mem = true) : Out.Canon (execRem d a b la s) := by
  grind [execRem, divBody_wf, runs_wf, Res.Canon, Out.Canon]

theorem execRemw_wf {s : State} (d a b : Reg) (la : BitVec 4) (hs : Mems.wf s.mem = true)
    : Out.Canon (execRemw d a b la s) := by
  grind [execRemw, divBody_wf, runs_wf, Res.Canon, Out.Canon]

theorem execPeq_wf {s : State} (d : PReg) (a b : Reg) (hs : Mems.wf s.mem = true) : Out.Canon (execPeq d a b s) := by
  grind [execPeq, execHalf_wf, Out.Canon]

theorem execPne_wf {s : State} (d : PReg) (a b : Reg) (hs : Mems.wf s.mem = true) : Out.Canon (execPne d a b s) := by
  grind [execPne, execHalf_wf, Out.Canon]

theorem execPlt_wf {s : State} (d : PReg) (a b : Reg) (hs : Mems.wf s.mem = true) : Out.Canon (execPlt d a b s) := by
  grind [execPlt, execHalf_wf, Out.Canon]

theorem execPle_wf {s : State} (d : PReg) (a b : Reg) (hs : Mems.wf s.mem = true) : Out.Canon (execPle d a b s) := by
  grind [execPle, execHalf_wf, Out.Canon]

theorem execPltw_wf {s : State} (d : PReg) (a b : Reg) (hs : Mems.wf s.mem = true) : Out.Canon (execPltw d a b s) := by
  grind [execPltw, execHalf_wf, Out.Canon]

theorem execPlew_wf {s : State} (d : PReg) (a b : Reg) (hs : Mems.wf s.mem = true) : Out.Canon (execPlew d a b s) := by
  grind [execPlew, execHalf_wf, Out.Canon]

theorem execPand_wf {s : State} (d a b : PReg) (hs : Mems.wf s.mem = true) : Out.Canon (execPand d a b s) := by
  grind [execPand, execHalf_wf, Out.Canon]

theorem execPor_wf {s : State} (d a b : PReg) (hs : Mems.wf s.mem = true) : Out.Canon (execPor d a b s) := by
  grind [execPor, execHalf_wf, Out.Canon]

theorem execPxor_wf {s : State} (d a b : PReg) (hs : Mems.wf s.mem = true) : Out.Canon (execPxor d a b s) := by
  grind [execPxor, execHalf_wf, Out.Canon]

theorem execPnot_wf {s : State} (d a : PReg) (hs : Mems.wf s.mem = true) : Out.Canon (execPnot d a s) := by
  grind [execPnot, execHalf_wf, Out.Canon]

theorem execSel_wf {s : State} (d a b : Reg) (p : PReg) (hs : Mems.wf s.mem = true) : Out.Canon (execSel d a b p s) := by
  grind [execSel, execHalf_wf, Out.Canon]

theorem execNrand_wf {s : State} (d a b : Reg) (hs : Mems.wf s.mem = true) : Out.Canon (execNrand d a b s) := by
  grind [execNrand, execHalf_wf, Out.Canon]

theorem execAddi_wf {s : State} (d a : Reg) (imm : BitVec 12) (hs : Mems.wf s.mem = true) : Out.Canon (execAddi d a imm s) := by
  grind [execAddi, execHalf_wf, Out.Canon]

theorem execAddiLiteral_wf {s : State} (d a : Reg) (lit : BitVec 64) (hs : Mems.wf s.mem = true)
    : Out.Canon (execAddiLiteral d a lit s) := by
  grind [execAddiLiteral, execHalf_wf, Out.Canon]

theorem execAndi_wf {s : State} (d a : Reg) (imm : BitVec 12) (hs : Mems.wf s.mem = true) : Out.Canon (execAndi d a imm s) := by
  grind [execAndi, execHalf_wf, Out.Canon]

theorem execAndiLiteral_wf {s : State} (d a : Reg) (lit : BitVec 64) (hs : Mems.wf s.mem = true)
    : Out.Canon (execAndiLiteral d a lit s) := by
  grind [execAndiLiteral, execHalf_wf, Out.Canon]

theorem execOri_wf {s : State} (d a : Reg) (imm : BitVec 12) (hs : Mems.wf s.mem = true) : Out.Canon (execOri d a imm s) := by
  grind [execOri, execHalf_wf, Out.Canon]

theorem execOriLiteral_wf {s : State} (d a : Reg) (lit : BitVec 64) (hs : Mems.wf s.mem = true)
    : Out.Canon (execOriLiteral d a lit s) := by
  grind [execOriLiteral, execHalf_wf, Out.Canon]

theorem execXori_wf {s : State} (d a : Reg) (imm : BitVec 12) (hs : Mems.wf s.mem = true) : Out.Canon (execXori d a imm s) := by
  grind [execXori, execHalf_wf, Out.Canon]

theorem execXoriLiteral_wf {s : State} (d a : Reg) (lit : BitVec 64) (hs : Mems.wf s.mem = true)
    : Out.Canon (execXoriLiteral d a lit s) := by
  grind [execXoriLiteral, execHalf_wf, Out.Canon]

theorem execShli_wf {s : State} (d a : Reg) (n : BitVec 6) (hs : Mems.wf s.mem = true) : Out.Canon (execShli d a n s) := by
  grind [execShli, execHalf_wf, Out.Canon]

theorem execShri_wf {s : State} (d a : Reg) (n : BitVec 6) (hs : Mems.wf s.mem = true) : Out.Canon (execShri d a n s) := by
  grind [execShri, execHalf_wf, Out.Canon]

theorem execSrai_wf {s : State} (d a : Reg) (n : BitVec 6) (hs : Mems.wf s.mem = true) : Out.Canon (execSrai d a n s) := by
  grind [execSrai, execHalf_wf, Out.Canon]

theorem execRoti_wf {s : State} (d a : Reg) (n : BitVec 6) (hs : Mems.wf s.mem = true) : Out.Canon (execRoti d a n s) := by
  grind [execRoti, execHalf_wf, Out.Canon]

theorem execPeqi_wf {s : State} (d : PReg) (a : Reg) (imm : BitVec 12) (hs : Mems.wf s.mem = true)
    : Out.Canon (execPeqi d a imm s) := by
  grind [execPeqi, execHalf_wf, Out.Canon]

theorem execPeqiLiteral_wf {s : State} (d : PReg) (a : Reg) (lit : BitVec 64) (hs : Mems.wf s.mem = true)
    : Out.Canon (execPeqiLiteral d a lit s) := by
  grind [execPeqiLiteral, execHalf_wf, Out.Canon]

theorem execPlti_wf {s : State} (d : PReg) (a : Reg) (imm : BitVec 12) (hs : Mems.wf s.mem = true)
    : Out.Canon (execPlti d a imm s) := by
  grind [execPlti, execHalf_wf, Out.Canon]

theorem execPltiLiteral_wf {s : State} (d : PReg) (a : Reg) (lit : BitVec 64) (hs : Mems.wf s.mem = true)
    : Out.Canon (execPltiLiteral d a lit s) := by
  grind [execPltiLiteral, execHalf_wf, Out.Canon]

theorem execBfx_wf {s : State} (d a : Reg) (pos wm1 : BitVec 6) (hs : Mems.wf s.mem = true)
    : Out.Canon (execBfx d a pos wm1 s) := by
  grind [execBfx, execHalf_wf, Out.Canon]

theorem execBfi_wf {s : State} (d a : Reg) (pos wm1 : BitVec 6) (hs : Mems.wf s.mem = true)
    : Out.Canon (execBfi d a pos wm1 s) := by
  grind [execBfi, execHalf_wf, Out.Canon]

theorem execExts_wf {s : State} (d a : Reg) (wm1 : BitVec 6) (hs : Mems.wf s.mem = true) : Out.Canon (execExts d a wm1 s) := by
  grind [execExts, execHalf_wf, Out.Canon]

theorem execExtz_wf {s : State} (d a : Reg) (wm1 : BitVec 6) (hs : Mems.wf s.mem = true) : Out.Canon (execExtz d a wm1 s) := by
  grind [execExtz, execHalf_wf, Out.Canon]

theorem execMovl_wf {s : State} (d : Reg) (imm : BitVec 12) (hs : Mems.wf s.mem = true) : Out.Canon (execMovl d imm s) := by
  grind [execMovl, execHalf_wf, Out.Canon]

theorem execMovlLiteral_wf {s : State} (d : Reg) (lit : BitVec 64) (hs : Mems.wf s.mem = true)
    : Out.Canon (execMovlLiteral d lit s) := by
  grind [execMovlLiteral, execHalf_wf, Out.Canon]

theorem execAddpc_wf {s : State} (d : Reg) (imm : BitVec 12) (hs : Mems.wf s.mem = true) : Out.Canon (execAddpc d imm s) := by
  grind [execAddpc, execHalf_wf, Out.Canon]

theorem execAddpcLiteral_wf {s : State} (d : Reg) (lit : BitVec 64) (hs : Mems.wf s.mem = true)
    : Out.Canon (execAddpcLiteral d lit s) := by
  grind [execAddpcLiteral, execHalf_wf, Out.Canon]

theorem jalrBody_wf {s : State} (d a : Reg) (off : Word) (len : ℕ) (hs : Mems.wf s.mem = true)
    : Res.Canon (jalrBody d a off len s) := by
  grind [jalrBody, dst_wf, Res.Canon]

theorem execJalr_wf {s : State} (d a : Reg) (imm : BitVec 12) (hs : Mems.wf s.mem = true) : Out.Canon (execJalr d a imm s) := by
  grind [execJalr, runs_wf, jalrBody_wf, Res.Canon, Out.Canon]

theorem execJalrLiteral_wf {s : State} (d a : Reg) (lit : BitVec 64) (hs : Mems.wf s.mem = true)
    : Out.Canon (execJalrLiteral d a lit s) := by
  grind [execJalrLiteral, runs_wf, jalrBody_wf, Res.Canon, Out.Canon]

theorem loopBody_wf {s : State} (d : Reg) (disp : Word) (len : ℕ) (hs : Mems.wf s.mem = true)
    : Res.Canon (loopBody d disp len s) := by
  grind [loopBody, dst_wf, Res.Canon]

theorem execLoop_wf {s : State} (d : Reg) (imm : BitVec 12) (hs : Mems.wf s.mem = true) : Out.Canon (execLoop d imm s) := by
  grind [execLoop, loopBody_wf, runs_wf, Res.Canon, Out.Canon]

theorem execLoopLiteral_wf {s : State} (d : Reg) (lit : BitVec 64) (hs : Mems.wf s.mem = true)
    : Out.Canon (execLoopLiteral d lit s) := by
  grind [execLoopLiteral, loopBody_wf, runs_wf, Res.Canon, Out.Canon]

theorem execBr_wf {s : State} (gu : Guard) (disp : BitVec 20) (hs : Mems.wf s.mem = true) : Out.Canon (execBr gu disp s) := by
  grind [execBr, runs_wf, Out.Canon, Res.Canon]

theorem execJal_wf {s : State} (gu : Guard) (disp : BitVec 20) (hs : Mems.wf s.mem = true) : Out.Canon (execJal gu disp s) := by
  grind [execJal, dst_wf, runs_wf, Out.Canon, Res.Canon]

end Sys2Proof.Machine
end

section
/-!
SUPPORT. Canonical memory (log entry 3), function by function: loads, stores, register writes and TLBINV.
-/

namespace Sys2Proof.Machine
set_option Elab.async false

open Sys2Proof

theorem place_wf {s : State} (acc : Acc) (sysOk : Bool) (a : Word) (hs : Mems.wf s.mem = true)
    : Mems.wf (State.place s acc sysOk a).2.mem = true := by
  grind [State.place, translate_wf]

theorem placeAll_wf {s : State} (acc : Acc) (sysOk : Bool) (es : List Elem) (hs : Mems.wf s.mem = true) :
    Mems.wf (State.placeAll s acc sysOk es).2.mem = true := by
  induction es generalizing s with
  | nil => exact hs
  | cons e es ih => exact ih (place_wf acc sysOk e.addr hs)

theorem send_wf {s : State} (r : Req) (hs : Mems.wf s.mem = true) : Mems.wf (State.send s r).mem = true := by
  grind [State.send]

theorem startLoad_wf {s : State} (p : Pend) (h : Hint) (sext : Bool) (e : Elem) (l : Loc) (bytes : BitVec 128)
    (hs : Mems.wf s.mem = true) : Mems.wf (State.startLoad s p h sext e l bytes).2.mem = true := by
  unfold State.startLoad
  dsimp only
  split
  · exact hs
  · split
    · split
      · exact hs
      · exact send_wf _ hs
    · exact send_wf _ hs

theorem startLoads_wf {s : State} (p : Pend) (h : Hint) (sext : Bool) (es : List (Elem × Loc)) (hs : Mems.wf s.mem = true) :
    Mems.wf (State.startLoads s p h sext es).2.mem = true := by
  induction es generalizing s p with
  | nil => exact hs
  | cons e es ih => exact ih _ (startLoad_wf p h sext e.1 e.2 _ hs)

theorem loadEnd_wf {s : State} (p : Pend) (t : State) (hs : Mems.wf s.mem = true) (ht : Mems.wf t.mem = true)
    : Res.Canon (State.loadEnd s p t) := by
  grind [State.loadEnd, putPend_wf, Res.Canon]

theorem loadElems_wf {s : State} (dst : Option PReg0) (la : BitVec 4) (h : Hint) (sext : Bool) (mask : Vec)
    (sysOk : Bool) (sysRead : SysReg → State → Word × State) (es : List Elem) (hs : Mems.wf s.mem = true)
    (hr : ∀ r t, Mems.wf t.mem = true → Mems.wf (sysRead r t).2.mem = true) :
    Res.Canon (s.loadElems dst la h sext mask sysOk sysRead es) := by
  grind [State.loadElems, placeAll_wf, enterPend_wf, startLoads_wf, loadEnd_wf, Res.Canon]

theorem sysRead_wf {s : State} (r : SysReg) (hs : Mems.wf s.mem = true) : Mems.wf (sysRead r s).2.mem = true := by
  grind [sysRead]

theorem execLoad_wf {s : State} (d a : Reg) (la : BitVec 4) (h : Hint) (off : Word) (len size : ℕ) (sext sysOk : Bool)
    (hs : Mems.wf s.mem = true) : Out.Canon (execLoad d a la h off len size sext sysOk s) := by
  grind [execLoad, sysRead_wf, runs_wf, loadElems_wf, Res.Canon, Out.Canon]

theorem execLdb_wf {s : State} (d a : Reg) (la : BitVec 4) (rh : Hint) (off : BitVec 6) (hs : Mems.wf s.mem = true)
    : Out.Canon (execLdb d a la rh off s) := by
  grind [execLdb, execLoad_wf, Out.Canon]

theorem execLdbLiteral_wf {s : State} (d a : Reg) (la : BitVec 4) (rh : Hint) (lit : BitVec 64)
    (hs : Mems.wf s.mem = true) : Out.Canon (execLdbLiteral d a la rh lit s) := by
  grind [execLdbLiteral, execLoad_wf, Out.Canon]

theorem execLdbs_wf {s : State} (d a : Reg) (la : BitVec 4) (rh : Hint) (off : BitVec 6) (hs : Mems.wf s.mem = true)
    : Out.Canon (execLdbs d a la rh off s) := by
  grind [execLdbs, execLoad_wf, Out.Canon]

theorem execLdbsLiteral_wf {s : State} (d a : Reg) (la : BitVec 4) (rh : Hint) (lit : BitVec 64)
    (hs : Mems.wf s.mem = true) : Out.Canon (execLdbsLiteral d a la rh lit s) := by
  grind [execLdbsLiteral, execLoad_wf, Out.Canon]

theorem execLdh_wf {s : State} (d a : Reg) (la : BitVec 4) (rh : Hint) (off : BitVec 6) (hs : Mems.wf s.mem = true)
    : Out.Canon (execLdh d a la rh off s) := by
  grind [execLdh, execLoad_wf, Out.Canon]

theorem execLdhLiteral_wf {s : State} (d a : Reg) (la : BitVec 4) (rh : Hint) (lit : BitVec 64)
    (hs : Mems.wf s.mem = true) : Out.Canon (execLdhLiteral d a la rh lit s) := by
  grind [execLdhLiteral, execLoad_wf, Out.Canon]

theorem execLdhs_wf {s : State} (d a : Reg) (la : BitVec 4) (rh : Hint) (off : BitVec 6) (hs : Mems.wf s.mem = true)
    : Out.Canon (execLdhs d a la rh off s) := by
  grind [execLdhs, execLoad_wf, Out.Canon]

theorem execLdhsLiteral_wf {s : State} (d a : Reg) (la : BitVec 4) (rh : Hint) (lit : BitVec 64)
    (hs : Mems.wf s.mem = true) : Out.Canon (execLdhsLiteral d a la rh lit s) := by
  grind [execLdhsLiteral, execLoad_wf, Out.Canon]

theorem execLdw_wf {s : State} (d a : Reg) (la : BitVec 4) (rh : Hint) (off : BitVec 6) (hs : Mems.wf s.mem = true)
    : Out.Canon (execLdw d a la rh off s) := by
  grind [execLdw, execLoad_wf, Out.Canon]

theorem execLdwLiteral_wf {s : State} (d a : Reg) (la : BitVec 4) (rh : Hint) (lit : BitVec 64)
    (hs : Mems.wf s.mem = true) : Out.Canon (execLdwLiteral d a la rh lit s) := by
  grind [execLdwLiteral, execLoad_wf, Out.Canon]

theorem execLdws_wf {s : State} (d a : Reg) (la : BitVec 4) (rh : Hint) (off : BitVec 6) (hs : Mems.wf s.mem = true)
    : Out.Canon (execLdws d a la rh off s) := by
  grind [execLdws, execLoad_wf, Out.Canon]

theorem execLdwsLiteral_wf {s : State} (d a : Reg) (la : BitVec 4) (rh : Hint) (lit : BitVec 64)
    (hs : Mems.wf s.mem = true) : Out.Canon (execLdwsLiteral d a la rh lit s) := by
  grind [execLdwsLiteral, execLoad_wf, Out.Canon]

theorem execLdd_wf {s : State} (d a : Reg) (la : BitVec 4) (rh : Hint) (off : BitVec 6) (hs : Mems.wf s.mem = true)
    : Out.Canon (execLdd d a la rh off s) := by
  grind [execLdd, execLoad_wf, Out.Canon]

theorem execLddLiteral_wf {s : State} (d a : Reg) (la : BitVec 4) (rh : Hint) (lit : BitVec 64)
    (hs : Mems.wf s.mem = true) : Out.Canon (execLddLiteral d a la rh lit s) := by
  grind [execLddLiteral, execLoad_wf, Out.Canon]

theorem queueStores_wf {s : State} (t : State) (rs : List Req) (ht : Mems.wf t.mem = true) :
    Res.Canon (State.queueStores s t rs) := by
  have hf := fun l : List Req => foldl_keeps (fun t : State => Mems.wf t.mem = true) (f := State.send)
    (fun t r ht => send_wf r ht) l ht
  grind [State.queueStores, State.updMe_mem, Res.Canon]

theorem storeElems_wf {s : State} (h : Hint) (sysOk : Bool) (sysWrite : SysReg → Word → State → Option State)
    (es : List (Elem × ℕ)) (hs : Mems.wf s.mem = true)
    (hw : ∀ r x t t', Mems.wf t.mem = true → sysWrite r x t = some t' → Mems.wf t'.mem = true) :
    Res.Canon (s.storeElems h sysOk sysWrite es) := by
  have hp := placeAll_wf 1 sysOk (es.map (fun e => e.1)) hs
  unfold State.storeElems
  split
  · exact queueStores_wf _ _ hs
  · split
    · exact hs
    · dsimp only
      split
      · exact hs
      · split
        · exact hs
        · grind [queueStores_wf, send_wf, Res.Canon]

theorem setFwin_wf {s : State} (k : ℕ) (f : FWin) (hs : Mems.wf s.mem = true) : Mems.wf (State.setFwin s k f).mem = true := by
  grind [State.setFwin]

theorem writeFwin_wf {s : State} (sec : Bool) (k reg : ℕ) (x : Word) (hs : Mems.wf s.mem = true) :
    Mems.wf (State.writeFwin s sec k reg x).mem = true := by
  have hset := fun g => setFwin_wf (s := s) k g hs
  unfold State.writeFwin
  dsimp only
  split
  · exact hs
  · split
    · split
      · exact hset _
      · exact hs
    · repeat' split
      all_goals exact hset _

theorem writeHbmerr_wf {s : State} (st : ℕ) (x : Word) (hs : Mems.wf s.mem = true)
    : Mems.wf (State.writeHbmerr s st x).mem = true := by
  grind [State.writeHbmerr]

theorem updChan_wf {s : State} (c : ℕ) (f : Chan → Chan) (hs : Mems.wf s.mem = true) :
    Mems.wf (s.updChan c f).mem = true := hs

theorem writeCtl_wf {s : State} (sec : Bool) (ch : ℕ) (x : Word) (hs : Mems.wf s.mem = true)
    : Mems.wf (State.writeCtl s sec ch x).mem = true := by
  grind [State.writeCtl, updChan_wf]

theorem readEntry_wf {s : State} (sec : Bool) (pa : ℕ) (hs : Mems.wf s.mem = true) {out} {t : State}
    (e : State.readEntry s sec pa = some (out, t)) : Mems.wf t.mem = true := by
  grind [State.readEntry, engRead_wf]

theorem enqueue_wf {s : State} (c n : ℕ) (hs : Mems.wf s.mem = true) {t : State} (e : State.enqueue s c n = some t) :
    Mems.wf t.mem = true := by
  induction n generalizing s with
  | zero => grind [State.enqueue]
  | succ n ih => grind [State.enqueue, readEntry_wf, updChan_wf]

theorem writeTail_wf {s : State} (sec : Bool) (c : ℕ) (x : Word) (hs : Mems.wf s.mem = true) {t : State}
    (e : State.writeTail s sec c x = some t) : Mems.wf t.mem = true := by
  grind [State.writeTail, enqueue_wf]

theorem writeChan_wf {s : State} (sec : Bool) (c reg : ℕ) (x : Word) (hs : Mems.wf s.mem = true) {t : State}
    (e : State.writeChan s sec c reg x = some t) : Mems.wf t.mem = true := by
  unfold State.writeChan at e
  dsimp only at e
  split at e
  · grind
  · split at e <;> grind [writeCtl_wf, updChan_wf, writeTail_wf]

theorem writeCancel_wf {s : State} (x : Word) (hs : Mems.wf s.mem = true) : Mems.wf (State.writeCancel s x).mem = true := by
  grind [State.writeCancel, cancelHall_wf]

theorem setPrestat_wf {s : State} (n : ℕ) (hs : Mems.wf s.mem = true) : Mems.wf (State.setPrestat s n).mem = true := by
  grind [State.setPrestat]

theorem imageOk_wf {s : State} (base : ℕ) (sv : Saved) (hs : Mems.wf s.mem = true) :
    Mems.wf (State.imageOk s base sv).2.mem = true := by
  unfold State.imageOk
  -- The number of lines is made opaque: no comparison may unfold the reading of 512 lines.
  obtain ⟨n, hn⟩ : ∃ n, n = 512 := ⟨_, rfl⟩
  rw [← hn]
  clear hn
  refine foldl_keeps (fun r : Bool × State => Mems.wf r.2.mem = true) (fun r k hr => ?_) _ hs
  exact lineBytes_wf hr (tileBase base k) n

theorem takeTiles_wf {s : State} (x y : ℕ) (sv : Saved) (hs : Mems.wf s.mem = true) :
    Mems.wf (s.takeTiles x y sv).mem = true := hs

theorem restoreSave_wf {s : State} (base x y : ℕ) (sv : Saved) (hs : Mems.wf s.mem = true) :
    Mems.wf (s.restoreSave base x y sv).mem = true := by
  have hi := imageOk_wf base sv hs
  unfold State.restoreSave
  generalize s.imageOk base sv = r at hi ⊢
  dsimp only
  split_ifs
  · exact setPrestat_wf _ hi
  · exact setPrestat_wf _ hi
  · exact setPrestat_wf _ hi
  · exact setPrestat_wf _ (takeTiles_wf x y sv hi)

theorem restoreHeader_wf {s : State} (base x y : ℕ) (bs : List Byte) (hs : Mems.wf s.mem = true) :
    Mems.wf (s.restoreHeader base x y bs).mem = true := by
  unfold State.restoreHeader
  split
  · exact setPrestat_wf _ hs
  · split
    · exact setPrestat_wf _ hs
    · exact restoreSave_wf base x y _ hs

theorem restoreFrom_wf (base x y : ℕ) (r : Option (List Byte) × State) (hr : Mems.wf r.2.mem = true) :
    Mems.wf (restoreFrom base x y r).mem = true := by
  obtain ⟨_ | bs, s⟩ := r
  · exact setPrestat_wf _ hr
  · exact restoreHeader_wf base x y bs hr

theorem precmdRestore_wf {s : State} (val : Word) (hs : Mems.wf s.mem = true) :
    Mems.wf (State.precmdRestore s val).mem = true := by
  by_cases h : s.sys.prestat = 1 ∨ precmdOk val = false ∨ fld val 0 2 ≠ 2
  · rwa [precmdRestore_ignored h]
  · obtain ⟨hidle, hok, hop⟩ : s.sys.prestat ≠ 1 ∧ precmdOk val = true ∧ fld val 0 2 = 2 := by simpa using h
    rw [precmdRestore_eq hidle hok hop]
    exact restoreFrom_wf _ _ _ _ (lineBytes_wf (s := s.withPrecmd val) hs _ _)

theorem precmdSave_wf {s : State} (val : Word) (hs : Mems.wf s.mem = true) : Mems.wf (State.precmdSave s val).mem = true := by
  grind [State.precmdSave, State.updHall_mem, setPrestat_wf]

theorem replyThread_wf {s : State} (ck : ℕ) (lv retry : Bool) (hs : Mems.wf s.mem = true)
    : Mems.wf (State.replyThread s ck lv retry).mem = true := by
  grind [State.replyThread, cancelHall_wf, State.updCore_mem, takeTrap_wf]

theorem reply_wf {s : State} (tidx : ℕ) (rva : Word) (retry : Bool) (hs : Mems.wf s.mem = true) :
    Mems.wf (State.reply s tidx rva retry).mem = true := by
  unfold State.reply
  refine foldl_keeps (fun t : State => Mems.wf t.mem = true) (fun t e ht => ?_) _ hs
  grind [replyThread_wf]

theorem writeRcmd_wf {s : State} (rva x : Word) (hs : Mems.wf s.mem = true) : Mems.wf (State.writeRcmd s rva x).mem = true := by
  grind [State.writeRcmd, reply_wf]

theorem setRegion_wf {s : State} (d n : ℕ) (r : Region) (hs : Mems.wf s.mem = true)
    : Mems.wf (State.setRegion s d n r).mem = true := by
  grind [State.setRegion]

theorem writeVlog_wf {s : State} (sec : Bool) (d : ℕ) (x : Word) (hs : Mems.wf s.mem = true)
    : Mems.wf (State.writeVlog s sec d x).mem = true := by
  grind [State.writeVlog]

theorem writeErrcnt_wf {s : State} (l : ℕ) (x : Word) (hs : Mems.wf s.mem = true)
    : Mems.wf (State.writeErrcnt s l x).mem = true := by
  grind [State.writeErrcnt]

theorem writeAttcmd_wf {s : State} (x : Word) (hs : Mems.wf s.mem = true) : Mems.wf (State.writeAttcmd s x).mem = true := by
  grind [State.writeAttcmd]

theorem regWrite_wf {s : State} (sec : Bool) (r : SysReg) (x : Word) (hs : Mems.wf s.mem = true) {t : State}
    (e : State.regWrite s sec r x = some t) : Mems.wf t.mem = true := by
  unfold State.regWrite at e
  split at e
  case h_3 => exact writeChan_wf _ _ _ _ hs e
  all_goals grind [writeFwin_wf, writeHbmerr_wf, writeCancel_wf, precmdSave_wf, precmdRestore_wf, State.updCore_mem,
    writeRcmd_wf, setRegion_wf, writeVlog_wf, writeErrcnt_wf, writeAttcmd_wf]

theorem sysWrite_wf {s : State} (r : SysReg) (x : Word) (hs : Mems.wf s.mem = true) {t : State}
    (e : sysWrite r x s = some t) : Mems.wf t.mem = true := by
  grind [sysWrite, regWrite_wf]

theorem execStore_wf {s : State} (d a : Reg) (h : Hint) (off : Word) (len size : ℕ) (sysOk : Bool)
    (hs : Mems.wf s.mem = true) : Out.Canon (execStore d a h off len size sysOk s) := by
  grind [execStore, storeElems_wf, runs_wf, sysWrite_wf, Res.Canon, Out.Canon]

theorem execStb_wf {s : State} (d a : Reg) (rh : Hint) (off : BitVec 6) (hs : Mems.wf s.mem = true)
    : Out.Canon (execStb d a rh off s) := by
  grind [execStb, execStore_wf, Out.Canon]

theorem execStbLiteral_wf {s : State} (d a : Reg) (rh : Hint) (lit : BitVec 64) (hs : Mems.wf s.mem = true)
    : Out.Canon (execStbLiteral d a rh lit s) := by
  grind [execStbLiteral, execStore_wf, Out.Canon]

theorem execSth_wf {s : State} (d a : Reg) (rh : Hint) (off : BitVec 6) (hs : Mems.wf s.mem = true)
    : Out.Canon (execSth d a rh off s) := by
  grind [execSth, execStore_wf, Out.Canon]

theorem execSthLiteral_wf {s : State} (d a : Reg) (rh : Hint) (lit : BitVec 64) (hs : Mems.wf s.mem = true)
    : Out.Canon (execSthLiteral d a rh lit s) := by
  grind [execSthLiteral, execStore_wf, Out.Canon]

theorem execStw_wf {s : State} (d a : Reg) (rh : Hint) (off : BitVec 6) (hs : Mems.wf s.mem = true)
    : Out.Canon (execStw d a rh off s) := by
  grind [execStw, execStore_wf, Out.Canon]

theorem execStwLiteral_wf {s : State} (d a : Reg) (rh : Hint) (lit : BitVec 64) (hs : Mems.wf s.mem = true)
    : Out.Canon (execStwLiteral d a rh lit s) := by
  grind [execStwLiteral, execStore_wf, Out.Canon]

theorem execStd_wf {s : State} (d a : Reg) (rh : Hint) (off : BitVec 6) (hs : Mems.wf s.mem = true)
    : Out.Canon (execStd d a rh off s) := by
  grind [execStd, execStore_wf, Out.Canon]

theorem execStdLiteral_wf {s : State} (d a : Reg) (rh : Hint) (lit : BitVec 64) (hs : Mems.wf s.mem = true)
    : Out.Canon (execStdLiteral d a rh lit s) := by
  grind [execStdLiteral, execStore_wf, Out.Canon]

theorem quietBody_wf {s : State} (op : ReqOp) (h : Hint) (a : Word) (hs : Mems.wf s.mem = true)
    : Res.Canon (quietBody op h a s) := by
  grind [quietBody, translate_wf, send_wf, Res.Canon]

theorem prefBody_wf {s : State} (h : Hint) (a : Word) (hs : Mems.wf s.mem = true) : Res.Canon (prefBody h a s) := by
  grind [prefBody, quietBody_wf, Res.Canon]

theorem execPref_wf {s : State} (a : Reg) (rh : Hint) (off : BitVec 6) (hs : Mems.wf s.mem = true)
    : Out.Canon (execPref a rh off s) := by
  grind [execPref, prefBody_wf, runs_wf, Res.Canon, Out.Canon]

theorem execPrefLiteral_wf {s : State} (a : Reg) (rh : Hint) (lit : BitVec 64) (hs : Mems.wf s.mem = true)
    : Out.Canon (execPrefLiteral a rh lit s) := by
  grind [execPrefLiteral, prefBody_wf, runs_wf, Res.Canon, Out.Canon]

theorem evictBody_wf {s : State} (h : Hint) (a : Word) (hs : Mems.wf s.mem = true) : Res.Canon (evictBody h a s) := by
  grind [evictBody, quietBody_wf, Res.Canon]

theorem execEvict_wf {s : State} (a : Reg) (rh : Hint) (off : BitVec 6) (hs : Mems.wf s.mem = true)
    : Out.Canon (execEvict a rh off s) := by
  grind [execEvict, evictBody_wf, runs_wf, Res.Canon, Out.Canon]

theorem execEvictLiteral_wf {s : State} (a : Reg) (rh : Hint) (lit : BitVec 64) (hs : Mems.wf s.mem = true)
    : Out.Canon (execEvictLiteral a rh lit s) := by
  grind [execEvictLiteral, evictBody_wf, runs_wf, Res.Canon, Out.Canon]

theorem execTrap_wf {s : State} (imm : BitVec 12) (hs : Mems.wf s.mem = true) : Out.Canon (execTrap imm s) := by
  grind [execTrap, runs_wf, Out.Canon, Res.Canon]

theorem deliverFlags_wf {s : State} (num : BitVec 12) (hs : Mems.wf s.mem = true)
    : Mems.wf (State.deliverFlags s num).mem = true := by
  grind [State.deliverFlags, State.updMe_mem]

theorem execGets_wf {s : State} (a : Reg) (num : BitVec 12) (hs : Mems.wf s.mem = true) : Out.Canon (execGets a num s) := by
  grind [execGets, dst_wf, runs_wf, deliverFlags_wf, Out.Canon, Res.Canon]

theorem execSets_wf {s : State} (a : Reg) (num : BitVec 12) (hs : Mems.wf s.mem = true) : Out.Canon (execSets a num s) := by
  grind [execSets, runs_wf, State.updMe_mem, deliverFlags_wf, Out.Canon, Res.Canon]

theorem tlbDrop_wf {s : State} (scope : ℕ) (p : TlbEnt → Bool) (hs : Mems.wf s.mem = true) :
    Mems.wf (s.tlbDrop scope p).mem = true := hs

theorem tlbinvBody_wf {s : State} (scope : ℕ) (p : TlbEnt → Bool) (hs : Mems.wf s.mem = true)
    : Res.Canon (tlbinvBody scope p s) := by
  grind [tlbinvBody, tlbDrop_wf, Res.Canon]

theorem execTlbinvPage_wf {s : State} (a : Reg) (scope : BitVec 3) (hs : Mems.wf s.mem = true)
    : Out.Canon (execTlbinvPage a scope s) := by
  grind [execTlbinvPage, tlbinvBody_wf, runs_wf, Res.Canon, Out.Canon]

theorem execTlbinvAsid_wf {s : State} (a : Reg) (scope : BitVec 3) (hs : Mems.wf s.mem = true)
    : Out.Canon (execTlbinvAsid a scope s) := by
  grind [execTlbinvAsid, tlbinvBody_wf, runs_wf, Res.Canon, Out.Canon]

theorem execTlbinvAll_wf {s : State} (a : Reg) (scope : BitVec 3) (hs : Mems.wf s.mem = true)
    : Out.Canon (execTlbinvAll a scope s) := by
  grind [execTlbinvAll, tlbinvBody_wf, runs_wf, Res.Canon, Out.Canon]

theorem pinBody_wf {s : State} (a : Reg) (hs : Mems.wf s.mem = true) : Res.Canon (pinBody a s) := by
  grind [pinBody, translate_wf, State.updBay_mem, Res.Canon]

theorem execTlbinvPin_wf {s : State} (a : Reg) (_scope : BitVec 3) (hs : Mems.wf s.mem = true)
    : Out.Canon (execTlbinvPin a _scope s) := by
  grind [execTlbinvPin, runs_wf, pinBody_wf, Res.Canon, Out.Canon]

theorem execBkpt_wf {s : State} (imm : BitVec 12) (hs : Mems.wf s.mem = true) : Out.Canon (execBkpt imm s) := by
  grind [execBkpt, runs_wf, Out.Canon, Res.Canon]

end Sys2Proof.Machine
end

section
/-!
SUPPORT. Canonical memory (log entry 3), function by function: the vector instructions.
-/

namespace Sys2Proof.Machine
set_option Elab.async false

open Sys2Proof

theorem raise_wf {s : State} (f : FFlags) (hs : Mems.wf s.mem = true) : Mems.wf (State.raise s f).mem = true := by
  grind [State.raise, State.updMe_mem]

theorem wv_wf {s : State} (r : VReg) (x : Vec) (hs : Mems.wf s.mem = true) : Mems.wf (State.wv s r x).mem = true := by
  grind [State.wv, State.updMe_mem]

theorem writeVec_wf {s : State} (d : VReg) (r : VecRes) (hs : Mems.wf s.mem = true)
    : Mems.wf (State.writeVec s d r).mem = true := by
  grind [State.writeVec, wv_wf, raise_wf]

theorem writeV_wf {s : State} (w : VWrite) (hs : Mems.wf s.mem = true) : Mems.wf (State.writeV s w).mem = true := by
  cases w with
  | v d r => exact writeVec_wf d r hs
  | p d x f => exact raise_wf f (wp_wf d x hs)

theorem execPair_wf {s : State} (gu : Guard) (sh : SHalf) (vh : VHalf) (hs : Mems.wf s.mem = true)
    : Out.Canon (execPair gu sh vh s) := by
  grind [execPair, writeHalf_wf, runs_wf, writeV_wf, Out.Canon, Res.Canon]

theorem execVec_wf {s : State} (gu : Guard) (ty : BitVec 4) (srcs : List VReg) (d : VReg)
    (f : (ℕ → Bool) → State → VecRes) (hs : Mems.wf s.mem = true) : Out.Canon (execVec gu ty srcs d f s) :=
  runs_wf _ _ hs (writeVec_wf _ _ hs)

theorem execVadd_wf {s : State} (gu : Guard) (ty : BitVec 4) (rm : BitVec 3) (sat : Bool) (d a b : VReg)
    (hs : Mems.wf s.mem = true) : Out.Canon (execVadd gu ty rm sat d a b s) := by
  grind [execVadd, execVec_wf, Out.Canon]

theorem execVsub_wf {s : State} (gu : Guard) (ty : BitVec 4) (rm : BitVec 3) (sat : Bool) (d a b : VReg)
    (hs : Mems.wf s.mem = true) : Out.Canon (execVsub gu ty rm sat d a b s) := by
  grind [execVsub, execVec_wf, Out.Canon]

theorem execVmul_wf {s : State} (gu : Guard) (ty : BitVec 4) (rm : BitVec 3) (sat : Bool) (d a b : VReg)
    (hs : Mems.wf s.mem = true) : Out.Canon (execVmul gu ty rm sat d a b s) := by
  grind [execVmul, execVec_wf, Out.Canon]

theorem execVfma_wf {s : State} (gu : Guard) (ty : BitVec 4) (rm : BitVec 3) (sat : Bool) (d a b c : VReg)
    (hs : Mems.wf s.mem = true) : Out.Canon (execVfma gu ty rm sat d a b c s) := by
  grind [execVfma, execVec_wf, Out.Canon]

theorem execVfms_wf {s : State} (gu : Guard) (ty : BitVec 4) (rm : BitVec 3) (sat : Bool) (d a b c : VReg)
    (hs : Mems.wf s.mem = true) : Out.Canon (execVfms gu ty rm sat d a b c s) := by
  grind [execVfms, execVec_wf, Out.Canon]

theorem execVfnma_wf {s : State} (gu : Guard) (ty : BitVec 4) (rm : BitVec 3) (sat : Bool) (d a b c : VReg)
    (hs : Mems.wf s.mem = true) : Out.Canon (execVfnma gu ty rm sat d a b c s) := by
  grind [execVfnma, execVec_wf, Out.Canon]

theorem execLongVec_wf {s : State} (gu : Guard) (la ty : BitVec 4) (srcs : List VReg) (d : VReg)
    (f : (ℕ → Bool) → State → VecRes) (hs : Mems.wf s.mem = true) : Out.Canon (execLongVec gu la ty srcs d f s) := by
  grind [execLongVec, runs_wf, enterPend_wf, Res.Canon]

theorem execVdiv_wf {s : State} (gu : Guard) (la ty : BitVec 4) (rm : BitVec 3) (sat : Bool) (d a b : VReg)
    (hs : Mems.wf s.mem = true) : Out.Canon (execVdiv gu la ty rm sat d a b s) := by
  grind [execVdiv, execLongVec_wf, Out.Canon]

theorem execVsqrt_wf {s : State} (gu : Guard) (la ty : BitVec 4) (rm : BitVec 3) (d a : VReg) (hs : Mems.wf s.mem = true)
    : Out.Canon (execVsqrt gu la ty rm d a s) := by
  grind [execVsqrt, execLongVec_wf, Out.Canon]

theorem execVrsq_wf {s : State} (gu : Guard) (la ty : BitVec 4) (rm : BitVec 3) (d a : VReg) (hs : Mems.wf s.mem = true)
    : Out.Canon (execVrsq gu la ty rm d a s) := by
  grind [execVrsq, execLongVec_wf, Out.Canon]

theorem execVmin_wf {s : State} (gu : Guard) (ty : BitVec 4) (d a b : VReg) (hs : Mems.wf s.mem = true)
    : Out.Canon (execVmin gu ty d a b s) := by
  grind [execVmin, execVec_wf, Out.Canon]

theorem execVmax_wf {s : State} (gu : Guard) (ty : BitVec 4) (d a b : VReg) (hs : Mems.wf s.mem = true)
    : Out.Canon (execVmax gu ty d a b s) := by
  grind [execVmax, execVec_wf, Out.Canon]

theorem execVabs_wf {s : State} (gu : Guard) (ty : BitVec 4) (sat : Bool) (d a : VReg) (hs : Mems.wf s.mem = true)
    : Out.Canon (execVabs gu ty sat d a s) := by
  grind [execVabs, execVec_wf, Out.Canon]

theorem execVneg_wf {s : State} (gu : Guard) (ty : BitVec 4) (sat : Bool) (d a : VReg) (hs : Mems.wf s.mem = true)
    : Out.Canon (execVneg gu ty sat d a s) := by
  grind [execVneg, execVec_wf, Out.Canon]

theorem execVclamp_wf {s : State} (gu : Guard) (ty : BitVec 4) (d a b c : VReg) (hs : Mems.wf s.mem = true)
    : Out.Canon (execVclamp gu ty d a b c s) := by
  grind [execVclamp, execVec_wf, Out.Canon]

theorem execVcmp_wf {s : State} (gu : Guard) (ty : BitVec 4) (rel : BitVec 3) (d : PReg) (a b : VReg)
    (hs : Mems.wf s.mem = true) : Out.Canon (execVcmp gu ty rel d a b s) := by
  grind [execVcmp, runs_wf, writeV_wf, Out.Canon, Res.Canon]

theorem execVsel_wf {s : State} (gu : Guard) (ty : BitVec 4) (d a b : VReg) (p : PReg) (hs : Mems.wf s.mem = true)
    : Out.Canon (execVsel gu ty d a b p s) := by
  grind [execVsel, execVec_wf, Out.Canon]

theorem execCvt_wf {s : State} (gu : Guard) (ty src : BitVec 4) (rm : BitVec 3) (sat : Bool) (d a c : VReg) (part len : ℕ)
    (hs : Mems.wf s.mem = true) : Out.Canon (execCvt gu ty src rm sat d a c part len s) := by
  grind [execCvt, wv_wf, runs_wf, writeVec_wf, Out.Canon, Res.Canon]

theorem execVcvt_wf {s : State} (gu : Guard) (ty src : BitVec 4) (rm : BitVec 3) (sat : Bool) (d a c : VReg)
    (part : BitVec 4) (hs : Mems.wf s.mem = true) : Out.Canon (execVcvt gu ty src rm sat d a c part s) := by
  grind [execVcvt, execCvt_wf, Out.Canon]

theorem execVcvtLiteral_wf {s : State} (gu : Guard) (ty src : BitVec 4) (rm : BitVec 3) (sat : Bool) (d a c : VReg)
    (lit : BitVec 64) (hs : Mems.wf s.mem = true) : Out.Canon (execVcvtLiteral gu ty src rm sat d a c lit s) := by
  grind [execVcvtLiteral, execCvt_wf, Out.Canon]

theorem execScale_wf {s : State} (gu : Guard) (ty src : BitVec 4) (d a : VReg) (part len : ℕ) (hs : Mems.wf s.mem = true)
    : Out.Canon (execScale gu ty src d a part len s) := by
  grind [execScale, runs_wf, writeVec_wf, Out.Canon, Res.Canon]

theorem execVscale_wf {s : State} (gu : Guard) (ty src : BitVec 4) (d a : VReg) (part : BitVec 4)
    (hs : Mems.wf s.mem = true) : Out.Canon (execVscale gu ty src d a part s) := by
  grind [execVscale, execScale_wf, Out.Canon]

theorem execVscaleLiteral_wf {s : State} (gu : Guard) (ty src : BitVec 4) (d a : VReg) (lit : BitVec 64)
    (hs : Mems.wf s.mem = true) : Out.Canon (execVscaleLiteral gu ty src d a lit s) := by
  grind [execVscaleLiteral, execScale_wf, Out.Canon]

theorem execReduce_wf {s : State} (gu : Guard) (ty : BitVec 4) (srcs : List VReg) (d : VReg)
    (f : (ℕ → Bool) → State → Option LaneRes) (hs : Mems.wf s.mem = true) : Out.Canon (execReduce gu ty srcs d f s) := by
  grind [execReduce, runs_wf, wv_wf, raise_wf, Res.Canon]

theorem execVrsum_wf {s : State} (gu : Guard) (ty : BitVec 4) (sat : Bool) (d a : VReg) (hs : Mems.wf s.mem = true)
    : Out.Canon (execVrsum gu ty sat d a s) := by
  grind [execVrsum, execReduce_wf, Out.Canon]

theorem execVrmin_wf {s : State} (gu : Guard) (ty : BitVec 4) (d a : VReg) (hs : Mems.wf s.mem = true)
    : Out.Canon (execVrmin gu ty d a s) := by
  grind [execVrmin, execReduce_wf, Out.Canon]

theorem execVrmax_wf {s : State} (gu : Guard) (ty : BitVec 4) (d a : VReg) (hs : Mems.wf s.mem = true)
    : Out.Canon (execVrmax gu ty d a s) := by
  grind [execVrmax, execReduce_wf, Out.Canon]

theorem execVdot_wf {s : State} (gu : Guard) (ty : BitVec 4) (d a b : VReg) (hs : Mems.wf s.mem = true)
    : Out.Canon (execVdot gu ty d a b s) := by
  grind [execVdot, execReduce_wf, Out.Canon]

theorem execViadd_wf {s : State} (gu : Guard) (ty : BitVec 4) (sat : Bool) (d a b : VReg) (hs : Mems.wf s.mem = true)
    : Out.Canon (execViadd gu ty sat d a b s) := by
  grind [execViadd, execVec_wf, Out.Canon]

theorem execVisub_wf {s : State} (gu : Guard) (ty : BitVec 4) (sat : Bool) (d a b : VReg) (hs : Mems.wf s.mem = true)
    : Out.Canon (execVisub gu ty sat d a b s) := by
  grind [execVisub, execVec_wf, Out.Canon]

theorem execVimul_wf {s : State} (gu : Guard) (ty : BitVec 4) (sat : Bool) (d a b : VReg) (hs : Mems.wf s.mem = true)
    : Out.Canon (execVimul gu ty sat d a b s) := by
  grind [execVimul, execVec_wf, Out.Canon]

theorem execVimad_wf {s : State} (gu : Guard) (ty : BitVec 4) (sat : Bool) (d a b c : VReg) (hs : Mems.wf s.mem = true)
    : Out.Canon (execVimad gu ty sat d a b c s) := by
  grind [execVimad, execVec_wf, Out.Canon]

theorem execVand_wf {s : State} (gu : Guard) (ty : BitVec 4) (d a b : VReg) (hs : Mems.wf s.mem = true)
    : Out.Canon (execVand gu ty d a b s) := by
  grind [execVand, execVec_wf, Out.Canon]

theorem execVor_wf {s : State} (gu : Guard) (ty : BitVec 4) (d a b : VReg) (hs : Mems.wf s.mem = true)
    : Out.Canon (execVor gu ty d a b s) := by
  grind [execVor, execVec_wf, Out.Canon]

theorem execVxor_wf {s : State} (gu : Guard) (ty : BitVec 4) (d a b : VReg) (hs : Mems.wf s.mem = true)
    : Out.Canon (execVxor gu ty d a b s) := by
  grind [execVxor, execVec_wf, Out.Canon]

theorem execVshl_wf {s : State} (gu : Guard) (ty : BitVec 4) (d a b : VReg) (hs : Mems.wf s.mem = true)
    : Out.Canon (execVshl gu ty d a b s) := by
  grind [execVshl, execVec_wf, Out.Canon]

theorem execVshr_wf {s : State} (gu : Guard) (ty : BitVec 4) (d a b : VReg) (hs : Mems.wf s.mem = true)
    : Out.Canon (execVshr gu ty d a b s) := by
  grind [execVshr, execVec_wf, Out.Canon]

theorem execVsra_wf {s : State} (gu : Guard) (ty : BitVec 4) (d a b : VReg) (hs : Mems.wf s.mem = true)
    : Out.Canon (execVsra gu ty d a b s) := by
  grind [execVsra, execVec_wf, Out.Canon]

theorem execVsplat_wf {s : State} (gu : Guard) (ty : BitVec 4) (d : VReg) (a : Reg) (hs : Mems.wf s.mem = true)
    : Out.Canon (execVsplat gu ty d a s) := by
  grind [execVsplat, runs_wf, writeVec_wf, Out.Canon, Res.Canon]

theorem execVsplatLiteral_wf {s : State} (gu : Guard) (ty : BitVec 4) (d : VReg) (lit : BitVec 64)
    (hs : Mems.wf s.mem = true) : Out.Canon (execVsplatLiteral gu ty d lit s) := by
  grind [execVsplatLiteral, runs_wf, writeVec_wf, Out.Canon, Res.Canon]

theorem execVperm_wf {s : State} (gu : Guard) (ty : BitVec 4) (d a b : VReg) (hs : Mems.wf s.mem = true)
    : Out.Canon (execVperm gu ty d a b s) := by
  grind [execVperm, execVec_wf, Out.Canon]

theorem execVext_wf {s : State} (gu : Guard) (ty : BitVec 4) (d : Reg) (a : VReg) (b : Reg) (hs : Mems.wf s.mem = true)
    : Out.Canon (execVext gu ty d a b s) := by
  grind [execVext, dst_wf, runs_wf, Out.Canon, Res.Canon]

theorem execVins_wf {s : State} (gu : Guard) (ty : BitVec 4) (d : VReg) (a b : Reg) (hs : Mems.wf s.mem = true)
    : Out.Canon (execVins gu ty d a b s) := by
  grind [execVins, wv_wf, runs_wf, Out.Canon, Res.Canon]

theorem execVmov_wf {s : State} (gu : Guard) (ty : BitVec 4) (d a : VReg) (hs : Mems.wf s.mem = true)
    : Out.Canon (execVmov gu ty d a s) := by
  grind [execVmov, execVec_wf, Out.Canon]

theorem loadLine_wf {s : State} (d : VReg) (la : BitVec 4) (h : Hint) (bytes : BitVec 128) (mask : Vec) (e : Elem)
    (es : List Elem) (hs : Mems.wf s.mem = true) : Res.Canon (State.loadLine s d la h bytes mask e es) := by
  grind [State.loadLine, loadEnd_wf, place_wf, startLoad_wf, Res.Canon]

theorem execVload_wf {s : State} (gu : Guard) (la ty : BitVec 4) (h : Hint) (d : VReg) (rs : List Reg) (vs : List VReg)
    (len : ℕ) (unit : Bool) (addr : State → ℕ → Word) (hs : Mems.wf s.mem = true)
    : Out.Canon (execVload gu la ty h d rs vs len unit addr s) := by
  grind [execVload, runs_wf, loadLine_wf, loadElems_wf, sysRead_wf, Res.Canon]

theorem execVld_wf {s : State} (gu : Guard) (la ty : BitVec 4) (rh : Hint) (d : VReg) (a : Reg) (imm : BitVec 24)
    (hs : Mems.wf s.mem = true) : Out.Canon (execVld gu la ty rh d a imm s) := by
  grind [execVld, execVload_wf, Out.Canon]

theorem execVldLiteral_wf {s : State} (gu : Guard) (la ty : BitVec 4) (rh : Hint) (d : VReg) (a : Reg) (lit : BitVec 64)
    (hs : Mems.wf s.mem = true) : Out.Canon (execVldLiteral gu la ty rh d a lit s) := by
  grind [execVldLiteral, execVload_wf, Out.Canon]

theorem storeLineV_wf {s : State} (h : Hint) (x : Vec) (bytes : BitVec 128) (e : Elem) (es : List Elem)
    (hs : Mems.wf s.mem = true) : Res.Canon (State.storeLineV s h x bytes e es) := by
  grind [State.storeLineV, place_wf, send_wf, Res.Canon]

theorem execVstore_wf {s : State} (gu : Guard) (ty : BitVec 4) (h : Hint) (d : VReg) (rs : List Reg) (vs : List VReg)
    (len : ℕ) (unit : Bool) (addr : State → ℕ → Word) (hs : Mems.wf s.mem = true)
    : Out.Canon (execVstore gu ty h d rs vs len unit addr s) := by
  grind [execVstore, runs_wf, storeLineV_wf, storeElems_wf, sysWrite_wf, Res.Canon]

theorem execVst_wf {s : State} (gu : Guard) (ty : BitVec 4) (rh : Hint) (d : VReg) (a : Reg) (imm : BitVec 24)
    (hs : Mems.wf s.mem = true) : Out.Canon (execVst gu ty rh d a imm s) := by
  grind [execVst, execVstore_wf, Out.Canon]

theorem execVstLiteral_wf {s : State} (gu : Guard) (ty : BitVec 4) (rh : Hint) (d : VReg) (a : Reg) (lit : BitVec 64)
    (hs : Mems.wf s.mem = true) : Out.Canon (execVstLiteral gu ty rh d a lit s) := by
  grind [execVstLiteral, execVstore_wf, Out.Canon]

theorem execVlds_wf {s : State} (gu : Guard) (la ty : BitVec 4) (rh : Hint) (d : VReg) (a b : Reg) (imm : BitVec 24)
    (hs : Mems.wf s.mem = true) : Out.Canon (execVlds gu la ty rh d a b imm s) := by
  grind [execVlds, execVload_wf, Out.Canon]

theorem execVldsLiteral_wf {s : State} (gu : Guard) (la ty : BitVec 4) (rh : Hint) (d : VReg) (a b : Reg)
    (lit : BitVec 64) (hs : Mems.wf s.mem = true) : Out.Canon (execVldsLiteral gu la ty rh d a b lit s) := by
  grind [execVldsLiteral, execVload_wf, Out.Canon]

theorem execVsts_wf {s : State} (gu : Guard) (ty : BitVec 4) (rh : Hint) (d : VReg) (a b : Reg) (imm : BitVec 24)
    (hs : Mems.wf s.mem = true) : Out.Canon (execVsts gu ty rh d a b imm s) := by
  grind [execVsts, execVstore_wf, Out.Canon]

theorem execVstsLiteral_wf {s : State} (gu : Guard) (ty : BitVec 4) (rh : Hint) (d : VReg) (a b : Reg) (lit : BitVec 64)
    (hs : Mems.wf s.mem = true) : Out.Canon (execVstsLiteral gu ty rh d a b lit s) := by
  grind [execVstsLiteral, execVstore_wf, Out.Canon]

theorem execVgath_wf {s : State} (gu : Guard) (la ty : BitVec 4) (rh : Hint) (d : VReg) (a : Reg) (b : VReg)
    (imm : BitVec 24) (hs : Mems.wf s.mem = true) : Out.Canon (execVgath gu la ty rh d a b imm s) := by
  grind [execVgath, execVload_wf, Out.Canon]

theorem execVgathLiteral_wf {s : State} (gu : Guard) (la ty : BitVec 4) (rh : Hint) (d : VReg) (a : Reg) (b : VReg)
    (lit : BitVec 64) (hs : Mems.wf s.mem = true) : Out.Canon (execVgathLiteral gu la ty rh d a b lit s) := by
  grind [execVgathLiteral, execVload_wf, Out.Canon]

theorem execVscat_wf {s : State} (gu : Guard) (ty : BitVec 4) (rh : Hint) (d : VReg) (a : Reg) (b : VReg)
    (imm : BitVec 24) (hs : Mems.wf s.mem = true) : Out.Canon (execVscat gu ty rh d a b imm s) := by
  grind [execVscat, execVstore_wf, Out.Canon]

theorem execVscatLiteral_wf {s : State} (gu : Guard) (ty : BitVec 4) (rh : Hint) (d : VReg) (a : Reg) (b : VReg)
    (lit : BitVec 64) (hs : Mems.wf s.mem = true) : Out.Canon (execVscatLiteral gu ty rh d a b lit s) := by
  grind [execVscatLiteral, execVstore_wf, Out.Canon]

end Sys2Proof.Machine
end

section
/-!
SUPPORT. Canonical memory (log entry 3), function by function: tiles, jobs and the moves of an alcove.
-/

namespace Sys2Proof.Machine
set_option Elab.async false

open Sys2Proof

theorem runsX_wf {s : State} (u : Uses) (body : State → Res) (hs : Mems.wf s.mem = true) (hb : (body s).Canon)
    : Out.Canon (s.runsX u body) := by
  grind [State.runsX, runs_wf, Res.Canon]

theorem accepted_wf {s : State} (bks : List ℕ) (hs : Mems.wf s.mem = true) :
    Mems.wf (State.accepted s bks).mem = true := by
  unfold State.accepted
  exact foldl_keeps (fun t : State => Mems.wf t.mem = true) (fun t _ (ht : Mems.wf t.mem = true) => by exact ht) bks hs

theorem inTurnAt_wf {s : State} (bks : List ℕ) (r : Res) (hr : Res.Canon r) :
    Res.Canon (State.inTurnAt s bks r) := by
  unfold State.inTurnAt
  split
  · trivial
  · cases r with
    | trap t code tval => exact accepted_wf bks hr
    | done t => exact hr
    | jump t a => exact hr
    | page t va acc why pin => exact hr
    | stall => exact hr
    | wait t h => exact hr

theorem fresh_wf {s : State} (hs : Mems.wf s.mem = true) : Mems.wf (State.fresh s).2.mem = true := by
  grind [State.fresh]

theorem settleClears_wf {s : State} (bk : ℕ) (hs : Mems.wf s.mem = true) :
    Mems.wf (State.settleClears s bk).mem = true := by
  unfold State.settleClears
  generalize sweep bk [] (s.bay bk).jobs = r
  dsimp only
  split
  · exact hs
  · exact foldl_keeps (fun t : State => Mems.wf t.mem = true) (fun t k ht => clearTile_wf ht bk k) r.2 hs

theorem acceptClear_wf {s : State} (t : ℕ) (hs : Mems.wf s.mem = true) : Mems.wf (State.acceptClear s t).mem = true := by
  grind [State.acceptClear, fresh_wf, accepted_wf, State.updBay_mem, settleClears_wf]

theorem execTcfg_wf {s : State} (gu : Guard) (ty : BitVec 4) (t : TReg) (rows rb : BitVec 8) (hs : Mems.wf s.mem = true)
    : Out.Canon (execTcfg gu ty t rows rb s) := by
  grind [execTcfg, inTurnAt_wf, State.updBay_mem, runsX_wf, acceptClear_wf, Res.Canon, Out.Canon]

theorem shape_wf {s : State} (hs : Mems.wf s.mem = true) : Res.Canon (State.shape s) := by
  grind [State.shape, Res.Canon]

theorem takeScores_wf {s : State} (issuer owner : ℕ) (l : List Span) (hs : Mems.wf s.mem = true) {t : State}
    (e : State.takeScores s issuer owner l = some t) : Mems.wf t.mem = true := by
  unfold State.takeScores at e
  split at e
  · obtain rfl := Option.some.inj e
    exact foldl_keeps (fun t : State => Mems.wf t.mem = true) (fun t _ (ht : Mems.wf t.mem = true) => by exact ht) l hs
  · cases e

theorem addPend_wf {s : State} (dst : Option PReg0) (la need : ℕ) (cls : PCls) (mask : Vec) (hs : Mems.wf s.mem = true)
    : Mems.wf (State.addPend s dst la need cls mask).2.mem = true := by
  grind [State.addPend, enterPend_wf]

theorem pendG_wf {s : State} (d : Reg) (la : BitVec 4) (need : ℕ) (cls : PCls) (hs : Mems.wf s.mem = true)
    : Mems.wf (State.pendG s d la need cls).2.mem = true := by
  grind [State.pendG, addPend_wf]

theorem acceptJob_wf {s : State} (d gs : Reg) (la : BitVec 4) (bks : List ℕ) (j : Job) (hs : Mems.wf s.mem = true) :
    Mems.wf (State.acceptJob s d gs la bks j).mem = true := by
  have ha := accepted_wf bks (fresh_wf (pendG_wf gs la 1 .job hs))
  unfold State.acceptJob
  refine dst_wf d _ ?_
  rw [State.updMe_mem]
  exact foldl_keeps (fun t : State => Mems.wf t.mem = true) (fun t _ (ht : Mems.wf t.mem = true) => by exact ht) bks ha

theorem rowJobBody_wf {s : State} (kind : JKind) (d gs : Reg) (la : BitVec 4) (rh : Hint) (a b : Reg) (scale : Bool)
    (t : ℕ) (bays : List ℕ) (hs : Mems.wf s.mem = true) : Res.Canon (rowJobBody kind d gs la rh a b scale t bays s) := by
  grind [rowJobBody, shape_wf, takeScores_wf, acceptJob_wf, inTurnAt_wf, Res.Canon]

theorem execTld_wf {s : State} (gu : Guard) (la : BitVec 4) (rh : Hint) (d gs a b : Reg) (scale : Bool) (t : TReg)
    (bm : BitVec 8) (hs : Mems.wf s.mem = true) : Out.Canon (execTld gu la rh d gs a b scale t bm s) := by
  grind [execTld, runsX_wf, rowJobBody_wf, Res.Canon, Out.Canon]

theorem execTst_wf {s : State} (gu : Guard) (la : BitVec 4) (rh : Hint) (d gs a b : Reg) (scale : Bool) (t : TReg)
    (hs : Mems.wf s.mem = true) : Out.Canon (execTst gu la rh d gs a b scale t s) := by
  grind [execTst, runsX_wf, rowJobBody_wf, Res.Canon, Out.Canon]

theorem execTzero_wf {s : State} (gu : Guard) (t : TReg) (hs : Mems.wf s.mem = true) : Out.Canon (execTzero gu t s) := by
  grind [execTzero, shape_wf, inTurnAt_wf, runsX_wf, acceptClear_wf, Res.Canon, Out.Canon]

theorem mmaBody_wf {s : State} (kind : JKind) (d gs : Reg) (la : BitVec 4) (ty : ℕ) (sat z : Bool) (ta tb abase : ℕ)
    (bays : List ℕ) (hs : Mems.wf s.mem = true) : Res.Canon (mmaBody kind d gs la ty sat z ta tb abase bays s) := by
  grind [mmaBody, shape_wf, acceptJob_wf, inTurnAt_wf, Res.Canon]

theorem execMma_wf {s : State} (gu : Guard) (la ty : BitVec 4) (sat z : Bool) (d gs : Reg) (ta tb : TReg)
    (abase : BitVec 15) (hs : Mems.wf s.mem = true) : Out.Canon (execMma gu la ty sat z d gs ta tb abase s) := by
  grind [execMma, runsX_wf, mmaBody_wf, Res.Canon, Out.Canon]

theorem execMmac_wf {s : State} (gu : Guard) (la ty : BitVec 4) (sat z : Bool) (d gs : Reg) (ta tb : TReg)
    (abase : BitVec 15) (hs : Mems.wf s.mem = true) : Out.Canon (execMmac gu la ty sat z d gs ta tb abase s) := by
  grind [execMmac, runsX_wf, mmaBody_wf, Res.Canon, Out.Canon]

theorem execMpoll_wf {s : State} (gu : Guard) (d a : Reg) (hs : Mems.wf s.mem = true) : Out.Canon (execMpoll gu d a s) := by
  grind [execMpoll, inTurnAt_wf, dst_wf, accepted_wf, runsX_wf, Res.Canon, Out.Canon]

theorem mwaitEnd_wf {s : State} (d : Reg) (x : Word) (hs : Mems.wf s.mem = true) : Res.Canon (mwaitEnd d x s) := by
  grind [mwaitEnd, dst_wf, Res.Canon]

theorem execMwait_wf {s : State} (gu : Guard) (d a : Reg) (hs : Mems.wf s.mem = true) : Out.Canon (execMwait gu d a s) := by
  grind [execMwait, inTurnAt_wf, mwaitEnd_wf, accepted_wf, runsX_wf, Res.Canon, Out.Canon]

theorem dropJob_wf {s : State} (bks : List ℕ) (id : ℕ) (hs : Mems.wf s.mem = true) :
    Mems.wf (State.dropJob s bks id).mem = true := by
  unfold State.dropJob
  refine foldl_keeps (fun t : State => Mems.wf t.mem = true) (fun t bk (ht : Mems.wf t.mem = true) => ?_) bks hs
  exact settleClears_wf bk (by exact ht)

theorem moveBody_wf {s : State} (chk : State → Res ⊕ Job) (perf : Job → State → State) (hs : Mems.wf s.mem = true)
    (hc : ∀ r, chk s = .inl r → r.Canon) (hp : ∀ j t, Mems.wf t.mem = true → Mems.wf (perf j t).mem = true)
    : Res.Canon (moveBody chk perf s) := by
  grind [moveBody, dropJob_wf, inTurnAt_wf, fresh_wf, accepted_wf, State.updBay_mem, Res.Canon]

theorem runsMove_wf {s : State} (gu : Guard) (rs : List ℕ) (illegal : Bool) (chk : State → Res ⊕ Job)
    (perf : Job → State → State) (hs : Mems.wf s.mem = true) (hc : ∀ r, chk s = .inl r → r.Canon)
    (hp : ∀ j t, Mems.wf t.mem = true → Mems.wf (perf j t).mem = true) : Out.Canon (s.runsMove gu rs illegal chk perf) :=
  runsX_wf _ _ hs (moveBody_wf chk perf hs hc hp)

theorem alcoveTrap_wf {s : State} (abase : ℕ) (hs : Mems.wf s.mem = true) : Res.Canon (State.alcoveTrap s abase) := by
  grind [State.alcoveTrap, Res.Canon]

theorem job_eachRow_wf {s : State} (j : Job) (f : ℕ → State → State) (hs : Mems.wf s.mem = true)
    (hf : ∀ r t, Mems.wf t.mem = true → Mems.wf (f r t).mem = true) : Mems.wf (j.eachRow s f).mem = true := by
  unfold Job.eachRow
  exact foldl_keeps (fun t : State => Mems.wf t.mem = true) (fun t r ht => hf r t ht) _ hs

theorem execAmov_wf {s : State} (gu : Guard) (t : TReg) (toa : Bool) (abase : BitVec 15) (hs : Mems.wf s.mem = true) :
    Out.Canon (execAmov gu t toa abase s) := by
  unfold execAmov
  refine runsMove_wf _ _ _ _ _ hs ?_ ?_
  · grind [shape_wf, alcoveTrap_wf]
  · intro j t ht
    exact job_eachRow_wf j _ ht (by grind [putTileRow_wf, putAlcove_wf])

theorem execAmovt_wf {s : State} (gu : Guard) (t : TReg) (abase : BitVec 15) (hs : Mems.wf s.mem = true) :
    Out.Canon (execAmovt gu t abase s) := by
  unfold execAmovt
  refine runsMove_wf _ _ _ _ _ hs ?_ ?_
  · grind [shape_wf, alcoveTrap_wf]
  · intro j t ht
    refine job_eachRow_wf j _ ht fun r u hu => putTileRow_wf ?_ _ _ _ _ _ _
    exact foldl_keeps (fun t : State => Mems.wf t.mem = true) (fun u c hu => putTileRow_wf hu _ _ _ _ _ _) _ hu

theorem execAzero_wf {s : State} (gu : Guard) (a : Reg) (abase : BitVec 15) (hs : Mems.wf s.mem = true) :
    Out.Canon (execAzero gu a abase s) := by
  unfold execAzero
  refine runsMove_wf _ _ _ _ _ hs ?_ ?_
  · grind [alcoveTrap_wf]
  · exact fun j t ht => Mems.set_alcove ht (SMap.clear_wf _ _ (Mems.alcove_wf ht))

theorem execAfin_wf {s : State} (gu : Guard) (ty acc : BitVec 4) (rm : BitVec 3) (sat : Bool) (t : TReg) (abase : BitVec 15)
    (hs : Mems.wf s.mem = true) : Out.Canon (execAfin gu ty acc rm sat t abase s) := by
  unfold execAfin
  refine runsMove_wf _ _ _ _ _ hs ?_ ?_
  · grind [shape_wf, alcoveTrap_wf]
  · intro j t ht
    refine job_eachRow_wf j _ ht fun r u hu => ?_
    exact foldl_keeps (fun t : State => Mems.wf t.mem = true) (fun u c hu => raise_wf _ (putTileRow_wf hu _ _ _ _ _ _)) _ hu

end Sys2Proof.Machine
end

section
/-!
SUPPORT. Canonical memory (log entry 3), function by function: bay images, copies, multicast fill and near-memory commands.
-/

namespace Sys2Proof.Machine
set_option Elab.async false

open Sys2Proof

theorem answer_wf {s : State} (d : Reg) (la : BitVec 4) (x : Word) (hs : Mems.wf s.mem = true)
    : Mems.wf (State.answer s d la x).mem = true := by
  grind [State.answer, enterPend_wf]

theorem imageBody_wf {s : State} (acc : Acc) (d a : Reg) (la : BitVec 4) (ready : Bay → Bool)
    (go : List (Elem × Loc) → State → Option (ℕ × State)) (hs : Mems.wf s.mem = true)
    (hg : ∀ l t x t', Mems.wf t.mem = true → go l t = some (x, t') → Mems.wf t'.mem = true) :
    Res.Canon (imageBody acc d a la ready go s) := by
  unfold imageBody
  -- The list of elements is made opaque: nothing may unfold the lines of an image.
  obtain ⟨elems, he⟩ : ∃ elems, elems = imageElems := ⟨_, rfl⟩
  rw [← he]
  clear he
  grind [answer_wf, placeAll_wf, Res.Canon]

theorem putImage_wf (f : ℕ → Byte) (l : List (Elem × Loc)) {s : State} {x : ℕ} {t : State}
    (hs : Mems.wf s.mem = true) (e : State.putImage f l s = some (x, t)) : Mems.wf t.mem = true := by
  induction l generalizing s with
  | nil => grind [State.putImage]
  | cons a l ih =>
    unfold State.putImage at e
    split at e <;> grind [engWrite_wf, locWrite_wf]

theorem execMsave_wf {s : State} (gu : Guard) (la : BitVec 4) (d a : Reg) (hs : Mems.wf s.mem = true)
    : Out.Canon (execMsave gu la d a s) := by
  grind [execMsave, runs_wf, putImage_wf, imageBody_wf, Res.Canon, Out.Canon]

theorem getImage_wf (l : List (Elem × Loc)) (bs : List Byte) {s : State} {x} {t : State} (hs : Mems.wf s.mem = true)
    (e : State.getImage l bs s = some (x, t)) : Mems.wf t.mem = true := by
  induction l generalizing s bs with
  | nil => grind [State.getImage]
  | cons a l ih =>
    unfold State.getImage at e
    split at e <;> grind [engRead_wf]

theorem loadImage_wf {s : State} (bk : ℕ) (img : BayImage) (hs : Mems.wf s.mem = true) :
    Mems.wf (State.loadImage s bk img).mem = true := by
  unfold State.loadImage
  rw [State.updMem_mem, State.updBay_mem]
  exact image_load_wf hs img bk

theorem execMrest_wf {s : State} (gu : Guard) (la : BitVec 4) (d a : Reg) (hs : Mems.wf s.mem = true) :
    Out.Canon (execMrest gu la d a s) := by
  unfold execMrest
  refine runs_wf _ _ hs (imageBody_wf _ _ _ _ _ _ hs ?_)
  grind [loadImage_wf, getImage_wf]

theorem execCpset_wf {s : State} (gu : Guard) (idx : BitVec 4) (a : Reg) (hs : Mems.wf s.mem = true)
    : Out.Canon (execCpset gu idx a s) := by
  grind [execCpset, runs_wf, State.updMe_mem, Out.Canon, Res.Canon]

theorem execCpget_wf {s : State} (gu : Guard) (d : Reg) (idx : BitVec 4) (hs : Mems.wf s.mem = true)
    : Out.Canon (execCpget gu d idx s) := by
  grind [execCpget, dst_wf, runs_wf, Out.Canon, Res.Canon]

theorem cpgoBody_wf {s : State} (d gs : Reg) (la : BitVec 4) (hs : Mems.wf s.mem = true) : Res.Canon (cpgoBody d gs la s) := by
  grind [cpgoBody, takeScores_wf, fresh_wf, dst_wf, State.updBay_mem, pendG_wf, Res.Canon]

theorem execCpgo_wf {s : State} (gu : Guard) (la : BitVec 4) (d gs : Reg) (hs : Mems.wf s.mem = true)
    : Out.Canon (execCpgo gu la d gs s) := by
  grind [execCpgo, cpgoBody_wf, runs_wf, Res.Canon, Out.Canon]

theorem execCpcan_wf {s : State} (gu : Guard) (d a : Reg) (hs : Mems.wf s.mem = true) : Out.Canon (execCpcan gu d a s) := by
  grind [execCpcan, dst_wf, State.updBay_mem, runs_wf, Out.Canon, Res.Canon]

theorem now_res_wf (n : Now) (acc : Acc) (f : ℕ → Loc → State → Res) (hn : n.Canon)
    (hf : ∀ x l t, Mems.wf t.mem = true → (f x l t).Canon) : (n.res acc f).Canon := by
  cases n with
  | ok x l s => exact hf x l s hn
  | trap s c v => exact hn
  | page s v w => exact hn
  | stall => trivial

theorem witness_wf {s : State} (ck pa : ℕ) (ssn : Option (BitVec 48)) (hs : Mems.wf s.mem = true) :
    Mems.wf (State.witness s ck pa ssn).mem = true := by
  cases ssn with
  | none => exact hs
  | some n => exact hs

theorem keepOut_wf {s : State} (bk : ℕ) (f : ℕ → Bool) (hs : Mems.wf s.mem = true) :
    Mems.wf (s.keepOut bk f).mem = true := hs

theorem leaveU_wf {s : State} (bk line : ℕ) (hs : Mems.wf s.mem = true) {t : State} (e : State.leaveU s bk line = some t)
    : Mems.wf t.mem = true := by
  grind [State.leaveU, loseU_wf, combine_wf]

theorem l1Room_wf {s : State} (bk line : ℕ) (hs : Mems.wf s.mem = true) {t : State} (e : State.l1Room s bk line = some t)
    : Mems.wf t.mem = true := by
  grind [State.l1Room, leaveU_wf, State.updBay_mem]

theorem l1Bring_wf {s : State} (bk line : ℕ) (fresh : Bool) (d : Vec) (poison : Bool) (ssn : BitVec 48) (low : Bool)
    (hs : Mems.wf s.mem = true) {t : State} (e : State.l1Bring s bk line fresh d poison ssn low = some t) :
    Mems.wf t.mem = true := by
  have hu : ∀ (u : State) f, Mems.wf u.mem = true → Mems.wf (u.updBay bk f).mem = true := fun u f hu => by rwa [State.updBay_mem]
  unfold State.l1Bring at e
  split_ifs at e
  · obtain rfl := Option.some.inj e
    exact hs
  · obtain rfl := Option.some.inj e
    exact hu _ _ hs
  · obtain rfl := Option.some.inj e
    exact hs
  · obtain ⟨u, hr, rfl⟩ := Option.map_eq_some_iff.mp e
    exact hu _ _ (l1Room_wf bk line hs hr)

theorem l1Sync_wf {s : State} (bk line : ℕ) (hs : Mems.wf s.mem = true) :
    Mems.wf (State.l1Sync s bk line).mem = true := by
  unfold State.l1Sync
  refine keepOut_wf bk _ ?_
  split
  · exact hs
  · next c _ =>
    cases hb : s.l1Bring bk line false c.data c.poison (s.slice (homeSlice (line * 128))).ssn false with
    | none => exact hs
    | some t => exact l1Bring_wf bk line _ _ _ _ _ hs hb

theorem nowDone_wf {s : State} (pa : ℕ) (hs : Mems.wf s.mem = true) : Mems.wf (State.nowDone s pa).mem = true := by
  grind [State.nowDone, l1Sync_wf, witness_wf]

theorem noteReach_wf {s : State} (ck : ℕ) (l : Loc) (n : ℕ) (hs : Mems.wf s.mem = true) :
    Mems.wf (State.noteReach s ck l n).mem = true := by
  unfold State.noteReach
  split
  · exact hs
  · exact hs

theorem nowAt_wf {s : State} (l : Loc) (n : ℕ) (a : Word) (kind : ℕ) (write : Bool) (h : Hint) (hs : Mems.wf s.mem = true) :
    Now.Canon (State.nowAt s l n a kind write h) := by
  unfold State.nowAt
  split
  · trivial
  · split <;> grind [check_wf, nowDone_wf, lineRead_wf, noteReach_wf, Now.Canon]

theorem nowRead_wf {s : State} (a : Word) (n : ℕ) (acc : Acc) (kind : ℕ) (write : Bool) (h : Hint)
    (hs : Mems.wf s.mem = true) : Now.Canon (State.nowRead s a n acc kind write h) := by
  grind [State.nowRead, place_wf, nowAt_wf, Now.Canon]

theorem execSealr_wf {s : State} (gu : Guard) (la : BitVec 4) (d a : Reg) (hs : Mems.wf s.mem = true)
    : Out.Canon (execSealr gu la d a s) := by
  grind [execSealr, answer_wf, nowRead_wf, now_res_wf, storeElems_wf, runs_wf, sysWrite_wf, Res.Canon, Now.Canon,
    Out.Canon]

theorem fillPages_wf {s : State} (va : Word) (n k : ℕ) (hs : Mems.wf s.mem = true) :
    Mems.wf (State.fillPages s va n k).2.2.mem = true := by
  induction k with
  | zero => exact hs
  | succ k ih => grind [State.fillPages, translate_wf]

theorem mfillBody_wf {s : State} (h : Hint) (d a b c : Reg) (la : BitVec 4) (count : ℕ) (hs : Mems.wf s.mem = true)
    : Res.Canon (mfillBody h d a b c la count s) := by
  grind [mfillBody, answer_wf, takeScores_wf, fresh_wf, fillPages_wf, pendG_wf, Res.Canon]

theorem execMfill_wf {s : State} (gu : Guard) (la : BitVec 4) (rh : Hint) (d a b c : Reg) (count : BitVec 24)
    (hs : Mems.wf s.mem = true) : Out.Canon (execMfill gu la rh d a b c count s) := by
  grind [execMfill, runs_wf, mfillBody_wf, Res.Canon, Out.Canon]

theorem nmPlaces_wf {s : State} (rs : List (Word × ℕ × BitVec 2)) (hs : Mems.wf s.mem = true) :
    Mems.wf (State.nmPlaces s rs).2.2.mem = true := by
  induction rs generalizing s with
  | nil => exact hs
  | cons r rs ih => grind [State.nmPlaces, translate_wf]

theorem nmRefused_wf {s : State} (rs : List NmRange) (hs : Mems.wf s.mem = true) :
    Mems.wf (State.nmRefused s rs).2.mem = true := by
  induction rs generalizing s with
  | nil => exact hs
  | cons r rs ih => grind [State.nmRefused, check_wf]

theorem nmcmdOn_wf {s : State} (d : Reg) (la : BitVec 4) (b : NmBlk) (hs : Mems.wf s.mem = true)
    : Res.Canon (nmcmdOn d la b s) := by
  grind [nmcmdOn, answer_wf, nmPlaces_wf, fresh_wf, nmRefused_wf, pendG_wf, Res.Canon]

theorem execNmcmd_wf {s : State} (gu : Guard) (la : BitVec 4) (d a : Reg) (hs : Mems.wf s.mem = true)
    : Out.Canon (execNmcmd gu la d a s) := by
  grind [execNmcmd, nowRead_wf, now_res_wf, runs_wf, nmcmdOn_wf, Res.Canon, Now.Canon, Out.Canon]

theorem execNmask_wf {s : State} (gu : Guard) (d a b : Reg) (thr : BitVec 24) (hs : Mems.wf s.mem = true)
    : Out.Canon (execNmask gu d a b thr s) := by
  grind [execNmask, dst_wf, runs_wf, Out.Canon, Res.Canon]

end Sys2Proof.Machine
end

section
/-!
SUPPORT. Canonical memory (log entry 3), function by function: atomics, barriers, counters and tasks.
-/

namespace Sys2Proof.Machine
set_option Elab.async false

open Sys2Proof

theorem atomicReq_wf {s : State} (d : Reg) (la : BitVec 4) (r : Req) (acc : Acc) (write : Bool)
    (hs : Mems.wf s.mem = true) : Res.Canon (State.atomicReq s d la r acc write) := by
  grind [State.atomicReq, place_wf, enterPend_wf, send_wf, Res.Canon]

theorem execAmo_wf {s : State} (gu : Guard) (la ty : BitVec 4) (op : RmwOp) (h : Hint) (d a b c : Reg) (len : ℕ)
    (off : Word) (hs : Mems.wf s.mem = true) : Out.Canon (execAmo gu la ty op h d a b c len off s) := by
  grind [execAmo, atomicReq_wf, runs_wf, Res.Canon, Out.Canon]

theorem execAmoadd_wf {s : State} (gu : Guard) (la ty : BitVec 4) (sat : Bool) (rh : Hint) (d a b : Reg) (imm : BitVec 24)
    (hs : Mems.wf s.mem = true) : Out.Canon (execAmoadd gu la ty sat rh d a b imm s) := by
  grind [execAmoadd, execAmo_wf, Out.Canon]

theorem execAmoaddLiteral_wf {s : State} (gu : Guard) (la ty : BitVec 4) (sat : Bool) (rh : Hint) (d a b : Reg)
    (lit : BitVec 64) (hs : Mems.wf s.mem = true) : Out.Canon (execAmoaddLiteral gu la ty sat rh d a b lit s) := by
  grind [execAmoaddLiteral, execAmo_wf, Out.Canon]

theorem execAmomin_wf {s : State} (gu : Guard) (la ty : BitVec 4) (rh : Hint) (d a b : Reg) (imm : BitVec 24)
    (hs : Mems.wf s.mem = true) : Out.Canon (execAmomin gu la ty rh d a b imm s) := by
  grind [execAmomin, execAmo_wf, Out.Canon]

theorem execAmominLiteral_wf {s : State} (gu : Guard) (la ty : BitVec 4) (rh : Hint) (d a b : Reg) (lit : BitVec 64)
    (hs : Mems.wf s.mem = true) : Out.Canon (execAmominLiteral gu la ty rh d a b lit s) := by
  grind [execAmominLiteral, execAmo_wf, Out.Canon]

theorem execAmomax_wf {s : State} (gu : Guard) (la ty : BitVec 4) (rh : Hint) (d a b : Reg) (imm : BitVec 24)
    (hs : Mems.wf s.mem = true) : Out.Canon (execAmomax gu la ty rh d a b imm s) := by
  grind [execAmomax, execAmo_wf, Out.Canon]

theorem execAmomaxLiteral_wf {s : State} (gu : Guard) (la ty : BitVec 4) (rh : Hint) (d a b : Reg) (lit : BitVec 64)
    (hs : Mems.wf s.mem = true) : Out.Canon (execAmomaxLiteral gu la ty rh d a b lit s) := by
  grind [execAmomaxLiteral, execAmo_wf, Out.Canon]

theorem execAmoand_wf {s : State} (gu : Guard) (la ty : BitVec 4) (rh : Hint) (d a b : Reg) (imm : BitVec 24)
    (hs : Mems.wf s.mem = true) : Out.Canon (execAmoand gu la ty rh d a b imm s) := by
  grind [execAmoand, execAmo_wf, Out.Canon]

theorem execAmoandLiteral_wf {s : State} (gu : Guard) (la ty : BitVec 4) (rh : Hint) (d a b : Reg) (lit : BitVec 64)
    (hs : Mems.wf s.mem = true) : Out.Canon (execAmoandLiteral gu la ty rh d a b lit s) := by
  grind [execAmoandLiteral, execAmo_wf, Out.Canon]

theorem execAmoor_wf {s : State} (gu : Guard) (la ty : BitVec 4) (rh : Hint) (d a b : Reg) (imm : BitVec 24)
    (hs : Mems.wf s.mem = true) : Out.Canon (execAmoor gu la ty rh d a b imm s) := by
  grind [execAmoor, execAmo_wf, Out.Canon]

theorem execAmoorLiteral_wf {s : State} (gu : Guard) (la ty : BitVec 4) (rh : Hint) (d a b : Reg) (lit : BitVec 64)
    (hs : Mems.wf s.mem = true) : Out.Canon (execAmoorLiteral gu la ty rh d a b lit s) := by
  grind [execAmoorLiteral, execAmo_wf, Out.Canon]

theorem execAmoxor_wf {s : State} (gu : Guard) (la ty : BitVec 4) (rh : Hint) (d a b : Reg) (imm : BitVec 24)
    (hs : Mems.wf s.mem = true) : Out.Canon (execAmoxor gu la ty rh d a b imm s) := by
  grind [execAmoxor, execAmo_wf, Out.Canon]

theorem execAmoxorLiteral_wf {s : State} (gu : Guard) (la ty : BitVec 4) (rh : Hint) (d a b : Reg) (lit : BitVec 64)
    (hs : Mems.wf s.mem = true) : Out.Canon (execAmoxorLiteral gu la ty rh d a b lit s) := by
  grind [execAmoxorLiteral, execAmo_wf, Out.Canon]

theorem execAmoswp_wf {s : State} (gu : Guard) (la ty : BitVec 4) (rh : Hint) (d a b : Reg) (imm : BitVec 24)
    (hs : Mems.wf s.mem = true) : Out.Canon (execAmoswp gu la ty rh d a b imm s) := by
  grind [execAmoswp, execAmo_wf, Out.Canon]

theorem execAmoswpLiteral_wf {s : State} (gu : Guard) (la ty : BitVec 4) (rh : Hint) (d a b : Reg) (lit : BitVec 64)
    (hs : Mems.wf s.mem = true) : Out.Canon (execAmoswpLiteral gu la ty rh d a b lit s) := by
  grind [execAmoswpLiteral, execAmo_wf, Out.Canon]

theorem execAmocas_wf {s : State} (gu : Guard) (la ty : BitVec 4) (rh : Hint) (d a b c : Reg) (imm : BitVec 24)
    (hs : Mems.wf s.mem = true) : Out.Canon (execAmocas gu la ty rh d a b c imm s) := by
  grind [execAmocas, execAmo_wf, Out.Canon]

theorem execAmocasLiteral_wf {s : State} (gu : Guard) (la ty : BitVec 4) (rh : Hint) (d a b c : Reg) (lit : BitVec 64)
    (hs : Mems.wf s.mem = true) : Out.Canon (execAmocasLiteral gu la ty rh d a b c lit s) := by
  grind [execAmocasLiteral, execAmo_wf, Out.Canon]

theorem reduceRoom_wf {s : State} (pa : ℕ) (hs : Mems.wf s.mem = true) {t : State} (e : State.reduceRoom s pa = some t)
    : Mems.wf t.mem = true := by
  grind [State.reduceRoom, l1Room_wf]

theorem l1Clean_wf {s : State} (bk : ℕ) (f : ℕ → Bool) (hs : Mems.wf s.mem = true) :
    Mems.wf (s.l1Clean bk f).mem = true := hs

theorem openU_wf {s : State} (bk : ℕ) (u : ULine) (hs : Mems.wf s.mem = true) : Mems.wf (State.openU s bk u).mem = true := by
  grind [State.openU, State.updBay_mem, State.setSlice_mem, l1Clean_wf]

theorem reduceGlob_wf {s : State} (r : Req) (pa : ℕ) (hs : Mems.wf s.mem = true)
    : Mems.wf (State.reduceGlob s r pa).mem = true := by
  grind [State.reduceGlob, combine_wf, openU_wf, addFail_wf, State.updBay_mem, send_wf]

theorem reduceBody_wf {s : State} (r : Req) (hs : Mems.wf s.mem = true) : Res.Canon (reduceBody r s) := by
  have hp := place_wf 3 false r.va hs
  unfold reduceBody
  split
  · exact hs
  · generalize s.place 3 false r.va = q at hp ⊢
    obtain ⟨g, t⟩ := q
    cases g with
    | trap c v => exact hs
    | sys _ => exact hs
    | page v w => exact hp
    | wait => trivial
    | loc l =>
      dsimp only
      split
      · exact hs
      · split
        · trivial
        · split <;> grind [addFail_wf, check_wf, reduceRoom_wf, reduceGlob_wf, send_wf, Res.Canon]

theorem execRd_wf {s : State} (gu : Guard) (ty n : ℕ) (op : ReqOp) (h : Hint) (a b : Reg) (len : ℕ) (off : Word)
    (hs : Mems.wf s.mem = true) : Out.Canon (execRd gu ty n op h a b len off s) := by
  grind [execRd, runs_wf, reduceBody_wf, Res.Canon, Out.Canon]

theorem execRdadd_wf {s : State} (gu : Guard) (ty : BitVec 4) (rh : Hint) (a b : Reg) (imm : BitVec 24)
    (hs : Mems.wf s.mem = true) : Out.Canon (execRdadd gu ty rh a b imm s) := by
  grind [execRdadd, execRd_wf, Out.Canon]

theorem execRdaddLiteral_wf {s : State} (gu : Guard) (ty : BitVec 4) (rh : Hint) (a b : Reg) (lit : BitVec 64)
    (hs : Mems.wf s.mem = true) : Out.Canon (execRdaddLiteral gu ty rh a b lit s) := by
  grind [execRdaddLiteral, execRd_wf, Out.Canon]

theorem execRdmin_wf {s : State} (gu : Guard) (ty : BitVec 4) (rh : Hint) (a b : Reg) (imm : BitVec 24)
    (hs : Mems.wf s.mem = true) : Out.Canon (execRdmin gu ty rh a b imm s) := by
  grind [execRdmin, execRd_wf, Out.Canon]

theorem execRdminLiteral_wf {s : State} (gu : Guard) (ty : BitVec 4) (rh : Hint) (a b : Reg) (lit : BitVec 64)
    (hs : Mems.wf s.mem = true) : Out.Canon (execRdminLiteral gu ty rh a b lit s) := by
  grind [execRdminLiteral, execRd_wf, Out.Canon]

theorem execRdmax_wf {s : State} (gu : Guard) (ty : BitVec 4) (rh : Hint) (a b : Reg) (imm : BitVec 24)
    (hs : Mems.wf s.mem = true) : Out.Canon (execRdmax gu ty rh a b imm s) := by
  grind [execRdmax, execRd_wf, Out.Canon]

theorem execRdmaxLiteral_wf {s : State} (gu : Guard) (ty : BitVec 4) (rh : Hint) (a b : Reg) (lit : BitVec 64)
    (hs : Mems.wf s.mem = true) : Out.Canon (execRdmaxLiteral gu ty rh a b lit s) := by
  grind [execRdmaxLiteral, execRd_wf, Out.Canon]

theorem execXadd_wf {s : State} (gu : Guard) (ty : BitVec 4) (rh : Hint) (a b : Reg) (imm : BitVec 24)
    (hs : Mems.wf s.mem = true) : Out.Canon (execXadd gu ty rh a b imm s) := by
  grind [execXadd, execRd_wf, Out.Canon]

theorem execXaddLiteral_wf {s : State} (gu : Guard) (ty : BitVec 4) (rh : Hint) (a b : Reg) (lit : BitVec 64)
    (hs : Mems.wf s.mem = true) : Out.Canon (execXaddLiteral gu ty rh a b lit s) := by
  grind [execXaddLiteral, execRd_wf, Out.Canon]

theorem readSlot64_wf {s : State} (h : Hint) (a : Word) (n : ℕ) (hs : Mems.wf s.mem = true) :
    Now.Canon (State.readSlot64 s h a n) := by
  induction n with
  | zero => exact hs
  | succ n ih =>
    unfold State.readSlot64
    grind [nowRead_wf, Now.Canon]

theorem execRound_wf {s : State} (gu : Guard) (la ty : BitVec 4) (rm : BitVec 3) (sat : Bool) (h : Hint) (d a : Reg)
    (x64 clr : Bool) (len : ℕ) (off : Word) (hs : Mems.wf s.mem = true)
    : Out.Canon (execRound gu la ty rm sat h d a x64 clr len off s) := by
  grind [execRound, atomicReq_wf, readSlot64_wf, now_res_wf, enterPend_wf, runs_wf, Res.Canon, Now.Canon, Out.Canon]

theorem execXrnd_wf {s : State} (gu : Guard) (la ty : BitVec 4) (rm : BitVec 3) (sat : Bool) (rh : Hint) (d a : Reg)
    (x64 clr : Bool) (imm : BitVec 24) (hs : Mems.wf s.mem = true)
    : Out.Canon (execXrnd gu la ty rm sat rh d a x64 clr imm s) := by
  grind [execXrnd, execRound_wf, Out.Canon]

theorem execXrndLiteral_wf {s : State} (gu : Guard) (la ty : BitVec 4) (rm : BitVec 3) (sat : Bool) (rh : Hint)
    (d a : Reg) (x64 clr : Bool) (lit : BitVec 64) (hs : Mems.wf s.mem = true)
    : Out.Canon (execXrndLiteral gu la ty rm sat rh d a x64 clr lit s) := by
  grind [execXrndLiteral, execRound_wf, Out.Canon]

theorem pbinitBody_wf {s : State} (d : Reg) (la : BitVec 4) (a b c : Reg) (hs : Mems.wf s.mem = true)
    : Res.Canon (pbinitBody d la a b c s) := by
  grind [pbinitBody, answer_wf, noteReach_wf, locWrite_wf, State.setTile_mem, Res.Canon]

theorem execPbinit_wf {s : State} (gu : Guard) (la : BitVec 4) (d a b c : Reg) (hs : Mems.wf s.mem = true)
    : Out.Canon (execPbinit gu la d a b c s) := by
  grind [execPbinit, pbinitBody_wf, runs_wf, Res.Canon, Out.Canon]

theorem contribute_wf {s : State} (q : Contrib) (hs : Mems.wf s.mem = true) : Mems.wf (State.contribute s q).mem = true := by
  grind [State.contribute, State.updTile_mem]

theorem execPbarr_wf {s : State} (gu : Guard) (la : BitVec 4) (d a : Reg) (hs : Mems.wf s.mem = true)
    : Out.Canon (execPbarr gu la d a s) := by
  grind [execPbarr, runs_wf, pendG_wf, contribute_wf, Out.Canon, Res.Canon]

theorem execPbexp_wf {s : State} (gu : Guard) (a b : Reg) (hs : Mems.wf s.mem = true) : Out.Canon (execPbexp gu a b s) := by
  grind [execPbexp, runs_wf, contribute_wf, Out.Canon, Res.Canon]

theorem execPbwait_wf {s : State} (gu : Guard) (d a b : Reg) (hs : Mems.wf s.mem = true)
    : Out.Canon (execPbwait gu d a b s) := by
  grind [execPbwait, noteReach_wf, dst_wf, runs_wf, Out.Canon, Res.Canon]

theorem execWait_wf {s : State} (gu : Guard) (la : BitVec 4) (d a b : Reg) (len : ℕ) (off : Word)
    (hs : Mems.wf s.mem = true) : Out.Canon (execWait gu la d a b len off s) := by
  grind [execWait, answer_wf, nowRead_wf, now_res_wf, State.updTile_mem, runs_wf, pendG_wf, Res.Canon, Now.Canon,
    Out.Canon]

theorem execWaita_wf {s : State} (gu : Guard) (la : BitVec 4) (d a b : Reg) (imm : BitVec 24) (hs : Mems.wf s.mem = true)
    : Out.Canon (execWaita gu la d a b imm s) := by
  grind [execWaita, execWait_wf, Out.Canon]

theorem execWaitaLiteral_wf {s : State} (gu : Guard) (la : BitVec 4) (d a b : Reg) (lit : BitVec 64)
    (hs : Mems.wf s.mem = true) : Out.Canon (execWaitaLiteral gu la d a b lit s) := by
  grind [execWaitaLiteral, execWait_wf, Out.Canon]

theorem pushTask_wf {s : State} (tile cls : ℕ) (r : Rec) (hs : Mems.wf s.mem = true)
    : Mems.wf (State.pushTask s tile cls r).mem = true := by
  grind [State.pushTask, putRec_wf, State.setTile_mem]

theorem deliver_wf {s : State} (ck id : ℕ) (x : Word) (hs : Mems.wf s.mem = true)
    : Mems.wf (State.deliver s ck id x).mem = true := by
  grind [State.deliver, State.updCore_mem]

theorem wakeWaita_wf {s : State} (ck : ℕ) (hs : Mems.wf s.mem = true) :
    Mems.wf (State.wakeWaita s ck).mem = true := by
  unfold State.wakeWaita
  dsimp only
  split
  · exact hs
  · refine foldl_keeps (fun t : State => Mems.wf t.mem = true) (fun t m ht => ?_) _ (by exact hs)
    exact deliver_wf ck m.pend 0 ht

theorem wakeCore_wf {s : State} (ck : ℕ) (hs : Mems.wf s.mem = true) : Mems.wf (State.wakeCore s ck).mem = true := by
  grind [State.wakeCore, wakeWaita_wf, State.updCore_mem]

theorem fire_wf {s : State} (tile : ℕ) (a : ArmAct) (hs : Mems.wf s.mem = true) {t : State}
    (e : State.fire s tile a = some t) : Mems.wf t.mem = true := by
  unfold State.fire at e
  cases a with
  | task r => grind [pushTask_wf]
  | wake ck => grind [wakeCore_wf]
  | msg ck r =>
    dsimp only at e
    split at e
    · cases e
    · exact postHandler_wf _ _ _ hs e

theorem armBody_wf {s : State} (d : Reg) (la : BitVec 4) (thr : Word) (k o : ℕ) (act : ArmAct) (hs : Mems.wf s.mem = true)
    : Res.Canon (armBody d la thr k o act s) := by
  grind [armBody, fire_wf, answer_wf, noteReach_wf, State.setTile_mem, Res.Canon]

theorem readRec_wf {s : State} (a : Word) (f : Rec → State → Res) (hs : Mems.wf s.mem = true)
    (hf : ∀ x t, Mems.wf t.mem = true → (f x t).Canon) : Res.Canon (s.readRec a f) := by
  grind [State.readRec, now_res_wf, nowRead_wf, Res.Canon]

theorem execCtarm_wf {s : State} (gu : Guard) (la : BitVec 4) (kind : BitVec 3) (d a b c : Reg)
    (hs : Mems.wf s.mem = true) : Out.Canon (execCtarm gu la kind d a b c s) := by
  grind [execCtarm, readRec_wf, armBody_wf, runs_wf, Res.Canon, Out.Canon]

theorem fireAll_wf {s : State} (tile : ℕ) (l : List Arm) (hs : Mems.wf s.mem = true) {t : State}
    (e : State.fireAll tile l s = some t) : Mems.wf t.mem = true := by
  induction l generalizing s with
  | nil => grind [State.fireAll]
  | cons a l ih => grind [State.fireAll, fire_wf]

theorem execCtinc_wf {s : State} (gu : Guard) (la : BitVec 4) (d a b : Reg) (hs : Mems.wf s.mem = true)
    : Out.Canon (execCtinc gu la d a b s) := by
  grind [execCtinc, answer_wf, noteReach_wf, locWrite_wf, State.setTile_mem, runs_wf, fireAll_wf, Out.Canon, Res.Canon]

theorem fenceDrop_wf {s : State} (scope : ℕ) (hs : Mems.wf s.mem = true) : Mems.wf (State.fenceDrop s scope).mem = true := by
  grind [State.fenceDrop, l1Clean_wf]

theorem fenceBody_wf {s : State} (d : Reg) (scope kind : ℕ) (hs : Mems.wf s.mem = true)
    : Res.Canon (fenceBody d scope kind s) := by
  grind [fenceBody, fenceDrop_wf, dst_wf, State.updBay_mem, State.updMe_mem, Res.Canon]

theorem execFence_wf {s : State} (gu : Guard) (d : Reg) (scope kind : BitVec 3) (hs : Mems.wf s.mem = true)
    : Out.Canon (execFence gu d scope kind s) := by
  grind [execFence, fenceBody_wf, runs_wf, Res.Canon, Out.Canon]

theorem execFenceInst_wf {s : State} (gu : Guard) (d : Reg) (scope : BitVec 3) (hs : Mems.wf s.mem = true)
    : Out.Canon (execFenceInst gu d scope s) := by
  grind [execFenceInst, fenceBody_wf, runs_wf, Res.Canon, Out.Canon]

theorem inlineChild_wf {s : State} (d : Reg) (r : Rec) (hs : Mems.wf s.mem = true)
    : Mems.wf (State.inlineChild s d r).mem = true := by
  grind [State.inlineChild, dst_wf, State.updMe_mem]

theorem now_resWait_wf {s : State} (n : Now) (acc : Acc) (f : ℕ → Loc → State → Res) (hs : Mems.wf s.mem = true)
    (hn : n.Canon) (hf : ∀ x l t, Mems.wf t.mem = true → (f x l t).Canon) : (n.resWait s acc f).Canon := by
  cases n with
  | ok x l s => exact hf x l s hn
  | trap s c v => exact hn
  | page s v w => exact hn
  | stall => exact hs

theorem spawnBody_wf {s : State} (u : Uses) (d a b : Reg) (hs : Mems.wf s.mem = true) : Res.Canon (spawnBody u d a b s) := by
  grind [spawnBody, nowRead_wf, now_resWait_wf, storeElems_wf, dst_wf, sysWrite_wf, State.updMe_mem, inlineChild_wf,
    Res.Canon, Now.Canon]

theorem execSpawn_wf {s : State} (gu : Guard) (d a b : Reg) (hs : Mems.wf s.mem = true) : Out.Canon (execSpawn gu d a b s) := by
  grind [execSpawn, runs_wf, spawnBody_wf, Res.Canon, Out.Canon]

theorem execSend_wf {s : State} (gu : Guard) (la : BitVec 4) (h : Bool) (d a b : Reg) (hs : Mems.wf s.mem = true)
    : Out.Canon (execSend gu la h d a b s) := by
  grind [execSend, readRec_wf, State.updTile_mem, runs_wf, pendG_wf, Res.Canon, Out.Canon]

theorem readFrame_wf {s : State} (base : Word) (n : ℕ) (hs : Mems.wf s.mem = true) :
    Now.Canon (State.readFrame s base n) := by
  induction n with
  | zero => exact hs
  | succ n ih =>
    unfold State.readFrame
    grind [nowRead_wf, Now.Canon]

theorem returnFrame_wf {s : State} (base : Word) (hs : Mems.wf s.mem = true) : Now.Canon (State.returnFrame s base) := by
  grind [State.returnFrame, readFrame_wf, Now.Canon]

theorem endTask_wf {s : State} (inline : Bool) (base : Word) (x : ℕ) (hs : Mems.wf s.mem = true)
    : Res.Canon (State.endTask s inline base x) := by
  grind [State.endTask, State.updMe_mem, Res.Canon]

theorem writeAt_wf {s : State} (l : Loc) (n x : ℕ) (h : Hint) (hs : Mems.wf s.mem = true) :
    Mems.wf (State.writeAt s l n x h).2.mem = true := by
  unfold State.writeAt
  split
  · exact lineWrite_wf hs _ _ _ _
  · exact locWrite_wf hs _ _ _

theorem nowWrite_wf {s : State} (l : Loc) (n x : ℕ) (hs : Mems.wf s.mem = true)
    : Mems.wf (State.nowWrite s l n x).mem = true := by
  grind [State.nowWrite, writeAt_wf, nowDone_wf]

theorem badJoin_wf {s : State} (a : Word) (hs : Mems.wf s.mem = true) : Mems.wf (State.badJoin s a).mem = true := by
  grind [State.badJoin, cancelHall_wf, postService_wf, State.updTile_mem, Posted.Canon]

theorem joinFire_wf {s : State} (a target : Word) (r : Rec) (hs : Mems.wf s.mem = true)
    : Mems.wf (State.joinFire s a target r).mem = true := by
  grind [State.joinFire, badJoin_wf]

theorem joinStep_wf {s : State} (a : Word) (l : Loc) (x : ℕ) (add : Option ℕ) (hs : Mems.wf s.mem = true) :
    Mems.wf (State.joinStep s a l x add).2.mem = true := by
  unfold State.joinStep
  dsimp only
  split_ifs <;> grind [nowWrite_wf, joinFire_wf]

theorem tendBody_wf {s : State} (hs : Mems.wf s.mem = true) : Res.Canon (tendBody s) := by
  grind [tendBody, returnFrame_wf, nowRead_wf, now_resWait_wf, endTask_wf, joinStep_wf, Res.Canon, Now.Canon]

theorem execTend_wf {s : State} (gu : Guard) (hs : Mems.wf s.mem = true) : Out.Canon (execTend gu s) := by
  grind [execTend, tendBody_wf, runs_wf, Res.Canon, Out.Canon]

theorem joinBody_wf {s : State} (d a : Reg) (la : BitVec 4) (add : Option ℕ) (hs : Mems.wf s.mem = true)
    : Res.Canon (joinBody d a la add s) := by
  grind [joinBody, answer_wf, nowRead_wf, now_res_wf, joinStep_wf, Res.Canon, Now.Canon]

theorem execCont_wf {s : State} (gu : Guard) (la : BitVec 4) (d a b : Reg) (hs : Mems.wf s.mem = true)
    : Out.Canon (execCont gu la d a b s) := by
  grind [execCont, joinBody_wf, runs_wf, Res.Canon, Out.Canon]

theorem execJdec_wf {s : State} (gu : Guard) (la : BitVec 4) (d a : Reg) (hs : Mems.wf s.mem = true)
    : Out.Canon (execJdec gu la d a s) := by
  grind [execJdec, joinBody_wf, runs_wf, Res.Canon, Out.Canon]

theorem groupBody_wf {s : State} (d a : Reg) (la : BitVec 4) (set : Bool) (hs : Mems.wf s.mem = true)
    : Res.Canon (groupBody d a la set s) := by
  grind [groupBody, answer_wf, noteReach_wf, locWrite_wf, State.setTile_mem, Res.Canon]

theorem execJoin_wf {s : State} (gu : Guard) (la : BitVec 4) (d a : Reg) (hs : Mems.wf s.mem = true)
    : Out.Canon (execJoin gu la d a s) := by
  grind [execJoin, groupBody_wf, runs_wf, Res.Canon, Out.Canon]

theorem execLeave_wf {s : State} (gu : Guard) (la : BitVec 4) (d a : Reg) (hs : Mems.wf s.mem = true)
    : Out.Canon (execLeave gu la d a s) := by
  grind [execLeave, groupBody_wf, runs_wf, Res.Canon, Out.Canon]

theorem execMaskh_wf {s : State} (gu : Guard) (hs : Mems.wf s.mem = true) : Out.Canon (execMaskh gu s) := by
  grind [execMaskh, runs_wf, State.updMe_mem, Out.Canon, Res.Canon]

theorem execUnmaskh_wf {s : State} (gu : Guard) (hs : Mems.wf s.mem = true) : Out.Canon (execUnmaskh gu s) := by
  grind [execUnmaskh, runs_wf, State.updMe_mem, Out.Canon, Res.Canon]

end Sys2Proof.Machine
end

section
/-!
SUPPORT. Canonical memory (log entry 3), function by function: steps, galleries, streams and launches.
-/

namespace Sys2Proof.Machine
set_option Elab.async false

open Sys2Proof

theorem stepWait_wf {s : State} (d : Reg) (k : ℕ) (hs : Mems.wf s.mem = true) : Res.Canon (stepWait d k s) := by
  grind [stepWait, dst_wf, Res.Canon]

theorem shareDone_wf {s : State} (k : ℕ) (hs : Mems.wf s.mem = true) : Mems.wf (State.shareDone s k).mem = true := by
  grind [State.shareDone, State.setTile_mem]

theorem stepBody_wf {s : State} (d : Reg) (hs : Mems.wf s.mem = true) : Res.Canon (stepBody d s) := by
  grind [stepBody, stepWait_wf, shareDone_wf, Res.Canon]

theorem execStep_wf {s : State} (gu : Guard) (d : Reg) (hs : Mems.wf s.mem = true) : Out.Canon (execStep gu d s) := by
  grind [execStep, runs_wf, stepBody_wf, Res.Canon, Out.Canon]

theorem execStepq_wf {s : State} (gu : Guard) (d : Reg) (hs : Mems.wf s.mem = true) : Out.Canon (execStepq gu d s) := by
  grind [execStepq, dst_wf, runs_wf, Out.Canon, Res.Canon]

theorem askTile_wf {s : State} (dst : Option PReg0) (la : BitVec 4) (mask : Vec) (m : GMsg) (hs : Mems.wf s.mem = true)
    : Res.Canon (State.askTile s dst la mask m) := by
  grind [State.askTile, enterPend_wf, Res.Canon]

theorem rgetBody_wf {s : State} (dst : Option PReg0) (la : BitVec 4) (n : ℕ) (sext : Bool) (a : Reg) (dx dy : BitVec 4)
    (off : BitVec 14) (hs : Mems.wf s.mem = true) : Res.Canon (rgetBody dst la n sext a dx dy off s) := by
  grind [rgetBody, loadEnd_wf, startLoad_wf, askTile_wf, Res.Canon]

theorem execRget_wf {s : State} (gu : Guard) (la ty : BitVec 4) (d a : Reg) (dx dy : BitVec 4) (off : BitVec 14)
    (hs : Mems.wf s.mem = true) : Out.Canon (execRget gu la ty d a dx dy off s) := by
  grind [execRget, rgetBody_wf, runs_wf, Res.Canon, Out.Canon]

theorem execRgetv_wf {s : State} (gu : Guard) (la : BitVec 4) (d : VReg) (a : Reg) (dx dy : BitVec 4) (off : BitVec 14)
    (hs : Mems.wf s.mem = true) : Out.Canon (execRgetv gu la d a dx dy off s) := by
  grind [execRgetv, rgetBody_wf, runs_wf, Res.Canon, Out.Canon]

theorem execHallq_wf {s : State} (gu : Guard) (la : BitVec 4) (d a : Reg) (hs : Mems.wf s.mem = true)
    : Out.Canon (execHallq gu la d a s) := by
  grind [execHallq, runs_wf, askTile_wf, Res.Canon, Out.Canon]

theorem setMyQ_wf {s : State} (q : BitVec 3) (y : QReg) (hs : Mems.wf s.mem = true)
    : Mems.wf (State.setMyQ s q y).mem = true := by
  grind [State.setMyQ, State.updMe_mem]

theorem execSring_wf {s : State} (gu : Guard) (d a b : Reg) (q : BitVec 3) (hs : Mems.wf s.mem = true)
    : Out.Canon (execSring gu d a b q s) := by
  grind [execSring, setMyQ_wf, dst_wf, runs_wf, Out.Canon, Res.Canon]

theorem execSbindCons_wf {s : State} (gu : Guard) (d b : Reg) (q : BitVec 3) (hs : Mems.wf s.mem = true)
    : Out.Canon (execSbindCons gu d b q s) := by
  grind [execSbindCons, setMyQ_wf, dst_wf, locWrite_wf, runs_wf, Out.Canon, Res.Canon]

theorem updQ_wf {s : State} (ck q : ℕ) (f : QReg → QReg) (hs : Mems.wf s.mem = true) :
    Mems.wf (s.updQ ck q f).mem = true := hs

theorem bindEnds_wf {s : State} (p q c k : ℕ) (st : QSt) (hs : Mems.wf s.mem = true)
    : Mems.wf (State.bindEnds s p q c k st).mem = true := by
  grind [State.bindEnds, updQ_wf]

theorem execSbindProd_wf {s : State} (gu : Guard) (d b : Reg) (q k : BitVec 3) (hs : Mems.wf s.mem = true)
    : Out.Canon (execSbindProd gu d b q k s) := by
  grind [execSbindProd, dst_wf, runs_wf, bindEnds_wf, Out.Canon, Res.Canon]

theorem execSgain_wf {s : State} (gu : Guard) (d b : Reg) (q : BitVec 3) (hs : Mems.wf s.mem = true)
    : Out.Canon (execSgain gu d b q s) := by
  grind [execSgain, dst_wf, updQ_wf, runs_wf, Out.Canon, Res.Canon]

theorem execSstat_wf {s : State} (gu : Guard) (d : Reg) (q : BitVec 3) (wsel : BitVec 2) (hs : Mems.wf s.mem = true)
    : Out.Canon (execSstat gu d q wsel s) := by
  grind [execSstat, dst_wf, runs_wf, Out.Canon, Res.Canon]

theorem freeQ_wf {s : State} (q : BitVec 3) (hs : Mems.wf s.mem = true) : Mems.wf (State.freeQ s q).mem = true := by
  grind [State.freeQ, setMyQ_wf]

theorem execSunbind_wf {s : State} (gu : Guard) (d : Reg) (q : BitVec 3) (hs : Mems.wf s.mem = true)
    : Out.Canon (execSunbind gu d q s) := by
  grind [execSunbind, dst_wf, updQ_wf, runs_wf, freeQ_wf, Out.Canon, Res.Canon]

theorem dlaunch_wf {s : State} (c : Word) (x : ℕ) (hs : Mems.wf s.mem = true) {r : Word} {t : State}
    (e : State.dlaunch s c x = some (r, t)) : Mems.wf t.mem = true := by
  unfold State.dlaunch at e
  dsimp only at e
  split at e
  · obtain ⟨-, rfl⟩ := e
    exact hs
  · split at e
    · obtain ⟨-, rfl⟩ := e
      exact hs
    · split at e
      · cases e
      · next t' hw =>
        obtain ⟨-, rfl⟩ := e
        have h := engWrite_wf (s := s) hs
        grind [updChan_wf]

theorem execDlaunch_wf {s : State} (gu : Guard) (la : BitVec 4) (d a b : Reg) (hs : Mems.wf s.mem = true) :
    Out.Canon (execDlaunch gu la d a b s) := by
  unfold execDlaunch
  refine runs_wf _ _ hs ?_
  dsimp only
  split
  · exact hs
  · refine now_res_wf _ _ _ (nowRead_wf _ _ _ _ _ _ hs) fun x l t ht => ?_
    grind [dlaunch_wf, answer_wf, Res.Canon]

theorem execColl_wf {s : State} (gu : Guard) (la : BitVec 4) (d a : Reg) (hs : Mems.wf s.mem = true)
    : Out.Canon (execColl gu la d a s) := by
  grind [execColl, fresh_wf, runs_wf, pendG_wf, Out.Canon, Res.Canon]

theorem execRlinv_wf {s : State} (gu : Guard) (d a : Reg) (hs : Mems.wf s.mem = true) : Out.Canon (execRlinv gu d a s) := by
  grind [execRlinv, dst_wf, runs_wf, Out.Canon, Res.Canon]

end Sys2Proof.Machine
end

section
/-!
SUPPORT. Canonical memory (log entry 3), function by function: collectives and their members.
-/

namespace Sys2Proof.Machine
set_option Elab.async false

open Sys2Proof

theorem sendPkt_wf {s : State} (m : Member) (r op : ℕ) (w40 : Word) (off : ℕ) (payload : List Byte) (who : Option (ℕ × ℕ))
    (hs : Mems.wf s.mem = true) : SendRes.Canon (State.sendPkt s m r op w40 off payload who) := by
  grind [State.sendPkt, SendRes.Canon]

theorem trySend_wf {s : State} (m : Member) (r op : ℕ) (payload : List Byte) (hs : Mems.wf s.mem = true)
    : Mems.wf (State.trySend s m r op payload).mem = true := by
  grind [State.trySend, sendPkt_wf, SendRes.Canon]

theorem endEntry_wf {s : State} (ch idx : ℕ) (hs : Mems.wf s.mem = true) : Mems.wf (State.endEntry s ch idx).mem = true := by
  grind [State.endEntry]

theorem msix_wf {s : State} (v : ℕ) (hs : Mems.wf s.mem = true) : Mems.wf (State.msix s v).mem = true := by
  grind [State.msix]

theorem endMember_wf {s : State} (m : Member) (wrote : Bool) (hs : Mems.wf s.mem = true)
    : Mems.wf (State.endMember s m wrote).mem = true := by
  grind [State.endMember, endEntry_wf, msix_wf]

theorem colPa_wf {s : State} (m : Member) (va : ℕ) (acc : Acc) (hs : Mems.wf s.mem = true)
    : Mems.wf (State.colPa s m va acc).2.mem = true := by
  grind [State.colPa, walk_wf]

theorem colWrite_wf {s : State} (m : Member) (o : ColOut) (f : ℕ) (hs : Mems.wf s.mem = true) :
    Mems.wf (State.colWrite s m o f).2.2.mem = true := by
  induction f generalizing s o with
  | zero => exact hs
  | succ f ih =>
    unfold State.colWrite
    grind [colPa_wf, engWrite_wf]

theorem memWrite_wf {s : State} (m : Member) (o : ColOut) (hs : Mems.wf s.mem = true)
    : Mems.wf (State.memWrite s m o).2.2.mem = true := by
  grind [State.memWrite, colWrite_wf]

theorem updMember_wf {s : State} (id : ℕ) (f : Member → Member) (hs : Mems.wf s.mem = true) :
    Mems.wf (s.updMember id f).mem = true := hs

theorem memPage_wf {s : State} (m : Member) (who : MemAcc) (va : Word) (acc why : BitVec 2) (hs : Mems.wf s.mem = true)
    {t : State} (e : State.memPage s m who va acc why = some t) : Mems.wf t.mem = true := by
  grind [State.memPage, postService_wf, updMember_wf, Posted.Canon]

theorem finishWord_wf {s : State} (m : Member) (hs : Mems.wf s.mem = true) :
    Mems.wf (State.finishWord s m).mem = true := by
  unfold State.finishWord
  grind [endMember_wf, memWrite_wf, memPage_wf, getD_wf]

theorem lateFail_wf {s : State} (m : Member) (code : ℕ) (hs : Mems.wf s.mem = true)
    : Mems.wf (State.lateFail s m code).mem = true := by
  grind [State.lateFail, updMember_wf]

theorem dstWrite_wf {s : State} (m : Member) (c : ℕ) (o : ColOut) (hs : Mems.wf s.mem = true) :
    Mems.wf (State.dstWrite s m c o).mem = true := by
  unfold State.dstWrite
  grind [updMember_wf, lateFail_wf, memWrite_wf, memPage_wf, getD_wf]

theorem colRead_wf {s : State} (m : Member) (va n f : ℕ) (hs : Mems.wf s.mem = true) :
    Mems.wf (State.colRead s m va n f).2.mem = true := by
  induction f generalizing s va n with
  | zero => exact hs
  | succ f ih =>
    unfold State.colRead
    grind [colPa_wf, engRead_wf]

theorem memRead_wf {s : State} (m : Member) (va n : ℕ) (hs : Mems.wf s.mem = true)
    : Mems.wf (State.memRead s m va n).2.mem = true := by
  grind [State.memRead, colRead_wf]

theorem finishStep_wf {s : State} (id : ℕ) (hs : Mems.wf s.mem = true) :
    Mems.wf (State.finishStep s id).mem = true := by
  unfold State.finishStep
  split
  · exact hs
  · split
    · exact hs
    · split
      · exact finishWord_wf _ hs
      · split
        · exact lateFail_wf _ _ hs
        · grind [dstWrite_wf, lateFail_wf, memRead_wf, memPage_wf, getD_wf]

theorem finishSteps_wf {s : State} (id n : ℕ) (hs : Mems.wf s.mem = true) :
    Mems.wf (State.finishSteps s id n).mem = true := by
  induction n generalizing s with
  | zero => exact hs
  | succ n ih => exact ih (finishStep_wf id hs)

theorem finishAll_wf {s : State} (id : ℕ) (hs : Mems.wf s.mem = true) : Mems.wf (State.finishAll s id).mem = true := by
  grind [State.finishAll, finishSteps_wf]

theorem memAbort_wf {s : State} (id code : ℕ) (hs : Mems.wf s.mem = true) :
    Mems.wf (State.memAbort s id code).mem = true := by
  unfold State.memAbort
  split
  · exact hs
  · split
    · exact hs
    · exact finishAll_wf id (updMember_wf id _ (fold_wf hs (fun t r ht => trySend_wf _ r 2 _ ht) _))

theorem memHeld_wf {s : State} (m : Member) (hs : Mems.wf s.mem = true) {t : State} (e : State.memHeld s m = some t)
    : Mems.wf t.mem = true := by
  grind [State.memHeld, memAbort_wf]

theorem chunkStep_wf {s : State} (id : ℕ) (go : Member → State) (hs : Mems.wf s.mem = true)
    (hg : ∀ m, Mems.wf (go m).mem = true) : Out.Canon (s.chunkStep id go) := by
  grind [State.chunkStep, memHeld_wf, Out.Canon]

theorem execData_wf {s : State} (kop id : ℕ) (c : ChunkData) (hs : Mems.wf s.mem = true) : Out.Canon (execData kop id c s) := by
  grind [execData, chunkStep_wf, memAbort_wf, updMember_wf, Out.Canon]

theorem execKsend_wf {s : State} (m : ℕ) (c : ChunkData) (hs : Mems.wf s.mem = true) : Out.Canon (execKsend m c s) := by
  grind [execKsend, execData_wf, Out.Canon]

theorem execKrecv_wf {s : State} (m : ℕ) (c : ChunkData) (hs : Mems.wf s.mem = true) : Out.Canon (execKrecv m c s) := by
  grind [execKrecv, execData_wf, Out.Canon]

theorem execKred_wf {s : State} (m : ℕ) (c : ChunkData) (hs : Mems.wf s.mem = true) : Out.Canon (execKred m c s) := by
  grind [execKred, execData_wf, Out.Canon]

theorem execKcopy_wf {s : State} (m : ℕ) (c : ChunkData) (hs : Mems.wf s.mem = true) : Out.Canon (execKcopy m c s) := by
  grind [execKcopy, execData_wf, Out.Canon]

theorem execKwait_wf {s : State} (id : ℕ) (tag : BitVec 7) (all : Bool) (hs : Mems.wf s.mem = true)
    : Out.Canon (execKwait id tag all s) := by
  grind [execKwait, chunkStep_wf, updMember_wf, Out.Canon]

theorem execKsig_wf {s : State} (id : ℕ) (peer : BitVec 16) (prel : Bool) (tag : BitVec 7) (val : BitVec 32)
    (hs : Mems.wf s.mem = true) : Out.Canon (execKsig id peer prel tag val s) := by
  grind [execKsig, chunkStep_wf, memAbort_wf, updMember_wf, Out.Canon]

theorem execKloop_wf {s : State} (id : ℕ) (count disp : BitVec 16) (hs : Mems.wf s.mem = true)
    : Out.Canon (execKloop id count disp s) := by
  grind [execKloop, chunkStep_wf, updMember_wf, Out.Canon]

theorem closeDown_wf {s : State} (id : ℕ) (hs : Mems.wf s.mem = true) : Mems.wf (State.closeDown s id).mem = true := by
  grind [State.closeDown, finishAll_wf, updMember_wf]

theorem sendAll_wf {s : State} (m : Member) (op : ℕ) (payload : List Byte) (rs : List ℕ) (hs : Mems.wf s.mem = true) :
    Mems.wf (State.sendAll s m op payload rs).mem = true := by
  unfold State.sendAll
  split
  · exact memAbort_wf _ _ hs
  · exact fold_wf hs (fun t r ht => trySend_wf m r op payload ht) rs

theorem closeGate_wf {s : State} (id : ℕ) (hs : Mems.wf s.mem = true) : Mems.wf (State.closeGate s id).mem = true := by
  grind [State.closeGate, memAbort_wf, closeDown_wf, updMember_wf, sendAll_wf]

theorem execKend_wf {s : State} (id : ℕ) (hs : Mems.wf s.mem = true) : Out.Canon (execKend id s) := by
  grind [execKend, chunkStep_wf, closeGate_wf, updMember_wf, Out.Canon]

theorem execNop_wf {s : State} (hs : Mems.wf s.mem = true) : Out.Canon (execNop s) := by
  grind [execNop, runs_wf, Out.Canon, Res.Canon]

theorem execEret_wf {s : State} (hs : Mems.wf s.mem = true) : Out.Canon (execEret s) := by
  grind [execEret, runs_wf, State.updMe_mem, Out.Canon, Res.Canon]

theorem execWfe_wf {s : State} (hs : Mems.wf s.mem = true) : Out.Canon (execWfe s) := by
  grind [execWfe, runs_wf, State.updMe_mem, Out.Canon, Res.Canon]

end Sys2Proof.Machine
end

section
/-!
SUPPORT. Canonical memory (log entry 3), function by function: the engines: jobs, copies, fills and near-memory commands.
-/

namespace Sys2Proof.Machine
set_option Elab.async false

open Sys2Proof

theorem updJob_wf {s : State} (bk id : ℕ) (f : Job → Job) (hs : Mems.wf s.mem = true) :
    Mems.wf (s.updJob bk id f).mem = true := hs

theorem execMatrixJobStart_wf {s : State} (bay : ℕ) (hs : Mems.wf s.mem = true) : Out.Canon (execMatrixJobStart bay s) := by
  grind [execMatrixJobStart, updJob_wf, State.updBay_mem, Out.Canon]

theorem rowRead_wf {s : State} (bk : ℕ) (j : Job) (a : Word) (n : ℕ) (hs : Mems.wf s.mem = true)
    : Mems.wf (State.rowRead s bk j a n).2.mem = true := by
  grind [State.rowRead, translate_wf, engRead_wf]

theorem readRow_wf {s : State} (bk : ℕ) (j : Job) (a : Word) (ps : List (ℕ × ℕ)) (x : ℕ) (hs : Mems.wf s.mem = true) :
    Mems.wf (State.readRow s bk j a ps x).2.mem = true := by
  induction ps generalizing s x with
  | nil => exact hs
  | cons p ps ih => grind [State.readRow, rowRead_wf]

theorem fillRow_wf {s : State} (j : Job) (x : ℕ) (hs : Mems.wf s.mem = true) :
    Mems.wf (State.fillRow s j x).mem = true := by
  unfold State.fillRow
  refine fold_wf hs (fun t k ht => ?_) _
  split
  · exact putScaleRow_wf ht _ _ _ _
  · exact putTileRow_wf ht _ _ _ _ _ _

theorem rowFailed_wf {s₀ : State} (bk : ℕ) (j : Job) (r : MoveRes) (s : State) (hs₀ : Mems.wf s₀.mem = true)
    (hs : Mems.wf s.mem = true) : Mems.wf (State.rowFailed s₀ bk j r s).mem = true := by
  unfold State.rowFailed
  split <;> grind [updJob_wf, postService_wf, Posted.Canon]

theorem clearPoison_wf {s : State} (line : ℕ) (hs : Mems.wf s.mem = true) : Mems.wf (State.clearPoison s line).mem = true := by
  grind [State.clearPoison, setPoison_wf, putLine_wf]

theorem noteRow_wf {s : State} (bk : ℕ) (j : Job) (pa n : ℕ) (merged : Bool) (hs : Mems.wf s.mem = true)
    : Mems.wf (State.noteRow s bk j pa n merged).mem = true := by
  grind [State.noteRow, updJob_wf, clearPoison_wf, l1Clean_wf]

theorem writeAround_wf {s : State} (l : Loc) (x n : ℕ) (hs : Mems.wf s.mem = true) :
    Mems.wf (State.writeAround s l x n).2.mem = true := by
  induction n with
  | zero => exact hs
  | succ n ih => grind [State.writeAround, locWrite_wf]

theorem rowWrite_wf {s : State} (bk : ℕ) (j : Job) (a : Word) (n x : ℕ) (hs : Mems.wf s.mem = true)
    : Mems.wf (State.rowWrite s bk j a n x).2.mem = true := by
  grind [State.rowWrite, engWrite_wf, translate_wf, writeAround_wf, noteRow_wf]

theorem rowBad_wf {s : State} (bk : ℕ) (j : Job) (a : Word) (ps : List (ℕ × ℕ)) (hs : Mems.wf s.mem = true) {r} {t : State}
    (e : State.rowBad s bk j a ps = some (r, t)) : Mems.wf t.mem = true := by
  induction ps with
  | nil => cases e
  | cons p ps ih =>
    have hw := rowWrite_wf bk j (a + word p.1) p.2 0 hs
    rw [State.rowBad] at e
    split at e <;> grind

theorem writeRow_wf {s : State} (bk : ℕ) (j : Job) (a : Word) (x : ℕ) (ps : List (ℕ × ℕ)) (hs : Mems.wf s.mem = true) :
    Mems.wf (State.writeRow s bk j a x ps).2.mem = true := by
  induction ps generalizing s with
  | nil => exact hs
  | cons p ps ih => exact ih (rowWrite_wf bk j _ _ _ hs)

theorem retireScores_wf {s : State} (owner : ℕ) (p : ScoreEnt → Bool) (hs : Mems.wf s.mem = true) :
    Mems.wf (s.retireScores owner p).mem = true := hs

theorem passScores_wf {s : State} (owner i : ℕ) (hs : Mems.wf s.mem = true)
    : Mems.wf (State.passScores s owner i).mem = true := by
  grind [State.passScores, retireScores_wf]

theorem execTileRowMove_wf {s : State} (bay job : ℕ) (hs : Mems.wf s.mem = true) : Out.Canon (execTileRowMove bay job s) := by
  grind [execTileRowMove, updJob_wf, rowBad_wf, readRow_wf, passScores_wf, rowFailed_wf, writeRow_wf, fillRow_wf,
    Out.Canon]

theorem endJob_wf {s : State} (j : Job) (hs : Mems.wf s.mem = true) : Mems.wf (State.endJob s j).mem = true := by
  grind [State.endJob, State.updBay_mem, deliver_wf]

theorem dropScores_wf {s : State} (owner : ℕ) (hs : Mems.wf s.mem = true) : Mems.wf (State.dropScores s owner).mem = true := by
  grind [State.dropScores, retireScores_wf]

theorem runMma_wf {s : State} (bk : ℕ) (j : Job) (hs : Mems.wf s.mem = true) :
    Mems.wf (State.runMma s bk j).1.mem = true := by
  unfold State.runMma
  exact foldl_keeps (fun r : State × FFlags => Mems.wf r.1.mem = true) (fun r i hr => putAlcove_wf hr _ _ _ _) _ hs

theorem execMatrixJobComplete_wf {s : State} (bay job : ℕ) (hs : Mems.wf s.mem = true) :
    Out.Canon (execMatrixJobComplete bay job s) := by
  have hj : ∀ {t : State} g (l : List ℕ), Mems.wf t.mem = true → Mems.wf (l.foldl (fun t k => t.updJob k job g) t).mem = true :=
    fun g l ht => fold_wf ht (fun u k hu => updJob_wf k job g hu) l
  unfold execMatrixJobComplete
  dsimp only [Out.Canon]
  split
  · exact hs
  · next j _ =>
    have hr := dropJob_wf [bay] job (runMma_wf bay j hs)
    split
    · exact hs
    · split
      · split
        · exact hs
        · refine endJob_wf j (dropJob_wf _ job ?_)
          split
          · exact dropScores_wf j.tb hs
          · exact hs
      · split
        · exact hs
        · split
          · exact endJob_wf _ hr
          · exact hj _ _ hr

theorem updCopy_wf {s : State} (bk id : ℕ) (f : Copy → Copy) (hs : Mems.wf s.mem = true) :
    Mems.wf (s.updCopy bk id f).mem = true := hs

theorem endCopy_wf {s : State} (bk id : ℕ) (stop : Option ℕ) (walked : Bool) (hs : Mems.wf s.mem = true)
    : Mems.wf (State.endCopy s bk id stop walked).mem = true := by
  grind [State.endCopy, updCopy_wf, dropScores_wf]

theorem beginWalk_wf {s : State} (bk : ℕ) (c : Copy) (hs : Mems.wf s.mem = true)
    : Mems.wf (State.beginWalk s bk c).mem = true := by
  grind [State.beginWalk, updCopy_wf, takeScores_wf]

theorem startWalk_wf {s : State} (bk : ℕ) (c : Copy) (h : Shape) (hs : Mems.wf s.mem = true)
    : Mems.wf (State.startWalk s bk c h).mem = true := by
  grind [State.startWalk, updCopy_wf, beginWalk_wf]

theorem execCopyStart_wf {s : State} (bay : ℕ) (hs : Mems.wf s.mem = true) : Out.Canon (execCopyStart bay s) := by
  grind [execCopyStart, updCopy_wf, endCopy_wf, startWalk_wf, Out.Canon]

theorem copyTrans_wf {s : State} (bk : ℕ) (c : Copy) (j va : ℕ) (acc : Acc) (hs : Mems.wf s.mem = true)
    : Mems.wf (State.copyTrans s bk c j va acc).2.mem = true := by
  grind [State.copyTrans, translate_wf, State.updBay_mem]

theorem copyRead_wf {s : State} (bk : ℕ) (c : Copy) (j : ℕ) (a : Word) (n : ℕ) (hint : Hint) (hs : Mems.wf s.mem = true)
    : Mems.wf (State.copyRead s bk c j a n hint).2.mem = true := by
  grind [State.copyRead, engRead_wf, copyTrans_wf]

theorem copyPage_wf {s : State} (bk : ℕ) (c : Copy) (j : ℕ) (va : Word) (acc why : BitVec 2) (hs : Mems.wf s.mem = true)
    : Mems.wf (State.copyPage s bk c j va acc why).mem = true := by
  grind [State.copyPage, updCopy_wf, postService_wf, Posted.Canon]

theorem execShapeRecordFetch_wf {s : State} (bay copy : ℕ) (hs : Mems.wf s.mem = true) :
    Out.Canon (execShapeRecordFetch bay copy s) := by
  unfold execShapeRecordFetch
  split
  · exact hs
  · next c _ =>
    have hr := copyRead_wf (s := s) bay c 0 (c.reg 8) 64 .df hs
    generalize s.copyRead bay c 0 (c.reg 8) 64 .df = r at hr ⊢
    have hend : ∀ (t : State) o, Mems.wf t.mem = true → Mems.wf (t.endCopy bay copy o false).mem = true :=
      fun t o ht => endCopy_wf _ _ _ _ ht
    dsimp only [Out.Canon]
    split
    · exact beginWalk_wf _ _ hs
    · split
      · exact hs
      · split
        · exact hend _ _ hs
        · split
          · exact hs
          · split <;> grind [copyPage_wf, startWalk_wf]

theorem execCopyScout_wf {s : State} (bay copy : ℕ) (hs : Mems.wf s.mem = true) : Out.Canon (execCopyScout bay copy s) := by
  grind [execCopyScout, updCopy_wf, copyTrans_wf, copyPage_wf, Out.Canon]

theorem readAhead_wf {s : State} (bk : ℕ) (c : Copy) (lim n : ℕ) (hs : Mems.wf s.mem = true) :
    Mems.wf (State.readAhead s bk c lim n).2.2.mem = true := by
  induction n with
  | zero => exact hs
  | succ n ih =>
    unfold State.readAhead
    grind [copyRead_wf]

theorem noteBytes_wf {s : State} (bk : ℕ) (c : Copy) (pa n : ℕ) (hs : Mems.wf s.mem = true)
    : Mems.wf (State.noteBytes s bk c pa n).mem = true := by
  grind [State.noteBytes, updCopy_wf, clearPoison_wf]

theorem copyWrite_wf {s : State} (bk : ℕ) (c : Copy) (a : Word) (n x : ℕ) (hint : Hint) (hs : Mems.wf s.mem = true)
    : Mems.wf (State.copyWrite s bk c a n x hint).2.mem = true := by
  grind [State.copyWrite, engWrite_wf, copyTrans_wf, locWrite_wf, noteBytes_wf, l1Clean_wf]

theorem copyNext_wf {s : State} (bk : ℕ) (c : Copy) (skipped : Bool) (hs : Mems.wf s.mem = true)
    : Mems.wf (State.copyNext s bk c skipped).mem = true := by
  grind [State.copyNext, updCopy_wf, endCopy_wf, passScores_wf]

theorem execMoveElement_wf {s : State} (bay copy ahead : ℕ) (hs : Mems.wf s.mem = true)
    : Out.Canon (execMoveElement bay copy ahead s) := by
  grind [execMoveElement, updCopy_wf, readAhead_wf, endCopy_wf, copyNext_wf, copyWrite_wf, copyPage_wf, Out.Canon]

theorem execCopyComplete_wf {s : State} (bay copy : ℕ) (hs : Mems.wf s.mem = true)
    : Out.Canon (execCopyComplete bay copy s) := by
  grind [execCopyComplete, updCopy_wf, State.updBay_mem, deliver_wf, contribute_wf, Out.Canon]

theorem fillTargets_wf {s : State} (f : MFill) (x : ℕ) (ks : List ℕ) (hs : Mems.wf s.mem = true) :
    Mems.wf (State.fillTargets f x ks s).2.mem = true := by
  induction ks generalizing s with
  | nil => exact hs
  | cons k ks ih =>
    refine ih ?_
    split
    · exact hs
    · exact locWrite_wf hs _ _ _

theorem fillNext_wf {s : State} (f : MFill) (hs : Mems.wf s.mem = true) : Mems.wf (State.fillNext s f).mem = true := by
  grind [State.fillNext, dropScores_wf, deliver_wf]

theorem execMfillLine_wf {s : State} (fill : ℕ) (hs : Mems.wf s.mem = true) : Out.Canon (execMfillLine fill s) := by
  grind [execMfillLine, engRead_wf, fillTargets_wf, fillNext_wf, witness_wf, Out.Canon]

theorem endCmd_wf {s : State} (c : NmCmd) (idx code : ℕ) (f : FFlags) (hs : Mems.wf s.mem = true)
    : Mems.wf (State.endCmd s c idx code f).mem = true := by
  grind [State.endCmd, deliver_wf]

theorem cleanLine_wf {s : State} (line : ℕ) (hs : Mems.wf s.mem = true) : Mems.wf (State.cleanLine s line).mem = true := by
  grind [State.cleanLine, recall_wf, putLine_wf, storeLine_wf]

theorem updCmd_wf {s : State} (id : ℕ) (f : NmCmd → NmCmd) (hs : Mems.wf s.mem = true) :
    Mems.wf (s.updCmd id f).mem = true := hs

theorem execNmuLock_wf {s : State} (cmd slice : ℕ) (hs : Mems.wf s.mem = true) : Out.Canon (execNmuLock cmd slice s) := by
  have hc : ∀ l : List ℕ, Mems.wf (l.foldl (fun s k => s.cleanLine k) s).mem = true :=
    fun l => fold_wf hs (fun t k ht => cleanLine_wf (s := t) k ht) l
  have he : ∀ {t : State} (l : List ℕ), Mems.wf t.mem = true → Mems.wf (l.foldl (fun s k => s.evictLine k) t).mem = true :=
    fun l ht => fold_wf ht (fun u k hu => evictLine_wf (s := u) hu k) l
  unfold execNmuLock
  dsimp only [Out.Canon]
  split
  · exact hs
  · split
    · exact hs
    · split
      · exact hs
      · exact endCmd_wf _ _ _ _ hs
      · split
        · exact hs
        · exact updCmd_wf _ _ (l1Clean_wf _ _ (he _ (hc _)))

theorem execNmuAccept_wf {s : State} (cmd : ℕ) (hs : Mems.wf s.mem = true) : Out.Canon (execNmuAccept cmd s) := by
  grind [execNmuAccept, updCmd_wf, Out.Canon]

theorem hbmBytes_wf {s : State} (pa n : ℕ) (hs : Mems.wf s.mem = true) :
    Mems.wf (State.hbmBytes s pa n).2.2.mem = true := by
  unfold State.hbmBytes
  exact foldl_keeps (fun r : ℕ × Bool × State => Mems.wf r.2.2.mem = true) (fun r l hr => hbmRead_wf hr l) _ hs

theorem execNmuExecute_wf {s : State} (stack : ℕ) (hs : Mems.wf s.mem = true) : Out.Canon (execNmuExecute stack s) := by
  grind [execNmuExecute, updCmd_wf, endCmd_wf, hbmBytes_wf, Out.Canon]

theorem nmWriteAll_wf {s : State} (pa n x : ℕ) (hs : Mems.wf s.mem = true) :
    Mems.wf (State.nmWriteAll s pa n x).mem = true := by
  unfold State.nmWriteAll
  exact fold_wf hs (fun t l ht => nmWrite_wf ht _ _ _) _

theorem nmSumLine_wf {s : State} (c : NmCmd) (hs : Mems.wf s.mem = true) : Mems.wf (State.nmSumLine s c).mem = true := by
  grind [State.nmSumLine, updCmd_wf, nmWriteAll_wf, endCmd_wf, hbmBytes_wf]

theorem nmDstLine_wf {s : State} (c : NmCmd) (hs : Mems.wf s.mem = true) : Mems.wf (State.nmDstLine s c).mem = true := by
  grind [State.nmDstLine, updCmd_wf, nmWrite_wf, setPoison_wf, endCmd_wf, hbmBytes_wf]

theorem execNmuLine_wf {s : State} (stack : ℕ) (hs : Mems.wf s.mem = true) : Out.Canon (execNmuLine stack s) := by
  grind [execNmuLine, endCmd_wf, nmSumLine_wf, nmDstLine_wf, Out.Canon]

end Sys2Proof.Machine
end

section
/-!
SUPPORT. Canonical memory (log entry 3), function by function: events of the tiles and the packets of collectives.
-/

namespace Sys2Proof.Machine
set_option Elab.async false

open Sys2Proof

theorem notArmed_wf {s : State} (q : Contrib) (hs : Mems.wf s.mem = true) : Mems.wf (State.notArmed s q).mem = true := by
  grind [State.notArmed, State.updBay_mem, deliver_wf]

theorem countArrivals_wf {s : State} (phase : ℕ) (qs : List Contrib) (arr : ℕ) (hs : Mems.wf s.mem = true) :
    Mems.wf (countArrivals s phase qs arr).2.mem = true := by
  induction qs generalizing s arr with
  | nil => exact hs
  | cons q qs ih =>
    refine ih _ ?_
    split
    · exact hs
    · exact deliver_wf _ _ _ hs

theorem execBarrierUpdate_wf {s : State} (core off n : ℕ) (hs : Mems.wf s.mem = true) :
    Out.Canon (execBarrierUpdate core off n s) := by
  unfold execBarrierUpdate
  dsimp only [Out.Canon]
  split
  · exact hs
  · split
    · exact fold_wf (by exact hs) (fun t q ht => notArmed_wf q ht) _
    · exact locWrite_wf (countArrivals_wf _ _ _ (by exact hs)) _ _ _

theorem execWaitaWake_wf {s : State} (core pend : ℕ) (hs : Mems.wf s.mem = true) : Out.Canon (execWaitaWake core pend s) := by
  grind [execWaitaWake, State.setTile_mem, deliver_wf, Out.Canon]

theorem dropPush_wf {s : State} (id : ℕ) (hs : Mems.wf s.mem = true) : Mems.wf (State.dropPush s id).mem = true := by
  grind [State.dropPush]

theorem answerSpawn_wf {s : State} (id : ℕ) (who : Option (ℕ × Bool)) (ok : Bool) (hs : Mems.wf s.mem = true) :
    Mems.wf (State.answerSpawn s id who ok).mem = true := by
  cases who with
  | none => exact hs
  | some w => exact hs

theorem execRecordPush_wf {s : State} (msg : ℕ) (hs : Mems.wf s.mem = true) : Out.Canon (execRecordPush msg s) := by
  grind [execRecordPush, dropPush_wf, pushTask_wf, answerSpawn_wf, Out.Canon]

theorem enqueueCore_wf {s : State} (v : VRec) (hs : Mems.wf s.mem = true) : Mems.wf (State.enqueueCore s v).mem = true := by
  grind [State.enqueueCore, State.updCore_mem]

theorem execRecordPark_wf {s : State} (msg : ℕ) (hs : Mems.wf s.mem = true) : Out.Canon (execRecordPark msg s) := by
  grind [execRecordPark, State.updCore_mem, enqueueCore_wf, putRec_wf, State.updTile_mem, deliver_wf, Out.Canon]

theorem releaseFrom_wf {s : State} (tile : ℕ) (vs : List VRec) (hs : Mems.wf s.mem = true) :
    Mems.wf (State.releaseFrom s tile vs).mem = true := by
  induction vs generalizing s with
  | nil => exact hs
  | cons v vs ih =>
    unfold State.releaseFrom
    split
    · refine ih ?_
      rw [State.updTile_mem]
      exact enqueueCore_wf _ hs
    · exact hs

theorem releaseVest_wf {s : State} (tile : ℕ) (hs : Mems.wf s.mem = true) : Mems.wf (State.releaseVest s tile).mem = true := by
  grind [State.releaseVest, releaseFrom_wf]

theorem execVestibuleRelease_wf {s : State} (tile : ℕ) (hs : Mems.wf s.mem = true)
    : Out.Canon (execVestibuleRelease tile s) := by
  grind [execVestibuleRelease, releaseVest_wf, Out.Canon]

theorem execTaskPop_wf {s : State} (core : ℕ) (hs : Mems.wf s.mem = true) : Out.Canon (execTaskPop core s) := by
  grind [execTaskPop, State.setTile_mem, State.setCore_mem, Out.Canon]

theorem execHandlerStart_wf {s : State} (core : ℕ) (hs : Mems.wf s.mem = true) : Out.Canon (execHandlerStart core s) := by
  grind [execHandlerStart, State.setCore_mem, Out.Canon]

theorem execStepSignal_wf {s : State} (tile dir : ℕ) (hs : Mems.wf s.mem = true) : Out.Canon (execStepSignal tile dir s) := by
  grind [execStepSignal, State.setTile_mem, Out.Canon]

theorem execStepEntry_wf {s : State} (tile : ℕ) (hs : Mems.wf s.mem = true) : Out.Canon (execStepEntry tile s) := by
  unfold execStepEntry
  dsimp only [Out.Canon]
  split
  · exact hs
  · split
    · exact hs
    · rw [State.updTile_mem]
      refine releaseVest_wf _ ?_
      rw [State.updTile_mem]
      exact fold_wf (by rw [State.updTile_mem]; exact takeLanding_wf hs _ _) (fun t n ht => by rwa [State.updTile_mem]) _

theorem execStall_wf {s : State} (tile : ℕ) (hs : Mems.wf s.mem = true) : Out.Canon (execStall tile s) := by
  grind [execStall, postHandler_wf, State.updTile_mem, Out.Canon]

theorem takeMsg_wf {s : State} (core q : ℕ) (p : QMsg → Bool) {x : QMsg} {t : State} (hs : Mems.wf s.mem = true)
    (e : s.takeMsg core q p = some (x, t)) : Mems.wf t.mem = true := by
  grind [State.takeMsg]

theorem execStreamAppend_wf {s : State} (core q : ℕ) (hs : Mems.wf s.mem = true) : Out.Canon (execStreamAppend core q s) := by
  grind [execStreamAppend, locWrite_wf, updQ_wf, takeMsg_wf, Out.Canon]

theorem execStreamCredit_wf {s : State} (core q : ℕ) (hs : Mems.wf s.mem = true) : Out.Canon (execStreamCredit core q s) := by
  grind [execStreamCredit, updQ_wf, takeMsg_wf, Out.Canon]

theorem execStreamSample_wf {s : State} (core q : ℕ) (hs : Mems.wf s.mem = true) : Out.Canon (execStreamSample core q s) := by
  grind [execStreamSample, State.updCore_mem, Out.Canon]

theorem execWeightMessage_wf {s : State} (core q : ℕ) (hs : Mems.wf s.mem = true) : Out.Canon (execWeightMessage core q s) := by
  grind [execWeightMessage, updQ_wf, takeMsg_wf, Out.Canon]

theorem openGate_wf {s : State} (id : ℕ) (hs : Mems.wf s.mem = true) : Mems.wf (State.openGate s id).mem = true := by
  grind [State.openGate, updMember_wf, sendAll_wf]

theorem memFail_wf {s₀ : State} (m : Member) (r : ColRes) (s : State) (hs₀ : Mems.wf s₀.mem = true) (hs : Mems.wf s.mem = true) :
    Mems.wf (State.memFail s₀ m r s).mem = true := by
  cases r with
  | ok x => exact hs₀
  | wait => exact hs₀
  | stop code => exact memAbort_wf _ _ hs
  | page va acc why => exact getD_wf (fun t e => memPage_wf _ _ _ _ _ hs e) (memAbort_wf _ _ hs)

theorem execScheduleDecode_wf {s : State} (id : ℕ) (hs : Mems.wf s.mem = true) : Out.Canon (execScheduleDecode id s) := by
  grind [execScheduleDecode, memRead_wf, memFail_wf, memHeld_wf, memAbort_wf, openGate_wf, updMember_wf, Out.Canon]

theorem endRun_wf {s : State} (id k : ℕ) (hs : Mems.wf s.mem = true) : Mems.wf (State.endRun s id k).mem = true := by
  grind [State.endRun, finishAll_wf, updMember_wf]

theorem runHeld_wf {s : State} (m : Member) (k : ℕ) (hs : Mems.wf s.mem = true) {t : State}
    (e : State.runHeld s m k = some t) : Mems.wf t.mem = true := by
  grind [State.runHeld, memHeld_wf, endRun_wf]

theorem runStops_wf {s : State} (m : Member) (k code : ℕ) (hs : Mems.wf s.mem = true)
    : Mems.wf (State.runStops s m k code).mem = true := by
  grind [State.runStops, memAbort_wf, endRun_wf]

theorem updRun_wf {s : State} (id k : ℕ) (f : RunData → RunData) (hs : Mems.wf s.mem = true) :
    Mems.wf (s.updRun id k f).mem = true := hs

theorem chunkDone_wf {s : State} (id k : ℕ) (hs : Mems.wf s.mem = true) : Mems.wf (State.chunkDone s id k).mem = true := by
  grind [State.chunkDone, updRun_wf]

theorem runSig_wf {s : State} (m : Member) (r : RunData) (hs : Mems.wf s.mem = true)
    : Mems.wf (State.runSig s m r).mem = true := by
  grind [State.runSig, chunkDone_wf, runStops_wf, updRun_wf, sendPkt_wf, SendRes.Canon]

theorem runWrite_wf {s : State} (m : Member) (r : RunData) (o : ColOut) (hs : Mems.wf s.mem = true) :
    Mems.wf (State.runWrite s m r o).mem = true := by
  unfold State.runWrite
  grind [chunkDone_wf, memPage_wf, runStops_wf, updRun_wf, updMember_wf, memWrite_wf, getD_wf]

theorem getChunk_wf {s : State} (m : Member) (buf c : ℕ) (hs : Mems.wf s.mem = true)
    : Mems.wf (State.getChunk s m buf c).2.2.mem = true := by
  grind [State.getChunk, memRead_wf]

theorem sendParts_wf {s : State} (m : Member) (r : RunData) (w40 : Word) (raw : Bool) (n k : ℕ) (bs : List Byte) (i : ℕ)
    (hs : Mems.wf s.mem = true) {t : State} (e : State.sendParts s m r w40 raw n k bs i = some t) : Mems.wf t.mem = true := by
  induction k generalizing s bs i with
  | zero => grind [State.sendParts]
  | succ k ih =>
    unfold State.sendParts at e
    grind [updRun_wf, sendPkt_wf, SendRes.Canon]

theorem runFail_wf {s₀ : State} (m : Member) (k : ℕ) (r : ColRes) (s : State) (hs₀ : Mems.wf s₀.mem = true)
    (hs : Mems.wf s.mem = true) : Mems.wf (State.runFail s₀ m k r s).mem = true := by
  cases r with
  | ok x => exact hs₀
  | wait => exact hs₀
  | stop code => exact runStops_wf _ _ _ hs
  | page va acc why => exact getD_wf (fun t e => memPage_wf _ _ _ _ _ hs e) (runStops_wf _ _ _ hs)

theorem runSend_wf {s : State} (m : Member) (r : RunData) (c : ℕ) (hs : Mems.wf s.mem = true)
    : Mems.wf (State.runSend s m r c).mem = true := by
  grind [State.runSend, chunkDone_wf, runStops_wf, getChunk_wf, sendParts_wf, runFail_wf]

theorem runPut_wf {s : State} (m : Member) (r : RunData) (v : ChunkVal) (f : FFlags) (rest : List Pkt)
    (hs : Mems.wf s.mem = true) : Mems.wf (State.runPut s m r v f rest).mem = true := by
  grind [State.runPut, runStops_wf, runWrite_wf, updMember_wf]

theorem runTake_wf {s : State} (m : Member) (r : RunData) (c : ℕ) (go : ChunkVal → List Pkt → State)
    (hs : Mems.wf s.mem = true) (hg : ∀ v l, Mems.wf (go v l).mem = true) : Mems.wf (s.runTake m r c go).mem = true := by
  grind [State.runTake, endRun_wf, updMember_wf, updRun_wf, runStops_wf]

theorem execChunkComplete_wf {s : State} (id k : ℕ) (hs : Mems.wf s.mem = true) : Out.Canon (execChunkComplete id k s) := by
  unfold execChunkComplete
  dsimp only [Out.Canon]
  split
  · exact hs
  · next m _ =>
    split
    · exact hs
    · next r _ =>
      split
      · next t ht => exact runHeld_wf _ _ hs ht
      · split
        · exact hs
        · split
          · grind [endRun_wf]
          · split
            · exact runSig_wf _ _ hs
            · split
              · exact runWrite_wf _ _ _ hs
              · split
                · exact runSend_wf _ _ _ hs
                · split
                  · grind [getChunk_wf, runPut_wf, runFail_wf]
                  · split
                    · exact runTake_wf _ _ _ _ hs fun v l => runPut_wf _ _ _ _ _ hs
                    · split
                      · refine runTake_wf _ _ _ _ hs fun v l => ?_
                        grind [getChunk_wf, runPut_wf, runStops_wf]
                      · grind [getChunk_wf, runFail_wf]

theorem ackPkt_wf {s : State} (p : Pkt) (hs : Mems.wf s.mem = true) : Mems.wf (State.ackPkt s p).mem = true := by
  grind [State.ackPkt, updRun_wf]

theorem dropPkt_wf {s : State} (id : ℕ) (hs : Mems.wf s.mem = true) : Mems.wf (State.dropPkt s id).mem = true := by
  grind [State.dropPkt]

theorem pktDone_wf {s : State} (p : Pkt) (hs : Mems.wf s.mem = true) : Mems.wf (State.pktDone s p).mem = true := by
  grind [State.pktDone, dropPkt_wf]

theorem withPkt_wf {s : State} (id op : ℕ) (f : Pkt → Member → State → Option State × State) (hs : Mems.wf s.mem = true)
    (h1 : ∀ p m t, (f p m s).1 = some t → Mems.wf t.mem = true) (h2 : ∀ p m, Mems.wf (f p m s).2.mem = true) :
    Out.Canon (s.withPkt id op f) := by
  unfold State.withPkt
  dsimp only [Out.Canon]
  split
  · exact hs
  · next p _ =>
    have hd : Mems.wf ((s.dropPkt id).ackPkt p).mem = true := ackPkt_wf _ (dropPkt_wf _ hs)
    split
    · exact hs
    · generalize s.memberAt (p.sig.1 >>> 32) (p.hdr.getD 1 0) = run
      cases run with
      | none => grind
      | some m =>
        specialize h1 p m
        specialize h2 p m
        grind [memAbort_wf, pktDone_wf]

theorem execDlv_wf {s : State} (pkt : ℕ) (hs : Mems.wf s.mem = true) : Out.Canon (execDlv pkt s) := by
  grind [execDlv, ackPkt_wf, withPkt_wf, updMember_wf, Out.Canon]

theorem execOpen_wf {s : State} (pkt : ℕ) (hs : Mems.wf s.mem = true) : Out.Canon (execOpen pkt s) := by
  grind [execOpen, memAbort_wf, withPkt_wf, openGate_wf, updMember_wf, Out.Canon]

theorem execGo_wf {s : State} (pkt : ℕ) (hs : Mems.wf s.mem = true) : Out.Canon (execGo pkt s) := by
  unfold execGo
  refine withPkt_wf _ _ _ hs (fun p m t e => ?_) (fun p m => ?_)
  · grind [updMember_wf, sendAll_wf]
  · grind

theorem execCup_wf {s : State} (pkt : ℕ) (hs : Mems.wf s.mem = true) : Out.Canon (execCup pkt s) := by
  unfold execCup
  refine withPkt_wf _ _ _ hs (fun p m t e => ?_) (fun p m => ?_)
  · grind [closeGate_wf, updMember_wf]
  · grind

theorem execCdn_wf {s : State} (pkt : ℕ) (hs : Mems.wf s.mem = true) : Out.Canon (execCdn pkt s) := by
  unfold execCdn
  refine withPkt_wf _ _ _ hs (fun p m t e => ?_) (fun p m => ?_)
  · grind [closeDown_wf, sendAll_wf]
  · grind

theorem memAborted_wf {s : State} (id code origin : ℕ) (hs : Mems.wf s.mem = true)
    : Mems.wf (State.memAborted s id code origin).mem = true := by
  grind [State.memAborted, finishAll_wf, updMember_wf]

theorem execAbt_wf {s : State} (pkt : ℕ) (hs : Mems.wf s.mem = true) : Out.Canon (execAbt pkt s) := by
  unfold execAbt
  refine withPkt_wf _ _ _ hs (fun p m t e => ?_) (fun p m => ?_)
  · grind [memAborted_wf]
  · grind

theorem memAdd_wf {s : State} (m : Member) (x : ℕ) (hs : Mems.wf s.mem = true) : Mems.wf (State.memAdd s m x).2.mem = true := by
  grind [State.memAdd, colPa_wf, engWrite_wf, engRead_wf]

theorem execSig_wf {s : State} (pkt : ℕ) (hs : Mems.wf s.mem = true) : Out.Canon (execSig pkt s) := by
  grind [execSig, memAdd_wf, memPage_wf, ackPkt_wf, memAbort_wf, withPkt_wf, updMember_wf, Out.Canon]

theorem execCollectiveTimeout_wf {s : State} (id : ℕ) (hs : Mems.wf s.mem = true) : Out.Canon (execCollectiveTimeout id s) := by
  grind [execCollectiveTimeout, memAbort_wf, Out.Canon]

theorem leftPkt_wf {s : State} (p : Pkt) (hs : Mems.wf s.mem = true) : Mems.wf (State.leftPkt s p).mem = true := by
  grind [State.leftPkt, updRun_wf]

theorem putOut_wf {s : State} (q : ℕ) (hdr : List Word) (p : Pkt) (hs : Mems.wf s.mem = true)
    : Mems.wf (State.putOut s q hdr p).mem = true := by
  grind [State.putOut]

theorem sendOn_wf {s : State} (p : Pkt) (q : ℕ) (hs : Mems.wf s.mem = true) : Mems.wf (State.sendOn s p q).mem = true := by
  unfold State.sendOn
  split
  · exact hs
  · split
    · exact hs
    · exact leftPkt_wf _ (putOut_wf _ _ _ (dropPkt_wf _ hs))
    · refine getD_wf (fun t e => ?_) (ackPkt_wf _ (dropPkt_wf _ hs))
      obtain ⟨m, -, rfl⟩ := Option.map_eq_some_iff.mp e
      exact memAbort_wf _ _ (ackPkt_wf _ (dropPkt_wf _ hs))

theorem countPort_wf {s : State} (p : ℕ) (hs : Mems.wf s.mem = true) : Mems.wf (State.countPort s p).mem = true := by
  grind [State.countPort]

theorem execPacketTransit_wf {s : State} (pkt : ℕ) (hs : Mems.wf s.mem = true) : Out.Canon (execPacketTransit pkt s) := by
  grind [execPacketTransit, dropPkt_wf, countPort_wf, sendOn_wf, putOut_wf, Out.Canon]

end Sys2Proof.Machine
end

section
/-!
SUPPORT. Canonical memory (log entry 3), function by function: requests at the slices and their answers.
-/

namespace Sys2Proof.Machine
set_option Elab.async false

open Sys2Proof

theorem withReq_wf {s : State} (id : ℕ) (f : Req → State) (hs : Mems.wf s.mem = true) (hf : ∀ r, Mems.wf (f r).mem = true)
    : Mems.wf (s.withReq id f).mem = true := by
  grind [State.withReq]

theorem updReq_wf {s : State} (id : ℕ) (f : Req → Req) (hs : Mems.wf s.mem = true) :
    Mems.wf (s.updReq id f).mem = true := hs

theorem markDone_wf {s : State} (id : ℕ) (data : Vec) (ssn : Option (BitVec 48)) (poison : Bool)
    (hs : Mems.wf s.mem = true) : Mems.wf (State.markDone s id data ssn poison).mem = true := by
  grind [State.markDone, updReq_wf]

theorem served_wf {s : State} (ck id : ℕ) (bad : Option (ℕ × ℕ × Word)) (hs : Mems.wf s.mem = true)
    : Mems.wf (State.served s ck id bad).mem = true := by
  grind [State.served, State.updCore_mem, State.setCore_mem, takeTrap_wf]

theorem readDone_wf {s : State} (r : Req) (pa : ℕ) (refused : Bool) (data : Vec) (poison : Bool)
    (hs : Mems.wf s.mem = true) : Mems.wf (State.readDone s r pa refused data poison).mem = true := by
  grind [State.readDone, markDone_wf, served_wf]

theorem readAll_wf {s : State} (r : Req) (pa : ℕ) (refused : Bool) (data : Vec) (poison : Bool) (hs : Mems.wf s.mem = true) :
    Mems.wf (State.readAll s r pa refused data poison).mem = true := by
  unfold State.readAll
  refine fold_wf (readDone_wf _ _ _ _ _ hs) (fun t id ht => ?_) _
  split
  · exact readDone_wf _ _ _ _ _ ht
  · exact ht

theorem reqRefused_wf {s : State} (r : Req) (pa : ℕ) (hs : Mems.wf s.mem = true)
    : Mems.wf (State.reqRefused s r pa).2.mem = true := by
  grind [State.reqRefused, logRefusal_wf]

theorem execSliceRead_wf {s : State} (req : ℕ) (into : Option ℕ) (hs : Mems.wf s.mem = true) :
    Out.Canon (execSliceRead req into s) := by
  unfold execSliceRead
  refine withReq_wf req _ hs fun r => ?_
  split
  · exact hs
  · next pa _ =>
    split
    · exact hs
    · split
      · exact hs
      · exact readAll_wf _ _ _ _ _ hs
      · split
        · refine withReq_wf _ _ hs fun q => ?_
          split
          · exact updReq_wf _ _ (updReq_wf _ _ hs)
          · exact hs
        · grind [readAll_wf, recall_wf, reqRefused_wf, updReq_wf, sliceRead_wf]

theorem storeFailed_wf {s : State} (r : Req) (hs : Mems.wf s.mem = true) : Mems.wf (State.storeFailed s r).mem = true := by
  grind [State.storeFailed, markDone_wf, addFail_wf]

theorem hostStore_wf {s : State} (line : ℕ) (d mask : Vec) (hs : Mems.wf s.mem = true)
    : Mems.wf (State.hostStore s line d mask).mem = true := by
  grind [State.hostStore, hostWrite_wf]

theorem execSliceWrite_wf {s : State} (req : ℕ) (hs : Mems.wf s.mem = true) : Out.Canon (execSliceWrite req s) := by
  grind [execSliceWrite, markDone_wf, storeFailed_wf, notify_mem, bumpSsn_mem, withReq_wf, sliceWrite_wf, hostStore_wf,
    addFail_wf, reqRefused_wf, Out.Canon]

theorem atomicFailed_wf {s : State} (r : Req) (hs : Mems.wf s.mem = true) : Mems.wf (State.atomicFailed s r).mem = true := by
  grind [State.atomicFailed, markDone_wf, storeFailed_wf, served_wf]

theorem readAt_wf {s : State} (l : Loc) (n : ℕ) (h : Hint) (hs : Mems.wf s.mem = true) :
    Mems.wf (State.readAt s l n h).2.2.mem = true := by
  unfold State.readAt
  split
  · exact lineRead_wf hs _ _ _
  · exact hs

theorem rmwAt_wf {s : State} (l : Loc) (n : ℕ) (h : Hint) (strict : Bool) (f : ℕ → Option ℕ) (hs : Mems.wf s.mem = true)
    : Mems.wf (s.rmwAt l n h strict f).2.2.mem = true := by
  grind [State.rmwAt, readAt_wf, writeAt_wf]

theorem atomicDone_wf {s : State} (r : Req) (old : ℕ) (poison : Bool) (ssn : Option (BitVec 48))
    (hs : Mems.wf s.mem = true) : Mems.wf (State.atomicDone s r old poison ssn).mem = true := by
  grind [State.atomicDone, markDone_wf, State.updCore_mem, served_wf, addFail_wf]

theorem execSliceAtomic_wf {s : State} (req : ℕ) (hs : Mems.wf s.mem = true) : Out.Canon (execSliceAtomic req s) := by
  grind [execSliceAtomic, rawLine_wf, withReq_wf, atomicDone_wf, reqRefused_wf, atomicFailed_wf, rmwAt_wf, updReq_wf,
    Out.Canon]

theorem dropReq_wf {s : State} (id : ℕ) (hs : Mems.wf s.mem = true) : Mems.wf (State.dropReq s id).mem = true := by
  grind [State.dropReq]

theorem evictAt_wf {s : State} (bk line : ℕ) (h : Hint) (hs : Mems.wf s.mem = true)
    : Mems.wf (State.evictAt s bk line h).mem = true := by
  grind [State.evictAt, recall_wf, putLine_wf, evictLine_wf, l1Clean_wf]

theorem execSliceEvict_wf {s : State} (req : ℕ) (hs : Mems.wf s.mem = true) : Out.Canon (execSliceEvict req s) := by
  grind [execSliceEvict, dropReq_wf, withReq_wf, evictAt_wf, reqRefused_wf, Out.Canon]

theorem execSliceFill_wf {s : State} (req : ℕ) (hs : Mems.wf s.mem = true) : Out.Canon (execSliceFill req s) := by
  grind [execSliceFill, readAll_wf, withReq_wf, sliceRead_wf, Out.Canon]

theorem answerL1_wf {s : State} (r : Req) (pa : ℕ) (data : Vec) (ssn : Option (BitVec 48)) (poison : Bool)
    (hs : Mems.wf s.mem = true) {t : State} (e : State.answerL1 s r pa data ssn poison = some t) : Mems.wf t.mem = true := by
  cases ssn with
  | none => grind [State.answerL1]
  | some n => unfold State.answerL1 at e; grind [l1Bring_wf]

theorem give_wf {s : State} (ck id lane n : ℕ) (sext : Bool) (x : ℕ) (hs : Mems.wf s.mem = true)
    : Mems.wf (State.give s ck id lane n sext x).mem = true := by
  grind [State.give, State.updCore_mem]

theorem execReadResponse_wf {s : State} (req : ℕ) (hs : Mems.wf s.mem = true) : Out.Canon (execReadResponse req s) := by
  unfold execReadResponse
  refine withReq_wf req _ hs fun r => ?_
  split
  · next data ssn poison pa _ _ =>
    split
    · exact hs
    · have ha := fun t => answerL1_wf r pa data ssn poison (t := t) (dropReq_wf req (witness_wf r.core pa ssn hs))
      grind [give_wf]
  · exact hs

theorem execStoreAck_wf {s : State} (req : ℕ) (hs : Mems.wf s.mem = true) : Out.Canon (execStoreAck req s) := by
  unfold execStoreAck
  refine withReq_wf req _ hs fun r => ?_
  split
  · next ssn _ pa _ _ =>
    have hw := dropReq_wf req (witness_wf r.core pa ssn hs)
    split
    · exact hs
    · dsimp only
      split
      · exact hw
      · split
        · rwa [State.updBay_mem]
        · exact getD_wf (fun t e => answerL1_wf _ _ _ _ _ hw e) hw
  · exact hs

theorem execWitnessExpire_wf {s : State} (core slice : ℕ) (hs : Mems.wf s.mem = true) :
    Out.Canon (execWitnessExpire core slice s) := by
  unfold execWitnessExpire
  dsimp only [Out.Canon]
  split
  · exact hs
  · split
    · exact hs
    · exact hs

theorem execResultWriteback_wf {s : State} (core pend : ℕ) (hs : Mems.wf s.mem = true)
    : Out.Canon (execResultWriteback core pend s) := by
  grind [execResultWriteback, State.updCore_mem, takeTrap_wf, Out.Canon]

theorem execServiceOverflowDrain_wf {s : State} (tile core : ℕ) (hs : Mems.wf s.mem = true)
    : Out.Canon (execServiceOverflowDrain tile core s) := by
  grind [execServiceOverflowDrain, State.updCore_mem, State.setTile_mem, Out.Canon]

theorem execRcmdRetry_wf {s : State} (tidx : BitVec 32) (rva : BitVec 64) (hs : Mems.wf s.mem = true)
    : Out.Canon (execRcmdRetry tidx rva s) := by
  grind [execRcmdRetry, reply_wf, Out.Canon]

theorem execRcmdAbort_wf {s : State} (tidx : BitVec 32) (rva : BitVec 64) (hs : Mems.wf s.mem = true)
    : Out.Canon (execRcmdAbort tidx rva s) := by
  grind [execRcmdAbort, reply_wf, Out.Canon]

theorem execWfeWake_wf {s : State} (core : ℕ) (hs : Mems.wf s.mem = true) : Out.Canon (execWfeWake core s) := by
  grind [execWfeWake, State.updCore_mem, Out.Canon]

theorem unsupported_wf {s : State} (hs : Mems.wf s.mem = true) : Mems.wf (State.unsupported s).mem = true := by
  grind [State.unsupported]

theorem atReg_wf {s : State} (who : Requester) (r : SysReg) (go : State) (hs : Mems.wf s.mem = true)
    (hgo : Mems.wf go.mem = true) : Mems.wf (State.atReg s who r go).mem = true := by
  grind [State.atReg, unsupported_wf]

theorem execChannelEnable_wf {s : State} (who : Requester) (ch : ℕ) (val : BitVec 64) (hs : Mems.wf s.mem = true)
    : Out.Canon (execChannelEnable who ch val s) := by
  grind [execChannelEnable, writeCtl_wf, atReg_wf, Out.Canon]

theorem execChannelDisable_wf {s : State} (who : Requester) (ch : ℕ) (val : BitVec 64) (hs : Mems.wf s.mem = true)
    : Out.Canon (execChannelDisable who ch val s) := by
  grind [execChannelDisable, writeCtl_wf, atReg_wf, Out.Canon]

theorem execTailWrite_wf {s : State} (who : Requester) (ch : ℕ) (val : BitVec 64) (hs : Mems.wf s.mem = true) :
    Out.Canon (execTailWrite who ch val s) :=
  atReg_wf who _ _ hs (getD_wf (fun _ e => writeTail_wf _ _ _ hs e) hs)

end Sys2Proof.Machine
end

section
/-!
SUPPORT. Canonical memory (log entry 3), function by function: the scheduler.
-/

namespace Sys2Proof.Machine
set_option Elab.async false

open Sys2Proof

theorem updEntry_wf {s : State} (ch idx : ℕ) (f : Entry → Entry) (hs : Mems.wf s.mem = true) :
    Mems.wf (s.updEntry ch idx f).mem = true := hs

theorem takeHall_wf {s : State} (e : Entry) (o : ℕ × ℕ) (hs : Mems.wf s.mem = true) : Mems.wf (State.takeHall s e o).mem = true := by
  unfold State.takeHall
  refine updEntry_wf _ _ _ ?_
  exact fold_wf hs (fun t k ht => by rwa [State.updTile_mem]) _

theorem consider_wf {s : State} (cls ch : ℕ) (hs : Mems.wf s.mem = true) : Mems.wf (State.consider cls s ch).mem = true := by
  grind [State.consider, takeHall_wf, updEntry_wf]

theorem execHallAllocate_wf {s : State} (hs : Mems.wf s.mem = true) : Out.Canon (execHallAllocate s) := by
  have hw : ∀ l : List Entry,
      Mems.wf (l.foldl (fun s e => s.updEntry e.ch e.idx (fun e => { e with st := .waiting })) s).mem = true :=
    fun l => fold_wf hs (fun t e (ht : Mems.wf t.mem = true) => by exact ht) l
  have hc : ∀ {t : State} (l m : List ℕ), Mems.wf t.mem = true →
      Mems.wf (m.foldl (fun s c => l.foldl (State.consider c) s) t).mem = true :=
    fun l m ht => fold_wf ht (fun u c hu => fold_wf hu (fun v k hv => consider_wf c k hv) l) m
  obtain ⟨r, hr⟩ : ∃ r, r = List.range := ⟨_, rfl⟩
  unfold execHallAllocate
  rw [← hr]
  dsimp only [Out.Canon]
  split
  · exact hs
  · exact hc _ _ (by exact hw _)

theorem advanceHead_wf {s : State} (ch : ℕ) (hs : Mems.wf s.mem = true) : Mems.wf (State.advanceHead s ch).mem = true := by
  grind [State.advanceHead, updChan_wf]

theorem flushU_wf {s : State} (h : Hall) (hs : Mems.wf s.mem = true) : Mems.wf (State.flushU s h).mem = true := by
  unfold State.flushU
  refine fold_wf hs (fun t e ht => ?_) _
  exact fold_wf ht (fun t u ht => recall_wf ht _) _

theorem startHall_wf {s : State} (h : Hall) (hs : Mems.wf s.mem = true) : Mems.wf (State.startHall s h).mem = true := by
  unfold State.startHall
  have hf : Mems.wf { (s.flushU h).mem with epoch := (s.flushU h).mem.epoch + 1 } = true := by
    have hw := flushU_wf h hs
    rw [Mems.wf_iff] at hw ⊢
    exact hw
  refine fold_wf (by exact hf) (fun t k ht => ?_) _
  refine fold_wf (fold_wf ?_ (fun u c hu => by rwa [State.updCore_mem]) _) (fun u b hu => by rwa [State.updBay_mem]) _
  rw [State.updMem_mem]
  exact atStart_wf (putRec_wf (by exact ht) _ _ _) k

theorem fesPa_wf {s : State} (sec : Bool) (asid : ℕ) (va : Word) (acc : Acc) (hs : Mems.wf s.mem = true)
    : Mems.wf (State.fesPa s sec asid va acc).2.mem = true := by
  grind [State.fesPa, walk_wf]

theorem fesStore_wf {s : State} (sec : Bool) (asid : ℕ) (va x : Word) (hs : Mems.wf s.mem = true)
    : Mems.wf (State.fesStore s sec asid va x).2.mem = true := by
  grind [State.fesStore, engWrite_wf, fesPa_wf]

theorem setFault_wf {s : State} (ch code : ℕ) (hs : Mems.wf s.mem = true) : Mems.wf (State.setFault s ch code).mem = true := by
  grind [State.setFault, updChan_wf]

theorem chanStore_wf {s : State} (ch asid : ℕ) (va x : Word) (hs : Mems.wf s.mem = true) {t : State}
    (e : State.chanStore s ch asid va x = some t) : Mems.wf t.mem = true := by
  grind [State.chanStore, fesStore_wf, setFault_wf]

theorem launchWord_wf {s : State} (ch idx asid : ℕ) (done : Word) (code : ℕ) (hs : Mems.wf s.mem = true) {t : State}
    (e : State.launchWord s ch idx asid done code = some t) : Mems.wf t.mem = true := by
  unfold State.launchWord at e
  split at e
  · obtain rfl := Option.some.inj e
    exact hs
  · obtain ⟨u, hu, rfl⟩ := Option.map_eq_some_iff.mp e
    exact msix_wf ch (chanStore_wf _ _ _ _ hs hu)

theorem rejectEntry_wf {s : State} (e : Entry) (hs : Mems.wf s.mem = true) : Mems.wf (State.rejectEntry s e).mem = true := by
  grind [State.rejectEntry, endEntry_wf, advanceHead_wf, launchWord_wf]

theorem startEntry_wf {s : State} (ch kind : ℕ) (go : Entry → State) (hs : Mems.wf s.mem = true)
    (hg : ∀ e, Mems.wf (go e).mem = true) : Mems.wf (s.startEntry ch kind go).mem = true := by
  grind [State.startEntry, rejectEntry_wf]

theorem execLaunchStart_wf {s : State} (ch : ℕ) (hs : Mems.wf s.mem = true) : Out.Canon (execLaunchStart ch s) := by
  grind [execLaunchStart, updEntry_wf, startEntry_wf, advanceHead_wf, startHall_wf, Out.Canon]

theorem freeTiles_wf {s : State} (h : Hall) (hs : Mems.wf s.mem = true) : Mems.wf (State.freeTiles s h).mem = true := by
  grind [State.freeTiles]

theorem forgetHall_wf {s : State} (h : Hall) (hs : Mems.wf s.mem = true) : Mems.wf (State.forgetHall s h).mem = true := by
  grind [State.forgetHall]

theorem launchEndQ_wf {s : State} (h : Hall) (hs : Mems.wf s.mem = true) {t : State}
    (e : State.launchEnd? s h = some t) : Mems.wf t.mem = true := by
  unfold State.launchEnd? at e
  split at e
  · cases e
  · obtain ⟨u, hu, rfl⟩ := Option.map_eq_some_iff.mp e
    exact endEntry_wf _ _ (freeTiles_wf h (forgetHall_wf h (launchWord_wf _ _ _ _ _ (flushU_wf h hs) hu)))

theorem execLaunchEnd_wf {s : State} (hall : ℕ) (hs : Mems.wf s.mem = true) : Out.Canon (execLaunchEnd hall s) := by
  unfold execLaunchEnd
  dsimp only [Out.Canon]
  split
  · exact hs
  · exact getD_wf (fun t e => launchEndQ_wf _ hs e) hs

theorem rankList_wf {s : State} (m : Member) (hs : Mems.wf s.mem = true) : Mems.wf (State.rankList s m).2.2.mem = true := by
  grind [State.rankList, memRead_wf]

theorem countStart_wf {s : State} (sid addr : Word) (hs : Mems.wf s.mem = true)
    : Mems.wf (State.countStart s sid addr).mem = true := by
  grind [State.countStart]

theorem startChecks_wf {s : State} (m : Member) (l : List Word) (here : Option ℕ) (hs : Mems.wf s.mem = true) :
    StartRes.Canon (State.startChecks s m l here) := by
  have hc := fun sid a => countStart_wf sid a hs
  have hf : ∀ code x, StartRes.Canon (.failed s code x) := fun _ _ => hs
  unfold State.startChecks
  cases here <;> grind [StartRes.Canon]

theorem collBlock_wf {s : State} (m : Member) (here : Option ℕ) (hs : Mems.wf s.mem = true)
    : StartRes.Canon (State.collBlock s m here) := by
  grind [State.collBlock, startChecks_wf, rankList_wf, StartRes.Canon]

theorem collStart_wf {s : State} (m : Member) (here : Option ℕ) (hs : Mems.wf s.mem = true)
    : StartRes.Canon (State.collStart s m here) := by
  grind [State.collStart, collBlock_wf, memRead_wf, StartRes.Canon]

theorem entryFailed_wf {s : State} (e : Entry) (code : ℕ) (m : Option Member) (hs : Mems.wf s.mem = true) {t : State}
    (h : State.entryFailed s e code m = some t) : Mems.wf t.mem = true := by
  have hf : Mems.wf (if code = kPAGE then s.setFault e.ch 1 else if code = kPOISON then s.setFault e.ch 2
      else if code = kREFUSED then s.setFault e.ch 3 else s).mem = true := by grind [setFault_wf]
  unfold State.entryFailed at h
  grind [fesStore_wf, endEntry_wf, setFault_wf, msix_wf]

theorem execCollEntryStart_wf {s : State} (ch : ℕ) (hs : Mems.wf s.mem = true) : Out.Canon (execCollEntryStart ch s) := by
  unfold execCollEntryStart
  refine startEntry_wf ch 1 _ hs fun e => ?_
  have hd : ∀ {o : Option State}, (∀ t, o = some t → Mems.wf t.mem = true) →
      Mems.wf ((o.map (fun t => t.advanceHead ch)).getD s).mem = true := fun {o} ho => by
    cases o with
    | none => exact hs
    | some t => exact advanceHead_wf ch (ho t rfl)
  have hc := fun m => collStart_wf m none (fresh_wf hs)
  dsimp only
  split
  · grind [updEntry_wf, advanceHead_wf, StartRes.Canon]
  · exact hd fun t h => entryFailed_wf e _ _ (by grind [StartRes.Canon]) h
  · exact hd fun t h => entryFailed_wf e _ _ (by grind [StartRes.Canon]) h
  · grind [updEntry_wf]

theorem fesReadPa_wf {s : State} (sec : Bool) (pa n : ℕ) (hs : Mems.wf s.mem = true)
    : Mems.wf (State.fesReadPa s sec pa n).2.mem = true := by
  grind [State.fesReadPa, engRead_wf]

theorem waitwRead_wf {s : State} (e : Entry) (pa : ℕ) (hs : Mems.wf s.mem = true) {t : State}
    (e : State.waitwRead s e pa = some t) : Mems.wf t.mem = true := by
  grind [State.waitwRead, updEntry_wf, fesReadPa_wf, endEntry_wf, setFault_wf]

theorem execWaitwStart_wf {s : State} (ch : ℕ) (hs : Mems.wf s.mem = true) : Out.Canon (execWaitwStart ch s) := by
  grind [execWaitwStart, startEntry_wf, waitwRead_wf, endEntry_wf, setFault_wf, fesPa_wf, advanceHead_wf, Out.Canon]

theorem execWaitwRecheck_wf {s : State} (ch idx : ℕ) (hs : Mems.wf s.mem = true) : Out.Canon (execWaitwRecheck ch idx s) := by
  unfold execWaitwRecheck
  dsimp only [Out.Canon]
  split
  · exact hs
  · split
    · exact getD_wf (fun t e => waitwRead_wf _ _ hs e) hs
    · exact hs

theorem execSignalStart_wf {s : State} (ch : ℕ) (hs : Mems.wf s.mem = true) : Out.Canon (execSignalStart ch s) := by
  grind [execSignalStart, updEntry_wf, startEntry_wf, chanStore_wf, advanceHead_wf, Out.Canon]

theorem execSignalComplete_wf {s : State} (ch idx : ℕ) (hs : Mems.wf s.mem = true)
    : Out.Canon (execSignalComplete ch idx s) := by
  grind [execSignalComplete, endEntry_wf, Out.Canon]

theorem execCancel_wf {s : State} (val : BitVec 64) (hs : Mems.wf s.mem = true) : Out.Canon (execCancel val s) := by
  grind [execCancel, writeCancel_wf, Out.Canon]

theorem execOccupancySample_wf {s : State} (hall : ℕ) (hs : Mems.wf s.mem = true) :
    Out.Canon (execOccupancySample hall s) := by
  unfold execOccupancySample
  dsimp only [Out.Canon]
  split
  · exact hs
  · split
    · exact hs
    · rw [State.updHall_mem]
      exact fold_wf hs (fun t k ht => by rwa [State.updTile_mem]) _

theorem execEnergyTick_wf {s : State} (hall reading : ℕ) (hs : Mems.wf s.mem = true)
    : Out.Canon (execEnergyTick hall reading s) := by
  grind [execEnergyTick, State.updHall_mem, Out.Canon]

theorem execPrecmdSave_wf {s : State} (val : Word) (hs : Mems.wf s.mem = true) : Out.Canon (execPrecmdSave val s) := by
  grind [execPrecmdSave, precmdSave_wf, Out.Canon]

end Sys2Proof.Machine
end

section
/-!
SUPPORT. Canonical memory (log entry 3), function by function: save and restore, registers, links and bring-up.
-/

namespace Sys2Proof.Machine
set_option Elab.async false

open Sys2Proof

theorem saveTile_wf {s : State} (serial base k t : ℕ) (hs : Mems.wf s.mem = true) :
    Mems.wf (State.saveTile s serial base k t).mem = true := by
  -- The writing of lines is made opaque: nothing may unfold it line by line.
  obtain ⟨put, hput⟩ : ∃ put, put = State.putLines := ⟨_, rfl⟩
  have hp : ∀ {t : State} a f n, Mems.wf t.mem = true → Mems.wf (put t a f n).mem = true :=
    hput ▸ fun a f n ht => putLines_wf ht a f n
  rw [State.saveTile, ← hput]
  clear hput
  dsimp only
  refine hp _ _ _ ?_
  refine fold_wf ?_ (fun u c hu => hp _ _ _ hu) _
  refine fold_wf ?_ (fun u q hu => hp _ _ _ (hp _ _ _ hu)) _
  refine fold_wf ?_ (fun u j hu => hp _ _ _ hu) _
  refine fold_wf ?_ (fun u j hu => hp _ _ _ hu) _
  exact hp _ _ _ (hp _ _ _ (hp _ _ _ hs))

theorem execSaveDone_wf {s : State} (hs : Mems.wf s.mem = true) : Out.Canon (execSaveDone s) := by
  -- The saving of a tile, the writing of lines and their seals are made opaque: nothing may unfold them line by line.
  obtain ⟨save, hsave⟩ : ∃ save, save = State.saveTile := ⟨_, rfl⟩
  obtain ⟨put, hput⟩ : ∃ put, put = State.putLines := ⟨_, rfl⟩
  obtain ⟨sealed, hsealed⟩ : ∃ sealed, sealed = sealedByte := ⟨_, rfl⟩
  have hp : ∀ {t : State} a f n, Mems.wf t.mem = true → Mems.wf (put t a f n).mem = true :=
    hput ▸ fun a f n ht => putLines_wf ht a f n
  have hv : ∀ {t : State} a b c d, Mems.wf t.mem = true → Mems.wf (save t a b c d).mem = true :=
    hsave ▸ fun a b c d ht => saveTile_wf a b c d ht
  rw [execSaveDone, ← hput, ← hsealed, ← hsave]
  clear hput hsealed hsave
  dsimp only [Out.Canon]
  split
  · exact hs
  · next h _ =>
    split
    · exact hs
    · have hf := fold_wf (f := fun t k => save t s.fes.serial s.saveBase k (h.tiles.getD k 0)) (flushU_wf h hs)
        (fun t k ht => hv _ _ _ _ ht) (List.range (h.w * h.h))
      have hl := fun a f => freeTiles_wf h (hp a f 512 hf)
      exact setPrestat_wf 2 (by exact hl _ _)

theorem execPrecmdRestore_wf {s : State} (val : Word) (hs : Mems.wf s.mem = true) : Out.Canon (execPrecmdRestore val s) := by
  grind [execPrecmdRestore, precmdRestore_wf, Out.Canon]

/-- What keeps canonical memory at every element of a list keeps it over the list, last element first. -/
theorem foldr_wf {β : Type} {f : β → State → State} {s : State} (hs : Mems.wf s.mem = true)
    (hf : ∀ (a : β) (t : State), Mems.wf t.mem = true → Mems.wf (f a t).mem = true) (l : List β) :
    Mems.wf (l.foldr f s).mem = true := by
  induction l with
  | nil => exact hs
  | cons a l ih => exact hf a _ ih

theorem restoreTile_wf {s : State} (base k t : ℕ) (hs : Mems.wf s.mem = true) :
    Mems.wf (State.restoreTile s base k t).mem = true := by
  -- The reading of lines is made opaque: nothing may unfold it line by line.
  obtain ⟨take, htake⟩ : ∃ take, take = State.takeLines := ⟨_, rfl⟩
  have hp : ∀ {t : State} a {w : ℕ → ℕ → Mems → Mems} n, Mems.wf t.mem = true →
      (∀ o x m, Mems.wf m = true → Mems.wf (w o x m) = true) → Mems.wf (take t a w n).mem = true :=
    htake ▸ fun a _ n ht hw => takeLines_wf ht a hw n
  rw [State.restoreTile, ← htake]
  clear htake
  dsimp only
  refine hp _ _ ?_ fun o x m hm => Mems.set_gal hm (writeBytes_wf (Mems.gal_wf hm) _ _ _)
  refine foldr_wf ?_ (fun j u hu => ?_) _
  · refine foldr_wf ?_ (fun q u hu => ?_) _
    · refine foldr_wf ?_ (fun c u hu => ?_) _
      · exact hp _ _ hs fun o x m hm => Mems.set_vault hm (writeBytes_wf (Mems.vault_wf hm) _ _ _)
      · exact hp _ _ hu fun o x m hm => Mems.set_spad hm (putBytes_sorted (Mems.spad_sorted hm) _ _ _)
    · refine hp _ _ (hp _ _ hu fun o x m hm => ?_) fun o x m hm => ?_
      · exact Mems.set_tscale hm (writeBytes_wf (Mems.tscale_wf hm) _ _ _)
      · exact Mems.set_tdata hm (writeBytes_wf (Mems.tdata_wf hm) _ _ _)
  · exact hp _ _ hu fun o x m hm => Mems.set_land hm (writeBytes_wf (Mems.land_wf hm) _ _ _)

theorem reload_wf {s : State} (sv : Saved) (h : Hall) (hs : Mems.wf s.mem = true) :
    Mems.wf (State.reload s sv h).mem = true := by
  have ha : ∀ (l old : List ℕ) (f : ℕ → ℕ), SMap.wf 0 (old.foldl (fun m t => l.foldl (fun m j =>
      (sv.alcoves.get [] (t * 8 + j)).foldl (fun m e => m.set 0 ((f (t * 64) / 8 + j) * 32768 + e.1 % 32768) e.2)
        (m.clear ((f (t * 64) / 8 + j) * 32768) 32768)) m) s.mem.alcove) = true := by
    intro l old f
    refine foldl_keeps (fun m => SMap.wf 0 m = true) (fun m t hm => ?_) old (Mems.alcove_wf hs)
    refine foldl_keeps (fun m => SMap.wf 0 m = true) (fun m j hm => ?_) l hm
    exact foldl_keeps (fun m => SMap.wf 0 m = true) (fun m e hm => SMap.set_wf 0 _ _ hm) _ (SMap.clear_wf _ _ hm)
  obtain ⟨hhbm, herr, hhost, hspad, hvault, hgal, hland, hdata, hscale, -⟩ := (Mems.wf_iff _).mp hs
  rw [State.reload, Mems.wf_iff]
  exact ⟨hhbm, herr, hhost, hspad, hvault, hgal, hland, hdata, hscale, ha _ _ _⟩

theorem execRestoreDone_wf {s : State} (hs : Mems.wf s.mem = true) : Out.Canon (execRestoreDone s) := by
  -- The restoring of a tile and the reading of lines are made opaque: nothing may unfold them line by line.
  obtain ⟨read, hread⟩ : ∃ read, read = State.lineBytes := ⟨_, rfl⟩
  obtain ⟨restore, hrestore⟩ : ∃ restore, restore = State.restoreTile := ⟨_, rfl⟩
  have hl : ∀ {t : State} a n, Mems.wf t.mem = true → Mems.wf (read t a n).2.mem = true :=
    hread ▸ fun a n ht => lineBytes_wf ht a n
  have hr : ∀ {t : State} a b c, Mems.wf t.mem = true → Mems.wf (restore t a b c).mem = true :=
    hrestore ▸ fun a b c ht => restoreTile_wf a b c ht
  have ht : ∀ {t : State} (h : Hall) base (l : List ℕ), Mems.wf t.mem = true →
      Mems.wf (l.foldr (fun k s => restore s base k (h.tiles.getD k 0)) t).mem = true :=
    fun h base l ht => foldr_wf ht (fun k u hu => hr base k _ hu) l
  rw [execRestoreDone, ← hread, ← hrestore]
  clear hread hrestore
  dsimp only [Out.Canon]
  split
  · exact hs
  · split
    · exact hs
    · next h _ =>
      split
      · exact hs
      · split
        · exact setPrestat_wf 4 (freeTiles_wf h (hl _ _ hs))
        · refine setPrestat_wf 2 ?_
          rw [State.updHall_mem]
          exact reload_wf _ h (ht h _ _ (hl _ _ hs))

theorem execFwinEnable_wf {s : State} (who : Requester) (win : ℕ) (val : BitVec 64) (hs : Mems.wf s.mem = true)
    : Out.Canon (execFwinEnable who win val s) := by
  grind [execFwinEnable, writeFwin_wf, atReg_wf, Out.Canon]

theorem execFwinDisable_wf {s : State} (who : Requester) (win : ℕ) (val : BitVec 64) (hs : Mems.wf s.mem = true)
    : Out.Canon (execFwinDisable who win val s) := by
  grind [execFwinDisable, writeFwin_wf, atReg_wf, Out.Canon]

theorem execFwinDisableDone_wf {s : State} (win : ℕ) (hs : Mems.wf s.mem = true) : Out.Canon (execFwinDisableDone win s) := by
  have he : ∀ (l : List ℕ), Mems.wf (l.foldl (fun s k => s.evictLine k) s).mem = true :=
    fun l => fold_wf hs (fun u k hu => evictLine_wf (s := u) hu k) l
  unfold execFwinDisableDone
  dsimp only [Out.Canon]
  split
  · exact hs
  · exact setFwin_wf _ _ (he _)

theorem execHbmerrClear_wf {s : State} (stack : ℕ) (val : BitVec 64) (hs : Mems.wf s.mem = true)
    : Out.Canon (execHbmerrClear stack val s) := by
  grind [execHbmerrClear, writeHbmerr_wf, Out.Canon]

theorem execPatrolScrub_wf {s : State} (line : ℕ) (hs : Mems.wf s.mem = true) : Out.Canon (execPatrolScrub line s) := by
  grind [execPatrolScrub, hbmRead_wf, Out.Canon]

theorem execLogClear_wf {s : State} (who : Requester) (die : ℕ) (val : BitVec 64) (hs : Mems.wf s.mem = true)
    : Out.Canon (execLogClear who die val s) := by
  grind [execLogClear, writeVlog_wf, atReg_wf, Out.Canon]

theorem execErrcntClear_wf {s : State} (link : ℕ) (val : BitVec 64) (hs : Mems.wf s.mem = true)
    : Out.Canon (execErrcntClear link val s) := by
  grind [execErrcntClear, writeErrcnt_wf, Out.Canon]

theorem execRegisterWrite_wf {s : State} (who : Requester) (off val : BitVec 64) (hs : Mems.wf s.mem = true) :
    Out.Canon (execRegisterWrite who off val s) := by
  unfold execRegisterWrite
  dsimp only [Out.Canon]
  split
  · split
    · exact unsupported_wf hs
    · exact hs
  · exact atReg_wf _ _ _ hs (getD_wf (fun t e => regWrite_wf _ _ _ hs e) hs)

theorem bar0_wf {s : State} (h : HostReq) (hs : Mems.wf s.mem = true) : Mems.wf (State.bar0 s h).mem = true := by
  unfold State.bar0
  split
  · exact unsupported_wf hs
  · split
    · exact unsupported_wf hs
    · refine atReg_wf _ _ _ hs ?_
      split
      · exact getD_wf (fun t e => regWrite_wf _ _ _ hs e) hs
      · exact hs

theorem bar2Store_wf {s : State} (r : Rqst) (pa n x f : ℕ) (hs : Mems.wf s.mem = true) :
    Mems.wf (State.bar2Store s r pa n x f).1.mem = true := by
  induction f generalizing s pa n x with
  | zero => exact hs
  | succ f ih =>
    unfold State.bar2Store
    grind [engWrite_wf]

theorem bar2Load_wf {s : State} (r : Rqst) (pa n f : ℕ) (hs : Mems.wf s.mem = true) :
    Mems.wf (State.bar2Load s r pa n f).2.1.mem = true := by
  induction f generalizing s pa n with
  | zero => exact hs
  | succ f ih =>
    unfold State.bar2Load
    grind [engRead_wf]

theorem execHostAccess_wf {s : State} (h : HostReq) (hs : Mems.wf s.mem = true) : Out.Canon (execHostAccess h s) := by
  grind [execHostAccess, bar2Load_wf, bar0_wf, State.updSys_mem, bar2Store_wf, unsupported_wf, Out.Canon]

theorem execAttcmd_wf {s : State} (val : BitVec 64) (hs : Mems.wf s.mem = true) : Out.Canon (execAttcmd val s) := by
  grind [execAttcmd, writeAttcmd_wf, Out.Canon]

theorem execAttestDone_wf {s : State} (hs : Mems.wf s.mem = true) : Out.Canon (execAttestDone s) := by
  grind [execAttestDone, State.updSys_mem, Out.Canon]

theorem relinkStreams_wf {s : State} (hs : Mems.wf s.mem = true) : Mems.wf (State.relinkStreams s).mem = true := by
  grind [State.relinkStreams]

theorem setLink_wf {s : State} (l : ℕ) (k : Link) (hs : Mems.wf s.mem = true) : Mems.wf (State.setLink s l k).mem = true := by
  grind [State.setLink, relinkStreams_wf]

theorem execFlitReceive_wf {s : State} (link dir : ℕ) (crcOk : Bool) (hs : Mems.wf s.mem = true)
    : Out.Canon (execFlitReceive link dir crcOk s) := by
  grind [execFlitReceive, setLink_wf, Out.Canon]

theorem execRetrainDone_wf {s : State} (link : ℕ) (hs : Mems.wf s.mem = true) : Out.Canon (execRetrainDone link s) := by
  grind [execRetrainDone, setLink_wf, Out.Canon]

theorem execRetrainTimeout_wf {s : State} (link : ℕ) (hs : Mems.wf s.mem = true) : Out.Canon (execRetrainTimeout link s) := by
  grind [execRetrainTimeout, setLink_wf, Out.Canon]

theorem setPort_wf {s : State} (p : ℕ) (k : Link) (hs : Mems.wf s.mem = true) : Mems.wf (State.setPort s p k).mem = true := by
  grind [State.setPort]

theorem execHarpinFrame_wf {s : State} (port : ℕ) (crcOk : Bool) (hdr : List (BitVec 64)) (payload : List (BitVec 8))
    (hs : Mems.wf s.mem = true) : Out.Canon (execHarpinFrame port crcOk hdr payload s) := by
  grind [execHarpinFrame, setPort_wf, countPort_wf, Out.Canon]

theorem execPortUp_wf {s : State} (port : ℕ) (hs : Mems.wf s.mem = true) : Out.Canon (execPortUp port s) := by
  grind [execPortUp, setPort_wf, Out.Canon]

theorem execReset_wf {s : State} (hs : Mems.wf s.mem = true) : Out.Canon (execReset s) := hs

theorem execFirmwareVerify_wf {s : State} (code : ℕ) (svn : BitVec 32) (hs : Mems.wf s.mem = true)
    : Out.Canon (execFirmwareVerify code svn s) := by
  grind [execFirmwareVerify, State.updSys_mem, Out.Canon]

theorem execHbmTraining_wf {s : State} (hs : Mems.wf s.mem = true) : Out.Canon (execHbmTraining s) := by
  grind [execHbmTraining, State.updSys_mem, scrubLines_wf, Out.Canon]

theorem execSelfTest_wf {s : State} (withheld : BitVec 128) (unitOk : Bool) (hs : Mems.wf s.mem = true)
    : Out.Canon (execSelfTest withheld unitOk s) := by
  grind [execSelfTest, State.updSys_mem, Out.Canon]

theorem execIlupolTraining_wf {s : State} (up0 up1 : Bool) (hs : Mems.wf s.mem = true)
    : Out.Canon (execIlupolTraining up0 up1 s) := by
  grind [execIlupolTraining, State.updSys_mem, Out.Canon]

theorem execPcieLinkUp_wf {s : State} (recovery : Bool) (hs : Mems.wf s.mem = true)
    : Out.Canon (execPcieLinkUp recovery s) := by
  grind [execPcieLinkUp, State.updSys_mem, Out.Canon]

theorem execHarpinTraining_wf {s : State} (up pkg : BitVec 16) (routes : List RouteWrite) (hs : Mems.wf s.mem = true)
    : Out.Canon (execHarpinTraining up pkg routes s) := by
  grind [execHarpinTraining, State.updSys_mem, Out.Canon]

theorem execReady_wf {s : State} (hs : Mems.wf s.mem = true) : Out.Canon (execReady s) := by
  grind [execReady, State.updSys_mem, Out.Canon]

theorem execWearUpdate_wf {s : State} (mon : ℕ) (hours : BitVec 32) (conf : BitVec 8) (hs : Mems.wf s.mem = true)
    : Out.Canon (execWearUpdate mon hours conf s) := by
  grind [execWearUpdate, State.updSys_mem, Out.Canon]

theorem execIllegalEncoding_wf {s : State} (word0 : BitVec 32) (hs : Mems.wf s.mem = true)
    : Out.Canon (execIllegalEncoding word0 s) := by
  grind [execIllegalEncoding, trap_wf, Out.Canon]

theorem execFetchFault_wf {s : State} (addr : Word) (why : FetchWhy) (hs : Mems.wf s.mem = true) :
    Out.Canon (execFetchFault addr why s) := by
  unfold execFetchFault
  dsimp only [Out.Canon]
  split
  · exact pageFault_wf _ _ _ _ hs
  · exact trap_wf _ _ _ hs

theorem aperturePut_wf {s : State} (r : Req) (data : Vec) (f : FFlags) (hs : Mems.wf s.mem = true)
    : Mems.wf (State.aperturePut s r data f).mem = true := by
  grind [State.aperturePut, give_wf, State.updCore_mem, served_wf]

theorem execCoreApertureAccess_wf {s : State} (req : ℕ) (hs : Mems.wf s.mem = true)
    : Out.Canon (execCoreApertureAccess req s) := by
  grind [execCoreApertureAccess, dropReq_wf, withReq_wf, noteReach_wf, served_wf, addFail_wf, locWrite_wf, rmwAt_wf,
    aperturePut_wf, locWriteMasked_wf, Out.Canon]

theorem execGalleryRead_wf {s : State} (msg : ℕ) (hs : Mems.wf s.mem = true) : Out.Canon (execGalleryRead msg s) := by
  grind [execGalleryRead, give_wf, served_wf, Out.Canon]

theorem execPcieCompletion_wf {s : State} (req : ℕ) (hs : Mems.wf s.mem = true) : Out.Canon (execPcieCompletion req s) := by
  grind [execPcieCompletion, notify_mem, readAll_wf, bumpSsn_mem, withReq_wf, atomicDone_wf, hostWrite_wf, Out.Canon]

theorem execLaneLockLoss_wf {s : State} (link : ℕ) (hs : Mems.wf s.mem = true) : Out.Canon (execLaneLockLoss link s) := by
  grind [execLaneLockLoss, setLink_wf, Out.Canon]

end Sys2Proof.Machine
end

section
/-!
SUPPORT. Canonical memory (log entry 3), function by function: all instructions together, the engines of a cycle, and a step.
-/

namespace Sys2Proof.Machine
set_option Elab.async false

open Sys2Proof

theorem exec_wf {s : State} (i : Instr) (hs : Mems.wf s.mem = true) : Out.Canon (exec i s) := by
  cases i with
  | add d a b => exact execAdd_wf d a b hs
  | sub d a b => exact execSub_wf d a b hs
  | mul d a b => exact execMul_wf d a b hs
  | mulh d a b => exact execMulh_wf d a b hs
  | mulhw d a b => exact execMulhw_wf d a b hs
  | and d a b => exact execAnd_wf d a b hs
  | or d a b => exact execOr_wf d a b hs
  | xor d a b => exact execXor_wf d a b hs
  | andn d a b => exact execAndn_wf d a b hs
  | orn d a b => exact execOrn_wf d a b hs
  | shl d a b => exact execShl_wf d a b hs
  | shr d a b => exact execShr_wf d a b hs
  | sra d a b => exact execSra_wf d a b hs
  | rot d a b => exact execRot_wf d a b hs
  | min d a b => exact execMin_wf d a b hs
  | max d a b => exact execMax_wf d a b hs
  | minw d a b => exact execMinw_wf d a b hs
  | maxw d a b => exact execMaxw_wf d a b hs
  | clz d a => exact execClz_wf d a hs
  | ctz d a => exact execCtz_wf d a hs
  | popc d a => exact execPopc_wf d a hs
  | brev d a => exact execBrev_wf d a hs
  | bswp d a => exact execBswp_wf d a hs
  | div d a b la => exact execDiv_wf d a b la hs
  | divw d a b la => exact execDivw_wf d a b la hs
  | rem d a b la => exact execRem_wf d a b la hs
  | remw d a b la => exact execRemw_wf d a b la hs
  | peq d a b => exact execPeq_wf d a b hs
  | pne d a b => exact execPne_wf d a b hs
  | plt d a b => exact execPlt_wf d a b hs
  | ple d a b => exact execPle_wf d a b hs
  | pltw d a b => exact execPltw_wf d a b hs
  | plew d a b => exact execPlew_wf d a b hs
  | pand d a b => exact execPand_wf d a b hs
  | por d a b => exact execPor_wf d a b hs
  | pxor d a b => exact execPxor_wf d a b hs
  | pnot d a => exact execPnot_wf d a hs
  | sel d a b p => exact execSel_wf d a b p hs
  | nrand d a b => exact execNrand_wf d a b hs
  | addi d a imm => exact execAddi_wf d a imm hs
  | addiLiteral d a lit => exact execAddiLiteral_wf d a lit hs
  | andi d a imm => exact execAndi_wf d a imm hs
  | andiLiteral d a lit => exact execAndiLiteral_wf d a lit hs
  | ori d a imm => exact execOri_wf d a imm hs
  | oriLiteral d a lit => exact execOriLiteral_wf d a lit hs
  | xori d a imm => exact execXori_wf d a imm hs
  | xoriLiteral d a lit => exact execXoriLiteral_wf d a lit hs
  | shli d a n => exact execShli_wf d a n hs
  | shri d a n => exact execShri_wf d a n hs
  | srai d a n => exact execSrai_wf d a n hs
  | roti d a n => exact execRoti_wf d a n hs
  | peqi d a imm => exact execPeqi_wf d a imm hs
  | peqiLiteral d a lit => exact execPeqiLiteral_wf d a lit hs
  | plti d a imm => exact execPlti_wf d a imm hs
  | pltiLiteral d a lit => exact execPltiLiteral_wf d a lit hs
  | bfx d a pos wm1 => exact execBfx_wf d a pos wm1 hs
  | bfi d a pos wm1 => exact execBfi_wf d a pos wm1 hs
  | exts d a wm1 => exact execExts_wf d a wm1 hs
  | extz d a wm1 => exact execExtz_wf d a wm1 hs
  | movl d imm => exact execMovl_wf d imm hs
  | movlLiteral d lit => exact execMovlLiteral_wf d lit hs
  | addpc d imm => exact execAddpc_wf d imm hs
  | addpcLiteral d lit => exact execAddpcLiteral_wf d lit hs
  | jalr d a imm => exact execJalr_wf d a imm hs
  | jalrLiteral d a lit => exact execJalrLiteral_wf d a lit hs
  | loop d imm => exact execLoop_wf d imm hs
  | loopLiteral d lit => exact execLoopLiteral_wf d lit hs
  | br gu disp => exact execBr_wf gu disp hs
  | jal gu disp => exact execJal_wf gu disp hs
  | ldb d a la rh off => exact execLdb_wf d a la rh off hs
  | ldbLiteral d a la rh lit => exact execLdbLiteral_wf d a la rh lit hs
  | ldbs d a la rh off => exact execLdbs_wf d a la rh off hs
  | ldbsLiteral d a la rh lit => exact execLdbsLiteral_wf d a la rh lit hs
  | ldh d a la rh off => exact execLdh_wf d a la rh off hs
  | ldhLiteral d a la rh lit => exact execLdhLiteral_wf d a la rh lit hs
  | ldhs d a la rh off => exact execLdhs_wf d a la rh off hs
  | ldhsLiteral d a la rh lit => exact execLdhsLiteral_wf d a la rh lit hs
  | ldw d a la rh off => exact execLdw_wf d a la rh off hs
  | ldwLiteral d a la rh lit => exact execLdwLiteral_wf d a la rh lit hs
  | ldws d a la rh off => exact execLdws_wf d a la rh off hs
  | ldwsLiteral d a la rh lit => exact execLdwsLiteral_wf d a la rh lit hs
  | ldd d a la rh off => exact execLdd_wf d a la rh off hs
  | lddLiteral d a la rh lit => exact execLddLiteral_wf d a la rh lit hs
  | stb d a rh off => exact execStb_wf d a rh off hs
  | stbLiteral d a rh lit => exact execStbLiteral_wf d a rh lit hs
  | sth d a rh off => exact execSth_wf d a rh off hs
  | sthLiteral d a rh lit => exact execSthLiteral_wf d a rh lit hs
  | stw d a rh off => exact execStw_wf d a rh off hs
  | stwLiteral d a rh lit => exact execStwLiteral_wf d a rh lit hs
  | std d a rh off => exact execStd_wf d a rh off hs
  | stdLiteral d a rh lit => exact execStdLiteral_wf d a rh lit hs
  | pref a rh off => exact execPref_wf a rh off hs
  | prefLiteral a rh lit => exact execPrefLiteral_wf a rh lit hs
  | evict a rh off => exact execEvict_wf a rh off hs
  | evictLiteral a rh lit => exact execEvictLiteral_wf a rh lit hs
  | trap imm => exact execTrap_wf imm hs
  | gets a num => exact execGets_wf a num hs
  | sets a num => exact execSets_wf a num hs
  | tlbinvPage a scope => exact execTlbinvPage_wf a scope hs
  | tlbinvAsid a scope => exact execTlbinvAsid_wf a scope hs
  | tlbinvAll a scope => exact execTlbinvAll_wf a scope hs
  | tlbinvPin a scope => exact execTlbinvPin_wf a scope hs
  | bkpt imm => exact execBkpt_wf imm hs
  | pair gu sh vh => exact execPair_wf gu sh vh hs
  | vadd gu ty rm sat d a b => exact execVadd_wf gu ty rm sat d a b hs
  | vsub gu ty rm sat d a b => exact execVsub_wf gu ty rm sat d a b hs
  | vmul gu ty rm sat d a b => exact execVmul_wf gu ty rm sat d a b hs
  | vfma gu ty rm sat d a b c => exact execVfma_wf gu ty rm sat d a b c hs
  | vfms gu ty rm sat d a b c => exact execVfms_wf gu ty rm sat d a b c hs
  | vfnma gu ty rm sat d a b c => exact execVfnma_wf gu ty rm sat d a b c hs
  | vdiv gu la ty rm sat d a b => exact execVdiv_wf gu la ty rm sat d a b hs
  | vsqrt gu la ty rm d a => exact execVsqrt_wf gu la ty rm d a hs
  | vrsq gu la ty rm d a => exact execVrsq_wf gu la ty rm d a hs
  | vmin gu ty d a b => exact execVmin_wf gu ty d a b hs
  | vmax gu ty d a b => exact execVmax_wf gu ty d a b hs
  | vabs gu ty sat d a => exact execVabs_wf gu ty sat d a hs
  | vneg gu ty sat d a => exact execVneg_wf gu ty sat d a hs
  | vclamp gu ty d a b c => exact execVclamp_wf gu ty d a b c hs
  | vcmp gu ty rel d a b => exact execVcmp_wf gu ty rel d a b hs
  | vsel gu ty d a b p => exact execVsel_wf gu ty d a b p hs
  | vcvt gu ty src rm sat d a c part => exact execVcvt_wf gu ty src rm sat d a c part hs
  | vcvtLiteral gu ty src rm sat d a c lit => exact execVcvtLiteral_wf gu ty src rm sat d a c lit hs
  | vscale gu ty src d a part => exact execVscale_wf gu ty src d a part hs
  | vscaleLiteral gu ty src d a lit => exact execVscaleLiteral_wf gu ty src d a lit hs
  | vrsum gu ty sat d a => exact execVrsum_wf gu ty sat d a hs
  | vrmin gu ty d a => exact execVrmin_wf gu ty d a hs
  | vrmax gu ty d a => exact execVrmax_wf gu ty d a hs
  | vdot gu ty d a b => exact execVdot_wf gu ty d a b hs
  | viadd gu ty sat d a b => exact execViadd_wf gu ty sat d a b hs
  | visub gu ty sat d a b => exact execVisub_wf gu ty sat d a b hs
  | vimul gu ty sat d a b => exact execVimul_wf gu ty sat d a b hs
  | vimad gu ty sat d a b c => exact execVimad_wf gu ty sat d a b c hs
  | vand gu ty d a b => exact execVand_wf gu ty d a b hs
  | vor gu ty d a b => exact execVor_wf gu ty d a b hs
  | vxor gu ty d a b => exact execVxor_wf gu ty d a b hs
  | vshl gu ty d a b => exact execVshl_wf gu ty d a b hs
  | vshr gu ty d a b => exact execVshr_wf gu ty d a b hs
  | vsra gu ty d a b => exact execVsra_wf gu ty d a b hs
  | vsplat gu ty d a => exact execVsplat_wf gu ty d a hs
  | vsplatLiteral gu ty d lit => exact execVsplatLiteral_wf gu ty d lit hs
  | vperm gu ty d a b => exact execVperm_wf gu ty d a b hs
  | vext gu ty d a b => exact execVext_wf gu ty d a b hs
  | vins gu ty d a b => exact execVins_wf gu ty d a b hs
  | vmov gu ty d a => exact execVmov_wf gu ty d a hs
  | vld gu la ty rh d a imm => exact execVld_wf gu la ty rh d a imm hs
  | vldLiteral gu la ty rh d a lit => exact execVldLiteral_wf gu la ty rh d a lit hs
  | vst gu ty rh d a imm => exact execVst_wf gu ty rh d a imm hs
  | vstLiteral gu ty rh d a lit => exact execVstLiteral_wf gu ty rh d a lit hs
  | vlds gu la ty rh d a b imm => exact execVlds_wf gu la ty rh d a b imm hs
  | vldsLiteral gu la ty rh d a b lit => exact execVldsLiteral_wf gu la ty rh d a b lit hs
  | vsts gu ty rh d a b imm => exact execVsts_wf gu ty rh d a b imm hs
  | vstsLiteral gu ty rh d a b lit => exact execVstsLiteral_wf gu ty rh d a b lit hs
  | vgath gu la ty rh d a b imm => exact execVgath_wf gu la ty rh d a b imm hs
  | vgathLiteral gu la ty rh d a b lit => exact execVgathLiteral_wf gu la ty rh d a b lit hs
  | vscat gu ty rh d a b imm => exact execVscat_wf gu ty rh d a b imm hs
  | vscatLiteral gu ty rh d a b lit => exact execVscatLiteral_wf gu ty rh d a b lit hs
  | tcfg gu ty t rows rb => exact execTcfg_wf gu ty t rows rb hs
  | tld gu la rh d gs a b scale t bm => exact execTld_wf gu la rh d gs a b scale t bm hs
  | tst gu la rh d gs a b scale t => exact execTst_wf gu la rh d gs a b scale t hs
  | tzero gu t => exact execTzero_wf gu t hs
  | mma gu la ty sat z d gs ta tb abase => exact execMma_wf gu la ty sat z d gs ta tb abase hs
  | mmac gu la ty sat z d gs ta tb abase => exact execMmac_wf gu la ty sat z d gs ta tb abase hs
  | mpoll gu d a => exact execMpoll_wf gu d a hs
  | mwait gu d a => exact execMwait_wf gu d a hs
  | amov gu t toa abase => exact execAmov_wf gu t toa abase hs
  | amovt gu t abase => exact execAmovt_wf gu t abase hs
  | azero gu a abase => exact execAzero_wf gu a abase hs
  | afin gu ty acc rm sat t abase => exact execAfin_wf gu ty acc rm sat t abase hs
  | msave gu la d a => exact execMsave_wf gu la d a hs
  | mrest gu la d a => exact execMrest_wf gu la d a hs
  | cpset gu idx a => exact execCpset_wf gu idx a hs
  | cpget gu d idx => exact execCpget_wf gu d idx hs
  | cpgo gu la d gs => exact execCpgo_wf gu la d gs hs
  | cpcan gu d a => exact execCpcan_wf gu d a hs
  | sealr gu la d a => exact execSealr_wf gu la d a hs
  | mfill gu la rh d a b c count => exact execMfill_wf gu la rh d a b c count hs
  | nmcmd gu la d a => exact execNmcmd_wf gu la d a hs
  | nmask gu d a b thr => exact execNmask_wf gu d a b thr hs
  | amoadd gu la ty sat rh d a b imm => exact execAmoadd_wf gu la ty sat rh d a b imm hs
  | amoaddLiteral gu la ty sat rh d a b lit => exact execAmoaddLiteral_wf gu la ty sat rh d a b lit hs
  | amomin gu la ty rh d a b imm => exact execAmomin_wf gu la ty rh d a b imm hs
  | amominLiteral gu la ty rh d a b lit => exact execAmominLiteral_wf gu la ty rh d a b lit hs
  | amomax gu la ty rh d a b imm => exact execAmomax_wf gu la ty rh d a b imm hs
  | amomaxLiteral gu la ty rh d a b lit => exact execAmomaxLiteral_wf gu la ty rh d a b lit hs
  | amoand gu la ty rh d a b imm => exact execAmoand_wf gu la ty rh d a b imm hs
  | amoandLiteral gu la ty rh d a b lit => exact execAmoandLiteral_wf gu la ty rh d a b lit hs
  | amoor gu la ty rh d a b imm => exact execAmoor_wf gu la ty rh d a b imm hs
  | amoorLiteral gu la ty rh d a b lit => exact execAmoorLiteral_wf gu la ty rh d a b lit hs
  | amoxor gu la ty rh d a b imm => exact execAmoxor_wf gu la ty rh d a b imm hs
  | amoxorLiteral gu la ty rh d a b lit => exact execAmoxorLiteral_wf gu la ty rh d a b lit hs
  | amoswp gu la ty rh d a b imm => exact execAmoswp_wf gu la ty rh d a b imm hs
  | amoswpLiteral gu la ty rh d a b lit => exact execAmoswpLiteral_wf gu la ty rh d a b lit hs
  | amocas gu la ty rh d a b c imm => exact execAmocas_wf gu la ty rh d a b c imm hs
  | amocasLiteral gu la ty rh d a b c lit => exact execAmocasLiteral_wf gu la ty rh d a b c lit hs
  | rdadd gu ty rh a b imm => exact execRdadd_wf gu ty rh a b imm hs
  | rdaddLiteral gu ty rh a b lit => exact execRdaddLiteral_wf gu ty rh a b lit hs
  | rdmin gu ty rh a b imm => exact execRdmin_wf gu ty rh a b imm hs
  | rdminLiteral gu ty rh a b lit => exact execRdminLiteral_wf gu ty rh a b lit hs
  | rdmax gu ty rh a b imm => exact execRdmax_wf gu ty rh a b imm hs
  | rdmaxLiteral gu ty rh a b lit => exact execRdmaxLiteral_wf gu ty rh a b lit hs
  | xadd gu ty rh a b imm => exact execXadd_wf gu ty rh a b imm hs
  | xaddLiteral gu ty rh a b lit => exact execXaddLiteral_wf gu ty rh a b lit hs
  | xrnd gu la ty rm sat rh d a x64 clr imm => exact execXrnd_wf gu la ty rm sat rh d a x64 clr imm hs
  | xrndLiteral gu la ty rm sat rh d a x64 clr lit => exact execXrndLiteral_wf gu la ty rm sat rh d a x64 clr lit hs
  | pbinit gu la d a b c => exact execPbinit_wf gu la d a b c hs
  | pbarr gu la d a => exact execPbarr_wf gu la d a hs
  | pbexp gu a b => exact execPbexp_wf gu a b hs
  | pbwait gu d a b => exact execPbwait_wf gu d a b hs
  | waita gu la d a b imm => exact execWaita_wf gu la d a b imm hs
  | waitaLiteral gu la d a b lit => exact execWaitaLiteral_wf gu la d a b lit hs
  | ctarm gu la kind d a b c => exact execCtarm_wf gu la kind d a b c hs
  | ctinc gu la d a b => exact execCtinc_wf gu la d a b hs
  | fence gu d scope kind => exact execFence_wf gu d scope kind hs
  | fenceInst gu d scope => exact execFenceInst_wf gu d scope hs
  | spawn gu d a b => exact execSpawn_wf gu d a b hs
  | send gu la h d a b => exact execSend_wf gu la h d a b hs
  | tend gu => exact execTend_wf gu hs
  | cont gu la d a b => exact execCont_wf gu la d a b hs
  | jdec gu la d a => exact execJdec_wf gu la d a hs
  | join gu la d a => exact execJoin_wf gu la d a hs
  | leave gu la d a => exact execLeave_wf gu la d a hs
  | maskh gu => exact execMaskh_wf gu hs
  | unmaskh gu => exact execUnmaskh_wf gu hs
  | step gu d => exact execStep_wf gu d hs
  | stepq gu d => exact execStepq_wf gu d hs
  | rget gu la ty d a dx dy off => exact execRget_wf gu la ty d a dx dy off hs
  | rgetv gu la d a dx dy off => exact execRgetv_wf gu la d a dx dy off hs
  | hallq gu la d a => exact execHallq_wf gu la d a hs
  | sring gu d a b q => exact execSring_wf gu d a b q hs
  | sbindCons gu d b q => exact execSbindCons_wf gu d b q hs
  | sbindProd gu d b q k => exact execSbindProd_wf gu d b q k hs
  | sgain gu d b q => exact execSgain_wf gu d b q hs
  | sstat gu d q wsel => exact execSstat_wf gu d q wsel hs
  | sunbind gu d q => exact execSunbind_wf gu d q hs
  | dlaunch gu la d a b => exact execDlaunch_wf gu la d a b hs
  | coll gu la d a => exact execColl_wf gu la d a hs
  | rlinv gu d a => exact execRlinv_wf gu d a hs
  | ksend m c => exact execKsend_wf m c hs
  | krecv m c => exact execKrecv_wf m c hs
  | kred m c => exact execKred_wf m c hs
  | kcopy m c => exact execKcopy_wf m c hs
  | kwait m tag all => exact execKwait_wf m tag all hs
  | ksig m peer prel tag val => exact execKsig_wf m peer prel tag val hs
  | kloop m count disp => exact execKloop_wf m count disp hs
  | kend m => exact execKend_wf m hs
  | nop => exact execNop_wf hs
  | eret => exact execEret_wf hs
  | wfe => exact execWfe_wf hs
  | matrixJobStart bay => exact execMatrixJobStart_wf bay hs
  | tileRowMove bay job => exact execTileRowMove_wf bay job hs
  | matrixJobComplete bay job => exact execMatrixJobComplete_wf bay job hs
  | copyStart bay => exact execCopyStart_wf bay hs
  | shapeRecordFetch bay copy => exact execShapeRecordFetch_wf bay copy hs
  | copyScout bay copy => exact execCopyScout_wf bay copy hs
  | moveElement bay copy ahead => exact execMoveElement_wf bay copy ahead hs
  | copyComplete bay copy => exact execCopyComplete_wf bay copy hs
  | mfillLine fill => exact execMfillLine_wf fill hs
  | nmuLock cmd slice => exact execNmuLock_wf cmd slice hs
  | nmuAccept cmd => exact execNmuAccept_wf cmd hs
  | nmuExecute stack => exact execNmuExecute_wf stack hs
  | nmuLine stack => exact execNmuLine_wf stack hs
  | barrierUpdate core off n => exact execBarrierUpdate_wf core off n hs
  | waitaWake core pend => exact execWaitaWake_wf core pend hs
  | recordPush msg => exact execRecordPush_wf msg hs
  | recordPark msg => exact execRecordPark_wf msg hs
  | vestibuleRelease tile => exact execVestibuleRelease_wf tile hs
  | taskPop core => exact execTaskPop_wf core hs
  | handlerStart core => exact execHandlerStart_wf core hs
  | stepSignal tile dir => exact execStepSignal_wf tile dir hs
  | stepEntry tile => exact execStepEntry_wf tile hs
  | stall tile => exact execStall_wf tile hs
  | streamAppend core q => exact execStreamAppend_wf core q hs
  | streamCredit core q => exact execStreamCredit_wf core q hs
  | streamSample core q => exact execStreamSample_wf core q hs
  | weightMessage core q => exact execWeightMessage_wf core q hs
  | scheduleDecode m => exact execScheduleDecode_wf m hs
  | chunkComplete m k => exact execChunkComplete_wf m k hs
  | dlv pkt => exact execDlv_wf pkt hs
  | open_ pkt => exact execOpen_wf pkt hs
  | go pkt => exact execGo_wf pkt hs
  | cup pkt => exact execCup_wf pkt hs
  | cdn pkt => exact execCdn_wf pkt hs
  | abt pkt => exact execAbt_wf pkt hs
  | sig pkt => exact execSig_wf pkt hs
  | collectiveTimeout m => exact execCollectiveTimeout_wf m hs
  | packetTransit pkt => exact execPacketTransit_wf pkt hs
  | sliceRead req into => exact execSliceRead_wf req into hs
  | sliceWrite req => exact execSliceWrite_wf req hs
  | sliceAtomic req => exact execSliceAtomic_wf req hs
  | sliceEvict req => exact execSliceEvict_wf req hs
  | sliceFill req => exact execSliceFill_wf req hs
  | readResponse req => exact execReadResponse_wf req hs
  | storeAck req => exact execStoreAck_wf req hs
  | witnessExpire core slice => exact execWitnessExpire_wf core slice hs
  | resultWriteback core pend => exact execResultWriteback_wf core pend hs
  | serviceOverflowDrain tile core => exact execServiceOverflowDrain_wf tile core hs
  | rcmdRetry tidx rva => exact execRcmdRetry_wf tidx rva hs
  | rcmdAbort tidx rva => exact execRcmdAbort_wf tidx rva hs
  | wfeWake core => exact execWfeWake_wf core hs
  | channelEnable who ch val => exact execChannelEnable_wf who ch val hs
  | channelDisable who ch val => exact execChannelDisable_wf who ch val hs
  | tailWrite who ch val => exact execTailWrite_wf who ch val hs
  | hallAllocate => exact execHallAllocate_wf hs
  | launchStart ch => exact execLaunchStart_wf ch hs
  | launchEnd hall => exact execLaunchEnd_wf hall hs
  | collEntryStart ch => exact execCollEntryStart_wf ch hs
  | waitwStart ch => exact execWaitwStart_wf ch hs
  | waitwRecheck ch idx => exact execWaitwRecheck_wf ch idx hs
  | signalStart ch => exact execSignalStart_wf ch hs
  | signalComplete ch idx => exact execSignalComplete_wf ch idx hs
  | cancel val => exact execCancel_wf val hs
  | occupancySample hall => exact execOccupancySample_wf hall hs
  | energyTick hall reading => exact execEnergyTick_wf hall reading hs
  | precmdSave val => exact execPrecmdSave_wf val hs
  | saveDone => exact execSaveDone_wf hs
  | precmdRestore val => exact execPrecmdRestore_wf val hs
  | restoreDone => exact execRestoreDone_wf hs
  | fwinEnable who win val => exact execFwinEnable_wf who win val hs
  | fwinDisable who win val => exact execFwinDisable_wf who win val hs
  | fwinDisableDone win => exact execFwinDisableDone_wf win hs
  | hbmerrClear stack val => exact execHbmerrClear_wf stack val hs
  | patrolScrub line => exact execPatrolScrub_wf line hs
  | logClear who die val => exact execLogClear_wf who die val hs
  | errcntClear link val => exact execErrcntClear_wf link val hs
  | registerWrite who off val => exact execRegisterWrite_wf who off val hs
  | hostAccess h => exact execHostAccess_wf h hs
  | attcmd val => exact execAttcmd_wf val hs
  | attestDone => exact execAttestDone_wf hs
  | flitReceive link dir crcOk => exact execFlitReceive_wf link dir crcOk hs
  | retrainDone link => exact execRetrainDone_wf link hs
  | retrainTimeout link => exact execRetrainTimeout_wf link hs
  | harpinFrame port crcOk hdr payload => exact execHarpinFrame_wf port crcOk hdr payload hs
  | portUp port => exact execPortUp_wf port hs
  | reset => exact execReset_wf hs
  | firmwareVerify code svn => exact execFirmwareVerify_wf code svn hs
  | hbmTraining => exact execHbmTraining_wf hs
  | selfTest withheld unitOk => exact execSelfTest_wf withheld unitOk hs
  | ilupolTraining up0 up1 => exact execIlupolTraining_wf up0 up1 hs
  | pcieLinkUp recovery => exact execPcieLinkUp_wf recovery hs
  | harpinTraining up pkg routes => exact execHarpinTraining_wf up pkg routes hs
  | ready => exact execReady_wf hs
  | wearUpdate mon hours conf => exact execWearUpdate_wf mon hours conf hs
  | illegalEncoding word0 => exact execIllegalEncoding_wf word0 hs
  | fetchFault addr why => exact execFetchFault_wf addr why hs
  | coreApertureAccess req => exact execCoreApertureAccess_wf req hs
  | galleryRead msg => exact execGalleryRead_wf msg hs
  | pcieCompletion req => exact execPcieCompletion_wf req hs
  | laneLockLoss link => exact execLaneLockLoss_wf link hs

theorem runWords_wf {s : State} (ck : ℕ) (ws : List (BitVec 32)) (hs : Mems.wf s.mem = true)
    : Out.Canon (State.runWords s ck ws) := by
  grind [State.runWords, loadIr_wf, exec_wf, execIllegalEncoding_wf, Out.Canon]

theorem fetchAndRun_wf {s : State} (ck : ℕ) (hs : Mems.wf s.mem = true) : Out.Canon (State.fetchAndRun s ck) := by
  grind [State.fetchAndRun, fetchInstr_wf, runWords_wf, execFetchFault_wf, Fetched.Canon, Out.Canon]

theorem issueCore_wf {s : State} (ck : ℕ) (hs : Mems.wf s.mem = true) : Out.Canon (State.issueCore s ck) := by
  grind [State.issueCore, runWords_wf, fetchAndRun_wf, Out.Canon]

theorem collAnswer_wf {s : State} (m : Member) (inst code : ℕ) (hs : Mems.wf s.mem = true)
    : Mems.wf (State.collAnswer s m inst code).mem = true := by
  grind [State.collAnswer, deliver_wf]

theorem keepBlock_wf {s : State} (id : ℕ) (m : Option Member) (hs : Mems.wf s.mem = true) :
    Mems.wf (State.keepBlock s id m).mem = true := by
  cases m with
  | none => exact hs
  | some m => exact hs

theorem runStart_wf {s : State} (m : Member) (hs : Mems.wf s.mem = true) : Mems.wf (State.runStart s m).mem = true := by
  have hc := collStart_wf m (some m.tile) hs
  unfold State.runStart
  split
  · exact collAnswer_wf _ _ _ hs
  · generalize s.collStart m (some m.tile) = r at hc ⊢
    cases r with
    | started t n => exact collAnswer_wf _ _ _ hc
    | failed t code x => exact collAnswer_wf _ _ _ hc
    | page t va acc why x =>
      refine getD_wf (fun u e => ?_) (collAnswer_wf _ _ _ hc)
      obtain ⟨w, hw, rfl⟩ := Option.map_eq_some_iff.mp e
      exact keepBlock_wf _ _ (memPage_wf _ _ _ _ _ hc hw)
    | wait x => exact keepBlock_wf _ _ hs

theorem nextChunk_wf {s : State} (m : Member) (hs : Mems.wf s.mem = true) : Out.Canon (State.nextChunk s m) := by
  grind [State.nextChunk, execKloop_wf, execKred_wf, execKend_wf, execKsig_wf, execKsend_wf, execKcopy_wf, execKwait_wf,
    execKrecv_wf, Out.Canon]

theorem serveMember_wf {s : State} (id : ℕ) (hs : Mems.wf s.mem = true) : Out.Canon (State.serveMember s id) := by
  have hheld : ∀ m, Mems.wf ((s.memHeld m).getD s).mem = true := fun m => getD_wf (fun t e => memHeld_wf m hs e) hs
  unfold State.serveMember
  split
  · exact hs
  · split
    · exact runStart_wf _ hs
    · exact nextChunk_wf _ hs
    · exact finishAll_wf _ hs
    · exact finishAll_wf _ hs
    · exact hheld _
    · exact hheld _

theorem countStall_wf {s : State} (ck : ℕ) (hs : Mems.wf s.mem = true) : Mems.wf (State.countStall s ck).mem = true := by
  grind [State.countStall, State.updCore_mem]

theorem closeCycle_wf {s : State} (hs : Mems.wf s.mem = true) : Mems.wf (State.closeCycle s).mem = true :=
  fold_wf hs (fun _ e ht => countStall_wf e.1 ht) s.cores

theorem openCycle_wf {s : State} (hs : Mems.wf s.mem = true) : Mems.wf (State.openCycle s).mem = true := by
  grind [State.openCycle]

theorem tick_wf {s : State} (hs : Mems.wf s.mem = true) : Mems.wf (State.tick s).mem = true := by
  grind [State.tick, openCycle_wf, closeCycle_wf]

theorem landingError_wf {s : State} (addr8 : ℕ) (correctable : Bool) (hs : Mems.wf s.mem = true) :
    Mems.wf (State.landingError s addr8 correctable).mem = true := by
  unfold State.landingError
  split
  · exact hs
  · rw [Mems.wf_iff] at hs ⊢
    exact hs

theorem repostThread_wf {s : State} (ck : ℕ) (lv : Bool) (hs : Mems.wf s.mem = true)
    : Mems.wf (State.repostThread s ck lv).mem = true := by
  grind [State.repostThread, postService_wf, State.updCore_mem, postTrap_wf, Posted.Canon]

theorem repost_wf {s : State} (tile : ℕ) (hs : Mems.wf s.mem = true) : Mems.wf (State.repost s tile).mem = true := by
  grind [State.repost, postHandler_wf, State.updTile_mem]

theorem withdraw_wf {s : State} (sc tidx page : ℕ) (hs : Mems.wf s.mem = true)
    : Mems.wf (State.withdraw s sc tidx page).mem = true := by
  grind [State.withdraw, State.updTile_mem, State.setCore_mem]

theorem unblockPage_wf {s : State} (ck : ℕ) (lv : Bool) (hs : Mems.wf s.mem = true)
    : Mems.wf (State.unblockPage s ck lv).mem = true := by
  grind [State.unblockPage, State.updCore_mem, withdraw_wf]

theorem stopCore_wf {s : State} (ck : ℕ) (hs : Mems.wf s.mem = true) : Mems.wf (State.stopCore s ck).mem = true := by
  unfold State.stopCore
  dsimp only
  split
  · exact hs
  · rw [State.updCore_mem]
    refine unblockPage_wf ck true (unblockPage_wf ck false ?_)
    exact fold_wf (by exact hs) (fun t m (ht : Mems.wf t.mem = true) => by rwa [State.updCore_mem]) _

theorem mgmtAnswer_wf {s : State} (hs : Mems.wf s.mem = true) : Mems.wf (State.mgmtAnswer s).mem = true := by
  grind [State.mgmtAnswer, cancelHall_wf, msix_wf, State.updSys_mem]

theorem env_wf {s : State} (e : Env) (hs : Mems.wf s.mem = true) : Mems.wf (State.env s e).mem = true := by
  cases e with
  | softError sector pattern => exact softError_wf hs sector pattern
  | landingError a c => exact landingError_wf a c hs
  | hostWrite bus b =>
    unfold State.env
    dsimp only
    split
    · rw [State.updMem_mem]
      exact Mems.set_host hs (SMap.set_wf 0 _ _ (Mems.host_wf hs))
    · exact hs
  | icacheEvict bay line => exact hs
  | repost core => exact repostThread_wf core true (repostThread_wf core false (repost_wf (tileOf core) hs))
  | stopCore core => exact stopCore_wf core hs
  | trapEntry core => exact takeTrap_wf core true (takeTrap_wf core false hs)
  | mgmtAnswer => exact mgmtAnswer_wf hs
  | function1 on => exact hs

theorem act_wf {s : State} (a : Act) (hs : Mems.wf s.mem = true) : Out.Canon (State.act s a) := by
  cases a with
  | issue ck => exact Out.canon_ite hs (issueCore_wf ck hs)
  | chunk m => exact Out.canon_ite hs (serveMember_wf m hs)
  | event i => exact Out.canon_ite (exec_wf i hs) hs
  | tick => exact tick_wf hs
  | env e =>
    unfold State.act
    dsimp only [Out.Canon]
    split
    · exact hs
    · exact env_wf e hs

theorem step_wf {s : State} (hs : Mems.wf s.mem = true) : Out.Canon (step s) := by
  grind [step, act_wf, Out.Canon]

end Sys2Proof.Machine
end

section
/-!
PROOFS. Memory stays canonical (O60).
-/

namespace Sys2Proof
set_option Elab.async false

open Sys2Proof.Machine

/-- Settles O60: each instruction, each engine and the end of a cycle keep canonical memory, so every step does. -/
theorem stepKeepsMemoryCanonical : Obligations.StepKeepsMemoryCanonical := by
  unfold Obligations.StepKeepsMemoryCanonical
  intro s t hs e
  have h : Out.Canon (step s) := step_wf hs
  rw [e] at h
  exact h

end Sys2Proof
end

section
/-!
SUPPORT. Read-modify-writes: the values they leave for the integer types of 32 and 64 bits (R249, R250), and an atomic at an armed
barrier word (R259).
-/

namespace Sys2Proof.Machine

open Sys2Proof

/-! ## Integer elements as machine words -/

theorem intVal_signed {ty w : Nat} (hs : isSigned ty = true) (hw : bitsOf ty = w) (x : BitVec w) : intVal ty x.toNat = x.toInt := by
  rw [intVal, if_pos hs, hw, sintN_eq_toInt, BitVec.ofNat_toNat, BitVec.setWidth_eq]

theorem intVal_unsigned {ty w : Nat} (hs : isSigned ty = false) (hw : bitsOf ty = w) (x : BitVec w) : intVal ty x.toNat = x.toNat := by
  rw [intVal, hs, if_neg Bool.false_ne_true, hw, Nat.mod_eq_of_lt x.isLt]

theorem intBits_eq {ty w : Nat} (hw : bitsOf ty = w) (v : Int) : intBits ty v = (BitVec.ofInt w v).toNat := by
  rw [intBits, hw, BitVec.toNat_ofInt]

section
variable {ty w : Nat} (hw : bitsOf ty = w) (x y : BitVec w) (c : Nat)
include hw

/-- A sum that wraps is the sum of the words, signed or not. -/
theorem rmwNew_add : rmwNew .add ty x.toNat y.toNat c = some (x + y).toNat := by
  rw [rmwNew, putI_eq, if_neg Bool.false_ne_true, intBits_eq hw]
  cases hs : isSigned ty with
  | true => rw [intVal_signed hs hw, intVal_signed hs hw, BitVec.ofInt_add, BitVec.ofInt_toInt, BitVec.ofInt_toInt]
  | false =>
    rw [intVal_unsigned hs hw, intVal_unsigned hs hw, BitVec.ofInt_add, BitVec.ofInt_natCast, BitVec.ofInt_natCast,
      BitVec.ofNat_toNat, BitVec.ofNat_toNat, BitVec.setWidth_eq, BitVec.setWidth_eq]

section
variable (hs : isSigned ty = true)
include hs

theorem rmwNew_addSat_signed : rmwNew .addSat ty x.toNat y.toNat c =
    some (BitVec.ofInt w (max (intLo ty) (min (intHi ty) (x.toInt + y.toInt)))).toNat := by
  rw [rmwNew, putI_eq, if_pos rfl, intBits_eq hw, intVal_signed hs hw, intVal_signed hs hw]

theorem rmwNew_min_signed : rmwNew .min ty x.toNat y.toNat c = some (if y.toInt < x.toInt then y else x).toNat := by
  rw [rmwNew, intVal_signed hs hw, intVal_signed hs hw, apply_ite BitVec.toNat]

theorem rmwNew_max_signed : rmwNew .max ty x.toNat y.toNat c = some (if x.toInt < y.toInt then y else x).toNat := by
  rw [rmwNew, intVal_signed hs hw, intVal_signed hs hw, apply_ite BitVec.toNat]

end

section
variable (hs : isSigned ty = false)
include hs

theorem rmwNew_addSat_unsigned : rmwNew .addSat ty x.toNat y.toNat c = some (min (2 ^ w - 1) (x.toNat + y.toNat)) := by
  have hpos : 1 ≤ 2 ^ w := Nat.one_le_two_pow
  have hlo : intLo ty = 0 := by rw [intLo, hs]; rfl
  have hhi : intHi ty = ((2 ^ w - 1 : Nat) : Int) := by
    rw [intHi, hs, if_neg Bool.false_ne_true, hw, Nat.cast_sub hpos]; rfl
  have hsum : max 0 (min ((2 ^ w - 1 : Nat) : Int) ((x.toNat : Int) + y.toNat)) = ((min (2 ^ w - 1) (x.toNat + y.toNat) : Nat) : Int) := by
    omega
  rw [rmwNew, putI_eq, if_pos rfl, intBits_eq hw, intVal_unsigned hs hw, intVal_unsigned hs hw, hlo, hhi, hsum, BitVec.ofInt_natCast,
    BitVec.toNat_ofNat, Nat.mod_eq_of_lt (by omega)]

theorem rmwNew_min_unsigned : rmwNew .min ty x.toNat y.toNat c = some (min x.toNat y.toNat) := by
  rw [rmwNew, intVal_unsigned hs hw, intVal_unsigned hs hw]
  exact congrArg some (by split <;> omega)

theorem rmwNew_max_unsigned : rmwNew .max ty x.toNat y.toNat c = some (max x.toNat y.toNat) := by
  rw [rmwNew, intVal_unsigned hs hw, intVal_unsigned hs hw]
  exact congrArg some (by split <;> omega)

end
end

theorem rmwNew_addSat_s32 (x y : BitVec 32) (c : Nat) : rmwNew .addSat 11 x.toNat y.toNat c =
    some (BitVec.ofInt 32 (max (-2147483648) (min 2147483647 (x.toInt + y.toInt)))).toNat := by
  have hlo : intLo 11 = -2147483648 := by decide
  have hhi : intHi 11 = 2147483647 := by decide
  rw [rmwNew_addSat_signed (ty := 11) (w := 32) rfl x y c rfl, hlo, hhi]

theorem rmwNew_addSat_s64 (x y : BitVec 64) (c : Nat) : rmwNew .addSat 12 x.toNat y.toNat c =
    some (BitVec.ofInt 64 (max (-9223372036854775808) (min 9223372036854775807 (x.toInt + y.toInt)))).toNat := by
  have hlo : intLo 12 = -9223372036854775808 := by decide
  have hhi : intHi 12 = 9223372036854775807 := by decide
  rw [rmwNew_addSat_signed (ty := 12) (w := 64) rfl x y c rfl, hlo, hhi]

/-! ## Operations on bits -/

section
variable {w : Nat} (ty : Nat) (x y : BitVec w) (c : Nat)

theorem rmwNew_and : rmwNew .and ty x.toNat y.toNat c = some (x &&& y).toNat := by rw [rmwNew, BitVec.toNat_and]

theorem rmwNew_or : rmwNew .or ty x.toNat y.toNat c = some (x ||| y).toNat := by rw [rmwNew, BitVec.toNat_or]

theorem rmwNew_xor : rmwNew .xor ty x.toNat y.toNat c = some (x ^^^ y).toNat := by rw [rmwNew, BitVec.toNat_xor]

end

/-! ## An atomic at an armed barrier word (R259) -/

theorem atomicReq_barrier {s t : State} {d : Reg} {la : BitVec 4} {r : Req} {acc : Acc} {l : Loc}
    (hr : (s.me.thr s.lv).hold = .ready) (ha : r.va.toNat % r.n = 0) (hp : s.place acc false r.va = (.loc l, t))
    (hb : s.overBarrier l r.n = true) : s.atomicReq d la r acc true = .trap s tCLOBBER r.va := by
  simp only [State.atomicReq, hr, ha, hp, hb, ne_eq, not_true_eq_false, if_false, if_true, Bool.and_self]

/-- The request that an atomic makes, before it has a place. -/
def State.amoReq (s : State) (ty : BitVec 4) (op : RmwOp) (h : Hint) (a b c : Reg) (o : Word) : Req :=
  { op := .amo op ty.toNat, va := s.src a + o, n := if ty = 12 then 8 else 4,
    data := BitVec.ofNat 1024 ((s.src b).toNat % 2 ^ (8 * if ty = 12 then 8 else 4)),
    cmp := word ((s.src c).toNat % 2 ^ (8 * if ty = 12 then 8 else 4)), hint := h, sext := ty != 15 }

theorem execAmo_eq (gu : Guard) (la ty : BitVec 4) (op : RmwOp) (h : Hint) (d a b c : Reg) (len : Nat) (o : Word) (s : State) :
    execAmo gu la ty op h d a b c len o s =
      s.runs { len := len, on := s.guard gu, rs := [a.toNat, b.toNat, c.toNat], ws := [d.toNat], long := true }
        (fun s => s.atomicReq d la (s.amoReq ty op h a b c o) 3 true) := rfl

end Sys2Proof.Machine
end

section
/-!
PROOFS. Atomics (O24).
-/

namespace Sys2Proof

open Sys2Proof.Machine

/-- Settles O24: an atomic is each outcome of `State.atomicReq`; the values that a read-modify-write leaves by the lemmas on
`rmwNew`. -/
theorem atomicOperations : Obligations.AtomicOperations := by
  unfold Obligations.AtomicOperations
  refine ⟨fun s gu la ty sat h d a b c imm lit => ?_, fun x y c => ?_, fun x y c => ?_⟩
  · intro n amo
    have hamo {i : Instr} {op : RmwOp} {c : Reg} {len : Nat} {o : Word} (hi : exec i s = execAmo gu la ty op h d a b c len o s) :
        amo i op c len (s.rg a + o) := by
      intro hp
      have ea : s.src a = s.rg a := src_of_plain hp (.head _)
      have eb : s.src b = s.rg b := src_of_plain hp (.tail _ (.head _))
      have ec : s.src c = s.rg c := src_of_plain hp (.tail _ (.tail _ (.head _)))
      rw [← ea, ← eb, ← ec]
      have hi := hi.trans (execAmo_eq ..)
      let r := s.amoReq ty op h a b c o
      refine ⟨fun ha => ?_, fun l s' ha hpl => ⟨fun hb => ?_, fun hb hs hm => ?_⟩⟩
      · exact hi.trans (runs_trap hp.toIssues (atomicReq_misaligned (r := r) hp.ready ha))
      · exact hi.trans (runs_trap hp.toIssues (atomicReq_barrier (r := r) hp.ready ha hpl hb))
      · have quiet (q : Quiet s s') (p : Pend) (r : Req) : OnlyPends s ((s'.enterPend p).send r) :=
          onlyPends_send (onlyPends_enterPend (onlyPends_of_quiet q s'.ctr) p) r
        refine ⟨fun hg hd => ⟨?_, fun q => untouched_after (quiet q _ _) _⟩, fun hfar => ⟨?_, fun q => untouched_waiting (quiet q _ _) _⟩⟩
        · exact hi.trans (runs_done hp (atomicReq_near (r := r) hp.ready ha hpl hb hs hm hg hd))
        · exact hi.trans (runs_wait hp (atomicReq_held (r := r) hp.ready ha hpl hb hs hm hfar))
    exact ⟨hamo rfl, hamo rfl, hamo rfl, hamo rfl, hamo rfl, hamo rfl, hamo rfl, hamo rfl, hamo rfl, hamo rfl, hamo rfl, hamo rfl,
      hamo rfl, hamo rfl, hamo rfl, hamo rfl⟩
  · have ws : bitsOf 11 = 32 := rfl
    have wu : bitsOf 15 = 32 := rfl
    have hs : isSigned 11 = true := rfl
    have hu : isSigned 15 = false := rfl
    exact ⟨rmwNew_add ws x y c, rmwNew_add wu x y c, rmwNew_addSat_s32 x y c, rmwNew_addSat_unsigned wu x y c hu,
      rmwNew_min_signed ws x y c hs, rmwNew_max_signed ws x y c hs, rmwNew_min_unsigned wu x y c hu,
      rmwNew_max_unsigned wu x y c hu, rmwNew_and 11 x y c, rmwNew_or 11 x y c, rmwNew_xor 11 x y c, rfl, rfl,
      rmwNew_and 15 x y c, rmwNew_or 15 x y c, rmwNew_xor 15 x y c, rfl, rfl⟩
  · have ws : bitsOf 12 = 64 := rfl
    have hs : isSigned 12 = true := rfl
    exact ⟨rmwNew_add ws x y c, rmwNew_addSat_s64 x y c, rmwNew_min_signed ws x y c hs, rmwNew_max_signed ws x y c hs,
      rmwNew_and 12 x y c, rmwNew_or 12 x y c, rmwNew_xor 12 x y c, rfl, rfl⟩

end Sys2Proof
end

section
/-!
SUPPORT. Words of a scratchpad (R256, R260, R305), and places that no WAITA watches.
-/

namespace Sys2Proof.Machine

open Sys2Proof

variable {s : State}

theorem and_seven_eq_zero (a : Word) : a &&& 7 = 0 ↔ a.toNat % 8 = 0 := by
  rw [← BitVec.toNat_inj, BitVec.toNat_and]
  exact Eq.congr_left (Nat.and_two_pow_sub_one_eq_mod a.toNat 3)

section
variable {a : Word}

theorem wordPlace_misaligned (h : a.toNat % 8 ≠ 0) : s.wordPlace a = .inr (tALIGN, a) :=
  if_pos (mt (and_seven_eq_zero a).mp h)

theorem wordPlace_outside (ha : a.toNat % 8 = 0) (h0 : a.toNat / 2 ^ 48 ≠ 0xFF00) (h2 : a.toNat / 2 ^ 48 ≠ 0xFF02) :
    s.wordPlace a = .inr (tAPERTURE, a) := by
  rw [State.wordPlace, if_neg (not_not.mpr ((and_seven_eq_zero a).mpr ha))]
  exact if_pos ⟨h0, h2⟩

theorem wordPlace_own (ha : a.toNat % 8 = 0) (h0 : a.toNat / 2 ^ 48 = 0xFF00) (ho : a.toNat % 2 ^ 48 < 98304) :
    s.wordPlace a = .inl (s.cur, a.toNat % 2 ^ 48) := by
  have hs := steer_ownSpad (s := s) (ck := s.cur) (pv := s.me.pv) (a := a) ho (by omega)
  rw [State.wordPlace, if_neg (not_not.mpr ((and_seven_eq_zero a).mpr ha))]
  simp only [h0, hs, ne_eq, not_true_eq_false, false_and, if_false]

end

/-- Where no core waits for a write to a core memory, none is told of it. -/
theorem notify_unwatched {l : Loc} {n : Nat} (hl : l.isGlob = false) (h : s.Unwatched l n) : s.notify l n = s := by
  have hno : s.tiles.flatMap (fun e => e.2.mons.filter (fun m => m.loc.hit l n)) = [] :=
    List.flatMap_eq_nil_iff.mpr fun e he => List.filter_eq_nil_iff.mpr fun m hm => by rw [h e he m hm]; exact Bool.false_ne_true
  unfold State.notify
  simp only [hno, List.isEmpty_nil, if_true]
  cases l with
  | glob => cases hl
  | spad | vault | gal => rfl

theorem locWrite_unwatched {l : Loc} {n : Nat} (x : Nat) (hl : l.isGlob = false) (h : s.Unwatched l n) :
    s.locWrite l n x = s.updMem (fun m => m.put l n x) := by
  have hw : (s.updMem (fun m => m.put l n x)).Unwatched l n := h
  rw [locWrite_eq, notify_unwatched hl hw]

theorem tile_locWrite (l : Loc) (n x k : Nat) : ∃ ms, (s.locWrite l n x).tile k = { s.tile k with mons := ms } := by
  rw [locWrite_eq]
  exact tile_notify (s := s.updMem _) l n k

theorem locRead_spad (c o n : Nat) : s.locRead (.spad c o) n = s.spadRead c o n := rfl

theorem spadRead_lt (c o n : Nat) : s.spadRead c o n < 256 ^ n := by
  induction n with
  | zero => exact Nat.one_pos
  | succ n ih =>
    have hb := (s.spadByte c (o + n)).isLt
    rw [State.spadRead, Nat.pow_succ]
    nlinarith

end Sys2Proof.Machine
end

section
/-!
SUPPORT. Phase barriers: PBINIT, PBARR, PBEXP and PBWAIT by outcome (R256 to R258).
-/

namespace Sys2Proof.Machine

open Sys2Proof

variable {s : State} {d a b c : Reg} {la : BitVec 4} {k o : Nat}

/-! ## PBINIT -/

/-- Nothing that reaches the word earlier is under way, and its turn at the scratchpad has not passed. -/
structure State.WordFree (s : State) (k o : Nat) : Prop where
  pending : s.pendingAt (.spad k o) = false
  turn : s.outOfTurn s.cur (.spad k o) 8 = false
  stores : ∀ r ∈ s.flight, r.op = .store → r.performed = false → r.loc.meets r.n (.spad k o) 8 = false
  queued : ∀ e ∈ s.cores, ∀ r ∈ e.2.lv0.rest ++ e.2.lv1.rest, r.loc.meets r.n (.spad k o) 8 = false

section
variable (hno : ¬((s.src b).toNat % 2 ^ 16 ≠ 0 ∧ 2 ^ 31 ≤ (s.src c).toNat % 2 ^ 32))
include hno

theorem pbinitBody_badPlace {code : Nat} {v : Word} (hw : s.wordPlace (s.src a) = .inr (code, v)) :
    pbinitBody d la a b c s = .trap s code v := by
  rw [pbinitBody, if_neg hno, hw]

variable (hw : s.wordPlace (s.src a) = .inl (k, o)) (hfree : s.WordFree k o)
include hw hfree

/-- What PBINIT does at a word that it may reach. -/
theorem pbinitBody_free : pbinitBody d la a b c s =
    match (s.tile (tileOf k)).bar? k o with
    | some _ =>
      if (s.src b).toNat % 2 ^ 16 ≠ 0 then .done (s.answer d la 2)
      else .done ((s.setTile (tileOf k) { s.tile (tileOf k) with
        bars := (s.tile (tileOf k)).bars.filter (fun e => !(e.core == k && e.off == o)) }).answer d la 3)
    | none =>
      if (s.src b).toNat % 2 ^ 16 = 0 then .done (s.answer d la 4)
      else if barCap ≤ (s.tile (tileOf k)).bars.length then .done (s.answer d la 1)
      else .done ((((s.setTile (tileOf k) { s.tile (tileOf k) with bars := (s.tile (tileOf k)).bars ++
        [{ core := k, off := o, arr := (s.src b).toNat % 2 ^ 16, bytes := BitVec.ofNat 32 ((s.src c).toNat % 2 ^ 32) }] }).noteReach
          s.cur (.spad k o) 8).locWrite (.spad k o) 8
            (barWord 0 ((s.src b).toNat % 2 ^ 16) ((s.src c).toNat % 2 ^ 32))).answer d la 0) := by
  have hgo : (s.pendingAt (.spad k o) || s.outOfTurn s.cur (.spad k o) 8 ||
      s.flight.any (fun r => r.op == .store && !r.performed && r.loc.meets r.n (.spad k o) 8) ||
      s.cores.any (fun e => [e.2.lv0, e.2.lv1].any (fun t => t.rest.any (fun r => r.loc.meets r.n (.spad k o) 8)))) = false := by
    have hst : s.flight.any (fun r => r.op == .store && !r.performed && r.loc.meets r.n (.spad k o) 8) = false := by
      rw [List.any_eq_false]
      intro r hr
      have h := hfree.stores r hr
      by_cases h1 : r.op = .store <;> cases h2 : r.performed <;> simp_all
    have hq : s.cores.any (fun e => [e.2.lv0, e.2.lv1].any (fun t => t.rest.any (fun r => r.loc.meets r.n (.spad k o) 8))) = false := by
      rw [List.any_eq_false]
      intro e he
      have h := hfree.queued e he
      simp only [List.mem_append] at h
      simp only [List.any_cons, List.any_nil, Bool.or_false, Bool.or_eq_true, List.any_eq_true, not_or, not_exists, not_and]
      exact ⟨fun r hr => by simp [h r (.inl hr)], fun r hr => by simp [h r (.inr hr)]⟩
    rw [hfree.pending, hfree.turn, hst, hq]
    rfl
  rw [pbinitBody, if_neg hno, hw]
  simp only [hgo, Bool.false_eq_true, if_false]
  rfl

end

/-- What PBINIT leaves at the word that it arms, and everywhere else. -/
theorem pbinit_arms {x : BarEnt} {v : Nat} (ho : o + 8 ≤ 2 ^ 17) (hv : v < 2 ^ 64) :
    let w := ((s.setTile (tileOf k) { s.tile (tileOf k) with bars := (s.tile (tileOf k)).bars ++ [x] }).noteReach s.cur
      (.spad k o) 8).locWrite (.spad k o) 8 v
    w.spadRead k o 8 = v ∧ (w.tile (tileOf k)).bars = (s.tile (tileOf k)).bars ++ [x] ∧
      ∀ k' o', o' < 2 ^ 17 → (k' ≠ k ∨ o' < o ∨ o + 8 ≤ o') → w.spadByte k' o' = s.spadByte k' o' := by
  intro w
  refine ⟨?_, ?_, fun k' o' ho' hne => ?_⟩
  · rw [spadRead_locWrite]
    exact Nat.mod_eq_of_lt hv
  · obtain ⟨ms, hms⟩ := tile_locWrite (s := (s.setTile (tileOf k) { s.tile (tileOf k) with
      bars := (s.tile (tileOf k)).bars ++ [x] }).noteReach s.cur (.spad k o) 8) (.spad k o) 8 v (tileOf k)
    rw [hms]
    exact congrArg Tile.bars (State.tile_setTile_same s (tileOf k) _)
  · rw [spadByte_locWrite_other v ho ho' hne, spadByte_noteReach]
    have hepoch : ((s.setTile (tileOf k) { s.tile (tileOf k) with bars := (s.tile (tileOf k)).bars ++ [x] }).tile (tileOf k')).epoch =
        (s.tile (tileOf k')).epoch := by
      rw [State.tile_setTile]
      split
      · next h => rw [← h]
      · rfl
    unfold State.spadByte
    rw [hepoch]
    rfl

/-! ## PBARR and PBEXP -/

theorem spadBusy_eq_false {l : Loc} (hf : ∀ r ∈ s.flight, r.core = s.cur → r.loc.sameTarget l = true → r.performed = true)
    (hp : s.pushAhead s.cur s.ctr l = false) : s.spadBusy l = false := by
  have h : s.flight.any (fun r => r.core == s.cur && r.loc.sameTarget l && !r.performed) = false := by
    rw [List.any_eq_false]
    intro r hr
    have := hf r hr
    by_cases h1 : r.core = s.cur <;> simp_all
  rw [State.spadBusy, h, hp]
  rfl

/-! ## PBWAIT -/

theorem port_noteReach (ck : Nat) (l : Loc) (n r : Nat) : (s.noteReach ck l n).me.port r = s.me.port r := by
  cases l with
  | spad c o =>
    change ((s.updCore c _).core s.cur).port r = _
    rw [State.updCore, State.core_setCore]
    split
    · next h => subst h; rfl
    · rfl
  | vault | gal | glob => rfl

theorem dst_noteReach {ck n : Nat} {l : Loc} {x : Word} (h : s.me.port d.toNat = none) :
    (s.noteReach ck l n).dst d x = (s.noteReach ck l n).wg d x := by
  rw [State.dst, port_noteReach, h]

/-! ## The unit of a word (R257) -/

theorem length_insArrival (q : Contrib) (l : List Contrib) : (insArrival q l).length = l.length + 1 := by
  induction l with
  | nil => rfl
  | cons p ps ih =>
    rw [insArrival]
    split
    · rfl
    · rw [List.length_cons, ih, List.length_cons]

theorem length_foldl_insArrival (qs l : List Contrib) :
    (qs.foldl (fun l q => insArrival q l) l).length = l.length + qs.length := by
  induction qs generalizing l with
  | nil => rfl
  | cons q qs ih =>
    rw [List.foldl_cons, ih, length_insArrival, List.length_cons]
    omega

/-- The bytes that contributions add are those of the PBEXPs and copies alone. -/
theorem deltaSum_eq (qs : List Contrib) :
    deltaSum qs = (qs.filter (fun q => !q.arrival)).foldl (fun a q => a + q.delta) 0 := by
  have h : ∀ z, qs.foldl (fun a q => if q.arrival then a else a + q.delta) z =
      (qs.filter (fun q => !q.arrival)).foldl (fun a q => a + q.delta) z := by
    induction qs with
    | nil => exact fun _ => rfl
    | cons q qs ih =>
      intro z
      rw [List.foldl_cons, ih]
      cases hq : q.arrival <;> simp [hq]
  exact h 0

/-- An arrival is told the phase it counted in, or that it is one too many. -/
theorem countArrivals_cons (phase arr : Nat) (q : Contrib) (qs : List Contrib) :
    countArrivals s phase (q :: qs) arr = countArrivals (match q.pend with
      | none => s
      | some p => s.deliver q.src p (if arr = 0 then word (2 ^ 63 + phase) else word phase)) phase qs (arr - 1) := rfl

theorem countArrivals_fst (phase arr : Nat) (qs : List Contrib) : (countArrivals s phase qs arr).1 = arr - qs.length := by
  induction qs generalizing s arr with
  | nil => rfl
  | cons q qs ih =>
    rw [countArrivals_cons, ih, List.length_cons]
    omega

theorem countArrivals_tiles_mem (phase arr : Nat) (qs : List Contrib) :
    (countArrivals s phase qs arr).2.tiles = s.tiles ∧ (countArrivals s phase qs arr).2.mem = s.mem := by
  induction qs generalizing s arr with
  | nil => exact ⟨rfl, rfl⟩
  | cons q qs ih =>
    rw [countArrivals_cons]
    obtain ⟨h1, h2⟩ := ih (s := match q.pend with
      | none => s
      | some p => s.deliver q.src p (if arr = 0 then word (2 ^ 63 + phase) else word phase)) (arr := arr - 1)
    rw [h1, h2]
    cases q.pend <;> exact ⟨rfl, rfl⟩

theorem countArrivals_spadByte (phase arr : Nat) (qs : List Contrib) (c off : Nat) :
    (countArrivals s phase qs arr).2.spadByte c off = s.spadByte c off := by
  obtain ⟨h1, h2⟩ := countArrivals_tiles_mem (s := s) phase arr qs
  unfold State.spadByte State.tile
  rw [h1, h2]

/-- The contributions that reach the unit of a word together: the first `n` that wait for it. -/
def State.reaching (s : State) (k o n : Nat) : List Contrib :=
  ((s.tile (tileOf k)).contribs.filter (fun q => q.core == k && q.off == o)).take n

/-- The state once they have been taken from those that wait. -/
def State.takeContribs (s : State) (k o n : Nat) : State :=
  let t := s.tile (tileOf k)
  s.setTile (tileOf k) { t with contribs := t.contribs.filter (fun q => !(s.reaching k o n).contains q) }

theorem spadByte_takeContribs (n c off : Nat) : (s.takeContribs k o n).spadByte c off = s.spadByte c off := by
  have hepoch : ((s.takeContribs k o n).tile (tileOf c)).epoch = (s.tile (tileOf c)).epoch := by
    rw [State.takeContribs, State.tile_setTile]
    split
    · next h => rw [← h]
    · rfl
  unfold State.spadByte
  rw [hepoch]
  rfl

section
variable {n : Nat} (hqs : s.reaching k o n ≠ [])
include hqs

theorem exec_barrierUpdate_notArmed (h : (s.tile (tileOf k)).bar? k o = none) : exec (.barrierUpdate k o n) s =
    .next ((s.reaching k o n).foldl State.notArmed (s.takeContribs k o n)) := by
  have he : (s.reaching k o n).isEmpty = false := by simpa using hqs
  unfold State.reaching at he
  change execBarrierUpdate k o n s = _
  unfold execBarrierUpdate
  simp only [he, h, Bool.false_eq_true, if_false]
  rfl

/-- The word that the unit writes when the contributions `qs` reach it (R257). -/
def barUpdate (e : BarEnt) (w : Nat) (qs : List Contrib) : Nat :=
  let arr := w / 2 ^ 32 % 2 ^ 16 - (qs.filter (fun q => q.arrival)).length
  let bytes := (BitVec.ofNat 32 w + deltaSum qs).toNat
  if arr = 0 ∧ bytes = 0 then barWord ((w / 2 ^ 48 + 1) % 2 ^ 16) e.arr e.bytes.toNat else barWord (w / 2 ^ 48) arr bytes

/-- The state once the arrivals among the contributions that reach a word have been told their phase. -/
def State.countReaching (s : State) (k o n : Nat) : State :=
  (countArrivals (s.takeContribs k o n) (s.spadRead k o 8 / 2 ^ 48)
    (((s.reaching k o n).filter (fun q => q.arrival)).foldl (fun l q => insArrival q l) []) (s.spadRead k o 8 / 2 ^ 32 % 2 ^ 16)).2

theorem exec_barrierUpdate_armed {e : BarEnt} (h : (s.tile (tileOf k)).bar? k o = some e) : exec (.barrierUpdate k o n) s =
    .next ((s.countReaching k o n).locWrite (.spad k o) 8 (barUpdate e (s.spadRead k o 8) (s.reaching k o n))) := by
  have he : (s.reaching k o n).isEmpty = false := by simpa using hqs
  have hw : (s.takeContribs k o n).locRead (.spad k o) 8 = s.spadRead k o 8 :=
    spadRead_congr (fun off => spadByte_takeContribs n k off) o 8
  unfold State.reaching at he
  have hx : exec (.barrierUpdate k o n) s = .next (
      let w := (s.takeContribs k o n).locRead (.spad k o) 8
      let r := countArrivals (s.takeContribs k o n) (w / 2 ^ 48)
        (((s.reaching k o n).filter (fun q => q.arrival)).foldl (fun l q => insArrival q l) []) (w / 2 ^ 32 % 2 ^ 16)
      let bytes := (BitVec.ofNat 32 w + deltaSum (s.reaching k o n)).toNat
      r.2.locWrite (.spad k o) 8
        (if r.1 = 0 ∧ bytes = 0 then barWord ((w / 2 ^ 48 + 1) % 2 ^ 16) e.arr e.bytes.toNat else barWord (w / 2 ^ 48) r.1 bytes)) := by
    change execBarrierUpdate k o n s = _
    unfold execBarrierUpdate
    simp only [he, h, Bool.false_eq_true, if_false]
    rfl
  rw [hx, hw]
  simp only [countArrivals_fst, length_foldl_insArrival, List.length_nil, Nat.zero_add]
  rfl

end

end Sys2Proof.Machine
end

section
/-!
PROOFS. Phase barriers (O33).
-/

namespace Sys2Proof

open Sys2Proof.Machine

section
variable {s : State} {k o n : Nat}

theorem barUpdate_lt {e : BarEnt} {w : Nat} (he : e.arr < 2 ^ 16) (hw : w < 2 ^ 64) (qs : List Contrib) : barUpdate e w qs < 2 ^ 64 := by
  have h1 := e.bytes.isLt
  have h2 := (BitVec.ofNat 32 w + deltaSum qs).isLt
  unfold barUpdate barWord
  dsimp only
  split <;> omega

theorem barUpdate_eq (e : BarEnt) (w : Nat) (qs : List Contrib) :
    let arr := w / 2 ^ 32 % 2 ^ 16 - (qs.filter (fun q => q.arrival)).length
    let bytes := BitVec.ofNat 32 w + (qs.filter (fun q => !q.arrival)).foldl (fun a q => a + q.delta) 0
    barUpdate e w qs = if arr = 0 ∧ bytes = 0 then (w / 2 ^ 48 + 1) % 2 ^ 16 * 2 ^ 48 + e.arr * 2 ^ 32 + e.bytes.toNat
      else w / 2 ^ 48 * 2 ^ 48 + arr * 2 ^ 32 + bytes.toNat := by
  intro arr bytes
  have hz : bytes.toNat = 0 ↔ bytes = 0 := ⟨fun h => BitVec.eq_of_toNat_eq h, fun h => by rw [h]; rfl⟩
  unfold barUpdate barWord
  simp only [deltaSum_eq]
  change (if arr = 0 ∧ bytes.toNat = 0 then _ else _) = _
  simp only [hz]
  rfl

theorem countReaching_spadByte (c off : Nat) : (s.countReaching k o n).spadByte c off = s.spadByte c off :=
  (countArrivals_spadByte ..).trans (spadByte_takeContribs ..)

/-- The update of an armed word, told byte by byte. -/
theorem barrierUpdate_word {e : BarEnt} (ho : o + 8 ≤ 2 ^ 17) (he : e.arr < 2 ^ 16) :
    let t := (s.countReaching k o n).locWrite (.spad k o) 8 (barUpdate e (s.spadRead k o 8) (s.reaching k o n))
    t.spadRead k o 8 = barUpdate e (s.spadRead k o 8) (s.reaching k o n) ∧
      ∀ k' o', o' < 2 ^ 17 → (k' ≠ k ∨ o' < o ∨ o + 8 ≤ o') → t.spadByte k' o' = s.spadByte k' o' := by
  intro t
  have hw : s.spadRead k o 8 < 2 ^ 64 := spadRead_lt k o 8
  refine ⟨?_, fun k' o' ho' hne => ?_⟩
  · rw [spadRead_locWrite]
    exact Nat.mod_eq_of_lt (barUpdate_lt he hw _)
  · rw [spadByte_locWrite_other _ ho ho' hne, countReaching_spadByte]

section
variable {q : Contrib} {p : Nat} (hqs : s.reaching k o n = [q]) (ha : q.arrival = true) (hp : q.pend = some p)
include hqs ha hp

theorem countReaching_single : s.countReaching k o n = (s.takeContribs k o n).deliver q.src p
    (if s.spadRead k o 8 / 2 ^ 32 % 2 ^ 16 = 0 then word (2 ^ 63 + s.spadRead k o 8 / 2 ^ 48)
      else word (s.spadRead k o 8 / 2 ^ 48)) := by
  have hf : [q].filter (fun q => q.arrival) = [q] := by rw [List.filter_cons_of_pos ha, List.filter_nil]
  unfold State.countReaching
  rw [hqs, hf, List.foldl_cons, List.foldl_nil, insArrival, countArrivals_cons, hp]
  rfl

omit hqs ha in
theorem notArmed_single : [q].foldl State.notArmed (s.takeContribs k o n) = (s.takeContribs k o n).deliver q.src p (word (2 ^ 62)) := by
  rw [List.foldl_cons, List.foldl_nil, State.notArmed, hp]

/-- Of an armed word the sole arrival of a cycle is told its phase, or OVER. -/
theorem barrierUpdate_tells (hu : s.Unwatched (.spad k o) 8) (v : Nat) :
    (((s.countReaching k o n).locWrite (.spad k o) 8 v).core q.src).pend = ((s.core q.src).arrive p
      (if s.spadRead k o 8 / 2 ^ 32 % 2 ^ 16 = 0 then word (2 ^ 63 + s.spadRead k o 8 / 2 ^ 48)
        else word (s.spadRead k o 8 / 2 ^ 48)) {}).pend := by
  have hu' : (s.countReaching k o n).Unwatched (.spad k o) 8 := by
    rw [countReaching_single hqs ha hp]
    exact State.Unwatched.setTile hu rfl
  rw [locWrite_unwatched v rfl hu', countReaching_single hqs ha hp]
  exact pend_deliver (s := s.takeContribs k o n) ..

end
end

/-- Settles O33: PBINIT by `pbinitBody_free` and what it arms by `pbinit_arms`; the one update of a cycle by
`exec_barrierUpdate_armed`. -/
theorem phaseBarriers : Obligations.PhaseBarriers := by
  unfold Obligations.PhaseBarriers
  refine ⟨fun s gu la d a b c => ?_, fun s k o n ho => ?_⟩
  · intro init arr_ exp_ wait_ va arr bytes
    have ea (hp : IssuesPlain s init) : s.src a = va := src_of_plain hp (List.mem_append_left _ (.head _))
    have eb (hp : IssuesPlain s init) : s.src b = s.rg b := src_of_plain hp (List.mem_append_left _ (.tail _ (.head _)))
    have ec (hp : IssuesPlain s init) (hc : arr ≠ 0) : s.src c = s.rg c := by
      have hport : s.me.port b.toNat = none :=
        port_none_of_noPort hp.noPort (List.mem_append_left _ (List.mem_append_left _ (.tail _ (.head _))))
      have hreads : s.pbinitReads b = true := by
        have hb : (s.src b).toNat % 2 ^ 16 ≠ 0 := by rw [eb hp]; exact hc
        rw [State.pbinitReads, Core.popReady, hport]
        simpa using hb
      refine src_of_plain hp (List.mem_append_right _ ?_)
      rw [hreads]
      exact .head _
    have hno (hp : IssuesPlain s init) (h : ¬(arr ≠ 0 ∧ 2 ^ 31 ≤ bytes)) :
        ¬((s.src b).toNat % 2 ^ 16 ≠ 0 ∧ 2 ^ 31 ≤ (s.src c).toNat % 2 ^ 32) := by
      rintro ⟨h1, h2⟩
      rw [eb hp] at h1
      rw [ec hp h1] at h2
      exact h ⟨h1, h2⟩
    refine ⟨wordPlace_misaligned, wordPlace_outside, wordPlace_own, fun code v hw => ⟨fun hp h => ?_, fun hp => ?_, fun hp => ?_, fun hp => ?_⟩,
      fun hp h1 h2 => ?_, fun k o hw => ?_⟩
    · exact runs_trap hp.toIssues (pbinitBody_badPlace (hno hp h) (by rw [ea hp]; exact hw))
    · have e : s.src a = va := src_of_plain hp (.head _)
      exact runs_trap hp.toIssues (by simp only [e, hw])
    · have e : s.src a = va := src_of_plain hp (.head _)
      exact runs_trap hp.toIssues (by simp only [e, hw])
    · have e : s.src a = va := src_of_plain hp (.head _)
      exact runs_trap hp.toIssues (by simp only [e, hw])
    · refine runs_trap hp.toIssues (if_pos ⟨?_, ?_⟩)
      · rw [eb hp]; exact h1
      · rw [ec hp h1]; exact h2
    · intro t l
      refine ⟨fun hp hpend hturn hst hq => ?_, fun hf hpush => ⟨fun hp => ?_, fun hp => ?_⟩, fun hp h => ?_, fun hp hpend hturn => ?_⟩
      · have hfree : s.WordFree k o := ⟨hpend, hturn, hst, hq⟩
        have hbody (h : ¬(arr ≠ 0 ∧ 2 ^ 31 ≤ bytes)) := pbinitBody_free (d := d) (la := la) (hno hp h) (by rw [ea hp]; exact hw) hfree
        have hzero (h : arr = 0) : ¬(arr ≠ 0 ∧ 2 ^ 31 ≤ bytes) := fun h' => h'.1 h
        have hsmall (h : bytes < 2 ^ 31) : ¬(arr ≠ 0 ∧ 2 ^ 31 ≤ bytes) := fun h' => absurd h'.2 (Nat.not_le.mpr h)
        have earr : (s.src b).toNat % 2 ^ 16 = arr := by rw [eb hp]
        refine ⟨fun e he => ⟨fun h1 h2 => ?_, fun h1 => ?_⟩, fun he => ⟨fun h1 => ?_, fun h1 h2 h3 => ?_, fun h1 h2 h3 ho => ?_⟩⟩
        · exact runs_done hp ((hbody (hsmall h2)).trans (by rw [he, earr]; exact if_pos h1))
        · exact runs_done hp ((hbody (hzero h1)).trans (by rw [he, earr]; exact if_neg (not_not.mpr h1)))
        · exact runs_done hp ((hbody (hzero h1)).trans (by rw [he, earr]; exact if_pos h1))
        · exact runs_done hp ((hbody (hsmall h2)).trans (by rw [he, earr]; exact (if_neg h1).trans (if_pos h3)))
        · have ebytes : (s.src c).toNat % 2 ^ 32 = bytes := by rw [ec hp h1]
          have hlt : barWord 0 arr bytes < 2 ^ 64 := by
            have : arr < 2 ^ 16 := Nat.mod_lt _ (by norm_num)
            unfold barWord
            omega
          obtain ⟨hword, hbars, hrest⟩ := pbinit_arms (s := s) (k := k) (x := { core := k, off := o, arr := arr, bytes := BitVec.ofNat 32 bytes })
            ho hlt
          refine ⟨_, runs_done hp ((hbody (hsmall h2)).trans ?_), hword.trans ?_, hbars, hrest⟩
          · rw [he, earr, ebytes]
            exact (if_neg h1).trans (if_neg (Nat.not_le.mpr h3))
          · unfold barWord
            omega
      · have e : s.src a = va := src_of_plain hp (.head _)
        refine runs_done hp ?_
        simp only [e, hw]
        exact if_neg (Bool.eq_false_iff.mp (spadBusy_eq_false hf hpush))
      · have e : s.src a = va := src_of_plain hp (.head _)
        have e' : s.src b = s.rg b := src_of_plain hp (.tail _ (.head _))
        refine runs_done hp ?_
        simp only [e, e', hw, BitVec.ofNat_toNat]
        exact if_neg (Bool.eq_false_iff.mp (spadBusy_eq_false hf hpush))
      · have e : s.src a = va := src_of_plain hp (.head _)
        have h' : (s.pendingAt l || s.outOfTurn s.cur l 8) = true := by simpa using h
        refine runs_wait hp ?_
        simp only [e, hw]
        exact if_pos (by rw [h', Bool.true_or])
      · have e : s.src a = va := src_of_plain hp (.head _)
        have e' : s.src b = s.rg b := src_of_plain hp (.tail _ (.head _))
        have hfree : (s.pendingAt (.spad k o) || s.outOfTurn s.cur (.spad k o) 8) = false := by
          rw [show s.pendingAt (.spad k o) = false from hpend]
          exact hturn
        intro x
        refine ⟨fun hx hlv => runs_wait hp ?_, fun hx => runs_done hp ?_⟩
        · obtain ⟨hbar, hphase⟩ := hx
          simp only [e, e', hw, locRead_spad]
          refine if_pos ?_
          rw [hfree, Bool.false_or, hlv, Bool.not_false, Bool.and_true, Bool.and_eq_true, beq_iff_eq]
          exact ⟨Option.isSome_iff_ne_none.mpr hbar, hphase⟩
        · simp only [e, e', hw, locRead_spad]
          refine (if_neg ?_).trans
            (congrArg Res.done (dst_noteReach (port_none_of_noPort hp.noPort (List.mem_append_right _ (.head _)))))
          rw [hfree, Bool.false_or, Bool.and_eq_true, Bool.and_eq_true, beq_iff_eq, Option.isSome_iff_ne_none, Bool.not_eq_true']
          rintro ⟨hholds, hlv⟩
          rcases hx with hx | hx
          · exact hx hholds
          · rw [hlv] at hx
            cases hx
  · intro t qs w
    refine ⟨fun e he hqs => ?_, fun q p hqs ha hp hu => ?_⟩
    · intro phase arr bytes harr
      obtain ⟨hword, hrest⟩ := barrierUpdate_word (s := s) (k := k) (n := n) (e := e) ho harr
      exact ⟨_, exec_barrierUpdate_armed hqs he, hword.trans (barUpdate_eq ..), hrest⟩
    · have hne : s.reaching k o n ≠ [] := by
        change qs ≠ []
        rw [hqs]
        exact List.cons_ne_nil _ _
      cases hbar : t.bar? k o with
      | none =>
        refine ⟨(s.takeContribs k o n).deliver q.src p (word (2 ^ 62)),
          (exec_barrierUpdate_notArmed hne hbar).trans (congrArg _ (by rw [show s.reaching k o n = [q] from hqs, notArmed_single hp])),
          fun _ => ⟨rfl, State.core_updCore (s.takeContribs k o n) q.src _⟩, fun h => absurd rfl h, fun h => absurd rfl h⟩
      | some e =>
        refine ⟨_, exec_barrierUpdate_armed hne hbar, nofun, fun _ h => ?_, fun _ h => ?_⟩
        · exact (barrierUpdate_tells hqs ha hp hu _).trans (by rw [if_neg h])
        · exact (barrierUpdate_tells hqs ha hp hu _).trans (by rw [if_pos h])

end Sys2Proof
end

section
/-!
SUPPORT. Counters, arm entries and their actions (R260, R261), and the watches of WAITA (R262).
-/

namespace Sys2Proof.Machine

open Sys2Proof

variable {s t : State}

/-! ## The order of actions (R261) -/

theorem perm_insArm (a : Arm) (l : List Arm) : (insArm a l).Perm (a :: l) := by
  induction l with
  | nil => exact .refl _
  | cons b bs ih =>
    rw [insArm]
    split
    · exact .refl _
    · exact (ih.cons b).trans (.swap a b bs)

theorem pairwise_insArm (a : Arm) {l : List Arm} (h : l.Pairwise (fun x y => x.thr.toNat ≤ y.thr.toNat)) :
    (insArm a l).Pairwise (fun x y => x.thr.toNat ≤ y.thr.toNat) := by
  induction l with
  | nil => exact List.pairwise_singleton _ _
  | cons b bs ih =>
    obtain ⟨hb, hbs⟩ := List.pairwise_cons.mp h
    rw [insArm]
    split
    · next hlt =>
      refine List.pairwise_cons.mpr ⟨fun x hx => ?_, h⟩
      rcases List.mem_cons.mp hx with rfl | hx
      · exact hlt.le
      · exact hlt.le.trans (hb x hx)
    · next hge =>
      refine List.pairwise_cons.mpr ⟨fun x hx => ?_, ih hbs⟩
      rcases List.mem_cons.mp ((perm_insArm a bs).mem_iff.mp hx) with rfl | hx
      · exact not_lt.mp hge
      · exact hb x hx

/-- An entry comes behind those of its own threshold. -/
theorem filter_insArm (v : Word) (a : Arm) {l : List Arm} (h : l.Pairwise (fun x y => x.thr.toNat ≤ y.thr.toNat)) :
    (insArm a l).filter (fun a => a.thr == v) = l.filter (fun a => a.thr == v) ++ [a].filter (fun a => a.thr == v) := by
  induction l with
  | nil => rfl
  | cons b bs ih =>
    obtain ⟨hb, hbs⟩ := List.pairwise_cons.mp h
    rw [insArm]
    split
    · next hlt =>
      by_cases ha : a.thr = v
      · have hnone : (b :: bs).filter (fun a => a.thr == v) = [] := by
          refine List.filter_eq_nil_iff.mpr fun x hx => ?_
          have hax : a.thr.toNat < x.thr.toNat := by
            rcases List.mem_cons.mp hx with rfl | hx
            · exact hlt
            · exact hlt.trans_le (hb x hx)
          rw [beq_iff_eq]
          rintro rfl
          rw [ha] at hax
          exact lt_irrefl _ hax
        rw [List.filter_cons, hnone]
        simp [ha]
      · rw [List.filter_cons]
        simp [ha]
    · rw [List.filter_cons, List.filter_cons, ih hbs]
      split <;> rfl

/-- A list of entries in the order in which their actions are performed. -/
theorem ordered_arms (l : List Arm) (v : Word) :
    (l.foldl (fun l a => insArm a l) []).Perm l ∧
      (l.foldl (fun l a => insArm a l) []).Pairwise (fun x y => x.thr.toNat ≤ y.thr.toNat) ∧
      (l.foldl (fun l a => insArm a l) []).filter (fun a => a.thr == v) = l.filter (fun a => a.thr == v) := by
  have h : ∀ m : List Arm, m.Pairwise (fun x y => x.thr.toNat ≤ y.thr.toNat) →
      (l.foldl (fun l a => insArm a l) m).Perm (m ++ l) ∧
        (l.foldl (fun l a => insArm a l) m).Pairwise (fun x y => x.thr.toNat ≤ y.thr.toNat) ∧
        (l.foldl (fun l a => insArm a l) m).filter (fun a => a.thr == v) = (m ++ l).filter (fun a => a.thr == v) := by
    induction l with
    | nil => exact fun m hm => ⟨by rw [List.append_nil]; exact .refl _, hm, by rw [List.append_nil]; rfl⟩
    | cons a l ih =>
      intro m hm
      obtain ⟨hperm, hpair, hfilter⟩ := ih (insArm a m) (pairwise_insArm a hm)
      refine ⟨hperm.trans (((perm_insArm a m).append_right l).trans List.perm_middle.symm), hpair, ?_⟩
      rw [List.foldl_cons, hfilter, List.filter_append, List.filter_append, filter_insArm v a hm, List.append_assoc,
        ← List.filter_append, List.singleton_append]
  exact h [] .nil

/-! ## Actions (R261) -/

theorem fire_task_waits {tl : Nat} (r : Rec) (h : s.armWaits tl = true ∨ 8192 ≤ ((s.tile tl).queue ((s.hallOf tl).getD {}).cls).length) :
    s.fire tl (.task r) = some { s with
      pushes := s.pushes ++ [{ id := s.ctr, tile := tl, crec := r, forced := true, armed := true }], ctr := s.ctr + 1 } := by
  refine if_pos ?_
  rw [Bool.or_eq_true, decide_eq_true_eq]
  exact h

theorem fire_task_room {tl : Nat} (r : Rec) (ha : s.armWaits tl = false)
    (h : ((s.tile tl).queue ((s.hallOf tl).getD {}).cls).length < 8192) :
    s.fire tl (.task r) = some (s.pushTask tl ((s.hallOf tl).getD {}).cls r) := by
  refine if_neg ?_
  rw [ha, Bool.false_or, decide_eq_true_eq]
  exact Nat.not_le.mpr h

theorem fire_held {tl ck : Nat} (r : Rec) (ha : s.armWaits tl = true) :
    s.fire tl (.msg ck r) = none ∧ s.fire tl (.wake ck) = none := ⟨if_pos ha, if_pos ha⟩

theorem tile_notify_updMem (f : Mems → Mems) (l : Loc) (n k : Nat) : ∃ ms, ((s.updMem f).notify l n).tile k = { s.tile k with mons := ms } :=
  tile_notify (s := s.updMem f) l n k

theorem tile_putRec (tl off : Nat) (r : Rec) (k : Nat) : ∃ ms, (s.putRec tl off r).tile k = { s.tile k with mons := ms } := by
  rw [State.putRec]
  exact tile_notify_updMem ..

theorem queue_pushTask (tl cls : Nat) (r : Rec) : ((s.pushTask tl cls r).tile tl).queue cls = (s.tile tl).queue cls ++ [s.cycle] := by
  obtain ⟨ms, hms⟩ := tile_putRec (s := s.setTile tl { s.tile tl with taskq := (s.tile tl).taskq.put cls ((s.tile tl).queue cls ++ [s.cycle]) })
    tl ((s.tile tl).taskSlot cls ((s.tile tl).queue cls).length) r tl
  rw [State.pushTask, hms, State.tile_setTile_same]
  exact SMap.get_put_same ..

theorem pushes_pushTask (tl cls : Nat) (r : Rec) : (s.pushTask tl cls r).pushes = s.pushes := by
  rw [State.pushTask, State.putRec, notify_eq]
  rfl

theorem fire_msg_room {tl ck : Nat} (r : Rec) (ha : s.armWaits tl = false) (hlen : (s.core ck).handlers.length < 64)
    (hover : ∀ e ∈ (s.tile (tileOf ck)).overflow, e.core ≠ ck)
    (hturn : ¬((s.tile (tileOf ck)).lastPost.1 = s.cycle ∧ s.myHall.sender s.cur < (s.tile (tileOf ck)).lastPost.2)) :
    s.fire tl (.msg ck r) = some ((s.setTile (tileOf ck) { s.tile (tileOf ck) with lastPost := (s.cycle, s.myHall.sender s.cur) }).setCore
      ck { s.core ck with handlers := (s.core ck).handlers ++ [{ crec := r }] }) := by
  have hall : (s.tile (tileOf ck)).overflow.all (fun e => e.core != ck) = true := by simpa using hover
  have hroom : (s.core ck).handlers.length < handlerCap ∧ (s.tile (tileOf ck)).overflow.all (fun e => e.core != ck) = true := ⟨hlen, hall⟩
  refine (if_neg (by rw [ha]; exact Bool.false_ne_true)).trans ?_
  exact (if_neg hturn).trans (if_pos hroom)

theorem wakeWaita_none {ck : Nat} (h : ∀ m ∈ (s.tile (tileOf ck)).mons, m.core ≠ ck) : s.wakeWaita ck = s := by
  have hno : (s.tile (tileOf ck)).mons.filter (fun m => m.core == ck) = [] :=
    List.filter_eq_nil_iff.mpr fun m hm => by simpa using h m hm
  unfold State.wakeWaita
  simp only [hno, List.isEmpty_nil, if_true]

/-- A wake ends the core's WFE, or sets its latch (R261, R410). -/
theorem wakeCore_unwatched {ck : Nat} (h : ∀ m ∈ (s.tile (tileOf ck)).mons, m.core ≠ ck) :
    s.wakeCore ck = s.setCore ck (if (s.core ck).lv0.hold = .wfe
      then { (s.core ck).resume false ((s.core ck).lv0.pc + 4) with latch := false } else { s.core ck with latch := true }) := by
  rw [State.wakeCore, wakeWaita_none h, State.updCore]
  congr 1
  by_cases hw : (s.core ck).lv0.hold = .wfe
  · rw [if_pos hw]; exact if_pos (by rw [hw]; rfl)
  · rw [if_neg hw]; exact if_neg (by simpa using hw)

/-! ## Watches (R262) -/

theorem mons_notify (l : Loc) (n tl : Nat) :
    ((s.notify l n).tile tl).mons = (s.tile tl).mons.filter (fun m => !m.loc.hit l n) := by
  rw [notify_eq_wake]
  change ((s.wake l n).tile tl).mons = _
  unfold State.wake
  dsimp only
  split
  · next h =>
    have hno := List.isEmpty_iff.mp h
    refine (List.filter_eq_self.mpr fun m hm => ?_).symm
    rcases SMap.get_default_or_mem ({} : Tile) s.tiles tl with hd | hmem
    · rw [State.tile, hd] at hm
      exact absurd hm List.not_mem_nil
    · have hf := List.filter_eq_nil_iff.mp (List.flatMap_eq_nil_iff.mp hno _ hmem) m hm
      simpa using hf
  · rw [foldl_updCore_eq]
    change (SMap.get ({} : Tile) (s.tiles.map _) tl).mons = _
    rw [SMap.get_map (d := ({} : Tile)) (g := fun x => { x with mons := x.mons.filter (fun m => !m.loc.hit l n) }) rfl s.tiles tl]
    rfl

/-- The one WAITA that watches a written place is answered WOKEN. -/
theorem core_notify_single {l : Loc} {n tl : Nat} {m : Mon}
    (ht : s.tiles = [(tl, { s.tile tl with mons := [m] })]) (hm : m.loc.hit l n = true) :
    (s.notify l n).core m.core = (s.core m.core).arrive m.pend 0 {} := by
  have hhits : s.tiles.flatMap (fun e => e.2.mons.filter (fun m => m.loc.hit l n)) = [m] := by
    rw [ht]
    simp [hm]
  rw [notify_eq_wake]
  change (s.wake l n).core m.core = _
  unfold State.wake
  simp only [hhits, List.isEmpty_cons, Bool.false_eq_true, if_false, List.foldl_cons, List.foldl_nil]
  exact State.core_updCore ..

/-- The watch that WAITA_WAKE names is answered (R262). -/
theorem exec_waitaWake {ck id : Nat} {m : Mon} (hm : m ∈ (s.tile (tileOf ck)).mons) (hc : m.core = ck) (hp : m.pend = id) :
    exec (.waitaWake ck id) s = .next ((s.setTile (tileOf ck) { s.tile (tileOf ck) with
      mons := (s.tile (tileOf ck)).mons.filter (fun m => !(m.core == ck && m.pend == id)) }).deliver ck id 0) := by
  have hany : (s.tile (tileOf ck)).mons.any (fun m => m.core == ck && m.pend == id) = true :=
    List.any_eq_true.mpr ⟨m, hm, by rw [hc, hp, beq_self_eq_true, beq_self_eq_true]; rfl⟩
  exact congrArg Host.Outcome.next (if_pos hany)

end Sys2Proof.Machine
end

section
/-!
SUPPORT. CTINC, CTARM and WAITA by outcome (R260 to R262).
-/

namespace Sys2Proof.Machine

open Sys2Proof

variable {s w : State} {d : Reg} {la : BitVec 4} {k o : Nat}

/-! ## CTARM -/

section
variable {thr : Word} {act : ArmAct}
  (hfree : (w.pendingAt (.spad k o) || w.scoreWaits (.spad k o) 8) = false)
include hfree

theorem armBody_fires {e : State} (hthr : thr.toNat ≤ (w.noteReach w.cur (.spad k o) 8).spadRead k o 8)
    (he : (w.noteReach w.cur (.spad k o) 8).fire (tileOf k) act = some e) : armBody d la thr k o act w = .done (e.answer d la 1) := by
  refine (if_neg (Bool.eq_false_iff.mp hfree)).trans ((if_pos hthr).trans ?_)
  rw [he]

variable (hthr : (w.noteReach w.cur (.spad k o) 8).spadRead k o 8 < thr.toNat)
include hthr

theorem armBody_full (hlen : 64 ≤ ((w.noteReach w.cur (.spad k o) 8).tile (tileOf k)).arms.length) :
    armBody d la thr k o act w = .done ((w.noteReach w.cur (.spad k o) 8).answer d la 2) :=
  (if_neg (Bool.eq_false_iff.mp hfree)).trans ((if_neg (Nat.not_le.mpr hthr)).trans (if_pos hlen))

theorem armBody_arms (hlen : ((w.noteReach w.cur (.spad k o) 8).tile (tileOf k)).arms.length < 64) :
    armBody d la thr k o act w = .done (((w.noteReach w.cur (.spad k o) 8).setTile (tileOf k) { (w.noteReach w.cur (.spad k o) 8).tile (tileOf k) with
      arms := ((w.noteReach w.cur (.spad k o) 8).tile (tileOf k)).arms ++ [{ core := k, off := o, thr := thr, act := act }] }).answer d la 0) :=
  (if_neg (Bool.eq_false_iff.mp hfree)).trans ((if_neg (Nat.not_le.mpr hthr)).trans (if_neg (Nat.not_le.mpr hlen)))

end

/-- A sound record that could be read is handed on. -/
theorem readRec_ok {a : Word} {x : Nat} {y : Loc} (f : Rec → State → Res) (ha : a.toNat % 32 = 0)
    (hr : s.nowRead a 32 0 kLoad false = .ok x y w) (hb : (recOf x).bad = none) : s.readRec a f = f (recOf x) w := by
  rw [State.readRec, if_neg (not_not.mpr ha), hr]
  simp only [Now.res, hb]

/-! ## WAITA -/

section
variable {i : Instr} {u : Uses} {gu : Guard} {a b : Reg} {imm : BitVec 24} {lit : BitVec 64} {va : Word}

/-- An instruction is a form of WAITA that watches the word at `va`, and uses `u`. -/
def IsWaita (s : State) (i : Instr) (gu : Guard) (la : BitVec 4) (d a b : Reg) (imm : BitVec 24) (lit : BitVec 64) (u : Uses)
    (va : Word) : Prop :=
  (i = .waita gu la d a b imm ∧ va = s.rg a + imm24 imm ∧
      u = { len := 12, on := s.guard gu, rs := [a.toNat, b.toNat], ws := [d.toNat], long := true, nomask := true }) ∨
    (i = .waitaLiteral gu la d a b lit ∧ va = s.rg a + lit ∧
      u = { len := 20, on := s.guard gu, rs := [a.toNat, b.toNat], ws := [d.toNat], long := true, nomask := true })

/-- What both forms of WAITA do once they issue. -/
def waitaBody (d b : Reg) (la : BitVec 4) (va : Word) (s : State) : Res :=
  if va.toNat % 8 ≠ 0 then .trap s tALIGN va
  else
    (s.nowRead va 8 0 kAtomic false).res 0 (fun x l t =>
      let host := match l with | .glob pa => isHost pa | _ => false
      if host then .trap s tREFUSED va
      else if word x ≠ s.src b then .done (t.answer d la 1)
      else if t.lv then .done (t.answer d la 0)
      else
        let tl := t.tile (tileOf t.cur)
        if monCap ≤ tl.mons.length then .done (t.answer d la 2)
        else
          let (id, t) := t.pendG d la 1 .waita
          .done (t.updTile (tileOf t.cur) (fun tl => { tl with mons := tl.mons ++ [{ core := t.cur, pend := id, loc := l }] })))

variable (hi : IsWaita s i gu la d a b imm lit u va) (hp : IssuesPlain s u)
include hi hp

theorem src_of_isWaita : s.src b = s.rg b := by
  rcases hi with ⟨-, -, rfl⟩ | ⟨-, -, rfl⟩ <;> exact src_of_plain hp (.tail _ (.head _))

theorem exec_waita : ∃ body, exec i s = s.runs u body ∧ body s = waitaBody d b la va s := by
  rcases hi with ⟨rfl, rfl, rfl⟩ | ⟨rfl, rfl, rfl⟩
  · have e : s.src a = s.rg a := src_of_plain hp (.head _)
    rw [← e]
    exact ⟨_, rfl, rfl⟩
  · have e : s.src a = s.rg a := src_of_plain hp (.head _)
    rw [← e]
    exact ⟨_, rfl, rfl⟩

theorem exec_waita_trap {code : Nat} {v : Word} (h : waitaBody d b la va s = .trap s code v) : exec i s = .next (s.trap code v) := by
  obtain ⟨body, hx, hb⟩ := exec_waita hi hp
  rw [hx]
  exact runs_trap hp.toIssues (hb.trans h)

theorem exec_waita_done {e : State} (h : waitaBody d b la va s = .done e) : Performs s i u e := by
  obtain ⟨body, hx, hb⟩ := exec_waita hi hp
  rw [Performs, hx]
  exact runs_done hp (hb.trans h)

end

section
variable {b : Reg} {va : Word} {x : Nat} {l : Loc} (ha : va.toNat % 8 = 0) (hr : s.nowRead va 8 0 kAtomic false = .ok x l w)
  (hl : ∀ pa, l = .glob pa → isHost pa = false)
include ha hr hl

/-- What WAITA does with the word that it has read. -/
theorem waitaBody_read : waitaBody d b la va s =
    if word x ≠ s.src b then .done (w.answer d la 1)
    else if w.lv then .done (w.answer d la 0)
    else if monCap ≤ (w.tile (tileOf w.cur)).mons.length then .done (w.answer d la 2)
    else .done ((w.enterPend (w.newPend (greg w.lv d.toNat) la.toNat 1 .waita 0)).updTile (tileOf w.cur) (fun tl =>
      { tl with mons := tl.mons ++ [{ core := w.cur, pend := w.ctr, loc := l }] })) := by
  rw [waitaBody, if_neg (not_not.mpr ha), hr]
  cases l with
  | glob pa => exact if_neg (Bool.eq_false_iff.mp (hl pa rfl))
  | spad | vault | gal => rfl

end

end Sys2Proof.Machine
end

section
/-!
PROOFS. Counters, arm entries and WAITA (O34).
-/

namespace Sys2Proof

open Sys2Proof.Machine

variable {s : State}

theorem scoreWaits_eq_false {l : Loc} {n : Nat} (hs : s.overScore l n = false) (ht : s.outOfTurn s.cur l n = false) :
    s.scoreWaits l n = false := by rw [State.scoreWaits, hs, ht]; rfl

theorem free_of {l : Loc} (hp : s.pendingAt l = false) (hs : s.overScore l 8 = false) (ht : s.outOfTurn s.cur l 8 = false) :
    (s.pendingAt l || s.scoreWaits l 8) = false := by rw [hp, scoreWaits_eq_false hs ht]; rfl

/-- Settles O34: CTINC and CTARM by outcome (`armBody_fires`, `armBody_full`, `armBody_arms`), the order of actions by
`ordered_arms`, WAITA by `waitaBody_read`, and the watches by `mons_notify`. -/
theorem countersAndAddressWaits : Obligations.CountersAndAddressWaits := by
  unfold Obligations.CountersAndAddressWaits
  refine ⟨⟨fun s gu la kind d a b c k o => ?_, ordered_arms, fun s tl ck r => ?_⟩, fun s i gu la d a b imm lit u va hi hp => ?_,
    fun s l n tl _ => mons_notify l n tl, fun s l n m tl _ ht hm => core_notify_single ht hm,
    fun s ck id m hm hc hp => exec_waitaWake hm hc hp⟩
  · intro inc arm l t hw
    have eai (hp : IssuesPlain s inc) : s.src a = s.rg a := src_of_plain hp (.head _)
    have eaa (hp : IssuesPlain s arm) : s.src a = s.rg a := src_of_plain hp (.head _)
    refine ⟨fun hb => ⟨fun hp => runs_trap hp.toIssues ?_, fun hp => runs_trap hp.toIssues ?_⟩, fun hb hpend hover hturn => ?_⟩
    · simp only [eai hp, hw]
      exact if_pos hb
    · simp only [eaa hp, hw]
      exact if_pos hb
    · have hb : ¬s.overBarrier l 8 = true := Bool.eq_false_iff.mp hb
      have hfree : ¬(s.pendingAt l || s.scoreWaits l 8) = true := Bool.eq_false_iff.mp (free_of hpend hover hturn)
      intro old
      refine ⟨?_, fun hp act w hact hpend' hover' hturn' => ?_⟩
      · intro hp new hits w e he
        have eb : s.src b = s.rg b := src_of_plain hp (.tail _ (.head _))
        refine runs_done hp ?_
        simp only [eai hp, eb, hw, locRead_spad]
        refine (if_neg hb).trans ((if_neg hfree).trans ?_)
        change (match State.fireAll (tileOf k) hits w with | none => Res.stall | some s => .done (s.answer d la (word new))) = _
        rw [he]
      · have eb : s.src b = s.rg b := src_of_plain hp (.tail _ (.head _))
        have ec : s.src c = s.rg c := src_of_plain hp (.tail _ (.tail _ (.head _)))
        have hfree' : (w.pendingAt l || w.scoreWaits l 8) = false := free_of hpend' hover' hturn'
        have hbody {r : Res} (h : armBody d la (s.rg b) k o act w = r) : ∃ body, exec (.ctarm gu la kind d a b c) s = s.runs arm body ∧ body s = r := by
          refine ⟨_, rfl, ?_⟩
          simp only [eaa hp, eb, ec, hw]
          refine (if_neg hb).trans ?_
          rcases hact with ⟨hk, hact, rfl⟩ | ⟨x, y, hal, hr, hbad, hact⟩
          · rw [if_pos hk, ← hact]
            exact h
          · rcases hact with ⟨hk, hz, hact⟩ | ⟨hk, hact⟩
            · rw [if_neg (by rw [hk]; decide), readRec_ok _ hal hr hbad, if_pos hk, if_neg (not_not.mpr hz), ← hact]
              exact h
            · rw [if_neg (by rw [hk]; decide), readRec_ok _ hal hr hbad, if_neg (by rw [hk]; decide), ← hact]
              exact h
        have hdone {e : State} (h : armBody d la (s.rg b) k o act w = .done e) : Performs s (.ctarm gu la kind d a b c) arm e := by
          obtain ⟨body, hx, hb⟩ := hbody h
          rw [Performs, hx]
          exact runs_done hp hb
        exact ⟨fun hthr hlen => hdone (armBody_arms hfree' hthr hlen), fun hthr hlen => hdone (armBody_full hfree' hthr hlen),
          fun hthr e he => hdone (armBody_fires hfree' hthr he)⟩
  · intro cls t
    refine ⟨fire_task_waits r, fire_held r, fun ha => ⟨fun hlen => ⟨_, fire_task_room r ha hlen, queue_pushTask tl cls r, ?_, pushes_pushTask ..⟩,
      fun hlen hover hturn => fire_msg_room r ha hlen hover hturn, fun hm => ?_⟩⟩
    · rw [State.pushTask]
      exact getRec_putRec ..
    · exact (if_neg (Bool.eq_false_iff.mp ha)).trans (congrArg some (wakeCore_unwatched hm))
  · have hi : IsWaita s i gu la d a b imm lit u va := hi
    have eb := src_of_isWaita hi hp
    refine ⟨fun ha => exec_waita_trap hi hp (if_pos ha), fun ha x l t hr hl => ?_⟩
    have hread := waitaBody_read (d := d) (la := la) (b := b) ha hr hl
    rw [eb] at hread
    refine ⟨fun hne => ?_, fun he hlv => ?_, fun he hlv hlen => ?_, fun he hlv hlen => ?_⟩
    · exact exec_waita_done hi hp (hread.trans (if_pos hne))
    · exact exec_waita_done hi hp (hread.trans ((if_neg (not_not.mpr he)).trans (if_pos hlv)))
    · exact exec_waita_done hi hp (hread.trans ((if_neg (not_not.mpr he)).trans ((if_neg (Bool.eq_false_iff.mp hlv)).trans (if_pos hlen))))
    · exact exec_waita_done hi hp (hread.trans ((if_neg (not_not.mpr he)).trans ((if_neg (Bool.eq_false_iff.mp hlv)).trans
        (if_neg (Nat.not_le.mpr hlen)))))

end Sys2Proof
end

section
/-!
SUPPORT. What a fence covers, waits for and leaves (R263, R264, R436).
-/

namespace Sys2Proof.Machine

open Sys2Proof

variable {s : State} {d : Reg} {n K : Nat}

theorem rg_wg (d : Reg) (x : Word) : (s.wg d x).rg d = if d = 0 then 0 else x := by
  split
  · next h => rw [h, State.rg, Core.g]; exact if_pos rfl
  · next h => exact rg_wg_same h x

theorem wg_cores_other {k : Nat} (hk : k ≠ s.cur) (x : Word) : (s.wg d x).core k = s.core k := by
  rw [State.wg, State.updMe, State.updCore, State.core_setCore, if_neg hk.symm]

theorem Core.fails_setG (c : Core) (lv lv' : Bool) (r : Nat) (x : Word) : ((c.setG lv r x).thr lv').fails = (c.thr lv').fails := by
  unfold Core.setG
  split
  · rfl
  split
  · cases lv <;> cases lv' <;> rfl
  · rfl

/-! ## What keeps a fence waiting -/

/-- An access that a fence of this kind and scope waits for. -/
def State.fenceLate (s : State) (n K : Nat) (r : Req) : Prop :=
  r.core = s.cur ∧ r.lv = s.lv ∧ r.op.inClass (K != 3) (K != 2) = true ∧ coverScope s.cur r.loc ≤ n

/-- A contribution that is a store of the core, and that the scope covers. -/
def State.fenceOwed (s : State) (n : Nat) (q : Contrib) : Prop :=
  q.src = s.cur ∧ q.copy = none ∧ q.arrival = false ∧ coverScope s.cur (.spad q.core q.off) ≤ n

/-- A push of the core's task that the scope covers. -/
def State.fencePushed (s : State) (n : Nat) (m : QFlight) : Prop :=
  s.lv = false ∧ (∃ x, m.msg = .push x) ∧ m.src = s.cur ∧ coverScope s.cur (.spad m.core 0) ≤ n

theorem pushBy_iff {m : QFlight} {ck : Nat} : m.pushBy ck = true ↔ (∃ x, m.msg = .push x) ∧ m.src = ck := by
  unfold QFlight.pushBy
  cases m.msg <;> simp

theorem fenceBusy_iff : s.fenceBusy n (K != 3) (K != 2) = true ↔ (∃ r ∈ s.flight, s.fenceLate n K r) ∨
    (K ≠ 2 ∧ ((∃ q ∈ (s.tile (tileOf s.cur)).contribs, s.fenceOwed n q) ∨ ∃ m ∈ s.qflight, s.fencePushed n m)) := by
  have hlate : s.flight.any (fun r => r.core == s.cur && r.lv == s.lv && r.op.inClass (K != 3) (K != 2) &&
      decide (coverScope s.cur r.loc ≤ n)) = true ↔ ∃ r ∈ s.flight, s.fenceLate n K r := by
    simp only [List.any_eq_true, State.fenceLate, Bool.and_eq_true, beq_iff_eq, decide_eq_true_eq, and_assoc]
  have howed : (s.tile (tileOf s.cur)).contribs.any (fun q => q.src == s.cur && q.copy == none && !q.arrival &&
      decide (coverScope s.cur (.spad q.core q.off) ≤ n)) = true ↔ ∃ q ∈ (s.tile (tileOf s.cur)).contribs, s.fenceOwed n q := by
    simp only [List.any_eq_true, State.fenceOwed, Bool.and_eq_true, beq_iff_eq, decide_eq_true_eq, Bool.not_eq_true', and_assoc]
  have hpush : (!s.lv && s.qflight.any (fun m => m.pushBy s.cur && decide (coverScope s.cur (.spad m.core 0) ≤ n))) = true ↔
      ∃ m ∈ s.qflight, s.fencePushed n m := by
    simp only [List.any_eq_true, State.fencePushed, Bool.and_eq_true, decide_eq_true_eq, Bool.not_eq_true', pushBy_iff, and_assoc]
    exact ⟨fun ⟨hl, m, hm, h⟩ => ⟨m, hm, hl, h⟩, fun ⟨m, hm, hl, h⟩ => ⟨hl, m, hm, h⟩⟩
  rw [State.fenceBusy, Bool.or_eq_true, Bool.or_eq_true, hlate, Bool.and_assoc, Bool.and_eq_true, Bool.and_eq_true, howed, hpush,
    bne_iff_ne, or_assoc, ← and_or_left]

/-! ## What a fence reports -/

theorem fenceStatus_eq : s.fenceStatus n = word (
    (if ∃ f ∈ (s.me.thr s.lv).fails, coverScope s.cur f.1 ≤ n ∧ f.2 = true then 1 else 0) +
    (if ∃ f ∈ (s.me.thr s.lv).fails, coverScope s.cur f.1 ≤ n ∧ f.2 = false then 2 else 0) +
    (if 5 ≤ n ∧ (s.linkState 0 = 2 ∨ s.linkState 1 = 2) then 4 else 0)) := by
  have hany (p : Loc × Bool → Bool) :
      (((s.me.thr s.lv).fails.filter (fun f => decide (coverScope s.cur f.1 ≤ n))).any p = true) ↔
        ∃ f ∈ (s.me.thr s.lv).fails, coverScope s.cur f.1 ≤ n ∧ p f = true := by
    simp only [List.any_filter, List.any_eq_true, Bool.and_eq_true, decide_eq_true_eq]
  have hdead : (decide (5 ≤ n) && s.anyDead) = true ↔ 5 ≤ n ∧ (s.linkState 0 = 2 ∨ s.linkState 1 = 2) := by
    rw [State.anyDead, Bool.and_eq_true, Bool.or_eq_true, decide_eq_true_eq, beq_iff_eq, beq_iff_eq]
  have hpoison := hany (fun f => f.2)
  have hrefused := hany (fun f => !f.2)
  simp only [Bool.not_eq_true'] at hrefused
  unfold State.fenceStatus bit
  simp only [hpoison, hrefused, hdead, mul_ite, mul_one, mul_zero]

/-! ## What a fence leaves -/

/-- A fence of this kind and scope drops clean lines. -/
def FenceDrops (n K : Nat) : Prop := (K = 0 ∨ K = 2 ∨ K = 4) ∧ 2 ≤ n

/-- The lines that a fence drops from its bay. -/
def State.fenceCovers (s : State) (n l : Nat) : Bool := decide (5 ≤ n) || homeDie (l * 128) == dieOf (tileOf s.cur)

/-- The state once a fence has dropped its lines. -/
def State.fenceDropped (s : State) (n K : Nat) : State := if K = 0 ∨ K = 2 ∨ K = 4 then s.fenceDrop n else s

/-- The covered failures of the thread that issued a fence are reported no more. -/
def State.reportFails (s : State) (n : Nat) : State := s.updMe (fun c =>
  let t := c.thr c.level
  c.setThr c.level { t with fails := t.fails.filter (fun f => !decide (coverScope s.cur f.1 ≤ n)) })

/-- What a fence leaves, before its destination is written. -/
def State.fenceLeft (s : State) (n K : Nat) : State :=
  let t := (s.fenceDropped n K).reportFails n
  if K = 4 then t.updBay (bayOf t.cur) (fun b => { b with icache := [] }) else t

theorem fenceBody_waits (h : s.fenceBusy n (K != 3) (K != 2) = true) : fenceBody d n K s = .wait s .issued := if_pos h

theorem fenceBody_done (h : s.fenceBusy n (K != 3) (K != 2) = false) :
    fenceBody d n K s = .done ((s.fenceLeft n K).dst d (s.fenceStatus n)) := if_neg (Bool.eq_false_iff.mp h)

theorem fenceDropped_of (h : FenceDrops n K) : s.fenceDropped n K = s.l1Clean (bayOf s.cur) (s.fenceCovers n) :=
  (if_pos h.1).trans (if_neg (Nat.not_lt.mpr h.2))

theorem fenceDropped_of_not (h : ¬FenceDrops n K) : s.fenceDropped n K = s := by
  unfold State.fenceDropped
  split
  · next hk => exact if_pos (Nat.not_le.mp fun hn => h ⟨hk, hn⟩)
  · rfl

/-- Dropping lines changes the own bay's lines and the answers under way alone. -/
theorem fenceDropped_frame : (s.fenceDropped n K).cur = s.cur ∧ (s.fenceDropped n K).cores = s.cores ∧
    (s.fenceDropped n K).mem = s.mem ∧ (∀ k, k ≠ bayOf s.cur → (s.fenceDropped n K).bay k = s.bay k) ∧
    ((s.fenceDropped n K).bay (bayOf s.cur)).icache = (s.bay (bayOf s.cur)).icache := by
  by_cases h : FenceDrops n K
  · rw [fenceDropped_of h]
    have hbay (k : Nat) : (s.l1Clean (bayOf s.cur) (s.fenceCovers n)).bay k =
        (s.updBay (bayOf s.cur) (fun b => { b with l1 := b.l1.filter (fun l => !s.fenceCovers n l.line) })).bay k := rfl
    refine ⟨rfl, rfl, rfl, fun k hk => ?_, ?_⟩
    · rw [hbay, State.updBay, State.bay_setBay, if_neg hk.symm]
    · rw [hbay, State.updBay, State.bay_setBay_same]
  · rw [fenceDropped_of_not h]
    exact ⟨rfl, rfl, rfl, fun _ _ => rfl, rfl⟩

open Classical in
theorem fenceDropped_l1 : ((s.fenceDropped n K).bay (bayOf s.cur)).l1 = if FenceDrops n K
    then (s.bay (bayOf s.cur)).l1.filter (fun x => decide (n < 5) && homeDie (x.line * 128) != dieOf (tileOf s.cur))
    else (s.bay (bayOf s.cur)).l1 := by
  split
  · next h =>
    have hbay : (s.l1Clean (bayOf s.cur) (s.fenceCovers n)).bay (bayOf s.cur) =
        (s.updBay (bayOf s.cur) (fun b => { b with l1 := b.l1.filter (fun l => !s.fenceCovers n l.line) })).bay (bayOf s.cur) := rfl
    rw [fenceDropped_of h, hbay, State.updBay, State.bay_setBay_same]
    refine List.filter_congr fun x _ => ?_
    rw [State.fenceCovers, Bool.not_or, bne, ← decide_not]
    simp only [not_le]
  · next h => rw [fenceDropped_of_not h]

open Classical in
theorem fenceDropped_flight : (s.fenceDropped n K).flight = if FenceDrops n K
    then s.flight.map (fun r => match r.st, r.loc with
      | .done _ _ _, .glob pa =>
        if bayOf r.core = bayOf s.cur ∧ (5 ≤ n ∨ homeDie (pa / 128 * 128) = dieOf (tileOf s.cur)) then { r with nofill := true } else r
      | _, _ => r)
    else s.flight := by
  split
  · next h =>
    rw [fenceDropped_of h]
    change s.flight.map _ = _
    refine List.map_congr_left fun r _ => ?_
    have hc (pa : Nat) : (bayOf r.core == bayOf s.cur && s.fenceCovers n (lineOf pa)) = true ↔
        bayOf r.core = bayOf s.cur ∧ (5 ≤ n ∨ homeDie (pa / 128 * 128) = dieOf (tileOf s.cur)) := by
      rw [State.fenceCovers, Bool.and_eq_true, Bool.or_eq_true, beq_iff_eq, decide_eq_true_eq, beq_iff_eq]
      rfl
    generalize r.st = st, r.loc = loc
    cases st with
    | done =>
      cases loc with
      | glob pa => exact if_congr (hc pa) rfl rfl
      | spad | vault | gal => rfl
    | _ => cases loc <;> rfl
  · next h => rw [fenceDropped_of_not h]

theorem reportFails_me : (s.reportFails n).me = s.me.setThr s.lv { s.me.thr s.lv with
    fails := (s.me.thr s.lv).fails.filter (fun f => !decide (coverScope s.cur f.1 ≤ n)) } := State.me_updMe ..

theorem reportFails_other {k : Nat} (hk : k ≠ s.cur) : (s.reportFails n).core k = s.core k := by
  rw [State.reportFails, State.updMe, State.updCore, State.core_setCore, if_neg hk.symm]

theorem me_of_cores {t : State} (hcur : t.cur = s.cur) (hcores : t.cores = s.cores) : t.me = s.me := by
  unfold State.me State.core
  rw [hcur, hcores]

/-- The thread's failures that a fence covers are gone; the rest of its core stands. -/
theorem fenceLeft_me : (s.fenceLeft n K).me = s.me.setThr s.lv { s.me.thr s.lv with
    fails := (s.me.thr s.lv).fails.filter (fun f => !decide (coverScope s.cur f.1 ≤ n)) } := by
  obtain ⟨hcur, hcores, -, -, -⟩ := fenceDropped_frame (s := s) (n := n) (K := K)
  have hme := me_of_cores hcur hcores
  have h : (s.fenceLeft n K).me = ((s.fenceDropped n K).reportFails n).me := by
    unfold State.fenceLeft
    dsimp only
    split <;> rfl
  rw [h, reportFails_me, State.lv, hme, hcur]
  rfl

theorem fenceLeft_other {k : Nat} (hk : k ≠ s.cur) : (s.fenceLeft n K).core k = s.core k := by
  obtain ⟨hcur, hcores, -, -, -⟩ := fenceDropped_frame (s := s) (n := n) (K := K)
  have h : (s.fenceLeft n K).core k = ((s.fenceDropped n K).reportFails n).core k := by
    unfold State.fenceLeft
    dsimp only
    split <;> rfl
  rw [h, reportFails_other (by rwa [hcur]), State.core, hcores]
  rfl

theorem fenceLeft_cur : (s.fenceLeft n K).cur = s.cur := by
  have h : (s.fenceLeft n K).cur = (s.fenceDropped n K).cur := by
    unfold State.fenceLeft
    dsimp only
    split <;> rfl
  exact h.trans fenceDropped_frame.1

theorem fenceLeft_mem_flight : (s.fenceLeft n K).mem = s.mem ∧ (s.fenceLeft n K).flight = (s.fenceDropped n K).flight := by
  have h : (s.fenceLeft n K).mem = (s.fenceDropped n K).mem ∧ (s.fenceLeft n K).flight = (s.fenceDropped n K).flight := by
    unfold State.fenceLeft
    dsimp only
    split <;> exact ⟨rfl, rfl⟩
  exact ⟨h.1.trans fenceDropped_frame.2.2.1, h.2⟩

theorem fenceLeft_bay : (∀ k, k ≠ bayOf s.cur → (s.fenceLeft n K).bay k = s.bay k) ∧
    ((s.fenceLeft n K).bay (bayOf s.cur)).l1 = ((s.fenceDropped n K).bay (bayOf s.cur)).l1 ∧
    ((s.fenceLeft n K).bay (bayOf s.cur)).icache = if K = 4 then [] else (s.bay (bayOf s.cur)).icache := by
  obtain ⟨hcur, -, -, hbay, hic⟩ := fenceDropped_frame (s := s) (n := n) (K := K)
  have hrep (k : Nat) : ((s.fenceDropped n K).reportFails n).bay k = (s.fenceDropped n K).bay k := rfl
  have hrc : ((s.fenceDropped n K).reportFails n).cur = s.cur := hcur
  unfold State.fenceLeft
  dsimp only
  split
  · rw [hrc, State.updBay]
    refine ⟨fun k hk => ?_, ?_, ?_⟩
    · rw [State.bay_setBay, if_neg hk.symm, hrep, hbay k hk]
    · rw [State.bay_setBay_same, hrep]
    · rw [State.bay_setBay_same]
  · exact ⟨hbay, rfl, hic⟩

theorem fenceLeft_dst {u : Uses} (h : IssuesPlain s u) (hd : d.toNat ∈ u.ws) (x : Word) :
    (s.fenceLeft n K).dst d x = (s.fenceLeft n K).wg d x := by
  have hport : (s.fenceLeft n K).me.port d.toNat = none := by
    rw [fenceLeft_me]
    refine Eq.trans ?_ (port_none_of_noPort h.noPort (List.mem_append_right _ hd))
    cases s.lv <;> rfl
  rw [State.dst, hport]

end Sys2Proof.Machine
end

section
/-!
PROOFS. Fences (O35).
-/

namespace Sys2Proof

open Sys2Proof.Machine

variable {s : State}

/-- The instruction is a fence, of kind `K`. -/
theorem exec_fence {i : Instr} {gu : Guard} {d : Reg} {scope kind : BitVec 3} {K : Nat}
    (hi : (i = .fence gu d scope kind ∧ K = kind.toNat ∧ K < 4) ∨ (i = .fenceInst gu d scope ∧ K = 4)) :
    exec i s = s.runs { len := 12, on := s.guard gu, ws := [d.toNat], blocking := true } (fenceBody d scope.toNat K) := by
  rcases hi with ⟨rfl, rfl, -⟩ | ⟨rfl, rfl⟩ <;> rfl

/-- Settles O35: what a fence waits for by `fenceBusy_iff`, what it reports by `fenceStatus_eq`, what it leaves by the lemmas of
`State.fenceLeft`. -/
theorem fences : Obligations.Fences := by
  unfold Obligations.Fences
  refine ⟨fun s i gu d scope kind K hi => ?_, fun ck c o v pa => ?_, rfl, rfl, rfl, rfl, fun op ty => ⟨rfl, rfl, rfl, rfl⟩⟩
  · intro n covers u bk late owed pushed fails drops hp
    have hwaits (h : s.fenceBusy n (K != 3) (K != 2) = true) : Waits s i u s .issued := by
      rw [Waits, exec_fence hi]
      exact runs_wait hp (fenceBody_waits h)
    refine ⟨fun hl => hwaits (fenceBusy_iff.mpr (.inl hl)), fun hk h => hwaits (fenceBusy_iff.mpr (.inr ⟨hk, h⟩)), fun hl hq => ?_⟩
    have hfree : s.fenceBusy n (K != 3) (K != 2) = false := by
      rw [Bool.eq_false_iff, ne_eq, fenceBusy_iff]
      rintro (⟨r, hr, h⟩ | ⟨hk, h⟩)
      · exact hl r hr h
      · obtain ⟨hc, hm⟩ := hq.resolve_left hk
        rcases h with ⟨q, hq, h⟩ | ⟨m, hmm, h⟩
        · exact hc q hq h
        · exact hm m hmm h
    have hdst := fenceLeft_dst (n := n) (K := K) hp (.head _) (s.fenceStatus n)
    obtain ⟨hbay, hl1, hic⟩ := fenceLeft_bay (s := s) (n := n) (K := K)
    obtain ⟨hmem, hflight⟩ := fenceLeft_mem_flight (s := s) (n := n) (K := K)
    have hcur := fenceLeft_cur (s := s) (n := n) (K := K)
    refine ⟨(s.fenceLeft n K).wg d (s.fenceStatus n), ?_, ?_, ?_, ?_, hic, hbay, fun k hk => ?_, hmem, ?_⟩
    · rw [Performs, exec_fence hi, ← hdst]
      exact runs_done hp (fenceBody_done hfree)
    · rw [rg_wg, fenceStatus_eq]
    · rw [State.wg, State.me_updMe, Core.fails_setG, fenceLeft_me, Core.thr_setThr]
      refine List.filter_congr fun f _ => ?_
      rw [← decide_not]
      simp only [not_le]
    · refine hl1.trans (fenceDropped_l1.trans ?_)
      congr
    · rw [wg_cores_other (by rwa [hcur]), fenceLeft_other hk]
    · refine hflight.trans (fenceDropped_flight.trans ?_)
      congr
  · exact ⟨rfl, rfl, rfl, rfl⟩

end Sys2Proof
end

section
/-!
SUPPORT. An instruction that has issued and is tried again (R50), and joins and messages beside the scratchpads.
-/

namespace Sys2Proof.Machine

open Sys2Proof

variable {s t : State} {u : Uses} {d a b : Reg}

/-! ## Trying again -/

theorem firstPort_pushes {c : Core} {l : List Nat} (h : ∀ r ∈ l, c.port r = none) : firstPort (l.map c.pushReady) = .ok := by
  induction l with
  | nil => rfl
  | cons r l ih =>
    have hr : c.pushReady r = .ok := by rw [Core.pushReady, h r (.head _)]
    rw [List.map_cons, hr]
    exact ih fun q hq => h q (.tail _ hq)

section
variable (hn : s.me.namesPort u = false)
include hn

theorem runs_again (hr : (s.me.thr s.lv).hold ≠ .ready) (hs : (s.me.thr s.lv).hold ≠ .stalled) (body : State → Res) :
    s.runs u body = .next (s.settle u true (body s)) := by
  have hports : (if u.long then PortRes.ok else firstPort (u.ws.map s.me.pushReady)) = .ok := by
    rw [firstPort_pushes fun r hr => port_none_of_noPort hn (List.mem_append_right _ hr), ite_self]
  have hs' : ((s.me.thr s.me.level).hold == .stalled) = false := beq_eq_false_iff_ne.mpr hs
  have hr' : ((s.me.thr s.me.level).hold != .ready) = true := bne_iff_ne.mpr hr
  unfold State.runs State.issueWith
  simp only [hs', hr', Bool.false_eq_true, if_false, if_true]
  unfold State.tryAgain
  rw [hports]
  cases body s <;> rfl

theorem settle_again_done : s.settle u true (.done t) = t.updMe (fun c => c.resume s.lv (s.pc + word u.len)) := by
  simp [State.settle, State.finish, popped_of_noPort hn, State.lv, State.nextPc]

theorem settle_again_jump (pc : Word) : s.settle u true (.jump t pc) = t.updMe (fun c => c.resume s.lv pc) := by
  simp [State.settle, State.finish, popped_of_noPort hn, State.lv]

end

/-! ## Registers -/

theorem Core.port_setG (c : Core) (lv : Bool) (r q : Nat) (x : Word) : (c.setG lv r x).port q = c.port q := by
  unfold Core.setG
  split
  · rfl
  split
  · cases lv <;> rfl
  · rfl

theorem Core.level_setG (c : Core) (lv : Bool) (r : Nat) (x : Word) : (c.setG lv r x).level = c.level := (c.setG_changes lv r x).level_eq

theorem Core.inl_setG (c : Core) (lv : Bool) (r : Nat) (x : Word) : (c.setG lv r x).inl = c.inl := by
  unfold Core.setG
  split
  · rfl
  split
  · cases lv <;> rfl
  · rfl

theorem dst_of_noPort (h : s.me.port d.toNat = none) (x : Word) : s.dst d x = s.wg d x := by rw [State.dst, h]

/-! ## Places beside a scratchpad -/

/-- No byte of a scratchpad differs. -/
def State.SameSpads (s t : State) : Prop := ∀ c o, t.spadByte c o = s.spadByte c o

theorem sameSpads_of (hm : t.mem.spad = s.mem.spad) (he : ∀ k, (t.tile k).epoch = (s.tile k).epoch) : s.SameSpads t := by
  intro c o
  unfold State.spadByte
  rw [hm, he]

theorem epoch_setTile {k : Nat} {x : Tile} (h : x.epoch = (s.tile k).epoch) (q : Nat) : ((s.setTile k x).tile q).epoch = (s.tile q).epoch := by
  rw [State.tile_setTile]
  split
  · next e => rw [← e, h]
  · rfl

theorem spad_updVault (f : SMap Byte → SMap Byte) : (s.updMem (fun m => { m with vault := f m.vault })).mem.spad = s.mem.spad := rfl

theorem spad_putRec (tl off : Nat) (r : Rec) : (s.putRec tl off r).mem.spad = s.mem.spad := by
  rw [State.putRec, notify_mem]
  exact spad_updVault fun v => writeBytes v (vaultOf tl * 2 ^ 24 + off) 32 r.bytes

theorem epoch_putRec (tl off : Nat) (r : Rec) (k : Nat) : ((s.putRec tl off r).tile k).epoch = (s.tile k).epoch := by
  obtain ⟨ms, h⟩ := tile_putRec (s := s) tl off r k
  rw [h]

/-- Posting a message writes no scratchpad, and no push. -/
theorem postHandler_frame {ck sender : Nat} {r : HRec} (h : s.postHandler ck sender r = some t) :
    s.SameSpads t ∧ t.pushes = s.pushes := by
  unfold State.postHandler at h
  dsimp only at h
  split at h
  · cases h
  split at h
  · cases h
    exact ⟨sameSpads_of rfl fun k => epoch_setTile (s := s) (by rfl) k, rfl⟩
  split at h
  · cases h
    refine ⟨sameSpads_of (spad_putRec ..) fun k => ?_, ?_⟩
    · rw [epoch_putRec]
      exact epoch_setTile (by rfl) k
    · rw [State.putRec, notify_eq]
      rfl
  · cases h

theorem postHandler_queues {ck sender : Nat} {r : HRec} (hlen : (s.core ck).handlers.length < 64)
    (hover : ∀ e ∈ (s.tile (tileOf ck)).overflow, e.core ≠ ck)
    (hturn : ¬((s.tile (tileOf ck)).lastPost.1 = s.cycle ∧ sender < (s.tile (tileOf ck)).lastPost.2)) :
    s.postHandler ck sender r = some ((s.setTile (tileOf ck) { s.tile (tileOf ck) with lastPost := (s.cycle, sender) }).setCore
      ck { s.core ck with handlers := (s.core ck).handlers ++ [r] }) := by
  have hall : (s.tile (tileOf ck)).overflow.all (fun e => e.core != ck) = true := by simpa using hover
  have hroom : (s.core ck).handlers.length < handlerCap ∧ (s.tile (tileOf ck)).overflow.all (fun e => e.core != ck) = true := ⟨hlen, hall⟩
  exact (if_neg hturn).trans (if_pos hroom)

theorem postService_frame {h : Hall} {frame : Word} {tidx : Nat} (hp : s.postService h frame tidx = .posted t) :
    s.SameSpads t ∧ t.pushes = s.pushes := by
  unfold State.postService at hp
  split at hp
  · cases hp
  split at hp
  · next hs => cases hp; exact postHandler_frame hs
  · cases hp

theorem cancelHall_frame (h : Nat) : s.SameSpads (s.cancelHall h) ∧ (s.cancelHall h).pushes = s.pushes := by
  unfold State.cancelHall
  split
  · exact ⟨fun _ _ => rfl, rfl⟩
  split
  · split <;> exact ⟨fun _ _ => rfl, rfl⟩
  · exact ⟨fun _ _ => rfl, rfl⟩

theorem pushes_locWrite (l : Loc) (n x : Nat) : (s.locWrite l n x).pushes = s.pushes := by
  rw [locWrite_eq, notify_eq]
  rfl

theorem fes_notify {l : Loc} (hl : l.isGlob = false) (n : Nat) : (s.notify l n).fes = s.fes := by
  have h : s.notify l n = s.wake l n := by
    cases l with
    | glob => cases hl
    | spad | vault | gal => rfl
  rw [h, wake_eq]

/-- A write to a core memory leaves the hall of every tile. -/
theorem hallOf_locWrite {l : Loc} (hl : l.isGlob = false) (n x k : Nat) : (s.locWrite l n x).hallOf k = s.hallOf k := by
  obtain ⟨ms, hms⟩ := tile_locWrite (s := s) l n x k
  have hfes : (s.locWrite l n x).fes = s.fes := by
    cases l with
    | glob => cases hl
    | spad c o =>
      rw [locWrite_eq]
      exact fes_notify rfl n
    | vault v o =>
      rw [locWrite_eq]
      exact fes_notify rfl n
    | gal v o =>
      rw [locWrite_eq]
      exact fes_notify rfl n
  unfold State.hallOf State.hall?
  rw [hms, hfes]

theorem myHall_locWrite {l : Loc} (hl : l.isGlob = false) (n x : Nat) : (s.locWrite l n x).myHall = s.myHall := by
  have hcur : (s.locWrite l n x).cur = s.cur := by rw [locWrite_eq, notify_eq]; rfl
  unfold State.myHall State.hallOfCore
  rw [hcur, hallOf_locWrite hl]

end Sys2Proof.Machine
end

section
/-!
SUPPORT. SPAWN, CONT and JDEC by outcome (R294 to R298).
-/

namespace Sys2Proof.Machine

open Sys2Proof

variable {s t : State} {u : Uses} {d a b : Reg}

/-! ## SPAWN -/

theorem bad_eq_none_iff {r : Rec} : r.bad = none ↔ r.code.toNat % 4 = 0 ∧ r.jctr.toNat % 64 = 0 := by
  unfold Rec.bad
  split
  · next h => exact ⟨nofun, fun h' => absurd h'.1 h⟩
  · next h => split
              · next h' => exact ⟨nofun, fun h'' => absurd h''.2 h'⟩
              · next h' => exact ⟨fun _ => ⟨not_not.mp h, not_not.mp h'⟩, fun _ => rfl⟩

theorem bad_code {r : Rec} (h : r.code.toNat % 4 ≠ 0) : r.bad = some r.code := if_pos h

theorem bad_jctr {r : Rec} (hc : r.code.toNat % 4 = 0) (h : r.jctr.toNat % 64 ≠ 0) : r.bad = some r.jctr :=
  (if_neg (not_not.mpr hc)).trans (if_pos h)

/-- The offer that a SPAWN makes of a record. -/
def State.offered (s : State) (h : Hall) (t : Nat) (w : Word) (r : Rec) (who : Nat × Bool) : State :=
  let p : Push := { id := s.ctr, tile := s.targetTile h t w r, crec := r, from? := some who }
  State.updMe { s with pushes := s.pushes ++ [p], ctr := s.ctr + 1 } (fun c =>
    let y := c.thr c.level
    c.setThr c.level { y with offer := r })

section
variable (hr : (s.me.thr s.lv).hold = .ready)
include hr

theorem spawnBody_misaligned (ha : (s.src a).toNat % 32 ≠ 0) : spawnBody u d a b s = .trap s tALIGN (s.src a) := by
  unfold spawnBody
  rw [hr]
  exact if_pos ha

variable {x : Nat} {l : Loc} (ha : (s.src a).toNat % 32 = 0) (hn : s.nowRead (s.src a) 32 0 kLoad false = .ok x l t)
include ha hn

theorem spawnBody_badRecord {v : Word} (hbad : (recOf x).bad = some v) : spawnBody u d a b s = .trap t tALIGN v := by
  unfold spawnBody
  rw [hr]
  simp only [if_neg (not_not.mpr ha), hn, Now.resWait, hbad]

variable (hbad : (recOf x).bad = none)
include hbad

theorem spawnBody_badTarget (hb : targetOk s.myHall (s.src b) true false = false) : spawnBody u d a b s = .trap t tCONE (s.src b) := by
  unfold spawnBody
  rw [hr]
  simp only [if_neg (not_not.mpr ha), hn, Now.resWait, hbad, hb, Bool.not_false, if_true]

variable (hb : targetOk s.myHall (s.src b) true false = true)
include hb

theorem spawnBody_unreleased (hu : t.unreleased = true) : spawnBody u d a b s = .wait t .issued := by
  unfold spawnBody
  rw [hr]
  simp only [if_neg (not_not.mpr ha), hn, Now.resWait, hbad, hb, hu, Bool.not_true, Bool.false_eq_true, if_false, if_true]

theorem spawnBody_offers (hu : t.unreleased = false) : spawnBody u d a b s =
    .wait (t.offered s.myHall (tileOf s.cur) (s.src b) (recOf x) (s.cur, s.lv)) (.spawn t.ctr) := by
  unfold spawnBody
  rw [hr]
  simp only [if_neg (not_not.mpr ha), hn, Now.resWait, hbad, hb, hu, Bool.not_true, Bool.false_eq_true, if_false]
  rfl

end

theorem offered_offer (h : Hall) (k : Nat) (w : Word) (r : Rec) (who : Nat × Bool) : ((s.offered h k w r who).me.thr s.lv).offer = r := by
  rw [State.offered, State.me_updMe]
  change ((s.me.setThr s.lv { s.me.thr s.lv with offer := r }).thr s.lv).offer = r
  rw [Core.thr_setThr]

/-- What the refused child finds: the registers and the frame it was given (R296). -/
theorem inlineChild_core (hlv : s.lv = false) (hport : s.me.port d.toNat = none) (r : Rec) :
    (s.inlineChild d r).me.inl = s.me.inl + 1 ∧ (s.inlineChild d r).lv = false ∧
      ((s.inlineChild d r).me.thr false).ltask = word (fld r.tidx 0 32) ∧ ((s.inlineChild d r).me.thr false).jctr = r.jctr ∧
      ∀ k, (s.inlineChild d r).me.g false k =
        (((s.me.setG false 2 (s.me.g false 2 + 32)).setG false d.toNat 1).setG false 3 r.frame).g false k := by
  have hlevel : s.me.level = false := hlv
  let c1 : Core := { s.me.setG false 2 (s.me.g false 2 + 32) with inl := s.me.inl + 1 }
  have h1 : (s.updMe (fun c => { c.setG c.level 2 (c.g c.level 2 + 32) with inl := c.inl + 1 })).me = c1 := by
    rw [State.me_updMe, hlevel]
  have hl1 : c1.level = false := (s.me.level_setG ..).trans hlevel
  have hp1 : c1.port d.toNat = none := (s.me.port_setG ..).trans hport
  have h2 : (s.inlineChild d r).me = ((c1.setG false d.toNat 1).setG false 3 r.frame).setThr false
      { ((c1.setG false d.toNat 1).setG false 3 r.frame).thr false with ltask := word (fld r.tidx 0 32), jctr := r.jctr } := by
    unfold State.inlineChild
    dsimp only
    rw [dst_of_noPort (by rw [h1]; exact hp1), State.me_updMe, State.wg, State.me_updMe, h1, hl1, Core.level_setG, hl1, Core.level_setG,
      Core.level_setG, hl1]
  have hc : ((c1.setG false d.toNat 1).setG false 3 r.frame).inl = s.me.inl + 1 := by
    rw [Core.inl_setG, Core.inl_setG]
  refine ⟨?_, ?_, ?_, ?_, fun k => ?_⟩
  · rw [h2]; exact hc
  · rw [State.lv, h2]
    exact (Core.level_setG ..).trans ((Core.level_setG ..).trans hl1)
  · rw [h2]; rfl
  · rw [h2]; rfl
  · rw [h2]
    have hg (c c' : Core) (hlo : c.lv0.g = c'.lv0.g) (hhi : c.gHi = c'.gHi) : c.g false k = c'.g false k := by
      unfold Core.g Core.thr
      simp only [Bool.false_eq_true, if_false, hlo, hhi]
    refine (hg _ ((c1.setG false d.toNat 1).setG false 3 r.frame) rfl rfl).trans ?_
    rw [Core.g_setG, Core.g_setG, Core.g_setG, Core.g_setG]
    rfl

theorem inlineChild_mem (r : Rec) (hport : s.me.port d.toNat = none) : (s.inlineChild d r).mem = s.mem := by
  have hp : (s.updMe (fun c => { c.setG c.level 2 (c.g c.level 2 + 32) with inl := c.inl + 1 })).me.port d.toNat = none := by
    rw [State.me_updMe]
    exact (s.me.port_setG ..).trans hport
  unfold State.inlineChild
  dsimp only
  rw [dst_of_noPort hp]
  rfl

theorem frameElems_child {gu : Guard} (hlv : s.lv = false) : s.frameElems (spawnUses gu d a b s) =
    [({ idx := 0, addr := s.me.g false 2 }, (s.pc + 12).toNat), ({ idx := 1, addr := s.me.g false 2 + 8 }, (s.me.g false 3).toNat),
     ({ idx := 2, addr := s.me.g false 2 + 16 }, (s.me.thr false).jctr.toNat),
     ({ idx := 3, addr := s.me.g false 2 + 24 }, (s.me.thr false).ltask.toNat)] := by
  have hpc : s.nextPc (spawnUses gu d a b s) = s.pc + 12 := rfl
  unfold State.frameElems
  rw [hlv, hpc]

/-! ## A SPAWN that has been answered -/

section
variable {gu : Guard} (hn : s.me.namesPort (spawnUses gu d a b s) = false)
include hn

theorem exec_spawn_again (hr : (s.me.thr s.lv).hold ≠ .ready) (hs : (s.me.thr s.lv).hold ≠ .stalled) :
    exec (.spawn gu d a b) s = .next (s.settle (spawnUses gu d a b s) true (spawnBody (spawnUses gu d a b s) d a b s)) :=
  runs_again hn hr hs _

theorem exec_spawn_queued (h : (s.me.thr s.lv).hold = .answered true) :
    exec (.spawn gu d a b) s = .next ((s.wg d 0).updMe (fun c => c.resume s.lv (s.pc + 12))) := by
  have hbody : spawnBody (spawnUses gu d a b s) d a b s = .done (s.wg d 0) := by
    rw [← dst_of_noPort (port_none_of_noPort hn (List.mem_append_right _ (.head _)))]
    unfold spawnBody
    rw [h]
  rw [exec_spawn_again hn (by rw [h]; exact nofun) (by rw [h]; exact nofun), hbody, settle_again_done hn]
  rfl

variable (h : (s.me.thr s.lv).hold = .answered false)
include h

theorem exec_spawn_full (hlv : s.lv = true) :
    exec (.spawn gu d a b) s = .next ((s.wg d 2).updMe (fun c => c.resume s.lv (s.pc + 12))) := by
  have hbody : spawnBody (spawnUses gu d a b s) d a b s = .done (s.wg d 2) := by
    rw [← dst_of_noPort (port_none_of_noPort hn (List.mem_append_right _ (.head _)))]
    unfold spawnBody
    rw [h]
    exact if_pos hlv
  rw [exec_spawn_again hn (by rw [h]; exact nofun) (by rw [h]; exact nofun), hbody, settle_again_done hn]
  rfl

variable (hlv : s.lv = false)
include hlv

theorem exec_spawn_window {pc : Word} (hl : (s.me.thr s.lv).late = some pc) : exec (.spawn gu d a b) s = .next (s.trap tWINDOW pc) := by
  have hbody : spawnBody (spawnUses gu d a b s) d a b s = .trap s tWINDOW pc := by
    unfold spawnBody
    rw [h]
    simp only [hlv, Bool.false_eq_true, if_false]
    rw [hlv] at hl
    rw [hl]
  rw [exec_spawn_again hn (by rw [h]; exact nofun) (by rw [h]; exact nofun), hbody]
  rfl

theorem exec_spawn_child (hl : (s.me.thr s.lv).late = none)
    (ht : s.storeElems .df false sysWrite (s.frameElems (spawnUses gu d a b s)) = .done t) :
    exec (.spawn gu d a b) s =
      .next ((t.inlineChild d (s.me.thr s.lv).offer).updMe (fun c => c.resume s.lv (s.me.thr s.lv).offer.code)) := by
  have hbody : spawnBody (spawnUses gu d a b s) d a b s = .jump (t.inlineChild d (s.me.thr s.lv).offer) (s.me.thr s.lv).offer.code := by
    unfold spawnBody
    rw [h, if_neg (Bool.eq_false_iff.mp hlv), hl, ht]
  rw [exec_spawn_again hn (by rw [h]; exact nofun) (by rw [h]; exact nofun), hbody, settle_again_jump hn]

end

/-! ## The step on a join block (R298) -/

section
variable {k o : Nat} {w x : Nat} {add : Option Nat} {addr : Word}

/-- The count that a step leaves. -/
def joinCount (w : Nat) (add : Option Nat) : Nat :=
  match add with
  | some n => (w + n) % 2 ^ 32
  | none => (w + 2 ^ 32 - 1) % 2 ^ 32

/-- The block is armed once CONT has armed it, or was before JDEC. -/
abbrev JoinArmed (w : Nat) (add : Option Nat) : Prop := add.isSome ∨ w / 2 ^ 32 % 2 = 1

/-- The block fires. -/
abbrev JoinFires (w : Nat) (add : Option Nat) : Prop := JoinArmed w add ∧ joinCount w add = 0

/-- The word that a step leaves. -/
def joinWord (w : Nat) (add : Option Nat) : Nat :=
  w / 2 ^ 33 * 2 ^ 33 + (if JoinArmed w add ∧ joinCount w add ≠ 0 then 2 ^ 32 else 0) + joinCount w add

theorem joinWord_eq (w : Nat) (add : Option Nat) : joinWord w add = w / 2 ^ 33 * 2 ^ 33 +
    (if JoinFires w add then 0 else if JoinArmed w add then 1 else 0) * 2 ^ 32 + joinCount w add := by
  unfold joinWord
  by_cases ha : JoinArmed w add <;> by_cases hz : joinCount w add = 0 <;> simp [JoinFires, ha, hz]

theorem joinStep_busy {n : Nat} {l : Loc} (h : x % 2 ^ 64 / 2 ^ 32 % 2 = 1) : s.joinStep addr l x (some n) = (2, s) := if_pos ⟨rfl, h⟩

section
variable (h : ¬(add.isSome ∧ x % 2 ^ 64 / 2 ^ 32 % 2 = 1))
include h

theorem joinStep_eq : s.joinStep addr (.spad k o) x add =
    (word (joinCount (x % 2 ^ 64) add * 2 ^ 32 + bit (decide (JoinFires (x % 2 ^ 64) add))),
      if JoinFires (x % 2 ^ 64) add
      then (s.locWrite (.spad k o) 8 (joinWord (x % 2 ^ 64) add)).joinFire addr (word (x / 2 ^ 64)) (recOf (x / 2 ^ 256))
      else s.locWrite (.spad k o) 8 (joinWord (x % 2 ^ 64) add)) := by
  rw [joinWord_eq]
  exact if_neg h

theorem joinStep_counts (hf : ¬JoinFires (x % 2 ^ 64) add) : s.joinStep addr (.spad k o) x add =
    (word (joinCount (x % 2 ^ 64) add * 2 ^ 32 + 0), s.locWrite (.spad k o) 8 (joinWord (x % 2 ^ 64) add)) := by
  rw [joinStep_eq h, if_neg hf, decide_eq_false hf]
  rfl

theorem joinStep_fires (hf : JoinFires (x % 2 ^ 64) add) : s.joinStep addr (.spad k o) x add =
    (word (joinCount (x % 2 ^ 64) add * 2 ^ 32 + 1),
      (s.locWrite (.spad k o) 8 (joinWord (x % 2 ^ 64) add)).joinFire addr (word (x / 2 ^ 64)) (recOf (x / 2 ^ 256))) := by
  rw [joinStep_eq h, if_pos hf, decide_eq_true hf]
  rfl

end

theorem joinWord_of_fires {w : Nat} (hf : JoinFires w add) : joinWord w add = w / 2 ^ 33 * 2 ^ 33 := by
  obtain ⟨-, hz⟩ := hf
  unfold joinWord
  rw [hz, if_neg fun h => h.2 rfl, Nat.add_zero]

theorem joinCount_lt (w : Nat) (add : Option Nat) : joinCount w add < 2 ^ 32 := by
  cases add <;> exact Nat.mod_lt _ (by norm_num)

theorem joinWord_lt {w : Nat} (hw : w < 2 ^ 64) (add : Option Nat) : joinWord w add < 2 ^ 64 := by
  have hc := joinCount_lt w add
  unfold joinWord
  split <;> omega

/-! ## What firing does -/

variable {r : Rec} {target : Word}

theorem joinFire_pushes (hr : r.bad = none) (ht : targetOk s.myHall target true false = true) : s.joinFire addr target r =
    { s with pushes := s.pushes ++ [{ id := s.ctr, tile := s.targetTile s.myHall (tileOf s.cur) target r, crec := r, forced := true }],
             ctr := s.ctr + 1 } := by
  refine if_neg ?_
  rw [hr, ht]
  exact Bool.false_ne_true

theorem joinFire_unsound (h : r.bad ≠ none ∨ targetOk s.myHall target true false = false) : s.joinFire addr target r = s.badJoin addr := by
  refine if_pos ?_
  rw [Bool.or_eq_true, Bool.not_eq_true', Option.isSome_iff_ne_none]
  exact h

theorem badJoin_frame : s.SameSpads (s.badJoin addr) ∧ (s.badJoin addr).pushes = s.pushes := by
  unfold State.badJoin
  dsimp only
  split
  · next h => exact postService_frame h
  · exact cancelHall_frame _
  · exact ⟨sameSpads_of rfl fun q => epoch_setTile (s := s) (by rfl) q, rfl⟩

theorem joinFire_sameSpads : s.SameSpads (s.joinFire addr target r) := by
  unfold State.joinFire
  dsimp only
  split
  · exact badJoin_frame.1
  · exact fun _ _ => rfl

theorem badJoin_cancels (h : s.myHall.stallh = 0) : s.badJoin addr = s.cancelHall s.myHall.id := by
  unfold State.badJoin State.postService
  simp only [h, if_true]

/-- The TIDX of a BADJOIN message. -/
theorem msgTidx_badJoin (h : Hall) (unit tile core : Nat) : msgTidx h msgBadjoin 0 unit tile core 0 0 =
    3 * 2 ^ 28 + unit * 2 ^ 23 + h.y tile * 2 ^ 20 + h.x tile * 2 ^ 16 + core * 2 ^ 10 := by
  unfold msgTidx msgBadjoin
  omega

theorem badJoin_posts {tidx : Nat} (htidx : tidx = msgTidx s.myHall msgBadjoin 0 (bit s.lv) (tileOf s.cur) (coreIdx s.cur) 0 0)
    (h : s.myHall.stallh ≠ 0) (hlen : (s.core s.myHall.service).handlers.length < 64)
    (hover : ∀ e ∈ (s.tile (tileOf s.myHall.service)).overflow, e.core ≠ s.myHall.service)
    (hturn : (s.tile (tileOf s.myHall.service)).lastPost.1 ≠ s.cycle) :
    s.badJoin addr = (s.setTile (tileOf s.myHall.service) { s.tile (tileOf s.myHall.service) with
        lastPost := (s.cycle, s.myHall.senderOf tidx) }).setCore s.myHall.service
      { s.core s.myHall.service with handlers := (s.core s.myHall.service).handlers ++
        [{ crec := { code := s.myHall.stallh, frame := addr, jctr := 0, tidx := word tidx }, svc := true }] } := by
  unfold State.badJoin State.postService
  dsimp only
  rw [← htidx, if_neg h]
  rw [postHandler_queues hlen hover fun h' => hturn h'.1]

/-! ## CONT and JDEC -/

section
variable {la : BitVec 4} {i : Instr}

/-- The scratchpad word that the core reaches at once is read (R247). -/
theorem nowRead_ownSpad {v : Word} {n kind : Nat} {acc : Acc} (hp : v.toNat / 2 ^ 48 = 0xFF00) (hfit : v.toNat % 2 ^ 48 + n ≤ 98304)
    (hn : 0 < n) (hbar : s.overBarrier (.spad s.cur (v.toNat % 2 ^ 48)) n = false)
    (hpend : s.pendingAt (.spad s.cur (v.toNat % 2 ^ 48)) = false) (hack : s.unacked (.spad s.cur (v.toNat % 2 ^ 48)) n = false)
    (hover : s.overScore (.spad s.cur (v.toNat % 2 ^ 48)) n = false) (hturn : s.outOfTurn s.cur (.spad s.cur (v.toNat % 2 ^ 48)) n = false) :
    s.nowRead v n acc kind true = .ok (s.locRead (.spad s.cur (v.toNat % 2 ^ 48)) n) (.spad s.cur (v.toNat % 2 ^ 48))
      (s.noteReach s.cur (.spad s.cur (v.toNat % 2 ^ 48)) n) := by
  have hplace : s.place acc false v = (.loc (.spad s.cur (v.toNat % 2 ^ 48)), s) :=
    place_loc (steer_ownSpad (by omega) (by omega))
  have hway : s.wayBetween (tileOf s.cur) (tileOf s.cur) = .clear := by
    unfold State.wayBetween State.wayToTile State.way
    rw [if_pos rfl]
    rfl
  have hgo : (s.pendingAt (.spad s.cur (v.toNat % 2 ^ 48)) || s.unacked (.spad s.cur (v.toNat % 2 ^ 48)) n ||
      s.scoreWaits (.spad s.cur (v.toNat % 2 ^ 48)) n || (Loc.isGlob (.spad s.cur (v.toNat % 2 ^ 48)) && s.nmHolds s.cur s.ctr)) = false := by
    rw [hpend, hack, State.scoreWaits, hover, hturn]
    rfl
  unfold State.nowRead
  rw [hplace]
  simp only [hbar, Bool.and_false, Bool.false_eq_true, if_false]
  unfold State.nowAt
  rw [hgo]
  simp only [Loc.tile, hway, Bool.false_eq_true, if_false]

theorem blockTrap_misaligned {v : Word} (h : v.toNat % 64 ≠ 0) : blockTrap v = some tALIGN := if_pos h

theorem blockTrap_sound {v : Word} (ha : v.toNat % 64 = 0)
    (h : v.toNat / 2 ^ 48 ≤ 0xF ∨ v.toNat / 2 ^ 48 = 0xFF00 ∨ v.toNat / 2 ^ 48 = 0xFF02) : blockTrap v = none :=
  (if_neg (not_not.mpr ha)).trans (if_pos h)

theorem blockTrap_outside {v : Word} (ha : v.toNat % 64 = 0)
    (h : ¬(v.toNat / 2 ^ 48 ≤ 0xF ∨ v.toNat / 2 ^ 48 = 0xFF00 ∨ v.toNat / 2 ^ 48 = 0xFF02)) : blockTrap v = some tAPERTURE :=
  (if_neg (not_not.mpr ha)).trans (if_neg h)

/-- An instruction that waits before it issues, and does not block, is tried again with nothing changed. -/
theorem runs_stays {s : State} {u : Uses} (h : IssuesPlain s u) (hu : u.blocking = false) {body : State → Res} (hb : body s = .stall) :
    s.runs u body = .next s := by
  rw [State.runs, issueWith_of_issues h.toIssues, hb]
  simp [State.settle, hu, h.noPort]

variable {body : State → Res} (hx : exec i s = s.runs u body) (hb : body s = joinBody d a la add s) (hp : IssuesPlain s u)
  (ha : s.src a = s.rg a)
include hx hb hp ha

theorem join_traps {c : Nat} (h : blockTrap (s.rg a) = some c) : exec i s = .next (s.trap c (s.rg a)) := by
  rw [hx]
  refine runs_trap hp.toIssues (hb.trans ?_)
  unfold joinBody
  rw [ha]
  dsimp only
  rw [h]

theorem join_waits (hu : u.blocking = false) (h : blockTrap (s.rg a) = none) (hr : s.unreleased = true) : exec i s = .next s := by
  rw [hx]
  refine runs_stays hp hu (hb.trans ?_)
  unfold joinBody
  rw [ha]
  dsimp only
  rw [h]
  exact if_pos hr

theorem join_steps {l : Loc} (h : blockTrap (s.rg a) = none) (hr : s.unreleased = false)
    (hn : s.nowRead (s.rg a) 64 3 kAtomic true = .ok x l t) :
    Performs s i u ((t.joinStep (s.rg a) l x add).2.answer d la (t.joinStep (s.rg a) l x add).1) := by
  rw [Performs, hx]
  refine runs_done hp (hb.trans ?_)
  unfold joinBody
  rw [ha]
  dsimp only
  rw [h]
  refine (if_neg (Bool.eq_false_iff.mp hr)).trans ?_
  rw [hn]
  rfl

end

end

end Sys2Proof.Machine
end

section
/-!
PROOFS. SPAWN, CONT and JDEC (O36).
-/

namespace Sys2Proof

open Sys2Proof.Machine

/-- Settles O36: SPAWN by outcome of `spawnBody`, the refused child by `inlineChild_core`, and the step on a join block by
`joinStep_counts` and `joinStep_fires`. -/
theorem spawningAndJoining : Obligations.SpawningAndJoining := by
  unfold Obligations.SpawningAndJoining
  refine ⟨fun s gu d a b => ?_, fun s addr k o x add ho hx => ?_, fun s gu la d a b => ?_, fun s gu la d a b => ?_⟩
  · intro u i
    refine ⟨fun hp => ?_, fun hn => ?_⟩
    · have ea : s.src a = s.rg a := src_of_plain hp (.head _)
      have eb : s.src b = s.rg b := src_of_plain hp (.tail _ (.head _))
      refine ⟨fun h => ?_, fun ha x l t hread => ?_⟩
      · rw [← ea] at h ⊢
        exact runs_trap hp.toIssues (spawnBody_misaligned hp.ready h)
      · intro r
        rw [← ea] at ha hread
        refine ⟨fun h => ?_, fun h h' => ?_, fun h h' => ?_⟩
        · exact runs_trapIn hp.toIssues (spawnBody_badRecord hp.ready ha hread (bad_code h))
        · exact runs_trapIn hp.toIssues (spawnBody_badRecord hp.ready ha hread (bad_jctr h h'))
        · have hbad := bad_eq_none_iff.mpr ⟨h, h'⟩
          rw [← eb]
          refine ⟨fun hb => ?_, fun hb hu => ?_, fun hb hu => ?_⟩
          · exact runs_trapIn hp.toIssues (spawnBody_badTarget hp.ready ha hread hbad hb)
          · exact runs_wait hp (spawnBody_unreleased hp.ready ha hread hbad hb hu)
          · exact ⟨_, runs_wait hp (spawnBody_offers hp.ready ha hread hbad hb hu), offered_offer .., rfl, rfl⟩
    · refine ⟨exec_spawn_queued hn, exec_spawn_full hn, fun pc h hlv hl => exec_spawn_window hn h hlv hl, fun h hlv hl => ?_⟩
      intro g2 r t ht htlv hport
      have hframe : s.storeElems .df false sysWrite (s.frameElems (spawnUses gu d a b s)) = .done t := by
        rw [frameElems_child hlv]
        exact ht
      have hr : (s.me.thr s.lv).offer = r := by rw [hlv]
      have hexec := exec_spawn_child hn h hlv hl hframe
      rw [hr] at hexec
      obtain ⟨hinl, hlv', hltask, hjctr, hg⟩ := inlineChild_core htlv hport r
      refine ⟨_, hexec, hinl, ?_, fun hd => ?_, fun hd0 hd3 => ?_, ?_, hjctr, fun k h2 h3 hd => ?_, inlineChild_mem r hport⟩
      · rw [hg, Core.g_setG, if_pos rfl]
        rfl
      · have hd2 : (2 : Nat) ≠ d.toNat := fun h => hd (BitVec.eq_of_toNat_eq h.symm)
        rw [hg, Core.g_setG_other _ _ _ _ (by decide), Core.g_setG_other _ _ _ _ hd2, Core.g_setG, if_pos rfl]
        rfl
      · have hd0 : d.toNat ≠ 0 := fun h => hd0 (BitVec.eq_of_toNat_eq h)
        have hd3 : d.toNat ≠ 3 := fun h => hd3 (BitVec.eq_of_toNat_eq h)
        rw [State.rg, hlv', hg, Core.g_setG_other _ _ _ _ hd3, Core.g_setG, if_pos rfl, if_neg hd0]
      · rw [hltask, fld, Nat.pow_zero, Nat.div_one]
      · rw [hg, Core.g_setG_other _ _ _ _ h3, Core.g_setG_other _ _ _ _ hd, Core.g_setG_other _ _ _ _ h2]
  · intro w armed st t
    refine ⟨?_, fun hc => ?_⟩
    · rintro n rfl harmed
      have h : s.joinStep addr (.spad k o) x (some n) = (2, s) := joinStep_busy harmed
      exact ⟨congrArg Prod.fst h, congrArg Prod.snd h⟩
    · intro count isArmed r target
      have hcount : count = joinCount w add := by
        cases add with
        | some n => rfl
        | none => exact congrArg (· % 2 ^ 32) (Nat.add_sub_assoc (by norm_num) w).symm
      have harmed : isArmed ↔ JoinArmed w add := by
        cases add <;> simp [isArmed, armed, JoinArmed]
      have hfires : isArmed ∧ count = 0 ↔ JoinFires w add := by rw [harmed, hcount]
      have hbusy : ¬(add.isSome ∧ x % 2 ^ 64 / 2 ^ 32 % 2 = 1) := by
        rcases hc with rfl | hc
        · exact fun h => absurd h.1 (by decide)
        · exact fun h => hc h.2
      have hw : w < 2 ^ 64 := Nat.mod_lt _ (by norm_num)
      have hword : joinWord w add = w / 2 ^ 33 * 2 ^ 33 + (if isArmed ∧ count ≠ 0 then 2 ^ 32 else 0) + count := by
        rw [joinWord, hcount]
        congr 2
        exact if_congr (and_congr_left' harmed.symm) rfl rfl
      have hread (v : Nat) (hv : v < 2 ^ 64) : (s.locWrite (.spad k o) 8 v).spadRead k o 8 = v :=
        (spadRead_locWrite ..).trans (Nat.mod_eq_of_lt hv)
      have hhall (v : Nat) : (s.locWrite (.spad k o) 8 v).myHall = s.myHall := myHall_locWrite rfl 8 v
      by_cases hf : JoinFires w add
      · have hstep : s.joinStep addr (.spad k o) x add = (word (joinCount w add * 2 ^ 32 + 1),
            (s.locWrite (.spad k o) 8 (joinWord w add)).joinFire addr target r) := joinStep_fires hbusy hf
        have hst : st = word (joinCount w add * 2 ^ 32 + 1) := congrArg Prod.fst hstep
        have ht : t = (s.locWrite (.spad k o) 8 (joinWord w add)).joinFire addr target r := congrArg Prod.snd hstep
        refine ⟨?_, ?_, fun h => absurd (hfires.mpr hf) h, fun _ _ hr htg => ?_, fun _ _ hun => ?_⟩
        · rw [hst, if_pos (hfires.mpr hf), hcount]
        · rw [ht, spadRead_congr (fun o => joinFire_sameSpads k o), hread _ (joinWord_lt hw add), hword]
        · rw [← hhall (joinWord w add)] at htg
          rw [ht, joinFire_pushes hr htg]
          refine ⟨_, congrArg (· ++ _) (pushes_locWrite ..), rfl, rfl, rfl, fun hbit => ?_⟩
          rw [State.targetTile, if_neg (Bool.eq_false_iff.mp hbit), hhall]
        · rw [← hhall (joinWord w add)] at hun
          rw [joinFire_unsound hun, joinWord_of_fires hf] at ht
          intro w' h tidx tile
          refine ⟨?_, fun hz => ?_, fun hz hlen hover hturn => ?_⟩
          · rw [ht]
            exact badJoin_frame.2.trans (pushes_locWrite ..)
          · rw [ht]
            exact badJoin_cancels hz
          · rw [ht]
            exact badJoin_posts (msgTidx_badJoin ..).symm hz hlen hover hturn
      · have hstep : s.joinStep addr (.spad k o) x add = (word (joinCount w add * 2 ^ 32 + 0),
            s.locWrite (.spad k o) 8 (joinWord w add)) := joinStep_counts hbusy hf
        have hst : st = word (joinCount w add * 2 ^ 32 + 0) := congrArg Prod.fst hstep
        have ht : t = s.locWrite (.spad k o) 8 (joinWord w add) := congrArg Prod.snd hstep
        have hno : ¬(isArmed ∧ count = 0) := mt hfires.mp hf
        refine ⟨?_, ?_, fun _ => ?_, fun ha hz => absurd ⟨ha, hz⟩ hno, fun ha hz => absurd ⟨ha, hz⟩ hno⟩
        · rw [hst, if_neg hno, hcount]
        · rw [ht, hread _ (joinWord_lt hw add), hword]
        · rw [ht]
          exact pushes_locWrite ..
  · intro u hp h
    have eb : s.src b = s.rg b := src_of_plain hp (.tail _ (.head _))
    refine runs_trap hp.toIssues (if_pos ?_)
    rw [eb]
    exact h
  · intro cont jdec uc uj v n p sound stops own at_ free
    have hsound (hfree : free) : sound := .inr (.inl hfree.1)
    have hread (hfree : free) : s.nowRead v 64 3 kAtomic true = .ok (s.locRead own 64) own at_ := by
      obtain ⟨hp, hfit, hbar, hpend, hack, hover, hturn⟩ := hfree
      exact nowRead_ownSpad hp hfit (by norm_num) hbar hpend hack hover hturn
    have hboth {i : Instr} {u : Uses} {add : Option Nat} {body : State → Res} (hx : exec i s = s.runs u body)
        (hb : body s = joinBody d a la add s) (hp : IssuesPlain s u) (ha : s.src a = s.rg a) (hu : u.blocking = false) : stops i ∧
        (v.toNat % 64 = 0 → sound → s.unreleased = false → ∀ x l t, s.nowRead v 64 3 kAtomic true = .ok x l t →
          Performs s i u ((t.joinStep v l x add).2.answer d la (t.joinStep v l x add).1)) ∧
        (v.toNat % 64 = 0 → s.unreleased = false → free →
          Performs s i u ((at_.joinStep v own (s.locRead own 64) add).2.answer d la (at_.joinStep v own (s.locRead own 64) add).1)) :=
      ⟨⟨fun h => join_traps hx hb hp ha (blockTrap_misaligned h), fun h h' => join_traps hx hb hp ha (blockTrap_outside h h'),
        fun h h' hr => join_waits hx hb hp ha hu (blockTrap_sound h h') hr⟩,
        fun h h' hr x l t hread => join_steps hx hb hp ha (blockTrap_sound h h') hr hread,
        fun h hr hfree => join_steps hx hb hp ha (blockTrap_sound h (hsound hfree)) hr (hread hfree)⟩
    refine ⟨fun hp hfit => ?_, fun hp => ?_⟩
    · have ha : s.src a = s.rg a := src_of_plain hp (.head _)
      have eb : s.src b = s.rg b := src_of_plain hp (.tail _ (.head _))
      refine hboth rfl ?_ hp ha rfl
      rw [eb]
      exact if_neg (not_not.mpr hfit)
    · exact hboth rfl rfl hp (src_of_plain hp (.head _)) rfl

end Sys2Proof
end

section
/-!
SUPPORT. SEND, JOIN, LEAVE and TEND by outcome (R299, R301, R305).
-/

namespace Sys2Proof.Machine

open Sys2Proof

variable {s t : State} {u : Uses} {d a b : Reg} {la : BitVec 4}

/-! ## SEND -/

/-- What a SEND of a sound record to a place in the hall leaves (R299). -/
def State.sendTo (s : State) (hl : Hall) (src : Nat) (la : BitVec 4) (d : Reg) (w : Word) (h : Bool) (r : Rec) (who : Nat × Bool)
    (sender : Nat) : State :=
  let tile := hl.tileAt (fld w 8 4) (fld w 16 3)
  let v : VRec := { crec := r, core := tile * 64 + fld w 0 6, h := h, due := (s.tile src).s + manhattan src tile + 1, sender := sender }
  let k : Park := { id := s.ctr + 1, tile := tile, v := v, core := who.1, lv := who.2, pend := s.ctr, step := (s.tile src).s }
  let e := s.enterPend (s.newPend (greg s.lv d.toNat) la.toNat 1 .send 0)
  State.updTile { e with parks := e.parks ++ [k], ctr := e.ctr + 1 } src (fun x => { x with unparked := x.unparked + 1 })

/-- The body of SEND. -/
def sendBody (la : BitVec 4) (h : Bool) (d a b : Reg) (s : State) : Res :=
  s.readRec (s.src a) (fun r t =>
    if !targetOk s.myHall (s.src b) false true then .trap t tCONE (s.src b)
    else if t.unreleased then .stall
    else .done (t.sendTo s.myHall (tileOf s.cur) la d (s.src b) h r (s.cur, s.lv) (s.myHall.sender s.cur)))

theorem exec_send (gu : Guard) (h : Bool) : exec (.send gu la h d a b) s =
    s.runs { len := 12, on := s.guard gu, rs := [a.toNat, b.toNat], ws := [d.toNat], long := true } (sendBody la h d a b) := rfl

section
variable {x : Nat} {l : Loc} {h : Bool} (ha : (s.src a).toNat % 32 = 0) (hn : s.nowRead (s.src a) 32 0 kLoad false = .ok x l t)
  (hbad : (recOf x).bad = none)
include ha hn hbad

theorem sendBody_badTarget (hb : targetOk s.myHall (s.src b) false true = false) : sendBody la h d a b s = .trap t tCONE (s.src b) := by
  rw [sendBody, readRec_ok _ ha hn hbad, hb]
  rfl

variable (hb : targetOk s.myHall (s.src b) false true = true)
include hb

theorem sendBody_stalls (hu : t.unreleased = true) : sendBody la h d a b s = .stall := by
  rw [sendBody, readRec_ok _ ha hn hbad, hb]
  exact if_pos hu

theorem sendBody_sends (hu : t.unreleased = false) : sendBody la h d a b s =
    .done (t.sendTo s.myHall (tileOf s.cur) la d (s.src b) h (recOf x) (s.cur, s.lv) (s.myHall.sender s.cur)) := by
  rw [sendBody, readRec_ok _ ha hn hbad, hb]
  exact if_neg (Bool.eq_false_iff.mp hu)

end

theorem sendTo_pend (hl : Hall) (src : Nat) (w : Word) (h : Bool) (r : Rec) (who : Nat × Bool) (sender : Nat) :
    (s.sendTo hl src la d w h r who sender).me.pend = s.me.pend ++ [s.newPend (greg s.lv d.toNat) la.toNat 1 .send 0] := by
  change (s.enterPend _).me.pend = _
  rw [me_enterPend]
  rfl

/-! ## JOIN and LEAVE -/

theorem setFld_bit_one (x : Word) {i : Nat} (hi : i < 64) : setFld x i 1 1 = x ||| ((1 : Word) <<< i) := by
  refine BitVec.eq_of_getLsbD_eq fun j hj => ?_
  have h := bitAt_setFld x 1 (show i + 1 ≤ 64 from hi) j
  rw [bitAt, bitAt] at h
  rw [h, BitVec.getLsbD_or, BitVec.getLsbD_shiftLeft]
  by_cases hij : i = j
  · subst hij
    simp [hj]
  · have h1 : ¬(i ≤ j ∧ j < i + 1) := by omega
    have h2 : (1 : Word).getLsbD (j - i) = true → j < i := by
      intro h
      have : j - i = 0 := by simpa using h
      omega
    rw [if_neg h1]
    cases hb : (1 : Word).getLsbD (j - i) <;> simp_all

theorem setFld_bit_zero (x : Word) {i : Nat} (hi : i < 64) : setFld x i 1 0 = x &&& ~~~((1 : Word) <<< i) := by
  refine BitVec.eq_of_getLsbD_eq fun j hj => ?_
  have h := bitAt_setFld x 0 (show i + 1 ≤ 64 from hi) j
  rw [bitAt, bitAt] at h
  rw [h, BitVec.getLsbD_and, BitVec.getLsbD_not, BitVec.getLsbD_shiftLeft]
  by_cases hij : i = j
  · subst hij
    simp [hj]
  · have h1 : ¬(i ≤ j ∧ j < i + 1) := by omega
    have h2 : (1 : Word).getLsbD (j - i) = true → j < i := by
      intro h
      have : j - i = 0 := by simpa using h
      omega
    rw [if_neg h1]
    cases hb : (1 : Word).getLsbD (j - i) <;> simp_all

theorem coreIdx_lt (ck : Nat) : coreIdx ck < 64 := Nat.mod_lt _ (by norm_num)

/-- What JOIN or LEAVE writes for a word: the core's bit set or cleared. -/
def State.grouped (s : State) (set : Bool) (w : Word) : Word := setFld w (coreIdx s.cur) 1 (bit set)

theorem grouped_set (w : Word) : s.grouped true w = w ||| ((1 : Word) <<< coreIdx s.cur) := setFld_bit_one w (coreIdx_lt _)

theorem grouped_clear (w : Word) : s.grouped false w = w &&& ~~~((1 : Word) <<< coreIdx s.cur) := setFld_bit_zero w (coreIdx_lt _)

/-- The shares of a tile whose group a core joins: one that comes new has given none. -/
def State.joinedShares (s : State) : Word :=
  let t := s.tile (tileOf s.cur)
  if !bitAt t.group (coreIdx s.cur) then setFld t.shares (coreIdx s.cur) 1 0 else t.shares

theorem joinedShares_other {k : Nat} (hk : k ≠ coreIdx s.cur) : bitAt s.joinedShares k = bitAt (s.tile (tileOf s.cur)).shares k := by
  have hlt := coreIdx_lt s.cur
  unfold State.joinedShares
  dsimp only
  split
  · rw [bitAt_setFld _ _ (by omega), if_neg (by omega)]
  · rfl

theorem joinedShares_own : bitAt s.joinedShares (coreIdx s.cur) =
    (bitAt (s.tile (tileOf s.cur)).shares (coreIdx s.cur) && bitAt (s.tile (tileOf s.cur)).group (coreIdx s.cur)) := by
  have hlt := coreIdx_lt s.cur
  unfold State.joinedShares
  dsimp only
  cases hg : bitAt (s.tile (tileOf s.cur)).group (coreIdx s.cur)
  · rw [Bool.not_false, if_pos rfl, bitAt_setFld _ _ (by omega), if_pos (by omega), Nat.zero_testBit, Bool.and_false]
  · rw [Bool.and_true]
    rfl

theorem groupBody_join_step (h : a = 0) : groupBody d a la true s = .done ((s.setTile (tileOf s.cur) { s.tile (tileOf s.cur) with
    group := s.grouped true (s.tile (tileOf s.cur)).group, shares := s.joinedShares }).answer d la (s.tile (tileOf s.cur)).group) := if_pos h

theorem groupBody_leave_step (h : a = 0) : groupBody d a la false s = .done ((s.setTile (tileOf s.cur) { s.tile (tileOf s.cur) with
    group := s.grouped false (s.tile (tileOf s.cur)).group }).answer d la (s.tile (tileOf s.cur)).group) := if_pos h

section
variable {set : Bool} (h0 : a ≠ 0)
include h0

theorem groupBody_badPlace {code : Nat} {v : Word} (hw : s.wordPlace (s.src a) = .inr (code, v)) :
    groupBody d a la set s = .trap s code v := by
  refine (if_neg h0).trans ?_
  rw [hw]

variable {k o : Nat} (hw : s.wordPlace (s.src a) = .inl (k, o))
include hw

theorem groupBody_clobbers (hb : s.overBarrier (.spad k o) 8 = true) : groupBody d a la set s = .trap s tCLOBBER (s.src a) := by
  refine (if_neg h0).trans ?_
  rw [hw]
  exact if_pos hb

theorem groupBody_word (hb : s.overBarrier (.spad k o) 8 = false)
    (hfree : (s.pendingAt (.spad k o) || s.scoreWaits (.spad k o) 8) = false) : groupBody d a la set s =
    .done (((s.noteReach s.cur (.spad k o) 8).locWrite (.spad k o) 8 (s.grouped set (word (s.spadRead k o 8))).toNat).answer d la
      (word (s.spadRead k o 8))) := by
  refine (if_neg h0).trans ?_
  rw [hw]
  exact (if_neg (Bool.eq_false_iff.mp hb)).trans (if_neg (Bool.eq_false_iff.mp hfree))

end

/-! ## TEND -/

/-- What TEND declares. -/
def tendUses (gu : Guard) (s : State) : Uses :=
  { len := 12, on := s.guard gu, ws := if s.endsInline then [2, 3] else [], blocking := true, nomask := true }

theorem exec_tend (gu : Guard) : exec (.tend gu) s = s.runs (tendUses gu s) tendBody := rfl

theorem endsInline_iff : s.endsInline = true ↔ s.lv = false ∧ 0 < s.me.inl := by
  rw [State.endsInline, Bool.and_eq_true, Bool.not_eq_true', decide_eq_true_eq]

/-- The frame that a TEND reads in `t`: none where no inline child ends. -/
def State.tendFrame (s t : State) : Now := if s.endsInline then t.returnFrame (s.me.g false 2 - 32) else .ok 0 (.glob 0) t

theorem tendFrame_of_not (h : s.endsInline = false) : s.tendFrame t = .ok 0 (.glob 0) t := if_neg (Bool.eq_false_iff.mp h)

section
variable {x : Nat} {l : Loc} {e : State} (h : s.endsInline = true) (hx : t.readFrame (s.me.g false 2 - 32) 4 = .ok x l e)
include h hx

theorem tendFrame_misaligned (ha : x % 4 ≠ 0) : s.tendFrame t = .trap e tALIGN (word x) := by
  rw [State.tendFrame, if_pos h, State.returnFrame, hx]
  exact if_pos ha

theorem tendFrame_ok (ha : x % 4 = 0) : s.tendFrame t = .ok x l e := by
  rw [State.tendFrame, if_pos h, State.returnFrame, hx]
  exact if_neg (not_not.mpr ha)

end

theorem tendBody_waits (h : (s.me.owes s.lv || s.unreleased) = true) : tendBody s = .wait s .issued := if_pos h

section
variable (h : (s.me.owes s.lv || s.unreleased) = false)
include h

theorem tendBody_unjoined (hj : (s.me.thr s.lv).jctr = 0) : tendBody s =
    (s.tendFrame s).resWait s 0 (fun x _ t => t.endTask s.endsInline (s.me.g false 2 - 32) x) :=
  (if_neg (Bool.eq_false_iff.mp h)).trans (if_pos hj)

variable (hj : (s.me.thr s.lv).jctr ≠ 0)
include hj

theorem tendBody_badBlock {c : Nat} (hb : blockTrap (s.me.thr s.lv).jctr = some c) : tendBody s = .trap s c (s.me.thr s.lv).jctr := by
  refine (if_neg (Bool.eq_false_iff.mp h)).trans ((if_neg hj).trans ?_)
  rw [hb]

theorem tendBody_joined (hb : blockTrap (s.me.thr s.lv).jctr = none) {y : Nat} {l : Loc}
    (hy : s.nowRead (s.me.thr s.lv).jctr 64 3 kAtomic true = .ok y l t) : tendBody s =
    (s.tendFrame t).resWait s 0 (fun x _ e =>
      ((e.joinStep (s.me.thr s.lv).jctr l y none).2).endTask s.endsInline (s.me.g false 2 - 32) x) := by
  refine (if_neg (Bool.eq_false_iff.mp h)).trans ((if_neg hj).trans ?_)
  rw [hb, hy]
  rfl

end

/-- The parent that an inline child has returned to. -/
def State.returned (s : State) (base : Word) (x : Nat) : State := s.updMe (fun c =>
  let c := { (c.setG false 2 base).setG false 3 (word (x / 2 ^ 64)) with inl := c.inl - 1 }
  c.setThr false { c.lv0 with jctr := word (x / 2 ^ 128), ltask := word (x / 2 ^ 192 % 2 ^ 32) })

theorem returned_me (base : Word) (x : Nat) : (s.returned base x).me.g false 2 = base ∧
    (s.returned base x).me.g false 3 = word (x / 2 ^ 64) ∧ (s.returned base x).me.inl = s.me.inl - 1 ∧
    ((s.returned base x).me.thr false).jctr = word (x / 2 ^ 128) ∧
    ((s.returned base x).me.thr false).ltask = word (x / 2 ^ 192 % 2 ^ 32) ∧
    ∀ k, k ≠ 2 → k ≠ 3 → (s.returned base x).me.g false k = s.me.g false k := by
  let c := (s.me.setG false 2 base).setG false 3 (word (x / 2 ^ 64))
  have hme : (s.returned base x).me = ({ c with inl := s.me.inl - 1 } : Core).setThr false
      { c.lv0 with jctr := word (x / 2 ^ 128), ltask := word (x / 2 ^ 192 % 2 ^ 32) } := State.me_updMe ..
  have hg (k : Nat) : (s.returned base x).me.g false k = c.g false k := by
    rw [hme]
    rfl
  refine ⟨?_, ?_, ?_, ?_, ?_, fun k h2 h3 => ?_⟩
  · rw [hg, Core.g_setG_other _ _ _ _ (by decide), Core.g_setG, if_pos rfl]
    rfl
  · rw [hg, Core.g_setG, if_pos rfl]
    rfl
  · rw [hme]
    rfl
  · rw [hme]
    rfl
  · rw [hme]
    rfl
  · rw [hg, Core.g_setG_other _ _ _ _ h3, Core.g_setG_other _ _ _ _ h2]

theorem endTask_inline (base : Word) (x : Nat) : s.endTask true base x = .jump (s.returned base x) (word x) := rfl

theorem endTask_record (base : Word) (x : Nat) : s.endTask false base x = .wait (s.updMe Core.endRecord) .idle := rfl

/-! ## The end of a record -/

theorem endRecord_task {c : Core} (h : c.level = false) : c.endRecord = { c with pv := false } := if_neg (Bool.eq_false_iff.mp h)

theorem endRecord_handler {c : Core} (h : c.level = true) : c.endRecord =
    if c.lv0.hold == .wfe then { ({ c with level := false, pv := false } : Core).resume false (c.lv0.pc + 4) with latch := false }
    else { c with level := false, pv := false } := if_pos h

end Sys2Proof.Machine
end

section
/-!
PROOFS. SEND, JOIN, LEAVE, masked windows and TEND (O37).
-/

namespace Sys2Proof

open Sys2Proof.Machine

variable {s : State}

theorem owes_iff {c : Core} {lv : Bool} : c.owes lv = true ↔ ∃ p ∈ c.pend, p.lv = lv ∧ p.owed = true := by
  simp only [Core.owes, List.any_eq_true, Bool.and_eq_true, beq_iff_eq]

theorem opens_eq (c : Core) : (if c.maskOpen then c else { c with maskOpen := true, maskCnt := 0 }) =
    { c with maskOpen := true, maskCnt := if c.maskOpen then c.maskCnt else 0 } := by
  by_cases h : c.maskOpen = true
  · rw [if_pos h, if_pos h, ← h]
  · rw [if_neg h, if_neg h]

/-- Settles O37: SEND, JOIN, LEAVE and TEND by outcome of their bodies, the parent of an inline child by `returned_me`. -/
theorem sendingAndEndingRecords : Obligations.SendingAndEndingRecords := by
  unfold Obligations.SendingAndEndingRecords
  refine ⟨fun s gu la h d a b => ?_, fun s gu => ?_⟩
  · intro snd grp opn cls ti tl me set_ clr
    have hset (w : Word) : s.grouped true w = set_ w := grouped_set w
    have hclr (w : Word) : s.grouped false w = clr w := grouped_clear w
    refine ⟨fun hp ha x l t hn hbad => ?_, fun hp h0 => ?_, fun hp h0 => ?_, fun hp => ?_, fun hp hlv => ?_, fun hp hlv => ?_⟩
    · have ea : s.src a = s.rg a := src_of_plain hp (.head _)
      have eb : s.src b = s.rg b := src_of_plain hp (.tail _ (.head _))
      rw [← ea] at ha hn
      rw [← eb]
      refine ⟨fun hb => ?_, fun hb hu => ?_, fun hb hu => ?_⟩
      · rw [exec_send]
        exact runs_trapIn hp.toIssues (sendBody_badTarget ha hn hbad hb)
      · rw [exec_send]
        exact runs_stays hp rfl (sendBody_stalls ha hn hbad hb hu)
      · intro to_ due v
        refine ⟨t.sendTo s.myHall (tileOf s.cur) la d (s.src b) h (recOf x) (s.cur, s.lv) (s.myHall.sender s.cur), ?_, rfl, sendTo_pend .., rfl⟩
        rw [Performs, exec_send]
        exact runs_done hp (sendBody_sends ha hn hbad hb hu)
    · refine ⟨⟨_, runs_done hp (groupBody_join_step h0), ?_⟩, ?_⟩
      · rw [State.tile_setTile_same]
        exact ⟨hset _, fun k hk => joinedShares_other hk, joinedShares_own, rfl⟩
      · rw [← hclr]
        exact runs_done hp (groupBody_leave_step h0)
    · have ea : s.src a = s.rg a := src_of_plain hp (.head _)
      rw [← ea]
      refine ⟨fun code v hw => ⟨runs_trap hp.toIssues (groupBody_badPlace h0 hw), runs_trap hp.toIssues (groupBody_badPlace h0 hw)⟩,
        fun k o hw => ⟨fun hb => ⟨runs_trap hp.toIssues (groupBody_clobbers h0 hw hb), runs_trap hp.toIssues (groupBody_clobbers h0 hw hb)⟩,
          fun hb hpend hover hturn => ?_⟩⟩
      intro w at_
      have hfree := free_of hpend hover hturn
      rw [← hset, ← hclr]
      exact ⟨runs_done hp (groupBody_word h0 hw hb hfree), runs_done hp (groupBody_word h0 hw hb hfree)⟩
    · exact runs_done hp (congrArg (fun f => Res.done (s.updMe f)) (funext opens_eq))
    · exact runs_done hp (congrArg Res.done (if_neg (Bool.eq_false_iff.mp hlv)))
    · exact runs_done hp (congrArg Res.done (if_pos hlv))
  · intro inline u i j base returns hp
    have hu : tendUses gu s = u :=
      congrArg (fun ws => ({ len := 12, on := s.guard gu, ws := ws, blocking := true, nomask := true } : Uses))
        (if_congr endsInline_iff rfl rfl)
    have hx : exec i s = s.runs u tendBody := by rw [← hu]; exact exec_tend gu
    have howes : s.me.owes s.lv = false ↔ ∀ p ∈ s.me.pend, p.lv = s.lv → p.owed = false := by
      rw [← Bool.not_eq_true, owes_iff]
      simp only [not_exists, not_and, Bool.not_eq_true]
    have hin (h : inline) : s.endsInline = true := endsInline_iff.mpr h
    have hout (h : ¬inline) : s.endsInline = false := Bool.eq_false_iff.mpr (mt endsInline_iff.mp h)
    have hreturns {w : State} {x : Nat} (h : tendBody s = .jump (w.returned base x) (word x)) : returns w x := by
      obtain ⟨h2, h3, hinl, hjctr, hltask, hg⟩ := returned_me (s := w) base x
      refine ⟨w.returned base x, ?_, h2, h3, hinl, hjctr, hltask, hg, rfl⟩
      rw [hx]
      exact runs_jump hp h
    refine ⟨fun h => ?_, fun hpend hrel => ⟨fun hj hno => ?_, fun hj hin' x l t hr => ?_, fun code hb hj => ?_,
      fun hj hb hno y l t hy => ?_, fun hj hb hin' y l t hy x l' t' hr => ?_⟩, fun c => ⟨endRecord_task, fun h => ?_⟩, fun p hc hd ha => ?_,
      fun p hd => ?_⟩
    · rw [Waits, hx]
      refine runs_wait hp (tendBody_waits ?_)
      rw [Bool.or_eq_true, owes_iff]
      exact h
    · have hfree : (s.me.owes s.lv || s.unreleased) = false := by rw [howes.mpr hpend, hrel]; rfl
      rw [Waits, hx]
      refine runs_wait hp ((tendBody_unjoined hfree hj).trans ?_)
      rw [tendFrame_of_not (hout hno), hout hno]
      rfl
    · have hfree : (s.me.owes s.lv || s.unreleased) = false := by rw [howes.mpr hpend, hrel]; rfl
      refine ⟨fun ha => ?_, fun ha hlv => hreturns ?_⟩
      · rw [hx]
        refine runs_trapIn hp.toIssues ((tendBody_unjoined hfree hj).trans ?_)
        rw [tendFrame_misaligned (hin hin') hr ha]
        rfl
      · refine (tendBody_unjoined hfree hj).trans ?_
        rw [tendFrame_ok (hin hin') hr ha, hin hin']
        rfl
    · have hfree : (s.me.owes s.lv || s.unreleased) = false := by rw [howes.mpr hpend, hrel]; rfl
      rw [hx]
      exact runs_trap hp.toIssues (tendBody_badBlock hfree hj hb)
    · have hfree : (s.me.owes s.lv || s.unreleased) = false := by rw [howes.mpr hpend, hrel]; rfl
      rw [Waits, hx]
      refine runs_wait hp ((tendBody_joined hfree hj hb hy).trans ?_)
      rw [tendFrame_of_not (hout hno), hout hno]
      rfl
    · have hfree : (s.me.owes s.lv || s.unreleased) = false := by rw [howes.mpr hpend, hrel]; rfl
      refine ⟨fun ha => ?_, fun ha hlv => hreturns ?_⟩
      · rw [hx]
        refine runs_trapIn hp.toIssues ((tendBody_joined hfree hj hb hy).trans ?_)
        rw [tendFrame_misaligned (hin hin') hr ha]
        rfl
      · refine (tendBody_joined hfree hj hb hy).trans ?_
        rw [tendFrame_ok (hin hin') hr ha, hin hin']
        rfl
    · rw [endRecord_handler h]
      by_cases hw : c.lv0.hold = .wfe
      · rw [if_pos (beq_iff_eq.mpr hw)]
        exact ⟨rfl, rfl, fun _ => ⟨rfl, rfl, rfl⟩, fun hn => absurd hw hn⟩
      · rw [if_neg (mt beq_iff_eq.mp hw)]
        exact ⟨rfl, rfl, fun hn => absurd hn hw, fun _ => rfl⟩
    · unfold Pend.owed
      rw [hd, ha]
      rcases hc with hc | hc | hc | hc <;> rw [hc] <;> rfl
    · unfold Pend.owed
      rw [Option.isSome_iff_ne_none.mpr hd]
      rfl

end Sys2Proof
end

section
/-!
SUPPORT. STEP, STEPQ and HALLQ by outcome (R321, R322).
-/

namespace Sys2Proof.Machine

open Sys2Proof

variable {s t : State} {d a : Reg} {la : BitVec 4} {gu : Guard}

/-! ## Waiting on -/

theorem settle_again_wait {u : Uses} (w : Hold) : s.settle u true (.wait t w) = t.updMe (fun c => c.park s.lv w) := rfl

theorem park_same {c : Core} {lv : Bool} {w : Hold} (h : (c.thr lv).hold = w) : c.park lv w = c := by
  subst h
  cases lv <;> rfl

/-- A thread that goes on waiting as it waits leaves its state as it was. -/
theorem waits_on {w : Hold} (h : (s.me.thr s.lv).hold = w) :
    ((s.updMe (fun c => c.park s.lv w)).me.thr s.lv) = s.me.thr s.lv ∧ (s.updMe (fun c => c.park s.lv w)).tiles = s.tiles ∧
      (s.updMe (fun c => c.park s.lv w)).mem = s.mem := by
  refine ⟨?_, rfl, rfl⟩
  rw [State.me_updMe, park_same h]

/-! ## STEP -/

/-- An access of the core to its gallery, or a read of another tile's, is under way. -/
def State.GalleryBusy (s : State) : Prop :=
  (∃ r ∈ s.flight, r.core = s.cur ∧ r.loc.sameTarget (.gal (tileOf s.cur) 0) = true) ∨ ∃ m ∈ s.gmsgs, m.core = s.cur ∧ m.landing ≠ none

theorem stepBusy_iff : s.stepBusy = true ↔ s.GalleryBusy := by
  simp only [State.stepBusy, State.GalleryBusy, Bool.or_eq_true, List.any_eq_true, Bool.and_eq_true, beq_iff_eq, Option.isSome_iff_ne_none]

theorem shareDone_member (h : bitAt (s.tile (tileOf s.cur)).group (coreIdx s.cur) = true) :
    s.shareDone (s.tile (tileOf s.cur)).s = s.setTile (tileOf s.cur) { s.tile (tileOf s.cur) with
      shares := (s.tile (tileOf s.cur)).shares ||| ((1 : Word) <<< coreIdx s.cur) } := by
  rw [← setFld_bit_one _ (coreIdx_lt _)]
  exact if_pos ⟨h, rfl⟩

theorem shareDone_stranger (k : Nat) (h : bitAt (s.tile (tileOf s.cur)).group (coreIdx s.cur) = false) : s.shareDone k = s :=
  if_neg fun h' => absurd h'.1 (Bool.eq_false_iff.mp h)

theorem shareDone_left {k : Nat} (h : (s.tile (tileOf s.cur)).s ≠ k) : s.shareDone k = s := if_neg fun h' => h h'.2

/-- The share of the step a tile is in is counted, for a member; nothing else happens. -/
theorem shareDone_frame (k : Nat) : (s.shareDone k).cur = s.cur ∧ (s.shareDone k).cores = s.cores ∧ (s.shareDone k).mem = s.mem ∧
    ((s.shareDone k).tile (tileOf s.cur)).s = (s.tile (tileOf s.cur)).s := by
  unfold State.shareDone
  dsimp only
  split
  · refine ⟨rfl, rfl, rfl, ?_⟩
    rw [State.tile_setTile_same]
  · exact ⟨rfl, rfl, rfl, rfl⟩

theorem shareDone_shares : ((s.shareDone (s.tile (tileOf s.cur)).s).tile (tileOf s.cur)).shares =
    if bitAt (s.tile (tileOf s.cur)).group (coreIdx s.cur) then (s.tile (tileOf s.cur)).shares ||| ((1 : Word) <<< coreIdx s.cur)
    else (s.tile (tileOf s.cur)).shares := by
  cases h : bitAt (s.tile (tileOf s.cur)).group (coreIdx s.cur)
  · rw [shareDone_stranger _ h]
    rfl
  · rw [shareDone_member h, State.tile_setTile_same]
    rfl

theorem stepWait_over {k : Nat} (h : k < (s.tile (tileOf s.cur)).s) : stepWait d k s = .done (s.dst d (word (s.tile (tileOf s.cur)).s)) :=
  if_pos h

theorem stepWait_within {k : Nat} (h : (s.tile (tileOf s.cur)).s ≤ k) : stepWait d k s = .wait s (.step k) := if_neg (Nat.not_lt.mpr h)

theorem stepWait_shareDone : stepWait d (s.tile (tileOf s.cur)).s (s.shareDone (s.tile (tileOf s.cur)).s) =
    .wait (s.shareDone (s.tile (tileOf s.cur)).s) (.step (s.tile (tileOf s.cur)).s) := by
  obtain ⟨hcur, -, -, hs⟩ := shareDone_frame (s := s) (s.tile (tileOf s.cur)).s
  refine stepWait_within (le_of_eq ?_)
  rw [hcur, hs]

section
variable (hr : (s.me.thr s.lv).hold = .ready)
include hr

theorem stepBody_last (h : (s.tile (tileOf s.cur)).s = 0xFFFFFFFF) : stepBody d s = .trap s tCONE 0xFFFFFFFF := by
  unfold stepBody
  rw [hr]
  dsimp only
  rw [if_pos h, h]
  rfl

variable (h : (s.tile (tileOf s.cur)).s ≠ 0xFFFFFFFF)
include h

theorem stepBody_busy (hb : s.GalleryBusy) : stepBody d s = .wait s (.share (s.tile (tileOf s.cur)).s) := by
  unfold stepBody
  rw [hr]
  dsimp only
  rw [if_neg h, if_pos (stepBusy_iff.mpr hb)]

theorem stepBody_shares (hb : ¬s.GalleryBusy) : stepBody d s =
    .wait (s.shareDone (s.tile (tileOf s.cur)).s) (.step (s.tile (tileOf s.cur)).s) := by
  unfold stepBody
  rw [hr]
  dsimp only
  rw [if_neg h, if_neg (mt stepBusy_iff.mp hb), stepWait_shareDone]

end

theorem stepBody_step {k : Nat} (h : (s.me.thr s.lv).hold = .step k) : stepBody d s = stepWait d k s := by
  unfold stepBody
  rw [h]

theorem stepBody_share_busy {k : Nat} (h : (s.me.thr s.lv).hold = .share k) (hb : s.GalleryBusy) : stepBody d s = .wait s (.share k) := by
  unfold stepBody
  rw [h]
  exact if_pos (stepBusy_iff.mpr hb)

theorem stepBody_share_free {k : Nat} (h : (s.me.thr s.lv).hold = .share k) (hb : ¬s.GalleryBusy) :
    stepBody d s = stepWait d k (s.shareDone k) := by
  unfold stepBody
  rw [h]
  exact if_neg (mt stepBusy_iff.mp hb)

/-- What STEP declares. -/
def stepUses (gu : Guard) (d : Reg) (s : State) : Uses :=
  { len := 12, on := s.guard gu, ws := [d.toNat], blocking := true, nomask := true, illegal := s.lv && s.guard gu }

theorem exec_step (gu : Guard) (d : Reg) : exec (.step gu d) s = s.runs (stepUses gu d s) (stepBody d) := rfl

section
variable (hn : s.me.namesPort (stepUses gu d s) = false) (hr : (s.me.thr s.lv).hold ≠ .ready) (hs : (s.me.thr s.lv).hold ≠ .stalled)
include hn hr hs

theorem exec_step_again : exec (.step gu d) s = .next (s.settle (stepUses gu d s) true (stepBody d s)) := by
  rw [exec_step]
  exact runs_again hn hr hs _

theorem exec_step_over {k : Nat} (hb : stepBody d s = stepWait d k s) (h : k < (s.tile (tileOf s.cur)).s) :
    exec (.step gu d) s = .next ((s.wg d (word (s.tile (tileOf s.cur)).s)).updMe (fun c => c.resume s.lv (s.pc + 12))) := by
  rw [exec_step_again hn hr hs, hb, stepWait_over h, dst_of_noPort (port_none_of_noPort hn (List.mem_append_right _ (.head _))),
    settle_again_done hn]
  rfl

theorem exec_step_waits {w : Hold} (hw : (s.me.thr s.lv).hold = w) (hb : stepBody d s = .wait s w) :
    ∃ e, exec (.step gu d) s = .next e ∧ (e.me.thr s.lv) = s.me.thr s.lv ∧ e.tiles = s.tiles ∧ e.mem = s.mem :=
  ⟨_, by rw [exec_step_again hn hr hs, hb, settle_again_wait], waits_on hw⟩

end

theorem hold_park (c : Core) (lv : Bool) (w : Hold) : ((c.park lv w).thr lv).hold = w := by cases lv <;> rfl

/-! ## STEPQ and HALLQ -/

theorem bitAt_left {t : Tile} {i : Nat} (hi : i < 64) : bitAt (t.group &&& ~~~t.shares) i = (bitAt t.group i && !bitAt t.shares i) := by
  simp [bitAt, hi]

theorem left_eq (t : Tile) : t.left = ((List.range 64).filter (fun i => bitAt t.group i && !bitAt t.shares i)).length :=
  congrArg List.length (List.filter_congr fun _ hi => bitAt_left (List.mem_range.mp hi))

theorem left_eq_zero_iff (t : Tile) : t.left = 0 ↔ ∀ i, i < 64 → bitAt t.group i = true → bitAt t.shares i = true := by
  rw [left_eq, List.length_eq_zero_iff, List.filter_eq_nil_iff]
  simp only [List.mem_range, Bool.and_eq_true, Bool.not_eq_true', not_and, Bool.not_eq_false]

theorem nbrsIn_iff {t : Tile} {ns : List (Nat × Nat)} : t.nbrsIn ns = true ↔ ∀ n ∈ ns, t.s ≤ t.nbrS.get 0 n.1 := by
  simp only [Tile.nbrsIn, List.all_eq_true, decide_eq_true_eq]

section
variable {k : Nat} {h : Hall} (hh : s.hallOf k = some h)
include hh

theorem stepCond_eq : s.stepCond k = StepCond.mk ((s.tile k).nbrsIn (h.neighbours k)) ((s.tile k).left == 0)
    ((s.tile k).unparked == 0) ((h.neighbours k).any (fun n => s.wayToTile n.2 k == .dead)) := by
  unfold State.stepCond
  rw [hh]

theorem selfHeld_iff : (s.stepCond k).selfHeld = true ↔ (∃ n ∈ h.neighbours k, s.wayToTile n.2 k = .dead) ∨
    ((∀ n ∈ h.neighbours k, (s.tile k).s ≤ (s.tile k).nbrS.get 0 n.1) ∧ ¬((s.tile k).left = 0 ∧ (s.tile k).unparked = 0)) := by
  rw [stepCond_eq hh, StepCond.selfHeld]
  simp only [Bool.or_eq_true, Bool.and_eq_true, Bool.not_eq_true', List.any_eq_true, beq_iff_eq, nbrsIn_iff, Bool.and_eq_false_iff,
    beq_eq_false_iff_ne, not_and_or, ne_eq]

end

/-- The query that a HALLQ sends. -/
def State.hallQuery (s : State) (d : Reg) (la : BitVec 4) (u : Nat) (w : Word) : State :=
  { s.putPend { s.newPend (greg s.lv d.toNat) la.toNat 1 .mem 0 with acc := 1 } with
    gmsgs := s.gmsgs ++ [{ id := s.ctr + 1, core := s.cur, lv := s.lv, pend := s.ctr, pc := s.pc, tile := u, n := 8, tval := w }],
    ctr := s.ctr + 2 }

/-- The body of HALLQ. -/
def hallqBody (d a : Reg) (la : BitVec 4) (s : State) : Res :=
  match (s.me.thr s.lv).hold with
  | .answered _ => .done s
  | _ =>
    if !targetOk s.myHall (s.src a) false false then .trap s tCONE (s.src a)
    else if s.wayBetween (tileOf s.cur) (s.myHall.tileAt (fld (s.src a) 8 4) (fld (s.src a) 16 3)) = .dead then .trap s tREFUSED (s.src a)
    else s.askTile (greg s.lv d.toNat) la 0
      { tile := s.myHall.tileAt (fld (s.src a) 8 4) (fld (s.src a) 16 3), n := 8, tval := s.src a }

theorem exec_hallq : exec (.hallq gu la d a) s =
    s.runs { len := 12, on := s.guard gu, rs := [a.toNat], ws := [d.toNat], long := true } (hallqBody d a la) := rfl

theorem askTile_query (u : Nat) (w : Word) : s.askTile (greg s.lv d.toNat) la 0 { tile := u, n := 8, tval := w } =
    .wait (s.hallQuery d la u w) (.access s.ctr) := by
  have hlv := lv_enterPend (s := s) { s.newPend (greg s.lv d.toNat) la.toNat 1 .mem 0 with acc := 1 }
  have hpc := pc_enterPend (s := s) { s.newPend (greg s.lv d.toNat) la.toNat 1 .mem 0 with acc := 1 }
  unfold State.askTile
  dsimp only
  rw [hlv, hpc]
  rfl

section
variable (hr : (s.me.thr s.lv).hold = .ready)
include hr

theorem hallqBody_badTarget (h : targetOk s.myHall (s.src a) false false = false) : hallqBody d a la s = .trap s tCONE (s.src a) := by
  unfold hallqBody
  rw [hr, h]
  rfl

variable (h : targetOk s.myHall (s.src a) false false = true)
include h

theorem hallqBody_dead (hw : s.wayBetween (tileOf s.cur) (s.myHall.tileAt (fld (s.src a) 8 4) (fld (s.src a) 16 3)) = .dead) :
    hallqBody d a la s = .trap s tREFUSED (s.src a) := by
  unfold hallqBody
  rw [hr, h]
  exact if_pos hw

theorem hallqBody_asks (hw : s.wayBetween (tileOf s.cur) (s.myHall.tileAt (fld (s.src a) 8 4) (fld (s.src a) 16 3)) ≠ .dead) :
    hallqBody d a la s = .wait (s.hallQuery d la (s.myHall.tileAt (fld (s.src a) 8 4) (fld (s.src a) 16 3)) (s.src a)) (.access s.ctr) := by
  unfold hallqBody
  rw [hr, h]
  exact (if_neg hw).trans (askTile_query ..)

end

end Sys2Proof.Machine
end

section
/-!
SUPPORT. The entry of a tile into its next step, and its watchdog (R310 to R314, R318).
-/

namespace Sys2Proof.Machine

open Sys2Proof

variable {s t : State} {tl k : Nat} {h : Hall}

/-! ## Copying a part of a map -/

theorem SMap.get_below {α : Type} (d : α) {lo q : Nat} (hq : q ≤ lo) {m : SMap α} (h : SMap.sortedFrom (some lo) m = true) :
    m.get d q = d := by
  induction m generalizing lo with
  | nil => rfl
  | cons e m ih =>
    obtain ⟨j, w⟩ := e
    simp only [SMap.sortedFrom, Bool.and_eq_true, decide_eq_true_eq] at h
    obtain ⟨hj, hm⟩ := h
    rw [SMap.get, if_neg (by omega)]
    exact ih (by omega) hm

/-- Entries of one block of 2^14 keys, written at a base: each of them is read there, and what was there where none is. -/
theorem get_foldl_copy {α : Type} (d : α) {base k o : Nat} (ho : o < 2 ^ 14) {l : SMap α} {lo : Option Nat}
    (hs : SMap.sortedFrom lo l = true) (hl : ∀ e ∈ l, e.1 / 2 ^ 14 = k) (m : SMap α) :
    SMap.get d (l.foldl (fun m e => m.put (base + e.1 % 2 ^ 14) e.2) m) (base + o) = l.get (m.get d (base + o)) (k * 2 ^ 14 + o) := by
  induction l generalizing m lo with
  | nil => rfl
  | cons e l ih =>
    obtain ⟨j, w⟩ := e
    obtain ⟨-, hs⟩ := Bool.and_eq_true_iff.mp hs
    have hj : j / 2 ^ 14 = k := hl (j, w) (.head _)
    rw [List.foldl_cons, ih hs (fun e he => hl e (.tail _ he)), SMap.get_put, SMap.get]
    by_cases hjo : j = k * 2 ^ 14 + o
    · rw [if_pos (by omega), if_pos hjo, ← hjo]
      exact SMap.get_below w le_rfl hs
    · rw [if_neg (by omega), if_neg hjo]

theorem get_foldl_copy_other {α : Type} (d : α) {base a : Nat} (ha : a < base ∨ base + 2 ^ 14 ≤ a) (l m : SMap α) :
    SMap.get d (l.foldl (fun m e => m.put (base + e.1 % 2 ^ 14) e.2) m) a = m.get d a := by
  induction l generalizing m with
  | nil => rfl
  | cons e l ih =>
    have := Nat.mod_lt e.1 (show 0 < 2 ^ 14 by norm_num)
    rw [List.foldl_cons, ih, SMap.get_put, if_neg (by omega)]

/-! ## The landing -/

theorem takeLanding_land : (s.takeLanding tl k).mem.land = (s.mem.gal.filter (fun e => e.1 / 2 ^ 14 == tl)).foldl
    (fun l e => l.put (landAddr tl (k % 8) 0 + e.1 % 2 ^ 14) e.2) (s.mem.land.clear (landAddr tl (k % 8) 0) galSize) := rfl

theorem landAddr_zero (t j : Nat) : landAddr t j 0 = (t * 8 + j) * 2 ^ 14 := Nat.add_zero _

theorem takeLanding_copies (hg : SMap.wf 0 s.mem.gal = true) {o : Nat} (ho : o < 16384) :
    (s.takeLanding tl k).mem.land.get 0 ((tl * 8 + k % 8) * 2 ^ 14 + o) = s.mem.gal.get 0 (tl * 2 ^ 14 + o) := by
  have hsorted : SMap.sortedFrom none s.mem.gal = true := (Bool.and_eq_true_iff.mp hg).1
  have hblock : ∀ e ∈ s.mem.gal.filter (fun e => e.1 / 2 ^ 14 == tl), e.1 / 2 ^ 14 = tl := fun e he =>
    beq_iff_eq.mp (List.mem_filter.mp he).2
  have hcopy := get_foldl_copy (0 : Byte) (base := landAddr tl (k % 8) 0) ho (SMap.filter_sortedFrom _ hsorted) hblock
    (s.mem.land.clear (landAddr tl (k % 8) 0) galSize)
  have hcleared : (s.mem.land.clear (landAddr tl (k % 8) 0) galSize).get 0 (landAddr tl (k % 8) 0 + o) = 0 := by
    rw [SMap.get_clear, if_pos (by unfold galSize; omega)]
  have hkey : (tl * 2 ^ 14 + o) / 2 ^ 14 == tl := beq_iff_eq.mpr (by omega)
  rw [hcleared, SMap.get_filter_pos (d := 0) (fun q => q / 2 ^ 14 == tl) hkey] at hcopy
  rw [takeLanding_land, ← landAddr_zero]
  exact hcopy

theorem takeLanding_other {a : Nat} (ha : a < (tl * 8 + k % 8) * 2 ^ 14 ∨ (tl * 8 + k % 8) * 2 ^ 14 + 16384 ≤ a) :
    (s.takeLanding tl k).mem.land.get 0 a = s.mem.land.get 0 a := by
  rw [← landAddr_zero] at ha
  rw [takeLanding_land, get_foldl_copy_other (0 : Byte) (by omega), SMap.get_clear, if_neg (by unfold galSize; omega)]

/-! ## Signals to the neighbours -/

/-- Each neighbour is sent the signal of a step (R312). -/
def State.signalAll (s : State) (ns : List (Nat × Nat)) (k : Nat) : State :=
  ns.foldl (fun s n => s.updTile n.2 (fun t => { t with signals := t.signals ++ [(backDir n.1, k)] })) s

theorem signalAll_tile (ns : List (Nat × Nat)) (q : Nat) : (s.signalAll ns k).tile q = { s.tile q with
    signals := (s.tile q).signals ++ (ns.filter (fun n => n.2 == q)).map (fun n => (backDir n.1, k)) } := by
  induction ns generalizing s with
  | nil => rw [List.filter_nil, List.map_nil, List.append_nil]; rfl
  | cons n ns ih =>
    rw [State.signalAll, List.foldl_cons]
    refine (ih (s := s.updTile n.2 _)).trans ?_
    rw [State.updTile, State.tile_setTile, List.filter_cons]
    by_cases hq : n.2 = q
    · rw [if_pos hq, if_pos (beq_iff_eq.mpr hq), List.map_cons, ← hq, List.append_assoc]
      rfl
    · rw [if_neg hq, if_neg (mt beq_iff_eq.mp hq)]

theorem signalAll_mem (ns : List (Nat × Nat)) : (s.signalAll ns k).mem = s.mem := by
  induction ns generalizing s with
  | nil => rfl
  | cons n ns ih => exact ih (s := s.updTile n.2 _)

theorem filter_of_countP_one {ns : List (Nat × Nat)} {n : Nat × Nat} (hn : n ∈ ns) (hc : ns.countP (fun m => m.2 == n.2) = 1) :
    ns.filter (fun m => m.2 == n.2) = [n] := by
  rw [List.countP_eq_length_filter] at hc
  obtain ⟨m, hm⟩ := List.length_eq_one_iff.mp hc
  have hmem : n ∈ ns.filter (fun m => m.2 == n.2) := List.mem_filter.mpr ⟨hn, beq_self_eq_true _⟩
  rw [hm] at hmem ⊢
  rw [List.mem_singleton.mp hmem]

/-! ## Releasing the vestibule -/

theorem releaseFrom_frame (l : List VRec) : (s.releaseFrom tl l).mem = s.mem ∧
    ∀ q, ∃ vs, (s.releaseFrom tl l).tile q = { s.tile q with vest := vs } := by
  induction l generalizing s with
  | nil => exact ⟨rfl, fun q => ⟨(s.tile q).vest, rfl⟩⟩
  | cons v l ih =>
    rw [State.releaseFrom]
    split
    · obtain ⟨hmem, htile⟩ := ih (s := (s.enqueueCore (s.vestRec tl v)).updTile tl (fun t => { t with vest := dropFirst (fun u => u == v) t.vest }))
      refine ⟨hmem, fun q => ?_⟩
      obtain ⟨vs, hq⟩ := htile q
      refine ⟨vs, hq.trans ?_⟩
      rw [State.updTile, State.tile_setTile]
      split
      · next e => rw [← e]; rfl
      · rfl
    · exact ⟨rfl, fun q => ⟨(s.tile q).vest, rfl⟩⟩

/-! ## STEP_ENTRY -/

/-- The state once a tile has entered a step (R312). -/
def State.entered (s : State) (h : Hall) (tl k : Nat) : State :=
  let s := ((s.takeLanding tl k).updTile tl (fun t => { t with s := k })).signalAll (h.neighbours tl) k
  ((s.updTile tl (fun t => { t with vestReady := k })).releaseVest tl).updTile tl (fun t => { t with shares := 0, wd := 0, stallPosted := false })

theorem entered_mem : (s.entered h tl k).mem = (s.takeLanding tl k).mem := by
  change (State.releaseVest _ tl).mem = _
  rw [State.releaseVest, (releaseFrom_frame _).1]
  change (State.signalAll _ _ _).mem = _
  rw [signalAll_mem]
  rfl

/-- A tile that has been sent signals, and then enters: what each tile's fields are. -/
theorem entered_tile (q : Nat) : ∃ vs vr, (s.entered h tl k).tile q =
    (if tl = q then { s.tile q with
        s := k, vestReady := vr, shares := 0, wd := 0, stallPosted := false, vest := vs,
        signals := (s.tile q).signals ++ ((h.neighbours tl).filter (fun n => n.2 == q)).map (fun n => (backDir n.1, k)) }
      else { s.tile q with
        vest := vs,
        signals := (s.tile q).signals ++ ((h.neighbours tl).filter (fun n => n.2 == q)).map (fun n => (backDir n.1, k)) }) := by
  let s1 := ((s.takeLanding tl k).updTile tl (fun t => { t with s := k })).signalAll (h.neighbours tl) k
  let s2 := s1.updTile tl (fun t => { t with vestReady := k })
  obtain ⟨vs, hvs⟩ := (releaseFrom_frame (s := s2) (tl := tl) (((s2.tile tl).vest.filter (fun v => decide (v.due ≤ (s2.tile tl).vestReady))).foldl
    (fun l v => insVest v l) [])).2 q
  have hrel : (s2.releaseVest tl).tile q = { s2.tile q with vest := vs } := hvs
  have h1 : s1.tile q = { ((s.takeLanding tl k).updTile tl (fun t => { t with s := k })).tile q with
      signals := (((s.takeLanding tl k).updTile tl (fun t => { t with s := k })).tile q).signals ++
        ((h.neighbours tl).filter (fun n => n.2 == q)).map (fun n => (backDir n.1, k)) } := signalAll_tile _ q
  have hland : (s.takeLanding tl k).tile q = s.tile q := rfl
  refine ⟨vs, k, ?_⟩
  change (State.updTile (s2.releaseVest tl) tl _).tile q = _
  rw [State.updTile, State.tile_setTile]
  by_cases hq : tl = q
  · subst hq
    rw [if_pos rfl, if_pos rfl, hrel]
    simp only [s2, State.updTile, State.tile_setTile_same]
    rw [h1]
    simp only [State.updTile, State.tile_setTile_same, hland]
  · rw [if_neg hq, if_neg hq, hrel]
    simp only [s2, State.updTile, State.tile_setTile, if_neg hq]
    rw [h1]
    simp only [State.updTile, State.tile_setTile, if_neg hq, hland]

section
variable (hh : s.hallOf tl = some h)
include hh

theorem mayEnter_iff : s.mayEnter tl = true ↔ (s.tile tl).group ≠ 0 ∧
    (∀ i, i < 64 → bitAt (s.tile tl).group i = true → bitAt (s.tile tl).shares i = true) ∧ (s.tile tl).unparked = 0 ∧
    (∀ n ∈ h.neighbours tl, (s.tile tl).s ≤ (s.tile tl).nbrS.get 0 n.1) ∧
    ¬(7 ≤ (s.tile tl).s ∧ ∃ m ∈ s.gmsgs, m.tile = tl ∧ m.landing = some ((s.tile tl).s - 7)) := by
  unfold State.mayEnter
  rw [stepCond_eq hh]
  simp only [Bool.and_eq_true, bne_iff_ne, beq_iff_eq, left_eq_zero_iff, nbrsIn_iff, Bool.not_eq_true', and_assoc, ne_eq]
  rw [← Bool.not_eq_true]
  simp only [Bool.and_eq_true, decide_eq_true_eq, List.any_eq_true, beq_iff_eq]

theorem exec_stepEntry_stays (h' : s.mayEnter tl = false ∨ s.stallDue h tl = true) : exec (.stepEntry tl) s = .next s := by
  refine congrArg Host.Outcome.next ?_
  rw [hh]
  refine if_pos (.inr ?_)
  rw [Bool.not_eq_true']
  exact h'

theorem exec_stepEntry_enters (hstop : h.stop = .none) (hmay : s.mayEnter tl = true) (hdue : s.stallDue h tl = false) :
    exec (.stepEntry tl) s = .next (s.entered h tl ((s.tile tl).s + 1)) := by
  refine congrArg Host.Outcome.next ?_
  rw [hh]
  refine if_neg ?_
  rintro (h1 | h1 | h1)
  · exact h1 hstop
  · rw [hmay] at h1
    exact absurd h1 (by decide)
  · rw [hdue] at h1
    exact absurd h1 (by decide)

/-! ## STEP_SIGNAL -/

variable {dir : Nat} {n : Nat × Nat} (hs : (s.tile tl).signals.find? (fun e => e.1 == dir) = some (dir, k))
  (hn : (h.neighbours tl).find? (fun n => n.1 == dir) = some n)
include hs hn

theorem exec_stepSignal : exec (.stepSignal tl dir) s = .next (if s.wayToTile n.2 tl ≠ .clear then s else s.setTile tl { s.tile tl with
    signals := dropFirst (fun q => q.1 == dir) (s.tile tl).signals, nbrS := (s.tile tl).nbrS.put dir k }) := by
  refine congrArg Host.Outcome.next ?_
  dsimp only
  rw [hs, hh]
  dsimp only
  rw [hn]

end

/-! ## STALL -/

/-- The message of a tile that is stalled. -/
def State.stallMsg (s : State) (h : Hall) (tl : Nat) : HRec := { crec := { code := h.stallh, frame := s.stallFrame h tl }, svc := true }

/-- The state once a tile has noted that it posts its message. -/
def State.stallNoted (s : State) (tl : Nat) : State := s.updTile tl (fun t => { t with stallPosted := true })

theorem stallNoted_tile (q : Nat) : ∃ b, (s.stallNoted tl).tile q = { s.tile q with stallPosted := b } ∧ (tl = q → b = true) := by
  rw [State.stallNoted, State.updTile, State.tile_setTile]
  by_cases hq : tl = q
  · subst hq
    rw [if_pos rfl]
    exact ⟨true, rfl, fun _ => rfl⟩
  · rw [if_neg hq]
    exact ⟨(s.tile q).stallPosted, rfl, fun h => absurd h hq⟩

section
variable (hh : s.hallOf tl = some h)
include hh

theorem exec_stall_not (hd : s.stallDue h tl = false) : exec (.stall tl) s = .next s := by
  refine congrArg Host.Outcome.next ?_
  rw [hh]
  dsimp only
  rw [hd]
  rfl

variable (hd : s.stallDue h tl = true)
include hd

theorem exec_stall : exec (.stall tl) s = .next (match (s.stallNoted tl).postHandler h.service (h.tileSender tl) (s.stallMsg h tl) with
    | some e => e
    | none => (s.stallNoted tl).updTile tl (fun t => { t with unposted := t.unposted ++ [s.stallMsg h tl] })) := by
  refine congrArg Host.Outcome.next ?_
  rw [hh]
  dsimp only
  rw [hd]
  rfl

theorem exec_stall_posts (hturn : ¬((s.tile (tileOf h.service)).lastPost.1 = s.cycle ∧ h.tileSender tl < (s.tile (tileOf h.service)).lastPost.2))
    (hlen : (s.core h.service).handlers.length < 64) (hover : ∀ e ∈ (s.tile (tileOf h.service)).overflow, e.core ≠ h.service) :
    ∃ e : State, exec (.stall tl) s = .next e ∧ (e.tile tl).stallPosted = true ∧
      (e.core h.service).handlers = (s.core h.service).handlers ++ [s.stallMsg h tl] := by
  obtain ⟨b, hb, -⟩ := stallNoted_tile (s := s) (tl := tl) (tileOf h.service)
  have hpost := postHandler_queues (s := s.stallNoted tl) (ck := h.service) (sender := h.tileSender tl) (r := s.stallMsg h tl) hlen
    (by rw [hb]; exact hover) (by rw [hb]; exact hturn)
  rw [exec_stall hh hd, hpost]
  refine ⟨_, rfl, ?_, congrArg Core.handlers (State.core_setCore_same ..)⟩
  change ((State.setTile (s.stallNoted tl) _ _).tile tl).stallPosted = true
  have hown : ((s.stallNoted tl).tile tl).stallPosted = true := by
    obtain ⟨b, hb, ht⟩ := stallNoted_tile (s := s) (tl := tl) tl
    rw [hb, ht rfl]
  rw [State.tile_setTile]
  split
  · next e => exact (congrArg (fun q => ((s.stallNoted tl).tile q).stallPosted) e).trans hown
  · exact hown

theorem exec_stall_waits (hturn : (s.tile (tileOf h.service)).lastPost.1 = s.cycle ∧ h.tileSender tl < (s.tile (tileOf h.service)).lastPost.2) :
    ∃ e : State, exec (.stall tl) s = .next e ∧ (e.tile tl).stallPosted = true ∧
      (e.tile tl).unposted = (s.tile tl).unposted ++ [s.stallMsg h tl] ∧ e.cores = s.cores := by
  obtain ⟨b, hb, -⟩ := stallNoted_tile (s := s) (tl := tl) (tileOf h.service)
  have hpost : (s.stallNoted tl).postHandler h.service (h.tileSender tl) (s.stallMsg h tl) = none := by
    refine if_pos ?_
    rw [hb]
    exact hturn
  obtain ⟨b', hb', ht⟩ := stallNoted_tile (s := s) (tl := tl) tl
  rw [exec_stall hh hd, hpost]
  refine ⟨_, rfl, ?_, ?_, rfl⟩
  · rw [State.updTile, State.tile_setTile_same, hb', ht rfl]
  · rw [State.updTile, State.tile_setTile_same, hb']

end

end Sys2Proof.Machine
end

section
/-!
PROOFS. STEP, STEPQ, HALLQ, the entry of a tile into its next step, and STALL (O39).
-/

namespace Sys2Proof

open Sys2Proof.Machine

variable {s : State}

theorem hold_settled {t : State} (c : Core → Core) (lv : Bool) : ((t.updMe c).me.thr lv).hold = ((c t.me).thr lv).hold := by
  rw [State.me_updMe]

theorem bit_mul (b : Bool) (n : Nat) : bit b * n = if b = true then n else 0 := by
  cases b
  · exact Nat.zero_mul n
  · exact Nat.one_mul n

theorem bit_not_mul (b : Bool) (n : Nat) : bit (!b) * n = if b = true then 0 else n := by
  cases b
  · exact Nat.one_mul n
  · exact Nat.zero_mul n

/-- The status word of a tile (R322). -/
theorem stepStatus_eq {k : Nat} {h : Hall} (hh : s.hallOf k = some h) {self nbr : Prop} [Decidable self] [Decidable nbr]
    (hself : self ↔ (s.stepCond k).selfHeld = true) (hnbr : nbr ↔ (s.tile k).nbrsIn (h.neighbours k) = true) :
    s.stepStatus k = word ((s.tile k).s +
      ((List.range 64).filter (fun i => bitAt (s.tile k).group i && !bitAt (s.tile k).shares i)).length * 2 ^ 32 +
      (if (s.tile k).unparked = 0 then 0 else 2 ^ 40) + (if nbr then 0 else 2 ^ 41) + (if self then 2 ^ 42 else 0)) := by
  have hmsg : bit (!(s.stepCond k).msg) * 2 ^ 40 = if (s.tile k).unparked = 0 then 0 else 2 ^ 40 := by
    rw [stepCond_eq hh, bit_not_mul]
    exact if_congr beq_iff_eq rfl rfl
  have hn : bit (!(s.stepCond k).nbr) * 2 ^ 41 = if nbr then 0 else 2 ^ 41 := by
    rw [stepCond_eq hh, bit_not_mul]
    exact if_congr hnbr.symm rfl rfl
  have hs : bit (s.stepCond k).selfHeld * 2 ^ 42 = if self then 2 ^ 42 else 0 := by
    rw [bit_mul]
    exact if_congr hself.symm rfl rfl
  unfold State.stepStatus
  dsimp only
  rw [hmsg, hn, hs, left_eq]

/-- Settles O39: STEP and HALLQ by outcome of their bodies, the entry by `mayEnter_iff`, `entered_tile` and `takeLanding_copies`,
the watchdog by `exec_stall_posts` and `exec_stall_waits`. -/
theorem stepsOfATile : Obligations.StepsOfATile := by
  unfold Obligations.StepsOfATile
  refine ⟨fun s gu la d a => ?_, fun s tl h hh hstop => ?_, fun s tl dir k h n hh hs hn => ?_, fun s tl h hh => ?_⟩
  · intro tl t st q hq busy
    refine ⟨fun hp => ⟨fun h => ?_, fun h hb => ?_, fun h hb hg => ?_, fun h hb hg => ?_⟩, fun hn k hk => ⟨fun h => ?_, fun h => ?_⟩,
      fun hn k hk => ⟨fun hb => ?_, fun hb h => ?_, fun hb h => ?_⟩, fun hp => ?_, fun hp => ?_, fun k h hh => ?_⟩
    · exact runs_trap hp.toIssues (stepBody_last hp.ready h)
    · exact runs_wait hp (stepBody_busy hp.ready h hb)
    · rw [← shareDone_member hg]
      exact runs_wait hp (stepBody_shares hp.ready h hb)
    · refine runs_wait hp ((stepBody_shares hp.ready h hb).trans ?_)
      rw [shareDone_stranger _ hg]
    · exact exec_step_over hn (by rw [hk]; exact nofun) (by rw [hk]; exact nofun) (stepBody_step hk) h
    · exact exec_step_waits hn (by rw [hk]; exact nofun) (by rw [hk]; exact nofun) hk ((stepBody_step hk).trans (stepWait_within h))
    · exact exec_step_waits hn (by rw [hk]; exact nofun) (by rw [hk]; exact nofun) hk (stepBody_share_busy hk hb)
    · refine exec_step_over hn (by rw [hk]; exact nofun) (by rw [hk]; exact nofun) ((stepBody_share_free hk hb).trans ?_) h
      rw [shareDone_left (Nat.ne_of_gt h)]
    · have hk' : (s.me.thr s.lv).hold = .share t.s := by rw [hk, h]
      have hbody : stepBody d s = .wait (s.shareDone t.s) (.step t.s) := (stepBody_share_free hk' hb).trans stepWait_shareDone
      obtain ⟨-, -, hmem, hs⟩ := shareDone_frame (s := s) t.s
      refine ⟨(s.shareDone t.s).updMe (fun c => c.park s.lv (.step t.s)), ?_, ?_, hmem, hs.trans h, shareDone_shares⟩
      · rw [exec_step_again hn (by rw [hk]; exact nofun) (by rw [hk]; exact nofun), hbody, settle_again_wait]
      · rw [hold_settled, hold_park, h]
    · refine runs_done hp (congrArg Res.done ?_)
      exact dst_plain hp (.head _) _
    · intro w h u
      have ea : s.src a = w := src_of_plain hp (.head _)
      rw [← ea]
      have hu : u = s.myHall.tileAt (fld (s.src a) 8 4) (fld (s.src a) 16 3) := by rw [ea]
      refine ⟨fun hb => runs_trap hp.toIssues (hallqBody_badTarget hp.ready hb), fun hb hw => ?_, fun hb hw => ?_⟩
      · rw [hu] at hw
        exact runs_trap hp.toIssues (hallqBody_dead hp.ready hb hw)
      · rw [hu] at hw
        intro p m e
        refine (runs_wait hp (hallqBody_asks hp.ready hb hw)).trans ?_
        rw [← hu]
        rfl
    · intro x left nbr dead self
      refine stepStatus_eq hh ?_ nbrsIn_iff.symm
      rw [selfHeld_iff hh, left_eq]
  · intro t k may due
    refine ⟨fun hno => exec_stepEntry_stays hh ?_, fun hmay hdue => ?_⟩
    · refine hno.imp (fun h => ?_) id
      exact Bool.eq_false_iff.mpr (mt (mayEnter_iff hh).mp h)
    · obtain ⟨vs, vr, htile⟩ := entered_tile (s := s) (h := h) (tl := tl) (k := k) tl
      rw [if_pos rfl] at htile
      refine ⟨s.entered h tl k, exec_stepEntry_enters hh hstop ((mayEnter_iff hh).mpr hmay) (Bool.eq_false_iff.mpr hdue), ?_, ?_, ?_, ?_, ?_,
        fun n hn hne hc => ?_, fun hg _ o ho => ?_, fun _ a ha => ?_, ?_, ?_, ?_⟩
      · rw [htile]
      · rw [htile]
      · rw [htile]
      · rw [htile]
      · rw [htile]
      · obtain ⟨vs, vr, hq⟩ := entered_tile (s := s) (h := h) (tl := tl) (k := k) n.2
        rw [if_neg hne.symm] at hq
        rw [hq]
        dsimp only
        rw [filter_of_countP_one hn hc]
        rfl
      · rw [entered_mem]
        exact takeLanding_copies hg ho
      · rw [entered_mem]
        exact takeLanding_other ha
      · rw [entered_mem]
        rfl
      · rw [entered_mem]
        rfl
      · rw [entered_mem]
        rfl
  · rw [exec_stepSignal hh hs hn]
    exact ⟨fun hw => congrArg _ (if_neg (not_not.mpr hw)), fun hw => congrArg _ (if_pos hw)⟩
  · intro t due u late r
    have hdue : s.stallDue h tl = true ↔ due := by
      unfold State.stallDue
      simp only [Bool.and_eq_true, Bool.not_eq_true', bne_iff_ne, decide_eq_true_eq]
      tauto
    exact ⟨fun hno => exec_stall_not hh (Bool.eq_false_iff.mpr (mt hdue.mp hno)),
      fun hd hl hlen hover => exec_stall_posts hh (hdue.mpr hd) hl hlen hover, fun hd hl => exec_stall_waits hh (hdue.mpr hd) hl⟩

end Sys2Proof
end

section
/-!
SUPPORT. Declaring, binding, changing, reading and freeing stream ends (R336, R337, R341 to R346).
-/

namespace Sys2Proof.Machine

open Sys2Proof

variable {s t : State} {gu : Guard} {d a b : Reg} {q k : BitVec 3} {u : Uses}

/-! ## Ports of a changed state -/

theorem port_locWrite (l : Loc) (n x r : Nat) : (s.locWrite l n x).me.port r = s.me.port r := by
  have hcur : (s.locWrite l n x).cur = s.cur := by rw [locWrite_eq, notify_eq]; rfl
  have h : (s.core s.cur).OnlyResults ((s.locWrite l n x).core s.cur) := locWrite_onlyResults l n x s.cur
  unfold State.me
  rw [hcur, h]
  rfl

theorem Core.port_setQ_unbound {c : Core} {r : Nat} (h : c.port r = none) (q : Nat) {y : QReg} (hy : y.st = .unbound) :
    (c.setQ q y).port r = none := by
  unfold Core.port at h ⊢
  have hlevel : (c.setQ q y).level = c.level := rfl
  rw [hlevel]
  split
  · next hr =>
    rw [if_pos hr] at h
    have hq : (c.qreg (r - 24)).st = .unbound := by
      dsimp only at h
      split at h
      · assumption
      · cases h
    dsimp only
    have hst : ((c.setQ q y).qreg (r - 24)).st = .unbound := by
      rw [Core.qreg_setQ]
      split
      · exact hy
      · exact hq
    exact if_pos hst
  · rfl

/-! ## SRING and SBIND.CONS -/

section
variable (hp : IssuesPlain s (streamUses gu [a.toNat, b.toNat] d q s))
include hp

theorem sring_busy (h : (s.me.qreg q.toNat).st ≠ .unbound) :
    Performs s (.sring gu d a b q) (streamUses gu [a.toNat, b.toNat] d q s) (s.wg d 4) :=
  runs_done hp ((if_pos h).trans (congrArg Res.done (dst_plain hp (.head _) _)))

theorem sring_badRing (h : (s.me.qreg q.toNat).st = .unbound) (hr : s.ringOf (s.rg a) (s.rg b) = none) :
    Performs s (.sring gu d a b q) (streamUses gu [a.toNat, b.toNat] d q s) (s.wg d 7) := by
  rw [← src_of_plain hp (.head _), ← src_of_plain hp (.tail _ (.head _))] at hr
  refine runs_done hp ((if_neg (not_not.mpr h)).trans ?_)
  rw [hr]
  exact congrArg Res.done (dst_plain hp (.head _) _)

theorem sring_declares (h : (s.me.qreg q.toNat).st = .unbound) {r : Nat × Nat} (hr : s.ringOf (s.rg a) (s.rg b) = some r) :
    Performs s (.sring gu d a b q) (streamUses gu [a.toNat, b.toNat] d q s)
      ((s.wg d 0).setMyQ q { s.me.qreg q.toNat with ring := some r }) := by
  rw [← src_of_plain hp (.head _), ← src_of_plain hp (.tail _ (.head _))] at hr
  refine runs_done hp ((if_neg (not_not.mpr h)).trans ?_)
  rw [hr, ← dst_plain hp (.head _)]
  rfl

end

/-- The gains that a waiting consumer captures are within their limits (R336). -/
def Core.gainsFit (c : Core) (n : Nat) (x : Word) : Bool :=
  gainsOk c.sgkp.toNat c.sgki.toNat c.sset.toNat n && decide (16 ≤ c.sper.toNat) && fld x 9 7 == 0 && fld x 25 39 == 0 &&
    decide (1 ≤ fld x 0 9) && decide (fld x 0 9 ≤ 256) && decide (1 ≤ fld x 16 9) && decide (fld x 16 9 ≤ 256)

theorem gainsFit_iff {c : Core} {n : Nat} {x : Word} : c.gainsFit n x = true ↔
    c.sgkp.toNat ≤ 64 ∧ c.sgki.toNat ≤ c.sgkp.toNat / 4 ∧ c.sset.toNat ≤ n ∧ 16 ≤ c.sper.toNat ∧ x.toNat / 2 ^ 9 % 2 ^ 7 = 0 ∧
      x.toNat / 2 ^ 25 = 0 ∧ 1 ≤ x.toNat % 2 ^ 9 ∧ x.toNat % 2 ^ 9 ≤ 256 ∧ 1 ≤ x.toNat / 2 ^ 16 % 2 ^ 9 ∧ x.toNat / 2 ^ 16 % 2 ^ 9 ≤ 256 := by
  unfold Core.gainsFit gainsOk
  rw [fld_top (x := x) 25 (by norm_num), fld_low]
  simp only [Bool.and_eq_true, decide_eq_true_eq, beq_iff_eq, and_assoc]
  rfl

/-- The consumer's end that waits for a producer (R343). -/
def QReg.waiting (y : QReg) (c : Core) (o n : Nat) (x : Word) : QReg :=
  { ring := y.ring, st := .waiting, base := o, slots := n, wp0 := fld x 0 9, wc0 := fld x 16 9, kp := c.sgkp.toNat, ki := c.sgki.toNat,
    setp := c.sset.toNat, per := c.sper.toNat }

/-- The state once HEAD and TAIL of a ring have been zeroed. -/
def State.zeroRing (s : State) (o : Nat) : State := (s.locWrite (.spad s.cur o) 8 0).locWrite (.spad s.cur (o + 8)) 8 0

/-- What SBIND.CONS does (R343). -/
def sbindConsBody (d b : Reg) (q : BitVec 3) (s : State) : Res :=
  if (s.me.qreg q.toNat).st ≠ .unbound then .done (s.dst d (streamStatus qBUSY 0))
  else
    match (s.me.qreg q.toNat).ring with
    | none => .done (s.dst d (streamStatus qNORING 0))
    | some (o, n) =>
      if !s.me.gainsFit n (s.src b) then .done (s.dst d (streamStatus qGAIN 0))
      else if s.pendingAt (.spad s.cur o) || s.scoreWaits (.spad s.cur o) 16 then .stall
      else .done (((s.zeroRing o).dst d 0).setMyQ q ((s.me.qreg q.toNat).waiting s.me o n (s.src b)))

theorem exec_sbindCons : exec (.sbindCons gu d b q) s = s.runs (streamUses gu [b.toNat] d q s) (sbindConsBody d b q) := rfl

section
variable (hp : IssuesPlain s (streamUses gu [b.toNat] d q s))
include hp

theorem sbindCons_busy (h : (s.me.qreg q.toNat).st ≠ .unbound) :
    Performs s (.sbindCons gu d b q) (streamUses gu [b.toNat] d q s) (s.wg d 4) :=
  runs_done hp ((if_pos h).trans (congrArg Res.done (dst_plain hp (.head _) _)))

variable (h : (s.me.qreg q.toNat).st = .unbound)
include h

theorem sbindCons_noRing (hr : (s.me.qreg q.toNat).ring = none) :
    Performs s (.sbindCons gu d b q) (streamUses gu [b.toNat] d q s) (s.wg d 5) := by
  rw [Performs, exec_sbindCons]
  refine runs_done hp ((if_neg (not_not.mpr h)).trans ?_)
  rw [hr]
  exact congrArg Res.done (dst_plain hp (.head _) _)

variable {o n : Nat} (hr : (s.me.qreg q.toNat).ring = some (o, n))
include hr

theorem sbindCons_gain (hg : s.me.gainsFit n (s.rg b) = false) :
    Performs s (.sbindCons gu d b q) (streamUses gu [b.toNat] d q s) (s.wg d 1) := by
  rw [← src_of_plain hp (.head _)] at hg
  rw [Performs, exec_sbindCons]
  refine runs_done hp ((if_neg (not_not.mpr h)).trans ?_)
  rw [hr]
  dsimp only
  rw [hg]
  exact congrArg Res.done (dst_plain hp (.head _) _)

variable (hg : s.me.gainsFit n (s.rg b) = true)
include hg

theorem sbindCons_stands (hw : (s.pendingAt (.spad s.cur o) || s.scoreWaits (.spad s.cur o) 16) = true) :
    StandsStill s (.sbindCons gu d b q) (streamUses gu [b.toNat] d q s) := by
  rw [← src_of_plain hp (.head _)] at hg
  rw [StandsStill, exec_sbindCons]
  refine runs_standsStill hp.toIssues rfl ((if_neg (not_not.mpr h)).trans ?_)
  rw [hr]
  dsimp only
  rw [hg]
  exact if_pos hw

theorem sbindCons_waits (hw : (s.pendingAt (.spad s.cur o) || s.scoreWaits (.spad s.cur o) 16) = false) :
    Performs s (.sbindCons gu d b q) (streamUses gu [b.toNat] d q s)
      (((s.zeroRing o).wg d 0).setMyQ q ((s.me.qreg q.toNat).waiting s.me o n (s.rg b))) := by
  have hport : (s.zeroRing o).me.port d.toNat = none :=
    (port_locWrite ..).trans ((port_locWrite ..).trans (port_none_of_noPort hp.noPort (List.mem_append_right _ (.head _))))
  rw [← src_of_plain hp (.head _)] at hg ⊢
  rw [Performs, exec_sbindCons]
  refine runs_done hp ((if_neg (not_not.mpr h)).trans ?_)
  rw [hr, ← dst_of_noPort hport]
  dsimp only
  rw [hg]
  exact if_neg (Bool.eq_false_iff.mp hw)

end

/-! ## SBIND.PROD -/

/-- The core that a target word names. -/
def State.boundCore (s : State) (x : Word) : Nat := s.myHall.tileAt (fld x 8 4) (fld x 16 3) * 64 + fld x 0 6

/-- What SBIND.PROD does (R343). -/
def sbindProdBody (d b : Reg) (q k : BitVec 3) (s : State) : Res :=
  if !targetOk s.myHall (s.src b) false true then .trap s tCONE (s.src b)
  else if (s.me.qreg q.toNat).st ≠ .unbound then .done (s.dst d (streamStatus qBUSY 0))
  else if s.boundCore (s.src b) = s.cur then .done (s.dst d (streamStatus qSELF 0))
  else if ((s.core (s.boundCore (s.src b))).qreg k.toNat).st ≠ .waiting then .done (s.dst d (streamStatus qNOPEER 0))
  else if s.wayBetween (tileOf s.cur) (tileOf (s.boundCore (s.src b))) = .dead then .done (s.dst d (streamStatus qDEADLINK 0))
  else if s.overGain (s.boundCore (s.src b), k.toNat) s.cur (s.boundCore (s.src b)) ((s.core (s.boundCore (s.src b))).qreg k.toNat).kp
    then .done (s.dst d (streamStatus qCYCLE 0))
  else .done ((s.dst d 0).bindEnds s.cur q.toNat (s.boundCore (s.src b)) k.toNat
    (if s.wayBetween (tileOf s.cur) (tileOf (s.boundCore (s.src b))) = .clear then .bound else .retrain))

theorem exec_sbindProd : exec (.sbindProd gu d b q k) s = s.runs (streamUses gu [b.toNat] d q s) (sbindProdBody d b q k) := rfl

section
variable (hp : IssuesPlain s (streamUses gu [b.toNat] d q s))
include hp

theorem sbindProd_cone (h : targetOk s.myHall (s.rg b) false true = false) :
    exec (.sbindProd gu d b q k) s = .next (s.trap tCONE (s.rg b)) := by
  rw [← src_of_plain hp (.head _)] at h ⊢
  rw [exec_sbindProd]
  refine runs_trap hp.toIssues (if_pos ?_)
  rw [h]
  rfl

variable (h : targetOk s.myHall (s.rg b) false true = true)
include h

/-- Past the check of its target, SBIND.PROD answers a status or binds. -/
theorem sbindProd_done {e : State} (he : (if (s.me.qreg q.toNat).st ≠ .unbound then Res.done (s.wg d 4)
    else if s.boundCore (s.rg b) = s.cur then .done (s.wg d 6)
    else if ((s.core (s.boundCore (s.rg b))).qreg k.toNat).st ≠ .waiting then .done (s.wg d 3)
    else if s.wayBetween (tileOf s.cur) (tileOf (s.boundCore (s.rg b))) = .dead then .done (s.wg d 8)
    else if s.overGain (s.boundCore (s.rg b), k.toNat) s.cur (s.boundCore (s.rg b)) ((s.core (s.boundCore (s.rg b))).qreg k.toNat).kp
      then .done (s.wg d 2)
    else .done ((s.wg d 0).bindEnds s.cur q.toNat (s.boundCore (s.rg b)) k.toNat
      (if s.wayBetween (tileOf s.cur) (tileOf (s.boundCore (s.rg b))) = .clear then .bound else .retrain))) = .done e) :
    Performs s (.sbindProd gu d b q k) (streamUses gu [b.toNat] d q s) e := by
  have hd (x : Word) : s.wg d x = s.dst d x := (dst_plain hp (.head _) x).symm
  simp only [hd] at he
  rw [← src_of_plain hp (.head _)] at h he
  rw [Performs, exec_sbindProd]
  refine runs_done hp ((if_neg ?_).trans he)
  rw [h]
  exact Bool.false_ne_true

end

theorem qreg_updQ_same (ck q : Nat) (f : QReg → QReg) : ((s.updQ ck q f).core ck).qreg q = f ((s.core ck).qreg q) := qreg_updQ f

theorem core_updQ_other {ck c : Nat} (h : ck ≠ c) (q : Nat) (f : QReg → QReg) : (s.updQ ck q f).core c = s.core c := by
  rw [State.updQ, State.updCore, State.core_setCore, if_neg h]

section
variable {p c i j : Nat} {st : QSt} (hpc : p ≠ c)
include hpc

/-- Both ends of a stream once it has been bound. -/
theorem bindEnds_ends : ((s.bindEnds p i c j st).core p).qreg i =
      ({ ring := ((s.core p).qreg i).ring, st := st, prod := true, peer := (c, j), credits := ((s.core c).qreg j).slots,
         weight := ((s.core c).qreg j).wp0 } : QReg) ∧
    ((s.bindEnds p i c j st).core c).qreg j = { (s.core c).qreg j with
      st := st, peer := (p, i), wp := ((s.core c).qreg j).wp0, wc := ((s.core c).qreg j).wc0, integ := 0, laste := 0,
      stall := false, count := 0 } := by
  unfold State.bindEnds
  dsimp only
  refine ⟨?_, ?_⟩
  · rw [qreg_updQ_same, core_updQ_other hpc.symm]
  · rw [core_updQ_other hpc, qreg_updQ_same]

end

theorem g_updQ (ck q : Nat) (f : QReg → QReg) (lv : Bool) (r : Nat) : ((s.updQ ck q f).me.g lv r) = s.me.g lv r := by
  change ((s.updQ ck q f).core s.cur).g lv r = _
  rw [State.updQ, State.updCore, State.core_setCore]
  split
  · next h => subst h; rfl
  · rfl

theorem lv_updQ (ck q : Nat) (f : QReg → QReg) : (s.updQ ck q f).lv = s.lv := by
  change ((s.updQ ck q f).core s.cur).level = _
  rw [State.updQ, State.updCore, State.core_setCore]
  split
  · next h => subst h; rfl
  · rfl

theorem rg_updQ (ck q : Nat) (f : QReg → QReg) (r : Reg) : (s.updQ ck q f).rg r = s.rg r := by
  rw [State.rg, lv_updQ, g_updQ]
  rfl

theorem Core.qreg_setG (c : Core) (lv : Bool) (r : Nat) (x : Word) (q : Nat) : (c.setG lv r x).qreg q = c.qreg q := by
  unfold Core.setG
  split
  · rfl
  split
  · cases lv <;> rfl
  · rfl

theorem qreg_wg (x : Word) (ck q : Nat) : ((s.wg d x).core ck).qreg q = (s.core ck).qreg q := by
  rw [State.wg, State.updMe, State.updCore, State.core_setCore]
  split
  · next h => subst h; exact Core.qreg_setG ..
  · rfl

/-! ## Rings and gains -/

theorem ringOf_own {a n : Word} (h : a.toNat / 2 ^ 48 = 0xFF00) : s.ringOf a n =
    if a.toNat % 2 ^ 48 % 16 ≠ 0 ∨ n.toNat < 2 ∨ 4096 < n.toNat ∨ spadSize < a.toNat % 2 ^ 48 + 16 + 8 * n.toNat then none
    else if s.overBarrier (.spad s.cur (a.toNat % 2 ^ 48)) (16 + 8 * n.toNat) then none
    else some (a.toNat % 2 ^ 48, n.toNat) := by
  have hown : ownSpad s.cur a = some (a.toNat % 2 ^ 48) := if_pos h
  unfold State.ringOf
  rw [hown]

section
variable {skip : Nat × Nat} {p c kp g : Nat} (hpc : p ≠ c)
include hpc

theorem overGain_of_no_edges (h : s.edges skip = []) : s.overGain skip p c kp = false := by
  unfold State.overGain
  rw [h]
  simp [heaviest, hpc.symm]

theorem overGain_of_edge_back (h : s.edges skip = [(c, p, g)]) : s.overGain skip p c kp = decide (96 < g + kp) := by
  unfold State.overGain
  rw [h]
  simp [heaviest, hpc.symm, hpc, maxPath]

end

/-! ## SGAIN -/

theorem consEnd_eq : s.consEnd q = if (s.me.qreg q.toNat).prod then (s.me.qreg q.toNat).peer else (s.cur, q.toNat) := rfl

theorem live_iff {st : QSt} : st.live = true ↔ st = .bound ∨ st = .retrain := by cases st <;> simp [QSt.live]

/-- The end of a stream whose gains SGAIN sets. -/
def State.gainEnd (s : State) (q : BitVec 3) : QReg := (s.core (s.consEnd q).1).qreg (s.consEnd q).2

/-- What SGAIN does (R344). -/
def sgainBody (d b : Reg) (q : BitVec 3) (s : State) : Res :=
  if (s.me.qreg q.toNat).st = .unbound then .trap s tSTREAM (streamVal 1 q.toNat)
  else if !(s.me.qreg q.toNat).st.live then .done (s.dst d (streamStatus qBUSY 0))
  else if fld (s.src b) 32 32 ≠ 0 ∨ !gainsOk (fld (s.src b) 0 8) (fld (s.src b) 8 8) (fld (s.src b) 16 16) (s.gainEnd q).slots
    then .done (s.dst d (streamStatus qGAIN 0))
  else if s.overGain (s.consEnd q) (s.gainEnd q).peer.1 (s.consEnd q).1 (fld (s.src b) 0 8) then .done (s.dst d (streamStatus qCYCLE 0))
  else .done ((s.dst d 0).updQ (s.consEnd q).1 (s.consEnd q).2
    (fun z => { z with kp := fld (s.src b) 0 8, ki := fld (s.src b) 8 8, setp := fld (s.src b) 16 16 }))

theorem exec_sgain : exec (.sgain gu d b q) s = s.runs (streamUses gu [b.toNat] d q s) (sgainBody d b q) := rfl

section
variable (hp : IssuesPlain s (streamUses gu [b.toNat] d q s))
include hp

theorem sgain_unbound (h : (s.me.qreg q.toNat).st = .unbound) :
    exec (.sgain gu d b q) s = .next (s.trap tSTREAM (streamVal 1 q.toNat)) := by
  rw [exec_sgain]
  exact runs_trap hp.toIssues (if_pos h)

variable (h : (s.me.qreg q.toNat).st ≠ .unbound)
include h

/-- At a bound end SGAIN answers a status or sets the gains. -/
theorem sgain_done {e : State} (he : (if !(s.me.qreg q.toNat).st.live then Res.done (s.wg d 4)
    else if fld (s.rg b) 32 32 ≠ 0 ∨ !gainsOk (fld (s.rg b) 0 8) (fld (s.rg b) 8 8) (fld (s.rg b) 16 16) (s.gainEnd q).slots
      then .done (s.wg d 1)
    else if s.overGain (s.consEnd q) (s.gainEnd q).peer.1 (s.consEnd q).1 (fld (s.rg b) 0 8) then .done (s.wg d 2)
    else .done ((s.wg d 0).updQ (s.consEnd q).1 (s.consEnd q).2
      (fun z => { z with kp := fld (s.rg b) 0 8, ki := fld (s.rg b) 8 8, setp := fld (s.rg b) 16 16 }))) = .done e) :
    Performs s (.sgain gu d b q) (streamUses gu [b.toNat] d q s) e := by
  have hd (x : Word) : s.wg d x = s.dst d x := (dst_plain hp (.head _) x).symm
  simp only [hd] at he
  rw [← src_of_plain hp (.head _)] at he
  rw [Performs, exec_sgain]
  exact runs_done hp ((if_neg h).trans he)

end

theorem gainsOk_iff {kp ki sp n : Nat} : gainsOk kp ki sp n = true ↔ kp ≤ 64 ∧ ki ≤ kp / 4 ∧ sp ≤ n := by
  simp only [gainsOk, Bool.and_eq_true, decide_eq_true_eq, and_assoc]

/-! ## SSTAT -/

/-- What SSTAT declares. -/
def statUses (gu : Guard) (d : Reg) (q : BitVec 3) (sel : BitVec 2) (s : State) : Uses :=
  { streamUses gu [] d q s with illegal := s.lv || sel == 3 }

section
variable {sel : BitVec 2} (hp : IssuesPlain s (statUses gu d q sel s))
include hp

theorem sstat_unbound (h : (s.me.qreg q.toNat).st = .unbound) :
    exec (.sstat gu d q sel) s = .next (s.trap tSTREAM (streamVal 1 q.toNat)) :=
  runs_trap hp.toIssues (if_pos h)

theorem sstat_reads (h : (s.me.qreg q.toNat).st ≠ .unbound) : Performs s (.sstat gu d q sel) (statUses gu d q sel s)
    (State.wg { s with ctr := s.ctr + 1 } d ((s.gainEnd q).statWord sel.toNat (Config.freeValue s.ctr))) := by
  have hport : ({ s with ctr := s.ctr + 1 } : State).me.port d.toNat = none :=
    port_none_of_noPort (c := s.me) hp.noPort (List.mem_append_right _ (.head _))
  rw [← dst_of_noPort hport]
  exact runs_done hp (if_neg h)

end

theorem code_lt (st : QSt) : st.code < 16 := by cases st <;> decide

/-- The fields of SSTAT's word 0 (R345). -/
theorem statWord_zero (z : QReg) (free : Word) : (z.statWord 0 free).toNat % 2 ^ 4 = z.st.code % 2 ^ 4 ∧
    (z.st ≠ .waiting → z.wp ≤ 256 → z.wc ≤ 256 → (z.statWord 0 free).toNat / 2 ^ 23 % 2 ^ 9 = z.wp ∧
      (z.statWord 0 free).toNat / 2 ^ 14 % 2 ^ 9 = z.wc ∧
      (z.statWord 0 free).toNat / 2 ^ 32 % 2 ^ 16 = (BitVec.ofInt 16 z.laste).toNat ∧
      (z.statWord 0 free).toNat / 2 ^ 48 = (BitVec.ofInt 16 z.integ).toNat) := by
  have hcode := code_lt z.st
  have hi := (BitVec.ofInt 16 z.integ).isLt
  have hl := (BitVec.ofInt 16 z.laste).isLt
  by_cases hw : z.st = .waiting
  · have hword : z.statWord 0 free = word (free.toNat / 2 ^ 14 * 2 ^ 14 + z.st.code) := if_pos hw
    refine ⟨?_, fun h => absurd hw h⟩
    rw [hword, word, BitVec.toNat_ofNat]
    omega
  · have hword : z.statWord 0 free = word ((BitVec.ofInt 16 z.integ).toNat * 2 ^ 48 + (BitVec.ofInt 16 z.laste).toNat * 2 ^ 32 +
        z.wp * 2 ^ 23 + z.wc * 2 ^ 14 + z.st.code) := if_neg hw
    rw [hword, word, BitVec.toNat_ofNat]
    refine ⟨by omega, fun _ hwp hwc => ?_⟩
    have hsum : (BitVec.ofInt 16 z.integ).toNat * 2 ^ 48 + (BitVec.ofInt 16 z.laste).toNat * 2 ^ 32 + z.wp * 2 ^ 23 +
        z.wc * 2 ^ 14 + z.st.code < 2 ^ 64 := by omega
    rw [Nat.mod_eq_of_lt hsum]
    omega

theorem statWord_one {z : QReg} (free : Word) (hf : z.full < 2 ^ 32) (he : z.empty < 2 ^ 32) :
    (z.statWord 1 free).toNat = z.empty * 2 ^ 32 + z.full := by
  have hword : z.statWord 1 free = word (z.empty * 2 ^ 32 + z.full) := rfl
  rw [hword, word, BitVec.toNat_ofNat]
  exact Nat.mod_eq_of_lt (by omega)

theorem statWord_two {z : QReg} (free : Word) (h : z.tail - z.head < 2 ^ 16) :
    (z.statWord 2 free).toNat = z.samples % 2 ^ 32 * 2 ^ 32 + (z.tail - z.head) := by
  have hword : z.statWord 2 free = word (z.samples % 2 ^ 32 * 2 ^ 32 + (z.tail - z.head)) := rfl
  rw [hword, word, BitVec.toNat_ofNat]
  exact Nat.mod_eq_of_lt (by omega)

/-! ## SUNBIND -/

/-- A push is on its way to the other end. -/
def State.pushTo (s : State) (e : Nat × Nat) : Prop := ∃ m ∈ s.qflight, m.core = e.1 ∧ m.q = e.2 ∧ ∃ x, m.msg = .push x

theorem isPush_iff {m : QMsg} : m.isPush = true ↔ ∃ x, m = .push x := by cases m <;> simp [QMsg.isPush]

theorem pushTo_iff {e : Nat × Nat} : s.qflight.any (fun m => m.isFor e && m.msg.isPush) = true ↔ s.pushTo e := by
  simp only [List.any_eq_true, Bool.and_eq_true, QFlight.isFor, beq_iff_eq, isPush_iff, and_assoc]
  rfl

/-- What SUNBIND does (R346). -/
def sunbindBody (d : Reg) (q : BitVec 3) (s : State) : Res :=
  let y := s.me.qreg q.toNat
  if y.st = .unbound then .trap s tSTREAM (streamVal 1 q.toNat)
  else if y.prod then
    if y.st = .dead then .done ((s.freeQ q).dst d 0)
    else if y.st = .retrain ∨ s.qflight.any (fun m => m.isFor y.peer && m.msg.isPush) then .wait s .issued
    else .done (((s.freeQ q).updQ y.peer.1 y.peer.2 (fun z => { z with st := .closed })).dst d 0)
  else if y.st.live then .done (s.dst d (streamStatus qBUSY 0))
  else .done ((s.freeQ q).dst d (streamStatus 0 (y.tail - y.head)))

theorem exec_sunbind : exec (.sunbind gu d q) s = s.runs (streamUses gu [] d q s) (sunbindBody d q) := rfl

theorem port_freeQ {r : Nat} (h : s.me.port r = none) : (s.freeQ q).me.port r = none := by
  have hme : (s.freeQ q).me = s.me.setQ q.toNat { ring := (s.me.qreg q.toNat).ring } :=
    s.me_updMe (fun c => c.setQ q.toNat { ring := (s.me.qreg q.toNat).ring })
  rw [hme]
  exact Core.port_setQ_unbound h _ rfl

theorem port_updQ_other {ck : Nat} (h : ck ≠ s.cur) (i r : Nat) (f : QReg → QReg) : (s.updQ ck i f).me.port r = s.me.port r := by
  change ((s.updQ ck i f).core s.cur).port r = _
  rw [core_updQ_other h]
  rfl

section
variable (hp : IssuesPlain s (streamUses gu [] d q s))
include hp

theorem sunbind_unbound (h : (s.me.qreg q.toNat).st = .unbound) :
    exec (.sunbind gu d q) s = .next (s.trap tSTREAM (streamVal 1 q.toNat)) :=
  runs_trap hp.toIssues (if_pos h)

variable (h : (s.me.qreg q.toNat).st ≠ .unbound)
include h

section
variable (hprod : (s.me.qreg q.toNat).prod = true)
include hprod

theorem sunbind_dead (hd : (s.me.qreg q.toNat).st = .dead) :
    Performs s (.sunbind gu d q) (streamUses gu [] d q s) ((s.freeQ q).wg d 0) := by
  rw [← dst_of_noPort (port_freeQ (port_none_of_noPort hp.noPort (List.mem_append_right _ (.head _))))]
  exact runs_done hp ((if_neg h).trans ((if_pos hprod).trans (if_pos hd)))

variable (hd : (s.me.qreg q.toNat).st ≠ .dead)
include hd

theorem sunbind_waits (hw : (s.me.qreg q.toNat).st = .retrain ∨ s.pushTo (s.me.qreg q.toNat).peer) :
    Waits s (.sunbind gu d q) (streamUses gu [] d q s) s .issued :=
  runs_wait hp ((if_neg h).trans ((if_pos hprod).trans ((if_neg hd).trans (if_pos (hw.imp_right pushTo_iff.mpr)))))

theorem sunbind_closes (hr : (s.me.qreg q.toNat).st ≠ .retrain) (hw : ¬s.pushTo (s.me.qreg q.toNat).peer)
    (hc : (s.me.qreg q.toNat).peer.1 ≠ s.cur) : Performs s (.sunbind gu d q) (streamUses gu [] d q s)
      (((s.freeQ q).updQ (s.me.qreg q.toNat).peer.1 (s.me.qreg q.toNat).peer.2 (fun z => { z with st := .closed })).wg d 0) := by
  have hport := port_freeQ (q := q) (port_none_of_noPort hp.noPort (List.mem_append_right _ (.head _)))
  rw [← dst_of_noPort ((port_updQ_other (s := s.freeQ q) hc ..).trans hport)]
  refine runs_done hp ((if_neg h).trans ((if_pos hprod).trans ((if_neg hd).trans (if_neg ?_))))
  rintro (h' | h')
  · exact hr h'
  · exact hw (pushTo_iff.mp h')

end

section
variable (hcons : (s.me.qreg q.toNat).prod = false)
include hcons

theorem sunbind_busy (hl : (s.me.qreg q.toNat).st.live = true) :
    Performs s (.sunbind gu d q) (streamUses gu [] d q s) (s.wg d 4) := by
  rw [← dst_plain hp (.head _)]
  exact runs_done hp ((if_neg h).trans ((if_neg (Bool.eq_false_iff.mp hcons)).trans (if_pos hl)))

theorem sunbind_frees (hl : (s.me.qreg q.toNat).st.live = false) : Performs s (.sunbind gu d q) (streamUses gu [] d q s)
    ((s.freeQ q).wg d (word (((s.me.qreg q.toNat).tail - (s.me.qreg q.toNat).head) % 2 ^ 32 * 2 ^ 32))) := by
  have hstatus (n : Nat) : word (n % 2 ^ 32 * 2 ^ 32) = streamStatus 0 n := by rw [streamStatus, Nat.zero_add]
  rw [hstatus, ← dst_of_noPort (port_freeQ (port_none_of_noPort hp.noPort (List.mem_append_right _ (.head _))))]
  exact runs_done hp ((if_neg h).trans ((if_neg (Bool.eq_false_iff.mp hcons)).trans (if_neg (Bool.eq_false_iff.mp hl))))

end
end

end Sys2Proof.Machine
end

section
/-!
PROOFS. Stream ends (O41).
-/

namespace Sys2Proof

open Sys2Proof.Machine

variable {s : State}

/-- Settles O41: each instruction by outcome (`sring_declares`, `sbindCons_waits`, `sbindProd_done`, `sgain_done`, `sstat_reads`,
`sunbind_frees`), the ends of a stream by `bindEnds_ends`, the limit of gains by `overGain_of_edge_back`. -/
theorem streamEnds : Obligations.StreamEnds := by
  unfold Obligations.StreamEnds
  refine ⟨⟨fun s gu d a b q k => ?_, fun s a n ha => ?_, fun s skip p c kp g hpc => ⟨overGain_of_no_edges hpc, overGain_of_edge_back hpc⟩⟩,
    fun s gu d b q sel => ?_⟩
  · intro y u set_ ring_ bind_ x
    refine ⟨fun hp => ⟨sring_busy hp, sring_badRing hp, fun h r hr => sring_declares hp h hr⟩, fun hp => ?_, fun hp => ?_⟩
    · intro c
      refine ⟨sbindCons_busy hp, sbindCons_noRing hp, fun h o n hr => ?_⟩
      intro wp wc ok
      refine ⟨fun hno => sbindCons_gain hp h hr (Bool.eq_false_iff.mpr (mt gainsFit_iff.mp hno)), ?_⟩
      intro l
      refine ⟨fun hok hw => sbindCons_stands hp h hr (gainsFit_iff.mpr hok) ?_, fun hok hpend hover hturn => ?_⟩
      · rw [State.scoreWaits, Bool.or_eq_true, Bool.or_eq_true]
        exact hw
      · have hfree : (s.pendingAt (.spad s.cur o) || s.scoreWaits (.spad s.cur o) 16) = false := by
          rw [show s.pendingAt (.spad s.cur o) = false from hpend, scoreWaits_eq_false hover hturn]
          rfl
        intro t
        have hwp : wp = fld x 0 9 := (fld_low x 9).symm
        rw [hwp]
        exact sbindCons_waits hp h hr (gainsFit_iff.mpr hok) hfree
    · intro h i ck z way
      refine ⟨sbindProd_cone hp, fun ht => ⟨fun h1 => ?_, fun h1 h2 => ?_, fun h1 h2 h3 => ?_, fun h1 h2 h3 h4 => ?_, fun h1 h2 h3 h4 h5 => ?_,
        fun h1 h2 h3 h4 h5 => ?_⟩⟩
      · exact sbindProd_done hp ht (if_pos h1)
      · exact sbindProd_done hp ht ((if_neg (not_not.mpr h1)).trans (if_pos h2))
      · exact sbindProd_done hp ht ((if_neg (not_not.mpr h1)).trans ((if_neg h2).trans (if_pos h3)))
      · exact sbindProd_done hp ht ((if_neg (not_not.mpr h1)).trans ((if_neg h2).trans ((if_neg (not_not.mpr h3)).trans (if_pos h4))))
      · exact sbindProd_done hp ht ((if_neg (not_not.mpr h1)).trans ((if_neg h2).trans ((if_neg (not_not.mpr h3)).trans
          ((if_neg h4).trans (if_pos h5)))))
      · intro st
        obtain ⟨hprod, hcons⟩ := bindEnds_ends (s := s.wg d 0) (p := s.cur) (c := ck) (i := q.toNat) (j := k.toNat) (st := st) (Ne.symm h2)
        rw [qreg_wg, qreg_wg] at hprod
        rw [qreg_wg] at hcons
        refine ⟨(s.wg d 0).bindEnds s.cur q.toNat ck k.toNat st, sbindProd_done hp ht ((if_neg (not_not.mpr h1)).trans
          ((if_neg h2).trans ((if_neg (not_not.mpr h3)).trans ((if_neg h4).trans (if_neg (Bool.eq_false_iff.mp h5)))))), ?_, rfl, hprod, hcons⟩
        rw [State.bindEnds, rg_updQ, rg_updQ, rg_wg, ite_self]
  · intro o sound
    rw [ringOf_own ha]
    refine ⟨fun h => ?_, fun h => ?_⟩
    · obtain ⟨h1, h2, h3, h4, h5⟩ := h
      rw [if_neg (by unfold spadSize; omega)]
      exact if_neg (Bool.eq_false_iff.mp h5)
    · split
      · rfl
      · next hno =>
        refine if_pos ?_
        by_contra hb
        unfold spadSize at hno
        exact h ⟨by omega, by omega, by omega, by omega, Bool.eq_false_iff.mpr hb⟩
  · intro y u e z stat
    have hval : streamVal 1 q.toNat = word (0x100 + q.toNat) := rfl
    refine ⟨fun h => ⟨fun hp => ?_, fun hp => ?_, fun hp => ?_⟩, fun h hp => ?_, fun h hp => ?_, fun h hp => ?_⟩
    · rw [← hval]
      exact sgain_unbound hp h
    · rw [← hval]
      exact sstat_unbound hp h
    · rw [← hval]
      exact sunbind_unbound hp h
    · intro x kp ki sp live ok
      have hkp : kp = fld (s.rg b) 0 8 := (fld_low (s.rg b) 8).symm
      have hok : ¬(fld (s.rg b) 32 32 ≠ 0 ∨ (!gainsOk (fld (s.rg b) 0 8) (fld (s.rg b) 8 8) (fld (s.rg b) 16 16) (s.gainEnd q).slots) = true) ↔
          ok := by
        rw [not_or, not_not, Bool.not_eq_true', Bool.not_eq_false, gainsOk_iff, fld_top (x := s.rg b) 32 (by norm_num), ← hkp]
        rfl
      rw [hkp]
      refine ⟨fun hl => sgain_done hp h (if_pos ?_), fun hl hno => sgain_done hp h ((if_neg ?_).trans (if_pos ?_)),
        fun hl hyes ho => sgain_done hp h ((if_neg ?_).trans ((if_neg (hok.mpr hyes)).trans (if_pos ho))),
        fun hl hyes ho => sgain_done hp h ((if_neg ?_).trans ((if_neg (hok.mpr hyes)).trans (if_neg (Bool.eq_false_iff.mp ho))))⟩
      · rw [Bool.not_eq_true', ← Bool.not_eq_true, live_iff]
        exact hl
      · rw [Bool.not_eq_true', Bool.not_eq_false, live_iff]
        exact hl
      · exact not_not.mp (mt hok.mp hno)
      · rw [Bool.not_eq_true', Bool.not_eq_false, live_iff]
        exact hl
      · rw [Bool.not_eq_true', Bool.not_eq_false, live_iff]
        exact hl
    · refine ⟨_, sstat_reads hp h, ?_, ?_, ?_⟩
      · rintro rfl
        exact statWord_zero z _
      · rintro rfl hf he
        exact statWord_one _ hf he
      · rintro rfl ht
        exact statWord_two _ ht
    · intro i pushed
      refine ⟨sunbind_dead hp h, sunbind_waits hp h, sunbind_closes hp h, fun hc hl => sunbind_busy hp h hc (live_iff.mpr hl),
        fun hc hb hr => sunbind_frees hp h hc ?_⟩
      rw [Bool.eq_false_iff, ne_eq, live_iff]
      rintro (h' | h')
      · exact hb h'
      · exact hr h'

end Sys2Proof
end

section
/-!
SUPPORT. Dropping and pinning translations, and what a reply of the service core does to threads, engines and members
(R405, R416, R417).
-/

namespace Sys2Proof.Machine

open Sys2Proof

variable {s t : State}

/-! ## Dropping entries of the bays in scope -/

theorem SMap.get_mapKey {α : Type} {d : α} {g : Nat → α → α} (hd : ∀ k, g k d = d) (m : SMap α) (k : Nat) :
    SMap.get d (m.map (fun e => (e.1, g e.1 e.2))) k = g k (SMap.get d m k) := by
  induction m with
  | nil => exact (hd k).symm
  | cons e m ih =>
    rw [List.map_cons, SMap.get, SMap.get]
    by_cases he : e.1 = k
    · rw [if_pos he, if_pos he, he]
    · rw [if_neg he, if_neg he, ih]

/-- A bay in scope loses the entries named, and another bay none (R417). -/
theorem bay_tlbDrop (scope : Nat) (p : TlbEnt → Bool) (k : Nat) :
    (s.tlbDrop scope p).bay k =
      if inScope s.cur scope k then
        { s.bay k with vlt := (s.bay k).vlt.filter (fun e => !p e), mft := (s.bay k).mft.filter (fun e => !p e),
                       cet := (s.bay k).cet.filter (fun e => !p e), ift := (s.bay k).ift.filter (fun e => !p e) }
      else s.bay k := by
  refine SMap.get_mapKey (d := ({} : Bay)) (g := fun k b => if inScope s.cur scope k then
    { b with vlt := b.vlt.filter (fun e => !p e), mft := b.mft.filter (fun e => !p e),
             cet := b.cet.filter (fun e => !p e), ift := b.ift.filter (fun e => !p e) } else b) ?_ s.bays k
  intro q
  split <;> rfl

theorem tlbinvBody_wait {scope : Nat} {p : TlbEnt → Bool}
    (h : s.unreleased = true ∨ ∃ e ∈ s.bays, inScope s.cur scope e.1 = true ∧ s.usesEntry e.1 (e.2.dropping p) = true) :
    tlbinvBody scope p s = .wait s .issued := by
  unfold tlbinvBody
  by_cases hu : s.unreleased = true
  · rw [if_pos hu]
  · rw [if_neg hu, if_pos (by simpa using h.resolve_left hu)]

theorem tlbinvBody_done {scope : Nat} {p : TlbEnt → Bool} (hu : s.unreleased = false)
    (h : ¬∃ e ∈ s.bays, inScope s.cur scope e.1 = true ∧ s.usesEntry e.1 (e.2.dropping p) = true) :
    tlbinvBody scope p s = .done (s.tlbDrop scope p) := by
  unfold tlbinvBody
  rw [if_neg (by simp [hu]), if_neg (by simpa using h)]

/-- The three forms of TLBINV that drop entries differ in the entries that they name. -/
theorem exec_tlbinv {i : Instr} {a : Reg} {scope : BitVec 3} {names : TlbEnt → Bool} (hp : IssuesPlain s (tlbinvUses a))
    (hi : (i = .tlbinvPage a scope ∧ names = fun e => e.maps s.myHall.asid (s.rg a).toNat) ∨
      (i = .tlbinvAsid a scope ∧ names = fun e => !e.g && e.asid == (s.rg a).toNat % 2 ^ 12) ∨
      (i = .tlbinvAll a scope ∧ names = fun _ => true)) :
    ∃ body, exec i s = s.runs (tlbinvUses a) body ∧ body s = tlbinvBody scope.toNat names s := by
  have ha : s.src a = s.rg a := src_of_plain hp List.mem_cons_self
  rcases hi with ⟨rfl, rfl⟩ | ⟨rfl, rfl⟩ | ⟨rfl, rfl⟩
  · refine ⟨_, rfl, ?_⟩
    rw [ha]
  · refine ⟨_, rfl, ?_⟩
    rw [ha, fld_low]
  · exact ⟨_, rfl, rfl⟩

/-! ## Pins -/

theorem length_pinned_unpinOldest (l : List TlbEnt) :
    ((unpinOldest l).filter (fun x => x.pinned)).length = (l.filter (fun x => x.pinned)).length - 1 := by
  induction l with
  | nil => rfl
  | cons e l ih =>
    unfold unpinOldest
    by_cases h : l.any (fun x => x.pinned) = true
    · have hpos : 0 < (l.filter (fun x => x.pinned)).length := by
        obtain ⟨x, hx, hxp⟩ := List.any_eq_true.mp h
        exact List.length_pos_of_mem (List.mem_filter.mpr ⟨hx, hxp⟩)
      rw [if_pos h, List.filter_cons, List.filter_cons]
      split
      · rw [List.length_cons, List.length_cons, ih]
        omega
      · exact ih
    · have hnil : l.filter (fun x => x.pinned) = [] := by
        rw [List.filter_eq_nil_iff]
        intro x hx hxp
        exact h (List.any_eq_true.mpr ⟨x, hx, hxp⟩)
      rw [if_neg h, List.filter_cons, List.filter_cons, hnil, if_neg (by simp)]
      split <;> rfl

/-- A pin leaves at most eight pins where there were at most eight (R412). -/
theorem length_pinned_pinEntry {asid va : Nat} {l : List TlbEnt} {e : TlbEnt}
    (he : l.find? (fun e => e.maps asid va) = some e) (hl : (l.filter (fun e => e.pinned)).length ≤ 8) :
    ((pinEntry asid va l).filter (fun e => e.pinned)).length ≤ 8 := by
  have hrest : ((l.filter (fun x => x != e)).filter (fun x => x.pinned)).length ≤ 8 := by
    refine le_trans ?_ hl
    exact (List.filter_sublist.filter _).length_le
  unfold pinEntry
  rw [he]
  dsimp only
  rw [List.filter_cons, if_pos rfl, List.length_cons]
  split
  · rw [length_pinned_unpinOldest]
    omega
  · next h =>
    have : pinCap = 8 := rfl
    omega

/-! ## The thread that a RETRY lets go on -/

/-- A thread after a RETRY: at the access it stood at, or at TPC; one of another message is as it was (R405, R416). -/
def Thread.retried (th : Thread) (tpc : Word) : Thread :=
  match th.hold with
  | .page _ _ _ _ => { th with hold := th.back }
  | .service false _ _ => { th with hold := .ready, pc := tpc }
  | _ => th

theorem Core.setThr_self (c : Core) (lv : Bool) : c.setThr lv (c.thr lv) = c := by
  cases lv <;> rfl

theorem core_replyThread_retry (ck k : Nat) (lv : Bool) :
    (s.replyThread ck lv true).core k =
      if k = ck then (s.core ck).setThr lv (((s.core ck).thr lv).retried (s.core ck).tpc) else s.core k := by
  have hself : s.core k = if k = ck then (s.core ck).setThr lv ((s.core ck).thr lv) else s.core k := by
    split
    · next e => rw [Core.setThr_self, e]
    · rfl
  have hupd (f : Core → Core) : (s.updCore ck f).core k = if k = ck then f (s.core ck) else s.core k := by
    rw [State.updCore, State.core_setCore]
    exact ite_congr (propext eq_comm) (fun _ => rfl) (fun _ => rfl)
  unfold State.replyThread Thread.retried
  generalize ((s.core ck).thr lv).hold = hold
  cases hold with
  | page va acc why pin => exact hupd (fun c => c.goBack lv)
  | service dbl code v =>
    cases dbl with
    | false =>
      refine (hupd (fun c => (c.setPc lv c.tpc).setHold lv .ready)).trans ?_
      unfold Core.setHold Core.setPc
      dsimp only
      rw [Core.thr_setThr, Core.setThr_setThr]
    | true => exact (cancelHall_core ..).trans hself
  | _ => exact hself

/-! ## What replies leave of the machine -/

/-- Where the hall of a core begins, and the trap PC of each core, are the same, and so are the memories. -/
structure State.SamePosts (s t : State) : Prop where
  mem : t.mem = s.mem
  tpc : ∀ k, (t.core k).tpc = (s.core k).tpc
  ox : ∀ k, (t.hallOfCore k).ox = (s.hallOfCore k).ox
  oy : ∀ k, (t.hallOfCore k).oy = (s.hallOfCore k).oy

theorem State.SamePosts.refl (s : State) : s.SamePosts s := ⟨rfl, fun _ => rfl, fun _ => rfl, fun _ => rfl⟩

theorem State.SamePosts.trans {u : State} (h : s.SamePosts t) (h' : t.SamePosts u) : s.SamePosts u :=
  ⟨h'.mem.trans h.mem, fun k => (h'.tpc k).trans (h.tpc k), fun k => (h'.ox k).trans (h.ox k), fun k => (h'.oy k).trans (h.oy k)⟩

theorem find?_updFirst_origin (q h : Nat) {f : Hall → Hall} (hid : ∀ x, (f x).id = x.id)
    (hf : ∀ x, (f x).ox = x.ox ∧ (f x).oy = x.oy) (l : List Hall) :
    ((updFirst (fun x => x.id == h) f l).find? (fun x => x.id == q)).map (fun x => (x.ox, x.oy)) =
      (l.find? (fun x => x.id == q)).map (fun x => (x.ox, x.oy)) := by
  induction l with
  | nil => rfl
  | cons x l ih =>
    unfold updFirst
    by_cases hx : (x.id == h) = true
    · rw [if_pos hx, List.find?_cons, List.find?_cons, hid]
      split
      · exact congrArg some (Prod.ext (hf x).1 (hf x).2)
      · rfl
    · rw [if_neg hx, List.find?_cons, List.find?_cons]
      split
      · rfl
      · exact ih

theorem getD_origin {o o' : Option Hall} (h : o.map (fun x => (x.ox, x.oy)) = o'.map (fun x => (x.ox, x.oy))) :
    (o.getD {}).ox = (o'.getD {}).ox ∧ (o.getD {}).oy = (o'.getD {}).oy := by
  cases o with
  | none => cases o' with
    | none => exact ⟨rfl, rfl⟩
    | some => cases h
  | some x => cases o' with
    | none => cases h
    | some y =>
      have he := Option.some.inj h
      exact ⟨congrArg Prod.fst he, congrArg Prod.snd he⟩

theorem updHall_samePosts (h : Nat) {f : Hall → Hall} (hid : ∀ x, (f x).id = x.id)
    (hf : ∀ x, (f x).ox = x.ox ∧ (f x).oy = x.oy) : s.SamePosts (s.updHall h f) := by
  have ho (k : Nat) : ((s.updHall h f).hallOfCore k).ox = (s.hallOfCore k).ox ∧
      ((s.updHall h f).hallOfCore k).oy = (s.hallOfCore k).oy := by
    refine getD_origin ?_
    change Option.map _ (match (s.tile (tileOf k)).hall with | none => none | some q => (s.updHall h f).hall? q) =
      Option.map _ (match (s.tile (tileOf k)).hall with | none => none | some q => s.hall? q)
    cases (s.tile (tileOf k)).hall with
    | none => rfl
    | some q => exact find?_updFirst_origin q h hid hf _
  exact ⟨rfl, fun _ => rfl, fun k => (ho k).1, fun k => (ho k).2⟩

theorem cancelHall_samePosts (h : Nat) : s.SamePosts (s.cancelHall h) := by
  unfold State.cancelHall
  split
  · exact .refl s
  split
  · split
    · exact updHall_samePosts h (fun _ => rfl) (fun _ => ⟨rfl, rfl⟩)
    · exact (updHall_samePosts (s := s) h (f := fun x => { x with stop := .cancel }) (fun _ => rfl) (fun _ => ⟨rfl, rfl⟩)).trans
        ⟨rfl, fun _ => rfl, fun _ => rfl, fun _ => rfl⟩
  · exact updHall_samePosts h (fun _ => rfl) (fun _ => ⟨rfl, rfl⟩)

theorem updCore_samePosts {ck : Nat} {f : Core → Core} (h : (f (s.core ck)).tpc = (s.core ck).tpc) :
    s.SamePosts (s.updCore ck f) := by
  refine ⟨rfl, fun k => ?_, fun _ => rfl, fun _ => rfl⟩
  rw [State.updCore, State.core_setCore]
  split
  · next e => rw [h, e]
  · rfl

theorem replyThread_samePosts (ck : Nat) (lv : Bool) : s.SamePosts (s.replyThread ck lv true) := by
  unfold State.replyThread
  split
  · rw [if_pos rfl]
    exact updCore_samePosts (by cases lv <;> rfl)
  · split
    · exact updCore_samePosts (by cases lv <;> rfl)
    · exact cancelHall_samePosts _
  · exact .refl s

/-- The bays and the members of collectives are the same. -/
structure State.SameEngines (s t : State) : Prop where
  bays : t.bays = s.bays
  members : t.fes.members = s.fes.members

theorem State.SameEngines.refl (s : State) : s.SameEngines s := ⟨rfl, rfl⟩

theorem State.SameEngines.trans {u : State} (h : s.SameEngines t) (h' : t.SameEngines u) : s.SameEngines u :=
  ⟨h'.bays.trans h.bays, h'.members.trans h.members⟩

theorem cancelHall_sameEngines (h : Nat) : s.SameEngines (s.cancelHall h) := by
  unfold State.cancelHall
  split
  · exact .refl s
  split
  · split <;> exact ⟨rfl, rfl⟩
  · exact ⟨rfl, rfl⟩

theorem postHandler_sameEngines {ck sender : Nat} {r : HRec} (h : s.postHandler ck sender r = some t) : s.SameEngines t := by
  unfold State.postHandler at h
  dsimp only at h
  split at h
  · cases h
  split at h
  · cases h
    exact ⟨rfl, rfl⟩
  split at h
  · cases h
    refine ⟨?_, ?_⟩
    · rw [State.putRec, notify_eq]
      rfl
    · rw [State.putRec, fes_notify rfl]
      rfl
  · cases h

theorem postTrap_sameEngines (ck : Nat) (lv dbl : Bool) (code : Nat) (frame : Word) :
    s.SameEngines (s.postTrap ck lv dbl code frame) := by
  have hb : s.SameEngines (s.updCore ck (fun c => c.setHold lv (.service dbl code frame))) := ⟨rfl, rfl⟩
  unfold State.postTrap
  dsimp only
  split
  · exact ⟨rfl, rfl⟩
  split
  · next hp =>
    refine hb.trans ?_
    unfold State.postService at hp
    split at hp
    · cases hp
    split at hp
    · next hs => cases hp; exact postHandler_sameEngines hs
    · cases hp
  · exact ⟨rfl, rfl⟩
  · exact hb.trans (cancelHall_sameEngines _)

theorem trapEntry_sameEngines (ck : Nat) (lv : Bool) (code : Nat) (tval : Word) (fetch : Bool) :
    s.SameEngines (s.trapEntry ck lv code tval fetch) := by
  unfold State.trapEntry
  dsimp only
  split
  · exact postTrap_sameEngines _ _ _ _ _
  split
  · refine .trans ?_ (postTrap_sameEngines _ _ _ _ _)
    exact ⟨rfl, rfl⟩
  · exact ⟨rfl, rfl⟩

theorem takeTrap_sameEngines (ck : Nat) (lv : Bool) : s.SameEngines (s.takeTrap ck lv) := by
  unfold State.takeTrap
  dsimp only
  split
  · split
    · exact .refl s
    · exact trapEntry_sameEngines _ _ _ _ _
  · exact .refl s

theorem replyThread_sameEngines (ck : Nat) (lv retry : Bool) : s.SameEngines (s.replyThread ck lv retry) := by
  unfold State.replyThread
  split
  · split
    · exact ⟨rfl, rfl⟩
    split
    · exact ⟨rfl, rfl⟩
    · refine .trans ?_ (takeTrap_sameEngines _ _)
      exact ⟨rfl, rfl⟩
  · split
    · exact ⟨rfl, rfl⟩
    · exact cancelHall_sameEngines _
  · exact .refl s

/-! ## A reply, thread by thread -/

/-- A thread gets the reply where the message it waits for is the one that is answered (R416). -/
def State.answerThread (s : State) (tidx page : Nat) (retry : Bool) (ck : Nat) (lv : Bool) : State :=
  if matchesReply tidx page (s.waitTidx ck lv) then s.replyThread ck lv retry else s

/-- The two threads of each core get the reply, core after core (R416). -/
def State.answerThreads (s : State) (tidx page : Nat) (retry : Bool) : State :=
  s.cores.foldl (fun s e => (s.answerThread tidx page retry e.1 false).answerThread tidx page retry e.1 true) s

theorem answerThread_samePosts (tidx page ck : Nat) (lv : Bool) : s.SamePosts (s.answerThread tidx page true ck lv) := by
  unfold State.answerThread
  split
  · exact replyThread_samePosts ck lv
  · exact .refl s

theorem answerThread_sameEngines (tidx page ck : Nat) (retry lv : Bool) :
    s.SameEngines (s.answerThread tidx page retry ck lv) := by
  unfold State.answerThread
  split
  · exact replyThread_sameEngines ck lv retry
  · exact .refl s

theorem answerThreads_sameEngines (tidx page : Nat) (retry : Bool) : s.SameEngines (s.answerThreads tidx page retry) :=
  foldl_keeps (fun t => s.SameEngines t)
    (fun _ _ h => (h.trans (answerThread_sameEngines ..)).trans (answerThread_sameEngines ..)) _ (.refl s)

theorem answerThreads_samePosts (tidx page : Nat) : s.SamePosts (s.answerThreads tidx page true) :=
  foldl_keeps (fun t => s.SamePosts t)
    (fun _ _ h => (h.trans (answerThread_samePosts ..)).trans (answerThread_samePosts ..)) _ (.refl s)

/-- Is a thread, in the state it has in `s`, the one a reply answers? The TIDX of its message names its core's place in its
hall, and what it waits for (R414). -/
def State.namesThread (s : State) (tidx page ck : Nat) (lv : Bool) (th : Thread) : Bool :=
  let h := s.hallOfCore ck
  match th.hold with
  | .page va acc why _ =>
    msgTidx h msgPage acc.toNat (bit lv) (tileOf ck) (coreIdx ck) why.toNat 0 == tidx && va.toNat % 2 ^ 52 / 2 ^ 16 == page
  | .service dbl cause _ => msgTidx h (if dbl then msgDouble else msgTrap) 0 (bit lv) (tileOf ck) (coreIdx ck) 0 cause == tidx
  | _ => false

theorem matchesReply_waitTidx (tidx page ck : Nat) (lv : Bool) :
    matchesReply tidx page (s.waitTidx ck lv) = s.namesThread tidx page ck lv ((s.core ck).thr lv) := by
  unfold State.waitTidx State.namesThread
  dsimp only
  cases ((s.core ck).thr lv).hold <;> rfl

theorem State.SamePosts.namesThread (h : s.SamePosts t) (tidx page ck : Nat) (lv : Bool) (th : Thread) :
    t.namesThread tidx page ck lv th = s.namesThread tidx page ck lv th := by
  have hm (kind acc unit core reason cause : Nat) : msgTidx (t.hallOfCore ck) kind acc unit (tileOf ck) core reason cause =
      msgTidx (s.hallOfCore ck) kind acc unit (tileOf ck) core reason cause := by
    unfold msgTidx Hall.x Hall.y
    rw [h.ox, h.oy]
  unfold State.namesThread
  dsimp only
  split
  · rw [hm]
  · rw [hm]
  · rfl

/-- The message of a page fault and the message of a trap of one thread differ in their TIDX (R414). -/
theorem msgTidx_page_ne (h : Hall) (acc why : BitVec 2) (unit tile core cause : Nat) :
    msgTidx h msgPage acc.toNat unit tile core why.toNat 0 ≠ msgTidx h msgTrap 0 unit tile core 0 cause := by
  unfold msgTidx
  have hp : msgPage = 1 := rfl
  have ht : msgTrap = 2 := rfl
  have := acc.isLt
  have := why.isLt
  omega

/-- What a thread is after a reply of RETRY to `tidx`. -/
def State.retriedThread (s : State) (tidx page ck : Nat) (lv : Bool) : Thread :=
  let th := (s.core ck).thr lv
  if s.namesThread tidx page ck lv th then th.retried (s.core ck).tpc else th

/-- A thread that has been let go on is not changed by the same reply: what it was doing before a page fault is no other
message with that TIDX. -/
theorem retried_retriedThread {tidx page ck : Nat} {lv : Bool}
    (hn : s.namesThread tidx page ck lv (s.retriedThread tidx page ck lv) = true) :
    (s.retriedThread tidx page ck lv).retried (s.core ck).tpc = s.retriedThread tidx page ck lv := by
  unfold State.retriedThread at hn ⊢
  dsimp only at hn ⊢
  by_cases ho : s.namesThread tidx page ck lv ((s.core ck).thr lv) = true
  case neg => exact absurd (by rwa [if_neg ho] at hn) ho
  rw [if_pos ho] at hn ⊢
  generalize (s.core ck).thr lv = th at hn ho ⊢
  generalize (s.core ck).tpc = tpc at hn ⊢
  cases hh : th.hold with
  | page va acc why pin =>
    have hr : th.retried tpc = { th with hold := th.back } := by
      unfold Thread.retried
      rw [hh]
    rw [hr] at hn ⊢
    unfold Thread.retried
    dsimp only
    split
    · rfl
    · next cause _ hb =>
      refine absurd ?_ (msgTidx_page_ne (s.hallOfCore ck) acc why (bit lv) (tileOf ck) (coreIdx ck) cause)
      unfold State.namesThread at hn ho
      dsimp only at hn ho
      rw [hb] at hn
      rw [hh] at ho
      have ho' := (Bool.and_eq_true_iff.mp ho).1
      exact (beq_iff_eq.mp ho').trans (beq_iff_eq.mp hn).symm
    · rfl
  | service dbl code v =>
    cases dbl with
    | false =>
      have hr : th.retried tpc = { th with hold := .ready, pc := tpc } := by
        unfold Thread.retried
        rw [hh]
      rw [hr]
      rfl
    | true =>
      have hr : th.retried tpc = th := by
        unfold Thread.retried
        rw [hh]
      rw [hr, hr]
  | _ =>
    have hr : th.retried tpc = th := by
      unfold Thread.retried
      rw [hh]
    rw [hr, hr]

/-- In the middle of a reply a thread is as it was, or as the reply leaves it. -/
structure State.Retrying (s : State) (tidx page : Nat) (t : State) : Prop where
  posts : s.SamePosts t
  thr : ∀ k lv, (t.core k).thr lv = (s.core k).thr lv ∨ (t.core k).thr lv = s.retriedThread tidx page k lv

/-- The thread that gets the reply is as the reply leaves it, and no other thread changes. -/
theorem State.Retrying.thr_answerThread {tidx page : Nat} (h : s.Retrying tidx page t) (ck k : Nat) (lv lv' : Bool) :
    ((t.answerThread tidx page true ck lv).core k).thr lv' =
      if k = ck ∧ lv' = lv then s.retriedThread tidx page ck lv else (t.core k).thr lv' := by
  have hkeep (hn : s.namesThread tidx page ck lv ((t.core ck).thr lv) = false) : (t.core k).thr lv' =
      if k = ck ∧ lv' = lv then s.retriedThread tidx page ck lv else (t.core k).thr lv' := by
    split
    case isFalse => rfl
    case isTrue e =>
    obtain ⟨rfl, rfl⟩ := e
    rcases h.thr k lv' with ho | ho
    · rw [ho] at hn ⊢
      unfold State.retriedThread
      dsimp only
      rw [if_neg (by rw [hn]; decide)]
    · exact ho
  unfold State.answerThread
  rw [matchesReply_waitTidx, h.posts.namesThread]
  by_cases hn : s.namesThread tidx page ck lv ((t.core ck).thr lv) = true
  case neg =>
    rw [if_neg hn]
    exact hkeep (Bool.not_eq_true _ ▸ hn)
  rw [if_pos hn, core_replyThread_retry]
  have hth : ((t.core ck).thr lv).retried (t.core ck).tpc = s.retriedThread tidx page ck lv := by
    rw [h.posts.tpc]
    rcases h.thr ck lv with ho | ho
    · rw [ho] at hn ⊢
      unfold State.retriedThread
      dsimp only
      rw [if_pos hn]
    · rw [ho] at hn ⊢
      exact retried_retriedThread hn
  by_cases hk : k = ck
  · rw [if_pos hk, hth]
    by_cases hl : lv' = lv
    · rw [if_pos ⟨hk, hl⟩, hl, Core.thr_setThr]
    · rw [if_neg (fun e => hl e.2), Core.thr_setThr_ne _ hl, hk]
  · rw [if_neg hk, if_neg (fun e => hk e.1)]

theorem State.Retrying.answerThread {tidx page : Nat} (h : s.Retrying tidx page t) (ck : Nat) (lv : Bool) :
    s.Retrying tidx page (t.answerThread tidx page true ck lv) := by
  refine ⟨h.posts.trans (answerThread_samePosts ..), fun k lv' => ?_⟩
  rw [h.thr_answerThread]
  split
  · next e => exact .inr (by rw [e.1, e.2])
  · exact h.thr k lv'

/-- A thread of a core whose turn has come is as the reply leaves it, and stays so. -/
theorem State.Retrying.foldl {tidx page : Nat} (l : SMap Core) {k : Nat} {lv : Bool} (h : s.Retrying tidx page t)
    (hk : (∃ e ∈ l, e.1 = k) ∨ (t.core k).thr lv = s.retriedThread tidx page k lv) :
    ((l.foldl (fun s e => (s.answerThread tidx page true e.1 false).answerThread tidx page true e.1 true) t).core k).thr lv =
      s.retriedThread tidx page k lv := by
  induction l generalizing t with
  | nil => exact hk.resolve_left (by simp)
  | cons e l ih =>
    refine ih ((h.answerThread e.1 false).answerThread e.1 true) ?_
    have hthr : ((((t.answerThread tidx page true e.1 false).answerThread tidx page true e.1 true).core k).thr lv) =
        if k = e.1 then s.retriedThread tidx page k lv else (t.core k).thr lv := by
      rw [(h.answerThread e.1 false).thr_answerThread, h.thr_answerThread]
      by_cases hke : k = e.1
      · subst hke
        cases lv <;> simp
      · simp [hke]
    rw [hthr]
    by_cases hke : k = e.1
    · exact .inr (if_pos hke)
    · rw [if_neg hke]
      refine hk.imp_left ?_
      rintro ⟨q, hq, hqk⟩
      exact ⟨q, (List.mem_cons.mp hq).resolve_left (fun e' => hke (by rw [← hqk, e'])), hqk⟩

/-- Each thread after a reply of RETRY. -/
theorem thr_answerThreads (tidx page k : Nat) (lv : Bool) :
    ((s.answerThreads tidx page true).core k).thr lv = s.retriedThread tidx page k lv := by
  refine State.Retrying.foldl s.cores ⟨.refl s, fun _ _ => .inl rfl⟩ ?_
  rcases SMap.get_default_or_mem ({} : Core) s.cores k with hd | hm
  · refine .inr ?_
    have hc : s.core k = {} := hd
    unfold State.retriedThread
    rw [hc]
    cases lv <;> rfl
  · exact .inl ⟨_, hm, rfl⟩

/-! ## A thread that is aborted -/

theorem replyThread_abort {ck : Nat} {lv : Bool} {va : Word} {acc why : BitVec 2}
    (hh : ((s.core ck).thr lv).hold = .page va acc why false) :
    s.replyThread ck lv false = (s.updCore ck (fun c => c.latchTrap lv tREFUSED va (acc == 2))).takeTrap ck lv := by
  unfold State.replyThread
  rw [hh]
  rfl

theorem takeTrap_latched {ck : Nat} {lv : Bool} {code : Nat} {v : Word} {fetch : Bool} :
    (s.updCore ck (fun c => c.latchTrap lv code v fetch)).takeTrap ck lv =
      if ((s.core ck).latchTrap lv code v fetch).owes lv || (s.core ck).level != lv then
        s.setCore ck ((s.core ck).latchTrap lv code v fetch)
      else (s.setCore ck ((s.core ck).latchTrap lv code v fetch)).trapEntry ck lv code v fetch := by
  unfold State.takeTrap State.updCore
  dsimp only
  rw [State.core_setCore_same, Core.latchTrap_thr]
  dsimp only
  have hl : ((s.core ck).latchTrap lv code v fetch).level = (s.core ck).level := by rw [Core.latchTrap_rest]
  rw [hl]

theorem owes_latchTrap {c : Core} {lv : Bool} (code : Nat) (v : Word) (fetch : Bool) (hp : ∀ p ∈ c.pend, p.lv ≠ lv) :
    (c.latchTrap lv code v fetch).owes lv = false := by
  unfold Core.owes
  rw [Core.latchTrap_rest, List.any_eq_false]
  intro p hmem
  obtain ⟨q, hq, rfl⟩ := List.mem_map.mp hmem
  have := hp q hq
  split <;> simp [this]

end Sys2Proof.Machine
end

section
/-!
PROOFS. O44: WFE, TLBINV, and the replies to faults.
-/

namespace Sys2Proof

open Machine

variable {s : State}

/-! ## WFE -/

theorem performs_wfe (hp : IssuesPlain s { blocking := true, nomask := true }) (h : s.lv = true ∨ s.me.latch = true) :
    Performs s .wfe { blocking := true, nomask := true } (s.updMe (fun c => { c with latch := false })) :=
  runs_done hp (if_pos (Bool.or_eq_true_iff.mpr h))

theorem waits_wfe (hp : IssuesPlain s { blocking := true, nomask := true }) (hl : s.lv = false) (hm : s.me.latch = false) :
    Waits s .wfe { blocking := true, nomask := true } s .wfe :=
  runs_wait hp (if_neg (by rw [hl, hm]; decide))

theorem exec_wfeWake (ck : Nat) :
    exec (.wfeWake ck) s = .next (s.setCore ck
      (if (s.core ck).lv0.hold = .wfe then { (s.core ck).resume false ((s.core ck).lv0.pc + 4) with latch := false }
       else s.core ck)) := by
  refine congrArg (fun c => (Host.Outcome.next (s.setCore ck c) : Out)) ?_
  by_cases h : (s.core ck).lv0.hold = .wfe
  · rw [if_pos h]
    exact if_pos (beq_iff_eq.mpr h)
  · rw [if_neg h]
    exact if_neg (by simpa using h)

/-! ## TLBINV -/

theorem waits_tlbinv {i : Instr} {a : Reg} {scope : BitVec 3} {names : TlbEnt → Bool} (hp : IssuesPlain s (tlbinvUses a))
    (hi : (i = .tlbinvPage a scope ∧ names = fun e => e.maps s.myHall.asid (s.rg a).toNat) ∨
      (i = .tlbinvAsid a scope ∧ names = fun e => !e.g && e.asid == (s.rg a).toNat % 2 ^ 12) ∨
      (i = .tlbinvAll a scope ∧ names = fun _ => true))
    (h : s.unreleased = true ∨
      ∃ e ∈ s.bays, inScope s.cur scope.toNat e.1 = true ∧ s.usesEntry e.1 (e.2.dropping names) = true) :
    Waits s i (tlbinvUses a) s .issued := by
  obtain ⟨body, hexec, hbody⟩ := exec_tlbinv hp hi
  exact hexec.trans (runs_wait hp (hbody.trans (tlbinvBody_wait h)))

theorem performs_tlbinv {i : Instr} {a : Reg} {scope : BitVec 3} {names : TlbEnt → Bool} (hp : IssuesPlain s (tlbinvUses a))
    (hi : (i = .tlbinvPage a scope ∧ names = fun e => e.maps s.myHall.asid (s.rg a).toNat) ∨
      (i = .tlbinvAsid a scope ∧ names = fun e => !e.g && e.asid == (s.rg a).toNat % 2 ^ 12) ∨
      (i = .tlbinvAll a scope ∧ names = fun _ => true)) (hu : s.unreleased = false)
    (h : ¬∃ e ∈ s.bays, inScope s.cur scope.toNat e.1 = true ∧ s.usesEntry e.1 (e.2.dropping names) = true) :
    Performs s i (tlbinvUses a) (s.tlbDrop scope.toNat names) := by
  obtain ⟨body, hexec, hbody⟩ := exec_tlbinv hp hi
  exact hexec.trans (runs_done hp (hbody.trans (tlbinvBody_done hu h)))

/-- What a drop leaves of a bay, list by list. -/
theorem bay_tlbDrop_lists (scope : Nat) (p : TlbEnt → Bool) (k : Nat) :
    let drop := fun (l : List TlbEnt) => if inScope s.cur scope k then l.filter (fun x => !p x) else l
    (s.tlbDrop scope p).bay k = { s.bay k with vlt := drop (s.bay k).vlt, mft := drop (s.bay k).mft, cet := drop (s.bay k).cet,
                                               ift := drop (s.bay k).ift } := by
  rw [bay_tlbDrop]
  dsimp only
  split <;> rfl

section
variable {a : Reg} (scope : BitVec 3)

theorem waits_tlbinvPin (hp : IssuesPlain s (tlbinvUses a)) (hu : s.unreleased = true) :
    Waits s (.tlbinvPin a scope) (tlbinvUses a) s .issued :=
  runs_wait hp (if_pos hu)

theorem exec_tlbinvPin_aperture (hp : IssuesPlain s (tlbinvUses a)) (hu : s.unreleased = false)
    (hg : inGlobal (s.rg a) = false) : exec (.tlbinvPin a scope) s = .next (s.trap tAPERTURE (s.rg a)) := by
  have ha : s.src a = s.rg a := src_of_plain hp List.mem_cons_self
  refine runs_trap hp.toIssues ?_
  unfold pinBody
  dsimp only
  rw [if_neg (by rw [hu]; decide), ha, if_pos (by rw [hg]; rfl)]

theorem performs_tlbinvPin (hp : IssuesPlain s (tlbinvUses a)) (hu : s.unreleased = false) (hg : inGlobal (s.rg a) = true)
    {pa : Nat} {t : State}
    (ht : s.translate (bayOf s.cur) .ift s.rqst s.myHall.asid (s.rg a).toNat 2 s.me.pv = (.phys pa, t)) :
    Performs s (.tlbinvPin a scope) (tlbinvUses a) (t.setBay (bayOf s.cur) { t.bay (bayOf s.cur) with
      ift := pinEntry s.myHall.asid (s.rg a).toNat (t.bay (bayOf s.cur)).ift }) := by
  have ha : s.src a = s.rg a := src_of_plain hp List.mem_cons_self
  refine runs_done hp ?_
  unfold pinBody
  dsimp only
  rw [if_neg (by rw [hu]; decide), ha, if_neg (by rw [hg]; decide), ht]
  rfl

end

theorem mem_pinEntry {asid va : Nat} {l : List TlbEnt} {e : TlbEnt} (he : l.find? (fun e => e.maps asid va) = some e) :
    { e with pinned := true } ∈ pinEntry asid va l := by
  unfold pinEntry
  rw [he]
  exact List.mem_cons_self

theorem inScope_cases (ck bk : Nat) :
    inScope ck 0 bk = false ∧ inScope ck 1 bk = decide (bk = bayOf ck) ∧ inScope ck 2 bk = decide (bk / 8 = tileOf ck) ∧
    inScope ck 3 bk = decide (dieOf (bk / 8) = dieOf (tileOf ck) ∧ quadOf (bk / 8) = quadOf (tileOf ck)) ∧
    inScope ck 4 bk = decide (dieOf (bk / 8) = dieOf (tileOf ck)) ∧ inScope ck 5 bk = true :=
  ⟨rfl, rfl, rfl, (Bool.decide_and _ _).symm, rfl, rfl⟩

/-! ## Replies -/

/-- A reply lets the threads go on, and then the engines and the members. -/
theorem exec_reply (tidx : BitVec 32) (rva : Word) (retry : Bool) :
    exec (if retry then .rcmdRetry tidx rva else .rcmdAbort tidx rva) s = .next (s.reply tidx.toNat rva retry) := by
  cases retry <;> rfl

theorem core_reply (tidx : Nat) (rva : Word) (retry : Bool) (k : Nat) :
    (s.reply tidx rva retry).core k = (s.answerThreads tidx (pageOf rva) retry).core k := rfl

theorem mem_reply (tidx : Nat) (rva : Word) : (s.reply tidx rva true).mem = s.mem :=
  (answerThreads_samePosts (s := s) tidx (pageOf rva)).mem

/-- The engines' waits that a reply names end, and after an ABORT the engines stop (R416). -/
theorem bay_reply (tidx : Nat) (rva : Word) (retry : Bool) (k : Nat) :
    (s.reply tidx rva retry).bay k = { s.bay k with
      copies := (s.bay k).copies.map (fun (c : Copy) =>
        if engineMatches tidx (pageOf rva) c.wait then { c with wait := none, abort := !retry } else c)
      jobs := (s.bay k).jobs.map (fun (j : Job) =>
        if engineMatches tidx (pageOf rva) j.wait then { j with wait := none, stop := if retry then j.stop else some jPAGE }
        else j) } := by
  refine Eq.trans ?_ (SMap.get_map (d := ({} : Bay)) (g := fun b => { b with
    copies := b.copies.map (fun (c : Copy) =>
      if engineMatches tidx (pageOf rva) c.wait then { c with wait := none, abort := !retry } else c)
    jobs := b.jobs.map (fun (j : Job) =>
      if engineMatches tidx (pageOf rva) j.wait then { j with wait := none, stop := if retry then j.stop else some jPAGE }
      else j) }) rfl s.bays k)
  rw [← (answerThreads_sameEngines (s := s) tidx (pageOf rva) retry).bays]
  rfl

theorem members_reply (tidx : Nat) (rva : Word) (retry : Bool) :
    (s.reply tidx rva retry).fes.members = s.fes.members.map (fun m => m.replied tidx (pageOf rva) retry) :=
  congrArg _ (answerThreads_sameEngines (s := s) tidx (pageOf rva) retry).members

theorem thr_reply_retry (tidx : Nat) (rva : Word) (ck : Nat) (lv : Bool) :
    ((s.reply tidx rva true).core ck).thr lv =
      if matchesReply tidx (pageOf rva) (s.waitTidx ck lv) then ((s.core ck).thr lv).retried (s.core ck).tpc
      else (s.core ck).thr lv := by
  rw [core_reply, thr_answerThreads, matchesReply_waitTidx]
  rfl

theorem replyThread_abort_lower {ck : Nat} {lv : Bool} {va : Word} {acc why : BitVec 2}
    (hh : ((s.core ck).thr lv).hold = .page va acc why false) (hl : (s.core ck).level ≠ lv) :
    s.replyThread ck lv false = s.setCore ck ((s.core ck).latchTrap lv tREFUSED va (acc == 2)) := by
  rw [replyThread_abort hh, takeTrap_latched, if_pos (by simp [hl])]

/-- The ABORT of a page fault traps REFUSED at the level that runs (R404, R416). -/
theorem replyThread_abort_traps {ck : Nat} {lv : Bool} {va : Word} {acc why : BitVec 2}
    (hh : ((s.core ck).thr lv).hold = .page va acc why false) (hl : (s.core ck).level = lv)
    (hp : ∀ p ∈ (s.core ck).pend, p.lv ≠ lv) (ht : (s.core ck).tBit = false) (hv : (s.core ck).tvec.toNat / 4 ≠ 0) :
    (s.replyThread ck lv false).core ck =
      (((s.core ck).latchTrap lv tREFUSED va (acc == 2)).noteTrap lv tREFUSED va (acc == 2)).enterHandler lv := by
  have hrest := Core.latchTrap_rest (s.core ck) lv tREFUSED va (acc == 2)
  rw [replyThread_abort hh, takeTrap_latched, if_neg (by simp [owes_latchTrap _ _ _ hp, hl]),
    trapEntry_handler lv _ _ _ (by rw [State.core_setCore_same, hrest, ht]) (by rw [State.core_setCore_same, hrest]; exact hv),
    State.core_setCore_same, State.core_setCore_same]

theorem replyThread_abort_handler {ck : Nat} {lv : Bool} {va : Word} {acc why : BitVec 2}
    (hh : ((s.core ck).thr lv).hold = .page va acc why false) (hl : (s.core ck).level = lv)
    (hp : ∀ p ∈ (s.core ck).pend, p.lv ≠ lv) (ht : (s.core ck).tBit = false) (hv : (s.core ck).tvec.toNat / 4 ≠ 0) :
    let t := s.replyThread ck lv false
    (t.core ck).tval = va ∧ (t.core ck).tBit = true ∧ (t.core ck).tpc = (((s.core ck).thr lv).pc &&& ~~~3) ∧
    (t.core ck).tcause = word (9 + (if acc = 2 then 256 else 0) + (if lv then 512 else 0)) ∧
    ((t.core ck).thr lv).pc = ((s.core ck).tvec &&& ~~~3) := by
  dsimp only
  rw [replyThread_abort_traps hh hl hp ht hv]
  generalize hd : ((s.core ck).latchTrap lv tREFUSED va (acc == 2)).noteTrap lv tREFUSED va (acc == 2) = d
  obtain ⟨htb, -, -, -, -, hpc, -, -, -, -, -, -, htpc, htval, htcause⟩ := enterHandler_core (lv := lv) d
  rw [htval, htb, htpc, htcause, hpc, ← hd]
  refine ⟨rfl, rfl, ?_, ?_, ?_⟩
  · change (((s.core ck).latchTrap lv tREFUSED va (acc == 2)).thr lv).pc &&& ~~~3 = _
    rw [Core.latchTrap_thr]
  · refine (causeWord_eq lv tREFUSED (acc == 2)).trans ?_
    simp only [beq_iff_eq]
    rfl
  · change ((s.core ck).latchTrap lv tREFUSED va (acc == 2)).tvec &&& ~~~3 = _
    rw [Core.latchTrap_rest]

theorem thr_pinAborted (c : Core) (lv : Bool) (lim : Nat) :
    ((c.pinAborted lv lim).thr lv).hold = .ready ∧ ((c.pinAborted lv lim).thr lv).pc = (c.thr lv).pc + 4 := by
  unfold Core.pinAborted
  cases lv <;> exact ⟨rfl, rfl⟩

/-- The ABORT of the page fault of a pin ends the instruction (R417). -/
theorem thr_replyThread_pin {ck : Nat} {lv : Bool} {va : Word} {acc why : BitVec 2}
    (hh : ((s.core ck).thr lv).hold = .page va acc why true) :
    (((s.replyThread ck lv false).core ck).thr lv).hold = .ready ∧
      (((s.replyThread ck lv false).core ck).thr lv).pc = ((s.core ck).thr lv).pc + 4 := by
  have h : s.replyThread ck lv false = s.updCore ck (fun c => c.pinAborted lv s.ctr) := by
    unfold State.replyThread
    rw [hh]
    rfl
  rw [h, State.updCore, State.core_setCore_same]
  exact thr_pinAborted _ _ _

theorem replyThread_cancels {ck : Nat} {lv dbl retry : Bool} {code : Nat} {v : Word}
    (hh : ((s.core ck).thr lv).hold = .service dbl code v) (h : dbl = true ∨ retry = false) :
    s.replyThread ck lv retry = s.cancelHall (s.hallOfCore ck).id := by
  unfold State.replyThread
  rw [hh]
  refine if_neg ?_
  rcases h with rfl | rfl <;> simp

/-- Settles O44: each instruction by the cases of its body, a reply of RETRY by following each thread through the reply's turn
over the cores, and one of ABORT by the trap of the thread that waits. -/
theorem waitingInvalidatingAndReplies : Obligations.WaitingInvalidatingAndReplies := by
  refine ⟨⟨?wfe, ?tlbinv, ?pin, ?pins, fun ck bk => inScope_cases ck bk⟩, ?retry, ?engines, ?lower, ?same, ?pinned, ?cancel⟩
  case wfe =>
    intro s ck
    dsimp only
    refine ⟨performs_wfe, waits_wfe, fun h => ?_, fun h => ?_⟩
    · rw [exec_wfeWake, if_pos h]
    · rw [exec_wfeWake, if_neg h]
  case tlbinv =>
    intro s i a scope names
    dsimp only
    intro hi hp
    refine ⟨waits_tlbinv hp hi, fun hu h => ⟨_, performs_tlbinv hp hi hu h, rfl, bay_tlbDrop_lists scope.toNat names⟩⟩
  case pin =>
    intro s a scope hp
    exact ⟨waits_tlbinvPin scope hp, exec_tlbinvPin_aperture scope hp, fun hu hg pa t => performs_tlbinvPin scope hp hu hg⟩
  case pins => exact fun asid va l e he => ⟨mem_pinEntry he, length_pinned_pinEntry he⟩
  case retry =>
    intro s tidx rva
    refine ⟨_, rfl, mem_reply tidx.toNat rva, fun ck lv => ?_⟩
    dsimp only
    rw [thr_reply_retry]
    refine ⟨fun hn => if_neg (by rw [hn]; decide), fun va acc why pin hn hh => ?_, fun code v hn hh => ?_⟩
    · rw [if_pos hn, Thread.retried, hh]
    · rw [if_pos hn, Thread.retried, hh]
  case engines =>
    intro s tidx rva retry bk
    refine ⟨_, exec_reply tidx rva retry, ?_, ?_, members_reply tidx.toNat rva retry⟩
    · rw [bay_reply]
    · rw [bay_reply]
      rfl
  case lower => exact fun s ck lv va acc why hh hl => replyThread_abort_lower hh hl
  case same => exact fun s ck lv va acc why hh hl hp ht hv => replyThread_abort_handler hh hl hp ht hv
  case pinned => exact fun s ck lv va acc why hh => thr_replyThread_pin hh
  case cancel => exact fun s ck lv dbl retry code v hh h => replyThread_cancels hh h

end Sys2Proof
end

section
/-!
PROOFS. O45: channels and their entries. A CTL write that clears EN is not held to the sixteen channels of R352, as one that sets
it is, so it changes a channel that is not one.
-/

namespace Sys2Proof

open Machine

/-- Channel 16, which is none of R352's, stands enabled. -/
def enabledSixteen : State := { fes := { chans := [(16, { ctl := 1 })] } }

theorem chan_enabledSixteen : enabledSixteen.chan 16 = { ctl := 1 } := rfl

/-- A CTL write with EN 0 clears its EN. -/
theorem channelDisable_enabledSixteen :
    ∃ t : State, exec (.channelDisable .mgmt 16 0) enabledSixteen = .next t ∧ (t.chan 16).ctl = 0 :=
  ⟨_, rfl, by decide⟩

/-- Refutes O45: CHANNEL_DISABLE of channel 16, where that stands enabled, clears its EN, but the statement keeps every channel
from 16 on as it is. -/
theorem not_channelsAndEntries : ¬ Obligations.ChannelsAndEntries := by
  rintro ⟨⟨hctl, -, -⟩, -⟩
  obtain ⟨-, -, -, -, -, -, hkept, -⟩ := hctl enabledSixteen .mgmt 16 0
  obtain ⟨t, ht, hchan, -⟩ := hkept rfl (.inl (le_refl 16))
  obtain ⟨t', ht', hoff⟩ := channelDisable_enabledSixteen
  obtain rfl : t = t' := by
    rw [ht] at ht'
    exact Host.Outcome.next.inj ht'
  rw [hchan, chan_enabledSixteen] at hoff
  exact absurd hoff (by decide)

end Sys2Proof
end

section
/-!
SUPPORT. Launches: the first origin that fits, the one launch that waits, and what the flush at a hall's start and end leaves of
the vaults and channels (R355 to R361).
-/

namespace Sys2Proof.Machine

open Sys2Proof

variable {s t : State}

/-! ## Origins in row-major order -/

theorem fits_iff {x y w h : Nat} : s.fits x y w h = true ↔ x + w ≤ 16 ∧ y + h ≤ 8 ∧ ∀ k, k < w * h →
    (s.tile ((y + k / w) * 16 + x + k % w)).hall = none ∧ s.sys.withheld.getLsbD ((y + k / w) * 16 + x + k % w) = false := by
  unfold State.fits
  simp only [Bool.and_eq_true, decide_eq_true_eq, List.all_eq_true, List.mem_range, beq_iff_eq, Bool.not_eq_true', and_assoc]

theorem origins_eq : (List.range 8).flatMap (fun y => (List.range 16).map (fun x => (x, y))) =
    (List.range 128).map (fun k => (k % 16, k / 16)) := by decide

theorem originFor_eq (w h : Nat) : s.originFor w h =
    ((List.range 128).find? (fun k => s.fits (k % 16) (k / 16) w h)).map (fun k => (k % 16, k / 16)) := by
  unfold State.originFor
  rw [origins_eq, List.find?_map]
  rfl

theorem originFor_some {w h x y : Nat} (ho : s.originFor w h = some (x, y)) :
    x < 16 ∧ y < 8 ∧ s.fits x y w h = true ∧
      ∀ x' y', x' < 16 → y' < 8 → y' * 16 + x' < y * 16 + x → s.fits x' y' w h = false := by
  rw [originFor_eq] at ho
  obtain ⟨k, hk, he⟩ := Option.map_eq_some_iff.mp ho
  obtain ⟨hf, hr, hmin⟩ := List.find?_range_eq_some.mp hk
  obtain ⟨rfl, rfl⟩ := Prod.mk.inj he
  have hk128 := List.mem_range.mp hr
  refine ⟨by omega, by omega, hf, fun x' y' hx hy hlt => ?_⟩
  have hm := hmin (y' * 16 + x') (by omega)
  rw [show (y' * 16 + x') % 16 = x' by omega, show (y' * 16 + x') / 16 = y' by omega] at hm
  simpa using hm

theorem originFor_none {w h : Nat} (ho : s.originFor w h = none) {x y : Nat} (hx : x < 16) (hy : y < 8) :
    s.fits x y w h = false := by
  rw [originFor_eq, Option.map_eq_none_iff, List.find?_range_eq_none] at ho
  have hm := ho (y * 16 + x) (by omega)
  rw [show (y * 16 + x) % 16 = x by omega, show (y * 16 + x) / 16 = y by omega] at hm
  simpa using hm

/-! ## Folds in which one element acts -/

theorem foldl_stays {α β : Type} {f : β → α → β} {b : β} {l : List α} (h : ∀ a ∈ l, f b a = b) : l.foldl f b = b := by
  induction l with
  | nil => rfl
  | cons a l ih => rw [List.foldl_cons, h a List.mem_cons_self, ih fun a' ha' => h a' (List.mem_cons_of_mem _ ha')]

theorem foldl_one {α β : Type} {f : β → α → β} {b : β} {k : α} {l : List α} (hn : l.Nodup) (hk : k ∈ l)
    (hb : ∀ a ∈ l, a ≠ k → f b a = b) (ha : ∀ a ∈ l, a ≠ k → f (f b k) a = f b k) : l.foldl f b = f b k := by
  induction l with
  | nil => cases hk
  | cons a l ih =>
    obtain ⟨hal, hn⟩ := List.nodup_cons.mp hn
    rw [List.foldl_cons]
    by_cases he : a = k
    · rw [he]
      refine foldl_stays fun a' ha' => ha a' (List.mem_cons_of_mem _ ha') ?_
      rintro rfl
      exact hal (he ▸ ha')
    · rw [hb a List.mem_cons_self he]
      exact ih hn ((List.mem_cons.mp hk).resolve_left (Ne.symm he)) (fun a' h => hb a' (List.mem_cons_of_mem _ h))
        (fun a' h => ha a' (List.mem_cons_of_mem _ h))

/-! ## An entry changes -/

theorem find?_updFirst_apart {α : Type} {p q : α → Bool} {f : α → α} (hq : ∀ y, q (f y) = q y) (hpq : ∀ y, p y = true → q y = false)
    (l : List α) : (updFirst p f l).find? q = l.find? q := by
  induction l with
  | nil => rfl
  | cons y l ih =>
    unfold updFirst
    by_cases hp : p y = true
    · rw [if_pos hp, List.find?_cons_of_neg (by rw [hq, hpq y hp]; decide), List.find?_cons_of_neg (by rw [hpq y hp]; decide)]
    · rw [if_neg hp, List.find?_cons, List.find?_cons, ih]

theorem any_updFirst {α : Type} {p r : α → Bool} {f : α → α} (hr : ∀ y, r (f y) = r y) (l : List α) :
    (updFirst p f l).any r = l.any r := by
  induction l with
  | nil => rfl
  | cons y l ih =>
    unfold updFirst
    split
    · rw [List.any_cons, List.any_cons, hr]
    · rw [List.any_cons, List.any_cons, ih]

theorem turn?_at {ch : Nat} {e : Entry} (h : s.turn? ch = some e) : e.ch = ch ∧ e.idx = (s.chan ch).head := by
  unfold State.turn? at h
  dsimp only at h
  split at h
  · cases h
  · next hf =>
    have hm := List.find?_some hf
    simp only [Bool.and_eq_true, beq_iff_eq] at hm
    split at h
    · cases h
    split at h
    · cases h
    · cases h
      exact hm

section
variable {f : Entry → Entry} (hch : ∀ e, (f e).ch = e.ch) (hidx : ∀ e, (f e).idx = e.idx) (hw : ∀ e, (f e).words = e.words)
include hch hidx

theorem turn?_updEntry_other {ch c : Nat} (idx : Nat) (hc : c ≠ ch) : (s.updEntry ch idx f).turn? c = s.turn? c := by
  have hfind : (updFirst (Entry.isAt ch idx) f s.fes.entries).find? (fun e => e.ch == c && e.idx == (s.chan c).head) =
      s.fes.entries.find? (fun e => e.ch == c && e.idx == (s.chan c).head) := by
    refine find?_updFirst_apart (fun e => by rw [hch, hidx]) (fun e he => ?_) _
    have := (Bool.and_eq_true_iff.mp he).1
    rw [beq_iff_eq] at this
    rw [this, beq_eq_false_iff_ne.mpr (Ne.symm hc), Bool.false_and]
  have hany (e : Entry) : (updFirst (Entry.isAt ch idx) f s.fes.entries).any (fun p => p.ch == c && (p.idx + 1) % 2 ^ 32 == e.idx) =
      s.fes.entries.any (fun p => p.ch == c && (p.idx + 1) % 2 ^ 32 == e.idx) :=
    any_updFirst (fun e => by rw [hch, hidx]) _
  unfold State.turn?
  change (match (updFirst (Entry.isAt ch idx) f s.fes.entries).find? (fun e => e.ch == c && e.idx == (s.chan c).head) with
    | none => none
    | some e => if !(s.chan c).en then none
      else if e.after && (updFirst (Entry.isAt ch idx) f s.fes.entries).any (fun p => p.ch == c && (p.idx + 1) % 2 ^ 32 == e.idx)
        then none else some e) = _
  rw [hfind]
  simp only [hany] <;> rfl

include hw

theorem turn?_updEntry_same {ch : Nat} {e : Entry} (h : s.turn? ch = some e) : (s.updEntry ch e.idx f).turn? ch = some (f e) := by
  have hidx' := (turn?_at h).2
  have hany (e : Entry) : (updFirst (Entry.isAt ch (s.chan ch).head) f s.fes.entries).any
      (fun p => p.ch == ch && (p.idx + 1) % 2 ^ 32 == e.idx) =
      s.fes.entries.any (fun p => p.ch == ch && (p.idx + 1) % 2 ^ 32 == e.idx) :=
    any_updFirst (fun e => by rw [hch, hidx]) _
  have hafter : (f e).after = e.after := by
    unfold Entry.after Entry.w
    rw [hw]
  rw [hidx']
  unfold State.turn? at h ⊢
  change (match (updFirst (Entry.isAt ch (s.chan ch).head) f s.fes.entries).find? (Entry.isAt ch (s.chan ch).head) with
    | none => none
    | some e => if !(s.chan ch).en then none
      else if e.after && (updFirst (Entry.isAt ch (s.chan ch).head) f s.fes.entries).any
          (fun p => p.ch == ch && (p.idx + 1) % 2 ^ 32 == e.idx) then none else some e) = some (f e)
  dsimp only at h
  split at h
  · cases h
  next x hf =>
  have hx : (if !(s.chan ch).en then none
      else if x.after && s.fes.entries.any (fun p => p.ch == ch && (p.idx + 1) % 2 ^ 32 == x.idx) then none else some x) = some e := h
  obtain rfl : x = e := by
    split at hx
    · cases hx
    split at hx
    · cases hx
    · exact Option.some.inj hx
  have hfind : (updFirst (Entry.isAt ch (s.chan ch).head) f s.fes.entries).find? (Entry.isAt ch (s.chan ch).head) = some (f x) :=
    find?_updFirst (fun e => by unfold Entry.isAt; rw [hch, hidx]) hf
  rw [hfind]
  dsimp only
  rw [hany, hafter, hidx]
  split at hx
  · cases hx
  next hen =>
  split at hx
  · cases hx
  next hbefore =>
  rw [if_neg hen, if_neg hbefore]

end

/-! ## The launches that wait -/

theorem waitingLaunch_at {ch : Nat} {e : Entry} (h : s.waitingLaunch ch = some e) : e.ch = ch := by
  unfold State.waitingLaunch at h
  split at h
  · cases h
  next ht =>
  split at h
  · cases h
    exact (turn?_at ht).1
  · cases h

theorem waitingLaunch_eq_some {ch : Nat} {e : Entry} : s.waitingLaunch ch = some e ↔
    s.turn? ch = some e ∧ e.kind = 0 ∧ s.badEntry e = false ∧ (e.st = .queued ∨ e.st = .waiting) := by
  unfold State.waitingLaunch
  constructor
  · intro h
    split at h
    · cases h
    next ht =>
    split at h
    · next hc => cases h; exact ⟨ht, hc.1, by simpa using hc.2.1, hc.2.2⟩
    · cases h
  · rintro ⟨ht, hk, hb, hst⟩
    rw [ht]
    exact if_pos ⟨hk, by rw [hb]; rfl, hst⟩

theorem badEntry_congr {e e' : Entry} (hw : e'.words = e.words) : s.badEntry e' = s.badEntry e := by
  have hw' (i : Nat) : e'.w i = e.w i := by
    unfold Entry.w
    rw [hw]
  unfold State.badEntry Entry.kind Entry.doneAt Entry.hw Entry.hh
  simp only [hw']

section
variable {f : Entry → Entry} (hch : ∀ e, (f e).ch = e.ch) (hidx : ∀ e, (f e).idx = e.idx) (hw : ∀ e, (f e).words = e.words)
include hch hidx

theorem waitingLaunch_updEntry_other {ch c : Nat} (idx : Nat) (hc : c ≠ ch) :
    (s.updEntry ch idx f).waitingLaunch c = s.waitingLaunch c := by
  unfold State.waitingLaunch
  rw [turn?_updEntry_other hch hidx idx hc]
  rfl

include hw

theorem waitingLaunch_updEntry_same {ch : Nat} {e : Entry} (h : s.waitingLaunch ch = some e) :
    (s.updEntry ch e.idx f).waitingLaunch ch = if (f e).st = .queued ∨ (f e).st = .waiting then some (f e) else none := by
  obtain ⟨ht, hk, hb, -⟩ := waitingLaunch_eq_some.mp h
  have hk' : (f e).kind = 0 := by
    unfold Entry.kind Entry.w
    rw [hw]
    exact hk
  have hb' : (s.updEntry ch e.idx f).badEntry (f e) = false := (badEntry_congr (hw e)).trans hb
  unfold State.waitingLaunch
  rw [turn?_updEntry_same hch hidx hw ht]
  dsimp only
  rw [hk', hb']
  refine ite_congr (propext ⟨fun h => h.2.2, fun h => ⟨rfl, rfl, h⟩⟩) (fun _ => rfl) (fun _ => rfl)

end

/-- `e` is the one launch that waits among the sixteen channels. -/
structure State.OneWaits (s : State) (e : Entry) : Prop where
  here : e.ch < 16
  waits : s.waitingLaunch e.ch = some e
  alone : ∀ c < 16, c ≠ e.ch → s.waitingLaunch c = none

theorem oneWaits_of_filterMap {e : Entry} (h : (List.range 16).filterMap s.waitingLaunch = [e]) : s.OneWaits e := by
  have hmem : e ∈ (List.range 16).filterMap s.waitingLaunch := by rw [h]; exact List.mem_cons_self
  obtain ⟨c, hc, hw⟩ := List.mem_filterMap.mp hmem
  have hch := waitingLaunch_at hw
  refine ⟨by rw [hch]; exact List.mem_range.mp hc, by rw [hch]; exact hw, fun c' hc' hne => ?_⟩
  cases hx : s.waitingLaunch c' with
  | none => rfl
  | some x =>
    have hxm : x ∈ (List.range 16).filterMap s.waitingLaunch := List.mem_filterMap.mpr ⟨c', List.mem_range.mpr hc', hx⟩
    rw [h] at hxm
    obtain rfl := List.mem_singleton.mp hxm
    exact absurd (waitingLaunch_at hx).symm hne

theorem consider_of_none {ch : Nat} (cls : Nat) (h : s.waitingLaunch ch = none) : s.consider cls ch = s := by
  unfold State.consider
  rw [h]

theorem consider_of_class {ch cls : Nat} {e : Entry} (h : s.waitingLaunch ch = some e) (hc : e.cls ≠ cls) : s.consider cls ch = s := by
  unfold State.consider
  rw [h]
  exact if_pos (.inl hc)

theorem consider_of_heldBack {ch : Nat} {e : Entry} (cls : Nat) (h : s.waitingLaunch ch = some e) (hb : s.heldBack e = true) :
    s.consider cls ch = s := by
  unfold State.consider
  rw [h]
  exact if_pos (.inr hb)

theorem State.OneWaits.not_heldBack {e : Entry} (h : s.OneWaits e) : s.heldBack e = false := by
  unfold State.heldBack
  rw [List.any_eq_false]
  intro c hc
  by_cases hce : c = e.ch
  · simp [hce]
  · rw [h.alone c (List.mem_range.mp hc) hce]
    simp

theorem heldBack_of {e x : Entry} {c : Nat} (hc : c < 16) (hne : c ≠ e.ch) (hx : s.waitingLaunch c = some x) (hp : 64 ≤ x.passed)
    (hcls : x.cls < e.cls ∨ (x.cls = e.cls ∧ e.passed < 64)) : s.heldBack e = true := by
  unfold State.heldBack
  refine List.any_eq_true.mpr ⟨c, List.mem_range.mpr hc, ?_⟩
  rw [hx]
  have hlim : starveLimit = 64 := rfl
  simp only [Bool.and_eq_true, bne_iff_ne, ne_eq, decide_eq_true_eq, Bool.or_eq_true, beq_iff_eq, hlim]
  exact ⟨hne, hp, hcls⟩

/-- An entry that begins to wait. -/
def Entry.awaiting (e : Entry) : Entry := { e with st := .waiting }

/-- An entry that is passed over (R358). -/
def Entry.passedOver (e : Entry) : Entry := { e with passed := e.passed + 1 }

/-- An entry that is given a hall at an origin (R357). -/
def Entry.given (o : Nat × Nat) (id : Nat) (e : Entry) : Entry := { e with st := .allocated (o.2 * 16 + o.1), hall := id }

/-- The launch that is considered takes its hall, or is passed over (R357, R358). -/
def State.placed (s : State) (e : Entry) : State :=
  match s.originFor e.hw e.hh with
  | some o => s.takeHall e o
  | none => s.updEntry e.ch e.idx Entry.passedOver

theorem State.OneWaits.consider_eq {e : Entry} (h : s.OneWaits e) : s.consider e.cls e.ch = s.placed e := by
  unfold State.consider State.placed
  rw [h.waits]
  dsimp only
  rw [if_neg (by rw [h.not_heldBack]; simp)]
  rfl

/-- What a launch's channel and the others see of a launch that takes its hall. -/
theorem waitingLaunch_takeHall (e : Entry) (o : Nat × Nat) (c : Nat) : (s.takeHall e o).waitingLaunch c =
    (s.updEntry e.ch e.idx (Entry.given o s.fes.nextHall)).waitingLaunch c := by
  have hts (ts : List Nat) (id : Nat) : ts.foldl (fun s t => s.updTile t (fun x => { x with hall := some id })) s =
      { s with tiles := (ts.foldl (fun s t => s.updTile t (fun x => { x with hall := some id })) s).tiles } :=
    foldl_keeps (fun (t : State) => t = { s with tiles := t.tiles }) (fun t a ht => by rw [ht]; rfl) ts rfl
  unfold State.takeHall
  dsimp only
  rw [hts]
  rfl

theorem State.OneWaits.placed_others {e : Entry} (h : s.OneWaits e) {c : Nat} (hc : c < 16) (hne : c ≠ e.ch) :
    (s.placed e).waitingLaunch c = none := by
  unfold State.placed
  split
  · next o _ =>
    rw [waitingLaunch_takeHall, waitingLaunch_updEntry_other (f := Entry.given o _) (fun _ => rfl) (fun _ => rfl) _ hne,
      h.alone c hc hne]
  · rw [waitingLaunch_updEntry_other (f := Entry.passedOver) (fun _ => rfl) (fun _ => rfl) _ hne, h.alone c hc hne]

theorem State.OneWaits.placed_class {e : Entry} (h : s.OneWaits e) {cls c : Nat} (hc : c < 16) (hcls : cls ≠ e.cls) :
    (s.placed e).consider cls c = s.placed e := by
  by_cases hne : c = e.ch
  case neg => exact consider_of_none cls (h.placed_others hc hne)
  subst hne
  unfold State.placed
  split
  · next o _ =>
    refine consider_of_none cls ?_
    rw [waitingLaunch_takeHall,
      waitingLaunch_updEntry_same (f := Entry.given o _) (fun _ => rfl) (fun _ => rfl) (fun _ => rfl) h.waits]
    rfl
  · have hw := waitingLaunch_updEntry_same (f := Entry.passedOver)
      (fun _ => rfl) (fun _ => rfl) (fun _ => rfl) h.waits
    obtain ⟨-, -, -, hst⟩ := waitingLaunch_eq_some.mp h.waits
    rw [if_pos (show e.passedOver.st = .queued ∨ e.passedOver.st = .waiting from hst)] at hw
    exact consider_of_class hw (Ne.symm hcls)

/-- One launch waits: it is considered once, in the turn of its class and channel (R358). -/
theorem State.OneWaits.considered {e : Entry} (h : s.OneWaits e) :
    (List.range 4).foldl (fun s c => (List.range 16).foldl (State.consider c) s) s = s.placed e := by
  have hcls : e.cls ∈ List.range 4 := List.mem_range.mpr (fld_lt _ 56 2)
  have hin : (List.range 16).foldl (State.consider e.cls) s = s.placed e := by
    rw [← h.consider_eq]
    refine foldl_one List.nodup_range (List.mem_range.mpr h.here)
      (fun c hc hne => consider_of_none _ (h.alone c (List.mem_range.mp hc) hne)) (fun c hc hne => ?_)
    rw [h.consider_eq]
    exact consider_of_none _ (h.placed_others (List.mem_range.mp hc) hne)
  rw [← hin]
  refine foldl_one (f := fun s c => (List.range 16).foldl (State.consider c) s) List.nodup_range hcls (fun cls _ hne => ?_)
    (fun cls _ hne => ?_)
  · refine foldl_stays fun c hc => ?_
    by_cases hce : c = e.ch
    · subst hce
      exact consider_of_class h.waits (Ne.symm hne)
    · exact consider_of_none cls (h.alone c (List.mem_range.mp hc) hce)
  · rw [hin]
    exact foldl_stays fun c hc => h.placed_class (List.mem_range.mp hc) hne

/-- The launch has begun to wait, and no hall is newly free (R358). -/
def State.beginsToWait (s : State) (e : Entry) : State :=
  let s1 := s.updEntry e.ch e.idx Entry.awaiting
  { s1 with fes := { s1.fes with freed := false } }

theorem State.OneWaits.beginsToWait {e : Entry} (h : s.OneWaits e) :
    (s.beginsToWait e).OneWaits e.awaiting where
  here := h.here
  waits := waitingLaunch_updEntry_same (f := Entry.awaiting) (fun _ => rfl) (fun _ => rfl) (fun _ => rfl) h.waits
  alone c hc hne := (waitingLaunch_updEntry_other (f := Entry.awaiting) (fun _ => rfl) (fun _ => rfl) _ hne).trans (h.alone c hc hne)

theorem exec_hallAllocate_one {e : Entry} (h : (List.range 16).filterMap s.waitingLaunch = [e])
    (hdue : s.fes.freed = true ∨ e.st = .queued) : exec .hallAllocate s = .next ((s.beginsToWait e).placed e.awaiting) := by
  have ho := oneWaits_of_filterMap h
  have hd : s.allocDue = true := by
    unfold State.allocDue
    rw [h]
    simpa using hdue
  change Host.Outcome.next _ = _
  dsimp only
  rw [if_neg (by rw [hd]; decide), h, ← ho.beginsToWait.considered]
  rfl

theorem exec_hallAllocate_idle (hf : s.fes.freed = false) (hw : ∀ c e, c < 16 → s.waitingLaunch c = some e → e.st ≠ .queued) :
    exec .hallAllocate s = .next s := by
  have hd : s.allocDue = false := by
    unfold State.allocDue
    rw [hf, Bool.false_or, List.any_eq_false]
    intro e he
    obtain ⟨c, hc, hce⟩ := List.mem_filterMap.mp he
    simpa using hw c e (List.mem_range.mp hc) hce
  change Host.Outcome.next _ = _
  dsimp only
  rw [if_pos (by rw [hd]; rfl)]

/-! ## What an access at a home slice leaves of the vaults and the channels -/

/-- The vaults and the channels are the same in `t` as in `s`. -/
structure State.SameVaults (s t : State) : Prop where
  vault : t.mem.vault = s.mem.vault
  chans : t.fes.chans = s.fes.chans

theorem State.SameVaults.refl (s : State) : s.SameVaults s := ⟨rfl, rfl⟩

theorem State.SameVaults.trans {u : State} (h : s.SameVaults t) (h' : t.SameVaults u) : s.SameVaults u :=
  ⟨h'.vault.trans h.vault, h'.chans.trans h.chans⟩

theorem foldl_sameVaults {α : Type} {f : State → α → State} (hf : ∀ (t : State) a, t.SameVaults (f t a)) (l : List α) :
    s.SameVaults (l.foldl f s) := foldl_keeps (fun t => s.SameVaults t) (fun t a ht => ht.trans (hf t a)) l (.refl s)

theorem updMem_sameVaults {f : Mems → Mems} (h : (f s.mem).vault = s.mem.vault) : s.SameVaults (s.updMem f) := ⟨h, rfl⟩

theorem setPoison_sameVaults (line : Nat) (b : Bool) : s.SameVaults (s.setPoison line b) := updMem_sameVaults rfl

theorem countUe_sameVaults (st line : Nat) : s.SameVaults (s.countUe st line) := ⟨rfl, rfl⟩

theorem eccSector_sameVaults (a : Nat) : s.SameVaults (s.eccSector a) := by
  have hfix (f : Mems → Nat → Mems) (hf : ∀ m i, (f m i).vault = m.vault) (l : List Nat) (m : Mems) :
      (l.foldl f m).vault = m.vault :=
    foldl_keeps (fun m' : Mems => m'.vault = m.vault) (fun m' i h => (hf m' i).trans h) l rfl
  unfold State.eccSector
  dsimp only
  split
  · exact .refl s
  · exact ⟨rfl, rfl⟩
  · split
    · refine updMem_sameVaults (hfix _ ?_ _ _)
      exact fun _ _ => rfl
    · refine State.SameVaults.trans (.trans (updMem_sameVaults (hfix _ ?_ _ _)) (countUe_sameVaults _ _)) (setPoison_sameVaults _ _)
      exact fun _ _ => rfl

theorem hbmRead_sameVaults (line : Nat) : s.SameVaults (s.hbmRead line).2.2 := by
  unfold State.hbmRead
  dsimp only
  split
  · exact .refl s
  · exact (((eccSector_sameVaults _).trans (eccSector_sameVaults _)).trans (eccSector_sameVaults _)).trans (eccSector_sameVaults _)

theorem hbmWrite_sameVaults (line : Nat) (d : Vec) (p : Bool) : s.SameVaults (s.hbmWrite line d p) :=
  (updMem_sameVaults rfl).trans (setPoison_sameVaults _ _)

theorem readChunks_sameVaults (f : FWin) (g k : Nat) : s.SameVaults (s.readChunks f g k).2.2 := by
  induction k with
  | zero => exact .refl s
  | succ k ih => exact ih.trans (hbmRead_sameVaults _)

theorem fetchLine_sameVaults (line : Nat) : s.SameVaults (s.fetchLine line).2.2 := by
  unfold State.fetchLine
  split
  · exact hbmRead_sameVaults _
  · exact readChunks_sameVaults _ _ _

theorem writeChunk_sameVaults (f : FWin) (g j x : Nat) : s.SameVaults (s.writeChunk f g j x) := by
  unfold State.writeChunk
  dsimp only
  refine (hbmRead_sameVaults (lineOf (f.chunk g j))).trans ?_
  split
  · exact (hbmWrite_sameVaults _ _ _).trans (updMem_sameVaults rfl)
  · exact hbmWrite_sameVaults _ _ _

theorem storeLine_sameVaults (line : Nat) (d : Vec) (p : Bool) : s.SameVaults (s.storeLine line d p) := by
  unfold State.storeLine
  split
  · exact hbmWrite_sameVaults _ _ _
  · split
    · exact .refl s
    · exact (foldl_sameVaults (fun _ _ => writeChunk_sameVaults _ _ _ _) _).trans (setPoison_sameVaults _ _)

theorem notify_sameVaults (l : Loc) (n : Nat) : s.SameVaults (s.notify l n) where
  vault := by rw [notify_mem]
  chans := by
    have hw : (s.wake l n).fes.chans = s.fes.chans := by rw [wake_eq]
    cases l with
    | glob pa =>
      have hfes (w : State) (es : List Entry) :
          (if w.fes.entries.isEmpty then w else { w with fes := { w.fes with entries := es } }).fes.chans = w.fes.chans := by
        split <;> rfl
      exact (hfes (s.wake (.glob pa) n) _).trans hw
    | spad | vault | gal => exact hw

theorem addFails_sameVaults (l : Loc) (p : Bool) (os : List (Nat × Bool)) : s.SameVaults (s.addFails l p os) := by
  rw [addFails_eq]
  exact ⟨rfl, rfl⟩

theorem bumpSsn_sameVaults (k : Nat) : s.SameVaults (s.bumpSsn k) := ⟨rfl, rfl⟩

theorem combine_sameVaults (line : Nat) (bays : List Nat) : s.SameVaults (s.combine line bays) := by
  have hraw : s.SameVaults (s.rawLine line).2.2 := by
    unfold State.rawLine
    split
    · exact .refl s
    · exact fetchLine_sameVaults _
  have hput (w : State) (d : Vec) (p : Bool) : w.SameVaults (w.putRaw line d p) := by
    unfold State.putRaw
    split
    · exact ⟨rfl, rfl⟩
    · exact storeLine_sameVaults _ _ _
  have hdrop (d : Vec) (p : Bool) :=
    (hraw.trans (hput _ d p)).trans (foldl_sameVaults (f := fun s bk => s.dropU line bk) (fun _ _ => ⟨rfl, rfl⟩) bays)
  unfold State.combine
  dsimp only
  split
  · exact .refl s
  refine .trans ?_ (notify_sameVaults _ _)
  refine .trans ?_ (bumpSsn_sameVaults _)
  split
  · exact (hdrop _ _).trans (foldl_sameVaults (fun _ _ => addFails_sameVaults _ _ _) _)
  · exact hdrop _ _

theorem recall_sameVaults (line : Nat) : s.SameVaults (s.recall line) := by
  have hlose (w : State) (bk : Nat) : w.SameVaults (w.loseU line bk) :=
    (⟨rfl, rfl⟩ : w.SameVaults (w.dropU line bk)).trans (foldl_sameVaults (fun _ _ => addFails_sameVaults _ _ _) _)
  exact (foldl_sameVaults hlose _).trans (combine_sameVaults _ _)

theorem flushU_sameVaults (h : Hall) : s.SameVaults (s.flushU h) :=
  foldl_sameVaults (fun _ _ => foldl_sameVaults (fun _ _ => recall_sameVaults _) _) _

end Sys2Proof.Machine
end

section
/-!
SUPPORT. A launch starts: each of its tiles, the record in its task queue, its live gallery and its cores (R309, R359, R360).
-/

namespace Sys2Proof.Machine

open Sys2Proof

variable {s t : State}

/-! ## A core at hall start -/

/-- A core at hall start, whatever watches its earlier accesses had (R262, R360). -/
def Core.FromStart (c : Core) : Prop := c.pend = [] ∧ ∃ d : Core, d.atStart.OnlyResults c

theorem Core.fromStart_atStart (d : Core) : d.atStart.FromStart := ⟨rfl, d, .refl _⟩

theorem core_updCore_keeps (P : Core → Prop) {f : Core → Core} {q k : Nat} (hf : P (s.core q) → P (f (s.core q)))
    (h : P (s.core k)) : P ((s.updCore q f).core k) := by
  rw [State.updCore, State.core_setCore]
  split
  · next e => exact hf (e ▸ h)
  · exact h

theorem pend_notify_nil {k : Nat} (l : Loc) (n : Nat) (h : (s.core k).pend = []) : ((s.notify l n).core k).pend = [] := by
  have harrive (c : Core) (id : Nat) (hc : c.pend = []) : (c.arrive id 0 {}).pend = [] := by
    change updFirst _ _ c.pend = []
    rw [hc]
    rfl
  rw [notify_eq_wake]
  change ((s.wake l n).core k).pend = []
  unfold State.wake
  dsimp only
  split
  · exact h
  · exact foldl_keeps (fun t : State => (t.core k).pend = [])
      (fun t m ht => core_updCore_keeps (fun c => c.pend = []) (harrive _ m.pend) ht) _ h

theorem Core.FromStart.notify {k : Nat} (h : (s.core k).FromStart) (l : Loc) (n : Nat) : ((s.notify l n).core k).FromStart := by
  obtain ⟨hp, d, hd⟩ := h
  exact ⟨pend_notify_nil l n hp, d, hd.trans (notify_onlyResults l n k)⟩

theorem Core.FromStart.putRec {k : Nat} (h : (s.core k).FromStart) (tl off : Nat) (r : Rec) :
    ((s.putRec tl off r).core k).FromStart := by
  rw [State.putRec]
  refine Core.FromStart.notify ?_ _ _
  rw [core_updMem]
  exact h

/-! ## The first record of a launch in a tile -/

/-- A tile is new, and has the first record of the launch in its task queue (R359). -/
def State.putFirst (s : State) (h : Hall) (n tl : Nat) : State :=
  let x := tileAtStart h n s.cycle
  (s.setTile tl x).putRec tl (x.taskSlot h.cls 0) (h.firstRec (h.index tl))

theorem taskSlot_atStart (h : Hall) (n cyc : Nat) : (tileAtStart h n cyc).taskSlot h.cls 0 = 0x200000 + 32 * (8192 * h.cls) := by
  change taskBase + 32 * (taskCap * h.cls + (0 + 0) % taskCap) = _
  rw [Nat.add_zero, Nat.zero_mod, Nat.add_zero]
  rfl

theorem tile_notify_noMons {k : Nat} (l : Loc) (n : Nat) (h : (s.tile k).mons = []) : (s.notify l n).tile k = s.tile k := by
  obtain ⟨ms, hms⟩ := tile_notify (s := s) l n k
  have hm := mons_notify (s := s) l n k
  rw [hms, h] at hm
  rw [hms]
  change ms = [] at hm
  rw [hm, ← h]

theorem mem_updMem (f : Mems → Mems) : (s.updMem f).mem = f s.mem := rfl

theorem tile_putRec_noMons {k : Nat} (tl off : Nat) (r : Rec) (h : (s.tile k).mons = []) :
    (s.putRec tl off r).tile k = s.tile k := by
  rw [State.putRec, tile_notify_noMons _ _ (by rw [tile_updMem]; exact h), tile_updMem]

theorem tile_putFirst (h : Hall) (n tl k : Nat) (hk : k = tl ∨ (s.tile k).mons = []) :
    (s.putFirst h n tl).tile k = if k = tl then tileAtStart h n s.cycle else s.tile k := by
  have hset : (s.setTile tl (tileAtStart h n s.cycle)).tile k = if k = tl then tileAtStart h n s.cycle else s.tile k :=
    (State.tile_setTile ..).trans (ite_congr (propext eq_comm) (fun _ => rfl) (fun _ => rfl))
  rw [← hset]
  refine tile_putRec_noMons _ _ _ ?_
  rw [hset]
  split
  · rfl
  · next hne => exact hk.resolve_left hne

theorem vault_putRec (tl off : Nat) (r : Rec) :
    (s.putRec tl off r).mem.vault = writeBytes s.mem.vault (vaultOf tl * 2 ^ 24 + off) 32 r.bytes := by
  rw [State.putRec, notify_mem, mem_updMem]

theorem vault_putFirst (h : Hall) (n tl : Nat) : (s.putFirst h n tl).mem.vault =
    writeBytes s.mem.vault (vaultOf tl * 2 ^ 24 + (0x200000 + 32 * (8192 * h.cls))) 32 (h.firstRec (h.index tl)).bytes := by
  rw [State.putFirst, vault_putRec, taskSlot_atStart]
  rfl

theorem gal_putRec (tl off : Nat) (r : Rec) : (s.putRec tl off r).mem.gal = s.mem.gal := by
  rw [State.putRec, notify_mem, mem_updMem]

theorem fes_putRec (tl off : Nat) (r : Rec) : (s.putRec tl off r).fes = s.fes := by
  rw [State.putRec, fes_notify rfl, State.updMem_fes]

theorem cycle_putRec (tl off : Nat) (r : Rec) : (s.putRec tl off r).cycle = s.cycle := by
  rw [State.putRec, notify_eq, State.updMem_cycle]

theorem getRec_putFirst (h : Hall) (n tl : Nat) :
    (s.putFirst h n tl).getRec tl (0x200000 + 32 * (8192 * h.cls)) = h.firstRec (h.index tl) := by
  rw [State.putFirst, taskSlot_atStart, getRec_putRec]

/-! ## The units of a tile -/

/-- The memories, cores and bays of a tile at hall start (R360). -/
def State.resetUnits (s : State) (tl : Nat) : State :=
  (baysOf tl).foldl (fun s k => s.updBay k Bay.atStart)
    ((List.range 64).foldl (fun s c => s.updCore (tl * 64 + c) Core.atStart) (s.updMem (fun m => m.atStart tl)))

theorem resetUnits_frame (tl : Nat) : (s.resetUnits tl).tiles = s.tiles ∧ (s.resetUnits tl).mem = s.mem.atStart tl ∧
    (s.resetUnits tl).fes = s.fes ∧ (s.resetUnits tl).cycle = s.cycle := by
  refine foldl_keeps (fun t : State => t.tiles = s.tiles ∧ t.mem = s.mem.atStart tl ∧ t.fes = s.fes ∧ t.cycle = s.cycle) ?_ _
    (foldl_keeps (fun t : State => t.tiles = s.tiles ∧ t.mem = s.mem.atStart tl ∧ t.fes = s.fes ∧ t.cycle = s.cycle) ?_ _ ?_)
  · exact fun _ _ h => h
  · exact fun _ _ h => h
  · exact ⟨rfl, rfl, rfl, rfl⟩

theorem foldl_atStart (tl : Nat) (l : List Nat) {w : State} {k : Nat} (hk : (∃ c ∈ l, tl * 64 + c = k) ∨ (w.core k).FromStart) :
    ((l.foldl (fun s c => s.updCore (tl * 64 + c) Core.atStart) w).core k).FromStart := by
  induction l generalizing w with
  | nil => exact hk.resolve_left (by simp)
  | cons c l ih =>
    refine ih ?_
    by_cases hc : tl * 64 + c = k
    · refine .inr ?_
      dsimp only
      rw [hc, State.updCore, State.core_setCore_same]
      exact Core.fromStart_atStart _
    · rcases hk with ⟨c', hc', he⟩ | hk
      · exact .inl ⟨c', (List.mem_cons.mp hc').resolve_left (fun e => hc (e ▸ he)), he⟩
      · exact .inr (core_updCore_keeps Core.FromStart (fun _ => Core.fromStart_atStart _) hk)

theorem core_resetUnits (tl k : Nat) (hk : (∃ c < 64, tl * 64 + c = k) ∨ (s.core k).FromStart) :
    ((s.resetUnits tl).core k).FromStart := by
  have hbays (w : State) (l : List Nat) : (l.foldl (fun s k => s.updBay k Bay.atStart) w).core k = w.core k := by
    refine foldl_keeps (fun t : State => t.core k = w.core k) ?_ l rfl
    exact fun _ _ h => h
  unfold State.resetUnits
  rw [hbays]
  exact foldl_atStart tl _ (hk.imp_left fun ⟨c, hc, he⟩ => ⟨c, List.mem_range.mpr hc, he⟩)

theorem tile_resetUnits (tl k : Nat) : (s.resetUnits tl).tile k = s.tile k := by
  rw [State.tile, (resetUnits_frame tl).1, State.tile]

theorem vault_resetUnits (tl : Nat) : (s.resetUnits tl).mem.vault = s.mem.vault := by
  rw [(resetUnits_frame tl).2.1, Mems.atStart]

theorem gal_resetUnits (tl : Nat) : (s.resetUnits tl).mem.gal = s.mem.gal.clear (tl * 2 ^ 14) (2 ^ 14) := by
  rw [(resetUnits_frame tl).2.1, Mems.atStart]

/-! ## A tile starts -/

/-- A tile of a hall is set for a new launch (R309, R359, R360). -/
def State.startTile (s : State) (h : Hall) (n tl : Nat) : State := (s.putFirst h n tl).resetUnits tl

theorem startHall_eq (h : Hall) : s.startHall h =
    h.tiles.foldl (fun t tl => t.startTile h ((s.flushU h).mem.epoch + 1) tl)
      { (s.flushU h).updMem (fun m => { m with epoch := (s.flushU h).mem.epoch + 1 }) with
        fes := { (s.flushU h).fes with halls := (s.flushU h).fes.halls ++ [h] } } := rfl

theorem cycle_startTile (h : Hall) (n tl : Nat) : (s.startTile h n tl).cycle = s.cycle := by
  rw [State.startTile, (resetUnits_frame tl).2.2.2, State.putFirst, cycle_putRec]
  rfl

theorem fes_startTile (h : Hall) (n tl : Nat) : (s.startTile h n tl).fes = s.fes := by
  rw [State.startTile, (resetUnits_frame tl).2.2.1, State.putFirst, fes_putRec]
  rfl

theorem vault_startTile (h : Hall) (n tl : Nat) : (s.startTile h n tl).mem.vault =
    writeBytes s.mem.vault (vaultOf tl * 2 ^ 24 + (0x200000 + 32 * (8192 * h.cls))) 32 (h.firstRec (h.index tl)).bytes := by
  unfold State.startTile
  rw [vault_resetUnits, vault_putFirst]

theorem gal_startTile (h : Hall) (n tl : Nat) : (s.startTile h n tl).mem.gal = s.mem.gal.clear (tl * 2 ^ 14) (2 ^ 14) := by
  unfold State.startTile
  rw [gal_resetUnits, State.putFirst, gal_putRec]
  rfl

theorem get_vault_startTile {h : Hall} (hc : h.cls < 4) (n : Nat) {tl a : Nat} (ha : a / 2 ^ 24 ≠ vaultOf tl) :
    (s.startTile h n tl).mem.vault.get 0 a = s.mem.vault.get 0 a := by
  rw [vault_startTile]
  refine get_writeBytes_other _ _ ?_
  generalize vaultOf tl = v at ha
  omega

theorem vaultOf_inj {a b : Nat} (ha : a < 128) (hb : b < 128) (h : vaultOf a = vaultOf b) : a = b := by
  unfold vaultOf dieOf tileX tileY at h
  omega

/-- What a tile of a started launch holds (R309, R359, R360). -/
structure State.Started (t : State) (h : Hall) (n cyc tl : Nat) : Prop where
  tile : t.tile tl = tileAtStart h n cyc
  record : t.getRec tl (0x200000 + 32 * (8192 * h.cls)) = h.firstRec (h.index tl)
  gal : ∀ a, a < 16384 → t.mem.gal.get 0 (tl * 2 ^ 14 + a) = 0
  cores : ∀ c, c < 64 → (t.core (tl * 64 + c)).FromStart

theorem started_startTile (h : Hall) (n tl : Nat) : (s.startTile h n tl).Started h n s.cycle tl where
  tile := by
    unfold State.startTile
    rw [tile_resetUnits, tile_putFirst h n tl tl (.inl rfl), if_pos rfl]
  record := by
    refine Eq.trans ?_ (getRec_putFirst (s := s) h n tl)
    unfold State.getRec State.startTile
    rw [vault_resetUnits]
  gal a ha := by
    rw [gal_startTile, SMap.get_clear, if_pos (by omega)]
  cores c hc := core_resetUnits tl _ (.inl ⟨c, hc, rfl⟩)

theorem State.Started.startTile_other {h : Hall} {n cyc tl tl' : Nat} (hs : s.Started h n cyc tl)
    (htl : tl < 128) (htl' : tl' < 128) (hne : tl ≠ tl') : (s.startTile h n tl').Started h n cyc tl where
  tile := by
    unfold State.startTile
    rw [tile_resetUnits, tile_putFirst h n tl' tl (.inr (by rw [hs.tile]; rfl)), if_neg hne, hs.tile]
  record := by
    refine Eq.trans ?_ hs.record
    have hv : vaultOf tl ≠ vaultOf tl' := fun e => hne (vaultOf_inj htl htl' e)
    unfold State.getRec
    rw [vault_startTile, readBytes_writeBytes_other]
    generalize vaultOf tl = v at hv
    generalize vaultOf tl' = v' at hv
    omega
  gal a ha := by
    rw [gal_startTile, SMap.get_clear, hs.gal a ha]
    exact ite_self _
  cores c hcc := core_resetUnits tl' _ (.inr ((hs.cores c hcc).putRec (s := s.setTile _ _) _ _ _))

/-- Every tile of a list is started once each has had its turn. -/
theorem started_foldl {h : Hall} {n cyc tl : Nat} (htl : tl < 128) (l : List Nat) (hl : ∀ x ∈ l, x < 128)
    (hcyc : s.cycle = cyc) (hk : tl ∈ l ∨ s.Started h n cyc tl) : (l.foldl (fun t x => t.startTile h n x) s).Started h n cyc tl := by
  induction l generalizing s with
  | nil => exact hk.resolve_left List.not_mem_nil
  | cons x l ih =>
    refine ih (fun y hy => hl y (List.mem_cons_of_mem _ hy)) ((cycle_startTile h n x).trans hcyc) ?_
    by_cases hx : tl = x
    · subst hx hcyc
      exact .inr (started_startTile h n tl)
    · exact (hk.imp (fun hm => (List.mem_cons.mp hm).resolve_left hx)
        fun hs => hs.startTile_other htl (hl x List.mem_cons_self) hx)

/-! ## A hall starts -/

section
variable {h : Hall}

theorem tiles_lt (hx : h.ox + h.w ≤ 16) (hy : h.oy + h.h ≤ 8) {tl : Nat} (ht : tl ∈ h.tiles) : tl < 128 := by
  obtain ⟨k, hk, rfl⟩ := List.mem_map.mp ht
  have hk' := List.mem_range.mp hk
  have hw : 0 < h.w := Nat.pos_of_mul_pos_right (Nat.zero_lt_of_lt hk')
  have hd : k / h.w < h.h := Nat.div_lt_of_lt_mul hk'
  have hm : k % h.w < h.w := Nat.mod_lt _ hw
  omega

theorem index_tile (hx : h.ox + h.w ≤ 16) {k : Nat} (hk : k < h.w * h.h) :
    h.index ((h.oy + k / h.w) * 16 + h.ox + k % h.w) = k := by
  have hw : 0 < h.w := Nat.pos_of_mul_pos_right (Nat.zero_lt_of_lt hk)
  have hm : k % h.w < h.w := Nat.mod_lt _ hw
  refine Eq.trans ?_ (Nat.div_add_mod' k h.w)
  unfold Hall.index Hall.x Hall.y tileX tileY
  generalize k / h.w = row
  generalize k % h.w = col at hm
  rw [show ((h.oy + row) * 16 + h.ox + col) / 16 - h.oy = row by omega,
    show ((h.oy + row) * 16 + h.ox + col) % 16 - h.ox = col by omega]

theorem started_startHall (hx : h.ox + h.w ≤ 16) (hy : h.oy + h.h ≤ 8) {tl : Nat} (ht : tl ∈ h.tiles) :
    (s.startHall h).Started h ((s.flushU h).mem.epoch + 1) s.cycle tl := by
  rw [startHall_eq]
  exact started_foldl (tiles_lt hx hy ht) _ (fun _ => tiles_lt hx hy) (flushU_sameHalls h).cycle (.inl ht)

theorem chan_startHall (h : Hall) (c : Nat) : (s.startHall h).chan c = s.chan c := by
  have hfes (n : Nat) (w : State) (l : List Nat) : (l.foldl (fun t x => t.startTile h n x) w).fes = w.fes :=
    foldl_keeps (fun t : State => t.fes = w.fes) (fun _ _ ht => (fes_startTile ..).trans ht) l rfl
  rw [startHall_eq, State.chan, hfes]
  exact congrArg (fun m => SMap.get {} m c) (flushU_sameVaults h).chans

theorem get_vault_startHall (hc : h.cls < 4) {a : Nat} (ha : ∀ tl ∈ h.tiles, a / 2 ^ 24 ≠ vaultOf tl) :
    (s.startHall h).mem.vault.get 0 a = s.mem.vault.get 0 a := by
  have hfold (n : Nat) (l : List Nat) (hl : ∀ tl ∈ l, a / 2 ^ 24 ≠ vaultOf tl) (w : State) :
      (l.foldl (fun t x => t.startTile h n x) w).mem.vault.get 0 a = w.mem.vault.get 0 a := by
    induction l generalizing w with
    | nil => rfl
    | cons x l ih =>
      rw [List.foldl_cons, ih fun y hy => hl y (List.mem_cons_of_mem _ hy)]
      exact get_vault_startTile hc n (hl x List.mem_cons_self)
  rw [startHall_eq, hfold _ _ ha]
  exact congrArg (fun m => SMap.get 0 m a) (flushU_sameVaults h).vault

end

/-! ## What a started tile holds, field by field -/

theorem Core.FromStart.fields {x : Core} (h : x.FromStart) :
    x.lv0.fp = {} ∧ x.lv1.fp = {} ∧ x.lv0.hold = .idle ∧ x.lv1.hold = .idle ∧ x.lv0.cp = [] ∧ x.lv1.cp = [] ∧ x.lv0.fails = [] ∧
      x.lv1.fails = [] ∧ x.level = false ∧ x.pend = [] ∧ x.tBit = false ∧ x.pv = false ∧ x.tvec = 0 ∧ x.tcause = 0 ∧ x.tpc = 0 ∧
      x.tval = 0 ∧ x.latch = false ∧ x.b = 256 ∧ x.w = 256 ∧ x.sendSeq = 0 ∧ x.inl = 0 ∧ x.jobs = 0 ∧ x.wit = [] ∧ x.score = [] ∧
      x.q = [] ∧ x.pinned = [] ∧ x.handlers = [] ∧ x.lv0.rest = [] ∧ x.lv1.rest = [] := by
  obtain ⟨hp, d, hd⟩ := h
  unfold Core.OnlyResults at hd
  generalize x.arrived = a at hd
  rw [hp] at hd
  subst hd
  exact ⟨rfl, rfl, rfl, rfl, rfl, rfl, rfl, rfl, rfl, rfl, rfl, rfl, rfl, rfl, rfl, rfl, rfl, rfl, rfl, rfl, rfl, rfl, rfl, rfl, rfl,
    rfl, rfl, rfl, rfl⟩

/-- The launch's entry and its channel tell of the start; the tiles stay as they were started (R352, R355). -/
theorem State.Started.launched {h : Hall} {n cyc tl : Nat} (hs : t.Started h n cyc tl) (ch idx : Nat) (f : Entry → Entry) :
    ((t.updEntry ch idx f).advanceHead ch).Started h n cyc tl :=
  ⟨hs.tile, hs.record, hs.gal, hs.cores⟩

theorem State.Started.fields {h : Hall} {n cyc tl k : Nat} (hs : t.Started h n cyc tl) (hk : h.index tl = k) :
    (t.tile tl).hall = some h.id ∧ (t.tile tl).s = 0 ∧ (t.tile tl).group = 0 ∧ (t.tile tl).bars = [] ∧ (t.tile tl).arms = [] ∧
      (t.tile tl).mons = [] ∧ (t.tile tl).vest = [] ∧ (t.tile tl).queue h.cls = [cyc] ∧
      t.getRec tl (0x200000 + 32 * (8192 * h.cls)) = { code := h.entry, frame := h.arg, jctr := 0, tidx := word k } ∧
      (∀ a, a < 16384 → t.mem.gal.get 0 (tl * 2 ^ 14 + a) = 0) ∧
      ∀ c, c < 64 →
        let x := t.core (tl * 64 + c)
        x.lv0.fp = {} ∧ x.lv1.fp = {} ∧ x.lv0.hold = .idle ∧ x.lv1.hold = .idle ∧ x.lv0.cp = [] ∧ x.lv1.cp = [] ∧ x.lv0.fails = [] ∧
          x.lv1.fails = [] ∧ x.level = false ∧ x.pend = [] ∧ x.tBit = false ∧ x.pv = false ∧ x.tvec = 0 ∧ x.tcause = 0 ∧ x.tpc = 0 ∧
          x.tval = 0 ∧ x.latch = false ∧ x.b = 256 ∧ x.w = 256 ∧ x.sendSeq = 0 ∧ x.inl = 0 ∧ x.jobs = 0 ∧ x.wit = [] ∧ x.score = [] ∧
          x.q = [] ∧ x.pinned = [] ∧ x.handlers = [] ∧ x.lv0.rest = [] ∧ x.lv1.rest = [] := by
  have hq : (tileAtStart h n cyc).queue h.cls = [cyc] := if_pos rfl
  rw [hs.tile, hs.record, hk, hq]
  exact ⟨rfl, rfl, rfl, rfl, rfl, rfl, rfl, rfl, rfl, hs.gal, fun c hc => (hs.cores c hc).fields⟩

/-! ## The end of a launch -/

/-- Has the hall come to rest, as its state asks (R361, R362)? -/
def State.hallReady (s : State) (h : Hall) : Bool :=
  match h.stop with
  | .none => s.hallIdle h
  | .cancel => s.allStopped h
  | .save _ => false

/-- The hall's tiles are free and its entry is complete (R361). -/
def State.ended (s : State) (h : Hall) : State := ((s.forgetHall h).freeTiles h).endEntry h.ch h.idx

end Sys2Proof.Machine
end

section
/-!
PROOFS. O46: allocation, start, end and cancellation of launches, and what is counted while they run.
-/

namespace Sys2Proof

open Machine

variable {s : State}

/-! ## Start -/

theorem exec_launchStart {ch o : Nat} {e : Entry}
    (hf : s.fes.entries.find? (fun e => e.ch == ch && e.idx == (s.chan ch).head) = some e) (hst : e.st = .allocated o) :
    exec (.launchStart ch) s = .next (if !(s.chan ch).en then s else
      ((s.startHall (s.hallOfEntry e o)).updEntry ch e.idx (fun e => { e with st := .running })).advanceHead ch) := by
  refine congrArg (fun t => (Host.Outcome.next t : Out)) ?_
  have hf' : s.fes.entries.find? (Entry.isAt ch (s.chan ch).head) = some e := hf
  rw [hf']
  dsimp only
  rw [hst]

theorem chan_launchStarted (ch idx : Nat) (h : Hall) (f : Entry → Entry) :
    ((((s.startHall h).updEntry ch idx f).advanceHead ch).chan ch).head = ((s.chan ch).head + 1) % 2 ^ 32 := by
  unfold State.advanceHead State.updChan
  have hput (m : SMap Chan) (c : Chan) : SMap.get {} (m.put ch c) ch = c := SMap.get_put_same ..
  rw [State.chan, hput]
  exact congrArg (fun c => (Chan.head c + 1) % 2 ^ 32) (chan_startHall h ch)

/-! ## End -/

section
variable {id : Nat} {h : Hall}

theorem exec_launchEnd (hh : s.hall? id = some h) : exec (.launchEnd id) s = .next ((s.launchEnd? h).getD s) := by
  refine congrArg (fun t => (Host.Outcome.next t : Out)) ?_
  rw [hh]

theorem launchEnd?_none (h' : s.hallReady h = false ∨ s.workDone h = false ∨ s.flushWaits h = true) : s.launchEnd? h = none := by
  have hover : s.launchOver h = (s.hallReady h && s.workDone h) := rfl
  unfold State.launchEnd?
  rw [hover]
  refine if_pos ?_
  rcases h' with h' | h' | h' <;> simp [h']

theorem launchEnd?_word (hr : s.hallReady h = true) (hw : s.workDone h = true) (hf : s.flushWaits h = false) :
    s.launchEnd? h = ((s.flushU h).launchWord h.ch h.idx h.asid h.done (if h.stop = .cancel then 2 else 1)).map
      (fun t => t.ended h) := by
  have hover : s.launchOver h = (s.hallReady h && s.workDone h) := rfl
  unfold State.launchEnd?
  rw [hover, hr, hw, hf]
  rfl

theorem launchWord_zero (ch idx asid code : Nat) {done : Word} (hd : done = 0) : s.launchWord ch idx asid done code = some s :=
  if_pos hd

theorem launchWord_store (ch idx asid code : Nat) {done : Word} (hd : done ≠ 0) {t : State}
    (ht : s.chanStore ch asid done (word (idx * 2 ^ 32 + code)) = some t) :
    s.launchWord ch idx asid done code = some (t.msix ch) := by
  unfold State.launchWord
  rw [if_neg hd, ht]
  rfl

theorem hall_ended (t : State) (k : Nat) (hk : k ∈ h.tiles) : ((t.ended h).tile k).hall = none := by
  refine (SMap.get_mapIf (d := ({} : Tile)) (fun x => x.hall) (p := fun k => h.tiles.contains k)
    (g := fun x => { x with hall := none }) rfl (t.forgetHall h).tiles).trans ?_
  rw [if_pos (by simpa using hk)]

theorem hall?_ended (t : State) : (t.ended h).hall? h.id = none := by
  change (List.filter (fun x : Hall => x.id != h.id) _).find? (fun x => x.id == h.id) = none
  rw [List.find?_eq_none]
  intro x hx
  simpa using (List.mem_filter.mp hx).2

end

/-! ## CANCEL -/

/-- A CANCEL with a bit outside its fields is ignored (R362). -/
theorem cancel_fields (val : Word) : (fld val 19 45 ≠ 0 ∨ fld val 12 4 ≠ 0 ∨ fld val 0 8 ≠ 0) ↔
    ¬(val.toNat / 2 ^ 19 = 0 ∧ val.toNat / 2 ^ 12 % 2 ^ 4 = 0 ∧ val.toNat % 2 ^ 8 = 0) := by
  rw [fld_low, fld_top (x := val) 19 (by norm_num), fld]
  tauto

theorem exec_cancel_ignored {val : Word}
    (h : ¬(val.toNat / 2 ^ 19 = 0 ∧ val.toNat / 2 ^ 12 % 2 ^ 4 = 0 ∧ val.toNat % 2 ^ 8 = 0) ∨
      s.hallAt (val.toNat / 2 ^ 8 % 2 ^ 4) (val.toNat / 2 ^ 16 % 2 ^ 3) = none) : exec (.cancel val) s = .next s := by
  refine congrArg (fun t => (Host.Outcome.next t : Out)) ?_
  unfold State.writeCancel
  by_cases hs : val.toNat / 2 ^ 19 = 0 ∧ val.toNat / 2 ^ 12 % 2 ^ 4 = 0 ∧ val.toNat % 2 ^ 8 = 0
  · rw [if_neg (fun hn => (cancel_fields val).mp hn hs)]
    have hn := h.resolve_left (not_not.mpr hs)
    rw [show s.hallAt (fld val 8 4) (fld val 16 3) = none from hn]
  · rw [if_pos ((cancel_fields val).mpr hs)]

theorem exec_cancel_hall {val : Word} {h : Hall}
    (hs : val.toNat / 2 ^ 19 = 0 ∧ val.toNat / 2 ^ 12 % 2 ^ 4 = 0 ∧ val.toNat % 2 ^ 8 = 0)
    (ha : s.hallAt (val.toNat / 2 ^ 8 % 2 ^ 4) (val.toNat / 2 ^ 16 % 2 ^ 3) = some h) :
    exec (.cancel val) s = .next (if h.stop = .cancel then s else s.cancelHall h.id) := by
  refine congrArg (fun t => (Host.Outcome.next t : Out)) ?_
  unfold State.writeCancel
  rw [if_neg (fun hn => (cancel_fields val).mp hn hs), show s.hallAt (fld val 8 4) (fld val 16 3) = some h from ha]

section
variable {h : Hall} (hh : s.hall? h.id = some h)
include hh

theorem cancelHall_running (hst : h.stop = .none) : s.cancelHall h.id = s.updHall h.id (fun x => { x with stop := .cancel }) := by
  unfold State.cancelHall
  rw [hh]
  dsimp only
  rw [hst]

theorem cancelHall_saved {k : Bool} (hst : h.stop = .save k) : s.cancelHall h.id =
    if s.sys.precmd.toNat % 4 = 2 then s.updHall h.id (fun x => { x with doomed := true })
    else { s.updHall h.id (fun x => { x with stop := .cancel }) with sys := { s.sys with prestat := 3 } } := by
  unfold State.cancelHall
  rw [hh]
  dsimp only
  rw [hst]
  dsimp only
  rw [fld_low]
  rfl

end

/-! ## Occupancy and energy -/

theorem Hall.runs_iff (h : Hall) : h.runs = true ↔ ¬∃ k, h.stop = .save k := by
  unfold Hall.runs
  cases h.stop <;> simp

section
variable {id : Nat} {h : Hall} (hh : s.hall? id = some h)
include hh

theorem exec_occupancySample : exec (.occupancySample id) s = .next (if s.occupancyDue h then
    (h.tiles.foldl (fun s t => s.updTile t Tile.sampleOcc) s).updHall id (fun h => { h with sampled := h.sampled + 1024 }) else s) := by
  refine congrArg (fun t => (Host.Outcome.next t : Out)) ?_
  rw [hh]
  dsimp only
  by_cases hd : s.occupancyDue h = true
  · rw [if_neg (by rw [hd]; decide), if_pos hd]
  · rw [if_pos (by simpa using hd), if_neg hd]

theorem exec_energyTick (reading : Nat) : exec (.energyTick id reading) s =
    .next (if s.energyDue h then s.updHall id (fun h => h.tick reading) else s) := by
  refine congrArg (fun t => (Host.Outcome.next t : Out)) ?_
  rw [hh]

end

/-- Samples leave the queues of a tile as they are, and note their lengths; a tile sampled once keeps its old sample (R364). -/
theorem tile_sampled (l : List Nat) (k : Nat) (hk : k ∈ l) (t : State) (ht : (t.tile k).taskq = (s.tile k).taskq) :
    ((l.foldl (fun s t => s.updTile t Tile.sampleOcc) t).tile k).occ = (List.range 4).map (fun c => (c, ((s.tile k).queue c).length)) ∧
      (l.Nodup → (t.tile k).occ = (s.tile k).occ →
        ((l.foldl (fun s t => s.updTile t Tile.sampleOcc) t).tile k).occOld = (s.tile k).occ) := by
  have hupd (w : State) (x : Nat) : (w.updTile x Tile.sampleOcc).tile k = if k = x then (w.tile x).sampleOcc else w.tile k :=
    (State.tile_setTile ..).trans (ite_congr (propext eq_comm) (fun _ => rfl) (fun _ => rfl))
  have hstay (l : List Nat) (hl : k ∉ l) (w : State) : (l.foldl (fun s t => s.updTile t Tile.sampleOcc) w).tile k = w.tile k := by
    induction l generalizing w with
    | nil => rfl
    | cons x l ih =>
      rw [List.foldl_cons, ih (fun h => hl (List.mem_cons_of_mem _ h)), hupd,
        if_neg (fun e => hl (List.mem_cons.mpr (.inl e)))]
  induction l generalizing t with
  | nil => cases hk
  | cons x l ih =>
    have ht' : ((t.updTile x Tile.sampleOcc).tile k).taskq = (s.tile k).taskq := by
      rw [hupd]
      split
      · next e => rw [← ht, ← e]; rfl
      · exact ht
    rw [List.foldl_cons]
    by_cases hl : k ∈ l
    · refine ⟨(ih hl _ ht').1, fun hn ho => (ih hl _ ht').2 (List.nodup_cons.mp hn).2 ?_⟩
      have hne : k ≠ x := fun e => (List.nodup_cons.mp hn).1 (e ▸ hl)
      rw [hupd, if_neg hne, ho]
    · have hkx : k = x := (List.mem_cons.mp hk).resolve_right hl
      rw [hstay l hl, hupd, if_pos hkx, ← hkx]
      refine ⟨?_, fun _ ho => ho⟩
      unfold Tile.sampleOcc Tile.queue
      rw [ht]

theorem nodup_tiles {h : Hall} (hx : h.ox + h.w ≤ 16) : h.tiles.Nodup := by
  refine List.Nodup.map_on (fun a ha b hb hab => ?_) List.nodup_range
  rw [← index_tile hx (List.mem_range.mp ha), hab, index_tile hx (List.mem_range.mp hb)]

theorem get_occ (f : Nat → Nat) {c : Nat} (hc : c < 4) : SMap.get 0 ((List.range 4).map (fun c => (c, f c))) c = f c := by
  match c, hc with
  | 0, _ => rfl
  | 1, _ => rfl
  | 2, _ => rfl
  | 3, _ => rfl

section
variable (h : Hall) (reading : Nat)

theorem lastTick_tick : (h.tick reading).lastTick = h.lastTick + 940 := by
  unfold Hall.tick
  dsimp only
  split
  · rfl
  split <;> rfl

variable {h reading}

theorem tick_within (hb : h.budget = true) (hu : h.used + reading < h.energy) :
    (h.tick reading).used = h.used + reading ∧ (h.tick reading).cls = h.cls := by
  unfold Hall.tick
  dsimp only
  rw [if_neg (by rw [hb]; decide), if_pos hu]
  exact ⟨rfl, rfl⟩

theorem tick_spent (hb : h.budget = true) (hu : h.energy ≤ h.used + reading) :
    (h.tick reading).cls = min (h.cls + 1) 3 ∧ (h.tick reading).used = 0 ∧ (h.tick reading).energy = h.refill ∧
      ((h.tick reading).budget = true ↔ h.refill ≠ 0) := by
  unfold Hall.tick
  dsimp only
  rw [if_neg (by rw [hb]; decide), if_neg (Nat.not_lt.mpr hu)]
  exact ⟨rfl, rfl, rfl, bne_iff_ne⟩

end

/-- Settles O46: an origin as the first of the row-major list that fits, an allocation by following the one launch that waits
through the turns of classes and channels, and a start tile by tile. -/
theorem launches : Obligations.Launches := by
  unfold Obligations.Launches
  refine ⟨?origin, ?alloc, ?off, ?start, ?end_, ?cancel, ?count⟩
  case origin =>
    intro s w h
    refine ⟨fun x y ho => ?_, fun ho x y hx hy hf => ?_⟩
    · obtain ⟨hx, hy, hf, hmin⟩ := originFor_some ho
      refine ⟨hx, hy, fits_iff.mp hf, fun x' y' hx' hy' hlt hf' => ?_⟩
      exact absurd (fits_iff.mpr hf') (by rw [hmin x' y' hx' hy' hlt]; decide)
    · exact absurd (fits_iff.mpr hf) (by rw [originFor_none ho hx hy]; decide)
  case alloc =>
    intro s
    refine ⟨exec_hallAllocate_idle, fun e he hdue => ?_, fun ch c e x hw hc hne hx hp hcls cls => ?_⟩
    · have hexec := exec_hallAllocate_one he hdue
      refine ⟨fun o ho => ?_, fun ho => ?_⟩
      · rw [hexec, State.placed, show (s.beginsToWait e).originFor e.awaiting.hw e.awaiting.hh = some o from ho]
        rfl
      · rw [hexec, State.placed, show (s.beginsToWait e).originFor e.awaiting.hw e.awaiting.hh = none from ho]
        rfl
    · exact consider_of_heldBack cls hw (heldBack_of hc (by rw [waitingLaunch_at hw]; exact hne) hx hp hcls)
  case off =>
    intro s ch o e hf hst hen
    rw [exec_launchStart hf hst, if_pos (by rw [hen]; rfl)]
  case start =>
    intro s ch o e hf hst hen hx hy
    have hc : (s.hallOfEntry e o).cls < 4 := fld_lt _ 56 2
    refine ⟨_, (exec_launchStart hf hst).trans (congrArg _ (if_neg (by rw [hen]; decide))), chan_launchStarted .., fun a ha => ?_,
      fun k hk => ?_⟩
    · refine get_vault_startHall hc fun tl htl => ?_
      obtain ⟨k, hk, rfl⟩ := List.mem_map.mp htl
      exact ha k (List.mem_range.mp hk)
    · have hst := (started_startHall (s := s) (h := s.hallOfEntry e o) hx hy
        (List.mem_map.mpr ⟨k, List.mem_range.mpr hk, rfl⟩)).launched ch e.idx (fun e => { e with st := .running })
      exact hst.fields (index_tile (h := s.hallOfEntry e o) hx hk)
  case end_ =>
    intro s id h hh
    refine ⟨fun h' => ?_, fun hr hw hf => ⟨fun hd => ?_, fun hd t ht => ?_, fun t k hk => ⟨hall_ended t k hk, hall?_ended t⟩⟩⟩
    · rw [exec_launchEnd hh, launchEnd?_none h', Option.getD_none]
    · rw [exec_launchEnd hh, launchEnd?_word hr hw hf, launchWord_zero _ _ _ _ hd]
      rfl
    · rw [exec_launchEnd hh, launchEnd?_word hr hw hf, launchWord_store _ _ _ _ hd ht]
      rfl
  case cancel =>
    intro s val
    refine ⟨exec_cancel_ignored, fun hs h ha hh => ⟨fun hst => ?_, fun hst => ?_, fun k hst => ⟨fun hp => ?_, fun hp => ?_⟩⟩⟩
    · rw [exec_cancel_hall hs ha, if_neg (by rw [hst]; decide), cancelHall_running hh hst]
    · rw [exec_cancel_hall hs ha, if_pos hst]
    · rw [exec_cancel_hall hs ha, if_neg (by rw [hst]; simp), cancelHall_saved hh hst, if_pos hp]
    · rw [exec_cancel_hall hs ha, if_neg (by rw [hst]; simp), cancelHall_saved hh hst, if_neg hp]
  case count =>
    intro s id reading h hh
    have hrun := Hall.runs_iff h
    refine ⟨fun hsv => ?_, fun hlt => ?_, fun hsv hle => ?_, fun hlt => ?_, fun hsv hle => ?_, lastTick_tick h reading, tick_within,
      tick_spent⟩
    · have hr : h.runs = false := by
        rw [← Bool.not_eq_true, hrun]
        exact not_not.mpr hsv
      rw [exec_occupancySample hh, exec_energyTick hh]
      exact ⟨congrArg _ (if_neg (by simp [State.occupancyDue, hr])), congrArg _ (if_neg (by simp [State.energyDue, hr]))⟩
    · rw [exec_occupancySample hh, if_neg (by simp [State.occupancyDue]; omega)]
    · refine ⟨_, (exec_occupancySample hh).trans (congrArg _ (if_pos (by simp [State.occupancyDue, hrun.mpr hsv, hle]))), fun k hk => ?_⟩
      have hs := tile_sampled (s := s) h.tiles k hk s rfl
      exact ⟨fun hx => hs.2 (nodup_tiles hx) rfl, fun c hc => (congrArg (fun m => SMap.get 0 m c) hs.1).trans (get_occ _ hc)⟩
    · have hd : ¬s.energyDue h = true := fun hd => Nat.not_le.mpr hlt (of_decide_eq_true (Bool.and_eq_true_iff.mp hd).2)
      rw [exec_energyTick hh, if_neg hd]
    · rw [exec_energyTick hh, if_pos (by simp [State.energyDue, cyclesPerUs, hrun.mpr hsv, hle])]

end Sys2Proof
end

section
/-!
SUPPORT. Collectives: what a start checks, which packet a member takes, and what an abort leaves (R370 to R374, R384 to R388).
-/

namespace Sys2Proof.Machine

open Sys2Proof

variable {s t : State}

/-! ## The checks of a start -/

section
variable {m : Member} {l : List Word} {tl : Nat} {own : Hall}

/-- The member's own rank address once the package and the hall are named outright (R371). -/
def State.startAddr (s : State) (m : Member) (l : List Word) (own : Hall) : Word :=
  (l.map (s.resolveRank (own.oy * 16 + own.ox))).getD m.rank 0

theorem startChecks_eq (ho : s.hallOf tl = some own) (hl : l.any badRank = false) :
    s.startChecks m l (some tl) =
      (match rankTile (s.startAddr m l own), s.hallOfOrigin (fld (s.startAddr m l own) 24 8) with
      | some t, some h =>
        if fld (s.startAddr m l own) 32 16 != s.pkg || !h.tiles.contains t || tl != t then .failed s kNOTMEMBER (some m)
        else if memberCap ≤ (s.fes.members.filter (fun x => x.st != .starting)).length ∨
            (s.memberAt (word m.sid) (s.startAddr m l own)).isSome then
          .failed s kBUSY (some m)
        else
          let n := s.starts (word m.sid) (s.startAddr m l own) % 2 ^ 16
          let k := { m with rlist := l.map (s.resolveRank (own.oy * 16 + own.ox)), inst := n, st := .opening, hall := h.id, tile := t,
                            start := s.cycle }
          let s := s.countStart (word m.sid) (s.startAddr m l own)
          .started { s with fes := { s.fes with members := (s.fes.members.filter (fun x => x.id != m.id)) ++ [k] } } n
      | _, _ => .failed s kNOTMEMBER (some m)) := by
  unfold State.startChecks State.startAddr
  rw [hl, if_neg (by decide)]
  dsimp only
  rw [ho]
  rfl

theorem startChecks_notMember (ho : s.hallOf tl = some own) (hl : l.any badRank = false)
    (ha : rankTile (s.startAddr m l own) ≠ some tl) : s.startChecks m l (some tl) = .failed s 12 (some m) := by
  rw [startChecks_eq ho hl]
  split
  · next u h hu hh =>
    have hne : (tl != u) = true := bne_iff_ne.mpr fun e => ha (hu.trans (congrArg some e.symm))
    rw [hne, Bool.or_true, if_pos rfl]
    rfl
  · rfl

section
variable {h : Hall} (ho : s.hallOf tl = some own) (hl : l.any badRank = false) (ha : rankTile (s.startAddr m l own) = some tl)
  (hh : s.hallOfOrigin (fld (s.startAddr m l own) 24 8) = some h) (ht : tl ∈ h.tiles)
  (hp : fld (s.startAddr m l own) 32 16 = s.pkg)
include ho hl ha hh ht hp

theorem startChecks_member : s.startChecks m l (some tl) =
    if memberCap ≤ (s.fes.members.filter (fun x => x.st != .starting)).length ∨
        (s.memberAt (word m.sid) (s.startAddr m l own)).isSome then .failed s kBUSY (some m)
    else
      let n := s.starts (word m.sid) (s.startAddr m l own) % 2 ^ 16
      let k := { m with rlist := l.map (s.resolveRank (own.oy * 16 + own.ox)), inst := n, st := .opening, hall := h.id, tile := tl,
                        start := s.cycle }
      let s := s.countStart (word m.sid) (s.startAddr m l own)
      .started { s with fes := { s.fes with members := (s.fes.members.filter (fun x => x.id != m.id)) ++ [k] } } n := by
  rw [startChecks_eq ho hl, ha, hh]
  exact if_neg (by simp [hp, ht])

theorem startChecks_busy (hb : 64 ≤ (s.fes.members.filter (fun x => x.st != .starting)).length ∨
    s.memberAt (word m.sid) (s.startAddr m l own) ≠ none) : s.startChecks m l (some tl) = .failed s 11 (some m) := by
  rw [startChecks_member ho hl ha hh ht hp]
  exact if_pos (hb.imp id Option.isSome_iff_ne_none.mpr)

theorem startChecks_started (hr : (s.fes.members.filter (fun x => x.st != .starting)).length < 64)
    (hn : s.memberAt (word m.sid) (s.startAddr m l own) = none) :
    ∃ t, s.startChecks m l (some tl) = .started t (s.starts (word m.sid) (s.startAddr m l own) % 2 ^ 16) ∧
      t.starts (word m.sid) (s.startAddr m l own) = s.starts (word m.sid) (s.startAddr m l own) + 1 ∧
      ∃ k ∈ t.fes.members, k.id = m.id ∧ k.st = .opening ∧
        k.inst = s.starts (word m.sid) (s.startAddr m l own) % 2 ^ 16 ∧ k.tile = tl ∧ k.hall = h.id := by
  rw [startChecks_member ho hl ha hh ht hp, hn]
  refine ⟨_, if_neg (by simp [memberCap, hr]), ?_, _, List.mem_append_right _ List.mem_cons_self, rfl, rfl, rfl, rfl, rfl⟩
  have hfind (n : Nat) (es : List (Word × Word × Nat)) (a b : Word) :
      (es.filter (fun e => !(e.1 == a && e.2.1 == b)) ++ [(a, b, n)]).find? (fun e => e.1 == a && e.2.1 == b) = some (a, b, n) := by
    rw [List.find?_append, List.find?_eq_none.mpr (fun e he => Bool.not_eq_true _ ▸ (Bool.not_eq_true' _ ▸ (List.mem_filter.mp he).2))]
    simp
  unfold State.starts State.countStart
  dsimp only
  rw [hfind]
  rfl

end

end

/-! ## The packet that a member takes -/

/-- A packet has reached its member: it is at its package, none stands before it, and the member runs (R379, R385). -/
structure State.Reaches (s : State) (id : Nat) (p : Pkt) (m : Member) : Prop where
  found : s.fes.pkts.find? (fun p => p.id == id) = some p
  landed : p.nfl = 0
  stays : p.outPort = none
  first : s.behind (some m) p = false
  runs : s.memberAt (p.sig.1 >>> 32) (p.hdr.getD 1 0) = some m

section
variable {id op : Nat} {p : Pkt} {m : Member} {f : Pkt → Member → State → Option State × State}

theorem State.Reaches.id_eq (h : s.Reaches id p m) : p.id = id := by
  have := List.find?_some h.found
  simpa using this

/-- A packet's turn: unless its member has started anew since, or its way is not clear, its operation is performed. -/
theorem State.Reaches.withPkt_eq (h : s.Reaches id p m) (hop : p.opAt p.ops = op) :
    s.withPkt id op f = .next (
      if 2 ^ 15 ≤ (m.inst + 2 ^ 16 - p.inst) % 2 ^ 16 then s
      else if (m.inst + 2 ^ 16 - p.inst) % 2 ^ 16 ≠ 0 then (s.dropPkt id).ackPkt p
      else
        match s.pktWay p m.tile with
        | .wait => s
        | .dead => ((s.dropPkt id).ackPkt p).memAbort m.id kDEADLINK
        | .clear =>
          match f p m s with
          | (some t, _) => t.pktDone p
          | (none, t) => t) := by
  have harr : p.arrived = true := by
    unfold Pkt.arrived
    rw [h.landed, h.stays]
    rfl
  unfold State.withPkt
  rw [h.found]
  dsimp only
  rw [h.runs, harr, h.first]
  refine congrArg (fun t => (Host.Outcome.next t : Out)) (if_neg ?_)
  rw [hop]
  simp

variable (h : s.Reaches id p m) (hop : p.opAt p.ops = op)
include h hop

theorem State.Reaches.withPkt_old (hd : 0 < (m.inst + 2 ^ 16 - p.inst) % 2 ^ 16) (hd' : (m.inst + 2 ^ 16 - p.inst) % 2 ^ 16 < 2 ^ 15) :
    s.withPkt id op f = .next ((s.dropPkt id).ackPkt p) := by
  rw [h.withPkt_eq hop, if_neg (Nat.not_le.mpr hd'), if_pos (Nat.pos_iff_ne_zero.mp hd)]

variable (hi : m.inst = p.inst) (hw : s.pktWay p m.tile = .clear)
include hi hw

theorem State.Reaches.withPkt_now : s.withPkt id op f = .next (
    match f p m s with
    | (some t, _) => t.pktDone p
    | (none, t) => t) := by
  have hd : (m.inst + 2 ^ 16 - p.inst) % 2 ^ 16 = 0 := by
    have hlt : p.inst < 2 ^ 16 := fld_lt _ 48 16
    omega
  rw [h.withPkt_eq hop, hd, if_neg (by decide), if_neg (by decide), hw]

theorem State.Reaches.withPkt_done {t u : State} (hf : f p m s = (some t, u)) : s.withPkt id op f = .next (t.pktDone p) := by
  rw [h.withPkt_now hop hi hw, hf]

theorem State.Reaches.withPkt_waits {t : State} (hf : f p m s = (none, t)) : s.withPkt id op f = .next t := by
  rw [h.withPkt_now hop hi hw, hf]

end

/-! ## Which packet is behind another -/

theorem takeWhile_before {q p : Pkt} (hne : q.id ≠ p.id) : [q, p].takeWhile (fun x => x.id != p.id) = [q] := by
  rw [List.takeWhile_cons_of_pos (by simpa using hne), List.takeWhile_cons_of_neg (by simp)]

theorem behind_pair {m : Member} {p q : Pkt} (hp : s.fes.pkts = [q, p]) (hne : q.id ≠ p.id) (hs : p.sameWay q = true) :
    s.behind (some m) p = !(p.opAt p.ops == 2 && s.uncredited m q) := by
  unfold State.behind
  rw [hp, takeWhile_before hne, List.any_cons, List.any_nil, Bool.or_false, hs, Bool.true_and]
  rfl

theorem uncredited_first {m : Member} {p q : Pkt} (hp : s.fes.pkts = [q, p]) :
    s.uncredited m q = (q.port.isNone && q.opAt q.ops == 1 && decide (256 ≤ m.inbox.length)) := by
  unfold State.uncredited
  rw [hp, List.takeWhile_cons_of_neg (by simp)]
  rfl

/-! ## Sending to ranks -/

theorem deadTo_iff {m : Member} {r : Nat} : s.deadTo m r = true ↔ s.sendPkt m r 0 0 0 [] none = .dead := by
  unfold State.deadTo
  cases s.sendPkt m r 0 0 0 [] none <;> simp

theorem sendPkt_waits {m : Member} {r op off : Nat} {w40 : Word} {pl : List Byte} {who : Option (Nat × Nat)} {dest : Word} {q : Nat}
    {t : Route} (hdest : m.rlist.getD r 0 = dest) (ht : s.sys.routes.get {} (fld dest 32 16) = t) (hq : t.out.toNat = q)
    (hp : fld dest 32 16 ≠ s.pkg) (hv : t.v = true)
    (hup : (s.sys.ports.get {} q).state = 0) (hway : s.way (dieOf m.tile) (rowOfTile m.tile) (portDie q) = .wait) :
    s.sendPkt m r op w40 off pl who = .here { s with ctr := s.ctr + 1, fes := { s.fes with pkts := s.fes.pkts ++
      [{ id := s.ctr, hdr := m.header t.hdr dest op w40 pl.length off, payload := pl, outPort := some q, src := m.tile,
         sender := who }] } } := by
  have hto : s.wayToPort (dieOf m.tile) (rowOfTile m.tile) q = .wait := (if_neg (not_not.mpr hup)).trans hway
  unfold State.sendPkt
  dsimp only
  rw [hdest, if_neg hp, ht, hq, hto, hv]
  rfl

/-! ## Transit -/

theorem fes_leftPkt (p : Pkt) : (s.leftPkt p).fes = { s.fes with members := (s.leftPkt p).fes.members } := by
  unfold State.leftPkt
  split <;> rfl

theorem pkts_dropOnly {p : Pkt} (hp : s.fes.pkts = [p]) : (s.dropPkt p.id).fes.pkts = [] := by
  change dropFirst (fun x => x.id == p.id) s.fes.pkts = []
  rw [hp]
  exact if_pos (by simp)

theorem find?_only {p : Pkt} (hp : s.fes.pkts = [p]) : s.fes.pkts.find? (fun x => x.id == p.id) = some p := by
  rw [hp]
  exact List.find?_cons_of_pos (by simp)

theorem takeWhile_only {p : Pkt} (hp : s.fes.pkts = [p]) : s.fes.pkts.takeWhile (fun x => x.id != p.id) = [] := by
  rw [hp]
  exact List.takeWhile_cons_of_neg (by simp)

theorem packetTransit_out {p : Pkt} {q : Nat} (hp : s.fes.pkts = [p]) (ho : p.outPort = some q) :
    exec (.packetTransit p.id) s = .next (
      match s.wayToPort (dieOf p.src) (rowOfTile p.src) q with
      | .wait => s
      | .clear => ((s.dropPkt p.id).putOut q p.hdr p).leftPkt p
      | .dead =>
        let t := (s.dropPkt p.id).ackPkt p
        ((s.senderOf p).map (fun m => t.memAbort m.id kDEADLINK)).getD t) := by
  refine congrArg (fun t => (Host.Outcome.next t : Out)) ?_
  rw [find?_only hp]
  dsimp only
  rw [ho]
  dsimp only
  unfold State.sendOn
  rw [takeWhile_only hp]
  rfl

theorem packetTransit_flight {p : Pkt} {q : Nat} (hp : s.fes.pkts = [p]) (ho : p.outPort = none) (hn : p.nfl ≠ 0) (hq : p.port = some q)
    (hb : s.bridge (portDie q) (portDie (fld (p.hdr.getD 0 0) 0 4)) = .clear) :
    exec (.packetTransit p.id) s = .next ((s.dropPkt p.id).putOut (fld (p.hdr.getD 0 0) 0 4)
      (word ((p.nfl - 1) * 2 ^ 60 + fld (p.hdr.getD 0 0) 0 60 / 16) :: p.hdr.drop 1) p) := by
  refine congrArg (fun t => (Host.Outcome.next t : Out)) ?_
  rw [find?_only hp]
  dsimp only
  rw [ho]
  dsimp only
  rw [takeWhile_only hp, if_neg (by simp [hn]), hq, Option.getD_some, hb]

/-! ## The rank tree -/

/-- The lowest bit set of a number below 2^16: the number is a multiple of it and not of its double (R375). -/
theorem lowBit_spec {r : Nat} (h0 : 0 < r) (h : r < 2 ^ 16) :
    ∃ j, j < 16 ∧ lowBit r = 2 ^ j ∧ r / 2 ^ j % 2 = 1 ∧ r % 2 ^ j = 0 := by
  unfold lowBit
  cases hf : (List.range 16).find? (fun j => r / 2 ^ j % 2 == 1) with
  | none =>
    exfalso
    have hz : r = 0 := by
      refine Nat.eq_of_testBit_eq fun i => ?_
      rw [Nat.zero_testBit]
      by_cases hi : i < 16
      · have := List.find?_range_eq_none.mp hf i hi
        rw [Nat.testBit_eq_decide_div_mod_eq]
        simpa using this
      · exact Nat.testBit_lt_two_pow (lt_of_lt_of_le h (Nat.pow_le_pow_right (by decide) (by omega)))
    omega
  | some j =>
    obtain ⟨hj, hr, hmin⟩ := List.find?_range_eq_some.mp hf
    refine ⟨j, List.mem_range.mp hr, rfl, by simpa using hj, ?_⟩
    refine Nat.eq_of_testBit_eq fun i => ?_
    rw [Nat.testBit_mod_two_pow, Nat.zero_testBit]
    by_cases hi : i < j
    · have := hmin i hi
      rw [Nat.testBit_eq_decide_div_mod_eq]
      simpa [hi] using this
    · simp [hi]

theorem parent_spec {m : Member} (h0 : 0 < m.rank) (h : m.rank < 2 ^ 16) :
    m.parent < m.rank ∧ ∃ j, j < 16 ∧ m.rank = m.parent + 2 ^ j ∧ m.parent % 2 ^ (j + 1) = 0 := by
  obtain ⟨j, hj, hl, hodd, hlow⟩ := lowBit_spec h0 h
  have hpos : 0 < 2 ^ j := Nat.two_pow_pos j
  have hr : m.rank = m.rank / 2 ^ j * 2 ^ j := by
    have := Nat.div_add_mod' m.rank (2 ^ j)
    omega
  have hge : 2 ^ j ≤ m.rank := by
    refine Nat.le_of_dvd h0 (Nat.dvd_of_mod_eq_zero hlow)
  unfold Member.parent
  rw [hl]
  refine ⟨by omega, j, hj, by omega, ?_⟩
  obtain ⟨k, hk⟩ : ∃ k, m.rank / 2 ^ j = 2 * k + 1 := ⟨m.rank / 2 ^ j / 2, by omega⟩
  rw [hr, hk, Nat.pow_succ, show (2 * k + 1) * 2 ^ j - 2 ^ j = k * (2 ^ j * 2) by
    rw [Nat.succ_mul, Nat.add_sub_cancel]; ring]
  exact Nat.mul_mod_left _ _

end Sys2Proof.Machine
end

section
/-!
PROOFS. O47: starting collectives, and what each packet operation does.
-/

namespace Sys2Proof

open Machine

variable {s : State}

/-! ## COLL and RLINV -/

section
variable {gu : Guard} {la : BitVec 4} {d a : Reg}

/-- What COLL and RLINV declare. -/
def collUses (s : State) (gu : Guard) (d a : Reg) (long blocking : Bool) : Uses :=
  { len := 12, on := s.guard gu, rs := [a.toNat], ws := [d.toNat], long := long, blocking := blocking }

/-- The member that a COLL hands to the FES (R373). -/
def collMember (s : State) (ga : Word) : Member :=
  { id := s.ctr + 1, asid := s.myHall.asid, secure := s.myHall.secure, hall := s.myHall.id, tile := tileOf s.cur,
    addr := ga, core := s.cur, lv := s.lv, pend := s.ctr }

variable (hp : IssuesPlain s (collUses s gu d a true false))
include hp

theorem coll_traps_align (h : (s.rg a).toNat % 128 ≠ 0) : exec (.coll gu la d a) s = .next (s.trap tALIGN (s.rg a)) := by
  have ha : s.src a = s.rg a := src_of_plain hp List.mem_cons_self
  refine runs_trap hp.toIssues ?_
  dsimp only
  rw [ha, if_pos h]

theorem coll_traps_aperture (h : (s.rg a).toNat % 128 = 0) (hg : inGlobal (s.rg a) = false) :
    exec (.coll gu la d a) s = .next (s.trap tAPERTURE (s.rg a)) := by
  have ha : s.src a = s.rg a := src_of_plain hp List.mem_cons_self
  refine runs_trap hp.toIssues ?_
  dsimp only
  rw [ha, if_neg (not_not.mpr h), if_pos (by rw [hg]; rfl)]

theorem coll_stays (h : (s.rg a).toNat % 128 = 0) (hg : inGlobal (s.rg a) = true) (hu : s.unreleased = true) :
    exec (.coll gu la d a) s = .next s := by
  have ha : s.src a = s.rg a := src_of_plain hp List.mem_cons_self
  refine runs_stays hp rfl ?_
  dsimp only
  rw [ha, if_neg (not_not.mpr h), if_neg (by rw [hg]; decide), if_pos hu]

theorem coll_performs (h : (s.rg a).toNat % 128 = 0) (hg : inGlobal (s.rg a) = true) (hu : s.unreleased = false) :
    let e : State := s.putPend (s.newPend (greg s.lv d.toNat) la.toNat 1 .other 0)
    Performs s (.coll gu la d a) (collUses s gu d a true false)
      { e with ctr := s.ctr + 2, fes := { s.fes with members := s.fes.members ++ [collMember s (s.rg a)] } } := by
  have ha : s.src a = s.rg a := src_of_plain hp List.mem_cons_self
  intro e
  refine runs_done hp ?_
  dsimp only
  rw [ha, if_neg (not_not.mpr h), if_neg (by rw [hg]; decide), if_neg (by rw [hu]; decide)]
  exact congrArg (fun lv => Res.done ({ e with ctr := s.ctr + 2, fes := { s.fes with members := s.fes.members ++
    [{ collMember s (s.rg a) with lv := lv }] } } : State)) (lv_enterPend (s.newPend (greg s.lv d.toNat) la.toNat 1 .other 0))

end

theorem rlinv_performs {gu : Guard} {d a : Reg} (hp : IssuesPlain s (collUses s gu d a false true)) :
    let mine := fun (e : Nat × Word × Nat × List Word × Nat) => e.1 == s.myHall.asid && (s.rg a == 0 || e.2.1 == s.rg a)
    let t : State := { s with fes := { s.fes with rlists := s.fes.rlists.filter (fun e => !mine e) } }
    Performs s (.rlinv gu d a) (collUses s gu d a false true) (t.wg d (word ((s.fes.rlists.filter mine).length))) := by
  have ha : s.src a = s.rg a := src_of_plain hp List.mem_cons_self
  intro mine t
  refine runs_done hp ?_
  dsimp only
  rw [ha]
  have hd (x : Word) : t.dst d x = t.wg d x := by
    have hport : t.me.port d.toNat = none := port_none_of_noPort hp.noPort (List.mem_append_right _ List.mem_cons_self)
    unfold State.dst
    rw [hport]
  exact congrArg Res.done (hd _)

/-! ## A COLL entry -/

section
variable {ch : Nat} {e : Entry}

/-- The member of a COLL entry (R374). -/
def entryMember (s : State) (ch : Nat) (e : Entry) : Member :=
  { id := s.ctr, asid := e.asid, secure := (s.chan ch).wld, addr := e.w 1, entry := some (ch, e.idx), block := e.block }

theorem exec_collEntryStart (ht : s.turn? ch = some e) (hk : e.kind = 1) :
    exec (.collEntryStart ch) s = .next (if s.badEntry e then s.rejectEntry e else
      match State.collStart { s with ctr := s.ctr + 1 } (entryMember s ch e) none with
      | .started t _ => (t.updEntry ch e.idx (fun e => { e with st := .running })).advanceHead ch
      | .failed t code x => ((t.entryFailed e code x).map (fun t => t.advanceHead ch)).getD s
      | .page t _ _ _ x => ((t.entryFailed e kPAGE x).map (fun t => t.advanceHead ch)).getD s
      | .wait x =>
        match x with
        | none => s
        | some x => s.updEntry ch e.idx (fun e => { e with block := x.block })) := by
  refine congrArg (fun t => (Host.Outcome.next t : Out)) ?_
  unfold State.startEntry
  rw [ht]
  dsimp only
  rw [if_neg (by simp [hk])]
  rfl

theorem rejectEntry_coll (hk : e.kind = 1) : s.rejectEntry e = (s.endEntry e.ch e.idx).advanceHead e.ch := by
  unfold State.rejectEntry
  rw [if_neg (by rw [hk]; decide)]

theorem entryFailed_unread (he : e.ch = ch) (code : Nat) : s.entryFailed e code none = some ((
    if code = 6 then s.setFault ch 1 else if code = 8 then s.setFault ch 2 else if code = 9 then s.setFault ch 3 else s).endEntry ch e.idx) := by
  unfold State.entryFailed
  rw [he]
  rfl

end

/-! ## The operations of a packet -/

/-- A data packet of an earlier start is dropped, and counts as accepted (R379). -/
theorem dlv_old {id : Nat} {p : Pkt} {m : Member} (h : s.Reaches id p m) (hop : p.opAt p.ops = 1)
    (hd : 0 < (m.inst + 2 ^ 16 - p.inst) % 2 ^ 16) (hd' : (m.inst + 2 ^ 16 - p.inst) % 2 ^ 16 < 2 ^ 15) :
    exec (.dlv id) s = .next ((s.dropPkt id).ackPkt p) := by
  change execDlv id s = _
  unfold execDlv
  exact h.withPkt_old hop hd hd'

section
variable {id : Nat} {p : Pkt} {m : Member} (h : s.Reaches id p m) (hi : m.inst = p.inst) (hw : s.pktWay p m.tile = .clear)
include h hi hw

theorem dlv_enters (hop : p.opAt p.ops = 1) (hc : m.st ≠ .closed) (ha : m.st ≠ .aborting) (hroom : m.inbox.length < 256) :
    exec (.dlv id) s = .next (((s.updMember m.id (fun m => { m with inbox := m.inbox ++ [p] })).ackPkt p).pktDone p) := by
  change execDlv id s = _
  unfold execDlv
  exact h.withPkt_done hop hi hw ((if_neg (by simp [hc, ha])).trans (if_neg (Nat.not_le.mpr hroom)))

theorem dlv_waits (hop : p.opAt p.ops = 1) (hc : m.st ≠ .closed) (ha : m.st ≠ .aborting) (hfull : 256 ≤ m.inbox.length) :
    exec (.dlv id) s = .next s := by
  change execDlv id s = _
  unfold execDlv
  exact h.withPkt_waits hop hi hw ((if_neg (by simp [hc, ha])).trans (if_pos hfull))

theorem dlv_dropped (hop : p.opAt p.ops = 1) (he : m.st = .closed ∨ m.st = .aborting) :
    exec (.dlv id) s = .next ((s.ackPkt p).pktDone p) := by
  change execDlv id s = _
  unfold execDlv
  exact h.withPkt_done hop hi hw (if_pos he)

section
variable (hop : p.opAt p.ops = 3) (hst : m.st = .opening)
include hop hst

theorem open_mismatch (hs : p.sig ≠ m.sig) : exec (.open_ id) s = .next ((s.memAbort m.id 2).pktDone p) := by
  change execOpen id s = _
  unfold execOpen
  exact h.withPkt_done hop hi hw ((if_neg (not_not.mpr hst)).trans (if_pos hs))

theorem open_badSched (hs : p.sig = m.sig) (hb : p.payload.getD 0 0 ≠ 0) :
    exec (.open_ id) s = .next ((s.memAbort m.id 3).pktDone p) := by
  change execOpen id s = _
  unfold execOpen
  exact h.withPkt_done hop hi hw ((if_neg (not_not.mpr hst)).trans ((if_neg (not_not.mpr hs)).trans (if_pos hb)))

theorem open_counts (hs : p.sig = m.sig) (hb : p.payload.getD 0 0 = 0) : exec (.open_ id) s =
    .next (((s.updMember m.id (fun m => { m with opens := p.rank :: m.opens })).openGate m.id).pktDone p) := by
  change execOpen id s = _
  unfold execOpen
  exact h.withPkt_done hop hi hw ((if_neg (not_not.mpr hst)).trans ((if_neg (not_not.mpr hs)).trans (if_neg (not_not.mpr hb))))

end

theorem go_runs (hop : p.opAt p.ops = 4) (hst : m.st = .opening) (ho : m.sentOpen = true) : exec (.go id) s =
    .next (((s.updMember m.id (fun m => { m with st := .running })).sendAll m 4 [] m.kids).pktDone p) := by
  change execGo id s = _
  unfold execGo
  exact h.withPkt_done hop hi hw (if_neg (by simp [hst, ho]))

theorem cup_counts (hop : p.opAt p.ops = 5) : exec (.cup id) s =
    .next (((s.updMember m.id (fun m => { m with cups := p.rank :: m.cups })).closeGate m.id).pktDone p) := by
  change execCup id s = _
  unfold execCup
  exact h.withPkt_done hop hi hw rfl

theorem cdn_closes (hop : p.opAt p.ops = 6) (hst : m.st = .closing) (hc : m.sentCup = true) : exec (.cdn id) s =
    .next (((s.sendAll m 6 [] m.kids).closeDown m.id).pktDone p) := by
  change execCdn id s = _
  unfold execCdn
  exact h.withPkt_done hop hi hw (if_neg (by simp [hst, hc]))

theorem abt_aborts (hop : p.opAt p.ops = 2) : exec (.abt id) s =
    .next ((s.memAborted m.id (p.payload.getD 0 0).toNat p.rank).pktDone p) := by
  change execAbt id s = _
  unfold execAbt
  exact h.withPkt_done hop hi hw rfl

section
variable (hop : p.opAt p.ops = 7)
include hop

theorem sig_discarded (hb : m.b 8 = 0) : exec (.sig id) s = .next ((s.ackPkt p).pktDone p) := by
  change execSig id s = _
  unfold execSig
  exact h.withPkt_done hop hi hw (if_pos hb)

theorem sig_aborts (hb : m.b 8 ≠ 0) (hm : MemAcc.sig id ∈ m.pageAborts) : exec (.sig id) s =
    .next ((((s.updMember m.id (fun m => { m with pageAborts := m.pageAborts.filter (fun a => a != .sig id) })).ackPkt p).memAbort
      m.id kPAGE).pktDone p) := by
  change execSig id s = _
  unfold execSig
  refine h.withPkt_done (u := s) hop hi hw ((if_neg hb).trans ((if_pos ?_).trans ?_))
  · rw [h.id_eq]
    exact List.contains_iff_mem.mpr hm
  · rw [h.id_eq]

theorem sig_adds (hb : m.b 8 ≠ 0) (hm : MemAcc.sig id ∉ m.pageAborts) {x : Nat} {t : State}
    (ht : s.memAdd m (ofBytes (p.payload.take 4)) = (.ok x, t)) : exec (.sig id) s = .next ((t.ackPkt p).pktDone p) := by
  change execSig id s = _
  unfold execSig
  refine h.withPkt_done (u := s) hop hi hw ((if_neg hb).trans ((if_neg ?_).trans ?_))
  · rw [h.id_eq]
    exact fun e => hm (List.contains_iff_mem.mp e)
  · rw [ht]

end

end

/-! ## Ends of members -/

section
variable {id : Nat} {m : Member} (hm : s.member? id = some m)
include hm

theorem closeDown_aborted (ha : m.abort.isSome = true) : s.closeDown id = s := by
  unfold State.closeDown
  rw [hm]
  exact if_pos ha

theorem closeDown_closes (ha : m.abort = none) :
    s.closeDown id = (s.updMember id (fun m => { m with st := .closed })).finishAll id := by
  unfold State.closeDown
  rw [hm]
  exact if_neg (by rw [ha]; decide)

theorem finishStep_running (hr : m.run ≠ []) : s.finishStep id = s := by
  unfold State.finishStep
  rw [hm]
  exact if_pos (.inr (by simpa using hr))

theorem exec_collectiveTimeout : exec (.collectiveTimeout id) s =
    .next (if m.tmo = 0 ∨ s.cycle < m.start + m.tmo * 940 then s else s.memAbort id 5) := by
  refine congrArg (fun t => (Host.Outcome.next t : Out)) ?_
  rw [hm]
  rfl

theorem exec_scheduleDecode_open (hst : m.st = .opening) (hd : m.decoded = false) (hh : s.memHeld m = none) {x : Nat} {t : State}
    (hx : s.memRead m (((m.b 0).toNat + 8 * m.sched.length) % 2 ^ 64) 64 = (.ok x, t))
    (hw : ∀ w ∈ m.sched ++ (List.range 8).map (fun i => word (x / 2 ^ (64 * i))), w.toNat / 2 ^ 60 ≠ 7) :
    exec (.scheduleDecode id) s = .next (
      if 4096 ≤ (m.sched ++ (List.range 8).map (fun i => word (x / 2 ^ (64 * i)))).length then t.memAbort id 3
      else t.updMember id (fun y => { y with sched := m.sched ++ (List.range 8).map (fun i => word (x / 2 ^ (64 * i))) })) := by
  refine congrArg (fun t => (Host.Outcome.next t : Out)) ?_
  rw [hm]
  dsimp only
  rw [if_neg (by simp [hst, hd]), hh]
  dsimp only
  rw [hx]
  dsimp only
  refine if_neg ?_
  rw [Bool.not_eq_true, List.any_eq_false]
  intro w hwm
  rw [fld_top (x := w) 60 (by norm_num), beq_iff_eq]
  exact hw w hwm

end

/-! ## What an abort leaves -/

theorem word_aborted (m : Member) (code origin : Nat) : (m.aborted code origin).word =
    word (m.inst * 2 ^ 48 + origin * 2 ^ 32 + 256 * m.flags.toNat + code) := rfl

theorem word_of_no_abort {m : Member} (h : m.abort = none) :
    m.word = word (m.inst * 2 ^ 48 + m.rank * 2 ^ 32 + 256 * m.flags.toNat + 1) := by
  unfold Member.word
  rw [h]
  rfl

theorem waits_aborted (m : Member) (code origin : Nat) :
    (m.aborted code origin).waits.map (fun w => (w.va, w.tidx)) = m.waits.map (fun w => (w.va, w.tidx)) := by
  unfold Member.aborted
  rw [List.map_map]
  rfl

theorem mem_pageAborts_aborted (m : Member) (code origin : Nat) (a : MemAcc) :
    a ∈ (m.aborted code origin).pageAborts ↔ a ∈ m.pageAborts ∧ a ≠ .sched := by
  unfold Member.aborted
  rw [List.mem_filter, bne_iff_ne]

theorem sched_notMem_accs_aborted (m : Member) (code origin : Nat) : ∀ w ∈ (m.aborted code origin).waits, MemAcc.sched ∉ w.accs := by
  intro w hw
  obtain ⟨v, -, rfl⟩ := List.mem_map.mp hw
  simp

theorem chunks_aborted (m : Member) (code origin : Nat) : ∀ e ∈ (m.aborted code origin).chunks, e.1 < 2 * 4096 :=
  fun _ he => of_decide_eq_true (List.mem_filter.mp he).2

/-- Settles O47: a start by the branches of its checks, a packet's operation by the packet's turn at its member, and the rest by
the step of the member that each names. -/
theorem collectivesAndTheirPackets : Obligations.CollectivesAndTheirPackets := by
  unfold Obligations.CollectivesAndTheirPackets
  refine ⟨⟨?coll, ?checks, ?entry⟩, ?packet, ?behind, ?send, ?member, ?waits, ?transit, ?flight, fun m => parent_spec, ?abort⟩
  case coll =>
    intro s gu la d a
    exact ⟨fun hp => ⟨coll_traps_align hp, coll_traps_aperture hp, coll_stays hp, coll_performs hp⟩, rlinv_performs⟩
  case checks =>
    intro s m l tl own ho hl
    refine ⟨fun ha => ⟨s, startChecks_notMember ho hl ha⟩, fun h ha hh ht hp => ⟨fun hb => ⟨s, ?_⟩, fun hr hn => ?_⟩⟩
    · exact startChecks_busy ho hl ha hh ht hp hb
    · exact startChecks_started ho hl ha hh ht hp hr hn
  case entry =>
    intro s ch e ht hk
    have hch := (turn?_at ht).1
    have hexec := exec_collEntryStart ht hk
    refine ⟨fun hb => ?_, fun hb => ⟨fun t n hst => ?_, fun t code hst => ?_, fun x hst => ?_, fun hst => ?_⟩⟩
    · rw [hexec, if_pos hb, rejectEntry_coll hk, hch]
    all_goals
      have hgood : ¬s.badEntry e = true := by rw [hb]; decide
      rw [hexec, if_neg hgood]
    · rw [show State.collStart { s with ctr := s.ctr + 1 } (entryMember s ch e) none = .started t n from hst]
    · rw [show State.collStart { s with ctr := s.ctr + 1 } (entryMember s ch e) none = .failed t code none from hst]
      dsimp only
      rw [entryFailed_unread hch]
      rfl
    · rw [show State.collStart { s with ctr := s.ctr + 1 } (entryMember s ch e) none = .wait (some x) from hst]
    · rw [show State.collStart { s with ctr := s.ctr + 1 } (entryMember s ch e) none = .wait none from hst]
  case packet =>
    intro s id p m hf hn ho hb hr
    have h : s.Reaches id p m := ⟨hf, hn, ho, hb, hr⟩
    refine ⟨fun hi hw => ⟨?_, fun hop => dlv_dropped h hi hw hop, ?_, fun hop => go_runs h hi hw hop, fun hop => cup_counts h hi hw hop,
      fun hop => cdn_closes h hi hw hop, fun hop => abt_aborts h hi hw hop, fun hop => sig_discarded h hi hw hop,
      fun hop => sig_aborts h hi hw hop, fun hop hb hm x t => sig_adds h hi hw hop hb hm⟩, fun hd hop => dlv_old h hop hd.1 hd.2⟩
    · exact fun hop hc ha => ⟨dlv_enters h hi hw hop hc ha, dlv_waits h hi hw hop hc ha⟩
    · exact fun hop hst => ⟨open_mismatch h hi hw hop hst, open_badSched h hi hw hop hst, open_counts h hi hw hop hst⟩
  case behind =>
    intro s m p q hp hne hs
    rw [behind_pair hp hne hs, uncredited_first hp]
    exact ⟨fun hop => by rw [beq_eq_false_iff_ne.mpr hop]; rfl, fun hop => by rw [beq_iff_eq.mpr hop, Bool.true_and]⟩
  case send =>
    intro s m op pl rs
    refine ⟨fun ⟨r, hr, hd⟩ => ?_, fun hd => ?_⟩
    · exact if_pos (List.any_eq_true.mpr ⟨r, hr, deadTo_iff.mpr hd⟩)
    · refine if_neg fun hany => ?_
      obtain ⟨r, hr, hdr⟩ := List.any_eq_true.mp hany
      exact hd r hr (deadTo_iff.mp hdr)
  case member =>
    intro s id m hm
    refine ⟨closeDown_aborted hm, closeDown_closes hm, finishStep_running hm, fun h => ?_, fun h0 hle => ?_,
      fun hst hd hh x t hx hw => ⟨fun hl => ?_, fun hl => ?_⟩⟩
    · rw [exec_collectiveTimeout hm, if_pos h]
    · rw [exec_collectiveTimeout hm, if_neg (fun e => e.elim h0 (Nat.not_lt.mpr hle))]
    · rw [exec_scheduleDecode_open hm hst hd hh hx hw, if_pos hl]
    · rw [exec_scheduleDecode_open hm hst hd hh hx hw, if_neg (Nat.not_le.mpr hl)]
  case waits =>
    intro s m r op off w40 pl who dest t q hp hv hup hway
    exact sendPkt_waits rfl rfl rfl hp hv hup hway
  case transit =>
    rintro s id p q hp rfl ho
    rw [packetTransit_out hp ho]
    refine ⟨fun hw => ?_, fun hw => ⟨_, rfl, ?_, ?_⟩⟩
    · rw [hw]
    · rw [hw, fes_leftPkt]
      exact pkts_dropOnly hp
    · rw [hw, fes_leftPkt]
      rfl
  case flight =>
    rintro s id p q hp rfl ho hn hq w out hb
    refine ⟨_, packetTransit_flight (q := q) hp ho hn hq ?_, pkts_dropOnly hp, rfl, ?_⟩
    · rw [fld_low]
      exact hb
    · rw [fld_low, fld_low]
      rfl
  case abort =>
    intro m code origin
    refine ⟨rfl, rfl, rfl, waits_aborted m code origin, fun a ha => ?_, sched_notMem_accs_aborted m code origin, ?_, rfl,
      chunks_aborted m code origin, word_of_no_abort, word_aborted m code origin⟩
    · rw [mem_pageAborts_aborted]
      exact and_iff_left ha
    · rw [mem_pageAborts_aborted]
      exact fun e => e.2 rfl

end Sys2Proof
end

section
/-!
SUPPORT. Accesses to memory leave the members of the FES alone: what they change of the FES is a watch of an entry (R356).
-/

namespace Sys2Proof.Machine

open Sys2Proof

variable {s : State}

/-- The members of the FES are the same. -/
def State.SameMembers (s t : State) : Prop := t.fes.members = s.fes.members

theorem State.SameMembers.refl (s : State) : s.SameMembers s := rfl

theorem State.SameMembers.trans {s t u : State} (h : s.SameMembers t) (h' : t.SameMembers u) : s.SameMembers u := Eq.trans h' h

theorem State.SameMembers.member? {s t : State} (h : s.SameMembers t) (id : Nat) : t.member? id = s.member? id := by
  unfold State.member?
  rw [h]

theorem foldl_sameMembers {α : Type} {f : State → α → State} (hf : ∀ (s : State) a, s.SameMembers (f s a)) (l : List α) :
    s.SameMembers (l.foldl f s) :=
  foldl_keeps s.SameMembers (fun t a h => h.trans (hf t a)) l (.refl s)

/-! ## Stacks -/

theorem hbmRead_sameMembers (line : Nat) : s.SameMembers (s.hbmRead line).2.2 := by
  rw [hbmRead_state]
  exact congrArg Fes.members (eccLine_frame s line).2

theorem readChunks_sameMembers (f : FWin) (g k : Nat) : s.SameMembers (s.readChunks f g k).2.2 := by
  induction k with
  | zero => exact .refl s
  | succ k ih => exact ih.trans (hbmRead_sameMembers _)

theorem fetchLine_sameMembers (line : Nat) : s.SameMembers (s.fetchLine line).2.2 := by
  unfold State.fetchLine
  split
  · exact hbmRead_sameMembers _
  · exact readChunks_sameMembers _ _ _

theorem hbmWrite_sameMembers (line : Nat) (d : Vec) (p : Bool) : s.SameMembers (s.hbmWrite line d p) := rfl

theorem writeChunk_sameMembers (f : FWin) (g j x : Nat) : s.SameMembers (s.writeChunk f g j x) := by
  have hread := hbmRead_sameMembers (s := s) (lineOf (f.chunk g j))
  unfold State.writeChunk
  dsimp only
  refine hread.trans ?_
  split
  · rfl
  · exact hbmWrite_sameMembers _ _ _

theorem storeLine_sameMembers (line : Nat) (d : Vec) (p : Bool) : s.SameMembers (s.storeLine line d p) := by
  unfold State.storeLine
  split
  · exact hbmWrite_sameMembers _ _ _
  · split
    · exact .refl s
    · exact (foldl_sameMembers (fun _ _ => writeChunk_sameMembers _ _ _ _) _).trans rfl

/-! ## Slices -/

theorem notify_sameMembers (l : Loc) (n : Nat) : s.SameMembers (s.notify l n) := by
  have hw : s.SameMembers (s.wake l n) := by
    rw [wake_eq]
    exact .refl s
  cases l with
  | glob pa =>
    have hfes (w : State) (es : List Entry) :
        w.SameMembers (if w.fes.entries.isEmpty then w else { w with fes := { w.fes with entries := es } }) := by
      split <;> rfl
    exact hw.trans (hfes (s.wake (.glob pa) n) _)
  | spad | vault | gal => exact hw

theorem addFails_sameMembers (l : Loc) (p : Bool) (os : List (Nat × Bool)) : s.SameMembers (s.addFails l p os) := by
  rw [addFails_eq]
  rfl

theorem dropU_sameMembers (line : Nat) (s : State) (bk : Nat) : s.SameMembers (s.dropU line bk) := rfl

theorem rawLine_sameMembers (line : Nat) : s.SameMembers (s.rawLine line).2.2 := by
  unfold State.rawLine
  split
  · exact .refl s
  · exact fetchLine_sameMembers _

theorem putRaw_sameMembers (line : Nat) (d : Vec) (p : Bool) : s.SameMembers (s.putRaw line d p) := by
  unfold State.putRaw
  split
  · rfl
  · exact storeLine_sameMembers _ _ _

theorem combine_sameMembers (line : Nat) (bays : List Nat) : s.SameMembers (s.combine line bays) := by
  have hdrop (d : Vec) (p : Bool) :=
    ((rawLine_sameMembers (s := s) line).trans (putRaw_sameMembers line d p)).trans (foldl_sameMembers (dropU_sameMembers line) bays)
  have hbump (t : State) (k : Nat) : t.SameMembers (t.bumpSsn k) := rfl
  unfold State.combine
  dsimp only
  split
  · exact .refl s
  refine .trans (.trans ?_ (hbump _ _)) (notify_sameMembers _ _)
  split
  · exact (hdrop _ _).trans (foldl_sameMembers (fun _ _ => addFails_sameMembers _ _ _) _)
  · exact hdrop _ _

theorem recall_sameMembers (line : Nat) : s.SameMembers (s.recall line) := by
  have hlose (w : State) (bk : Nat) : w.SameMembers (w.loseU line bk) :=
    (dropU_sameMembers line w bk).trans (foldl_sameMembers (fun _ _ => addFails_sameMembers _ _ _) _)
  exact (foldl_sameMembers hlose _).trans (combine_sameMembers _ _)

theorem evictLine_sameMembers (line : Nat) : s.SameMembers (s.evictLine line) := by
  have hdrop (t : State) : t.SameMembers (t.uncache line) := rfl
  unfold State.evictLine
  dsimp only
  refine (recall_sameMembers line).trans ?_
  split
  · exact .refl _
  · refine State.SameMembers.trans ?_ (hdrop _)
    split
    · exact storeLine_sameMembers _ _ _
    · exact .refl _

theorem install_sameMembers (line : Nat) (d : Vec) (p b : Bool) (h : Hint) : s.SameMembers (s.install line d p b h) := by
  have hput (t : State) (c : CLine) : t.SameMembers (t.putLine c) := rfl
  refine .trans ?_ (hput _ _)
  unfold State.makeRoom
  split
  · exact .refl s
  · exact evictLine_sameMembers _

theorem sliceRead_sameMembers (line : Nat) (h : Hint) : s.SameMembers (s.sliceRead line h).2.2 := by
  unfold State.sliceRead
  dsimp only
  refine (recall_sameMembers line).trans ?_
  split
  · rfl
  · refine (fetchLine_sameMembers line).trans ?_
    split
    · exact .refl _
    · exact install_sameMembers _ _ _ _ _

theorem sliceWrite_sameMembers (line : Nat) (d mask : Vec) (h : Hint) : s.SameMembers (s.sliceWrite line d mask h).2 := by
  have hbump (t : State) (k : Nat) : t.SameMembers (t.bumpSsn k) := rfl
  have hput (t : State) (e : Vec) (p : Bool) : t.SameMembers (((if h = .byp then t.storeLine line e p
      else t.install line e p true h).bumpSsn (homeSlice (line * 128))).notify (.glob (line * 128)) 128) := by
    refine .trans (.trans ?_ (hbump _ _)) (notify_sameMembers _ _)
    split
    · exact storeLine_sameMembers _ _ _
    · exact install_sameMembers _ _ _ _ _
  unfold State.sliceWrite
  dsimp only
  refine (recall_sameMembers line).trans ?_
  split
  · exact .trans rfl (notify_sameMembers _ _)
  · split
    · exact hput _ _ _
    · exact (fetchLine_sameMembers line).trans (hput _ _ _)

/-! ## Accesses of engines -/

theorem lineRead_sameMembers (pa n : Nat) (h : Hint) : s.SameMembers (s.lineRead pa n h).2.2 := by
  unfold State.lineRead
  split
  · exact .refl s
  · exact sliceRead_sameMembers _ _

theorem lineWrite_sameMembers (pa n x : Nat) (h : Hint) : s.SameMembers (s.lineWrite pa n x h).2 := by
  have hhost : s.SameMembers ((s.hostWrite pa n x).bumpSsn (homeSlice pa)) := rfl
  unfold State.lineWrite
  split
  · exact hhost.trans (notify_sameMembers _ _)
  · exact sliceWrite_sameMembers _ _ _ _

theorem engRead_sameMembers (placed : Bool) (r : Rqst) (kind pa n : Nat) (h : Hint) :
    s.SameMembers (s.engRead placed r kind pa n h).2 := by
  unfold State.engRead
  split
  · exact .refl s
  · exact .refl s
  · split
    · rfl
    · split
      · exact .refl s
      · exact lineRead_sameMembers _ _ _

theorem engWrite_sameMembers (placed : Bool) (r : Rqst) (kind pa n x : Nat) (h : Hint) :
    s.SameMembers (s.engWrite placed r kind pa n x h).2 := by
  unfold State.engWrite
  split
  · exact .refl s
  · exact .refl s
  · split
    · rfl
    · split
      · exact .refl s
      · split
        · exact .refl s
        · split
          · exact .refl s
          · exact lineWrite_sameMembers _ _ _ _

/-! ## Page tables -/

theorem check_sameMembers (r : Rqst) (kind pa n : Nat) : s.SameMembers (s.check r kind pa n).2 := by
  unfold State.check
  split
  · rfl
  · exact .refl s

theorem readPte_sameMembers (r : Rqst) (pa : Nat) : s.SameMembers (s.readPte r pa).2 := by
  have hcheck := check_sameMembers (s := s) { r with unit := 7 } kLoad pa 8
  unfold State.readPte
  split
  · exact .refl s
  · exact .refl s
  · dsimp only
    split
    · exact hcheck
    · split
      · exact .refl s
      · exact hcheck.trans (lineRead_sameMembers _ _ _)

theorem walkFrom_sameMembers (r : Rqst) (asid va : Nat) (acc : Acc) (pv : Bool) (lv base : Nat) :
    s.SameMembers (s.walkFrom r asid va acc pv lv base).2 := by
  induction lv generalizing s base with
  | zero =>
    have hread := readPte_sameMembers (s := s) r (base + 8 * (va / 2 ^ 16 % 32))
    unfold State.walkFrom
    dsimp only
    repeat' split
    all_goals exact hread
  | succ lv ih =>
    have hread := readPte_sameMembers (s := s) r
      (base + 8 * (va / 2 ^ (16 + if lv = 0 then 5 else if lv = 1 then 14 else 23) % if lv = 2 then 8192 else 512))
    unfold State.walkFrom
    dsimp only
    generalize s.readPte r
      (base + 8 * (va / 2 ^ (16 + if lv = 0 then 5 else if lv = 1 then 14 else 23) % if lv = 2 then 8192 else 512)) = e at hread ⊢
    split
    · exact hread
    · exact hread
    split
    · exact hread
    split
    · exact hread
    split
    · split <;> exact hread
    split
    · exact hread
    · exact hread.trans (ih _)

theorem walk_sameMembers (r : Rqst) (asid va : Nat) (acc : Acc) (pv : Bool) : s.SameMembers (s.walk r asid va acc pv).2 := by
  unfold State.walk
  dsimp only
  split
  · exact walkFrom_sameMembers _ _ _ _ _ _ _
  · exact .refl s

/-! ## Accesses of members -/

theorem colPa_sameMembers (m : Member) (va : Nat) (acc : Acc) : s.SameMembers (s.colPa m va acc).2 := by
  have hwalk := walk_sameMembers (s := s) { m.rqst with fes := true } m.asid va acc false
  unfold State.colPa
  split
  · exact .refl s
  split
  · exact .refl s
  split <;> (next h => rw [h] at hwalk; exact hwalk)

theorem colRead_sameMembers (m : Member) (va n f : Nat) : s.SameMembers (s.colRead m va n f).2 := by
  induction f generalizing s va n with
  | zero => exact .refl s
  | succ f ih =>
    have hpa := colPa_sameMembers (s := s) m va 0
    unfold State.colRead
    split
    · exact .refl s
    dsimp only
    split
    next pa t h =>
      rw [h] at hpa
      refine hpa.trans ((engRead_sameMembers false m.rqst kERead pa (min n (128 - va % 128)) .df).trans ?_)
      split
      · refine State.SameMembers.trans (ih ((va + min n (128 - va % 128)) % 2 ^ 64) (n - min n (128 - va % 128))) ?_
        split
        next h' => rw [h']; exact .refl _
        next => exact .refl _
      · exact .refl _
    next => exact hpa

theorem colWrite_sameMembers (m : Member) (o : ColOut) (f : Nat) : s.SameMembers (s.colWrite m o f).2.2 := by
  induction f generalizing s o with
  | zero => exact .refl s
  | succ f ih =>
    have hpa := colPa_sameMembers (s := s) m o.va 1
    unfold State.colWrite
    split
    · exact .refl s
    dsimp only
    split
    next pa t h =>
      rw [h] at hpa
      have hw := engWrite_sameMembers (s := t) false m.rqst kEWrite pa (min o.n (128 - o.va % 128))
        (o.x % 2 ^ (8 * min o.n (128 - o.va % 128))) .df
      refine hpa.trans ?_
      split
      next h' => rw [h'] at hw; exact hw.trans (ih _)
      next h' => rw [h'] at hw; exact hw
    next h => rw [h] at hpa; exact hpa

theorem memWrite_sameMembers (m : Member) (o : ColOut) : s.SameMembers (s.memWrite m o).2.2 := colWrite_sameMembers _ _ _

theorem getChunk_sameMembers (m : Member) (buf c : Nat) : s.SameMembers (s.getChunk m buf c).2.2 := by
  have hread := colRead_sameMembers (s := s) m (m.chunkAt buf c) (m.elems c * fmtBytes (m.fmt buf))
    (lineFuel (m.elems c * fmtBytes (m.fmt buf)))
  unfold State.getChunk State.memRead
  split
  · exact .refl s
  · dsimp only
    split <;> (next h => rw [h] at hread; exact hread)

end Sys2Proof.Machine
end

section
/-!
SUPPORT. A running member's schedule: its turn at an instruction, a chunk of an issued data instruction, and the values that a
combination leaves (R376 to R383).
-/

namespace Sys2Proof.Machine

open Sys2Proof

variable {s : State}

/-! ## A member that runs -/

theorem updFirst_congr {α : Type} {p : α → Bool} {f g : α → α} {l : List α} {x : α} (h : l.find? p = some x) (hf : f x = g x) :
    updFirst p f l = updFirst p g l := by
  induction l with
  | nil => rfl
  | cons y l ih =>
    unfold updFirst
    by_cases hy : p y = true
    · rw [List.find?_cons_of_pos hy] at h
      obtain rfl := Option.some.inj h
      rw [if_pos hy, if_pos hy, hf]
    · rw [List.find?_cons_of_neg hy] at h
      rw [if_neg hy, if_neg hy, ih h]

theorem updFirst_self {α : Type} {p : α → Bool} {f : α → α} {l : List α} {x : α} (h : l.find? p = some x) (hf : f x = x) :
    updFirst p f l = l :=
  (updFirst_congr h (g := fun x => x) hf).trans (updFirst_id p l)

theorem updMember_congr {id : Nat} {m : Member} {f g : Member → Member} (hm : s.member? id = some m) (hf : f m = g m) :
    s.updMember id f = s.updMember id g := by
  unfold State.updMember
  rw [updFirst_congr hm hf]

theorem updMember_self {id : Nat} {m : Member} {f : Member → Member} (hm : s.member? id = some m) (hf : f m = m) :
    s.updMember id f = s := by
  unfold State.updMember
  rw [updFirst_self hm hf]

theorem member?_updMember {id : Nat} {m : Member} {f : Member → Member} (hm : s.member? id = some m) (hf : ∀ m, (f m).id = m.id) :
    (s.updMember id f).member? id = some (f m) :=
  find?_updFirst (fun y => by rw [hf]) hm

theorem member?_id {id : Nat} {m : Member} (hm : s.member? id = some m) : m.id = id := by
  have := List.find?_some hm
  simpa using this

/-- A member runs, and neither its hall nor the answer to a page fault holds it (R388, R389). -/
structure State.RunsFreely (s : State) (id : Nat) (m : Member) : Prop where
  here : s.member? id = some m
  running : m.st = .running
  hall : (s.memberHall m).stop ≠ .cancel
  answered : m.pageAborts.any MemAcc.stops = false

section
variable {id : Nat} {m : Member} (h : s.RunsFreely id m)
include h

theorem State.RunsFreely.memHeld_eq : s.memHeld m = none := by
  unfold State.memHeld
  rw [if_neg h.hall, if_neg (by rw [h.answered]; decide)]

theorem State.RunsFreely.chunkStep_eq (go : Member → State) : s.chunkStep id go = .next (go m) := by
  refine congrArg (fun t => (Host.Outcome.next t : Out)) ?_
  rw [h.here]
  dsimp only
  rw [if_neg (not_not.mpr h.running), h.memHeld_eq]

theorem State.RunsFreely.runStops_eq (t : State) (k code : Nat) : t.runStops m k code = t.memAbort m.id code :=
  if_neg (by rw [h.running]; decide)

end

/-- The end of a member does not begin while it runs. -/
theorem finishAll_of_running {id : Nat} {m : Member} (hm : s.member? id = some m) (hst : m.st = .running) : s.finishAll id = s := by
  have hstep : s.finishStep id = s := by
    unfold State.finishStep
    rw [hm]
    exact if_pos (.inl (by simp [hst]))
  have hsteps (n : Nat) : s.finishSteps id n = s := by
    induction n with
    | zero => rfl
    | succ n ih => rw [State.finishSteps, hstep, ih]
  unfold State.finishAll
  rw [hm]
  exact hsteps _

theorem endRun_of_running {id : Nat} {m : Member} (hm : s.member? id = some m) (hst : m.st = .running) (k : Nat) :
    s.endRun id k = s.updMember id (fun m => { m with run := m.run.filter (fun q => q.id != k) }) :=
  finishAll_of_running (m := { m with run := m.run.filter (fun q => q.id != k) })
    (member?_updMember (f := fun m => { m with run := m.run.filter (fun q => q.id != k) }) hm (fun _ => rfl)) hst

/-! ## A chunk of an issued instruction -/

/-- An issued instruction of a running member, which no earlier one holds back (R377). -/
structure State.Turn (s : State) (id k : Nat) (m : Member) (r : RunData) : Prop extends s.RunsFreely id m where
  issued : m.run.find? (fun r => r.id == k) = some r
  first : ¬∃ q ∈ m.run.takeWhile (fun q => q.id != k), r.after m.nch q = true

section
variable {id k : Nat} {m : Member} {r : RunData}

theorem run_id (hr : m.run.find? (fun r => r.id == k) = some r) : r.id = k := by
  have := List.find?_some hr
  simpa using this

theorem State.RunsFreely.runHeld_eq (h : s.RunsFreely id m) : s.runHeld m k = none :=
  (if_pos (by rw [h.running]; decide)).trans h.memHeld_eq

theorem exec_chunkComplete_held (h : s.RunsFreely id m) (hr : m.run.find? (fun r => r.id == k) = some r)
    (hq : ∃ q ∈ m.run.takeWhile (fun q => q.id != k), r.after m.nch q = true) : exec (.chunkComplete id k) s = .next s := by
  refine congrArg (fun t => (Host.Outcome.next t : Out)) ?_
  rw [h.here]
  dsimp only
  rw [hr]
  dsimp only
  rw [h.runHeld_eq]
  exact if_pos (List.any_eq_true.mpr hq)

variable (h : s.Turn id k m r)
include h

theorem State.Turn.after_eq : (m.run.takeWhile (fun q => q.id != k)).any (fun q => r.after m.nch q) = false := by
  rw [← Bool.not_eq_true, List.any_eq_true]
  exact h.first

theorem State.Turn.completes (hd : r.c.clen.toNat ≤ r.done) : exec (.chunkComplete id k) s = .next (
    if r.unacked = 0 ∧ (!r.far ∨ Config.peerTook s.stepNo) then
      s.updMember id (fun m => { m with run := m.run.filter (fun q => q.id != k) }) else s) := by
  refine congrArg (fun t => (Host.Outcome.next t : Out)) ?_
  rw [h.here]
  dsimp only
  rw [h.issued]
  dsimp only
  rw [h.runHeld_eq, h.after_eq, if_neg (by decide)]
  dsimp only
  rw [if_pos hd, endRun_of_running h.here h.running]

theorem State.Turn.writesOn (hd : r.done < r.c.clen.toNat) (hk : r.kop ≠ 5) {o : ColOut} (ho : r.out = some o) :
    exec (.chunkComplete id k) s = .next (s.runWrite m r o) := by
  refine congrArg (fun t => (Host.Outcome.next t : Out)) ?_
  rw [h.here]
  dsimp only
  rw [h.issued]
  dsimp only
  rw [h.runHeld_eq, h.after_eq, if_neg (by decide)]
  dsimp only
  rw [if_neg (Nat.not_le.mpr hd), if_neg hk, ho]

variable (hd : r.done < r.c.clen.toNat) (ho : r.out = none)
include hd ho

theorem State.Turn.copies (hk : r.kop = 3) {x : Nat} {v : ChunkVal} {t : State}
    (hx : s.getChunk m r.c.ba.toNat ((r.first + r.done) % m.nch) = (.ok x, v, t)) :
    exec (.chunkComplete id k) s = .next (t.runPut m r v {} m.inbox) := by
  refine congrArg (fun t => (Host.Outcome.next t : Out)) ?_
  rw [h.here]
  dsimp only
  rw [h.issued]
  dsimp only
  rw [h.runHeld_eq, h.after_eq, if_neg (by decide)]
  dsimp only
  rw [if_neg (Nat.not_le.mpr hd), ho, hk]
  change (match s.getChunk m r.c.ba.toNat ((r.first + r.done) % m.nch) with
    | (.ok _, v, t) => t.runPut m r v {} m.inbox
    | (e, _, t) => s.runFail m k e t) = _
  rw [hx]

theorem State.Turn.receives (hk : r.kop = 1) :
    exec (.chunkComplete id k) s = .next (s.runTake m r ((r.first + r.done) % m.nch) (fun v rest => s.runPut m r v {} rest)) := by
  refine congrArg (fun t => (Host.Outcome.next t : Out)) ?_
  rw [h.here]
  dsimp only
  rw [h.issued]
  dsimp only
  rw [h.runHeld_eq, h.after_eq, if_neg (by decide)]
  dsimp only
  rw [if_neg (Nat.not_le.mpr hd), ho, hk]
  rfl

theorem State.Turn.reduces (hk : r.kop = 2) {x : Nat} {own : ChunkVal} {t : State}
    (hx : s.getChunk m r.c.ba.toNat ((r.first + r.done) % m.nch) = (.ok x, own, t)) :
    exec (.chunkComplete id k) s = .next (s.runTake m r ((r.first + r.done) % m.nch) (fun v rest =>
      match m.combine own v with
      | none => s.runStops m k kBADTREE
      | some (x, f) => t.runPut m r x f rest)) := by
  refine congrArg (fun t => (Host.Outcome.next t : Out)) ?_
  rw [h.here]
  dsimp only
  rw [h.issued]
  dsimp only
  rw [h.runHeld_eq, h.after_eq, if_neg (by decide)]
  dsimp only
  rw [if_neg (Nat.not_le.mpr hd), ho, hk]
  change (match s.getChunk m r.c.ba.toNat ((r.first + r.done) % m.nch) with
    | (.ok _, own, t) =>
      s.runTake m r ((r.first + r.done) % m.nch) (fun v rest =>
        match m.combine own v with
        | none => s.runStops m k kBADTREE
        | some (x, f) => t.runPut m r x f rest)
    | (e, _, t) => s.runFail m k e t) = _
  rw [hx]

end

/-! ## What a receiving instruction takes, and where a chunk is put -/

section
variable {m : Member} {r : RunData} {c : Nat} {go : ChunkVal → List Pkt → State}

theorem runTake_some {v : ChunkVal} (hi : m.incoming (m.gather r c).1 c r.c.bb.toNat = .some v) :
    s.runTake m r c go = go v (m.gather r c).2 := by
  unfold State.runTake
  dsimp only
  rw [hi]

theorem span_chunkOut {buf : Nat} {v : ChunkVal} {o : ColOut} {g : FFlags} (hv : m.chunkOut buf c v = some (o, g)) : o.span = v.span := by
  unfold Member.chunkOut at hv
  dsimp only at hv
  split at hv
  · cases hv
  · cases hv
    rfl

/-- A chunk has been written: its table entry is set, and the instruction goes on to the next (R369, R376). -/
def State.chunkWritten (t : State) (m : Member) (r : RunData) (x : ChunkEnt) : State :=
  (t.updMember m.id (fun k => { k with chunks := k.chunks.put (r.c.bb.toNat * 4096 + (r.first + r.done) % m.nch) x })).chunkDone m.id r.id

theorem runWrite_ok {k : Member} (hk : s.member? m.id = some k) (hn : k.nch = m.nch) {o o' : ColOut} {y : Nat} {t : State}
    (hw : s.memWrite m o = (.ok y, o', t)) : s.runWrite m r o = t.chunkWritten m r o.span := by
  have hsame := memWrite_sameMembers (s := s) m o
  rw [hw] at hsame
  unfold State.runWrite State.chunkWritten
  rw [hw]
  refine congrArg (fun u : State => u.chunkDone m.id r.id) (updMember_congr ((hsame.member? m.id).trans hk) ?_)
  rw [RunData.at_, hn]

theorem runWrite_page {o o' : ColOut} {va : Word} {acc why : BitVec 2} {t u : State} (hw : s.memWrite m o = (.page va acc why, o', t))
    (hu : (t.updRun m.id r.id (fun q => { q with out := some o' })).memPage m (.run r.id) va acc why = some u) : s.runWrite m r o = u := by
  unfold State.runWrite
  rw [hw]
  dsimp only
  rw [hu, Option.getD_some]

theorem runPut_some (t : State) (hm : t.member? m.id = some m) {v : ChunkVal} (f : FFlags) (rest : List Pkt) {o o' : ColOut} {g : FFlags}
    {y : Nat} {t' : State} (hv : m.chunkOut r.c.bb.toNat ((r.first + r.done) % m.nch) v = some (o, g))
    (hw : (t.updMember m.id (fun k => { k with inbox := rest, flags := (k.flags.or f).or g })).memWrite m o = (.ok y, o', t')) :
    t.runPut m r v f rest = t'.chunkWritten m r v.span := by
  have hv' : m.chunkOut r.c.bb.toNat (r.at_ m.nch) v = some (o, g) := hv
  unfold State.runPut
  rw [hv']
  dsimp only
  have hin := member?_updMember (f := fun k => { k with inbox := rest, flags := (k.flags.or f).or g }) hm (fun _ => rfl)
  rw [runWrite_ok hin rfl hw, span_chunkOut hv]

variable {id : Nat} (h : s.RunsFreely id m)
include h

theorem runTake_none (hi : m.incoming (m.gather r c).1 c r.c.bb.toNat = .none) : s.runTake m r c go =
    (s.updMember m.id (fun k => { k with inbox := (m.gather r c).2 })).updRun m.id r.id (fun q => { q with parts := (m.gather r c).1 }) := by
  unfold State.runTake
  dsimp only
  rw [hi]
  exact if_neg (by rw [h.running]; decide)

theorem runTake_mismatch (hi : m.incoming (m.gather r c).1 c r.c.bb.toNat = .mismatch) : s.runTake m r c go = s.memAbort m.id 2 := by
  unfold State.runTake
  dsimp only
  rw [hi]
  exact h.runStops_eq s r.id kMISMATCH

/-- With nothing held and nothing come in, a receiving instruction leaves its member as it was. -/
theorem runTake_nothing {k : Nat} (hr : m.run.find? (fun r => r.id == k) = some r) (hin : m.inbox = []) (hp : r.parts = []) :
    s.runTake m r c go = s := by
  have hg : m.gather r c = ([], m.inbox) := by
    unfold Member.gather
    rw [hin, hp]
    rfl
  have hm : s.member? m.id = some m := by rw [member?_id h.here]; exact h.here
  rw [runTake_none h (by rw [hg]; rfl), hg, updMember_self hm rfl]
  refine updMember_self hm ?_
  have hrun : updFirst (fun q => q.id == r.id) (fun q => { q with parts := [] }) m.run = m.run := by
    rw [run_id hr]
    refine updFirst_self hr ?_
    rw [← hp]
  rw [hrun]

theorem runPut_none (t : State) {v : ChunkVal} (f : FFlags) (rest : List Pkt)
    (hv : m.chunkOut r.c.bb.toNat ((r.first + r.done) % m.nch) v = none) : t.runPut m r v f rest = t.memAbort m.id 4 := by
  have hv' : m.chunkOut r.c.bb.toNat (r.at_ m.nch) v = none := hv
  unfold State.runPut
  rw [hv']
  exact h.runStops_eq t r.id kBADTREE

end

/-! ## Chunk indices and conflicts -/

theorem nch_pos (m : Member) : 0 < m.nch := Nat.succ_pos _

theorem cidx_of_no_loop {m : Member} (c : ChunkData) (h : m.loopOf m.pc = none) : m.cidx c = c.cidx.toNat % m.nch := by
  unfold Member.cidx
  rw [h]
  dsimp only
  rw [Int.natCast_zero, Int.zero_mul, Int.add_zero, ← Int.natCast_mod, Int.toNat_natCast]

theorem cidx_of_loop {m : Member} (c : ChunkData) {k : Nat} (h : m.loopOf m.pc = some k) :
    (m.cidx c : Int) = ((c.cidx.toNat : Int) + ((m.iters.get 0 k : Nat) : Int) * c.cstep.toInt) % (m.nch : Int) := by
  have hne : (m.nch : Int) ≠ 0 := by
    have := nch_pos m
    omega
  unfold Member.cidx
  rw [h]
  exact Int.toNat_of_nonneg (Int.emod_nonneg _ hne)

theorem after_ksig {nch : Nat} {r q : RunData} (hk : r.kop = 5) : r.after nch q = true ↔ q.c.tag = r.c.tag := by
  unfold RunData.after
  rw [if_pos hk, beq_iff_eq]

/-- An instruction that writes a chunk of a buffer stands after one that reads or writes it (R377). -/
theorem after_of_writes {nch b x : Nat} {r q : RunData} (hr : r.kop < 4) (hq : q.kop < 4) (hx : x ∈ r.chunksOf nch)
    (hx' : x ∈ q.chunksOf nch) (hb : b < 3) (hw : r.writes b = true) (hu : q.reads b = true ∨ q.writes b = true) :
    r.after nch q = true := by
  have hshared : (r.chunksOf nch).any (fun c => (q.chunksOf nch).contains c) = true :=
    List.any_eq_true.mpr ⟨x, hx, List.contains_iff_mem.mpr hx'⟩
  have hmeet : (List.range 3).any (fun b => (r.writes b && (q.reads b || q.writes b)) || (q.writes b && r.reads b)) = true :=
    List.any_eq_true.mpr ⟨b, List.mem_range.mpr hb, by rw [hw, Bool.or_eq_true_iff.mpr hu]; rfl⟩
  have hk : (q.kop != 5) = true := bne_iff_ne.mpr (by omega)
  unfold RunData.after
  dsimp only
  rw [if_neg (by omega), hshared, hmeet, hk]
  rfl

/-! ## Values -/

/-- Two spans are joined: both canonical at a level, and the whole at the next (R381). -/
def Joins (n : Nat) (x y : ChunkEnt) : Prop :=
  x.hi = y.lo ∧ ∃ l, l < 17 ∧ (x.lo % 2 ^ l = 0 ∧ x.hi = min (x.lo + 2 ^ l) n) ∧ (y.lo % 2 ^ l = 0 ∧ y.hi = min (y.lo + 2 ^ l) n) ∧
    (x.lo % 2 ^ (l + 1) = 0 ∧ y.hi = min (x.lo + 2 ^ (l + 1)) n)

theorem canonical_iff {n lo hi l : Nat} : canonical n lo hi l = true ↔ lo % 2 ^ l = 0 ∧ hi = min (lo + 2 ^ l) n := by
  unfold canonical
  rw [Bool.and_eq_true, beq_iff_eq, beq_iff_eq]

theorem joins_iff {n : Nat} {x y : ChunkEnt} : (x.hi == y.lo && (List.range 17).any (fun l =>
    canonical n x.lo x.hi l && canonical n y.lo y.hi l && canonical n x.lo y.hi (l + 1))) = true ↔ Joins n x y := by
  unfold Joins
  simp only [Bool.and_eq_true, beq_iff_eq, List.any_eq_true, List.mem_range, canonical_iff, and_assoc]

section
variable {m : Member} {a b : ChunkVal}

/-- What a combination of two chunks in their order comes to (R381). -/
def Member.joined (m : Member) (x y : ChunkVal) : ChunkVal :=
  ChunkVal.mk (m.fmt 1) (m.nodes x.fmt y.fmt x.vals y.vals).1 (ChunkEnt.mk x.span.lo y.span.hi)

theorem combine_tree (he : m.exact = false) (x y : ChunkVal) (hxy : (if b.span.hi = a.span.lo then (b, a) else (a, b)) = (x, y)) :
    (Joins m.nrank x.span y.span → ∃ f, m.combine a b = some (m.joined x y, f)) ∧
      (¬Joins m.nrank x.span y.span → m.combine a b = none) := by
  unfold Member.combine
  dsimp only
  rw [if_neg (by rw [he]; decide), hxy]
  dsimp only
  refine ⟨fun hj => ⟨(m.nodes x.fmt y.fmt x.vals y.vals).2, ?_⟩, fun hj => ?_⟩
  · rw [joins_iff.mpr hj]
    rfl
  · rw [Bool.eq_false_iff.mpr (fun e => hj (joins_iff.mp e))]
    rfl

theorem combine_exact (he : m.exact = true) :
    ∃ v, m.combine a b = some ({ fmt := m.fmt 1, vals := v, span := { lo := a.span.lo + b.span.lo, hi := 0 } }, {}) := by
  unfold Member.combine
  dsimp only
  rw [if_pos he]
  exact ⟨_, rfl⟩

variable (f g x y : Nat)

theorem node_int_sum (hi : isInt m.ty = true) (ho : m.op = 1) :
    m.node f x g y = (putI m.ty false (intVal m.ty x + intVal m.ty y), {}) := by
  unfold Member.node
  dsimp only
  rw [if_pos hi, if_pos ho]

theorem node_int_minMax (hi : isInt m.ty = true) (ho : m.op ≠ 1) : m.node f x g y = minMaxLane m.ty (m.op == 3) x y := by
  unfold Member.node
  dsimp only
  rw [if_pos hi, if_neg ho]

theorem node_fp_sum (hi : isInt m.ty = false) (ho : m.op = 1) : (m.node f x g y).1 =
    (roundF (fmtOf (m.fmt 1)) 0 false (addV 0 (decF (fmtOf f) x) (decF (fmtOf g) y)).1).1 := by
  unfold Member.node
  dsimp only
  rw [if_neg (by rw [hi]; decide), if_pos ho]

theorem toStaging_tree (he : m.exact = false) : m.toStaging f x = cvtLane f m.ty 0 false 0 x := by
  unfold Member.toStaging
  rw [if_pos (by rw [he]; rfl)]

theorem toStaging_exact (he : m.exact = true) : m.toStaging f x =
    xaccRound (m.fmt 1 == 17) (if 16 ≤ f then x else xaccAdd (m.fmt 1 == 17) 0 (decF (fmtOf f) x)) m.ty m.rm false := by
  unfold Member.toStaging
  rw [if_neg (by rw [he]; decide)]

end

section
variable {m : Member} {buf c : Nat} {v : ChunkVal}

theorem getChunk_unwritten (hb : buf ≠ 0) (hc : ∀ e ∈ m.chunks, e.1 ≠ buf * 4096 + c) :
    s.getChunk m buf c = (.stop 4, {}, s) := by
  have hf : m.chunks.find? (fun e => e.1 == buf * 4096 + c) = none := by
    rw [List.find?_eq_none]
    intro e he
    simpa using hc e he
  unfold State.getChunk Member.span?
  rw [if_neg hb, hf]
  rfl

theorem sameMembers_of_getChunk {x : ColRes} {t : State} (hx : s.getChunk m buf c = (x, v, t)) : s.SameMembers t := by
  have hsame := getChunk_sameMembers (s := s) m buf c
  rwa [hx] at hsame

theorem chunkOut_partial (ho : m.op ≠ 0) (hs : v.span ≠ m.fullSpan) : m.chunkOut 2 c v = none := if_pos ⟨rfl, ho, hs⟩

theorem chunkOut_whole (h : m.op = 0 ∨ v.span = m.fullSpan) :
    m.chunkOut 2 c v = some ({ va := m.chunkAt 2 c, n := m.elems c * fmtBytes (m.fmt 2),
                               x := joinVals (fmtBytes (m.fmt 2)) (v.vals.map (fun x => (m.toStaging v.fmt x).1)), span := v.span },
      FFlags.orAll (v.vals.map (fun x => (m.toStaging v.fmt x).2))) := by
  unfold Member.chunkOut
  dsimp only
  rw [if_neg (fun e => h.elim e.2.1 e.2.2), List.map_map, List.map_map]
  rfl

end

end Sys2Proof.Machine
end

section
/-!
PROOFS. O48: the instructions of a schedule, the chunks of its data instructions, and the values of a combination.
-/

namespace Sys2Proof

open Machine

variable {s : State}

section
variable {id : Nat} {m : Member} (h : s.RunsFreely id m)
include h

/-! ## Instructions of the schedule -/

/-- A data instruction's peer or chunks break R376 to R378. -/
def BadData (m : Member) (kop : Nat) (c : ChunkData) : Prop :=
  m.nrank ≤ m.peerOf c.peer c.prel ∨ m.nch < c.clen.toNat ∨ c.bb = 0 ∨ (kop = 1 ∧ c.ba ≠ 0) ∨ (kop = 2 ∧ m.op = 0) ∨
    (kop = 3 ∧ (c.peer ≠ 0 ∨ c.prel = true))

/-- An instruction is issued (R377). -/
def issues (s : State) (id : Nat) (r : RunData) : State :=
  State.updMember { s with ctr := s.ctr + 1 } id (fun m => { m with run := m.run ++ [r], pc := m.pc + 1 })

theorem exec_data {i : Instr} {kop : Nat} {c : ChunkData}
    (hi : (i = .ksend id c ∧ kop = 0) ∨ (i = .krecv id c ∧ kop = 1) ∨ (i = .kred id c ∧ kop = 2) ∨ (i = .kcopy id c ∧ kop = 3)) :
    (BadData m kop c → exec i s = .next (s.memAbort id 3)) ∧
      (¬BadData m kop c → exec i s =
        .next (issues s id { id := s.ctr, kop := kop, c := c, peer := m.peerOf c.peer c.prel, first := m.cidx c })) := by
  have he : exec i s = execData kop id c s := by
    rcases hi with ⟨rfl, rfl⟩ | ⟨rfl, rfl⟩ | ⟨rfl, rfl⟩ | ⟨rfl, rfl⟩ <;> rfl
  rw [he, execData, h.chunkStep_eq]
  exact ⟨fun hb => congrArg (fun t => (Host.Outcome.next t : Out)) (if_pos hb),
    fun hb => congrArg (fun t => (Host.Outcome.next t : Out)) (if_neg hb)⟩

theorem exec_kwait (tag : BitVec 7) (all : Bool) : exec (.kwait id tag all) s = .next (
    if m.run.any (fun r => all || r.c.tag == tag) then s else s.updMember id (fun m => { m with pc := m.pc + 1 })) :=
  h.chunkStep_eq _

theorem kwait_waits {tag : BitVec 7} {all : Bool} (hr : ∃ r ∈ m.run, all = true ∨ r.c.tag = tag) :
    exec (.kwait id tag all) s = .next s := by
  obtain ⟨r, hr, hc⟩ := hr
  have hany : m.run.any (fun r => all || r.c.tag == tag) = true := List.any_eq_true.mpr ⟨r, hr, by simpa using hc⟩
  rw [exec_kwait h, if_pos hany]

theorem kwait_passes {tag : BitVec 7} {all : Bool} (hr : ∀ r ∈ m.run, all = false ∧ r.c.tag ≠ tag) :
    exec (.kwait id tag all) s = .next (s.updMember id (fun m => { m with pc := m.pc + 1 })) := by
  have hany : ¬m.run.any (fun r => all || r.c.tag == tag) = true := by
    rw [Bool.not_eq_true, List.any_eq_false]
    intro r hrm
    obtain ⟨ha, ht⟩ := hr r hrm
    simp [ha, ht]
  rw [exec_kwait h, if_neg hany]

theorem ksig_stops {p : BitVec 16} {prel : Bool} (tag : BitVec 7) (val : BitVec 32) (hp : m.nrank ≤ m.peerOf p prel) :
    exec (.ksig id p prel tag val) s = .next (s.memAbort id 3) := by
  change s.chunkStep id _ = _
  rw [h.chunkStep_eq]
  exact congrArg (fun t => (Host.Outcome.next t : Out)) (if_pos hp)

theorem ksig_issues {p : BitVec 16} {prel : Bool} (tag : BitVec 7) (val : BitVec 32) (hp : m.peerOf p prel < m.nrank) :
    ∃ r : RunData, exec (.ksig id p prel tag val) s = .next (issues s id r) ∧ r.kop = 5 ∧ r.c.tag = tag ∧ r.peer = m.peerOf p prel ∧
      r.sigVal = val ∧ r.done = 0 ∧ r.id = s.ctr := by
  refine ⟨{ id := s.ctr, kop := 5, c := { (default : ChunkData) with tag := tag, clen := 1 }, peer := m.peerOf p prel, sigVal := val },
    ?_, rfl, rfl, rfl, rfl, rfl, rfl⟩
  change s.chunkStep id _ = _
  rw [h.chunkStep_eq]
  exact congrArg (fun t => (Host.Outcome.next t : Out)) (if_neg (Nat.not_le.mpr hp))

theorem exec_kloop (count disp : BitVec 16) : exec (.kloop id count disp) s = .next (
    if m.iters.get 0 m.pc + 1 < count.toNat then s.updMember id (fun k =>
      { k with iters := k.iters.put k.pc (m.iters.get 0 m.pc + 1), pc := ((k.pc : Int) + disp.toInt).toNat })
    else s.updMember id (fun m => { m with iters := m.iters.put m.pc 0, pc := m.pc + 1 })) :=
  h.chunkStep_eq _

theorem exec_kend : exec (.kend id) s = .next (
    if m.run.isEmpty then (s.updMember id (fun m => { m with st := .closing })).closeGate id else s) :=
  h.chunkStep_eq _

/-! ## Chunks of an issued instruction -/

/-- A value is put where it belongs: it aborts its member where no chunk may take it, and is written where memory takes it. -/
def Puts (s : State) (id k : Nat) (m : Member) (r : RunData) (t : State) (v : ChunkVal) (f : FFlags) (rest : List Pkt) : Prop :=
  (m.chunkOut r.c.bb.toNat ((r.first + r.done) % m.nch) v = none → exec (.chunkComplete id k) s = .next (t.memAbort m.id 4)) ∧
    ∀ o g, m.chunkOut r.c.bb.toNat ((r.first + r.done) % m.nch) v = some (o, g) → ∀ y o' t',
      (t.updMember m.id (fun k => { k with inbox := rest, flags := (k.flags.or f).or g })).memWrite m o = (.ok y, o', t') →
      exec (.chunkComplete id k) s = .next (t'.chunkWritten m r v.span)

theorem puts_of_runPut {k : Nat} {r : RunData} {t : State} {v : ChunkVal} {f : FFlags} {rest : List Pkt}
    (hs : s.SameMembers t) (he : exec (.chunkComplete id k) s = .next (t.runPut m r v f rest)) : Puts s id k m r t v f rest := by
  refine ⟨fun hv => ?_, fun o g hv y o' t' hw => ?_⟩
  · rw [he, runPut_none h t f rest hv]
  · have hm : t.member? m.id = some m := by rw [hs.member?, member?_id h.here, h.here]
    rw [he, runPut_some t hm f rest hv hw]

end

section
variable {id k : Nat} {m : Member} {r : RunData} (h : s.Turn id k m r) (hd : r.done < r.c.clen.toNat) (ho : r.out = none)
include h hd ho

theorem copy_puts (hk : r.kop = 3) (x : Nat) (v : ChunkVal) (t : State)
    (hx : s.getChunk m r.c.ba.toNat ((r.first + r.done) % m.nch) = (.ok x, v, t)) : Puts s id k m r t v {} m.inbox :=
  puts_of_runPut h.toRunsFreely (sameMembers_of_getChunk hx) (h.copies hd ho hk hx)

theorem reduce_puts (hk : r.kop = 2) (x : Nat) (own : ChunkVal) (t : State) (v : ChunkVal)
    (hx : s.getChunk m r.c.ba.toNat ((r.first + r.done) % m.nch) = (.ok x, own, t))
    (hi : m.incoming (m.gather r ((r.first + r.done) % m.nch)).1 ((r.first + r.done) % m.nch) r.c.bb.toNat = .some v) :
    (m.combine own v = none → exec (.chunkComplete id k) s = .next (s.memAbort m.id 4)) ∧
      ∀ w f, m.combine own v = some (w, f) → Puts s id k m r t w f (m.gather r ((r.first + r.done) % m.nch)).2 := by
  have he := h.reduces hd ho hk hx
  rw [runTake_some hi] at he
  refine ⟨fun hc => ?_, fun w f hc => puts_of_runPut h.toRunsFreely (sameMembers_of_getChunk hx) ?_⟩
  · rw [he, hc]
    exact congrArg (fun t => (Host.Outcome.next t : Out)) (h.toRunsFreely.runStops_eq s k kBADTREE)
  · rw [he, hc]

variable (hk : r.kop = 1)
include hk

theorem recv_nothing (hin : m.inbox = []) (hp : r.parts = []) : exec (.chunkComplete id k) s = .next s := by
  rw [h.receives hd ho hk, runTake_nothing h.toRunsFreely h.issued hin hp]

theorem recv_none
    (hi : m.incoming (m.gather r ((r.first + r.done) % m.nch)).1 ((r.first + r.done) % m.nch) r.c.bb.toNat = .none) :
    exec (.chunkComplete id k) s = .next (
      (s.updMember m.id (fun k => { k with inbox := (m.gather r ((r.first + r.done) % m.nch)).2 })).updRun m.id r.id
        (fun q => { q with parts := (m.gather r ((r.first + r.done) % m.nch)).1 })) := by
  rw [h.receives hd ho hk, runTake_none h.toRunsFreely hi]

theorem recv_mismatch
    (hi : m.incoming (m.gather r ((r.first + r.done) % m.nch)).1 ((r.first + r.done) % m.nch) r.c.bb.toNat = .mismatch) :
    exec (.chunkComplete id k) s = .next (s.memAbort m.id 2) := by
  rw [h.receives hd ho hk, runTake_mismatch h.toRunsFreely hi]

theorem recv_puts (v : ChunkVal)
    (hi : m.incoming (m.gather r ((r.first + r.done) % m.nch)).1 ((r.first + r.done) % m.nch) r.c.bb.toNat = .some v) :
    Puts s id k m r s v {} (m.gather r ((r.first + r.done) % m.nch)).2 := by
  refine puts_of_runPut h.toRunsFreely (.refl s) ?_
  rw [h.receives hd ho hk, runTake_some hi]

end

/-- Settles O48: an instruction by the member's turn at it, a chunk by the turn of its instruction, and a value by the branches of
the function that gives it. -/
theorem collectiveChunks : Obligations.CollectiveChunks := by
  unfold Obligations.CollectiveChunks
  refine ⟨⟨?chunks, fun m c => ⟨cidx_of_no_loop c, fun k => cidx_of_loop c⟩,
    fun nch r q => ⟨after_ksig, fun hr hq x b => after_of_writes hr hq⟩⟩, ?combine, ?node, ?staging, ?table⟩
  case chunks =>
    intro s id m hm hst hstop hab
    have h : s.RunsFreely id m := ⟨hm, hst, hstop, hab⟩
    refine ⟨fun i kop c hi => exec_data h hi, fun tag all => ⟨kwait_waits h, kwait_passes h⟩,
      fun p prel tag val => ⟨ksig_stops h tag val, ksig_issues h tag val⟩, fun count disp => ⟨fun hi => ?_, fun hi => ?_⟩,
      fun hr => ?_, fun hr => ?_, fun k r hr => ⟨exec_chunkComplete_held h hr, fun hq hd hu ht => ?_, fun hq hd hu => ?_,
        fun hq hd hk o ho => ?_, fun hq hd ho => ?_⟩⟩
    · rw [exec_kloop h, if_pos hi]
    · rw [exec_kloop h, if_neg (Nat.not_lt.mpr hi)]
    · rw [exec_kend h, if_pos (by simpa using hr)]
    · rw [exec_kend h, if_neg (by simpa using hr)]
    · have hturn : s.Turn id k m r := ⟨h, hr, hq⟩
      rw [hturn.completes hd, if_pos ⟨hu, by simpa using ht⟩]
    · have hturn : s.Turn id k m r := ⟨h, hr, hq⟩
      have hwait : ¬(r.unacked = 0 ∧ (!r.far ∨ Config.peerTook s.stepNo)) := fun e => hu.elim (· e.1) (· (by simpa using e.2))
      rw [hturn.completes hd, if_neg hwait]
    · have hturn : s.Turn id k m r := ⟨h, hr, hq⟩
      refine ⟨fun y o' t hw => ?_, fun va acc why o' t u hw hu => ?_⟩
      · rw [hturn.writesOn hd hk ho, runWrite_ok (by rw [member?_id hm, hm]) rfl hw]
        rfl
      · rw [hturn.writesOn hd hk ho, runWrite_page hw hu]
    · have hturn : s.Turn id k m r := ⟨h, hr, hq⟩
      exact ⟨copy_puts hturn hd ho, reduce_puts hturn hd ho, fun hk hin hp => recv_nothing hturn hd ho hk hin hp,
        fun hk hi => recv_none hturn hd ho hk hi, fun hk hi => recv_mismatch hturn hd ho hk hi, recv_puts hturn hd ho⟩
  case combine =>
    intro m a b
    exact ⟨fun he hab => combine_tree he a b (if_neg hab), fun he hab => combine_tree he b a (if_pos hab), combine_exact⟩
  case node => exact fun m f g x y => ⟨node_int_sum f g x y, node_int_minMax f g x y, node_fp_sum f g x y⟩
  case staging =>
    intro m f x
    refine ⟨toStaging_tree f x, fun he hf => ?_, fun he hf => ?_⟩
    · rw [toStaging_exact f x he, if_pos hf]
    · rw [toStaging_exact f x he, if_neg (Nat.not_le.mpr hf)]
  case table =>
    intro s m buf c v
    exact ⟨fun hb hc => ⟨_, getChunk_unwritten hb hc⟩, chunkOut_partial, fun hw => ⟨_, _, chunkOut_whole hw, rfl, rfl, rfl, rfl, rfl⟩⟩

end Sys2Proof
end
